-- ==== Sys2Proof/Config.lean ====
section
/-!
DEFINITION. What an implementation of the ZX32 fixes and the manual does not: free values, each an opaque constant of
which nothing can be proved. Every one of them is named in the assumption log.
-/
namespace Sys2Proof.Config

/-- Which of the enabled steps comes next (R7, R11, R56): indexed by the step counter State.tick (notes/assumptions/1.md). -/
opaque pick : Nat → Nat

/-- Core cycles that pass before a step: indexed by State.tick (R59 CYC; notes/assumptions/2.md). -/
opaque elapsed : Nat → Nat

/-- Countable watchdog cycles that an issued handler instruction adds beyond its own one (R296; notes/assumptions/3.md). -/
opaque watchCycles : Nat → Nat

/-- The request ID a controller would like to give a page request (R331; notes/assumptions/4.md). -/
opaque requestId : Nat → Nat

/-- Cycles from a word's issue to the first cycle in which the strand's next word has its operands, indexed by State.tick (R11,
R90; notes/assumptions/2.md). -/
opaque latency : Nat → Nat
/-- The bank of a core's pool that holds a byte (R12; notes/assumptions/66.md). -/
opaque poolBank : Nat → Nat
/-- The quad whose bed slice is the home of a die-local line (R275; notes/assumptions/6.md): argument vf * 2^50 + line. -/
opaque homeSlice : Nat → Nat

/-- The bank of a bed column that holds a line (R274; notes/assumptions/6.md). -/
opaque bedBank : Nat → Nat
/-- The set of a bed column in which a line stands: argument vf * 2^50 + line (notes/assumptions/6.md). -/
opaque bedSet : Nat → Nat
/-- Which line a full L1 or bed column gives up (notes/assumptions/6.md). -/
opaque victim : Nat → Nat

/-- Whether a quad's instruction cache still holds a line that it has fetched (R11; notes/assumptions/91.md): indexed by State.tick. -/
opaque icacheKeeps : Nat → Bool

/-- The flits of a request or a response that a link has lost, which the manual does not give (R299, R364; notes/assumptions/99.md):
indexed by State.tick. -/
opaque lostFlits : Nat → Nat

/-- Which of the poisoned lanes of a vector load is met first, of so many (R142; notes/assumptions/67.md). -/
opaque laneOrder : Nat → Nat → Nat

/-- For overlapping copies: whether an element is read before the copy's own write to it shows (R205; notes/assumptions/5.md). -/
opaque copyReadsOld : Nat → Nat → Bool

/-- The latency term D of a promise for a side whose place no translation gives at issue (R208; notes/assumptions/11.md). -/
opaque promiseDelay : Nat → Nat

/-- How far a pipe is filled once software has stored to its counts (R191; notes/assumptions/62.md). -/
opaque pipeFill : Nat → Nat
/-- What PADV leaves in a count of such a pipe (R191; notes/assumptions/62.md). -/
opaque pipeCount : Nat → Nat

/-- Whether a store that is reported lost was performed (R363; notes/assumptions/12.md). -/
opaque lostPerformed : Nat → Bool

/-- Whether a lost request of a strand that waits on another one is its oldest store (R363; notes/assumptions/94.md). -/
opaque lostStore : Nat → Bool

/-- Whether the lost request of a strand that has no other outstanding is its instruction fetch (R363; notes/assumptions/94.md). -/
opaque lostFetch : Nat → Bool

/-- The logical package to which a job's load-summary token goes next (R292; notes/assumptions/43.md): argument the job. -/
opaque nextPackage : Nat → Nat

/-- The two hash functions of the L1 directory (R275; notes/assumptions/6.md). -/
opaque dirHash1 : Nat → Nat
/-- The second directory hash (R275). -/
opaque dirHash2 : Nat → Nat
/-- Which of the four entries of a full bucket a cuckoo insertion moves (R275). -/
opaque dirVictim : Nat → Nat

/-- The quad whose router serves a die's torus port; argument 4 * die + direction (R16, R300; notes/assumptions/7.md). -/
opaque edgeQuad : Nat → Nat
/-- Whether the shared buffers of the next hop are full (R301; notes/assumptions/7.md). -/
opaque sharedFull : Nat → Bool

/-- The lanes of a die-to-die link, whose number the manual does not give (R362; notes/assumptions/79.md). -/
opaque dieLanes : Nat
/-- What a read of a write-only register returns (R326, R385; notes/assumptions/80.md): indexed by State.tick. -/
opaque writeOnly : Nat → BitVec 64

/-- SHA3-384, a standard the manual names only (R339; notes/assumptions/8.md). -/
opaque sha3_384 : List (BitVec 8) → List (BitVec 8)
/-- The fields of a firmware image's header that R338 checks; the manual does not give their places in the image. -/
structure ImageHeader where
  component : Nat
  version : Nat
  svn : Nat
  length : Nat
  digest : List (BitVec 8)
deriving DecidableEq, Repr, Inhabited

/-- The header of a firmware image (R338; notes/assumptions/8.md). -/
opaque imageHeader : List (BitVec 8) → ImageHeader
/-- The bytes of payload that an image holds (R338). -/
opaque payloadBytes : List (BitVec 8) → Nat
/-- Whether an image's Falcon-1024 signature, a standard the manual names only, verifies under a key of its digest (R338). -/
opaque signatureOk : List (BitVec 8) → Bool
/-- The fused security-version minimum of a component (R338). -/
opaque fusedSvn : Nat → Nat
/-- The fused key digest of a component (R338). -/
opaque fusedDigest : Nat → List (BitVec 8)
/-- The firmware image in a flash slot as the package is delivered: 2 * component + slot (R396; notes/assumptions/9.md). -/
opaque flashImage : Nat → List (BitVec 8)

/-- The bytes of an SPDM answer whose format the manual names only (R339; notes/assumptions/8.md): request code, function, content. -/
opaque spdmBytes : Nat → Nat → List (BitVec 8) → List (BitVec 8)
/-- Whether a bring-up stage fails (R397; notes/assumptions/9.md). -/
opaque stageFails : Nat → Bool
/-- Dies whose channels fail training at stage 4 (R397). -/
opaque untrainedDies : Nat → List Nat
/-- Links with lanes that fail training at stages 4 and 5, each with the lanes that are good (R397; notes/assumptions/9.md). -/
opaque untrainedLanes : Nat → List (Nat × BitVec 64)
end Sys2Proof.Config
end

