-- ==== Sys2Proof/Word.lean ====
section
/-!
DEFINITION. The word types of the ZX32 and their plainest arithmetic (spec/00_scope.md R3, spec/03_state.md R38).
-/
namespace Sys2Proof

/-- A byte: the unit of every memory (R3, R257). -/
abbrev Byte := BitVec 8

/-- An instruction word (R69). -/
abbrev Word32 := BitVec 32

/-- A scalar register, a reference word, a system register (R24, R38). -/
abbrev Word64 := BitVec 64

/-- A vector register (R38, R39). -/
abbrev Vec := BitVec 512

/-- The first address above the 56-bit address space (R21). -/
def addrTop : Nat := 2 ^ 56

/-- The number of bytes of one core's pool (spec/01_machine.md, "The core"). -/
def poolBytes : Nat := 131072

/-- A truth value as a 64-bit 0 or 1. -/
def bit64 (b : Bool) : Word64 := if b then 1#64 else 0#64

/-- Bits [hi:lo] of a word as a number. -/
def bitsNat (w : Word64) (hi lo : Nat) : Nat := (w.toNat >>> lo) % 2 ^ (hi + 1 - lo)

/-- A number placed as bits of a 64-bit word, from bit `lo` up. -/
def field64 (n lo : Nat) : Word64 := BitVec.ofNat 64 (n <<< lo)

/-- Bit n of a word. -/
def bitAt (w : Word64) (n : Nat) : Bool := w.getLsbD n

/-- Euclidean ceiling of a quotient of naturals (Ceil of R245). -/
def ceilDiv (a b : Nat) : Nat := (a + b - 1) / b

end Sys2Proof
end

