-- ==== Sys2Proof/Machine/FMap.lean ====
section
/-!
DEFINITION. Plain-data maps: a list of (key, value) pairs with strictly rising keys. State holds every indexed family of
units this way (strands, cores, quads, partitions, jobs), with an entry only for a unit that has left its reset value.
-/
namespace Sys2Proof.Machine

/-- A map from numbers to values as a sorted list of pairs. -/
abbrev FMap (α : Type) := List (Nat × α)

namespace FMap

/-- The value listed at a key. -/
def get? {α : Type} (m : FMap α) (k : Nat) : Option α :=
  match m with
  | [] => none
  | (j, a) :: r => if j = k then some a else get? r k

/-- Replaces or inserts the value at a key, keeping the keys rising. -/
def set {α : Type} (m : FMap α) (k : Nat) (v : α) : FMap α :=
  match m with
  | [] => [(k, v)]
  | (j, a) :: r => if k < j then (k, v) :: (j, a) :: r else if k = j then (k, v) :: r else (j, a) :: set r k v

/-- Removes the entry at a key. -/
def erase {α : Type} (m : FMap α) (k : Nat) : FMap α :=
  match m with
  | [] => []
  | (j, a) :: r => if j = k then r else (j, a) :: erase r k

/-- The value at a key, or a default. -/
def getD {α : Type} (m : FMap α) (k : Nat) (d : α) : α := (get? m k).getD d

/-- Applies a function to every listed value. -/
def map {α : Type} (m : FMap α) (f : Nat → α → α) : FMap α := List.map (fun p => (p.1, f p.1 p.2)) m

/-- Keys rise strictly. -/
def wf {α : Type} (m : FMap α) : Bool :=
  match m with
  | [] => true
  | [_] => true
  | (j, _) :: (k, b) :: r => decide (j < k) && wf ((k, b) :: r)

end FMap

end Sys2Proof.Machine
end

