-- ==== Sys2Proof/Syntax.lean ====
section
/-!
DEFINITION. The syntax of the ZX32: one constructor per row of spec/opcode_table.json. The first 282 are the instruction
words of Ubdun (spec/04_encoding.md to spec/10_ref_system.md); the others are the rows without a word, the steps the
device, its host, its board and its environment take (spec/95_what_each_step_holds.md), with what names each of them.
-/
namespace Sys2Proof

/-- The element types and codes of the t field (R85, R145): codes 0 to 13 in this order. -/
inductive EType where
  | s8 | s16 | s32 | s64 | z8 | z16 | z32 | z64 | bf16 | f16 | f32 | c8a | c8b | c4
deriving DecidableEq, Repr

/-- The ordering codes of R73. -/
inductive MOrd where
  | rlx | acq | rel | ar
deriving DecidableEq, Repr

/-- The scope codes of R73, core to system (R9). -/
inductive Scope where
  | c | q | d | p | s
deriving DecidableEq, Repr

/-- The system registers of R59, in the order of their numbers 0x00 to 0x12. -/
inductive SysReg where
  | status | tcause | tpc | tval | tvec | utvec | deleg | cyc | strand | lineage | job | part | fflags | frm
  | eallow | qperiod | tblsel | wavestat | drycnt
deriving DecidableEq, Repr

/-- What an operation packet asks of the home that performs it (R111, R124): a read, a write, or an atomic by its
operation code of R124 (0x00 add to 0x0a fadd). -/
inductive PktOp where
  | read
  | write (data : Word64)
  | atomic (op : Nat) (data expected : Word64)
deriving DecidableEq, Repr

/-- An operation packet from another package (R111, R337): the function, the logical package ID the sender used, the
physical address of the byte, the width, and the operation. -/
structure OpPacket where
  vf : Nat
  lpkg : Nat
  addr : Nat
  n : Nat
  op : PktOp
deriving DecidableEq, Repr

/-- The load-summary token of R292: its job, the function and the logical package ID that its sender used (R337), and the logical
packages asking, oldest first; records travel as packets of their own. -/
structure Token where
  job : Nat
  vf : Nat
  lpkg : Nat
  requests : List Nat
deriving DecidableEq, Repr

/-- The rails of R391. -/
inductive Rail where
  | vddc (die : Nat)
  | vddb (die : Nat)
  | vdds
  | vddp
  | vmgt
deriving DecidableEq, Repr

/-- One constructor per row of spec/opcode_table.json. For an instruction word the arguments are its fields, in the
table's order; for the other rows they say which strand (u), core, quad (q), die, job, function (fn: none is the physical
function) or packet (p) the step concerns, and what arrives from outside with it. -/
inductive Instr where
  /-- Sets g[d] to g[a] + g[b] modulo 2^64 (R92). -/
  | add (d : BitVec 5) (a : BitVec 5) (b : BitVec 5)
  /-- Sets g[d] to g[a] − g[b] modulo 2^64 (R92). -/
  | sub (d : BitVec 5) (a : BitVec 5) (b : BitVec 5)
  /-- Sets g[d] to the bitwise AND of g[a] and g[b] (R92). -/
  | and (d : BitVec 5) (a : BitVec 5) (b : BitVec 5)
  /-- Sets g[d] to the bitwise OR of g[a] and g[b] (R92). -/
  | or (d : BitVec 5) (a : BitVec 5) (b : BitVec 5)
  /-- Sets g[d] to the bitwise XOR of g[a] and g[b] (R92). -/
  | xor (d : BitVec 5) (a : BitVec 5) (b : BitVec 5)
  /-- Sets g[d] to 1 when g[a] < g[b] as signed numbers, and to 0 otherwise (R92). -/
  | slt (d : BitVec 5) (a : BitVec 5) (b : BitVec 5)
  /-- Sets g[d] to 1 when g[a] < g[b] as unsigned numbers, and to 0 otherwise (R92). -/
  | sltz (d : BitVec 5) (a : BitVec 5) (b : BitVec 5)
  /-- Shifts g[a] left by g[b][5:0] (R92). -/
  | sll (d : BitVec 5) (a : BitVec 5) (b : BitVec 5)
  /-- Shifts g[a] right logically by g[b][5:0] (R92). -/
  | srl (d : BitVec 5) (a : BitVec 5) (b : BitVec 5)
  /-- Shifts g[a] right arithmetically by g[b][5:0] (R92). -/
  | sra (d : BitVec 5) (a : BitVec 5) (b : BitVec 5)
  /-- Rotates g[a] left by g[b][5:0] (R92). -/
  | rol (d : BitVec 5) (a : BitVec 5) (b : BitVec 5)
  /-- Rotates g[a] right by g[b][5:0] (R92). -/
  | ror (d : BitVec 5) (a : BitVec 5) (b : BitVec 5)
  /-- Adds the low words of g[a] and g[b] and sign-extends the 32-bit sum (R92). -/
  | addS32 (d : BitVec 5) (a : BitVec 5) (b : BitVec 5)
  /-- Adds the low words of g[a] and g[b] and zero-extends the 32-bit sum (R92). -/
  | addZ32 (d : BitVec 5) (a : BitVec 5) (b : BitVec 5)
  /-- Subtracts the low words and sign-extends the 32-bit result (R92). -/
  | subS32 (d : BitVec 5) (a : BitVec 5) (b : BitVec 5)
  /-- Subtracts the low words and zero-extends the 32-bit result (R92). -/
  | subZ32 (d : BitVec 5) (a : BitVec 5) (b : BitVec 5)
  /-- Shifts the low word left by g[b][4:0] and sign-extends the result (R92). -/
  | sllS32 (d : BitVec 5) (a : BitVec 5) (b : BitVec 5)
  /-- Shifts the low word left by g[b][4:0] and zero-extends the result (R92). -/
  | sllZ32 (d : BitVec 5) (a : BitVec 5) (b : BitVec 5)
  /-- Shifts the low word right logically and sign-extends the result (R92). -/
  | srlS32 (d : BitVec 5) (a : BitVec 5) (b : BitVec 5)
  /-- Shifts the low word right logically and zero-extends the result (R92). -/
  | srlZ32 (d : BitVec 5) (a : BitVec 5) (b : BitVec 5)
  /-- Shifts the low word right arithmetically and sign-extends the result (R92). -/
  | sraS32 (d : BitVec 5) (a : BitVec 5) (b : BitVec 5)
  /-- Shifts the low word right arithmetically and zero-extends the result (R92). -/
  | sraZ32 (d : BitVec 5) (a : BitVec 5) (b : BitVec 5)
  /-- Rotates the low word left and sign-extends the result (R92). -/
  | rolS32 (d : BitVec 5) (a : BitVec 5) (b : BitVec 5)
  /-- Rotates the low word left and zero-extends the result (R92). -/
  | rolZ32 (d : BitVec 5) (a : BitVec 5) (b : BitVec 5)
  /-- Rotates the low word right and sign-extends the result (R92). -/
  | rorS32 (d : BitVec 5) (a : BitVec 5) (b : BitVec 5)
  /-- Rotates the low word right and zero-extends the result (R92). -/
  | rorZ32 (d : BitVec 5) (a : BitVec 5) (b : BitVec 5)
  /-- Adds the sign-extended immediate to g[a] (R93). -/
  | addi (d : BitVec 5) (a : BitVec 5) (i : BitVec 16)
  /-- ANDs g[a] with the zero-extended immediate (R93). -/
  | andi (d : BitVec 5) (a : BitVec 5) (i : BitVec 16)
  /-- ORs g[a] with the zero-extended immediate (R93). -/
  | ori (d : BitVec 5) (a : BitVec 5) (i : BitVec 16)
  /-- XORs g[a] with the zero-extended immediate (R93). -/
  | xori (d : BitVec 5) (a : BitVec 5) (i : BitVec 16)
  /-- Compares g[a] with the sign-extended immediate as signed numbers (R93). -/
  | slti (d : BitVec 5) (a : BitVec 5) (i : BitVec 16)
  /-- Compares g[a] with the sign-extended immediate as unsigned numbers (R93). -/
  | sltiz (d : BitVec 5) (a : BitVec 5) (i : BitVec 16)
  /-- Shifts g[a] left by the immediate amount sh (R94). -/
  | slli (d : BitVec 5) (a : BitVec 5) (s : BitVec 6)
  /-- Shifts g[a] right logically by sh (R94). -/
  | srli (d : BitVec 5) (a : BitVec 5) (s : BitVec 6)
  /-- Shifts g[a] right arithmetically by sh (R94). -/
  | srai (d : BitVec 5) (a : BitVec 5) (s : BitVec 6)
  /-- Rotates g[a] right by sh (R94). -/
  | rori (d : BitVec 5) (a : BitVec 5) (s : BitVec 6)
  /-- Shifts the low word left by sh and sign-extends the result (R94). -/
  | slliS32 (d : BitVec 5) (a : BitVec 5) (s : BitVec 5)
  /-- Shifts the low word left by sh and zero-extends the result (R94). -/
  | slliZ32 (d : BitVec 5) (a : BitVec 5) (s : BitVec 5)
  /-- Shifts the low word right logically by sh and sign-extends the result (R94). -/
  | srliS32 (d : BitVec 5) (a : BitVec 5) (s : BitVec 5)
  /-- Shifts the low word right logically by sh and zero-extends the result (R94). -/
  | srliZ32 (d : BitVec 5) (a : BitVec 5) (s : BitVec 5)
  /-- Shifts the low word right arithmetically by sh and sign-extends the result (R94). -/
  | sraiS32 (d : BitVec 5) (a : BitVec 5) (s : BitVec 5)
  /-- Shifts the low word right arithmetically by sh and zero-extends the result (R94). -/
  | sraiZ32 (d : BitVec 5) (a : BitVec 5) (s : BitVec 5)
  /-- Rotates the low word right by sh and sign-extends the result (R94). -/
  | roriS32 (d : BitVec 5) (a : BitVec 5) (s : BitVec 5)
  /-- Rotates the low word right by sh and zero-extends the result (R94). -/
  | roriZ32 (d : BitVec 5) (a : BitVec 5) (s : BitVec 5)
  /-- Shifts g[a] left by 16 and places the immediate below it (R95). -/
  | lih (d : BitVec 5) (a : BitVec 5) (i : BitVec 16)
  /-- Sets g[d] to PC plus the immediate times 65,536, and traps beyond the address space (R96). -/
  | pcrel (d : BitVec 5) (i : BitVec 16)
  /-- Sets g[d] to the low 64 bits of the product (R97). -/
  | mul (d : BitVec 5) (a : BitVec 5) (b : BitVec 5)
  /-- Sets g[d] to the high 64 bits of the signed product (R97). -/
  | mulhiS64 (d : BitVec 5) (a : BitVec 5) (b : BitVec 5)
  /-- Sets g[d] to the high 64 bits of the unsigned product (R97). -/
  | mulhiZ64 (d : BitVec 5) (a : BitVec 5) (b : BitVec 5)
  /-- Sets g[d] to the high 64 bits of the product of signed g[a] and unsigned g[b] (R97). -/
  | mulhm (d : BitVec 5) (a : BitVec 5) (b : BitVec 5)
  /-- Divides as signed 64-bit numbers; division never traps (R98) (R97). -/
  | quoS64 (d : BitVec 5) (a : BitVec 5) (b : BitVec 5)
  /-- Divides as unsigned 64-bit numbers (R97). -/
  | quoZ64 (d : BitVec 5) (a : BitVec 5) (b : BitVec 5)
  /-- Takes the signed 64-bit remainder (R97). -/
  | rmdS64 (d : BitVec 5) (a : BitVec 5) (b : BitVec 5)
  /-- Takes the unsigned 64-bit remainder (R97). -/
  | rmdZ64 (d : BitVec 5) (a : BitVec 5) (b : BitVec 5)
  /-- Multiplies the low words and sign-extends the 32-bit product (R97). -/
  | mulS32 (d : BitVec 5) (a : BitVec 5) (b : BitVec 5)
  /-- Multiplies the low words and zero-extends the 32-bit product (R97). -/
  | mulZ32 (d : BitVec 5) (a : BitVec 5) (b : BitVec 5)
  /-- Divides the low words as signed numbers (R97). -/
  | quoS32 (d : BitVec 5) (a : BitVec 5) (b : BitVec 5)
  /-- Divides the low words as unsigned numbers (R97). -/
  | quoZ32 (d : BitVec 5) (a : BitVec 5) (b : BitVec 5)
  /-- Takes the signed 32-bit remainder (R97). -/
  | rmdS32 (d : BitVec 5) (a : BitVec 5) (b : BitVec 5)
  /-- Takes the unsigned 32-bit remainder (R97). -/
  | rmdZ32 (d : BitVec 5) (a : BitVec 5) (b : BitVec 5)
  /-- Sets g[d] to g[d] + g[a]·g[b] modulo 2^64 (R97). -/
  | mad (d : BitVec 5) (a : BitVec 5) (b : BitVec 5)
  /-- Sets g[d] to g[d] − g[a]·g[b] modulo 2^64 (R97). -/
  | msb (d : BitVec 5) (a : BitVec 5) (b : BitVec 5)
  /-- Counts the leading zero bits of g[a] (R99). -/
  | lzc (d : BitVec 5) (a : BitVec 5)
  /-- Counts the trailing zero bits of g[a] (R99). -/
  | tzc (d : BitVec 5) (a : BitVec 5)
  /-- Counts the one bits of g[a] (R99). -/
  | ones (d : BitVec 5) (a : BitVec 5)
  /-- Reverses the bytes of g[a] (R99). -/
  | bswap (d : BitVec 5) (a : BitVec 5)
  /-- Reverses the bits of g[a] (R99). -/
  | bitrev (d : BitVec 5) (a : BitVec 5)
  /-- Sets g[d] to the signed minimum of g[a] and g[b] (R99). -/
  | minS64 (d : BitVec 5) (a : BitVec 5) (b : BitVec 5)
  /-- Sets g[d] to the signed maximum of g[a] and g[b] (R99). -/
  | maxS64 (d : BitVec 5) (a : BitVec 5) (b : BitVec 5)
  /-- Sets g[d] to the unsigned minimum of g[a] and g[b] (R99). -/
  | minZ64 (d : BitVec 5) (a : BitVec 5) (b : BitVec 5)
  /-- Sets g[d] to the unsigned maximum of g[a] and g[b] (R99). -/
  | maxZ64 (d : BitVec 5) (a : BitVec 5) (b : BitVec 5)
  /-- Sets g[d] to g[a] & ~g[b] (R99). -/
  | andnot (d : BitVec 5) (a : BitVec 5) (b : BitVec 5)
  /-- Sets g[d] to g[a] | ~g[b] (R99). -/
  | ornot (d : BitVec 5) (a : BitVec 5) (b : BitVec 5)
  /-- Selects g[a] when g[c] is nonzero, and g[b] otherwise (R99). -/
  | sel (d : BitVec 5) (a : BitVec 5) (b : BitVec 5) (c : BitVec 5)
  /-- Sign-extends byte 0 of g[a] (R99). -/
  | extS8 (d : BitVec 5) (a : BitVec 5)
  /-- Sign-extends the low halfword of g[a] (R99). -/
  | extS16 (d : BitVec 5) (a : BitVec 5)
  /-- Sign-extends the low word of g[a] (R99). -/
  | extS32 (d : BitVec 5) (a : BitVec 5)
  /-- Zero-extends the low word of g[a] (R99). -/
  | extZ32 (d : BitVec 5) (a : BitVec 5)
  /-- Zero-extends byte 0 of g[a] (R99). -/
  | extZ8 (d : BitVec 5) (a : BitVec 5)
  /-- Zero-extends the low halfword of g[a] (R99). -/
  | extZ16 (d : BitVec 5) (a : BitVec 5)
  /-- Sets g[d] to ~(g[a] ^ g[b]) (R99). -/
  | xnor (d : BitVec 5) (a : BitVec 5) (b : BitVec 5)
  /-- Truncates the reference in g[a] to level g[b] (R101). -/
  | ptrunc (d : BitVec 5) (a : BitVec 5) (b : BitVec 5)
  /-- Sets g[d] to the parent of the reference in g[a] (R101). -/
  | pparent (d : BitVec 5) (a : BitVec 5)
  /-- Sets g[d] to child g[b][1:0] of the reference in g[a] (R101). -/
  | pchild (d : BitVec 5) (a : BitVec 5) (b : BitVec 5)
  /-- Sets g[d] to sibling d of the reference in g[a] (R101). -/
  | psib (d : BitVec 5) (a : BitVec 5) (b : BitVec 5)
  /-- Steps the reference in g[a] along the curve at its level (R101). -/
  | pnext (d : BitVec 5) (a : BitVec 5)
  /-- Reads the digit of level j of the reference in g[a] (R101). -/
  | pdig (d : BitVec 5) (a : BitVec 5) (b : BitVec 5)
  /-- Sets the digit of level j of the reference in g[a] (R101). -/
  | psdig (d : BitVec 5) (a : BitVec 5) (b : BitVec 5)
  /-- Tests whether block g[b] lies within block g[a] (R101). -/
  | pin (d : BitVec 5) (a : BitVec 5) (b : BitVec 5)
  /-- Extracts the level of the reference in g[a] (R101). -/
  | plevel (d : BitVec 5) (a : BitVec 5)
  /-- Extracts the element size code of the reference in g[a] (R101). -/
  | pesz (d : BitVec 5) (a : BitVec 5)
  /-- Extracts the address of the reference in g[a] (R101). -/
  | pbase (d : BitVec 5) (a : BitVec 5)
  /-- Builds a checked reference word from an address and a level and size code (R101). -/
  | pmake (d : BitVec 5) (a : BitVec 5) (b : BitVec 5)
  /-- Computes the curve offset of a row and a column (R101). -/
  | ppack (d : BitVec 5) (a : BitVec 5) (b : BitVec 5)
  /-- Extracts the row from a curve offset (R101). -/
  | prow (d : BitVec 5) (a : BitVec 5)
  /-- Extracts the column from a curve offset (R101). -/
  | pcol (d : BitVec 5) (a : BitVec 5)
  /-- Loads a byte and sign-extends it (R117). -/
  | ldB (d : BitVec 5) (a : BitVec 5) (i : BitVec 16)
  /-- Loads a halfword and sign-extends it (R117). -/
  | ldH (d : BitVec 5) (a : BitVec 5) (i : BitVec 16)
  /-- Loads a word and sign-extends it (R117). -/
  | ldW (d : BitVec 5) (a : BitVec 5) (i : BitVec 16)
  /-- Loads a doubleword (R117). -/
  | ldD (d : BitVec 5) (a : BitVec 5) (i : BitVec 16)
  /-- Loads a byte and zero-extends it (R117). -/
  | ldBz (d : BitVec 5) (a : BitVec 5) (i : BitVec 16)
  /-- Loads a halfword and zero-extends it (R117). -/
  | ldHz (d : BitVec 5) (a : BitVec 5) (i : BitVec 16)
  /-- Loads a word and zero-extends it (R117). -/
  | ldWz (d : BitVec 5) (a : BitVec 5) (i : BitVec 16)
  /-- Stores the low byte of g[b] through the store buffer (R119). -/
  | stB (b : BitVec 5) (a : BitVec 5) (i : BitVec 16)
  /-- Stores the low halfword of g[b] through the store buffer (R119). -/
  | stH (b : BitVec 5) (a : BitVec 5) (i : BitVec 16)
  /-- Stores the low word of g[b] through the store buffer (R119). -/
  | stW (b : BitVec 5) (a : BitVec 5) (i : BitVec 16)
  /-- Stores g[b] through the store buffer (R119). -/
  | stD (b : BitVec 5) (a : BitVec 5) (i : BitVec 16)
  /-- Copies a block to the strand's own pool, granule by granule (R120). -/
  | bld (d : BitVec 5) (a : BitVec 5)
  /-- Copies own pool bytes to a block, granule by granule (R120). -/
  | bst (d : BitVec 5) (a : BitVec 5)
  /-- Copies block Y onto block X of equal size (R120). -/
  | bcopy (d : BitVec 5) (a : BitVec 5)
  /-- Fills every element of a block with a value (R120). -/
  | bfill (d : BitVec 5) (a : BitVec 5)
  /-- Zeroes every byte of a block (R120). -/
  | bzero (d : BitVec 5)
  /-- Hints that the lines of a block be brought into the bed column (R123). -/
  | bpref (d : BitVec 5)
  /-- Writes back dirty copies of a block and keeps them (R123). -/
  | bclean (d : BitVec 5)
  /-- Writes back dirty copies of a block and invalidates every copy (R123). -/
  | bflush (d : BitVec 5)
  /-- Adds to a word indivisibly and returns the old value (R124). -/
  | amoAddW (d : BitVec 5) (a : BitVec 5) (b : BitVec 5) (ord : MOrd) (sc : Scope)
  /-- Adds to a doubleword indivisibly and returns the old value (R124). -/
  | amoAddD (d : BitVec 5) (a : BitVec 5) (b : BitVec 5) (ord : MOrd) (sc : Scope)
  /-- Stores the signed minimum to a word atomically (R124). -/
  | amoMinW (d : BitVec 5) (a : BitVec 5) (b : BitVec 5) (ord : MOrd) (sc : Scope)
  /-- Stores the signed minimum to a doubleword atomically (R124). -/
  | amoMinD (d : BitVec 5) (a : BitVec 5) (b : BitVec 5) (ord : MOrd) (sc : Scope)
  /-- Stores the signed maximum to a word atomically (R124). -/
  | amoMaxW (d : BitVec 5) (a : BitVec 5) (b : BitVec 5) (ord : MOrd) (sc : Scope)
  /-- Stores the signed maximum to a doubleword atomically (R124). -/
  | amoMaxD (d : BitVec 5) (a : BitVec 5) (b : BitVec 5) (ord : MOrd) (sc : Scope)
  /-- Stores the unsigned minimum to a word atomically (R124). -/
  | amoMinuW (d : BitVec 5) (a : BitVec 5) (b : BitVec 5) (ord : MOrd) (sc : Scope)
  /-- Stores the unsigned minimum to a doubleword atomically (R124). -/
  | amoMinuD (d : BitVec 5) (a : BitVec 5) (b : BitVec 5) (ord : MOrd) (sc : Scope)
  /-- Stores the unsigned maximum to a word atomically (R124). -/
  | amoMaxuW (d : BitVec 5) (a : BitVec 5) (b : BitVec 5) (ord : MOrd) (sc : Scope)
  /-- Stores the unsigned maximum to a doubleword atomically (R124). -/
  | amoMaxuD (d : BitVec 5) (a : BitVec 5) (b : BitVec 5) (ord : MOrd) (sc : Scope)
  /-- ANDs into a word atomically (R124). -/
  | amoAndW (d : BitVec 5) (a : BitVec 5) (b : BitVec 5) (ord : MOrd) (sc : Scope)
  /-- ANDs into a doubleword atomically (R124). -/
  | amoAndD (d : BitVec 5) (a : BitVec 5) (b : BitVec 5) (ord : MOrd) (sc : Scope)
  /-- ORs into a word atomically (R124). -/
  | amoOrW (d : BitVec 5) (a : BitVec 5) (b : BitVec 5) (ord : MOrd) (sc : Scope)
  /-- ORs into a doubleword atomically (R124). -/
  | amoOrD (d : BitVec 5) (a : BitVec 5) (b : BitVec 5) (ord : MOrd) (sc : Scope)
  /-- XORs into a word atomically (R124). -/
  | amoXorW (d : BitVec 5) (a : BitVec 5) (b : BitVec 5) (ord : MOrd) (sc : Scope)
  /-- XORs into a doubleword atomically (R124). -/
  | amoXorD (d : BitVec 5) (a : BitVec 5) (b : BitVec 5) (ord : MOrd) (sc : Scope)
  /-- Swaps a word atomically (R124). -/
  | amoSwapW (d : BitVec 5) (a : BitVec 5) (b : BitVec 5) (ord : MOrd) (sc : Scope)
  /-- Swaps a doubleword atomically (R124). -/
  | amoSwapD (d : BitVec 5) (a : BitVec 5) (b : BitVec 5) (ord : MOrd) (sc : Scope)
  /-- Compares and swaps a word atomically (R124). -/
  | amoCasW (d : BitVec 5) (a : BitVec 5) (b : BitVec 5) (ord : MOrd) (sc : Scope)
  /-- Compares and swaps a doubleword atomically (R124). -/
  | amoCasD (d : BitVec 5) (a : BitVec 5) (b : BitVec 5) (ord : MOrd) (sc : Scope)
  /-- Adds FP32 to a word with one RoundNE, indivisibly (R125). -/
  | amoFaddW (d : BitVec 5) (a : BitVec 5) (b : BitVec 5) (ord : MOrd) (sc : Scope)
  /-- Reads a word atomically at the place of execution (R124). -/
  | amoLdW (d : BitVec 5) (a : BitVec 5) (b : BitVec 5) (ord : MOrd) (sc : Scope)
  /-- Reads a doubleword atomically at the place of execution (R124). -/
  | amoLdD (d : BitVec 5) (a : BitVec 5) (b : BitVec 5) (ord : MOrd) (sc : Scope)
  /-- Writes a word atomically at the place of execution (R124). -/
  | amoStW (a : BitVec 5) (b : BitVec 5) (ord : MOrd) (sc : Scope)
  /-- Writes a doubleword atomically at the place of execution (R124). -/
  | amoStD (a : BitVec 5) (b : BitVec 5) (ord : MOrd) (sc : Scope)
  /-- Orders, or completes, the strand's accesses at a scope (R127). -/
  | fence (ord : MOrd) (sc : Scope)
  /-- Widens earlier narrow releases on a line and reads it with acquire (R128). -/
  | promote (d : BitVec 5) (a : BitVec 5) (ord : MOrd) (sc : Scope)
  /-- Sets a weir to a reference and a rights code (R129). -/
  | wset (d : BitVec 3) (a : BitVec 5) (b : BitVec 5)
  /-- Turns a weir off (R129). -/
  | wclr (d : BitVec 3)
  /-- Reads the reference word of a weir (R129). -/
  | wref (d : BitVec 5) (a : BitVec 3)
  /-- Reads the rights code of a weir (R129). -/
  | wrt (d : BitVec 5) (a : BitVec 3)
  /-- Reports the rights that the weirs leave for a block (R129). -/
  | wqry (d : BitVec 5) (a : BitVec 5)
  /-- Branches when g[a] = g[b] (R104). -/
  | beq (a : BitVec 5) (b : BitVec 5) (i : BitVec 16)
  /-- Branches when g[a] ≠ g[b] (R104). -/
  | bne (a : BitVec 5) (b : BitVec 5) (i : BitVec 16)
  /-- Branches on signed less-than (R104). -/
  | blt (a : BitVec 5) (b : BitVec 5) (i : BitVec 16)
  /-- Branches on signed greater-or-equal (R104). -/
  | bge (a : BitVec 5) (b : BitVec 5) (i : BitVec 16)
  /-- Branches on unsigned less-than (R104). -/
  | bltu (a : BitVec 5) (b : BitVec 5) (i : BitVec 16)
  /-- Branches on unsigned greater-or-equal (R104). -/
  | bgeu (a : BitVec 5) (b : BitVec 5) (i : BitVec 16)
  /-- Writes the return address and jumps by a word displacement (R105). -/
  | jal (d : BitVec 5) (i : BitVec 21)
  /-- Jumps through a register after checks, and writes the return address (R106). -/
  | jalr (d : BitVec 5) (a : BitVec 5) (i : BitVec 16)
  /-- Parks the strand until CYC reaches g[a] (R107). -/
  | sleepuntil (a : BitVec 5)
  /-- Gives the core's other slots precedence for 3 cycles (R108). -/
  | yield
  /-- Ends the activation once its stores are performed, and releases what it held (R109). -/
  | exit
  /-- Adds the lanes of va and vb (R135). -/
  | vadd (d : BitVec 5) (a : BitVec 5) (b : BitVec 5) (k : BitVec 3) (t : EType)
  /-- Subtracts the lanes of vb from those of va (R135). -/
  | vsub (d : BitVec 5) (a : BitVec 5) (b : BitVec 5) (k : BitVec 3) (t : EType)
  /-- Multiplies the lanes (R135). -/
  | vmul (d : BitVec 5) (a : BitVec 5) (b : BitVec 5) (k : BitVec 3) (t : EType)
  /-- Computes va·vb + vd per lane with one rounding (R135). -/
  | vfma (d : BitVec 5) (a : BitVec 5) (b : BitVec 5) (k : BitVec 3) (t : EType)
  /-- Computes vd − va·vb per lane with one rounding (R135). -/
  | vfnma (d : BitVec 5) (a : BitVec 5) (b : BitVec 5) (k : BitVec 3) (t : EType)
  /-- Takes the lane-wise minimum (R137). -/
  | vmin (d : BitVec 5) (a : BitVec 5) (b : BitVec 5) (k : BitVec 3) (t : EType)
  /-- Takes the lane-wise maximum (R137). -/
  | vmax (d : BitVec 5) (a : BitVec 5) (b : BitVec 5) (k : BitVec 3) (t : EType)
  /-- Computes a determined reciprocal estimate per lane (R136). -/
  | vrcpe (d : BitVec 5) (a : BitVec 5) (k : BitVec 3) (t : EType)
  /-- Computes a determined reciprocal square-root estimate per lane (R136). -/
  | vrsqe (d : BitVec 5) (a : BitVec 5) (k : BitVec 3) (t : EType)
  /-- Adds integer lanes with saturation (R135). -/
  | vadds (d : BitVec 5) (a : BitVec 5) (b : BitVec 5) (k : BitVec 3) (t : EType)
  /-- Subtracts integer lanes with saturation (R135). -/
  | vsubs (d : BitVec 5) (a : BitVec 5) (b : BitVec 5) (k : BitVec 3) (t : EType)
  /-- ANDs the lanes (R135). -/
  | vand (d : BitVec 5) (a : BitVec 5) (b : BitVec 5) (k : BitVec 3) (t : EType)
  /-- ORs the lanes (R135). -/
  | vor (d : BitVec 5) (a : BitVec 5) (b : BitVec 5) (k : BitVec 3) (t : EType)
  /-- XORs the lanes (R135). -/
  | vxor (d : BitVec 5) (a : BitVec 5) (b : BitVec 5) (k : BitVec 3) (t : EType)
  /-- Shifts the lanes left (R135). -/
  | vsl (d : BitVec 5) (a : BitVec 5) (b : BitVec 5) (k : BitVec 3) (t : EType)
  /-- Shifts the lanes right, arithmetically or logically by type (R135). -/
  | vsr (d : BitVec 5) (a : BitVec 5) (b : BitVec 5) (k : BitVec 3) (t : EType)
  /-- Compares the lanes for equality into a mask (R138). -/
  | vceq (d : BitVec 3) (a : BitVec 5) (b : BitVec 5) (k : BitVec 3) (t : EType)
  /-- Compares the lanes for inequality into a mask (R138). -/
  | vcne (d : BitVec 3) (a : BitVec 5) (b : BitVec 5) (k : BitVec 3) (t : EType)
  /-- Compares the lanes for less-than into a mask (R138). -/
  | vclt (d : BitVec 3) (a : BitVec 5) (b : BitVec 5) (k : BitVec 3) (t : EType)
  /-- Compares the lanes for less-or-equal into a mask (R138). -/
  | vcle (d : BitVec 3) (a : BitVec 5) (b : BitVec 5) (k : BitVec 3) (t : EType)
  /-- ANDs two masks (R138). -/
  | kand (d : BitVec 3) (a : BitVec 3) (b : BitVec 3)
  /-- ORs two masks (R138). -/
  | kor (d : BitVec 3) (a : BitVec 3) (b : BitVec 3)
  /-- XORs two masks (R138). -/
  | kxor (d : BitVec 3) (a : BitVec 3) (b : BitVec 3)
  /-- Sets a mask to ka & ~kb (R138). -/
  | kandn (d : BitVec 3) (a : BitVec 3) (b : BitVec 3)
  /-- Inverts a mask (R138). -/
  | knot (d : BitVec 3) (a : BitVec 3)
  /-- Sets a mask from a scalar register (R138). -/
  | kset (d : BitVec 3) (a : BitVec 5)
  /-- Copies a mask into a scalar register (R138). -/
  | kget (d : BitVec 5) (a : BitVec 3)
  /-- Counts the one bits of a mask (R138). -/
  | kpop (d : BitVec 5) (a : BitVec 3)
  /-- Loads contiguous lanes from memory (R140). -/
  | vld (d : BitVec 5) (a : BitVec 5) (k : BitVec 3) (t : EType)
  /-- Stores contiguous lanes to memory in ascending lane order (R140). -/
  | vst (d : BitVec 5) (a : BitVec 5) (k : BitVec 3) (t : EType)
  /-- Loads lanes with a stride (R140). -/
  | vlds (d : BitVec 5) (a : BitVec 5) (b : BitVec 5) (k : BitVec 3) (t : EType)
  /-- Stores lanes with a stride (R140). -/
  | vsts (d : BitVec 5) (a : BitVec 5) (b : BitVec 5) (k : BitVec 3) (t : EType)
  /-- Gathers lanes by the 32-bit indices in vb (R140). -/
  | vgather (d : BitVec 5) (a : BitVec 5) (b : BitVec 5) (k : BitVec 3) (t : EType)
  /-- Scatters lanes by the 32-bit indices in vb (R140). -/
  | vscatter (d : BitVec 5) (a : BitVec 5) (b : BitVec 5) (k : BitVec 3) (t : EType)
  /-- Loads a 64-byte block given by a reference word, in curve order (R140). -/
  | vldr (d : BitVec 5) (a : BitVec 5) (k : BitVec 3) (t : EType)
  /-- Stores a 64-byte block given by a reference word (R140). -/
  | vstr (d : BitVec 5) (a : BitVec 5) (k : BitVec 3) (t : EType)
  /-- Selects the lanes of va or vb by a mask (R144). -/
  | vsel (d : BitVec 5) (a : BitVec 5) (b : BitVec 5) (k : BitVec 3) (t : EType)
  /-- Broadcasts a scalar to the lanes (R144). -/
  | vbcast (d : BitVec 5) (a : BitVec 5) (k : BitVec 3) (t : EType)
  /-- Permutes the lanes of va by the indices in vb (R144). -/
  | vperm (d : BitVec 5) (a : BitVec 5) (b : BitVec 5) (k : BitVec 3) (t : EType)
  /-- Shuffles lanes from va and vb by the indices in vd (R144). -/
  | vshuf (d : BitVec 5) (a : BitVec 5) (b : BitVec 5) (k : BitVec 3) (t : EType)
  /-- Writes each lane's index into it (R144). -/
  | viota (d : BitVec 5) (k : BitVec 3) (t : EType)
  /-- Extracts one lane into a scalar register (R144). -/
  | vext (d : BitVec 5) (a : BitVec 5) (b : BitVec 5) (t : EType)
  /-- Inserts a scalar into one lane (R144). -/
  | vins (d : BitVec 5) (a : BitVec 5) (b : BitVec 5) (t : EType)
  /-- Converts the lanes from source type u to type t with the rounding in field k (R145). -/
  | vcvt (d : BitVec 5) (a : BitVec 5) (u : EType) (r : BitVec 3) (t : EType)
  /-- Slides the lanes down by g[b] (R144). -/
  | vsld (d : BitVec 5) (a : BitVec 5) (b : BitVec 5) (k : BitVec 3) (t : EType)
  /-- Sums the unmasked lanes in a fixed pairwise tree (R146). -/
  | vredsum (d : BitVec 5) (a : BitVec 5) (k : BitVec 3) (t : EType)
  /-- Reduces the unmasked lanes by minimum (R146). -/
  | vredmin (d : BitVec 5) (a : BitVec 5) (k : BitVec 3) (t : EType)
  /-- Reduces the unmasked lanes by maximum (R146). -/
  | vredmax (d : BitVec 5) (a : BitVec 5) (k : BitVec 3) (t : EType)
  /-- Fills the lanes from Mix64 of a seed and counters (R147). -/
  | vrand (d : BitVec 5) (a : BitVec 5) (b : BitVec 5) (k : BitVec 3) (t : EType)
  /-- Writes a converted immediate to every lane (R76). -/
  | vimm (d : BitVec 5) (t : EType) (i : BitVec 16)
  /-- Adds a converted immediate to every lane (R76). -/
  | vaddi (d : BitVec 5) (t : EType) (i : BitVec 16)
  /-- Declares a tarn name with a tag, or queues the declaration on a draining name (R154). -/
  | tdecl (a : BitVec 5) (b : BitVec 5) (d : BitVec 5)
  /-- Loads the 4 KiB of data of a declared name from memory (R155). -/
  | tld (a : BitVec 5) (b : BitVec 5)
  /-- Loads the 512-byte sidecar of a declared name from memory (R155). -/
  | tldS (a : BitVec 5) (b : BitVec 5)
  /-- Writes 64 bytes of a declared name from a vector register (R155). -/
  | tfill (a : BitVec 5) (b : BitVec 5) (v : BitVec 5)
  /-- Completes the definition of a name and resumes its readers (R156). -/
  | tseal (a : BitVec 5)
  /-- Reads 64 bytes of a defined name into a vector register (R157). -/
  | tget (a : BitVec 5) (b : BitVec 5) (v : BitVec 5)
  /-- Stores a name's data to memory (R157). -/
  | tst (a : BitVec 5) (b : BitVec 5)
  /-- Stores a name's sidecar to memory (R157). -/
  | tstS (a : BitVec 5) (b : BitVec 5)
  /-- Ends the life of a name: frees a declared name or drains a defined one (R158). -/
  | tkill (a : BitVec 5)
  /-- Reads a name's tag without reading the name (R159). -/
  | ttag (a : BitVec 5) (d : BitVec 5)
  /-- Sets the core's format context (R160). -/
  | mfmt (a : BitVec 5)
  /-- Loads decode table A in full mode and builds its index (R161). -/
  | mlutA (a : BitVec 5)
  /-- Loads decode table B in full mode and builds its index (R161). -/
  | mlutB (a : BitVec 5)
  /-- Loads decode table A in nibble mode (R161). -/
  | mlutA4 (a : BitVec 5)
  /-- Loads decode table B in nibble mode (R161). -/
  | mlutB4 (a : BitVec 5)
  /-- Defines a name as a zero FP32 accumulator (R162). -/
  | mzero (a : BitVec 5)
  /-- Computes Cout := Cin + A × B on tarn names (R163). -/
  | mma (a : BitVec 5)
  /-- Computes Cout := A × B with no Cin (R163). -/
  | mmaNc (a : BitVec 5)
  /-- Computes one quad's part of a product spread over a rectangle of quads (R166). -/
  | mmax (a : BitVec 5) (b : BitVec 5)
  /-- Computes one quad's rectangle part with no Cin (R166). -/
  | mmaxNc (a : BitVec 5) (b : BitVec 5)
  /-- Transposes a source name into a destination name (R169). -/
  | mtrn (a : BitVec 5)
  /-- Converts a source name element by element into a destination name (R170). -/
  | mcvt (a : BitVec 5)
  /-- Sends an entry message (R173). -/
  | sendEnt (a : BitVec 5) (b : BitVec 5)
  /-- Sends a code message (R173). -/
  | sendCode (a : BitVec 5) (b : BitVec 5)
  /-- Sends a data message (R173). -/
  | sendData (a : BitVec 5) (b : BitVec 5)
  /-- Sends a count message (R173). -/
  | sendCnt (a : BitVec 5) (b : BitVec 5)
  /-- Reads a doubleword of the strand's MW window (R182). -/
  | mw (a : BitVec 5) (d : BitVec 5)
  /-- Releases the MW window and frees its inlet slot (R182). -/
  | mrel
  /-- Ends a handler's activation as EXIT does (R182). -/
  | hret
  /-- Pushes a task record onto the owner end of the core's deque (R185). -/
  | dqput (a : BitVec 5)
  /-- Looks at the owner end of the deque and takes a task record if one is there (R186). -/
  | dqtake (b : BitVec 5) (d : BitVec 5)
  /-- Launches a sweep from a descriptor, with an optional predecessor (R188). -/
  | launch (a : BitVec 5) (b : BitVec 5) (d : BitVec 5)
  /-- Launches a gang from a gang descriptor (R188). -/
  | launchGang (a : BitVec 5) (b : BitVec 5) (d : BitVec 5)
  /-- Marks the strand as triggered for the dependants of its launch (R189). -/
  | trigger
  /-- Sends an entry message for a resident strand to the issuing core (R192). -/
  | spawn (a : BitVec 5) (b : BitVec 5)
  /-- Sends an entry message for a handler to the issuing core (R192). -/
  | spawnH (a : BitVec 5) (b : BitVec 5)
  /-- Reserves the next free slot of a pipe, waiting while the ring is full (R191). -/
  | pres (h : BitVec 3) (d : BitVec 5)
  /-- Waits for a filled pipe slot and returns its address (R191). -/
  | pwait (h : BitVec 3) (d : BitVec 5)
  /-- Advances the produced or consumed count of a pipe as a release (R191). -/
  | padv (h : BitVec 3)
  /-- Arrives at the population's resample collective and parks (R193). -/
  | resample (a : BitVec 5) (b : BitVec 5) (d : BitVec 5)
  /-- Binds a barrier register to a barrier number at a scope (R198). -/
  | barset (a : BitVec 5) (b : BitVec 5) (d : BitVec 2)
  /-- Arrives at a barrier as a release (R198). -/
  | bararr (d : BitVec 2)
  /-- Parks while the register has arrived and the phase has not completed (R198). -/
  | barwait (d : BitVec 2)
  /-- Withdraws the register from its barrier (R198). -/
  | barleave (d : BitVec 2)
  /-- Withdraws participants from a barrier on behalf of others (R199). -/
  | barleaveO (a : BitVec 5) (b : BitVec 5)
  /-- Parks until a later still wave finds the job still or stuck (R200). -/
  | still (d : BitVec 5)
  /-- Parks until a confined wave for one logical package returns (R200). -/
  | stillTo (a : BitVec 5) (d : BitVec 5)
  /-- Reads the S or C counter of the network interface (R201). -/
  | qcount (a : BitVec 5) (d : BitVec 5)
  /-- Adds to the S or C counter of a job (R201). -/
  | qfix (a : BitVec 5) (b : BitVec 5)
  /-- Checks a layout record and queues a copy with its promise (R206). -/
  | cpystart (a : BitVec 5) (d : BitVec 5)
  /-- Parks until the copy ends, with a one-time late trap (R212). -/
  | cpywait (a : BitVec 5) (d : BitVec 5)
  /-- Parks until the copy ends, with no late trap (R212). -/
  | cpywaitNl (a : BitVec 5) (d : BitVec 5)
  /-- Returns a copy's status word at once (R213). -/
  | cpypoll (a : BitVec 5) (d : BitVec 5)
  /-- Parks until a copy group's pending count is zero, then returns and clears FAIL and CANC (R214). -/
  | cpygwait (a : BitVec 5) (d : BitVec 5)
  /-- Cancels a queued or running copy (R215). -/
  | cpycancel (a : BitVec 5)
  /-- Reads a system register (R216). -/
  | sysr (d : BitVec 5) (r : SysReg)
  /-- Writes the fields of a system register that the mode may write (R216). -/
  | sysw (a : BitVec 5) (r : SysReg)
  /-- Takes trap 0x71 with TVAL := g[a] (R218). -/
  | svc (a : BitVec 5)
  /-- Takes trap 0x70 with TVAL := n (R218). -/
  | brk (n : BitVec 5)
  /-- Returns to TPC plus a displacement and restores the mode (R219). -/
  | eret (b : BitVec 5)
  /-- Sets a translation stage's root and drops its cached translations (R220). -/
  | xroot (a : BitVec 5) (b : BitVec 5)
  /-- Drops the cached translations of a block (R220). -/
  | xinv (a : BitVec 5) (b : BitVec 5)
  /-- Translates an address through a table without changing anything (R221). -/
  | xprobe (a : BitVec 5) (b : BitVec 5) (d : BitVec 5)
  /-- Reads a frame's backward-table entry (R221). -/
  | xback (a : BitVec 5) (d : BitVec 5)
  /-- Sets a partition's BASE and LEN, to take effect at its next kernel boundary (R222). -/
  | partset (a : BitVec 5) (b : BitVec 5)
  /-- Sets the skip bit of a quad, to take effect at the kernel boundary (R222). -/
  | skipset (a : BitVec 5) (b : BitVec 5)
  /-- Sets a virtual function's bed way mask (R223). -/
  | wayset (a : BitVec 5) (b : BitVec 5)
  /-- Sets aside bed ways of a quad's column as its B-operand region (R223). -/
  | bregion (a : BitVec 5) (b : BitVec 5)
  /-- Sets the energy RATE of a quad of the partition (R224). -/
  | eset (a : BitVec 5) (b : BitVec 5)
  /-- Drains the quad's tarn, tables and contexts to a memory image and frees every name (R226). -/
  | mdrain (a : BitVec 5)
  /-- Restores the quad's tarn, tables and contexts from an MDRAIN image (R227). -/
  | mrest (a : BitVec 5)
  /-- Saves the strand's vector state through the streaming save engine (R228). -/
  | vsave (a : BitVec 5)
  /-- Restores the strand's vector state from memory (R228). -/
  | vrest (a : BitVec 5)
  /-- A translation answer returns with its line and completes the checks of a waiting scalar access (R113). -/
  | translationAnswer (u : Nat)
  /-- A fill returns; the load gets its data and the line is installed only if its stamp still matches the generation (R272). -/
  | fillReturn (u : Nat)
  /-- The oldest store-buffer entry is performed at its home and frees an entry (R114). -/
  | storePerformed (u : Nat)
  /-- An operation packet from another package is performed at this package's home bed slice (R111). -/
  | operationPacket (p : OpPacket)
  /-- A directory insertion that exhausts its chain of moves recalls a line, and the access waits for the recall (R275). -/
  | cuckooRecall (die : Nat)
  /-- A corrupted directory entry is replaced by a full recall to every L1 of the die (R360). -/
  | directoryRecall (die vf line : Nat) (corrupt : List Nat)
  /-- A vector instruction completes, writes its result and ORs its flags into FFLAGS (R130). -/
  | vectorCompletion (u : Nat)
  /-- An accepted tarn or matrix instruction completes, defines its name and ORs its flags (R151). -/
  | matrixCompletion (u : Nat)
  /-- The last read begun before a kill completes; the name becomes free and a queued TDECL takes effect (R55). -/
  | drainComplete (q n : Nat)
  /-- An MMAX A operand stream arrives at a quad and is consumed or held (R168). -/
  | aStreamArrival (q : Nat)
  /-- The copy engine takes the next copy of its queue and starts it (R207). -/
  | copyRun (q : Nat)
  /-- A copy completes or fails and releases its completion word (R209). -/
  | copyEnd (q : Nat)
  /-- CYC reaches a copy's promise P before the copy has ended, and LATE is set (R211). -/
  | copyLate (q id : Nat)
  /-- CYC reaches a sleeping strand's time and the strand becomes ready (R107). -/
  | sleepWake (u : Nat)
  /-- When CYC is a multiple of 256, LEVEL is refilled by RATE up to its cap (R295). -/
  | energyRefill (q : Nat)
  /-- A handler's watchdog reaches 4,096 and the handler takes trap 0x40 (R296). -/
  | watchdog (u : Nat)
  /-- The device observes V = 1 on a launch inlet entry, checks it and accepts or refuses it (R287). -/
  | launchInletEntry (vf : Nat)
  /-- A held dependant record is pushed once every predecessor strand has triggered or ended (R189). -/
  | dependantPush (n : Nat)
  /-- A push held at a full deque is made when an entry frees (R183). -/
  | heldPush (core : Nat)
  /-- A sweep or gang record above the leaf level is split into four children (R288). -/
  | split (core : Nat)
  /-- A sweep record at the leaf level becomes a resident strand in a free slot (R288). -/
  | leafStrandStart (core : Nat)
  /-- A gang group is placed together on one core when enough slots are free (R190). -/
  | gangGroupPlacement (core : Nat)
  /-- A task is placed after its footprint has been copied into the pool (R293). -/
  | taskStart (core : Nat)
  /-- An entry or code message is accepted into an inlet or overflow slot (R176). -/
  | messageArrival (p : Nat)
  /-- An entry message is given a slot and starts a handler or resident strand (R180). -/
  | entryActivation (core : Nat)
  /-- A code message is given a slot and starts a handler that runs its instructions (R181). -/
  | codeActivation (core : Nat)
  /-- A data message lands in the destination pool under its transform (R178). -/
  | dataLanding (p : Nat)
  /-- A count message decrements its counter and pushes its task record at zero (R179). -/
  | countMessage (p : Nat)
  /-- Credit returns to a sender once inlet or overflow room frees, and its waiting SEND proceeds (R176). -/
  | creditReturn (core : Nat)
  /-- A fault-parked or displaced strand whose wait has ended is restored to a free slot of its core (R48). -/
  | strandRestore (core : Nat)
  /-- The longest-parked strand is moved to a park frame to free a slot (R290). -/
  | displacement (core : Nat)
  /-- A victim receives a steal request and gives its thief-end record or answers empty (R291). -/
  | stealRequest (core : Nat)
  /-- A thief receives a stolen record or an empty answer (R291). -/
  | stealReply (core : Nat)
  /-- A package receives the load-summary token, attaches or serves steal requests and passes it on (R292). -/
  | loadSummaryToken (t : Token)
  /-- A router forwards a packet one hop on the mesh or torus (R301). -/
  | packetHop (p : Nat)
  /-- A still wave of a job starts at its period and sums S and C in two passes (R307). -/
  | stillWave (job : Nat)
  /-- The root sends a wave's outcome, which updates WAVESTAT and releases STILL waiters (R307). -/
  | waveOutcome (job : Nat)
  /-- A confined wave sums SR and CR for one retiring logical package (R309). -/
  | confinedWave (job : Nat)
  /-- An arrival reaches a barrier's home and may complete the phase (R311). -/
  | barrierArrival (p : Nat)
  /-- A withdrawal reaches a barrier's home and may complete the phase (R311). -/
  | barrierWithdrawal (p : Nat)
  /-- Once every living population strand has arrived, the counts are computed and strands end or are cloned (R195). -/
  | resampleDecision (job launch : Nat)
  /-- A clone becomes ready once its registers and window have been written (R315). -/
  | cloneReady (u : Nat)
  /-- A pre-empt request reaches a strand at a boundary, writes its frame head and traps 0x7F (R349). -/
  | preEmptDelivery (u : Nat)
  /-- After a pre-empted quad's last strand ends, each network interface writes its queue image (R354). -/
  | queueImage (core : Nat)
  /-- The pre-empt command completes once no strand remains and every queue image is written (R348). -/
  | preEmptComplete
  /-- A pending PARTSET or SKIPSET takes effect at the kernel boundary, and leaving quads are reset (R323). -/
  | resize (vf : Nat)
  /-- A page request reply makes the waiting accesses walk again (R331). -/
  | prqreply (fn : Option Nat) (v : Word64)
  /-- A reply with REFUSE ends every waiting access with a refused translation (R331). -/
  | prqreplyRefuse (fn : Option Nat) (v : Word64)
  /-- Drops a cached logical package table entry from every network interface (R337). -/
  | lptinv (v : Word64)
  /-- A write of a job entry takes effect unless the rules for ignoring it apply (R327). -/
  | jobEntryWrite (pf : Bool) (vf j : Nat) (v : Word64)
  /-- A PF write of GUAR, ignored when the sum would exceed the frames (R334). -/
  | guarWrite (vf : Nat) (v : Word64)
  /-- A PF write of BURST, ignored when below GUAR (R334). -/
  | burstWrite (vf : Nat) (v : Word64)
  /-- A write to a function register that has no behaviour of its own (R378). -/
  | mmioWrite (fn : Option Nat) (off width : Nat) (v : Word64)
  /-- BIASCTL with TO = 1 starts flipping a 4 KiB block to host bias (R385). -/
  | biasFlipToHost (v : Word64)
  /-- BIASCTL with TO = 0 starts flipping a block to device bias (R385). -/
  | biasFlipToDevice (v : Word64)
  /-- A flip finishes its last line; BIAS is set and BUSY cleared (R385). -/
  | biasFlipComplete
  /-- A read of BIASSTAT returns the flip state and clears IGN (R385). -/
  | biasstatRead
  /-- A host read of HDM is served under the block's bias (R382). -/
  | hostHdmRead (hpa n : Nat)
  /-- A host write of HDM is served under the block's bias (R382). -/
  | hostHdmWrite (hpa : Nat) (data : List Byte)
  /-- A host snoop invalidates a host line in the bed column and its L1s (R387). -/
  | snpinv (line : Nat) (after : List Byte)
  /-- A host snoop leaves a host line shared and returns its data (R387). -/
  | snpdata (line : Nat)
  /-- A host snoop returns a host line's data and changes nothing (R387). -/
  | snpcur (line : Nat)
  /-- The host answers a back-invalidate snoop, and the waiting insertion or flip proceeds (R384). -/
  | bisnpResponse (line : Nat) (dirty : List Byte)
  /-- Mailbox command 0x01 pre-empts a partition or an interval of it (R347). -/
  | preEmpt
  /-- Mailbox command 0x02 sets or clears a reduction entry (R312). -/
  | setReductionEntry
  /-- Mailbox command 0x03 fences a die (R368). -/
  | fenceDie
  /-- Mailbox command 0x04 retrains a link without the named lanes (R362). -/
  | degradeLanes
  /-- A link retraining ends and held packets move again (R362). -/
  | retrainComplete (link : Nat)
  /-- Mailbox command 0x05 writes back a frame's cached copies and copies it to a new frame (R369). -/
  | frameCopy
  /-- Mailbox command 0x06 zeroes a job's still-wave counters and WAVESTAT (R372). -/
  | countRebase
  /-- Mailbox command 0x07 extends a measurement slot with SHA3-384 (R339). -/
  | extendMeasurementSlot
  /-- Mailbox command 0x08 reads a black-box event and can release a frozen ring (R365). -/
  | readBlackBox
  /-- Mailbox command 0x09 checks a firmware image and writes it to the idle slot (R338). -/
  | loadFirmware
  /-- Mailbox command 0x0a reads error or lost-message counters (R359). -/
  | readCounters
  /-- SPDM request answered on a DOE mailbox (R339). -/
  | getVersion (fn : Option Nat)
  /-- SPDM request answered on a DOE mailbox (R339). -/
  | getCapabilities (fn : Option Nat)
  /-- SPDM request answered with Falcon-1024 and SHA3-384 (R339). -/
  | negotiateAlgorithms (fn : Option Nat)
  /-- SPDM request for certificate digests (R339). -/
  | getDigests (fn : Option Nat)
  /-- SPDM request for the certificate chain (R339). -/
  | getCertificate (fn : Option Nat)
  /-- SPDM challenge signed by the package identity key (R339). -/
  | challenge (fn : Option Nat) (nonce : List Byte)
  /-- SPDM request returning measurement blocks 1–8 (R339). -/
  | getMeasurements (fn : Option Nat) (part : Nat)
  /-- Sets up an SPDM secure session with ECDHE secp384r1 on the physical function (R388). -/
  | keyExchange (fn : Option Nat) (body : List Byte)
  /-- Programs IDE keys within a secure session (R388). -/
  | cxlIdeKm (fn : Option Nat) (key : List Byte)
  /-- A flit that fails its IDE check takes the link down (R388). -/
  | ideCheckFailure
  /-- A flit with a bad CRC is discarded and resent from the retry buffer (R361). A flit is named by 256 times its serial number on
  its direction of a link, plus twice the link, plus 1 on the way back. -/
  | badFlit (flit : Nat)
  /-- After 16 failed resends the link goes down and its held packets are lost (R361). -/
  | linkDown (link : Nat)
  /-- A request unanswered for 800,000 cycles ends with trap 0x0B or a lost-store report (R363). -/
  | requestTimeout (u : Nat)
  /-- The patrol scrubber visits a granule and corrects or poisons it (R358). -/
  | patrolScrub (g : Nat) (bad : Bool)
  /-- A parity error in a fatal structure freezes the die's ring and stops the die (R365). -/
  | fatalError (die structure_ : Nat)
  /-- A rail below tolerance for 1 µs stops the dies it feeds as a fatal error (R392). -/
  | railUndervoltage (rail : Rail)
  /-- A die reaching 115 °C stops as a fatal error (R393). -/
  | thermalTrip (die : Nat)
  /-- VMGT rising resets everything and Steax chooses its firmware slot (R395). -/
  | coldReset
  /-- The PRST_N land resets the compute dies, beds, controllers, links and CYC (R395). -/
  | packageReset
  /-- After a reset Steax runs the six bring-up stages in order (R397). -/
  | bringUp
  /-- Writing 1 to BCTL.PRST starts a package reset (R399). -/
  | prst (v : Word64)
  /-- A read of BPWR returns power and temperature and clears P10M (R399). -/
  | bpwrRead
  /-- A fetched word that matches no defined major, function or type code, or that has a nonzero reserved field, takes trap 0x01 (R78). -/
  | illegalInstruction (w : Word32)
  /-- An instruction fetch traps on a dry page or a poisoned granule, is refused by translation, or fault-parks on an absent page (R79). -/
  | instructionFetchFault
  /-- A write of CONS in PRQIDX frees ring room, so that page requests waiting in the controller are posted (R331). -/
  | prqidxWrite (fn : Option Nat) (v : Word64)
  /-- The CXL link goes down or retrains under its standard retry, and an event of class 0x05 is recorded (R377). -/
  | cxlLinkRetrain
  /-- A CXL configuration request is answered, with Configuration Request Retry Status until bring-up stage 6 is reached (R397). -/
  | configurationRequest
  /-- A bed bank enters retention sleep, after which a generation wrap sets its stale-all flag instead of invalidating its lines (R274). -/
  | bankRetentionSleep (q bank : Nat)
deriving DecidableEq, Repr

end Sys2Proof
end

