-- ==== Sys2Proof/Machine/State.lean ====
section
/-!
DEFINITION. The state of one ZX32 package, all of it plain data: strands, cores, quads, partitions, jobs, memories, fabric,
host attachment, management controller and board registers, with the reasons a step can stop and the state after reset.
INVENTORY.md, "State", lists every field with the rule of spec/ that names it and its reset value.
-/
namespace Sys2Proof.Machine

/-- Why a step stops with a fault. -/
inductive Fault where
  /-- Raised by the meaning of an instruction word when State.cur names no living strand. No step of the device runs an
  instruction without a strand (R11), so this stop is safe: it says nothing about the hardware. -/
  | noStrand
deriving DecidableEq, Repr

/-- Why a step is refused. -/
inductive Refusal where
  /-- Raised by an arm of exec for a row that has no meaning yet. Safe: nothing is claimed of the row. -/
  | notModelled (mnemonic : String)
deriving DecidableEq, Repr

/-- Memory: bytes by key, addresses strictly rising and no listed byte 0 (what an unlisted key reads as). Keys below 2^64
are device physical addresses (R328); memHost, memPeer, memPool and memRegion say where the other spaces lie. -/
abbrev Memory := List Host.Cell

/-- Where a translated or aperture address leads (R111, R329). -/
inductive Target where
  | dry
  | loc (pa : Nat)
  | peer (lpkg pa : Nat)
  | host (hpa : Nat)
  | pool (core off : Nat)
deriving DecidableEq, Repr

/-- The kinds of strand (R61). -/
inductive Kind where
  | handler | task | resident | gang
deriving DecidableEq, Repr

/-- A weir register (R42). -/
structure Weir where
  ref : Word64
  rights : BitVec 2
deriving DecidableEq, Repr

/-- The register file of a strand slot (R38). -/
structure Regs where
  g : Vector Word64 32
  v : Vector Vec 32
  k : Vector Word64 8
  h : Vector Word64 8
  b : Vector Word64 4
  w : Vector Weir 8
deriving DecidableEq, Repr

/-- The system registers held per strand (R59); lpkg is the LPKG field of STRAND (R61). -/
structure SysRegs where
  status : Word64
  tcause : Word64
  tpc : Word64
  tval : Word64
  utvec : Word64
  lineage : Word64
  job : Word64
  fflags : Word64
  frm : Word64
  lpkg : Nat
deriving DecidableEq, Repr

/-- What an access asks of a page (R330, R331 ACC). -/
inductive Acc where
  | read | write | rmw | fetch
  /-- amo.ld and PROMOTE: a read (R124, R128) by an atomic, for which R330 asks RD and WR. -/
  | sync
deriving DecidableEq, Repr

/-- An access that waits for a page (R331): the request it waits for (whether it stands in the physical function's ring, and
its ID), and what the access asks, so that the controller can walk again when the reply comes; host says that the reply has come
and its walk waits for the host (R383, R386). -/
structure PageWait where
  pf : Bool
  id : Nat
  host : Bool
  vf : Nat
  mode : Nat
  va : Nat
  acc : Acc
deriving DecidableEq, Repr

/-- One entry of a store buffer (R114, R143): the virtual address, where it leads, the bytes to write as segments, each an
offset with its bytes, one segment for a scalar store and one for each lane of a vector store, and when it issued (R12). -/
structure Store where
  stamp : Nat
  va : Nat
  target : Target
  segs : List (Nat × List Byte)
deriving DecidableEq, Repr

/-- What a waiting strand waits for (R297, R113, R272, R275, R331). -/
inductive Wait where
  /-- A translation answer with its line (R113). -/
  | answer
  /-- A fill of a foreign line, with the stamp it carries (R272). -/
  | fill (vline stamp : Nat)
  /-- A cuckoo recall on a die (R275). -/
  | recall (die : Nat)
  /-- A back-invalidate answer for a host line (R383). -/
  | bisnp (line : Nat)
  /-- A bias flip (R386). -/
  | flip
  /-- A change of state of one of these tarn names (R150). -/
  | names (ns : List Nat)
  /-- The end of a copy (R212). -/
  | copy (id : Nat)
  /-- A copy group's count (R214). -/
  | group (g : Nat)
  /-- CYC (R107). -/
  | sleep (until_ : Nat)
  /-- A barrier register's A (R198). -/
  | barrier (b : Nat)
  /-- A still wave that begins after wave number since (R200). -/
  | still (d since : Nat)
  /-- A confined wave (R200). -/
  | stillTo (d lpkg since : Nat)
  /-- Room or a filled slot of a pipe (R191). -/
  | pipe (h : Nat)
  /-- The population's collective: destination, weight, and g[b] (R193). -/
  | resample (d : Nat) (weight gb : Word64)
  /-- An MMAX A stream (R168). -/
  | stream
  /-- Page requests (R331). -/
  | pages (reqs : List PageWait)
deriving DecidableEq, Repr

/-- Whether a strand can issue (R47). -/
inductive Run where
  | running
  | waiting (w : Wait)
deriving DecidableEq, Repr

/-- The progress an interrupted instruction keeps (R35, R142, R226, R228): the resume point of a block operation or image,
the pending and loaded lanes of a vector load, the resume lane of a vector store. -/
structure Progress where
  /-- The instruction whose block or image point is kept. -/
  at_ : Nat
  block : Option Nat
  image : Option Nat
  /-- The instruction whose lanes are kept; none when VREST reinstated them (R142, R228). -/
  lanesAt : Option Nat
  pending : Option Word64
  loaded : Vec
  lane : Option Nat
deriving DecidableEq, Repr

/-- A message (R50): its header, its payload, whether it is marked for confined waves (R309), its descent (R323). -/
structure Msg where
  hdr0 : Word64
  hdr1 : Word64
  payload : List Byte
  vf : Nat
  dcore : Nat
  dpkg : Nat
  slot : Nat
  marked : Bool
  anc : List Nat
  /-- The bytes of its slot image (R51) that lie in poisoned granules, or were read from one (R357, R358). -/
  bad : List Nat
deriving DecidableEq, Repr

/-- A strand: its kind and birth, its place, its registers, and what it is in the middle of. -/
structure Strand where
  kind : Kind
  /-- The function it belongs to, and the job of its birth (R59 JOB). -/
  vf : Nat
  birthJob : Nat
  core : Nat
  /-- The slot it holds; none while fault-parked or displaced (R47). -/
  slot : Option Nat
  /-- Its launch (serial number; 0 none), the launches it descends from (R189, R323). -/
  launch : Nat
  anc : List Nat
  /-- Its population index (R194). -/
  pop : Option Nat
  /-- Gang group (serial number, 0 none) (R190). -/
  group : Nat
  triggered : Bool
  /-- A handler born of a code message: its image is the window's (R181). -/
  code : Bool
  /-- The MW window (R51), and the message that started it (R309 marks). -/
  win : Option Msg
  /-- MREL has released the window (R182). -/
  released : Bool
  marked : Bool
  pc : Nat
  regs : Regs
  sys : SysRegs
  run : Run
  prog : Progress
  /-- Since which step it is parked; the order its wait ended in (R48, R290). -/
  since : Nat
  wokenAt : Nat
  /-- The store buffer, oldest first (R114). -/
  buf : List Store
  /-- Flags of vector instructions not yet completed, oldest first (R130). -/
  vflags : List (BitVec 5)
  /-- A translation answer or fill that has come for the access at pc (R113, R272). -/
  answered : Bool
  filled : Option (Vec × BitVec 4)
  /-- Pages of the access at pc whose requests were refused (R331, R36), and whether its memory request was lost (R363). -/
  refused : List Nat
  timeout : Bool
  /-- The page requests that the instruction at pc has posted and does not wait for yet (R142, R374). -/
  asked : List PageWait
  /-- The resume points of the block operations that traps have interrupted, the latest first, each with the address of its
  instruction, to which an ERET may return (R36, R344). -/
  points : List (Nat × Nat)
  /-- The first cycle in which the operands of its next instruction are available (R11, R90). -/
  readyAt : Nat
  /-- A refused or poisoned outcome that awaits the strand (R345, R293, R363): cause and TVAL. -/
  doom : Option (Nat × Word64)
  /-- The handler watchdog (R296): up to 4,096; 4,097 while the trap it raised is being handled. -/
  watch : Nat
  /-- The private window as saved in its park frame while out of its slot (R400). -/
  parked : List Byte
  /-- A pre-empt request was received while fault-parked (R351), and where its frame is (R349). -/
  preempt : Option Nat
  fromPark : Bool
  /-- A delivery of the request waits for a page of the frame, or for the host's line; whether it ended a parked wait (R349). -/
  delivery : Option Bool
  /-- A clone whose registers and window are still being written (R315). -/
  pendingClone : Bool
  /-- The task's pinned footprint (R293). -/
  pinned : Bool
  /-- The barrier registers with results of a reduction that their strand has not acquired yet (R266, R313). -/
  reduced : List Nat
deriving DecidableEq, Repr

/-- What a deque record is (R287 to R293). -/
inductive Body where
  /-- A task record's four doublewords (R184). -/
  | task (d0 d1 d2 d3 : Word64)
  /-- A sweep record: the block, the rest of the descriptor, the curve index of its first leaf (R187, R288). -/
  | sweep (root d1 : Word64) (args : List Word64) (first : Nat)
  /-- A gang record: descriptor address, pipe words, member descriptors, the members' blocks at its depth, group (R190). -/
  | gang (desc : Nat) (pipes : List Word64) (members : List (List Word64)) (refs : List Word64)
deriving DecidableEq, Repr

/-- A deque record with its job, function, launch and descent. -/
structure Rec where
  body : Body
  job : Nat
  vf : Nat
  launch : Nat
  lid : Nat
  anc : List Nat
deriving DecidableEq, Repr

/-- The still-wave counters of one job at one network interface (R305, R309). -/
structure Counters where
  s : Word64
  c : Word64
  sr : Word64
  cr : Word64
deriving DecidableEq, Repr

/-- A steal in progress (R291): asked holds the victims asked so far, reply what came back. -/
structure Steal where
  asked : Nat
  victim : Option Nat
  reply : Option (Option Rec)
deriving DecidableEq, Repr

/-- What the four slots of a core share (R57), its deque (R183), inlet (R304) and counters (R305). -/
structure Core where
  tblsel : Word64
  tabA : List (BitVec 19)
  tabB : List (BitVec 19)
  deque : List Rec
  /-- Pushes held at the full deque, in order (R183); none stands for the oldest count message that waits in the inlet. -/
  held : List (Option Rec)
  /-- Messages not yet started or performed, in the order of arrival: entry and code messages, held count messages. -/
  inlet : List Msg
  /-- The packets of this core that wait in the fabric for inlet room (R176). -/
  noCredit : List Nat
  cnt : FMap Counters
  steal : Option Steal
  /-- The gang group for which slots are held, by its record (R289). -/
  gangHold : Option Rec
  /-- Tasks whose footprints wait for their pages: slot, record, requests (R293). -/
  foot : List (Nat × Rec × List PageWait)
  /-- Pre-empted: nothing is placed (R348); the queue image was written (R354). -/
  stopped : Bool
  imaged : Bool
  /-- For a slot that has yielded: the first cycle in which it is no longer passed over (R108). -/
  yields : FMap Nat
  /-- The slot that issued last, and the first cycle in which the core may issue again (R11). -/
  last : Nat
  nextIssue : Nat
deriving DecidableEq, Repr

/-- The state of a tarn name (R53 ST). -/
inductive NameState where
  | free | declared | defined | draining
deriving DecidableEq, Repr

/-- A tarn name (R52 to R55): tag bits [63:35], declaring strand, data, sidecar, readers in flight, queued declaration
(tag and strand, with the core and slot it was made in), kill rank, poisoned granules of 16 bytes (R357; those of the sidecar from 256 on), and the serial number of
its declaration (R158). -/
structure Name where
  st : NameState
  tag : BitVec 29
  owner : Nat
  dcore : Nat
  dslot : Nat
  data : List Byte
  side : List Byte
  queued : Option (BitVec 29 × Nat)
  qcore : Nat
  qslot : Nat
  rank : Nat
  poison : List Nat
  decl : Nat
deriving DecidableEq, Repr

/-- The format context and tables an accepted instruction took (R57, R150). -/
structure Ctx where
  tblsel : Word64
  tabA : List (BitVec 19)
  tabB : List (BitVec 19)
  frm : Word64
deriving DecidableEq, Repr

/-- What an accepted tarn or matrix instruction still has to do (R151). -/
inductive MatKind where
  | tget (vm h : Nat)
  | tst (addr : Nat) (side : Bool)
  | mlut (tableB nibble : Bool) (image : List (BitVec 19))
  | mma (cin : Option Nat)
  | mmax (cin : Option Nat) (east : Bool)
  | mtrn
  | mcvt
  /-- TSEAL and MZERO behind earlier instructions or stores of their strand (R151, R156, R162). -/
  | seal
  | mzero
deriving DecidableEq, Repr

/-- A matrix operand: tag bits [63:35], data, sidecar. -/
structure Operand where
  tag : BitVec 29
  data : List Byte
  side : List Byte
deriving DecidableEq, Repr

/-- An accepted, uncompleted tarn or matrix instruction: its strand, the names it reads, the name it defines with the
serial number of that name's declaration, the context it took, for MMAX the A and B operands it took (R167), the energy
units that it is still to draw while it is held, its occupancy of the datapath from then on (R295, R13), and when it was accepted:
a definition follows the strand's stores before it (R55, R266). -/
structure MatOp where
  uid : Nat
  kind : MatKind
  reads : List Nat
  dest : Option Nat
  decl : Nat
  ctx : Ctx
  aOp : Option Operand
  bOp : Option Operand
  owes : Nat
  occ : Nat
  stamp : Nat
deriving DecidableEq, Repr

/-- The state of a copy (R211 STATE). -/
inductive CopyState where
  | queued | running | completed | cancelled | failed
deriving DecidableEq, Repr

/-- A copy of a quad (R203 to R211). -/
structure Copy where
  id : Nat
  rec_ : List Word64
  promise : Nat
  job : Nat
  vf : Nat
  /-- The mode its strand issued it in. -/
  mode : Nat
  core : Nat
  st : CopyState
  cause : Nat
  failAddr : Nat
  ev : Bool
  late : Bool
  lateReported : Bool
  cancel : Bool
  /-- The next destination element in ascending address order; the pages waited for. -/
  next : Nat
  waits : List PageWait
  waitAt : Nat
  /-- Whether it wrote bytes homed off the die, on a peer or the host (R268). -/
  offDie : Bool
  /-- The bytes of its source footprint as they stood before the copy wrote them, by virtual address (R205). -/
  saved : List Host.Cell
deriving DecidableEq, Repr

/-- A copy group (R214): its pending count and sticky bits. -/
structure Group where
  pending : Nat
  fail : Bool
  canc : Bool
  /-- A copy of the group wrote bytes homed off the die (R268). -/
  off : Bool
deriving DecidableEq, Repr

/-- A cached line of a bed column (R271, R387): a foreign line with its stamp, or a host line, held shared or exclusive; the way
it stands in (R335) and its poisoned granules of 16 bytes (R357). -/
structure BedLine where
  vf : Nat
  vline : Nat
  target : Target
  stamp : Nat
  host : Bool
  excl : Bool
  dirty : Bool
  data : Vec
  way : Nat
  poison : BitVec 4
deriving DecidableEq, Repr

/-- An MMAX A operand stream on its way to a quad, or held in its operand buffer (R167, R168): the job, the quad at the
rectangle's origin, its width. -/
structure Stream where
  job : Nat
  origin : Nat
  w : Nat
  a : Operand
  arrived : Bool
deriving DecidableEq, Repr

/-- What a tarn or matrix request waits for besides its turn (R13): nothing; that the datapath is free. -/
inductive ReqKind where
  | plain | datapath
deriving DecidableEq, Repr

/-- A tarn or matrix request in a dispatch queue (R11, R13): its strand, the word that it issued, what the request waits for, the
last cycle in which it was not to be served. -/
structure Request where
  uid : Nat
  word : Word32
  kind : ReqKind
  since : Nat
deriving DecidableEq, Repr

/-- A line of a quad's instruction cache (R11): 64 bytes by the place they were fetched from. -/
structure ILine where
  line : Nat
  data : Vec
deriving DecidableEq, Repr

/-- What the cores of a quad share (01_machine, "The quad"). -/
structure Quad where
  names : FMap Name
  nextDecl : Nat
  nextRank : Nat
  ops : List MatOp
  /-- The tarn and matrix requests that wait in the four cores' dispatch queues, oldest first; the core served last; the first
  cycle in which the matrix datapath is free (R13). -/
  queue : List Request
  lastCore : Nat
  busyUntil : Nat
  /-- The strand whose MMAX has issued and is not yet accepted (R168). -/
  mmaxBy : Option Nat
  /-- An MDRAIN or MREST holds the tarn for this strand (R226). -/
  drainBy : Option Nat
  copies : List Copy
  nextCopy : Nat
  /-- IDs of copies no longer among the 64 held that wrote bytes homed off the die (R211, R268). -/
  oldOff : List Nat
  groups : FMap Group
  rate : BitVec 16
  /-- The RATE of an ESET made while the quad is skip-masked, which takes effect when its bit is cleared (R322). -/
  rateNext : Option (BitVec 16)
  level : BitVec 32
  refilled : Nat
  gen : BitVec 16
  bed : List BedLine
  asleep : List Nat
  staleAll : List Nat
  bway : BitVec 14
  bvf : Nat
  streams : List Stream
  /-- The instruction cache of 64 KiB (R11, R20), the line fetched first at the head. -/
  icache : List ILine
deriving DecidableEq, Repr

/-- The states of an L1 line (R275). -/
inductive Moesi where
  | m | o | e | s
deriving DecidableEq, Repr

/-- A line of an L1 (01_machine, R275): by function and virtual line, with the physical line it was filled from; a foreign
line carries the stamp of its fill (R271). hyper says that a hypervisor's access filled it, whose addresses are intermediate
ones (R328). -/
structure L1Line where
  core : Nat
  hyper : Bool
  vf : Nat
  vline : Nat
  pa : Nat
  st : Moesi
  data : Vec
  poison : BitVec 8
  stamp : Option Nat
deriving DecidableEq, Repr

/-- A directory entry (R275) of a die: the quad whose slice holds it, bucket, line, state, owner, sharers. -/
structure DirEntry where
  die : Nat
  slice : Nat
  bucket : Nat
  vf : Nat
  vline : Nat
  st : Moesi
  owner : Option Nat
  sharers : List Nat
deriving DecidableEq, Repr

/-- A cached translation (R332): function, stage-1 page or none when stage 1 was off, intermediate page, result, rights. -/
structure Xlat where
  vf : Nat
  s1 : Bool
  page : Nat
  ipage : Nat
  target : Target
  rd : Bool
  wr : Bool
  ex : Bool
  us : Bool
deriving DecidableEq, Repr

/-- An outstanding page request (R331): which ring, its ID, function, page, access, whether it is posted in the ring. -/
structure PageReq where
  pf : Bool
  id : Nat
  vf : Nat
  page : Nat
  acc : Nat
  posted : Bool
deriving DecidableEq, Repr

/-- A launch of a job (R188, R189): serial number, ID, seed (ARG5), whether it is a population. The last 4,096 launches stay
listed, and every older population that still has a strand or a record (R193). -/
structure Launch where
  uid : Nat
  id : Nat
  seed : Word64
  pop : Bool
  /-- A fence has taken a strand or a record of it: its RESAMPLE waits for ever (R370). -/
  broken : Bool
deriving DecidableEq, Repr

/-- A still wave (R307, R309): pass 1 or 2, network interfaces still to read, the sums, the wave's number at its start. -/
structure Wave where
  confined : Option Nat
  pass : Nat
  todo : List Nat
  s1 : Word64
  c1 : Word64
  s2 : Word64
  c2 : Word64
  begun : Nat
deriving DecidableEq, Repr

/-- What the package holds per job: QPERIOD, WAVESTAT, launches, waves, reductions, lost messages. The last pass-2 sums and
how many waves found them are held apart for confined waves (R308, R309). -/
structure Job where
  qperiod : BitVec 24
  wavestat : Word64
  wavesIssued : Nat
  nextLaunch : Nat
  launches : List Launch
  series : Bool
  seriesStart : Nat
  nextWave : Nat
  firstOfSeries : Bool
  wave : Option Wave
  lastS2 : Word64
  lastC2 : Word64
  same : Nat
  /-- Whether the job's last wave over S and C found it still (R379). -/
  wasStill : Bool
  /-- Whether a launch of the job has been accepted (R305, R307). -/
  launched : Bool
  confS2 : Word64
  confC2 : Word64
  confSame : Nat
  reductions : List Word64
  lost : Nat
deriving DecidableEq, Repr

/-- A held push: a record that waits for its predecessor launch or for a partition change (R189, R222). -/
structure Pending where
  rec_ : Rec
  core : Nat
  pred : Nat
  /-- Begun after a PARTSET or SKIPSET that is still to take effect (R222). -/
  resize : Bool
  /-- From a launch inlet, so that the core it goes to follows from its ID when it is pushed (R287, R324). -/
  inlet : Bool
deriving DecidableEq, Repr

/-- A pending PARTSET or SKIPSET (R222): function, new BASE and LEN or a skip bit, and the launches it waits for. -/
structure Resize where
  vf : Nat
  base : Nat
  len : Nat
  skip : Option (Nat × Bool)
  waits : List Nat
deriving DecidableEq, Repr

/-- A partition: its system registers (R59), its register block (R326), its translation roots and ways, its inlet. -/
structure Part where
  part : Word64
  tvec : Word64
  deleg : Word64
  drycnt : Word64
  guar : Nat
  burst : Nat
  used : Nat
  misroute : Word64
  prqbase : Word64
  prqidx : Word64
  prqreply : Word64
  rszpc : Word64
  rszjob : Word64
  rszevt : Word64
  lptbase : Word64
  self : Nat
  jobtab : Vector Word64 16
  juvec : Vector Word64 16
  root1 : Word64
  root2 : Option Word64
  ways : BitVec 14
  present : Bool
  inlet : FMap Word64
  inletPos : Nat
  inletWaits : List PageWait
  /-- The launch whose push is held at a full deque, so that the later inlet entries wait (R287). -/
  inletHold : Option Nat
  slots : FMap (List Byte)
deriving DecidableEq, Repr

/-- A packet of the fabric (R299): its kind, where it is (die and quad), where it goes, channel and class. -/
inductive PktBody where
  | msg (m : Msg)
  | arrive (vf job sc num : Nat) (ph : Bool) (uid b core slot : Nat) (words : Option (List Byte))
  | withdraw (vf job sc num : Nat) (ph hadA : Bool) (uid b : Nat)
  | tokenRec (r : Rec)
deriving DecidableEq, Repr

/-- The class of a packet (R299). -/
inductive PktClass where
  | request | response | message | control
deriving DecidableEq, Repr

/-- The channel a packet is in on a torus ring (R301). -/
inductive Channel where
  | shared | vc0 | vc1
deriving DecidableEq, Repr

/-- A packet in flight. -/
structure Packet where
  id : Nat
  body : PktBody
  cls : PktClass
  job : Nat
  scoreQuad : Nat
  /-- The sending core; from 2^15 on, one of another package (R50 SPKG, SCORE). -/
  src : Nat
  dst : Nat
  /-- Physical package destination: none for this package; else the pod port. -/
  port : Option Nat
  at_ : Nat
  chan : Channel
  ring : Nat
  /-- Leaves the package at at_ when it has reached its port. -/
  held : Bool
deriving DecidableEq, Repr

/-- A participant of a barrier instance: its strand and register; once a fence has taken the strand, its core, its slot and the
register as it stands, so that it can still be withdrawn (R370). -/
structure Member where
  uid : Nat
  b : Nat
  lost : Option (Nat × Nat × Word64)
deriving DecidableEq, Repr

/-- A contribution to a fabric reduction (R313): its strand, the core and slot it came from, its bytes, none when poisoned. -/
structure Contrib where
  uid : Nat
  b : Nat
  job : Nat
  core : Nat
  slot : Nat
  words : List Byte
deriving DecidableEq, Repr

/-- A barrier instance (R197): function, job, scope, number, the instance's place, counts, phase, members, contributions. The arrivals
are a sum: a withdrawal may take back an arrival that has not come yet, which gone then lists with its strand and register (R311). -/
structure Barrier where
  vf : Nat
  job : Nat
  sc : Nat
  num : Nat
  place : Nat
  /-- The count that the first BARSET of the idle number fixed (R198); the participants left of it. -/
  count : Nat
  parts : Nat
  arrivals : Int
  ph : Bool
  members : List Member
  contrib : List Contrib
  gone : List (Nat × Nat)
deriving DecidableEq, Repr

/-- A black-box event (R366): doublewords 0 to 7. -/
structure Event where
  cyc : Nat
  cls : Nat
  sub : Nat
  job : Nat
  vf : Nat
  fatal : Bool
  unit_ : Nat
  seq : Nat
  args : List Word64
deriving DecidableEq, Repr

/-- The black-box ring of a die (R365), its state and its counters (R359, R364). -/
structure Die where
  ring : List Event
  frozen : Bool
  seq : Nat
  fenced : Bool
  corrected : FMap Nat
deriving DecidableEq, Repr

/-- A loss log entry (R364): the sending die, the job, the class, the sending core, the logical destination, the flits. -/
structure Loss where
  die : Nat
  job : Nat
  cls : PktClass
  core : Nat
  dest : Nat
  flits : Nat
deriving DecidableEq, Repr

/-- What leaves the package: interrupts, packets to other packages, answers to the host, DOE answers. -/
inductive Out where
  | irq (fn : Option Nat) (vector : Nat)
  | toPod (port : Nat) (p : Packet)
  | peerOp (port lpkg : Nat) (pa n : Nat)
  | hdmRead (hpa : Nat) (data : List Byte) (poison : Bool)
  | hdmWrite (hpa : Nat)
  | bisnp (line : Nat) (inv : Bool)
  | cacheReq (line : Nat) (kind : String)
  | snoop (line : Nat) (dirty : Bool) (data : List Byte) (bad : Bool)
  | mmioRead (v : Word64)
  | abort
  | token (job vf lpkg : Nat) (requests : List Nat)
  | records (port lpkg : Nat) (rs : List Rec)
  | doe (fn : Option Nat) (code : Nat) (body : List Byte)
  | cfg (retry : Bool)
  | board (v : Word64)
  | opAnswer (data : List Byte) (ok : Bool)
deriving DecidableEq, Repr

/-- A running pre-empt command (R347, R348). -/
structure Preempt where
  vf : Nat
  first : Nat
  last : Nat
  a : Nat
  q : Nat
deriving DecidableEq, Repr

/-- A bias flip in progress (R385): block, target, and how many of its 64 lines a flip to host bias has finished (R386). -/
structure Flip where
  blk : Nat
  toHost : Bool
  lines : Nat
deriving DecidableEq, Repr

/-- What the outside world does to the package without a row of the opcode table. -/
inductive Outside where
  /-- A read of n bytes at an offset of a function's BAR 0 (R378). -/
  | mmioRead (fn : Option Nat) (offset n : Nat)
  /-- The host sets B of the HDM decoder (R382). -/
  | hdmBase (hpa : Nat)
  /-- The host link trains: as CXL, or as a PCIe endpoint with a partner without 256-byte flits (R377). -/
  | linkTrain (cxl : Bool)
  /-- A message of another package arrives at a pod port (R302, R337). -/
  | podMessage (port : Nat) (m : Msg)
  /-- A message that has left for a logical package of a function has been delivered there, or logged lost (R371). -/
  | podTaken (vf lpkg : Nat)
  /-- Records that a loaded package sent with the token arrive at a pod port (R292). -/
  | podRecords (port vf lpkg : Nat) (rs : List Rec)
  /-- A lane of a link corrupts a flit, which its error counter counts (R362). -/
  | laneError (link lane : Nat)
  /-- A write of LPTINV that stays to be retired (R371, R383). -/
  | lptinv (v : Word64)
  /-- The full recall of a line of a die, or of a foreign line of a quad of it, that waits for the host; the cores whose copies come back
  uncorrectable (R360, R383). -/
  | recall (die vf line : Nat) (quad : Option Nat) (corrupt : List Nat)
  /-- A load-summary token that the package holds until the host has answered for a table entry that it needs (R292, R383). -/
  | token (t : Token)
  /-- A request of the copy engine of a quad is lost, of a read or a write (R363). -/
  | copyTimeout (q : Nat) (write : Bool)
  /-- A read of the board register BSTAT (R398); one of BCTL, which reads 0 (R399). -/
  | bstatRead
  | bctlRead
  /-- An average of the input power over 10 ms, or over 1 s, in W, that Steax's sensor has measured; the hottest junction, in °C (R399). -/
  | powerAverage (w : Nat)
  | powerSecond (w : Nat)
  | hottest (c : Nat)
deriving DecidableEq, Repr

/-- The host attachment (R377 to R388). -/
structure HostPort where
  hostBias : List Nat
  biasctl : Word64
  biasstat : Word64
  flip : Option Flip
  filter : List Nat
  hdmBase : Nat
  waitingReads : List (Nat × Nat)
  waitingWrites : List (Nat × List Byte)
  /-- Operation packets that wait for the host (R111, R383). -/
  waitingOps : List OpPacket
  /-- Walks that a reply began and that wait for the host though no strand waits on them any more (R331, R374). -/
  walks : List PageWait
  ideKeys : List Byte
  ideActive : Bool
  session : Bool
  linkUp : Bool
  /-- The link has trained as CXL, not as a PCIe endpoint (R377). -/
  cxl : Bool
deriving DecidableEq, Repr

/-- The management mailbox (R381) and the physical function's registers (R331, R337). -/
structure Mailbox where
  cmd : Word64
  stat : Word64
  args : FMap Word64
  preempt : Option Preempt
  retraining : List (Nat × Word64)
  prqbase : Word64
  prqidx : Word64
  prqreply : Word64
  lptinv : Word64
  reclaimV : Bool
deriving DecidableEq, Repr

/-- Steax (R338, R339, R395 to R399): bring-up, firmware slots, board registers. -/
structure Steax where
  ready : Bool
  fail : Bool
  stage : Nat
  slot : Nat
  resetting : Bool
  flash : FMap (List Byte)
  /-- The flash slot each component runs from, and the slot of an accepted image that runs from the next reset on (R338). -/
  running : FMap Nat
  accepted : FMap Nat
  /-- The fields of BPWR (R399). -/
  p1s : Word64
  p10m : Word64
  tmax : Word64
  badLanes : FMap Word64
  downLinks : List Nat
  /-- For a direction of a link, the serial number of the flit that fails and its failed sendings (R361). -/
  retries : FMap (Nat × Nat)
  /-- Error counters of lanes, under 64 * link + lane (R362); the rails that are off (R391). -/
  laneErrors : FMap Nat
  railsOff : List Rail
deriving DecidableEq, Repr

/-- The state of the package. tick counts steps and inputs, outbox, cur, ir are the model's own;
so is rings: the two counts of each started pipe, under the key of its control line, as the pipe instructions left them (R191). -/
structure State where
  tick : Nat
  cyc : Nat
  cur : Nat
  ir : Word32
  nextUid : Nat
  inputs : List Instr
  outside : List Outside
  outbox : List Out
  strands : FMap Strand
  cores : FMap Core
  quads : FMap Quad
  parts : FMap Part
  jobs : FMap Job
  dies : FMap Die
  mem : Memory
  poison : List Nat
  l1 : List L1Line
  dir : List DirEntry
  overfull : List DirEntry
  xlat : List Xlat
  lptCache : FMap Word64
  pageReqs : List PageReq
  skip : List Nat
  pending : List Pending
  resizes : List Resize
  rings : FMap (Word64 × Word64)
  packets : List Packet
  barriers : List Barrier
  losses : List Loss
  /-- The messages that have left at a pod port and are not yet known to be delivered or lost: function, logical package (R371). -/
  away : List (Nat × Nat)
  host : HostPort
  box : Mailbox
  steax : Steax
deriving DecidableEq, Repr

/-- The reset value of TBLSEL: TA = TB = 8 (R57). -/
def tblselReset : Word64 := 0x8800000000000000#64

/-- A core at reset (R57, R183, R304, R305). -/
def Core.reset : Core :=
  { tblsel := tblselReset, tabA := [], tabB := [], deque := [], held := [], inlet := [], noCredit := [],
    cnt := [], steal := none, gangHold := none, foot := [], stopped := false, imaged := false, yields := [],
    last := 3, nextIssue := 0 }

/-- A quad at reset (R53, R67, R207, R271). -/
def Quad.reset : Quad :=
  { names := [], nextDecl := 1, nextRank := 1, ops := [], queue := [], lastCore := 3, busyUntil := 0, mmaxBy := none, drainBy := none, copies := [], nextCopy := 1, oldOff := [],
    groups := [], rate := 0xffff#16, rateNext := none, level := 0#32, refilled := 0, gen := 0#16, bed := [], asleep := [], staleAll := [],
    bway := 0#14, bvf := 0, streams := [], icache := [] }

/-- A tarn name at reset: free, data and sidecar zero (R53, R397). -/
def Name.reset : Name :=
  { st := .free, tag := 0#29, owner := 0, dcore := 0, dslot := 0, data := [], side := [], queued := none, qcore := 0, qslot := 0,
    rank := 0, poison := [], decl := 0 }

/-- A partition at reset (R59, R63, R326, R328). -/
def Part.reset : Part :=
  { part := 0#64, tvec := 0#64, deleg := 0#64, drycnt := 0#64, guar := 0, burst := 0, used := 0, misroute := 0#64,
    prqbase := 0#64, prqidx := 0#64, prqreply := 0#64, rszpc := 0#64, rszjob := 0#64, rszevt := 0#64, lptbase := 0#64,
    self := 0, jobtab := Vector.replicate 16 0#64, juvec := Vector.replicate 16 0#64, root1 := 0#64, root2 := none,
    ways := 0#14, present := false, inlet := [], inletPos := 0, inletWaits := [], inletHold := none, slots := [] }

/-- A job before its first launch: QPERIOD 4,096, WAVESTAT 0 (R59, R68). -/
def Job.reset : Job :=
  { qperiod := 4096#24, wavestat := 0#64, wavesIssued := 0, nextLaunch := 1, launches := [], series := false,
    seriesStart := 0, nextWave := 0, firstOfSeries := false, wave := none, lastS2 := 0#64, lastC2 := 0#64, same := 0, wasStill := false, launched := false,
    confS2 := 0#64, confC2 := 0#64, confSame := 0,
    reductions := [], lost := 0 }

/-- A die at reset: an empty ring (R365, R397). -/
def Die.reset : Die := { ring := [], frozen := false, seq := 0, fenced := false, corrected := [] }

/-- Counters of a job at reset (R305). -/
def Counters.reset : Counters := { s := 0#64, c := 0#64, sr := 0#64, cr := 0#64 }

/-- A copy group at reset (R214). -/
def Group.reset : Group := { pending := 0, fail := false, canc := false, off := false }

/-- The registers a strand starts with where R44 names none: zero, weirs off. -/
def Regs.zero : Regs :=
  { g := Vector.replicate 32 0#64, v := Vector.replicate 32 0#512, k := Vector.replicate 8 0#64,
    h := Vector.replicate 8 0#64, b := Vector.replicate 4 0#64, w := Vector.replicate 8 ⟨0#64, 0#2⟩ }

/-- No progress. -/
def Progress.none : Progress :=
  { at_ := 0, block := .none, image := .none, lanesAt := .none, pending := .none, loaded := 0#512, lane := .none }

/-- A host port at reset: device bias everywhere (R383). -/
def HostPort.reset : HostPort :=
  { hostBias := [], biasctl := 0#64, biasstat := 0#64, flip := none, filter := [], hdmBase := 0, waitingReads := [],
    waitingWrites := [], waitingOps := [], walks := [], ideKeys := [], ideActive := false, session := false, linkUp := false, cxl := true }

/-- The mailbox and the physical function's registers at reset (R331, R381). -/
def Mailbox.reset : Mailbox :=
  { cmd := 0#64, stat := 0#64, args := [], preempt := none, retraining := [], prqbase := 0#64, prqidx := 0#64,
    prqreply := 0#64, lptinv := 0#64, reclaimV := false }

/-- Steax right after cold reset, before bring-up (R397, R398). -/
def Steax.reset : Steax :=
  { ready := false, fail := false, stage := 0, slot := 0, resetting := false, flash := [], running := [], accepted := [], p1s := 0#64, p10m := 0#64, tmax := 0#64,
    badLanes := [], downLinks := [], retries := [], laneErrors := [],
    railsOff := [.vdds, .vddp] ++ (List.range 32).map .vddc ++ (List.range 32).map .vddb }

/-- The package right after a cold reset (R395): no strand anywhere, CYC 0, every memory as R397 leaves it, bring-up not
begun. -/
def State.reset : State :=
  { tick := 0, cyc := 0, cur := 0, ir := 0#32, nextUid := 1, inputs := [], outside := [], outbox := [], strands := [], cores := [],
    quads := [], parts := [], jobs := [], dies := [], mem := [], poison := [], l1 := [], dir := [], overfull := [],
    xlat := [], lptCache := [], pageReqs := [], skip := [], pending := [], resizes := [], rings := [], packets := [], barriers := [],
    losses := [], away := [], host := HostPort.reset, box := Mailbox.reset, steax := Steax.reset }

end Sys2Proof.Machine
end

