-- ==== Sys2Proof/Machine/Units.lean ====
section
/-!
DEFINITION. Reading and writing the units of the package by their numbers (R10), the registers of a strand (R38), the bytes
of memory (R3), and the places of cores and quads in dies and partitions (R320, R321).
-/
namespace Sys2Proof.Machine

/-- The strand with a serial number. -/
def State.strand? (s : State) (u : Nat) : Option Strand := FMap.get? s.strands u
/-- The state with a strand replaced. -/
def State.putStrand (s : State) (u : Nat) (t : Strand) : State := { s with strands := FMap.set s.strands u t }
/-- The state with a strand removed. -/
def State.dropStrand (s : State) (u : Nat) : State := { s with strands := FMap.erase s.strands u }
/-- Changes a strand, when it lives. -/
def State.modStrand (s : State) (u : Nat) (f : Strand → Strand) : State :=
  match s.strand? u with
  | some t => s.putStrand u (f t)
  | none => s
/-- The core with a package core number (R10). -/
def State.core (s : State) (c : Nat) : Core := FMap.getD s.cores c Core.reset
/-- The state with a core replaced. -/
def State.putCore (s : State) (c : Nat) (x : Core) : State := { s with cores := FMap.set s.cores c x }
/-- The quad with a package quad number, 256 * die + quad in die. -/
def State.quad (s : State) (q : Nat) : Quad := FMap.getD s.quads q Quad.reset
/-- The state with a quad replaced. -/
def State.putQuad (s : State) (q : Nat) (x : Quad) : State := { s with quads := FMap.set s.quads q x }
/-- The partition of a function (R325). -/
def State.part (s : State) (v : Nat) : Part := FMap.getD s.parts v Part.reset
/-- The state with a partition replaced. -/
def State.putPart (s : State) (v : Nat) (x : Part) : State := { s with parts := FMap.set s.parts v x }
/-- What the package holds of a job. -/
def State.job (s : State) (j : Nat) : Job := FMap.getD s.jobs j Job.reset
/-- The state with a job replaced. -/
def State.putJob (s : State) (j : Nat) (x : Job) : State := { s with jobs := FMap.set s.jobs j x }
/-- A die. -/
def State.die (s : State) (d : Nat) : Die := FMap.getD s.dies d Die.reset
/-- The state with a die replaced. -/
def State.putDie (s : State) (d : Nat) (x : Die) : State := { s with dies := FMap.set s.dies d x }
/-- A tarn name of a quad (R52). -/
def Quad.name (q : Quad) (n : Nat) : Name := FMap.getD q.names n Name.reset
/-- The quad with a name replaced. -/
def Quad.putName (q : Quad) (n : Nat) (x : Name) : Quad := { q with names := FMap.set q.names n x }
/-- A copy group of a quad (R214). -/
def Quad.group (q : Quad) (g : Nat) : Group := FMap.getD q.groups g Group.reset
/-- The counters of a job at a core's network interface (R305). -/
def Core.counters (c : Core) (j : Nat) : Counters := FMap.getD c.cnt j Counters.reset
/-- Something leaves the package. -/
def State.emit (s : State) (o : Out) : State := { s with outbox := s.outbox ++ [o] }

/-- The number of a core's quad in the package, of its die, and of a quad's die (R10). -/
def quadOf (c : Nat) : Nat := c / 4
/-- The die of a core (R10). -/
def dieOf (c : Nat) : Nat := c / 1024
/-- The die of a quad. -/
def dieOfQuad (q : Nat) : Nat := q / 256

/-- The direction of a packet's next die-to-die hop (R301): the row ring first, the shorter way, east at distance 4, south at
distance 2. -/
def nextDir (d dst : Nat) : Option Nat :=
  let e := (dst % 8 + 8 - d % 8) % 8
  let n := (dst / 8 + 4 - d / 8) % 4
  if e ≠ 0 then some (if e ≤ 4 then 1 else 3)
  else if n ≠ 0 then some (if n ≤ 2 then 2 else 0) else none

/-- The die in a direction on the torus (R17). -/
def dieToward (d dir : Nat) : Nat :=
  let r := d / 8
  let c := d % 8
  if dir = 1 then 8 * r + (c + 1) % 8 else if dir = 3 then 8 * r + (c + 7) % 8
  else if dir = 2 then 8 * ((r + 1) % 4) + c else 8 * ((r + 3) % 4) + c

/-- The number of a die-to-die link: each die numbers the one to its east and the one to its south; pod port p is link
64 + p (R381). -/
def linkOf (d dir : Nat) : Nat :=
  if dir = 1 then 2 * d else if dir = 2 then 2 * d + 1 else if dir = 3 then 2 * dieToward d 3 else 2 * dieToward d 0 + 1

/-- The die on the sending side of the first link that is down on the way of a packet from a die to another (R301, R361, R401). -/
def Steax.cutWay (x : Steax) : Nat → Nat → Nat → Option Nat
  | 0, _, _ => none
  | fuel + 1, d, dst =>
    match nextDir d dst with
    | none => none
    | some dir => if x.downLinks.contains (linkOf d dir) then some d else x.cutWay fuel (dieToward d dir) dst

/-- Where a request from a die to another, or its response, is lost on a link that is down (R299, R361, R363): the die on the sending
side, and the class of the packet. -/
def State.cutSide (s : State) (a b : Nat) : Option (Nat × PktClass) :=
  if s.steax.downLinks.isEmpty then none
  else
    match s.steax.cutWay 8 a b with
    | some d => some (d, .request)
    | none => (s.steax.cutWay 8 b a).map fun d => (d, .response)

/-- Whether a request from a die to another, or its response, meets a link that is down. -/
def State.cutDies (s : State) (a b : Nat) : Bool := (s.cutSide a b).isSome

/-- One turn of HilbertXY (R320): side s, position (x, y), index t. -/
def hilbertTurn (s : Nat) (p : Nat × Nat × Nat) : Nat × Nat × Nat :=
  let (x, y, t) := p
  let rx := (t / 2) % 2
  let ry := (t % 2 + rx) % 2
  let (x, y) := if ry = 0 then (let (x, y) := if rx = 1 then (s - 1 - x, s - 1 - y) else (x, y); (y, x)) else (x, y)
  (x + s * rx, y + s * ry, t / 4)

/-- HilbertXY of R320: the position of index h of a die's curve. -/
def hilbertXY (h : Nat) : Nat × Nat :=
  let p := hilbertTurn 8 (hilbertTurn 4 (hilbertTurn 2 (hilbertTurn 1 (0, 0, h))))
  (p.1, p.2.1)

/-- The quad with a Hilbert index (R320). -/
def quadOfHilbert (hh : Nat) : Nat :=
  let p := hh / 256
  let dr := p / 8
  let dc := if dr % 2 = 0 then p % 8 else 7 - p % 8
  let (xm, y) := hilbertXY (hh % 256)
  let x := if dr % 2 = 0 then xm else 15 - xm
  256 * (8 * dr + dc) + 16 * y + x

/-- The Hilbert index of a quad (R320). -/
def hilbertOf (q : Nat) : Nat :=
  let d := q / 256
  let dr := d / 8
  let dc := d % 8
  let p := 8 * dr + (if dr % 2 = 0 then dc else 7 - dc)
  let base := 256 * p
  base + ((List.range 256).find? (fun h => quadOfHilbert (base + h) == q)).getD 0

/-- BASE and LEN of a partition (R63). -/
def Part.base (p : Part) : Nat := bitsNat p.part 12 0
/-- LEN of a partition: its length in quads less 1. -/
def Part.len (p : Part) : Nat := bitsNat p.part 26 14
/-- The bytes of a private pool window (R49, R63). -/
def Part.window (p : Part) : Nat :=
  let w := bitsNat p.part 57 55
  if w = 0 || w = 7 then 0 else 2 ^ (w + 8)
/-- Whether a Hilbert index lies in a partition (R321). -/
def Part.holds (p : Part) (h : Nat) : Bool := p.present && p.base ≤ h && h ≤ p.base + p.len
/-- The Hilbert indices of a partition that are not skip-masked, ascending (R321, R322). -/
def State.partQuads (s : State) (v : Nat) : List Nat :=
  let p := s.part v
  if p.present then ((List.range (p.len + 1)).map (p.base + ·)).filter (fun h => !s.skip.contains h) else []
/-- Whether a core belongs to a partition and may be reached (R110, R321, R322). -/
def State.coreIn (s : State) (v c : Nat) : Bool :=
  let h := hilbertOf (quadOf c)
  (s.part v).holds h && !s.skip.contains h && !(s.die (dieOf c)).fenced
/-- The partition a core belongs to. -/
def State.partOfCore (s : State) (c : Nat) : Option Nat :=
  let h := hilbertOf (quadOf c)
  if s.skip.contains h then none else (s.parts.find? (fun p => p.2.holds h)).map (·.1)
/-- The partition's first die (R321). -/
def State.firstDie (s : State) (v : Nat) : Nat :=
  match s.partQuads v with
  | h :: _ => dieOfQuad (quadOfHilbert h)
  | [] => 0

/-- A register of the g file; g0 reads zero (R6, R38). -/
def Strand.g (t : Strand) (r : BitVec 5) : Word64 := if r = 0#5 then 0#64 else t.regs.g[r.toNat]
/-- Register number n of the g file, for groups of registers. -/
def Strand.gN (t : Strand) (n : Nat) : Word64 := t.g (BitVec.ofNat 5 n)
/-- A write to g0 is discarded (R6). -/
def Strand.setG (t : Strand) (r : BitVec 5) (x : Word64) : Strand :=
  if r = 0#5 then t else { t with regs := { t.regs with g := t.regs.g.set r.toNat x } }
/-- Writes register number n of the g file. -/
def Strand.setGN (t : Strand) (n : Nat) (x : Word64) : Strand := t.setG (BitVec.ofNat 5 n) x
/-- A vector register. -/
def Strand.v (t : Strand) (r : BitVec 5) : Vec := t.regs.v[r.toNat]
/-- Writes a vector register. -/
def Strand.setV (t : Strand) (r : BitVec 5) (x : Vec) : Strand :=
  { t with regs := { t.regs with v := t.regs.v.set r.toNat x } }
/-- A mask register. -/
def Strand.k (t : Strand) (r : BitVec 3) : Word64 := t.regs.k[r.toNat]
/-- Writes a mask register. -/
def Strand.setK (t : Strand) (r : BitVec 3) (x : Word64) : Strand :=
  { t with regs := { t.regs with k := t.regs.k.set r.toNat x } }
/-- A pipe handle. -/
def Strand.h (t : Strand) (r : BitVec 3) : Word64 := t.regs.h[r.toNat]
/-- Writes a pipe handle. -/
def Strand.setH (t : Strand) (r : BitVec 3) (x : Word64) : Strand :=
  { t with regs := { t.regs with h := t.regs.h.set r.toNat x } }
/-- A barrier register. -/
def Strand.b (t : Strand) (r : BitVec 2) : Word64 := t.regs.b[r.toNat]
/-- Writes a barrier register. -/
def Strand.setB (t : Strand) (r : BitVec 2) (x : Word64) : Strand :=
  { t with regs := { t.regs with b := t.regs.b.set r.toNat x } }
/-- A weir. -/
def Strand.w (t : Strand) (r : BitVec 3) : Weir := t.regs.w[r.toNat]
/-- Writes a weir. -/
def Strand.setW (t : Strand) (r : BitVec 3) (x : Weir) : Strand :=
  { t with regs := { t.regs with w := t.regs.w.set r.toNat x } }

/-- A strand's registers and place at birth (R44): everything that is zero or empty there. -/
def Strand.newborn (kind : Kind) (vf job core slot : Nat) : Strand :=
  { kind := kind, vf := vf, birthJob := job, core := core, slot := some slot, launch := 0, anc := [], pop := none,
    group := 0, triggered := false, code := false, win := none, released := false, marked := false, pc := 0, regs := Regs.zero,
    sys := { status := 0#64, tcause := 0#64, tpc := 0#64, tval := 0#64, utvec := 0#64, lineage := 0#64,
             job := BitVec.ofNat 64 job, fflags := 0#64, frm := 0#64, lpkg := 0 },
    run := .running, prog := Progress.none, since := 0, wokenAt := 0, buf := [], vflags := [], answered := false,
    filled := none, refused := [], timeout := false, asked := [], points := [], readyAt := 0, doom := none, watch := 0, parked := [], preempt := none, fromPark := false, delivery := none, pendingClone := false,
    pinned := false, reduced := [] }

/-- The mode of a strand (R60): 0 user, 1 supervisor, 2 hypervisor. -/
def Strand.mode (t : Strand) : Nat := bitsNat t.sys.status 7 6

/-- Where host memory, peer packages, pools and B-operand regions lie among the keys of memory. -/
def memHost : Nat := 2 ^ 64
/-- Peer packages: 2^39 keys each. -/
def memPeer : Nat := 2 ^ 80
/-- Pools: 2^17 keys for each core. -/
def memPool : Nat := 2 ^ 100
/-- B-operand regions: 2^22 keys for each quad (R223). -/
def memRegion : Nat := 2 ^ 110
/-- The structures that only errors are addressed in (R357), one range of keys each: the names of a quad (tile slots), the
lines of its bed column, its park frames, the lines of a core's L1, a core's inlet and overflow slots, a die's directory
entries, instruction caches and translation caches. -/
def memTile : Nat := 2 ^ 112
/-- The lines of bed columns. -/
def memBed : Nat := 2 ^ 114
/-- Park frames, by strand. -/
def memFrame : Nat := 2 ^ 130
/-- The lines of L1s. -/
def memL1 : Nat := 2 ^ 132
/-- Inlet and overflow slots. -/
def memInlet : Nat := 2 ^ 150
/-- Directory entries, instruction caches, translation caches. -/
def memCount : Nat := 2 ^ 152

/-- The key of a byte of a name's data, or past 4,096 of its sidecar. -/
def tileKey (q n byte : Nat) : Nat := memTile + (q * 256 + n) * 2 ^ 13 + byte
/-- The key of the first byte of a bed column's copy of a line. -/
def bedKey (q vf vline : Nat) : Nat := memBed + ((q * 64 + vf) * 2 ^ 50 + vline) * 64
/-- The key of the first byte of a strand's park frame. -/
def frameKey (u : Nat) : Nat := memFrame + u * 2 ^ 18
/-- The key of the first byte of a core's L1 copy of a line. -/
def l1Key (c vf vline : Nat) : Nat := memL1 + ((c * 64 + vf) * 2 ^ 50 + vline) * 64
/-- The key of the first byte of a core's inlet or overflow slot. -/
def inletKey (c slot : Nat) : Nat := memInlet + (c * 512 + slot) * 512

/-- The key of the first byte a target names. -/
def Target.key : Target → Nat
  | .dry => 0
  | .loc pa => pa
  | .peer l pa => memPeer + l * 2 ^ 39 + pa
  | .host h => memHost + h
  | .pool c o => memPool + c * 2 ^ 17 + o

/-- The target n bytes further on. -/
def Target.plus (t : Target) (n : Nat) : Target :=
  match t with
  | .dry => .dry
  | .loc pa => .loc (pa + n)
  | .peer l pa => .peer l (pa + n)
  | .host h => .host (h + n)
  | .pool c o => .pool c (o + n)

/-- The byte at a key; an unlisted key reads zero. -/
def Memory.read (m : Memory) (k : Nat) : Byte := FMap.getD m k 0#8

/-- Writes a byte; a zero byte is not listed, so that equal memories are equal lists. -/
def Memory.write (m : Memory) (k : Nat) (b : Byte) : Memory := if b = 0#8 then FMap.erase m k else FMap.set m k b

/-- The canonical form: keys strictly rising, no listed zero. -/
def Memory.wf (m : Memory) : Bool := FMap.wf m && m.all (fun c => c.2 ≠ 0#8)

/-- n bytes from a key, ascending. -/
def Memory.bytes (m : Memory) (k n : Nat) : List Byte :=
  match n with
  | 0 => []
  | n + 1 => Memory.read m k :: Memory.bytes m (k + 1) n

/-- Writes bytes from a key, ascending. -/
def Memory.put (m : Memory) (k : Nat) (bs : List Byte) : Memory :=
  match bs with
  | [] => m
  | b :: r => Memory.put (Memory.write m k b) (k + 1) r

/-- The number that bytes hold, little-endian (R3). -/
def leNat : List Byte → Nat
  | [] => 0
  | b :: r => b.toNat + 256 * leNat r

/-- The n little-endian bytes of a number (R3). -/
def leBytes (n x : Nat) : List Byte :=
  match n with
  | 0 => []
  | n + 1 => BitVec.ofNat 8 x :: leBytes n (x / 256)

/-- The doubleword at a key. -/
def Memory.dword (m : Memory) (k : Nat) : Word64 := BitVec.ofNat 64 (leNat (Memory.bytes m k 8))

/-- The doublewords of a list of bytes. -/
def dwords (bs : List Byte) (n : Nat) : List Word64 :=
  (List.range n).map fun i => BitVec.ofNat 64 (leNat ((bs.drop (8 * i)).take 8))

/-- The size of the ECC granule of the place a key lies in (R357): GDDR-7 and peers 32, host lines 64, pools, inlet slots and
L1s 8, bed and tile slots 16. -/
def granule (k : Nat) : Nat :=
  if k < memHost then 32 else if k < memPeer then 64 else if k < memPool then 32 else if k < memRegion then 8
  else if k < memL1 then 16 else if k < memCount then 8 else 1

/-- Whether any of n bytes at a key lies in a poisoned granule (R112). -/
def State.poisoned (s : State) (k n : Nat) : Bool :=
  s.poison.any fun p => p < k + n && k < p + granule p

/-- The lowest poisoned granule among n bytes at a key (R122, R209). -/
def State.poisonAt (s : State) (k n : Nat) : Option Nat :=
  (s.poison.filter fun p => p < k + n && k < p + granule p).min?

/-- Marks the granules of n bytes at a key as poisoned (R358). -/
def State.setPoison (s : State) (k n : Nat) : State :=
  let z := granule k
  let ks := (List.range (ceilDiv n z + 1)).map (fun i => k / z * z + i * z) |>.filter (fun p => p < k + n)
  { s with poison := (s.poison ++ ks.filter (fun p => !s.poison.contains p)).insertionSort (· ≤ ·) }

/-- The poison of n bytes goes with a copy of them to another place (R358). -/
def State.carryPoison (s : State) (from_ to_ n : Nat) : State :=
  (s.poison.filter fun p => p < from_ + n && from_ < p + granule p).foldl (fun s p =>
    let lo := max p from_
    s.setPoison (to_ + (lo - from_)) (min (p + granule p) (from_ + n) - lo)) s

/-- Clears the poison of every granule that n bytes at a key cover whole (R115, R358). -/
def State.clearPoison (s : State) (k n : Nat) : State :=
  { s with poison := s.poison.filter fun p => !(k ≤ p && p + granule p ≤ k + n) }

/-- Writes bytes at their home: merged, clearing the poison of granules written whole (R115). -/
def State.putHome (s : State) (k : Nat) (bs : List Byte) : State :=
  { (s.clearPoison k bs.length) with mem := Memory.put s.mem k bs }

/-- Makes every waiting strand that the test picks ready again; its instruction makes its checks again from the start. -/
def State.wake (s : State) (test : Nat → Strand → Wait → Bool) : State :=
  { s with strands := FMap.map s.strands fun u t =>
      match t.run with
      | .waiting w => if test u t w then { t with run := .running, wokenAt := s.tick } else t
      | .running => t }

/-- Adds to S and C of a job at a core's network interface (R306). -/
def State.count (s : State) (core job ds dc : Nat) : State :=
  let c := s.core core
  let x := c.counters job
  let y : Counters := { x with s := x.s + BitVec.ofNat 64 ds, c := x.c + BitVec.ofNat 64 dc }
  s.putCore core { c with cnt := FMap.set c.cnt job y }

/-- Adds to SR and CR of a job at a core's network interface (R309). -/
def State.countMarked (s : State) (core job ds dc : Nat) : State :=
  let c := s.core core
  let x := c.counters job
  let y : Counters := { x with sr := x.sr + BitVec.ofNat 64 ds, cr := x.cr + BitVec.ofNat 64 dc }
  s.putCore core { c with cnt := FMap.set c.cnt job y }

/-- Starts a job's next series of still waves when none runs (R307): at a message counted sent, a QFIX, a STILL; before the job's
first launch is accepted it has none. -/
def State.startSeries (s : State) (job : Nat) : State :=
  let j := s.job job
  if j.series || !j.launched then s
  else s.putJob job { j with series := true, seriesStart := 2 * s.cyc, nextWave := 2 * s.cyc + j.qperiod.toNat, firstOfSeries := true }

/-- The first launch of a job is accepted (R305, R307): its counters start at 0 at every network interface, and its first series of
still waves starts. -/
def State.jobStart (s : State) (job : Nat) : State :=
  let j := s.job job
  if j.launched then s
  else
    let s : State := { s with cores := FMap.map s.cores fun _ c => { c with cnt := FMap.erase c.cnt job } }
    (s.putJob job { j with launched := true }).startSeries job

/-- Counts a message of a job as sent at a core (R306). -/
def State.sent (s : State) (core job : Nat) : State := (s.count core job 1 0).startSeries job
/-- Counts a message of a job as consumed at a core; a marked one in CR as well (R306, R309). -/
def State.consumed (s : State) (core job : Nat) (marked : Bool) : State :=
  let s := s.count core job 0 1
  if marked then s.countMarked core job 0 1 else s

/-- Writes an event to the ring of a die, overwriting the oldest of 1,024; a frozen ring takes none (R365, R366). -/
def State.event (s : State) (die cls sub job vf unit_ : Nat) (args : List Word64) : State :=
  let d := s.die die
  if d.frozen then s
  else
    let e : Event := ⟨s.cyc, cls, sub, job, vf, false, unit_, d.seq, args⟩
    s.putDie die { d with seq := d.seq + 1, ring := ((d.ring ++ [e]).reverse.take 1024).reverse }

/-- The unit number of a strand in an event (R366). -/
def Strand.unit (t : Strand) : Nat := 4 * t.core + t.slot.getD 0

/-- A packet that reaches a unit that must not take it (R321, R327, R337): counted, and recorded with its address (R367). -/
def State.misroute (s : State) (vf die job unit_ addr : Nat) : State :=
  let p := s.part vf
  let s := s.putPart vf { p with misroute := if p.misroute = BitVec.allOnes 64 then p.misroute else p.misroute + 1#64 }
  s.event die 0x08 2 job vf unit_ [BitVec.ofNat 64 addr]

/-- Adds discarded bytes to DRYCNT, saturating (R33). -/
def State.dryBytes (s : State) (vf n : Nat) : State :=
  let p := s.part vf
  s.putPart vf { p with drycnt := BitVec.ofNat 64 (min (p.drycnt.toNat + n) (2 ^ 64 - 1)) }

/-- The quad after an acquire at p or s by a party of it: its generation advances; a wrap discards the foreign lines of
awake banks and sets the stale-all flag of sleeping ones (R271, R273, R274). -/
def Quad.acquire (q : Quad) : Quad :=
  let g := q.gen + 1#16
  if g = 0#16 then
    { q with gen := g, bed := q.bed.filter (fun l => l.host || q.asleep.contains (Config.bedBank l.vline)),
             staleAll := (q.staleAll ++ q.asleep.filter (fun b => !q.staleAll.contains b)) }
  else { q with gen := g }

/-- Whether a directory entry speaks of an L1 line (R275): a die-local line's for its die, a foreign line's for its quad. -/
def DirEntry.covers (e : DirEntry) (l : L1Line) : Bool :=
  e.vf == l.vf && e.vline == l.vline && (if l.stamp.isSome then e.slice == quadOf l.core else e.die == dieOf l.core)

/-- A directory entry as the L1s now hold its line; none where no L1 holds it any more (R275). -/
def DirEntry.refreshed (e : DirEntry) (l1 : List L1Line) : Option DirEntry :=
  let cs := l1.filter e.covers
  if cs.isEmpty then none
  else
    let own := cs.find? fun l => l.st ≠ .s
    some { e with st := (own.map L1Line.st).getD .s, owner := own.map L1Line.core,
                  sharers := (cs.filter fun l => l.st = .s).map L1Line.core }

/-- The foreign lines of a quad's L1s are given up, with the directory entries of its column that no L1 needs then (R273). -/
def State.dropForeign (s : State) (q : Nat) : State :=
  let l1 := s.l1.filter fun l => !(quadOf l.core == q && l.stamp.isSome)
  { s with l1 := l1, dir := s.dir.filter fun e => !(e.slice == q) || l1.any e.covers }

/-- An acquire at p or s by a party of quad q (R271); a wrap of the generation leaves no foreign line in its L1s (R273). -/
def State.acquire (s : State) (q : Nat) : State :=
  let x := (s.quad q).acquire
  let s := s.putQuad q x
  if x.gen = 0#16 then s.dropForeign q else s

/-- LEVEL after n refills (R295). -/
def Quad.levelAfter (q : Quad) (n : Nat) : Nat := if n = 0 then q.level.toNat else min (q.level.toNat + n * q.rate.toNat) (q.rate.toNat * 2 ^ 15)

/-- The refill that lets a held request of a cost be served, of the next n: the first after which LEVEL covers the cost. -/
def Quad.servedAt (q : Quad) (cost n : Nat) : Option Nat :=
  let r := q.rate.toNat
  let k := if r = 0 then 1 else max 1 (ceilDiv (cost - q.level.toNat) r)
  if k ≤ n && cost ≤ q.levelAfter k then some k else none

/-- The quad after n refills, in none of which a held request can be served. -/
def Quad.fillBy (q : Quad) (n : Nat) : Quad := { q with level := BitVec.ofNat 32 (q.levelAfter n), refilled := q.refilled + n }

/-- LEVEL as the refills of the cycles that have passed leave it (R295): one in each cycle that is a multiple of 256. A request
held for energy is served at the refill that covers its cost, and occupies the datapath from that cycle on (R13). -/
def Quad.refill (q : Quad) (cyc : Nat) : Quad :=
  let n := cyc / 256 - q.refilled
  if n = 0 then q
  else
    match q.ops.find? fun o => o.owes ≠ 0 with
    | none => q.fillBy n
    | some o =>
      match q.servedAt o.owes n with
      | none => q.fillBy n
      | some k =>
        let x := q.fillBy k
        let x := { x with level := x.level - BitVec.ofNat 32 o.owes, busyUntil := 256 * x.refilled + o.occ,
                          ops := List.map (fun (p : MatOp) => if p.owes = 0 then p else { p with owes := 0 }) x.ops }
        x.fillBy (n - k)

/-- Whether an accepted request of the quad is held for energy (R295). -/
def Quad.owed (x : Quad) : Bool := x.ops.any fun o => o.owes ≠ 0

/-- The quad in a cycle: a refill that has come may have served the held request (R295). -/
def Quad.refreshed (x : Quad) (cyc : Nat) : Quad := if x.owed then x.refill cyc else x

/-- The quad with a RATE set, from its next refill on (R224). -/
def Quad.setRate (q : Quad) (cyc : Nat) (r : BitVec 16) : Quad := { q.refill cyc with rate := r, rateNext := none }

/-- Sets or clears the skip bit of a Hilbert index (R222); a cleared bit lets the ESET made meanwhile take effect (R322). -/
def State.setSkip (s : State) (h : Nat) (on : Bool) : State :=
  if on then { s with skip := if s.skip.contains h then s.skip else s.skip ++ [h] }
  else
    let s : State := { s with skip := s.skip.filter (· ≠ h) }
    let q := quadOfHilbert h
    match (s.quad q).rateNext with
    | some r => s.putQuad q ((s.quad q).setRate s.cyc r)
    | none => s

/-- The number of a scope (R9). -/
def scopeNum : Scope → Nat
  | .c => 0 | .q => 1 | .d => 2 | .p => 3 | .s => 4

/-- Whether an ordering is an acquire (R126, R127). -/
def ordAcquires : MOrd → Bool
  | .acq | .ar => true
  | .rlx | .rel => false

/-- The generation advance that an acquire with an ordering and a scope makes (R271). -/
def State.acquireAt (s : State) (q : Nat) (o : MOrd) (sc : Scope) : State :=
  if ordAcquires o && 3 ≤ scopeNum sc then s.acquire q else s

end Sys2Proof.Machine
end

