-- ==== Sys2Proof/WellFormed.lean ====
section
/-!
DEFINITION. Which terms of the syntax are instructions: the type codes each vector instruction accepts (R135, R138, R140,
R144, R145, R148), the orderings and scopes of atomics and PROMOTE (R124, R128), and the operand ranges of the rows that
have no word.
-/
namespace Sys2Proof

/-- The number of a type in the t field (R85). -/
def EType.num : EType → Nat
  | .s8 => 0 | .s16 => 1 | .s32 => 2 | .s64 => 3 | .z8 => 4 | .z16 => 5 | .z32 => 6 | .z64 => 7
  | .bf16 => 8 | .f16 => 9 | .f32 => 10 | .c8a => 11 | .c8b => 12 | .c4 => 13

/-- An integer type (R229). -/
def EType.isInt (t : EType) : Bool := t.num ≤ 7

/-- A signed integer type (R134). -/
def EType.isSigned (t : EType) : Bool := t.num ≤ 3

/-- A floating type (R230). -/
def EType.isFloat (t : EType) : Bool := 8 ≤ t.num && t.num ≤ 10

/-- A code type (R57, R145). -/
def EType.isCode (t : EType) : Bool := 11 ≤ t.num

/-- The type codes a vector instruction accepts (R135, R138, R140, R144, R148); true where it has no t field. -/
def Instr.typeOk : Instr → Bool
  | .vadd _ _ _ _ t | .vsub _ _ _ _ t | .vmul _ _ _ _ t | .vfma _ _ _ _ t | .vfnma _ _ _ _ t
  | .vmin _ _ _ _ t | .vmax _ _ _ _ t => t.num ≤ 10
  | .vrcpe _ _ _ t | .vrsqe _ _ _ t => t.isFloat
  | .vadds _ _ _ _ t | .vsubs _ _ _ _ t | .vand _ _ _ _ t | .vor _ _ _ _ t | .vxor _ _ _ _ t
  | .vsl _ _ _ _ t | .vsr _ _ _ _ t => t.isInt
  | .vceq _ _ _ _ t | .vcne _ _ _ _ t | .vclt _ _ _ _ t | .vcle _ _ _ _ t => t.num ≤ 10
  | .vlds _ _ _ _ t | .vsts _ _ _ _ t => t.num ≤ 12
  | .vgather _ _ _ _ t | .vscatter _ _ _ _ t => t.num = 2 || t.num = 3 || t.num = 6 || t.num = 7 || t.num = 10
  | .vperm _ _ _ _ t | .vshuf _ _ _ _ t => t.num ≤ 12
  | .viota _ _ t => t.num ≤ 10
  | .vredsum _ _ _ t | .vredmin _ _ _ t | .vredmax _ _ _ t | .vrand _ _ _ _ t => t.num ≤ 10
  | .vaddi _ t _ => t.num ≤ 10
  | _ => true

/-- The conversions of R145: rounding codes 5 to 7 are reserved, integers and codes do not convert into each other, codes
do not convert into codes, and an encoding has no rounding mode but 0 or 1. -/
def vcvtOk (u : EType) (r : BitVec 3) (t : EType) : Bool :=
  r.toNat ≤ 4 &&
    (if u.isCode then t.isFloat
     else if t.isCode then u.isFloat && r.toNat ≤ 1
     else true)

/-- An instruction the manual defines (R78, R79 check 3). -/
def Instr.wf (i : Instr) : Bool :=
  i.typeOk &&
    match i with
    | .amoLdW _ _ _ o _ | .amoLdD _ _ _ o _ => o = .rlx || o = .acq
    | .amoStW _ _ o _ | .amoStD _ _ o _ => o = .rlx || o = .rel
    | .promote _ _ o c => (o = .acq || o = .ar) && c ≠ .c
    | .vcvt _ _ u r t => vcvtOk u r t
    | _ => true

end Sys2Proof
end

