-- ==== Sys2Proof/Machine/Flags.lean ====
section
/-!
DEFINITION. Number formats, exact values, rounding with its flags (R229 to R238), decode tables and the encoding search (R239
to R244), FAdd32 (R125), reduction words (R251, R252) and Mix64 (R246).
-/
namespace Sys2Proof.Machine

/-- The flag bits of FFLAGS (R64). -/
def flNV : BitVec 5 := 16#5
/-- Divide by zero. -/
def flDZ : BitVec 5 := 8#5
/-- Overflow. -/
def flOF : BitVec 5 := 4#5
/-- Underflow. -/
def flUF : BitVec 5 := 2#5
/-- Inexact. -/
def flNX : BitVec 5 := 1#5

/-- A floating format (R230): fraction bits, exponent bits, bias, and whether subnormals are flushed. -/
structure Fmt where
  f : Nat
  eb : Nat
  bias : Nat
  flush : Bool
deriving DecidableEq, Repr

/-- FP32 (R230). -/
def fF32 : Fmt := ⟨23, 8, 127, false⟩
/-- FP16 (R230). -/
def fF16 : Fmt := ⟨10, 5, 15, false⟩
/-- BF16, and the E8M7 block scale (R230). -/
def fBF16 : Fmt := ⟨7, 8, 127, false⟩
/-- E8M10 (R230). -/
def fE8M10 : Fmt := ⟨10, 8, 127, true⟩

/-- An exact value: a NaN (signalling or not), an infinity, or sign and magnitude n / d with d positive (R230, R233). -/
inductive Val where
  | nan (signalling : Bool)
  | inf (neg : Bool)
  | fin (neg : Bool) (n d : Nat)
deriving DecidableEq, Repr

/-- n times 2 to an integer power, as a fraction. -/
def scale2 (n : Nat) (e : Int) : Nat × Nat := if 0 ≤ e then (n * 2 ^ e.toNat, 1) else (n, 2 ^ (-e).toNat)

/-- The value of a pattern (R230, R232). -/
def Fmt.value (t : Fmt) (p : Nat) : Val :=
  let s := p / 2 ^ (t.f + t.eb) % 2 = 1
  let e := p / 2 ^ t.f % 2 ^ t.eb
  let fr := p % 2 ^ t.f
  if e = 0 then
    (if fr = 0 || t.flush then .fin s 0 1 else
      let (n, d) := scale2 fr (1 - (t.bias : Int) - t.f)
      .fin s n d)
  else if e = 2 ^ t.eb - 1 then (if fr = 0 then .inf s else .nan (fr < 2 ^ (t.f - 1)))
  else
    let (n, d) := scale2 (2 ^ t.f + fr) ((e : Int) - t.bias - t.f)
    .fin s n d

/-- The canonical quiet NaN (R231). -/
def Fmt.cnan (t : Fmt) : Nat := (2 ^ t.eb - 1) * 2 ^ t.f + 2 ^ (t.f - 1)
/-- A sign bit. -/
def Fmt.sign (t : Fmt) (neg : Bool) : Nat := if neg then 2 ^ (t.f + t.eb) else 0
/-- An infinity. -/
def Fmt.infPat (t : Fmt) (neg : Bool) : Nat := t.sign neg + (2 ^ t.eb - 1) * 2 ^ t.f
/-- The largest finite magnitude. -/
def Fmt.maxPat (t : Fmt) (neg : Bool) : Nat := t.sign neg + (2 ^ t.eb - 1) * 2 ^ t.f - 1

/-- n / d in units of 2^u, rounded by a mode to an integer, and whether it is exact (R233 step 4). -/
def roundAt (mode : Nat) (neg : Bool) (n d : Nat) (u : Int) : Nat × Bool :=
  let num := if 0 ≤ u then n else n * 2 ^ (-u).toNat
  let den := if 0 ≤ u then d * 2 ^ u.toNat else d
  let q := num / den
  let r := num % den
  let up := match mode with
    | 0 => decide (2 * r > den) || (2 * r == den && q % 2 == 1)
    | 1 => false
    | 2 => neg && r != 0
    | _ => !neg && r != 0
  (if up then q + 1 else q, r == 0)

/-- Floor of the binary logarithm of n / d, for positive n and d. -/
def log2q (n d : Nat) : Int :=
  let k : Int := (n.log2 : Int) - d.log2
  let (a, b) := scale2 d k
  if n * b < a then k - 1 else k

/-- Round (R233) of a finite nonzero magnitude. -/
def Fmt.roundFin (t : Fmt) (mode : Nat) (neg : Bool) (n d : Nat) : Nat × BitVec 5 :=
  let e := log2q n d
  let (q, ex) := roundAt mode neg n d (e - t.f)
  let (q, e) := if q = 2 ^ (t.f + 1) then (2 ^ t.f, e + 1) else (q, e)
  if e > (2 : Int) ^ t.eb - 2 - t.bias then
    let toInf := mode = 0 || (mode = 2 && neg) || (3 ≤ mode && !neg)
    (if toInf then t.infPat neg else t.maxPat neg, flOF ||| flNX)
  else if e < 1 - t.bias then
    if t.flush then (t.sign neg, 0#5)
    else
      let (q, ex) := roundAt mode neg n d (1 - (t.bias : Int) - t.f)
      (t.sign neg + q, if ex then 0#5 else flUF ||| flNX)
  else (t.sign neg + (e + t.bias).toNat * 2 ^ t.f + (q - 2 ^ t.f), if ex then 0#5 else flNX)

/-- Round (R233): the pattern and the flags of the rounding. -/
def Fmt.round (t : Fmt) (mode : Nat) (x : Val) : Nat × BitVec 5 :=
  match x with
  | .nan _ => (t.cnan, 0#5)
  | .inf s => (t.infPat s, 0#5)
  | .fin s n d => if n = 0 then (t.sign s, 0#5) else t.roundFin mode s n d

/-- The sign of a value; of a NaN, positive. -/
def Val.neg? : Val → Bool
  | .nan _ => false
  | .inf s => s
  | .fin s _ _ => s
/-- A value with its sign changed. -/
def Val.negate : Val → Val
  | .nan b => .nan b
  | .inf s => .inf (!s)
  | .fin s n d => .fin (!s) n d
/-- A signalling NaN. -/
def Val.isSnan : Val → Bool
  | .nan b => b
  | _ => false
/-- A NaN of either kind. -/
def Val.isNan : Val → Bool
  | .nan _ => true
  | _ => false
/-- NV for a signalling NaN (R235). -/
def Val.snanFlag (x : Val) : BitVec 5 := if x.isSnan then flNV else 0#5

/-- The exact product, and NV for 0 times infinity (R234, R235). -/
def Val.mul (a b : Val) : Val × BitVec 5 :=
  match a, b with
  | .nan _, _ | _, .nan _ => (.nan false, a.snanFlag ||| b.snanFlag)
  | .inf s, .inf r => (.inf (s != r), 0#5)
  | .inf s, .fin r n _ | .fin r n _, .inf s => if n = 0 then (.nan false, flNV) else (.inf (s != r), 0#5)
  | .fin s n d, .fin r m e => (.fin (s != r) (n * m) (d * e), 0#5)

/-- A magnitude with its sign. -/
def signed (neg : Bool) (n : Nat) : Int := if neg then -(n : Int) else n

/-- The exact sum, the zero rule of R234 under a mode, and NV for infinity minus infinity (R235). -/
def Val.add (mode : Nat) (a b : Val) : Val × BitVec 5 :=
  match a, b with
  | .nan _, _ | _, .nan _ => (.nan false, a.snanFlag ||| b.snanFlag)
  | .inf s, .inf r => if s = r then (.inf s, 0#5) else (.nan false, flNV)
  | .inf s, .fin _ _ _ | .fin _ _ _, .inf s => (.inf s, 0#5)
  | .fin s n d, .fin r m e =>
    let x : Int := signed s (n * e) + signed r (m * d)
    if x = 0 then
      (.fin (if n = 0 && m = 0 && s == r then s else mode = 2) 0 1, 0#5)
    else (.fin (decide (x < 0)) x.natAbs (d * e), 0#5)

/-- Numeric order of two values that are no NaN: less, equal or greater; zeros are equal (R139). -/
def Val.cmp (a b : Val) : Ordering :=
  match a, b with
  | .inf true, .inf true | .inf false, .inf false => .eq
  | .inf true, _ => .lt
  | _, .inf true => .gt
  | .inf false, _ => .gt
  | _, .inf false => .lt
  | .fin s n d, .fin r m e =>
    compare (signed s (n * e)) (signed r (m * d))
  | _, _ => .eq

/-- The format of a floating type (R230). -/
def fmtOf (t : EType) : Fmt := if t = .f32 then fF32 else if t = .f16 then fF16 else fBF16

/-- The rounding of a floating lane (R133): bf16 rounds to FP32 first, under the same mode, with the flags of both. -/
def roundLane (t : EType) (mode : Nat) (x : Val) : Nat × BitVec 5 :=
  if t = .bf16 then
    let (p, f) := fF32.round mode x
    let (q, g) := fBF16.round mode (fF32.value p)
    (q, f ||| g)
  else (fmtOf t).round mode x

/-- FAdd32 (R125): one RoundNE, no flags. -/
def fadd32 (a b : BitVec 32) : BitVec 32 :=
  BitVec.ofNat 32 (fF32.round 0 ((fF32.value a.toNat).add 0 (fF32.value b.toNat)).1).1

/-- E8M10(x) of an FP16 or BF16 element (R237). -/
def toE8M10 (x : Val) : Nat :=
  match x with
  | .nan _ => fE8M10.cnan
  | x => (fE8M10.round 0 x).1

/-- A decode table as it stands (R239): entries, nibble mode. A table that was never loaded holds +0 (R57). -/
structure Table where
  entries : List (BitVec 19)
  nibble : Bool
deriving DecidableEq, Repr

/-- An entry of a table. -/
def Table.entry (t : Table) (c : Nat) : BitVec 19 := (t.entries[c]?).getD 0#19

/-- Decode (R240): a NaN entry counts as quiet (R232). -/
def Table.decode (t : Table) (c : Nat) : Val :=
  match fE8M10.value (t.entry (if t.nibble then c % 16 else c)).toNat with
  | .nan _ => .nan false
  | v => v

/-- The codes of the domain (R239). -/
def Table.domain (t : Table) : List Nat := List.range (if t.nibble then 16 else 256)

/-- The finite codes with their values (R239). -/
def Table.finite (t : Table) : List (Nat × Bool × Nat × Nat) :=
  t.domain.filterMap fun c =>
    match t.decode c with
    | .fin s n d => some (c, s, n, d)
    | _ => none

/-- The lowest code whose entry is an infinity of a sign. -/
def Table.infCode (t : Table) (neg : Bool) : Option Nat := t.domain.find? fun c => t.decode c == .inf neg
/-- The NaN code. -/
def Table.nanCode (t : Table) : Option Nat := t.domain.find? fun c => (t.decode c).isNan

/-- Whether code a ranks before code b for a value (R241): distance, a zero of the other sign, the even entry, the lower
code. -/
def ranksBefore (t : Table) (neg : Bool) (n d : Nat) (a b : Nat × Bool × Nat × Nat) : Bool :=
  let dist (c : Nat × Bool × Nat × Nat) : Nat × Nat :=
    let (_, s, m, e) := c
    let x : Int := signed s (m * d) - signed neg (n * e)
    (x.natAbs, e)
  let (da, ea) := dist a
  let (db, eb) := dist b
  if da * eb ≠ db * ea then decide (da * eb < db * ea)
  else
    let za := a.2.2.1 == 0 && a.2.1 != neg
    let zb := b.2.2.1 == 0 && b.2.1 != neg
    if za != zb then zb
    else
      let oa := (t.entry a.1).getLsbD 0
      let ob := (t.entry b.1).getLsbD 0
      if oa != ob then ob else decide (a.1 < b.1)

/-- The code of R241 for a finite value; signKey is the sign that key 2 takes (R242). -/
def Table.search (t : Table) (neg : Bool) (n d : Nat) (signKey : Bool) : Option (Nat × Bool × Nat × Nat) :=
  t.finite.foldl (fun best c =>
    match best with
    | none => some c
    | some b => if ranksBefore t (if n = 0 then signKey else neg) n d c b then some c else some b) none

/-- Encode (R241, R242): the code and its flags; none is a NaN that meets a table with no NaN code (R243).
DESIGN CHOICE (notes/assumptions/82.md): an infinity in a table with an infinity code takes that code only where a finite code
stands beside it; with no finite code it takes code 0, as every other value does. -/
def Table.encode (t : Table) (x : Val) : Option (Nat × BitVec 5) :=
  let fins := t.finite
  let ext (hi : Bool) : Option (Bool × Nat × Nat) :=
    fins.foldl (fun b c =>
      match b with
      | none => some c.2
      | some (s, n, d) =>
        let o := (Val.fin c.2.1 c.2.2.1 c.2.2.2).cmp (.fin s n d)
        if (hi && o == .gt) || (!hi && o == .lt) then some c.2 else b) none
  let saturate (neg : Bool) : Option (Nat × BitVec 5) :=
    match t.infCode neg with
    | some c => some (c, flOF ||| flNX)
    | none =>
      match ext (!neg) with
      | some (s, n, d) => (t.search s n d neg).map fun c => (c.1, flOF ||| flNX)
      | none => some (0, flNV)
  match x with
  | .nan b => t.nanCode.map fun c => (c, if b then flNV else 0#5)
  | .inf s =>
    if fins.isEmpty then some (0, flNV)
    else
      match t.infCode s with
      | some c => some (c, 0#5)
      | none => saturate s
  | .fin s n d =>
    if fins.isEmpty then some (0, flNV)
    else
      match ext true, ext false with
      | some (hs, hn, hd), some (ls, ln, ld) =>
        if x.cmp (.fin hs hn hd) == .gt then saturate false
        else if x.cmp (.fin ls ln ld) == .lt then saturate true
        else
          (t.search s n d s).map fun c =>
            (c.1, if (Val.fin c.2.1 c.2.2.1 c.2.2.2).cmp x == .eq then 0#5 else flNX)
      | _, _ => some (0, flNV)

/-- Rounds a finite value to an integer by a mode. -/
def Val.toInt (mode : Nat) (neg : Bool) (n d : Nat) : Int × Bool :=
  let (q, ex) := roundAt mode neg n d 0
  (signed neg q, ex)

/-- Saturates an integer to a type's range (R229). -/
def satInt (signed : Bool) (w : Nat) (x : Int) : Int :=
  if signed then max (-(2 ^ (w - 1) : Int)) (min x (2 ^ (w - 1) - 1)) else max 0 (min x (2 ^ w - 1))

/-- Mix64 (R246). -/
def mix64 (seed ctr : Word64) : Word64 :=
  let x := seed ^^^ (ctr * 0x9e3779b97f4a7c15#64)
  let x := (x ^^^ (x >>> 30)) * 0xbf58476d1ce4e5b9#64
  let x := (x ^^^ (x >>> 27)) * 0x94d049bb133111eb#64
  x ^^^ (x >>> 31)

/-- A reduction word (R251): NAN, PINF, NINF, NZ and V in units of 2^-149. -/
structure RedWord where
  nan : Bool
  pinf : Bool
  ninf : Bool
  nz : Bool
  v : Int
deriving DecidableEq, Repr

/-- No contribution. -/
def RedWord.zero : RedWord := ⟨false, false, false, false, 0⟩
/-- Two words combine exactly (R251). -/
def RedWord.add (a b : RedWord) : RedWord := ⟨a.nan || b.nan, a.pinf || b.pinf, a.ninf || b.ninf, a.nz || b.nz, a.v + b.v⟩

/-- The word of one contribution (R251): types 0 f32, 1 f16, 2 bf16, 3 s64, 4 z64. -/
def redWord (ty : Nat) (p : Nat) : RedWord :=
  if 3 ≤ ty then ⟨false, false, false, true, (if ty = 3 then (BitVec.ofNat 64 p).toInt else p) * 2 ^ 149⟩
  else
    match (if ty = 0 then fF32 else if ty = 1 then fF16 else fBF16).value p with
    | .nan _ => ⟨true, false, false, true, 0⟩
    | .inf s => ⟨false, !s, s, true, 0⟩
    | .fin s n d => ⟨false, false, false, !(s && n == 0), signed s (n * 2 ^ 149 / d)⟩

/-- The result and flags of a final word (R252). -/
def RedWord.result (ty : Nat) (w : RedWord) (any : Bool) : Nat × BitVec 5 :=
  let t := if ty = 0 then fF32 else if ty = 1 then fF16 else fBF16
  if w.nan || (w.pinf && w.ninf) then (if 3 ≤ ty then 0 else t.cnan, flNV)
  else if w.pinf then (if 3 ≤ ty then (0, flNV) else (t.infPat false, 0#5))
  else if w.ninf then (if 3 ≤ ty then (0, flNV) else (t.infPat true, 0#5))
  else if 3 ≤ ty then ((BitVec.ofInt 64 (w.v / 2 ^ 149)).toNat, 0#5)
  else if w.v = 0 then (t.sign (any && !w.nz), 0#5)
  else t.round 0 (.fin (decide (w.v < 0)) w.v.natAbs (2 ^ 149))

end Sys2Proof.Machine
end

