-- ==== Sys2Proof/Machine/Translate.lean ====
section
/-!
DEFINITION. Translation at the memory controllers: the walks of both stages, permissions, cached translations, the backward
table, the frame limits and page requests (R110, R111, R328 to R334), and the weirs that are checked before it (R42, R112).
-/
namespace Sys2Proof.Machine

/-- The ACC code of a page request (R331). -/
def accCode : Acc → Nat
  | .read => 0 | .write => 1 | .rmw => 2 | .fetch => 3 | .sync => 0

/-- A local frame that exists and is not reserved (R328). -/
def frameOk (pa : Nat) : Bool := pa < 96 * 2 ^ 32 && pa % 2 ^ 32 < 2 ^ 32 - 2 ^ 19

/-- The die that drives the device of a physical address (R328, R390). -/
def dieOfPa (pa : Nat) : Nat := pa / 2 ^ 32 / 3

/-- The end of one walk: a leaf entry with its level and its address, or why there is none. A refused walk ends at the entry
read last (R401); a walk waits for the host where an entry lies in a block in host bias (R383, R386). -/
inductive Leaf where
  | entry (e : Word64) (level at_ : Nat)
  | absent
  | refused (at_ : Nat)
  | host (w : Wait)
deriving DecidableEq, Repr

/-- What one table entry says at a walk level (R329, R330): go on, or end. -/
inductive Look where
  | table (addr : Nat)
  | stop (l : Leaf)
deriving DecidableEq, Repr

/-- Reads an entry of a stage-2 or stage-1 table that stands at an address (R329): reserved bits, the kinds, the levels at
which a leaf may stand. -/
def lookEntry (stage2 : Bool) (level at_ : Nat) (e : Word64) : Look :=
  if !bitAt e 63 then .stop .absent
  else if bitsNat e 56 56 ≠ 0 || bitsNat e 7 0 ≠ 0 || (stage2 && bitAt e 57) then .stop (.refused at_)
  else
    match bitsNat e 62 61 with
    | 0 =>
      if level = 5 || bitsNat e 60 57 ≠ 0 || bitsNat e 10 8 ≠ 0 then .stop (.refused at_)
      else .table (bitsNat e 55 11 * 2048)
    | 1 =>
      if level < 3 || (!stage2 && bitsNat e 10 8 ≠ 0) then .stop (.refused at_)
      else .stop (.entry e level at_)
    | 2 =>
      if level < 3 || bitsNat e 55 11 ≠ 0 || bitsNat e 10 8 ≠ 0 then .stop (.refused at_)
      else .stop (.entry e level at_)
    | _ => .stop (.refused at_)

/-- Why a device access to a local block must wait for the host (R383, R386): a flip of its block, or a line the snoop
filter lists. -/
def State.biasWait (s : State) (pa : Nat) : Option Wait :=
  let listed := s.host.hostBias.contains (pa / 4096) && s.host.filter.contains (pa / 64)
  match s.host.flip with
  | some f => if f.blk = pa / 4096 then some .flip else if listed then some (.bisnp (pa / 64)) else none
  | none => if listed then some (.bisnp (pa / 64)) else none

/-- The BISnp a waiting access sends, once for a line (R383). -/
def State.askHost (s : State) (w : Wait) (inv : Bool) : State :=
  match w with
  | .bisnp line => if s.outbox.contains (.bisnp line inv) then s else s.emit (.bisnp line inv)
  | _ => s

/-- A dirty copy (R275). -/
def L1Line.dirty (l : L1Line) : Bool := l.st = .m || l.st = .o

/-- The bytes of a line, lowest address first (R3). -/
def lineBytes (v : Vec) : List Byte := leBytes 64 v.toNat
/-- The line that 64 bytes make. -/
def bytesLine (bs : List Byte) : Vec := BitVec.ofNat 512 (leNat bs)

/-- Replaces part of a list of bytes that starts at an address by other bytes, where they overlap. -/
def spliceBytes (base : Nat) (bs : List Byte) (at_ : Nat) (new : List Byte) : List Byte :=
  if at_ ≤ base then (new.drop (base - at_)).take bs.length ++ bs.drop (at_ + new.length - base)
  else bs.take (at_ - base) ++ new.take (bs.length - (at_ - base)) ++ bs.drop (at_ - base + new.length)

/-- The cached translation of the page that an L1 line belongs to, made for accesses of its kind (R332). -/
def State.xlatOf (s : State) (l : L1Line) : Option Xlat :=
  s.xlat.find? fun x => x.vf == l.vf && x.s1 == (!l.hyper && (s.part l.vf).root1 ≠ 0#64) && x.page == l.vline * 64 / 65536 * 65536

/-- The local frame that an L1 line stands for as the cached translations say (R332): the one it was filled from while none is
cached. -/
def State.frameOf (s : State) (l : L1Line) : Nat :=
  match (s.xlatOf l).map Xlat.target with
  | some (.loc pa) => pa + l.vline * 64 % 65536
  | _ => l.pa

/-- n bytes of local memory as every store performed so far left them: dirty L1 lines laid over it (R265, R332). -/
def State.physBytes (s : State) (pa n : Nat) : List Byte :=
  s.l1.foldl (fun bs l =>
    if l.dirty && s.frameOf l < pa + n && pa < s.frameOf l + 64 then spliceBytes pa bs (s.frameOf l) (lineBytes l.data)
    else bs) (Memory.bytes s.mem pa n)

/-- A doubleword of local memory as the memory controllers read it. -/
def State.physDword (s : State) (pa : Nat) : Word64 := BitVec.ofNat 64 (leNat (s.physBytes pa 8))

/-- The device writes local memory: the L1 lines that hold the bytes go home first. -/
def State.devWrite (s : State) (pa : Nat) (bs : List Byte) : State :=
  let hit (l : L1Line) : Bool := l.stamp.isNone && s.frameOf l < pa + bs.length && pa < s.frameOf l + 64
  let gone := s.l1.filter hit
  let bad (s' : State) (l : L1Line) : State := (List.range 8).foldl (fun s' i =>
    if l.poison.getLsbD i then s'.setPoison (s.frameOf l + 8 * i) 8 else s') s'
  let home := gone.foldl (fun (s' : State) l => if l.dirty then bad (s'.putHome (s.frameOf l) (lineBytes l.data)) l else s') s
  ({ home with l1 := s.l1.filter fun l => !hit l,
               dir := s.dir.filter fun e => !gone.any fun l => dieOf l.core == e.die && l.vf == e.vf && l.vline == e.vline } : State).putHome pa bs

/-- Where an entry of a function's logical package table stands (R337). -/
def State.lptAddr (s : State) (vf l : Nat) : Nat := (s.part vf).lptbase.toNat + 8 * l

/-- The logical package table entry of a function (R337), as a network interface has it: its cached copy, else memory. -/
def State.lptEntry (s : State) (vf l : Nat) : Word64 :=
  match FMap.get? s.lptCache (vf * 2 ^ 18 + l) with
  | some e => e
  | none => s.physDword (s.lptAddr vf l)

/-- Why reading an entry that is not cached must wait for the host (R383, R386). -/
def State.lptWait (s : State) (vf l : Nat) : Option Wait :=
  if (FMap.get? s.lptCache (vf * 2 ^ 18 + l)).isSome then none else s.biasWait (s.lptAddr vf l)

/-- The entry, and the state with it cached when valid. -/
def State.lpt (s : State) (vf l : Nat) : State × Word64 :=
  let e := s.lptEntry vf l
  (if bitAt e 63 && (FMap.get? s.lptCache (vf * 2 ^ 18 + l)).isNone then { s with lptCache := FMap.set s.lptCache (vf * 2 ^ 18 + l) e } else s, e)

/-- A table that cannot be read where it would stand (R328, R368), or whose entry's line waits for the host. -/
def State.tableStop (s : State) (tbl entry seen : Nat) : Option Leaf :=
  if !frameOk tbl || (s.die (dieOfPa tbl)).fenced then some (.refused seen)
  else (s.biasWait entry).map .host

/-- The bits of an address below a leaf of a walk level (R34): 4 GiB, 16 MiB, 64 KiB. -/
def leafBits (level : Nat) : Nat := if level = 3 then 32 else if level = 4 then 24 else 16

/-- The walk levels with the position of the index each takes (R34). -/
def walkLevels : List (Nat × Nat) := [(1, 48), (2, 40), (3, 32), (4, 24), (5, 16)]

/-- A stage-2 walk from a table frame (R328): entries are read from local frames; seen is the address of the entry before. -/
def walk2 (s : State) (tbl ipa seen : Nat) : List (Nat × Nat) → Leaf
  | [] => .refused seen
  | (level, sh) :: r =>
    let entry := tbl + 8 * ((ipa >>> sh) % 256)
    match s.tableStop tbl entry seen with
    | some l => l
    | none =>
      match lookEntry true level entry (s.physDword entry) with
      | .table t => walk2 s t ipa entry r
      | .stop l => l

/-- Where a stage-2 leaf leads for an intermediate address (R329); none is a refused translation. -/
def leaf2Target (s : State) (vf : Nat) (e : Word64) (level ipa : Nat) : Option Target :=
  let z := 2 ^ leafBits level
  let off := ipa % z
  if bitsNat e 62 61 = 2 then some .dry
  else
    match bitsNat e 10 8 with
    | 0 =>
      let a := bitsNat e 55 11 * 2048
      if a % z ≠ 0 || !frameOk (a + off) then none else some (.loc (a + off))
    | 1 =>
      if bitsNat e 14 11 ≠ 0 then none
      else
        let l := bitsNat e 55 38
        let f := bitsNat e 37 15 * 65536
        if f % z ≠ 0 then none
        else if l = (s.part vf).self then (if frameOk (f + off) then some (.loc (f + off)) else none)
        else if bitAt (s.lptEntry vf l) 63 && frameOk (f + off) then some (.peer l (f + off))
        else none
    | 2 =>
      let a := bitsNat e 55 11 * 2048
      if a % z ≠ 0 then none else some (.host (a + off))
    | _ => none

/-- Whether a stage-2 leaf needs an entry of the logical package table that must wait for the host (R337, R383): it names a peer. -/
def leaf2Wait (s : State) (vf : Nat) (e : Word64) : Option Wait :=
  if bitsNat e 62 61 ≠ 2 && bitsNat e 10 8 = 1 && bitsNat e 55 38 ≠ (s.part vf).self then s.lptWait vf (bitsNat e 55 38) else none

/-- The result of translating one page. -/
inductive Walk where
  /-- A target with the rights of both stages: read, write, execute, user. -/
  | ok (t : Target) (ipa : Nat) (rd wr ex us : Bool)
  /-- An absent entry of a stage, at a page address; or one met while a stage-1 table address was translated (R331). -/
  | absent (stage2 : Bool) (page : Nat) (table : Bool)
  /-- Refused; the address of the entry at which the walk ended. -/
  | refused (at_ : Nat)
  /-- A table entry's line waits for the host (R383, R386). -/
  | host (w : Wait)
deriving DecidableEq, Repr

/-- Stage 2 of a function for an intermediate address (R328, R330). -/
def stage2 (s : State) (vf ipa : Nat) : Walk :=
  match (s.part vf).root2 with
  | none => .refused 0
  | some root =>
    match walk2 s root.toNat ipa root.toNat walkLevels with
    | .absent => .absent true (ipa / 65536 * 65536) false
    | .refused a => .refused a
    | .host w => .host w
    | .entry e level a =>
      match leaf2Wait s vf e with
      | some w => .host w
      | none =>
        match leaf2Target s vf e level ipa with
        | none => .refused a
        | some t => .ok t ipa (bitAt e 60) (bitAt e 59) (bitAt e 58) true

/-- A stage-1 walk (R328): every table read is first translated by stage 2, whose leaf must be local memory with RD (R330);
seen is the address of the entry read before. -/
def walk1 (s : State) (vf tbl va seen : Nat) : List (Nat × Nat) → Walk
  | [] => .refused seen
  | (level, sh) :: r =>
    match stage2 s vf (tbl + 8 * ((va >>> sh) % 256)) with
    | .absent st p _ => .absent st p true
    | .refused a => .refused a
    | .host w => .host w
    | .ok (.loc pa) _ rd _ _ _ =>
      if !rd then .refused pa
      else
        match s.tableStop pa pa seen with
        | some (.host w) => .host w
        | some _ => .refused seen
        | none =>
        match lookEntry false level pa (s.physDword pa) with
        | .table t => walk1 s vf t va pa r
        | .stop .absent => .absent false (va / 65536 * 65536) false
        | .stop (.refused a) => .refused a
        | .stop (.host w) => .host w
        | .stop (.entry e level _) =>
          let z := 2 ^ leafBits level
          if bitsNat e 62 61 = 2 then .ok .dry va (bitAt e 60) (bitAt e 59) (bitAt e 58) (bitAt e 57)
          else
            let a := bitsNat e 55 11 * 2048
            if a % z ≠ 0 then .refused pa
            else
              match stage2 s vf (a + va % z) with
              | .ok t ipa rd wr ex _ => .ok t ipa (rd && bitAt e 60) (wr && bitAt e 59) (ex && bitAt e 58) (bitAt e 57)
              | w => w
    | .ok _ _ _ _ _ _ => .refused seen

/-- A whole translation (R328): stage 1 when it is on and the access is not the hypervisor's, then stage 2. -/
def walk (s : State) (vf : Nat) (hyper : Bool) (va : Nat) : Walk :=
  let r1 := (s.part vf).root1.toNat
  if hyper || r1 = 0 then stage2 s vf va else walk1 s vf r1 va 0 walkLevels

/-- Where a line is written back to: the page's entry now in force for accesses of its kind (R332), as cached or as a walk finds
it; nowhere where the page has no entry any more. -/
def State.homeOf (s : State) (l : L1Line) : Target :=
  let off := l.vline * 64 % 65536
  match s.xlatOf l with
  | some x => x.target.plus off
  | none =>
    match walk s l.vf l.hyper (l.vline * 64 / 65536 * 65536) with
    | .ok t _ _ _ _ _ => t.plus off
    | .host _ => .loc l.pa
    | _ => .dry

/-- Why a line cannot be written back yet: the walk for its page waits for the host (R383, R386). -/
def State.homeWait (s : State) (l : L1Line) : Option Wait :=
  if l.dirty && (s.xlatOf l).isNone then
    match walk s l.vf l.hyper (l.vline * 64 / 65536 * 65536) with
    | .host w => some w
    | _ => none
  else none

/-- The key of a frame's backward entry (R333). -/
def backKey (pa : Nat) : Nat := pa / 2 ^ 32 * 2 ^ 32 + (2 ^ 32 - 2 ^ 19) + 8 * (pa % 2 ^ 32 / 65536)

/-- A backward entry (R333): V, VF, LEAD. -/
def backEntry (vf page : Nat) : Word64 := field64 1 63 ||| field64 (vf % 64) 56 ||| field64 (page % 2 ^ 56) 0

/-- RECLAIM (R334): the function with the largest excess of USED over GUAR, the lowest number among equals. -/
def State.reclaim (s : State) : Word64 :=
  let best := s.parts.foldl (fun (b : Nat × Nat) p =>
    let x := p.2.used - p.2.guar
    if x > b.1 then (x, p.1) else b) (0, 0)
  if best.1 = 0 then 0#64 else field64 1 63 ||| field64 (best.1 % 2 ^ 23) 24 ||| field64 best.2 0

/-- Raises the RECLAIM interrupt when RECLAIM.V changes from 0 to 1 (R379). -/
def State.noteReclaim (s : State) : State :=
  let v := bitAt s.reclaim 63
  let s' := { s with box := { s.box with reclaimV := v } }
  if v && !s.box.reclaimV then s'.emit (.irq none 3) else s'

/-- A walk that completes to a local frame claims it in the backward table (R333, R334); none is a refusal. -/
def claimFrame (s : State) (vf page pa : Nat) : Option State :=
  let k := backKey pa
  let e := Memory.dword s.mem k
  if e = backEntry vf page then some s
  else if bitAt e 63 then none
  else
    let p := s.part vf
    if p.used ≥ p.burst then none
    else
      let s := { s with mem := Memory.put s.mem k (leBytes 8 (backEntry vf page).toNat) }
      some (s.putPart vf { p with used := p.used + 1 }).noteReclaim

/-- What became of a translation. -/
inductive XRes where
  | ok (s : State) (t : Target)
  /-- Waits for a page request (R331). -/
  | wait (s : State) (req : PageWait)
  /-- Waits for the host, in whose block a table entry lies (R383, R386). -/
  | host (s : State) (w : Wait)
  | refused (s : State)

/-- Posts the record of a request that waits in the controller, where its ring has room (R331), its die is not fenced (R368)
and its line does not wait for the host (R383); a record that goes into a part of a poisoned granule is reported (R115). -/
def State.postOne (s : State) (r : PageReq) : State :=
  let (base, idx) := if r.pf then (s.box.prqbase, s.box.prqidx) else ((s.part r.vf).prqbase, (s.part r.vf).prqidx)
  let prod := bitsNat idx 15 0
  let cons := bitsNat idx 47 32
  let slot := base.toNat + 16 * (prod % 256)
  if (prod + 65536 - cons) % 65536 ≥ 256 || (s.die (dieOfPa slot)).fenced then s
  else
    match s.biasWait slot with
    | some w => s.askHost w true
    | none =>
    let w1 := field64 r.id 48 ||| field64 r.vf 42 ||| field64 (if r.pf then 1 else 0) 41 ||| field64 r.acc 38
    let s := if s.poisoned slot 16 then s.event (dieOfPa slot) 0x03 0 0 r.vf 0 [5#64, BitVec.ofNat 64 slot] else s
    let s := s.devWrite slot (leBytes 8 r.page ++ leBytes 8 w1.toNat)
    let idx := field64 cons 32 ||| field64 ((prod + 1) % 65536) 0
    let s := { s with pageReqs := s.pageReqs.map fun x => if x = r then { x with posted := true } else x }
    if r.pf then ({ s with box := { s.box with prqidx := idx } }).emit (.irq none 1)
    else (s.putPart r.vf { s.part r.vf with prqidx := idx }).emit (.irq (some r.vf) 1)

/-- Posts every waiting record of a ring, oldest first, as room allows (R331). -/
def State.postRing (s : State) (pf : Bool) (vf : Nat) : State :=
  (s.pageReqs.filter fun r => !r.posted && r.pf == pf && (pf || r.vf == vf)).foldl State.postOne s

/-- Posts what waits for any ring: after the host has answered for a line (R383). -/
def State.postRings (s : State) : State := (s.pageReqs.filter fun r => !r.posted).foldl State.postOne s

/-- The first number from a proposal on that no outstanding request of the ring uses (R331). -/
def freshId (used : List Nat) (start fuel : Nat) : Nat :=
  match fuel with
  | 0 => start % 65536
  | fuel + 1 => if used.contains (start % 65536) then freshId used (start + 1) fuel else start % 65536

/-- Joins or makes the page request of an absent page (R331): at most one for each function, stage and page. -/
def State.request (s : State) (vf : Nat) (stage2 : Bool) (page acc : Nat) : State × (Bool × Nat) :=
  match s.pageReqs.find? (fun r => r.pf == stage2 && r.vf == vf && r.page == page) with
  | some r => (s, (r.pf, r.id))
  | none =>
    let used := (s.pageReqs.filter (fun r => r.pf == stage2 && (stage2 || r.vf == vf))).map PageReq.id
    let id := freshId used (Config.requestId s.tick) 65536
    let q : PageReq := ⟨stage2, id, vf, page, acc, false⟩
    let s := { s with pageReqs := s.pageReqs ++ [q] }
    (s.postRing stage2 vf, (stage2, id))

/-- Whether the rights of a translation permit an access (R330); userMode asks for US where stage 1 is on. A page mapped dry passes
every access but a fetch (R32, R112; notes/assumptions/65.md). -/
def permits (x : Xlat) (userMode : Bool) (a : Acc) : Bool :=
  if x.target = .dry then a ≠ .fetch
  else
    (!userMode || !x.s1 || x.us) &&
      match a with
      | .read => x.rd
      | .write => x.wr
      | .rmw | .sync => x.rd && x.wr
      | .fetch => x.ex

/-- A translation put to use: its rights, a fenced die (R368), and for a peer package its table entry now (R337). -/
def State.useXlat (s : State) (mode off : Nat) (a : Acc) (x : Xlat) : XRes :=
  if !permits x (mode = 0) a then .refused s
  else
    match x.target with
    | .loc pa => if (s.die (dieOfPa pa)).fenced then .refused s else .ok s (.loc (pa + off))
    | .peer l pa =>
      match s.lptWait x.vf l with
      | some w => .host (s.askHost w false) w
      | none =>
        let (s, e) := s.lpt x.vf l
        if bitAt e 63 then .ok s (.peer l (pa + off)) else .refused s
    | t => .ok s (t.plus off)

/-- The die of the memory controller that detects a refused walk: that of the entry at which it ended (R401). -/
def walkDie (at_ : Nat) : Nat := if frameOk at_ then dieOfPa at_ else 0

/-- Translates an address for an access of a mode (R111, R328 to R334): a page whose request was refused (R331), a cached
translation, or a walk that is then cached, claiming a local frame; an absent entry posts a page request. -/
def translate (s : State) (vf mode va : Nat) (a : Acc) : XRes :=
  let hyper := mode = 2
  let s1 := !hyper && (s.part vf).root1 ≠ 0#64
  let page := va / 65536 * 65536
  let off := va % 65536
  if ((s.strand? s.cur).map fun t => t.refused.contains page).getD false then .refused s
  else
  match s.xlat.find? (fun x => x.vf == vf && x.s1 == s1 && x.page == page) with
  | some x => s.useXlat mode off a x
  | none =>
    match walk s vf hyper page with
    | .refused at_ => .refused (s.event (walkDie at_) 0x0a 0 0 vf 0 [BitVec.ofNat 64 va, BitVec.ofNat 64 (at_ / 65536 * 65536)])
    | .host w => .host (s.askHost w false) w
    | .absent st p table =>
      let (s, r) := s.request vf st p (if table then 4 else accCode a)
      .wait s ⟨r.1, r.2, false, vf, mode, va, a⟩
    | .ok t ipa rd wr ex us =>
      let x : Xlat := ⟨vf, s1, page, ipa / 65536 * 65536, t, rd, wr, ex, us⟩
      match t with
      | .loc pa =>
        if (s.die (dieOfPa pa)).fenced then .refused s
        else
        match claimFrame s vf page pa with
        | none => .refused (s.event (dieOfPa pa) 0x0a 0 0 vf 0 [BitVec.ofNat 64 va, BitVec.ofNat 64 pa])
        | some s => ({ s with xlat := s.xlat ++ [x] } : State).useXlat mode off a x
      | _ => ({ s with xlat := s.xlat ++ [x] } : State).useXlat mode off a x

/-- Whether an address lies in the pool aperture (R110). -/
def inAperture (va : Nat) : Bool := addrTop - 2 ^ 27 ≤ va

/-- The package core and pool offset an aperture address of a die names (R110). -/
def apertureCore (die va : Nat) : Nat := 1024 * die + (va / 2 ^ 17) % 1024

/-- Where an access leads (R110, R111): an aperture address to a pool of the partition, any other through translation. -/
def resolve (s : State) (vf mode die va : Nat) (a : Acc) : XRes :=
  if inAperture va then
    let c := apertureCore die va
    if a = .fetch || !s.coreIn vf c then .refused s else .ok s (.pool c (va % 2 ^ 17))
  else translate s vf mode va a

/-- The result with a change made to its state. -/
def XRes.on (r : XRes) (f : State → State) : XRes :=
  match r with
  | .ok s t => .ok (f s) t
  | .wait s q => .wait (f s) q
  | .host s w => .host (f s) w
  | .refused s => .refused (f s)

/-- The same for an access that is not of the strand whose instruction is being run: of another strand, or of an engine (0), for
which no page stands refused (R331). -/
def State.resolveFor (s : State) (who vf mode die va : Nat) (a : Acc) : XRes :=
  (resolve { s with cur := who } vf mode die va a).on fun x => { x with cur := s.cur }

/-- The lowest byte of n bytes that the weirs refuse (R42): need is 2 for a read, 3 for a write or an atomic. -/
def weirRefuses (ws : List Weir) (va n need : Nat) : Option Nat :=
  ((ws.filterMap fun w =>
      let r := w.rights.toNat
      if r = 0 || need ≤ r then none
      else
        let lo := bitsNat w.ref 55 0
        let hi := lo + 2 ^ (bitsNat w.ref 57 56 + 2 * bitsNat w.ref 63 58)
        if lo < va + n && va < hi then some (max lo va) else none)).min?

/-- The weirs of a strand as they bind it: in user mode only (R112). -/
def Strand.weirs (t : Strand) : List Weir := if t.mode = 0 then t.regs.w.toList else []

/-- The highest level of R22 for an element size code. -/
def highestLevel (e : Nat) : Nat := if e = 0 then 28 else if e = 3 then 26 else 27

/-- The bytes of a block: 2^(e+2L) (R22). -/
def blockBytes (w : Word64) : Nat := 2 ^ (bitsNat w 57 56 + 2 * bitsNat w 63 58)

/-- The address of a reference word (R24). -/
def refAddr (w : Word64) : Nat := bitsNat w 55 0

/-- The checks of R26 on a reference word: the trap, if any. -/
def refCheck (w : Word64) : Option (Nat × Word64) :=
  if bitsNat w 63 58 > highestLevel (bitsNat w 57 56) then some (0x07, w)
  else if refAddr w % blockBytes w ≠ 0 then some (0x06, w)
  else none

/-- The checks of R25 on a base register and an offset: the address, or the trap. -/
def eaCheck (base : Word64) (off : Int) (n : Nat) : Except (Nat × Word64) Nat :=
  if bitsNat base 63 56 ≠ 0 then .error (0x04, base)
  else
    let ea : Int := (base.toNat : Int) + off
    if ea < 0 || ea + n > 2 ^ 56 then .error (0x05, BitVec.ofInt 64 ea) else .ok ea.toNat

end Sys2Proof.Machine
end

