-- ==== Sys2Proof/Machine/Cache.lean ====
section
/-!
DEFINITION. The memory system behind translation: the L1s and their MOESI directory (R275, R276), foreign lines and their
generations (R271 to R274), host lines (R387), bias (R383), reads and writes at the home of a byte (R265), poison (R115,
R358).
-/
namespace Sys2Proof.Machine

/-- The L1 copies of a die-local line. -/
def State.copies (s : State) (die vf vline : Nat) : List L1Line :=
  s.l1.filter fun l => l.stamp.isNone && dieOf l.core == die && l.vf == vf && l.vline == vline

/-- A core's own copy of a die-local line: one that carries no stamp (R271). -/
def State.l1Of (s : State) (core vf vline : Nat) : Option L1Line :=
  s.l1.find? fun l => l.core == core && l.stamp.isNone && l.vf == vf && l.vline == vline

/-- Whether two L1 lines are one entry of one L1. -/
def L1Line.same (a b : L1Line) : Bool := a.core == b.core && a.vf == b.vf && a.vline == b.vline

/-- The poisoned 8-byte granules of 64 bytes at a key. -/
def State.poisonMask (s : State) (k : Nat) : BitVec 8 :=
  BitVec.ofNat 8 ((List.range 8).foldl (fun a i => if s.poisoned (k + 8 * i) 8 then a + 2 ^ i else a) 0)

/-- Marks the granules at a key that a mask of pieces of z bytes touches (R358). -/
def State.poisonBy (s : State) (k z m : Nat) (mask : Nat → Bool) : State :=
  (List.range m).foldl (fun s i => if mask i then s.setPoison (k + z * i) z else s) s

/-- Writes a dirty line home, to the frame of the page's entry (R332); a poisoned granule marks every home granule it touches
(R358). Where the entry names no place any more the line is lost (notes/assumptions/68.md). -/
def State.writeBack (s : State) (l : L1Line) : State :=
  if l.dirty then
    match s.homeOf l with
    | .dry => s
    | tg => (s.putHome tg.key (lineBytes l.data)).poisonBy tg.key 8 8 l.poison.getLsbD
  else s

/-- Why the lines that an entry covers cannot be recalled yet: a dirty one waits for the host (R383). -/
def State.recallWait (s : State) (e : DirEntry) : Option Wait := (s.l1.filter e.covers).findSome? s.homeWait

/-- Invalidates every L1 copy that an entry covers, writing a dirty one home, and drops the entry (R275). -/
def State.recallEntry (s : State) (e : DirEntry) : State :=
  let s := (s.l1.filter e.covers).foldl State.writeBack s
  { s with l1 := s.l1.filter (fun l => !e.covers l),
           dir := s.dir.filter (fun x => !(x.die == e.die && x.slice == e.slice && x.vf == e.vf && x.vline == e.vline)) }

/-- Invalidates every L1 copy of a line of a die, writing a dirty one home, and drops its directory entry (R275). -/
def State.recallLine (s : State) (die vf vline : Nat) : State :=
  let cs := s.copies die vf vline
  let s := cs.foldl State.writeBack s
  { s with l1 := s.l1.filter (fun l => !(l.stamp.isNone && dieOf l.core == die && l.vf == vf && l.vline == vline)),
           dir := s.dir.filter (fun e => !cs.any e.covers) }

/-- Recalls every line of a die that n bytes of an address touch. -/
def State.recallBytes (s : State) (die vf va n : Nat) : State :=
  if s.l1.isEmpty then s
  else ((s.l1.filter fun l => l.stamp.isNone && dieOf l.core == die && l.vf == vf && l.vline * 64 < va + n && va < l.vline * 64 + 64).map
    L1Line.vline).foldl (fun s v => s.recallLine die vf v) s

/-- The copies of host lines that n bytes of host memory touch, in every column. -/
def State.hostCopies (s : State) (h n : Nat) : List BedLine :=
  s.quads.flatMap fun q => q.2.bed.filter fun l =>
    match l.target with
    | .host b => b < h + n && h < b + 64
    | _ => false

/-- n bytes as their home gives them (R265): memory, with the dirty copy of each line laid over it. -/
def State.homeRead (s : State) (vf va : Nat) (t : Target) (n : Nat) : List Byte :=
  match t with
  | .dry => List.replicate n 0#8
  | .loc pa =>
    (s.l1.filter fun l => dieOf l.core == dieOfPa pa && l.vf == vf && l.dirty).foldl
      (fun bs l => if l.vline * 64 < va + n && va < l.vline * 64 + 64 then spliceBytes va bs (l.vline * 64) (lineBytes l.data)
        else bs) (Memory.bytes s.mem pa n)
  | .host h =>
    (s.hostCopies h n).foldl (fun bs l =>
      if l.dirty then spliceBytes (memHost + h) bs l.target.key (lineBytes l.data) else bs) (Memory.bytes s.mem (memHost + h) n)
  | t => Memory.bytes s.mem t.key n

/-- Whether the device can reach host memory: the link is up, and has trained as CXL (R377). -/
def State.cacheUp (s : State) : Bool := s.host.linkUp && s.host.cxl

/-- Whether a host line is poisoned, as its dirty copy or host memory has it (R357). -/
def State.hostHomeBad (s : State) (h : Nat) : Bool :=
  match (s.hostCopies h 1).find? BedLine.dirty with
  | some l => l.poison ≠ 0#4
  | none => s.poisoned (memHost + h) 1

/-- The copy of a host line in a quad's column that serves an access of a function, one that is held exclusively where the access
needs that (R387). -/
def Quad.hostLine? (x : Quad) (vf h : Nat) (excl : Bool) : Option BedLine :=
  x.bed.find? fun l => l.host && l.vf == vf && l.target == .host h && (!excl || l.excl)

/-- Whether an access of a quad meets a poisoned host line (R112, R357): in its column's copy that serves it; else as the host answers
the request. -/
def State.hostBad (s : State) (q vf h : Nat) (excl : Bool) : Bool :=
  match (s.quad q).hostLine? vf (h / 64 * 64) excl with
  | some l => l.poison ≠ 0#4
  | none => s.hostHomeBad (h / 64 * 64)

/-- Whether a read of n bytes meets a poisoned granule (R112). -/
def State.readPoison (s : State) (vf va : Nat) (t : Target) (n : Nat) : Bool :=
  match t with
  | .dry => false
  | .loc pa =>
    let dl := s.l1.filter fun l => dieOf l.core == dieOfPa pa && l.vf == vf && l.dirty && l.vline * 64 < va + n &&
      va < l.vline * 64 + 64
    dl.any (fun l => (List.range 8).any fun i =>
      l.poison.getLsbD i && l.vline * 64 + 8 * i < va + n && va < l.vline * 64 + 8 * i + 8) ||
    (s.poisoned pa n && !dl.any (fun l => l.vline * 64 ≤ va && va + n ≤ l.vline * 64 + 64))
  | .host h => (List.range (ceilDiv (h % 64 + n) 64)).any fun i =>
      s.hostHomeBad (h / 64 * 64 + 64 * i) || (!s.cacheUp && (s.hostCopies (h / 64 * 64 + 64 * i) 1).isEmpty)
  | t => s.poisoned t.key n

/-- Whether a read of n bytes by a party of a quad meets a poisoned granule (R112): host memory is read through its column (R387). -/
def State.accessPoison (s : State) (q vf va : Nat) (t : Target) (n : Nat) : Bool :=
  match t with
  | .host h => (List.range (ceilDiv (h % 64 + n) 64)).any fun i => s.hostBad q vf (h / 64 * 64 + 64 * i) false
  | t => s.readPoison vf va t n

/-- Every copy of the host lines that n bytes touch goes, dirty ones into host memory (R387), with their poison (R357). -/
def State.hostFlush (s : State) (h n : Nat) : State :=
  let cs := s.hostCopies h n
  if cs.isEmpty then s
  else
    let s := (cs.filter BedLine.dirty).foldl (fun s l =>
      (s.putHome l.target.key (lineBytes l.data)).poisonBy l.target.key 64 1 fun _ => l.poison ≠ 0#4) s
    { s with quads := FMap.map s.quads fun _ q => { q with bed := q.bed.filter fun l => !cs.contains l } }

/-- Whether n bytes of one line, which a party of a quad writes, stand in a granule that is poisoned once the line's dirty copy has
gone home, where every granule that a poisoned piece touches is poisoned (R124, R358); whole says that a granule the bytes cover whole
does not count. -/
def State.homePoison (s : State) (q vf va : Nat) (t : Target) (n : Nat) (whole : Bool) : Bool :=
  match t with
  | .loc pa =>
    match (s.copies (dieOfPa pa) vf (va / 64)).find? L1Line.dirty with
    | some l => (List.range 8).any fun i =>
        let lo := i / 4 * 32
        l.poison.getLsbD i && va % 64 < lo + 32 && lo < va % 64 + n && !(whole && va % 64 ≤ lo && lo + 32 ≤ va % 64 + n)
    | none => s.poison.any fun p => p < pa + n && pa < p + granule p && !(whole && pa ≤ p && p + granule p ≤ pa + n)
  | .host h => !(whole && n = 64) && s.hostBad q vf h true
  | .dry => false
  | t => s.poison.any fun p => p < t.key + n && t.key < p + granule p && !(whole && t.key ≤ p && p + granule p ≤ t.key + n)

/-- Writes n bytes at their home (R265): a dry page counts them (R32, R33); a local frame loses its L1 copies first; host
memory is written past the caches, whose copies of the line go home. -/
def State.homeWrite (s : State) (vf va : Nat) (t : Target) (bs : List Byte) : State :=
  match t with
  | .dry => s.dryBytes vf bs.length
  | .loc pa => (s.recallBytes (dieOfPa pa) vf va bs.length).putHome pa bs
  | .peer l pa => (s.putHome t.key bs).emit (.peerOp (bitsNat (s.lptEntry vf l) 54 50) l pa bs.length)
  | .host h => (s.hostFlush h bs.length).putHome t.key bs
  | .pool _ _ => s.putHome t.key bs

/-- Wakes the bank that holds a line: with its stale-all flag set it discards its foreign lines first (R274). -/
def Quad.wakeBank (q : Quad) (vline : Nat) : Quad :=
  let b := Config.bedBank vline
  if q.asleep.contains b then
    { q with asleep := q.asleep.filter (· ≠ b), staleAll := q.staleAll.filter (· ≠ b),
             bed := if q.staleAll.contains b then q.bed.filter (fun l => l.host || Config.bedBank l.vline ≠ b) else q.bed }
  else q

/-- The quad's column with the bank of a line awake. -/
def State.wakeLine (s : State) (q vline : Nat) : State :=
  if (s.quad q).asleep.isEmpty then s else s.putQuad q ((s.quad q).wakeBank vline)

/-- A valid foreign line of a quad (R271). -/
def Quad.foreign? (q : Quad) (vf vline : Nat) : Option BedLine :=
  q.bed.find? fun l => !l.host && l.vf == vf && l.vline == vline && l.stamp == q.gen.toNat

/-- The ways of a column in which a function's lines may stand: those of its mask (R335) that no B-operand region takes (R15,
R223). -/
def State.bedWays (s : State) (q vf : Nat) : List Nat :=
  (List.range 14).filter fun i => (s.part vf).ways.getLsbD i && !(s.quad q).bway.getLsbD i

/-- The set of a column that a line belongs to: a column has 4,096 sets (01_machine, "The bed"). -/
def bedSet (vf vline : Nat) : Nat := Config.bedSet (vf * 2 ^ 50 + vline) % 4096

/-- A line leaves a column (R387): a host line's eviction is a request, and a dirty one goes to host memory. DESIGN CHOICE
(notes/assumptions/78.md): while CXL.cache is absent (R377) no request leaves, and what a dirty line holds is lost. -/
def State.evictBed (s : State) (l : BedLine) : State :=
  if !s.cacheUp then s
  else
  match l.host, l.dirty with
  | false, _ => s
  | true, false => s.emit (.cacheReq (l.target.key / 64 - memHost / 64) "CleanEvict")
  | true, true =>
    ((s.putHome l.target.key (lineBytes l.data)).poisonBy l.target.key 64 1 fun _ => l.poison ≠ 0#4).emit
      (.cacheReq (l.target.key / 64 - memHost / 64) "DirtyEvict")

/-- Installs a line in a column, in a way of the function's that is free in the line's set, else in the place of another. -/
def State.installBed (s : State) (q : Nat) (l : BedLine) : State :=
  let ws := s.bedWays q l.vf
  let x := s.quad q
  let rest := x.bed.filter fun y => !(y.vf == l.vf && y.vline == l.vline)
  let taken (w : Nat) : Bool := rest.any fun y => y.way == w && bedSet y.vf y.vline == bedSet l.vf l.vline
  match ws.find? fun w => !taken w with
  | some w => s.putQuad q { x with bed := rest ++ [{ l with way := w }] }
  | none =>
    match ws[Config.victim s.tick % ws.length]? with
    | none => s
    | some w =>
      let out (y : BedLine) : Bool := y.way == w && bedSet y.vf y.vline == bedSet l.vf l.vline
      let s := (rest.filter out).foldl State.evictBed s
      s.putQuad q { x with bed := rest.filter (fun y => !out y) ++ [{ l with way := w }] }

/-- The poisoned 16-byte granules of a line as its home gives it (R357). -/
def State.bedPoison (s : State) (vf vline : Nat) (tg : Target) : BitVec 4 :=
  BitVec.ofNat 4 ((List.range 4).foldl (fun a i =>
    if s.readPoison vf (vline * 64 + 16 * i) (tg.plus (16 * i)) 16 then a + 2 ^ i else a) 0)

/-- Whether n bytes at an offset of a column's line lie in a poisoned granule of it. -/
def BedLine.bad (l : BedLine) (off n : Nat) : Bool :=
  (List.range 4).any fun i => l.poison.getLsbD i && 16 * i < off + n && off < 16 * i + 16

/-- The other copies of a host line as a request for it leaves them (R387): all gone for an exclusive one, else shared. -/
def State.hostDemote (s : State) (h : Nat) (excl : Bool) : State :=
  if excl then s.hostFlush h 64
  else
    let cs := s.hostCopies h 64
    let s := (cs.filter BedLine.dirty).foldl (fun s l =>
      (s.putHome l.target.key (lineBytes l.data)).poisonBy l.target.key 64 1 fun _ => l.poison ≠ 0#4) s
    if cs.isEmpty then s
    else
      { s with quads := FMap.map s.quads fun _ q =>
          { q with bed := q.bed.map fun (l : BedLine) => if cs.contains l then { l with excl := false, dirty := false } else l } }

/-- Whether an access of quad q to a host line can have no answer: CXL.cache is absent (R377), and the column holds no copy that
serves it. DESIGN CHOICE (notes/assumptions/78.md): such an access is a lost request (R363): a read gives poison, a store is
reported lost. -/
def State.hostGone (s : State) (q vf h : Nat) (excl : Bool) : Bool :=
  !s.cacheUp && ((s.quad q).hostLine? vf h excl).isNone

/-- A host line as the column of a quad holds it for a function, shared or exclusive, asked of the host where it does not
(R387); a function without ways there asks uncached. -/
def State.hostHold (s : State) (q vf vline h : Nat) (excl : Bool) : State × BedLine :=
  let s := s.wakeLine q vline
  match (s.quad q).hostLine? vf h excl with
  | some l => (s, l)
  | none =>
    if !s.cacheUp then (s, ⟨vf, vline, .host h, 0, true, excl, false, 0#512, 0, 15#4⟩)
    else
    let s := s.hostDemote h excl
    let bad := s.poisoned (memHost + h) 64
    let l : BedLine := ⟨vf, vline, .host h, 0, true, excl, false, bytesLine (Memory.bytes s.mem (memHost + h) 64), 0, if bad then 15#4 else 0#4⟩
    let kind := if (s.bedWays q vf).isEmpty then (if excl then "uncached write" else "uncached read") else if excl then "RdOwn" else "RdShared"
    ((s.emit (.cacheReq (h / 64) kind)).installBed q l, l)

/-- Writes bytes within one host line (R387, R115): in the column, which holds the line exclusively, or uncached; nothing where
the line cannot be reached (R377), which the writer reports. -/
def State.hostStore (s : State) (q vf va h : Nat) (bs : List Byte) : State :=
  if s.hostGone q vf (h / 64 * 64) true then s
  else
  let (s, l) := s.hostHold q vf (va / 64) (h / 64 * 64) true
  let new : BedLine := { l with dirty := true, poison := if bs.length = 64 then 0#4 else l.poison,
                                data := bytesLine (spliceBytes (va / 64 * 64) (lineBytes l.data) va bs) }
  if (s.bedWays q vf).isEmpty then s.putHome (memHost + h) bs
  else
    let x := s.quad q
    s.putQuad q { x with bed := x.bed.map fun (y : BedLine) => if y.vf == vf && y.target == l.target then { new with way := y.way } else y }

/-- The pieces of a list of bytes that starts at an address, one for each line: offset and bytes. -/
def linePieces (va : Nat) (bs : List Byte) : List (Nat × List Byte) :=
  (List.range (ceilDiv (va % 64 + bs.length) 64)).map fun i =>
    let lo := if i = 0 then 0 else 64 * i - va % 64
    (lo, (bs.drop lo).take (64 * (i + 1) - va % 64 - lo))

/-- Whether a local block is in host bias: its lines are not allocated in any cache (R383). -/
def State.hostBiased (s : State) (pa : Nat) : Bool := s.host.hostBias.contains (pa / 4096)

/-- The buckets of a line in its die's directory (R275). -/
def dirBuckets (vf vline : Nat) : Nat × Nat := (Config.dirHash1 (vf * 2 ^ 50 + vline), Config.dirHash2 (vf * 2 ^ 50 + vline))

/-- Whether a bucket of a slice has room: it has 4 entries (R275). -/
def State.bucketRoom (s : State) (slice b : Nat) : Bool := (s.dir.filter fun e => e.slice == slice && e.bucket == b).length < 4

/-- The chain of moves of a cuckoo insertion; what is left without a place after the last move (R275). -/
def moveChain (s : State) (e : DirEntry) (b : Nat) : Nat → State × Option DirEntry
  | 0 => (s, some e)
  | fuel + 1 =>
    if s.bucketRoom e.slice b then ({ s with dir := s.dir ++ [{ e with bucket := b }] }, none)
    else
      match (s.dir.filter fun x => x.slice == e.slice && x.bucket == b)[Config.dirVictim (s.tick + fuel) % 4]? with
      | none => (s, some e)
      | some x =>
        let (b1, b2) := dirBuckets x.vf x.vline
        moveChain { s with dir := (s.dir.filter fun y => y ≠ x) ++ [{ e with bucket := b }] } x (if b = b1 then b2 else b1) fuel

/-- Inserts a directory entry: a free entry in either bucket, else up to 8 moves (R275). -/
def State.dirInsert (s : State) (e : DirEntry) : State × Option DirEntry :=
  let (b1, b2) := dirBuckets e.vf e.vline
  if s.bucketRoom e.slice b1 then ({ s with dir := s.dir ++ [{ e with bucket := b1 }] }, none)
  else if s.bucketRoom e.slice b2 then ({ s with dir := s.dir ++ [{ e with bucket := b2 }] }, none)
  else moveChain s e b1 9

/-- Makes the directory entries of a line say what the L1s hold (R275). -/
def State.dirRefresh (s : State) (vf vline : Nat) : State :=
  { s with dir := s.dir.filterMap fun e => if e.vf == vf && e.vline == vline then e.refreshed s.l1 else some e }

/-- Gives up one L1 line: a dirty one is written home (R276). -/
def State.evictL1 (s : State) (l : L1Line) : State :=
  let s := s.writeBack l
  ({ s with l1 := s.l1.filter fun x => !x.same l }).dirRefresh l.vf l.vline

/-- A core's L1 takes a line, in the place of another where its 512 lines are full; one that must wait for the host before it can
go home is not given up. The directory gets an entry for the line at the slice of its home, a foreign line at its own column. The
wait is the recall that the insertion caused (R275). -/
def State.l1Install (s : State) (l : L1Line) : State × Option Wait :=
  let mine := s.l1.filter fun (x : L1Line) => x.core == l.core
  let outs := mine.filter fun x => (s.homeWait x).isNone
  if 512 ≤ mine.length && outs.isEmpty then (s, none)
  else
  let s := if mine.length < 512 then s else
    match outs[Config.victim s.tick % outs.length]? with
    | some out => s.evictL1 out
    | none => s
  let s : State := { s with l1 := (s.l1.filter fun (x : L1Line) => !x.same l) ++ [l] }
  if s.dir.any fun (e : DirEntry) => e.covers l then (s.dirRefresh l.vf l.vline, none)
  else
    let die := dieOf l.core
    let slice := if l.stamp.isSome then quadOf l.core else 256 * die + Config.homeSlice (l.vf * 2 ^ 50 + l.vline) % 256
    match s.dirInsert ⟨die, slice, 0, l.vf, l.vline, l.st, if l.st = Moesi.s then none else some l.core, if l.st = Moesi.s then [l.core] else []⟩ with
    | (s, none) => (s.dirRefresh l.vf l.vline, none)
    | (s, some x) => (({ s with overfull := s.overfull ++ [x] } : State).dirRefresh l.vf l.vline, some (.recall die))

/-- Brings a local line into a core's L1 for a load (R275): exclusive when no other copy exists, else shared with the owner
kept as owner. -/
def State.l1Fill (s : State) (core : Nat) (hyper : Bool) (vf vline pa : Nat) : State × Option Wait :=
  let die := dieOf core
  let cs := s.copies die vf vline
  let own := cs.find? L1Line.dirty
  let data := match own with
    | some l => l.data
    | none => bytesLine (Memory.bytes s.mem pa 64)
  let pm := match own with
    | some l => l.poison
    | none => s.poisonMask pa
  let down (l : L1Line) : L1Line :=
    if l.stamp.isNone && dieOf l.core == die && l.vf == vf && l.vline == vline then
      { l with st := if l.st = .m then .o else if l.st = .e then .s else l.st } else l
  ({ s with l1 := s.l1.map down } : State).l1Install ⟨core, hyper, vf, vline, pa, if cs.isEmpty then .e else .s, data, pm, none⟩

/-- The poisoned 16-byte granules of a line as pieces of 8 bytes. -/
def poison8 (p : BitVec 4) : BitVec 8 := BitVec.ofNat 8 ((List.range 8).foldl (fun a i => if p.getLsbD (i / 2) then a + 2 ^ i else a) 0)
/-- The granules of 16 bytes that poisoned pieces of 8 bytes touch. -/
def poison4 (p : BitVec 8) : BitVec 4 :=
  BitVec.ofNat 4 ((List.range 4).foldl (fun a i => if p.getLsbD (2 * i) || p.getLsbD (2 * i + 1) then a + 2 ^ i else a) 0)

/-- A core's L1 takes a foreign line from its quad's column, in state S and with the stamp (R271). -/
def State.l1Foreign (s : State) (core : Nat) (l : BedLine) : State × Option Wait :=
  s.l1Install ⟨core, false, l.vf, l.vline, l.target.key, .s, l.data, poison8 l.poison, some l.stamp⟩

/-- What a read gives. -/
inductive MemRes where
  | ok (s : State) (bs : List Byte)
  | wait (s : State) (w : Wait)
  | poison
  /-- The request or its response is lost on a link that is down (R361, R363). -/
  | lost

/-- n bytes at an offset of a line. -/
def pieceOf (d : Vec) (off n : Nat) : List Byte := ((lineBytes d).drop off).take n

/-- A read of n bytes at an address from an L1's line: a poisoned granule of 8 bytes stops it (R112, R357). -/
def State.l1Read (s : State) (l : L1Line) (va n : Nat) : MemRes :=
  if (List.range 8).any (fun i => l.poison.getLsbD i && 8 * i < va % 64 + n && va % 64 < 8 * i + 8) then .poison
  else .ok s (pieceOf l.data (va % 64) n)

/-- The same from a column's line. -/
def State.bedRead (s : State) (l : BedLine) (va n : Nat) : MemRes :=
  if l.bad (va % 64) n then .poison else .ok s (pieceOf l.data (va % 64) n)

/-- A core's valid L1 copy of a foreign line: its stamp is the quad's generation (R271). -/
def State.l1Foreign? (s : State) (core vf vline : Nat) : Option L1Line :=
  s.l1.find? fun l => l.core == core && l.vf == vf && l.vline == vline && l.stamp == some (s.quad (quadOf core)).gen.toNat

/-- Where a request of a quad to the place of a target, or its response, is lost on a link that is down, a pod port included (R299,
R361, R363): the die on the sending side, which is that of the port (R401), and the class of the packet; nothing is sent while the table
entry of a peer is with the host (R383). -/
def State.lostAt (s : State) (q vf : Nat) (tg : Target) : Option (Nat × PktClass) :=
  match tg with
  | .loc pa => s.cutSide (dieOfQuad q) (dieOfPa pa)
  | .peer l _ =>
    if s.steax.downLinks.isEmpty || (s.lptWait vf l).isSome then none
    else
      let p := bitsNat (s.lptEntry vf l) 54 50
      (s.cutSide (dieOfQuad q) (p % 32)).or (if s.steax.downLinks.contains (64 + p) then some (p % 32, .request) else none)
  | _ => none

/-- Whether a request of a quad to the place of a target, or its response, is lost on a link that is down. -/
def State.cutOff (s : State) (q vf : Nat) (tg : Target) : Bool := (s.lostAt q vf tg).isSome

/-- Whether an access of a quad can have no answer: a link on the way is down (R361), or CXL.cache is absent (R377). -/
def State.unanswered (s : State) (q vf : Nat) (tg : Target) (excl : Bool) : Bool :=
  match tg with
  | .host h => s.hostGone q vf (h / 64 * 64) excl
  | t => s.cutOff q vf t

/-- The logical package that a function's access to a target is sent to (R364, R367): a peer, or the own one. -/
def State.destOf (s : State) (vf : Nat) (tg : Target) : Nat :=
  match tg with
  | .peer l _ => l
  | _ => (s.part vf).self

/-- A request or response that a down link has lost enters the loss log of a die, the sending side (R361, R364). DESIGN CHOICE
(notes/assumptions/99.md): a response is entered under the core whose request it answers; the flits are a free value. -/
def State.enterLoss (s : State) (x : Nat × PktClass) (core job dest : Nat) : State :=
  { s with losses := s.losses ++ [⟨x.1, job, x.2, core, dest, Config.lostFlits s.tick⟩] }

/-- The entry of a request or response of a core's access that a down link has lost (R361, R364). -/
def State.logLost (s : State) (core vf job : Nat) (tg : Target) : State :=
  match s.lostAt (quadOf core) vf tg with
  | some x => s.enterLoss x core job (s.destOf vf tg)
  | none => s

/-- The event of a lost packet (R367), on the die on its sending side (R401). -/
def State.lossEvent (s : State) (die vf job unit_ dest : Nat) : State :=
  s.event die 0x06 0 job vf unit_ [BitVec.ofNat 64 dest, BitVec.ofNat 64 (Config.lostFlits s.tick)]

/-- The same with the event of a lost packet (R367), for an access that then ends as R363 says. -/
def State.loseRequest (s : State) (core vf job unit_ : Nat) (tg : Target) : State :=
  match s.lostAt (quadOf core) vf tg with
  | some (die, _) => (s.logLost core vf job tg).lossEvent die vf job unit_ (s.destOf vf tg)
  | none => s

/-- A read past the caches: the bytes at their home. -/
def State.homeReadRes (s : State) (vf va : Nat) (tg : Target) (n : Nat) : MemRes :=
  if s.readPoison vf va tg n then .poison else .ok s (s.homeRead vf va tg n)

/-- A read of a die-local line through the core's L1 (R275). -/
def State.readLocal (s : State) (core : Nat) (hyper : Bool) (vf va pa n : Nat) : MemRes :=
  match s.l1Of core vf (va / 64) with
  | some l => s.l1Read l va n
  | none =>
    if s.readPoison vf va (.loc pa) n then .poison
    else
      match (s.wakeLine (quadOf core) (va / 64)).l1Fill core hyper vf (va / 64) (pa / 64 * 64) with
      | (s, some w) => .wait s w
      | (s, none) =>
        match s.l1Of core vf (va / 64) with
        | some l => s.l1Read l va n
        | none => s.homeReadRes vf va (.loc pa) n

/-- A read of a foreign line through the core's L1 and the quad's column (R271, R272): filled is the line that a fill returned
for this load; without a valid copy the load asks for one, with the stamp of the generation. -/
def State.readForeign (s : State) (core vf va pa : Nat) (filled : Option (Vec × BitVec 4)) (n : Nat) : MemRes :=
  let q := quadOf core
  match s.l1Foreign? core vf (va / 64), filled with
  | some l, _ => s.l1Read l va n
  | none, some (d, p) =>
    let s := s.wakeLine q (va / 64)
    match (s.quad q).foreign? vf (va / 64) with
    | none => s.bedRead ⟨vf, va / 64, .dry, 0, false, false, false, d, 0, p⟩ va n
    | some l =>
      match s.l1Foreign core l with
      | (s, some w) => .wait s w
      | (s, none) => s.bedRead ⟨vf, va / 64, .dry, 0, false, false, false, d, 0, p⟩ va n
  | none, none =>
    let s := s.wakeLine q (va / 64)
    match (s.quad q).foreign? vf (va / 64) with
    | none => if s.cutOff q vf (.loc pa) then .lost else .wait s (.fill (va / 64) (s.quad q).gen.toNat)
    | some l =>
      if l.bad (va % 64) n then .poison
      else
        match s.l1Foreign core l with
        | (s, some w) => .wait s w
        | (s, none) => s.bedRead l va n

/-- The read of a scalar load, within one line, after its checks (R111, R113, R265, R271): own pool or another, the L1 of a
local line, a foreign line or a fill, a peer, a host line. -/
def State.loadBytes (s : State) (t : Strand) (va : Nat) (tg : Target) (n : Nat) : MemRes :=
  match tg with
  | .dry => .ok s (List.replicate n 0#8)
  | .pool _ _ => if s.poisoned tg.key n then .poison else .ok s (Memory.bytes s.mem tg.key n)
  | .peer l pa =>
    if s.cutOff (quadOf t.core) t.vf tg then .lost
    else if s.poisoned tg.key n then .poison
    else .ok (s.emit (.peerOp (bitsNat (s.lptEntry t.vf l) 54 50) l pa n)) (Memory.bytes s.mem tg.key n)
  | .loc pa =>
    match s.biasWait pa with
    | some w => .wait (s.askHost w false) w
    | none =>
      if s.hostBiased pa then (if s.cutOff (quadOf t.core) t.vf tg then .lost else s.homeReadRes t.vf va tg n)
      else if dieOfPa pa = dieOf t.core then s.readLocal t.core (t.mode = 2) t.vf va pa n
      else s.readForeign t.core t.vf va pa t.filled n
  | .host h =>
    let (s, l) := s.hostHold (quadOf t.core) t.vf (va / 64) (h / 64 * 64) false
    s.bedRead l va n

/-- The poisoned 8-byte granules of a cached line of GDDR-7 after a store of n bytes at an offset: the rule of R115 with the
home's granules of 32 bytes (R357). -/
def poisonAfter (pm : BitVec 8) (off n : Nat) : BitVec 8 :=
  let left (j : Nat) : Bool := pm.getLsbD j && !(off ≤ 8 * j && 8 * j + 8 ≤ off + n)
  BitVec.ofNat 8 ((List.range 8).foldl (fun a i =>
    let lo := i / 4 * 32
    let bad := if off < lo + 32 && lo < off + n then
        !(off ≤ lo && lo + 32 ≤ off + n) && (List.range 4).any (fun j => left (i / 4 * 4 + j))
      else pm.getLsbD i
    if bad then a + 2 ^ i else a) 0)

/-- The quad's copies of foreign lines that n bytes of a function's addresses touch are changed: those of its column, those of its
L1s. -/
def State.modForeign (s : State) (q vf va n : Nat) (f : BedLine → BedLine) (g : L1Line → L1Line) : State :=
  let x := s.quad q
  let hit (v vline : Nat) : Bool := v == vf && vline * 64 < va + n && va < vline * 64 + 64
  let s := if x.bed.isEmpty then s
    else s.putQuad q { x with bed := x.bed.map fun (l : BedLine) => if !l.host && hit l.vf l.vline then f l else l }
  if s.l1.any fun l => quadOf l.core == q && l.stamp.isSome then
    { s with l1 := s.l1.map fun (l : L1Line) => if quadOf l.core == q && l.stamp.isSome && hit l.vf l.vline then g l else l }
  else s

/-- A quad's own copies of a foreign line, in its column and its L1s, take the bytes that a party of it has stored at the home, and
keep their stamp (R271). A granule of a copy is poisoned then where the store left it so in the copy, or the home has it so (R115,
R358). -/
def State.updateForeign (s : State) (q vf va : Nat) (bs : List Byte) : State :=
  let new (vline : Nat) (d : Vec) : Vec := bytesLine (spliceBytes (vline * 64) (lineBytes d) va bs)
  let bad (vline key : Nat) (pm : BitVec 8) : BitVec 8 :=
    let off := va - vline * 64
    let n := min (va + bs.length) (vline * 64 + 64) - max va (vline * 64)
    let home := s.poisonMask key
    poisonAfter pm off n ||| BitVec.ofNat 8 ((List.range 8).foldl (fun a i =>
      if home.getLsbD i && off < i / 4 * 32 + 32 && i / 4 * 32 < off + n then a + 2 ^ i else a) 0)
  s.modForeign q vf va bs.length
    (fun l => { l with data := new l.vline l.data, poison := poison4 (bad l.vline l.target.key (poison8 l.poison)) })
    (fun l => { l with data := new l.vline l.data, poison := bad l.vline l.pa l.poison })

/-- A quad's own copies of the foreign lines that a party of it has read at the home take each line whole as the home has it, so that
no party goes back behind what it has read (R258) and no access is torn (R257). -/
def State.refreshForeign (s : State) (q vf va n : Nat) : State :=
  let line (vline key : Nat) : Vec := bytesLine (s.homeRead vf (vline * 64) (.loc key) 64)
  s.modForeign q vf va n
    (fun l => { l with data := line l.vline l.target.key, poison := s.bedPoison vf l.vline (.loc l.target.key) })
    (fun l => { l with data := line l.vline l.pa, poison := poison8 (s.bedPoison vf l.vline (.loc l.pa)) })

/-- A read by a strand or engine of quad q, of n bytes of one page, at their home: its older copies of the foreign lines take them
as the home has them (R257, R258); host memory is read through the column (R387). -/
def State.partyRead (s : State) (q vf va : Nat) (tg : Target) (n : Nat) : MemRes :=
  match tg with
  | .host h =>
    (linePieces va (List.replicate n 0#8)).foldl (fun r p =>
      match r with
      | .ok s bs =>
        let (s, l) := s.hostHold q vf ((va + p.1) / 64) ((h + p.1) / 64 * 64) false
        (match s.bedRead l (va + p.1) p.2.length with
        | .ok s b => .ok s (bs ++ b)
        | r => r)
      | r => r) (.ok s [])
  | .loc _ =>
    if s.cutOff q vf tg then .lost
    else if s.readPoison vf va tg n then .poison
    else .ok (s.refreshForeign q vf va n) (s.homeRead vf va tg n)
  | .peer l pa =>
    if s.cutOff q vf tg then .lost
    else if s.readPoison vf va tg n then .poison
    else .ok (s.emit (.peerOp (bitsNat (s.lptEntry vf l) 54 50) l pa n)) (s.homeRead vf va tg n)
  | t => s.homeReadRes vf va t n

/-- A write by a strand or engine of quad q, within one page, at its home (R265, R271, R387). -/
def State.partyWrite (s : State) (q vf va : Nat) (tg : Target) (bs : List Byte) : State :=
  match tg with
  | .loc _ => (s.homeWrite vf va tg bs).updateForeign q vf va bs
  | .host h => (linePieces va bs).foldl (fun s p => s.hostStore q vf (va + p.1) (h + p.1) p.2) s
  | t => s.homeWrite vf va t bs

/-- Performs a store of at most one line at its home (R114, R265, R271, R387): in the core's own L1 copy, made the only
one, where it has the line of a local block; at the home otherwise; in the column, held exclusively, for host memory. -/
def State.storeBytes (s : State) (core vf va : Nat) (tg : Target) (bs : List Byte) : State :=
  let vline := va / 64
  match tg with
  | .loc pa =>
    if dieOfPa pa = dieOf core then
      match s.l1Of core vf vline with
      | some l =>
        let cs := s.copies (dieOf core) vf vline
        let own := cs.find? L1Line.dirty
        let data := (own.map L1Line.data).getD l.data
        let pm := (own.map L1Line.poison).getD l.poison
        let keep := poisonAfter pm (va % 64) bs.length
        let new : L1Line := { l with st := .m, data := bytesLine (spliceBytes (vline * 64) (lineBytes data) va bs), poison := keep }
        ({ s with l1 := (s.l1.filter fun (x : L1Line) => !cs.contains x) ++ [new] } : State).dirRefresh vf vline
      | none => s.partyWrite (quadOf core) vf va tg bs
    else s.partyWrite (quadOf core) vf va tg bs
  | t => s.partyWrite (quadOf core) vf va t bs

/-- Whether a store of at most one line by a core leaves a granule that it covers only in part poisoned, which is reported (R115,
R357, R358): in the core's own L1 copy, where it has the line; else at the home. -/
def State.storePoison (s : State) (core vf va : Nat) (tg : Target) (n : Nat) : Bool :=
  match tg with
  | .loc pa =>
    match (if dieOfPa pa = dieOf core then s.l1Of core vf (va / 64) else none) with
    | some l =>
      let m := poisonAfter ((((s.copies (dieOf core) vf (va / 64)).find? L1Line.dirty).map L1Line.poison).getD l.poison) (va % 64) n
      (List.range 8).any fun i => m.getLsbD i && va % 64 < i / 4 * 32 + 32 && i / 4 * 32 < va % 64 + n
    | none => s.homePoison (quadOf core) vf va tg n true
  | t => s.homePoison (quadOf core) vf va t n true

/-- The structure number of R357 for the place of a key. -/
def structureOf (k : Nat) : Nat :=
  if k < memHost then 5 else if k < memPeer then 12 else if k < memPool then 13 else if k < memRegion then 1
  else if k < memTile then 3 else if k < memBed then 4 else if k < memL1 then 3 else if k < memInlet then 2
  else if k < memCount then (if (k - memInlet) / 512 % 512 < 16 then 1 else 3) else [6, 7, 8].getD ((k - memCount) % 3) 6

/-- The die that holds or drives a key (R401); for a host line or memory of a peer package, that of the quad whose column an
access goes through. -/
def State.dieOfKey (s : State) (q k : Nat) : Nat :=
  if k < memHost then dieOfPa k else if k < memPool then dieOfQuad q else if k < memRegion then (k - memPool) / 2 ^ 27 % 32
  else if k < memTile then (k - memRegion) / 2 ^ 30 % 32
  else if k < memBed then (k - memTile) / 2 ^ 21 / 256 % 32
  else if k < memFrame then (k - memBed) / 2 ^ 62 / 256 % 32
  else if k < memL1 then ((s.strand? ((k - memFrame) / 2 ^ 18)).map fun t => dieOf t.core).getD 0
  else if k < memInlet then (k - memL1) / 2 ^ 62 / 1024 % 32
  else if k < memCount then (k - memInlet) / 2 ^ 18 / 1024 % 32
  else (k - memCount) / 3 % 32

end Sys2Proof.Machine
end

