-- ==== Sys2Proof/Machine/Ops.lean ====
section
/-!
DEFINITION. The shared operations of instructions: how an issued word is checked and retired (R79, R103), taking a trap
(R217) and returning from one (R219), parking, ending a strand (R109), breaking tarn declarations (R55), packets (R299).
-/
namespace Sys2Proof.Machine

/-- What the body of an instruction answers. -/
inductive Res where
  /-- Retires at PC + 4. -/
  | done (s : State)
  /-- Retires at another PC (R103): an exact integer, checked against the address space. -/
  | jump (s : State) (t : Int)
  /-- Does not retire: the strand stays at this instruction, parked or not ready. -/
  | hold (s : State)
  /-- The strand has ended, or the body has set its PC itself. -/
  | stop (s : State)
  /-- Takes a trap and changes nothing else. -/
  | trap (cause : Nat) (tval : Word64)
  /-- Takes a trap after effects that stand. -/
  | trapIn (s : State) (cause : Nat) (tval : Word64)

/-- The strand whose instruction the step runs. -/
def State.me (s : State) : Option Strand := s.strand? s.cur

/-- Replaces the running strand. -/
def State.putMe (s : State) (t : Strand) : State := s.putStrand s.cur t

/-- The word being executed as TVAL holds it (R79): the word in [31:0], zero above. -/
def State.wordTval (s : State) : Word64 := s.ir.setWidth 64

/-- A packet enters the fabric at a core's quad (R299). -/
def State.post (s : State) (cls : PktClass) (job src dst : Nat) (port : Option Nat) (body : PktBody) : State :=
  let p : Packet := ⟨s.nextUid, body, cls, job, quadOf src, src, dst, port, quadOf src, .shared, 0, false⟩
  { s with nextUid := s.nextUid + 1, packets := s.packets ++ [p] }

/-- The delegation bit of a cause (R65). -/
def delegBit (cause : Nat) : Nat := if cause < 0x10 then cause else 8 * (cause / 16) + cause % 8

/-- Strands of a quad that wait on a tarn name. -/
def State.readersOf (s : State) (q n : Nat) : Nat → Strand → Wait → Bool := fun _ t w =>
  match w with
  | .names ns => quadOf t.core == q && ns.contains n
  | .stream => false
  | _ => false

/-- A change of state of a name: every strand that waits on it makes its checks again (R55, R150). -/
def State.nameChanged (s : State) (q n : Nat) : State := s.wake (s.readersOf q n)

/-- A broken declaration: strands parked on the name in their slots take trap 0x21, displaced ones are woken (R55, R150). -/
def State.breakReaders (s : State) (q n : Nat) : State :=
  let s := { s with strands := FMap.map s.strands fun u t =>
    match t.run with
    | .waiting w => if s.readersOf q n u t w && t.slot.isSome then { t with doom := some (0x21, BitVec.ofNat 64 n) } else t
    | .running => t }
  s.nameChanged q n

/-- A declaration is broken: the name becomes free (R55, R158). -/
def State.breakName (s : State) (q n : Nat) : State :=
  (s.putQuad q { s.quad q with names := FMap.erase (s.quad q).names n }).breakReaders q n

/-- A queued declaration is withdrawn (R55). -/
def State.withdrawQueued (s : State) (q n : Nat) : State :=
  (s.putQuad q ((s.quad q).putName n { (s.quad q).name n with queued := none, qcore := 0, qslot := 0 })).breakReaders q n

/-- What an ending strand declared and did not define goes, and what it queued (R55, R109). -/
def State.endNames (s : State) (q u : Nat) : State :=
  (s.quad q).names.foldl (fun s p =>
    if p.2.st = .declared && p.2.owner == u then s.breakName q p.1
    else match p.2.queued with
      | some (_, o) => if o == u then s.withdrawQueued q p.1 else s
      | none => s) s

/-- The place of a barrier instance (R197): the quad, the die of the partition, the partition, the job. -/
def barPlace (sc core job : Nat) : Nat := if sc = 1 then quadOf core else if sc = 2 then dieOf core else if sc = 3 then 0 else job

/-- The home of a barrier instance (R310), as a core number of the package. -/
def State.barHome (s : State) (vf sc core : Nat) : Nat :=
  if sc = 1 then 4 * quadOf core else if sc = 2 then 1024 * dieOf core else 1024 * s.firstDie vf

/-- The scope, the number and the phase of a barrier register (R41). -/
def barSc (b : Word64) : Nat := bitsNat b 62 60
/-- NUM of a barrier register. -/
def barNum (b : Word64) : Nat := bitsNat b 39 32

/-- A bound register is withdrawn: W is set and a withdrawal goes to the home (R198, R311). DESIGN CHOICE
(notes/assumptions/81.md): W alone is set; V, A and CNT stay as they are. -/
def State.leaveBarrier (s : State) (u : Nat) (t : Strand) (i : BitVec 2) : State :=
  let b := t.b i
  if bitAt b 63 && !bitAt b 57 then
    let s := s.modStrand u fun t => t.setB i (b ||| field64 1 57)
    let s := { s with barriers := s.barriers.map fun (x : Barrier) => { x with members := x.members.filter fun (m : Member) => !(m.uid == u && m.b == i.toNat) } }
    s.post .control t.birthJob t.core (s.barHome t.vf (barSc b) t.core) none
      (.withdraw t.vf t.birthJob (barSc b) (barNum b) (bitAt b 59) (bitAt b 58) u i.toNat)
  else s

/-- Whether what a strand has under way lets it end: stores performed, vector and matrix instructions complete (R109, R130,
R151). -/
def State.canEnd (s : State) (u : Nat) (t : Strand) : Bool :=
  t.buf.isEmpty && t.vflags.isEmpty && !(s.quad (quadOf t.core)).ops.any (fun o => o.uid == u)

/-- Whether a barrier register of a strand is bound and not withdrawn (R41). -/
def Strand.bound (t : Strand) (i : BitVec 2) : Bool := bitAt (t.b i) 63 && !bitAt (t.b i) 57

/-- Whether an arrival or a withdrawal of a strand is on its way to its barrier's home (R311). -/
def State.barrierTraffic (s : State) (u : Nat) : Bool :=
  s.packets.any fun p => match p.body with
    | .arrive _ _ _ _ _ w _ _ _ _ => w == u
    | .withdraw _ _ _ _ _ _ w _ => w == u
    | _ => false

/-- Every bound register of a strand is withdrawn (R109, R198). -/
def State.leaveAll (s : State) (u : Nat) (t : Strand) : State := [0#2, 1#2, 2#2, 3#2].foldl (fun s i => s.leaveBarrier u t i) s

/-- The end of a strand's activation (R109, R306): declarations withdrawn, the message counted consumed after all its sends, the
window and the slot freed. -/
def State.endStrand (s : State) (u : Nat) (t : Strand) : State :=
  let s := s.endNames (quadOf t.core) u
  let s := s.dropStrand u
  let last := t.kind ≠ .gang || !(s.strands.any fun p => p.2.group == t.group && p.2.kind == .gang)
  if last then s.consumed t.core t.birthJob t.marked else s

/-- The cause code under which State keeps a strand that ends as by EXIT (R217). -/
def doomExit : Nat := 0x100

/-- EXIT: retires only when nothing of the strand is under way; until then the strand is not ready. Its bound barrier registers
are withdrawn, and the withdrawals have reached their homes, before the slot is freed (R109, R198); from the withdrawals on nothing
interrupts it (R343). -/
def State.tryEnd (s : State) (u : Nat) (t : Strand) : State :=
  if !s.canEnd u t then s
  else if t.bound 0#2 || t.bound 1#2 || t.bound 2#2 || t.bound 3#2 then
    (s.leaveAll u t).modStrand u fun t => { t with doom := some (doomExit, 0#64) }
  else if s.barrierTraffic u then s
  else s.endStrand u t

/-- A strand has no tarn or matrix request in a quad's queues any more, and holds nothing back there (R13, R168, R226). -/
def Quad.forget (x : Quad) (u : Nat) : Quad :=
  { x with queue := x.queue.filter (·.uid ≠ u), mmaxBy := if x.mmaxBy = some u then none else x.mmaxBy,
           drainBy := if x.drainBy = some u then none else x.drainBy }

/-- Taking a trap (R217), asynchronous ones included: TCAUSE, TPC and TVAL are saved; a delegated cause in user mode goes to
UTVEC with the mode unchanged; any other raises the mode to supervisor at least and goes to TVEC; with TVEC = 0 the strand
ends as by EXIT and the black box records the trap. The resume point of a block operation that it interrupts is put by for
the ERET that returns to it (R36, R344). -/
def State.takeTrap (s : State) (u : Nat) (t : Strand) (cause : Nat) (tval : Word64) : State :=
  let p := s.part t.vf
  let y := { t.sys with tcause := BitVec.ofNat 64 cause, tpc := BitVec.ofNat 64 t.pc, tval := tval }
  let q := quadOf t.core
  let x := s.quad q
  let s := if (x.queue.any fun r => r.uid == u) || x.mmaxBy = some u || x.drainBy = some u then s.putQuad q (x.forget u) else s
  let point := if t.prog.at_ = t.pc then t.prog.block.map fun off => (t.pc, off) else none
  let t := { t with run := .running, doom := none, answered := false, filled := none, refused := [], timeout := false, asked := [],
                    delivery := none, points := point.toList ++ t.points, prog := { t.prog with block := none, image := none } }
  if t.mode = 0 && bitAt p.deleg (delegBit cause) && y.utvec ≠ 0#64 then
    s.putStrand u { t with sys := y, pc := y.utvec.toNat }
  else
    let st := y.status
    let mode := max t.mode 1
    let st' := (st &&& ~~~(0xFC#64)) ||| field64 mode 6 ||| field64 t.mode 4 ||| field64 (bitsNat st 3 3) 2
    let t := { t with sys := { y with status := st' } }
    if p.tvec = 0#64 then
      let s := s.event (dieOf t.core) 0x01 cause t.birthJob t.vf t.unit [BitVec.ofNat 64 t.pc, tval]
      s.putStrand u { t with doom := some (doomExit, 0#64) }
    else s.putStrand u { t with pc := p.tvec.toNat }

/-- The progress without what it keeps of the instruction at a PC (R36, R142). -/
def Progress.drop (p : Progress) (pc : Nat) : Progress :=
  let p := if p.at_ = pc then { p with block := .none, image := .none } else p
  if p.lanesAt = some pc then { p with lanesAt := .none, pending := .none, loaded := 0#512, lane := .none } else p

/-- A strand keeps no resume point put by for the instruction at a PC any more (R36). -/
def Strand.dropPoint (t : Strand) (pc : Nat) : Strand := { t with points := t.points.filter (·.1 ≠ pc) }

/-- A trap of the running strand's instruction: its resume point is discarded (R36, R344). -/
def State.trapMe (s : State) (t : Strand) (cause : Nat) (tval : Word64) : State :=
  s.takeTrap s.cur ({ t with prog := t.prog.drop t.pc }.dropPoint t.pc) cause tval

/-- A return to an address takes back the resume point put by last for the instruction there, if there is one (R36, R344). DESIGN
CHOICE (notes/assumptions/71.md): one of another address stays for a later return. -/
def Strand.takePoint (t : Strand) (pc : Nat) : Strand :=
  match t.points.find? fun p => p.1 == pc with
  | some (_, off) => { t with points := t.points.erase (pc, off), prog := { t.prog with at_ := pc, block := some off } }
  | none => { t with prog := { t.prog with block := none } }

/-- Returning from a trap (R219): the target is checked first, then the mode and PIE are restored. -/
def eretBody (disp : Word64) (t : Strand) (s : State) : Res :=
  let tgt : Int := t.sys.tpc.toNat + disp.toInt
  if tgt < 0 || tgt > 2 ^ 56 - 4 then .trap 0x05 (BitVec.ofNat 64 t.pc)
  else if tgt % 4 ≠ 0 then .trap 0x03 (BitVec.ofInt 64 tgt)
  else if t.mode = 0 then .jump (s.putMe { (t.takePoint tgt.toNat) with watch := min t.watch 4096 }) tgt
  else
    let pmode := bitsNat t.sys.status 5 4
    if pmode > t.mode then .trap 0x02 (BitVec.ofNat 64 t.pc)
    else
      let st := (t.sys.status &&& ~~~(0xC8#64)) ||| field64 pmode 6 ||| field64 (bitsNat t.sys.status 2 2) 3
      .jump (s.putMe { (t.takePoint tgt.toNat) with watch := min t.watch 4096, sys := { t.sys with status := st } }) tgt

/-- The word retires: the next PC, nothing left of a translation answer or fill, the resume points of this word gone. -/
def Strand.retire (t : Strand) (pc : Nat) : Strand :=
  { t with pc := pc, answered := false, filled := none, refused := [], timeout := false, asked := [], prog := t.prog.drop t.pc,
           points := t.points.filter (·.1 ≠ t.pc) }

/-- The watchdog of a handler counts countable cycles (R296). -/
def Strand.countWatch (t : Strand) (n : Nat) : Strand :=
  if t.kind = .handler && t.watch < 4096 then { t with watch := min 4096 (t.watch + n) } else t

/-- The countable cycles that an issued instruction of a strand stands for, its own and the others since the last one: none while
a matrix request of the strand is held for energy (R295, R296). -/
def State.watchStep (s : State) (t : Strand) : Nat :=
  if ((s.quad (quadOf t.core)).refreshed s.cyc).ops.any fun o => o.uid == s.cur && o.owes ≠ 0 then 0
  else 1 + Config.watchCycles s.tick

/-- The largest PC (R103). -/
def pcTop : Int := 2 ^ 56 - 4

/-- The restricted set of code messages and the mode that an instruction needs (R79 checks 4 and 5, R181). -/
structure Gate where
  inCode : Bool := false
  mode : Nat := 0

/-- An issued word (R79, R103): a doom that awaits the strand comes first; then the restricted set, the mode, the
instruction's own checks and effect, and last the next PC. -/
def State.issue (s : State) (t : Strand) (gate : Gate) (body : Strand → State → Res) : State :=
  match t.doom with
  | some (c, v) => if c = doomExit then s.tryEnd s.cur t else s.trapMe t c v
  | none =>
    if t.code && t.pc < 16 && !gate.inCode then s.trapMe (t.countWatch (s.watchStep t)) 0x50 s.wordTval
    else if t.mode < gate.mode then s.trapMe (t.countWatch (s.watchStep t)) 0x02 s.wordTval
    else
      match body t s with
      | .done s' =>
        if (t.pc : Int) + 4 > pcTop then s.trapMe (t.countWatch (s.watchStep t)) 0x05 (BitVec.ofNat 64 t.pc)
        else s'.modStrand s'.cur fun t' => (t'.retire (t.pc + 4)).countWatch (s.watchStep t)
      | .jump s' a =>
        if a < 0 || a > pcTop then s.trapMe (t.countWatch (s.watchStep t)) 0x05 (BitVec.ofNat 64 t.pc)
        else s'.modStrand s'.cur fun t' => (t'.retire a.toNat).countWatch (s.watchStep t)
      | .hold s' => s'
      | .stop s' => s'
      | .trap c v => s.trapMe (t.countWatch (s.watchStep t)) c v
      | .trapIn s' c v =>
        match s'.strand? s'.cur with
        | some t' => s'.trapMe (t'.countWatch (s.watchStep t)) c v
        | none => s'

/-- The meaning of an instruction word: its issue by the strand that State.cur names. -/
def runWord (gate : Gate) (body : Strand → State → Res) (s : State) : Host.Outcome State Fault Refusal :=
  match s.me with
  | none => .fault .noStrand
  | some t => .next (s.issue t gate body)

/-- Parks the running strand at its instruction (R47). -/
def State.parkMe (s : State) (t : Strand) (w : Wait) : State :=
  s.putMe { t with run := .waiting w, since := s.tick }

/-- The request of a strand's read that a down link has lost (R361, R363, R364). -/
def State.readLost (s : State) (t : Strand) (tg : Target) : State := s.loseRequest t.core t.vf t.birthJob t.unit tg

/-- Whether a quad can reach the place of a target: its die is not fenced (R368), and no link on the way is down (R361). -/
def State.reachable (s : State) (q vf : Nat) (tg : Target) : Bool :=
  !s.cutOff q vf tg &&
    match tg with
    | .loc pa => !(s.die (dieOfPa pa)).fenced
    | .pool c _ => !(s.die (dieOf c)).fenced
    | _ => true

/-- Whether a store-buffer entry can have no answer: a fenced die (R368), a link that is down (R361), or a host line that CXL.cache cannot reach (R377). -/
def State.storeGone (s : State) (t : Strand) (e : Store) : Bool :=
  !s.reachable (quadOf t.core) t.vf e.target || e.segs.any fun g => s.unanswered (quadOf t.core) t.vf (e.target.plus g.1) true

/-- A store that is lost is reported on the die on the sending side of the link that is down, for a peer package the one that owns the
pod port (R363, R367, R401), and what the link lost enters its loss log (R361). -/
def State.reportLost (s : State) (t : Strand) (va : Nat) (tg : Target) : State :=
  let die := match s.lostAt (quadOf t.core) t.vf tg, tg with
    | some (d, _), _ => d
    | none, .peer l _ => if (s.lptWait t.vf l).isSome then dieOf t.core else bitsNat (s.lptEntry t.vf l) 54 50
    | none, _ => dieOf t.core
  (s.logLost t.core t.vf t.birthJob tg).event die 0x06 0 t.birthJob t.vf t.unit [BitVec.ofNat 64 (s.destOf t.vf tg), BitVec.ofNat 64 va]

/-- The event of a write at a key that leaves a granule poisoned (R115), on the die that holds it (R401). -/
def State.notePoison (s : State) (t : Strand) (key : Nat) (left : Bool) : State :=
  if left then s.event (s.dieOfKey (quadOf t.core) key) 0x03 0 t.birthJob t.vf t.unit [BitVec.ofNat 64 (structureOf key), BitVec.ofNat 64 key]
  else s

/-- Performs one store-buffer entry at its home (R114, R115); one that can have no answer is reported lost (R363). -/
def State.performStore (s : State) (t : Strand) (e : Store) : State :=
  if s.storeGone t e then s.reportLost t e.va e.target
  else
    e.segs.foldl (fun s g =>
      let tg := e.target.plus g.1
      (s.notePoison t tg.key (s.storePoison t.core t.vf (e.va + g.1) tg g.2.length)).storeBytes
        t.core t.vf (e.va + g.1) tg g.2) s

/-- A write of a strand or engine, within one page, that passes the store buffer (R115, R363, R377): its lines are written one by
one, a partial write of a poisoned granule is reported, and so is a line that cannot be reached. -/
def State.partyStore (s : State) (t : Strand) (va : Nat) (tg : Target) (bs : List Byte) : State :=
  if tg = .dry then s.partyWrite (quadOf t.core) t.vf va tg bs
  else
    (linePieces va bs).foldl (fun s p =>
      let to_ := tg.plus p.1
      if s.unanswered (quadOf t.core) t.vf to_ true then s.reportLost t (va + p.1) to_
      else
        (s.notePoison t to_.key (s.homePoison (quadOf t.core) t.vf (va + p.1) to_ p.2.length true)).partyWrite
          (quadOf t.core) t.vf (va + p.1) to_ p.2) s

/-- The banks of a core's pool that n bytes of a target touch, of its 8; no bank where it is not that pool (R11, R12). -/
def poolBanks (core : Nat) (tg : Target) (n : Nat) : List Nat :=
  match tg with
  | .pool c off => if c = core then (List.range n).map fun i => Config.poolBank (off + i) % 8 else []
  | _ => []

/-- The banks of the strand's own pool that a store-buffer entry writes (R12). -/
def Store.banks (e : Store) (core : Nat) : List Nat := e.segs.flatMap fun g => poolBanks core (e.target.plus g.1) g.2.length

/-- The oldest entry of a strand's store buffer leaves it. -/
def State.popStore (s : State) (u : Nat) : State := s.modStrand u fun t => { t with buf := t.buf.tail }

/-- Another strand of a core whose oldest store to common banks of the core's pool issued before a step (R12). -/
def State.earlierStore (s : State) (core u before : Nat) (banks : List Nat) : Option (Nat × Strand × Store) :=
  s.strands.findSome? fun p =>
    match p.2.buf with
    | e :: _ => if p.1 ≠ u && p.2.core == core && e.stamp < before && (e.banks core).any banks.contains then some (p.1, p.2, e) else none
    | [] => none

/-- A bank of a pool serves its core's strands oldest issue first (R12): the older stores of the core's other strands that wait at
common banks are performed. -/
def State.poolFirst (s : State) (core u before : Nat) (banks : List Nat) : Nat → State
  | 0 => s
  | fuel + 1 =>
    match s.earlierStore core u before banks with
    | some (v, t, e) => ((s.performStore t e).popStore v).poolFirst core u before banks fuel
    | none => s

/-- The same before an access of n bytes that a strand now makes; only its own core's pool has such stores (R12). -/
def State.ownPool (s : State) (t : Strand) (tg : Target) (n : Nat) : State :=
  match tg with
  | .pool _ _ => s.poolFirst t.core s.cur s.tick (poolBanks t.core tg n) (8 * s.strands.length)
  | _ => s

/-- The first line of n bytes at a target that must wait for the host (R383, R386). -/
def State.biasRange (s : State) (tg : Target) (n : Nat) : Option Wait :=
  match tg with
  | .loc pa =>
    if s.host.flip.isNone && s.host.filter.isEmpty then none
    else (List.range (ceilDiv (pa % 64 + n) 64)).findSome? fun i => s.biasWait (pa / 64 * 64 + 64 * i)
  | _ => none

/-- Why a store-buffer entry of a function cannot be performed now: a line of one of its segments waits for the host, or the table
entry that names the way to its peer package does (R337, R383). -/
def State.storeWait (s : State) (vf : Nat) (e : Store) : Option Wait :=
  match e.target with
  | .peer l _ => s.lptWait vf l
  | t => e.segs.findSome? fun g => s.biasRange (t.plus g.1) g.2.length

/-- Whether every entry of a strand's store buffer can be performed now: none waits for the host (R383). -/
def State.canDrain (s : State) (t : Strand) : Bool := t.buf.all fun e => (s.storeWait t.vf e).isNone

/-- Performs every entry of a strand's store buffer, oldest first (R114). -/
def State.drain (s : State) (u : Nat) (t : Strand) : State :=
  (t.buf.foldl (fun s e => (s.poolFirst t.core u e.stamp (e.banks t.core) (8 * s.strands.length)).performStore t e) s).modStrand u
    fun t => { t with buf := [] }

/-- The bytes of a strand's private window (R49). -/
def State.windowBytes (s : State) (t : Strand) : List Byte :=
  match t.slot with
  | some sl => Memory.bytes s.mem (memPool + t.core * 2 ^ 17 + sl * (s.part t.vf).window) (s.part t.vf).window
  | none => t.parked

/-- Whether a strand's park frame fits in what remains of its quad's reserved ways (R15, R400): the 512 KiB less the
overflow regions, the black-box ring in quad 0 of a die, and the frames already there. A frame is taken as 8 KiB and its
window (the registers of R38 and the wait state). -/
def State.frameFits (s : State) (t : Strand) : Bool :=
  let q := quadOf t.core
  let room := 524288 - 294912 - (if q % 256 = 0 then 65536 else 0)
  let used := s.strands.foldl (fun a p =>
    if quadOf p.2.core == q && p.2.slot.isNone then a + 8192 + p.2.parked.length else a) 0
  used + 8192 + (s.part t.vf).window ≤ room

/-- A strand leaves its slot (R290, R345, R400): its earlier stores are performed, so that its window goes with it as the
strand wrote it. -/
def State.leaveSlot (s : State) (u : Nat) (t : Strand) : State :=
  let s := s.drain u t
  let w := (s.part t.vf).window
  let s := (s.clearPoison (frameKey u) w).carryPoison (memPool + t.core * 2 ^ 17 + t.slot.getD 0 * w) (frameKey u) w
  s.modStrand u fun t => { t with parked := s.windowBytes t, slot := none }

/-- An absent page (R345, R400): the strand fault-parks, leaving its slot with its window when its frame fits, else in its
slot; it waits for the page requests. -/
def State.faultPark (s : State) (t : Strand) (reqs : List PageWait) : State :=
  let s := s.parkMe { t with asked := [] } (.pages reqs)
  if s.frameFits t && s.canDrain t then s.leaveSlot s.cur t else s

end Sys2Proof.Machine
end

