-- ==== Sys2Proof/Machine/Operands.lean ====
section
/-!
DEFINITION. Operand forms shared by the scalar families: shift amounts, 32-bit halves, quotients, path arithmetic
(R92 to R102), and the bodies of the plain forms.
-/
namespace Sys2Proof.Machine

/-- The low word of an operand (R92). -/
def lo32 (x : Word64) : BitVec 32 := x.setWidth 32
/-- SExt of a 32-bit result. -/
def sx32 (x : BitVec 32) : Word64 := x.signExtend 64
/-- ZExt of a 32-bit result. -/
def zx32 (x : BitVec 32) : Word64 := x.setWidth 64
/-- A 64-bit shift amount: g[b][5:0] (R92). -/
def amt6 (x : Word64) : Nat := (x.setWidth 6).toNat
/-- A 32-bit shift amount: g[b][4:0] (R92). -/
def amt5 (x : Word64) : Nat := (x.setWidth 5).toNat
/-- Bits [127:64] of an exact product (R97). -/
def high64 (p : Int) : Word64 := BitVec.ofInt 64 (p / 2 ^ 64)

/-- Signed quotient truncating toward zero; a zero divisor gives all ones (R97, R98). -/
def quoS {w : Nat} (x y : BitVec w) : BitVec w := if y = 0#w then BitVec.allOnes w else BitVec.ofInt w (x.toInt.tdiv y.toInt)
/-- Unsigned quotient; a zero divisor gives all ones (R97, R98). -/
def quoZ {w : Nat} (x y : BitVec w) : BitVec w := if y = 0#w then BitVec.allOnes w else x / y
/-- Signed remainder with the sign of the dividend; a zero divisor gives the dividend (R97, R98). -/
def rmdS {w : Nat} (x y : BitVec w) : BitVec w := if y = 0#w then x else BitVec.ofInt w (x.toInt.tmod y.toInt)
/-- Unsigned remainder; a zero divisor gives the dividend (R97, R98). -/
def rmdZ {w : Nat} (x y : BitVec w) : BitVec w := if y = 0#w then x else x % y

/-- Leading zero bits (R99). -/
def leadingZeros (x : Word64) : Nat := if x.toNat = 0 then 64 else 63 - x.toNat.log2
/-- One bits (R99). -/
def onesCount (x : Word64) : Nat := (List.range 64).foldl (fun a i => if x.getLsbD i then a + 1 else a) 0
/-- Trailing zero bits (R99). -/
def trailingZeros (x : Word64) : Nat := ((List.range 64).find? fun i => x.getLsbD i).getD 64
/-- Bytes in reverse order (R99). -/
def byteSwap (x : Word64) : Word64 := BitVec.ofNat 64 (leNat (leBytes 8 x.toNat).reverse)

/-- The Morton offset of a row and a column of at most 28 bits (R23). -/
def morton (row col : Nat) : Nat :=
  (List.range 28).foldl (fun a j => a + (row / 2 ^ j % 2) * 2 ^ (2 * j + 1) + (col / 2 ^ j % 2) * 2 ^ (2 * j)) 0
/-- The row of an element offset: its odd bits (R23). -/
def mortonRow (off : Nat) : Nat := (List.range 28).foldl (fun a j => a + (off / 2 ^ (2 * j + 1) % 2) * 2 ^ j) 0
/-- The column of an element offset: its even bits (R23). -/
def mortonCol (off : Nat) : Nat := (List.range 28).foldl (fun a j => a + (off / 2 ^ (2 * j) % 2) * 2 ^ j) 0

/-- L of a reference word. -/
def refL (w : Word64) : Nat := bitsNat w 63 58
/-- e of a reference word. -/
def refE (w : Word64) : Nat := bitsNat w 57 56
/-- A reference word of its parts (R24). -/
def mkRef (l e a : Nat) : Word64 := field64 l 58 ||| field64 e 56 ||| field64 a 0
/-- Size(M) for an element size code (R100). -/
def blockSize (e l : Nat) : Nat := 2 ^ (e + 2 * l)

/-- PTRUNC (R101). -/
def ptrunc (x y : Word64) : Except (Nat × Word64) Word64 :=
  match refCheck x with
  | some e => .error e
  | none =>
    let m := bitsNat y 5 0
    if bitsNat y 63 6 ≠ 0 || m < refL x || highestLevel (refE x) < m then .error (0x07, x)
    else .ok (mkRef m (refE x) (refAddr x / blockSize (refE x) m * blockSize (refE x) m))

/-- PPARENT (R101, R102). -/
def pparent (x : Word64) : Except (Nat × Word64) Word64 :=
  match refCheck x with
  | some e => .error e
  | none =>
    let m := refL x + 1
    if highestLevel (refE x) < m then .error (0x07, x)
    else .ok (mkRef m (refE x) (refAddr x / blockSize (refE x) m * blockSize (refE x) m))

/-- PCHILD (R101). -/
def pchild (x y : Word64) : Except (Nat × Word64) Word64 :=
  match refCheck x with
  | some e => .error e
  | none =>
    if refL x = 0 then .error (0x07, x)
    else .ok (mkRef (refL x - 1) (refE x) (refAddr x + bitsNat y 1 0 * blockSize (refE x) (refL x - 1)))

/-- PSIB (R101, R102). -/
def psib (x y : Word64) : Except (Nat × Word64) Word64 :=
  match refCheck x with
  | some e => .error e
  | none =>
    if highestLevel (refE x) < refL x + 1 then .error (0x07, x)
    else
      let z := blockSize (refE x) (refL x)
      .ok (mkRef (refL x) (refE x) (refAddr x / (4 * z) * (4 * z) + bitsNat y 1 0 * z))

/-- PNEXT (R101, R102). -/
def pnext (x : Word64) : Except (Nat × Word64) Word64 :=
  match refCheck x with
  | some e => .error e
  | none =>
    let z := blockSize (refE x) (refL x)
    if refAddr x + z ≥ 2 ^ 56 then .error (0x05, field64 (refAddr x) 0) else .ok (mkRef (refL x) (refE x) (refAddr x + z))

/-- PDIG (R101). -/
def pdig (x y : Word64) : Except (Nat × Word64) Word64 :=
  match refCheck x with
  | some e => .error e
  | none =>
    let j := bitsNat y 5 0
    if bitsNat y 63 6 ≠ 0 || j = 0 || highestLevel (refE x) < j then .error (0x07, x)
    else .ok (BitVec.ofNat 64 (refAddr x / 2 ^ (refE x + 2 * j - 2) % 4))

/-- PSDIG (R101). -/
def psdig (x y : Word64) : Except (Nat × Word64) Word64 :=
  match refCheck x with
  | some e => .error e
  | none =>
    let j := bitsNat y 5 0
    if j ≤ refL x || highestLevel (refE x) < j then .error (0x07, x)
    else
      let z := 2 ^ (refE x + 2 * j - 2)
      let a := refAddr x
      .ok (mkRef (refL x) (refE x) (a - a / z % 4 * z + bitsNat y 9 8 * z))

/-- PIN (R101): both references are checked by R26, g[a] first. -/
def pin (x y : Word64) : Except (Nat × Word64) Word64 :=
  match refCheck x, refCheck y with
  | some e, _ => .error e
  | none, some e => .error e
  | none, none =>
    .ok (bit64 (refAddr x ≤ refAddr y && refAddr y + blockBytes y ≤ refAddr x + blockBytes x))

/-- PMAKE (R101). -/
def pmake (x y : Word64) : Except (Nat × Word64) Word64 :=
  if bitsNat x 63 56 ≠ 0 then .error (0x04, x)
  else
    let w := mkRef (bitsNat y 5 0) (bitsNat y 7 6) (refAddr x)
    match refCheck w with
    | some e => .error e
    | none => .ok w

/-- An instruction that writes one scalar register from the strand's registers. -/
def aluBody (d : BitVec 5) (f : Strand → Word64) : Strand → State → Res := fun t s => .done (s.putMe (t.setG d (f t)))

/-- A path instruction: a checked result. -/
def pathBody (d : BitVec 5) (f : Strand → Except (Nat × Word64) Word64) : Strand → State → Res := fun t s =>
  match f t with
  | .ok x => .done (s.putMe (t.setG d x))
  | .error (c, v) => .trap c v

/-- PCREL (R96). -/
def pcrelBody (d : BitVec 5) (i : BitVec 16) : Strand → State → Res := fun t s =>
  let a : Int := (t.pc : Int) + i.toInt * 65536
  if a < 0 || a ≥ 2 ^ 56 then .trap 0x05 (BitVec.ofNat 64 t.pc) else .done (s.putMe (t.setG d (BitVec.ofInt 64 a)))

/-- A branch (R104). -/
def branchBody (i : BitVec 16) (c : Strand → Bool) : Strand → State → Res := fun t s =>
  .jump s (if c t then (t.pc : Int) + 4 * i.toInt else (t.pc : Int) + 4)

/-- JAL (R105). -/
def jalBody (d : BitVec 5) (i : BitVec 21) : Strand → State → Res := fun t s =>
  .jump (s.putMe (t.setG d (BitVec.ofNat 64 (t.pc + 4)))) ((t.pc : Int) + 4 * i.toInt)

/-- JALR (R106). -/
def jalrBody (d a : BitVec 5) (i : BitVec 16) : Strand → State → Res := fun t s =>
  let base := t.g a
  let x : Int := (base.toNat : Int) + i.toInt
  if bitsNat base 63 56 ≠ 0 then .trap 0x04 base
  else if x < 0 || x > pcTop then .trap 0x05 (BitVec.ofNat 64 t.pc)
  else if x % 4 ≠ 0 then .trap 0x03 (BitVec.ofInt 64 x)
  else .jump (s.putMe (t.setG d (BitVec.ofNat 64 (t.pc + 4)))) x

/-- Whether a strand may enter the open-ended waits (R46). -/
def Strand.mayWait (t : Strand) : Bool := t.kind = .resident || t.kind = .gang

/-- SLEEPUNTIL (R46, R107). -/
def sleepBody (a : BitVec 5) : Strand → State → Res := fun t s =>
  if !t.mayWait then .trap 0x01 s.wordTval
  else if (t.g a).toNat ≤ s.cyc then .done s
  else if (t.pc : Int) + 4 > pcTop then .done s
  else .hold (s.parkMe t (.sleep (t.g a).toNat))

/-- YIELD (R108): in each of the next 3 cycles the slot is passed over while another of the core is ready. -/
def yieldBody : Strand → State → Res := fun t s =>
  .done (s.putCore t.core { s.core t.core with yields := FMap.set (s.core t.core).yields (t.slot.getD 0) (s.cyc + 4) })

/-- EXIT (R109). -/
def exitBody : Strand → State → Res := fun t s => .stop (s.tryEnd s.cur t)

/-- HRET (R182). -/
def hretBody : Strand → State → Res := fun t s =>
  if t.kind ≠ .handler then .trap 0x01 s.wordTval else exitBody t s

end Sys2Proof.Machine
end

