-- ==== Sys2Proof/Machine/Access.lean ====
section
/-!
DEFINITION. The bodies of loads, stores, block operations, atomics, fences, PROMOTE and weirs (spec/06_ref_memory.md).
-/
namespace Sys2Proof.Machine

/-- What the checks of an access answer: go on with a target, or end the instruction. -/
inductive Chk where
  | go (s : State) (t : Target)
  | res (r : Res)

/-- An absent page or a refused translation (R111, R112 steps 4 and 5): where the access leads, or how the instruction ends;
tval is the lowest byte of the refused access. -/
def State.reach (s : State) (t : Strand) (va : Nat) (a : Acc) (tval : Nat) : Chk :=
  match resolve s t.vf t.mode (dieOf t.core) va a with
  | .ok s tg => .go s tg
  | .wait s r => .res (.hold (s.faultPark t [r]))
  | .host s w => .res (.hold (s.parkMe t w))
  | .refused s => .res (.trapIn s 0x09 (BitVec.ofNat 64 tval))

/-- The rights an access needs of the weirs (R42): 2 to read, 3 to write. -/
def weirNeed : Acc → Nat
  | .read | .fetch | .sync => 2
  | .write | .rmw => 3

/-- CheckAccess steps 2 to 5 of R112 for n bytes at an address. -/
def State.checkAccess (s : State) (t : Strand) (va n : Nat) (a : Acc) (need : Nat) : Chk :=
  if va % n ≠ 0 then .res (.trap 0x03 (BitVec.ofNat 64 va))
  else
    match weirRefuses t.weirs va n need with
    | some b => .res (.trap 0x08 (BitVec.ofNat 64 b))
    | none => s.reach t va a va

/-- Whether the checks of a scalar access complete at issue (R113): an aperture address, a line in the strand's L1 with the
right, a valid foreign one with that to read among them (R271), or the answer has come. -/
def State.answeredAt (s : State) (t : Strand) (va : Nat) (write : Bool) : Bool :=
  inAperture va || t.answered ||
    match s.l1Of t.core t.vf (va / 64) with
    | some l => !write || l.st = .m || l.st = .e
    | none => !write && (s.l1Foreign? t.core t.vf (va / 64)).isSome

/-- CheckAccess of a scalar access (R112, R113): steps 2 and 3 at issue, the rest when the translation answer is there. -/
def State.scalarAccess (s : State) (t : Strand) (va n : Nat) (a : Acc) (need : Nat) : Chk :=
  if va % n ≠ 0 then .res (.trap 0x03 (BitVec.ofNat 64 va))
  else
    match weirRefuses t.weirs va n need with
    | some b => .res (.trap 0x08 (BitVec.ofNat 64 b))
    | none =>
      if s.answeredAt t va (need = 3) then s.reach t va a va
      else .res (.hold (s.parkMe t .answer))

/-- The byte that a buffer entry holds for an address; the higher lane's value remains (R143). -/
def Store.byteAt (e : Store) (a : Nat) : Option Byte :=
  e.segs.reverse.findSome? fun g =>
    if e.va + g.1 ≤ a && a < e.va + g.1 + g.2.length then g.2[a - (e.va + g.1)]? else none

/-- Whether an entry overlaps n bytes at an address. -/
def Store.overlaps (e : Store) (va n : Nat) : Bool :=
  e.segs.any fun g => e.va + g.1 < va + n && va < e.va + g.1 + g.2.length

/-- Forwarding from the strand's own store buffer (R114): none when nothing overlaps; some none when a load must wait. -/
def Strand.forward (t : Strand) (va n : Nat) : Option (Option (List Byte)) :=
  match t.buf.reverse.find? fun e => e.overlaps va n with
  | none => none
  | some e =>
    let bs := (List.range n).filterMap fun i => e.byteAt (va + i)
    some (if bs.length = n then some bs else none)

/-- Whether a load that its own buffer would serve meets poison all the same (R112, R115): no segment of the entry covers its
granules whole, so that the store will leave them poisoned. -/
def State.forwardPoison (s : State) (t : Strand) (va n : Nat) (tg : Target) : Bool :=
  s.accessPoison (quadOf t.core) t.vf va tg n &&
    (match t.buf.reverse.find? fun e => e.overlaps va n with
    | some e =>
      let z := granule tg.key
      !e.segs.any fun g =>
        (e.target.plus g.1).key ≤ tg.key / z * z && ceilDiv (tg.key + n) z * z ≤ (e.target.plus g.1).key + g.2.length
    | none => false)

/-- A scalar load (R117, R118): g[d] := Extend(x). -/
def loadBody (d a : BitVec 5) (i : BitVec 16) (n : Nat) (ext : Nat → Word64) : Strand → State → Res := fun t s =>
  match eaCheck (t.g a) i.toInt n with
  | .error (c, v) => .trap c v
  | .ok ea =>
    match s.scalarAccess t ea n .read 2 with
    | .res r => r
    | .go s .dry => .done (s.putMe (t.setG d (ext 0)))
    | .go s tg =>
      if t.timeout then .trap 0x0B (BitVec.ofNat 64 ea) else
      match t.forward ea n with
      | some (some bs) =>
        if s.forwardPoison t ea n tg then .trap 0x0B (BitVec.ofNat 64 ea) else .done (s.putMe (t.setG d (ext (leNat bs))))
      | some none => .hold s
      | none =>
        match (s.ownPool t tg n).loadBytes t ea tg n with
        | .ok s bs => .done (s.putMe (t.setG d (ext (leNat bs))))
        | .wait s w => .hold (s.parkMe t w)
        | .poison => .trap 0x0B (BitVec.ofNat 64 ea)
        | .lost => .trapIn (s.readLost t tg) 0x0B (BitVec.ofNat 64 ea)

/-- Sign extension of an n-byte value. -/
def extS (n x : Nat) : Word64 := (BitVec.ofNat (8 * n) x).signExtend 64
/-- Zero extension. -/
def extZ (x : Nat) : Word64 := BitVec.ofNat 64 x

/-- A store enters the store buffer once its checks have passed (R114, R119); a full buffer leaves the strand not ready; on a
dry page the bytes are counted (R33). One whose request was lost is reported so, performed or not (R363). -/
def storeBody (b a : BitVec 5) (i : BitVec 16) (n : Nat) : Strand → State → Res := fun t s =>
  match eaCheck (t.g a) i.toInt n with
  | .error (c, v) => .trap c v
  | .ok ea =>
    match s.scalarAccess t ea n .write 3 with
    | .res r => r
    | .go s .dry => .done (s.dryBytes t.vf n)
    | .go s tg =>
      if t.timeout && (!Config.lostPerformed s.tick || s.unanswered (quadOf t.core) t.vf tg true) then .done (s.reportLost t ea tg)
      else if 8 ≤ t.buf.length then .hold s
      else
        let e : Store := ⟨s.tick, ea, tg, [(0, leBytes n (t.g b).toNat)]⟩
        let s := if t.timeout then s.reportLost t ea tg else s
        .done (s.putMe { t with buf := t.buf ++ [e] })

/-- The operations of R124. -/
inductive AmoOp where
  | add | min | max | minu | maxu | and | or | xor | swap | cas | fadd | ld | st
deriving DecidableEq, Repr

/-- What an atomic leaves in memory (R124): old, operand, expected value. -/
def amoNew (w : Nat) (op : AmoOp) (old b d : BitVec w) : BitVec w :=
  match op with
  | .add => old + b
  | .min => if old.slt b then old else b
  | .max => if b.slt old then old else b
  | .minu => if old.ult b then old else b
  | .maxu => if b.ult old then old else b
  | .and => old &&& b
  | .or => old ||| b
  | .xor => old ^^^ b
  | .swap => b
  | .cas => if old = d then b else old
  | .fadd => (fadd32 (old.setWidth 32) (b.setWidth 32)).setWidth w
  | .ld => old
  | .st => b

/-- The value that an atomic or PROMOTE reads at its place (R111, R124, R258): for host memory in the quad's column, which holds
the line exclusively (R387); a quad's older copies of a foreign line take the bytes. -/
def State.syncRead (s : State) (q vf va : Nat) (tg : Target) (n : Nat) : MemRes :=
  match tg with
  | .host h =>
    let (s, l) := s.hostHold q vf (va / 64) (h / 64 * 64) true
    s.bedRead l va n
  | t => s.partyRead q vf va t n

/-- The wait of an access at its place for the host (R383, R386). -/
def State.placeWait (s : State) (tg : Target) : Option Wait :=
  match tg with
  | .loc pa => s.biasWait pa
  | _ => none

/-- What an atomic writes at its place; to a peer it is one operation packet with the read. -/
def State.syncWrite (s : State) (q vf va : Nat) (tg : Target) (bs : List Byte) : State :=
  match tg with
  | .peer _ _ => s.putHome tg.key bs
  | t => s.partyWrite q vf va t bs

/-- An atomic at the place of R111, in one indivisible step, after the strand's earlier stores (R124); it traps where its granule
is poisoned at that place, for amo.st but where it covers the granule whole, and where its request is lost (R363). w is 32 or 64. -/
def amoBody (w : Nat) (op : AmoOp) (d a b : BitVec 5) (o : MOrd) (sc : Scope) : Strand → State → Res := fun t s =>
  let n := w / 8
  match eaCheck (t.g a) 0 n with
  | .error (c, v) => .trap c v
  | .ok ea =>
    let acc : Acc := if op = .ld then .sync else .rmw
    match s.scalarAccess t ea n acc (weirNeed acc) with
    | .res r => r
    | .go s tg =>
      let ret (x : BitVec w) : Strand := if op = .st then t else t.setG d (x.signExtend 64)
      let fin (s : State) : Res := .done (s.acquireAt (quadOf t.core) o sc)
      if t.timeout then .trap 0x0B (BitVec.ofNat 64 ea)
      else if !t.buf.isEmpty then .hold s
      else if tg = .dry then fin ((s.dryBytes t.vf n).putMe (ret 0#w))
      else
        match s.placeWait tg with
        | some wt => .hold ((s.askHost wt true).parkMe t wt)
        | none =>
          let s := s.ownPool t tg n
          if s.unanswered (quadOf t.core) t.vf tg true then .trapIn (s.readLost t tg) 0x0B (BitVec.ofNat 64 ea)
          else if s.homePoison (quadOf t.core) t.vf ea tg n (op = .st) then .trapIn s 0x0B (BitVec.ofNat 64 ea)
          else if op = .st then fin ((s.partyWrite (quadOf t.core) t.vf ea tg (leBytes n (t.g b).toNat)).putMe t)
          else
            match s.syncRead (quadOf t.core) t.vf ea tg n with
            | .poison | .lost => .trap 0x0B (BitVec.ofNat 64 ea)
            | .wait s wt => .hold (s.parkMe t wt)
            | .ok s bs =>
              let old : BitVec w := BitVec.ofNat w (leNat bs)
              let new := amoNew w op old ((t.g b).setWidth w) ((t.g d).setWidth w)
              let s := if op = .ld then s else s.syncWrite (quadOf t.core) t.vf ea tg (leBytes n new.toNat)
              fin (s.putMe (ret old))

/-- FENCE (R127, R263): at scope d or wider, and as a completion fence, it waits until the store buffer is empty; an acquire or
completion fence at p or s advances the quad's generation (R271). -/
def fenceBody (o : MOrd) (sc : Scope) : Strand → State → Res := fun t s =>
  if (2 ≤ scopeNum sc || o = .rlx) && !t.buf.isEmpty then .hold s
  else .done (if o = .rel then s else s.acquireAt (quadOf t.core) .acq sc)

/-- PROMOTE (R128, R330): every release on the line has been performed at its home in this model when PROMOTE reads it, so
the widening leaves nothing to do; then it reads the doubleword as amo.ld. -/
def promoteBody (d a : BitVec 5) (o : MOrd) (sc : Scope) : Strand → State → Res := fun t s =>
  match eaCheck (t.g a) 0 8 with
  | .error (c, v) => .trap c v
  | .ok ea =>
    match s.scalarAccess t ea 8 .sync 2 with
    | .res r => r
    | .go s tg =>
      if t.timeout then .trap 0x0B (BitVec.ofNat 64 ea)
      else if !t.buf.isEmpty then .hold s
      else if tg = .dry then .done (((s.dryBytes t.vf 8).putMe (t.setG d 0#64)).acquireAt (quadOf t.core) o sc)
      else
        match s.placeWait tg with
        | some wt => .hold ((s.askHost wt true).parkMe t wt)
        | none =>
          let s := s.ownPool t tg 8
          if s.unanswered (quadOf t.core) t.vf tg true then .trapIn (s.readLost t tg) 0x0B (BitVec.ofNat 64 ea)
          else if s.homePoison (quadOf t.core) t.vf ea tg 8 false then .trapIn s 0x0B (BitVec.ofNat 64 ea)
          else
          match s.syncRead (quadOf t.core) t.vf ea tg 8 with
          | .poison | .lost => .trap 0x0B (BitVec.ofNat 64 ea)
          | .wait s wt => .hold (s.parkMe t wt)
          | .ok s bs => .done ((s.putMe (t.setG d (BitVec.ofNat 64 (leNat bs)))).acquireAt (quadOf t.core) o sc)

/-- The block operations that write (R120). -/
inductive BlockOp where
  | bld | bst | bcopy | bfill | bzero
deriving DecidableEq, Repr

/-- The destination, source and size of a block operation as virtual addresses; own pool bytes stand at their aperture
addresses (R110, R120). -/
structure BlockArgs where
  dst : Nat
  src : Nat
  size : Nat
  e : Nat
  value : Nat

/-- The aperture address of a byte of a core's pool, for strands of its die (R110). -/
def poolVa (core off : Nat) : Nat := addrTop - 2 ^ 27 + core % 1024 * 2 ^ 17 + off

/-- R121 step 5: a reference lies wholly inside or outside the aperture, and an aperture block within one pool of the
partition. -/
def State.refPlace (s : State) (t : Strand) (w : Word64) : Bool :=
  let a := refAddr w
  let z := blockBytes w
  if inAperture a then
    z ≤ 2 ^ 17 && s.coreIn t.vf (apertureCore (dieOf t.core) a)
  else a + z ≤ addrTop - 2 ^ 27

/-- The checks of R121, in order. -/
def blockChecks (op : BlockOp) (x y : Word64) (p : Word64) (s : State) (t : Strand) : Option (Nat × Word64) :=
  let z := blockBytes x
  let pool := op = .bld || op = .bst
  let copy := op = .bcopy
  match refCheck x, (if copy then refCheck y else none) with
  | some e, _ => some e
  | none, some e => some e
  | none, none =>
    if copy && blockBytes y ≠ z then some (0x07, x)
    else if pool && p.toNat + z > poolBytes then some (0x05, p)
    else if pool && p.toNat % min z 64 ≠ 0 then some (0x03, p)
    else if !s.refPlace t x then some (0x09, x)
    else if copy && !s.refPlace t y then some (0x09, y)
    else
      let src := if op = .bld then weirRefuses t.weirs (refAddr x) z 2
        else if op = .bst then weirRefuses t.weirs (poolVa t.core p.toNat) z 2
        else if copy then weirRefuses t.weirs (refAddr y) z 2 else none
      let dst := if op = .bld then weirRefuses t.weirs (poolVa t.core p.toNat) z 3 else weirRefuses t.weirs (refAddr x) z 3
      match src, dst with
      | some a, some b => some (0x08, BitVec.ofNat 64 (min a b))
      | some a, none | none, some a => some (0x08, BitVec.ofNat 64 a)
      | none, none => none

/-- The virtual address of the lowest poisoned granule among n bytes that a party of a quad reads (R122). -/
def State.poisonVa (s : State) (q vf va : Nat) (tg : Target) (n : Nat) : Nat :=
  match (List.range (ceilDiv n 8)).find? fun i => s.accessPoison q vf (va + 8 * i) (tg.plus (8 * i)) (min 8 n) with
  | some i =>
    let k := (tg.plus (8 * i)).key
    va + 8 * i - k % granule k
  | none => va

/-- Whether a block operation reads a source. -/
def BlockOp.reads (op : BlockOp) : Bool := op = .bld || op = .bst || op = .bcopy

/-- The n source bytes of a granule (R35, R122), or how the instruction ends. -/
def blockSource (op : BlockOp) (b : BlockArgs) (off n : Nat) (t : Strand) (s : State) : Res ⊕ State × List Byte :=
  if op = .bfill then .inr (s, (List.range n).map fun i => BitVec.ofNat 8 (b.value >>> (8 * ((off + i) % 2 ^ b.e))))
  else if op = .bzero then .inr (s, List.replicate n 0#8)
  else
    match s.reach t (b.src + off) .read (b.src + off) with
    | .res r => .inl r
    | .go s tg =>
      match s.biasRange tg n with
      | some w => .inl (.hold ((s.askHost w false).parkMe t w))
      | none =>
        let s := s.ownPool t tg n
        match s.partyRead (quadOf t.core) t.vf (b.src + off) tg n with
        | .lost => .inl (.trapIn (s.readLost t tg) 0x0B (BitVec.ofNat 64 (b.src + off)))
        | .poison => .inl (.trap 0x0B (BitVec.ofNat 64 (s.poisonVa (quadOf t.core) t.vf (b.src + off) tg n)))
        | .wait s w => .inl (.hold (s.parkMe t w))
        | .ok s bs => .inr (s, bs)

/-- One granule of a block operation (R35, R122): n bytes from src to dst. Its write is reported as a store is: line by line, where it
leaves a granule that it covers in part poisoned (R115; notes/assumptions/69.md). DESIGN CHOICE (notes/assumptions/100.md): of a BLD or
BST whose pool bytes overlap its block, a granule is read whole before any byte of it is written. -/
def blockGranule (op : BlockOp) (b : BlockArgs) (off n : Nat) (t : Strand) (s : State) : Res ⊕ State :=
  let keep := { t with prog := { t.prog with at_ := t.pc, block := some off } }
  if !t.buf.isEmpty then .inl (.hold s)
  else if t.timeout && op.reads then .inl (.trap 0x0B (BitVec.ofNat 64 (b.src + off)))
  else
    match blockSource op b off n keep s with
    | .inl r => .inl r
    | .inr (s, bs) =>
      match s.reach keep (b.dst + off) .write (b.dst + off) with
      | .res r => .inl r
      | .go s tg =>
        match s.biasRange tg n with
        | some w => .inl (.hold ((s.askHost w true).parkMe keep w))
        | none =>
          if t.timeout then
            let s := s.reportLost t (b.dst + off) tg
            .inr (if Config.lostPerformed s.tick && !s.unanswered (quadOf t.core) t.vf tg true then s.partyWrite (quadOf t.core) t.vf (b.dst + off) tg bs else s)
          else .inr ((s.ownPool t tg n).partyStore t (b.dst + off) tg bs)

/-- A block operation: the checks of R121 on the first granule, then one granule a step, in ascending order, with the resume
point kept between them (R35, R36, R122). DESIGN CHOICE (notes/assumptions/93.md): in the last word of the address space the trap
0x05 comes after the checks of the first granule. -/
def blockBody (op : BlockOp) (x y p : Word64) (b : BlockArgs) : Strand → State → Res := fun t s =>
  let resume := if t.prog.at_ = t.pc then t.prog.block else none
  match resume, blockChecks op x y p s t with
  | none, some (c, v) => .trap c v
  | _, _ =>
    let off := resume.getD 0
    let n := min b.size 65536
    match blockGranule op b off n t s with
    | .inl r => r
    | .inr s =>
      if off + n ≥ b.size then .done s
      else if (t.pc : Int) + 4 > pcTop then .done s
      else .hold (s.modStrand s.cur fun t => { t with timeout := false, prog := { t.prog with at_ := t.pc, block := some (off + n) } })

/-- BLD (R120): the block goes to own pool bytes. -/
def bldBody (d a : BitVec 5) : Strand → State → Res := fun t s =>
  let x := t.g a
  let p := t.g d
  blockBody .bld x x p ⟨poolVa t.core p.toNat, refAddr x, blockBytes x, refE x, 0⟩ t s
/-- BST (R120): own pool bytes go to the block. -/
def bstBody (d a : BitVec 5) : Strand → State → Res := fun t s =>
  let x := t.g d
  let p := t.g a
  blockBody .bst x x p ⟨refAddr x, poolVa t.core p.toNat, blockBytes x, refE x, 0⟩ t s
/-- BCOPY (R120): Y goes to X. -/
def bcopyBody (d a : BitVec 5) : Strand → State → Res := fun t s =>
  let x := t.g d
  let y := t.g a
  blockBody .bcopy x y 0#64 ⟨refAddr x, refAddr y, blockBytes x, refE x, 0⟩ t s
/-- BFILL (R120): every element of X takes g[a][8 * 2^e - 1:0]. -/
def bfillBody (d a : BitVec 5) : Strand → State → Res := fun t s =>
  let x := t.g d
  blockBody .bfill x x 0#64 ⟨refAddr x, 0, blockBytes x, refE x, (t.g a).toNat⟩ t s
/-- BZERO (R120). -/
def bzeroBody (d : BitVec 5) : Strand → State → Res := fun t s =>
  let x := t.g d
  blockBody .bzero x x 0#64 ⟨refAddr x, 0, blockBytes x, refE x, 0⟩ t s

/-- BPREF (R123): the traps of steps 1 and 5 of R121 only, and no effect. -/
def bprefBody (d : BitVec 5) : Strand → State → Res := fun t s =>
  match refCheck (t.g d) with
  | some (c, v) => .trap c v
  | none => if s.refPlace t (t.g d) then .done s else .trap 0x09 (t.g d)

/-- The translation of the page of an address for a mode, as cached or as a walk finds it, without a request or a claim. -/
def State.pageWalk (s : State) (vf mode va : Nat) : Walk :=
  let page := va / 65536 * 65536
  match s.xlat.find? (fun x => x.vf == vf && x.s1 == (mode ≠ 2 && (s.part vf).root1 ≠ 0#64) && x.page == page) with
  | some x => .ok x.target x.ipage x.rd x.wr x.ex x.us
  | none => walk s vf (mode = 2) page

/-- Whether cache maintenance has an effect on a page (R32, R123): it is neither absent nor mapped dry. DESIGN CHOICE
(notes/assumptions/101.md): nor is its walk refused; no rights are asked of it otherwise. -/
def State.pageLive (s : State) (vf mode va : Nat) : Bool :=
  match s.pageWalk vf mode va with
  | .ok t _ _ _ _ _ => t ≠ .dry
  | _ => false

/-- Why what a page is cannot be known yet: its walk waits for the host (R383, R386). -/
def State.pageWait (s : State) (vf mode va : Nat) : Option Wait :=
  match s.pageWalk vf mode va with
  | .host w => some w
  | _ => none

/-- Whether a line lies in a byte range. -/
def lineIn (va n vline : Nat) : Bool := vline * 64 < va + n && va < vline * 64 + 64

/-- The pages of a byte range, where any column holds a host line at all (R387). -/
def State.hostPages (s : State) (va n : Nat) : List Nat :=
  if s.quads.any fun q => q.2.bed.any BedLine.host then
    (List.range (ceilDiv (va % 65536 + n) 65536)).map fun i => (va / 65536 + i) * 65536
  else []

/-- Whether a column's line is a copy of bytes of a range (R123): a host line, which a column may hold under another address, by the
place that one of these pages leads to. -/
def State.bedHit (s : State) (vf mode va n : Nat) (pages : List Nat) (l : BedLine) : Bool :=
  match l.host, l.target with
  | true, .host h => pages.any fun p =>
      match s.pageWalk vf mode p with
      | .ok (.host b) _ _ _ _ _ => b / 65536 == h / 65536 && lineIn va n ((p + h % 65536) / 64)
      | _ => false
  | _, _ => l.vf == vf && lineIn va n l.vline && s.pageLive vf mode (l.vline * 64)

/-- Why the cached lines of a byte range cannot be cleaned yet: a walk waits for the host (R383, R386). -/
def State.cleanWait (s : State) (vf mode va n : Nat) : Option Wait :=
  ((s.hostPages va n).findSome? fun p => s.pageWait vf mode p).or <|
  ((s.l1.filter fun l => l.vf == vf && lineIn va n l.vline).findSome? fun l => (s.pageWait vf mode (l.vline * 64)).or (s.homeWait l)).or
    (s.quads.findSome? fun q => (q.2.bed.filter fun l => l.vf == vf && lineIn va n l.vline).findSome? fun l => s.pageWait vf mode (l.vline * 64))

/-- Writes back every dirty copy of the lines of a byte range, and with inval drops every copy (R123); what leaves a column or is
written back from it for the host is a request (R387). Where the host cannot be reached (R377) a cleaned host line stays dirty
(notes/assumptions/78.md). -/
def State.cleanRange (s : State) (vf mode va n : Nat) (inval : Bool) : State :=
  let hit (v l : Nat) : Bool := v == vf && lineIn va n l && s.pageLive vf mode (l * 64)
  let pages := s.hostPages va n
  let inBed (l : BedLine) : Bool := s.bedHit vf mode va n pages l
  let s' := (s.l1.filter fun l => hit l.vf l.vline).foldl State.writeBack s
  let s' := s'.quads.foldl (fun s q => (q.2.bed.filter fun l => inBed l && (l.dirty || inval)).foldl State.evictBed s) s'
  let cleanBed (q : Quad) : Quad :=
    if inval then { q with bed := q.bed.filter fun l => !inBed l }
    else { q with bed := q.bed.map fun l => if inBed l then { l with dirty := l.dirty && !s.cacheUp } else l }
  let s' := { s' with quads := FMap.map s'.quads fun _ q => cleanBed q }
  let down (m : Moesi) : Moesi := match m with
    | .m => .e
    | .o => .s
    | x => x
  let l1 := if inval then s.l1.filter fun l => !hit l.vf l.vline
    else s.l1.map fun (l : L1Line) => if hit l.vf l.vline then { l with st := down l.st } else l
  { s' with l1 := l1, dir := s.dir.filterMap fun e => if hit e.vf e.vline then e.refreshed l1 else some e }

/-- BCLEAN and BFLUSH (R121, R123). -/
def maintBody (d : BitVec 5) (inval : Bool) : Strand → State → Res := fun t s =>
  let x := t.g d
  match refCheck x with
  | some (c, v) => .trap c v
  | none =>
    if !s.refPlace t x then .trap 0x09 x
    else
      match weirRefuses t.weirs (refAddr x) (blockBytes x) 2 with
      | some b => .trap 0x08 (BitVec.ofNat 64 b)
      | none =>
        if !t.buf.isEmpty then .hold s
        else if inAperture (refAddr x) then .done s
        else
          match s.cleanWait t.vf t.mode (refAddr x) (blockBytes x) with
          | some w => .hold ((s.askHost w false).parkMe t w)
          | none => .done (s.cleanRange t.vf t.mode (refAddr x) (blockBytes x) inval)

/-- WSET (R129). -/
def wsetBody (d : BitVec 3) (a b : BitVec 5) : Strand → State → Res := fun t s =>
  match refCheck (t.g a) with
  | some (c, v) => .trap c v
  | none => .done (s.putMe (t.setW d ⟨t.g a, (t.g b).setWidth 2⟩))

/-- WQRY (R129). -/
def wqryBody (d a : BitVec 5) : Strand → State → Res := fun t s =>
  let x := t.g a
  match refCheck x with
  | some (c, v) => .trap c v
  | none =>
    let hits := t.regs.w.toList.filter fun w => w.rights ≠ 0#2 && refAddr w.ref < refAddr x + blockBytes x &&
      refAddr x < refAddr w.ref + blockBytes w.ref
    let m := hits.foldl (fun m w => min m w.rights.toNat) 3
    .done (s.putMe (t.setG d (field64 m 0 ||| field64 (if hits.isEmpty then 0 else 1) 8)))

end Sys2Proof.Machine
end

