-- ==== Sys2Proof/Machine/Lanes.lean ====
section
/-!
DEFINITION. Vector lanes: their layout and masks (R39, R132), arithmetic in lanes (R133 to R139), conversions (R145),
reductions (R146), draws (R147), immediates (R75), and vector memory (R140 to R143).
-/
namespace Sys2Proof.Machine

/-- The width of a lane in bits (R39). -/
def laneW (t : EType) : Nat :=
  match t with
  | .s8 | .z8 | .c8a | .c8b => 8
  | .s16 | .z16 | .bf16 | .f16 => 16
  | .s32 | .z32 | .f32 => 32
  | .s64 | .z64 => 64
  | .c4 => 4

/-- The number of lanes (R132). -/
def laneN (t : EType) : Nat := 512 / laneW t

/-- Lane i of a vector register as its bits (R39). -/
def laneOf (t : EType) (v : Vec) (i : Nat) : Nat := (v.toNat >>> (laneW t * i)) % 2 ^ laneW t

/-- The vector whose lane i holds f i (R39). -/
def lanes (t : EType) (f : Nat → Nat) : Vec :=
  BitVec.ofNat 512 ((List.range (laneN t)).foldl (fun a i => a + (f i % 2 ^ laneW t) <<< (laneW t * i)) 0)

/-- Whether a mask field leaves lane i on: k = 0 is no mask; bit i governs lane i, and for c4 lanes 2i and 2i + 1 (R39). -/
def Strand.laneOn (t : Strand) (k : BitVec 3) (ty : EType) (i : Nat) : Bool :=
  k = 0#3 || (t.k k).getLsbD (if ty = .c4 then i / 2 else i)

/-- The value of an integer lane (R134). -/
def laneInt (t : EType) (x : Nat) : Int :=
  if t.isSigned && 2 ^ (laneW t - 1) ≤ x then (x : Int) - 2 ^ laneW t else x

/-- An integer result modulo 2^w (R134). -/
def wrapLane (t : EType) (x : Int) : Nat := (x % 2 ^ laneW t).toNat

/-- An arithmetic result: the lane's bits and its flags. -/
abbrev LaneRes := Nat × BitVec 5

/-- An exact floating result rounded into its lane (R133). -/
def finishLane (t : EType) (mode : Nat) (x : Val × BitVec 5) : LaneRes :=
  let (p, f) := roundLane t mode x.1
  (p, x.2 ||| f)

/-- The value of a floating lane. -/
def laneVal (t : EType) (x : Nat) : Val := (fmtOf t).value x

/-- vadd (R135). -/
def laneAdd (t : EType) (m a b : Nat) : LaneRes :=
  if t.isInt then ((a + b) % 2 ^ laneW t, 0#5) else finishLane t m ((laneVal t a).add m (laneVal t b))

/-- vsub (R135). -/
def laneSub (t : EType) (m a b : Nat) : LaneRes :=
  if t.isInt then ((a + 2 ^ laneW t - b) % 2 ^ laneW t, 0#5)
  else finishLane t m ((laneVal t a).add m (laneVal t b).negate)

/-- vmul (R135). -/
def laneMul (t : EType) (m a b : Nat) : LaneRes :=
  if t.isInt then (a * b % 2 ^ laneW t, 0#5) else finishLane t m ((laneVal t a).mul (laneVal t b))

/-- vfma and vfnma (R135): the product, negated for vfnma, plus the old lane, rounded once. -/
def laneFma (neg : Bool) (t : EType) (m a b d : Nat) : LaneRes :=
  if t.isInt then (wrapLane t ((d : Int) + (if neg then -(a * b : Int) else a * b)), 0#5)
  else
    let (p, f) := (laneVal t a).mul (laneVal t b)
    let (s, g) := (if neg then p.negate else p).add m (laneVal t d)
    finishLane t m (s, f ||| g)

/-- vmin and vmax (R135, R137). -/
def laneMinMax (big : Bool) (t : EType) (a b : Nat) : LaneRes :=
  if t.isInt then
    (if (if big then laneInt t b ≤ laneInt t a else laneInt t a ≤ laneInt t b) then a else b, 0#5)
  else
    let x := laneVal t a
    let y := laneVal t b
    let f := x.snanFlag ||| y.snanFlag
    match x.isNan, y.isNan with
    | true, true => ((fmtOf t).cnan, f)
    | true, false => (b, f)
    | false, true => (a, f)
    | false, false =>
      match x.cmp y with
      | .lt => (if big then b else a, f)
      | .gt => (if big then a else b, f)
      | .eq => (if x.neg? == big then b else a, f)

/-- The largest number of w bits whose square times den is at most num: a square root rounded down, bit by bit. -/
def rootDown (w num den : Nat) : Nat :=
  (List.range w).foldl (fun q i =>
    let c := q + 2 ^ (w - 1 - i)
    if c * c * den ≤ num then c else q) 0

/-- vrcpe (R136). -/
def laneRcpe (t : EType) (a : Nat) : LaneRes :=
  let f := fmtOf t
  let sig := if t = .bf16 then 8 else 9
  match f.value a with
  | .nan s => (f.cnan, if s then flNV else 0#5)
  | .inf s => (f.sign s, 0#5)
  | .fin s n d =>
    if n = 0 then (f.infPat s, flDZ)
    else
      let e := log2q d n
      let u : Int := e - (sig - 1 : Nat)
      let (q, _) := roundAt 1 s d n u
      if e > (2 : Int) ^ f.eb - 2 - f.bias then (f.infPat s, flOF)
      else
        let (x, y) := scale2 q u
        ((f.roundFin 1 s x y).1, 0#5)

/-- vrsqe (R136). -/
def laneRsqe (t : EType) (a : Nat) : LaneRes :=
  let f := fmtOf t
  let sig := if t = .bf16 then 8 else 9
  match f.value a with
  | .nan s => (f.cnan, if s then flNV else 0#5)
  | .inf s => if s then (f.cnan, flNV) else (0, 0#5)
  | .fin s n d =>
    if n = 0 then (f.infPat s, flDZ)
    else if s then (f.cnan, flNV)
    else
      let e := log2q d n / 2
      let u : Int := e - (sig - 1 : Nat)
      let (x, y) := scale2 d (-2 * u)
      let q := rootDown sig x (n * y)
      let (x, y) := scale2 q u
      ((f.roundFin 1 false x y).1, 0#5)

/-- vadds and vsubs (R135). -/
def laneSat (sub : Bool) (t : EType) (a b : Nat) : LaneRes :=
  let x := if sub then laneInt t a - laneInt t b else laneInt t a + laneInt t b
  (wrapLane t (satInt t.isSigned (laneW t) x), 0#5)

/-- vsl: the amount is the lane of vb modulo w (R135). -/
def laneSl (t : EType) (a b : Nat) : LaneRes := ((a <<< (b % laneW t)) % 2 ^ laneW t, 0#5)
/-- vsr: arithmetic for s types, logical for z types (R135). -/
def laneSr (t : EType) (a b : Nat) : LaneRes := (wrapLane t (laneInt t a / 2 ^ (b % laneW t)), 0#5)

/-- The compares of R138. -/
inductive VCmp where
  | eq | ne | lt | le
deriving DecidableEq, Repr

/-- One lane of a compare (R138, R139). -/
def laneCmp (c : VCmp) (t : EType) (a b : Nat) : Bool × BitVec 5 :=
  if t.isInt then
    (match c with
      | .eq => a == b
      | .ne => a != b
      | .lt => decide (laneInt t a < laneInt t b)
      | .le => decide (laneInt t a ≤ laneInt t b), 0#5)
  else
    let x := laneVal t a
    let y := laneVal t b
    let nan := x.isNan || y.isNan
    let f := if nan && (c = .lt || c = .le) then flNV else x.snanFlag ||| y.snanFlag
    (match c with
      | .eq => !nan && x.cmp y == .eq
      | .ne => nan || x.cmp y != .eq
      | .lt => !nan && x.cmp y == .lt
      | .le => !nan && x.cmp y != .gt, f)

/-- FRM as a rounding mode (R64). -/
def Strand.frm (t : Strand) : Nat := bitsNat t.sys.frm 2 0

/-- Whether a TGET of a strand is accepted and not completed: it still writes a vector register (R153). -/
def State.tgetBusy (s : State) (u : Nat) (t : Strand) : Bool :=
  (s.quad (quadOf t.core)).ops.any fun o => o.uid == u && (match o.kind with
    | .tget _ _ => true
    | _ => false)

/-- A vector instruction that reads and writes registers (R130): the result is written at issue, and its flags wait for
completion in program order. -/
def vecBody (f : Strand → Except (Nat × Word64) (Strand × BitVec 5)) : Strand → State → Res := fun t s =>
  if s.tgetBusy s.cur t then .hold s
  else
    match f t with
    | .error (c, v) => .trap c v
    | .ok (t', fl) => .done (s.putMe { t' with vflags := t'.vflags ++ [fl] })

/-- Writes the unmasked lanes of vd and unites their flags (R132). -/
def Strand.mapLanes (t : Strand) (d : BitVec 5) (k : BitVec 3) (ty : EType) (f : Nat → LaneRes) : Strand × BitVec 5 :=
  let rs := (List.range (laneN ty)).map fun i => if t.laneOn k ty i then f i else (laneOf ty (t.v d) i, 0#5)
  (t.setV d (lanes ty fun i => ((rs[i]?).getD (0, 0#5)).1), rs.foldl (fun a r => a ||| r.2) 0#5)

/-- A lane operation of two operands (R135). -/
def binBody (d a b : BitVec 5) (k : BitVec 3) (ty : EType) (f : Nat → Nat → Nat → LaneRes) : Strand → State → Res :=
  vecBody fun t => .ok (t.mapLanes d k ty fun i => f t.frm (laneOf ty (t.v a) i) (laneOf ty (t.v b) i))

/-- vfma and vfnma (R135). -/
def fmaBody (neg : Bool) (d a b : BitVec 5) (k : BitVec 3) (ty : EType) : Strand → State → Res :=
  vecBody fun t => .ok (t.mapLanes d k ty fun i =>
    laneFma neg ty t.frm (laneOf ty (t.v a) i) (laneOf ty (t.v b) i) (laneOf ty (t.v d) i))

/-- A lane operation of one operand (R136). -/
def unBody (d a : BitVec 5) (k : BitVec 3) (ty : EType) (f : Nat → LaneRes) : Strand → State → Res :=
  vecBody fun t => .ok (t.mapLanes d k ty fun i => f (laneOf ty (t.v a) i))

/-- A compare (R138): bit i of kd for each unmasked lane, zero for every other bit. -/
def cmpBody (c : VCmp) (d : BitVec 3) (a b : BitVec 5) (k : BitVec 3) (ty : EType) : Strand → State → Res :=
  vecBody fun t =>
    let rs := (List.range (laneN ty)).map fun i =>
      if t.laneOn k ty i then laneCmp c ty (laneOf ty (t.v a) i) (laneOf ty (t.v b) i) else (false, 0#5)
    let m := (List.range (laneN ty)).foldl (fun a i => if ((rs[i]?).getD (false, 0#5)).1 then a + 2 ^ i else a) 0
    .ok (t.setK d (BitVec.ofNat 64 m), rs.foldl (fun a r => a ||| r.2) 0#5)

/-- A mask operation (R138). -/
def maskBody (f : Strand → Strand) : Strand → State → Res := vecBody fun t => .ok (f t, 0#5)

/-- vsel (R144): every lane is written; k = 0 traps. DESIGN CHOICE (notes/assumptions/83.md): as a check of the entry (check 6 of
R79), after the checks of the decoding. -/
def vselBody (d a b : BitVec 5) (k : BitVec 3) (ty : EType) : Strand → State → Res := fun t s =>
  if k = 0#3 then .trap 0x01 s.wordTval
  else vecBody (fun t => .ok (t.setV d (lanes ty fun i =>
    if t.laneOn k ty i then laneOf ty (t.v a) i else laneOf ty (t.v b) i), 0#5)) t s

/-- A lane movement without flags (R144). -/
def moveBody (d : BitVec 5) (k : BitVec 3) (ty : EType) (f : Strand → Nat → Nat) : Strand → State → Res :=
  vecBody fun t => .ok (t.mapLanes d k ty fun i => (f t i, 0#5))

/-- vperm (R144). -/
def vpermLane (a b : BitVec 5) (ty : EType) (t : Strand) (i : Nat) : Nat :=
  laneOf ty (t.v a) (laneOf ty (t.v b) i % laneN ty)
/-- vshuf (R144). -/
def vshufLane (d a b : BitVec 5) (ty : EType) (t : Strand) (i : Nat) : Nat :=
  let n := laneN ty
  let x := laneOf ty (t.v d) i % (2 * n)
  if x < n then laneOf ty (t.v a) x else laneOf ty (t.v b) (x - n)
/-- viota (R144): exact in every type. -/
def viotaLane (ty : EType) (i : Nat) : Nat := if ty.isInt then i else ((fmtOf ty).round 0 (.fin false i 1)).1
/-- vsld (R144). -/
def vsldLane (a b : BitVec 5) (ty : EType) (t : Strand) (i : Nat) : Nat :=
  let m := (t.g b).toNat
  if i + m < laneN ty then laneOf ty (t.v a) (i + m) else 0
/-- vrand (R147). -/
def vrandLane (a b : BitVec 5) (ty : EType) (t : Strand) (i : Nat) : Nat :=
  let x := mix64 (t.g b) (t.g a + BitVec.ofNat 64 i)
  match ty with
  | .f32 => ((fF32).round 0 (.fin false (x.toNat >>> 40) (2 ^ 24))).1
  | .f16 => ((fF16).round 0 (.fin false (x.toNat >>> 53) (2 ^ 11))).1
  | .bf16 => ((fBF16).round 0 (.fin false (x.toNat >>> 56) (2 ^ 8))).1
  | _ => x.toNat % 2 ^ laneW ty

/-- vext (R144): the lane extended. -/
def vextBody (d a b : BitVec 5) (ty : EType) : Strand → State → Res :=
  vecBody fun t =>
    let x := laneOf ty (t.v a) ((t.g b).toNat % laneN ty)
    .ok (t.setG d (BitVec.ofInt 64 (laneInt ty x)), 0#5)

/-- vins (R144). -/
def vinsBody (d a b : BitVec 5) (ty : EType) : Strand → State → Res :=
  vecBody fun t =>
    let j := (t.g b).toNat % laneN ty
    .ok (t.setV d (lanes ty fun i => if i = j then (t.g a).toNat else laneOf ty (t.v d) i), 0#5)

/-- The decode table a code type names (R145): type c4 uses entries 0 to 15 of table A. -/
def Core.table (c : Core) (ty : EType) : Table :=
  match ty with
  | .c8b => ⟨c.tabB, bitAt c.tblsel 54⟩
  | .c4 => ⟨c.tabA, true⟩
  | _ => ⟨c.tabA, bitAt c.tblsel 55⟩

/-- TVAL of a NaN without a code, outside the tarn majors (R243). -/
def tableTval (ty : EType) : Word64 := if ty = .c8b then 0x201#64 else 0x200#64

/-- One lane of a conversion (R145); none is a NaN that meets a table with no NaN code (R243). -/
def convLane (c : Core) (mode : Nat) (u t : EType) (x : Nat) : Option LaneRes :=
  if u.isInt then
    if t.isInt then some (wrapLane t (satInt t.isSigned (laneW t) (laneInt u x)), 0#5)
    else
      let v := laneInt u x
      some ((fmtOf t).round mode (.fin (decide (v < 0)) v.natAbs 1))
  else if u.isCode then some ((fmtOf t).round mode ((c.table u).decode x))
  else
    let v := laneVal u x
    if t.isCode then (c.table t).encode v
    else if t.isInt then
      match v with
      | .nan _ => some (0, flNV)
      | .inf s => some (wrapLane t (if s then satInt t.isSigned (laneW t) (-(2 ^ 600)) else satInt t.isSigned (laneW t) (2 ^ 600)), flNV)
      | .fin s n d =>
        let (y, ex) := Val.toInt mode s n d
        let z := satInt t.isSigned (laneW t) y
        some (wrapLane t z, if z ≠ y then flNV else if ex then 0#5 else flNX)
    else
      let (p, f) := (fmtOf t).round mode v
      some (p, f ||| v.snanFlag)

/-- The rounding mode that field k of vcvt holds (R145). -/
def cvtMode (t : Strand) (r : BitVec 3) : Nat := if r = 0#3 then t.frm else r.toNat - 1

/-- Whether an MLUT of a core's table is accepted and not completed (R161). -/
def State.mlutBusy (s : State) (core : Nat) (tableB : Bool) : Bool :=
  (s.quad (quadOf core)).ops.any fun o => (match s.strand? o.uid with
    | some t => t.core == core
    | none => false) && (match o.kind with
    | .mlut b _ _ => b == tableB
    | _ => false)

/-- Whether a request's word is an MLUT of a table, or an MFMT, which sets the table's mode (R153, R160, R161). -/
def Request.changes (r : Request) (ty : EType) : Bool :=
  (r.word.toNat / 2 ^ 20 = 0xE41 && r.word.getLsbD 0 == (ty = .c8b)) || (r.word.toNat / 2 ^ 20 = 0xE40 && ty ≠ .c4)

/-- Whether an earlier instruction of a core that changes a type's table or its mode still stands in the dispatch queue (R57, R161). -/
def State.changeQueued (s : State) (core : Nat) (ty : EType) : Bool :=
  (s.quad (quadOf core)).queue.any fun r => r.changes ty && (s.strand? r.uid).any fun t => t.core == core

/-- Whether a vector instruction that uses a type's table must wait for an MLUT or an MFMT that the core issued before it (R57, R161). -/
def State.tableBusy (s : State) (core : Nat) (ty : EType) : Bool :=
  ty.isCode && (s.mlutBusy core (ty = .c8b) || s.changeQueued core ty)

/-- vcvt (R145). -/
def vcvtBody (d a : BitVec 5) (u : EType) (r : BitVec 3) (ty : EType) : Strand → State → Res := fun t s =>
  if s.tableBusy t.core u || s.tableBusy t.core ty then .hold s
  else
    let c := s.core t.core
    vecBody (fun t =>
      let m := min (laneN u) (laneN ty)
      let rs := (List.range m).map fun i => convLane c (cvtMode t r) u ty (laneOf u (t.v a) i)
      if rs.any Option.isNone then .error (0x23, tableTval ty)
      else
        let get (i : Nat) : LaneRes := ((rs[i]?).getD none).getD (0, 0#5)
        .ok (t.setV d (lanes ty fun i => (get i).1), (List.range m).foldl (fun a i => a ||| (get i).2) 0#5)) t s

/-- The operations of a reduction (R146). -/
inductive Red where
  | sum | min | max
deriving DecidableEq, Repr

/-- Node of R146: an absent side gives the other. -/
def redNode (op : Nat → Nat → LaneRes) (p q : Option LaneRes) : Option LaneRes :=
  match p, q with
  | p, none => p
  | none, q => q
  | some (x, f), some (y, g) =>
    let (z, h) := op x y
    some (z, f ||| g ||| h)

/-- One level of the tree: neighbours combine. -/
def redLevel (op : Nat → Nat → LaneRes) : List (Option LaneRes) → List (Option LaneRes)
  | p :: q :: r => redNode op p q :: redLevel op r
  | xs => xs

/-- The fixed pairwise tree of R146 over at most 2^fuel leaves. -/
def redTree (op : Nat → Nat → LaneRes) : Nat → List (Option LaneRes) → Option LaneRes
  | 0, xs => xs.head?.join
  | fuel + 1, xs => redTree op fuel (redLevel op xs)

/-- The result of a reduction (R146). -/
def reduce (r : Red) (ty : EType) (mode : Nat) (xs : List (Option Nat)) : LaneRes :=
  let wide := r = .sum && ty = .bf16
  let nt : EType := if wide then .f32 else ty
  let leaf (x : Option Nat) : Option LaneRes :=
    x.map fun p => (if wide then p * 65536 else p, if ty.isInt then 0#5 else (laneVal ty p).snanFlag)
  let op : Nat → Nat → LaneRes := match r with
    | .sum => laneAdd nt mode
    | .min => laneMinMax false nt
    | .max => laneMinMax true nt
  match redTree op 6 (xs.map leaf) with
  | none =>
    if r = .sum then (0, 0#5)
    else if ty.isInt then
      (wrapLane ty (satInt ty.isSigned (laneW ty) (if r = .min then 2 ^ 600 else -(2 ^ 600))), 0#5)
    else ((fmtOf ty).infPat (r = .max), 0#5)
  | some (z, f) =>
    if ty.isInt then (z, f)
    else if xs.any (fun x => (x.map fun p => (laneVal ty p).isSnan).getD false) then ((fmtOf ty).cnan, f ||| flNV)
    else
      let (p, g) := (fmtOf ty).round mode (laneVal nt z)
      (p, f ||| g)

/-- vredsum, vredmin, vredmax (R146): the result in lane 0, zero in every other lane. -/
def redBody (r : Red) (d a : BitVec 5) (k : BitVec 3) (ty : EType) : Strand → State → Res :=
  vecBody fun t =>
    let xs := (List.range (laneN ty)).map fun i => if t.laneOn k ty i then some (laneOf ty (t.v a) i) else none
    let (z, f) := reduce r ty t.frm xs
    .ok (t.setV d (lanes ty fun i => if i = 0 then z else 0), f)

/-- A vector immediate as one element (R75); none is a NaN that meets a table with no NaN code. An infinite one becomes the table's
infinity code, whatever else the table holds. -/
def immLane (c : Core) (ty : EType) (i : BitVec 16) : Option Nat :=
  match ty with
  | .s8 | .s16 | .s32 | .s64 => some (wrapLane ty i.toInt)
  | .z8 | .z16 | .z32 | .z64 => some (i.toNat % 2 ^ laneW ty)
  | .bf16 | .f16 | .f32 => some ((fmtOf ty).round 0 (fBF16.value i.toNat)).1
  | _ =>
    let x := fBF16.value i.toNat
    let inf : Option Nat := match x with
      | .inf neg => (c.table ty).infCode neg
      | _ => none
    match inf with
    | some code => some code
    | none => ((c.table ty).encode x).map (·.1)

/-- vimm (R76, R148). -/
def vimmBody (d : BitVec 5) (ty : EType) (i : BitVec 16) : Strand → State → Res := fun t s =>
  if s.tableBusy t.core ty then .hold s
  else
    match immLane (s.core t.core) ty i with
    | none => .trap 0x23 (tableTval ty)
    | some x => vecBody (fun t => .ok (t.setV d (lanes ty fun _ => x), 0#5)) t s

/-- vaddi (R76, R148): never masked. -/
def vaddiBody (d : BitVec 5) (ty : EType) (i : BitVec 16) : Strand → State → Res := fun t s =>
  let x := (immLane (s.core t.core) ty i).getD 0
  vecBody (fun t => .ok (t.mapLanes d 0#3 ty fun j => laneAdd ty t.frm (laneOf ty (t.v d) j) x)) t s

/-- The bytes one access lane moves; c4 moves whole bytes, one for each lane pair (R140). -/
def memBytes (ty : EType) : Nat := if ty = .c4 then 1 else laneW ty / 8
/-- The number of access lanes. -/
def memN (ty : EType) : Nat := 64 / memBytes ty

/-- The access lanes a mask leaves on; mask bit i governs access lane i in every type (R39, R140). -/
def Strand.memOn (t : Strand) (k : BitVec 3) (i : Nat) : Bool := k = 0#3 || (t.k k).getLsbD i

/-- Steps 1 to 4 of R112 for one lane (R141): the state with what the translation did, and the target, an absent page, or
the trap. -/
inductive LaneChk where
  | ok (s : State) (va : Nat) (tg : Target)
  | absent (s : State) (req : PageWait)
  | host (s : State) (w : Wait)
  | fail (s : State) (cause : Nat) (tval : Word64)

/-- The checks of one lane. base is g[a], ea the exact sum. -/
def State.checkLane (s : State) (t : Strand) (base : Option Word64) (ea : Int) (n : Nat) (a : Acc) : LaneChk :=
  match base with
  | some b => if bitsNat b 63 56 ≠ 0 then .fail s 0x04 b else go
  | none => go
where
  /-- The checks after that of the base. -/
  go : LaneChk :=
    if ea < 0 || ea + n > 2 ^ 56 then .fail s 0x05 (BitVec.ofInt 64 ea)
    else
      let va := ea.toNat
      if va % n ≠ 0 then .fail s 0x03 (BitVec.ofNat 64 va)
      else
        match weirRefuses t.weirs va n (weirNeed a) with
        | some b => .fail s 0x08 (BitVec.ofNat 64 b)
        | none =>
          match resolve s t.vf t.mode (dieOf t.core) va a with
          | .ok s tg => .ok s va tg
          | .wait s r => .absent s r
          | .host s w => .host s w
          | .refused s => .fail s 0x09 (BitVec.ofNat 64 va)

/-- What the checks of all lanes give: the present lanes with their places, the absent ones with their requests, the wait of a
walk for the host (R383, R386), the trap. -/
structure LaneMap where
  s : State
  present : List (Nat × Nat × Target)
  absent : List (Nat × PageWait)
  host : Option Wait
  fail : Option (Nat × Word64)

/-- Checks lanes in ascending order; the lowest failing lane decides (R141). The requests of absent lanes are posted as the
lanes are checked, whatever a later lane's checks give (notes/assumptions/70.md). -/
def State.checkLanes (s : State) (t : Strand) (base : Option Word64) (ea : Nat → Int) (n : Nat) (a : Acc) (ls : List Nat) :
    LaneMap :=
  ls.foldl (fun m i =>
    if m.fail.isSome || m.host.isSome then m
    else
      match m.s.checkLane t base (ea i) n a with
      | .ok s va tg => { m with s := s, present := m.present ++ [(i, va, tg)] }
      | .absent s r => { m with s := s, absent := m.absent ++ [(i, r)] }
      | .host s w => { m with s := s, host := some w }
      | .fail s c v => { m with s := s, fail := some (c, v) }) ⟨s, [], [], none, none⟩

/-- The trap of a lane that fails its checks. Of an instruction restored from a page fault it is a refused translation, with
the lowest refused address as TVAL (R142, R376). -/
def State.laneTrap (s : State) (t : Strand) (ea : Nat → Int) (a : Acc) (ls : List Nat) (restored : Bool) (c : Nat) (v : Word64) :
    Nat × Word64 :=
  if restored && c = 0x09 then
    (c, BitVec.ofNat 64 (((ls.filter fun i => match resolve s t.vf t.mode (dieOf t.core) (ea i).toNat a with
      | .refused _ => true
      | _ => false).map fun i => (ea i).toNat).min?.getD v.toNat))
  else (c, v)

/-- The strand as a vector memory instruction at its PC finds it: lanes that VREST reinstated are this instruction's. DESIGN CHOICE
(notes/assumptions/71.md): what an instruction at another PC has kept is given up, and it is kept till then, also where a trap routine
has returned elsewhere. -/
def Strand.claimLanes (t : Strand) : Strand :=
  if t.prog.lanesAt = none || t.prog.lanesAt = some t.pc then { t with prog := { t.prog with lanesAt := some t.pc } }
  else { t with prog := { t.prog with lanesAt := some t.pc, pending := none, loaded := 0#512, lane := none } }

/-- A read of a foreign line's bytes by a vector lane or a region read (R271): from a valid copy of the core or the quad, else
the line is brought into the column, with the bytes, in the same step. -/
def State.readThrough (s : State) (core vf va pa n : Nat) : MemRes :=
  let q := quadOf core
  match s.l1Foreign? core vf (va / 64) with
  | some l => s.l1Read l va n
  | none =>
    let s := s.wakeLine q (va / 64)
    match (s.quad q).foreign? vf (va / 64) with
    | some l => s.bedRead l va n
    | none =>
      if s.cutOff q vf (.loc pa) then .lost else
      let tg := Target.loc (pa / 64 * 64)
      let l : BedLine := ⟨vf, va / 64, tg, (s.quad q).gen.toNat, false, false, false,
        bytesLine (s.homeRead vf (va / 64 * 64) tg 64), 0, s.bedPoison vf (va / 64) tg⟩
      (s.installBed q l).bedRead l va n

/-- Reading one lane (R142, R143, R114, R265): from the strand's own buffer, else through its caches or at the home. A lost
request ends it as poison does (R363). -/
def State.readLane (s : State) (t : Strand) (va n : Nat) (tg : Target) : MemRes :=
  match tg with
  | .dry => .ok s (List.replicate n 0#8)
  | _ =>
    if t.timeout then .poison else
    match t.forward va n with
    | some (some bs) => if s.forwardPoison t va n tg then .poison else .ok s bs
    | some none => .wait s .answer
    | none =>
      match tg with
      | .loc pa =>
        match s.biasWait pa with
        | some w => .wait (s.askHost w false) w
        | none =>
          if s.hostBiased pa then (if s.cutOff (quadOf t.core) t.vf tg then .lost else s.homeReadRes t.vf va tg n)
          else if dieOfPa pa = dieOf t.core then
            (match s.l1Of t.core t.vf (va / 64) with
            | some l => s.l1Read l va n
            | none => s.homeReadRes t.vf va tg n)
          else s.readThrough t.core t.vf va pa n
      | _ => (s.ownPool t tg n).partyRead (quadOf t.core) t.vf va tg n

/-- What the reads of the present lanes give. -/
inductive LaneRead where
  | ok (s : State) (v : Vec)
  | again (s : State) (w : Option Wait)
  | poison (va : Nat)
  | lost (s : State) (va : Nat)

/-- Reads the present lanes into the lanes already loaded. -/
def State.readLanes (s : State) (t : Strand) (n : Nat) : Vec → List (Nat × Nat × Target) → LaneRead
  | v, [] => .ok s v
  | v, (i, va, tg) :: r =>
    match s.readLane t va n tg with
    | .poison => .poison va
    | .lost => .lost (s.readLost t tg) va
    | .wait s .answer => .again s none
    | .wait s w => .again s (some w)
    | .ok s bs =>
      let bits := BitVec.ofNat 512 (leNat bs <<< (8 * n * i))
      let hole := ~~~(BitVec.ofNat 512 ((2 ^ (8 * n) - 1) <<< (8 * n * i)))
      s.readLanes t n ((v &&& hole) ||| bits) r

/-- The address of the poisoned lane that a load meets: lanes are performed in any order, so any poisoned one may be the first
(R142, notes/assumptions/67.md). -/
def State.poisonedLane (s : State) (t : Strand) (n : Nat) (ls : List (Nat × Nat × Target)) (va : Nat) : Nat :=
  match (ls.filter fun p => match s.readLane t p.2.1 n p.2.2 with
      | .poison => true
      | _ => false).map fun p => p.2.1 with
  | [] => va
  | [a] => a
  | a :: r => ((a :: r)[Config.laneOrder s.tick (r.length + 1) % (r.length + 1)]?).getD a

/-- A vector load (R140 to R143). chk gives the form's own checks, then the base and the lane addresses. -/
def vloadBody (d : BitVec 5) (k : BitVec 3) (ty : EType)
    (addr : Strand → Except (Nat × Word64) (Option Word64 × (Nat → Int))) : Strand → State → Res := fun t s =>
  if s.tgetBusy s.cur t then .hold s
  else
    match addr t with
    | .error (c, v) => .trap c v
    | .ok (base, ea) =>
      let t := t.claimLanes
      let n := memBytes ty
      let all := (List.range (memN ty)).filter (t.memOn k)
      let todo := match t.prog.pending with
        | some m => all.filter (m.getLsbD ·)
        | none => all
      let m := s.checkLanes t base ea n .read todo
      match m.fail with
      | some (c, v) =>
        let r := m.s.laneTrap t ea .read todo t.prog.pending.isSome c v
        .trapIn (m.s.putMe t) r.1 r.2
      | none =>
        let asks := { t with asked := m.absent.map (·.2) }
        match m.host, m.s.readLanes t n t.prog.loaded m.present with
        | some w, _ => .hold (m.s.parkMe asks w)
        | none, .poison va => .trapIn (m.s.putMe t) 0x0B (BitVec.ofNat 64 (m.s.poisonedLane t n m.present va))
        | none, .lost s va => .trapIn (s.putMe t) 0x0B (BitVec.ofNat 64 va)
        | none, .again s none => .hold (s.putMe asks)
        | none, .again s (some w) => .hold (s.parkMe asks w)
        | none, .ok s v =>
          match m.absent with
          | [] =>
            let mask := all.foldl (fun a i => a + (2 ^ (8 * n) - 1) <<< (8 * n * i)) 0
            let mv := BitVec.ofNat 512 mask
            let t' := t.setV d ((t.v d &&& ~~~mv) ||| (v &&& mv))
            .done (s.putMe { t' with vflags := t'.vflags ++ [0#5] })
          | abs =>
            let pend := BitVec.ofNat 64 (abs.foldl (fun a p => a + 2 ^ p.1) 0)
            .hold (s.faultPark { t with prog := { t.prog with pending := some pend, loaded := v } } (abs.map (·.2)))

/-- The type's lane number of an access lane, as the resume lane counts (R228). -/
def resumeLane (ty : EType) (i : Nat) : Nat := if ty = .c4 then 2 * i else i

/-- Adjacent runs of bytes as one run: a store that covers a granule covers it whole (R115). -/
def joinRuns (segs : List (Nat × List Byte)) : List (Nat × List Byte) :=
  segs.foldr (fun g r =>
    match r with
    | (o, bs) :: r' => if o = g.1 + g.2.length then (g.1, g.2 ++ bs) :: r' else g :: r
    | [] => [g]) []

/-- Puts the lanes of a store into the buffer in ascending order (R142, R143): byLine gathers those of one 64-byte line. It
ends at the first lane that has no room or no page. -/
def storeLanes (byLine : Bool) (n : Nat) (vd : Vec) (vf : Nat) : Nat → State → Strand → List (Nat × Nat × Target) →
    State × Strand × Option Nat
  | 0, s, t, _ => (s, t, none)
  | _, s, t, [] => (s, t, none)
  | fuel + 1, s, t, (i, va, tg) :: r =>
    let grp := if byLine then ((i, va, tg) :: r).filter (fun p => p.2.1 / 64 == va / 64) else [(i, va, tg)]
    let rest := if byLine then r.filter (fun p => p.2.1 / 64 != va / 64) else r
    if tg = .dry then storeLanes byLine n vd vf fuel (s.dryBytes vf (n * grp.length)) t rest
    else if 8 ≤ t.buf.length then (s, t, some i)
    else
      let segs := joinRuns (grp.map fun p => (p.2.1 - va, leBytes n (vd.toNat >>> (8 * n * p.1))))
      let e : Store := ⟨s.tick, va, tg, segs⟩
      storeLanes byLine n vd vf fuel s { t with buf := t.buf ++ [e] } rest

/-- A vector store (R140 to R143). One that waits in mid-store for room in the buffer keeps the mark answered, so that nothing
interrupts it there (R343). The lane whose request was lost is reported so, performed or not (R363). In the last word of the address space it performs no lane, and its trap 0x05 comes once no lane waits
for its page any more (R103). -/
def vstoreBody (byLine : Bool) (d : BitVec 5) (k : BitVec 3) (ty : EType)
    (addr : Strand → Except (Nat × Word64) (Option Word64 × (Nat → Int))) : Strand → State → Res := fun t s =>
  if s.tgetBusy s.cur t then .hold s
  else
    match addr t with
    | .error (c, v) => .trap c v
    | .ok (base, ea) =>
      let t := t.claimLanes
      let n := memBytes ty
      let first := t.prog.lane.getD 0
      let todo := ((List.range (memN ty)).filter (t.memOn k)).filter (fun i => first ≤ resumeLane ty i)
      let m := s.checkLanes t base ea n .write todo
      match m.fail, m.host with
      | some (c, v), _ =>
        let r := m.s.laneTrap t ea .write todo t.prog.lane.isSome c v
        .trapIn (m.s.putMe t) r.1 r.2
      | none, some w => .hold (m.s.parkMe { t with asked := m.absent.map (·.2) } w)
      | none, none =>
        if (t.pc : Int) + 4 > pcTop then
          (if m.absent.isEmpty then .done m.s else .hold (m.s.faultPark t (m.absent.map (·.2))))
        else
        let upTo := match m.absent with
          | (i, _) :: _ => m.present.filter (fun p => p.1 < i)
          | [] => m.present
        let lost := if t.timeout then upTo.head? else none
        let s := lost.elim m.s fun p => m.s.reportLost t p.2.1 p.2.2
        let upTo := if lost.isSome && !Config.lostPerformed s.tick then upTo.tail else upTo
        let (s, t, full) := storeLanes byLine n (t.v d) t.vf 65 s { t with timeout := false } upTo
        match full, m.absent with
        | some i, _ => .hold (s.putMe { t with answered := true, asked := m.absent.map (·.2), prog := { t.prog with lane := some (resumeLane ty i) } })
        | none, (i, _) :: _ =>
          .hold (s.faultPark { t with answered := false, prog := { t.prog with lane := some (resumeLane ty i) } } (m.absent.map (·.2)))
        | none, [] => .done (s.putMe { t with vflags := t.vflags ++ [0#5] })

/-- Lane addresses of vld and vst (R140). -/
def unitAddr (a : BitVec 5) (ty : EType) (t : Strand) : Except (Nat × Word64) (Option Word64 × (Nat → Int)) :=
  .ok (some (t.g a), fun i => ((t.g a).toNat : Int) + i * memBytes ty)
/-- Lane addresses of vlds and vsts (R140). -/
def strideAddr (a b : BitVec 5) (t : Strand) : Except (Nat × Word64) (Option Word64 × (Nat → Int)) :=
  .ok (some (t.g a), fun i => ((t.g a).toNat : Int) + i * (t.g b).toInt)
/-- Lane addresses of vgather and vscatter (R140): the 32-bit lanes of vb are signed. -/
def indexAddr (a b : BitVec 5) (ty : EType) (t : Strand) : Except (Nat × Word64) (Option Word64 × (Nat → Int)) :=
  .ok (some (t.g a), fun i => ((t.g a).toNat : Int) + laneInt .s32 (laneOf .s32 (t.v b) i) * memBytes ty)
/-- Lane addresses of vldr and vstr (R140): a block of 64 bytes whose element is the lane. -/
def refAddrs (a : BitVec 5) (ty : EType) (t : Strand) : Except (Nat × Word64) (Option Word64 × (Nat → Int)) :=
  let w := t.g a
  match refCheck w with
  | some e => .error e
  | none =>
    if blockBytes w ≠ 64 || 2 ^ refE w ≠ memBytes ty then .error (0x07, w)
    else .ok (none, fun i => (refAddr w : Int) + i * memBytes ty)

end Sys2Proof.Machine
end

