-- ==== Sys2Proof/Machine/Tarn.lean ====
section
/-!
DEFINITION. The tarn and the matrix unit (spec/08_ref_tarn_matrix.md; R52 to R58 of spec/03_state.md; R237, R238, R249, R294,
R295): names and their states, acceptance and completion of instructions of majors 0x38 and 0x39, the products.
-/
namespace Sys2Proof.Machine

/-- T of a tag's bits [63:35] (R53). -/
def tagT (g : BitVec 29) : Nat := g.toNat / 2 ^ 25
/-- ROWS of a tag. -/
def tagRows (g : BitVec 29) : Nat := g.toNat / 2 ^ 19 % 64
/-- COLS of a tag. -/
def tagCols (g : BitVec 29) : Nat := g.toNat / 2 ^ 10 % 512
/-- O of a tag. -/
def tagO (g : BitVec 29) : Nat := g.toNat / 2 ^ 9 % 2
/-- NSC of a tag. -/
def tagNsc (g : BitVec 29) : Nat := g.toNat % 512

/-- The ST code of a state (R53). -/
def stCode : NameState → Nat
  | .free => 0 | .declared => 1 | .defined => 2 | .draining => 3

/-- A tag as TTAG gives it (R53, R159). -/
def Name.tagWord (x : Name) : Word64 :=
  if x.st = .free then 0#64
  else field64 x.tag.toNat 35 ||| field64 (stCode x.st) 32 ||| field64 (x.dcore % 4) 14 ||| field64 (x.dslot % 4) 12

/-- The element size in bytes of a type, in half bytes: 1 for c4 (R154 Width). -/
def halfBytes (ty : Nat) : Nat :=
  if ty = 13 then 1
  else if ty = 0 || ty = 4 || ty = 11 || ty = 12 then 2
  else if ty = 1 || ty = 5 || ty = 8 || ty = 9 then 4
  else if ty = 2 || ty = 6 || ty = 10 then 8 else 16

/-- Whether TDECL takes a tag (R154). -/
def tagOk (g : BitVec 29) : Bool :=
  tagT g ≤ 13 && tagRows g ≤ 31 && tagNsc g ≤ 256 &&
    (if tagT g = 13 then tagCols g + 1 ≤ 256 else (tagCols g + 1) * (halfBytes (tagT g) / 2) ≤ 128)

/-- The scale blocks of a row (R54). -/
def tagBlocks (g : BitVec 29) : Nat := (tagCols g + 32) / 32

/-- Element (i, j) of a name's data (R52). -/
def nameElem (ty : Nat) (data : List Byte) (i j : Nat) : Nat :=
  if ty = 13 then
    let b := ((data[128 * i + j / 2]?).getD 0#8).toNat
    if j % 2 = 0 then b % 16 else b / 16
  else
    let n := halfBytes ty / 2
    leNat ((data.drop (128 * i + j * n)).take n)

/-- The data of a name of a type whose element (i, j) is f i j inside its rows and columns, and zero outside (R52). -/
def buildData (g : BitVec 29) (f : Nat → Nat → Nat) : List Byte :=
  let ty := tagT g
  let h := halfBytes ty
  (List.range 32).flatMap fun i =>
    if tagRows g < i then List.replicate 128 0#8
    else
      let row := (List.range (tagCols g + 1)).foldl (fun a j => a + (f i j % 2 ^ (4 * h)) <<< (4 * h * j)) 0
      leBytes 128 row

/-- The declaration of a name takes effect (R55, R154). -/
def Quad.declare (x : Quad) (n : Nat) (tag : BitVec 29) (u core slot : Nat) : Quad :=
  { x.putName n { Name.reset with
      st := .declared, tag := tag, owner := u, dcore := core, dslot := slot,
      data := List.replicate 4096 0#8, side := List.replicate 512 0#8, decl := x.nextDecl } with
    nextDecl := x.nextDecl + 1 }

/-- The sidecar and data of a name as its definition leaves them (R156). -/
def Name.seal (x : Name) : Name :=
  { x with st := .defined,
           data := buildData x.tag (nameElem (tagT x.tag) x.data),
           side := x.side.take (2 * tagNsc x.tag) ++ List.replicate (512 - 2 * tagNsc x.tag) 0#8 }

/-- The definition of a name completes: every parked reader resumes (R55). -/
def State.define (s : State) (q n : Nat) (x : Name) : State :=
  (s.putQuad q ((s.quad q).putName n x.seal)).nameChanged q n

/-- A restored declaration, made or queued, belongs to the strand that comes to stand in its DCORE and DSLOT (R355). -/
def Name.bind (x : Name) (u core slot : Nat) : Name :=
  if x.st = .declared && x.owner = 0 && x.dcore = core && x.dslot = slot then { x with owner := u }
  else
    match x.queued with
    | some (tag, 0) => if x.qcore = core && x.qslot = slot then { x with queued := some (tag, u) } else x
    | _ => x

/-- A strand that has come to stand in a slot takes the restored declarations of that slot (R355). -/
def State.bindNames (s : State) (u core slot : Nat) : State :=
  let q := quadOf core
  let x := s.quad q
  if x.names.isEmpty then s else s.putQuad q { x with names := FMap.map x.names fun _ m => m.bind u (core % 4) slot }

/-- Whether an accepted instruction still reads a name. -/
def Quad.reading (x : Quad) (n : Nat) : Bool := x.ops.any fun o => o.reads.contains n

/-- A draining name becomes free, and its queued declaration takes effect at once (R55). -/
def State.freeName (s : State) (q n : Nat) : State :=
  let x := s.quad q
  let m := x.name n
  let x := { x with names := FMap.erase x.names n }
  let x := match m.queued with
    | some (tag, u) => x.declare n tag u m.qcore m.qslot
    | none => x
  (s.putQuad q x).nameChanged q n

/-- The draining name whose turn it is to become free: the one killed first, when no read of it is in flight (R55, R56). -/
def Quad.drainNext (x : Quad) : Option Nat :=
  let best := x.names.foldl (fun (b : Option (Nat × Nat)) p =>
    if p.2.st = .draining then
      (match b with
        | some (r, m) => if p.2.rank < r then some (p.2.rank, p.1) else some (r, m)
        | none => some (p.2.rank, p.1))
    else b) none
  match best with
  | some (_, n) => if x.reading n then none else some n
  | none => none

/-- Whether a name can be read (R55, R157). -/
inductive Readable where
  | yes | park | free
deriving DecidableEq, Repr

/-- The state check of a read (R157). -/
def Quad.readable (x : Quad) (n : Nat) : Readable :=
  match (x.name n).st with
  | .defined => .yes
  | .declared => .park
  | .draining => if (x.name n).queued.isSome then .park else .free
  | .free => .free

/-- Whether a declaration made by owner in a core's slot is a strand's: a restored one (owner 0) is that of the strand in the slot
(R154, R355). -/
def Strand.declared (t : Strand) (u owner core slot : Nat) : Bool := owner = u || (owner = 0 && t.core % 4 = core && t.slot = some slot)

/-- The checks of R155 on a name to be written: the trap, or whether the strand parks for its own queued declaration. -/
def Quad.checkDest (x : Quad) (t : Strand) (u n : Nat) : Except (Nat × Word64) Bool :=
  let m := x.name n
  let tv := BitVec.ofNat 64 n
  match m.st with
  | .declared => if t.declared u m.owner m.dcore m.dslot then .ok false else .error (0x22, tv)
  | .defined => .error (0x22, tv)
  | .free => .error (0x20, tv)
  | .draining =>
    match m.queued with
    | none => .error (0x20, tv)
    | some (_, o) => if t.declared u o m.qcore m.qslot then .ok true else .error (0x22, tv)

/-- Whether no request of a strand is served: an MDRAIN or MREST of another strand is under way (R226), or a request is held
for energy (R295). -/
def Quad.stalled (x : Quad) (u : Nat) : Bool := (x.drainBy.isSome && x.drainBy ≠ some u) || x.owed

/-- Whether a strand has an accepted, uncompleted instruction in a quad (R151). -/
def Quad.busyFor (x : Quad) (u : Nat) : Bool := x.ops.any fun o => o.uid == u

/-- Whether an accepted, uncompleted instruction of a strand defines a name that the strand has declared: what the strand does to
the name after it waits for the definition (R151). -/
def Quad.defines (x : Quad) (u n : Nat) : Bool := x.ops.any fun o => o.uid == u && o.dest == some n && o.decl == (x.name n).decl

/-- Whether a request must wait whatever its turn (R13): the quad is stalled, or the datapath is occupied. -/
def Quad.blocks (x : Quad) (u : Nat) (k : ReqKind) (cyc : Nat) : Bool :=
  x.stalled u || match k with
    | .plain => false
    | .datapath => cyc < x.busyUntil

/-- A strand that stands in a slot and waits for nothing (R47). -/
def Strand.standing (t : Strand) : Bool := t.slot.isSome && t.run = .running && !t.pendingClone

/-- Whether a request in a dispatch queue is presented for arbitration (R13): from the cycle after it came or was last not to be
served, so that the requests of one cycle stand together. -/
def State.presents (s : State) (x : Quad) (r : Request) : Bool :=
  r.since < s.cyc && (s.strand? r.uid).any (fun t => t.standing && t.doom.isNone) && !x.blocks r.uid r.kind s.cyc

/-- The request that a core has before the unit (R13): the first of its queue that is presented. One that waits for its operands is
passed; none passes one that waits for the datapath. -/
def State.headOf (s : State) (x : Quad) (core : Nat) : Option Nat :=
  let mine := x.queue.filter fun r => (s.strand? r.uid).any fun t => t.standing && t.core % 4 = core
  ((mine.takeWhile fun r => !(r.kind = .datapath && s.cyc < x.busyUntil)).find? (s.presents x)).map Request.uid

/-- The request that the unit serves next: round-robin over the cores, beginning after the one served last (R13, R56). -/
def State.arbiter (s : State) (q : Nat) : Option Nat :=
  let x := (s.quad q).refreshed s.cyc
  [1, 2, 3, 4].findSome? fun i => s.headOf x ((x.lastCore + i) % 4)

/-- Whether a strand has a request in the dispatch queues of a quad (R11). -/
def Quad.queues (x : Quad) (u : Nat) : Bool := x.queue.any fun r => r.uid == u

/-- The quad that serves a request of a strand of a core (R13). -/
def Quad.serve (x : Quad) (u core : Nat) : Quad := { x with queue := x.queue.filter (·.uid ≠ u), lastCore := core % 4 }

/-- A request that has parked or does not yet stand has not been served, and keeps its place (R13, R150). -/
def Quad.unserve (x : Quad) (old : Quad) (u cyc : Nat) : Quad :=
  { x with queue := old.queue.map (fun r => if r.uid = u then { r with since := cyc } else r), lastCore := old.lastCore }

/-- A request to the tarn or the matrix unit (R11, R13, R150): its issue puts it in the dispatch queue; once there it is served when
its turn comes. -/
def tarnBody (k : ReqKind) (f : Strand → Quad → State → Res) : Strand → State → Res := fun t s =>
  let q := quadOf t.core
  let x := (s.quad q).refreshed s.cyc
  if !x.queues s.cur then .hold (s.putQuad q { x with queue := x.queue ++ [⟨s.cur, s.ir, k, s.cyc⟩] })
  else if s.arbiter q ≠ some s.cur then .hold (s.putQuad q x)
  else
    let y := x.serve s.cur t.core
    match f t y (s.putQuad q y) with
    | .hold s' => .hold (s'.putQuad q ((s'.quad q).unserve x s.cur s.cyc))
    | .trap c v => .trapIn (s.putQuad q y) c v
    | r => r

/-- Field N0 to N3 of g[a] (R149). -/
def nameField (w : Word64) (i : Nat) : Nat := bitsNat w (8 * i + 7) (8 * i)

/-- A name as TVAL. -/
def nameTval (n : Nat) : Word64 := BitVec.ofNat 64 n

/-- TDECL (R154). -/
def tdeclBody (a b d : BitVec 5) : Strand → State → Res := tarnBody .plain fun t x s =>
  let q := quadOf t.core
  let n := nameField (t.g a) 0
  let tag : BitVec 29 := ((t.g b) >>> 35).setWidth 29
  let out := field64 tag.toNat 35 ||| field64 1 32 ||| field64 (t.core % 4) 14 ||| field64 (t.slot.getD 0) 12
  let m := x.name n
  if !tagOk tag then .trap 0x23 (t.g b)
  else
    match m.st, m.queued with
    | .free, _ => .done (((s.putQuad q (x.declare n tag s.cur (t.core % 4) (t.slot.getD 0))).nameChanged q n).putMe (t.setG d out))
    | .draining, none =>
      .done (((s.putQuad q (x.putName n { m with queued := some (tag, s.cur), qcore := t.core % 4, qslot := t.slot.getD 0 })).nameChanged q n).putMe (t.setG d out))
    | _, _ => .trap 0x22 (nameTval n)

/-- What a read of a run of lines gives. -/
inductive RunRead where
  | ok (s : State) (bs : List Byte)
  | again (s : State) (w : Option Wait)
  | poison (va : Nat)
  | lost (s : State)

/-- Reads m pieces of 64 bytes in ascending order as loads of the strand (R155, R114). -/
def State.readRun (s : State) (t : Strand) (va : Nat) (tg : Target) : Nat → RunRead
  | 0 => .ok s []
  | m + 1 =>
    match s.readLane t va 64 tg with
    | .poison => .poison va
    | .lost => .lost (s.readLost t tg)
    | .wait s .answer => .again s none
    | .wait s w => .again s (some w)
    | .ok s bs =>
      match s.readRun t (va + 64) (tg.plus 64) m with
      | .ok s r => .ok s (bs ++ r)
      | r => r

/-- CheckAccess of a region read, and its bytes (R112, R155, R161): n bytes from a register, aligned; its
pages are there before any byte of it is read. -/
def regionRead (base : Word64) (n align : Nat) (t : Strand) (s : State) : Except Res (State × List Byte) :=
  match eaCheck base 0 n with
  | .error (c, v) => .error (.trap c v)
  | .ok va =>
    if va % align ≠ 0 then .error (.trap 0x03 (BitVec.ofNat 64 va))
    else
      match weirRefuses t.weirs va n 2 with
      | some b => .error (.trap 0x08 (BitVec.ofNat 64 b))
      | none =>
        let n1 := min n (65536 - va % 65536)
        match s.reach t va .read va with
        | .res r => .error r
        | .go s tg =>
          let second : Except Res (State × Target) :=
            if n1 = n then .ok (s, .dry)
            else match s.reach t (va + n1) .read (va + n1) with
              | .res r => .error r
              | .go s tg => .ok (s, tg)
          match second with
          | .error r => .error r
          | .ok (s, tg2) =>
            match s.readRun t va tg (n1 / 64) with
            | .again s none => .error (.hold s)
            | .again s (some w) => .error (.hold (s.parkMe t w))
            | .poison _ => .error (.trap 0x0B (BitVec.ofNat 64 va))
            | .lost s => .error (.trapIn s 0x0B (BitVec.ofNat 64 va))
            | .ok s bs =>
              match s.readRun t (va + n1) tg2 ((n - n1) / 64) with
              | .again s none => .error (.hold s)
              | .again s (some w) => .error (.hold (s.parkMe t w))
              | .poison _ => .error (.trap 0x0B (BitVec.ofNat 64 va))
              | .lost s => .error (.trapIn s 0x0B (BitVec.ofNat 64 va))
              | .ok s cs => .ok (s, bs ++ cs)

/-- A write to a declared name (R155); one that an earlier instruction of the strand is still to define waits for that (R151). -/
def writeName (n : Nat) (f : Name → Strand → State → Res) : Strand → State → Res := tarnBody .plain fun t x s =>
  match x.checkDest t s.cur n with
  | .error (c, v) => .trap c v
  | .ok true => .hold (s.parkMe t (.names [n]))
  | .ok false => if x.defines s.cur n then .hold s else f (x.name n) t s

/-- TLD and TLD.S (R155). -/
def tldBody (side : Bool) (a b : BitVec 5) : Strand → State → Res := fun t s =>
  let n := nameField (t.g a) 0
  let z := if side then 512 else 4096
  writeName n (fun m t s =>
    match regionRead (t.g b) z z t s with
    | .error r => r
    | .ok (s, bs) =>
      let q := quadOf t.core
      let m := if side then { m with side := bs, poison := m.poison.filter (· < 256) }
        else { m with data := bs, poison := m.poison.filter (256 ≤ ·) }
      .done (s.putQuad q ((s.quad q).putName n m))) t s

/-- TFILL (R155). -/
def tfillBody (a b v : BitVec 5) : Strand → State → Res := fun t s =>
  let n := nameField (t.g a) 0
  writeName n (fun m t s =>
    let h := bitsNat (t.g b) 6 0
    if 72 ≤ h then .trap 0x23 (nameTval n)
    else
      let q := quadOf t.core
      let bs := lineBytes (t.v v)
      let m := { m with poison := m.poison.filter fun g => g / 4 ≠ h }
      let m := if h < 64 then { m with data := spliceBytes 0 m.data (64 * h) bs }
        else { m with side := spliceBytes 0 m.side (64 * (h - 64)) bs }
      .done (s.putQuad q ((s.quad q).putName n m))) t s

/-- The context of a core as an accepted instruction takes it (R57). -/
def Core.ctx (c : Core) (t : Strand) : Ctx := ⟨c.tblsel, c.tabA, c.tabB, t.sys.frm⟩

/-- Accepts an instruction that completes later (R150); of the datapath, with the units it still owes and its occupancy, from
now on unless it is held (R13, R295). -/
def State.accept (s : State) (t : Strand) (kind : MatKind) (reads : List Nat) (dest : Option Nat) (aOp bOp : Option Operand)
    (owes occ : Nat) : State :=
  let q := quadOf t.core
  let x := s.quad q
  let decl := match dest with
    | some n => (x.name n).decl
    | none => 0
  let o : MatOp := ⟨s.cur, kind, reads, dest, decl, (s.core t.core).ctx t, aOp, bOp, owes, occ, s.tick⟩
  s.putQuad q { x with ops := x.ops ++ [o], busyUntil := if occ = 0 || owes ≠ 0 then x.busyUntil else s.cyc + occ,
                       mmaxBy := if x.mmaxBy = some s.cur then none else x.mmaxBy }

/-- A definition with nothing to compute (R156, R162): it completes when it is accepted, except behind the strand's earlier
instructions of these majors (R151) or its earlier stores, for a definition is a release to the quad (R55, R266, R269): then in their
order. -/
def State.acceptDefinition (s : State) (t : Strand) (kind : MatKind) (n : Nat) (m : Name) : State :=
  let q := quadOf t.core
  if (s.quad q).busyFor s.cur || !t.buf.isEmpty then s.accept t kind [] (some n) none none 0 0 else s.define q n m

/-- TSEAL (R156). -/
def tsealBody (a : BitVec 5) : Strand → State → Res := fun t s =>
  let n := nameField (t.g a) 0
  writeName n (fun m t s => .done (s.acceptDefinition t .seal n m)) t s

/-- The state check of names read together (R157, R163 step 3): a free one traps; with none free, the strand parks. DESIGN CHOICE
(notes/assumptions/92.md): a free name traps at once though one before it is still declared. -/
def Quad.checkReads (x : Quad) (ns : List Nat) : Except (Nat × Word64) (List Nat) :=
  match ns.find? fun n => x.readable n = .free with
  | some n => .error (0x20, nameTval n)
  | none => .ok (ns.filter fun n => x.readable n = .park)

/-- TGET (R157): the vector register is written when it completes. -/
def tgetBody (a b v : BitVec 5) : Strand → State → Res := tarnBody .plain fun t x s =>
  let n := nameField (t.g a) 0
  let h := bitsNat (t.g b) 6 0
  match x.checkReads [n] with
  | .error (c, w) => .trap c w
  | .ok [] =>
    if 72 ≤ h then .trap 0x23 (nameTval n)
    else if (x.name n).poison.any fun g => g / 4 = h then .trap 0x0B (nameTval n)
    else .done (s.accept t (.tget v.toNat h) [n] none none none 0 0)
  | .ok ns => .hold (s.parkMe t (.names ns))

/-- Whether a name's poison stops the instructions that read the whole of it. DESIGN CHOICE (notes/assumptions/92.md): that of the
sidecar only where the tag has scales (R163). -/
def Name.bad (m : Name) : Bool := m.poison.any fun g => g < 256 || tagNsc m.tag ≠ 0

/-- TST and TST.S (R157): the address and the weirs are checked at issue (R43), the state of the name at acceptance; the bytes
enter the strand's stores, after the earlier and before the later ones. -/
def tstBody (side : Bool) (a b : BitVec 5) : Strand → State → Res := fun t s =>
  let n := nameField (t.g a) 0
  let z := if side then 512 else 4096
  match eaCheck (t.g b) 0 z with
  | .error (c, w) => .trap c w
  | .ok va =>
    if va % z ≠ 0 then .trap 0x03 (BitVec.ofNat 64 va)
    else
      match weirRefuses t.weirs va z 3 with
      | some b => .trap 0x08 (BitVec.ofNat 64 b)
      | none => tarnBody .plain (fun t x s =>
        match x.checkReads [n] with
        | .error (c, w) => .trap c w
        | .ok [] =>
          if (x.name n).poison.any fun g => decide (256 ≤ g) == side then .trap 0x0B (nameTval n)
          else
            match s.reach t va .write va with
            | .res r => r
            | .go s tg =>
              if tg = .dry then .done ((s.dryBytes t.vf z).accept t (.tst va side) [n] none none none 0 0)
              else if 8 ≤ t.buf.length then .hold s
              else
                let m := x.name n
                let bs := if side then m.side else m.data
                let segs := (List.range (z / 64)).map fun i => (64 * i, (bs.drop (64 * i)).take 64)
                let e : Store := ⟨s.tick, va, tg, segs⟩
                .done ((s.accept t (.tst va side) [n] none none none 0 0).putMe { t with buf := t.buf ++ [e] })
        | .ok ns => .hold (s.parkMe t (.names ns))) t s

/-- TKILL (R158): it waits for no read. -/
def tkillBody (a : BitVec 5) : Strand → State → Res := tarnBody .plain fun t x s =>
  let q := quadOf t.core
  let n := nameField (t.g a) 0
  let m := x.name n
  match m.st with
  | .declared => .done (s.breakName q n)
  | .defined =>
    let idle := !x.reading n && !x.names.any (fun p => p.2.st = .draining)
    let x := { x.putName n { m with st := .draining, rank := x.nextRank } with nextRank := x.nextRank + 1 }
    let s := (s.putQuad q x).nameChanged q n
    .done (if idle then s.freeName q n else s)
  | _ => .trap 0x20 (nameTval n)

/-- TTAG (R159). -/
def ttagBody (a d : BitVec 5) : Strand → State → Res := tarnBody .plain fun t x s =>
  .done (s.putMe (t.setG d (x.name (nameField (t.g a) 0)).tagWord))

/-- The types that TA and TB hold (R57). -/
def ctxTypes : List Nat := [8, 9, 11, 12, 13]

/-- TA, TB, NA and NB of TBLSEL written from a word; a reserved type leaves its field (R4, R160). -/
def formatWrite (old w : Word64) : Word64 :=
  let ta := if ctxTypes.contains (bitsNat w 63 60) then bitsNat w 63 60 else bitsNat old 63 60
  let tb := if ctxTypes.contains (bitsNat w 59 56) then bitsNat w 59 56 else bitsNat old 59 56
  field64 ta 60 ||| field64 tb 56 ||| field64 (bitsNat w 55 54) 54 ||| field64 (bitsNat old 53 0) 0

/-- NA or NB as a later MFMT of the strand has it: an earlier MLUT that is still to complete leaves it so (R151, R160, R161). -/
def MatOp.refit (o : MatOp) (u : Nat) (w : Word64) : MatOp :=
  match o.kind with
  | .mlut b _ img => if o.uid = u then { o with kind := .mlut b (bitAt w (if b then 54 else 55)) img } else o
  | _ => o

/-- MFMT (R160). -/
def mfmtBody (a : BitVec 5) : Strand → State → Res := tarnBody .plain fun t _ s =>
  let c := s.core t.core
  let q := quadOf t.core
  let x := s.quad q
  let s := s.putQuad q { x with ops := x.ops.map fun o => o.refit s.cur (t.g a) }
  .done (s.putCore t.core { c with tblsel := formatWrite c.tblsel (t.g a) })

/-- The entries of an MLUT image (R161). -/
def lutEntries (bs : List Byte) (n : Nat) : List (BitVec 19) :=
  (List.range n).map fun i => BitVec.ofNat 19 (leNat ((bs.drop (4 * i)).take 4))

/-- Whether an unfinished copy of a core converts through one of its tables (R205). -/
def Quad.copyUses (x : Quad) (core : Nat) (tableB : Bool) : Bool := x.copies.any fun c =>
  let xf := bitsNat ((c.rec_[6]?).getD 0#64) 6 4
  (c.st = .queued || c.st = .running) && c.core == core && 1 ≤ xf && xf ≤ 3 && bitAt ((c.rec_[7]?).getD 0#64) 7 == tableB

/-- MLUT (R161): the image is read at acceptance; the table changes when it completes. -/
def mlutBody (tableB nibble : Bool) (a : BitVec 5) : Strand → State → Res := tarnBody .plain fun t x s =>
  let z := if nibble then 64 else 1024
  if x.copyUses t.core tableB then .hold s
  else
  match regionRead (t.g a) z 64 t s with
  | .error r => r
  | .ok (s, bs) => .done (s.accept t (.mlut tableB nibble (lutEntries bs (z / 4))) [] none none none 0 0)

/-- A name as MZERO defines it (R162). -/
def Name.zeroed (m : Name) : Name := { m with data := List.replicate 4096 0#8, poison := m.poison.filter (256 ≤ ·) }

/-- MZERO (R162). -/
def mzeroBody (a : BitVec 5) : Strand → State → Res := fun t s =>
  let n := nameField (t.g a) 3
  writeName n (fun m t s =>
    if tagT m.tag ≠ 10 then .trap 0x23 (nameTval n) else .done (s.acceptDefinition t .mzero n m.zeroed)) t s

/-- The cycles that a product occupies (R165). -/
def occupancy (ta tb k : Nat) : Nat :=
  if ta = 13 && tb = 13 then ceilDiv k 4 else if 11 ≤ ta then ceilDiv k 2 else k

/-- The allowance units of a product (R294). -/
def productCost (ta tb k : Nat) : Nat := (if ta = 13 && tb = 13 then 8 else 4) * occupancy ta tb k

/-- Draws allowance units, or says that the request owes them: it is held, and keeps its turn (R295). -/
def State.charge (s : State) (t : Strand) (cost : Nat) : State × Nat :=
  let q := quadOf t.core
  let x := (s.quad q).refill s.cyc
  if cost ≤ x.level.toNat then (s.putQuad q { x with level := BitVec.ofNat 32 (x.level.toNat - cost) }, 0) else (s.putQuad q x, cost)

/-- Accepts a request of the matrix datapath (R13, R150, R295): a held one waits in the unit, and its strand goes on (R297). -/
def State.acceptData (s : State) (t : Strand) (kind : MatKind) (reads : List Nat) (dest : Nat) (aOp bOp : Option Operand)
    (cost occ : Nat) : State :=
  (s.charge t cost).1.accept t kind reads (some dest) aOp bOp (s.charge t cost).2 occ

/-- Step 1 of R163: N3 by R155, then N2 ≠ N3. -/
def Quad.checkOut (x : Quad) (t : Strand) (u n3 : Nat) (cin : Option Nat) : Except (Nat × Word64) Bool :=
  match x.checkDest t u n3 with
  | .error e => .error e
  | .ok p => if cin = some n3 then .error (0x22, nameTval n3) else .ok p

/-- Whether a tag is that of an FP32 accumulator of 32 by 32 in rows (R163 steps 2 and 7). -/
def isAcc (g : BitVec 29) : Bool := tagT g = 10 && tagRows g = 31 && tagCols g = 31 && tagO g = 0

/-- Steps 4, 6 and 8 of R163 for A, 5, 6 and 8 for B, 7 for Cin, in the order of the table; absent operands are not
checked. DESIGN CHOICE (notes/assumptions/92.md): of an MMAX, whose B is no name, a failure of B has g[a][15:8] as its TVAL, and one
of step 6 without an A of its own has 0. -/
def productChecks (ta tb : Nat) (a : Option (BitVec 29 × Nat)) (b : BitVec 29) (n1 : Nat) (cin : Option (BitVec 29 × Nat)) :
    Option (Nat × Word64) :=
  let k := tagCols b + 1
  let n0 := (a.map (·.2)).getD 0
  let bad4 := match a with
    | some (g, _) => !(tagT g = ta && tagRows g = 31 && tagO g = 0)
    | none => false
  let colsA := match a with
    | some (g, _) => tagCols g
    | none => tagCols b
  let few (g : BitVec 29) : Bool := if tagNsc g = 0 then !(tagT g = 8 || tagT g = 9) else tagNsc g < 32 * ceilDiv k 32
  if bad4 then some (0x23, nameTval n0)
  else if !(tagT b = tb && tagRows b = 31 && tagO b = 1 && tagCols b = colsA) then some (0x23, nameTval n1)
  else if !((ta ≤ 9 && tb ≤ 9 && k ≤ 64) || (11 ≤ ta && 11 ≤ tb && k ≤ 128)) then some (0x23, nameTval n0)
  else
    match cin with
    | some (g, n2) => if !isAcc g then some (0x23, nameTval n2) else scales few n0
    | none => scales few n0
where
  /-- Step 8 of R163. -/
  scales (few : BitVec 29 → Bool) (n0 : Nat) : Option (Nat × Word64) :=
    match a with
    | some (g, _) => if few g then some (0x24, nameTval n0) else if few b then some (0x24, nameTval n1) else none
    | none => if few b then some (0x24, nameTval n1) else none

/-- Whether an operand type reads a table that an MLUT is loading (R161). -/
def State.typeBusy (s : State) (core ty : Nat) : Bool := 11 ≤ ty && s.mlutBusy core (ty = 12)

/-- MMA (R163). -/
def mmaBody (nc : Bool) (a : BitVec 5) : Strand → State → Res := tarnBody .datapath fun t x s =>
  let g := t.g a
  let n0 := nameField g 0
  let n1 := nameField g 1
  let n2 := nameField g 2
  let n3 := nameField g 3
  let cin := if nc then none else some n2
  let reads := [n0, n1] ++ cin.toList
  let c := s.core t.core
  let ta := bitsNat c.tblsel 63 60
  let tb := bitsNat c.tblsel 59 56
  match x.checkOut t s.cur n3 cin with
  | .error (e, v) => .trap e v
  | .ok true => .hold (s.parkMe t (.names [n3]))
  | .ok false =>
    if !isAcc (x.name n3).tag then .trap 0x23 (nameTval n3)
    else
      match x.checkReads reads with
      | .error (e, v) => .trap e v
      | .ok [] =>
        let ga := (x.name n0).tag
        let gb := (x.name n1).tag
        match productChecks ta tb (some (ga, n0)) gb n1 (cin.map fun n => ((x.name n).tag, n)) with
        | some (e, v) => .trap e v
        | none =>
          match reads.find? fun n => (x.name n).bad with
          | some n => .trap 0x0B (nameTval n)
          | none =>
            if x.defines s.cur n3 || s.typeBusy t.core ta || s.typeBusy t.core tb then .hold s
            else .done (s.acceptData t (.mma cin) reads n3 none none (productCost ta tb (tagCols ga + 1)) (occupancy ta tb (tagCols ga + 1)))
      | .ok ns => .hold (s.parkMe t (.names ns))

/-- The operand a name holds. -/
def Name.operand (x : Name) : Operand := ⟨x.tag, x.data, x.side⟩

/-- The key of an offset of a quad's B-operand region (R223). -/
def regionKey (q off : Nat) : Nat := memRegion + q * 2 ^ 22 + off

/-- The bytes of a quad's B-operand region: 256 KiB for each way (R223). -/
def Quad.regionSize (x : Quad) : Nat := 262144 * ((List.range 14).filter fun i => x.bway.getLsbD i).length

/-- Whether an MMAX of another strand is outstanding in a quad: issued and not yet accepted, or accepted (R168). -/
def Quad.mmaxOther (x : Quad) (u : Nat) : Bool :=
  (x.mmaxBy.isSome && x.mmaxBy ≠ some u) || x.ops.any fun o => match o.kind with
    | .mmax _ _ => true
    | _ => false

/-- The request of an MMAX (R168): a second one of the quad waits until the first completes; the first, from its issue on,
holds the quad's place. -/
def oneMmax (f : Strand → State → Res) : Strand → State → Res := fun t s =>
  let q := quadOf t.core
  if (s.quad q).mmaxOther s.cur then .hold s
  else f t (s.putQuad q { s.quad q with mmaxBy := some s.cur })

/-- MMAX (R166 to R168). DESIGN CHOICE (notes/assumptions/92.md): a poisoned image of B traps 0x0B with g[b]; the place and alignment
of that image are checked after step 3 of R163 and before step 4; the stream taken is the first of the origin and the job, and one
whose W, type or K does not match traps and is consumed. -/
def mmaxBody (nc : Bool) (a b : BitVec 5) : Strand → State → Res := oneMmax (tarnBody .datapath fun t x s =>
  let g := t.g a
  let q := quadOf t.core
  let py := bitsNat g 45 43
  let px := bitsNat g 42 40
  let h := bitsNat g 37 35 + 1
  let w := bitsNat g 34 32 + 1
  let qx := q % 16
  let qy := q / 16 % 16
  let n0 := nameField g 0
  let n1 := nameField g 1
  let n2 := nameField g 2
  let n3 := nameField g 3
  let cin := if nc then none else some n2
  let c := s.core t.core
  let ta := bitsNat c.tblsel 63 60
  let tb := bitsNat c.tblsel 59 56
  let origin := q - px - 16 * py
  let rect := (List.range h).flatMap fun dy => (List.range w).map fun dx => origin + 16 * dy + dx
  let off := bitsNat (t.g b) 31 0
  let reads := (if px = 0 then [n0] else []) ++ cin.toList
  if w ≤ px || h ≤ py || qx < px || qy < py || 16 < qx - px + w || 16 < qy - py + h then .trap 0x23 g
  else if rect.any (fun r => !s.coreIn t.vf (4 * r)) then .trap 0x09 g
  else
    match x.checkOut t s.cur n3 cin with
    | .error (e, v) => .trap e v
    | .ok true => .hold (s.parkMe t (.names [n3]))
    | .ok false =>
      if !isAcc (x.name n3).tag then .trap 0x23 (nameTval n3)
      else
        match x.checkReads reads with
        | .error (e, v) => .trap e v
        | .ok [] =>
          if x.bvf ≠ t.vf || x.regionSize < off + 4672 then .trap 0x09 (t.g b)
          else if off % 64 ≠ 0 then .trap 0x03 (t.g b)
          else
            let bs := Memory.bytes s.mem (regionKey q off) 4672
            let gb : BitVec 29 := BitVec.ofNat 29 (leNat (bs.take 8) / 2 ^ 35)
            let ob : Operand := ⟨gb, (bs.drop 64).take 4096, bs.drop 4160⟩
            let na := if px = 0 then some ((x.name n0).tag, n0) else none
            match productChecks ta tb na gb n1 (cin.map fun n => ((x.name n).tag, n)) with
            | some (e, v) => .trap e v
            | none =>
              match reads.find? fun n => (x.name n).bad with
              | some n => .trap 0x0B (nameTval n)
              | none =>
                if s.poisoned (regionKey q off) 4672 then .trap 0x0B (t.g b)
                else if x.defines s.cur n3 || s.typeBusy t.core ta || s.typeBusy t.core tb then .hold s
                else
                  let mine := x.streams.find? fun m => m.arrived && m.origin == origin && m.job == t.birthJob
                  let take : Option (Option Stream) := if px = 0 then some none else mine.map some
                  match take with
                  | none => .hold (s.parkMe t .stream)
                  | some st =>
                    let s := match st with
                      | some m => s.putQuad q { x with streams := x.streams.filter (· ≠ m) }
                      | none => s
                    let bad := match st with
                      | some m => m.w ≠ w || tagT m.a.tag ≠ ta || tagCols m.a.tag ≠ tagCols gb
                      | none => false
                    if bad then .trapIn s 0x23 0x100#64
                    else
                      let oa := match st with
                        | some m => m.a
                        | none => (x.name n0).operand
                      let east := px + 1 < w
                      let s := s.acceptData t (.mmax cin east) reads n3 (some oa) (some ob) (productCost ta tb (tagCols gb + 1))
                        (occupancy ta tb (tagCols gb + 1))
                      let fwd : Stream := ⟨t.birthJob, origin, w, oa, false⟩
                      .done (if east then s.putQuad (q + 1) { s.quad (q + 1) with streams := (s.quad (q + 1)).streams ++ [fwd] }
                        else s)
        | .ok ns => .hold (s.parkMe t (.names ns)))

/-- MTRN (R169). DESIGN CHOICE (notes/assumptions/92.md): poison of N2 is the last check. -/
def mtrnBody (a : BitVec 5) : Strand → State → Res := tarnBody .datapath fun t x s =>
  let n2 := nameField (t.g a) 2
  let n3 := nameField (t.g a) 3
  match x.checkDest t s.cur n3 with
  | .error (e, v) => .trap e v
  | .ok true => .hold (s.parkMe t (.names [n3]))
  | .ok false =>
    match x.checkReads [n2] with
    | .error (e, v) => .trap e v
    | .ok [] =>
      let gs := (x.name n2).tag
      let gd := (x.name n3).tag
      if !(tagT gd = tagT gs && tagRows gd = tagCols gs && tagCols gd = tagRows gs && tagO gd = 1 - tagO gs) || 31 < tagCols gs then
        .trap 0x23 (nameTval n3)
      else if tagNsc gs ≠ 0 then .trap 0x24 (nameTval n2)
      else if tagNsc gd ≠ 0 then .trap 0x24 (nameTval n3)
      else if (x.name n2).bad then .trap 0x0B (nameTval n2)
      else if x.defines s.cur n3 then .hold s
      else .done (s.acceptData t .mtrn [n2] n3 none none 32 32)
    | .ok ns => .hold (s.parkMe t (.names ns))

/-- The floating type that a tag's type code names (R170). -/
def floatOf (ty : Nat) : EType := if ty = 8 then .bf16 else if ty = 9 then .f16 else .f32

/-- Scale(s) of a sidecar entry (R54, R238). -/
def scaleVal (side : List Byte) (i : Nat) : Val := fBF16.value (leNat ((side.drop (2 * i)).take 2))

/-- The exact quotient of R170 and its flags (R235): a quotient by a zero of either sign is an infinity of the sign of x. DESIGN CHOICE
(notes/assumptions/95.md): it raises DZ. -/
def Val.div (x y : Val) : Val × BitVec 5 :=
  match x, y with
  | .nan _, _ | _, .nan _ => (.nan false, x.snanFlag ||| y.snanFlag)
  | .inf _, .inf _ => (.nan false, flNV)
  | .inf s, .fin r m _ => (.inf (if m = 0 then s else s != r), 0#5)
  | .fin s _ _, .inf r => (.fin (s != r) 0 1, 0#5)
  | .fin s n d, .fin r m e =>
    if m = 0 then (if n = 0 then (.nan false, flNV) else (.inf s, flDZ)) else (.fin (s != r) (n * e) (d * m), 0#5)

/-- The table that an encoding to a type uses (R170). -/
def Ctx.table (c : Ctx) (ty : Nat) : Table :=
  if ty = 12 then ⟨c.tabB, bitAt c.tblsel 54⟩ else if ty = 13 then ⟨c.tabA, true⟩ else ⟨c.tabA, bitAt c.tblsel 55⟩

/-- One element of MCVT (R170); none is a NaN that meets a table with no NaN code. -/
def mcvtElem (c : Ctx) (src dst : Operand) (i j : Nat) : Option (Nat × BitVec 5) :=
  let nb := tagBlocks src.tag
  let v := (fmtOf (floatOf (tagT src.tag))).value (nameElem (tagT src.tag) src.data i j)
  let (x, f1) := if tagNsc src.tag = 0 then (v, v.snanFlag) else v.mul (scaleVal src.side (i * nb + j / 32))
  let (y, f2) := if tagNsc dst.tag = 0 then (x, 0#5) else x.div (scaleVal dst.side (i * nb + j / 32))
  let f := f1 ||| f2
  if tagT dst.tag ≤ 10 then
    let (p, g) := (fmtOf (floatOf (tagT dst.tag))).round 0 y
    some (p, f ||| g)
  else ((c.table (tagT dst.tag)).encode y).map fun r => (r.1, f ||| r.2)

/-- All elements of MCVT, row by row. -/
def mcvtAll (c : Ctx) (src dst : Operand) : List (Option (Nat × BitVec 5)) :=
  (List.range (tagRows src.tag + 1)).flatMap fun i =>
    (List.range (tagCols src.tag + 1)).map fun j => mcvtElem c src dst i j

/-- MCVT (R170). DESIGN CHOICE (notes/assumptions/92.md): poison of N2 is the last check. -/
def mcvtBody (a : BitVec 5) : Strand → State → Res := tarnBody .datapath fun t x s =>
  let n2 := nameField (t.g a) 2
  let n3 := nameField (t.g a) 3
  match x.checkDest t s.cur n3 with
  | .error (e, v) => .trap e v
  | .ok true => .hold (s.parkMe t (.names [n3]))
  | .ok false =>
    match x.checkReads [n2] with
    | .error (e, v) => .trap e v
    | .ok [] =>
      let gs := (x.name n2).tag
      let gd := (x.name n3).tag
      let need := (tagRows gs + 1) * tagBlocks gs
      if !(8 ≤ tagT gs && tagT gs ≤ 10) then .trap 0x23 (nameTval n2)
      else if !(8 ≤ tagT gd && tagT gd ≤ 13 && tagRows gd = tagRows gs && tagCols gd = tagCols gs && tagO gd = tagO gs) then
        .trap 0x23 (nameTval n3)
      else if 0 < tagNsc gs && tagNsc gs < need then .trap 0x24 (nameTval n2)
      else if 0 < tagNsc gd && tagNsc gd < need then .trap 0x24 (nameTval n3)
      else if (x.name n2).bad then .trap 0x0B (nameTval n2)
      else if x.defines s.cur n3 || s.typeBusy t.core (tagT gd) then .hold s
      else if (mcvtAll ((s.core t.core).ctx t) (x.name n2).operand (x.name n3).operand).any Option.isNone then
        .trap 0x23 (nameTval n2)
      else .done (s.acceptData t .mcvt [n2] n3 none none 32 32)
    | .ok ns => .hold (s.parkMe t (.names ns))

/-- Val(X, row, k) of R164: E8M10 of a floating element, the table's value of a code. -/
def operandVal (c : Ctx) (o : Operand) (row k : Nat) : Val :=
  let ty := tagT o.tag
  let e := nameElem ty o.data row k
  if ty ≤ 9 then fE8M10.value (toE8M10 ((fmtOf (floatOf ty)).value e)) else (c.table ty).decode e

/-- Sa and Sb of R164. -/
def operandScale (o : Operand) (row b nb : Nat) : Val :=
  if tagNsc o.tag = 0 then .fin false 1 1 else scaleVal o.side (row * nb + b)

/-- One exact block sum of R164, scaled (R238); the flag says that a NaN came up. -/
def blockSum (c : Ctx) (a b : Operand) (i j k blk nb : Nat) : Val :=
  let sc := ((operandScale a i blk nb).mul (operandScale b j blk nb)).1
  (List.range (min 32 (k - 32 * blk))).foldl (fun (acc : Val) d =>
    let p := ((operandVal c a i (32 * blk + d)).mul (operandVal c b j (32 * blk + d))).1
    (acc.add 0 (p.mul sc).1).1) (.fin false 0 1)

/-- One element of a product (R164): one rounding for each block, in ascending k. -/
def productElem (c : Ctx) (a b : Operand) (cin : Option (List Byte)) (i j : Nat) : Nat × BitVec 5 :=
  let k := tagCols a.tag + 1
  let nb := (k + 31) / 32
  let start := match cin with
    | some d => nameElem 10 d i j
    | none => 0
  (List.range nb).foldl (fun (acc : Nat × BitVec 5) blk =>
    let s := blockSum c a b i j k blk nb
    let s := match s with
      | .fin _ 0 _ => .fin false 0 1
      | s => s
    let x := ((fF32.value acc.1).add 0 s).1
    let (p, f) := fF32.round 0 x
    (p, acc.2 ||| f ||| (if x.isNan then flNV else 0#5))) (start, 0#5)

/-- The data and the flags of a product (R164). -/
def product (c : Ctx) (a b : Operand) (cin : Option (List Byte)) : List Byte × BitVec 5 :=
  let es := (List.range 32).flatMap fun i => (List.range 32).map fun j => productElem c a b cin i j
  (es.flatMap (fun e => leBytes 4 e.1), es.foldl (fun f e => f ||| e.2) 0#5)

/-- The flags of a strand (R64). -/
def Strand.orFlags (t : Strand) (f : BitVec 5) : Strand :=
  { t with sys := { t.sys with fflags := t.sys.fflags ||| f.setWidth 64 } }

/-- What a computing instruction writes into its destination name when it completes, and its flags. -/
def MatOp.result (o : MatOp) (x : Quad) (m : Name) : List Byte × BitVec 5 :=
  let cinOf (c : Option Nat) : Option (List Byte) := c.map fun n => (x.name n).data
  match o.kind, o.reads with
  | .mma c, n0 :: n1 :: _ => product o.ctx (x.name n0).operand (x.name n1).operand (cinOf c)
  | .mmax c _, _ =>
    match o.aOp, o.bOp with
    | some a, some b => product o.ctx a b (cinOf c)
    | _, _ => (m.data, 0#5)
  | .mtrn, n2 :: _ => (buildData m.tag fun i j => nameElem (tagT m.tag) (x.name n2).data j i, 0#5)
  | .mcvt, n2 :: _ =>
    let rs := mcvtAll o.ctx (x.name n2).operand m.operand
    let w := tagCols m.tag + 1
    (buildData m.tag fun i j => (((rs[w * i + j]?).getD none).map (·.1)).getD 0,
     rs.foldl (fun f r => f ||| (r.map (·.2)).getD 0#5) 0#5)
  | _, _ => (m.data, 0#5)

/-- The table that a completed MLUT leaves (R161). -/
def Core.loadTable (c : Core) (tableB nibble : Bool) (image : List (BitVec 19)) : Core :=
  let old := if tableB then c.tabB else c.tabA
  let new := image ++ old.drop image.length
  let bit := if tableB then 54 else 55
  let sh := if tableB then 16 else 32
  let cnt := (bitsNat c.tblsel (sh + 15) sh + 1) % 65536
  let sel := (c.tblsel &&& ~~~(field64 1 bit ||| field64 65535 sh)) ||| field64 (if nibble then 1 else 0) bit ||| field64 cnt sh
  if tableB then { c with tabB := new, tblsel := sel } else { c with tabA := new, tblsel := sel }

/-- The oldest accepted instruction of a strand in its quad (R151). -/
def Quad.oldest (x : Quad) (u : Nat) : Option MatOp := x.ops.find? fun o => o.uid == u

/-- Removes the first occurrence of an accepted instruction. -/
def dropOp (o : MatOp) : List MatOp → List MatOp
  | [] => []
  | p :: r => if p = o then r else p :: dropOp o r

/-- A name as an instruction's completion leaves it before it is sealed, and the flags (R151, R156, R162, R164). -/
def MatOp.definition (o : MatOp) (x : Quad) (m : Name) : Name × BitVec 5 :=
  match o.kind with
  | .seal => (m, 0#5)
  | .mzero => (m.zeroed, 0#5)
  | _ => let (d, f) := o.result x m
    ({ m with data := d, poison := m.poison.filter (256 ≤ ·) }, f)

/-- Whether the stores that a strand issued before it are performed, for an instruction that defines a name, which is a release to
the quad (R55, R266, R269). -/
def State.released (s : State) (o : MatOp) : Bool :=
  o.dest.isNone || (s.strand? o.uid).all fun t => t.buf.all fun e => o.stamp ≤ e.stamp

/-- Whether an accepted instruction can complete now: it is not held for energy (R295); its strand's earlier stores are performed;
TST's bytes have been performed (R157); an MMAX that forwards has sent its stream on (R168). -/
def State.canComplete (s : State) (q : Nat) (o : MatOp) : Bool :=
  o.owes = 0 && s.released o && match o.kind with
  | .tst va _ =>
    match s.strand? o.uid with
    | some t => !t.buf.any fun e => e.va == va && 8 ≤ e.segs.length
    | none => true
  | .mmax _ east =>
    let st := (s.quad (q + 1)).streams
    !(east && st.any (fun m => m.arrived) && st.any (fun m => !m.arrived))
  | _ => true

/-- The oldest accepted instruction of a strand completes (R151, R158, R164). -/
def State.completeOp (s : State) (u : Nat) (t : Strand) : State :=
  let q := quadOf t.core
  let x := s.quad q
  match x.oldest u with
  | none => s
  | some o =>
    if !s.canComplete q o then s
    else
      let s := s.putQuad q { x with ops := dropOp o x.ops }
      match o.kind with
      | .tget vm h =>
        let m := x.name (o.reads.headD 0)
        let bs := if h < 64 then (m.data.drop (64 * h)).take 64 else (m.side.drop (64 * (h - 64))).take 64
        s.putStrand u (t.setV (BitVec.ofNat 5 vm) (bytesLine bs))
      | .tst _ _ => s
      | .mlut b nib img => s.putCore t.core ((s.core t.core).loadTable b nib img)
      | _ =>
        match o.dest with
        | none => s
        | some n =>
          let m := x.name n
          if m.st = .declared && m.decl = o.decl then
            let (m', f) := o.definition x m
            (s.putStrand u (t.orFlags f)).define q n m'
          else s

end Sys2Proof.Machine
end

