-- ==== Sys2Proof/Machine/Copying.lean ====
section
/-!
DEFINITION. The copy engine (spec/10_ref_system.md R203 to R215; R267, R268): layout records, their checks, the promise, the
run of a copy element by element, its end, waiting and polling.
-/
namespace Sys2Proof.Machine

/-- A layout record as CPYSTART reads it (R203). -/
structure Layout where
  src : Word64
  dst : Word64
  rows : Nat
  cols : Nat
  sstr : Nat
  dstr : Nat
  es : Nat
  ed : Nat
  xf : Nat
  sl : Bool
  dl : Bool
  fz : Bool
  gv : Bool
  grp : Nat
  tb : Bool
  br : Bool

/-- The layout of eight record words (R203). -/
def layoutOf (ws : List Word64) : Layout :=
  let w (k : Nat) : Word64 := (ws[k]?).getD 0#64
  { src := w 0, dst := w 1, rows := (w 2).toNat, cols := (w 3).toNat, sstr := bitsNat (w 4) 31 0, dstr := bitsNat (w 5) 31 0,
    es := bitsNat (w 6) 1 0, ed := bitsNat (w 6) 3 2, xf := bitsNat (w 6) 6 4,
    sl := bitAt (w 7) 0, dl := bitAt (w 7) 1, fz := bitAt (w 7) 2, gv := bitAt (w 7) 3, grp := bitsNat (w 7) 6 4,
    tb := bitAt (w 7) 7, br := bitAt (w 7) 8 }

/-- Whether ES, ED and XF agree (R204). -/
def formsAgree (l : Layout) : Bool :=
  match l.xf with
  | 0 | 4 => l.ed = l.es
  | 1 => l.es = 0 && l.ed = 1
  | 2 => l.es = 0 && l.ed = 2
  | 3 => l.es = 2 && l.ed = 0
  | 5 => l.es = 2 && l.ed = 2
  | _ => false

/-- Step 1 of R206: the first failing position. -/
def badPosition (ws : List Word64) : Option Nat :=
  let l := layoutOf ws
  let w (k : Nat) : Word64 := (ws[k]?).getD 0#64
  let size (n : Nat) : Bool := 1 ≤ n && n ≤ 65536
  if !size l.rows then some 2
  else if !size l.cols then some 3
  else if !l.sl && bitsNat (w 4) 63 32 ≠ 0 then some 4
  else if !l.dl && bitsNat (w 5) 63 32 ≠ 0 then some 5
  else if bitsNat (w 6) 63 7 ≠ 0 || !formsAgree l then some 6
  else if bitsNat (w 7) 63 9 ≠ 0 || (l.br && l.dl) then some 7
  else none

/-- The extent of the destination: swapped for a transpose (R205). -/
def Layout.dRows (l : Layout) : Nat := if l.xf = 4 then l.cols else l.rows
/-- The columns of the destination. -/
def Layout.dCols (l : Layout) : Nat := if l.xf = 4 then l.rows else l.cols

/-- The bytes from the base to the end of a row-major footprint (R205). -/
def span (rows cols stride z : Nat) : Nat := (rows - 1) * stride + cols * 2 ^ z

/-- The base of a destination in a B-operand region (R204). -/
def Layout.regionOff (l : Layout) : Nat := bitsNat l.dst 31 0
/-- The quad of the package whose region a locator names: it lies on the issuing strand's die (R204). -/
def Layout.regionQuad (l : Layout) (die : Nat) : Nat := 256 * die + bitsNat l.dst 47 40

/-- The base address of a row-major destination. -/
def Layout.dBase (l : Layout) : Nat := if l.br then l.regionOff else l.dst.toNat

/-- The address of source element (i, j) (R205). -/
def Layout.srcAddr (l : Layout) (i j : Nat) : Nat :=
  if l.sl then refAddr l.src + morton i j * 2 ^ l.es else l.src.toNat + i * l.sstr + j * 2 ^ l.es

/-- The number of destination elements in ascending address order: every element of the extent of a row-major destination,
every offset of the block of one in curve order. -/
def Layout.count (l : Layout) : Nat := if l.dl then 4 ^ refL l.dst else l.dRows * l.dCols

/-- Destination element m in ascending address order: its row and column, its address (R205, R209). -/
def Layout.dstElem (l : Layout) (m : Nat) : Nat × Nat × Nat :=
  if l.dl then (mortonRow m, mortonCol m, refAddr l.dst + m * 2 ^ l.ed)
  else
    let i := m / l.dCols
    let j := m % l.dCols
    (i, j, l.dBase + i * l.dstr + j * 2 ^ l.ed)

/-- The source element that destination element (i, j) takes; none is fringe (R205). -/
def Layout.source (l : Layout) (i j : Nat) : Option (Nat × Nat) :=
  if i < l.dRows && j < l.dCols then some (if l.xf = 4 then (j, i) else (i, j)) else none

/-- The touched addresses of the source, each of one element. -/
def Layout.srcTouched (l : Layout) : List Nat :=
  (List.range l.rows).flatMap fun i => (List.range l.cols).map fun j => l.srcAddr i j

/-- The touched addresses of the destination, each of one element (R205). -/
def Layout.dstTouched (l : Layout) : List Nat :=
  (List.range l.count).filterMap fun m =>
    let (i, j, a) := l.dstElem m
    if (l.source i j).isSome || l.fz then some a else none

/-- Steps 2 and 3 of R206 for one memory side. -/
def sideCheck (w : Word64) (curve : Bool) (rows cols stride z k : Nat) : Option (Nat × Word64) :=
  if curve then
    match refCheck w with
    | some e => some e
    | none => if 2 ^ refL w < rows || 2 ^ refL w < cols || refE w ≠ z then some (0x31, BitVec.ofNat 64 k) else none
  else
    match eaCheck w 0 (span rows cols stride z) with
    | .error e => some e
    | .ok _ => none

/-- Step 4 of R206 for one row-major side. -/
def strideCheck (base : Nat) (w : Word64) (rows cols stride z k : Nat) : Option (Nat × Word64) :=
  if base % 2 ^ z ≠ 0 then some (0x03, w)
  else if stride % 2 ^ z ≠ 0 || (1 < rows && stride < cols * 2 ^ z) then some (0x31, BitVec.ofNat 64 k)
  else none

/-- The region part of step 3 of R206: the region exists, is the function's, and holds the footprint (R204, R223). DESIGN CHOICE
(notes/assumptions/102.md): a locator with another bit set fails it too. -/
def State.regionCheck (s : State) (t : Strand) (l : Layout) : Bool :=
  let x := s.quad (l.regionQuad (dieOf t.core))
  bitsNat l.dst 63 48 = 0 && bitsNat l.dst 39 32 = 0 && x.bvf = t.vf &&
    l.regionOff + span l.dRows l.dCols l.dstr l.ed ≤ x.regionSize

/-- The checks of R206, in order. DESIGN CHOICE (notes/assumptions/102.md): the base that step 4 reports of a region is the whole
locator. -/
def State.copyChecks (s : State) (t : Strand) (ws : List Word64) : Option (Nat × Word64) :=
  match badPosition ws with
  | some k => some (0x31, BitVec.ofNat 64 k)
  | none =>
    let l := layoutOf ws
    let dside := if l.br then (if s.regionCheck t l then none else some (0x09, l.dst))
      else sideCheck l.dst l.dl l.dRows l.dCols l.dstr l.ed 1
    let sstr := if l.sl then none else strideCheck l.src.toNat l.src l.rows l.cols l.sstr l.es 4
    let dstr := if l.dl then none else strideCheck l.dBase l.dst l.dRows l.dCols l.dstr l.ed 5
    match (sideCheck l.src l.sl l.rows l.cols l.sstr l.es 0 <|> dside) <|> (sstr <|> dstr) with
    | some e => some e
    | none =>
      let dst := if l.br then [] else l.dstTouched
      let refused := l.srcTouched.filterMap (fun a => weirRefuses t.weirs a (2 ^ l.es) 2) ++
        dst.filterMap (fun a => weirRefuses t.weirs a (2 ^ l.ed) 3)
      match refused with
      | b :: r => some (0x08, BitVec.ofNat 64 (r.foldl min b))
      | [] =>
        let off := (l.srcTouched ++ dst).filter fun a => inAperture a && !s.coreIn t.vf (apertureCore (dieOf t.core) a)
        match off with
        | b :: r => some (0x09, BitVec.ofNat 64 (r.foldl min b))
        | [] => none

/-- D of R208 for one address: a valid line of the quad's bed column, else the place that the translations give, without changing
anything. -/
def State.promiseD (s : State) (t : Strand) (a : Nat) : Nat :=
  let x := (s.quad (quadOf t.core)).wakeBank (a / 64)
  if inAperture a then (if apertureCore (dieOf t.core) a = t.core then 16 else 200)
  else if x.bed.any fun l => l.vf == t.vf && l.vline == a / 64 && (l.host || l.stamp == x.gen.toNat) then 16
  else
    match walk s t.vf (t.mode = 2) (a / 65536 * 65536) with
    | .ok (.loc pa) _ _ _ _ _ => if dieOfPa pa = dieOf t.core then 200 else 400
    | .ok (.peer _ _) _ _ _ _ _ => 3000
    | .ok (.host _) _ _ _ _ _ => 3000
    | _ => Config.promiseDelay s.tick

/-- Promise(record) of R208. DESIGN CHOICE (notes/assumptions/102.md): D is 200 for the B-operand region of another quad. -/
def State.promise (s : State) (t : Strand) (l : Layout) : Nat :=
  let q := s.quad (quadOf t.core)
  let last := ((q.copies.filter fun c => c.st = .queued || c.st = .running).getLast?.map Copy.promise).getD 0
  let rd := l.rows * l.cols * 2 ^ l.es
  let wr := if l.dl && l.fz then blockBytes l.dst else l.rows * l.cols * 2 ^ l.ed
  let dst := if l.br then (if l.regionQuad (dieOf t.core) = quadOf t.core then 16 else 200)
    else l.dstTouched.foldl (fun d a => max d (s.promiseD t a)) 0
  let d := l.srcTouched.foldl (fun d a => max d (s.promiseD t a)) dst
  max s.cyc last + d + ceilDiv (max rd wr) 64

/-- An unfinished copy. -/
def Copy.live (c : Copy) : Bool := c.st = .queued || c.st = .running

/-- The copies whose status a quad holds: the 64 issued last (R211), the oldest first. -/
def Quad.held (x : Quad) : List Copy := (x.copies.reverse.take 64).reverse

/-- The quad with a new copy: an older one than the 64 issued last stays only while it is unfinished (R207, R211); of the
others it is kept whether they wrote off the die (R268). -/
def Quad.addCopy (x : Quad) (c : Copy) : Quad :=
  let r := (x.copies ++ [c]).reverse
  let old := r.drop 64
  { x with copies := (r.take 64 ++ old.filter Copy.live).reverse,
           oldOff := x.oldOff.filter (· ≠ c.id) ++ (old.filter fun c => !c.live && c.offDie).map Copy.id }

/-- CPYSTART (R203, R206 to R208): the start is a release of the strand, so its earlier stores are performed first (R210).
DESIGN CHOICE (notes/assumptions/83.md): a register a outside 1 to 24 is a check of the entry. -/
def cpystartBody (a d : BitVec 5) : Strand → State → Res := fun t s =>
  if a = 0#5 || 24 < a.toNat then .trap 0x01 s.wordTval
  else
    let ws := (List.range 8).map fun k => t.gN (a.toNat + k)
    match s.copyChecks t ws with
    | some (c, v) => .trap c v
    | none =>
      let q := quadOf t.core
      let x := s.quad q
      if 16 ≤ (x.copies.filter Copy.live).length || !t.buf.isEmpty then .hold s
      else
        let l := layoutOf ws
        let p := s.promise t l
        let id := x.nextCopy
        let c : Copy := { id := id, rec_ := ws, promise := p, job := t.birthJob, vf := t.vf, mode := t.mode, core := t.core,
                          st := .queued, cause := 0, failAddr := 0, ev := false, late := false, lateReported := false,
                          cancel := false, next := 0, waits := [], waitAt := 0, offDie := false, saved := [] }
        let g := x.group l.grp
        let groups := if l.gv then FMap.set x.groups l.grp { g with pending := g.pending + 1 } else x.groups
        let x := { (x.addCopy c) with groups := groups, nextCopy := if id = 65535 then 1 else id + 1 }
        let s := (s.putQuad q x).wake fun _ t w => quadOf t.core == q && (match w with
          | .copy i => !x.held.any fun c => c.id == i
          | _ => false)
        .done (s.putMe ((t.setG d (BitVec.ofNat 64 p)).setGN (a.toNat + 7) (BitVec.ofNat 64 id)))

/-- Replaces a copy of a quad. -/
def State.putCopy (s : State) (q : Nat) (c : Copy) : State :=
  let x := s.quad q
  s.putQuad q { x with copies := x.copies.map fun y => if y.id = c.id then c else y }

/-- The end of a copy (R209, R210, R214): its state is final, its group's count falls, its waiters look again. -/
def State.finishCopy (s : State) (q : Nat) (c : Copy) (st : CopyState) : State :=
  let l := layoutOf c.rec_
  let s := s.putCopy q { c with st := st, late := c.late || c.promise ≤ s.cyc, saved := [] }
  let x := s.quad q
  let g := x.group l.grp
  let g := { g with pending := g.pending - 1, fail := g.fail || st = .failed, canc := g.canc || st = .cancelled,
                    off := g.off || c.offDie }
  let s := if l.gv then s.putQuad q { x with groups := FMap.set x.groups l.grp g } else s
  s.wake fun _ t w => quadOf t.core == q && (w == .copy c.id || w == .group l.grp)

/-- The bytes of a source element from before the copy: those it has overwritten as it saved them, the others as they are; and
whether it has overwritten none, or all (R205). -/
def oldBytes (m : List Host.Cell) (a : Nat) (now : List Byte) : List Byte × Bool × Bool :=
  let had := (List.range now.length).map fun i => FMap.get? m (a + i)
  ((now.zip had).map fun p => p.2.getD p.1, had.all Option.isNone, had.all Option.isSome)

/-- A pseudo strand for the engine's accesses: the copy's function and core, in its mode (R210). -/
def Copy.party (c : Copy) : Strand :=
  let t := Strand.newborn .task c.vf c.job c.core 0
  { t with slot := none, sys := { t.sys with status := field64 c.mode 6 } }

/-- What one element's step gives. -/
inductive ElemRes where
  | ok (s : State) (c : Copy)
  | wait (s : State) (req : PageWait) (va : Nat)
  | again (s : State)
  | fail (s : State) (cause addr : Nat)

/-- The transform of one element (R205): the destination bytes, and whether a NaN was encoded as code 0. -/
def transform (l : Layout) (tab : Table) (x : Nat) : List Byte × Bool :=
  match l.xf with
  | 1 => (leBytes 2 (fBF16.round 0 (tab.decode (x % 256))).1, false)
  | 2 => (leBytes 4 (fF32.round 0 (tab.decode (x % 256))).1, false)
  | 3 =>
    match tab.encode (fF32.value x) with
    | some (c, _) => (leBytes 1 c, false)
    | none => (leBytes 1 0, true)
  | _ => (leBytes (2 ^ l.ed) x, false)

/-- The source value of an element (R205, R209), as a read of the engine gives it (R210, R258): of one that the copy has overwritten whole, its value from before or the one
now there, which is not promised; of one overwritten in part, its value from before. DESIGN CHOICE (notes/assumptions/102.md): of several
refused pages the one met first, in the order of the destination, is reported. -/
def State.copySource (s : State) (c : Copy) (l : Layout) (i j m : Nat) : ElemRes ⊕ (State × Nat) :=
  let a := l.srcAddr i j
  let n := 2 ^ l.es
  match s.resolveFor 0 c.vf c.mode (dieOf c.core) a .read with
  | .wait s r => .inl (.wait s r a)
  | .host s _ => .inl (.again s)
  | .refused s => .inl (.fail s 0x09 a)
  | .ok s tg =>
    match s.biasRange tg n with
    | some w => .inl (.again (s.askHost w false))
    | none =>
    match s.partyRead (quadOf c.core) c.vf a tg n with
    | .ok s bs =>
      let (old, none_, all) := oldBytes c.saved a bs
      .inr (s, leNat (if none_ || (all && !Config.copyReadsOld s.tick m) then bs else old))
    | .wait s _ => .inl (.again s)
    | .lost => .inl (.fail (s.readLost c.party tg) 0x0B a)
    | .poison => .inl (.fail s 0x0B (s.poisonVa (quadOf c.core) c.vf a tg n))

/-- Whether a byte lies between the first and the last byte of a copy's source footprint. -/
def Layout.inSource (l : Layout) (a : Nat) : Bool :=
  if l.sl then refAddr l.src ≤ a && a < refAddr l.src + blockBytes l.src
  else l.src.toNat ≤ a && a < l.src.toNat + span l.rows l.cols l.sstr l.es

/-- Whether the copy writes an element at an address. -/
def Layout.writesAt (l : Layout) (b : Nat) : Bool :=
  if l.dl then
    let m := (b - refAddr l.dst) / 2 ^ l.ed
    refAddr l.dst ≤ b && m < l.count && (l.fz || (l.source (mortonRow m) (mortonCol m)).isSome)
  else
    let i := if l.dRows = 1 then 0 else (b - l.dBase) / l.dstr
    l.dBase ≤ b && i < l.dRows && (b - l.dBase - i * l.dstr) / 2 ^ l.ed < l.dCols

/-- Whether the copy writes the whole 64-byte line of an address (R387). -/
def Layout.wholeLine (l : Layout) (a : Nat) : Bool := (List.range (64 / 2 ^ l.ed)).all fun k => l.writesAt (a / 64 * 64 + k * 2 ^ l.ed)

/-- Whether the copy writes the whole granule of z bytes that an address lies in (R358). -/
def Layout.wholeGranule (l : Layout) (a z : Nat) : Bool := (List.range (z / 2 ^ l.ed)).all fun k => l.writesAt (a / z * z + k * 2 ^ l.ed)

/-- Whether the copy writes nothing of a granule of z bytes before an address in it. -/
def Layout.firstIn (l : Layout) (a z : Nat) : Bool := !(List.range (a % z / 2 ^ l.ed)).any fun k => l.writesAt (a / z * z + k * 2 ^ l.ed)

/-- The poison of the granule of an element that the copy writes at a key, bad as it stands (R115, R358): one that it writes whole is
clean once its last element is written; one that it writes in part stays, which is reported at its first element. -/
def State.copyPoison (s : State) (c : Copy) (l : Layout) (a key : Nat) (bad : Bool) (write : State → State) : State :=
  let z := granule key
  let whole := l.wholeGranule a z
  let s := write (s.notePoison c.party key (bad && !whole && l.firstIn a z))
  if whole && (a + 2 ^ l.ed) % z = 0 then s.clearPoison (key - a % z) z else s

/-- The engine writes an element at its place (R209, R387): a whole host line goes to the host, without a copy in any column. -/
def State.copyWrite (s : State) (q : Nat) (c : Copy) (l : Layout) (a : Nat) (tg : Target) (bs : List Byte) : State :=
  match tg with
  | .host h =>
    if l.wholeLine a && s.cacheUp then
      let line := h / 64 * 64
      let s := if a % 64 = 0 || !(s.hostCopies line 64).isEmpty then (s.hostFlush line 64).emit (.cacheReq (h / 64) "ItoMWr") else s
      s.putHome tg.key bs
    else s.partyWrite q c.vf a tg bs
  | t => s.partyWrite q c.vf a t bs

/-- The word that an FP32 accumulate-add leaves (R205): FAdd32 of the destination and the source word. -/
def accumulate (old bs : List Byte) : List Byte := leBytes 4 (fadd32 (BitVec.ofNat 32 (leNat old)) (BitVec.ofNat 32 (leNat bs))).toNat

/-- An element has been written: a NaN that was encoded as code 0 is reported with it (R205). -/
def State.copyNote (s : State) (c : Copy) (a : Nat) (ev : Bool) : State :=
  if ev then s.event (dieOf c.core) 0x08 0 c.job c.vf (4 * c.core) [BitVec.ofNat 64 a] else s

/-- A lost write of a copy is a lost store (R363): it is reported, and it may or may not have been performed. -/
def State.copyLost (s : State) (c : Copy) (a : Nat) (tg : Target) (put : State → State) : State :=
  (if Config.lostPerformed s.tick then put s else s).reportLost c.party a tg

/-- Writes one destination element (R205, R209, R271): add says that the word is added to the one there. -/
def State.copyDest (s : State) (q : Nat) (c : Copy) (l : Layout) (a : Nat) (bs : List Byte) (add ev : Bool) : ElemRes :=
  let c := { c with ev := c.ev || ev }
  let n := bs.length
  if l.br then
    let k := regionKey (l.regionQuad (dieOf c.core)) a
    if add && s.poisoned k n then .fail s 0x0B a
    else
      let new := if add then accumulate (Memory.bytes s.mem k n) bs else bs
      .ok ((s.copyPoison c l a k (s.poisoned k n) fun s => s.putHome k new).copyNote c a ev) c
  else
    match s.resolveFor 0 c.vf c.mode (dieOf c.core) a .write with
    | .wait s r => .wait s r a
    | .host s _ => .again s
    | .refused s => .fail s 0x09 a
    | .ok s tg =>
      match s.biasRange tg n with
      | some w => .again (s.askHost w true)
      | none =>
        let cut := s.cutOff q c.vf tg
        if add && cut then .fail (s.readLost c.party tg) 0x0B a
        else if add && s.accessPoison q c.vf a tg n then .fail s 0x0B (s.poisonVa q c.vf a tg n)
        else
          let old := s.homeRead c.vf a tg n
          let bs := if add then accumulate old bs else bs
          let saved := (List.range n).foldl (fun m i =>
            if l.inSource (a + i) && (FMap.get? m (a + i)).isNone then FMap.set m (a + i) ((old[i]?).getD 0#8) else m) c.saved
          let off := match tg with
            | .loc pa => dieOfPa pa ≠ dieOf c.core
            | .peer _ _ => true
            | .host _ => true
            | _ => false
          let c := { c with saved := saved, offDie := c.offDie || off }
          let bad := s.homePoison q c.vf a tg n true
          let put (s : State) : State :=
            if tg = .dry then s.copyWrite q c l a tg bs else s.copyPoison c l a tg.key bad fun s => s.copyWrite q c l a tg bs
          .ok (if cut then s.copyLost c a tg put else (put s).copyNote c a ev) c

/-- One destination element of a copy. -/
def State.copyElem (s : State) (q : Nat) (c : Copy) (l : Layout) (m : Nat) : ElemRes :=
  let (i, j, a) := l.dstElem m
  match l.source i j with
  | none => if l.fz then s.copyDest q c l a (List.replicate (2 ^ l.ed) 0#8) false false else .ok s c
  | some (si, sj) =>
    match s.copySource c l si sj m with
    | .inl r => r
    | .inr (s, x) =>
      let (bs, ev) := transform l ((s.core c.core).table (if l.tb then .c8b else .c8a)) x
      s.copyDest q c l a bs (l.xf = 5) ev

/-- Whether a copy stands between two 64-byte lines of its destination, or has written nothing yet (R215). -/
def Copy.between (c : Copy) (l : Layout) : Bool := c.next = 0 || (l.dstElem c.next).2.2 / 64 ≠ (l.dstElem (c.next - 1)).2.2 / 64

/-- Runs a copy up to the next 64-byte boundary of its destination (R209, R215). -/
def State.copyChunk (s : State) (q : Nat) (c : Copy) (l : Layout) : Nat → State
  | 0 => s.putCopy q c
  | fuel + 1 =>
    if l.count ≤ c.next then s.putCopy q c
    else
      match s.copyElem q c l c.next with
      | .wait s r a => s.putCopy q { c with waits := [r], waitAt := a }
      | .again s => s.putCopy q c
      | .fail s cause a => s.putCopy q { c with cause := cause, failAddr := a }
      | .ok s c' =>
        let c' := { c' with next := c.next + 1 }
        if c'.between l then s.putCopy q c' else s.copyChunk q c' l fuel

/-- The copy at the head of a quad's queue (R207). -/
def Quad.headCopy (x : Quad) : Option Copy := x.copies.find? Copy.live

/-- The status word of a copy (R211). -/
def State.copyStatus (s : State) (c : Copy) : Word64 :=
  let st := match c.st with
    | .queued => 0
    | .running => 0
    | .completed => 1
    | .cancelled => 2
    | .failed => 3
  let late := c.late || (c.live && c.promise ≤ s.cyc)
  field64 (if c.ev then 1 else 0) 11 ||| field64 (if late then 1 else 0) 10 ||| field64 st 8 |||
    field64 (if c.st = .failed then c.cause else 0) 0

/-- OLD with STATE = 1 (R211). -/
def copyOld : Word64 := field64 1 12 ||| field64 1 8

/-- The ID checks of R211: the trap, an ID that is no longer held, or the copy. -/
def State.namedCopy (s : State) (t : Strand) (w : Word64) : Except (Nat × Word64) (Option Copy) :=
  if bitsNat w 63 16 ≠ 0 || w = 0#64 then .error (0x31, w)
  else
    match (s.quad (quadOf t.core)).held.find? fun c => c.id == w.toNat with
    | none => .ok none
    | some c => if c.job ≠ t.birthJob then .error (0x09, w) else .ok (some c)

/-- The acquire that observing the end of a copy makes (R268). -/
def State.copyAcquire (s : State) (t : Strand) (off : Bool) : State := if off then s.acquire (quadOf t.core) else s

/-- Whether a copy that is no longer held wrote bytes homed off the die. -/
def Quad.oldWasOff (x : Quad) (id : Nat) : Bool := x.oldOff.contains id || x.copies.any fun c => c.id == id && c.offDie

/-- The observation of a copy that is no longer held: STATE is 1, so it is an acquire (R210, R211). -/
def State.oldCopy (s : State) (t : Strand) (w : Word64) : State :=
  s.copyAcquire t ((s.quad (quadOf t.core)).oldWasOff w.toNat)

/-- CPYWAIT and CPYWAIT.NL (R212). -/
def cpywaitBody (nl : Bool) (a d : BitVec 5) : Strand → State → Res := fun t s =>
  match s.namedCopy t (t.g a) with
  | .error (c, v) => .trap c v
  | .ok none => .done ((s.oldCopy t (t.g a)).putMe (t.setG d copyOld))
  | .ok (some c) =>
    if c.st = .failed then .trap c.cause (BitVec.ofNat 64 c.failAddr)
    else if c.live then
      if !nl && c.promise ≤ s.cyc && !c.lateReported then
        .trapIn (s.putCopy (quadOf t.core) { c with lateReported := true, late := true }) 0x30 (BitVec.ofNat 64 c.id)
      else .hold (s.parkMe t (.copy c.id))
    else .done ((s.copyAcquire t c.offDie).putMe (t.setG d (s.copyStatus c)))

/-- CPYPOLL (R213): an acquire when it returns STATE 1 to 3 (R210). -/
def cpypollBody (a d : BitVec 5) : Strand → State → Res := fun t s =>
  match s.namedCopy t (t.g a) with
  | .error (c, v) => .trap c v
  | .ok none => .done ((s.oldCopy t (t.g a)).putMe (t.setG d copyOld))
  | .ok (some c) => .done ((s.copyAcquire t (!c.live && c.offDie)).putMe (t.setG d (s.copyStatus c)))

/-- CPYGWAIT (R214): it clears the two sticky bits; that a copy of the group wrote off the die stays, for every later observation
(R268). -/
def cpygwaitBody (a d : BitVec 5) : Strand → State → Res := fun t s =>
  let w := t.g a
  let q := quadOf t.core
  if bitsNat w 63 3 ≠ 0 then .trap 0x31 w
  else
    let x := s.quad q
    let n := bitsNat w 2 0
    let g := x.group n
    if g.pending ≠ 0 then .hold (s.parkMe t (.group n))
    else
      let s := s.putQuad q { x with groups := FMap.set x.groups n { g with fail := false, canc := false } }
      let v := field64 (if g.fail then 1 else 0) 0 ||| field64 (if g.canc then 1 else 0) 1
      .done ((s.copyAcquire t g.off).putMe (t.setG d v))

/-- CPYCANCEL (R215). -/
def cpycancelBody (a : BitVec 5) : Strand → State → Res := fun t s =>
  match s.namedCopy t (t.g a) with
  | .error (c, v) => .trap c v
  | .ok none => .done s
  | .ok (some c) =>
    match c.st with
    | .queued => .done (s.finishCopy (quadOf t.core) c .cancelled)
    | .running => .done (s.putCopy (quadOf t.core) { c with cancel := true })
    | _ => .done s

/-- CPYSTART (R203 to R208). -/
def execCpystart (a d : BitVec 5) (s : State) : Host.Outcome State Fault Refusal :=
  runWord {} (cpystartBody a d) s

/-- CPYWAIT (R212). -/
def execCpywait (a d : BitVec 5) (s : State) : Host.Outcome State Fault Refusal :=
  runWord {} (cpywaitBody false a d) s

/-- CPYWAIT.NL (R212). -/
def execCpywaitNl (a d : BitVec 5) (s : State) : Host.Outcome State Fault Refusal :=
  runWord {} (cpywaitBody true a d) s

/-- CPYPOLL (R213). -/
def execCpypoll (a d : BitVec 5) (s : State) : Host.Outcome State Fault Refusal :=
  runWord {} (cpypollBody a d) s

/-- CPYGWAIT (R214). -/
def execCpygwait (a d : BitVec 5) (s : State) : Host.Outcome State Fault Refusal :=
  runWord {} (cpygwaitBody a d) s

/-- CPYCANCEL (R215). -/
def execCpycancel (a : BitVec 5) (s : State) : Host.Outcome State Fault Refusal :=
  runWord {} (cpycancelBody a) s

/-- Whether the running copy of a quad has come to its end (R209, R215): a cancelled one at a boundary of its destination. -/
def Copy.ending (c : Copy) : Bool :=
  let l := layoutOf c.rec_
  c.st = .running && ((c.cancel && c.between l) || c.cause ≠ 0 || l.count ≤ c.next)

/-- COPY_RUN (R207, R209): the engine starts the copy at the head of its queue, or runs it up to the next 64-byte boundary of
its destination. -/
def execCopyRun (q : Nat) (s : State) : Host.Outcome State Fault Refusal :=
  .next (match (s.quad q).headCopy with
    | none => s
    | some c =>
      if c.st = .queued then s.putCopy q { c with st := .running }
      else if !c.waits.isEmpty || c.ending then s
      else s.copyChunk q c (layoutOf c.rec_) 64)

/-- COPY_END (R209, R215): the running copy fails, ends cancelled or completes. DESIGN CHOICE (notes/assumptions/102.md): one that is
cancelled and meets a failure before its boundary has failed. -/
def execCopyEnd (q : Nat) (s : State) : Host.Outcome State Fault Refusal :=
  .next (match (s.quad q).headCopy with
    | none => s
    | some c =>
      if !c.ending then s
      else if c.cause ≠ 0 then s.finishCopy q c .failed
      else s.finishCopy q c (if c.cancel then .cancelled else .completed))

/-- COPY_LATE (R211, R212): CYC has reached the promise of an unfinished copy; strands that wait on it look again. -/
def execCopyLate (q id : Nat) (s : State) : Host.Outcome State Fault Refusal :=
  .next (match (s.quad q).copies.find? fun c => c.id == id && c.live && c.promise ≤ s.cyc with
    | none => s
    | some c => (s.putCopy q { c with late := true }).wake fun _ t w => quadOf t.core == q && w == .copy id)

end Sys2Proof.Machine
end

