-- ==== Sys2Proof/Machine/System.lean ====
section
/-!
DEFINITION. Major 0x3E (spec/10_ref_system.md R216 to R228; R59 to R68): system registers, trap calls and return, translation
roots and invalidation, partitions, bed ways, energy rates, and the save and restore of tarn, matrix and vector state.
-/
namespace Sys2Proof.Machine

/-- The bits of DELEG that correspond to a delegable cause of the trap table (R65, R342). -/
def delegMask : Word64 :=
  [1, 2, 3, 4, 5, 6, 7, 8, 9, 11, 16, 17, 18, 19, 20, 24, 25, 33, 34, 35, 40, 41, 56, 57].foldl
    (fun m n => m ||| field64 1 n) 0#64

/-- The least mode that reads a system register; 3 where none does (R59). -/
def readMode : SysReg → Nat
  | .tvec | .deleg | .drycnt => 1
  | _ => 0

/-- The least mode that writes some field of a system register; 3 where none does (R59, R63). -/
def writeMode : SysReg → Nat
  | .utvec | .fflags | .frm | .tblsel => 0
  | .cyc | .strand | .wavestat => 3
  | _ => 1

/-- KIND of STRAND (R61). -/
def kindCode : Kind → Nat
  | .handler => 0 | .task => 1 | .resident => 2 | .gang => 3

/-- The value of a system register, reserved bits zero (R59 to R68). -/
def State.sysRead (s : State) (t : Strand) (r : SysReg) : Word64 :=
  let y := t.sys
  match r with
  | .status => y.status &&& 0xfe#64
  | .tcause => y.tcause
  | .tpc => y.tpc
  | .tval => y.tval
  | .tvec => (s.part t.vf).tvec
  | .utvec => y.utvec
  | .deleg => (s.part t.vf).deleg
  | .cyc => BitVec.ofNat 64 s.cyc
  | .strand => field64 (kindCode t.kind) 62 ||| field64 (y.lpkg % 2 ^ 18) 32 ||| field64 t.core 2 ||| field64 (t.slot.getD 0) 0
  | .lineage => y.lineage
  | .job => y.job
  | .part => (s.part t.vf).part
  | .fflags => y.fflags
  | .frm => y.frm
  | .eallow => let q := (s.quad (quadOf t.core)).refill s.cyc; field64 q.rate.toNat 32 ||| field64 q.level.toNat 0
  | .qperiod => (s.job t.birthJob).qperiod.setWidth 64
  | .tblsel => (s.core t.core).tblsel
  | .wavestat => (s.job t.birthJob).wavestat
  | .drycnt => (s.part t.vf).drycnt

/-- Whether vector or matrix instructions of a strand are still to complete: SYSR of FFLAGS waits for them (R130, R151). -/
def State.flagsPending (s : State) (u : Nat) (t : Strand) : Bool :=
  !t.vflags.isEmpty || (s.quad (quadOf t.core)).busyFor u

/-- SYSR (R216). -/
def sysrBody (d : BitVec 5) (r : SysReg) : Strand → State → Res := fun t s =>
  if t.mode < readMode r then .trap 0x02 s.wordTval
  else if r = .fflags && s.flagsPending s.cur t then .hold s
  else .done (s.putMe (t.setG d (s.sysRead t r)))

/-- The PART word that a write leaves: a reserved PWS leaves that field (R4, R63). -/
def partWrite (old w : Word64) : Word64 :=
  let pws := if bitsNat w 57 55 = 7 then bitsNat old 57 55 else bitsNat w 57 55
  field64 (bitsNat w 63 58) 58 ||| field64 pws 55 ||| field64 (bitsNat w 26 14) 14 ||| field64 (bitsNat w 12 0) 0

/-- Whether two intervals of quads overlap. -/
def overlap (b1 l1 b2 l2 : Nat) : Bool := b1 ≤ b2 + l2 && b2 ≤ b1 + l1

/-- Whether a partition may have an extent (R321): within the package, apart from every other partition as it is and as a
PARTSET under way will leave it. -/
def State.extentOk (s : State) (vf base len : Nat) : Bool :=
  base + len ≤ 8191 && !(s.parts.any fun p => p.1 ≠ vf && p.2.present && overlap base len p.2.base p.2.len) &&
    !(s.resizes.any fun r => r.vf ≠ vf && r.skip.isNone && overlap base len r.base r.len)

/-- A write of PART (R63, R321). DESIGN CHOICE (notes/assumptions/72.md): of an extent that no partition may have nothing is
written. A change of BASE or LEN clears the partition's measurement slots (R339). -/
def State.writePart (s : State) (vf : Nat) (w : Word64) : State :=
  let p := s.part vf
  let new := partWrite p.part w
  let slots := if bitsNat new 26 0 = bitsNat p.part 26 0 then p.slots else []
  if s.extentOk vf (bitsNat new 12 0) (bitsNat new 26 14) then s.putPart vf { p with part := new, present := true, slots := slots } else s

/-- SYSW into the fields that the mode may write (R216). -/
def State.sysWrite (s : State) (t : Strand) (r : SysReg) (w : Word64) : State :=
  let p := s.part t.vf
  match r with
  | .status =>
    let old := t.sys.status
    let pm := if bitsNat w 5 4 = 3 then bitsNat old 5 4 else bitsNat w 5 4
    let st := field64 (bitsNat old 7 6) 6 ||| field64 pm 4 ||| field64 (bitsNat w 3 1) 1
    s.putMe { t with sys := { t.sys with status := st } }
  | .tcause => s.putMe { t with sys := { t.sys with tcause := w &&& 0xff#64 } }
  | .tpc => s.putMe { t with sys := { t.sys with tpc := field64 (bitsNat w 55 0) 0 } }
  | .tval => s.putMe { t with sys := { t.sys with tval := w } }
  | .tvec => s.putPart t.vf { p with tvec := field64 (bitsNat w 55 2) 2 }
  | .utvec => s.putMe { t with sys := { t.sys with utvec := field64 (bitsNat w 55 2) 2 } }
  | .deleg => s.putPart t.vf { p with deleg := w &&& delegMask }
  | .lineage => s.putMe { t with sys := { t.sys with lineage := w } }
  | .job => s.putMe { t with sys := { t.sys with job := w &&& 0xffff#64 } }
  | .part => s.writePart t.vf w
  | .fflags => s.putMe { t with sys := { t.sys with fflags := w &&& 0x1f#64 } }
  | .frm => if 4 ≤ bitsNat w 2 0 then s else s.putMe { t with sys := { t.sys with frm := w &&& 7#64 } }
  | .eallow =>
    let q := quadOf t.core
    s.putQuad q { (s.quad q).refill s.cyc with rate := BitVec.ofNat 16 (bitsNat w 47 32) }
  | .qperiod =>
    let j := s.job t.birthJob
    s.putJob t.birthJob { j with qperiod := BitVec.ofNat 24 (max 256 (bitsNat w 23 0)) }
  | .tblsel =>
    let c := s.core t.core
    let cnt := if t.mode = 0 then bitsNat c.tblsel 47 16 else bitsNat w 47 16
    let f := formatWrite c.tblsel w
    s.putCore t.core { c with tblsel := field64 (bitsNat f 63 54) 54 ||| field64 cnt 16 }
  | .drycnt => s.putPart t.vf { p with drycnt := w }
  | .cyc | .strand | .wavestat => s

/-- SYSW (R216): of PART, PWS is the supervisor's only while the partition has no strand, and the writer is one (R63). -/
def syswBody (a : BitVec 5) (r : SysReg) : Strand → State → Res := fun t s =>
  if t.mode < writeMode r || (r = .part && t.mode < 2) then .trap 0x02 s.wordTval
  else .done (s.sysWrite t r (t.g a))

/-- The table that g[a] names (R220): the function and whether it is the second stage, or the trap. -/
def tableName (w : Word64) (t : Strand) (s : State) : Except (Nat × Word64) (Nat × Bool) :=
  if bitsNat w 63 9 ≠ 0 || bitsNat w 7 6 ≠ 0 then .error (0x09, w)
  else
    let vf := bitsNat w 5 0
    let two := bitAt w 8
    if t.mode < 2 && (two || vf ≠ bitsNat (s.part t.vf).part 63 58) then .error (0x02, s.wordTval) else .ok (vf, two)

/-- Drops the cached translations that a test picks, and the backward entries of their frames (R332, R333). -/
def State.dropXlat (s : State) (test : Xlat → Bool) : State :=
  let gone := s.xlat.filter test
  let s := { s with xlat := s.xlat.filter fun x => !test x }
  (gone.foldl (fun s x =>
    match x.target with
    | .loc pa =>
      let k := backKey pa
      if Memory.dword s.mem k = backEntry x.vf x.page then
        let p := s.part x.vf
        ({ s with mem := Memory.put s.mem k (leBytes 8 0) } : State).putPart x.vf { p with used := p.used - 1 }
      else s
    | _ => s) s).noteReclaim

/-- Whether a store that a strand of a function has retired is still to be performed (R220). -/
def State.storesPending (s : State) (vf : Nat) : Bool := s.strands.any fun p => p.2.vf == vf && !p.2.buf.isEmpty

/-- XROOT (R220): every cached translation of the function is a translation of both stages, an identity where stage 1 is off. -/
def xrootBody (a b : BitVec 5) : Strand → State → Res := fun t s =>
  match tableName (t.g a) t s with
  | .error (c, v) => .trap c v
  | .ok (vf, two) =>
    let root := field64 (bitsNat (t.g b) 55 0) 0
    if root.toNat % 2048 ≠ 0 then .trap 0x03 (t.g b)
    else if s.storesPending vf then .hold s
    else
      let p := s.part vf
      let s := s.putPart vf (if two then { p with root2 := some root } else { p with root1 := root })
      .done (s.dropXlat fun x => x.vf == vf)

/-- Whether the tables as they stand give a page another translation than the cached one. -/
def State.outdated (s : State) (x : Xlat) : Bool :=
  match walk s x.vf (!x.s1) x.page with
  | .ok t ipa rd wr ex us => !(t == x.target && ipa / 65536 * 65536 == x.ipage && rd == x.rd && wr == x.wr && ex == x.ex && us == x.us)
  | _ => true

/-- XINV (R220): of the second stage it drops as well what was walked through a first-stage table that the block has held, where a
walk gives another translation now (R332; notes/assumptions/58.md). -/
def xinvBody (a b : BitVec 5) : Strand → State → Res := fun t s =>
  match tableName (t.g a) t s with
  | .error (c, v) => .trap c v
  | .ok (vf, two) =>
    match refCheck (t.g b) with
    | some (c, v) => .trap c v
    | none =>
      if s.storesPending vf then .hold s
      else
        let lo := refAddr (t.g b)
        let hi := lo + blockBytes (t.g b)
        let hit (pg : Nat) : Bool := pg < hi && lo < pg + 65536
        .done (s.dropXlat fun x => x.vf == vf && (hit (if two then x.ipage else x.page) || (two && x.s1 && s.outdated x)))

/-- The stage-1 table alone for an address (R221): the intermediate address it maps to. -/
def probe1 (s : State) (vf tbl va seen : Nat) : List (Nat × Nat) → Walk
  | [] => .refused seen
  | (level, sh) :: r =>
    match stage2 s vf (tbl + 8 * ((va >>> sh) % 256)) with
    | .absent st p _ => .absent st p true
    | .refused a => .refused a
    | .host w => .host w
    | .ok (.loc pa) _ rd _ _ _ =>
      if !rd then .refused pa
      else
        match s.tableStop pa pa seen with
        | some (.host w) => .host w
        | some _ => .refused seen
        | none =>
        match lookEntry false level pa (s.physDword pa) with
        | .table t => probe1 s vf t va pa r
        | .stop .absent => .absent false va false
        | .stop (.refused a) => .refused a
        | .stop (.host w) => .host w
        | .stop (.entry e level _) =>
          let z := 2 ^ leafBits level
          if bitsNat e 62 61 = 2 then .ok .dry va (bitAt e 60) (bitAt e 59) (bitAt e 58) (bitAt e 57)
          else
            let a := bitsNat e 55 11 * 2048
            if a % z ≠ 0 then .refused pa
            else .ok (.loc (a + va % z)) (a + va % z) (bitAt e 60) (bitAt e 59) (bitAt e 58) (bitAt e 57)
    | .ok _ _ _ _ _ _ => .refused seen

/-- The frame address of a target, as XPROBE gives it. -/
def Target.frame : Target → Nat
  | .dry => 0
  | .loc pa => pa
  | .peer _ pa => pa
  | .host h => h
  | .pool _ o => o

/-- The answer of XPROBE (R221), or the host's line that it waits for (R383). -/
def probeWord : Walk → Word64 ⊕ Wait
  | .ok .dry _ _ _ _ _ => .inl (field64 1 63 ||| field64 1 62)
  | .ok t _ _ _ _ _ => .inl (field64 1 63 ||| field64 (bitsNat (BitVec.ofNat 64 t.frame) 55 16) 16)
  | .absent _ _ _ => .inl 0#64
  | .refused _ => .inl 0x09#64
  | .host w => .inr w

/-- XPROBE (R221): it changes nothing. DESIGN CHOICE (notes/assumptions/103.md): bits 63 to 56 of g[b] are ignored. -/
def xprobeBody (a b d : BitVec 5) : Strand → State → Res := fun t s =>
  match tableName (t.g a) t s with
  | .error (c, v) => .trap c v
  | .ok (vf, two) =>
    let va := bitsNat (t.g b) 55 0
    let root := (s.part vf).root1.toNat
    let w := if two then stage2 s vf va else if root = 0 then .ok (.loc va) va true true true true
      else probe1 s vf root va 0 walkLevels
    match probeWord w with
    | .inl x => .done (s.putMe (t.setG d x))
    | .inr h => .hold ((s.askHost h false).parkMe t h)

/-- XBACK (R221). -/
def xbackBody (a d : BitVec 5) : Strand → State → Res := fun t s =>
  let pa := bitsNat (t.g a) 55 0
  let e := if frameOk pa then Memory.dword s.mem (backKey pa) else 0#64
  .done (s.putMe (t.setG d (if bitAt e 63 then e &&& ~~~(field64 1 63) else BitVec.allOnes 64)))

/-- The launches of a function that have not ended (R222, R323). -/
def State.liveLaunches (s : State) (vf : Nat) : List Nat :=
  (s.strands.filter (fun p => p.2.vf = vf)).flatMap (fun p => p.2.anc) ++
  (s.cores.flatMap fun c =>
    ((c.2.deque ++ c.2.held.filterMap id ++ c.2.foot.map (fun f => f.2.1) ++ (match c.2.steal with
      | some ⟨_, _, some (some r)⟩ => [r]
      | _ => [])).filter (fun r => r.vf = vf)).flatMap Rec.anc ++
    (c.2.inlet.filter (fun m => m.vf = vf)).flatMap Msg.anc) ++
  (s.pending.filter (fun p => p.rec_.vf = vf)).flatMap (fun p => p.rec_.anc) ++
  (s.packets.flatMap fun p => match p.body with
    | .msg m => if m.vf = vf then m.anc else []
    | .tokenRec r => if r.vf = vf then r.anc else []
    | _ => [])

/-- PARTSET (R222): it retires at once; RESIZE brings the change about. -/
def partsetBody (a b : BitVec 5) : Strand → State → Res := fun t s =>
  let vf := bitsNat (t.g a) 5 0
  let base := bitsNat (t.g b) 12 0
  let len := bitsNat (t.g b) 26 14
  if !s.extentOk vf base len then .trap 0x09 (t.g b)
  else .done { s with resizes := s.resizes ++ [⟨vf, base, len, none, (s.liveLaunches vf).dedup⟩] }

/-- SKIPSET (R222): the bit of a quad of no partition changes with no launch to wait for. -/
def skipsetBody (a b : BitVec 5) : Strand → State → Res := fun t s =>
  let h := bitsNat (t.g a) 12 0
  let on := bitAt (t.g b) 0
  match s.parts.find? (fun p => p.2.holds h) with
  | some (vf, p) => .done { s with resizes := s.resizes ++ [⟨vf, p.base, p.len, some (h, on), (s.liveLaunches vf).dedup⟩] }
  | none => .done (s.setSkip h on)

/-- Writes back and gives up every bed line of a quad that a test picks (R223, R387). -/
def State.purgeBed (s : State) (q : Nat) (test : BedLine → Bool) : State :=
  let x := s.quad q
  if x.bed.any test then
    let s := (x.bed.filter test).foldl State.evictBed s
    s.putQuad q { s.quad q with bed := x.bed.filter fun l => !test l }
  else s

/-- A function holds no foreign line in any L1 (R335): the directory entries that no L1 needs then go. -/
def State.dropForeignOf (s : State) (vf : Nat) : State :=
  let l1 := s.l1.filter fun l => !(l.vf == vf && l.stamp.isSome)
  { s with l1 := l1, dir := s.dir.filter fun e => e.vf != vf || l1.any e.covers }

/-- WAYSET (R223): the function's lines in ways that leave the mask are written back and given up in every column; with no way left
it holds no foreign line in an L1 either (R335). -/
def waysetBody (a b : BitVec 5) : Strand → State → Res := fun t s =>
  let vf := bitsNat (t.g a) 5 0
  let m : BitVec 14 := (t.g b).setWidth 14
  if s.quads.any (fun q => q.2.bvf = vf && (q.2.bway &&& ~~~m) ≠ 0#14) then .trap 0x09 (t.g b)
  else
    let p := s.part vf
    let gone := p.ways &&& ~~~m
    let s := if gone ≠ 0#14 then s.quads.foldl (fun s q => s.purgeBed q.1 fun l => l.vf == vf && gone.getLsbD l.way) s else s
    let s := if m = 0#14 then s.dropForeignOf vf else s
    .done (s.putPart vf { p with ways := m })

/-- Zeroes the bytes of a range of keys, listed or not, and clears their poison. -/
def State.zeroKeys (s : State) (lo n : Nat) : State :=
  { s with mem := s.mem.filter fun c => !(lo ≤ c.1 && c.1 < lo + n), poison := s.poison.filter fun p => !(lo ≤ p && p < lo + n) }

/-- BREGION (R223). -/
def bregionBody (a b : BitVec 5) : Strand → State → Res := fun t s =>
  let q := quadOfHilbert (bitsNat (t.g a) 12 0)
  let vf := bitsNat (t.g a) 21 16
  let m : BitVec 14 := (t.g b).setWidth 14
  if (m &&& ~~~(s.part vf).ways) ≠ 0#14 then .trap 0x09 (t.g b)
  else if (s.quad q).mmaxOther 0 then .hold s
  else
    let die := dieOfQuad q
    let aimed (c : Copy) : Bool := c.live && (layoutOf c.rec_).br && (layoutOf c.rec_).regionQuad die == q
    let s := s.quads.foldl (fun s p =>
      if dieOfQuad p.1 = die then
        (p.2.copies.filter aimed).foldl (fun s c => s.finishCopy p.1 { c with cause := 0x09, failAddr := (layoutOf c.rec_).regionOff } .failed) s
      else s) s
    let s := (s.purgeBed q fun l => m.getLsbD l.way).zeroKeys (regionKey q 0) (2 ^ 22)
    .done (s.putQuad q { s.quad q with bway := m, bvf := vf })

/-- ESET (R224): on a skip-masked quad it takes effect when the skip bit is cleared (R322). -/
def esetBody (a b : BitVec 5) : Strand → State → Res := fun t s =>
  let p := s.part t.vf
  let pos := bitsNat (t.g a) 12 0
  if p.len < pos then .trap 0x09 (t.g a)
  else
    let h := p.base + pos
    let q := quadOfHilbert h
    let rate : BitVec 16 := (t.g b).setWidth 16
    .done (s.putQuad q (if s.skip.contains h then { s.quad q with rateNext := some rate } else (s.quad q).setRate s.cyc rate))

/-- A decode table as 256 words (R161, R225). -/
def tableImage (es : List (BitVec 19)) : List Byte :=
  (List.range 256).flatMap fun i => leBytes 4 ((es[i]?).getD 0#19).toNat

/-- The image that MDRAIN writes (R225). -/
def State.mdrainImage (s : State) (q : Nat) : List Byte :=
  let x := s.quad q
  let z (n : Nat) : List Byte := List.replicate n 0#8
  let ranks := (x.names.filter (fun p => p.2.st = .draining)).map (fun p => p.2.rank)
  let core (c : Nat) : List Byte :=
    let k := s.core (4 * q + c)
    leBytes 8 k.tblsel.toNat ++ z 56 ++ tableImage k.tabA ++ tableImage k.tabB
  let name (n : Nat) : List Byte :=
    let m := x.name n
    let queued := match m.queued with
      | some (g, _) =>
        field64 g.toNat 35 ||| field64 1 32 ||| field64 m.qcore 14 ||| field64 m.qslot 12
      | none => 0#64
    let rank := if m.st = .draining then (ranks.filter (· ≤ m.rank)).length else 0
    leBytes 8 m.tagWord.toNat ++ leBytes 8 queued.toNat ++ leBytes 8 rank ++ z 40 ++
      (if m.st = .free then z 4608 else m.data ++ m.side)
  leBytes 8 1 ++ z 56 ++ (List.range 4).flatMap core ++ (List.range 256).flatMap name

/-- The size of that image (R225). -/
def mdrainSize : Nat := 1204544

/-- Where the pages of a range lead, each with the lowest address in it and the bytes of it there (R112 orders 4 and 5, R226,
R228): every page is looked at before any of it is used, and every absent page is asked for. -/
def lookPages (a : Acc) (va n : Nat) (t : Strand) (s : State) : Except Res (State × List (Nat × Nat × Target)) :=
  let first := va / 65536
  let pages := (List.range ((va + n - 1) / 65536 - first + 1)).map (first + ·)
  let look := pages.foldl (fun (acc : Except Res (State × List PageWait × List (Nat × Nat × Target))) p =>
    match acc with
    | .error r => .error r
    | .ok (s, reqs, ts) =>
      let lo := max va (p * 65536)
      let hi := min (va + n) ((p + 1) * 65536)
      match resolve s t.vf t.mode (dieOf t.core) lo a with
      | .refused s => .error (.trapIn s 0x09 (BitVec.ofNat 64 lo))
      | .host s w => .error (.hold (s.parkMe t w))
      | .wait s r => .ok (s, reqs ++ [r], ts)
      | .ok s tg => .ok (s, reqs, ts ++ [(lo, hi - lo, tg)])) (.ok (s, [], []))
  match look with
  | .error r => .error r
  | .ok (s, [], ts) => .ok (s, ts)
  | .ok (s, reqs, _) => .error (.hold (s.faultPark t reqs))

/-- Writes an image from an offset to the end of a 64 KiB page, as stores of the strand (R226, R228); a lost one is reported, whether
or not it was performed (R363). -/
def State.writeImage (s : State) (t : Strand) (base off : Nat) (img : List Byte) (tg : Target) : Except Res (State × Nat) :=
  let va := base + off
  let n := min (img.length - off) (65536 - va % 65536)
  match s.biasRange tg n with
  | some w => .error (.hold ((s.askHost w true).parkMe t w))
  | none =>
    let bs := (img.drop off).take n
    let lost := s.reportLost t va tg
    .ok (if t.timeout then (if Config.lostPerformed s.tick then lost.partyWrite (quadOf t.core) t.vf va tg bs else lost)
      else (s.ownPool t tg n).partyStore t va tg bs, off + n)

/-- The checks of an image's whole range that need no translation (R112 steps 1 to 3). -/
def imageChecks (base : Word64) (n align need : Nat) (t : Strand) : Except (Nat × Word64) Nat :=
  match eaCheck base 0 n with
  | .error e => .error e
  | .ok va =>
    if va % align ≠ 0 then .error (0x03, BitVec.ofNat 64 va)
    else
      match weirRefuses t.weirs va n need with
      | some b => .error (0x08, BitVec.ofNat 64 b)
      | none => .ok va

/-- The resume point of an image instruction. -/
def Strand.imagePoint (t : Strand) : Nat := if t.prog.at_ = t.pc then t.prog.image.getD 0 else 0

/-- The strand with its image point kept. -/
def Strand.atImage (t : Strand) (off : Nat) : Strand := { t with prog := { t.prog with at_ := t.pc, image := some off } }

/-- MDRAIN (R225, R226). -/
def mdrainBody (a : BitVec 5) : Strand → State → Res := fun t s =>
  let q := quadOf t.core
  let x := s.quad q
  match imageChecks (t.g a) mdrainSize 4096 3 t with
  | .error (c, v) => .trap c v
  | .ok va =>
    let off := t.imagePoint
    match lookPages .write (va + off) (mdrainSize - off) (if off = 0 then t else t.atImage off) s with
    | .error r => r
    | .ok (s, ts) =>
      if x.drainBy.isSome && x.drainBy ≠ some s.cur then .hold s
      else if (t.pc : Int) + 4 > pcTop then .done s
      else
        let s := s.putQuad q { s.quad q with drainBy := some s.cur }
        if !x.ops.isEmpty || !t.buf.isEmpty then .hold s
        else
          let s := s.wake fun _ t w => quadOf t.core == q && (match w with
            | .names _ => true
            | _ => false)
          match s.writeImage (t.atImage off) va off (s.mdrainImage q) ((ts.head?.map fun p => p.2.2).getD .dry) with
          | .error r => r
          | .ok (s, off) =>
            if mdrainSize ≤ off then .done (s.putQuad q { s.quad q with names := [], drainBy := none })
            else .hold (s.modStrand s.cur fun t => { t.atImage off with timeout := false })

/-- A name of an MDRAIN image (R225, R227): its declarations belong to the strand that comes to stand in their DCORE and DSLOT (R355),
and to none until then. -/
def imageName (bs : List Byte) (n : Nat) : Name :=
  let at_ := 8512 + 4672 * n
  let w (k : Nat) : Word64 := BitVec.ofNat 64 (leNat ((bs.drop (at_ + k)).take 8))
  let st : NameState := match bitsNat (w 0) 34 32 with
    | 1 => .declared
    | 2 => .defined
    | 3 => .draining
    | _ => .free
  if st = .free then Name.reset
  else { st := st, tag := ((w 0) >>> 35).setWidth 29, owner := 0, dcore := bitsNat (w 0) 15 14,
         dslot := bitsNat (w 0) 13 12, data := (bs.drop (at_ + 64)).take 4096, side := (bs.drop (at_ + 4160)).take 512,
         queued := if w 8 = 0#64 then none else some (((w 8) >>> 35).setWidth 29, 0),
         qcore := bitsNat (w 8) 15 14, qslot := bitsNat (w 8) 13 12, rank := (w 16).toNat, poison := [], decl := n + 1 }

/-- Reads a long region as loads of the strand, once every page of it is there (R112, R227, R228). -/
def longRead (va n : Nat) (t : Strand) (s : State) : Except Res (State × List Byte) :=
  match lookPages .read va n t s with
  | .error r => .error r
  | .ok (s, ts) =>
    ts.foldl (fun (acc : Except Res (State × List Byte)) p =>
      match acc with
      | .error r => .error r
      | .ok (s, bs) =>
        match s.readRun t p.1 p.2.2 (p.2.1 / 64) with
        | .ok s b => .ok (s, bs ++ b)
        | .again s none => .error (.hold s)
        | .again s (some w) => .error (.hold (s.parkMe t w))
        | .lost s => .error (.trapIn s 0x0B (BitVec.ofNat 64 va))
        | .poison _ => .error (.trapIn s 0x0B (BitVec.ofNat 64 va))) (.ok (s, []))

/-- MREST (R227): the quad is restored, and its interfaces give credit again (R354). A name's tags are checked, that of its queued
declaration among them. -/
def mrestBody (a : BitVec 5) : Strand → State → Res := fun t s =>
  let q := quadOf t.core
  let x := s.quad q
  if x.drainBy.isSome && x.drainBy ≠ some s.cur then .hold s
  else
    match x.names.find? (fun p => p.2.st ≠ .free) with
    | some (n, _) => .trap 0x22 (BitVec.ofNat 64 n)
    | none =>
      if !x.ops.isEmpty then .trap 0x22 0x100#64
      else
        match imageChecks (t.g a) mdrainSize 4096 2 t with
        | .error (c, v) => .trap c v
        | .ok va =>
          match longRead va mdrainSize t s with
          | .error r => r
          | .ok (s, bs) =>
            let w (k : Nat) : Word64 := BitVec.ofNat 64 (leNat ((bs.drop k).take 8))
            let badTag (g : Word64) : Bool := 14 ≤ bitsNat g 63 60 || 4 ≤ bitsNat g 34 32
            let bad := (List.range 256).find? fun n => badTag (w (8512 + 4672 * n)) || badTag (w (8520 + 4672 * n))
            if w 0 ≠ 1#64 then .trapIn s 0x23 0x100#64
            else
              match bad with
              | some n => .trapIn s 0x23 (BitVec.ofNat 64 n)
              | none =>
                let s := (List.range 4).foldl (fun s c =>
                  let at_ := 64 + 2112 * c
                  s.putCore (4 * q + c) { s.core (4 * q + c) with
                    tblsel := field64 (bitsNat (formatWrite (s.core (4 * q + c)).tblsel (w at_)) 63 54) 54 ||| field64 (bitsNat (w at_) 47 16) 16,
                    tabA := lutEntries (bs.drop (at_ + 64)) 256, tabB := lutEntries (bs.drop (at_ + 1088)) 256, imaged := false }) s
                let names := (List.range 256).foldl (fun (m : FMap Name) n =>
                  let y := imageName bs n
                  if y.st = .free then m else FMap.set m n y) []
                let top := names.foldl (fun m p => max m p.2.rank) 0
                .done (s.putQuad q { s.quad q with names := names, nextDecl := max (s.quad q).nextDecl 257, nextRank := top + 1 })

/-- The image of VSAVE (R228). -/
def Strand.vectorImage (t : Strand) : List Byte :=
  (List.range 32).flatMap (fun i => lineBytes (t.v (BitVec.ofNat 5 i))) ++
  (List.range 8).flatMap (fun i => leBytes 8 (t.k (BitVec.ofNat 3 i)).toNat) ++
  leBytes 8 (t.prog.pending.getD 0#64).toNat ++
  leBytes 8 (match t.prog.lane with
    | some l => 256 + l % 128
    | none => 0) ++
  List.replicate 48 0#8 ++ lineBytes t.prog.loaded

/-- VSAVE (R228). -/
def vsaveBody (a : BitVec 5) : Strand → State → Res := fun t s =>
  match imageChecks (t.g a) 2240 64 3 t with
  | .error (c, v) => .trap c v
  | .ok va =>
    let off := t.imagePoint
    match lookPages .write (va + off) (2240 - off) (if off = 0 then t else t.atImage off) s with
    | .error r => r
    | .ok (s, ts) =>
      if !t.vflags.isEmpty || !t.buf.isEmpty then .hold s
      else if (t.pc : Int) + 4 > pcTop then .done s
      else
        match s.writeImage (t.atImage off) va off t.vectorImage ((ts.head?.map fun p => p.2.2).getD .dry) with
        | .error r => r
        | .ok (s, off) => if 2240 ≤ off then .done s else .hold (s.modStrand s.cur fun t => { t.atImage off with timeout := false })

/-- VREST (R228): the saved lanes belong to the vector memory instruction that the strand returns to (R142). -/
def vrestBody (a : BitVec 5) : Strand → State → Res := fun t s =>
  match imageChecks (t.g a) 2240 64 2 t with
  | .error (c, v) => .trap c v
  | .ok va =>
    match longRead va 2240 t s with
    | .error r => r
    | .ok (s, bs) =>
      let line (k : Nat) : Vec := bytesLine ((bs.drop k).take 64)
      let w (k : Nat) : Word64 := BitVec.ofNat 64 (leNat ((bs.drop k).take 8))
      let t := (List.range 32).foldl (fun t i => t.setV (BitVec.ofNat 5 i) (line (64 * i))) t
      let t := (List.range 8).foldl (fun t i => t.setK (BitVec.ofNat 3 i) (w (2048 + 8 * i))) t
      let p : Progress := { t.prog with
        lanesAt := none,
        pending := if w 2112 = 0#64 then none else some (w 2112),
        lane := if bitAt (w 2120) 8 then some (bitsNat (w 2120) 6 0) else none,
        loaded := line 2176 }
      .done (s.putMe { t with prog := p })

/-- SYSR (R216). -/
def execSysr (d : BitVec 5) (r : SysReg) (s : State) : Host.Outcome State Fault Refusal := runWord {} (sysrBody d r) s

/-- SYSW (R216). -/
def execSysw (a : BitVec 5) (r : SysReg) (s : State) : Host.Outcome State Fault Refusal := runWord {} (syswBody a r) s

/-- SVC (R218). -/
def execSvc (a : BitVec 5) (s : State) : Host.Outcome State Fault Refusal :=
  runWord {} (fun t _ => .trap 0x71 (t.g a)) s

/-- BRK (R218). -/
def execBrk (n : BitVec 5) (s : State) : Host.Outcome State Fault Refusal :=
  runWord {} (fun _ _ => .trap 0x70 (n.setWidth 64)) s

/-- ERET (R219). -/
def execEret (b : BitVec 5) (s : State) : Host.Outcome State Fault Refusal :=
  runWord {} (fun t s => eretBody (t.g b) t s) s

/-- XROOT (R220): every cached translation of the function is a translation of both stages, an identity where stage 1 is off. -/
def execXroot (a b : BitVec 5) (s : State) : Host.Outcome State Fault Refusal := runWord { mode := 1 } (xrootBody a b) s

/-- XINV (R220). -/
def execXinv (a b : BitVec 5) (s : State) : Host.Outcome State Fault Refusal := runWord { mode := 1 } (xinvBody a b) s

/-- XPROBE (R221). -/
def execXprobe (a b d : BitVec 5) (s : State) : Host.Outcome State Fault Refusal := runWord { mode := 1 } (xprobeBody a b d) s

/-- XBACK (R221). -/
def execXback (a d : BitVec 5) (s : State) : Host.Outcome State Fault Refusal := runWord { mode := 2 } (xbackBody a d) s

/-- PARTSET (R222). -/
def execPartset (a b : BitVec 5) (s : State) : Host.Outcome State Fault Refusal := runWord { mode := 2 } (partsetBody a b) s

/-- SKIPSET (R222). -/
def execSkipset (a b : BitVec 5) (s : State) : Host.Outcome State Fault Refusal := runWord { mode := 2 } (skipsetBody a b) s

/-- WAYSET (R223). -/
def execWayset (a b : BitVec 5) (s : State) : Host.Outcome State Fault Refusal := runWord { mode := 2 } (waysetBody a b) s

/-- BREGION (R223). -/
def execBregion (a b : BitVec 5) (s : State) : Host.Outcome State Fault Refusal := runWord { mode := 2 } (bregionBody a b) s

/-- ESET (R224). -/
def execEset (a b : BitVec 5) (s : State) : Host.Outcome State Fault Refusal := runWord { mode := 1 } (esetBody a b) s

/-- MDRAIN (R225, R226). -/
def execMdrain (a : BitVec 5) (s : State) : Host.Outcome State Fault Refusal := runWord { mode := 1 } (mdrainBody a) s

/-- MREST (R227). -/
def execMrest (a : BitVec 5) (s : State) : Host.Outcome State Fault Refusal := runWord { mode := 1 } (mrestBody a) s

/-- VSAVE (R228). -/
def execVsave (a : BitVec 5) (s : State) : Host.Outcome State Fault Refusal := runWord { mode := 1 } (vsaveBody a) s

/-- VREST (R228). -/
def execVrest (a : BitVec 5) (s : State) : Host.Outcome State Fault Refusal := runWord { mode := 1 } (vrestBody a) s

/-- ENERGY_REFILL (R295): in a cycle that is a multiple of 256, LEVEL takes RATE up to its cap. -/
def execEnergyRefill (q : Nat) (s : State) : Host.Outcome State Fault Refusal :=
  .next (s.putQuad q ((s.quad q).refill s.cyc))

end Sys2Proof.Machine
end

