-- ==== Sys2Proof/Machine/Messages.lean ====
section
/-!
DEFINITION. Messages, records and launches (spec/09_ref_messages_tasks.md R172 to R192; R44, R50, R51): the birth of a strand,
SEND and SPAWN, the inlet and its window, landings and count messages, the deque, LAUNCH with its descriptors, pipes.
-/
namespace Sys2Proof.Machine

/-- The valid job entry of a partition that holds a job (R327). -/
def Part.jobIndex (p : Part) (j : Nat) : Option Nat :=
  (List.range 16).find? fun i => let e := (p.jobtab.toList[i]?).getD 0#64; bitAt e 63 && bitsNat e 15 0 == j

/-- The function in whose partition a job runs: at most one, by R327. -/
def State.jobVf (s : State) (j : Nat) : Option Nat := (s.parts.find? fun p => p.2.present && (p.2.jobIndex j).isSome).map (·.1)

/-- A strand at birth (R44, R325, R326, R61). -/
def State.birth (s : State) (kind : Kind) (vf job core slot launch : Nat) (anc : List Nat) : Strand :=
  let t := Strand.newborn kind vf job core slot
  let p := s.part vf
  let e (v : Vector Word64 16) : Word64 := ((p.jobIndex job).bind fun i => v.toList[i]?).getD 0#64
  let mode := if bitAt (e p.jobtab) 62 then 2 else 0
  let st := field64 mode 6 ||| field64 1 3
  { t with launch := launch, anc := anc,
           sys := { t.sys with status := st, utvec := field64 (bitsNat (e p.juvec) 55 2) 2, lpkg := p.self } }

/-- Places a strand in the slot it names (R44): its window is zero-filled; its start is an acquire (R177, R185, R270); restored
declarations of that slot are its own (R355). -/
def State.place (s : State) (t : Strand) : State :=
  let w := (s.part t.vf).window
  let s := s.zeroKeys (memPool + t.core * 2 ^ 17 + t.slot.getD 0 * w) w
  let s := ((s.acquire (quadOf t.core)).putStrand s.nextUid t).bindNames s.nextUid t.core (t.slot.getD 0)
  { s with nextUid := s.nextUid + 1 }

/-- The free slots of a core, lowest first (R346); a slot reserved for a task whose footprint is on its way is not free, and the
cores of a fenced die are stopped (R368). -/
def State.freeSlots (s : State) (c : Nat) : List Nat :=
  if (s.die (dieOf c)).fenced then [] else
  (List.range 4).filter fun k => !(s.strands.any fun p => p.2.core == c && p.2.slot == some k) &&
    !(s.core c).foot.any fun f => f.1 == k

/-- Writes a run of argument registers from a number on. -/
def Strand.args (t : Strand) (n : Nat) : List Word64 → Strand
  | [] => t
  | x :: r => (t.setGN n x).args (n + 1) r

/-- The bytes of the MW window (R51): the header and 256 bytes of payload, zero past LEN. -/
def Msg.image (m : Msg) : List Byte :=
  leBytes 8 m.hdr0.toNat ++ leBytes 8 m.hdr1.toNat ++ m.payload ++ List.replicate (256 - m.payload.length) 0#8

/-- KIND of a message (R50). -/
def Msg.kind (m : Msg) : Nat := bitsNat m.hdr0 1 0
/-- JOB of a message. -/
def Msg.job (m : Msg) : Nat := bitsNat m.hdr0 63 48
/-- XF of a data message. -/
def Msg.xf (m : Msg) : Nat := bitsNat m.hdr0 4 2
/-- TARGET of a message. -/
def Msg.target (m : Msg) : Nat := bitsNat m.hdr1 55 0

/-- The LEN rule of a landing transform (R178). -/
def xfLen (xf len : Nat) : Bool :=
  if xf = 3 then len % 8 = 0 else if xf = 7 then len % 4 = 0 else if 4 ≤ xf then len = 64 || len = 128 || len = 256 else true
/-- The widest output of a landing (R178). -/
def xfWidest (xf len : Nat) : Nat := if xf = 1 then 4 * len else if xf = 2 then 8 * len else if xf = 3 then len / 4 else len
/-- The alignment of TARGET for a landing (R178). -/
def xfAlign (xf len : Nat) : Nat := if xf = 1 then 2 else if xf = 2 || xf = 7 then 4 else if 4 ≤ xf then len / 64 else 1

/-- Checks 1 to 6 of R174 for a kind (0 entry, 1 code, 2 data, 3 count) with route word a and TARGET b. -/
def sendChecks (kind : Nat) (a b : Word64) (t : Strand) : Option (Nat × Word64) :=
  let len := bitsNat a 30 22
  let xf := bitsNat a 21 19
  let poff := bitsNat a 16 0
  if bitAt a 17 || 256 < len || (kind ≠ 2 && xf ≠ 0) || (kind ≠ 0 && bitAt a 18) then some (0x51, a)
  else if (kind = 1 && (len < 4 || (len < 16 && len % 4 ≠ 0))) || (kind = 3 && len ≠ 0) || (kind = 2 && !xfLen xf len) then
    some (0x51, a)
  else if kind = 0 && bitsNat b 63 56 ≠ 0 then some (0x04, b)
  else if (kind = 3 && poolBytes ≤ b.toNat) || (kind = 2 && poolBytes < b.toNat + xfWidest xf len) || (kind = 1 && b ≠ 0#64) then
    some (0x51, b)
  else if (kind = 0 && b.toNat % 4 ≠ 0) || (kind = 3 && b.toNat % 64 ≠ 0) || (kind = 2 && b.toNat % xfAlign xf len ≠ 0) then
    some (0x03, b)
  else if poolBytes < poff + len then some (0x05, a)
  else if len = 0 then none
  else (weirRefuses t.weirs (poolVa t.core poff) len 2).map fun x => (0x08, BitVec.ofNat 64 x)

/-- Check 7 of R174: a valid table entry, SELF's as well; for SELF a core of the partition that is not skip-masked. It answers the
port, none for SELF, whose traffic never leaves the package (R337), and whether the entry is marked retiring (R309). -/
def State.sendRoute (s : State) (vf dpkg dcore : Nat) : Option (State × Option Nat × Bool) :=
  let (s, e) := s.lpt vf dpkg
  let h := hilbertOf (quadOf dcore)
  if !bitAt e 63 then none
  else if dpkg = (s.part vf).self then (if (s.part vf).holds h && !s.skip.contains h then some (s, none, bitAt e 62) else none)
  else some (s, some (bitsNat e 54 50), bitAt e 62)

/-- Header doubleword 0 (R50). -/
def header (job core spkg len short xf kind : Nat) : Word64 :=
  field64 (job % 65536) 48 ||| field64 core 33 ||| field64 spkg 15 ||| field64 len 6 ||| field64 short 5 ||| field64 xf 2 ||| field64 kind 0

/-- A message leaves a strand's core (R175, R306, R309): counted sent, and in SR as well when its destination is retiring. -/
def State.sendMsg (s : State) (t : Strand) (m : Msg) (port : Option Nat) : State :=
  let s := s.sent t.core m.job
  let s := if m.marked then s.countMarked t.core m.job 1 0 else s
  s.post .message m.job t.core m.dcore port (.msg m)

/-- SEND (R173 to R175): it waits for the credit of its core and for the strand's earlier stores, and for the host where the
line of the table entry is listed or flips bias (R383, R386). -/
def sendBody (kind : Nat) (a b : BitVec 5) : Strand → State → Res := fun t s =>
  let x := t.g a
  let y := t.g b
  match sendChecks kind x y t with
  | some (c, v) => .trap c v
  | none =>
    let dpkg := bitsNat x 63 46
    let dcore := bitsNat x 45 31
    match s.lptWait t.vf dpkg with
    | some w => .hold ((s.askHost w false).parkMe t w)
    | none =>
    match s.sendRoute t.vf dpkg dcore with
    | none => .trap 0x09 x
    | some (s, port, ret) =>
      if !(s.core t.core).noCredit.isEmpty || !t.buf.isEmpty then .hold s
      else
        let len := bitsNat x 30 22
        let key := memPool + t.core * 2 ^ 17 + bitsNat x 16 0
        let h := header (bitsNat t.sys.job 15 0) t.core (s.part t.vf).self len (bitsNat x 18 18) (bitsNat x 21 19) kind
        let m : Msg := { hdr0 := h, hdr1 := field64 (bitsNat y 55 0) 0, payload := Memory.bytes s.mem key len, vf := t.vf,
                         dcore := dcore, dpkg := dpkg, slot := 0, marked := ret, anc := t.anc,
                         bad := ((List.range len).filter fun i => s.poisoned (key + i) 1).map (16 + ·) }
        .done (s.sendMsg t m port)

/-- SPAWN and SPAWN.H (R192): an entry message to the issuing core with a payload of six registers. DESIGN CHOICE
(notes/assumptions/83.md): a register b out of range is a check of the entry. -/
def spawnBody (short : Nat) (a b : BitVec 5) : Strand → State → Res := fun t s =>
  let x := t.g a
  if b = 0#5 || 26 < b.toNat then .trap 0x01 s.wordTval
  else if bitsNat x 63 56 ≠ 0 then .trap 0x04 x
  else if x.toNat % 4 ≠ 0 then .trap 0x03 x
  else if !(s.core t.core).noCredit.isEmpty || !t.buf.isEmpty then .hold s
  else
    let self := (s.part t.vf).self
    match s.lptWait t.vf self with
    | some w => .hold ((s.askHost w false).parkMe t w)
    | none =>
    let (s, e) := s.lpt t.vf self
    let pay := (List.range 6).flatMap fun k => leBytes 8 (t.gN (b.toNat + k)).toNat
    let m : Msg := { hdr0 := header (bitsNat t.sys.job 15 0) t.core self 48 short 0 0, hdr1 := field64 (bitsNat x 55 0) 0,
                     payload := pay, vf := t.vf, dcore := t.core, dpkg := self, slot := 0, marked := bitAt e 63 && bitAt e 62,
                     anc := t.anc, bad := [] }
    .done (s.sendMsg t m none)

/-- MW (R182). -/
def mwBody (a d : BitVec 5) : Strand → State → Res := fun t s =>
  let off := (t.g a).toNat
  match (if t.released then none else t.win) with
  | none => .trap 0x51 (t.g a)
  | some m =>
    if off % 8 ≠ 0 then .trap 0x03 (t.g a)
    else if 264 < off then .trap 0x51 (t.g a)
    else .done (s.putMe (t.setG d (BitVec.ofNat 64 (leNat ((m.image.drop off).take 8)))))

/-- MREL (R182): the window goes and its slot is free; the image of a code message stays readable to its fetches (R181). -/
def mrelBody : Strand → State → Res := fun t s =>
  .done (if t.win.isSome then s.putMe { t with released := true } else s)

/-- The checks of a task record (R185). -/
def recordChecks (d0 foot : Word64) : Option (Nat × Word64) :=
  if bitsNat d0 61 56 ≠ 0 then some (0x51, d0)
  else if bitsNat d0 55 0 = 0 || bitsNat d0 55 0 % 4 ≠ 0 then some (0x03, d0)
  else if foot = 0#64 then none
  else
    match refCheck foot with
    | some e => some e
    | none => if 16384 < blockBytes foot then some (0x07, foot) else none

/-- Whether a push at a core's deque must wait (R183): it is full, or earlier pushes are held there. -/
def Core.full (c : Core) : Bool := 256 ≤ c.deque.length || !c.held.isEmpty

/-- Pushes a record at the owner end, the head of the list. -/
def State.push (s : State) (c : Nat) (r : Rec) : State := s.putCore c { s.core c with deque := r :: (s.core c).deque }

/-- A push that is held while the deque is full (R183); on a fenced die the record is lost (R368; notes/assumptions/74.md). -/
def State.pushOrHold (s : State) (c : Nat) (r : Rec) : State :=
  if (s.die (dieOf c)).fenced then s
  else if (s.core c).full then s.putCore c { s.core c with held := (s.core c).held ++ [some r] } else s.push c r

/-- DQPUT (R185, R306): the push is a release, so the strand's earlier stores are performed first. -/
def dqputBody (a : BitVec 5) : Strand → State → Res := fun t s =>
  if a = 0#5 || 28 < a.toNat then .trap 0x01 s.wordTval
  else
    let w (k : Nat) : Word64 := t.gN (a.toNat + k)
    match recordChecks (w 0) (w 3) with
    | some (c, v) => .trap c v
    | none =>
      if (s.core t.core).full || !t.buf.isEmpty then .hold s
      else
        let j := bitsNat t.sys.job 15 0
        let r : Rec := ⟨.task (w 0) (w 1) (w 2) (w 3), j, t.vf, 0, 0, t.anc⟩
        .done ((s.sent t.core j).push t.core r)

/-- DQTAKE (R186). DESIGN CHOICE (notes/assumptions/83.md): a register b out of range is a check of the entry. -/
def dqtakeBody (b d : BitVec 5) : Strand → State → Res := fun t s =>
  if b = 0#5 || 28 < b.toNat then .trap 0x01 s.wordTval
  else
    let c := s.core t.core
    match c.deque with
    | [] => .done (s.putMe (t.setG d 0#64))
    | ⟨.task d0 d1 d2 d3, j, _, _, _, _⟩ :: r =>
      let t := (t.args b.toNat [d0, d1, d2, d3]).setG d 1#64
      .done (((s.putCore t.core { c with deque := r }).putMe t).consumed t.core j false)
    | _ :: _ => .done (s.putMe (t.setG d 2#64))

/-- The checks of a block and the doubleword 1 of a descriptor (R188) for a partition with so many strand slots; pop says that the
leaves are to be held against them. -/
def leafChecks (slots : Nat) (root d1 : Word64) (pop : Bool) : Option (Nat × Word64) :=
  match refCheck root with
  | some e => some e
  | none =>
    let leaf := bitsNat d1 63 58
    if refL root < leaf || bitAt d1 56 then some (0x07, d1)
    else if bitsNat d1 55 0 % 4 ≠ 0 then some (0x03, d1)
    else if pop && slots < 4 ^ (refL root - leaf) then some (0x07, d1)
    else none

/-- The checks of a sweep descriptor (R188). -/
def sweepChecks (slots : Nat) (root d1 : Word64) : Option (Nat × Word64) := leafChecks slots root d1 (bitAt d1 57)

/-- Whether a pipe word of a gang header keeps the rules of R190 for n members. -/
def pipeOk (n : Nat) (w : Word64) : Bool :=
  let ring := 2 ^ bitsNat w 48 45 * 64 * 2 ^ bitsNat w 52 49
  w = 0#64 || (bitAt w 63 && bitsNat w 27 0 = 0 && bitsNat w 62 61 < n && bitsNat w 60 59 < n && bitsNat w 52 49 ≤ 6 &&
    1 ≤ bitsNat w 48 45 && bitsNat w 48 45 ≤ 8 && ring ≤ 32768 && bitsNat w 44 28 % ring = 0 && 64 ≤ bitsNat w 44 28)

/-- The checks of a gang descriptor at an address (R188, R190), from its first doubleword on. DESIGN CHOICE
(notes/assumptions/104.md): a member with POP = 1 breaks R190's rule that POP is 0, whatever its number of leaves. -/
def gangChecks (slots addr : Nat) (ws : List Word64) : Option (Nat × Word64) :=
  let w (k : Nat) : Word64 := (ws[k]?).getD 0#64
  let n := bitsNat (w 0) 2 0
  let at_ (k : Nat) : Word64 := BitVec.ofNat 64 (addr + 8 * k)
  let count (i : Nat) : Nat := refL (w (8 + 8 * i)) - bitsNat (w (9 + 8 * i)) 63 58
  if bitsNat (w 0) 63 3 ≠ 0 || n < 2 || 4 < n then some (0x51, at_ 0)
  else
    match (List.range 7).find? fun k => !pipeOk n (w (k + 1)) with
    | some k => some (0x51, at_ (k + 1))
    | none =>
      (List.range n).findSome? fun i =>
        let d1 := w (9 + 8 * i)
        match leafChecks slots (w (8 + 8 * i)) d1 false with
        | some e => some e
        | none => if bitAt d1 57 || count i ≠ count 0 then some (0x51, at_ (9 + 8 * i)) else none

/-- The record body of a checked descriptor at an address. -/
def launchRecord (gang : Bool) (addr : Nat) (ws : List Word64) : Body :=
  let w (k : Nat) : Word64 := (ws[k]?).getD 0#64
  if gang then
    let n := bitsNat (w 0) 2 0
    .gang addr ((ws.drop 1).take 7) ((List.range n).map fun i => (ws.drop (8 + 8 * i)).take 8) ((List.range n).map fun i => w (8 + 8 * i))
  else .sweep (w 0) (w 1) ((ws.drop 2).take 6) 0

/-- Whether a record of a launch has not started yet. -/
def State.launchRecords (s : State) (uid : Nat) : Bool :=
  (s.pending.any fun p => p.rec_.launch == uid) ||
  (s.cores.any fun c => (c.2.deque ++ c.2.held.filterMap id).any (fun r => r.launch == uid) ||
    (match c.2.steal with
      | some ⟨_, _, some (some r)⟩ => r.launch == uid
      | _ => false)) ||
  s.packets.any fun p => match p.body with
    | .tokenRec r => r.launch == uid
    | _ => false

/-- Whether a launch still holds its dependants back (R189): some strand of it has neither triggered nor ended, or a record of
it has not started yet. -/
def State.launchOpen (s : State) (uid : Nat) : Bool :=
  (s.strands.any fun p => p.2.launch == uid && !p.2.triggered) || s.launchRecords uid

/-- The serial number of a predecessor that a new launch names by its ID; 0 when it is not among the last 4,096 launches of
its job, of which the new one is the last (R189). -/
def State.predecessor (s : State) (job id : Nat) : Nat :=
  if id = 0 then 0 else ((((s.job job).launches.reverse.take 4095).find? fun l => l.id == id).map Launch.uid).getD 0

/-- Whether a launch is of a population of which a strand lives or a record has not started: it may still be resampled (R193). -/
def State.stillSampled (s : State) (l : Launch) : Bool :=
  l.pop && ((s.strands.any fun p => p.2.launch == l.uid) || s.launchRecords l.uid)

/-- Whether a launch of a function that names a predecessor is held back (R189, R222). -/
def State.launchHeld (s : State) (vf pred : Nat) : Bool :=
  (pred ≠ 0 && s.launchOpen pred) || s.resizes.any fun r => r.vf == vf

/-- A launch begins (R188, R306): it takes its ID and is counted sent at a core; its record is pushed there, or held back. -/
def State.launch (s : State) (inlet : Bool) (vf job core predId : Nat) (body : Body) (anc : List Nat) : State × Nat × Nat :=
  let j := s.job job
  let uid := s.nextUid
  let id := j.nextLaunch
  let (pop, seed) := match body with
    | .sweep _ d1 args _ => (bitAt d1 57, (args[5]?).getD 0#64)
    | _ => (false, 0#64)
  let pred := s.predecessor job predId
  let resize := s.resizes.any fun r => r.vf == vf
  let held := s.launchHeld vf pred
  let l : Launch := ⟨uid, id, seed, pop, false⟩
  let s := s.jobStart job
  let old := j.launches.take (j.launches.length - 4095)
  let s := s.putJob job { s.job job with nextLaunch := if id = 65535 then 1 else id + 1,
                                         launches := old.filter s.stillSampled ++ j.launches.drop (j.launches.length - 4095) ++ [l] }
  let s := ({ s with nextUid := uid + 1 } : State).sent core job
  let r : Rec := ⟨body, job, vf, uid, id, uid :: anc⟩
  let p : Pending := ⟨r, core, pred, resize, inlet⟩
  (if held then { s with pending := s.pending ++ [p] } else s.pushOrHold core r, id, uid)

/-- Strand slots of a partition (R321). -/
def State.strandSlots (s : State) (vf : Nat) : Nat := 16 * (s.partQuads vf).length

/-- LAUNCH and LAUNCH.GANG (R187 to R190). -/
def launchBody (gang : Bool) (a b d : BitVec 5) : Strand → State → Res := fun t s =>
  let addr := (t.g a).toNat
  let go (s : State) (ws : List Word64) : Res :=
    if bitsNat (t.g b) 63 16 ≠ 0 then .trapIn s 0x51 (t.g b)
    else if !t.buf.isEmpty then .hold s
    else
      let job := bitsNat t.sys.job 15 0
      let pred := bitsNat (t.g b) 15 0
      if !s.launchHeld t.vf (s.predecessor job pred) && (s.core t.core).full then .hold s
      else
        let (s, id, _) := s.launch false t.vf job t.core pred (launchRecord gang addr ws) t.anc
        .done (s.modStrand s.cur fun t => t.setG d (BitVec.ofNat 64 id))
  match regionRead (t.g a) 64 64 t s with
  | .error r => r
  | .ok (s, bs) =>
    let head := dwords bs 8
    if !gang then
      match sweepChecks (s.strandSlots t.vf) (head.headD 0#64) ((head[1]?).getD 0#64) with
      | some (c, v) => .trapIn s c v
      | none => go s head
    else
      let n := bitsNat (head.headD 0#64) 2 0
      if n < 2 || 4 < n then .trapIn s 0x51 (BitVec.ofNat 64 addr)
      else
        match regionRead (t.g a) (64 + 64 * n) 64 t s with
        | .error r => r
        | .ok (s, bs) =>
          let ws := dwords bs (8 + 8 * n)
          match gangChecks (s.strandSlots t.vf) addr ws with
          | some (c, v) => .trapIn s c v
          | none => go s ws

/-- TRIGGER (R189, R270): a release, so the strand's earlier stores are performed first. -/
def triggerBody : Strand → State → Res := fun t s =>
  if t.launch = 0 || t.triggered then .done s
  else if !t.buf.isEmpty then .hold s
  else .done (s.putMe { t with triggered := true })

/-- The key of the control line of a handle's ring, for a strand of a die (R191). -/
def pipeKey (die : Nat) (h : Word64) : Nat := memPool + (1024 * die + bitsNat h 51 42) * 2 ^ 17 + bitsNat h 41 25 - 64
/-- 2^NS: the slots of a ring. -/
def pipeSlots (h : Word64) : Nat := 2 ^ bitsNat h 55 52
/-- The aperture address of slot IDX (R191, R110). -/
def pipeSlot (h : Word64) : Nat :=
  addrTop - 2 ^ 27 + bitsNat h 51 42 * 2 ^ 17 + bitsNat h 41 25 + bitsNat h 24 17 * (64 * 2 ^ bitsNat h 59 56)
/-- A pipe starts with its counts zero (R191). -/
def State.startRing (s : State) (k : Nat) : State :=
  let s := s.putHome k (leBytes 16 0)
  { s with rings := FMap.set s.rings k (0#64, 0#64) }
/-- Whether the counts of a control line are as the pipe instructions left them: a store to them makes the pipe's behaviour
undefined (R191). -/
def State.pipeOwn (s : State) (k : Nat) : Bool :=
  match FMap.get? s.rings k with
  | some x => x == (Memory.dword s.mem k, Memory.dword s.mem (k + 8))
  | none => true
/-- produced - consumed, modulo 2^64; a free value for a pipe whose counts software has changed (R191). -/
def State.pipeFill (s : State) (k : Nat) : Nat :=
  if s.pipeOwn k then (Memory.dword s.mem k - Memory.dword s.mem (k + 8)).toNat else Config.pipeFill s.tick
/-- One more is counted at at_, a count of the control line k (R191); a free value for a pipe whose counts software has
changed. -/
def State.pipeCount (s : State) (k at_ : Nat) : State :=
  if s.pipeOwn k then
    let s := s.putHome at_ (leBytes 8 ((Memory.dword s.mem at_).toNat + 1))
    if (FMap.get? s.rings k).isSome then
      { s with rings := FMap.set s.rings k (Memory.dword s.mem k, Memory.dword s.mem (k + 8)) }
    else s
  else s.putHome at_ (leBytes 8 (Config.pipeCount s.tick))

/-- PRES (producer) and PWAIT (R191). -/
def pipeWaitBody (producer : Bool) (h : BitVec 3) (d : BitVec 5) : Strand → State → Res := fun t s =>
  let x := t.h h
  if !t.mayWait then .trap 0x01 s.wordTval
  else if !bitAt x 63 || bitAt x 62 ≠ producer then .trap 0x43 x
  else if (t.pc : Int) + 4 > pcTop then .done s
  else
    let n := s.pipeFill (pipeKey (dieOf t.core) x)
    if n = (if producer then pipeSlots x else 0) then .hold (s.parkMe t (.pipe h.toNat))
    else .done (s.putMe (t.setG d (BitVec.ofNat 64 (pipeSlot x))))

/-- PADV (R191): a release at scope q; strands that wait at the other end look again. -/
def padvBody (h : BitVec 3) : Strand → State → Res := fun t s =>
  let x := t.h h
  let k := pipeKey (dieOf t.core) x
  let n := s.pipeFill k
  if !bitAt x 63 || n = (if bitAt x 62 then pipeSlots x else 0) then .trap 0x43 x
  else if !t.buf.isEmpty then .hold s
  else
    let at_ := if bitAt x 62 then k else k + 8
    let s := s.pipeCount k at_
    let idx := (bitsNat x 24 17 + 1) % pipeSlots x
    let s := s.putMe (t.setH h ((x &&& ~~~(field64 255 17)) ||| field64 idx 17))
    .done (s.wake fun _ u w =>
      match w with
      | .pipe i => dieOf u.core == dieOf t.core && pipeKey (dieOf u.core) (u.h (BitVec.ofNat 3 i)) == k
      | _ => false)

/-- SEND.ENT (R173 to R175). -/
def execSendEnt (a b : BitVec 5) (s : State) : Host.Outcome State Fault Refusal := runWord { inCode := true } (sendBody 0 a b) s
/-- SEND.CODE (R173 to R175). -/
def execSendCode (a b : BitVec 5) (s : State) : Host.Outcome State Fault Refusal := runWord { inCode := true } (sendBody 1 a b) s
/-- SEND.DATA (R173 to R175, R178). -/
def execSendData (a b : BitVec 5) (s : State) : Host.Outcome State Fault Refusal := runWord { inCode := true } (sendBody 2 a b) s
/-- SEND.CNT (R173 to R175). -/
def execSendCnt (a b : BitVec 5) (s : State) : Host.Outcome State Fault Refusal := runWord { inCode := true } (sendBody 3 a b) s
/-- MW (R182). -/
def execMw (a d : BitVec 5) (s : State) : Host.Outcome State Fault Refusal := runWord { inCode := true } (mwBody a d) s
/-- MREL (R182). -/
def execMrel (s : State) : Host.Outcome State Fault Refusal := runWord { inCode := true } mrelBody s
/-- DQPUT (R185). -/
def execDqput (a : BitVec 5) (s : State) : Host.Outcome State Fault Refusal := runWord { inCode := true } (dqputBody a) s
/-- DQTAKE (R186). -/
def execDqtake (b d : BitVec 5) (s : State) : Host.Outcome State Fault Refusal := runWord {} (dqtakeBody b d) s
/-- LAUNCH (R188). -/
def execLaunch (a b d : BitVec 5) (s : State) : Host.Outcome State Fault Refusal := runWord {} (launchBody false a b d) s
/-- LAUNCH.GANG (R188, R190). -/
def execLaunchGang (a b d : BitVec 5) (s : State) : Host.Outcome State Fault Refusal := runWord {} (launchBody true a b d) s
/-- TRIGGER (R189). -/
def execTrigger (s : State) : Host.Outcome State Fault Refusal := runWord {} triggerBody s
/-- SPAWN (R192). -/
def execSpawn (a b : BitVec 5) (s : State) : Host.Outcome State Fault Refusal := runWord {} (spawnBody 0 a b) s
/-- SPAWN.H (R192). -/
def execSpawnH (a b : BitVec 5) (s : State) : Host.Outcome State Fault Refusal := runWord {} (spawnBody 1 a b) s
/-- PRES (R191). -/
def execPres (h : BitVec 3) (d : BitVec 5) (s : State) : Host.Outcome State Fault Refusal := runWord {} (pipeWaitBody true h d) s
/-- PWAIT (R191). -/
def execPwait (h : BitVec 3) (d : BitVec 5) (s : State) : Host.Outcome State Fault Refusal := runWord {} (pipeWaitBody false h d) s
/-- PADV (R191). -/
def execPadv (h : BitVec 3) (s : State) : Host.Outcome State Fault Refusal := runWord {} (padvBody h) s

end Sys2Proof.Machine
end

