-- ==== Sys2Proof/Machine/Tasks.lean ====
section
/-!
DEFINITION. The scheduler (spec/17_progress_sched.md R286 to R293; R48, R154, R400): launch inlets, held pushes, splits,
placement of leaves, gangs and tasks, restores, displacement, steals, the load-summary token.
-/
namespace Sys2Proof.Machine

/-- The strand that step 1 of R289 restores to a core: the one whose wait ended first (R48). -/
def State.restorable (s : State) (c : Nat) : Option Nat :=
  let best := s.strands.foldl (fun (b : Option (Nat × Nat)) p =>
    if p.2.core = c && p.2.slot = none && p.2.run = .running then
      (match b with
        | some (w, u) => if p.2.wokenAt < w then some (p.2.wokenAt, p.1) else some (w, u)
        | none => some (p.2.wokenAt, p.1))
    else b) none
  best.map (·.2)

/-- The oldest entry or code message that waits in a core's inlet. -/
def Core.waiting (c : Core) : Option Msg := c.inlet.find? fun m => m.kind < 2

/-- Whether steps 2 and 3 of R289 may place anything on a core: nothing to restore, not pre-empted (R348), in a partition and not
skip-masked (R321, R322). -/
def State.placing (s : State) (c : Nat) : Bool := !(s.core c).stopped && (s.restorable c).isNone && (s.partOfCore c).isSome

/-- Whether a record is a gang group: a gang record at the leaf level (R288). -/
def Rec.isGroup (r : Rec) : Bool :=
  match r.body with
  | .gang _ _ (m :: _) (x :: _) => refL x == bitsNat ((m[1]?).getD 0#64) 63 58
  | _ => false

/-- Whether a record is a sweep or gang record above the leaf level (R288). -/
def Rec.splits (r : Rec) : Bool :=
  match r.body with
  | .task _ _ _ _ => false
  | .sweep x d1 _ _ => bitsNat d1 63 58 < refL x
  | .gang _ _ _ _ => !r.isGroup

/-- The energy class of a record: sweep and gang records count as class 0 (R295). -/
def Rec.ec (r : Rec) : Nat :=
  match r.body with
  | .task d0 _ _ _ => bitsNat d0 63 62
  | _ => 0

/-- The record that step 3 of R289 takes, with its index from the owner end: the group for which slots are held; with a matrix
request of the quad held, the coolest of the 8 nearest the owner end (R295); else the owner end. -/
def State.chosen (s : State) (c : Nat) : Option (Nat × Rec) :=
  let x := s.core c
  let n := match x.gangHold with
    | some r => x.deque.findIdx (· == r)
    | none => if !((s.quad (quadOf c)).refreshed s.cyc).owed then 0
    else
      let es := (x.deque.take 8).map Rec.ec
      es.findIdx (fun e => e = es.foldl min 3)
  (x.deque[n]?).map fun r => (n, r)

/-- What step 3 of R289 has to place on a core, when steps 1 and 2 have nothing. -/
def State.step3 (s : State) (c : Nat) : Option (Nat × Rec) :=
  if s.placing c && (s.core c).waiting.isNone then s.chosen c else none

/-- A core holds slots for a gang group no longer than it has it (R289). -/
def Core.releaseGang (x : Core) : Core := { x with gangHold := x.gangHold.filter x.deque.contains }

/-- Takes the record at an index of a core's deque. -/
def State.takeRec (s : State) (c n : Nat) : State := s.putCore c { s.core c with deque := (s.core c).deque.eraseIdx n }

/-- Child k of a block (R100 PCHILD): one level deeper. -/
def childRef (x : Word64) (k : Nat) : Word64 := mkRef (refL x - 1) (refE x) (refAddr x + k * (blockBytes x / 4))

/-- The child records of a record (R288). -/
def Rec.child (r : Rec) (k : Nat) : Rec :=
  match r.body with
  | .task _ _ _ _ => r
  | .sweep x d1 args first => { r with body := .sweep (childRef x k) d1 args (first + k * 4 ^ (refL x - 1 - bitsNat d1 63 58)) }
  | .gang d ps ms xs => { r with body := .gang d ps ms (xs.map fun x => childRef x k) }

/-- SPLIT (R288, R306): four children for their parent, child 0 at the owner end; it needs a free slot and three free
entries. -/
def execSplit (c : Nat) (s : State) : Host.Outcome State Fault Refusal :=
  .next (match s.step3 c with
    | none => s
    | some (n, r) =>
      if r.splits && !(s.freeSlots c).isEmpty && (s.core c).deque.length + 3 ≤ 256 then
        let s := s.takeRec c n
        let s := [3, 2, 1, 0].foldl (fun s k => s.push c (r.child k)) s
        (s.count c r.job 4 1).startSeries r.job
      else s)

/-- LEAF_STRAND_START (R288, R44, R62): a leaf becomes a resident strand in the lowest free slot. -/
def execLeafStrandStart (c : Nat) (s : State) : Host.Outcome State Fault Refusal :=
  .next (match s.step3 c, s.freeSlots c with
    | some (n, r), k :: _ =>
      match r.body with
      | .sweep x d1 args first =>
        if r.splits then s
        else
          let t := s.birth .resident r.vf r.job c k r.launch r.anc
          let pop := bitAt d1 57
          let y := if pop then { t.sys with lineage := field64 (first % 2 ^ 32) 32 } else t.sys
          (s.takeRec c n).place ({ t with pc := bitsNat d1 55 0, sys := y, pop := if pop then some first else none }.args 1 (x :: args))
      | _ => s
    | _, _ => s)

/-- A pipe handle of a gang member (R40, R190). -/
def pipeHandle (core : Nat) (producer : Bool) (w : Word64) : Word64 :=
  field64 1 63 ||| field64 (if producer then 1 else 0) 62 ||| field64 (bitsNat w 52 49) 56 ||| field64 (bitsNat w 48 45) 52 |||
    field64 (core % 1024) 42 ||| field64 (bitsNat w 44 28) 25

/-- The handles of gang member i (R190). -/
def memberHandles (core i : Nat) (pipes : List Word64) (t : Strand) : Strand :=
  pipes.foldl (fun t w =>
    if w = 0#64 then t
    else
      let t := if bitsNat w 62 61 = i then t.setH (BitVec.ofNat 3 (bitsNat w 58 56)) (pipeHandle core true w) else t
      if bitsNat w 60 59 = i then t.setH (BitVec.ofNat 3 (bitsNat w 55 53)) (pipeHandle core false w) else t) t

/-- GANG_GROUP_PLACEMENT (R190, R289): all members together, each in its own slot, with the counts of their pipes zero; while
the core has fewer free slots than members, they are held for the group. -/
def execGangGroupPlacement (c : Nat) (s : State) : Host.Outcome State Fault Refusal :=
  .next (match s.step3 c with
    | none => s
    | some (n, r) =>
      match r.body with
      | .gang _ pipes ms xs =>
        if !r.isGroup then s
        else if (s.freeSlots c).length < ms.length then s.putCore c { s.core c with gangHold := some r }
        else
          let slots := s.freeSlots c
          let group := s.nextUid
          let s := (s.takeRec c n).putCore c { (s.takeRec c n).core c with gangHold := none }
          let s := pipes.foldl (fun s w =>
            if w = 0#64 then s else s.startRing (memPool + c * 2 ^ 17 + bitsNat w 44 28 - 64)) s
          (List.range ms.length).foldl (fun s i =>
            let m := (ms[i]?).getD []
            let t := s.birth .gang r.vf r.job c ((slots[i]?).getD 0) r.launch r.anc
            let t := { t with pc := bitsNat ((m[1]?).getD 0#64) 55 0, group := group }
            s.place (memberHandles c i pipes (t.args 1 ((xs[i]?).getD 0#64 :: (m.drop 2)))))
            { s with nextUid := s.nextUid + 1 }
      | _ => s)

/-- What reading a footprint gives (R293). -/
inductive Foot where
  | ok (s : State)
  | wait (s : State) (req : PageWait)
  | again (s : State)
  | bad (s : State) (cause : Nat) (tval : Word64)

/-- Reads a footprint whole and writes it to the executing core's pool (R293). -/
def State.footprint (s : State) (t : Strand) (foot : Word64) (dst : Nat) : Foot :=
  let a := refAddr foot
  let n := blockBytes foot
  if !s.refPlace t foot then .bad s 0x09 (BitVec.ofNat 64 a)
  else
    match s.resolveFor 0 t.vf t.mode (dieOf t.core) a .read with
    | .wait s r => .wait s r
    | .host s _ => .again s
    | .refused s => .bad s 0x09 (BitVec.ofNat 64 a)
    | .ok s tg =>
      match s.biasRange tg n with
      | some w => .again (s.askHost w false)
      | none =>
        match s.partyRead (quadOf t.core) t.vf a tg n with
        | .poison => .bad s 0x0B (BitVec.ofNat 64 a)
        | .lost => .bad (s.readLost t tg) 0x0B (BitVec.ofNat 64 a)
        | .wait s _ => .again s
        | .ok s bs => .ok (s.putHome dst bs)

/-- Places a task in a slot once its footprint is there (R293, R44); with a page absent, the slot stays reserved; with the request
for the page refused, or the translation, the task starts and takes its trap. -/
def State.startTask (s : State) (c k : Nat) (r : Rec) (refused : Bool) : State :=
  match r.body with
  | .task d0 d1 d2 foot =>
    let t := s.birth .task r.vf r.job c k 0 r.anc
    let t := { t with pc := bitsNat d0 55 0 }
    let off := 0x10000 + 0x4000 * k
    let g1 := if foot = 0#64 then 0#64 else mkRef (refL foot) (refE foot) (poolVa c off)
    let t := { t.args 1 [g1, foot, d1, d2, BitVec.ofNat 64 (bitsNat d0 63 62)] with pinned := foot ≠ 0#64 }
    if foot = 0#64 then s.place t
    else if refused then s.place { t with doom := some (0x09, BitVec.ofNat 64 (refAddr foot)) }
    else
      match s.footprint t foot (memPool + c * 2 ^ 17 + off) with
      | .ok s => s.place t
      | .bad s cause v => s.place { t with doom := some (cause, v) }
      | .wait s q => s.putCore c { s.core c with foot := (s.core c).foot ++ [(k, r, [q])] }
      | .again s => s.putCore c { s.core c with foot := (s.core c).foot ++ [(k, r, [])] }
  | _ => s

/-- The task of a core whose footprint can be read again: its requests have been answered. -/
def Core.footReady (c : Core) : Option (Nat × Rec) := (c.foot.find? fun f => f.2.2.isEmpty).map fun f => (f.1, f.2.1)

/-- TASK_START (R293): a reserved slot's task whose page has come, else the task that step 3 of R289 takes. -/
def execTaskStart (c : Nat) (s : State) : Host.Outcome State Fault Refusal :=
  .next (match (s.core c).footReady with
    | some (k, r) => (s.putCore c { s.core c with foot := (s.core c).foot.filter (fun f => f.1 ≠ k) }).startTask c k r false
    | none =>
      match s.step3 c, s.freeSlots c with
      | some (n, r), k :: _ => if r.body matches .task _ _ _ _ then (s.takeRec c n).startTask c k r false else s
      | _, _ => s)

/-- HELD_PUSH (R183): the push held first at a core's deque is made, or the count message held first is performed. -/
def State.heldRecord (s : State) (c : Nat) : Option (Option Rec) :=
  if (s.core c).deque.length < 256 then (s.core c).held.head? else none

/-- The core of a partition that a launch with an ID goes to: core 0 of the quad at position ID mod (LEN + 1), or of the next
in Hilbert order that is not skip-masked (R287). -/
def State.launchCore (s : State) (vf id : Nat) : Nat :=
  let p := s.part vf
  let n := p.len + 1
  let h := (List.range n).findSome? fun i =>
    let h := p.base + (id + i) % n
    if s.skip.contains h then none else some h
  4 * quadOfHilbert (h.getD p.base)

/-- Whether a held-back launch can be pushed now (R189, R222): its predecessor is no longer open, or no longer among the last
4,096 launches of the job, and no change that was pending when it began is; a later change waits for it. -/
def State.pushable (s : State) (p : Pending) : Bool :=
  !(p.pred ≠ 0 && s.launchOpen p.pred && ((s.job p.rec_.job).launches.reverse.take 4096).any (fun l => l.uid == p.pred)) &&
    !(p.resize && s.resizes.any fun r => r.vf == p.rec_.vf && !r.waits.contains p.rec_.launch)

/-- DEPENDANT_PUSH (R189): the record of a held-back launch is pushed. -/
def execDependantPush (n : Nat) (s : State) : Host.Outcome State Fault Refusal :=
  .next (match s.pending[n]? with
    | none => s
    | some p =>
      if s.pushable p then
        ({ s with pending := s.pending.eraseIdx n } : State).pushOrHold p.core p.rec_
      else s)

/-- A doubleword of a launch inlet (R286). -/
def Part.inletWord (p : Part) (i k : Nat) : Word64 := FMap.getD p.inlet (8 * i + k) 0#64

/-- What reading a descriptor for a launch inlet gives (R287). -/
inductive Desc where
  | ok (s : State) (bs : List Byte)
  | wait (s : State) (req : PageWait)
  | again (s : State)
  | bad (s : State) (cause : Nat)

/-- Reads n bytes of one page as a supervisor access of a function, for an entry of a job (R287). -/
def State.descPage (s : State) (vf job die va n : Nat) : Desc :=
  match s.resolveFor 0 vf 1 die va .read with
  | .wait s r => .wait s r
  | .host s _ => .again s
  | .refused s => .bad s 0x09
  | .ok s tg =>
    match s.biasRange tg n with
    | some w => .again (s.askHost w false)
    | none =>
      match s.partyRead (quadOf (s.launchCore vf 0)) vf va tg n with
      | .poison => .bad s 0x0B
      | .lost => .bad (s.loseRequest (s.launchCore vf 0) vf job (4 * s.launchCore vf 0) tg) 0x0B
      | .wait s _ => .again s
      | .ok s bs => .ok s bs

/-- Reads a descriptor (R287): 64-byte alignment, the address range, both pages. -/
def State.descRead (s : State) (vf job va n : Nat) : Desc :=
  let die := s.firstDie vf
  if va + n > 2 ^ 56 then .bad s 0x05
  else if va % 64 ≠ 0 then .bad s 0x03
  else
    let n1 := min n (65536 - va % 65536)
    match s.descPage vf job die va n1 with
    | .ok s bs =>
      if n1 = n then .ok s bs
      else
        match s.descPage vf job die (va + n1) (n - n1) with
        | .ok s cs => .ok s (bs ++ cs)
        | r => r
    | r => r

/-- Checks of an entry that need no memory (R287): the cause of a refusal. -/
def Part.entryRefused (p : Part) (i : Nat) : Option Nat :=
  let d0 := p.inletWord i 0
  if bitsNat d0 31 2 ≠ 0 || bitsNat (p.inletWord i 1) 63 56 ≠ 0 || bitsNat (p.inletWord i 2) 62 24 ≠ 0 || (List.range 5).any (fun k => p.inletWord i (3 + k) ≠ 0#64) then some 0x51
  else if (p.jobIndex (bitsNat d0 63 48)).isNone then some 0x09
  else none

/-- The entry is finished (R287): doubleword 2, then V; vector 0 is raised (R379). -/
def State.entryDone (s : State) (vf i cause id : Nat) : State :=
  let p := s.part vf
  let d0 := p.inletWord i 0
  let inlet := FMap.set p.inlet (8 * i + 2) (field64 1 63 ||| field64 cause 16 ||| field64 id 0)
  let inlet := FMap.set inlet (8 * i) (d0 &&& ~~~(1#64))
  (s.putPart vf { p with inlet := inlet, inletPos := (i + 1) % 64 }).emit (.irq (some vf) 0)

/-- Whether the inlet's next entry can be taken up: V = 1, no page awaited, no push of it held at a full deque (R287). -/
def State.entryReady (s : State) (vf : Nat) : Bool :=
  let p := s.part vf
  p.present && bitAt (p.inletWord p.inletPos 0) 0 && p.inletWaits.isEmpty && p.inletHold.isNone

/-- Whether a core holds the push of a launch at its full deque (R183). -/
def Core.holds (c : Core) (uid : Nat) : Bool := c.held.any fun r => (r.map Rec.launch) == some uid

/-- The push of a launch has been made or lost: an inlet entry that it held up is finished (R287 steps 2 and 3). -/
def State.pushMade (s : State) (r : Rec) : State :=
  if (s.part r.vf).inletHold = some r.launch then
    (s.putPart r.vf { s.part r.vf with inletHold := none }).entryDone r.vf (s.part r.vf).inletPos 0 r.lid
  else s

/-- An entry whose checks have passed is accepted (R287, R188); it is finished once its record has been pushed or is held back. -/
def State.acceptEntry (s : State) (vf i : Nat) (gang : Bool) (ws : List Word64) : State :=
  let p := s.part vf
  let d0 := p.inletWord i 0
  let job := bitsNat d0 63 48
  let core := s.launchCore vf (s.job job).nextLaunch
  let (s, id, uid) := s.launch true vf job core (bitsNat d0 47 32) (launchRecord gang (bitsNat (p.inletWord i 1) 55 0) ws) []
  if (s.core core).holds uid then s.putPart vf { s.part vf with inletHold := some uid } else s.entryDone vf i 0 id

/-- LAUNCH_INLET_ENTRY (R287): the next entry of a launch inlet is checked and accepted or refused; an absent page makes it
wait. -/
def execLaunchInletEntry (vf : Nat) (s : State) : Host.Outcome State Fault Refusal :=
  .next (
    if !s.entryReady vf then s
    else
      let p := s.part vf
      let i := p.inletPos
      let d1 := p.inletWord i 1
      let addr := bitsNat d1 55 0
      let gang := bitAt (p.inletWord i 0) 1
      let job := bitsNat (p.inletWord i 0) 63 48
      let stop (r : Desc) : State := match r with
        | .ok s _ => s
        | .wait s q => s.putPart vf { s.part vf with inletWaits := [q] }
        | .again s => s
        | .bad s c => s.entryDone vf i c 0
      match p.entryRefused i with
      | some c => s.entryDone vf i c 0
      | none =>
        match s.descRead vf job addr 64 with
        | .ok s bs =>
          let head := dwords bs 8
          if !gang then
            match sweepChecks (s.strandSlots vf) (head.headD 0#64) ((head[1]?).getD 0#64) with
            | some (c, _) => s.entryDone vf i c 0
            | none => s.acceptEntry vf i false head
          else
            let n := bitsNat (head.headD 0#64) 2 0
            if n < 2 || 4 < n then s.entryDone vf i 0x51 0
            else
              match s.descRead vf job addr (64 + 64 * n) with
              | .ok s bs =>
                let ws := dwords bs (8 + 8 * n)
                match gangChecks (s.strandSlots vf) addr ws with
                | some (c, _) => s.entryDone vf i c 0
                | none => s.acceptEntry vf i true ws
              | r => stop r
        | r => stop r)

/-- A name whose declarations by a strand, made or queued, name it in a slot (R154). -/
def Name.reslot (m : Name) (u k : Nat) : Name :=
  { m with dslot := if m.owner = u && m.st = .declared then k else m.dslot, qslot := if m.queued.any (·.2 == u) then k else m.qslot }

/-- A strand restored to a slot: the names it has declared and not yet defined name it again in its new slot (R154). -/
def Quad.reslot (x : Quad) (u k : Nat) : Quad :=
  if x.names.any (fun p => p.2.owner == u || p.2.queued.any (·.2 == u)) then { x with names := FMap.map x.names fun _ m => m.reslot u k } else x

/-- Restores a strand to the lowest free slot of its core, with its window (R48, R346, R400). -/
def State.restore (s : State) (u : Nat) (t : Strand) : State :=
  match s.freeSlots t.core with
  | [] => s
  | k :: _ =>
    let w := (s.part t.vf).window
    let s := s.putHome (memPool + t.core * 2 ^ 17 + k * w) t.parked
    let s := (s.carryPoison (frameKey u) (memPool + t.core * 2 ^ 17 + k * w) w).clearPoison (frameKey u) w
    let s := s.putQuad (quadOf t.core) ((s.quad (quadOf t.core)).reslot u k)
    s.putStrand u { t with slot := some k, parked := [] }

/-- The strand that a core restores first, restored where a slot is free (R48). -/
def State.restoreFirst (s : State) (c : Nat) : State :=
  match s.restorable c with
  | none => s
  | some u =>
    match s.strand? u with
    | some t => s.restore u t
    | none => s

/-- What some cores can restore, before new strands take the slots (R48). -/
def State.restoreAll (s : State) (cs : List Nat) : State :=
  cs.foldl (fun s c => (List.range 4).foldl (fun s _ => s.restoreFirst c) s) s

/-- STRAND_RESTORE (R48, R289 step 1). -/
def execStrandRestore (c : Nat) (s : State) : Host.Outcome State Fault Refusal := .next (s.restoreFirst c)

/-- Whether a wait is one of the parked state of R47 that a strand can be displaced in (R290, R400). -/
def Wait.parked : Wait → Bool
  | .names _ | .copy _ | .group _ | .sleep _ | .barrier _ | .still _ _ | .stillTo _ _ _ | .pipe _ | .resample _ _ _ | .stream => true
  | .answer | .fill _ _ | .recall _ | .bisnp _ | .flip | .pages _ => false

/-- Whether the strand waits in RESAMPLE. -/
def Strand.inResample (t : Strand) : Bool :=
  match t.run with
  | .waiting (.resample _ _ _) => true
  | _ => false

/-- Whether a core wants a slot for a message, or for a record of a population whose living strands are all parked in RESAMPLE
(R290), be it that a strand that is to be restored takes the first one. -/
def State.wantsSlot (s : State) (c : Nat) : Bool :=
  !(s.core c).stopped && (s.freeSlots c).isEmpty &&
    ((s.core c).waiting.isSome ||
      match s.chosen c with
      | some (_, ⟨.sweep _ d1 _ _, _, _, l, _, _⟩) =>
        bitAt d1 57 && s.strands.all fun p => p.2.launch ≠ l || p.2.pop.isNone || p.2.inResample
      | _ => false)

/-- The strand that a core displaces (R290): parked the longest, resident or gang, its frame fitting. -/
def State.displaced (s : State) (c : Nat) : Option Nat :=
  let best := s.strands.foldl (fun (b : Option (Nat × Nat)) p =>
    let ok := p.2.core = c && p.2.slot.isSome && p.2.mayWait && (match p.2.run with
      | .waiting w => w.parked
      | .running => false) && s.frameFits p.2 && s.canDrain p.2
    if ok then
      (match b with
        | some (w, u) => if p.2.since < w then some (p.2.since, p.1) else some (w, u)
        | none => some (p.2.since, p.1))
    else b) none
  best.map (·.2)

/-- DISPLACEMENT (R290, R400). -/
def execDisplacement (c : Nat) (s : State) : Host.Outcome State Fault Refusal :=
  .next (if s.wantsSlot c then
      (match s.displaced c with
        | some u => match s.strand? u with
          | some t => s.leaveSlot u t
          | none => s
        | none => s)
    else s)

/-- The order in which Hilbert indices are asked from an index: by distance, the lower first (R196, R291). -/
def byDistance (h0 : Nat) (hs : List Nat) : List Nat :=
  let d (h : Nat) : Nat := if h ≤ h0 then h0 - h else h - h0
  hs.insertionSort fun a b => d a < d b ∨ (d a = d b ∧ a ≤ b)

/-- The victims that a core asks, in turn (R291). -/
def State.victims (s : State) (c : Nat) : List Nat :=
  match s.partOfCore c with
  | none => []
  | some v =>
    let q := quadOf c
    let own := [1, 2, 3].map fun k => 4 * q + (c + k) % 4
    let hs := byDistance (hilbertOf q) ((s.partQuads v).filter fun h => quadOfHilbert h ≠ q)
    let qs := hs.map quadOfHilbert
    let near := qs.filter fun x => dieOfQuad x = dieOf c
    let far := qs.filter fun x => dieOfQuad x ≠ dieOf c
    own ++ (near ++ far).flatMap fun x => [4 * x, 4 * x + 1, 4 * x + 2, 4 * x + 3]

/-- Whether no thief takes a record of a core: it is pre-empted (R348) or on a fenced die (R368). -/
def State.gone (s : State) (c : Nat) : Bool := (s.core c).stopped || (s.die (dieOf c)).fenced

/-- The record a victim would give: its thief end, but no gang group (R291). -/
def State.gives (s : State) (c : Nat) : Option Rec :=
  if s.gone c then none
  else
    match (s.core c).deque.getLast? with
    | some r => if r.isGroup then none else some r
    | none => none

/-- Whether a core is idle (R291). -/
def State.idle (s : State) (c : Nat) : Bool :=
  s.placing c && !(s.freeSlots c).isEmpty && (s.core c).waiting.isNone && (s.core c).deque.isEmpty && (s.core c).held.isEmpty

/-- Whether a core has a steal request to send: it is idle, none of its own is out, and some victim has a record, or a link loses the
request or its answer. A round of empty answers changes nothing and takes no step. -/
def State.canSteal (s : State) (c : Nat) : Bool :=
  s.idle c && (match (s.core c).steal with
    | some ⟨_, _, some _⟩ => false
    | _ => true) && (s.victims c).any fun v => (s.gives v).isSome || s.cutDies (dieOf c) (dieOf v)

/-- STEAL_REQUEST (R291): the next victim of a thief gives the record at its thief end, whole, or answers empty. DESIGN CHOICE
(notes/assumptions/99.md): where a link that is down loses the request or its answer (R299, R361), no record leaves the victim, and the
thief asks the next one. -/
def execStealRequest (c : Nat) (s : State) : Host.Outcome State Fault Refusal :=
  .next (
    if !s.canSteal c then s
    else
      let vs := s.victims c
      let n := match (s.core c).steal with
        | some x => x.asked % vs.length
        | none => 0
      match vs[n]? with
      | none => s
      | some v =>
        match s.cutSide (dieOf c) (dieOf v), s.gives v with
        | some x, _ =>
          let vf := (s.partOfCore c).getD 0
          let self := (s.part vf).self
          ((s.putCore c { s.core c with steal := some ⟨n + 1, some v, some none⟩ }).enterLoss x c 0 self).lossEvent x.1 vf 0 (4 * c) self
        | none, none => s.putCore c { s.core c with steal := some ⟨n + 1, some v, some none⟩ }
        | none, some r =>
          let s := s.putCore v { s.core v with deque := (s.core v).deque.dropLast }
          s.putCore c { s.core c with steal := some ⟨n + 1, some v, some (some r)⟩ })

/-- STEAL_REPLY (R291): a record goes to the owner end of the thief's deque; an empty answer sends it to the next victim. -/
def execStealReply (c : Nat) (s : State) : Host.Outcome State Fault Refusal :=
  .next (match (s.core c).steal with
    | some ⟨_, _, some (some r)⟩ => (s.putCore c { s.core c with steal := none }).pushOrHold c r
    | some ⟨n, _, some none⟩ => s.putCore c { s.core c with steal := if s.idle c then some ⟨n, none, none⟩ else none }
    | _ => s)

/-- The cores of a partition, in order of position (R321). -/
def State.partCores (s : State) (vf : Nat) : List Nat :=
  (s.partQuads vf).flatMap fun h => let q := quadOfHilbert h; [4 * q, 4 * q + 1, 4 * q + 2, 4 * q + 3]

/-- Whether a package is underloaded for a job (R292): every deque of the partition empty, a quarter of its slots free. -/
def State.underloaded (s : State) (vf : Nat) : Bool :=
  let cs := s.partCores vf
  cs.all (fun c => (s.core c).deque.isEmpty) && s.strandSlots vf ≤ 4 * (cs.flatMap fun c => s.freeSlots c).length

/-- Takes up to n records of a job from the thief ends of deques, past records of other jobs (R292). -/
def State.takeThief (s : State) (job : Nat) : Nat → List Nat → State × List Rec
  | _, [] => (s, [])
  | n, c :: r =>
    let d := (s.core c).deque
    let mine := (d.filter fun x => x.job == job).length
    let left := mine - n
    let split := d.foldl (fun (acc : List Rec × List Rec × Nat) x =>
      if x.job ≠ job then (acc.1 ++ [x], acc.2.1, acc.2.2)
      else if acc.2.2 < left then (acc.1 ++ [x], acc.2.1, acc.2.2 + 1) else (acc.1, x :: acc.2.1, acc.2.2)) ([], [], 0)
    let (s, got) := if s.gone c || split.2.1.isEmpty then (s, []) else (s.putCore c { s.core c with deque := split.1 }.releaseGang, split.2.1)
    let (s, rest) := s.takeThief job (n - got.length) r
    (s, got ++ rest)

/-- The core that takes records arriving from other packages: core 0 of the partition's first quad (R292). -/
def State.firstCore (s : State) (vf : Nat) : Nat := 4 * quadOfHilbert ((s.partQuads vf).headD 0)

/-- The logical packages that the token asks for when the package has removed its own request, where it is no longer underloaded
(R292). -/
def State.tokenAsks (s : State) (t : Token) : List Nat :=
  if s.underloaded t.vf then t.requests else t.requests.filter (· ≠ (s.part t.vf).self)

/-- The records of a token's job on the deques of its partition (R292). -/
def State.tokenLoad (s : State) (t : Token) : Nat :=
  ((s.partCores t.vf).map fun c => ((s.core c).deque.filter fun r => r.job == t.job).length).sum

/-- Whether the package takes a token: its ID is this package's (R337). -/
def State.tokenMine (s : State) (t : Token) : Bool := t.lpkg == (s.part t.vf).self

/-- Whether a job of a token runs in the partition of its function. -/
def State.tokenHere (s : State) (t : Token) : Bool := ((s.part t.vf).jobIndex t.job).isSome

/-- Why the package holds a token: the table entry of the request that it serves waits for the host (R337, R383). -/
def State.tokenWait (s : State) (t : Token) : Option Wait :=
  match s.tokenAsks t with
  | l :: _ => if s.tokenMine t && s.tokenHere t && 64 ≤ s.tokenLoad t then s.lptWait t.vf l else none
  | [] => none

/-- The token goes on with its requests to the next package, which the manual does not say how the device knows (R292;
notes/assumptions/43.md). -/
def State.sendToken (s : State) (t : Token) (reqs : List Nat) : State := s.emit (.token t.job t.vf (Config.nextPackage t.job) reqs)

/-- The load-summary token at the package (R292): the package serves the oldest request when it is loaded, attaches one of its own when it
is underloaded, and passes the token on. A token under a logical ID that is not this package's is discarded and counted (R337). -/
def State.takeToken (s : State) (t : Token) : State :=
  if !s.tokenMine t then s.misroute t.vf (dieOf (s.firstCore t.vf)) t.job (4 * s.firstCore t.vf) 0
  else if !s.tokenHere t then s.sendToken t t.requests
  else
    match s.tokenWait t with
    | some w => { (s.askHost w false) with outside := .token t :: s.outside }
    | none =>
      let self := (s.part t.vf).self
      let under := s.underloaded t.vf
      match s.tokenAsks t with
      | l :: r =>
        if 64 ≤ s.tokenLoad t then
          let (s, rs) := s.takeThief t.job 16 (s.partCores t.vf)
          (s.emit (.records (bitsNat (s.lptEntry t.vf l) 54 50) l rs)).sendToken t r
        else s.sendToken t (if under && !(l :: r).contains self && r.length < 7 then l :: r ++ [self] else l :: r)
      | [] => s.sendToken t (if under then [self] else [])

/-- LOAD_SUMMARY_TOKEN (R292). -/
def execLoadSummaryToken (t : Token) (s : State) : Host.Outcome State Fault Refusal := .next (s.takeToken t)

end Sys2Proof.Machine
end

