-- ==== Sys2Proof/Machine/Fabric.lean ====
section
/-!
DEFINITION. Packets and messages on their way (spec/18_progress_fabric.md R299 to R304; R176 to R181, R321, R327, R337): hops,
arrival in flow order, the inlet and credit, activations, landings, count messages.
-/
namespace Sys2Proof.Machine

/-- Directions of a die's torus ports: 0 north, 1 east, 2 south, 3 west. -/
def oppositeDir (d : Nat) : Nat := (d + 2) % 4

/-- Whether a hop crosses its ring's dateline (R301). -/
def crossesDateline (d dir : Nat) : Bool :=
  (dir = 1 && d % 8 = 7) || (dir = 3 && d % 8 = 0) || (dir = 2 && d / 8 = 3) || (dir = 0 && d / 8 = 0)

/-- The 60 edge routers of a die's 16 x 16 grid (R16), by number: the first row, the last row, the two columns between. -/
def edgeRouter (k : Nat) : Nat :=
  if k < 16 then k else if k < 32 then 224 + k else if k < 46 then 16 * (k - 31) else 16 * (k - 45) + 15

/-- The quad whose edge router serves a torus port of a die (R16). -/
def edgeOf (d dir : Nat) : Nat := 256 * d + edgeRouter (Config.edgeQuad (4 * d + dir) % 60)
/-- The die that owns a pod port, and the quad of the edge router at it. -/
def portQuad (port : Nat) : Nat := 256 * (port % 32) + edgeRouter (Config.edgeQuad (128 + port) % 60)

/-- One mesh hop (R300): X first, then Y. -/
def meshStep (at_ dst : Nat) : Nat :=
  let x := at_ % 16
  let y := at_ / 16 % 16
  let tx := dst % 16
  let ty := dst / 16 % 16
  if x < tx then at_ + 1 else if tx < x then at_ - 1 else if y < ty then at_ + 16 else if ty < y then at_ - 16 else at_

/-- The quad a packet goes to: its port's, or the destination's. -/
def Packet.final (p : Packet) : Nat :=
  match p.port with
  | some n => portQuad n
  | none => quadOf p.dst

/-- What a packet's next move is. -/
inductive Move where
  | mesh (q : Nat)
  | die (dir : Nat)
  | leave (port : Nat)
  | here
deriving DecidableEq, Repr

/-- The next move of a packet (R300, R301, R302). -/
def Packet.move (p : Packet) : Move :=
  let d := dieOfQuad p.at_
  match nextDir d (dieOfQuad p.final) with
  | some dir => if p.at_ = edgeOf d dir then .die dir else .mesh (meshStep p.at_ (edgeOf d dir))
  | none => if p.at_ ≠ p.final then .mesh (meshStep p.at_ p.final)
    else match p.port with
      | some n => .leave n
      | none => .here

/-- The link that a move takes, if any. -/
def Packet.link (p : Packet) : Option Nat :=
  match p.move with
  | .die dir => some (linkOf (dieOfQuad p.at_) dir)
  | .leave n => some (64 + n)
  | _ => none

/-- A direction of a link: toward the die to its west or north it is the way back. -/
def wayOf (link : Nat) (back : Bool) : Nat := 2 * link + (if back then 1 else 0)

/-- The logical package a message goes to. -/
def Packet.dpkg (p : Packet) : Option Nat :=
  match p.body with
  | .msg m => some m.dpkg
  | _ => none

/-- Whether two packets are of one flow (R303): a job, a class, a sending and a destination core. -/
def Packet.sameFlow (p x : Packet) : Bool :=
  x.cls == p.cls && x.job == p.job && x.src == p.src && x.dst == p.dst && x.port == p.port && x.dpkg == p.dpkg

/-- Whether a packet is the first of its flow that is under way in the package (R303). -/
def State.firstOfFlow (s : State) (p : Packet) : Bool := !s.packets.any fun x => x.id < p.id && p.sameFlow x

/-- Removes a packet. -/
def State.dropPacket (s : State) (p : Packet) : State := { s with packets := s.packets.filter fun x => x.id ≠ p.id }
/-- Replaces a packet. -/
def State.putPacket (s : State) (p : Packet) : State := { s with packets := s.packets.map fun x => if x.id = p.id then p else x }

/-- The flits of a message (R299). -/
def Msg.flits (m : Msg) : Nat := 1 + ceilDiv (16 + m.payload.length) 32

/-- A packet of another package enters at a pod port (R302). -/
def State.enter (s : State) (cls : PktClass) (job port src dst : Nat) (body : PktBody) : State :=
  let p : Packet := ⟨s.nextUid, body, cls, job, portQuad port, src, dst, none, portQuad port, .shared, 0, false⟩
  { s with nextUid := s.nextUid + 1, packets := s.packets ++ [p] }

/-- Records of a job arrive from another package that was loaded (R292, R306): they keep their counts; the job is under way. Packets
under a logical ID that is not this package's are discarded and counted (R337). -/
def State.takeRecords (s : State) (port vf lpkg : Nat) (rs : List Rec) : State :=
  rs.foldl (fun s r =>
    if lpkg = (s.part vf).self then
      (s.jobStart r.job).enter .control r.job port (2 ^ 15) (s.firstCore vf) (.tokenRec { r with vf := vf })
    else s.misroute vf (dieOf (s.firstCore vf)) r.job (4 * s.firstCore vf) 0) s

/-- The logical destination, the function and the flits of a packet (R299, R364). -/
def State.label (s : State) (p : Packet) : Nat × Nat × Nat :=
  match p.body with
  | .msg m => (m.dpkg, m.vf, m.flits)
  | .arrive vf _ _ _ _ _ _ _ _ words => ((s.part vf).self, vf, 1 + ceilDiv ((words.getD []).length) 32)
  | .withdraw vf _ _ _ _ _ _ _ => ((s.part vf).self, vf, 1)
  | .tokenRec r => ((s.part r.vf).self, r.vf, 5)

/-- A packet is lost (R361, R363, R364): it enters the loss log of the sending side, with an event; a message of a job is counted,
and is not counted consumed. -/
def State.losePacket (s : State) (p : Packet) (die : Nat) : State :=
  let (dest, vf, flits) := s.label p
  let j := s.job p.job
  let s := s.dropPacket p
  let s := if p.cls = .message then s.putJob p.job { j with lost := j.lost + 1 } else s
  let s : State := { s with losses := s.losses ++ [⟨die, p.job, p.cls, p.src, dest, flits⟩] }
  s.event die 0x06 0 p.job vf 0 [BitVec.ofNat 64 dest, BitVec.ofNat 64 flits]

/-- Whether a packet's link is being retrained: it is held (R362). -/
def State.linkHeld (s : State) (p : Packet) : Bool :=
  match p.link with
  | some l => s.box.retraining.any fun r => r.1 == l
  | none => false

/-- Whether a packet's link is down. -/
def State.linkLost (s : State) (p : Packet) : Bool :=
  match p.link with
  | some l => s.steax.downLinks.contains l
  | none => false

/-- Whether a packet that has come to a link that is down is lost (R361, R363): a message; a control packet only where it leaves the
package, whose destination is then unreachable. -/
def Packet.bears (p : Packet) : Bool := p.cls = .message || p.port.isSome

/-- Whether a packet can make its next move; out of the package a flow goes in the order sent (R176, R280, R303). -/
def State.canHop (s : State) (p : Packet) : Bool :=
  !s.linkHeld p && (!s.linkLost p || p.bears) &&
    match p.move, p.body with
    | .here, .tokenRec _ => true
    | .here, _ => false
    | .leave _, _ => s.firstOfFlow p
    | _, _ => true

/-- The packet after a die-to-die hop (R301): each new ring is entered in the shared buffers; with those full, VC0, and VC1
from the dateline on. -/
def Packet.cross (p : Packet) (dir : Nat) (full : Bool) : Packet :=
  let d := dieOfQuad p.at_
  let ring := if dir % 2 = 1 then 1 else 2
  let chan := if p.ring = ring then p.chan else .shared
  let chan := if chan = .shared && full then .vc0 else chan
  let chan := if chan = .vc0 && crossesDateline d dir then .vc1 else chan
  { p with at_ := edgeOf (dieToward d dir) (oppositeDir dir), ring := ring, chan := chan }

/-- The resends of the flit at the head of a direction of a link end with its success (R361). -/
def State.flitSent (s : State) (way : Nat) : State := { s with steax := { s.steax with retries := FMap.erase s.steax.retries way } }

/-- A message that leaves at a pod port is on its way until its delivery or loss is known (R371). -/
def State.sentAway (s : State) (p : Packet) : State :=
  match p.body with
  | .msg m => { s with away := s.away ++ [(m.vf, m.dpkg)] }
  | _ => s

/-- PACKET_HOP (R300 to R302, R361): one hop on the mesh or torus, or out at a pod port; a message that meets a link that is down is
lost. A record that the token brought is pushed at the end of its way (R292). -/
def execPacketHop (id : Nat) (s : State) : Host.Outcome State Fault Refusal :=
  .next (match s.packets.find? fun p => p.id == id with
    | none => s
    | some p =>
      if !s.canHop p then s
      else if s.linkLost p then s.losePacket p (dieOfQuad p.at_)
      else
        match p.move with
        | .mesh q => s.putPacket { p with at_ := q }
        | .die dir => (s.flitSent (wayOf (linkOf (dieOfQuad p.at_) dir) (dir = 0 || dir = 3))).putPacket (p.cross dir (Config.sharedFull s.tick))
        | .leave n => (((s.flitSent (wayOf (64 + n) false)).dropPacket p).sentAway p).emit (.toPod n p)
        | .here => match p.body with
          | .tokenRec r => (s.dropPacket p).pushOrHold p.dst r
          | _ => s)

/-- Whether a packet has reached its destination as the first of its flow (R303). -/
def State.arrived (s : State) (p : Packet) : Bool :=
  p.port = none && p.at_ = quadOf p.dst && s.firstOfFlow p

/-- A packet that has arrived, by its number. -/
def State.arrival (s : State) (id : Nat) : Option Packet := (s.packets.find? fun p => p.id == id).filter fun p => s.arrived p

/-- Whether a message must not be taken (R321, R327, R337). -/
def State.strays (s : State) (m : Msg) : Bool :=
  m.dpkg ≠ (s.part m.vf).self ||
    match s.partOfCore m.dcore with
    | none => true
    | some v => ((s.part v).jobIndex m.job).isNone

/-- What becomes of a message that a core does not take: a stray is counted in MISROUTE and recorded; at a fenced die it is
lost (R363, R368). -/
def State.turnAway (s : State) (p : Packet) (m : Msg) : Option State :=
  if (s.die (dieOf m.dcore)).fenced then some (s.losePacket p (dieOf m.dcore))
  else if s.strays m then some ((s.dropPacket p).misroute m.vf (dieOf m.dcore) m.job (4 * m.dcore) m.target)
  else none

/-- The inlet and overflow slots in use at a core (R304): waiting messages and valid MW windows. -/
def State.inletUsed (s : State) (c : Nat) : Nat :=
  (s.core c).inlet.length + (s.strands.filter fun p => p.2.core == c && p.2.win.isSome && !p.2.released).length

/-- Whether a core's interface takes another message (R304, R354). -/
def State.inletRoom (s : State) (c : Nat) : Bool := s.inletUsed c < 272 && !(s.core c).imaged

/-- The lowest inlet or overflow slot that nothing occupies. -/
def State.inletSlot (s : State) (c : Nat) : Nat :=
  let used := (s.core c).inlet.map Msg.slot ++ s.strands.filterMap fun p =>
    if p.2.core == c && !p.2.released then p.2.win.map Msg.slot else none
  ((List.range 272).find? fun k => !used.contains k).getD 0

/-- A message waits in the fabric (R176): its sender's core has no credit until it is taken. -/
def State.noCredit (s : State) (p : Packet) : State :=
  let s := s.putPacket { p with held := true }
  let c := s.core p.src
  if 2 ^ 15 ≤ p.src then s
  else if c.noCredit.contains p.id then s else s.putCore p.src { c with noCredit := c.noCredit ++ [p.id] }

/-- MESSAGE_ARRIVAL (R176, R304): an entry or code message takes a slot, or waits in the fabric. -/
def execMessageArrival (id : Nat) (s : State) : Host.Outcome State Fault Refusal :=
  .next (match s.arrival id with
    | none => s
    | some p =>
      match p.body with
      | .msg m =>
        if 2 ≤ m.kind then s
        else
          match s.turnAway p m with
          | some s => s
          | none =>
            if !s.inletRoom p.dst then s.noCredit p
            else
              let m := { m with slot := s.inletSlot p.dst }
              (s.dropPacket p).putCore p.dst { s.core p.dst with inlet := (s.core p.dst).inlet ++ [m] }
      | _ => s)

/-- The argument registers that a message gives its strand (R44): the payload's doublewords from a byte on, zero beyond. -/
def Msg.argWords (m : Msg) (from_ : Nat) : List Word64 := dwords (m.payload.drop from_ ++ List.replicate 48 0#8) 6

/-- The strand of an entry or code message (R44, R180, R181). -/
def State.activation (s : State) (c k : Nat) (m : Msg) : Strand :=
  let code := m.kind = 1
  let kind : Kind := if code || bitAt m.hdr0 5 then .handler else .resident
  let t := s.birth kind m.vf m.job c k 0 m.anc
  { t.args 1 (m.hdr0 :: m.argWords (if code then 16 else 0)) with
    pc := if code then 0 else m.target, code := code, win := some m, marked := m.marked }

/-- Step 2 of R289 for one kind of message: the oldest of the inlet starts in the lowest free slot. -/
def State.activate (s : State) (c kind : Nat) : State :=
  if !s.placing c then s
  else
    match (s.core c).waiting, s.freeSlots c with
    | some m, k :: _ =>
      if m.kind ≠ kind then s
      else (s.putCore c { s.core c with inlet := (s.core c).inlet.erase m }).place (s.activation c k m)
    | _, _ => s

/-- ENTRY_ACTIVATION (R180). -/
def execEntryActivation (c : Nat) (s : State) : Host.Outcome State Fault Refusal := .next (s.activate c 0)

/-- CODE_ACTIVATION (R181). -/
def execCodeActivation (c : Nat) (s : State) : Host.Outcome State Fault Refusal := .next (s.activate c 1)

/-- CREDIT_RETURN (R176): packets that the fabric no longer holds give their sender's core its credit back. -/
def execCreditReturn (c : Nat) (s : State) : Host.Outcome State Fault Refusal :=
  .next (
    let x := s.core c
    s.putCore c { x with noCredit := x.noCredit.filter fun id => s.packets.any fun p => p.id == id })

/-- The codes of a payload (R178): bytes, or in nibble mode two codes a byte, the low one first. -/
def payloadCodes (nibble : Bool) (bs : List Byte) : List Nat :=
  bs.flatMap fun b => if nibble then [b.toNat % 16, b.toNat / 16] else [b.toNat]

/-- The codes packed into bytes again. -/
def packCodes (nibble : Bool) : List Nat → List Byte
  | a :: b :: r => if nibble then BitVec.ofNat 8 (a + 16 * b) :: packCodes nibble r else BitVec.ofNat 8 a :: packCodes nibble (b :: r)
  | [a] => [BitVec.ofNat 8 a]
  | [] => []

/-- An 8 by 8 tile with its elements permuted (R178): element i of the output is element f i of the input. -/
def permuteTile (bs : List Byte) (f : Nat → Nat) : List Byte :=
  let e := bs.length / 64
  (List.range 64).flatMap fun i => (bs.drop (e * f i)).take e

/-- The output of a landing transform other than 7 (R178), and whether a NaN was encoded as code 0. -/
def landing (tab : Table) (xf : Nat) (bs : List Byte) : List Byte × Bool :=
  match xf with
  | 1 => ((payloadCodes tab.nibble bs).flatMap fun c => leBytes 2 (fBF16.round 0 (tab.decode c)).1, false)
  | 2 => ((payloadCodes tab.nibble bs).flatMap fun c => leBytes 4 (fF32.round 0 (tab.decode c)).1, false)
  | 3 =>
    let cs := (List.range (bs.length / 4)).map fun i => (tab.encode (fF32.value (leNat ((bs.drop (4 * i)).take 4)))).map (·.1)
    (packCodes tab.nibble (cs.map fun c => c.getD 0), cs.any Option.isNone)
  | 4 => (permuteTile bs fun i => 8 * (i % 8) + i / 8, false)
  | 5 => (permuteTile bs fun i => morton (i / 8) (i % 8), false)
  | 6 => (permuteTile bs fun i => 8 * mortonRow i + mortonCol i, false)
  | _ => (bs, false)

/-- A landing-error event (R367). -/
def State.landingError (s : State) (m : Msg) : State :=
  s.event (dieOf m.dcore) 0x08 0 m.job m.vf (4 * m.dcore) [field64 m.target 0]

/-- The bytes of a landing's output of n bytes that come from poisoned bytes of the message (R357, R358): positions of the slot from
16 on are the payload's. -/
def Msg.badOut (m : Msg) (tab : Table) (n : Nat) : List Nat :=
  let len := m.payload.length
  let hit (i : Nat) : Bool := m.bad.contains (16 + i)
  if 4 ≤ m.xf then
    let marks := (landing tab m.xf ((List.range len).map fun i => if hit i then 1#8 else 0#8)).1
    (List.range n).filter fun j => (marks[j]?).getD 0#8 ≠ 0#8
  else
    (List.range n).filter fun j =>
      let lo := j * len / n
      (List.range (max 1 ((j + 1) * len / n - lo))).any fun i => hit (lo + i)

/-- A data message lands at its core (R178, R358): poison of the payload is kept; a part of a poisoned granule is merged and
reported (R115). The landing is an acquire at s by the core's quad (R177, R271). -/
def State.land (s : State) (m : Msg) : State :=
  let s := s.acquire (quadOf m.dcore)
  let k := memPool + m.dcore * 2 ^ 17 + m.target
  if m.xf = 7 then
    if s.poisoned k m.payload.length || m.bad.any (16 ≤ ·) then s.landingError m
    else
      let bs := (List.range (m.payload.length / 4)).flatMap fun i =>
        let old := leNat (Memory.bytes s.mem (k + 4 * i) 4)
        leBytes 4 (fadd32 (BitVec.ofNat 32 old) (BitVec.ofNat 32 (leNat ((m.payload.drop (4 * i)).take 4)))).toNat
      s.putHome k bs
  else
    let (bs, ev) := landing ((s.core m.dcore).table .c8a) m.xf m.payload
    let s := if ev then s.landingError m else s
    if poolBytes < m.target + bs.length then s.landingError m
    else
      let s := if s.homePoison (quadOf m.dcore) m.vf 0 (.pool m.dcore m.target) bs.length true then
          s.event (dieOf m.dcore) 0x03 0 m.job m.vf (4 * m.dcore) [BitVec.ofNat 64 (structureOf k), BitVec.ofNat 64 k]
        else s
      (m.badOut ((s.core m.dcore).table .c8a) bs.length).foldl (fun s j => s.setPoison (k + j) 1) (s.putHome k bs)

/-- DATA_LANDING (R178, R306): performed at arrival; counted consumed whether it lands or is discarded. While the interface gives no
credit for the message class, the message waits in the fabric (R176, R304, R354). -/
def execDataLanding (id : Nat) (s : State) : Host.Outcome State Fault Refusal :=
  .next (match s.arrival id with
    | none => s
    | some p =>
      match p.body with
      | .msg m =>
        if m.kind ≠ 2 then s
        else
          match s.turnAway p m with
          | some s => s
          | none => if !s.inletRoom p.dst then s.noCredit p else ((s.dropPacket p).land m).consumed p.dst m.job m.marked
      | _ => s)

/-- A count message takes effect (R179); none when its push must wait (R183): the deque is full, or pushes are held there
before it. -/
def State.countDown (s : State) (m : Msg) (full : Bool) : Option State :=
  let c := m.dcore
  let s := s.acquire (quadOf c)
  let k := memPool + c * 2 ^ 17 + m.target
  let n := Memory.dword s.mem k
  let ev (s : State) (sub : Nat) : State := s.event (dieOf c) 0x08 sub m.job m.vf (4 * c) [field64 m.target 0]
  let used (s : State) : Option State := some (s.consumed c m.job m.marked)
  if s.poisoned k 64 then used s
  else if n = 0#64 then used (ev s 1)
  else if n ≠ 1#64 then used (s.putHome k (leBytes 8 (n - 1#64).toNat))
  else
    let w (i : Nat) : Word64 := Memory.dword s.mem (k + 32 + 8 * i)
    if (recordChecks (w 0) (w 3)).isSome then used (ev (s.putHome k (leBytes 8 0)) 3)
    else if full then none
    else
      let r : Rec := ⟨.task (w 0) (w 1) (w 2) (w 3), m.job, m.vf, 0, 0, m.anc⟩
      used (((s.putHome k (leBytes 8 0)).sent c m.job).push c r)

/-- COUNT_MESSAGE (R179): performed at arrival, or kept in the inlet while its push waits for a deque entry. -/
def execCountMessage (id : Nat) (s : State) : Host.Outcome State Fault Refusal :=
  .next (match s.arrival id with
    | none => s
    | some p =>
      match p.body with
      | .msg m =>
        if m.kind ≠ 3 then s
        else
          match s.turnAway p m with
          | some s => s
          | none =>
            if !s.inletRoom p.dst then s.noCredit p
            else
              match s.countDown m (s.core p.dst).full with
              | some s => s.dropPacket p
              | none =>
                let c := s.core p.dst
                let m := { m with slot := s.inletSlot p.dst }
                (s.dropPacket p).putCore p.dst { c with inlet := c.inlet ++ [m], held := c.held ++ [none] }
      | _ => s)

/-- HELD_PUSH (R183): the push held first at a core's deque is made now that an entry is free. -/
def execHeldPush (c : Nat) (s : State) : Host.Outcome State Fault Refusal :=
  .next (match s.heldRecord c with
    | none => s
    | some h =>
      let s := s.putCore c { s.core c with held := (s.core c).held.tail }
      match h with
      | some r => (s.push c r).pushMade r
      | none =>
        match (s.core c).inlet.find? fun m => m.kind == 3 with
        | none => s
        | some m =>
          match (s.putCore c { s.core c with inlet := (s.core c).inlet.erase m }).countDown m false with
          | some s => s
          | none => s)

end Sys2Proof.Machine
end

