-- ==== Sys2Proof/Machine/Collect.lean ====
section
/-!
DEFINITION. Collectives (spec/09 R193 to R201; spec/18_progress_fabric.md R305 to R316): barriers with their reductions, still
and confined waves, counters, RESAMPLE. A job is taken to have all its partitions on this package.
-/
namespace Sys2Proof.Machine

/-- Whether a barrier instance is the one of a function, scope, number and place (R197). -/
def Barrier.is (b : Barrier) (vf sc num place : Nat) : Bool := b.vf == vf && b.sc == sc && b.num == num && b.place == place

/-- The instance of a function, scope, number and place; an idle one at first. -/
def State.barrier (s : State) (vf job sc num place : Nat) : Barrier :=
  (s.barriers.find? fun b => b.is vf sc num place).getD ⟨vf, job, sc, num, place, 0, 0, 0, false, [], [], []⟩

/-- Replaces a barrier instance. -/
def State.putBarrier (s : State) (b : Barrier) : State :=
  { s with barriers := (s.barriers.filter fun x => !x.is b.vf b.sc b.num b.place) ++ [b] }

/-- The reduction entry of a job for a scope and a number, when valid (R312). -/
def Job.entry (j : Job) (sc num : Nat) : Option Word64 :=
  j.reductions.find? fun e => bitAt e 63 && bitsNat e 33 31 == sc && bitsNat e 30 23 == num

/-- The width in bytes of a reduction type (R312). -/
def redBytes (ty : Nat) : Nat := if ty = 0 then 4 else if ty ≤ 2 then 2 else 8

/-- The results of a reduction over its contributions (R251, R252): the bytes, the flags of all elements together. -/
def reduceWords (e : Word64) (cs : List Contrib) : List Byte × BitVec 5 :=
  let ty := bitsNat e 62 60
  let z := redBytes ty
  let good := cs.filter fun c => !c.words.isEmpty
  let rs := (List.range (bitsNat e 59 51)).map fun i =>
    let w := good.foldl (fun w c => w.add (redWord ty (leNat ((c.words.drop (z * i)).take z)))) RedWord.zero
    RedWord.result ty w (!good.isEmpty)
  (rs.flatMap fun r => leBytes z r.1, rs.foldl (fun f r => f ||| r.2) 0#5)

/-- The results of a completed phase for the participants of a job (R313): those that contributed and are bound and not withdrawn
get them, and their completion of the barrier is an acquire at s (R266). A write of a part of a poisoned granule is recorded (R115). -/
def State.deliverResults (s : State) (b : Barrier) (job : Nat) : State :=
  match (s.job job).entry b.sc b.num with
  | none => s
  | some e =>
    let mine := b.contrib.filter fun (c : Contrib) => c.job == job
    let (bs, f) := reduceWords e mine
    (mine.filter fun (c : Contrib) => b.members.any fun m => m.uid == c.uid && m.b == c.b && m.lost.isNone).foldl (fun s c =>
      let k := memPool + c.core * 2 ^ 17 + bitsNat e 50 34
      let f := if c.words.isEmpty then f ||| flNV else f
      let put (s : State) (at_ : Nat) (bs : List Byte) : State :=
        (if s.homePoison (quadOf c.core) b.vf 0 (.pool c.core (at_ - (memPool + c.core * 2 ^ 17))) bs.length true then
          s.event (dieOf c.core) 0x03 0 job b.vf (4 * c.core + c.slot) [1#64, BitVec.ofNat 64 at_] else s).putHome at_ bs
      (put (put s (k + 256 * c.slot) bs) (k + 1024 + 8 * c.slot) (leBytes 8 (2 ^ 63 + f.toNat))).modStrand c.uid fun t =>
        { t with reduced := c.b :: t.reduced }) s

/-- A barrier register after its phase has completed (R198): A cleared, PH and CNT as the instance has them. -/
def completedReg (r : Word64) (ph : Bool) (parts : Nat) : Word64 :=
  (r &&& ~~~(field64 3 58 ||| field64 (2 ^ 32 - 1) 0)) ||| field64 (if ph then 1 else 0) 59 ||| field64 parts 0

/-- A barrier after a step at its home (R198, R311): when arrivals equal participants and are not zero, the phase completes; the
results of each job's reduction entry are delivered (R313). -/
def State.barrierStep (s : State) (b : Barrier) : State :=
  if b.arrivals = (b.parts : Int) && b.parts ≠ 0 then
    let s := (b.contrib.map Contrib.job).dedup.foldl (fun s j => s.deliverResults b j) s
    let ph := !b.ph
    let b := { b with arrivals := 0, ph := ph, contrib := [], gone := [],
                      members := b.members.map fun (m : Member) => { m with lost := m.lost.map fun x => (x.1, x.2.1, completedReg x.2.2 ph b.parts) } }
    let s := s.putBarrier b
    let s := b.members.foldl (fun s m => s.modStrand m.uid fun t =>
      t.setB (BitVec.ofNat 2 m.b) (completedReg (t.b (BitVec.ofNat 2 m.b)) ph b.parts)) s
    s.wake fun u _ w => b.members.any fun m => m.uid == u && w == .barrier m.b
  else s.putBarrier b

/-- BARSET (R197, R198): the count that the first BARSET of an idle number fixed is compared, though participants may have left since
(R285). -/
def barsetBody (a b : BitVec 5) (d : BitVec 2) : Strand → State → Res := fun t s =>
  let old := t.b d
  let x := t.g a
  let y := t.g b
  let sc := bitsNat x 2 0
  let num := bitsNat x 15 8
  let i := s.barrier t.vf t.birthJob sc num (barPlace sc t.core t.birthJob)
  if (bitAt old 63 && !bitAt old 57) || sc = 0 || 4 < sc || bitsNat x 63 16 ≠ 0 || bitsNat x 7 3 ≠ 0 || y = 0#64 ||
      2 ^ 32 ≤ y.toNat || (i.parts ≠ 0 && i.count ≠ y.toNat) then .trap 0x42 old
  else
    let m : Member := ⟨s.cur, d.toNat, none⟩
    let i := if i.parts = 0 then { i with count := y.toNat, parts := y.toNat, arrivals := 0 } else i
    let i := { i with members := i.members ++ [m] }
    let r := field64 1 63 ||| field64 sc 60 ||| field64 (if i.ph then 1 else 0) 59 ||| field64 num 32 ||| field64 y.toNat 0
    .done ((s.putBarrier i).putMe { t.setB d r with reduced := t.reduced.filter (· ≠ d.toNat) })

/-- The contribution that a BARARR makes to a reduction (R313): none without an entry; no bytes when a granule is poisoned. -/
def State.contribution (s : State) (t : Strand) (sc num : Nat) : State × Option (List Byte) :=
  match (s.job t.birthJob).entry sc num with
  | none => (s, none)
  | some e =>
    let n := bitsNat e 59 51 * redBytes (bitsNat e 62 60)
    let k := memPool + t.core * 2 ^ 17 + bitsNat e 50 34 + 256 * t.slot.getD 0
    if s.poisoned k n then (s.event (dieOf t.core) 0x03 0 t.birthJob t.vf t.unit [1#64, BitVec.ofNat 64 k], some [])
    else (s, some (Memory.bytes s.mem k n))

/-- BARARR (R198, R313): a release, so the strand's earlier stores are performed first. -/
def bararrBody (d : BitVec 2) : Strand → State → Res := fun t s =>
  let r := t.b d
  if !bitAt r 63 || bitAt r 57 || bitAt r 58 then .trap 0x42 r
  else if !t.buf.isEmpty then .hold s
  else
    let (s, ws) := s.contribution t (barSc r) (barNum r)
    let s := s.putMe (t.setB d (r ||| field64 1 58))
    .done (s.post .control t.birthJob t.core (s.barHome t.vf (barSc r) t.core) none
      (.arrive t.vf t.birthJob (barSc r) (barNum r) (bitAt r 59) s.cur d.toNat t.core (t.slot.getD 0) ws))

/-- BARWAIT (R198): its completion is an acquire at the barrier's scope, of a phase that delivered results of a reduction at s (R266,
R313). -/
def barwaitBody (d : BitVec 2) : Strand → State → Res := fun t s =>
  let r := t.b d
  if !t.mayWait then .trap 0x01 s.wordTval
  else if !bitAt r 63 then .trap 0x42 r
  else if (t.pc : Int) + 4 > pcTop then .done s
  else if bitAt r 58 then .hold (s.parkMe t (.barrier d.toNat))
  else
    let s' := s.putMe { t with reduced := t.reduced.filter (· ≠ d.toNat) }
    .done (if 3 ≤ barSc r || t.reduced.contains d.toNat then s'.acquire (quadOf t.core) else s')

/-- BARLEAVE (R198): the withdrawal is a release, so the strand's earlier stores are performed first (R266). -/
def barleaveBody (d : BitVec 2) : Strand → State → Res := fun t s =>
  if t.bound d && !t.buf.isEmpty then .hold s else .done (s.leaveBarrier s.cur t d)

/-- The registers of a strand that are bound to an instance. -/
def Strand.boundTo (t : Strand) (sc num : Nat) : List (BitVec 2) :=
  [0#2, 1#2, 2#2, 3#2].filter fun i => t.bound i && barSc (t.b i) == sc && barNum (t.b i) == num

/-- BARLEAVE.O for the participants that a fence has taken (R370): each is withdrawn as its register stands. -/
def State.leaveLost (s : State) (t : Strand) (sc num : Nat) (named : Nat → Nat → Bool) : State :=
  let i := s.barrier t.vf t.birthJob sc num (barPlace sc t.core t.birthJob)
  let gone := i.members.filter fun (m : Member) => m.lost.any fun x => named x.1 x.2.1
  if gone.isEmpty then s
  else
    let s := s.putBarrier { i with members := i.members.filter fun m => !gone.contains m }
    gone.foldl (fun s m => s.post .control t.birthJob t.core (s.barHome t.vf sc t.core) none
      (.withdraw t.vf t.birthJob sc num (m.lost.any fun x => bitAt x.2.2 59) (m.lost.any fun x => bitAt x.2.2 58) m.uid m.b)) s

/-- BARLEAVE.O (R199): every participant that it names; each withdrawal is a release, so that the stores of the issuer and of the
participants are performed first (R266). -/
def barleaveOBody (a b : BitVec 5) : Strand → State → Res := fun t s =>
  let sc := bitsNat (t.g a) 2 0
  let num := bitsNat (t.g a) 15 8
  let y := t.g b
  if sc = 0 || 4 < sc then .trap 0x42 (t.g a)
  else
    let place := barPlace sc t.core t.birthJob
    let here := bitsNat y 49 32 == (s.part t.vf).self
    let named (p : Strand) : Bool :=
      p.vf == t.vf && barPlace sc p.core p.birthJob == place && !(p.boundTo sc num).isEmpty &&
        (if sc = 4 then p.birthJob == t.birthJob && here else p.core == bitsNat y 16 2 && p.slot == some (bitsNat y 1 0))
    let ps := s.strands.filter fun p => named p.2
    if !t.buf.isEmpty || ps.any fun p => !p.2.buf.isEmpty then .hold s
    else
      let s := ps.foldl (fun s p => (p.2.boundTo sc num).foldl (fun s i => s.leaveBarrier p.1 p.2 i) s) s
      .done (s.leaveLost t sc num fun core slot => if sc = 4 then here else core == bitsNat y 16 2 && slot == bitsNat y 1 0)

/-- Whether an arrival of a phase by a strand with a barrier register is still on its way (R311). -/
def State.arriving (s : State) (uid b : Nat) (ph : Bool) : Bool :=
  s.packets.any fun p => match p.body with
    | .arrive _ _ _ _ h u r _ _ _ => u == uid && r == b && h == ph
    | _ => false

/-- An arrival or a withdrawal takes effect at its barrier's home (R311): an arrival of a phase that is over counts nothing; an
arrival of the phase still open is taken back with its withdrawal, with its contribution (R313), be it that the arrival comes after. -/
def State.atHome (s : State) (p : Packet) : State :=
  match p.body with
  | .arrive vf job sc num ph uid r core slot words =>
    let b := s.barrier vf job sc num (barPlace sc core job)
    let s := s.dropPacket p
    if b.ph ≠ ph then s
    else
      let cs : List Contrib := match words with
        | some ws => if b.gone.contains (uid, r) then [] else [⟨uid, r, job, core, slot, ws⟩]
        | none => []
      s.barrierStep { b with arrivals := b.arrivals + 1, contrib := b.contrib ++ cs, gone := b.gone.erase (uid, r) }
  | .withdraw vf job sc num ph hadA uid r =>
    let b := s.barrier vf job sc num (barPlace sc p.src job)
    let back := hadA && ph == b.ph
    (s.dropPacket p).barrierStep { b with
      parts := b.parts - 1, arrivals := if back then b.arrivals - 1 else b.arrivals,
      contrib := if back then b.contrib.filter (fun c => !(c.uid == uid && c.b == r)) else b.contrib
      gone := if back && s.arriving uid r ph then b.gone ++ [(uid, r)] else b.gone }
  | _ => s

/-- BARRIER_ARRIVAL (R311): an arrival reaches its home. -/
def execBarrierArrival (id : Nat) (s : State) : Host.Outcome State Fault Refusal :=
  .next (match s.arrival id with
    | none => s
    | some p => if p.body matches .arrive _ _ _ _ _ _ _ _ _ _ then s.atHome p else s)

/-- BARRIER_WITHDRAWAL (R311): a withdrawal reaches its home. -/
def execBarrierWithdrawal (id : Nat) (s : State) : Host.Outcome State Fault Refusal :=
  .next (match s.arrival id with
    | none => s
    | some p => if p.body matches .withdraw _ _ _ _ _ _ _ _ then s.atHome p else s)

/-- The barrier packets of a strand take effect at once, in the order in which it sent them: of one that ends by RESAMPLE. -/
def State.settleBarriers (s : State) (u : Nat) : State :=
  (s.packets.filter fun p => match p.body with
    | .arrive _ _ _ _ _ w _ _ _ _ => w == u
    | .withdraw _ _ _ _ _ _ w _ => w == u
    | _ => false).foldl State.atHome s

/-- QCOUNT (R201). -/
def qcountBody (a d : BitVec 5) : Strand → State → Res := fun t s =>
  let c := (s.core t.core).counters t.birthJob
  .done (s.putMe (t.setG d (if bitAt (t.g a) 0 then c.c else c.s)))

/-- QFIX (R201, R307). -/
def qfixBody (a b : BitVec 5) : Strand → State → Res := fun t s =>
  let x := t.g a
  let j := bitsNat x 15 0
  if bitsNat x 63 17 ≠ 0 then .trap 0x51 x
  else if ((s.part t.vf).jobIndex j).isNone then .trap 0x09 x
  else
    let n := (t.g b).toNat
    .done ((if bitAt x 16 then s.count t.core j 0 n else s.count t.core j n 0).startSeries j)

/-- STILL and STILL.TO park (R200, R306): consumed only once nothing of the strand is under way, its withdrawals from barriers
included (R284); a marked activation in CR as well (R309). -/
def stillPark (w : Nat → Wait) : Strand → State → Res := fun t s =>
  if (t.pc : Int) + 4 > pcTop then .done s
  else if !s.canEnd s.cur t || s.barrierTraffic s.cur then .hold s
  else
    let j := t.birthJob
    .hold (((s.consumed t.core j t.marked).startSeries j).parkMe t (w (s.job j).wavesIssued))

/-- STILL (R46, R200). -/
def stillBody (d : BitVec 5) : Strand → State → Res := fun t s =>
  if !t.mayWait then .trap 0x01 s.wordTval else stillPark (.still d.toNat) t s

/-- STILL.TO (R46, R200). -/
def stillToBody (a d : BitVec 5) : Strand → State → Res := fun t s =>
  if !t.mayWait then .trap 0x01 s.wordTval
  else if bitsNat (t.g a) 63 18 ≠ 0 then .trap 0x51 (t.g a)
  else stillPark (.stillTo d.toNat (bitsNat (t.g a) 17 0)) t s

/-- Whether a logical package's entry is marked retiring (R309, R337). -/
def State.retiring (s : State) (vf l : Nat) : Bool := let e := (s.lpt vf l).2; bitAt e 63 && bitAt e 62

/-- The logical packages that parked STILL.TO of a job name. -/
def State.stillTargets (s : State) (job : Nat) : List Nat :=
  s.strands.filterMap fun p =>
    match p.2.run with
    | .waiting (.stillTo _ l _) => if p.2.birthJob = job then some l else none
    | _ => none

/-- Why a wave of a job cannot tell which packages are retiring: a table entry that a STILL.TO names waits for the host (R337, R383). -/
def State.retireWait (s : State) (job : Nat) : Option Wait :=
  (s.jobVf job).bind fun vf => (s.stillTargets job).findSome? (s.lptWait vf)

/-- The retiring package that a confined wave of a job would serve (R309). -/
def State.confinedFor (s : State) (job : Nat) : Option Nat :=
  (s.jobVf job).bind fun vf => (s.stillTargets job).find? fun l => s.retiring vf l

/-- Whether a wave of a job is due (R307). -/
def State.waveDue (s : State) (job : Nat) : Bool :=
  let j := s.job job
  j.series && j.wave.isNone && j.nextWave ≤ 2 * s.cyc && (s.jobVf job).isSome

/-- The network interfaces that a wave of a job sweeps: those of its partition (R307, R322). -/
def State.waveCores (s : State) (job : Nat) : List Nat :=
  match s.jobVf job with
  | some vf => s.partCores vf
  | none => []

/-- A wave starts (R307): the next one is due at the next multiple of the period after the series' start. -/
def State.beginWave (s : State) (job : Nat) (confined : Option Nat) : State :=
  let j := s.job job
  let q := max j.qperiod.toNat 1
  let n := j.wavesIssued + 1
  s.putJob job { j with wavesIssued := n, nextWave := j.seriesStart + ((2 * s.cyc - j.seriesStart) / q + 1) * q,
                        wave := some ⟨confined, 1, s.waveCores job, 0#64, 0#64, 0#64, 0#64, n⟩ }

/-- A pass reads the next network interface, its two counters together; pass 2 follows pass 1 (R307). -/
def State.passWave (s : State) (job : Nat) (w : Wave) : State :=
  let j := s.job job
  match w.todo with
  | c :: r =>
    let x := (s.core c).counters job
    let (a, b) := if w.confined.isSome then (x.sr, x.cr) else (x.s, x.c)
    let w := if w.pass = 1 then { w with todo := r, s1 := w.s1 + a, c1 := w.c1 + b } else { w with todo := r, s2 := w.s2 + a, c2 := w.c2 + b }
    s.putJob job { j with wave := some w }
  | [] => if w.pass = 1 then s.putJob job { j with wave := some { w with pass := 2, todo := s.waveCores job } } else s

/-- Whether the wave of a job is over and its outcome stands. -/
def Job.swept (j : Job) : Bool :=
  match j.wave with
  | some w => w.pass == 2 && w.todo.isEmpty
  | none => false

/-- STILL_WAVE (R307): a wave of a job starts, or reads one more network interface. -/
def execStillWave (job : Nat) (s : State) : Host.Outcome State Fault Refusal :=
  .next (match (s.job job).wave with
    | some w => if w.confined.isSome then s else s.passWave job w
    | none => if s.waveDue job then s.beginWave job none else s)

/-- CONFINED_WAVE (R309): the same over SR and CR, for the retiring package that a STILL.TO names. -/
def execConfinedWave (job : Nat) (s : State) : Host.Outcome State Fault Refusal :=
  .next (match (s.job job).wave with
    | some w => if w.confined.isSome then s.passWave job w else s
    | none =>
      match s.retireWait job with
      | some w => s.askHost w false
      | none => if s.waveDue job && (s.confinedFor job).isSome then s.beginWave job (s.confinedFor job) else s)

/-- The strand returns from STILL or STILL.TO (R200, R306): g[d] := WAVESTAT, one sent, of a marked activation in SR as well
(R309; notes/assumptions/76.md), an acquire at scope s. -/
def State.stillReturn (s : State) (u : Nat) (t : Strand) (d : Nat) (v : Word64) : State :=
  let s := s.putStrand u { (t.setGN d v).retire (t.pc + 4) with run := .running, wokenAt := s.tick }
  let s := if t.marked then s.countMarked t.core t.birthJob 1 0 else s
  (s.sent t.core t.birthJob).acquire (quadOf t.core)

/-- Whether a wave releases a waiting strand of its job, and into which register (R200, R307 to R309). -/
def State.releases (s : State) (w : Wave) (ended : Bool) (t : Strand) : Option Nat :=
  match t.run, w.confined with
  | .waiting (.still d since), none => if ended && since < w.begun then some d else none
  | .waiting (.stillTo d l since), x =>
    if since < w.begun && (!s.retiring t.vf l || (ended && x = some l)) then some d else none
  | _, _ => none

/-- WAVESTAT after a wave (R68, R308). -/
def waveStat (old : Word64) (still stuck : Bool) (w : Wave) : Word64 :=
  let waves := field64 ((bitsNat old 47 32 + 1) % 65536) 32
  if still then field64 1 63 ||| waves
  else if stuck then
    field64 1 62 ||| waves ||| field64 (if w.c2.toNat < w.s2.toNat then min (w.s2.toNat - w.c2.toNat) (2 ^ 32 - 1) else 0) 0
  else (old &&& (field64 1 62 ||| field64 (2 ^ 32 - 1) 0)) ||| waves

/-- How many waves in a row have found the same unequal sums (R308). -/
def sameCount (n : Nat) (ls lc : Word64) (w : Wave) : Nat :=
  if w.s2 = w.c2 then 0 else if n ≠ 0 && w.s2 = ls && w.c2 = lc then n + 1 else 1

/-- WAVE_OUTCOME (R307 to R309): the outcome updates WAVESTAT and releases the waiters; 8 unchanged waves report the job
stuck; a still wave that no STILL waits on ends the series. It waits while a table entry that it needs is with the host (R383). -/
def execWaveOutcome (job : Nat) (s : State) : Host.Outcome State Fault Refusal :=
  .next (match (s.job job).wave with
    | none => s
    | some w =>
      if !(s.job job).swept then s
      else
        match s.retireWait job with
        | some w => s.askHost w false
        | none =>
        let j := s.job job
        let vf := (s.jobVf job).getD 0
        let conf := w.confined.isSome
        let still := w.s1 = w.c1 && w.c1 = w.s2 && w.s2 = w.c2
        let same := if conf then sameCount j.confSame j.confS2 j.confC2 w else sameCount j.same j.lastS2 j.lastC2 w
        let stuck := 8 ≤ same
        let same := if stuck then 0 else same
        let ws := waveStat j.wavestat still stuck w
        let parked := s.strands.any fun p => p.2.birthJob == job && (match p.2.run with
          | .waiting (.still _ _) => true
          | .waiting (.stillTo _ _ _) => true
          | _ => false)
        let ends := still && !conf && !parked
        let j' := if conf then { j with confSame := same, confS2 := w.s2, confC2 := w.c2 }
          else { j with same := same, lastS2 := w.s2, lastC2 := w.c2, wasStill := still, firstOfSeries := false, series := !ends }
        let vector3 := still && !conf && (!j.wasStill || j.firstOfSeries)
        let out := s.releases w (still || stuck)
        let s := s.putJob job { j' with wavestat := ws, wave := none }
        let s := if stuck then s.event (s.firstDie vf) 0x07 0 job vf 0 [w.s2, w.c2] else s
        let s := if vector3 then s.emit (.irq (some vf) 3) else s
        s.strands.foldl (fun s p =>
          if p.2.birthJob = job then
            (match out p.2 with
              | some d => s.stillReturn p.1 p.2 d ws
              | none => s)
          else s) s)

/-- RESAMPLE (R193, R196): the strand parks once its store buffer is drained. -/
def resampleBody (a b d : BitVec 5) : Strand → State → Res := fun t s =>
  if !t.mayWait || t.pop.isNone then .trap 0x42 s.wordTval
  else if (t.pc : Int) + 4 > pcTop then .done s
  else if !s.canEnd s.cur t then .hold s
  else .hold (s.parkMe t (.resample d.toNat (field64 (bitsNat (t.g a) 31 0) 0) (t.g b)))

/-- The living strands of a population in the order of their indices (R194). -/
def State.population (s : State) (uid : Nat) : List (Nat × Strand) :=
  (s.strands.filter fun p => p.2.launch == uid && p.2.pop.isSome).insertionSort fun a b => a.2.pop.getD 0 ≤ b.2.pop.getD 0

/-- Whether every living strand of a population has issued RESAMPLE; a leaf not yet placed is living (R193, R317), and so is a
strand that a fence has taken (R370). -/
def State.resampleReady (s : State) (uid : Nat) : Bool :=
  let ps := s.population uid
  !ps.isEmpty && !(s.jobs.any fun j => j.2.launches.any fun l => l.uid == uid && l.broken) && ps.all (fun p => p.2.inResample) && !s.launchRecords uid

/-- A weight in units of 2^-149; none when it is NaN, infinite or below -0 (R195). -/
def weightUnits (w : Word64) : Option Nat :=
  match fF32.value (bitsNat w 31 0) with
  | .fin neg n d => if neg && n ≠ 0 then none else some (n * 2 ^ 149 / d)
  | _ => none

/-- u of R195 as a fraction: explicit, none when out of range; else of Mix64. -/
def resampleU (seed gb lineage : Word64) : Option (Nat × Nat) :=
  if bitAt gb 31 then
    match fF32.value (bitsNat gb 63 32) with
    | .fin neg n d => if (neg && n ≠ 0) || d ≤ n then none else some (n, d)
    | _ => none
  else some (bitsNat (mix64 seed (BitVec.ofNat 64 (bitsNat lineage 31 16))) 63 40, 2 ^ 24)

/-- The counts n(i) of R195 over weights w with their sum W, for N and u = un / ud. -/
def resampleCounts (n un ud total : Nat) : Nat → List Nat → List Nat
  | _, [] => []
  | c, w :: r =>
    let f (x : Nat) : Nat := (n * x * ud + un * total) / (total * ud)
    (f (c + w) - f c) :: resampleCounts n un ud total (c + w) r

/-- The operands a parked strand brought to RESAMPLE. -/
def Strand.resampleOp (t : Strand) : Nat × Word64 × Word64 :=
  match t.run with
  | .waiting (.resample d w gb) => (d, w, gb)
  | _ => (0, 0#64, 0#64)

/-- A strand goes on after RESAMPLE with a result (R195). -/
def State.resampleDone (s : State) (u : Nat) (t : Strand) (v : Word64) : State :=
  s.putStrand u { (t.setGN t.resampleOp.1 v).retire (t.pc + 4) with run := .running, wokenAt := s.tick }

/-- The first free slot for a clone (R196). -/
def State.cloneSlot (s : State) (src : Strand) : Option (Nat × Nat) :=
  let q := quadOf src.core
  let qs := (byDistance (hilbertOf q) ((s.partQuads src.vf).filter fun h => quadOfHilbert h ≠ q)).map quadOfHilbert
  let cs := src.core :: (q :: qs).flatMap fun x => [4 * x, 4 * x + 1, 4 * x + 2, 4 * x + 3]
  cs.findSome? fun c => (s.freeSlots c).head?.map fun k => (c, k)

/-- LINEAGE after RESAMPLE (R62): ROOT, GEN + 1, a copy index. -/
def nextLineage (l : Word64) (copy : Nat) : Word64 :=
  field64 (bitsNat l 63 32) 32 ||| field64 ((bitsNat l 31 16 + 1) % 65536) 16 ||| field64 (copy % 65536) 0

/-- Creates clone k of a strand (R196, R306, R315): counted sent at its core; it becomes ready by CLONE_READY. DESIGN CHOICE
(notes/assumptions/96.md): poison of the source's window does not go with the copy. -/
def State.clone (s : State) (src : Strand) (k idx : Nat) : State :=
  match s.cloneSlot src with
  | none => s
  | some (c, slot) =>
    let bs := s.windowBytes src
    let n := Strand.newborn src.kind src.vf src.birthJob c slot
    let regs := { src.regs with h := Vector.replicate 8 0#64, b := Vector.replicate 4 0#64 }
    let sys := { src.sys with lineage := nextLineage src.sys.lineage k, job := n.sys.job }
    let t : Strand := { n with launch := src.launch, anc := src.anc, pop := some idx, triggered := src.triggered,
                               pc := src.pc + 4, regs := regs, sys := sys, pendingClone := true }
    let t := t.setGN src.resampleOp.1 (BitVec.ofNat 64 k)
    let s := (s.putHome (memPool + c * 2 ^ 17 + slot * (s.part src.vf).window) bs).putStrand s.nextUid t
    ({ s with nextUid := s.nextUid + 1 } : State).sent c src.birthJob

/-- The survivors of stage 6 of R314, in order, as they stand after the ends: each goes on with its new index and LINEAGE, and its
clones take the indices after it (R194, R195). -/
def State.surviveAll (s : State) : Nat → List ((Nat × Strand) × Nat) → State
  | _, [] => s
  | idx, ((u, t), n) :: r =>
    if n = 0 then s.surviveAll idx r
    else
      let t := (s.strand? u).getD t
      let t := { t with pop := some idx, sys := { t.sys with lineage := nextLineage t.sys.lineage 0 } }
      (s.resampleDone u t 0#64).surviveAll (idx + n) r

/-- The clones of stage 6 of R314, in population order and copy-index order (R196). -/
def State.cloneAll (s : State) : Nat → List ((Nat × Strand) × Nat) → State
  | _, [] => s
  | idx, ((_, t), n) :: r =>
    ((List.range (n - 1)).foldl (fun s k => s.clone t (k + 1) (idx + k + 1)) s).cloneAll (idx + n) r

/-- The strands of a core that R48 gives a slot before any clone: those out of a slot whose wait has ended, and the survivors of the
decision out of a slot. -/
def State.heldOut (s : State) (both : List ((Nat × Strand) × Nat)) (c : Nat) : Nat :=
  (s.strands.filter fun p => p.2.core == c && p.2.slot.isNone &&
    (p.2.run == .running || both.any fun x => x.1.1 == p.1 && x.2 != 0)).length

/-- The places of free of R195 that are no clone's (notes/assumptions/75.md): a strand that ends out of a slot gives none, and
each restored strand takes a slot before new strands (R48). -/
def State.notForClones (s : State) (cs : List Nat) (both : List ((Nat × Strand) × Nat)) : Nat :=
  (both.filter fun x => x.2 == 0 && x.1.2.slot.isNone).length + (cs.map (s.heldOut both)).sum

/-- RESAMPLE_DECISION (R195, R196, R314): the counts are computed exactly, and strands end or are cloned. DEDUCED
(notes/assumptions/75.md): strands out of a slot are restored before clones are placed, and the slots that they are to take are not
free. -/
def execResampleDecision (job uid : Nat) (s : State) : Host.Outcome State Fault Refusal :=
  .next (
    if !s.resampleReady uid then s
    else
      let ps := s.population uid
      let all (f : State → Nat → Strand → State) (s : State) : State := ps.foldl (fun s p => f s p.1 p.2) s
      let trap (v : Word64) : State := all (fun s u t => s.putStrand u { t with run := .running, wokenAt := s.tick, doom := some (0x41, v) }) s
      let ws := ps.map fun p => weightUnits p.2.resampleOp.2.1
      let z := (ps.headD (0, Strand.newborn .resident 0 0 0 0)).2
      let gb := z.resampleOp.2.2
      let seed := (((s.job job).launches.find? fun l => l.uid == uid).map Launch.seed).getD 0#64
      match ws.findIdx? Option.isNone, resampleU seed gb z.sys.lineage with
      | some i, _ => trap (BitVec.ofNat 64 i)
      | none, none => trap gb
      | none, some (un, ud) =>
        let w := ws.map fun x => x.getD 0
        if w.sum = 0 then
          all (fun s u t => s.resampleDone u { t with sys := { t.sys with status := t.sys.status ||| 2#64 } } 0#64) s
        else
          let ns := resampleCounts (bitsNat gb 30 0) un ud w.sum 0 w
          let both := ps.zip ns
          let need := (ns.map fun n => n - 1).sum
          let cs := s.partCores z.vf
          let free := (cs.flatMap s.freeSlots).length + (ns.filter fun n => n = 0).length - s.notForClones cs both
          if free < need then all (fun s u t => s.resampleDone u t (BitVec.allOnes 64)) s
          else
            let s := both.foldl (fun s p =>
              if p.2 = 0 then ((s.leaveAll p.1.1 p.1.2).settleBarriers p.1.1).endStrand p.1.1 p.1.2 else s) s
            ((s.surviveAll 0 both).restoreAll cs).cloneAll 0 both)

/-- CLONE_READY (R315): the clone's registers and window have been written. -/
def execCloneReady (u : Nat) (s : State) : Host.Outcome State Fault Refusal :=
  .next (s.modStrand u fun t => { t with pendingClone := false })

/-- BARSET (R198). -/
def execBarset (a b : BitVec 5) (d : BitVec 2) (s : State) : Host.Outcome State Fault Refusal := runWord {} (barsetBody a b d) s
/-- BARARR (R198, R313). -/
def execBararr (d : BitVec 2) (s : State) : Host.Outcome State Fault Refusal := runWord {} (bararrBody d) s
/-- BARWAIT (R198). -/
def execBarwait (d : BitVec 2) (s : State) : Host.Outcome State Fault Refusal := runWord {} (barwaitBody d) s
/-- BARLEAVE (R198). -/
def execBarleave (d : BitVec 2) (s : State) : Host.Outcome State Fault Refusal := runWord {} (barleaveBody d) s
/-- BARLEAVE.O (R199). -/
def execBarleaveO (a b : BitVec 5) (s : State) : Host.Outcome State Fault Refusal := runWord { mode := 1 } (barleaveOBody a b) s
/-- STILL (R200). -/
def execStill (d : BitVec 5) (s : State) : Host.Outcome State Fault Refusal := runWord {} (stillBody d) s
/-- STILL.TO (R200). -/
def execStillTo (a d : BitVec 5) (s : State) : Host.Outcome State Fault Refusal := runWord { mode := 1 } (stillToBody a d) s
/-- QCOUNT (R201). -/
def execQcount (a d : BitVec 5) (s : State) : Host.Outcome State Fault Refusal := runWord { inCode := true } (qcountBody a d) s
/-- QFIX (R201). -/
def execQfix (a b : BitVec 5) (s : State) : Host.Outcome State Fault Refusal := runWord { mode := 1 } (qfixBody a b) s
/-- RESAMPLE (R193 to R196). -/
def execResample (a b d : BitVec 5) (s : State) : Host.Outcome State Fault Refusal := runWord {} (resampleBody a b d) s

end Sys2Proof.Machine
end

