-- ==== Sys2Proof/Decode.lean ====
section
/-!
DEFINITION. The decoder and the encoder of Ubdun words, by the formats of R72, the major-opcode map of R77 and the function
maps R91, R116, R153, R172 and R202; and the layout of an instruction in memory (R69).
-/
namespace Sys2Proof

/-- The field of a word that starts at bit lo and is n bits wide. -/
def fld (w : Word32) (lo n : Nat) : BitVec n := w.extractLsb' lo n

/-- The type a t field names (R85); codes 14 and 15 are no type. -/
def EType.ofCode (c : BitVec 4) : Option EType :=
  match c.toNat with
  | 0 => some .s8 | 1 => some .s16 | 2 => some .s32 | 3 => some .s64
  | 4 => some .z8 | 5 => some .z16 | 6 => some .z32 | 7 => some .z64
  | 8 => some .bf16 | 9 => some .f16 | 10 => some .f32
  | 11 => some .c8a | 12 => some .c8b | 13 => some .c4
  | _ => none

/-- The t field of a type (R85). -/
def EType.code (t : EType) : BitVec 4 := BitVec.ofNat 4 t.num

/-- The ordering an ordering field names (R73). -/
def MOrd.ofCode (c : BitVec 2) : MOrd :=
  match c.toNat with
  | 0 => .rlx | 1 => .acq | 2 => .rel | _ => .ar

/-- The ordering field (R73). -/
def MOrd.code : MOrd → BitVec 2
  | .rlx => 0 | .acq => 1 | .rel => 2 | .ar => 3

/-- The scope a scope field names; 5 to 7 are reserved (R73). -/
def Scope.ofCode (c : BitVec 3) : Option Scope :=
  match c.toNat with
  | 0 => some .c | 1 => some .q | 2 => some .d | 3 => some .p | 4 => some .s
  | _ => none

/-- The scope field (R73). -/
def Scope.code : Scope → BitVec 3
  | .c => 0 | .q => 1 | .d => 2 | .p => 3 | .s => 4

/-- The system register a number names; 0x13 to 0x1f name none (R59, R216). -/
def SysReg.ofCode (c : BitVec 5) : Option SysReg :=
  match c.toNat with
  | 0 => some .status | 1 => some .tcause | 2 => some .tpc | 3 => some .tval | 4 => some .tvec | 5 => some .utvec
  | 6 => some .deleg | 7 => some .cyc | 8 => some .strand | 9 => some .lineage | 10 => some .job | 11 => some .part
  | 12 => some .fflags | 13 => some .frm | 14 => some .eallow | 15 => some .qperiod | 16 => some .tblsel
  | 17 => some .wavestat | 18 => some .drycnt
  | _ => none

/-- The number of a system register (R59). -/
def SysReg.code : SysReg → BitVec 5
  | .status => 0 | .tcause => 1 | .tpc => 2 | .tval => 3 | .tvec => 4 | .utvec => 5 | .deleg => 6 | .cyc => 7
  | .strand => 8 | .lineage => 9 | .job => 10 | .part => 11 | .fflags => 12 | .frm => 13 | .eallow => 14
  | .qperiod => 15 | .tblsel => 16 | .wavestat => 17 | .drycnt => 18

/-- Major 0x01 (R92). A word of this major that no line takes is no instruction (R78). -/
def decode01 (w : Word32) : Option Instr :=
  if fld w 0 11 = 0x0#11 then some (.add (fld w 21 5) (fld w 16 5) (fld w 11 5)) else
  if fld w 0 11 = 0x1#11 then some (.sub (fld w 21 5) (fld w 16 5) (fld w 11 5)) else
  if fld w 0 11 = 0x2#11 then some (.and (fld w 21 5) (fld w 16 5) (fld w 11 5)) else
  if fld w 0 11 = 0x3#11 then some (.or (fld w 21 5) (fld w 16 5) (fld w 11 5)) else
  if fld w 0 11 = 0x4#11 then some (.xor (fld w 21 5) (fld w 16 5) (fld w 11 5)) else
  if fld w 0 11 = 0x5#11 then some (.slt (fld w 21 5) (fld w 16 5) (fld w 11 5)) else
  if fld w 0 11 = 0x6#11 then some (.sltz (fld w 21 5) (fld w 16 5) (fld w 11 5)) else
  if fld w 0 11 = 0x7#11 then some (.sll (fld w 21 5) (fld w 16 5) (fld w 11 5)) else
  if fld w 0 11 = 0x8#11 then some (.srl (fld w 21 5) (fld w 16 5) (fld w 11 5)) else
  if fld w 0 11 = 0x9#11 then some (.sra (fld w 21 5) (fld w 16 5) (fld w 11 5)) else
  if fld w 0 11 = 0xa#11 then some (.rol (fld w 21 5) (fld w 16 5) (fld w 11 5)) else
  if fld w 0 11 = 0xb#11 then some (.ror (fld w 21 5) (fld w 16 5) (fld w 11 5)) else
  if fld w 0 11 = 0x400#11 then some (.addS32 (fld w 21 5) (fld w 16 5) (fld w 11 5)) else
  if fld w 0 11 = 0x600#11 then some (.addZ32 (fld w 21 5) (fld w 16 5) (fld w 11 5)) else
  if fld w 0 11 = 0x401#11 then some (.subS32 (fld w 21 5) (fld w 16 5) (fld w 11 5)) else
  if fld w 0 11 = 0x601#11 then some (.subZ32 (fld w 21 5) (fld w 16 5) (fld w 11 5)) else
  if fld w 0 11 = 0x407#11 then some (.sllS32 (fld w 21 5) (fld w 16 5) (fld w 11 5)) else
  if fld w 0 11 = 0x607#11 then some (.sllZ32 (fld w 21 5) (fld w 16 5) (fld w 11 5)) else
  if fld w 0 11 = 0x408#11 then some (.srlS32 (fld w 21 5) (fld w 16 5) (fld w 11 5)) else
  if fld w 0 11 = 0x608#11 then some (.srlZ32 (fld w 21 5) (fld w 16 5) (fld w 11 5)) else
  if fld w 0 11 = 0x409#11 then some (.sraS32 (fld w 21 5) (fld w 16 5) (fld w 11 5)) else
  if fld w 0 11 = 0x609#11 then some (.sraZ32 (fld w 21 5) (fld w 16 5) (fld w 11 5)) else
  if fld w 0 11 = 0x40a#11 then some (.rolS32 (fld w 21 5) (fld w 16 5) (fld w 11 5)) else
  if fld w 0 11 = 0x60a#11 then some (.rolZ32 (fld w 21 5) (fld w 16 5) (fld w 11 5)) else
  if fld w 0 11 = 0x40b#11 then some (.rorS32 (fld w 21 5) (fld w 16 5) (fld w 11 5)) else
  if fld w 0 11 = 0x60b#11 then some (.rorZ32 (fld w 21 5) (fld w 16 5) (fld w 11 5)) else
  none

/-- Major 0x08 (R94). A word of this major that no line takes is no instruction (R78). -/
def decode08 (w : Word32) : Option Instr :=
  if fld w 0 10 = 0x0#10 then some (.slli (fld w 21 5) (fld w 16 5) (fld w 10 6)) else
  if fld w 0 10 = 0x1#10 then some (.srli (fld w 21 5) (fld w 16 5) (fld w 10 6)) else
  if fld w 0 10 = 0x2#10 then some (.srai (fld w 21 5) (fld w 16 5) (fld w 10 6)) else
  if fld w 0 10 = 0x3#10 then some (.rori (fld w 21 5) (fld w 16 5) (fld w 10 6)) else
  if fld w 0 10 = 0x200#10 ∧ fld w 15 1 = 0x0#1 then some (.slliS32 (fld w 21 5) (fld w 16 5) (fld w 10 5)) else
  if fld w 0 10 = 0x300#10 ∧ fld w 15 1 = 0x0#1 then some (.slliZ32 (fld w 21 5) (fld w 16 5) (fld w 10 5)) else
  if fld w 0 10 = 0x201#10 ∧ fld w 15 1 = 0x0#1 then some (.srliS32 (fld w 21 5) (fld w 16 5) (fld w 10 5)) else
  if fld w 0 10 = 0x301#10 ∧ fld w 15 1 = 0x0#1 then some (.srliZ32 (fld w 21 5) (fld w 16 5) (fld w 10 5)) else
  if fld w 0 10 = 0x202#10 ∧ fld w 15 1 = 0x0#1 then some (.sraiS32 (fld w 21 5) (fld w 16 5) (fld w 10 5)) else
  if fld w 0 10 = 0x302#10 ∧ fld w 15 1 = 0x0#1 then some (.sraiZ32 (fld w 21 5) (fld w 16 5) (fld w 10 5)) else
  if fld w 0 10 = 0x203#10 ∧ fld w 15 1 = 0x0#1 then some (.roriS32 (fld w 21 5) (fld w 16 5) (fld w 10 5)) else
  if fld w 0 10 = 0x303#10 ∧ fld w 15 1 = 0x0#1 then some (.roriZ32 (fld w 21 5) (fld w 16 5) (fld w 10 5)) else
  none

/-- Major 0x0c (R97). A word of this major that no line takes is no instruction (R78). -/
def decode0C (w : Word32) : Option Instr :=
  if fld w 0 11 = 0x0#11 then some (.mul (fld w 21 5) (fld w 16 5) (fld w 11 5)) else
  if fld w 0 11 = 0x1#11 then some (.mulhiS64 (fld w 21 5) (fld w 16 5) (fld w 11 5)) else
  if fld w 0 11 = 0x2#11 then some (.mulhiZ64 (fld w 21 5) (fld w 16 5) (fld w 11 5)) else
  if fld w 0 11 = 0x3#11 then some (.mulhm (fld w 21 5) (fld w 16 5) (fld w 11 5)) else
  if fld w 0 11 = 0x4#11 then some (.quoS64 (fld w 21 5) (fld w 16 5) (fld w 11 5)) else
  if fld w 0 11 = 0x5#11 then some (.quoZ64 (fld w 21 5) (fld w 16 5) (fld w 11 5)) else
  if fld w 0 11 = 0x6#11 then some (.rmdS64 (fld w 21 5) (fld w 16 5) (fld w 11 5)) else
  if fld w 0 11 = 0x7#11 then some (.rmdZ64 (fld w 21 5) (fld w 16 5) (fld w 11 5)) else
  if fld w 0 11 = 0x8#11 then some (.mulS32 (fld w 21 5) (fld w 16 5) (fld w 11 5)) else
  if fld w 0 11 = 0x9#11 then some (.mulZ32 (fld w 21 5) (fld w 16 5) (fld w 11 5)) else
  if fld w 0 11 = 0xa#11 then some (.quoS32 (fld w 21 5) (fld w 16 5) (fld w 11 5)) else
  if fld w 0 11 = 0xb#11 then some (.quoZ32 (fld w 21 5) (fld w 16 5) (fld w 11 5)) else
  if fld w 0 11 = 0xc#11 then some (.rmdS32 (fld w 21 5) (fld w 16 5) (fld w 11 5)) else
  if fld w 0 11 = 0xd#11 then some (.rmdZ32 (fld w 21 5) (fld w 16 5) (fld w 11 5)) else
  if fld w 0 11 = 0xe#11 then some (.mad (fld w 21 5) (fld w 16 5) (fld w 11 5)) else
  if fld w 0 11 = 0xf#11 then some (.msb (fld w 21 5) (fld w 16 5) (fld w 11 5)) else
  none

/-- Major 0x0d (R99). A word of this major that no line takes is no instruction (R78). -/
def decode0D (w : Word32) : Option Instr :=
  if fld w 0 6 = 0x0#6 ∧ fld w 6 10 = 0x0#10 then some (.lzc (fld w 21 5) (fld w 16 5)) else
  if fld w 0 6 = 0x1#6 ∧ fld w 6 10 = 0x0#10 then some (.tzc (fld w 21 5) (fld w 16 5)) else
  if fld w 0 6 = 0x2#6 ∧ fld w 6 10 = 0x0#10 then some (.ones (fld w 21 5) (fld w 16 5)) else
  if fld w 0 6 = 0x3#6 ∧ fld w 6 10 = 0x0#10 then some (.bswap (fld w 21 5) (fld w 16 5)) else
  if fld w 0 6 = 0x4#6 ∧ fld w 6 10 = 0x0#10 then some (.bitrev (fld w 21 5) (fld w 16 5)) else
  if fld w 0 6 = 0x5#6 ∧ fld w 6 5 = 0x0#5 then some (.minS64 (fld w 21 5) (fld w 16 5) (fld w 11 5)) else
  if fld w 0 6 = 0x6#6 ∧ fld w 6 5 = 0x0#5 then some (.maxS64 (fld w 21 5) (fld w 16 5) (fld w 11 5)) else
  if fld w 0 6 = 0x7#6 ∧ fld w 6 5 = 0x0#5 then some (.minZ64 (fld w 21 5) (fld w 16 5) (fld w 11 5)) else
  if fld w 0 6 = 0x8#6 ∧ fld w 6 5 = 0x0#5 then some (.maxZ64 (fld w 21 5) (fld w 16 5) (fld w 11 5)) else
  if fld w 0 6 = 0x9#6 ∧ fld w 6 5 = 0x0#5 then some (.andnot (fld w 21 5) (fld w 16 5) (fld w 11 5)) else
  if fld w 0 6 = 0xa#6 ∧ fld w 6 5 = 0x0#5 then some (.ornot (fld w 21 5) (fld w 16 5) (fld w 11 5)) else
  if fld w 0 6 = 0xb#6 then some (.sel (fld w 21 5) (fld w 16 5) (fld w 11 5) (fld w 6 5)) else
  if fld w 0 6 = 0xc#6 ∧ fld w 6 10 = 0x0#10 then some (.extS8 (fld w 21 5) (fld w 16 5)) else
  if fld w 0 6 = 0xd#6 ∧ fld w 6 10 = 0x0#10 then some (.extS16 (fld w 21 5) (fld w 16 5)) else
  if fld w 0 6 = 0xe#6 ∧ fld w 6 10 = 0x0#10 then some (.extS32 (fld w 21 5) (fld w 16 5)) else
  if fld w 0 6 = 0xf#6 ∧ fld w 6 10 = 0x0#10 then some (.extZ32 (fld w 21 5) (fld w 16 5)) else
  if fld w 0 6 = 0x10#6 ∧ fld w 6 10 = 0x0#10 then some (.extZ8 (fld w 21 5) (fld w 16 5)) else
  if fld w 0 6 = 0x11#6 ∧ fld w 6 10 = 0x0#10 then some (.extZ16 (fld w 21 5) (fld w 16 5)) else
  if fld w 0 6 = 0x12#6 ∧ fld w 6 5 = 0x0#5 then some (.xnor (fld w 21 5) (fld w 16 5) (fld w 11 5)) else
  none

/-- Major 0x0e (R101). A word of this major that no line takes is no instruction (R78). -/
def decode0E (w : Word32) : Option Instr :=
  if fld w 0 11 = 0x0#11 then some (.ptrunc (fld w 21 5) (fld w 16 5) (fld w 11 5)) else
  if fld w 0 11 = 0x1#11 ∧ fld w 11 5 = 0x0#5 then some (.pparent (fld w 21 5) (fld w 16 5)) else
  if fld w 0 11 = 0x2#11 then some (.pchild (fld w 21 5) (fld w 16 5) (fld w 11 5)) else
  if fld w 0 11 = 0x3#11 then some (.psib (fld w 21 5) (fld w 16 5) (fld w 11 5)) else
  if fld w 0 11 = 0x4#11 ∧ fld w 11 5 = 0x0#5 then some (.pnext (fld w 21 5) (fld w 16 5)) else
  if fld w 0 11 = 0x5#11 then some (.pdig (fld w 21 5) (fld w 16 5) (fld w 11 5)) else
  if fld w 0 11 = 0x6#11 then some (.psdig (fld w 21 5) (fld w 16 5) (fld w 11 5)) else
  if fld w 0 11 = 0x7#11 then some (.pin (fld w 21 5) (fld w 16 5) (fld w 11 5)) else
  if fld w 0 11 = 0x8#11 ∧ fld w 11 5 = 0x0#5 then some (.plevel (fld w 21 5) (fld w 16 5)) else
  if fld w 0 11 = 0x9#11 ∧ fld w 11 5 = 0x0#5 then some (.pesz (fld w 21 5) (fld w 16 5)) else
  if fld w 0 11 = 0xa#11 ∧ fld w 11 5 = 0x0#5 then some (.pbase (fld w 21 5) (fld w 16 5)) else
  if fld w 0 11 = 0xb#11 then some (.pmake (fld w 21 5) (fld w 16 5) (fld w 11 5)) else
  if fld w 0 11 = 0xc#11 then some (.ppack (fld w 21 5) (fld w 16 5) (fld w 11 5)) else
  if fld w 0 11 = 0xd#11 ∧ fld w 11 5 = 0x0#5 then some (.prow (fld w 21 5) (fld w 16 5)) else
  if fld w 0 11 = 0xe#11 ∧ fld w 11 5 = 0x0#5 then some (.pcol (fld w 21 5) (fld w 16 5)) else
  none

/-- Major 0x1c (R120). A word of this major that no line takes is no instruction (R78). -/
def decode1C (w : Word32) : Option Instr :=
  if fld w 0 11 = 0x0#11 ∧ fld w 11 5 = 0x0#5 then some (.bld (fld w 21 5) (fld w 16 5)) else
  if fld w 0 11 = 0x1#11 ∧ fld w 11 5 = 0x0#5 then some (.bst (fld w 21 5) (fld w 16 5)) else
  if fld w 0 11 = 0x2#11 ∧ fld w 11 5 = 0x0#5 then some (.bcopy (fld w 21 5) (fld w 16 5)) else
  if fld w 0 11 = 0x3#11 ∧ fld w 11 5 = 0x0#5 then some (.bfill (fld w 21 5) (fld w 16 5)) else
  if fld w 0 11 = 0x4#11 ∧ fld w 11 10 = 0x0#10 then some (.bzero (fld w 21 5)) else
  if fld w 0 11 = 0x5#11 ∧ fld w 11 10 = 0x0#10 then some (.bpref (fld w 21 5)) else
  if fld w 0 11 = 0x6#11 ∧ fld w 11 10 = 0x0#10 then some (.bclean (fld w 21 5)) else
  if fld w 0 11 = 0x7#11 ∧ fld w 11 10 = 0x0#10 then some (.bflush (fld w 21 5)) else
  none

/-- Major 0x1d (R124). A word of this major that no line takes is no instruction (R78). DEDUCED
(notes/assumptions/84.md): amo.ld takes any field b, whose register is not used. -/
def decode1D (w : Word32) : Option Instr :=
  if fld w 5 6 = 0x0#6 then (Scope.ofCode (fld w 0 3)).map fun sc => .amoAddW (fld w 21 5) (fld w 16 5) (fld w 11 5) (MOrd.ofCode (fld w 3 2)) sc else
  if fld w 5 6 = 0x20#6 then (Scope.ofCode (fld w 0 3)).map fun sc => .amoAddD (fld w 21 5) (fld w 16 5) (fld w 11 5) (MOrd.ofCode (fld w 3 2)) sc else
  if fld w 5 6 = 0x1#6 then (Scope.ofCode (fld w 0 3)).map fun sc => .amoMinW (fld w 21 5) (fld w 16 5) (fld w 11 5) (MOrd.ofCode (fld w 3 2)) sc else
  if fld w 5 6 = 0x21#6 then (Scope.ofCode (fld w 0 3)).map fun sc => .amoMinD (fld w 21 5) (fld w 16 5) (fld w 11 5) (MOrd.ofCode (fld w 3 2)) sc else
  if fld w 5 6 = 0x2#6 then (Scope.ofCode (fld w 0 3)).map fun sc => .amoMaxW (fld w 21 5) (fld w 16 5) (fld w 11 5) (MOrd.ofCode (fld w 3 2)) sc else
  if fld w 5 6 = 0x22#6 then (Scope.ofCode (fld w 0 3)).map fun sc => .amoMaxD (fld w 21 5) (fld w 16 5) (fld w 11 5) (MOrd.ofCode (fld w 3 2)) sc else
  if fld w 5 6 = 0x3#6 then (Scope.ofCode (fld w 0 3)).map fun sc => .amoMinuW (fld w 21 5) (fld w 16 5) (fld w 11 5) (MOrd.ofCode (fld w 3 2)) sc else
  if fld w 5 6 = 0x23#6 then (Scope.ofCode (fld w 0 3)).map fun sc => .amoMinuD (fld w 21 5) (fld w 16 5) (fld w 11 5) (MOrd.ofCode (fld w 3 2)) sc else
  if fld w 5 6 = 0x4#6 then (Scope.ofCode (fld w 0 3)).map fun sc => .amoMaxuW (fld w 21 5) (fld w 16 5) (fld w 11 5) (MOrd.ofCode (fld w 3 2)) sc else
  if fld w 5 6 = 0x24#6 then (Scope.ofCode (fld w 0 3)).map fun sc => .amoMaxuD (fld w 21 5) (fld w 16 5) (fld w 11 5) (MOrd.ofCode (fld w 3 2)) sc else
  if fld w 5 6 = 0x5#6 then (Scope.ofCode (fld w 0 3)).map fun sc => .amoAndW (fld w 21 5) (fld w 16 5) (fld w 11 5) (MOrd.ofCode (fld w 3 2)) sc else
  if fld w 5 6 = 0x25#6 then (Scope.ofCode (fld w 0 3)).map fun sc => .amoAndD (fld w 21 5) (fld w 16 5) (fld w 11 5) (MOrd.ofCode (fld w 3 2)) sc else
  if fld w 5 6 = 0x6#6 then (Scope.ofCode (fld w 0 3)).map fun sc => .amoOrW (fld w 21 5) (fld w 16 5) (fld w 11 5) (MOrd.ofCode (fld w 3 2)) sc else
  if fld w 5 6 = 0x26#6 then (Scope.ofCode (fld w 0 3)).map fun sc => .amoOrD (fld w 21 5) (fld w 16 5) (fld w 11 5) (MOrd.ofCode (fld w 3 2)) sc else
  if fld w 5 6 = 0x7#6 then (Scope.ofCode (fld w 0 3)).map fun sc => .amoXorW (fld w 21 5) (fld w 16 5) (fld w 11 5) (MOrd.ofCode (fld w 3 2)) sc else
  if fld w 5 6 = 0x27#6 then (Scope.ofCode (fld w 0 3)).map fun sc => .amoXorD (fld w 21 5) (fld w 16 5) (fld w 11 5) (MOrd.ofCode (fld w 3 2)) sc else
  if fld w 5 6 = 0x8#6 then (Scope.ofCode (fld w 0 3)).map fun sc => .amoSwapW (fld w 21 5) (fld w 16 5) (fld w 11 5) (MOrd.ofCode (fld w 3 2)) sc else
  if fld w 5 6 = 0x28#6 then (Scope.ofCode (fld w 0 3)).map fun sc => .amoSwapD (fld w 21 5) (fld w 16 5) (fld w 11 5) (MOrd.ofCode (fld w 3 2)) sc else
  if fld w 5 6 = 0x9#6 then (Scope.ofCode (fld w 0 3)).map fun sc => .amoCasW (fld w 21 5) (fld w 16 5) (fld w 11 5) (MOrd.ofCode (fld w 3 2)) sc else
  if fld w 5 6 = 0x29#6 then (Scope.ofCode (fld w 0 3)).map fun sc => .amoCasD (fld w 21 5) (fld w 16 5) (fld w 11 5) (MOrd.ofCode (fld w 3 2)) sc else
  if fld w 5 6 = 0xa#6 then (Scope.ofCode (fld w 0 3)).map fun sc => .amoFaddW (fld w 21 5) (fld w 16 5) (fld w 11 5) (MOrd.ofCode (fld w 3 2)) sc else
  if fld w 5 6 = 0xb#6 then (Scope.ofCode (fld w 0 3)).map fun sc => .amoLdW (fld w 21 5) (fld w 16 5) (fld w 11 5) (MOrd.ofCode (fld w 3 2)) sc else
  if fld w 5 6 = 0x2b#6 then (Scope.ofCode (fld w 0 3)).map fun sc => .amoLdD (fld w 21 5) (fld w 16 5) (fld w 11 5) (MOrd.ofCode (fld w 3 2)) sc else
  if fld w 5 6 = 0xc#6 ∧ fld w 21 5 = 0x0#5 then (Scope.ofCode (fld w 0 3)).map fun sc => .amoStW (fld w 16 5) (fld w 11 5) (MOrd.ofCode (fld w 3 2)) sc else
  if fld w 5 6 = 0x2c#6 ∧ fld w 21 5 = 0x0#5 then (Scope.ofCode (fld w 0 3)).map fun sc => .amoStD (fld w 16 5) (fld w 11 5) (MOrd.ofCode (fld w 3 2)) sc else
  none

/-- Major 0x1e (R127, R128). A word of this major that no line takes is no instruction (R78). -/
def decode1E (w : Word32) : Option Instr :=
  if fld w 5 6 = 0x0#6 ∧ fld w 11 15 = 0x0#15 then (Scope.ofCode (fld w 0 3)).map fun sc => .fence (MOrd.ofCode (fld w 3 2)) sc else
  if fld w 5 6 = 0x1#6 ∧ fld w 11 5 = 0x0#5 then (Scope.ofCode (fld w 0 3)).map fun sc => .promote (fld w 21 5) (fld w 16 5) (MOrd.ofCode (fld w 3 2)) sc else
  none

/-- Major 0x1f (R129). A word of this major that no line takes is no instruction (R78). -/
def decode1F (w : Word32) : Option Instr :=
  if fld w 0 11 = 0x0#11 ∧ fld w 24 2 = 0x0#2 then some (.wset (fld w 21 3) (fld w 16 5) (fld w 11 5)) else
  if fld w 0 11 = 0x1#11 ∧ fld w 24 2 = 0x0#2 ∧ fld w 11 10 = 0x0#10 then some (.wclr (fld w 21 3)) else
  if fld w 0 11 = 0x2#11 ∧ fld w 19 2 = 0x0#2 ∧ fld w 11 5 = 0x0#5 then some (.wref (fld w 21 5) (fld w 16 3)) else
  if fld w 0 11 = 0x3#11 ∧ fld w 19 2 = 0x0#2 ∧ fld w 11 5 = 0x0#5 then some (.wrt (fld w 21 5) (fld w 16 3)) else
  if fld w 0 11 = 0x4#11 ∧ fld w 11 5 = 0x0#5 then some (.wqry (fld w 21 5) (fld w 16 5)) else
  none

/-- Major 0x28 (R107 to R109). A word of this major that no line takes is no instruction (R78). -/
def decode28 (w : Word32) : Option Instr :=
  if fld w 0 11 = 0x0#11 ∧ fld w 21 5 = 0x0#5 ∧ fld w 11 5 = 0x0#5 then some (.sleepuntil (fld w 16 5)) else
  if fld w 0 11 = 0x1#11 ∧ fld w 11 15 = 0x0#15 then some (.yield) else
  if fld w 0 11 = 0x2#11 ∧ fld w 11 15 = 0x0#15 then some (.exit) else
  none

/-- Major 0x30 (R135). A word of this major that no line takes is no instruction (R78). -/
def decode30 (w : Word32) : Option Instr :=
  if fld w 0 4 = 0x0#4 then (EType.ofCode (fld w 4 4)).map fun t => .vadd (fld w 21 5) (fld w 16 5) (fld w 11 5) (fld w 8 3) t else
  if fld w 0 4 = 0x1#4 then (EType.ofCode (fld w 4 4)).map fun t => .vsub (fld w 21 5) (fld w 16 5) (fld w 11 5) (fld w 8 3) t else
  if fld w 0 4 = 0x2#4 then (EType.ofCode (fld w 4 4)).map fun t => .vmul (fld w 21 5) (fld w 16 5) (fld w 11 5) (fld w 8 3) t else
  if fld w 0 4 = 0x3#4 then (EType.ofCode (fld w 4 4)).map fun t => .vfma (fld w 21 5) (fld w 16 5) (fld w 11 5) (fld w 8 3) t else
  if fld w 0 4 = 0x4#4 then (EType.ofCode (fld w 4 4)).map fun t => .vfnma (fld w 21 5) (fld w 16 5) (fld w 11 5) (fld w 8 3) t else
  if fld w 0 4 = 0x5#4 then (EType.ofCode (fld w 4 4)).map fun t => .vmin (fld w 21 5) (fld w 16 5) (fld w 11 5) (fld w 8 3) t else
  if fld w 0 4 = 0x6#4 then (EType.ofCode (fld w 4 4)).map fun t => .vmax (fld w 21 5) (fld w 16 5) (fld w 11 5) (fld w 8 3) t else
  if fld w 0 4 = 0x7#4 ∧ fld w 11 5 = 0x0#5 then (EType.ofCode (fld w 4 4)).map fun t => .vrcpe (fld w 21 5) (fld w 16 5) (fld w 8 3) t else
  if fld w 0 4 = 0x8#4 ∧ fld w 11 5 = 0x0#5 then (EType.ofCode (fld w 4 4)).map fun t => .vrsqe (fld w 21 5) (fld w 16 5) (fld w 8 3) t else
  if fld w 0 4 = 0x9#4 then (EType.ofCode (fld w 4 4)).map fun t => .vadds (fld w 21 5) (fld w 16 5) (fld w 11 5) (fld w 8 3) t else
  if fld w 0 4 = 0xa#4 then (EType.ofCode (fld w 4 4)).map fun t => .vsubs (fld w 21 5) (fld w 16 5) (fld w 11 5) (fld w 8 3) t else
  if fld w 0 4 = 0xb#4 then (EType.ofCode (fld w 4 4)).map fun t => .vand (fld w 21 5) (fld w 16 5) (fld w 11 5) (fld w 8 3) t else
  if fld w 0 4 = 0xc#4 then (EType.ofCode (fld w 4 4)).map fun t => .vor (fld w 21 5) (fld w 16 5) (fld w 11 5) (fld w 8 3) t else
  if fld w 0 4 = 0xd#4 then (EType.ofCode (fld w 4 4)).map fun t => .vxor (fld w 21 5) (fld w 16 5) (fld w 11 5) (fld w 8 3) t else
  if fld w 0 4 = 0xe#4 then (EType.ofCode (fld w 4 4)).map fun t => .vsl (fld w 21 5) (fld w 16 5) (fld w 11 5) (fld w 8 3) t else
  if fld w 0 4 = 0xf#4 then (EType.ofCode (fld w 4 4)).map fun t => .vsr (fld w 21 5) (fld w 16 5) (fld w 11 5) (fld w 8 3) t else
  none

/-- Major 0x31 (R138). A word of this major that no line takes is no instruction (R78). -/
def decode31 (w : Word32) : Option Instr :=
  if fld w 0 4 = 0x0#4 ∧ fld w 24 2 = 0x0#2 then (EType.ofCode (fld w 4 4)).map fun t => .vceq (fld w 21 3) (fld w 16 5) (fld w 11 5) (fld w 8 3) t else
  if fld w 0 4 = 0x1#4 ∧ fld w 24 2 = 0x0#2 then (EType.ofCode (fld w 4 4)).map fun t => .vcne (fld w 21 3) (fld w 16 5) (fld w 11 5) (fld w 8 3) t else
  if fld w 0 4 = 0x2#4 ∧ fld w 24 2 = 0x0#2 then (EType.ofCode (fld w 4 4)).map fun t => .vclt (fld w 21 3) (fld w 16 5) (fld w 11 5) (fld w 8 3) t else
  if fld w 0 4 = 0x3#4 ∧ fld w 24 2 = 0x0#2 then (EType.ofCode (fld w 4 4)).map fun t => .vcle (fld w 21 3) (fld w 16 5) (fld w 11 5) (fld w 8 3) t else
  if fld w 0 4 = 0x4#4 ∧ fld w 24 2 = 0x0#2 ∧ fld w 19 2 = 0x0#2 ∧ fld w 14 2 = 0x0#2 ∧ fld w 4 7 = 0x0#7 then some (.kand (fld w 21 3) (fld w 16 3) (fld w 11 3)) else
  if fld w 0 4 = 0x5#4 ∧ fld w 24 2 = 0x0#2 ∧ fld w 19 2 = 0x0#2 ∧ fld w 14 2 = 0x0#2 ∧ fld w 4 7 = 0x0#7 then some (.kor (fld w 21 3) (fld w 16 3) (fld w 11 3)) else
  if fld w 0 4 = 0x6#4 ∧ fld w 24 2 = 0x0#2 ∧ fld w 19 2 = 0x0#2 ∧ fld w 14 2 = 0x0#2 ∧ fld w 4 7 = 0x0#7 then some (.kxor (fld w 21 3) (fld w 16 3) (fld w 11 3)) else
  if fld w 0 4 = 0x7#4 ∧ fld w 24 2 = 0x0#2 ∧ fld w 19 2 = 0x0#2 ∧ fld w 14 2 = 0x0#2 ∧ fld w 4 7 = 0x0#7 then some (.kandn (fld w 21 3) (fld w 16 3) (fld w 11 3)) else
  if fld w 0 4 = 0x8#4 ∧ fld w 24 2 = 0x0#2 ∧ fld w 19 2 = 0x0#2 ∧ fld w 4 12 = 0x0#12 then some (.knot (fld w 21 3) (fld w 16 3)) else
  if fld w 0 4 = 0x9#4 ∧ fld w 24 2 = 0x0#2 ∧ fld w 4 12 = 0x0#12 then some (.kset (fld w 21 3) (fld w 16 5)) else
  if fld w 0 4 = 0xa#4 ∧ fld w 19 2 = 0x0#2 ∧ fld w 4 12 = 0x0#12 then some (.kget (fld w 21 5) (fld w 16 3)) else
  if fld w 0 4 = 0xb#4 ∧ fld w 19 2 = 0x0#2 ∧ fld w 4 12 = 0x0#12 then some (.kpop (fld w 21 5) (fld w 16 3)) else
  none

/-- Major 0x32 (R140). A word of this major that no line takes is no instruction (R78). -/
def decode32 (w : Word32) : Option Instr :=
  if fld w 0 4 = 0x0#4 ∧ fld w 11 5 = 0x0#5 then (EType.ofCode (fld w 4 4)).map fun t => .vld (fld w 21 5) (fld w 16 5) (fld w 8 3) t else
  if fld w 0 4 = 0x1#4 ∧ fld w 11 5 = 0x0#5 then (EType.ofCode (fld w 4 4)).map fun t => .vst (fld w 21 5) (fld w 16 5) (fld w 8 3) t else
  if fld w 0 4 = 0x2#4 then (EType.ofCode (fld w 4 4)).map fun t => .vlds (fld w 21 5) (fld w 16 5) (fld w 11 5) (fld w 8 3) t else
  if fld w 0 4 = 0x3#4 then (EType.ofCode (fld w 4 4)).map fun t => .vsts (fld w 21 5) (fld w 16 5) (fld w 11 5) (fld w 8 3) t else
  if fld w 0 4 = 0x4#4 then (EType.ofCode (fld w 4 4)).map fun t => .vgather (fld w 21 5) (fld w 16 5) (fld w 11 5) (fld w 8 3) t else
  if fld w 0 4 = 0x5#4 then (EType.ofCode (fld w 4 4)).map fun t => .vscatter (fld w 21 5) (fld w 16 5) (fld w 11 5) (fld w 8 3) t else
  if fld w 0 4 = 0x6#4 ∧ fld w 11 5 = 0x0#5 then (EType.ofCode (fld w 4 4)).map fun t => .vldr (fld w 21 5) (fld w 16 5) (fld w 8 3) t else
  if fld w 0 4 = 0x7#4 ∧ fld w 11 5 = 0x0#5 then (EType.ofCode (fld w 4 4)).map fun t => .vstr (fld w 21 5) (fld w 16 5) (fld w 8 3) t else
  none

/-- Major 0x33 (R144). A word of this major that no line takes is no instruction (R78). -/
def decode33 (w : Word32) : Option Instr :=
  if fld w 0 4 = 0x0#4 then (EType.ofCode (fld w 4 4)).map fun t => .vsel (fld w 21 5) (fld w 16 5) (fld w 11 5) (fld w 8 3) t else
  if fld w 0 4 = 0x1#4 ∧ fld w 11 5 = 0x0#5 then (EType.ofCode (fld w 4 4)).map fun t => .vbcast (fld w 21 5) (fld w 16 5) (fld w 8 3) t else
  if fld w 0 4 = 0x2#4 then (EType.ofCode (fld w 4 4)).map fun t => .vperm (fld w 21 5) (fld w 16 5) (fld w 11 5) (fld w 8 3) t else
  if fld w 0 4 = 0x3#4 then (EType.ofCode (fld w 4 4)).map fun t => .vshuf (fld w 21 5) (fld w 16 5) (fld w 11 5) (fld w 8 3) t else
  if fld w 0 4 = 0x4#4 ∧ fld w 11 10 = 0x0#10 then (EType.ofCode (fld w 4 4)).map fun t => .viota (fld w 21 5) (fld w 8 3) t else
  if fld w 0 4 = 0x5#4 ∧ fld w 8 3 = 0x0#3 then (EType.ofCode (fld w 4 4)).map fun t => .vext (fld w 21 5) (fld w 16 5) (fld w 11 5) t else
  if fld w 0 4 = 0x6#4 ∧ fld w 8 3 = 0x0#3 then (EType.ofCode (fld w 4 4)).map fun t => .vins (fld w 21 5) (fld w 16 5) (fld w 11 5) t else
  if fld w 0 4 = 0x7#4 ∧ fld w 15 1 = 0x0#1 then (EType.ofCode (fld w 11 4)).bind fun u => (EType.ofCode (fld w 4 4)).map fun t => .vcvt (fld w 21 5) (fld w 16 5) u (fld w 8 3) t else
  if fld w 0 4 = 0x8#4 then (EType.ofCode (fld w 4 4)).map fun t => .vsld (fld w 21 5) (fld w 16 5) (fld w 11 5) (fld w 8 3) t else
  if fld w 0 4 = 0x9#4 ∧ fld w 11 5 = 0x0#5 then (EType.ofCode (fld w 4 4)).map fun t => .vredsum (fld w 21 5) (fld w 16 5) (fld w 8 3) t else
  if fld w 0 4 = 0xa#4 ∧ fld w 11 5 = 0x0#5 then (EType.ofCode (fld w 4 4)).map fun t => .vredmin (fld w 21 5) (fld w 16 5) (fld w 8 3) t else
  if fld w 0 4 = 0xb#4 ∧ fld w 11 5 = 0x0#5 then (EType.ofCode (fld w 4 4)).map fun t => .vredmax (fld w 21 5) (fld w 16 5) (fld w 8 3) t else
  if fld w 0 4 = 0xc#4 then (EType.ofCode (fld w 4 4)).map fun t => .vrand (fld w 21 5) (fld w 16 5) (fld w 11 5) (fld w 8 3) t else
  none

/-- Major 0x34 (R76). A word of this major that no line takes is no instruction (R78). -/
def decode34 (w : Word32) : Option Instr :=
  if fld w 20 1 = 0x0#1 then (EType.ofCode (fld w 16 4)).map fun t => .vimm (fld w 21 5) t (fld w 0 16) else
  if fld w 20 1 = 0x1#1 then (EType.ofCode (fld w 16 4)).map fun t => .vaddi (fld w 21 5) t (fld w 0 16) else
  none

/-- Major 0x38 (R153). A word of this major that no line takes is no instruction (R78). -/
def decode38 (w : Word32) : Option Instr :=
  if fld w 20 6 = 0x0#6 ∧ fld w 0 5 = 0x0#5 then some (.tdecl (fld w 15 5) (fld w 10 5) (fld w 5 5)) else
  if fld w 20 6 = 0x1#6 ∧ fld w 0 10 = 0x0#10 then some (.tld (fld w 15 5) (fld w 10 5)) else
  if fld w 20 6 = 0x1#6 ∧ fld w 0 10 = 0x1#10 then some (.tldS (fld w 15 5) (fld w 10 5)) else
  if fld w 20 6 = 0x2#6 ∧ fld w 5 5 = 0x0#5 then some (.tfill (fld w 15 5) (fld w 10 5) (fld w 0 5)) else
  if fld w 20 6 = 0x3#6 ∧ fld w 0 15 = 0x0#15 then some (.tseal (fld w 15 5)) else
  if fld w 20 6 = 0x4#6 ∧ fld w 5 5 = 0x0#5 then some (.tget (fld w 15 5) (fld w 10 5) (fld w 0 5)) else
  if fld w 20 6 = 0x5#6 ∧ fld w 0 10 = 0x0#10 then some (.tst (fld w 15 5) (fld w 10 5)) else
  if fld w 20 6 = 0x5#6 ∧ fld w 0 10 = 0x1#10 then some (.tstS (fld w 15 5) (fld w 10 5)) else
  if fld w 20 6 = 0x6#6 ∧ fld w 0 15 = 0x0#15 then some (.tkill (fld w 15 5)) else
  if fld w 20 6 = 0x7#6 ∧ fld w 10 5 = 0x0#5 ∧ fld w 0 5 = 0x0#5 then some (.ttag (fld w 15 5) (fld w 5 5)) else
  none

/-- Major 0x39 (R153). A word of this major that no line takes is no instruction (R78). -/
def decode39 (w : Word32) : Option Instr :=
  if fld w 20 6 = 0x0#6 ∧ fld w 0 15 = 0x0#15 then some (.mfmt (fld w 15 5)) else
  if fld w 20 6 = 0x1#6 ∧ fld w 0 15 = 0x0#15 then some (.mlutA (fld w 15 5)) else
  if fld w 20 6 = 0x1#6 ∧ fld w 0 15 = 0x1#15 then some (.mlutB (fld w 15 5)) else
  if fld w 20 6 = 0x1#6 ∧ fld w 0 15 = 0x2#15 then some (.mlutA4 (fld w 15 5)) else
  if fld w 20 6 = 0x1#6 ∧ fld w 0 15 = 0x3#15 then some (.mlutB4 (fld w 15 5)) else
  if fld w 20 6 = 0x2#6 ∧ fld w 0 15 = 0x0#15 then some (.mzero (fld w 15 5)) else
  if fld w 20 6 = 0x3#6 ∧ fld w 0 15 = 0x0#15 then some (.mma (fld w 15 5)) else
  if fld w 20 6 = 0x3#6 ∧ fld w 0 15 = 0x1#15 then some (.mmaNc (fld w 15 5)) else
  if fld w 20 6 = 0x4#6 ∧ fld w 0 10 = 0x0#10 then some (.mmax (fld w 15 5) (fld w 10 5)) else
  if fld w 20 6 = 0x4#6 ∧ fld w 0 10 = 0x1#10 then some (.mmaxNc (fld w 15 5) (fld w 10 5)) else
  if fld w 20 6 = 0x5#6 ∧ fld w 0 15 = 0x0#15 then some (.mtrn (fld w 15 5)) else
  if fld w 20 6 = 0x6#6 ∧ fld w 0 15 = 0x0#15 then some (.mcvt (fld w 15 5)) else
  none

/-- Major 0x3a (R172). A word of this major that no line takes is no instruction (R78). -/
def decode3A (w : Word32) : Option Instr :=
  if fld w 20 6 = 0x0#6 ∧ fld w 0 10 = 0x0#10 then some (.sendEnt (fld w 15 5) (fld w 10 5)) else
  if fld w 20 6 = 0x0#6 ∧ fld w 0 10 = 0x1#10 then some (.sendCode (fld w 15 5) (fld w 10 5)) else
  if fld w 20 6 = 0x0#6 ∧ fld w 0 10 = 0x2#10 then some (.sendData (fld w 15 5) (fld w 10 5)) else
  if fld w 20 6 = 0x0#6 ∧ fld w 0 10 = 0x3#10 then some (.sendCnt (fld w 15 5) (fld w 10 5)) else
  if fld w 20 6 = 0x1#6 ∧ fld w 10 5 = 0x0#5 ∧ fld w 0 5 = 0x0#5 then some (.mw (fld w 15 5) (fld w 5 5)) else
  if fld w 20 6 = 0x2#6 ∧ fld w 0 20 = 0x0#20 then some (.mrel) else
  if fld w 20 6 = 0x3#6 ∧ fld w 0 20 = 0x0#20 then some (.hret) else
  none

/-- Major 0x3b (R172). A word of this major that no line takes is no instruction (R78). -/
noncomputable def decode3B (w : Word32) : Option Instr :=
  if fld w 20 6 = 0x0#6 ∧ fld w 0 15 = 0x0#15 then some (.dqput (fld w 15 5)) else
  if fld w 20 6 = 0x1#6 ∧ fld w 15 5 = 0x0#5 ∧ fld w 0 5 = 0x0#5 then some (.dqtake (fld w 10 5) (fld w 5 5)) else
  if fld w 20 6 = 0x2#6 ∧ fld w 0 5 = 0x0#5 then some (.launch (fld w 15 5) (fld w 10 5) (fld w 5 5)) else
  if fld w 20 6 = 0x2#6 ∧ fld w 0 5 = 0x1#5 then some (.launchGang (fld w 15 5) (fld w 10 5) (fld w 5 5)) else
  if fld w 20 6 = 0x3#6 ∧ fld w 0 20 = 0x0#20 then some (.trigger) else
  if fld w 20 6 = 0x4#6 ∧ fld w 0 10 = 0x0#10 then some (.spawn (fld w 15 5) (fld w 10 5)) else
  if fld w 20 6 = 0x4#6 ∧ fld w 0 10 = 0x1#10 then some (.spawnH (fld w 15 5) (fld w 10 5)) else
  if fld w 20 6 = 0x5#6 ∧ fld w 18 2 = 0x0#2 ∧ fld w 10 5 = 0x0#5 ∧ fld w 0 5 = 0x0#5 then some (.pres (fld w 15 3) (fld w 5 5)) else
  if fld w 20 6 = 0x6#6 ∧ fld w 18 2 = 0x0#2 ∧ fld w 10 5 = 0x0#5 ∧ fld w 0 5 = 0x0#5 then some (.pwait (fld w 15 3) (fld w 5 5)) else
  if fld w 20 6 = 0x7#6 ∧ fld w 18 2 = 0x0#2 ∧ fld w 0 15 = 0x0#15 then some (.padv (fld w 15 3)) else
  if fld w 20 6 = 0x8#6 ∧ fld w 0 5 = 0x0#5 then some (.resample (fld w 15 5) (fld w 10 5) (fld w 5 5)) else
  none

/-- Major 0x3c (R172). A word of this major that no line takes is no instruction (R78). -/
noncomputable def decode3C (w : Word32) : Option Instr :=
  if fld w 20 6 = 0x0#6 ∧ fld w 7 3 = 0x0#3 ∧ fld w 0 5 = 0x0#5 then some (.barset (fld w 15 5) (fld w 10 5) (fld w 5 2)) else
  if fld w 20 6 = 0x1#6 ∧ fld w 7 13 = 0x0#13 ∧ fld w 0 5 = 0x0#5 then some (.bararr (fld w 5 2)) else
  if fld w 20 6 = 0x2#6 ∧ fld w 7 13 = 0x0#13 ∧ fld w 0 5 = 0x0#5 then some (.barwait (fld w 5 2)) else
  if fld w 20 6 = 0x3#6 ∧ fld w 7 13 = 0x0#13 ∧ fld w 0 5 = 0x0#5 then some (.barleave (fld w 5 2)) else
  if fld w 20 6 = 0x3#6 ∧ fld w 0 10 = 0x1#10 then some (.barleaveO (fld w 15 5) (fld w 10 5)) else
  if fld w 20 6 = 0x4#6 ∧ fld w 10 10 = 0x0#10 ∧ fld w 0 5 = 0x0#5 then some (.still (fld w 5 5)) else
  if fld w 20 6 = 0x4#6 ∧ fld w 10 5 = 0x0#5 ∧ fld w 0 5 = 0x1#5 then some (.stillTo (fld w 15 5) (fld w 5 5)) else
  if fld w 20 6 = 0x5#6 ∧ fld w 10 5 = 0x0#5 ∧ fld w 0 5 = 0x0#5 then some (.qcount (fld w 15 5) (fld w 5 5)) else
  if fld w 20 6 = 0x6#6 ∧ fld w 0 10 = 0x0#10 then some (.qfix (fld w 15 5) (fld w 10 5)) else
  none

/-- Major 0x3d (R202). A word of this major that no line takes is no instruction (R78). -/
noncomputable def decode3D (w : Word32) : Option Instr :=
  if fld w 20 6 = 0x0#6 ∧ fld w 10 5 = 0x0#5 ∧ fld w 0 5 = 0x0#5 then some (.cpystart (fld w 15 5) (fld w 5 5)) else
  if fld w 20 6 = 0x1#6 ∧ fld w 10 5 = 0x0#5 ∧ fld w 0 5 = 0x0#5 then some (.cpywait (fld w 15 5) (fld w 5 5)) else
  if fld w 20 6 = 0x1#6 ∧ fld w 10 5 = 0x0#5 ∧ fld w 0 5 = 0x1#5 then some (.cpywaitNl (fld w 15 5) (fld w 5 5)) else
  if fld w 20 6 = 0x2#6 ∧ fld w 10 5 = 0x0#5 ∧ fld w 0 5 = 0x0#5 then some (.cpypoll (fld w 15 5) (fld w 5 5)) else
  if fld w 20 6 = 0x3#6 ∧ fld w 10 5 = 0x0#5 ∧ fld w 0 5 = 0x0#5 then some (.cpygwait (fld w 15 5) (fld w 5 5)) else
  if fld w 20 6 = 0x4#6 ∧ fld w 0 15 = 0x0#15 then some (.cpycancel (fld w 15 5)) else
  none

/-- Major 0x3e (R202). A word of this major that no line takes is no instruction (R78). -/
noncomputable def decode3E (w : Word32) : Option Instr :=
  if fld w 20 6 = 0x0#6 ∧ fld w 10 10 = 0x0#10 then (SysReg.ofCode (fld w 0 5)).map fun r => .sysr (fld w 5 5) r else
  if fld w 20 6 = 0x1#6 ∧ fld w 5 10 = 0x0#10 then (SysReg.ofCode (fld w 0 5)).map fun r => .sysw (fld w 15 5) r else
  if fld w 20 6 = 0x2#6 ∧ fld w 0 15 = 0x0#15 then some (.svc (fld w 15 5)) else
  if fld w 20 6 = 0x3#6 ∧ fld w 5 15 = 0x0#15 then some (.brk (fld w 0 5)) else
  if fld w 20 6 = 0x4#6 ∧ fld w 15 5 = 0x0#5 ∧ fld w 0 10 = 0x0#10 then some (.eret (fld w 10 5)) else
  if fld w 20 6 = 0x8#6 ∧ fld w 0 10 = 0x0#10 then some (.xroot (fld w 15 5) (fld w 10 5)) else
  if fld w 20 6 = 0x9#6 ∧ fld w 0 10 = 0x0#10 then some (.xinv (fld w 15 5) (fld w 10 5)) else
  if fld w 20 6 = 0xa#6 ∧ fld w 0 5 = 0x0#5 then some (.xprobe (fld w 15 5) (fld w 10 5) (fld w 5 5)) else
  if fld w 20 6 = 0xb#6 ∧ fld w 10 5 = 0x0#5 ∧ fld w 0 5 = 0x0#5 then some (.xback (fld w 15 5) (fld w 5 5)) else
  if fld w 20 6 = 0xc#6 ∧ fld w 0 10 = 0x0#10 then some (.partset (fld w 15 5) (fld w 10 5)) else
  if fld w 20 6 = 0xd#6 ∧ fld w 0 10 = 0x0#10 then some (.skipset (fld w 15 5) (fld w 10 5)) else
  if fld w 20 6 = 0xe#6 ∧ fld w 0 10 = 0x0#10 then some (.wayset (fld w 15 5) (fld w 10 5)) else
  if fld w 20 6 = 0xf#6 ∧ fld w 0 10 = 0x0#10 then some (.bregion (fld w 15 5) (fld w 10 5)) else
  if fld w 20 6 = 0x10#6 ∧ fld w 0 10 = 0x0#10 then some (.eset (fld w 15 5) (fld w 10 5)) else
  if fld w 20 6 = 0x14#6 ∧ fld w 0 15 = 0x0#15 then some (.mdrain (fld w 15 5)) else
  if fld w 20 6 = 0x15#6 ∧ fld w 0 15 = 0x0#15 then some (.mrest (fld w 15 5)) else
  if fld w 20 6 = 0x16#6 ∧ fld w 0 15 = 0x0#15 then some (.vsave (fld w 15 5)) else
  if fld w 20 6 = 0x17#6 ∧ fld w 0 15 = 0x0#15 then some (.vrest (fld w 15 5)) else
  none

/-- The instruction a word holds, before the checks that depend on several of its fields (R77, R78). -/
noncomputable def decodeRaw (w : Word32) : Option Instr :=
  if fld w 26 6 = 0x01#6 then decode01 w else
  if fld w 26 6 = 0x02#6 then some (.addi (fld w 21 5) (fld w 16 5) (fld w 0 16)) else
  if fld w 26 6 = 0x03#6 then some (.andi (fld w 21 5) (fld w 16 5) (fld w 0 16)) else
  if fld w 26 6 = 0x04#6 then some (.ori (fld w 21 5) (fld w 16 5) (fld w 0 16)) else
  if fld w 26 6 = 0x05#6 then some (.xori (fld w 21 5) (fld w 16 5) (fld w 0 16)) else
  if fld w 26 6 = 0x06#6 then some (.slti (fld w 21 5) (fld w 16 5) (fld w 0 16)) else
  if fld w 26 6 = 0x07#6 then some (.sltiz (fld w 21 5) (fld w 16 5) (fld w 0 16)) else
  if fld w 26 6 = 0x08#6 then decode08 w else
  if fld w 26 6 = 0x09#6 then some (.lih (fld w 21 5) (fld w 16 5) (fld w 0 16)) else
  if fld w 26 6 = 0x0a#6 ∧ fld w 16 5 = 0x0#5 then some (.pcrel (fld w 21 5) (fld w 0 16)) else
  if fld w 26 6 = 0x0c#6 then decode0C w else
  if fld w 26 6 = 0x0d#6 then decode0D w else
  if fld w 26 6 = 0x0e#6 then decode0E w else
  if fld w 26 6 = 0x10#6 then some (.ldB (fld w 21 5) (fld w 16 5) (fld w 0 16)) else
  if fld w 26 6 = 0x11#6 then some (.ldH (fld w 21 5) (fld w 16 5) (fld w 0 16)) else
  if fld w 26 6 = 0x12#6 then some (.ldW (fld w 21 5) (fld w 16 5) (fld w 0 16)) else
  if fld w 26 6 = 0x13#6 then some (.ldD (fld w 21 5) (fld w 16 5) (fld w 0 16)) else
  if fld w 26 6 = 0x14#6 then some (.ldBz (fld w 21 5) (fld w 16 5) (fld w 0 16)) else
  if fld w 26 6 = 0x15#6 then some (.ldHz (fld w 21 5) (fld w 16 5) (fld w 0 16)) else
  if fld w 26 6 = 0x16#6 then some (.ldWz (fld w 21 5) (fld w 16 5) (fld w 0 16)) else
  if fld w 26 6 = 0x18#6 then some (.stB (fld w 21 5) (fld w 16 5) (fld w 0 16)) else
  if fld w 26 6 = 0x19#6 then some (.stH (fld w 21 5) (fld w 16 5) (fld w 0 16)) else
  if fld w 26 6 = 0x1a#6 then some (.stW (fld w 21 5) (fld w 16 5) (fld w 0 16)) else
  if fld w 26 6 = 0x1b#6 then some (.stD (fld w 21 5) (fld w 16 5) (fld w 0 16)) else
  if fld w 26 6 = 0x1c#6 then decode1C w else
  if fld w 26 6 = 0x1d#6 then decode1D w else
  if fld w 26 6 = 0x1e#6 then decode1E w else
  if fld w 26 6 = 0x1f#6 then decode1F w else
  if fld w 26 6 = 0x20#6 then some (.beq (fld w 21 5) (fld w 16 5) (fld w 0 16)) else
  if fld w 26 6 = 0x21#6 then some (.bne (fld w 21 5) (fld w 16 5) (fld w 0 16)) else
  if fld w 26 6 = 0x22#6 then some (.blt (fld w 21 5) (fld w 16 5) (fld w 0 16)) else
  if fld w 26 6 = 0x23#6 then some (.bge (fld w 21 5) (fld w 16 5) (fld w 0 16)) else
  if fld w 26 6 = 0x24#6 then some (.bltu (fld w 21 5) (fld w 16 5) (fld w 0 16)) else
  if fld w 26 6 = 0x25#6 then some (.bgeu (fld w 21 5) (fld w 16 5) (fld w 0 16)) else
  if fld w 26 6 = 0x26#6 then some (.jal (fld w 21 5) (fld w 0 21)) else
  if fld w 26 6 = 0x27#6 then some (.jalr (fld w 21 5) (fld w 16 5) (fld w 0 16)) else
  if fld w 26 6 = 0x28#6 then decode28 w else
  if fld w 26 6 = 0x30#6 then decode30 w else
  if fld w 26 6 = 0x31#6 then decode31 w else
  if fld w 26 6 = 0x32#6 then decode32 w else
  if fld w 26 6 = 0x33#6 then decode33 w else
  if fld w 26 6 = 0x34#6 then decode34 w else
  if fld w 26 6 = 0x38#6 then decode38 w else
  if fld w 26 6 = 0x39#6 then decode39 w else
  if fld w 26 6 = 0x3a#6 then decode3A w else
  if fld w 26 6 = 0x3b#6 then decode3B w else
  if fld w 26 6 = 0x3c#6 then decode3C w else
  if fld w 26 6 = 0x3d#6 then decode3D w else
  if fld w 26 6 = 0x3e#6 then decode3E w else
  none

/-- The decoder (R77 to R79, checks 1 to 3): total on every word; none is trap 0x01 (ILLEGAL_INSTRUCTION). -/
noncomputable def decode (w : Word32) : Option Instr :=
  match decodeRaw w with
  | some i => if i.wf then some i else none
  | none => none

/-- The word of an instruction (R72 and the function maps); none for a row that has no word. -/
def encode : Instr → Option Word32
  | .add d a b => some (0x1#6 ++ d ++ a ++ b ++ 0x0#11)
  | .sub d a b => some (0x1#6 ++ d ++ a ++ b ++ 0x1#11)
  | .and d a b => some (0x1#6 ++ d ++ a ++ b ++ 0x2#11)
  | .or d a b => some (0x1#6 ++ d ++ a ++ b ++ 0x3#11)
  | .xor d a b => some (0x1#6 ++ d ++ a ++ b ++ 0x4#11)
  | .slt d a b => some (0x1#6 ++ d ++ a ++ b ++ 0x5#11)
  | .sltz d a b => some (0x1#6 ++ d ++ a ++ b ++ 0x6#11)
  | .sll d a b => some (0x1#6 ++ d ++ a ++ b ++ 0x7#11)
  | .srl d a b => some (0x1#6 ++ d ++ a ++ b ++ 0x8#11)
  | .sra d a b => some (0x1#6 ++ d ++ a ++ b ++ 0x9#11)
  | .rol d a b => some (0x1#6 ++ d ++ a ++ b ++ 0xa#11)
  | .ror d a b => some (0x1#6 ++ d ++ a ++ b ++ 0xb#11)
  | .addS32 d a b => some (0x1#6 ++ d ++ a ++ b ++ 0x400#11)
  | .addZ32 d a b => some (0x1#6 ++ d ++ a ++ b ++ 0x600#11)
  | .subS32 d a b => some (0x1#6 ++ d ++ a ++ b ++ 0x401#11)
  | .subZ32 d a b => some (0x1#6 ++ d ++ a ++ b ++ 0x601#11)
  | .sllS32 d a b => some (0x1#6 ++ d ++ a ++ b ++ 0x407#11)
  | .sllZ32 d a b => some (0x1#6 ++ d ++ a ++ b ++ 0x607#11)
  | .srlS32 d a b => some (0x1#6 ++ d ++ a ++ b ++ 0x408#11)
  | .srlZ32 d a b => some (0x1#6 ++ d ++ a ++ b ++ 0x608#11)
  | .sraS32 d a b => some (0x1#6 ++ d ++ a ++ b ++ 0x409#11)
  | .sraZ32 d a b => some (0x1#6 ++ d ++ a ++ b ++ 0x609#11)
  | .rolS32 d a b => some (0x1#6 ++ d ++ a ++ b ++ 0x40a#11)
  | .rolZ32 d a b => some (0x1#6 ++ d ++ a ++ b ++ 0x60a#11)
  | .rorS32 d a b => some (0x1#6 ++ d ++ a ++ b ++ 0x40b#11)
  | .rorZ32 d a b => some (0x1#6 ++ d ++ a ++ b ++ 0x60b#11)
  | .addi d a i => some (0x2#6 ++ d ++ a ++ i)
  | .andi d a i => some (0x3#6 ++ d ++ a ++ i)
  | .ori d a i => some (0x4#6 ++ d ++ a ++ i)
  | .xori d a i => some (0x5#6 ++ d ++ a ++ i)
  | .slti d a i => some (0x6#6 ++ d ++ a ++ i)
  | .sltiz d a i => some (0x7#6 ++ d ++ a ++ i)
  | .slli d a s => some (0x8#6 ++ d ++ a ++ s ++ 0x0#10)
  | .srli d a s => some (0x8#6 ++ d ++ a ++ s ++ 0x1#10)
  | .srai d a s => some (0x8#6 ++ d ++ a ++ s ++ 0x2#10)
  | .rori d a s => some (0x8#6 ++ d ++ a ++ s ++ 0x3#10)
  | .slliS32 d a s => some (0x8#6 ++ d ++ a ++ 0x0#1 ++ s ++ 0x200#10)
  | .slliZ32 d a s => some (0x8#6 ++ d ++ a ++ 0x0#1 ++ s ++ 0x300#10)
  | .srliS32 d a s => some (0x8#6 ++ d ++ a ++ 0x0#1 ++ s ++ 0x201#10)
  | .srliZ32 d a s => some (0x8#6 ++ d ++ a ++ 0x0#1 ++ s ++ 0x301#10)
  | .sraiS32 d a s => some (0x8#6 ++ d ++ a ++ 0x0#1 ++ s ++ 0x202#10)
  | .sraiZ32 d a s => some (0x8#6 ++ d ++ a ++ 0x0#1 ++ s ++ 0x302#10)
  | .roriS32 d a s => some (0x8#6 ++ d ++ a ++ 0x0#1 ++ s ++ 0x203#10)
  | .roriZ32 d a s => some (0x8#6 ++ d ++ a ++ 0x0#1 ++ s ++ 0x303#10)
  | .lih d a i => some (0x9#6 ++ d ++ a ++ i)
  | .pcrel d i => some (0xa#6 ++ d ++ 0x0#5 ++ i)
  | .mul d a b => some (0xc#6 ++ d ++ a ++ b ++ 0x0#11)
  | .mulhiS64 d a b => some (0xc#6 ++ d ++ a ++ b ++ 0x1#11)
  | .mulhiZ64 d a b => some (0xc#6 ++ d ++ a ++ b ++ 0x2#11)
  | .mulhm d a b => some (0xc#6 ++ d ++ a ++ b ++ 0x3#11)
  | .quoS64 d a b => some (0xc#6 ++ d ++ a ++ b ++ 0x4#11)
  | .quoZ64 d a b => some (0xc#6 ++ d ++ a ++ b ++ 0x5#11)
  | .rmdS64 d a b => some (0xc#6 ++ d ++ a ++ b ++ 0x6#11)
  | .rmdZ64 d a b => some (0xc#6 ++ d ++ a ++ b ++ 0x7#11)
  | .mulS32 d a b => some (0xc#6 ++ d ++ a ++ b ++ 0x8#11)
  | .mulZ32 d a b => some (0xc#6 ++ d ++ a ++ b ++ 0x9#11)
  | .quoS32 d a b => some (0xc#6 ++ d ++ a ++ b ++ 0xa#11)
  | .quoZ32 d a b => some (0xc#6 ++ d ++ a ++ b ++ 0xb#11)
  | .rmdS32 d a b => some (0xc#6 ++ d ++ a ++ b ++ 0xc#11)
  | .rmdZ32 d a b => some (0xc#6 ++ d ++ a ++ b ++ 0xd#11)
  | .mad d a b => some (0xc#6 ++ d ++ a ++ b ++ 0xe#11)
  | .msb d a b => some (0xc#6 ++ d ++ a ++ b ++ 0xf#11)
  | .lzc d a => some (0xd#6 ++ d ++ a ++ 0x0#10 ++ 0x0#6)
  | .tzc d a => some (0xd#6 ++ d ++ a ++ 0x0#10 ++ 0x1#6)
  | .ones d a => some (0xd#6 ++ d ++ a ++ 0x0#10 ++ 0x2#6)
  | .bswap d a => some (0xd#6 ++ d ++ a ++ 0x0#10 ++ 0x3#6)
  | .bitrev d a => some (0xd#6 ++ d ++ a ++ 0x0#10 ++ 0x4#6)
  | .minS64 d a b => some (0xd#6 ++ d ++ a ++ b ++ 0x0#5 ++ 0x5#6)
  | .maxS64 d a b => some (0xd#6 ++ d ++ a ++ b ++ 0x0#5 ++ 0x6#6)
  | .minZ64 d a b => some (0xd#6 ++ d ++ a ++ b ++ 0x0#5 ++ 0x7#6)
  | .maxZ64 d a b => some (0xd#6 ++ d ++ a ++ b ++ 0x0#5 ++ 0x8#6)
  | .andnot d a b => some (0xd#6 ++ d ++ a ++ b ++ 0x0#5 ++ 0x9#6)
  | .ornot d a b => some (0xd#6 ++ d ++ a ++ b ++ 0x0#5 ++ 0xa#6)
  | .sel d a b c => some (0xd#6 ++ d ++ a ++ b ++ c ++ 0xb#6)
  | .extS8 d a => some (0xd#6 ++ d ++ a ++ 0x0#10 ++ 0xc#6)
  | .extS16 d a => some (0xd#6 ++ d ++ a ++ 0x0#10 ++ 0xd#6)
  | .extS32 d a => some (0xd#6 ++ d ++ a ++ 0x0#10 ++ 0xe#6)
  | .extZ32 d a => some (0xd#6 ++ d ++ a ++ 0x0#10 ++ 0xf#6)
  | .extZ8 d a => some (0xd#6 ++ d ++ a ++ 0x0#10 ++ 0x10#6)
  | .extZ16 d a => some (0xd#6 ++ d ++ a ++ 0x0#10 ++ 0x11#6)
  | .xnor d a b => some (0xd#6 ++ d ++ a ++ b ++ 0x0#5 ++ 0x12#6)
  | .ptrunc d a b => some (0xe#6 ++ d ++ a ++ b ++ 0x0#11)
  | .pparent d a => some (0xe#6 ++ d ++ a ++ 0x0#5 ++ 0x1#11)
  | .pchild d a b => some (0xe#6 ++ d ++ a ++ b ++ 0x2#11)
  | .psib d a b => some (0xe#6 ++ d ++ a ++ b ++ 0x3#11)
  | .pnext d a => some (0xe#6 ++ d ++ a ++ 0x0#5 ++ 0x4#11)
  | .pdig d a b => some (0xe#6 ++ d ++ a ++ b ++ 0x5#11)
  | .psdig d a b => some (0xe#6 ++ d ++ a ++ b ++ 0x6#11)
  | .pin d a b => some (0xe#6 ++ d ++ a ++ b ++ 0x7#11)
  | .plevel d a => some (0xe#6 ++ d ++ a ++ 0x0#5 ++ 0x8#11)
  | .pesz d a => some (0xe#6 ++ d ++ a ++ 0x0#5 ++ 0x9#11)
  | .pbase d a => some (0xe#6 ++ d ++ a ++ 0x0#5 ++ 0xa#11)
  | .pmake d a b => some (0xe#6 ++ d ++ a ++ b ++ 0xb#11)
  | .ppack d a b => some (0xe#6 ++ d ++ a ++ b ++ 0xc#11)
  | .prow d a => some (0xe#6 ++ d ++ a ++ 0x0#5 ++ 0xd#11)
  | .pcol d a => some (0xe#6 ++ d ++ a ++ 0x0#5 ++ 0xe#11)
  | .ldB d a i => some (0x10#6 ++ d ++ a ++ i)
  | .ldH d a i => some (0x11#6 ++ d ++ a ++ i)
  | .ldW d a i => some (0x12#6 ++ d ++ a ++ i)
  | .ldD d a i => some (0x13#6 ++ d ++ a ++ i)
  | .ldBz d a i => some (0x14#6 ++ d ++ a ++ i)
  | .ldHz d a i => some (0x15#6 ++ d ++ a ++ i)
  | .ldWz d a i => some (0x16#6 ++ d ++ a ++ i)
  | .stB b a i => some (0x18#6 ++ b ++ a ++ i)
  | .stH b a i => some (0x19#6 ++ b ++ a ++ i)
  | .stW b a i => some (0x1a#6 ++ b ++ a ++ i)
  | .stD b a i => some (0x1b#6 ++ b ++ a ++ i)
  | .bld d a => some (0x1c#6 ++ d ++ a ++ 0x0#5 ++ 0x0#11)
  | .bst d a => some (0x1c#6 ++ d ++ a ++ 0x0#5 ++ 0x1#11)
  | .bcopy d a => some (0x1c#6 ++ d ++ a ++ 0x0#5 ++ 0x2#11)
  | .bfill d a => some (0x1c#6 ++ d ++ a ++ 0x0#5 ++ 0x3#11)
  | .bzero d => some (0x1c#6 ++ d ++ 0x0#10 ++ 0x4#11)
  | .bpref d => some (0x1c#6 ++ d ++ 0x0#10 ++ 0x5#11)
  | .bclean d => some (0x1c#6 ++ d ++ 0x0#10 ++ 0x6#11)
  | .bflush d => some (0x1c#6 ++ d ++ 0x0#10 ++ 0x7#11)
  | .amoAddW d a b ord sc => some (0x1d#6 ++ d ++ a ++ b ++ 0x0#6 ++ ord.code ++ sc.code)
  | .amoAddD d a b ord sc => some (0x1d#6 ++ d ++ a ++ b ++ 0x20#6 ++ ord.code ++ sc.code)
  | .amoMinW d a b ord sc => some (0x1d#6 ++ d ++ a ++ b ++ 0x1#6 ++ ord.code ++ sc.code)
  | .amoMinD d a b ord sc => some (0x1d#6 ++ d ++ a ++ b ++ 0x21#6 ++ ord.code ++ sc.code)
  | .amoMaxW d a b ord sc => some (0x1d#6 ++ d ++ a ++ b ++ 0x2#6 ++ ord.code ++ sc.code)
  | .amoMaxD d a b ord sc => some (0x1d#6 ++ d ++ a ++ b ++ 0x22#6 ++ ord.code ++ sc.code)
  | .amoMinuW d a b ord sc => some (0x1d#6 ++ d ++ a ++ b ++ 0x3#6 ++ ord.code ++ sc.code)
  | .amoMinuD d a b ord sc => some (0x1d#6 ++ d ++ a ++ b ++ 0x23#6 ++ ord.code ++ sc.code)
  | .amoMaxuW d a b ord sc => some (0x1d#6 ++ d ++ a ++ b ++ 0x4#6 ++ ord.code ++ sc.code)
  | .amoMaxuD d a b ord sc => some (0x1d#6 ++ d ++ a ++ b ++ 0x24#6 ++ ord.code ++ sc.code)
  | .amoAndW d a b ord sc => some (0x1d#6 ++ d ++ a ++ b ++ 0x5#6 ++ ord.code ++ sc.code)
  | .amoAndD d a b ord sc => some (0x1d#6 ++ d ++ a ++ b ++ 0x25#6 ++ ord.code ++ sc.code)
  | .amoOrW d a b ord sc => some (0x1d#6 ++ d ++ a ++ b ++ 0x6#6 ++ ord.code ++ sc.code)
  | .amoOrD d a b ord sc => some (0x1d#6 ++ d ++ a ++ b ++ 0x26#6 ++ ord.code ++ sc.code)
  | .amoXorW d a b ord sc => some (0x1d#6 ++ d ++ a ++ b ++ 0x7#6 ++ ord.code ++ sc.code)
  | .amoXorD d a b ord sc => some (0x1d#6 ++ d ++ a ++ b ++ 0x27#6 ++ ord.code ++ sc.code)
  | .amoSwapW d a b ord sc => some (0x1d#6 ++ d ++ a ++ b ++ 0x8#6 ++ ord.code ++ sc.code)
  | .amoSwapD d a b ord sc => some (0x1d#6 ++ d ++ a ++ b ++ 0x28#6 ++ ord.code ++ sc.code)
  | .amoCasW d a b ord sc => some (0x1d#6 ++ d ++ a ++ b ++ 0x9#6 ++ ord.code ++ sc.code)
  | .amoCasD d a b ord sc => some (0x1d#6 ++ d ++ a ++ b ++ 0x29#6 ++ ord.code ++ sc.code)
  | .amoFaddW d a b ord sc => some (0x1d#6 ++ d ++ a ++ b ++ 0xa#6 ++ ord.code ++ sc.code)
  | .amoLdW d a b ord sc => some (0x1d#6 ++ d ++ a ++ b ++ 0xb#6 ++ ord.code ++ sc.code)
  | .amoLdD d a b ord sc => some (0x1d#6 ++ d ++ a ++ b ++ 0x2b#6 ++ ord.code ++ sc.code)
  | .amoStW a b ord sc => some (0x1d#6 ++ 0x0#5 ++ a ++ b ++ 0xc#6 ++ ord.code ++ sc.code)
  | .amoStD a b ord sc => some (0x1d#6 ++ 0x0#5 ++ a ++ b ++ 0x2c#6 ++ ord.code ++ sc.code)
  | .fence ord sc => some (0x1e#6 ++ 0x0#15 ++ 0x0#6 ++ ord.code ++ sc.code)
  | .promote d a ord sc => some (0x1e#6 ++ d ++ a ++ 0x0#5 ++ 0x1#6 ++ ord.code ++ sc.code)
  | .wset d a b => some (0x1f#6 ++ 0x0#2 ++ d ++ a ++ b ++ 0x0#11)
  | .wclr d => some (0x1f#6 ++ 0x0#2 ++ d ++ 0x0#10 ++ 0x1#11)
  | .wref d a => some (0x1f#6 ++ d ++ 0x0#2 ++ a ++ 0x0#5 ++ 0x2#11)
  | .wrt d a => some (0x1f#6 ++ d ++ 0x0#2 ++ a ++ 0x0#5 ++ 0x3#11)
  | .wqry d a => some (0x1f#6 ++ d ++ a ++ 0x0#5 ++ 0x4#11)
  | .beq a b i => some (0x20#6 ++ a ++ b ++ i)
  | .bne a b i => some (0x21#6 ++ a ++ b ++ i)
  | .blt a b i => some (0x22#6 ++ a ++ b ++ i)
  | .bge a b i => some (0x23#6 ++ a ++ b ++ i)
  | .bltu a b i => some (0x24#6 ++ a ++ b ++ i)
  | .bgeu a b i => some (0x25#6 ++ a ++ b ++ i)
  | .jal d i => some (0x26#6 ++ d ++ i)
  | .jalr d a i => some (0x27#6 ++ d ++ a ++ i)
  | .sleepuntil a => some (0x28#6 ++ 0x0#5 ++ a ++ 0x0#5 ++ 0x0#11)
  | .yield => some (0x28#6 ++ 0x0#15 ++ 0x1#11)
  | .exit => some (0x28#6 ++ 0x0#15 ++ 0x2#11)
  | .vadd d a b k t => some (0x30#6 ++ d ++ a ++ b ++ k ++ t.code ++ 0x0#4)
  | .vsub d a b k t => some (0x30#6 ++ d ++ a ++ b ++ k ++ t.code ++ 0x1#4)
  | .vmul d a b k t => some (0x30#6 ++ d ++ a ++ b ++ k ++ t.code ++ 0x2#4)
  | .vfma d a b k t => some (0x30#6 ++ d ++ a ++ b ++ k ++ t.code ++ 0x3#4)
  | .vfnma d a b k t => some (0x30#6 ++ d ++ a ++ b ++ k ++ t.code ++ 0x4#4)
  | .vmin d a b k t => some (0x30#6 ++ d ++ a ++ b ++ k ++ t.code ++ 0x5#4)
  | .vmax d a b k t => some (0x30#6 ++ d ++ a ++ b ++ k ++ t.code ++ 0x6#4)
  | .vrcpe d a k t => some (0x30#6 ++ d ++ a ++ 0x0#5 ++ k ++ t.code ++ 0x7#4)
  | .vrsqe d a k t => some (0x30#6 ++ d ++ a ++ 0x0#5 ++ k ++ t.code ++ 0x8#4)
  | .vadds d a b k t => some (0x30#6 ++ d ++ a ++ b ++ k ++ t.code ++ 0x9#4)
  | .vsubs d a b k t => some (0x30#6 ++ d ++ a ++ b ++ k ++ t.code ++ 0xa#4)
  | .vand d a b k t => some (0x30#6 ++ d ++ a ++ b ++ k ++ t.code ++ 0xb#4)
  | .vor d a b k t => some (0x30#6 ++ d ++ a ++ b ++ k ++ t.code ++ 0xc#4)
  | .vxor d a b k t => some (0x30#6 ++ d ++ a ++ b ++ k ++ t.code ++ 0xd#4)
  | .vsl d a b k t => some (0x30#6 ++ d ++ a ++ b ++ k ++ t.code ++ 0xe#4)
  | .vsr d a b k t => some (0x30#6 ++ d ++ a ++ b ++ k ++ t.code ++ 0xf#4)
  | .vceq d a b k t => some (0x31#6 ++ 0x0#2 ++ d ++ a ++ b ++ k ++ t.code ++ 0x0#4)
  | .vcne d a b k t => some (0x31#6 ++ 0x0#2 ++ d ++ a ++ b ++ k ++ t.code ++ 0x1#4)
  | .vclt d a b k t => some (0x31#6 ++ 0x0#2 ++ d ++ a ++ b ++ k ++ t.code ++ 0x2#4)
  | .vcle d a b k t => some (0x31#6 ++ 0x0#2 ++ d ++ a ++ b ++ k ++ t.code ++ 0x3#4)
  | .kand d a b => some (0x31#6 ++ 0x0#2 ++ d ++ 0x0#2 ++ a ++ 0x0#2 ++ b ++ 0x0#7 ++ 0x4#4)
  | .kor d a b => some (0x31#6 ++ 0x0#2 ++ d ++ 0x0#2 ++ a ++ 0x0#2 ++ b ++ 0x0#7 ++ 0x5#4)
  | .kxor d a b => some (0x31#6 ++ 0x0#2 ++ d ++ 0x0#2 ++ a ++ 0x0#2 ++ b ++ 0x0#7 ++ 0x6#4)
  | .kandn d a b => some (0x31#6 ++ 0x0#2 ++ d ++ 0x0#2 ++ a ++ 0x0#2 ++ b ++ 0x0#7 ++ 0x7#4)
  | .knot d a => some (0x31#6 ++ 0x0#2 ++ d ++ 0x0#2 ++ a ++ 0x0#12 ++ 0x8#4)
  | .kset d a => some (0x31#6 ++ 0x0#2 ++ d ++ a ++ 0x0#12 ++ 0x9#4)
  | .kget d a => some (0x31#6 ++ d ++ 0x0#2 ++ a ++ 0x0#12 ++ 0xa#4)
  | .kpop d a => some (0x31#6 ++ d ++ 0x0#2 ++ a ++ 0x0#12 ++ 0xb#4)
  | .vld d a k t => some (0x32#6 ++ d ++ a ++ 0x0#5 ++ k ++ t.code ++ 0x0#4)
  | .vst d a k t => some (0x32#6 ++ d ++ a ++ 0x0#5 ++ k ++ t.code ++ 0x1#4)
  | .vlds d a b k t => some (0x32#6 ++ d ++ a ++ b ++ k ++ t.code ++ 0x2#4)
  | .vsts d a b k t => some (0x32#6 ++ d ++ a ++ b ++ k ++ t.code ++ 0x3#4)
  | .vgather d a b k t => some (0x32#6 ++ d ++ a ++ b ++ k ++ t.code ++ 0x4#4)
  | .vscatter d a b k t => some (0x32#6 ++ d ++ a ++ b ++ k ++ t.code ++ 0x5#4)
  | .vldr d a k t => some (0x32#6 ++ d ++ a ++ 0x0#5 ++ k ++ t.code ++ 0x6#4)
  | .vstr d a k t => some (0x32#6 ++ d ++ a ++ 0x0#5 ++ k ++ t.code ++ 0x7#4)
  | .vsel d a b k t => some (0x33#6 ++ d ++ a ++ b ++ k ++ t.code ++ 0x0#4)
  | .vbcast d a k t => some (0x33#6 ++ d ++ a ++ 0x0#5 ++ k ++ t.code ++ 0x1#4)
  | .vperm d a b k t => some (0x33#6 ++ d ++ a ++ b ++ k ++ t.code ++ 0x2#4)
  | .vshuf d a b k t => some (0x33#6 ++ d ++ a ++ b ++ k ++ t.code ++ 0x3#4)
  | .viota d k t => some (0x33#6 ++ d ++ 0x0#10 ++ k ++ t.code ++ 0x4#4)
  | .vext d a b t => some (0x33#6 ++ d ++ a ++ b ++ 0x0#3 ++ t.code ++ 0x5#4)
  | .vins d a b t => some (0x33#6 ++ d ++ a ++ b ++ 0x0#3 ++ t.code ++ 0x6#4)
  | .vcvt d a u r t => some (0x33#6 ++ d ++ a ++ 0x0#1 ++ u.code ++ r ++ t.code ++ 0x7#4)
  | .vsld d a b k t => some (0x33#6 ++ d ++ a ++ b ++ k ++ t.code ++ 0x8#4)
  | .vredsum d a k t => some (0x33#6 ++ d ++ a ++ 0x0#5 ++ k ++ t.code ++ 0x9#4)
  | .vredmin d a k t => some (0x33#6 ++ d ++ a ++ 0x0#5 ++ k ++ t.code ++ 0xa#4)
  | .vredmax d a k t => some (0x33#6 ++ d ++ a ++ 0x0#5 ++ k ++ t.code ++ 0xb#4)
  | .vrand d a b k t => some (0x33#6 ++ d ++ a ++ b ++ k ++ t.code ++ 0xc#4)
  | .vimm d t i => some (0x34#6 ++ d ++ 0x0#1 ++ t.code ++ i)
  | .vaddi d t i => some (0x34#6 ++ d ++ 0x1#1 ++ t.code ++ i)
  | .tdecl a b d => some (0x38#6 ++ 0x0#6 ++ a ++ b ++ d ++ 0x0#5)
  | .tld a b => some (0x38#6 ++ 0x1#6 ++ a ++ b ++ 0x0#10)
  | .tldS a b => some (0x38#6 ++ 0x1#6 ++ a ++ b ++ 0x1#10)
  | .tfill a b v => some (0x38#6 ++ 0x2#6 ++ a ++ b ++ 0x0#5 ++ v)
  | .tseal a => some (0x38#6 ++ 0x3#6 ++ a ++ 0x0#15)
  | .tget a b v => some (0x38#6 ++ 0x4#6 ++ a ++ b ++ 0x0#5 ++ v)
  | .tst a b => some (0x38#6 ++ 0x5#6 ++ a ++ b ++ 0x0#10)
  | .tstS a b => some (0x38#6 ++ 0x5#6 ++ a ++ b ++ 0x1#10)
  | .tkill a => some (0x38#6 ++ 0x6#6 ++ a ++ 0x0#15)
  | .ttag a d => some (0x38#6 ++ 0x7#6 ++ a ++ 0x0#5 ++ d ++ 0x0#5)
  | .mfmt a => some (0x39#6 ++ 0x0#6 ++ a ++ 0x0#15)
  | .mlutA a => some (0x39#6 ++ 0x1#6 ++ a ++ 0x0#15)
  | .mlutB a => some (0x39#6 ++ 0x1#6 ++ a ++ 0x1#15)
  | .mlutA4 a => some (0x39#6 ++ 0x1#6 ++ a ++ 0x2#15)
  | .mlutB4 a => some (0x39#6 ++ 0x1#6 ++ a ++ 0x3#15)
  | .mzero a => some (0x39#6 ++ 0x2#6 ++ a ++ 0x0#15)
  | .mma a => some (0x39#6 ++ 0x3#6 ++ a ++ 0x0#15)
  | .mmaNc a => some (0x39#6 ++ 0x3#6 ++ a ++ 0x1#15)
  | .mmax a b => some (0x39#6 ++ 0x4#6 ++ a ++ b ++ 0x0#10)
  | .mmaxNc a b => some (0x39#6 ++ 0x4#6 ++ a ++ b ++ 0x1#10)
  | .mtrn a => some (0x39#6 ++ 0x5#6 ++ a ++ 0x0#15)
  | .mcvt a => some (0x39#6 ++ 0x6#6 ++ a ++ 0x0#15)
  | .sendEnt a b => some (0x3a#6 ++ 0x0#6 ++ a ++ b ++ 0x0#10)
  | .sendCode a b => some (0x3a#6 ++ 0x0#6 ++ a ++ b ++ 0x1#10)
  | .sendData a b => some (0x3a#6 ++ 0x0#6 ++ a ++ b ++ 0x2#10)
  | .sendCnt a b => some (0x3a#6 ++ 0x0#6 ++ a ++ b ++ 0x3#10)
  | .mw a d => some (0x3a#6 ++ 0x1#6 ++ a ++ 0x0#5 ++ d ++ 0x0#5)
  | .mrel => some (0x3a#6 ++ 0x2#6 ++ 0x0#20)
  | .hret => some (0x3a#6 ++ 0x3#6 ++ 0x0#20)
  | .dqput a => some (0x3b#6 ++ 0x0#6 ++ a ++ 0x0#15)
  | .dqtake b d => some (0x3b#6 ++ 0x1#6 ++ 0x0#5 ++ b ++ d ++ 0x0#5)
  | .launch a b d => some (0x3b#6 ++ 0x2#6 ++ a ++ b ++ d ++ 0x0#5)
  | .launchGang a b d => some (0x3b#6 ++ 0x2#6 ++ a ++ b ++ d ++ 0x1#5)
  | .trigger => some (0x3b#6 ++ 0x3#6 ++ 0x0#20)
  | .spawn a b => some (0x3b#6 ++ 0x4#6 ++ a ++ b ++ 0x0#10)
  | .spawnH a b => some (0x3b#6 ++ 0x4#6 ++ a ++ b ++ 0x1#10)
  | .pres h d => some (0x3b#6 ++ 0x5#6 ++ 0x0#2 ++ h ++ 0x0#5 ++ d ++ 0x0#5)
  | .pwait h d => some (0x3b#6 ++ 0x6#6 ++ 0x0#2 ++ h ++ 0x0#5 ++ d ++ 0x0#5)
  | .padv h => some (0x3b#6 ++ 0x7#6 ++ 0x0#2 ++ h ++ 0x0#15)
  | .resample a b d => some (0x3b#6 ++ 0x8#6 ++ a ++ b ++ d ++ 0x0#5)
  | .barset a b d => some (0x3c#6 ++ 0x0#6 ++ a ++ b ++ 0x0#3 ++ d ++ 0x0#5)
  | .bararr d => some (0x3c#6 ++ 0x1#6 ++ 0x0#13 ++ d ++ 0x0#5)
  | .barwait d => some (0x3c#6 ++ 0x2#6 ++ 0x0#13 ++ d ++ 0x0#5)
  | .barleave d => some (0x3c#6 ++ 0x3#6 ++ 0x0#13 ++ d ++ 0x0#5)
  | .barleaveO a b => some (0x3c#6 ++ 0x3#6 ++ a ++ b ++ 0x1#10)
  | .still d => some (0x3c#6 ++ 0x4#6 ++ 0x0#10 ++ d ++ 0x0#5)
  | .stillTo a d => some (0x3c#6 ++ 0x4#6 ++ a ++ 0x0#5 ++ d ++ 0x1#5)
  | .qcount a d => some (0x3c#6 ++ 0x5#6 ++ a ++ 0x0#5 ++ d ++ 0x0#5)
  | .qfix a b => some (0x3c#6 ++ 0x6#6 ++ a ++ b ++ 0x0#10)
  | .cpystart a d => some (0x3d#6 ++ 0x0#6 ++ a ++ 0x0#5 ++ d ++ 0x0#5)
  | .cpywait a d => some (0x3d#6 ++ 0x1#6 ++ a ++ 0x0#5 ++ d ++ 0x0#5)
  | .cpywaitNl a d => some (0x3d#6 ++ 0x1#6 ++ a ++ 0x0#5 ++ d ++ 0x1#5)
  | .cpypoll a d => some (0x3d#6 ++ 0x2#6 ++ a ++ 0x0#5 ++ d ++ 0x0#5)
  | .cpygwait a d => some (0x3d#6 ++ 0x3#6 ++ a ++ 0x0#5 ++ d ++ 0x0#5)
  | .cpycancel a => some (0x3d#6 ++ 0x4#6 ++ a ++ 0x0#15)
  | .sysr d r => some (0x3e#6 ++ 0x0#6 ++ 0x0#10 ++ d ++ r.code)
  | .sysw a r => some (0x3e#6 ++ 0x1#6 ++ a ++ 0x0#10 ++ r.code)
  | .svc a => some (0x3e#6 ++ 0x2#6 ++ a ++ 0x0#15)
  | .brk n => some (0x3e#6 ++ 0x3#6 ++ 0x0#15 ++ n)
  | .eret b => some (0x3e#6 ++ 0x4#6 ++ 0x0#5 ++ b ++ 0x0#10)
  | .xroot a b => some (0x3e#6 ++ 0x8#6 ++ a ++ b ++ 0x0#10)
  | .xinv a b => some (0x3e#6 ++ 0x9#6 ++ a ++ b ++ 0x0#10)
  | .xprobe a b d => some (0x3e#6 ++ 0xa#6 ++ a ++ b ++ d ++ 0x0#5)
  | .xback a d => some (0x3e#6 ++ 0xb#6 ++ a ++ 0x0#5 ++ d ++ 0x0#5)
  | .partset a b => some (0x3e#6 ++ 0xc#6 ++ a ++ b ++ 0x0#10)
  | .skipset a b => some (0x3e#6 ++ 0xd#6 ++ a ++ b ++ 0x0#10)
  | .wayset a b => some (0x3e#6 ++ 0xe#6 ++ a ++ b ++ 0x0#10)
  | .bregion a b => some (0x3e#6 ++ 0xf#6 ++ a ++ b ++ 0x0#10)
  | .eset a b => some (0x3e#6 ++ 0x10#6 ++ a ++ b ++ 0x0#10)
  | .mdrain a => some (0x3e#6 ++ 0x14#6 ++ a ++ 0x0#15)
  | .mrest a => some (0x3e#6 ++ 0x15#6 ++ a ++ 0x0#15)
  | .vsave a => some (0x3e#6 ++ 0x16#6 ++ a ++ 0x0#15)
  | .vrest a => some (0x3e#6 ++ 0x17#6 ++ a ++ 0x0#15)
  | .translationAnswer .. => none
  | .fillReturn .. => none
  | .storePerformed .. => none
  | .operationPacket .. => none
  | .cuckooRecall .. => none
  | .directoryRecall .. => none
  | .vectorCompletion .. => none
  | .matrixCompletion .. => none
  | .drainComplete .. => none
  | .aStreamArrival .. => none
  | .copyRun .. => none
  | .copyEnd .. => none
  | .copyLate .. => none
  | .sleepWake .. => none
  | .energyRefill .. => none
  | .watchdog .. => none
  | .launchInletEntry .. => none
  | .dependantPush .. => none
  | .heldPush .. => none
  | .split .. => none
  | .leafStrandStart .. => none
  | .gangGroupPlacement .. => none
  | .taskStart .. => none
  | .messageArrival .. => none
  | .entryActivation .. => none
  | .codeActivation .. => none
  | .dataLanding .. => none
  | .countMessage .. => none
  | .creditReturn .. => none
  | .strandRestore .. => none
  | .displacement .. => none
  | .stealRequest .. => none
  | .stealReply .. => none
  | .loadSummaryToken .. => none
  | .packetHop .. => none
  | .stillWave .. => none
  | .waveOutcome .. => none
  | .confinedWave .. => none
  | .barrierArrival .. => none
  | .barrierWithdrawal .. => none
  | .resampleDecision .. => none
  | .cloneReady .. => none
  | .preEmptDelivery .. => none
  | .queueImage .. => none
  | .preEmptComplete => none
  | .resize .. => none
  | .prqreply .. => none
  | .prqreplyRefuse .. => none
  | .lptinv .. => none
  | .jobEntryWrite .. => none
  | .guarWrite .. => none
  | .burstWrite .. => none
  | .mmioWrite .. => none
  | .biasFlipToHost .. => none
  | .biasFlipToDevice .. => none
  | .biasFlipComplete => none
  | .biasstatRead => none
  | .hostHdmRead .. => none
  | .hostHdmWrite .. => none
  | .snpinv .. => none
  | .snpdata .. => none
  | .snpcur .. => none
  | .bisnpResponse .. => none
  | .preEmpt => none
  | .setReductionEntry => none
  | .fenceDie => none
  | .degradeLanes => none
  | .retrainComplete .. => none
  | .frameCopy => none
  | .countRebase => none
  | .extendMeasurementSlot => none
  | .readBlackBox => none
  | .loadFirmware => none
  | .readCounters => none
  | .getVersion .. => none
  | .getCapabilities .. => none
  | .negotiateAlgorithms .. => none
  | .getDigests .. => none
  | .getCertificate .. => none
  | .challenge .. => none
  | .getMeasurements .. => none
  | .keyExchange .. => none
  | .cxlIdeKm .. => none
  | .ideCheckFailure => none
  | .badFlit .. => none
  | .linkDown .. => none
  | .requestTimeout .. => none
  | .patrolScrub .. => none
  | .fatalError .. => none
  | .railUndervoltage .. => none
  | .thermalTrip .. => none
  | .coldReset => none
  | .packageReset => none
  | .bringUp => none
  | .prst .. => none
  | .bpwrRead => none
  | .illegalInstruction .. => none
  | .instructionFetchFault => none
  | .prqidxWrite .. => none
  | .cxlLinkRetrain => none
  | .configurationRequest => none
  | .bankRetentionSleep .. => none

/-- The four bytes of a word in memory, lowest address first (R3, R69). -/
def wordBytes (w : Word32) : List Byte :=
  [w.extractLsb' 0 8, w.extractLsb' 8 8, w.extractLsb' 16 8, w.extractLsb' 24 8]

/-- The word that four bytes hold (R3, R69). -/
def bytesWord (b0 b1 b2 b3 : Byte) : Word32 := b3 ++ b2 ++ b1 ++ b0

/-- The instruction a list of bytes begins with, and the bytes after it (R69: every instruction is one 32-bit word). -/
noncomputable def decodeBytes : List Byte → Option (Instr × List Byte)
  | b0 :: b1 :: b2 :: b3 :: rest => (decode (bytesWord b0 b1 b2 b3)).map fun i => (i, rest)
  | _ => none

/-- The instruction the decoder reads from the bits w of one opcode-table row: laid out as the hardware stores them and
read back by decodeBytes (R69; every row that has a word has 32 bits). -/
noncomputable def decodeTableWord (_nbits w : Nat) : Option Instr :=
  (decodeBytes (wordBytes (BitVec.ofNat 32 w))).map fun p => p.1

end Sys2Proof
end

