-- ==== Sys2Proof/Machine/Fetch.lean ====
section
/-!
DEFINITION. Fetching an instruction (R69, R79, R181): from the image of a code message or from memory through translation;
and the placement of one instruction where the next step of a machine right after reset fetches it.
-/
namespace Sys2Proof.Machine

/-- The word of a code message's image at a PC of 0 to 12: payload bytes 0 to 15, nop where LEN leaves a place unused (R181).
The nop is addi g0, g0, 0 (R86). -/
def imageWord (m : Msg) (pc : Nat) : Word32 :=
  match (m.payload.drop pc).take 4 with
  | [b0, b1, b2, b3] => bytesWord b0 b1 b2 b3
  | _ => 0x08000000#32

/-- What an instruction fetch gives. -/
inductive Fetched where
  | word (s : State) (w : Word32)
  | implicitHret
  /-- The line waits for the host (R383, R386). -/
  | host (s : State) (w : Wait)
  /-- Refused, dry, poisoned or absent: INSTRUCTION_FETCH_FAULT takes it from here (R79). -/
  | none

/-- The word of a strand's PC in its line (R69). -/
def wordOf (d : Vec) (pc : Nat) : Word32 := d.extractLsb' (8 * (pc % 64)) 32

/-- The word of a strand's PC as the quad's instruction cache holds it (R11). DESIGN CHOICE (notes/assumptions/91.md): a free value says
whether a line that was fetched is still held. -/
def State.heldCode (s : State) (t : Strand) (tg : Target) : Option Word32 :=
  match (s.quad (quadOf t.core)).icache.find? fun l => l.line == tg.key / 64 with
  | some l => if Config.icacheKeeps s.tick then some (wordOf l.data t.pc) else none
  | none => none

/-- The line of a strand's PC from beyond the instruction cache, with its poisoned granules of 16 bytes (R79): host memory through the
quad's column (R387), a foreign line from its valid copy there (R271, R274), any other from its home; none where a link has lost the
request (R363). -/
def State.codeLine (s : State) (t : Strand) (tg : Target) : Option (State × Vec × BitVec 4) :=
  let q := quadOf t.core
  let vline := t.pc / 64
  let home (s : State) (tg : Target) : State × Vec × BitVec 4 := (s, bytesLine (s.homeRead t.vf (vline * 64) tg 64), s.bedPoison t.vf vline tg)
  match tg with
  | .host h =>
    let (s, l) := s.hostHold q t.vf vline (h / 64 * 64) false
    some (s, l.data, l.poison)
  | .loc pa =>
    if dieOfPa pa = dieOf t.core then some (home s (.loc (pa / 64 * 64)))
    else
      let s := s.wakeLine q vline
      match (s.quad q).foreign? t.vf vline with
      | some l => some (s, l.data, l.poison)
      | none => if s.cutOff q t.vf tg then none else some (home s (.loc (pa / 64 * 64)))
  | .peer l pa =>
    if s.cutOff q t.vf tg then none
    else some (home (s.emit (.peerOp (bitsNat (s.lptEntry t.vf l) 54 50) l (pa / 64 * 64) 64)) (.peer l (pa / 64 * 64)))
  | _ => some (s, 0#512, 15#4)

/-- A quad's instruction cache takes a line, in the place of the one fetched first where it holds 1,024 (R11, R20); a peer's line and one
of a block in host bias are not kept (R383). -/
def State.keepCode (s : State) (q : Nat) (tg : Target) (d : Vec) : State :=
  let keep : Bool := match tg with
    | .loc pa => !s.hostBiased pa
    | .host _ => true
    | _ => false
  if keep then
    let x := s.quad q
    let rest := x.icache.filter fun l => l.line ≠ tg.key / 64
    s.putQuad q { x with icache := rest.drop (rest.length - 1023) ++ [⟨tg.key / 64, d⟩] }
  else s

/-- What fetching a word from beyond the instruction cache gives: the word, or that it is poisoned or lost. -/
inductive CodeRes where
  | ok (s : State) (w : Word32)
  | bad (s : State)

/-- The fetch of the word of a strand's PC from beyond the instruction cache (R79, R363); a line with poison is not kept. -/
def State.fillCode (s : State) (t : Strand) (tg : Target) : CodeRes :=
  match s.codeLine t tg with
  | none => .bad (s.readLost t tg)
  | some (s, d, bad) =>
    if bad.getLsbD (t.pc % 64 / 16) then .bad s
    else .ok (if bad = 0#4 then s.keepCode (quadOf t.core) tg d else s) (wordOf d t.pc)

/-- The fetch of a strand's next word (R79, R181, R330): from the quad's instruction cache, else from beyond it. -/
def fetch (s : State) (u : Nat) (t : Strand) : Fetched :=
  if t.code && t.pc = 16 then .implicitHret
  else
    match t.code && t.pc < 16, t.win with
    | true, some m => .word s (imageWord m t.pc)
    | _, _ =>
      match s.resolveFor u t.vf t.mode (dieOf t.core) t.pc .fetch with
      | .ok s tg =>
        match s.heldCode t tg with
        | some w => .word s w
        | none =>
          match s.biasRange tg 4 with
          | some w => .host (s.askHost w false) w
          | none =>
            match s.fillCode t tg with
            | .ok s w => .word s w
            | .bad _ => .none
      | .host s w => .host s w
      | .wait _ _ => .none
      | .refused _ => .none

/-- The byte address where withFetchWord places the instruction, in its page, and the page's frame. -/
def placePc : Nat := 0x10000
/-- The frames of the stage-2 tables that map it, and of the page itself. -/
def placeRoot : Nat := 0x100000
/-- The frame of the page. -/
def placeFrame : Nat := 0x200000

/-- The stage-2 entries that map the page of placePc to its frame with RD, WR and EX (R329): five levels. -/
def placeTables (m : Memory) : Memory :=
  let next (a : Nat) : List Byte := leBytes 8 (2 ^ 63 + a)
  let m := Memory.put m placeRoot (next (placeRoot + 2048))
  let m := Memory.put m (placeRoot + 2048) (next (placeRoot + 4096))
  let m := Memory.put m (placeRoot + 4096) (next (placeRoot + 6144))
  let m := Memory.put m (placeRoot + 6144) (next (placeRoot + 8192))
  Memory.put m (placeRoot + 8192 + 8) (leBytes 8 (2 ^ 63 + 2 ^ 61 + 7 * 2 ^ 58 + placeFrame))

end Sys2Proof.Machine
end

