-- ==== Sys2Proof/Machine/MemoryEvents.lean ====
section
/-!
DEFINITION. Events of the memory system (R113, R114, R272, R274, R275, R331, R357 to R363, R111): answers, fills, performed
stores, operation packets, recalls, page request replies, scrubbing, lost requests; fetch faults and illegal words (R79).
-/
namespace Sys2Proof.Machine

/-- Makes a strand go on with a changed state. -/
def State.resume (s : State) (u : Nat) (f : Strand → Strand) : State :=
  s.modStrand u fun t => { f t with run := .running, wokenAt := s.tick }

/-- TRANSLATION_ANSWER (R113): the checks of the waiting access can complete. -/
def execTranslationAnswer (u : Nat) (s : State) : Host.Outcome State Fault Refusal :=
  .next (match s.strand? u with
    | some t => if t.run = .waiting .answer then s.resume u fun t => { t with answered := true } else s
    | none => s)

/-- A fill returns (R272): the load gets the line as its home has it, with its poison; the line is installed only under the stamp
it carries, and the quad's older copies take it whole, so that no later read goes back behind it (R258). A request that a link loses ends
the load (R363). -/
def State.fill (s : State) (u : Nat) (t : Strand) (vline stamp : Nat) : State :=
  match s.resolveFor u t.vf t.mode (dieOf t.core) (vline * 64) .read with
  | .ok s tg =>
    match s.biasRange tg 64 with
    | some w => s.askHost w false
    | none =>
      if s.cutOff (quadOf t.core) t.vf tg then (s.readLost t tg).resume u fun t => { t with timeout := true, answered := true } else
      let d := bytesLine (s.homeRead t.vf (vline * 64) tg 64)
      let q := quadOf t.core
      let p := s.bedPoison t.vf vline tg
      let keep := match tg with
        | .loc pa => !s.hostBiased pa
        | _ => true
      let s := s.refreshForeign q t.vf (vline * 64) 64
      let s := if keep && stamp = (s.quad q).gen.toNat then s.installBed q ⟨t.vf, vline, tg, stamp, false, false, false, d, 0, p⟩ else s
      s.resume u fun t => { t with answered := true, filled := some (d, p) }
  | .host s _ => s
  | .wait s _ | .refused s => s.resume u fun t => { t with answered := true }

/-- FILL_RETURN (R272). -/
def execFillReturn (u : Nat) (s : State) : Host.Outcome State Fault Refusal :=
  .next (match s.strand? u with
    | some t => match t.run with
      | .waiting (.fill vline stamp) => s.fill u t vline stamp
      | _ => s
    | none => s)

/-- STORE_PERFORMED (R114, R115): the oldest store-buffer entry is performed at its home; it waits for the host where R383
says so, and at a fenced die it is reported lost (R368). -/
def execStorePerformed (u : Nat) (s : State) : Host.Outcome State Fault Refusal :=
  .next (match s.strand? u with
    | none => s
    | some t =>
      match t.buf with
      | [] => s
      | e :: _ =>
        match s.storeWait t.vf e with
        | some w => s.askHost w true
        | none => (s.performStore t e).popStore u)

/-- The owner of a local frame (R333): its function and the leading address of a byte. -/
def State.leading (s : State) (pa : Nat) : Option (Nat × Nat) :=
  let e := if frameOk pa then Memory.dword s.mem (backKey pa) else 0#64
  if bitAt e 63 then some (bitsNat e 61 56, bitsNat e 55 0 + pa % 65536) else none

/-- Whether a read of local memory at a physical address meets poison. -/
def State.physPoison (s : State) (pa n : Nat) : Bool :=
  match s.leading pa with
  | some (vf, va) => s.readPoison vf va (.loc pa) n
  | none => s.poisoned pa n

/-- Whether n bytes at a physical address, less than a granule, stand in a poisoned granule of their home (R115, R124). -/
def State.physHomePoison (s : State) (pa n : Nat) : Bool :=
  match s.leading pa with
  | some (vf, va) => s.homePoison 0 vf va (.loc pa) n true
  | none => s.poison.any fun p => p < pa + n && pa < p + granule p && !(pa ≤ p && p + granule p ≤ pa + n)

/-- The device writes local memory for another agent (R265): the write of a part of a poisoned granule is merged and reported (R115,
R358). -/
def State.agentWrite (s : State) (vf pa : Nat) (bs : List Byte) : State :=
  (if s.physHomePoison pa bs.length then s.event (dieOfPa pa) 0x03 0 0 vf 0 [5#64, BitVec.ofNat 64 pa] else s).devWrite pa bs

/-- The operation of an operation packet's code (R124). -/
def packetOp (n : Nat) : AmoOp :=
  ([AmoOp.add, .min, .max, .minu, .maxu, .and, .or, .xor, .swap, .cas, .fadd][n]?).getD .ld

/-- An operation packet is performed at its home bed slice (R111, R124, R265). -/
def State.performOp (s : State) (p : OpPacket) : State :=
  let no (s : State) : State := s.emit (.opAnswer [] false)
  if !frameOk p.addr || (s.die (dieOfPa p.addr)).fenced || p.addr % p.n ≠ 0 then no s
  else
    match p.op with
    | .read => if s.physPoison p.addr p.n then no s else s.emit (.opAnswer (s.physBytes p.addr p.n) true)
    | .write x => (s.agentWrite p.vf p.addr (leBytes p.n x.toNat)).emit (.opAnswer [] true)
    | .atomic op x e =>
      if s.physHomePoison p.addr p.n then no s
      else
        let old := s.physBytes p.addr p.n
        let new := if p.n = 4 then (amoNew 32 (packetOp op) (BitVec.ofNat 32 (leNat old)) (lo32 x) (lo32 e)).toNat
          else (amoNew 64 (packetOp op) (BitVec.ofNat 64 (leNat old)) x e).toNat
        (s.devWrite p.addr (leBytes p.n new)).emit (.opAnswer old true)

/-- An accepted operation packet is performed, or waits for the host where R383 says so. -/
def State.operate (s : State) (p : OpPacket) : State :=
  match s.biasWait p.addr with
  | some w => ({ s with host := { s.host with waitingOps := s.host.waitingOps ++ [p] } } : State).askHost w (p.op ≠ .read)
  | none => s.performOp p

/-- OPERATION_PACKET (R111, R337): accepted only under this package's logical ID. -/
def execOperationPacket (p : OpPacket) (s : State) : Host.Outcome State Fault Refusal :=
  .next (if p.lpkg ≠ (s.part p.vf).self then s.misroute p.vf (dieOfPa p.addr) 0 0 p.addr else s.operate p)

/-- CUCKOO_RECALL (R275): the line of the entry without a place is recalled, once no copy of it waits for the host (R383), and the
access that waits goes on. -/
def execCuckooRecall (die : Nat) (s : State) : Host.Outcome State Fault Refusal :=
  .next (match s.overfull.find? fun e => e.die == die with
    | none => s
    | some e =>
      match s.recallWait e with
      | some w => s.askHost w false
      | none =>
        let s := ({ s with overfull := s.overfull.erase e } : State).recallEntry e
        if s.overfull.any fun x => x.die == die then s else s.wake fun _ _ w => w == .recall die)

/-- The L1 copies that the recall of a line names: those of a die, or for an entry of a foreign line those of its quad (R275, R360). -/
def recallHit (die vf line : Nat) (quad : Option Nat) (l : L1Line) : Bool :=
  dieOf l.core == die && l.vf == vf && l.vline == line && match quad with
    | some q => l.stamp.isSome && quadOf l.core == q
    | none => true

/-- The full recall of a line (R360): its value is that of the one dirty copy, else memory's; two dirty copies that differ, or a copy
that comes back uncorrectable (corrupt lists their cores), poison the line. The entry goes. -/
def State.recallNow (s : State) (die vf line : Nat) (hit : L1Line → Bool) (corrupt : List Nat) : State :=
  let cs := s.l1.filter hit
  let dirty := cs.filter L1Line.dirty
  let bad := cs.any (fun l => corrupt.contains l.core) || dirty.any fun l => dirty.any fun m => l.data ≠ m.data
  let s := dirty.head?.elim s fun l => s.writeBack l
  let s := if bad then cs.head?.elim s (fun l => match s.homeOf l with
      | .dry => s
      | tg => s.setPoison tg.key 64) else s
  let l1 := s.l1.filter fun l => !hit l
  let s := { s with l1 := l1, dir := s.dir.filter fun e => !(e.die == die && e.vf == vf && e.vline == line) || l1.any e.covers }
  s.event die 0x04 0 0 vf 0 [BitVec.ofNat 64 (line * 64), BitVec.ofNat 64 dirty.length]

/-- Why a recall cannot be made now: the way home of a dirty copy waits for the host (R383). -/
def State.recallHeld (s : State) (hit : L1Line → Bool) : Option Wait := (s.l1.filter hit).findSome? s.homeWait

/-- The full recall of a line (R360), which stands out while the host must answer first (R383). -/
def State.fullRecall (s : State) (die vf line : Nat) (quad : Option Nat) (corrupt : List Nat) : State :=
  match s.recallHeld (recallHit die vf line quad) with
  | some w => { (s.askHost w false) with outside := .recall die vf line quad corrupt :: s.outside }
  | none => s.recallNow die vf line (recallHit die vf line quad) corrupt

/-- DIRECTORY_RECALL (R360): every L1 of the die is a sharer. -/
def execDirectoryRecall (die vf line : Nat) (corrupt : List Nat) (s : State) : Host.Outcome State Fault Refusal :=
  .next (s.fullRecall die vf line none corrupt)

/-- SLEEP_WAKE (R107): CYC has reached the time; the SLEEPUNTIL retires, so that the next instruction can issue in this cycle. -/
def execSleepWake (u : Nat) (s : State) : Host.Outcome State Fault Refusal :=
  .next (match s.strand? u with
    | some t => match t.run with
      | .waiting (.sleep c) =>
        if s.cyc < c then s
        else s.modStrand u fun t => { t.retire (t.pc + 4) with run := .running, wokenAt := s.tick, readyAt := s.cyc }
      | _ => s
    | none => s)

/-- Whether a strand stands in the middle of a vector store, which nothing interrupts between its lanes (R343). -/
def Strand.inStore (t : Strand) : Bool := t.answered && t.prog.lane.isSome && t.prog.lanesAt == some t.pc

/-- Whether a strand stands in the middle of an instruction that nothing interrupts there (R343): a vector store between its lanes,
an MDRAIN, MREST, VSAVE or VREST between the parts of its image, but for a strand that a pre-empt request has restored (R351), an access
whose page has been refused (R345, R374), but for a page of the frame of a delivery (R349). -/
def Strand.midway (t : Strand) : Bool :=
  t.inStore || (t.run = .running && t.prog.at_ = t.pc && t.prog.image.isSome && !t.fromPark) || (!t.refused.isEmpty && t.delivery.isNone)

/-- WATCHDOG (R296, R343): a handler whose counter stands at 4,096 takes trap 0x40 at its next boundary. -/
def execWatchdog (u : Nat) (s : State) : Host.Outcome State Fault Refusal :=
  .next (match s.strand? u with
    | some t =>
      if t.kind = .handler && t.watch = 4096 && t.run = .running && t.slot.isSome && t.doom.isNone && !t.midway then
        s.takeTrap u { t with watch := 4097 } 0x40 4096#64
      else s
    | none => s)

/-- ILLEGAL_INSTRUCTION (R78, R79): a word that is no instruction takes trap 0x01. -/
def execIllegalInstruction (w : Word32) (s : State) : Host.Outcome State Fault Refusal :=
  runWord { inCode := true } (fun _ _ => .trap 0x01 (w.setWidth 64)) s

/-- INSTRUCTION_FETCH_FAULT (R79, R330, R331): the fetch is refused, poisoned, or waits for its page. -/
def execInstructionFetchFault (s : State) : Host.Outcome State Fault Refusal :=
  runWord { inCode := true } (fun t s =>
    match resolve s t.vf t.mode (dieOf t.core) t.pc .fetch with
    | .ok s tg =>
      (match s.heldCode t tg, s.biasRange tg 4 with
      | some _, _ => .hold s
      | none, some w => .hold ((s.askHost w false).parkMe t w)
      | none, none =>
        match s.fillCode t tg with
        | .ok _ _ => .hold s
        | .bad s => .trapIn s 0x0B (BitVec.ofNat 64 t.pc))
    | .host s w => .hold (s.parkMe t w)
    | .wait s r => .hold (s.faultPark t [r])
    | .refused s => .trapIn s 0x09 (BitVec.ofNat 64 t.pc)) s

/-- The request that a reply names (R331): in the physical function's ring by its VF field as well. -/
def State.replyTo (s : State) (fn : Option Nat) (v : Word64) : Option PageReq :=
  let id := bitsNat v 15 0
  match fn with
  | none => s.pageReqs.find? fun r => r.pf && r.id == id && r.vf == bitsNat v 47 42
  | some vf => s.pageReqs.find? fun r => !r.pf && r.id == id && r.vf == vf

/-- Whether a wait is for a request (R331): IDs are unique among the requests of one ring, and every function has its own. -/
def PageWait.is (w : PageWait) (r : PageReq) : Bool := !w.host && w.pf == r.pf && w.id == r.id && (w.pf || w.vf == r.vf)

/-- The picked ones of an access's waits walk again from the root (R331, R374): what is still waited for, the requests of pages still
absent among it and the walks that wait for the host (R383), and the pages whose walks were refused. -/
def State.rewalk (s : State) (who : Nat) (ws : List PageWait) (sel : PageWait → Bool) : State × List PageWait × List Nat :=
  ws.foldl (fun (acc : State × List PageWait × List Nat) w =>
    if !sel w then (acc.1, acc.2.1 ++ [w], acc.2.2)
    else
      match acc.1.resolveFor who w.vf w.mode 0 w.va w.acc with
      | .wait s q => (s, acc.2.1 ++ [q], acc.2.2)
      | .refused s => (s, acc.2.1, acc.2.2 ++ [w.va / 65536 * 65536])
      | .host s _ => (s, acc.2.1 ++ [{ w with host := true }], acc.2.2)
      | .ok s _ => (s, acc.2.1, acc.2.2)) (s, [], [])

/-- A quad's copies of the foreign lines of a page are given up: what is read after a reply sees the replier's stores (R331,
R374). -/
def State.dropPage (s : State) (q vf page : Nat) : State :=
  let hit (vline : Nat) : Bool := vline * 64 / 65536 * 65536 = page
  let x := s.quad q
  let s := if x.bed.isEmpty then s else s.putQuad q { x with bed := x.bed.filter fun l => l.host || !(l.vf == vf && hit l.vline) }
  let l1 := s.l1.filter fun l => !(quadOf l.core == q && l.stamp.isSome && l.vf == vf && hit l.vline)
  { s with l1 := l1, dir := s.dir.filter fun e => !(e.slice == q && e.vf == vf && hit e.vline) || l1.any e.covers }

/-- A strand whose page waits are picked is told (R331, R345, R374): with the request refused it goes on at once, and the walks that
other replies began go on without it; else it walks again, and goes on when nothing is waited for any more, or when a walk was
refused. A vector load that has posted requests and does not wait for them yet is told as well: of a refusal, for its trap. -/
def State.strandAnswer (s : State) (u : Nat) (t : Strand) (sel : PageWait → Bool) (refuse : Bool) : State :=
  match t.run with
  | .waiting (.pages ws) =>
    let mine := ws.filter sel
    if mine.isEmpty then s
    else if refuse then
      ({ s with host := { s.host with walks := s.host.walks ++ ws.filter PageWait.host } } : State).resume u
        fun t => { t with refused := t.refused ++ mine.map fun w => w.va / 65536 * 65536 }
    else
      let s := mine.foldl (fun s w => s.dropPage (quadOf t.core) w.vf (w.va / 65536 * 65536)) s
      let (s, left, bad) := s.rewalk u ws sel
      if left.isEmpty || !bad.isEmpty then s.resume u fun t => { t with refused := t.refused ++ bad }
      else s.modStrand u fun t => { t with run := .waiting (.pages left) }
  | _ =>
    let mine := t.asked.filter sel
    if mine.isEmpty then s
    else if refuse then
      s.resume u fun t => { t with asked := t.asked.filter (!sel ·), refused := t.refused ++ mine.map fun w => w.va / 65536 * 65536 }
    else
      (mine.foldl (fun s w => s.dropPage (quadOf t.core) w.vf (w.va / 65536 * 65536)) s).modStrand u fun t =>
        { t with asked := t.asked.filter (!sel ·) }

/-- The picked waits of an engine (R331): its quad's foreign lines of the pages go, and it walks again; what is left, and whether it is
refused, as all are where the reply is a refusal. -/
def State.engineAnswer (s : State) (q : Nat) (ws : List PageWait) (sel : PageWait → Bool) (refuse : Bool) : State × List PageWait × Bool :=
  if refuse then ({ s with host := { s.host with walks := s.host.walks ++ ws.filter PageWait.host } }, [], true)
  else
    let s := (ws.filter sel).foldl (fun s w => s.dropPage q w.vf (w.va / 65536 * 65536)) s
    let (s, left, bad) := s.rewalk 0 ws sel
    (s, left, !bad.isEmpty)

/-- The copies of a quad whose page waits are picked are told (R209): a refusal fails a copy at the address that waits. -/
def State.copyAnswer (s : State) (q : Nat) (sel : PageWait → Bool) (refuse : Bool) : State :=
  ((s.quad q).copies.filter fun c => c.waits.any sel).foldl (fun s c =>
    match s.engineAnswer q c.waits sel refuse with
    | (s, _, true) => s.putCopy q { c with waits := [], cause := 0x09, failAddr := c.waitAt }
    | (s, left, false) => s.putCopy q { c with waits := left }) s

/-- A task whose footprint has page waits that are picked is told (R293): after a refusal it is placed, and traps at its first
instruction. -/
def State.footAnswer (s : State) (sel : PageWait → Bool) (refuse : Bool) : State :=
  s.cores.foldl (fun s c =>
    (c.2.foot.filter fun f => f.2.2.any sel).foldl (fun s f =>
      match s.engineAnswer (quadOf c.1) f.2.2 sel refuse with
      | (s, _, true) =>
        (s.putCore c.1 { s.core c.1 with foot := (s.core c.1).foot.filter fun g => g.1 ≠ f.1 }).startTask c.1 f.1 f.2.1 true
      | (s, left, false) =>
        s.putCore c.1 { s.core c.1 with foot := (s.core c.1).foot.map fun g => if g.1 = f.1 then (f.1, f.2.1, left) else g }) s) s

/-- Launch inlets whose page waits are picked are told (R287): a refusal refuses the entry with cause 0x09. -/
def State.inletAnswer (s : State) (sel : PageWait → Bool) (refuse : Bool) : State :=
  s.parts.foldl (fun s p =>
    if !(p.2.inletWaits.any sel) then s
    else
      let (s, left, bad) := if refuse then (s, [], [0]) else s.rewalk 0 p.2.inletWaits sel
      if bad.isEmpty then s.putPart p.1 { s.part p.1 with inletWaits := left }
      else (s.putPart p.1 { s.part p.1 with inletWaits := [] }).entryDone p.1 p.2.inletPos 0x09 0) s

/-- Everything that has page waits of a kind makes its walk again or ends (R331). -/
def State.answerWaits (s : State) (sel : PageWait → Bool) (refuse : Bool) : State :=
  let s := s.strands.foldl (fun s p => s.strandAnswer p.1 p.2 sel refuse) s
  let s := s.quads.foldl (fun s p => s.copyAnswer p.1 sel refuse) s
  (s.footAnswer sel refuse).inletAnswer sel refuse

/-- The answer to a page request (R331). -/
def State.answerPage (s : State) (r : PageReq) (refuse : Bool) : State :=
  ({ s with pageReqs := s.pageReqs.erase r } : State).answerWaits (·.is r) refuse

/-- The walks that waited for the host begin again (R383, R386). -/
def State.hostWalks (s : State) : State :=
  let (s, left, _) := ({ s with host := { s.host with walks := [] } } : State).rewalk 0 s.host.walks fun _ => true
  ({ s with host := { s.host with walks := s.host.walks ++ left.filter PageWait.host } } : State).answerWaits PageWait.host false

/-- PRQREPLY (R331): waiting accesses walk again; an unknown ID is ignored. -/
def execPrqreply (fn : Option Nat) (v : Word64) (s : State) : Host.Outcome State Fault Refusal :=
  .next (match s.replyTo fn v with
    | some r => s.answerPage r false
    | none => s)

/-- PRQREPLY with REFUSE (R331, R345): waiting accesses end with a refused translation. -/
def execPrqreplyRefuse (fn : Option Nat) (v : Word64) (s : State) : Host.Outcome State Fault Refusal :=
  .next (match s.replyTo fn v with
    | some r => s.answerPage r true
    | none => s)

/-- PRQIDX_WRITE (R326, R331): CONS is written, and waiting records are posted as room allows. -/
def execPrqidxWrite (fn : Option Nat) (v : Word64) (s : State) : Host.Outcome State Fault Refusal :=
  .next (
    let new (old : Word64) : Word64 := field64 (bitsNat v 47 32) 32 ||| field64 (bitsNat old 15 0) 0
    match fn with
    | none => ({ s with box := { s.box with prqidx := new s.box.prqidx } } : State).postRing true 0
    | some vf => (s.putPart vf { s.part vf with prqidx := new (s.part vf).prqidx }).postRing false vf)

/-- Whether a wait is a scalar access's wait for a request of its own (R363). -/
def Wait.onRequest : Wait → Bool
  | .answer | .fill _ _ | .recall _ | .bisnp _ | .flip => true
  | _ => false

/-- The oldest store of a strand is lost and reported, whether or not it was performed (R363); one that cannot be performed now was
not. -/
def State.loseStore (s : State) (u : Nat) (t : Strand) : State :=
  match t.buf with
  | [] => s
  | e :: _ =>
    let done := Config.lostPerformed s.tick && (s.storeWait t.vf e).isNone && !s.storeGone t e
    ((if done then s.performStore t e else s).reportLost t e.va e.target).popStore u

/-- REQUEST_TIMEOUT (R363): a load, atomic or fill that is not answered takes trap 0x0B at its address; a store of the strand is
reported lost; else the request of the instruction that it is in the middle of (a lane, a granule, a piece of a region) is, or the fill of
its fetch, at the PC. DESIGN CHOICE (notes/assumptions/94.md): free values say which of the requests that are out is lost. -/
def execRequestTimeout (u : Nat) (s : State) : Host.Outcome State Fault Refusal :=
  .next (match s.strand? u with
    | none => s
    | some t =>
      match t.run with
      | .waiting w =>
        if w.onRequest && (t.buf.isEmpty || !Config.lostStore s.tick) then s.resume u fun t => { t with timeout := true, answered := true }
        else s.loseStore u t
      | .running =>
        if !t.buf.isEmpty then s.loseStore u t
        else if t.doom.isNone && Config.lostFetch s.tick then s.modStrand u fun t => { t with doom := some (0x0B, BitVec.ofNat 64 t.pc) }
        else s.modStrand u fun t => { t with timeout := true })

/-- BANK_RETENTION_SLEEP (R274). -/
def execBankRetentionSleep (q bank : Nat) (s : State) : Host.Outcome State Fault Refusal :=
  .next (
    let x := s.quad q
    if x.asleep.contains bank then s else s.putQuad q { x with asleep := x.asleep ++ [bank] })

/-- Counts a corrected error of a structure of a die; the first and every 1,024th is recorded (R359). -/
def State.corrected (s : State) (die structure_ addr : Nat) : State :=
  let d := s.die die
  let n := min (FMap.getD d.corrected structure_ 0 + 1) (2 ^ 32 - 1)
  let s := s.putDie die { d with corrected := FMap.set d.corrected structure_ n }
  if n = 1 || n % 1024 = 0 then s.event die 0x02 0 0 0 0 [BitVec.ofNat 64 structure_, BitVec.ofNat 64 addr] else s

/-- The bytes of a message's slot image that an error at an offset of the slot poisons (R357): a granule of 8 in the inlet, of 16 in
the overflow region. -/
def Msg.spoil (m : Msg) (off : Nat) : Msg :=
  let z := if m.slot < 16 then 8 else 16
  { m with bad := m.bad ++ ((List.range z).map (off / z * z + ·)).filter fun i => !m.bad.contains i }

/-- An uncorrectable error at a key (R357): the granule of the structure that holds it is poisoned, of a host line in a column the
whole line; of a directory entry the line is recalled (R360), of a foreign line's from its quad; a line of an instruction cache or an
entry of a translation cache is dropped, to be fetched or walked again. -/
def State.errorAt (s : State) (g : Nat) : State :=
  let bit (n : Nat) : Nat := 2 ^ n
  if g < memTile then s.setPoison g 1
  else if g < memBed then
    let q := (g - memTile) / 2 ^ 21
    let n := (g - memTile) / 2 ^ 13 % 256
    let k := (g - memTile) % 2 ^ 13 / 16
    let m := (s.quad q).name n
    if m.st = .free || 288 ≤ k || m.poison.contains k then s
    else s.putQuad q ((s.quad q).putName n { m with poison := m.poison ++ [k] })
  else if g < memFrame then
    let line := (g - memBed) / 64
    let q := line / 2 ^ 56
    let x := s.quad q
    s.putQuad q { x with bed := x.bed.map fun (l : BedLine) =>
      if l.vf = line / 2 ^ 50 % 64 && l.vline = line % 2 ^ 50 then 
        { l with poison := if l.host then 15#4 else l.poison ||| BitVec.ofNat 4 (bit (g % 64 / 16)) } else l }
  else if g < memL1 then s.setPoison g 1
  else if g < memInlet then
    let line := (g - memL1) / 64
    { s with l1 := s.l1.map fun (l : L1Line) =>
      if l.core = line / 2 ^ 56 && l.vf = line / 2 ^ 50 % 64 && l.vline = line % 2 ^ 50 then
        { l with poison := l.poison ||| BitVec.ofNat 8 (bit (g % 64 / 8)) } else l }
  else if g < memCount then
    let c := (g - memInlet) / 512 / 512
    let k := (g - memInlet) / 512 % 512
    let x := s.core c
    let s := if x.inlet.any fun m => m.slot = k then
        s.putCore c { x with inlet := x.inlet.map fun (m : Msg) => if m.slot = k then m.spoil (g % 512) else m } else s
    { s with strands := FMap.map s.strands fun _ t =>
        if t.core = c then { t with win := t.win.map fun m => if m.slot = k then m.spoil (g % 512) else m } else t }
  else
    let die := (g - memCount) / 3 % 32
    let i := (g - memCount) / 96
    match structureOf g with
    | 6 => match (s.dir.filter fun e => e.die == die)[i]? with
      | some e => s.fullRecall die e.vf e.vline (if (s.l1.filter e.covers).any fun l => l.stamp.isSome then some e.slice else none) []
      | none => s
    | 7 =>
      let q := 256 * die + i % 256
      s.putQuad q { s.quad q with icache := (s.quad q).icache.eraseIdx (i / 256) }
    | 8 => { s with xlat := s.xlat.eraseIdx i }
    | _ => s

/-- PATROL_SCRUB (R357 to R359): a granule's error is corrected, or poisons it and traps no one, which is recorded; the recall of a
directory entry records itself (R360); a line or an entry of structures 7 and 8 is fetched or walked again, and counted. -/
def execPatrolScrub (g : Nat) (bad : Bool) (s : State) : Host.Outcome State Fault Refusal :=
  .next (
    let k := structureOf g
    let s := if bad then s.errorAt g else s
    if !bad || k = 7 || k = 8 then s.corrected (s.dieOfKey 0 g) k g
    else if k = 6 then s
    else s.event (s.dieOfKey 0 g) 0x03 0 0 0 0 [BitVec.ofNat 64 k, BitVec.ofNat 64 g])

end Sys2Proof.Machine
end

