-- ==== Sys2Proof/Machine/Management.lean ====
section
/-!
DEFINITION. What the hypervisor, the device manager and Steax do to a partition and the package (spec/20, 22, 23, 25, 26):
RESIZE, pre-emption, function registers (R326, R378), the management mailbox (R381), fences, links, attestation, resets,
bring-up and board registers.
-/
namespace Sys2Proof.Machine

/-- The quads that a pending change takes out of a partition (R323), skip-masked ones among them, as numbers in the package. -/
def State.leavingQuads (s : State) (r : Resize) : List Nat :=
  let hs := match r.skip with
    | some (h, true) => [h]
    | some (_, false) => []
    | none =>
      let p := s.part r.vf
      if p.present then ((List.range (p.len + 1)).map (p.base + ·)).filter fun h => !(r.base ≤ h && h ≤ r.base + r.len) else []
  hs.map quadOfHilbert

/-- The records that a core holds: in its deque, in held pushes, waiting for their footprint, on their way to it (R291, R293). -/
def Core.recs (c : Core) : List Rec :=
  c.deque ++ c.held.filterMap id ++ c.foot.map (fun f => f.2.1) ++ (match c.steal with
    | some ⟨_, _, some (some r)⟩ => [r]
    | _ => [])

/-- Whether a quad holds no strand, no record, no message and no queued copy (R323). -/
def State.quadEmpty (s : State) (q : Nat) : Bool :=
  !(s.strands.any fun p => quadOf p.2.core == q) && !(s.quad q).copies.any Copy.live &&
  (List.range 4).all fun i =>
    let c := s.core (4 * q + i)
    c.recs.isEmpty && c.inlet.isEmpty

/-- The first pending change of a partition, when it can take effect (R222, R323). -/
def State.resizeReady (s : State) (vf : Nat) : Option Resize :=
  match s.resizes.find? fun r => r.vf == vf with
  | none => none
  | some r =>
    let live := s.liveLaunches vf
    if r.waits.any (fun u => live.contains u) || !(s.leavingQuads r).all s.quadEmpty then none else some r

/-- A leaving quad is returned to its state outside every partition (R323). -/
def State.clearQuad (s : State) (vf q : Nat) : State :=
  let s := s.purgeBed q fun l => l.vf == vf
  let s := (s.zeroKeys (memPool + 4 * q * 2 ^ 17) (4 * 2 ^ 17)).zeroKeys (regionKey q 0) (2 ^ 22)
  let s := (List.range 4).foldl (fun s i =>
    s.putCore (4 * q + i) { s.core (4 * q + i) with tblsel := tblselReset, tabA := [], tabB := [] }) s
  s.putQuad q { s.quad q with names := [], ops := [], queue := [], rate := 0xffff#16, rateNext := none, level := 0#32, refilled := s.cyc / 256, bway := 0#14, bvf := 0, streams := [] }

/-- The resize event (R324): RSZEVT, the interrupt, the resize handler's message. -/
def State.resizeEvent (s : State) (vf : Nat) : State :=
  let p := s.part vf
  let old := p.rszevt
  let new := field64 ((bitsNat old 63 48 + 1) % 65536) 48 ||| field64 p.len 14 ||| field64 p.base 0
  let s := (s.putPart vf { p with rszevt := new }).emit (.irq (some vf) 2)
  match decide (p.rszpc = 0#64), s.partQuads vf with
  | false, h :: _ =>
    let c := 4 * quadOfHilbert h
    let job := bitsNat p.rszjob 15 0
    let masked := (s.skip.filter fun h => p.base ≤ h && h ≤ p.base + p.len).length
    let pay := leBytes 8 old.toNat ++ leBytes 8 new.toNat ++ leBytes 8 masked
    let m : Msg := { hdr0 := header job c p.self 24 1 0 0, hdr1 := field64 (bitsNat p.rszpc 55 0) 0, payload := pay, vf := vf,
                     dcore := c, dpkg := p.self, slot := 0, marked := false, anc := [], bad := [] }
    (s.sent c job).post .message job c c none (.msg m)
  | _, _ => s

/-- A launch of an inlet that a change held back goes to the core that its ID gives in the new extent, and is counted sent there
(R287, R306, R324). DESIGN CHOICE (notes/assumptions/106.md): so does the LAUNCH of a strand whose core the partition no longer holds, or
whose quad is skip-masked, since nothing is pushed there (R321, R322). -/
def State.relocate (s : State) (vf : Nat) : State :=
  let away (c : Nat) : Bool := !(s.part vf).holds (hilbertOf (quadOf c)) || s.skip.contains (hilbertOf (quadOf c))
  let moved (p : Pending) : Bool := p.resize && p.rec_.vf == vf && (p.inlet || away p.core)
  let to_ (p : Pending) : Nat := s.launchCore vf p.rec_.lid
  let s' := (s.pending.filter moved).foldl (fun (s' : State) p =>
    (s'.count p.core p.rec_.job (2 ^ 64 - 1) 0).count (to_ p) p.rec_.job 1 0) s
  { s' with pending := s.pending.map fun p => if moved p then { p with core := to_ p } else p }

/-- RESIZE (R222, R323, R324, R339): a pending PARTSET or SKIPSET takes effect. -/
def execResize (vf : Nat) (s : State) : Host.Outcome State Fault Refusal :=
  .next (match s.resizeReady vf with
    | none => s
    | some r =>
      let s := (s.leavingQuads r).foldl (fun s q => s.clearQuad vf q) s
      let s := { s with resizes := s.resizes.erase r }
      let p := s.part vf
      let s := match r.skip with
        | some (h, on) => s.setSkip h on
        | none =>
          let w := field64 (bitsNat p.part 63 55) 55 ||| field64 r.len 14 ||| field64 r.base 0
          s.putPart vf { p with part := w, present := true, slots := if p.base = r.base && p.len = r.len then p.slots else [] }
      let s := (s.partCores vf).foldl (fun s c => if (s.core c).imaged then s.putCore c { s.core c with imaged := false } else s) s
      (s.relocate vf).resizeEvent vf)

/-- The position of a core's quad in the interval of the running pre-empt command. -/
def State.preemptPos (s : State) (c : Nat) : Option Nat :=
  match s.box.preempt with
  | none => none
  | some x =>
    let p := s.part x.vf
    let h := hilbertOf (quadOf c)
    if p.base + x.first ≤ h && h ≤ p.base + x.last && !s.skip.contains h then some (h - p.base - x.first) else none

/-- The cores that a pre-empt command names; those of a fenced die have stopped (R368). -/
def State.preemptCores (s : State) (x : Preempt) : List Nat :=
  (s.partCores x.vf).filter fun c =>
    let h := hilbertOf (quadOf c)
    (s.part x.vf).base + x.first ≤ h && h ≤ (s.part x.vf).base + x.last && !(s.die (dieOf c)).fenced

/-- A mailbox command ends with a result (R381): vector 0 of the physical function is raised (R379). -/
def State.boxDone (s : State) (code : Nat) : State :=
  ({ s with box := { s.box with stat := (s.box.stat &&& field64 1 62) ||| field64 code 0 } } : State).emit (.irq none 0)

/-- A doubleword of the mailbox's argument area. -/
def State.arg (s : State) (k : Nat) : Word64 := FMap.getD s.box.args k 0#64

/-- Whether the mailbox carries out a command with an opcode (R381). -/
def State.boxRuns (s : State) (op : Nat) : Bool := bitAt s.box.stat 63 && bitsNat s.box.cmd 7 0 == op

/-- A result overwrites the argument area (R381). -/
def State.boxResult (s : State) (ws : List Word64) : State :=
  ({ s with box := { s.box with args := ((List.range ws.length).zip ws).foldl (fun m p => FMap.set m p.1 p.2) s.box.args } } : State).boxDone 0

/-- Carries out a mailbox command while its opcode stands in MBCMD. -/
def State.command (s : State) (op : Nat) (f : State → State) : Host.Outcome State Fault Refusal :=
  .next (if s.boxRuns op then f s else s)

/-- PRE_EMPT (R347, R348): the cores of the named quads place nothing more; a task that waits for its footprint goes back to
its deque. -/
def execPreEmpt (s : State) : Host.Outcome State Fault Refusal :=
  s.command 1 fun s =>
    let d := s.arg 0
    let x : Preempt := ⟨bitsNat d 5 0, bitsNat d 28 16, bitsNat d 44 32, (s.arg 1).toNat, (s.arg 2).toNat⟩
    let p := s.part x.vf
    if s.box.preempt.isSome then s
    else if !p.present || x.last < x.first || p.len < x.last || x.a % 65536 ≠ 0 || x.q % 65536 ≠ 0 then s.boxDone 2
    else
      let s := { s with box := { s.box with preempt := some x } }
      (s.preemptCores x).foldl (fun s c =>
        let k := s.core c
        s.putCore c { k with stopped := true, imaged := false, deque := k.foot.map (fun f => f.2.1) ++ k.deque, foot := [] }) s

/-- The frame head that the device writes (R350): 128 bytes. -/
def Strand.frameHead (t : Strand) (abandoned : Bool) : List Byte :=
  let b (x : Bool) (n : Nat) : Nat := if x then 2 ^ n else 0
  let f := b (t.win.isSome && !t.released) 0 + b abandoned 1 + b t.fromPark 2 + b (t.prog.at_ = t.pc && t.prog.block.isSome) 3
  leBytes 8 (t.gN 1).toNat ++ leBytes 8 f ++ t.regs.h.toList.flatMap (fun x => leBytes 8 x.toNat) ++
    t.regs.b.toList.flatMap (fun x => leBytes 8 x.toNat) ++ List.replicate 16 0#8

/-- Whether a pre-empt request can be delivered to a strand now (R343, R348, R349, R351). -/
def State.canDeliver (s : State) (t : Strand) : Bool :=
  t.mayWait && (s.preemptPos t.core).isSome && t.preempt.isNone && bitAt t.sys.status 3 && t.doom.isNone && t.buf.isEmpty &&
    !t.pendingClone && !t.midway && (t.delivery.isNone || (t.run == .running && t.slot.isSome)) &&
    match t.slot, t.run with
    | none, _ => !(s.freeSlots t.core).isEmpty
    | some _, .running => true
    | some _, .waiting w => w.parked || (match w with
      | .pages _ => true
      | _ => false)

/-- The count that an abandoned STILL gives back (R306, R351), of a marked activation in SR as well (R309). -/
def State.abandonWait (s : State) (t : Strand) : State :=
  match t.run with
  | .waiting (.still _ _) | .waiting (.stillTo _ _ _) =>
    (if t.marked then s.countMarked t.core t.birthJob 1 0 else s).sent t.core t.birthJob
  | _ => s

/-- Trap 0x7F of a delivery (R349): its TVAL is the frame, or 0. -/
def State.delivered (s : State) (u : Nat) (t : Strand) (v : Nat) : State :=
  s.takeTrap u { t with run := .running, preempt := some v, fromPark := false, delivery := none } 0x7F (BitVec.ofNat 64 v)

/-- How a supervisor's translation of a page is refused (R401): the die of the controller that detects it, the frame, and whether
the walk itself records the event; d is the die of the core, for a refusal that names no frame. -/
def State.refusal (s : State) (vf d va : Nat) : Nat × Nat × Bool :=
  let page := va / 65536 * 65536
  if ((s.strand? s.cur).map fun t => t.refused.contains page).getD false then (d, 0, false)
  else
    match s.pageWalk vf 1 va with
    | .refused at_ => (walkDie at_, at_ / 65536 * 65536, true)
    | .ok (.loc pa) _ _ _ _ _ =>
      (dieOfPa pa, pa, (s.xlat.find? fun x => x.vf == vf && x.s1 == ((s.part vf).root1 ≠ 0#64) && x.page == page).isNone &&
        !(s.die (dieOfPa pa)).fenced && (claimFrame s vf page pa).isNone)
    | _ => (d, 0, false)

/-- The event of a write that the device makes as a supervisor and that is refused (R349, R354, R367, R401); now is the state after the
translation. -/
def State.noteRefusal (s now : State) (vf d va job unit_ : Nat) : State :=
  let r := s.refusal vf d va
  if r.2.2 then now else now.event r.1 0x0a 0 job vf unit_ [BitVec.ofNat 64 va, BitVec.ofNat 64 r.2.1]

/-- PRE_EMPT_DELIVERY (R349 to R351): a strand that is out of its slot is restored first; the frame head is written as
supervisor stores, and the strand takes trap 0x7F with the frame's address, or 0 when the frame is refused; with a page of
the frame absent it fault-parks, and the delivery resumes when the page arrives; where the host must answer for a line, it waits
for that (R383). -/
def execPreEmptDelivery (u : Nat) (s : State) : Host.Outcome State Fault Refusal :=
  .next (match s.strand? u, s.box.preempt with
    | some t, some x =>
      if !s.canDeliver t then s
      else
        match t.slot with
        | none => (s.abandonWait t).restore u { t with run := .running, fromPark := true }
        | some k =>
          let s := ({ s with cur := u } : State).abandonWait t
          let pos := (s.preemptPos t.core).getD 0
          let f := x.a + 1310720 * pos + 4096 * (4 * (t.core % 4) + k)
          let parked := t.delivery.getD (decide (t.run ≠ .running))
          let no (now : State) : State := (s.noteRefusal now t.vf (dieOf t.core) f t.birthJob t.unit).delivered u t 0
          let hold (s : State) (w : Wait) : State := s.putStrand u { t with run := .waiting w, since := s.tick, delivery := some parked }
          if 2 ^ 56 < f + 128 then no s
          else
            match resolve s t.vf 1 (dieOf t.core) f .write with
            | .ok s tg =>
              match s.biasRange tg 128 with
              | some w => hold (s.askHost w true) w
              | none => (s.partyStore t f tg (t.frameHead parked)).delivered u t f
            | .refused s => no s
            | .host s w => hold s w
            | .wait s r => s.faultPark { t with run := .running, delivery := some parked } [r]
    | _, _ => s)

/-- A record image of a queue image (R354): 128 bytes. -/
def Rec.image (r : Rec) : List Byte :=
  let (kind, ws) : Nat × List Word64 := match r.body with
    | .task a b c d => (0, [a, b, c, d])
    | .sweep x d1 args _ => (1, x :: d1 :: args)
    | .gang d _ _ xs => (2, [BitVec.ofNat 64 d, xs.headD 0#64])
  let head := field64 (r.job % 65536) 48 ||| field64 (r.lid % 65536) 16 ||| field64 kind 0
  let bs := (head :: ws).flatMap fun w => leBytes 8 w.toNat
  bs ++ List.replicate (128 - bs.length) 0#8

/-- The queue image of a core (R354). -/
def State.queueImage (s : State) (c : Nat) : List Byte :=
  let k := s.core c
  let rs := k.deque ++ k.held.filterMap id
  leBytes 8 (k.inlet.length + rs.length * 65536) ++ leBytes 8 c ++ List.replicate 48 0#8 ++
    k.inlet.flatMap (fun m => m.image ++ List.replicate 16 0#8) ++ rs.flatMap Rec.image

/-- The first page, of those that n bytes at an address lie in, that is absent, or waits for the host (R383): the state with
its request (R331). -/
def State.pagesWait (s : State) (vf die va n : Nat) : Option State :=
  (List.range ((va % 65536 + n + 65535) / 65536)).findSome? fun i =>
    let a := max va (va / 65536 * 65536 + 65536 * i)
    if 2 ^ 56 ≤ a then none
    else
      match s.resolveFor 0 vf 1 die a .write with
      | .wait s _ | .host s _ => some s
      | .ok s tg => (s.biasRange tg (min (va + n) (a / 65536 * 65536 + 65536) - a)).map fun w => s.askHost w true
      | .refused _ => none

/-- A write of a core's network interface as a supervisor of a function (R354): a line that a link loses is reported lost (R363),
and a partial write of a poisoned granule is recorded (R358). -/
def State.imageWrite (s : State) (vf c va : Nat) (tg : Target) (bs : List Byte) : State :=
  s.partyStore { Strand.newborn .resident vf 0 c 0 with slot := none } va tg bs

/-- The network interface of a core writes bytes as supervisor stores of a function, page by page; a refused page is left as it
stands, and recorded. -/
def State.writePages (s : State) (vf c va : Nat) (bs : List Byte) : Nat → State
  | 0 => s
  | fuel + 1 =>
    if bs.isEmpty then s
    else
      let n := min bs.length (65536 - va % 65536)
      let no (now : State) : State := ({ s with cur := 0 } : State).noteRefusal now vf (dieOf c) va 0 (4 * c)
      let s := if 2 ^ 56 ≤ va then no s
        else
          match s.resolveFor 0 vf 1 (dieOf c) va .write with
          | .ok s tg => s.imageWrite vf c va tg (bs.take n)
          | .refused s => no s
          | .wait s _ | .host s _ => s
      s.writePages vf c (va + n) (bs.drop n) fuel

/-- Whether a core's queue image is due: the last strand of its quad has ended (R354). -/
def State.imageDue (s : State) (c : Nat) : Bool :=
  (s.preemptPos c).isSome && !(s.core c).imaged && (s.core c).stopped && !(s.strands.any fun p => quadOf p.2.core == quadOf c) &&
    (match (s.core c).steal with
      | some ⟨_, _, some (some _)⟩ => false
      | _ => true)

/-- QUEUE_IMAGE (R354): the interface writes its queue image, once its pages are there; what it saved is held by the image
from then on, a held push among its records, so that the inlet entry it held up is finished (R287). -/
def execQueueImage (c : Nat) (s : State) : Host.Outcome State Fault Refusal :=
  .next (match s.box.preempt with
    | none => s
    | some x =>
      if !s.imageDue c then s
      else
        let va := x.q + 131072 * (4 * (s.preemptPos c).getD 0 + c % 4)
        let bs := s.queueImage c
        match s.pagesWait x.vf (dieOf c) va bs.length with
        | some s => s
        | none =>
          let pushes := (s.core c).held.filterMap id
          let s := s.writePages x.vf c va bs 4
          let s := s.putCore c { s.core c with imaged := true, deque := [], held := [], inlet := [], gangHold := none }
          pushes.foldl State.pushMade s)

/-- Whether the running pre-empt command has come to its end (R348): no strand, no copy in flight (R353), every image written. -/
def State.preemptOver (s : State) : Bool :=
  match s.box.preempt with
  | none => false
  | some x => (s.preemptCores x).all fun c => (s.core c).imaged && !(s.strands.any fun p => p.2.core == c) && !(s.quad (quadOf c)).copies.any Copy.live

/-- PRE_EMPT_COMPLETE (R348). -/
def execPreEmptComplete (s : State) : Host.Outcome State Fault Refusal :=
  .next (match s.box.preempt with
    | none => s
    | some x =>
      if !s.preemptOver then s
      else
        let s := (s.preemptCores x).foldl (fun s c => s.putCore c { s.core c with stopped := false }) s
        ({ s with box := { s.box with preempt := none } } : State).boxDone 0)

/-- GUAR_WRITE (R334). -/
def State.writeGuar (s : State) (vf : Nat) (v : Word64) : State :=
  let g := bitsNat v 22 0
  let p := s.part vf
  let others := s.parts.foldl (fun a q => if q.1 = vf then a else a + q.2.guar) 0
  if 6290688 < others + g then s else (s.putPart vf { p with guar := g }).noteReclaim

/-- BURST_WRITE (R334). -/
def State.writeBurst (s : State) (vf : Nat) (v : Word64) : State :=
  let b := bitsNat v 22 0
  let p := s.part vf
  if b < p.guar then s else s.putPart vf { p with burst := b }

/-- Whether a valid job entry of the package other than entry j of a function holds a job (R327). -/
def State.jobHeld (s : State) (vf j job : Nat) : Bool :=
  s.parts.any fun p => (List.range 16).any fun i =>
    let e := (p.2.jobtab.toList[i]?).getD 0#64
    bitAt e 63 && bitsNat e 15 0 == job && !(p.1 == vf && i == j)

/-- Whether a job has unequal counts or a strand in a partition (R327). -/
def State.jobLive (s : State) (vf job : Nat) : Bool :=
  (s.partCores vf).any (fun c => let x := (s.core c).counters job; x.s ≠ x.c) || s.strands.any fun p => p.2.vf == vf && p.2.birthJob == job

/-- Whether a write of a job entry is ignored (R327): the jobs it moves are that of the old entry, where no other valid entry has
it, and that of the new one, where it is valid. -/
def State.jobWriteIgnored (s : State) (vf j : Nat) (old new : Word64) : Bool :=
  let moves := bitAt old 63 ≠ bitAt new 63 || bitsNat old 15 0 ≠ bitsNat new 15 0
  (bitAt new 63 && s.jobHeld vf j (bitsNat new 15 0)) ||
  (moves && ((!s.jobHeld vf j (bitsNat old 15 0) && s.jobLive vf (bitsNat old 15 0)) || (bitAt new 63 && s.jobLive vf (bitsNat new 15 0))))

/-- JOB_ENTRY_WRITE (R327): SVC is the physical function's to write. A job that an entry newly holds has launched nothing yet
(R305, R307). -/
def State.writeJob (s : State) (pf : Bool) (vf j : Nat) (v : Word64) : State :=
  let p := s.part vf
  let old := (p.jobtab.toList[j]?).getD 0#64
  let new := field64 (if bitAt v 63 then 1 else 0) 63 ||| field64 (if bitAt (if pf then v else old) 62 then 1 else 0) 62 |||
    field64 (bitsNat v 61 58) 58 ||| field64 (bitsNat v 15 0) 0
  let job := bitsNat new 15 0
  let fresh := bitAt new 63 && (!bitAt old 63 || bitsNat old 15 0 ≠ job)
  if s.jobWriteIgnored vf j old new then s
  else
    let s := if fresh then s.putJob job { s.job job with launched := false, series := false, wave := none } else s
    s.putPart vf { p with jobtab := p.jobtab.setIfInBounds j new }

/-- LPTINV (R337): the entry is dropped at every network interface; a pre-empted partition's interfaces give credit again
once its entry is remapped (R354). -/
def State.dropLpt (s : State) (v : Word64) : State :=
  let vf := bitsNat v 29 24
  let s := { s with lptCache := FMap.erase s.lptCache (vf * 2 ^ 18 + bitsNat v 17 0), box := { s.box with lptinv := v } }
  if bitsNat v 17 0 = (s.part vf).self then
    { s with cores := FMap.map s.cores fun c x => if s.partOfCore c = some vf then { x with imaged := false } else x }
  else s

/-- GUAR_WRITE (R334). -/
def execGuarWrite (vf : Nat) (v : Word64) (s : State) : Host.Outcome State Fault Refusal := .next (s.writeGuar vf v)

/-- BURST_WRITE (R334). -/
def execBurstWrite (vf : Nat) (v : Word64) (s : State) : Host.Outcome State Fault Refusal := .next (s.writeBurst vf v)

/-- JOB_ENTRY_WRITE (R327). -/
def execJobEntryWrite (pf : Bool) (vf j : Nat) (v : Word64) (s : State) : Host.Outcome State Fault Refusal :=
  .next (s.writeJob pf vf j v)

/-- Whether a message of a function to a logical package is on its way: in the fabric, or beyond a pod port (R371). -/
def State.sentTo (s : State) (vf l : Nat) : Bool :=
  s.away.contains (vf, l) || s.packets.any fun p => match p.body with
    | .msg m => m.vf == vf && m.dpkg == l
    | _ => false

/-- Whether an LPTINV may retire: one that changes PHYS or sets RET waits for the messages already sent to the package
(R371); of an entry that no interface has cached, what it changes is not known, and it waits as well. -/
def State.lptinvReady (s : State) (v : Word64) : Bool :=
  let vf := bitsNat v 29 24
  let l := bitsNat v 17 0
  let new := s.physDword (s.lptAddr vf l)
  !s.sentTo vf l || match FMap.get? s.lptCache (vf * 2 ^ 18 + l) with
    | none => false
    | some old => (s.biasWait (s.lptAddr vf l)).isNone && bitsNat old 17 0 = bitsNat new 17 0 && !(bitAt new 62 && !bitAt old 62)

/-- The host's answer that the reading of an LPTINV's new entry needs and has not asked for (R383, R371). -/
def State.lptinvAsk (s : State) (v : Word64) : Option Wait :=
  let vf := bitsNat v 29 24
  let l := bitsNat v 17 0
  if s.sentTo vf l && (FMap.get? s.lptCache (vf * 2 ^ 18 + l)).isSome then
    (match s.biasWait (s.lptAddr vf l) with
      | some (.bisnp line) => if s.outbox.contains (.bisnp line false) then none else some (.bisnp line)
      | _ => none)
  else none

/-- A write of LPTINV (R337, R371): while the new entry's line is with the host, the device asks for it and the write stays to be
retired. -/
def State.lptinvWrite (s : State) (v : Word64) : State :=
  match s.lptinvAsk v with
  | some w => { (s.askHost w false) with outside := .lptinv v :: s.outside }
  | none => s.dropLpt v

/-- LPTINV (R337, R371). -/
def execLptinv (v : Word64) (s : State) : Host.Outcome State Fault Refusal := .next (s.lptinvWrite v)

/-- The fields of BIASCTL (R385): what is written to its reserved bits is ignored (R4). -/
def biasFields (v : Word64) : Word64 := field64 (bitsNat v 55 12) 12 ||| field64 (bitsNat v 0 0) 0

/-- A BIASCTL write (R385): ignored while a flip is in progress, at once when the block has the bias already, else the start
of a flip. A flip to device bias asks the host for every line it may hold. -/
def State.biasRequest (s : State) (v : Word64) : State :=
  let blk := bitsNat v 55 12
  let toHost := bitAt v 0
  let stat (busy host : Bool) : Word64 :=
    field64 (if busy then 1 else 0) 63 ||| (s.host.biasstat &&& field64 1 62) ||| field64 blk 12 ||| field64 (if host then 1 else 0) 0
  if s.host.flip.isSome then { s with host := { s.host with biasstat := s.host.biasstat ||| field64 1 62 } }
  else if s.host.hostBias.contains blk = toHost then { s with host := { s.host with biasctl := biasFields v, biasstat := stat false toHost } }
  else
    let s := { s with host := { s.host with biasctl := biasFields v, biasstat := stat true (!toHost), flip := some ⟨blk, toHost, 0⟩ } }
    if toHost then s
    else (s.host.filter.filter fun l => l / 64 = blk).foldl (fun s l => s.askHost (.bisnp l) true) s

/-- A write of MBCMD (R381): discarded while a command runs; an unknown opcode completes with result 1. DESIGN CHOICE
(notes/assumptions/77.md): so does a value with a bit of [63:8] set. -/
def State.mailWrite (s : State) (v : Word64) : State :=
  if bitAt s.box.stat 63 then { s with box := { s.box with stat := s.box.stat ||| field64 1 62 } }
  else
    let s := { s with box := { s.box with cmd := v, stat := field64 1 63 } }
    if bitsNat v 63 8 ≠ 0 || bitsNat v 7 0 = 0 || 10 < bitsNat v 7 0 then ({ s with box := { s.box with stat := 0#64 } } : State).boxDone 1
    else s

/-- What a doubleword register holds (R326, R378); where the writable half of an action register is kept, that half. -/
def State.regRead (s : State) (fn : Option Nat) (off : Nat) : Word64 :=
  let block (vf r : Nat) : Word64 :=
    let p := s.part vf
    if r = 0x000 then p.part else if r = 0x008 then p.drycnt else if r = 0x010 then BitVec.ofNat 64 p.guar
    else if r = 0x018 then BitVec.ofNat 64 p.burst else if r = 0x020 then BitVec.ofNat 64 p.used
    else if r = 0x028 then p.misroute else if r = 0x030 then p.prqbase else if r = 0x038 then p.prqidx
    else if r = 0x040 then p.prqreply else if r = 0x048 then p.rszpc else if r = 0x050 then p.rszjob
    else if r = 0x058 then p.rszevt else if r = 0x060 then p.lptbase else if r = 0x068 then BitVec.ofNat 64 p.self
    else if 0x080 ≤ r && r < 0x100 then (p.jobtab.toList[(r - 0x080) / 8]?).getD 0#64
    else if 0x100 ≤ r && r < 0x180 then (p.juvec.toList[(r - 0x100) / 8]?).getD 0#64 else 0#64
  match fn with
  | some vf =>
    if off < 0x1000 then block vf off
    else if off < 0x2000 then FMap.getD (s.part vf).inlet ((off - 0x1000) / 8) 0#64 else 0#64
  | none =>
    if off < 0x40000 then block (off / 4096) (off % 4096)
    else if off = 0x40000 then s.box.prqbase else if off = 0x40008 then s.box.prqidx else if off = 0x40010 then s.box.prqreply
    else if off = 0x40020 then s.reclaim else if off = 0x40028 then s.box.lptinv else if off = 0x40030 then s.host.biasctl
    else if off = 0x40038 then s.host.biasstat else if off = 0x41000 then s.box.cmd else if off = 0x41008 then s.box.stat
    else if 0x41100 ≤ off && off < 0x41200 then s.arg ((off - 0x41100) / 8) else 0#64

/-- The offsets of the registers whose write starts an action (R378). -/
def isAction (fn : Option Nat) (off : Nat) : Bool :=
  match fn with
  | some _ => off = 0x040
  | none => (off < 0x40000 && off % 4096 = 0x040) || off = 0x40010 || off = 0x40028 || off = 0x40030 || off = 0x41000

/-- A write of a partition register as the function (pf: the physical one) may make it (R326). -/
def State.blockWrite (s : State) (pf : Bool) (vf r : Nat) (v : Word64) : State :=
  let p := s.part vf
  if r = 0x000 then (if pf then s.writePart vf v else s)
  else if r = 0x008 then s.putPart vf { p with drycnt := v }
  else if r = 0x010 then (if pf then s.writeGuar vf v else s)
  else if r = 0x018 then (if pf then s.writeBurst vf v else s)
  else if r = 0x028 then s.putPart vf { p with misroute := v }
  else if r = 0x030 then s.putPart vf { p with prqbase := field64 (bitsNat v 55 12) 12 }
  else if r = 0x038 then
    (s.putPart vf { p with prqidx := field64 (bitsNat v 47 32) 32 ||| field64 (bitsNat (if pf then v else p.prqidx) 15 0) 0 }).postRing false vf
  else if r = 0x040 then
    let s := s.putPart vf { p with prqreply := v }
    match s.replyTo (some vf) v with
    | some q => s.answerPage q (bitAt v 63)
    | none => s
  else if r = 0x048 then s.putPart vf { p with rszpc := field64 (bitsNat v 55 0) 0 }
  else if r = 0x050 then s.putPart vf { p with rszjob := field64 (bitsNat v 15 0) 0 }
  else if r = 0x060 then (if pf then s.putPart vf { p with lptbase := field64 (bitsNat v 55 21) 21 } else s)
  else if r = 0x068 then (if pf then s.putPart vf { p with self := bitsNat v 17 0 } else s)
  else if 0x080 ≤ r && r < 0x100 then s.writeJob pf vf ((r - 0x080) / 8) v
  else if 0x100 ≤ r && r < 0x180 then s.putPart vf { p with juvec := p.juvec.setIfInBounds ((r - 0x100) / 8) (field64 (bitsNat v 55 2) 2) }
  else s

/-- A write of a doubleword register of a function (R326, R378). -/
def State.regWrite (s : State) (fn : Option Nat) (off : Nat) (v : Word64) : State :=
  match fn with
  | some vf =>
    if off < 0x1000 then s.blockWrite false vf off v
    else if off < 0x2000 then s.putPart vf { s.part vf with inlet := FMap.set (s.part vf).inlet ((off - 0x1000) / 8) v } else s
  | none =>
    if off < 0x40000 then s.blockWrite true (off / 4096) (off % 4096) v
    else if off = 0x40000 then { s with box := { s.box with prqbase := field64 (bitsNat v 55 12) 12 } }
    else if off = 0x40008 then
      ({ s with box := { s.box with prqidx := field64 (bitsNat v 47 32) 32 ||| field64 (bitsNat v 15 0) 0 } } : State).postRing true 0
    else if off = 0x40010 then
      let s := { s with box := { s.box with prqreply := v } }
      match s.replyTo none v with
      | some q => s.answerPage q (bitAt v 63)
      | none => s
    else if off = 0x40028 then s.lptinvWrite v
    else if off = 0x40030 then s.biasRequest v
    else if off = 0x41000 then s.mailWrite v
    else if 0x41100 ≤ off && off < 0x41200 then { s with box := { s.box with args := FMap.set s.box.args ((off - 0x41100) / 8) v } }
    else s

/-- Keeps the high half of an action register (R378). -/
def State.keepHigh (s : State) (fn : Option Nat) (off : Nat) (v : Word64) : State :=
  match fn with
  | some vf => s.putPart vf { s.part vf with prqreply := v }
  | none =>
    if off < 0x40000 then s.putPart (off / 4096) { s.part (off / 4096) with prqreply := v }
    else if off = 0x40010 then { s with box := { s.box with prqreply := v } }
    else if off = 0x40028 then { s with box := { s.box with lptinv := v } }
    else if off = 0x40030 then { s with host := { s.host with biasctl := biasFields v } }
    else { s with box := { s.box with cmd := v } }

/-- MMIO_WRITE (R378): 4 or 8 bytes, naturally aligned, else Completer Abort; a 4-byte write changes its half, and an action
register acts when its low half is written. -/
def execMmioWrite (fn : Option Nat) (off width : Nat) (v : Word64) (s : State) : Host.Outcome State Fault Refusal :=
  .next (
    if (width ≠ 4 && width ≠ 8) || off % width ≠ 0 then s.emit .abort
    else if width = 8 then s.regWrite fn off v
    else
      let base := off / 8 * 8
      let old := s.regRead fn base
      if off % 8 = 0 then s.regWrite fn base (field64 (bitsNat old 63 32) 32 ||| field64 (bitsNat v 31 0) 0)
      else
        let new := field64 (bitsNat v 31 0) 32 ||| field64 (bitsNat old 31 0) 0
        if isAction fn base then s.keepHigh fn base new else s.regWrite fn base new)

/-- What a read of a register of a function returns (R326, R378); of a write-only register a free value, with reserved bits zero (R4).
DESIGN CHOICE (notes/assumptions/80.md): of LPTINV and MBCMD, whose reads have no stated value, it is the doubleword last stored. -/
def State.regValue (s : State) (fn : Option Nat) (off : Nat) : Word64 :=
  let blind : Bool := match fn with
    | some _ => off == 0x040
    | none => (off < 0x40000 && off % 4096 == 0x040) || off == 0x40010 || off == 0x40030
  if blind then (if fn = none && off = 0x40030 then biasFields (Config.writeOnly s.tick) else Config.writeOnly s.tick) else s.regRead fn off

/-- A read of BIASSTAT clears IGN (R385). -/
def State.clearIgn (s : State) (fn : Option Nat) (off : Nat) : State :=
  if fn = none && off = 0x40038 then
    { s with host := { s.host with biasstat := s.host.biasstat &&& ~~~(field64 1 62) } }
  else s

/-- A read of n bytes at an offset of a function's BAR 0 (R378): a doubleword or one half of it. -/
def State.mmioRead (s : State) (fn : Option Nat) (off n : Nat) : State :=
  if (n ≠ 4 && n ≠ 8) || off % n ≠ 0 then s.emit .abort
  else
    let v := s.regValue fn (off / 8 * 8)
    let v := if n = 8 then v else if off % 8 = 0 then field64 (bitsNat v 31 0) 0 else field64 (bitsNat v 63 32) 0
    (s.clearIgn fn (off / 8 * 8)).emit (.mmioRead v)

/-- SET_REDUCTION_ENTRY (R312, R381). -/
def execSetReductionEntry (s : State) : Host.Outcome State Fault Refusal :=
  s.command 2 fun s =>
    let job := bitsNat (s.arg 0) 15 0
    let e := s.arg 1
    let ty := bitsNat e 62 60
    let n := bitsNat e 59 51
    let off := bitsNat e 50 34
    let sc := bitsNat e 33 31
    let j := s.job job
    let rest := j.reductions.filter fun x => !(bitsNat x 33 31 == sc && bitsNat x 30 23 == bitsNat e 30 23)
    if !bitAt e 63 then (s.putJob job { j with reductions := rest }).boxDone 0
    else if 5 ≤ ty || sc = 0 || 4 < sc || n = 0 || 256 < n * redBytes ty || off % 2048 ≠ 0 || 0x1f800 < off then s.boxDone 2
    else (s.putJob job { j with reductions := rest ++ [e &&& ~~~(field64 (2 ^ 23 - 1) 0)] }).boxDone 0

/-- Records the last event of a die that a fatal error stops (R365): F = 1. -/
def State.fatalEvent (s : State) (die : Nat) : State :=
  let s := s.event die 0x0b 0 0 0 0 [1#64]
  let d := s.die die
  match d.ring.reverse with
  | e :: r => if d.frozen then s else s.putDie die { d with ring := (({ e with fatal := true } : Event) :: r).reverse }
  | [] => s

/-- The records that a die holds (R368): of its cores, and the pushes held back there. -/
def State.dieRecs (s : State) (die : Nat) : List Rec :=
  (s.cores.flatMap fun c => if dieOf c.1 = die then c.2.recs else []) ++
    ((s.pending.filter fun p => dieOf p.core == die).map Pending.rec_)

/-- The messages that wait at a die's cores. -/
def State.dieMsgs (s : State) (die : Nat) : List Msg := s.cores.flatMap fun c => if dieOf c.1 = die then c.2.inlet else []

/-- The strands of a die's cores. -/
def State.dieStrands (s : State) (die : Nat) : List (Nat × Strand) := s.strands.filter fun p => dieOf p.2.core == die

/-- What of a job a die holds: strands, messages and records (R368). -/
def State.lostItems (s : State) (die job : Nat) : Nat :=
  ((s.dieStrands die).filter fun p => p.2.birthJob == job).length + ((s.dieMsgs die).filter fun m => m.job == job).length +
    ((s.dieRecs die).filter fun r => r.job == job).length

/-- The jobs that have anything on a die. -/
def State.jobsOn (s : State) (die : Nat) : List Nat :=
  ((s.dieStrands die).map (fun p => p.2.birthJob) ++ (s.dieMsgs die).map Msg.job ++ (s.dieRecs die).map Rec.job).dedup

/-- Whether a line of a function lies on a die, as the cached translations say. -/
def State.lineOn (s : State) (die vf vline : Nat) : Bool :=
  s.xlat.any fun x => x.vf == vf && x.page == vline * 64 / 65536 * 65536 && (match x.target with
    | .loc pa => dieOfPa pa == die
    | _ => false)

/-- Whether a target is memory of a die. -/
def Target.onDie (t : Target) (die : Nat) : Bool :=
  match t with
  | .loc pa => dieOfPa pa == die
  | _ => false

/-- An access of a strand that is outstanding to a die's memory at its fence ends as under R363. -/
def Strand.cutOff (t : Strand) (s : State) (die : Nat) : Strand :=
  let hit := match t.run with
    | .waiting (.fill l _) => s.lineOn die t.vf l
    | .waiting (.bisnp l) => dieOfPa (l * 64) == die
    | _ => false
  if hit then { t with run := .running, timeout := true, answered := true, wokenAt := s.tick } else t

/-- What a fence takes of barriers and populations (R370): a lost strand stays a participant as its register stands until it is
withdrawn, and a launch that loses a strand or a record keeps its RESAMPLE waiting. -/
def State.breakGroups (s : State) (die : Nat) : State :=
  let gone := s.dieStrands die
  let lost (m : Member) : Member := match gone.find? fun p => p.1 == m.uid with
    | some (_, t) => { m with lost := some (t.core, t.slot.getD 0, t.b (BitVec.ofNat 2 m.b)) }
    | none => m
  let uids := gone.map (fun p => p.2.launch) ++ (s.dieRecs die).map Rec.launch
  { s with barriers := s.barriers.map fun (b : Barrier) => { b with members := b.members.map lost }
           jobs := FMap.map s.jobs fun _ j =>
             { j with launches := j.launches.map fun (l : Launch) => if l.pop && uids.contains l.uid then { l with broken := true } else l } }

/-- The foreign lines of a die's memory go from every L1 and column of the package, and everything its own L1s hold (R368). -/
def State.dropDie (s : State) (die : Nat) : State :=
  let goes (l : L1Line) : Bool := dieOf l.core = die || (l.stamp.isSome && l.pa < memHost && dieOfPa l.pa = die)
  let l1 := s.l1.filter fun l => !goes l
  let bare (e : DirEntry) : Bool := s.l1.any (fun l => goes l && e.covers l) && !l1.any e.covers
  { s with l1 := l1
           dir := s.dir.filter fun e => e.die ≠ die && !bare e
           overfull := s.overfull.filter fun e => e.die ≠ die
           quads := FMap.map s.quads fun q x =>
             if dieOfQuad q = die then
               { x with names := [], ops := [], queue := [], mmaxBy := none, drainBy := none, copies := [], groups := [], streams := [] }
             else { x with bed := x.bed.filter fun (l : BedLine) => !l.target.onDie die } }

/-- Fences a die (R368): its strands, inlets, deques, copies and tarns are discarded, one event per job; its memory and pools
refuse from then on; outstanding accesses end as under R363; foreign lines of its memory go. An inlet entry whose push is lost is
finished (R287). -/
def State.fence (s : State) (die : Nat) (fatal : Bool) : State :=
  if (s.die die).fenced then s
  else
    let s := (s.jobsOn die).foldl (fun s j =>
      s.event die 0x0b 0 j ((s.jobVf j).getD 0) 0 [if fatal then 1#64 else 0#64, BitVec.ofNat 64 (s.lostItems die j)]) s
    let s := s.putDie die { s.die die with fenced := true }
    let rs := s.dieRecs die
    let s := s.breakGroups die
    let s := { s with
      strands := FMap.map (s.strands.filter fun p => dieOf p.2.core ≠ die) fun _ t => t.cutOff s die
      cores := FMap.map s.cores fun c x => if dieOf c = die then { Core.reset with cnt := x.cnt, noCredit := x.noCredit } else x
      pending := s.pending.filter fun p => dieOf p.core ≠ die }
    rs.foldl State.pushMade (s.dropDie die)

/-- FENCE_DIE (R368, R381). -/
def execFenceDie (s : State) : Host.Outcome State Fault Refusal :=
  s.command 3 fun s => if 32 ≤ (s.arg 0).toNat then s.boxDone 2 else (s.fence (s.arg 0).toNat false).boxDone 0

/-- A fatal error of a die (R365): the fence, one last event, the frozen ring, vector 2 of the physical function (R379). -/
def State.fatal (s : State) (die : Nat) : State :=
  let s := (s.fence die true).fatalEvent die
  (s.putDie die { s.die die with frozen := true }).emit (.irq none 2)

/-- FATAL_ERROR (R357, R365): a parity error in a deque, copy queue, scheduler or router structure. -/
def execFatalError (die structure_ : Nat) (s : State) : Host.Outcome State Fault Refusal :=
  .next (if 9 ≤ structure_ && structure_ ≤ 11 then s.fatal die else s)

/-- The dies that a rail feeds (R391): VMGT feeds Steax, the board bus and the stale-all flags, and no die. -/
def railDies : Rail → List Nat
  | .vddc d | .vddb d => [d]
  | .vdds | .vddp => List.range 32
  | .vmgt => []

/-- RAIL_UNDERVOLTAGE (R391, R392): the dies that the rail feeds stop; a rail that is not up yet has none to stop. -/
def execRailUndervoltage (rail : Rail) (s : State) : Host.Outcome State Fault Refusal :=
  .next (if s.steax.railsOff.contains rail then s else (railDies rail).foldl State.fatal s)

/-- THERMAL_TRIP (R393). -/
def execThermalTrip (die : Nat) (s : State) : Host.Outcome State Fault Refusal := .next (s.fatal die)

/-- The number under which events name the CXL link. -/
def cxlLink : Nat := 96

/-- The dies on the sending sides of a link (R401): both ends of a die-to-die link; of a pod port, the die that owns it; of the CXL
link, die 0. -/
def linkDies (link : Nat) : List Nat :=
  if link < 64 then [link / 2, dieToward (link / 2) (if link % 2 = 0 then 1 else 2)]
  else if link < 96 then [(link - 64) % 32] else [0]

/-- All the lanes of a link: 8 of a pod port (R18), 16 of the CXL link (R377). -/
def allLanes (link : Nat) : Word64 :=
  if link < 64 then field64 (2 ^ Config.dieLanes - 1) 0 else if link < 96 then 0xff#64 else 0xffff#64

/-- The lanes that a link runs on (R362). -/
def State.laneMask (s : State) (link : Nat) : Word64 := FMap.getD s.steax.badLanes link (allLanes link)

/-- A link event (R367, R401): the link and its lane mask. -/
def State.linkEvent (s : State) (link : Nat) : State :=
  (linkDies link).foldl (fun s d => s.event d 0x05 0 0 0 0 [BitVec.ofNat 64 link, s.laneMask link]) s

/-- Whether a link may run on so many lanes (R362): at least 2 of a pod port, at least half of a die-to-die link's. -/
def lanesOk (link n : Nat) : Bool := if 64 ≤ link then 2 ≤ n else Config.dieLanes ≤ 2 * n && 0 < n

/-- DEGRADE_LANES (R362, R381): the link is retrained without the lanes; its packets are held. -/
def execDegradeLanes (s : State) : Host.Outcome State Fault Refusal :=
  s.command 4 fun s =>
    let link := (s.arg 0).toNat
    let mask := s.arg 1 &&& allLanes link
    if 96 ≤ link || !lanesOk link (onesCount mask) then s.boxDone 2
    else if s.box.retraining.any fun r => r.1 == link then s
    else { s with box := { s.box with retraining := s.box.retraining ++ [(link, mask)] } }

/-- RETRAIN_COMPLETE (R362, R367): held packets move again. -/
def execRetrainComplete (link : Nat) (s : State) : Host.Outcome State Fault Refusal :=
  .next (match s.box.retraining.find? fun r => r.1 == link with
    | none => s
    | some (_, mask) =>
      let s := { s with box := { s.box with retraining := s.box.retraining.filter fun r => r.1 ≠ link },
                        steax := { s.steax with badLanes := FMap.set s.steax.badLanes link mask } }
      let s := s.linkEvent link
      if s.boxRuns 4 && (s.arg 0).toNat = link then s.boxDone 0 else s)

/-- FRAME_COPY (R369, R381): the old frame's cached copies go home, and the frame is copied, poison included. A fenced die's
memory refuses (R368); lines that the host may hold are asked back first (R383). -/
def execFrameCopy (s : State) : Host.Outcome State Fault Refusal :=
  s.command 5 fun s =>
    let a := (s.arg 0).toNat
    let b := (s.arg 1).toNat
    let inA (pa : Nat) : Bool := a ≤ pa && pa < a + 65536
    if a % 65536 ≠ 0 || b % 65536 ≠ 0 || !frameOk a || !frameOk b then s.boxDone 2
    else if bitAt (Memory.dword s.mem (backKey b)) 63 || (s.die (dieOfPa a)).fenced || (s.die (dieOfPa b)).fenced then s.boxDone 3
    else
      match s.biasRange (.loc a) 65536, s.biasRange (.loc b) 65536 with
      | some w, _ | none, some w => s.askHost w true
      | none, none =>
      let gone := s.l1.filter fun l => inA (s.frameOf l)
      let s := gone.foldl (fun (s' : State) l =>
        if l.dirty then (s'.putHome (s.frameOf l) (lineBytes l.data)).poisonBy (s.frameOf l) 8 8 l.poison.getLsbD else s') s
      let s := { s with
        l1 := s.l1.filter fun l => !gone.contains l
        dir := s.dir.filter fun e => !gone.any e.covers
        quads := FMap.map s.quads fun _ q => { q with bed := q.bed.filter fun (l : BedLine) => match l.target with
          | .loc pa => !inA pa
          | _ => true } }
      let bs := Memory.bytes s.mem a 65536
      let bad := (s.poison.filter inA).map fun p => p - a + b
      let s := s.putHome b bs
      ({ s with poison := ((s.poison.filter fun p => !bad.contains p) ++ bad).insertionSort (· ≤ ·) } : State).boxDone 0

/-- Whether a job has a strand, a message, a record or a copy on the package (R372). -/
def State.jobBusy (s : State) (job : Nat) : Bool :=
  (s.strands.any fun p => p.2.birthJob == job) ||
  (s.cores.any fun c => c.2.inlet.any (fun m => m.job == job) || c.2.recs.any fun r => r.job == job) ||
  (s.pending.any fun p => p.rec_.job == job) ||
  s.quads.any fun q => q.2.copies.any fun c => c.live && c.job == job

/-- COUNT_REBASE (R372, R381). -/
def execCountRebase (s : State) : Host.Outcome State Fault Refusal :=
  s.command 6 fun s =>
    let job := bitsNat (s.arg 0) 15 0
    if s.jobBusy job then s.boxDone 3
    else
      let s := { s with cores := FMap.map s.cores fun _ c => { c with cnt := FMap.erase c.cnt job } }
      (s.putJob job { s.job job with wavestat := 0#64 }).boxDone 0

/-- EXTEND_MEASUREMENT_SLOT (R339, R381): new := SHA3-384(old, data). -/
def execExtendMeasurementSlot (s : State) : Host.Outcome State Fault Refusal :=
  s.command 7 fun s =>
    let vf := bitsNat (s.arg 0) 5 0
    let slot := bitsNat (s.arg 0) 10 8
    let n := if slot = 0 then 8 else slot
    let p := s.part vf
    if n < 5 then s.boxDone 2
    else
      let data := (List.range 24).flatMap fun k => leBytes 8 (s.arg (k + 1)).toNat
      let old := FMap.getD p.slots n (List.replicate 48 0#8)
      (s.putPart vf { p with slots := FMap.set p.slots n (Config.sha3_384 (old ++ data)) }).boxDone 0

/-- The eight doublewords of an event (R366). -/
def Event.words (e : Event) : List Word64 :=
  let d1 := field64 e.cls 56 ||| field64 (e.sub % 256) 48 ||| field64 (e.job % 65536) 32 ||| field64 (e.vf % 64) 26 |||
    field64 (if e.fatal then 1 else 0) 25 ||| field64 (e.unit_ % 2 ^ 17) 0
  [BitVec.ofNat 64 e.cyc, d1, BitVec.ofNat 64 e.seq] ++ (List.range 5).map fun k => (e.args[k]?).getD 0#64

/-- READ_BLACK_BOX (R365, R366, R381): the event at a ring position; a frozen ring can be released. -/
def execReadBlackBox (s : State) : Host.Outcome State Fault Refusal :=
  s.command 8 fun s =>
    let die := (s.arg 0).toNat
    let i := (s.arg 1).toNat
    let d := s.die die
    if 32 ≤ die || 1024 ≤ i then s.boxDone 2
    else
      let ws := match d.ring.reverse.find? fun e => e.seq % 1024 == i with
        | some e => e.words
        | none => List.replicate 8 0#64
      let s := if bitAt (s.arg 2) 0 then s.putDie die { d with frozen := false } else s
      s.boxResult ws

/-- Whether an image passes every check of R338: its component, its security version, its length, its key digest and its
signature. -/
def imageOk (bs : List Byte) : Bool :=
  let h := Config.imageHeader bs
  h.component ≤ 3 && Config.fusedSvn h.component ≤ h.svn && h.length = Config.payloadBytes bs &&
    h.digest = Config.fusedDigest h.component && Config.signatureOk bs

/-- The image in slot A (0) or B (1) of a component (R396): as loaded, else as delivered. -/
def Steax.image (x : Steax) (comp slot : Nat) : List Byte :=
  FMap.getD x.flash (2 * comp + slot) (Config.flashImage (2 * comp + slot))

/-- The slot whose image of a component runs after a cold reset (R396): of the valid images the one with the higher version, slot A
when the two are equal; none when neither is valid. -/
def Steax.bootSlot (x : Steax) (comp : Nat) : Option Nat :=
  let ok (k : Nat) : Bool := imageOk (x.image comp k) && (Config.imageHeader (x.image comp k)).component = comp
  let ver (k : Nat) : Nat := (Config.imageHeader (x.image comp k)).version
  if ok 0 && (!ok 1 || ver 1 ≤ ver 0) then some 0 else if ok 1 then some 1 else none

/-- The slot a component runs from. -/
def Steax.slotOf (x : Steax) (comp : Nat) : Nat := if comp = 0 then x.slot else FMap.getD x.running comp 0

/-- LOAD_FIRMWARE (R338, R396, R381): an image that passes every check goes to the slot that is not running; components 1 to 3 run
it from the next reset on. A fenced die's memory refuses (R368). -/
def execLoadFirmware (s : State) : Host.Outcome State Fault Refusal :=
  s.command 9 fun s =>
    let pa := (s.arg 0).toNat
    let n := (s.arg 1).toNat
    if n = 0 || 2 ^ 26 < n || !frameOk pa || !frameOk (pa + n - 1) then s.boxDone 2
    else if (s.die (dieOfPa pa)).fenced || (s.die (dieOfPa (pa + n - 1))).fenced then s.boxDone 3
    else
      match s.biasRange (.loc pa) n with
      | some w => s.askHost w false
      | none =>
        let bs := s.physBytes pa n
        let h := Config.imageHeader bs
        if imageOk bs then
          let to_ := 1 - s.steax.slotOf h.component
          let x := { s.steax with flash := FMap.set s.steax.flash (2 * h.component + to_) bs }
          ({ s with steax := if h.component = 0 then x else { x with accepted := FMap.set x.accepted h.component to_ } } : State).boxDone 0
        else (s.event 0 0x09 0 0 0 0 [BitVec.ofNat 64 h.component, BitVec.ofNat 64 h.version]).boxDone 4

/-- READ_COUNTERS (R359, R364, R381). -/
def execReadCounters (s : State) : Host.Outcome State Fault Refusal :=
  s.command 10 fun s =>
    let die := (s.arg 0).toNat
    let x := (s.arg 1).toNat
    if 32 ≤ die || (x < 0x100 && (x = 0 || 13 < x)) || 0x100 + 65535 < x then s.boxDone 2
    else if x < 0x100 then s.boxResult [BitVec.ofNat 64 (FMap.getD (s.die die).corrected x 0)]
    else s.boxResult [BitVec.ofNat 64 (s.job (x - 0x100)).lost]

/-- What measurement block 4 hashes (R339): PART, the skip bits, the ways, the regions, the job entries without SHARE, the
stage-2 root. -/
def State.measure4 (s : State) (vf : Nat) : List Byte :=
  let p := s.part vf
  let ext := (List.range (p.len + 1)).map (p.base + ·)
  leBytes 8 p.part.toNat ++ (ext.map fun h => if s.skip.contains h then 1#8 else 0#8) ++ leBytes 2 p.ways.toNat ++
    (ext.flatMap fun h => leBytes 2 (s.quad (quadOfHilbert h)).bway.toNat) ++
    (p.jobtab.toList.flatMap fun e => leBytes 8 (e &&& ~~~(field64 15 58)).toNat) ++ leBytes 8 ((p.root2.map BitVec.toNat).getD 0)

/-- The fused security-version minimums and key digests, one component after another. -/
def fuses : List Byte := (List.range 4).flatMap fun c => leBytes 4 (Config.fusedSvn c) ++ Config.fusedDigest c

/-- Measurement block i of a function (R339): the running images, the fuses, the configuration, the slots. -/
def State.measurement (s : State) (vf i : Nat) : List Byte :=
  let run (c : Nat) : List Byte := s.steax.image c (s.steax.slotOf c)
  if i ≤ 1 then Config.sha3_384 (run 0)
  else if i = 2 then Config.sha3_384 (run 1 ++ run 2 ++ run 3)
  else if i = 3 then Config.sha3_384 fuses
  else if i = 4 then Config.sha3_384 (s.measure4 vf)
  else FMap.getD (s.part vf).slots i (List.replicate 48 0#8)

/-- An SPDM answer on a function's DOE mailbox (R339): its format is the named standard's. -/
def State.spdm (s : State) (fn : Option Nat) (code : Nat) (content : List Byte) : State :=
  s.emit (.doe fn code (Config.spdmBytes code ((fn.map (· + 1)).getD 0) content))

/-- GET_VERSION (R339). -/
def execGetVersion (fn : Option Nat) (s : State) : Host.Outcome State Fault Refusal := .next (s.spdm fn 0x84 [])
/-- GET_CAPABILITIES (R339). -/
def execGetCapabilities (fn : Option Nat) (s : State) : Host.Outcome State Fault Refusal := .next (s.spdm fn 0xe1 [])
/-- NEGOTIATE_ALGORITHMS (R339). -/
def execNegotiateAlgorithms (fn : Option Nat) (s : State) : Host.Outcome State Fault Refusal := .next (s.spdm fn 0xe3 [])
/-- GET_DIGESTS (R339). -/
def execGetDigests (fn : Option Nat) (s : State) : Host.Outcome State Fault Refusal := .next (s.spdm fn 0x81 [])
/-- GET_CERTIFICATE (R339). -/
def execGetCertificate (fn : Option Nat) (s : State) : Host.Outcome State Fault Refusal := .next (s.spdm fn 0x82 [])
/-- CHALLENGE (R339). -/
def execChallenge (fn : Option Nat) (nonce : List Byte) (s : State) : Host.Outcome State Fault Refusal := .next (s.spdm fn 0x83 nonce)
/-- GET_MEASUREMENTS (R339): a virtual function answers for its own partition, the physical function for the one asked. -/
def execGetMeasurements (fn : Option Nat) (part : Nat) (s : State) : Host.Outcome State Fault Refusal :=
  .next (s.spdm fn 0xe0 ((List.range 8).flatMap fun i => s.measurement (fn.getD part) (i + 1)))
/-- KEY_EXCHANGE (R388): a secure session on the physical function's mailbox. -/
def execKeyExchange (fn : Option Nat) (body : List Byte) (s : State) : Host.Outcome State Fault Refusal :=
  .next (if fn = none then ({ s with host := { s.host with session := true } } : State).spdm fn 0xe4 body else s.spdm fn 0x7f [])
/-- CXL_IDE_KM (R388): keys only within a secure session of the physical function. -/
def execCxlIdeKm (fn : Option Nat) (key : List Byte) (s : State) : Host.Outcome State Fault Refusal :=
  .next (if fn = none && s.host.session then
      ({ s with host := { s.host with ideKeys := key, ideActive := true } } : State).spdm fn 0xfe []
    else s.spdm fn 0x7f [])

/-- IDE_CHECK_FAILURE (R388): the link goes down and the event is recorded. -/
def execIdeCheckFailure (s : State) : Host.Outcome State Fault Refusal :=
  .next (if s.host.ideActive then ({ s with host := { s.host with linkUp := false } } : State).linkEvent cxlLink else s)

/-- The CXL link trains (R377): as CXL, or with a partner without 256-byte flits as a PCIe endpoint, without HDM and CXL.cache. -/
def State.trainHost (s : State) (cxl : Bool) : State :=
  ({ s with host := { s.host with linkUp := true, cxl := cxl },
            steax := { s.steax with downLinks := s.steax.downLinks.filter (· ≠ cxlLink) } } : State).linkEvent cxlLink

/-- CXL_LINK_RETRAIN (R377). -/
def execCxlLinkRetrain (s : State) : Host.Outcome State Fault Refusal := .next (s.trainHost s.host.cxl)

/-- The failed sendings of a flit of a direction of a link (R361). -/
def Steax.failures (x : Steax) (way flit : Nat) : Nat :=
  match FMap.get? x.retries way with
  | some (f, n) => if f = flit then n else 0
  | none => 0

/-- BAD_FLIT (R361): discarded and resent; the failures of one flit of a direction of a link are counted, its first sending and 16
resends. -/
def execBadFlit (flit : Nat) (s : State) : Host.Outcome State Fault Refusal :=
  let way := flit % 256
  let n := flit / 256
  .next { s with steax := { s.steax with retries := FMap.set s.steax.retries way (n, min 17 (s.steax.failures way n + 1)) } }

/-- Whether a flit of a link has failed its 16 resends (R361). -/
def Steax.flitFails (x : Steax) (link : Nat) : Bool :=
  [false, true].any fun back => (FMap.get? x.retries (wayOf link back)).any fun r => 17 ≤ r.2

/-- LINK_DOWN (R361, R363): after 16 failed resends; the packets held for the link are lost, but for control packets, which are
resent until they are acknowledged unless their package is unreachable. With the CXL link down the host is not reached (R377). -/
def execLinkDown (link : Nat) (s : State) : Host.Outcome State Fault Refusal :=
  .next (if !s.steax.flitFails link || s.steax.downLinks.contains link then s
    else
      let s : State := if link = cxlLink then { s with host := { s.host with linkUp := false } } else s
      let s := ({ s with steax := { s.steax with downLinks := s.steax.downLinks ++ [link] } } : State).linkEvent link
      (s.packets.filter fun p => p.link == some link && p.bears).foldl (fun s p => s.losePacket p (dieOfQuad p.at_)) s)

/-- The memory that a package reset leaves: GDDR-7, peers and host memory, the backward tables unmapped (R397). -/
def resetMemory (m : Memory) : Memory :=
  m.filter fun c => c.1 < memPool && !(c.1 < 96 * 2 ^ 32 && 2 ^ 32 - 2 ^ 19 ≤ c.1 % 2 ^ 32)

/-- Steax's check of its own two slots after a cold reset (R396): it runs the valid image that it finds, and boots each other component
the same way; with no valid image of its own it holds every rail but VMGT off. -/
def Steax.boot (x : Steax) : Steax :=
  let run := [1, 2, 3].foldl (fun m c => match x.bootSlot c with
    | some k => FMap.set m c k
    | none => m) []
  match x.bootSlot 0 with
  | some k => { x with slot := k, running := run }
  | none => { x with fail := true, stage := 0xF }

/-- Steax as it stands once that check, which precedes the first stage after a cold reset, is made (R396). -/
def Steax.checked (x : Steax) : Steax := if x.stage = 0 && !x.resetting then x.boot else x

/-- A reset of the package (R395): everything but Steax with its counts of lost messages (R364), what memory keeps, frozen rings,
and what lies outside the package; the links are reset with their lanes. Components 1 to 3 run the images accepted since (R338). Where
Steax has no valid image of its own it still has none, and nothing is brought up (R396). -/
def State.resetPackage (s : State) : State :=
  let x := s.steax.checked
  let dead := x.stage = 0xF
  let run := x.accepted.foldl (fun m p => FMap.set m p.1 p.2) x.running
  { State.reset with
    tick := s.tick, nextUid := s.nextUid, inputs := s.inputs, outside := s.outside, outbox := s.outbox, mem := resetMemory s.mem
    poison := s.poison.filter fun k => k < memPool
    jobs := (s.jobs.filter fun j => j.2.lost ≠ 0).map fun j => (j.1, { Job.reset with lost := j.2.lost })
    dies := (s.dies.filter fun d => d.2.frozen).map fun d => (d.1, { Die.reset with ring := d.2.ring, frozen := true })
    steax := { x with ready := false, fail := dead, stage := if dead then 0xF else 0, resetting := true, retries := [],
                      downLinks := [], badLanes := [], laneErrors := [], running := run, accepted := [] } }

/-- PACKAGE_RESET (R395). -/
def execPackageReset (s : State) : Host.Outcome State Fault Refusal := .next s.resetPackage

/-- PRST (R399): ignored while a package reset is in progress. -/
def execPrst (v : Word64) (s : State) : Host.Outcome State Fault Refusal :=
  .next (if bitAt v 0 && !s.steax.resetting then s.resetPackage else s)

/-- COLD_RESET (R395, R396): everything; the flash keeps its images. -/
def execColdReset (s : State) : Host.Outcome State Fault Refusal :=
  .next (
    { State.reset with
      tick := s.tick, nextUid := s.nextUid, inputs := s.inputs, outside := s.outside, outbox := s.outbox
      mem := s.mem.filter fun c => memHost ≤ c.1 && c.1 < memPool
      steax := { Steax.reset with flash := s.steax.flash } })

/-- The lanes of links that training finds good, where some fail (R362, R397): a link runs on them, degraded, which is an event. -/
def State.trainLanes (s : State) (mine : Nat → Bool) : State :=
  ((Config.untrainedLanes s.tick).filter fun x => mine x.1 && lanesOk x.1 (onesCount (x.2 &&& allLanes x.1))).foldl (fun s x =>
    ({ s with steax := { s.steax with badLanes := FMap.set s.steax.badLanes x.1 (x.2 &&& allLanes x.1) } } : State).linkEvent x.1) s

/-- The effect of a bring-up stage that does not fail (R397). -/
def State.stageDone (s : State) (n : Nat) : State :=
  match n with
  | 2 => { s with steax := { s.steax with railsOff := [] } }
  | 3 => { s with mem := resetMemory s.mem, poison := s.poison.filter fun k => k < memPool, quads := [],
                  dies := FMap.map s.dies fun _ d => if d.frozen then d else { Die.reset with fenced := d.fenced } }
  | 4 => ((Config.untrainedDies s.tick).foldl (fun s d => (s.fence d false).event d 0x0b 0 0 0 0 [0#64]) s).trainLanes fun l => l < 64
  | 5 => { (s.trainLanes fun l => 64 ≤ l && l ≤ cxlLink) with host := { s.host with linkUp := true } }
  | 6 => { s with steax := { s.steax with ready := true, resetting := false }, host := { s.host with hostBias := [] } }
  | _ => s

/-- Whether a stage of bring-up fails: stage 1 where the image that one of components 1 to 3 runs fails its checks or is another
component's (R338), any stage where the hardware does (R397). -/
def State.stageFails (s : State) (n : Nat) : Bool :=
  let ok (c : Nat) : Bool :=
    imageOk (s.steax.image c (s.steax.slotOf c)) && (Config.imageHeader (s.steax.image c (s.steax.slotOf c))).component == c
  Config.stageFails s.tick || (n = 1 && !([1, 2, 3].all ok))

/-- BRING_UP (R396, R397): the next stage; one that fails ends bring-up. After a cold reset Steax's check of its own image comes first. -/
def execBringUp (s : State) : Host.Outcome State Fault Refusal :=
  .next (
    if s.steax.ready || s.steax.fail then s
    else
      let s := { s with steax := s.steax.checked }
      if s.steax.fail then s
      else
        let n := s.steax.stage + 1
        let s := { s with steax := { s.steax with stage := n } }
        if s.stageFails n then { s with steax := { s.steax with fail := true, resetting := false } } else s.stageDone n)

/-- BPWR (R399): P1S and TMAX as the sensors have last measured them, P10M as the highest 10 ms average since the last read. -/
def State.bpwr (s : State) : Word64 :=
  field64 (bitsNat s.steax.p1s 15 0) 48 ||| field64 (bitsNat s.steax.p10m 15 0) 32 ||| field64 (bitsNat s.steax.tmax 7 0) 24

/-- BPWR_READ (R399): P10M is cleared. -/
def execBpwrRead (s : State) : Host.Outcome State Fault Refusal :=
  .next (({ s with steax := { s.steax with p10m := 0#64 } } : State).emit (.board s.bpwr))

/-- CONFIGURATION_REQUEST (R397): Configuration Request Retry Status until stage 6. -/
def execConfigurationRequest (s : State) : Host.Outcome State Fault Refusal := .next (s.emit (.cfg (!s.steax.ready)))

end Sys2Proof.Machine
end

