-- ==== Sys2Proof/Machine/HostMemory.lean ====
section
/-!
DEFINITION. The host's coherent accesses (spec/25_host.md R382 to R387): bias flips, HDM reads and writes with the snoop
filter, host snoops of lines that bed columns hold, and answers to back-invalidate snoops.
-/
namespace Sys2Proof.Machine

/-- The sets of the snoop filter: 2,097,152 entries in 16 ways (R384). -/
def filterSets : Nat := 131072

/-- Records a line in the snoop filter (R384): true when it is listed; with its set full, the entry inserted earliest is asked
back first. -/
def State.filterInsert (s : State) (line : Nat) : State × Bool :=
  if s.host.filter.contains line then (s, true)
  else
    let set := s.host.filter.filter fun l => l % filterSets == line % filterSets
    match set with
    | e :: _ => if set.length < 16 then ({ s with host := { s.host with filter := s.host.filter ++ [line] } }, true)
      else (s.askHost (.bisnp e) true, false)
    | [] => ({ s with host := { s.host with filter := s.host.filter ++ [line] } }, true)

/-- Whether a host access to a line can be served now (R383, R384, R386): a block in device bias starts its flip first; a flip to
host bias has finished the line; a flip to device bias is awaited whole. -/
def State.hostAccess (s : State) (pa : Nat) : State × Bool :=
  let blk := pa / 4096
  match s.host.flip with
  | some f =>
    if f.blk ≠ blk then (if s.host.hostBias.contains blk then s.filterInsert (pa / 64) else (s, false))
    else if f.toHost && pa / 64 % 64 < f.lines then s.filterInsert (pa / 64) else (s, false)
  | none =>
    if s.host.hostBias.contains blk then s.filterInsert (pa / 64) else (s.biasRequest (field64 blk 12 ||| 1#64), false)

/-- The device physical address of a host access of n bytes within one line (R382); none where HDM is absent (R377). -/
def State.hdm (s : State) (hpa n : Nat) : Option Nat :=
  if s.cacheUp && s.host.hdmBase ≤ hpa && hpa < s.host.hdmBase + 96 * 2 ^ 32 && 0 < n && (hpa - s.host.hdmBase) % 64 + n ≤ 64 then
    some (hpa - s.host.hdmBase) else none

/-- Whether device memory answers at an address: not reserved (R382), its die not fenced (R368). -/
def State.hdmLive (s : State) (pa : Nat) : Bool := frameOk pa && !(s.die (dieOfPa pa)).fenced

/-- A host read of HDM: served, or waiting (R382, R383). -/
def State.hostRead (s : State) (hpa n : Nat) : State :=
  match s.hdm hpa n with
  | none => s.emit .abort
  | some pa =>
    if !s.hdmLive pa then s.emit (.hdmRead hpa [] true)
    else
      match s.hostAccess pa with
      | (s, true) => s.emit (.hdmRead hpa (s.physBytes pa n) (s.physPoison pa n))
      | (s, false) => { s with host := { s.host with waitingReads := s.host.waitingReads ++ [(hpa, n)] } }

/-- A host write of HDM: served, or waiting (R382, R383). -/
def State.hostWrite (s : State) (hpa : Nat) (data : List Byte) : State :=
  match s.hdm hpa data.length with
  | none => s.emit .abort
  | some pa =>
    if !s.hdmLive pa then s.emit (.hdmWrite hpa)
    else
      match s.hostAccess pa with
      | (s, true) => (s.agentWrite 0 pa data).emit (.hdmWrite hpa)
      | (s, false) => { s with host := { s.host with waitingWrites := s.host.waitingWrites ++ [(hpa, data)] } }

/-- Everything that waits for the host's lines or a flip is tried again, in the order of its kind; walks that a reply began last. -/
def State.serveHost (s : State) : State :=
  let h := s.host
  let s := { s with host := { h with waitingReads := [], waitingWrites := [], waitingOps := [] } }
  let s := h.waitingReads.foldl (fun s r => s.hostRead r.1 r.2) s
  let s := h.waitingWrites.foldl (fun s w => s.hostWrite w.1 w.2) s
  (h.waitingOps.foldl State.operate s).hostWalks

/-- BIAS_FLIP_TO_HOST (R385). -/
def execBiasFlipToHost (v : Word64) (s : State) : Host.Outcome State Fault Refusal := .next (s.biasRequest (v ||| 1#64))

/-- BIAS_FLIP_TO_DEVICE (R385). -/
def execBiasFlipToDevice (v : Word64) (s : State) : Host.Outcome State Fault Refusal := .next (s.biasRequest (v &&& ~~~(1#64)))

/-- Writes every dirty device copy of a line of local memory home and drops every copy, in every L1 and column (R385, R333). -/
def State.flushLine (s : State) (pa : Nat) : State :=
  let gone := s.l1.filter fun l => if l.stamp.isSome then l.pa == pa else s.frameOf l == pa
  let s := gone.foldl (fun (s' : State) l =>
    if l.dirty then (s'.putHome pa (lineBytes l.data)).poisonBy pa 8 8 l.poison.getLsbD else s') s
  { s with l1 := s.l1.filter fun l => !gone.contains l
           dir := s.dir.filter fun e => !gone.any e.covers
           quads := FMap.map s.quads fun _ q => { q with bed := q.bed.filter fun (l : BedLine) => l.target ≠ .loc pa } }

/-- Whether the flip in progress has come to its end: to host bias, once its 64 lines are done; to device bias, once the snoop
filter lists no line of the block (R385). -/
def Flip.over (f : Flip) (h : HostPort) : Bool := if f.toHost then 64 ≤ f.lines else !(h.filter.any fun l => l / 64 == f.blk)

/-- Whether the flip in progress can go on: a flip to host bias with its next line or its end, one to device bias with its end. -/
def State.flipOver (s : State) : Bool :=
  match s.host.flip with
  | some f => f.toHost || f.over s.host
  | none => false

/-- The end of a flip (R385): BIAS is set and BUSY cleared; what waited for the block goes on. -/
def State.flipEnd (s : State) (f : Flip) : State :=
  let bias := if f.toHost then (s.host.hostBias ++ [f.blk]).insertionSort (· ≤ ·) else s.host.hostBias.filter (· ≠ f.blk)
  let stat := field64 f.blk 12 ||| (s.host.biasstat &&& field64 1 62) ||| field64 (if f.toHost then 1 else 0) 0
  let s := { s with host := { s.host with flip := none, hostBias := bias, biasstat := stat } }
  ((s.wake fun _ _ w => w == .flip).postRings).serveHost

/-- BIAS_FLIP_COMPLETE (R385, R386): a flip to host bias walks the lines of the block in ascending address, and host requests for a
finished line are served; with the last line done, or no line listed for device bias, the flip ends. -/
def execBiasFlipComplete (s : State) : Host.Outcome State Fault Refusal :=
  .next (match s.host.flip with
    | none => s
    | some f =>
      if f.over s.host then s.flipEnd f
      else if !f.toHost then s
      else
        let s := s.flushLine (f.blk * 4096 + 64 * f.lines)
        ({ s with host := { s.host with flip := some { f with lines := f.lines + 1 } } } : State).serveHost)

/-- BIASSTAT_READ (R385): the read clears IGN. -/
def execBiasstatRead (s : State) : Host.Outcome State Fault Refusal := .next (s.mmioRead none 0x40038 8)

/-- HOST_HDM_READ (R382). -/
def execHostHdmRead (hpa n : Nat) (s : State) : Host.Outcome State Fault Refusal := .next (s.hostRead hpa n)

/-- HOST_HDM_WRITE (R382). -/
def execHostHdmWrite (hpa : Nat) (data : List Byte) (s : State) : Host.Outcome State Fault Refusal := .next (s.hostWrite hpa data)

/-- The copy of a host line that a bed column holds (R387), a dirty one first. -/
def State.hostLine (s : State) (line : Nat) : Option BedLine :=
  let cs := s.hostCopies (line * 64) 64
  match cs.find? BedLine.dirty with
  | some l => some l
  | none => cs.head?

/-- Changes every column's copy of a host line; none drops it. -/
def State.mapHostLine (s : State) (line : Nat) (f : BedLine → Option BedLine) : State :=
  let g (l : BedLine) : Option BedLine := if l.target = .host (line * 64) then f l else some l
  { s with quads := FMap.map s.quads fun _ q => { q with bed := q.bed.filterMap g } }

/-- What a snoop returns (R387): the line's data, whether it is dirty, and its poison (R357). -/
def State.snoopAnswer (s : State) (line : Nat) : State :=
  match s.hostLine line with
  | some l => s.emit (.snoop line l.dirty (lineBytes l.data) (l.poison ≠ 0#4))
  | none => s.emit (.snoop line false [] false)

/-- A snoop's answer: dirty data is host memory's from then on, and keeps its poison (R357). -/
def State.snoopOut (s : State) (line : Nat) : State :=
  let s := s.snoopAnswer line
  match s.hostLine line with
  | some l =>
    if l.dirty then (s.putHome (memHost + line * 64) (lineBytes l.data)).poisonBy (memHost + line * 64) 64 1 fun _ => l.poison ≠ 0#4 else s
  | none => s

/-- SNPINV (R387): the line is invalidated; after, where not empty, is what the host then writes to it. -/
def execSnpinv (line : Nat) (after : List Byte) (s : State) : Host.Outcome State Fault Refusal :=
  .next (
    let s := (s.snoopOut line).mapHostLine line fun _ => none
    s.putHome (memHost + line * 64) (after.take 64))

/-- SNPDATA (R387): the line is left shared. -/
def execSnpdata (line : Nat) (s : State) : Host.Outcome State Fault Refusal :=
  .next ((s.snoopOut line).mapHostLine line fun l => some { l with excl := false, dirty := false })

/-- SNPCUR (R387): the line's data, and no change. -/
def execSnpcur (line : Nat) (s : State) : Host.Outcome State Fault Refusal := .next (s.snoopAnswer line)

/-- BISNP_RESPONSE (R383 to R385): the host's dirty data goes into GDDR-7, the line leaves the snoop filter, and what waited
for it goes on. -/
def execBisnpResponse (line : Nat) (dirty : List Byte) (s : State) : Host.Outcome State Fault Refusal :=
  .next (
    if !s.host.filter.contains line then s
    else
      let s := s.putHome (line * 64) (dirty.take 64)
      let s := { s with host := { s.host with filter := s.host.filter.filter (· ≠ line) },
                        outbox := s.outbox.filter fun o => !(o == Out.bisnp line true || o == Out.bisnp line false) }
      ((s.wake fun _ _ w => w == Wait.bisnp line).postRings).serveHost)

/-- BSTAT (R398). -/
def State.bstat (s : State) : Word64 :=
  field64 (if s.steax.ready then 1 else 0) 63 ||| field64 (if s.steax.fail then 1 else 0) 62 ||| field64 s.steax.slot 60 |||
    ((List.range 32).foldl (fun w d => if (s.die d).fenced then w ||| field64 1 (4 + d) else w) 0#64) ||| field64 s.steax.stage 0

/-- A request of the copy engine of a quad is lost (R363): with its read, its copy fails at the source element it stands at; its write
is a lost store. -/
def State.loseCopyRequest (s : State) (q : Nat) (write : Bool) : State :=
  match (s.quad q).headCopy with
  | none => s
  | some c =>
    if c.st ≠ .running || c.cause ≠ 0 then s
    else
      let l := layoutOf c.rec_
      let (i, j, a) := l.dstElem c.next
      if write then
        match s.copyElem q c l c.next, s.resolveFor 0 c.vf c.mode (dieOf c.core) a .write with
        | .ok s' c', .ok _ tg => s.copyLost c a tg (fun _ => s') |>.putCopy q { c' with next := c.next + 1, waits := [] }
        | .ok s' c', _ => s.copyLost c a .dry (fun _ => s') |>.putCopy q { c' with next := c.next + 1, waits := [] }
        | _, _ => s
      else
        let at_ := match l.source i j with
          | some (si, sj) => l.srcAddr si sj
          | none => a
        s.putCopy q { c with waits := [], cause := 0x0B, failAddr := at_ }

/-- A message of another package enters the fabric at a pod port (R302); its sender is named by its header (R50). The job is under
way (R305). -/
def State.podMessage (s : State) (port : Nat) (m : Msg) : State :=
  let s := if ((s.part m.vf).jobIndex m.job).isSome then s.jobStart m.job else s
  s.enter .message m.job port (2 ^ 15 * (1 + bitsNat m.hdr0 32 15) + bitsNat m.hdr0 47 33) m.dcore (.msg m)

/-- What the outside world does to the package without a row of the opcode table. -/
def State.outsideStep (s : State) (o : Outside) : State :=
  match o with
  | .mmioRead fn off n => s.mmioRead fn off n
  | .hdmBase b => { s with host := { s.host with hdmBase := b } }
  | .linkTrain cxl => s.trainHost cxl
  | .podMessage port m => s.podMessage port m
  | .podTaken vf l => { s with away := s.away.erase (vf, l) }
  | .podRecords port vf lpkg rs => s.takeRecords port vf lpkg rs
  | .laneError link lane =>
    { s with steax := { s.steax with laneErrors := FMap.set s.steax.laneErrors (64 * link + lane) (FMap.getD s.steax.laneErrors (64 * link + lane) 0 + 1) } }
  | .lptinv v => s.lptinvWrite v
  | .recall die vf line quad corrupt => s.fullRecall die vf line quad corrupt
  | .token t => s.takeToken t
  | .copyTimeout q write => s.loseCopyRequest q write
  | .bstatRead => s.emit (.board s.bstat)
  | .bctlRead => s.emit (.board 0#64)
  | .powerAverage w => { s with steax := { s.steax with p10m := if s.steax.p10m.toNat < w % 65536 then BitVec.ofNat 64 (w % 65536) else s.steax.p10m } }
  | .powerSecond w => { s with steax := { s.steax with p1s := BitVec.ofNat 64 (w % 65536) } }
  | .hottest c => { s with steax := { s.steax with tmax := BitVec.ofNat 64 (c % 256) } }

end Sys2Proof.Machine
end

