-- ==== Sys2Proof/Machine/MemoryInstr.lean ====
section
/-!
DEFINITION. Loads, stores, block operations, atomics, fences, PROMOTE and weirs (spec/06_ref_memory.md): majors 0x10 to 0x1F.
-/
namespace Sys2Proof.Machine

/-- LD, 1 bytes (R117). -/
def execLdB (d : BitVec 5) (a : BitVec 5) (i : BitVec 16) (s : State) : Host.Outcome State Fault Refusal :=
  runWord { inCode := true } (loadBody d a i 1 (extS 1)) s

/-- LD, 2 bytes (R117). -/
def execLdH (d : BitVec 5) (a : BitVec 5) (i : BitVec 16) (s : State) : Host.Outcome State Fault Refusal :=
  runWord { inCode := true } (loadBody d a i 2 (extS 2)) s

/-- LD, 4 bytes (R117). -/
def execLdW (d : BitVec 5) (a : BitVec 5) (i : BitVec 16) (s : State) : Host.Outcome State Fault Refusal :=
  runWord { inCode := true } (loadBody d a i 4 (extS 4)) s

/-- LD, 8 bytes (R117). -/
def execLdD (d : BitVec 5) (a : BitVec 5) (i : BitVec 16) (s : State) : Host.Outcome State Fault Refusal :=
  runWord { inCode := true } (loadBody d a i 8 extZ) s

/-- LD, 1 bytes (R117). -/
def execLdBz (d : BitVec 5) (a : BitVec 5) (i : BitVec 16) (s : State) : Host.Outcome State Fault Refusal :=
  runWord { inCode := true } (loadBody d a i 1 extZ) s

/-- LD, 2 bytes (R117). -/
def execLdHz (d : BitVec 5) (a : BitVec 5) (i : BitVec 16) (s : State) : Host.Outcome State Fault Refusal :=
  runWord { inCode := true } (loadBody d a i 2 extZ) s

/-- LD, 4 bytes (R117). -/
def execLdWz (d : BitVec 5) (a : BitVec 5) (i : BitVec 16) (s : State) : Host.Outcome State Fault Refusal :=
  runWord { inCode := true } (loadBody d a i 4 extZ) s

/-- ST, 1 bytes (R119). -/
def execStB (b : BitVec 5) (a : BitVec 5) (i : BitVec 16) (s : State) : Host.Outcome State Fault Refusal :=
  runWord { inCode := true } (storeBody b a i 1) s

/-- ST, 2 bytes (R119). -/
def execStH (b : BitVec 5) (a : BitVec 5) (i : BitVec 16) (s : State) : Host.Outcome State Fault Refusal :=
  runWord { inCode := true } (storeBody b a i 2) s

/-- ST, 4 bytes (R119). -/
def execStW (b : BitVec 5) (a : BitVec 5) (i : BitVec 16) (s : State) : Host.Outcome State Fault Refusal :=
  runWord { inCode := true } (storeBody b a i 4) s

/-- ST, 8 bytes (R119). -/
def execStD (b : BitVec 5) (a : BitVec 5) (i : BitVec 16) (s : State) : Host.Outcome State Fault Refusal :=
  runWord { inCode := true } (storeBody b a i 8) s

/-- BLD (R120 to R122). -/
def execBld (d : BitVec 5) (a : BitVec 5) (s : State) : Host.Outcome State Fault Refusal :=
  runWord {} (bldBody d a) s

/-- BST (R120 to R122). -/
def execBst (d : BitVec 5) (a : BitVec 5) (s : State) : Host.Outcome State Fault Refusal :=
  runWord {} (bstBody d a) s

/-- BCOPY (R120 to R122). -/
def execBcopy (d : BitVec 5) (a : BitVec 5) (s : State) : Host.Outcome State Fault Refusal :=
  runWord {} (bcopyBody d a) s

/-- BFILL (R120 to R122). -/
def execBfill (d : BitVec 5) (a : BitVec 5) (s : State) : Host.Outcome State Fault Refusal :=
  runWord {} (bfillBody d a) s

/-- BZERO (R120 to R122). -/
def execBzero (d : BitVec 5) (s : State) : Host.Outcome State Fault Refusal :=
  runWord {} (bzeroBody d) s

/-- BPREF (R123). -/
def execBpref (d : BitVec 5) (s : State) : Host.Outcome State Fault Refusal :=
  runWord {} (bprefBody d) s

/-- BCLEAN (R123). -/
def execBclean (d : BitVec 5) (s : State) : Host.Outcome State Fault Refusal :=
  runWord {} (maintBody d false) s

/-- BFLUSH (R123). -/
def execBflush (d : BitVec 5) (s : State) : Host.Outcome State Fault Refusal :=
  runWord {} (maintBody d true) s

/-- AMO.ADD, 32 bits (R124). -/
def execAmoAddW (d : BitVec 5) (a : BitVec 5) (b : BitVec 5) (o : MOrd) (sc : Scope) (s : State) : Host.Outcome State Fault Refusal :=
  runWord { inCode := true } (amoBody 32 .add d a b o sc) s

/-- AMO.ADD, 64 bits (R124). -/
def execAmoAddD (d : BitVec 5) (a : BitVec 5) (b : BitVec 5) (o : MOrd) (sc : Scope) (s : State) : Host.Outcome State Fault Refusal :=
  runWord { inCode := true } (amoBody 64 .add d a b o sc) s

/-- AMO.MIN, 32 bits (R124). -/
def execAmoMinW (d : BitVec 5) (a : BitVec 5) (b : BitVec 5) (o : MOrd) (sc : Scope) (s : State) : Host.Outcome State Fault Refusal :=
  runWord { inCode := true } (amoBody 32 .min d a b o sc) s

/-- AMO.MIN, 64 bits (R124). -/
def execAmoMinD (d : BitVec 5) (a : BitVec 5) (b : BitVec 5) (o : MOrd) (sc : Scope) (s : State) : Host.Outcome State Fault Refusal :=
  runWord { inCode := true } (amoBody 64 .min d a b o sc) s

/-- AMO.MAX, 32 bits (R124). -/
def execAmoMaxW (d : BitVec 5) (a : BitVec 5) (b : BitVec 5) (o : MOrd) (sc : Scope) (s : State) : Host.Outcome State Fault Refusal :=
  runWord { inCode := true } (amoBody 32 .max d a b o sc) s

/-- AMO.MAX, 64 bits (R124). -/
def execAmoMaxD (d : BitVec 5) (a : BitVec 5) (b : BitVec 5) (o : MOrd) (sc : Scope) (s : State) : Host.Outcome State Fault Refusal :=
  runWord { inCode := true } (amoBody 64 .max d a b o sc) s

/-- AMO.MINU, 32 bits (R124). -/
def execAmoMinuW (d : BitVec 5) (a : BitVec 5) (b : BitVec 5) (o : MOrd) (sc : Scope) (s : State) : Host.Outcome State Fault Refusal :=
  runWord { inCode := true } (amoBody 32 .minu d a b o sc) s

/-- AMO.MINU, 64 bits (R124). -/
def execAmoMinuD (d : BitVec 5) (a : BitVec 5) (b : BitVec 5) (o : MOrd) (sc : Scope) (s : State) : Host.Outcome State Fault Refusal :=
  runWord { inCode := true } (amoBody 64 .minu d a b o sc) s

/-- AMO.MAXU, 32 bits (R124). -/
def execAmoMaxuW (d : BitVec 5) (a : BitVec 5) (b : BitVec 5) (o : MOrd) (sc : Scope) (s : State) : Host.Outcome State Fault Refusal :=
  runWord { inCode := true } (amoBody 32 .maxu d a b o sc) s

/-- AMO.MAXU, 64 bits (R124). -/
def execAmoMaxuD (d : BitVec 5) (a : BitVec 5) (b : BitVec 5) (o : MOrd) (sc : Scope) (s : State) : Host.Outcome State Fault Refusal :=
  runWord { inCode := true } (amoBody 64 .maxu d a b o sc) s

/-- AMO.AND, 32 bits (R124). -/
def execAmoAndW (d : BitVec 5) (a : BitVec 5) (b : BitVec 5) (o : MOrd) (sc : Scope) (s : State) : Host.Outcome State Fault Refusal :=
  runWord { inCode := true } (amoBody 32 .and d a b o sc) s

/-- AMO.AND, 64 bits (R124). -/
def execAmoAndD (d : BitVec 5) (a : BitVec 5) (b : BitVec 5) (o : MOrd) (sc : Scope) (s : State) : Host.Outcome State Fault Refusal :=
  runWord { inCode := true } (amoBody 64 .and d a b o sc) s

/-- AMO.OR, 32 bits (R124). -/
def execAmoOrW (d : BitVec 5) (a : BitVec 5) (b : BitVec 5) (o : MOrd) (sc : Scope) (s : State) : Host.Outcome State Fault Refusal :=
  runWord { inCode := true } (amoBody 32 .or d a b o sc) s

/-- AMO.OR, 64 bits (R124). -/
def execAmoOrD (d : BitVec 5) (a : BitVec 5) (b : BitVec 5) (o : MOrd) (sc : Scope) (s : State) : Host.Outcome State Fault Refusal :=
  runWord { inCode := true } (amoBody 64 .or d a b o sc) s

/-- AMO.XOR, 32 bits (R124). -/
def execAmoXorW (d : BitVec 5) (a : BitVec 5) (b : BitVec 5) (o : MOrd) (sc : Scope) (s : State) : Host.Outcome State Fault Refusal :=
  runWord { inCode := true } (amoBody 32 .xor d a b o sc) s

/-- AMO.XOR, 64 bits (R124). -/
def execAmoXorD (d : BitVec 5) (a : BitVec 5) (b : BitVec 5) (o : MOrd) (sc : Scope) (s : State) : Host.Outcome State Fault Refusal :=
  runWord { inCode := true } (amoBody 64 .xor d a b o sc) s

/-- AMO.SWAP, 32 bits (R124). -/
def execAmoSwapW (d : BitVec 5) (a : BitVec 5) (b : BitVec 5) (o : MOrd) (sc : Scope) (s : State) : Host.Outcome State Fault Refusal :=
  runWord { inCode := true } (amoBody 32 .swap d a b o sc) s

/-- AMO.SWAP, 64 bits (R124). -/
def execAmoSwapD (d : BitVec 5) (a : BitVec 5) (b : BitVec 5) (o : MOrd) (sc : Scope) (s : State) : Host.Outcome State Fault Refusal :=
  runWord { inCode := true } (amoBody 64 .swap d a b o sc) s

/-- AMO.CAS, 32 bits (R124). -/
def execAmoCasW (d : BitVec 5) (a : BitVec 5) (b : BitVec 5) (o : MOrd) (sc : Scope) (s : State) : Host.Outcome State Fault Refusal :=
  runWord { inCode := true } (amoBody 32 .cas d a b o sc) s

/-- AMO.CAS, 64 bits (R124). -/
def execAmoCasD (d : BitVec 5) (a : BitVec 5) (b : BitVec 5) (o : MOrd) (sc : Scope) (s : State) : Host.Outcome State Fault Refusal :=
  runWord { inCode := true } (amoBody 64 .cas d a b o sc) s

/-- AMO.FADD.W (R124, R125). -/
def execAmoFaddW (d : BitVec 5) (a : BitVec 5) (b : BitVec 5) (o : MOrd) (sc : Scope) (s : State) : Host.Outcome State Fault Refusal :=
  runWord { inCode := true } (amoBody 32 .fadd d a b o sc) s

/-- AMO.LD, 32 bits (R124). -/
def execAmoLdW (d : BitVec 5) (a : BitVec 5) (b : BitVec 5) (o : MOrd) (sc : Scope) (s : State) : Host.Outcome State Fault Refusal :=
  runWord { inCode := true } (amoBody 32 .ld d a b o sc) s

/-- AMO.LD, 64 bits (R124). -/
def execAmoLdD (d : BitVec 5) (a : BitVec 5) (b : BitVec 5) (o : MOrd) (sc : Scope) (s : State) : Host.Outcome State Fault Refusal :=
  runWord { inCode := true } (amoBody 64 .ld d a b o sc) s

/-- AMO.ST, 32 bits (R124). -/
def execAmoStW (a : BitVec 5) (b : BitVec 5) (o : MOrd) (sc : Scope) (s : State) : Host.Outcome State Fault Refusal :=
  runWord { inCode := true } (amoBody 32 .st 0#5 a b o sc) s

/-- AMO.ST, 64 bits (R124). -/
def execAmoStD (a : BitVec 5) (b : BitVec 5) (o : MOrd) (sc : Scope) (s : State) : Host.Outcome State Fault Refusal :=
  runWord { inCode := true } (amoBody 64 .st 0#5 a b o sc) s

/-- FENCE (R127). -/
def execFence (o : MOrd) (sc : Scope) (s : State) : Host.Outcome State Fault Refusal :=
  runWord { inCode := true } (fenceBody o sc) s

/-- PROMOTE (R128). -/
def execPromote (d : BitVec 5) (a : BitVec 5) (o : MOrd) (sc : Scope) (s : State) : Host.Outcome State Fault Refusal :=
  runWord {} (promoteBody d a o sc) s

/-- WSET (R129). -/
def execWset (d : BitVec 3) (a : BitVec 5) (b : BitVec 5) (s : State) : Host.Outcome State Fault Refusal :=
  runWord {} (wsetBody d a b) s

/-- WCLR (R129). -/
def execWclr (d : BitVec 3) (s : State) : Host.Outcome State Fault Refusal :=
  runWord {} (fun t s => .done (s.putMe (t.setW d ⟨0#64, 0#2⟩))) s

/-- WREF (R129). -/
def execWref (d : BitVec 5) (a : BitVec 3) (s : State) : Host.Outcome State Fault Refusal :=
  runWord {} (aluBody d fun t => (t.w a).ref) s

/-- WRT (R129). -/
def execWrt (d : BitVec 5) (a : BitVec 3) (s : State) : Host.Outcome State Fault Refusal :=
  runWord {} (aluBody d fun t => (t.w a).rights.setWidth 64) s

/-- WQRY (R129). -/
def execWqry (d : BitVec 5) (a : BitVec 5) (s : State) : Host.Outcome State Fault Refusal :=
  runWord {} (wqryBody d a) s

end Sys2Proof.Machine
end

