-- ==== Sys2Proof/Machine/Scalar.lean ====
section
/-!
DEFINITION. Integer, path and control instructions (spec/05_ref_scalar.md): majors 0x01 to 0x0E and 0x20 to 0x28.
-/
namespace Sys2Proof.Machine

/-- ADD (R92). -/
def execAdd (d : BitVec 5) (a : BitVec 5) (b : BitVec 5) (s : State) : Host.Outcome State Fault Refusal :=
  runWord { inCode := true } (aluBody d fun t => t.g a + t.g b) s

/-- SUB (R92). -/
def execSub (d : BitVec 5) (a : BitVec 5) (b : BitVec 5) (s : State) : Host.Outcome State Fault Refusal :=
  runWord { inCode := true } (aluBody d fun t => t.g a - t.g b) s

/-- AND (R92). -/
def execAnd (d : BitVec 5) (a : BitVec 5) (b : BitVec 5) (s : State) : Host.Outcome State Fault Refusal :=
  runWord { inCode := true } (aluBody d fun t => t.g a &&& t.g b) s

/-- OR (R92). -/
def execOr (d : BitVec 5) (a : BitVec 5) (b : BitVec 5) (s : State) : Host.Outcome State Fault Refusal :=
  runWord { inCode := true } (aluBody d fun t => t.g a ||| t.g b) s

/-- XOR (R92). -/
def execXor (d : BitVec 5) (a : BitVec 5) (b : BitVec 5) (s : State) : Host.Outcome State Fault Refusal :=
  runWord { inCode := true } (aluBody d fun t => t.g a ^^^ t.g b) s

/-- SLT: signed comparison (R92). -/
def execSlt (d : BitVec 5) (a : BitVec 5) (b : BitVec 5) (s : State) : Host.Outcome State Fault Refusal :=
  runWord { inCode := true } (aluBody d fun t => bit64 ((t.g a).slt (t.g b))) s

/-- SLTZ: unsigned comparison (R92). -/
def execSltz (d : BitVec 5) (a : BitVec 5) (b : BitVec 5) (s : State) : Host.Outcome State Fault Refusal :=
  runWord { inCode := true } (aluBody d fun t => bit64 ((t.g a).ult (t.g b))) s

/-- SLL: the amount is g[b][5:0] (R92). -/
def execSll (d : BitVec 5) (a : BitVec 5) (b : BitVec 5) (s : State) : Host.Outcome State Fault Refusal :=
  runWord { inCode := true } (aluBody d fun t => t.g a <<< amt6 (t.g b)) s

/-- SRL: the amount is g[b][5:0] (R92). -/
def execSrl (d : BitVec 5) (a : BitVec 5) (b : BitVec 5) (s : State) : Host.Outcome State Fault Refusal :=
  runWord { inCode := true } (aluBody d fun t => t.g a >>> amt6 (t.g b)) s

/-- SRA: the amount is g[b][5:0] (R92). -/
def execSra (d : BitVec 5) (a : BitVec 5) (b : BitVec 5) (s : State) : Host.Outcome State Fault Refusal :=
  runWord { inCode := true } (aluBody d fun t => (t.g a).sshiftRight (amt6 (t.g b))) s

/-- ROL: the amount is g[b][5:0] (R92). -/
def execRol (d : BitVec 5) (a : BitVec 5) (b : BitVec 5) (s : State) : Host.Outcome State Fault Refusal :=
  runWord { inCode := true } (aluBody d fun t => (t.g a).rotateLeft (amt6 (t.g b))) s

/-- ROR: the amount is g[b][5:0] (R92). -/
def execRor (d : BitVec 5) (a : BitVec 5) (b : BitVec 5) (s : State) : Host.Outcome State Fault Refusal :=
  runWord { inCode := true } (aluBody d fun t => (t.g a).rotateRight (amt6 (t.g b))) s

/-- ADD.S32 (R92). -/
def execAddS32 (d : BitVec 5) (a : BitVec 5) (b : BitVec 5) (s : State) : Host.Outcome State Fault Refusal :=
  runWord { inCode := true } (aluBody d fun t => sx32 (lo32 (t.g a) + lo32 (t.g b))) s

/-- ADD.Z32 (R92). -/
def execAddZ32 (d : BitVec 5) (a : BitVec 5) (b : BitVec 5) (s : State) : Host.Outcome State Fault Refusal :=
  runWord { inCode := true } (aluBody d fun t => zx32 (lo32 (t.g a) + lo32 (t.g b))) s

/-- SUB.S32 (R92). -/
def execSubS32 (d : BitVec 5) (a : BitVec 5) (b : BitVec 5) (s : State) : Host.Outcome State Fault Refusal :=
  runWord { inCode := true } (aluBody d fun t => sx32 (lo32 (t.g a) - lo32 (t.g b))) s

/-- SUB.Z32 (R92). -/
def execSubZ32 (d : BitVec 5) (a : BitVec 5) (b : BitVec 5) (s : State) : Host.Outcome State Fault Refusal :=
  runWord { inCode := true } (aluBody d fun t => zx32 (lo32 (t.g a) - lo32 (t.g b))) s

/-- SLL.S32 (R92). -/
def execSllS32 (d : BitVec 5) (a : BitVec 5) (b : BitVec 5) (s : State) : Host.Outcome State Fault Refusal :=
  runWord { inCode := true } (aluBody d fun t => sx32 (lo32 (t.g a) <<< amt5 (t.g b))) s

/-- SLL.Z32 (R92). -/
def execSllZ32 (d : BitVec 5) (a : BitVec 5) (b : BitVec 5) (s : State) : Host.Outcome State Fault Refusal :=
  runWord { inCode := true } (aluBody d fun t => zx32 (lo32 (t.g a) <<< amt5 (t.g b))) s

/-- SRL.S32 (R92). -/
def execSrlS32 (d : BitVec 5) (a : BitVec 5) (b : BitVec 5) (s : State) : Host.Outcome State Fault Refusal :=
  runWord { inCode := true } (aluBody d fun t => sx32 (lo32 (t.g a) >>> amt5 (t.g b))) s

/-- SRL.Z32 (R92). -/
def execSrlZ32 (d : BitVec 5) (a : BitVec 5) (b : BitVec 5) (s : State) : Host.Outcome State Fault Refusal :=
  runWord { inCode := true } (aluBody d fun t => zx32 (lo32 (t.g a) >>> amt5 (t.g b))) s

/-- SRA.S32 (R92). -/
def execSraS32 (d : BitVec 5) (a : BitVec 5) (b : BitVec 5) (s : State) : Host.Outcome State Fault Refusal :=
  runWord { inCode := true } (aluBody d fun t => sx32 ((lo32 (t.g a)).sshiftRight (amt5 (t.g b)))) s

/-- SRA.Z32 (R92). -/
def execSraZ32 (d : BitVec 5) (a : BitVec 5) (b : BitVec 5) (s : State) : Host.Outcome State Fault Refusal :=
  runWord { inCode := true } (aluBody d fun t => zx32 ((lo32 (t.g a)).sshiftRight (amt5 (t.g b)))) s

/-- ROL.S32 (R92). -/
def execRolS32 (d : BitVec 5) (a : BitVec 5) (b : BitVec 5) (s : State) : Host.Outcome State Fault Refusal :=
  runWord { inCode := true } (aluBody d fun t => sx32 ((lo32 (t.g a)).rotateLeft (amt5 (t.g b)))) s

/-- ROL.Z32 (R92). -/
def execRolZ32 (d : BitVec 5) (a : BitVec 5) (b : BitVec 5) (s : State) : Host.Outcome State Fault Refusal :=
  runWord { inCode := true } (aluBody d fun t => zx32 ((lo32 (t.g a)).rotateLeft (amt5 (t.g b)))) s

/-- ROR.S32 (R92). -/
def execRorS32 (d : BitVec 5) (a : BitVec 5) (b : BitVec 5) (s : State) : Host.Outcome State Fault Refusal :=
  runWord { inCode := true } (aluBody d fun t => sx32 ((lo32 (t.g a)).rotateRight (amt5 (t.g b)))) s

/-- ROR.Z32 (R92). -/
def execRorZ32 (d : BitVec 5) (a : BitVec 5) (b : BitVec 5) (s : State) : Host.Outcome State Fault Refusal :=
  runWord { inCode := true } (aluBody d fun t => zx32 ((lo32 (t.g a)).rotateRight (amt5 (t.g b)))) s

/-- ADDI (R93). -/
def execAddi (d : BitVec 5) (a : BitVec 5) (i : BitVec 16) (s : State) : Host.Outcome State Fault Refusal :=
  runWord { inCode := true } (aluBody d fun t => t.g a + i.signExtend 64) s

/-- ANDI (R93). -/
def execAndi (d : BitVec 5) (a : BitVec 5) (i : BitVec 16) (s : State) : Host.Outcome State Fault Refusal :=
  runWord { inCode := true } (aluBody d fun t => t.g a &&& i.setWidth 64) s

/-- ORI (R93). -/
def execOri (d : BitVec 5) (a : BitVec 5) (i : BitVec 16) (s : State) : Host.Outcome State Fault Refusal :=
  runWord { inCode := true } (aluBody d fun t => t.g a ||| i.setWidth 64) s

/-- XORI (R93). -/
def execXori (d : BitVec 5) (a : BitVec 5) (i : BitVec 16) (s : State) : Host.Outcome State Fault Refusal :=
  runWord { inCode := true } (aluBody d fun t => t.g a ^^^ i.setWidth 64) s

/-- SLTI (R93). -/
def execSlti (d : BitVec 5) (a : BitVec 5) (i : BitVec 16) (s : State) : Host.Outcome State Fault Refusal :=
  runWord { inCode := true } (aluBody d fun t => bit64 ((t.g a).slt (i.signExtend 64))) s

/-- SLTIZ (R93). -/
def execSltiz (d : BitVec 5) (a : BitVec 5) (i : BitVec 16) (s : State) : Host.Outcome State Fault Refusal :=
  runWord { inCode := true } (aluBody d fun t => bit64 ((t.g a).ult (i.signExtend 64))) s

/-- SLLI (R94). -/
def execSlli (d : BitVec 5) (a : BitVec 5) (h : BitVec 6) (s : State) : Host.Outcome State Fault Refusal :=
  runWord { inCode := true } (aluBody d fun t => t.g a <<< h.toNat) s

/-- SRLI (R94). -/
def execSrli (d : BitVec 5) (a : BitVec 5) (h : BitVec 6) (s : State) : Host.Outcome State Fault Refusal :=
  runWord { inCode := true } (aluBody d fun t => t.g a >>> h.toNat) s

/-- SRAI (R94). -/
def execSrai (d : BitVec 5) (a : BitVec 5) (h : BitVec 6) (s : State) : Host.Outcome State Fault Refusal :=
  runWord { inCode := true } (aluBody d fun t => (t.g a).sshiftRight h.toNat) s

/-- RORI (R94). -/
def execRori (d : BitVec 5) (a : BitVec 5) (h : BitVec 6) (s : State) : Host.Outcome State Fault Refusal :=
  runWord { inCode := true } (aluBody d fun t => (t.g a).rotateRight h.toNat) s

/-- SLLI.S32 (R94). -/
def execSlliS32 (d : BitVec 5) (a : BitVec 5) (h : BitVec 5) (s : State) : Host.Outcome State Fault Refusal :=
  runWord { inCode := true } (aluBody d fun t => sx32 (lo32 (t.g a) <<< h.toNat)) s

/-- SLLI.Z32 (R94). -/
def execSlliZ32 (d : BitVec 5) (a : BitVec 5) (h : BitVec 5) (s : State) : Host.Outcome State Fault Refusal :=
  runWord { inCode := true } (aluBody d fun t => zx32 (lo32 (t.g a) <<< h.toNat)) s

/-- SRLI.S32 (R94). -/
def execSrliS32 (d : BitVec 5) (a : BitVec 5) (h : BitVec 5) (s : State) : Host.Outcome State Fault Refusal :=
  runWord { inCode := true } (aluBody d fun t => sx32 (lo32 (t.g a) >>> h.toNat)) s

/-- SRLI.Z32 (R94). -/
def execSrliZ32 (d : BitVec 5) (a : BitVec 5) (h : BitVec 5) (s : State) : Host.Outcome State Fault Refusal :=
  runWord { inCode := true } (aluBody d fun t => zx32 (lo32 (t.g a) >>> h.toNat)) s

/-- SRAI.S32 (R94). -/
def execSraiS32 (d : BitVec 5) (a : BitVec 5) (h : BitVec 5) (s : State) : Host.Outcome State Fault Refusal :=
  runWord { inCode := true } (aluBody d fun t => sx32 ((lo32 (t.g a)).sshiftRight h.toNat)) s

/-- SRAI.Z32 (R94). -/
def execSraiZ32 (d : BitVec 5) (a : BitVec 5) (h : BitVec 5) (s : State) : Host.Outcome State Fault Refusal :=
  runWord { inCode := true } (aluBody d fun t => zx32 ((lo32 (t.g a)).sshiftRight h.toNat)) s

/-- RORI.S32 (R94). -/
def execRoriS32 (d : BitVec 5) (a : BitVec 5) (h : BitVec 5) (s : State) : Host.Outcome State Fault Refusal :=
  runWord { inCode := true } (aluBody d fun t => sx32 ((lo32 (t.g a)).rotateRight h.toNat)) s

/-- RORI.Z32 (R94). -/
def execRoriZ32 (d : BitVec 5) (a : BitVec 5) (h : BitVec 5) (s : State) : Host.Outcome State Fault Refusal :=
  runWord { inCode := true } (aluBody d fun t => zx32 ((lo32 (t.g a)).rotateRight h.toNat)) s

/-- LIH (R95). -/
def execLih (d : BitVec 5) (a : BitVec 5) (i : BitVec 16) (s : State) : Host.Outcome State Fault Refusal :=
  runWord { inCode := true } (aluBody d fun t => (t.g a <<< 16) ||| i.setWidth 64) s

/-- PCREL: traps 0x05 outside the address space (R96). -/
def execPcrel (d : BitVec 5) (i : BitVec 16) (s : State) : Host.Outcome State Fault Refusal :=
  runWord {} (pcrelBody d i) s

/-- MUL (R97, R98). -/
def execMul (d : BitVec 5) (a : BitVec 5) (b : BitVec 5) (s : State) : Host.Outcome State Fault Refusal :=
  runWord { inCode := true } (aluBody d fun t => t.g a * t.g b) s

/-- MULHI.S64 (R97, R98). -/
def execMulhiS64 (d : BitVec 5) (a : BitVec 5) (b : BitVec 5) (s : State) : Host.Outcome State Fault Refusal :=
  runWord { inCode := true } (aluBody d fun t => high64 ((t.g a).toInt * (t.g b).toInt)) s

/-- MULHI.Z64 (R97, R98). -/
def execMulhiZ64 (d : BitVec 5) (a : BitVec 5) (b : BitVec 5) (s : State) : Host.Outcome State Fault Refusal :=
  runWord { inCode := true } (aluBody d fun t => high64 ((t.g a).toNat * (t.g b).toNat)) s

/-- MULHM (R97, R98). -/
def execMulhm (d : BitVec 5) (a : BitVec 5) (b : BitVec 5) (s : State) : Host.Outcome State Fault Refusal :=
  runWord { inCode := true } (aluBody d fun t => high64 ((t.g a).toInt * (t.g b).toNat)) s

/-- QUO.S64 (R97, R98). -/
def execQuoS64 (d : BitVec 5) (a : BitVec 5) (b : BitVec 5) (s : State) : Host.Outcome State Fault Refusal :=
  runWord { inCode := true } (aluBody d fun t => quoS (t.g a) (t.g b)) s

/-- QUO.Z64 (R97, R98). -/
def execQuoZ64 (d : BitVec 5) (a : BitVec 5) (b : BitVec 5) (s : State) : Host.Outcome State Fault Refusal :=
  runWord { inCode := true } (aluBody d fun t => quoZ (t.g a) (t.g b)) s

/-- RMD.S64 (R97, R98). -/
def execRmdS64 (d : BitVec 5) (a : BitVec 5) (b : BitVec 5) (s : State) : Host.Outcome State Fault Refusal :=
  runWord { inCode := true } (aluBody d fun t => rmdS (t.g a) (t.g b)) s

/-- RMD.Z64 (R97, R98). -/
def execRmdZ64 (d : BitVec 5) (a : BitVec 5) (b : BitVec 5) (s : State) : Host.Outcome State Fault Refusal :=
  runWord { inCode := true } (aluBody d fun t => rmdZ (t.g a) (t.g b)) s

/-- MUL.S32 (R97, R98). -/
def execMulS32 (d : BitVec 5) (a : BitVec 5) (b : BitVec 5) (s : State) : Host.Outcome State Fault Refusal :=
  runWord { inCode := true } (aluBody d fun t => sx32 (lo32 (t.g a) * lo32 (t.g b))) s

/-- MUL.Z32 (R97, R98). -/
def execMulZ32 (d : BitVec 5) (a : BitVec 5) (b : BitVec 5) (s : State) : Host.Outcome State Fault Refusal :=
  runWord { inCode := true } (aluBody d fun t => zx32 (lo32 (t.g a) * lo32 (t.g b))) s

/-- QUO.S32 (R97, R98). -/
def execQuoS32 (d : BitVec 5) (a : BitVec 5) (b : BitVec 5) (s : State) : Host.Outcome State Fault Refusal :=
  runWord { inCode := true } (aluBody d fun t => sx32 (quoS (lo32 (t.g a)) (lo32 (t.g b)))) s

/-- QUO.Z32 (R97, R98). -/
def execQuoZ32 (d : BitVec 5) (a : BitVec 5) (b : BitVec 5) (s : State) : Host.Outcome State Fault Refusal :=
  runWord { inCode := true } (aluBody d fun t => zx32 (quoZ (lo32 (t.g a)) (lo32 (t.g b)))) s

/-- RMD.S32 (R97, R98). -/
def execRmdS32 (d : BitVec 5) (a : BitVec 5) (b : BitVec 5) (s : State) : Host.Outcome State Fault Refusal :=
  runWord { inCode := true } (aluBody d fun t => sx32 (rmdS (lo32 (t.g a)) (lo32 (t.g b)))) s

/-- RMD.Z32 (R97, R98). -/
def execRmdZ32 (d : BitVec 5) (a : BitVec 5) (b : BitVec 5) (s : State) : Host.Outcome State Fault Refusal :=
  runWord { inCode := true } (aluBody d fun t => zx32 (rmdZ (lo32 (t.g a)) (lo32 (t.g b)))) s

/-- MAD: g[d] is the old value (R6) (R97, R98). -/
def execMad (d : BitVec 5) (a : BitVec 5) (b : BitVec 5) (s : State) : Host.Outcome State Fault Refusal :=
  runWord { inCode := true } (aluBody d fun t => t.g d + t.g a * t.g b) s

/-- MSB: g[d] is the old value (R6) (R97, R98). -/
def execMsb (d : BitVec 5) (a : BitVec 5) (b : BitVec 5) (s : State) : Host.Outcome State Fault Refusal :=
  runWord { inCode := true } (aluBody d fun t => t.g d - t.g a * t.g b) s

/-- LZC (R99). -/
def execLzc (d : BitVec 5) (a : BitVec 5) (s : State) : Host.Outcome State Fault Refusal :=
  runWord { inCode := true } (aluBody d fun t => BitVec.ofNat 64 (leadingZeros (t.g a))) s

/-- TZC (R99). -/
def execTzc (d : BitVec 5) (a : BitVec 5) (s : State) : Host.Outcome State Fault Refusal :=
  runWord { inCode := true } (aluBody d fun t => BitVec.ofNat 64 (trailingZeros (t.g a))) s

/-- ONES (R99). -/
def execOnes (d : BitVec 5) (a : BitVec 5) (s : State) : Host.Outcome State Fault Refusal :=
  runWord { inCode := true } (aluBody d fun t => BitVec.ofNat 64 (onesCount (t.g a))) s

/-- BSWAP (R99). -/
def execBswap (d : BitVec 5) (a : BitVec 5) (s : State) : Host.Outcome State Fault Refusal :=
  runWord { inCode := true } (aluBody d fun t => byteSwap (t.g a)) s

/-- BITREV (R99). -/
def execBitrev (d : BitVec 5) (a : BitVec 5) (s : State) : Host.Outcome State Fault Refusal :=
  runWord { inCode := true } (aluBody d fun t => (t.g a).reverse) s

/-- MINS64 (R99). -/
def execMinS64 (d : BitVec 5) (a : BitVec 5) (b : BitVec 5) (s : State) : Host.Outcome State Fault Refusal :=
  runWord { inCode := true } (aluBody d fun t => if (t.g a).sle (t.g b) then t.g a else t.g b) s

/-- MAXS64 (R99). -/
def execMaxS64 (d : BitVec 5) (a : BitVec 5) (b : BitVec 5) (s : State) : Host.Outcome State Fault Refusal :=
  runWord { inCode := true } (aluBody d fun t => if (t.g b).sle (t.g a) then t.g a else t.g b) s

/-- MINZ64 (R99). -/
def execMinZ64 (d : BitVec 5) (a : BitVec 5) (b : BitVec 5) (s : State) : Host.Outcome State Fault Refusal :=
  runWord { inCode := true } (aluBody d fun t => if (t.g a).ule (t.g b) then t.g a else t.g b) s

/-- MAXZ64 (R99). -/
def execMaxZ64 (d : BitVec 5) (a : BitVec 5) (b : BitVec 5) (s : State) : Host.Outcome State Fault Refusal :=
  runWord { inCode := true } (aluBody d fun t => if (t.g b).ule (t.g a) then t.g a else t.g b) s

/-- ANDNOT (R99). -/
def execAndnot (d : BitVec 5) (a : BitVec 5) (b : BitVec 5) (s : State) : Host.Outcome State Fault Refusal :=
  runWord { inCode := true } (aluBody d fun t => t.g a &&& ~~~(t.g b)) s

/-- ORNOT (R99). -/
def execOrnot (d : BitVec 5) (a : BitVec 5) (b : BitVec 5) (s : State) : Host.Outcome State Fault Refusal :=
  runWord { inCode := true } (aluBody d fun t => t.g a ||| ~~~(t.g b)) s

/-- XNOR (R99). -/
def execXnor (d : BitVec 5) (a : BitVec 5) (b : BitVec 5) (s : State) : Host.Outcome State Fault Refusal :=
  runWord { inCode := true } (aluBody d fun t => ~~~(t.g a ^^^ t.g b)) s

/-- SEL (R99). -/
def execSel (d : BitVec 5) (a : BitVec 5) (b : BitVec 5) (c : BitVec 5) (s : State) : Host.Outcome State Fault Refusal :=
  runWord { inCode := true } (aluBody d fun t => if t.g c ≠ 0#64 then t.g a else t.g b) s

/-- EXTS8 (R99). -/
def execExtS8 (d : BitVec 5) (a : BitVec 5) (s : State) : Host.Outcome State Fault Refusal :=
  runWord { inCode := true } (aluBody d fun t => ((t.g a).setWidth 8).signExtend 64) s

/-- EXTS16 (R99). -/
def execExtS16 (d : BitVec 5) (a : BitVec 5) (s : State) : Host.Outcome State Fault Refusal :=
  runWord { inCode := true } (aluBody d fun t => ((t.g a).setWidth 16).signExtend 64) s

/-- EXTS32 (R99). -/
def execExtS32 (d : BitVec 5) (a : BitVec 5) (s : State) : Host.Outcome State Fault Refusal :=
  runWord { inCode := true } (aluBody d fun t => ((t.g a).setWidth 32).signExtend 64) s

/-- EXTZ32 (R99). -/
def execExtZ32 (d : BitVec 5) (a : BitVec 5) (s : State) : Host.Outcome State Fault Refusal :=
  runWord { inCode := true } (aluBody d fun t => ((t.g a).setWidth 32).setWidth 64) s

/-- EXTZ8 (R99). -/
def execExtZ8 (d : BitVec 5) (a : BitVec 5) (s : State) : Host.Outcome State Fault Refusal :=
  runWord { inCode := true } (aluBody d fun t => ((t.g a).setWidth 8).setWidth 64) s

/-- EXTZ16 (R99). -/
def execExtZ16 (d : BitVec 5) (a : BitVec 5) (s : State) : Host.Outcome State Fault Refusal :=
  runWord { inCode := true } (aluBody d fun t => ((t.g a).setWidth 16).setWidth 64) s

/-- PTRUNC (R100 to R102). -/
def execPtrunc (d : BitVec 5) (a : BitVec 5) (b : BitVec 5) (s : State) : Host.Outcome State Fault Refusal :=
  runWord { inCode := true } (pathBody d fun t => ptrunc (t.g a) (t.g b)) s

/-- PPARENT (R100 to R102). -/
def execPparent (d : BitVec 5) (a : BitVec 5) (s : State) : Host.Outcome State Fault Refusal :=
  runWord { inCode := true } (pathBody d fun t => pparent (t.g a)) s

/-- PCHILD (R100 to R102). -/
def execPchild (d : BitVec 5) (a : BitVec 5) (b : BitVec 5) (s : State) : Host.Outcome State Fault Refusal :=
  runWord { inCode := true } (pathBody d fun t => pchild (t.g a) (t.g b)) s

/-- PSIB (R100 to R102). -/
def execPsib (d : BitVec 5) (a : BitVec 5) (b : BitVec 5) (s : State) : Host.Outcome State Fault Refusal :=
  runWord { inCode := true } (pathBody d fun t => psib (t.g a) (t.g b)) s

/-- PNEXT (R100 to R102). -/
def execPnext (d : BitVec 5) (a : BitVec 5) (s : State) : Host.Outcome State Fault Refusal :=
  runWord { inCode := true } (pathBody d fun t => pnext (t.g a)) s

/-- PDIG (R100 to R102). -/
def execPdig (d : BitVec 5) (a : BitVec 5) (b : BitVec 5) (s : State) : Host.Outcome State Fault Refusal :=
  runWord { inCode := true } (pathBody d fun t => pdig (t.g a) (t.g b)) s

/-- PSDIG (R100 to R102). -/
def execPsdig (d : BitVec 5) (a : BitVec 5) (b : BitVec 5) (s : State) : Host.Outcome State Fault Refusal :=
  runWord { inCode := true } (pathBody d fun t => psdig (t.g a) (t.g b)) s

/-- PIN (R100 to R102). -/
def execPin (d : BitVec 5) (a : BitVec 5) (b : BitVec 5) (s : State) : Host.Outcome State Fault Refusal :=
  runWord { inCode := true } (pathBody d fun t => pin (t.g a) (t.g b)) s

/-- PMAKE (R100 to R102). -/
def execPmake (d : BitVec 5) (a : BitVec 5) (b : BitVec 5) (s : State) : Host.Outcome State Fault Refusal :=
  runWord { inCode := true } (pathBody d fun t => pmake (t.g a) (t.g b)) s

/-- PLEVEL (R101). -/
def execPlevel (d : BitVec 5) (a : BitVec 5) (s : State) : Host.Outcome State Fault Refusal :=
  runWord { inCode := true } (aluBody d fun t => field64 (bitsNat (t.g a) 63 58) 0) s

/-- PESZ (R101). -/
def execPesz (d : BitVec 5) (a : BitVec 5) (s : State) : Host.Outcome State Fault Refusal :=
  runWord { inCode := true } (aluBody d fun t => field64 (bitsNat (t.g a) 57 56) 0) s

/-- PBASE (R101). -/
def execPbase (d : BitVec 5) (a : BitVec 5) (s : State) : Host.Outcome State Fault Refusal :=
  runWord { inCode := true } (aluBody d fun t => field64 (refAddr (t.g a)) 0) s

/-- PPACK (R101). -/
def execPpack (d : BitVec 5) (a : BitVec 5) (b : BitVec 5) (s : State) : Host.Outcome State Fault Refusal :=
  runWord { inCode := true } (aluBody d fun t => BitVec.ofNat 64 (morton (bitsNat (t.g a) 27 0) (bitsNat (t.g b) 27 0))) s

/-- PROW (R101). -/
def execProw (d : BitVec 5) (a : BitVec 5) (s : State) : Host.Outcome State Fault Refusal :=
  runWord { inCode := true } (aluBody d fun t => BitVec.ofNat 64 (mortonRow (refAddr (t.g a)))) s

/-- PCOL (R101). -/
def execPcol (d : BitVec 5) (a : BitVec 5) (s : State) : Host.Outcome State Fault Refusal :=
  runWord { inCode := true } (aluBody d fun t => BitVec.ofNat 64 (mortonCol (refAddr (t.g a)))) s

/-- BEQ (R104). -/
def execBeq (a : BitVec 5) (b : BitVec 5) (i : BitVec 16) (s : State) : Host.Outcome State Fault Refusal :=
  runWord {} (branchBody i fun t => decide (t.g a = t.g b)) s

/-- BNE (R104). -/
def execBne (a : BitVec 5) (b : BitVec 5) (i : BitVec 16) (s : State) : Host.Outcome State Fault Refusal :=
  runWord {} (branchBody i fun t => decide (t.g a ≠ t.g b)) s

/-- BLT (R104). -/
def execBlt (a : BitVec 5) (b : BitVec 5) (i : BitVec 16) (s : State) : Host.Outcome State Fault Refusal :=
  runWord {} (branchBody i fun t => (t.g a).slt (t.g b)) s

/-- BGE (R104). -/
def execBge (a : BitVec 5) (b : BitVec 5) (i : BitVec 16) (s : State) : Host.Outcome State Fault Refusal :=
  runWord {} (branchBody i fun t => (t.g b).sle (t.g a)) s

/-- BLTU (R104). -/
def execBltu (a : BitVec 5) (b : BitVec 5) (i : BitVec 16) (s : State) : Host.Outcome State Fault Refusal :=
  runWord {} (branchBody i fun t => (t.g a).ult (t.g b)) s

/-- BGEU (R104). -/
def execBgeu (a : BitVec 5) (b : BitVec 5) (i : BitVec 16) (s : State) : Host.Outcome State Fault Refusal :=
  runWord {} (branchBody i fun t => (t.g b).ule (t.g a)) s

/-- JAL (R105). -/
def execJal (d : BitVec 5) (i : BitVec 21) (s : State) : Host.Outcome State Fault Refusal :=
  runWord {} (jalBody d i) s

/-- JALR: the checks in order, then the return address (R106). -/
def execJalr (d : BitVec 5) (a : BitVec 5) (i : BitVec 16) (s : State) : Host.Outcome State Fault Refusal :=
  runWord {} (jalrBody d a i) s

/-- SLEEPUNTIL: parks until CYC reaches g[a] (R46, R107). -/
def execSleepuntil (a : BitVec 5) (s : State) : Host.Outcome State Fault Refusal :=
  runWord {} (sleepBody a) s

/-- YIELD: the core passes over the slot while another is ready (R108). -/
def execYield (s : State) : Host.Outcome State Fault Refusal :=
  runWord {} yieldBody s

/-- EXIT: ends the activation once nothing of the strand is under way (R109). -/
def execExit (s : State) : Host.Outcome State Fault Refusal :=
  runWord { inCode := true } exitBody s

/-- HRET: as EXIT, in a handler only (R182). -/
def execHret (s : State) : Host.Outcome State Fault Refusal :=
  runWord { inCode := true } hretBody s

end Sys2Proof.Machine
end

