-- ==== Sys2Proof/Machine/TarnInstr.lean ====
section
/-!
DEFINITION. Tarn and matrix instructions (spec/08_ref_tarn_matrix.md): majors 0x38 and 0x39, and the steps that complete them.
-/
namespace Sys2Proof.Machine

/-- TDECL (R154). -/
def execTdecl (a : BitVec 5) (b : BitVec 5) (d : BitVec 5) (s : State) : Host.Outcome State Fault Refusal :=
  runWord {} (tdeclBody a b d) s

/-- TLD (R155). -/
def execTld (a : BitVec 5) (b : BitVec 5) (s : State) : Host.Outcome State Fault Refusal :=
  runWord {} (tldBody false a b) s

/-- TLD.S (R155). -/
def execTldS (a : BitVec 5) (b : BitVec 5) (s : State) : Host.Outcome State Fault Refusal :=
  runWord {} (tldBody true a b) s

/-- TFILL (R155). -/
def execTfill (a : BitVec 5) (b : BitVec 5) (v : BitVec 5) (s : State) : Host.Outcome State Fault Refusal :=
  runWord {} (tfillBody a b v) s

/-- TSEAL (R156). -/
def execTseal (a : BitVec 5) (s : State) : Host.Outcome State Fault Refusal :=
  runWord {} (tsealBody a) s

/-- TGET (R157). -/
def execTget (a : BitVec 5) (b : BitVec 5) (v : BitVec 5) (s : State) : Host.Outcome State Fault Refusal :=
  runWord {} (tgetBody a b v) s

/-- TST (R157). -/
def execTst (a : BitVec 5) (b : BitVec 5) (s : State) : Host.Outcome State Fault Refusal :=
  runWord {} (tstBody false a b) s

/-- TST.S (R157). -/
def execTstS (a : BitVec 5) (b : BitVec 5) (s : State) : Host.Outcome State Fault Refusal :=
  runWord {} (tstBody true a b) s

/-- TKILL (R158). -/
def execTkill (a : BitVec 5) (s : State) : Host.Outcome State Fault Refusal :=
  runWord {} (tkillBody a) s

/-- TTAG (R159); in the restricted set of code messages (R153). -/
def execTtag (a : BitVec 5) (d : BitVec 5) (s : State) : Host.Outcome State Fault Refusal :=
  runWord { inCode := true } (ttagBody a d) s

/-- MFMT (R160). -/
def execMfmt (a : BitVec 5) (s : State) : Host.Outcome State Fault Refusal :=
  runWord {} (mfmtBody a) s

/-- MLUT (R161). -/
def execMlutA (a : BitVec 5) (s : State) : Host.Outcome State Fault Refusal :=
  runWord {} (mlutBody false false a) s

/-- MLUT (R161). -/
def execMlutB (a : BitVec 5) (s : State) : Host.Outcome State Fault Refusal :=
  runWord {} (mlutBody true false a) s

/-- MLUT (R161). -/
def execMlutA4 (a : BitVec 5) (s : State) : Host.Outcome State Fault Refusal :=
  runWord {} (mlutBody false true a) s

/-- MLUT (R161). -/
def execMlutB4 (a : BitVec 5) (s : State) : Host.Outcome State Fault Refusal :=
  runWord {} (mlutBody true true a) s

/-- MZERO (R162). -/
def execMzero (a : BitVec 5) (s : State) : Host.Outcome State Fault Refusal :=
  runWord {} (mzeroBody a) s

/-- MMA (R163, R164). -/
def execMma (a : BitVec 5) (s : State) : Host.Outcome State Fault Refusal :=
  runWord {} (mmaBody false a) s

/-- MMA.NC (R163, R164). -/
def execMmaNc (a : BitVec 5) (s : State) : Host.Outcome State Fault Refusal :=
  runWord {} (mmaBody true a) s

/-- MMAX (R166 to R168). -/
def execMmax (a : BitVec 5) (b : BitVec 5) (s : State) : Host.Outcome State Fault Refusal :=
  runWord {} (mmaxBody false a b) s

/-- MMAX.NC (R166 to R168). -/
def execMmaxNc (a : BitVec 5) (b : BitVec 5) (s : State) : Host.Outcome State Fault Refusal :=
  runWord {} (mmaxBody true a b) s

/-- MTRN (R169). -/
def execMtrn (a : BitVec 5) (s : State) : Host.Outcome State Fault Refusal :=
  runWord {} (mtrnBody a) s

/-- MCVT (R170). -/
def execMcvt (a : BitVec 5) (s : State) : Host.Outcome State Fault Refusal :=
  runWord {} (mcvtBody a) s

/-- MATRIX_COMPLETION (R151): the oldest accepted instruction of a strand completes. -/
def execMatrixCompletion (u : Nat) (s : State) : Host.Outcome State Fault Refusal :=
  .next (match s.strand? u with
    | some t => s.completeOp u t
    | none => s)

/-- VECTOR_COMPLETION (R130): the strand's oldest uncompleted vector instruction completes and its flags are ORed. -/
def execVectorCompletion (u : Nat) (s : State) : Host.Outcome State Fault Refusal :=
  .next (match s.strand? u with
    | some t => match t.vflags with
      | f :: r => s.putStrand u (({ t with vflags := r } : Strand).orFlags f)
      | [] => s
    | none => s)

/-- DRAIN_COMPLETE (R55): the last read of a draining name has completed; it becomes free when its turn has come (R56). -/
def execDrainComplete (q n : Nat) (s : State) : Host.Outcome State Fault Refusal :=
  .next (if (s.quad q).drainNext = some n then s.freeName q n else s)

/-- Whether the west neighbour's MMAX is held for energy, so that it has sent no stream on yet (R168, R295). -/
def State.westOwes (s : State) (q : Nat) : Bool :=
  q % 16 ≠ 0 && (s.quad (q - 1)).ops.any fun o => o.owes ≠ 0 && match o.kind with
    | .mmax _ east => east
    | _ => false

/-- A_STREAM_ARRIVAL (R168): the oldest stream on its way to a quad is held in the operand buffer, when that is empty, and the
strand whose MMAX waits in the quad makes its checks again. -/
def execAStreamArrival (q : Nat) (s : State) : Host.Outcome State Fault Refusal :=
  .next (
    let x := s.quad q
    match x.streams with
    | m :: r =>
      if m.arrived || s.westOwes q then s
      else
        (s.putQuad q { x with streams := { m with arrived := true } :: r }).wake fun _ t w => w == .stream && quadOf t.core == q
    | [] => s)

end Sys2Proof.Machine
end

