-- ==== Sys2Proof/Machine/VectorInstr.lean ====
section
/-!
DEFINITION. Vector instructions (spec/07_ref_vector.md): majors 0x30 to 0x34.
-/
namespace Sys2Proof.Machine

/-- VADD (R133 to R135). -/
def execVadd (d : BitVec 5) (a : BitVec 5) (b : BitVec 5) (k : BitVec 3) (t : EType) (s : State) : Host.Outcome State Fault Refusal :=
  runWord {} (binBody d a b k t (laneAdd t)) s

/-- VSUB (R133 to R135). -/
def execVsub (d : BitVec 5) (a : BitVec 5) (b : BitVec 5) (k : BitVec 3) (t : EType) (s : State) : Host.Outcome State Fault Refusal :=
  runWord {} (binBody d a b k t (laneSub t)) s

/-- VMUL (R133 to R135). -/
def execVmul (d : BitVec 5) (a : BitVec 5) (b : BitVec 5) (k : BitVec 3) (t : EType) (s : State) : Host.Outcome State Fault Refusal :=
  runWord {} (binBody d a b k t (laneMul t)) s

/-- VFMA (R135). -/
def execVfma (d : BitVec 5) (a : BitVec 5) (b : BitVec 5) (k : BitVec 3) (t : EType) (s : State) : Host.Outcome State Fault Refusal :=
  runWord {} (fmaBody false d a b k t) s

/-- VFNMA (R135). -/
def execVfnma (d : BitVec 5) (a : BitVec 5) (b : BitVec 5) (k : BitVec 3) (t : EType) (s : State) : Host.Outcome State Fault Refusal :=
  runWord {} (fmaBody true d a b k t) s

/-- VMIN (R135, R137). -/
def execVmin (d : BitVec 5) (a : BitVec 5) (b : BitVec 5) (k : BitVec 3) (t : EType) (s : State) : Host.Outcome State Fault Refusal :=
  runWord {} (binBody d a b k t fun _ => laneMinMax false t) s

/-- VMAX (R135, R137). -/
def execVmax (d : BitVec 5) (a : BitVec 5) (b : BitVec 5) (k : BitVec 3) (t : EType) (s : State) : Host.Outcome State Fault Refusal :=
  runWord {} (binBody d a b k t fun _ => laneMinMax true t) s

/-- VADDS (R135, R137). -/
def execVadds (d : BitVec 5) (a : BitVec 5) (b : BitVec 5) (k : BitVec 3) (t : EType) (s : State) : Host.Outcome State Fault Refusal :=
  runWord {} (binBody d a b k t fun _ => laneSat false t) s

/-- VSUBS (R135, R137). -/
def execVsubs (d : BitVec 5) (a : BitVec 5) (b : BitVec 5) (k : BitVec 3) (t : EType) (s : State) : Host.Outcome State Fault Refusal :=
  runWord {} (binBody d a b k t fun _ => laneSat true t) s

/-- VSL (R135, R137). -/
def execVsl (d : BitVec 5) (a : BitVec 5) (b : BitVec 5) (k : BitVec 3) (t : EType) (s : State) : Host.Outcome State Fault Refusal :=
  runWord {} (binBody d a b k t fun _ => laneSl t) s

/-- VSR (R135, R137). -/
def execVsr (d : BitVec 5) (a : BitVec 5) (b : BitVec 5) (k : BitVec 3) (t : EType) (s : State) : Host.Outcome State Fault Refusal :=
  runWord {} (binBody d a b k t fun _ => laneSr t) s

/-- VAND (R135). -/
def execVand (d : BitVec 5) (a : BitVec 5) (b : BitVec 5) (k : BitVec 3) (t : EType) (s : State) : Host.Outcome State Fault Refusal :=
  runWord {} (binBody d a b k t fun _ x y => (x &&& y, 0#5)) s

/-- VOR (R135). -/
def execVor (d : BitVec 5) (a : BitVec 5) (b : BitVec 5) (k : BitVec 3) (t : EType) (s : State) : Host.Outcome State Fault Refusal :=
  runWord {} (binBody d a b k t fun _ x y => (x ||| y, 0#5)) s

/-- VXOR (R135). -/
def execVxor (d : BitVec 5) (a : BitVec 5) (b : BitVec 5) (k : BitVec 3) (t : EType) (s : State) : Host.Outcome State Fault Refusal :=
  runWord {} (binBody d a b k t fun _ x y => (x ^^^ y, 0#5)) s

/-- VRCPE (R136). -/
def execVrcpe (d : BitVec 5) (a : BitVec 5) (k : BitVec 3) (t : EType) (s : State) : Host.Outcome State Fault Refusal :=
  runWord {} (unBody d a k t (laneRcpe t)) s

/-- VRSQE (R136). -/
def execVrsqe (d : BitVec 5) (a : BitVec 5) (k : BitVec 3) (t : EType) (s : State) : Host.Outcome State Fault Refusal :=
  runWord {} (unBody d a k t (laneRsqe t)) s

/-- VCEQ (R138, R139). -/
def execVceq (d : BitVec 3) (a : BitVec 5) (b : BitVec 5) (k : BitVec 3) (t : EType) (s : State) : Host.Outcome State Fault Refusal :=
  runWord {} (cmpBody .eq d a b k t) s

/-- VCNE (R138, R139). -/
def execVcne (d : BitVec 3) (a : BitVec 5) (b : BitVec 5) (k : BitVec 3) (t : EType) (s : State) : Host.Outcome State Fault Refusal :=
  runWord {} (cmpBody .ne d a b k t) s

/-- VCLT (R138, R139). -/
def execVclt (d : BitVec 3) (a : BitVec 5) (b : BitVec 5) (k : BitVec 3) (t : EType) (s : State) : Host.Outcome State Fault Refusal :=
  runWord {} (cmpBody .lt d a b k t) s

/-- VCLE (R138, R139). -/
def execVcle (d : BitVec 3) (a : BitVec 5) (b : BitVec 5) (k : BitVec 3) (t : EType) (s : State) : Host.Outcome State Fault Refusal :=
  runWord {} (cmpBody .le d a b k t) s

/-- KAND (R138). -/
def execKand (d : BitVec 3) (a : BitVec 3) (b : BitVec 3) (s : State) : Host.Outcome State Fault Refusal :=
  runWord {} (maskBody fun t => t.setK d (t.k a &&& t.k b)) s

/-- KOR (R138). -/
def execKor (d : BitVec 3) (a : BitVec 3) (b : BitVec 3) (s : State) : Host.Outcome State Fault Refusal :=
  runWord {} (maskBody fun t => t.setK d (t.k a ||| t.k b)) s

/-- KXOR (R138). -/
def execKxor (d : BitVec 3) (a : BitVec 3) (b : BitVec 3) (s : State) : Host.Outcome State Fault Refusal :=
  runWord {} (maskBody fun t => t.setK d (t.k a ^^^ t.k b)) s

/-- KANDN (R138). -/
def execKandn (d : BitVec 3) (a : BitVec 3) (b : BitVec 3) (s : State) : Host.Outcome State Fault Refusal :=
  runWord {} (maskBody fun t => t.setK d (t.k a &&& ~~~(t.k b))) s

/-- KNOT (R138). -/
def execKnot (d : BitVec 3) (a : BitVec 3) (s : State) : Host.Outcome State Fault Refusal :=
  runWord {} (maskBody fun t => t.setK d (~~~(t.k a))) s

/-- KSET (R138). -/
def execKset (d : BitVec 3) (a : BitVec 5) (s : State) : Host.Outcome State Fault Refusal :=
  runWord {} (maskBody fun t => t.setK d (t.g a)) s

/-- KGET (R138). -/
def execKget (d : BitVec 5) (a : BitVec 3) (s : State) : Host.Outcome State Fault Refusal :=
  runWord {} (maskBody fun t => t.setG d (t.k a)) s

/-- KPOP (R138). -/
def execKpop (d : BitVec 5) (a : BitVec 3) (s : State) : Host.Outcome State Fault Refusal :=
  runWord {} (maskBody fun t => t.setG d (BitVec.ofNat 64 (onesCount (t.k a)))) s

/-- VLD (R140 to R143). -/
def execVld (d : BitVec 5) (a : BitVec 5) (k : BitVec 3) (t : EType) (s : State) : Host.Outcome State Fault Refusal :=
  runWord {} (vloadBody d k t (unitAddr a t)) s

/-- VLDR (R140 to R143). -/
def execVldr (d : BitVec 5) (a : BitVec 5) (k : BitVec 3) (t : EType) (s : State) : Host.Outcome State Fault Refusal :=
  runWord {} (vloadBody d k t (refAddrs a t)) s

/-- VLDS (R140 to R143). -/
def execVlds (d : BitVec 5) (a : BitVec 5) (b : BitVec 5) (k : BitVec 3) (t : EType) (s : State) : Host.Outcome State Fault Refusal :=
  runWord {} (vloadBody d k t (strideAddr a b)) s

/-- VGATHER (R140 to R143). -/
def execVgather (d : BitVec 5) (a : BitVec 5) (b : BitVec 5) (k : BitVec 3) (t : EType) (s : State) : Host.Outcome State Fault Refusal :=
  runWord {} (vloadBody d k t (indexAddr a b t)) s

/-- VST (R140 to R143). -/
def execVst (d : BitVec 5) (a : BitVec 5) (k : BitVec 3) (t : EType) (s : State) : Host.Outcome State Fault Refusal :=
  runWord {} (vstoreBody true d k t (unitAddr a t)) s

/-- VSTR (R140 to R143). -/
def execVstr (d : BitVec 5) (a : BitVec 5) (k : BitVec 3) (t : EType) (s : State) : Host.Outcome State Fault Refusal :=
  runWord {} (vstoreBody true d k t (refAddrs a t)) s

/-- VSTS (R140 to R143). -/
def execVsts (d : BitVec 5) (a : BitVec 5) (b : BitVec 5) (k : BitVec 3) (t : EType) (s : State) : Host.Outcome State Fault Refusal :=
  runWord {} (vstoreBody false d k t (strideAddr a b)) s

/-- VSCATTER (R140 to R143). -/
def execVscatter (d : BitVec 5) (a : BitVec 5) (b : BitVec 5) (k : BitVec 3) (t : EType) (s : State) : Host.Outcome State Fault Refusal :=
  runWord {} (vstoreBody false d k t (indexAddr a b t)) s

/-- VSEL (R144). -/
def execVsel (d : BitVec 5) (a : BitVec 5) (b : BitVec 5) (k : BitVec 3) (t : EType) (s : State) : Host.Outcome State Fault Refusal :=
  runWord {} (vselBody d a b k t) s

/-- VBCAST (R144). -/
def execVbcast (d : BitVec 5) (a : BitVec 5) (k : BitVec 3) (t : EType) (s : State) : Host.Outcome State Fault Refusal :=
  runWord {} (moveBody d k t fun st _ => (st.g a).toNat) s

/-- VPERM (R144). -/
def execVperm (d : BitVec 5) (a : BitVec 5) (b : BitVec 5) (k : BitVec 3) (t : EType) (s : State) : Host.Outcome State Fault Refusal :=
  runWord {} (moveBody d k t (vpermLane a b t)) s

/-- VSHUF (R144). -/
def execVshuf (d : BitVec 5) (a : BitVec 5) (b : BitVec 5) (k : BitVec 3) (t : EType) (s : State) : Host.Outcome State Fault Refusal :=
  runWord {} (moveBody d k t (vshufLane d a b t)) s

/-- VIOTA (R144). -/
def execViota (d : BitVec 5) (k : BitVec 3) (t : EType) (s : State) : Host.Outcome State Fault Refusal :=
  runWord {} (moveBody d k t fun _ => viotaLane t) s

/-- VEXT (R144). -/
def execVext (d : BitVec 5) (a : BitVec 5) (b : BitVec 5) (t : EType) (s : State) : Host.Outcome State Fault Refusal :=
  runWord {} (vextBody d a b t) s

/-- VINS (R144). -/
def execVins (d : BitVec 5) (a : BitVec 5) (b : BitVec 5) (t : EType) (s : State) : Host.Outcome State Fault Refusal :=
  runWord {} (vinsBody d a b t) s

/-- VCVT (R145). -/
def execVcvt (d : BitVec 5) (a : BitVec 5) (u : EType) (r : BitVec 3) (t : EType) (s : State) : Host.Outcome State Fault Refusal :=
  runWord {} (vcvtBody d a u r t) s

/-- VSLD (R144). -/
def execVsld (d : BitVec 5) (a : BitVec 5) (b : BitVec 5) (k : BitVec 3) (t : EType) (s : State) : Host.Outcome State Fault Refusal :=
  runWord {} (moveBody d k t (vsldLane a b t)) s

/-- VREDSUM (R146). -/
def execVredsum (d : BitVec 5) (a : BitVec 5) (k : BitVec 3) (t : EType) (s : State) : Host.Outcome State Fault Refusal :=
  runWord {} (redBody .sum d a k t) s

/-- VREDMIN (R146). -/
def execVredmin (d : BitVec 5) (a : BitVec 5) (k : BitVec 3) (t : EType) (s : State) : Host.Outcome State Fault Refusal :=
  runWord {} (redBody .min d a k t) s

/-- VREDMAX (R146). -/
def execVredmax (d : BitVec 5) (a : BitVec 5) (k : BitVec 3) (t : EType) (s : State) : Host.Outcome State Fault Refusal :=
  runWord {} (redBody .max d a k t) s

/-- VRAND (R147). -/
def execVrand (d : BitVec 5) (a : BitVec 5) (b : BitVec 5) (k : BitVec 3) (t : EType) (s : State) : Host.Outcome State Fault Refusal :=
  runWord {} (moveBody d k t (vrandLane a b t)) s

/-- VIMM (R75, R76, R148). -/
def execVimm (d : BitVec 5) (t : EType) (i : BitVec 16) (s : State) : Host.Outcome State Fault Refusal :=
  runWord {} (vimmBody d t i) s

/-- VADDI (R75, R76, R148). -/
def execVaddi (d : BitVec 5) (t : EType) (i : BitVec 16) (s : State) : Host.Outcome State Fault Refusal :=
  runWord {} (vaddiBody d t i) s

end Sys2Proof.Machine
end

