-- ==== Sys2Proof/Machine/Dispatch.lean ====
section
/-!
DEFINITION. The dispatch of exec: one arm for each constructor of Instr.
-/
namespace Sys2Proof.Machine

/-- The meaning of each row of the opcode table. -/
def exec (i : Instr) (s : State) : Host.Outcome State Fault Refusal :=
  match i with
  | .add d a b => Sys2Proof.Machine.execAdd d a b s
  | .sub d a b => Sys2Proof.Machine.execSub d a b s
  | .and d a b => Sys2Proof.Machine.execAnd d a b s
  | .or d a b => Sys2Proof.Machine.execOr d a b s
  | .xor d a b => Sys2Proof.Machine.execXor d a b s
  | .slt d a b => Sys2Proof.Machine.execSlt d a b s
  | .sltz d a b => Sys2Proof.Machine.execSltz d a b s
  | .sll d a b => Sys2Proof.Machine.execSll d a b s
  | .srl d a b => Sys2Proof.Machine.execSrl d a b s
  | .sra d a b => Sys2Proof.Machine.execSra d a b s
  | .rol d a b => Sys2Proof.Machine.execRol d a b s
  | .ror d a b => Sys2Proof.Machine.execRor d a b s
  | .addS32 d a b => Sys2Proof.Machine.execAddS32 d a b s
  | .addZ32 d a b => Sys2Proof.Machine.execAddZ32 d a b s
  | .subS32 d a b => Sys2Proof.Machine.execSubS32 d a b s
  | .subZ32 d a b => Sys2Proof.Machine.execSubZ32 d a b s
  | .sllS32 d a b => Sys2Proof.Machine.execSllS32 d a b s
  | .sllZ32 d a b => Sys2Proof.Machine.execSllZ32 d a b s
  | .srlS32 d a b => Sys2Proof.Machine.execSrlS32 d a b s
  | .srlZ32 d a b => Sys2Proof.Machine.execSrlZ32 d a b s
  | .sraS32 d a b => Sys2Proof.Machine.execSraS32 d a b s
  | .sraZ32 d a b => Sys2Proof.Machine.execSraZ32 d a b s
  | .rolS32 d a b => Sys2Proof.Machine.execRolS32 d a b s
  | .rolZ32 d a b => Sys2Proof.Machine.execRolZ32 d a b s
  | .rorS32 d a b => Sys2Proof.Machine.execRorS32 d a b s
  | .rorZ32 d a b => Sys2Proof.Machine.execRorZ32 d a b s
  | .addi d a im => Sys2Proof.Machine.execAddi d a im s
  | .andi d a im => Sys2Proof.Machine.execAndi d a im s
  | .ori d a im => Sys2Proof.Machine.execOri d a im s
  | .xori d a im => Sys2Proof.Machine.execXori d a im s
  | .slti d a im => Sys2Proof.Machine.execSlti d a im s
  | .sltiz d a im => Sys2Proof.Machine.execSltiz d a im s
  | .slli d a sh => Sys2Proof.Machine.execSlli d a sh s
  | .srli d a sh => Sys2Proof.Machine.execSrli d a sh s
  | .srai d a sh => Sys2Proof.Machine.execSrai d a sh s
  | .rori d a sh => Sys2Proof.Machine.execRori d a sh s
  | .slliS32 d a sh => Sys2Proof.Machine.execSlliS32 d a sh s
  | .slliZ32 d a sh => Sys2Proof.Machine.execSlliZ32 d a sh s
  | .srliS32 d a sh => Sys2Proof.Machine.execSrliS32 d a sh s
  | .srliZ32 d a sh => Sys2Proof.Machine.execSrliZ32 d a sh s
  | .sraiS32 d a sh => Sys2Proof.Machine.execSraiS32 d a sh s
  | .sraiZ32 d a sh => Sys2Proof.Machine.execSraiZ32 d a sh s
  | .roriS32 d a sh => Sys2Proof.Machine.execRoriS32 d a sh s
  | .roriZ32 d a sh => Sys2Proof.Machine.execRoriZ32 d a sh s
  | .lih d a im => Sys2Proof.Machine.execLih d a im s
  | .pcrel d im => Sys2Proof.Machine.execPcrel d im s
  | .mul d a b => Sys2Proof.Machine.execMul d a b s
  | .mulhiS64 d a b => Sys2Proof.Machine.execMulhiS64 d a b s
  | .mulhiZ64 d a b => Sys2Proof.Machine.execMulhiZ64 d a b s
  | .mulhm d a b => Sys2Proof.Machine.execMulhm d a b s
  | .quoS64 d a b => Sys2Proof.Machine.execQuoS64 d a b s
  | .quoZ64 d a b => Sys2Proof.Machine.execQuoZ64 d a b s
  | .rmdS64 d a b => Sys2Proof.Machine.execRmdS64 d a b s
  | .rmdZ64 d a b => Sys2Proof.Machine.execRmdZ64 d a b s
  | .mulS32 d a b => Sys2Proof.Machine.execMulS32 d a b s
  | .mulZ32 d a b => Sys2Proof.Machine.execMulZ32 d a b s
  | .quoS32 d a b => Sys2Proof.Machine.execQuoS32 d a b s
  | .quoZ32 d a b => Sys2Proof.Machine.execQuoZ32 d a b s
  | .rmdS32 d a b => Sys2Proof.Machine.execRmdS32 d a b s
  | .rmdZ32 d a b => Sys2Proof.Machine.execRmdZ32 d a b s
  | .mad d a b => Sys2Proof.Machine.execMad d a b s
  | .msb d a b => Sys2Proof.Machine.execMsb d a b s
  | .lzc d a => Sys2Proof.Machine.execLzc d a s
  | .tzc d a => Sys2Proof.Machine.execTzc d a s
  | .ones d a => Sys2Proof.Machine.execOnes d a s
  | .bswap d a => Sys2Proof.Machine.execBswap d a s
  | .bitrev d a => Sys2Proof.Machine.execBitrev d a s
  | .minS64 d a b => Sys2Proof.Machine.execMinS64 d a b s
  | .maxS64 d a b => Sys2Proof.Machine.execMaxS64 d a b s
  | .minZ64 d a b => Sys2Proof.Machine.execMinZ64 d a b s
  | .maxZ64 d a b => Sys2Proof.Machine.execMaxZ64 d a b s
  | .andnot d a b => Sys2Proof.Machine.execAndnot d a b s
  | .ornot d a b => Sys2Proof.Machine.execOrnot d a b s
  | .sel d a b c => Sys2Proof.Machine.execSel d a b c s
  | .extS8 d a => Sys2Proof.Machine.execExtS8 d a s
  | .extS16 d a => Sys2Proof.Machine.execExtS16 d a s
  | .extS32 d a => Sys2Proof.Machine.execExtS32 d a s
  | .extZ32 d a => Sys2Proof.Machine.execExtZ32 d a s
  | .extZ8 d a => Sys2Proof.Machine.execExtZ8 d a s
  | .extZ16 d a => Sys2Proof.Machine.execExtZ16 d a s
  | .xnor d a b => Sys2Proof.Machine.execXnor d a b s
  | .ptrunc d a b => Sys2Proof.Machine.execPtrunc d a b s
  | .pparent d a => Sys2Proof.Machine.execPparent d a s
  | .pchild d a b => Sys2Proof.Machine.execPchild d a b s
  | .psib d a b => Sys2Proof.Machine.execPsib d a b s
  | .pnext d a => Sys2Proof.Machine.execPnext d a s
  | .pdig d a b => Sys2Proof.Machine.execPdig d a b s
  | .psdig d a b => Sys2Proof.Machine.execPsdig d a b s
  | .pin d a b => Sys2Proof.Machine.execPin d a b s
  | .plevel d a => Sys2Proof.Machine.execPlevel d a s
  | .pesz d a => Sys2Proof.Machine.execPesz d a s
  | .pbase d a => Sys2Proof.Machine.execPbase d a s
  | .pmake d a b => Sys2Proof.Machine.execPmake d a b s
  | .ppack d a b => Sys2Proof.Machine.execPpack d a b s
  | .prow d a => Sys2Proof.Machine.execProw d a s
  | .pcol d a => Sys2Proof.Machine.execPcol d a s
  | .ldB d a im => Sys2Proof.Machine.execLdB d a im s
  | .ldH d a im => Sys2Proof.Machine.execLdH d a im s
  | .ldW d a im => Sys2Proof.Machine.execLdW d a im s
  | .ldD d a im => Sys2Proof.Machine.execLdD d a im s
  | .ldBz d a im => Sys2Proof.Machine.execLdBz d a im s
  | .ldHz d a im => Sys2Proof.Machine.execLdHz d a im s
  | .ldWz d a im => Sys2Proof.Machine.execLdWz d a im s
  | .stB b a im => Sys2Proof.Machine.execStB b a im s
  | .stH b a im => Sys2Proof.Machine.execStH b a im s
  | .stW b a im => Sys2Proof.Machine.execStW b a im s
  | .stD b a im => Sys2Proof.Machine.execStD b a im s
  | .bld d a => Sys2Proof.Machine.execBld d a s
  | .bst d a => Sys2Proof.Machine.execBst d a s
  | .bcopy d a => Sys2Proof.Machine.execBcopy d a s
  | .bfill d a => Sys2Proof.Machine.execBfill d a s
  | .bzero d => Sys2Proof.Machine.execBzero d s
  | .bpref d => Sys2Proof.Machine.execBpref d s
  | .bclean d => Sys2Proof.Machine.execBclean d s
  | .bflush d => Sys2Proof.Machine.execBflush d s
  | .amoAddW d a b ord sc => Sys2Proof.Machine.execAmoAddW d a b ord sc s
  | .amoAddD d a b ord sc => Sys2Proof.Machine.execAmoAddD d a b ord sc s
  | .amoMinW d a b ord sc => Sys2Proof.Machine.execAmoMinW d a b ord sc s
  | .amoMinD d a b ord sc => Sys2Proof.Machine.execAmoMinD d a b ord sc s
  | .amoMaxW d a b ord sc => Sys2Proof.Machine.execAmoMaxW d a b ord sc s
  | .amoMaxD d a b ord sc => Sys2Proof.Machine.execAmoMaxD d a b ord sc s
  | .amoMinuW d a b ord sc => Sys2Proof.Machine.execAmoMinuW d a b ord sc s
  | .amoMinuD d a b ord sc => Sys2Proof.Machine.execAmoMinuD d a b ord sc s
  | .amoMaxuW d a b ord sc => Sys2Proof.Machine.execAmoMaxuW d a b ord sc s
  | .amoMaxuD d a b ord sc => Sys2Proof.Machine.execAmoMaxuD d a b ord sc s
  | .amoAndW d a b ord sc => Sys2Proof.Machine.execAmoAndW d a b ord sc s
  | .amoAndD d a b ord sc => Sys2Proof.Machine.execAmoAndD d a b ord sc s
  | .amoOrW d a b ord sc => Sys2Proof.Machine.execAmoOrW d a b ord sc s
  | .amoOrD d a b ord sc => Sys2Proof.Machine.execAmoOrD d a b ord sc s
  | .amoXorW d a b ord sc => Sys2Proof.Machine.execAmoXorW d a b ord sc s
  | .amoXorD d a b ord sc => Sys2Proof.Machine.execAmoXorD d a b ord sc s
  | .amoSwapW d a b ord sc => Sys2Proof.Machine.execAmoSwapW d a b ord sc s
  | .amoSwapD d a b ord sc => Sys2Proof.Machine.execAmoSwapD d a b ord sc s
  | .amoCasW d a b ord sc => Sys2Proof.Machine.execAmoCasW d a b ord sc s
  | .amoCasD d a b ord sc => Sys2Proof.Machine.execAmoCasD d a b ord sc s
  | .amoFaddW d a b ord sc => Sys2Proof.Machine.execAmoFaddW d a b ord sc s
  | .amoLdW d a b ord sc => Sys2Proof.Machine.execAmoLdW d a b ord sc s
  | .amoLdD d a b ord sc => Sys2Proof.Machine.execAmoLdD d a b ord sc s
  | .amoStW a b ord sc => Sys2Proof.Machine.execAmoStW a b ord sc s
  | .amoStD a b ord sc => Sys2Proof.Machine.execAmoStD a b ord sc s
  | .fence ord sc => Sys2Proof.Machine.execFence ord sc s
  | .promote d a ord sc => Sys2Proof.Machine.execPromote d a ord sc s
  | .wset d a b => Sys2Proof.Machine.execWset d a b s
  | .wclr d => Sys2Proof.Machine.execWclr d s
  | .wref d a => Sys2Proof.Machine.execWref d a s
  | .wrt d a => Sys2Proof.Machine.execWrt d a s
  | .wqry d a => Sys2Proof.Machine.execWqry d a s
  | .beq a b im => Sys2Proof.Machine.execBeq a b im s
  | .bne a b im => Sys2Proof.Machine.execBne a b im s
  | .blt a b im => Sys2Proof.Machine.execBlt a b im s
  | .bge a b im => Sys2Proof.Machine.execBge a b im s
  | .bltu a b im => Sys2Proof.Machine.execBltu a b im s
  | .bgeu a b im => Sys2Proof.Machine.execBgeu a b im s
  | .jal d im => Sys2Proof.Machine.execJal d im s
  | .jalr d a im => Sys2Proof.Machine.execJalr d a im s
  | .sleepuntil a => Sys2Proof.Machine.execSleepuntil a s
  | .yield => Sys2Proof.Machine.execYield s
  | .exit => Sys2Proof.Machine.execExit s
  | .vadd d a b k t => Sys2Proof.Machine.execVadd d a b k t s
  | .vsub d a b k t => Sys2Proof.Machine.execVsub d a b k t s
  | .vmul d a b k t => Sys2Proof.Machine.execVmul d a b k t s
  | .vfma d a b k t => Sys2Proof.Machine.execVfma d a b k t s
  | .vfnma d a b k t => Sys2Proof.Machine.execVfnma d a b k t s
  | .vmin d a b k t => Sys2Proof.Machine.execVmin d a b k t s
  | .vmax d a b k t => Sys2Proof.Machine.execVmax d a b k t s
  | .vrcpe d a k t => Sys2Proof.Machine.execVrcpe d a k t s
  | .vrsqe d a k t => Sys2Proof.Machine.execVrsqe d a k t s
  | .vadds d a b k t => Sys2Proof.Machine.execVadds d a b k t s
  | .vsubs d a b k t => Sys2Proof.Machine.execVsubs d a b k t s
  | .vand d a b k t => Sys2Proof.Machine.execVand d a b k t s
  | .vor d a b k t => Sys2Proof.Machine.execVor d a b k t s
  | .vxor d a b k t => Sys2Proof.Machine.execVxor d a b k t s
  | .vsl d a b k t => Sys2Proof.Machine.execVsl d a b k t s
  | .vsr d a b k t => Sys2Proof.Machine.execVsr d a b k t s
  | .vceq d a b k t => Sys2Proof.Machine.execVceq d a b k t s
  | .vcne d a b k t => Sys2Proof.Machine.execVcne d a b k t s
  | .vclt d a b k t => Sys2Proof.Machine.execVclt d a b k t s
  | .vcle d a b k t => Sys2Proof.Machine.execVcle d a b k t s
  | .kand d a b => Sys2Proof.Machine.execKand d a b s
  | .kor d a b => Sys2Proof.Machine.execKor d a b s
  | .kxor d a b => Sys2Proof.Machine.execKxor d a b s
  | .kandn d a b => Sys2Proof.Machine.execKandn d a b s
  | .knot d a => Sys2Proof.Machine.execKnot d a s
  | .kset d a => Sys2Proof.Machine.execKset d a s
  | .kget d a => Sys2Proof.Machine.execKget d a s
  | .kpop d a => Sys2Proof.Machine.execKpop d a s
  | .vld d a k t => Sys2Proof.Machine.execVld d a k t s
  | .vst d a k t => Sys2Proof.Machine.execVst d a k t s
  | .vlds d a b k t => Sys2Proof.Machine.execVlds d a b k t s
  | .vsts d a b k t => Sys2Proof.Machine.execVsts d a b k t s
  | .vgather d a b k t => Sys2Proof.Machine.execVgather d a b k t s
  | .vscatter d a b k t => Sys2Proof.Machine.execVscatter d a b k t s
  | .vldr d a k t => Sys2Proof.Machine.execVldr d a k t s
  | .vstr d a k t => Sys2Proof.Machine.execVstr d a k t s
  | .vsel d a b k t => Sys2Proof.Machine.execVsel d a b k t s
  | .vbcast d a k t => Sys2Proof.Machine.execVbcast d a k t s
  | .vperm d a b k t => Sys2Proof.Machine.execVperm d a b k t s
  | .vshuf d a b k t => Sys2Proof.Machine.execVshuf d a b k t s
  | .viota d k t => Sys2Proof.Machine.execViota d k t s
  | .vext d a b t => Sys2Proof.Machine.execVext d a b t s
  | .vins d a b t => Sys2Proof.Machine.execVins d a b t s
  | .vcvt d a u r t => Sys2Proof.Machine.execVcvt d a u r t s
  | .vsld d a b k t => Sys2Proof.Machine.execVsld d a b k t s
  | .vredsum d a k t => Sys2Proof.Machine.execVredsum d a k t s
  | .vredmin d a k t => Sys2Proof.Machine.execVredmin d a k t s
  | .vredmax d a k t => Sys2Proof.Machine.execVredmax d a k t s
  | .vrand d a b k t => Sys2Proof.Machine.execVrand d a b k t s
  | .vimm d t im => Sys2Proof.Machine.execVimm d t im s
  | .vaddi d t im => Sys2Proof.Machine.execVaddi d t im s
  | .tdecl a b d => Sys2Proof.Machine.execTdecl a b d s
  | .tld a b => Sys2Proof.Machine.execTld a b s
  | .tldS a b => Sys2Proof.Machine.execTldS a b s
  | .tfill a b v => Sys2Proof.Machine.execTfill a b v s
  | .tseal a => Sys2Proof.Machine.execTseal a s
  | .tget a b v => Sys2Proof.Machine.execTget a b v s
  | .tst a b => Sys2Proof.Machine.execTst a b s
  | .tstS a b => Sys2Proof.Machine.execTstS a b s
  | .tkill a => Sys2Proof.Machine.execTkill a s
  | .ttag a d => Sys2Proof.Machine.execTtag a d s
  | .mfmt a => Sys2Proof.Machine.execMfmt a s
  | .mlutA a => Sys2Proof.Machine.execMlutA a s
  | .mlutB a => Sys2Proof.Machine.execMlutB a s
  | .mlutA4 a => Sys2Proof.Machine.execMlutA4 a s
  | .mlutB4 a => Sys2Proof.Machine.execMlutB4 a s
  | .mzero a => Sys2Proof.Machine.execMzero a s
  | .mma a => Sys2Proof.Machine.execMma a s
  | .mmaNc a => Sys2Proof.Machine.execMmaNc a s
  | .mmax a b => Sys2Proof.Machine.execMmax a b s
  | .mmaxNc a b => Sys2Proof.Machine.execMmaxNc a b s
  | .mtrn a => Sys2Proof.Machine.execMtrn a s
  | .mcvt a => Sys2Proof.Machine.execMcvt a s
  | .sendEnt a b => Sys2Proof.Machine.execSendEnt a b s
  | .sendCode a b => Sys2Proof.Machine.execSendCode a b s
  | .sendData a b => Sys2Proof.Machine.execSendData a b s
  | .sendCnt a b => Sys2Proof.Machine.execSendCnt a b s
  | .mw a d => Sys2Proof.Machine.execMw a d s
  | .mrel => Sys2Proof.Machine.execMrel s
  | .hret => Sys2Proof.Machine.execHret s
  | .dqput a => Sys2Proof.Machine.execDqput a s
  | .dqtake b d => Sys2Proof.Machine.execDqtake b d s
  | .launch a b d => Sys2Proof.Machine.execLaunch a b d s
  | .launchGang a b d => Sys2Proof.Machine.execLaunchGang a b d s
  | .trigger => Sys2Proof.Machine.execTrigger s
  | .spawn a b => Sys2Proof.Machine.execSpawn a b s
  | .spawnH a b => Sys2Proof.Machine.execSpawnH a b s
  | .pres h d => Sys2Proof.Machine.execPres h d s
  | .pwait h d => Sys2Proof.Machine.execPwait h d s
  | .padv h => Sys2Proof.Machine.execPadv h s
  | .resample a b d => Sys2Proof.Machine.execResample a b d s
  | .barset a b d => Sys2Proof.Machine.execBarset a b d s
  | .bararr d => Sys2Proof.Machine.execBararr d s
  | .barwait d => Sys2Proof.Machine.execBarwait d s
  | .barleave d => Sys2Proof.Machine.execBarleave d s
  | .barleaveO a b => Sys2Proof.Machine.execBarleaveO a b s
  | .still d => Sys2Proof.Machine.execStill d s
  | .stillTo a d => Sys2Proof.Machine.execStillTo a d s
  | .qcount a d => Sys2Proof.Machine.execQcount a d s
  | .qfix a b => Sys2Proof.Machine.execQfix a b s
  | .cpystart a d => Sys2Proof.Machine.execCpystart a d s
  | .cpywait a d => Sys2Proof.Machine.execCpywait a d s
  | .cpywaitNl a d => Sys2Proof.Machine.execCpywaitNl a d s
  | .cpypoll a d => Sys2Proof.Machine.execCpypoll a d s
  | .cpygwait a d => Sys2Proof.Machine.execCpygwait a d s
  | .cpycancel a => Sys2Proof.Machine.execCpycancel a s
  | .sysr d r => Sys2Proof.Machine.execSysr d r s
  | .sysw a r => Sys2Proof.Machine.execSysw a r s
  | .svc a => Sys2Proof.Machine.execSvc a s
  | .brk n => Sys2Proof.Machine.execBrk n s
  | .eret b => Sys2Proof.Machine.execEret b s
  | .xroot a b => Sys2Proof.Machine.execXroot a b s
  | .xinv a b => Sys2Proof.Machine.execXinv a b s
  | .xprobe a b d => Sys2Proof.Machine.execXprobe a b d s
  | .xback a d => Sys2Proof.Machine.execXback a d s
  | .partset a b => Sys2Proof.Machine.execPartset a b s
  | .skipset a b => Sys2Proof.Machine.execSkipset a b s
  | .wayset a b => Sys2Proof.Machine.execWayset a b s
  | .bregion a b => Sys2Proof.Machine.execBregion a b s
  | .eset a b => Sys2Proof.Machine.execEset a b s
  | .mdrain a => Sys2Proof.Machine.execMdrain a s
  | .mrest a => Sys2Proof.Machine.execMrest a s
  | .vsave a => Sys2Proof.Machine.execVsave a s
  | .vrest a => Sys2Proof.Machine.execVrest a s
  | .translationAnswer u => Sys2Proof.Machine.execTranslationAnswer u s
  | .fillReturn u => Sys2Proof.Machine.execFillReturn u s
  | .storePerformed u => Sys2Proof.Machine.execStorePerformed u s
  | .operationPacket p => Sys2Proof.Machine.execOperationPacket p s
  | .cuckooRecall die => Sys2Proof.Machine.execCuckooRecall die s
  | .directoryRecall die vf line corrupt => Sys2Proof.Machine.execDirectoryRecall die vf line corrupt s
  | .vectorCompletion u => Sys2Proof.Machine.execVectorCompletion u s
  | .matrixCompletion u => Sys2Proof.Machine.execMatrixCompletion u s
  | .drainComplete q n => Sys2Proof.Machine.execDrainComplete q n s
  | .aStreamArrival q => Sys2Proof.Machine.execAStreamArrival q s
  | .copyRun q => Sys2Proof.Machine.execCopyRun q s
  | .copyEnd q => Sys2Proof.Machine.execCopyEnd q s
  | .copyLate q id => Sys2Proof.Machine.execCopyLate q id s
  | .sleepWake u => Sys2Proof.Machine.execSleepWake u s
  | .energyRefill q => Sys2Proof.Machine.execEnergyRefill q s
  | .watchdog u => Sys2Proof.Machine.execWatchdog u s
  | .launchInletEntry vf => Sys2Proof.Machine.execLaunchInletEntry vf s
  | .dependantPush n => Sys2Proof.Machine.execDependantPush n s
  | .heldPush core => Sys2Proof.Machine.execHeldPush core s
  | .split core => Sys2Proof.Machine.execSplit core s
  | .leafStrandStart core => Sys2Proof.Machine.execLeafStrandStart core s
  | .gangGroupPlacement core => Sys2Proof.Machine.execGangGroupPlacement core s
  | .taskStart core => Sys2Proof.Machine.execTaskStart core s
  | .messageArrival p => Sys2Proof.Machine.execMessageArrival p s
  | .entryActivation core => Sys2Proof.Machine.execEntryActivation core s
  | .codeActivation core => Sys2Proof.Machine.execCodeActivation core s
  | .dataLanding p => Sys2Proof.Machine.execDataLanding p s
  | .countMessage p => Sys2Proof.Machine.execCountMessage p s
  | .creditReturn core => Sys2Proof.Machine.execCreditReturn core s
  | .strandRestore core => Sys2Proof.Machine.execStrandRestore core s
  | .displacement core => Sys2Proof.Machine.execDisplacement core s
  | .stealRequest core => Sys2Proof.Machine.execStealRequest core s
  | .stealReply core => Sys2Proof.Machine.execStealReply core s
  | .loadSummaryToken t => Sys2Proof.Machine.execLoadSummaryToken t s
  | .packetHop p => Sys2Proof.Machine.execPacketHop p s
  | .stillWave job => Sys2Proof.Machine.execStillWave job s
  | .waveOutcome job => Sys2Proof.Machine.execWaveOutcome job s
  | .confinedWave job => Sys2Proof.Machine.execConfinedWave job s
  | .barrierArrival p => Sys2Proof.Machine.execBarrierArrival p s
  | .barrierWithdrawal p => Sys2Proof.Machine.execBarrierWithdrawal p s
  | .resampleDecision job launch => Sys2Proof.Machine.execResampleDecision job launch s
  | .cloneReady u => Sys2Proof.Machine.execCloneReady u s
  | .preEmptDelivery u => Sys2Proof.Machine.execPreEmptDelivery u s
  | .queueImage core => Sys2Proof.Machine.execQueueImage core s
  | .preEmptComplete => Sys2Proof.Machine.execPreEmptComplete s
  | .resize vf => Sys2Proof.Machine.execResize vf s
  | .prqreply fn v => Sys2Proof.Machine.execPrqreply fn v s
  | .prqreplyRefuse fn v => Sys2Proof.Machine.execPrqreplyRefuse fn v s
  | .lptinv v => Sys2Proof.Machine.execLptinv v s
  | .jobEntryWrite pf vf j v => Sys2Proof.Machine.execJobEntryWrite pf vf j v s
  | .guarWrite vf v => Sys2Proof.Machine.execGuarWrite vf v s
  | .burstWrite vf v => Sys2Proof.Machine.execBurstWrite vf v s
  | .mmioWrite fn off width v => Sys2Proof.Machine.execMmioWrite fn off width v s
  | .biasFlipToHost v => Sys2Proof.Machine.execBiasFlipToHost v s
  | .biasFlipToDevice v => Sys2Proof.Machine.execBiasFlipToDevice v s
  | .biasFlipComplete => Sys2Proof.Machine.execBiasFlipComplete s
  | .biasstatRead => Sys2Proof.Machine.execBiasstatRead s
  | .hostHdmRead hpa n => Sys2Proof.Machine.execHostHdmRead hpa n s
  | .hostHdmWrite hpa data => Sys2Proof.Machine.execHostHdmWrite hpa data s
  | .snpinv line after => Sys2Proof.Machine.execSnpinv line after s
  | .snpdata line => Sys2Proof.Machine.execSnpdata line s
  | .snpcur line => Sys2Proof.Machine.execSnpcur line s
  | .bisnpResponse line dirty => Sys2Proof.Machine.execBisnpResponse line dirty s
  | .preEmpt => Sys2Proof.Machine.execPreEmpt s
  | .setReductionEntry => Sys2Proof.Machine.execSetReductionEntry s
  | .fenceDie => Sys2Proof.Machine.execFenceDie s
  | .degradeLanes => Sys2Proof.Machine.execDegradeLanes s
  | .retrainComplete link => Sys2Proof.Machine.execRetrainComplete link s
  | .frameCopy => Sys2Proof.Machine.execFrameCopy s
  | .countRebase => Sys2Proof.Machine.execCountRebase s
  | .extendMeasurementSlot => Sys2Proof.Machine.execExtendMeasurementSlot s
  | .readBlackBox => Sys2Proof.Machine.execReadBlackBox s
  | .loadFirmware => Sys2Proof.Machine.execLoadFirmware s
  | .readCounters => Sys2Proof.Machine.execReadCounters s
  | .getVersion fn => Sys2Proof.Machine.execGetVersion fn s
  | .getCapabilities fn => Sys2Proof.Machine.execGetCapabilities fn s
  | .negotiateAlgorithms fn => Sys2Proof.Machine.execNegotiateAlgorithms fn s
  | .getDigests fn => Sys2Proof.Machine.execGetDigests fn s
  | .getCertificate fn => Sys2Proof.Machine.execGetCertificate fn s
  | .challenge fn nonce => Sys2Proof.Machine.execChallenge fn nonce s
  | .getMeasurements fn part => Sys2Proof.Machine.execGetMeasurements fn part s
  | .keyExchange fn body => Sys2Proof.Machine.execKeyExchange fn body s
  | .cxlIdeKm fn key => Sys2Proof.Machine.execCxlIdeKm fn key s
  | .ideCheckFailure => Sys2Proof.Machine.execIdeCheckFailure s
  | .badFlit flit => Sys2Proof.Machine.execBadFlit flit s
  | .linkDown link => Sys2Proof.Machine.execLinkDown link s
  | .requestTimeout u => Sys2Proof.Machine.execRequestTimeout u s
  | .patrolScrub g bad => Sys2Proof.Machine.execPatrolScrub g bad s
  | .fatalError die structure_ => Sys2Proof.Machine.execFatalError die structure_ s
  | .railUndervoltage rail => Sys2Proof.Machine.execRailUndervoltage rail s
  | .thermalTrip die => Sys2Proof.Machine.execThermalTrip die s
  | .coldReset => Sys2Proof.Machine.execColdReset s
  | .packageReset => Sys2Proof.Machine.execPackageReset s
  | .bringUp => Sys2Proof.Machine.execBringUp s
  | .prst v => Sys2Proof.Machine.execPrst v s
  | .bpwrRead => Sys2Proof.Machine.execBpwrRead s
  | .illegalInstruction w => Sys2Proof.Machine.execIllegalInstruction w s
  | .instructionFetchFault => Sys2Proof.Machine.execInstructionFetchFault s
  | .prqidxWrite fn v => Sys2Proof.Machine.execPrqidxWrite fn v s
  | .cxlLinkRetrain => Sys2Proof.Machine.execCxlLinkRetrain s
  | .configurationRequest => Sys2Proof.Machine.execConfigurationRequest s
  | .bankRetentionSleep q bank => Sys2Proof.Machine.execBankRetentionSleep q bank s

end Sys2Proof.Machine
end

