-- ==== Sys2Proof/Machine/Sched.lean ====
section
/-!
DEFINITION. Which steps are enabled (R7, R11): the strands that can issue, the device's own events, the next event of the
outside world.
-/
namespace Sys2Proof.Machine

/-- One enabled step. -/
inductive Cand where
  | issue (u : Nat)
  | serve (r : Request)
  | row (i : Instr)
  | input (i : Instr)
  | outside (o : Outside)

/-- Whether a strand waits for its MCVT to complete (R170). -/
def Strand.converting (t : Strand) (s : State) (u : Nat) : Bool :=
  (s.quad (quadOf t.core)).ops.any fun o => o.uid == u && o.kind == .mcvt

/-- Whether a strand stands at a boundary past which it does not issue (R296, R343, R348, R349): its watchdog is due, a delivery has
begun, or a pre-empt request is to be delivered. -/
def Strand.stopsHere (t : Strand) (s : State) : Bool :=
  !t.midway && t.doom.isNone &&
    (t.watch = 4096 || t.delivery.isSome ||
      (s.box.preempt.isSome && t.mayWait && (s.preemptPos t.core).isSome && t.preempt.isNone && bitAt t.sys.status 3))

/-- Whether a strand's request stands in a dispatch queue, so that it issues nothing further (R150); a trap that awaits it is taken. -/
def Strand.queued (t : Strand) (s : State) (u : Nat) : Bool := (s.quad (quadOf t.core)).queues u && t.doom.isNone

/-- A strand that is ready in the cycle (R11, R90): its next word's operands are there, and nothing holds it at its boundary. -/
def Strand.ready (t : Strand) (s : State) (u : Nat) : Bool :=
  t.standing && t.readyAt ≤ s.cyc && !t.converting s u && !t.stopsHere s && !t.queued s u

/-- The strand that stands in a slot of a core and is ready. -/
def State.readyIn (s : State) (c k : Nat) : Option Nat :=
  (s.strands.find? fun p => p.2.core == c && p.2.slot == some k && p.2.ready s p.1).map (·.1)

/-- Whether the sleep of a strand in a slot of a core has come to its end, and the strand is still to be woken (R107). -/
def State.wakesIn (s : State) (c : Nat) : Bool :=
  s.strands.any fun p => p.2.core == c && p.2.slot.isSome && match p.2.run with
    | .waiting (.sleep t) => t ≤ s.cyc
    | _ => false

/-- The strand that a core issues from in the cycle (R11): the first ready slot after the one that issued last; a slot that has
yielded is passed over for 3 cycles where another is ready (R108). DESIGN CHOICE (notes/assumptions/105.md): where every ready slot has
yielded, the first of them issues. In the first cycle of the end of a sleep in a slot, the strand is woken before the core picks (R107). -/
def State.issuer (s : State) (c : Nat) : Option Nat :=
  let x := s.core c
  if s.cyc < x.nextIssue || s.wakesIn c || (s.partOfCore c).isNone then none
  else
    let order := [1, 2, 3, 4].map fun i => (x.last + i) % 4
    let yields (k : Nat) : Bool := (FMap.get? x.yields k).any fun c => s.cyc < c
    match (order.filter fun k => !yields k).findSome? (s.readyIn c) with
    | some u => some u
    | none => (order.filter yields).findSome? (s.readyIn c)

/-- The cores with a strand in a slot. -/
def State.runCores (s : State) : List Nat := (s.strands.filterMap fun p => if p.2.slot.isSome then some p.2.core else none).dedup

/-- The strands that can issue in the cycle: one of each core (R11). -/
def State.issuers (s : State) : List Nat := if s.steax.ready then s.runCores.filterMap s.issuer else []

/-- The requests that the units serve in the cycle: one of each quad (R13). -/
def State.servers (s : State) : List Request :=
  if s.steax.ready then
    s.quads.filterMap fun p => if p.2.queue.isEmpty || (s.partOfCore (4 * p.1)).isNone then none else (s.arbiter p.1).bind fun u => p.2.queue.find? fun r => r.uid == u
  else []

/-- A row when its condition holds. -/
def onlyIf (b : Bool) (i : Instr) : List Instr := if b then [i] else []

/-- Whether the oldest entry of a strand's store buffer can be performed next: a bank of a pool serves its core's strands in the
order of issue (R12). -/
def State.storeTurn (s : State) (u : Nat) (t : Strand) : Bool :=
  t.buf.head?.any fun e => (s.earlierStore t.core u e.stamp (e.banks t.core)).isNone

/-- The events of one strand that are enabled. -/
noncomputable def State.strandEvents (s : State) (u : Nat) (t : Strand) : List Instr :=
  (match t.run with
    | .waiting .answer => [.translationAnswer u]
    | .waiting (.fill _ _) => [.fillReturn u]
    | .waiting (.sleep c) => onlyIf (c ≤ s.cyc) (.sleepWake u)
    | _ => []) ++
  onlyIf (s.storeTurn u t) (.storePerformed u) ++
  onlyIf (!t.vflags.isEmpty) (.vectorCompletion u) ++
  onlyIf (match (s.quad (quadOf t.core)).oldest u with
    | some o => s.canComplete (quadOf t.core) o
    | none => false) (.matrixCompletion u) ++
  onlyIf (t.kind = .handler && t.watch = 4096 && t.run = .running && t.slot.isSome && t.doom.isNone && !t.midway) (.watchdog u) ++
  onlyIf (s.box.preempt.isSome && s.canDeliver t) (.preEmptDelivery u) ++
  onlyIf t.pendingClone (.cloneReady u)

/-- The events of one quad that are enabled. -/
noncomputable def State.quadEvents (s : State) (q : Nat) (x : Quad) : List Instr :=
  (match x.drainNext with
    | some n => [.drainComplete q n]
    | none => []) ++
  (match x.streams with
    | m :: _ => onlyIf (!m.arrived) (.aStreamArrival q)
    | [] => []) ++
  (match x.headCopy with
    | some c =>
      onlyIf ((c.st = .queued || (c.waits.isEmpty && !c.ending)) && (s.partOfCore (4 * q)).isSome) (.copyRun q) ++ onlyIf c.ending (.copyEnd q)
    | none => []) ++
  ((x.copies.filter fun c => c.live && !c.late && c.promise ≤ s.cyc).map fun c => .copyLate q c.id) ++
  onlyIf (x.refilled < s.cyc / 256) (.energyRefill q)

/-- The cores that an event may concern: those with anything of their own, those of the strands. -/
def State.activeCores (s : State) : List Nat :=
  List.map Prod.fst s.cores ++ (List.map (fun (p : Nat × Strand) => p.2.core) s.strands).filter fun c => (FMap.get? s.cores c).isNone

/-- The events of one core that are enabled (R289). -/
noncomputable def State.coreEvents (s : State) (c : Nat) : List Instr :=
  let x := s.core c
  let free := !(s.freeSlots c).isEmpty
  onlyIf (free && (s.restorable c).isSome) (.strandRestore c) ++
  (match (if s.placing c then x.waiting else none) with
    | some m => onlyIf free (if m.kind = 0 then .entryActivation c else .codeActivation c)
    | none => []) ++
  onlyIf x.footReady.isSome (.taskStart c) ++
  (match s.step3 c with
    | some (_, r) =>
      match r.body with
      | .task _ _ _ _ => onlyIf (free && x.footReady.isNone) (.taskStart c)
      | .sweep _ _ _ _ => if r.splits then onlyIf (free && x.deque.length + 3 ≤ 256) (.split c) else onlyIf free (.leafStrandStart c)
      | .gang _ _ ms _ =>
        if r.splits then onlyIf (free && x.deque.length + 3 ≤ 256) (.split c)
        else onlyIf (x.gangHold.isNone || ms.length ≤ (s.freeSlots c).length) (.gangGroupPlacement c)
    | none => []) ++
  onlyIf (s.heldRecord c).isSome (.heldPush c) ++
  onlyIf (x.noCredit.any fun id => !s.packets.any fun p => p.id == id) (.creditReturn c) ++
  onlyIf (s.wantsSlot c && (s.displaced c).isSome) (.displacement c) ++
  (match x.steal with
    | some ⟨_, _, some _⟩ => [.stealReply c]
    | _ => [])

/-- The cores that have a steal request to send (R291). -/
def State.thieves (s : State) : List Nat :=
  if s.cores.any (fun c => !c.2.deque.isEmpty) || !s.steax.downLinks.isEmpty then (s.parts.flatMap fun p => s.partCores p.1).filter s.canSteal else []

/-- Whether a message that has arrived can be taken, or has just found no room (R176, R304, R354). -/
def State.takes (s : State) (p : Packet) (m : Msg) : Bool := (s.turnAway p m).isSome || s.inletRoom p.dst || !p.held

/-- The event of one packet that is enabled. -/
noncomputable def State.packetEvents (s : State) (p : Packet) : List Instr :=
  onlyIf (s.canHop p) (.packetHop p.id) ++
  (if s.arrived p then
    (match p.body with
      | .msg m => onlyIf (s.takes p m) (if m.kind < 2 then .messageArrival p.id else if m.kind = 2 then .dataLanding p.id else .countMessage p.id)
      | .arrive _ _ _ _ _ _ _ _ _ _ => [.barrierArrival p.id]
      | .withdraw _ _ _ _ _ _ _ _ => [.barrierWithdrawal p.id]
      | .tokenRec _ => [])
  else [])

/-- The events of one job that are enabled: its waves, and its populations' decisions. -/
noncomputable def State.jobEvents (s : State) (j : Nat) (x : Job) : List Instr :=
  (match x.wave with
    | some w => if x.swept then [.waveOutcome j] else if w.confined.isSome then [.confinedWave j] else [.stillWave j]
    | none => if s.waveDue j then .stillWave j :: onlyIf ((s.retireWait j).isSome || (s.confinedFor j).isSome) (.confinedWave j) else []) ++
  ((x.launches.filter fun l => l.pop && s.resampleReady l.uid).map fun l => .resampleDecision j l.uid)

/-- The mailbox command that can be carried out (R381). -/
noncomputable def State.boxEvents (s : State) : List Instr :=
  onlyIf (s.boxRuns 1 && s.box.preempt.isNone) .preEmpt ++ onlyIf (s.boxRuns 2) .setReductionEntry ++
  onlyIf (s.boxRuns 3) .fenceDie ++
  onlyIf (s.boxRuns 4 && !s.box.retraining.any fun r => r.1 == (s.arg 0).toNat) .degradeLanes ++
  onlyIf (s.boxRuns 5) .frameCopy ++ onlyIf (s.boxRuns 6) .countRebase ++ onlyIf (s.boxRuns 7) .extendMeasurementSlot ++
  onlyIf (s.boxRuns 8) .readBlackBox ++ onlyIf (s.boxRuns 9) .loadFirmware ++ onlyIf (s.boxRuns 10) .readCounters

/-- The events of a running pre-empt command that are enabled (R348, R354). -/
noncomputable def State.preemptEvents (s : State) : List Instr :=
  match s.box.preempt with
  | some x => ((s.preemptCores x).filter s.imageDue).map Instr.queueImage ++ onlyIf s.preemptOver .preEmptComplete
  | none => []

/-- The events of the device that are enabled; during bring-up only its next stage (R397). -/
noncomputable def State.events (s : State) : List Instr :=
  if !s.steax.ready then onlyIf (!s.steax.fail) .bringUp
  else
    s.strands.flatMap (fun p => s.strandEvents p.1 p.2) ++ s.quads.flatMap (fun p => s.quadEvents p.1 p.2) ++
    s.activeCores.flatMap s.coreEvents ++ s.thieves.map Instr.stealRequest ++ s.packets.flatMap s.packetEvents ++
    (((List.range s.pending.length).filter fun n => (s.pending[n]?).any s.pushable).map Instr.dependantPush) ++
    ((s.parts.filter fun p => s.entryReady p.1).map fun p => Instr.launchInletEntry p.1) ++
    ((s.parts.filter fun p => (s.resizeReady p.1).isSome).map fun p => Instr.resize p.1) ++
    s.jobs.flatMap (fun p => s.jobEvents p.1 p.2) ++ s.overfull.map (fun e => Instr.cuckooRecall e.die) ++
    s.box.retraining.map (fun r => Instr.retrainComplete r.1) ++ onlyIf s.flipOver .biasFlipComplete ++ s.boxEvents ++
    s.preemptEvents

/-- Whether an LPTINV is to be carried out: it may retire (R371), or it asks the host for the new entry's line (R383). -/
def State.lptinvDue (s : State) (v : Word64) : Bool := s.lptinvReady v || (s.lptinvAsk v).isSome

/-- The next event of the outside world; an LPTINV waits as R371 says. -/
noncomputable def State.nextInput (s : State) : List Instr :=
  match s.inputs with
  | .lptinv v :: _ => onlyIf (s.lptinvDue v) (.lptinv v)
  | .mmioWrite none 0x40028 w v :: _ => onlyIf (s.lptinvDue v) (.mmioWrite none 0x40028 w v)
  | i :: _ => [i]
  | [] => []

/-- What the outside world does next without a row of the opcode table; a write of LPTINV that cannot retire yet, a token that the
package holds, and a recall that waits for the host hold up nothing. -/
def State.nextOutside (s : State) : List Cand :=
  ((s.outside.find? fun o => match o with
    | .lptinv v => s.lptinvDue v
    | .token t => (s.tokenWait t).isNone
    | .recall die vf line quad _ => (s.recallHeld (recallHit die vf line quad)).isNone
    | _ => true).map Cand.outside).toList

/-- Every enabled step: issues, the units' services, the device's events, the next events from outside. -/
noncomputable def State.candidates (s : State) : List Cand :=
  s.issuers.map Cand.issue ++ s.servers.map Cand.serve ++ s.events.map Cand.row ++ s.nextInput.map Cand.input ++ s.nextOutside

/-- Whether something will go on without any event once CYC has moved on: a strand that only a latency holds (R90), a request whose
turn or datapath comes (R13). -/
def State.latent (s : State) : Bool :=
  (s.strands.any fun p => p.2.standing && s.cyc < p.2.readyAt) ||
    s.quads.any fun p => p.2.queue.any fun r => (s.strand? r.uid).any Strand.standing

/-- The time of the first SLEEPUNTIL that CYC has still to reach, of those after a cycle (R107). -/
def State.nextWake (s : State) (after : Nat) : Option Nat :=
  (s.strands.filterMap fun p => match p.2.run with
    | .waiting (.sleep c) => if after ≤ c then some c else none
    | _ => none).min?

/-- Whether something belongs to the present cycle: an instruction that a core issues in it (R11), a request that a unit serves in it
(R13), the end of a sleep (R107). -/
def State.busyNow (s : State) : Bool :=
  !s.issuers.isEmpty || !s.servers.isEmpty || s.strands.any fun p => match p.2.run with
    | .waiting (.sleep c) => c ≤ s.cyc
    | _ => false

/-- CYC before the next step (R59, R11): it stands while something belongs to the present cycle; else it moves on, by one cycle
while a latency runs, by any number when nothing is under way, but not past the end of a sleep. -/
noncomputable def State.nextCyc (s : State) : Nat :=
  if s.busyNow then s.cyc
  else
    let n := s.cyc + 1 + (if s.latent then 0 else Config.elapsed s.tick)
    min n ((s.nextWake (s.cyc + 1)).getD n)

end Sys2Proof.Machine
end

