-- ==== Sys2Proof/Machine/Step.lean ====
section
/-!
DEFINITION. One step of the package: one enabled row of the opcode table, whole (R7, spec/95_what_each_step_holds.md).
-/
namespace Sys2Proof.Machine

/-- The clock before the step (R59 CYC). -/
noncomputable def State.advance (s : State) : State := { s with tick := s.tick + 1, cyc := s.nextCyc }

/-- Whether an instruction may leave the PC as it stands though it retires: a branch or a jump to itself, a return from a trap. -/
def Instr.mayStay : Instr → Bool
  | .beq _ _ _ | .bne _ _ _ | .blt _ _ _ | .bge _ _ _ | .bltu _ _ _ | .bgeu _ _ _ | .jal _ _ | .jalr _ _ _ | .eret _ => true
  | _ => false

/-- After a strand's turn (R11, R90): where its word was held at its issue, not ready, the strand tries again in the next cycle;
else the core has issued in this cycle, a word that stands in a dispatch queue among them, and the strand's next word follows after
the word's latency. -/
noncomputable def State.settle (s : State) (u : Nat) (t : Strand) (stays : Bool) : State :=
  let held : Bool := match s.strand? u with
    | some t' => t'.run == .running && t'.slot == t.slot && t'.pc == t.pc && !stays && !(s.quad (quadOf t.core)).queues u
    | none => false
  if held then s.modStrand u fun t => { t with readyAt := s.cyc + 1 }
  else
    (s.putCore t.core { s.core t.core with last := t.slot.getD 0, nextIssue := s.cyc + 1 }).modStrand u fun t =>
      { t with readyAt := s.cyc + Config.latency s.tick }

/-- An outcome with a change made to its next state. -/
def onNext (f : State → State) : Host.Outcome State Fault Refusal → Host.Outcome State Fault Refusal
  | .next s => .next (f s)
  | r => r

/-- What a strand issues in its turn: the trap or the end that awaits it, the implicit HRET of a code message, its next word (R79,
R181). -/
noncomputable def issueWord (s : State) (u : Nat) (t : Strand) : Host.Outcome State Fault Refusal :=
  if t.doom.isSome then .next (s.issue t { inCode := true } fun _ s => .hold s)
  else
    match fetch s u t with
    | .implicitHret => exec .hret s
    | .none => exec .instructionFetchFault s
    | .host s w => .next (s.parkMe t w)
    | .word s w =>
      let s := { s with ir := w }
      match decode w with
      | some i => exec i s
      | none => exec (.illegalInstruction w) s

/-- Whether the word that a strand's turn runs may leave the PC as it stands. -/
noncomputable def wordStays (s : State) (u : Nat) (t : Strand) : Bool :=
  match fetch s u t with
  | .word _ w => ((decode w).map Instr.mayStay).getD false
  | _ => false

/-- A strand issues its next word (R11, R79). -/
noncomputable def stepIssue (s : State) (u : Nat) : Host.Outcome State Fault Refusal :=
  let s := { s with cur := u }
  match s.strand? u with
  | none => .next s
  | some t => onNext (fun s' => s'.settle u t (t.doom.isNone && wordStays s u t)) (issueWord s u t)

/-- A unit serves a request that stands in a dispatch queue: the word that its strand issued (R13, R150). -/
noncomputable def stepServe (s : State) (r : Request) : Host.Outcome State Fault Refusal :=
  match decode r.word with
  | none => .next s
  | some i => onNext (fun s' => s'.modStrand r.uid fun t => { t with readyAt := s.cyc + Config.latency s.tick })
      (exec i { s with cur := r.uid, ir := r.word })

/-- Runs one enabled step. -/
noncomputable def stepCand (s : State) : Cand → Host.Outcome State Fault Refusal
  | .issue u => stepIssue s u
  | .serve r => stepServe s r
  | .row i => exec i { s with cur := 0 }
  | .input i => exec i { s with cur := 0, inputs := s.inputs.tail }
  | .outside o => .next (({ s with cur := 0, outside := s.outside.erase o } : State).outsideStep o)

/-- One step: nothing enabled passes time; one enabled step is taken; of several the implementation's choice (R7, R11). -/
noncomputable def step (s : State) : Host.Outcome State Fault Refusal :=
  let s := s.advance
  match s.candidates with
  | [] => .next s
  | [c] => stepCand s c
  | c :: r => stepCand s (((c :: r)[Config.pick s.tick % (r.length + 1)]?).getD c)

/-- The state with one instruction placed where the next step fetches it: bring-up is done, function 0 has a partition of
one quad, quad 0, and a job whose strands are born in hypervisor mode, one resident strand of it stands in slot 0 of core 0 at
placePc, stage 2 maps that page to a frame that holds the word, and the quad's instruction cache holds no older word. It stands for the
host's and the hypervisor's work that notes/assumptions names. -/
def State.withFetchWord (s : State) (_nbits w : Nat) : State :=
  let p := s.part 0
  let p := { p with present := true, part := p.part &&& ~~~(field64 (2 ^ 27 - 1) 0), burst := p.burst + 1, root2 := some (BitVec.ofNat 64 placeRoot) }
  let s := s.putPart 0 { p with jobtab := p.jobtab.set 0 (field64 1 63 ||| field64 1 62 ||| field64 1 0) }
  let t := Strand.newborn .resident 0 1 0 0
  let t := { t with pc := placePc, sys := { t.sys with status := field64 2 6 ||| field64 1 3 } }
  { (s.putStrand s.nextUid t) with
    nextUid := s.nextUid + 1
    inputs := []
    outside := []
    packets := []
    quads := if (s.quad 0).icache = [] then s.quads else FMap.set s.quads 0 { s.quad 0 with icache := [] }
    skip := s.skip.filter (· ≠ 0)
    mem := Memory.put (placeTables s.mem) placeFrame (wordBytes (BitVec.ofNat 32 w))
    steax := { s.steax with ready := true, stage := 6, railsOff := [] } }

end Sys2Proof.Machine
end

