-- ==== Sys2Proof/Machine/WordBody.lean ====
section
/-!
DEFINITION. The gate and the body of every instruction word, so that a claim can speak of all instructions whose own checks and
effect are done (R79, R103).
-/
namespace Sys2Proof.Machine

/-- The gate and the body of an instruction word: its meaning is runWord of the two, the body being its own checks and effect (R79,
R103); none for a row of the opcode table that is no word. -/
def wordBody : Instr → Option (Gate × (Strand → State → Res))
  | .add d a b => some ({ inCode := true }, aluBody d fun t => t.g a + t.g b)
  | .sub d a b => some ({ inCode := true }, aluBody d fun t => t.g a - t.g b)
  | .and d a b => some ({ inCode := true }, aluBody d fun t => t.g a &&& t.g b)
  | .or d a b => some ({ inCode := true }, aluBody d fun t => t.g a ||| t.g b)
  | .xor d a b => some ({ inCode := true }, aluBody d fun t => t.g a ^^^ t.g b)
  | .slt d a b => some ({ inCode := true }, aluBody d fun t => bit64 ((t.g a).slt (t.g b)))
  | .sltz d a b => some ({ inCode := true }, aluBody d fun t => bit64 ((t.g a).ult (t.g b)))
  | .sll d a b => some ({ inCode := true }, aluBody d fun t => t.g a <<< amt6 (t.g b))
  | .srl d a b => some ({ inCode := true }, aluBody d fun t => t.g a >>> amt6 (t.g b))
  | .sra d a b => some ({ inCode := true }, aluBody d fun t => (t.g a).sshiftRight (amt6 (t.g b)))
  | .rol d a b => some ({ inCode := true }, aluBody d fun t => (t.g a).rotateLeft (amt6 (t.g b)))
  | .ror d a b => some ({ inCode := true }, aluBody d fun t => (t.g a).rotateRight (amt6 (t.g b)))
  | .addS32 d a b => some ({ inCode := true }, aluBody d fun t => sx32 (lo32 (t.g a) + lo32 (t.g b)))
  | .addZ32 d a b => some ({ inCode := true }, aluBody d fun t => zx32 (lo32 (t.g a) + lo32 (t.g b)))
  | .subS32 d a b => some ({ inCode := true }, aluBody d fun t => sx32 (lo32 (t.g a) - lo32 (t.g b)))
  | .subZ32 d a b => some ({ inCode := true }, aluBody d fun t => zx32 (lo32 (t.g a) - lo32 (t.g b)))
  | .sllS32 d a b => some ({ inCode := true }, aluBody d fun t => sx32 (lo32 (t.g a) <<< amt5 (t.g b)))
  | .sllZ32 d a b => some ({ inCode := true }, aluBody d fun t => zx32 (lo32 (t.g a) <<< amt5 (t.g b)))
  | .srlS32 d a b => some ({ inCode := true }, aluBody d fun t => sx32 (lo32 (t.g a) >>> amt5 (t.g b)))
  | .srlZ32 d a b => some ({ inCode := true }, aluBody d fun t => zx32 (lo32 (t.g a) >>> amt5 (t.g b)))
  | .sraS32 d a b => some ({ inCode := true }, aluBody d fun t => sx32 ((lo32 (t.g a)).sshiftRight (amt5 (t.g b))))
  | .sraZ32 d a b => some ({ inCode := true }, aluBody d fun t => zx32 ((lo32 (t.g a)).sshiftRight (amt5 (t.g b))))
  | .rolS32 d a b => some ({ inCode := true }, aluBody d fun t => sx32 ((lo32 (t.g a)).rotateLeft (amt5 (t.g b))))
  | .rolZ32 d a b => some ({ inCode := true }, aluBody d fun t => zx32 ((lo32 (t.g a)).rotateLeft (amt5 (t.g b))))
  | .rorS32 d a b => some ({ inCode := true }, aluBody d fun t => sx32 ((lo32 (t.g a)).rotateRight (amt5 (t.g b))))
  | .rorZ32 d a b => some ({ inCode := true }, aluBody d fun t => zx32 ((lo32 (t.g a)).rotateRight (amt5 (t.g b))))
  | .addi d a i => some ({ inCode := true }, aluBody d fun t => t.g a + i.signExtend 64)
  | .andi d a i => some ({ inCode := true }, aluBody d fun t => t.g a &&& i.setWidth 64)
  | .ori d a i => some ({ inCode := true }, aluBody d fun t => t.g a ||| i.setWidth 64)
  | .xori d a i => some ({ inCode := true }, aluBody d fun t => t.g a ^^^ i.setWidth 64)
  | .slti d a i => some ({ inCode := true }, aluBody d fun t => bit64 ((t.g a).slt (i.signExtend 64)))
  | .sltiz d a i => some ({ inCode := true }, aluBody d fun t => bit64 ((t.g a).ult (i.signExtend 64)))
  | .slli d a h => some ({ inCode := true }, aluBody d fun t => t.g a <<< h.toNat)
  | .srli d a h => some ({ inCode := true }, aluBody d fun t => t.g a >>> h.toNat)
  | .srai d a h => some ({ inCode := true }, aluBody d fun t => (t.g a).sshiftRight h.toNat)
  | .rori d a h => some ({ inCode := true }, aluBody d fun t => (t.g a).rotateRight h.toNat)
  | .slliS32 d a h => some ({ inCode := true }, aluBody d fun t => sx32 (lo32 (t.g a) <<< h.toNat))
  | .slliZ32 d a h => some ({ inCode := true }, aluBody d fun t => zx32 (lo32 (t.g a) <<< h.toNat))
  | .srliS32 d a h => some ({ inCode := true }, aluBody d fun t => sx32 (lo32 (t.g a) >>> h.toNat))
  | .srliZ32 d a h => some ({ inCode := true }, aluBody d fun t => zx32 (lo32 (t.g a) >>> h.toNat))
  | .sraiS32 d a h => some ({ inCode := true }, aluBody d fun t => sx32 ((lo32 (t.g a)).sshiftRight h.toNat))
  | .sraiZ32 d a h => some ({ inCode := true }, aluBody d fun t => zx32 ((lo32 (t.g a)).sshiftRight h.toNat))
  | .roriS32 d a h => some ({ inCode := true }, aluBody d fun t => sx32 ((lo32 (t.g a)).rotateRight h.toNat))
  | .roriZ32 d a h => some ({ inCode := true }, aluBody d fun t => zx32 ((lo32 (t.g a)).rotateRight h.toNat))
  | .lih d a i => some ({ inCode := true }, aluBody d fun t => (t.g a <<< 16) ||| i.setWidth 64)
  | .pcrel d i => some ({}, pcrelBody d i)
  | .mul d a b => some ({ inCode := true }, aluBody d fun t => t.g a * t.g b)
  | .mulhiS64 d a b => some ({ inCode := true }, aluBody d fun t => high64 ((t.g a).toInt * (t.g b).toInt))
  | .mulhiZ64 d a b => some ({ inCode := true }, aluBody d fun t => high64 ((t.g a).toNat * (t.g b).toNat))
  | .mulhm d a b => some ({ inCode := true }, aluBody d fun t => high64 ((t.g a).toInt * (t.g b).toNat))
  | .quoS64 d a b => some ({ inCode := true }, aluBody d fun t => quoS (t.g a) (t.g b))
  | .quoZ64 d a b => some ({ inCode := true }, aluBody d fun t => quoZ (t.g a) (t.g b))
  | .rmdS64 d a b => some ({ inCode := true }, aluBody d fun t => rmdS (t.g a) (t.g b))
  | .rmdZ64 d a b => some ({ inCode := true }, aluBody d fun t => rmdZ (t.g a) (t.g b))
  | .mulS32 d a b => some ({ inCode := true }, aluBody d fun t => sx32 (lo32 (t.g a) * lo32 (t.g b)))
  | .mulZ32 d a b => some ({ inCode := true }, aluBody d fun t => zx32 (lo32 (t.g a) * lo32 (t.g b)))
  | .quoS32 d a b => some ({ inCode := true }, aluBody d fun t => sx32 (quoS (lo32 (t.g a)) (lo32 (t.g b))))
  | .quoZ32 d a b => some ({ inCode := true }, aluBody d fun t => zx32 (quoZ (lo32 (t.g a)) (lo32 (t.g b))))
  | .rmdS32 d a b => some ({ inCode := true }, aluBody d fun t => sx32 (rmdS (lo32 (t.g a)) (lo32 (t.g b))))
  | .rmdZ32 d a b => some ({ inCode := true }, aluBody d fun t => zx32 (rmdZ (lo32 (t.g a)) (lo32 (t.g b))))
  | .mad d a b => some ({ inCode := true }, aluBody d fun t => t.g d + t.g a * t.g b)
  | .msb d a b => some ({ inCode := true }, aluBody d fun t => t.g d - t.g a * t.g b)
  | .lzc d a => some ({ inCode := true }, aluBody d fun t => BitVec.ofNat 64 (leadingZeros (t.g a)))
  | .tzc d a => some ({ inCode := true }, aluBody d fun t => BitVec.ofNat 64 (trailingZeros (t.g a)))
  | .ones d a => some ({ inCode := true }, aluBody d fun t => BitVec.ofNat 64 (onesCount (t.g a)))
  | .bswap d a => some ({ inCode := true }, aluBody d fun t => byteSwap (t.g a))
  | .bitrev d a => some ({ inCode := true }, aluBody d fun t => (t.g a).reverse)
  | .minS64 d a b => some ({ inCode := true }, aluBody d fun t => if (t.g a).sle (t.g b) then t.g a else t.g b)
  | .maxS64 d a b => some ({ inCode := true }, aluBody d fun t => if (t.g b).sle (t.g a) then t.g a else t.g b)
  | .minZ64 d a b => some ({ inCode := true }, aluBody d fun t => if (t.g a).ule (t.g b) then t.g a else t.g b)
  | .maxZ64 d a b => some ({ inCode := true }, aluBody d fun t => if (t.g b).ule (t.g a) then t.g a else t.g b)
  | .andnot d a b => some ({ inCode := true }, aluBody d fun t => t.g a &&& ~~~(t.g b))
  | .ornot d a b => some ({ inCode := true }, aluBody d fun t => t.g a ||| ~~~(t.g b))
  | .sel d a b c => some ({ inCode := true }, aluBody d fun t => if t.g c ≠ 0#64 then t.g a else t.g b)
  | .extS8 d a => some ({ inCode := true }, aluBody d fun t => ((t.g a).setWidth 8).signExtend 64)
  | .extS16 d a => some ({ inCode := true }, aluBody d fun t => ((t.g a).setWidth 16).signExtend 64)
  | .extS32 d a => some ({ inCode := true }, aluBody d fun t => ((t.g a).setWidth 32).signExtend 64)
  | .extZ32 d a => some ({ inCode := true }, aluBody d fun t => ((t.g a).setWidth 32).setWidth 64)
  | .extZ8 d a => some ({ inCode := true }, aluBody d fun t => ((t.g a).setWidth 8).setWidth 64)
  | .extZ16 d a => some ({ inCode := true }, aluBody d fun t => ((t.g a).setWidth 16).setWidth 64)
  | .xnor d a b => some ({ inCode := true }, aluBody d fun t => ~~~(t.g a ^^^ t.g b))
  | .ptrunc d a b => some ({ inCode := true }, pathBody d fun t => ptrunc (t.g a) (t.g b))
  | .pparent d a => some ({ inCode := true }, pathBody d fun t => pparent (t.g a))
  | .pchild d a b => some ({ inCode := true }, pathBody d fun t => pchild (t.g a) (t.g b))
  | .psib d a b => some ({ inCode := true }, pathBody d fun t => psib (t.g a) (t.g b))
  | .pnext d a => some ({ inCode := true }, pathBody d fun t => pnext (t.g a))
  | .pdig d a b => some ({ inCode := true }, pathBody d fun t => pdig (t.g a) (t.g b))
  | .psdig d a b => some ({ inCode := true }, pathBody d fun t => psdig (t.g a) (t.g b))
  | .pin d a b => some ({ inCode := true }, pathBody d fun t => pin (t.g a) (t.g b))
  | .plevel d a => some ({ inCode := true }, aluBody d fun t => field64 (bitsNat (t.g a) 63 58) 0)
  | .pesz d a => some ({ inCode := true }, aluBody d fun t => field64 (bitsNat (t.g a) 57 56) 0)
  | .pbase d a => some ({ inCode := true }, aluBody d fun t => field64 (refAddr (t.g a)) 0)
  | .pmake d a b => some ({ inCode := true }, pathBody d fun t => pmake (t.g a) (t.g b))
  | .ppack d a b => some ({ inCode := true }, aluBody d fun t => BitVec.ofNat 64 (morton (bitsNat (t.g a) 27 0) (bitsNat (t.g b) 27 0)))
  | .prow d a => some ({ inCode := true }, aluBody d fun t => BitVec.ofNat 64 (mortonRow (refAddr (t.g a))))
  | .pcol d a => some ({ inCode := true }, aluBody d fun t => BitVec.ofNat 64 (mortonCol (refAddr (t.g a))))
  | .ldB d a i => some ({ inCode := true }, loadBody d a i 1 (extS 1))
  | .ldH d a i => some ({ inCode := true }, loadBody d a i 2 (extS 2))
  | .ldW d a i => some ({ inCode := true }, loadBody d a i 4 (extS 4))
  | .ldD d a i => some ({ inCode := true }, loadBody d a i 8 extZ)
  | .ldBz d a i => some ({ inCode := true }, loadBody d a i 1 extZ)
  | .ldHz d a i => some ({ inCode := true }, loadBody d a i 2 extZ)
  | .ldWz d a i => some ({ inCode := true }, loadBody d a i 4 extZ)
  | .stB b a i => some ({ inCode := true }, storeBody b a i 1)
  | .stH b a i => some ({ inCode := true }, storeBody b a i 2)
  | .stW b a i => some ({ inCode := true }, storeBody b a i 4)
  | .stD b a i => some ({ inCode := true }, storeBody b a i 8)
  | .bld d a => some ({}, bldBody d a)
  | .bst d a => some ({}, bstBody d a)
  | .bcopy d a => some ({}, bcopyBody d a)
  | .bfill d a => some ({}, bfillBody d a)
  | .bzero d => some ({}, bzeroBody d)
  | .bpref d => some ({}, bprefBody d)
  | .bclean d => some ({}, maintBody d false)
  | .bflush d => some ({}, maintBody d true)
  | .amoAddW d a b o sc => some ({ inCode := true }, amoBody 32 .add d a b o sc)
  | .amoAddD d a b o sc => some ({ inCode := true }, amoBody 64 .add d a b o sc)
  | .amoMinW d a b o sc => some ({ inCode := true }, amoBody 32 .min d a b o sc)
  | .amoMinD d a b o sc => some ({ inCode := true }, amoBody 64 .min d a b o sc)
  | .amoMaxW d a b o sc => some ({ inCode := true }, amoBody 32 .max d a b o sc)
  | .amoMaxD d a b o sc => some ({ inCode := true }, amoBody 64 .max d a b o sc)
  | .amoMinuW d a b o sc => some ({ inCode := true }, amoBody 32 .minu d a b o sc)
  | .amoMinuD d a b o sc => some ({ inCode := true }, amoBody 64 .minu d a b o sc)
  | .amoMaxuW d a b o sc => some ({ inCode := true }, amoBody 32 .maxu d a b o sc)
  | .amoMaxuD d a b o sc => some ({ inCode := true }, amoBody 64 .maxu d a b o sc)
  | .amoAndW d a b o sc => some ({ inCode := true }, amoBody 32 .and d a b o sc)
  | .amoAndD d a b o sc => some ({ inCode := true }, amoBody 64 .and d a b o sc)
  | .amoOrW d a b o sc => some ({ inCode := true }, amoBody 32 .or d a b o sc)
  | .amoOrD d a b o sc => some ({ inCode := true }, amoBody 64 .or d a b o sc)
  | .amoXorW d a b o sc => some ({ inCode := true }, amoBody 32 .xor d a b o sc)
  | .amoXorD d a b o sc => some ({ inCode := true }, amoBody 64 .xor d a b o sc)
  | .amoSwapW d a b o sc => some ({ inCode := true }, amoBody 32 .swap d a b o sc)
  | .amoSwapD d a b o sc => some ({ inCode := true }, amoBody 64 .swap d a b o sc)
  | .amoCasW d a b o sc => some ({ inCode := true }, amoBody 32 .cas d a b o sc)
  | .amoCasD d a b o sc => some ({ inCode := true }, amoBody 64 .cas d a b o sc)
  | .amoFaddW d a b o sc => some ({ inCode := true }, amoBody 32 .fadd d a b o sc)
  | .amoLdW d a b o sc => some ({ inCode := true }, amoBody 32 .ld d a b o sc)
  | .amoLdD d a b o sc => some ({ inCode := true }, amoBody 64 .ld d a b o sc)
  | .amoStW a b o sc => some ({ inCode := true }, amoBody 32 .st 0#5 a b o sc)
  | .amoStD a b o sc => some ({ inCode := true }, amoBody 64 .st 0#5 a b o sc)
  | .fence o sc => some ({ inCode := true }, fenceBody o sc)
  | .promote d a o sc => some ({}, promoteBody d a o sc)
  | .wset d a b => some ({}, wsetBody d a b)
  | .wclr d => some ({}, fun t s => .done (s.putMe (t.setW d ⟨0#64, 0#2⟩)))
  | .wref d a => some ({}, aluBody d fun t => (t.w a).ref)
  | .wrt d a => some ({}, aluBody d fun t => (t.w a).rights.setWidth 64)
  | .wqry d a => some ({}, wqryBody d a)
  | .beq a b i => some ({}, branchBody i fun t => decide (t.g a = t.g b))
  | .bne a b i => some ({}, branchBody i fun t => decide (t.g a ≠ t.g b))
  | .blt a b i => some ({}, branchBody i fun t => (t.g a).slt (t.g b))
  | .bge a b i => some ({}, branchBody i fun t => (t.g b).sle (t.g a))
  | .bltu a b i => some ({}, branchBody i fun t => (t.g a).ult (t.g b))
  | .bgeu a b i => some ({}, branchBody i fun t => (t.g b).ule (t.g a))
  | .jal d i => some ({}, jalBody d i)
  | .jalr d a i => some ({}, jalrBody d a i)
  | .sleepuntil a => some ({}, sleepBody a)
  | .yield => some ({}, yieldBody)
  | .exit => some ({ inCode := true }, exitBody)
  | .vadd d a b k t => some ({}, binBody d a b k t (laneAdd t))
  | .vsub d a b k t => some ({}, binBody d a b k t (laneSub t))
  | .vmul d a b k t => some ({}, binBody d a b k t (laneMul t))
  | .vfma d a b k t => some ({}, fmaBody false d a b k t)
  | .vfnma d a b k t => some ({}, fmaBody true d a b k t)
  | .vmin d a b k t => some ({}, binBody d a b k t fun _ => laneMinMax false t)
  | .vmax d a b k t => some ({}, binBody d a b k t fun _ => laneMinMax true t)
  | .vrcpe d a k t => some ({}, unBody d a k t (laneRcpe t))
  | .vrsqe d a k t => some ({}, unBody d a k t (laneRsqe t))
  | .vadds d a b k t => some ({}, binBody d a b k t fun _ => laneSat false t)
  | .vsubs d a b k t => some ({}, binBody d a b k t fun _ => laneSat true t)
  | .vand d a b k t => some ({}, binBody d a b k t fun _ x y => (x &&& y, 0#5))
  | .vor d a b k t => some ({}, binBody d a b k t fun _ x y => (x ||| y, 0#5))
  | .vxor d a b k t => some ({}, binBody d a b k t fun _ x y => (x ^^^ y, 0#5))
  | .vsl d a b k t => some ({}, binBody d a b k t fun _ => laneSl t)
  | .vsr d a b k t => some ({}, binBody d a b k t fun _ => laneSr t)
  | .vceq d a b k t => some ({}, cmpBody .eq d a b k t)
  | .vcne d a b k t => some ({}, cmpBody .ne d a b k t)
  | .vclt d a b k t => some ({}, cmpBody .lt d a b k t)
  | .vcle d a b k t => some ({}, cmpBody .le d a b k t)
  | .kand d a b => some ({}, maskBody fun t => t.setK d (t.k a &&& t.k b))
  | .kor d a b => some ({}, maskBody fun t => t.setK d (t.k a ||| t.k b))
  | .kxor d a b => some ({}, maskBody fun t => t.setK d (t.k a ^^^ t.k b))
  | .kandn d a b => some ({}, maskBody fun t => t.setK d (t.k a &&& ~~~(t.k b)))
  | .knot d a => some ({}, maskBody fun t => t.setK d (~~~(t.k a)))
  | .kset d a => some ({}, maskBody fun t => t.setK d (t.g a))
  | .kget d a => some ({}, maskBody fun t => t.setG d (t.k a))
  | .kpop d a => some ({}, maskBody fun t => t.setG d (BitVec.ofNat 64 (onesCount (t.k a))))
  | .vld d a k t => some ({}, vloadBody d k t (unitAddr a t))
  | .vst d a k t => some ({}, vstoreBody true d k t (unitAddr a t))
  | .vlds d a b k t => some ({}, vloadBody d k t (strideAddr a b))
  | .vsts d a b k t => some ({}, vstoreBody false d k t (strideAddr a b))
  | .vgather d a b k t => some ({}, vloadBody d k t (indexAddr a b t))
  | .vscatter d a b k t => some ({}, vstoreBody false d k t (indexAddr a b t))
  | .vldr d a k t => some ({}, vloadBody d k t (refAddrs a t))
  | .vstr d a k t => some ({}, vstoreBody true d k t (refAddrs a t))
  | .vsel d a b k t => some ({}, vselBody d a b k t)
  | .vbcast d a k t => some ({}, moveBody d k t fun st _ => (st.g a).toNat)
  | .vperm d a b k t => some ({}, moveBody d k t (vpermLane a b t))
  | .vshuf d a b k t => some ({}, moveBody d k t (vshufLane d a b t))
  | .viota d k t => some ({}, moveBody d k t fun _ => viotaLane t)
  | .vext d a b t => some ({}, vextBody d a b t)
  | .vins d a b t => some ({}, vinsBody d a b t)
  | .vcvt d a u r t => some ({}, vcvtBody d a u r t)
  | .vsld d a b k t => some ({}, moveBody d k t (vsldLane a b t))
  | .vredsum d a k t => some ({}, redBody .sum d a k t)
  | .vredmin d a k t => some ({}, redBody .min d a k t)
  | .vredmax d a k t => some ({}, redBody .max d a k t)
  | .vrand d a b k t => some ({}, moveBody d k t (vrandLane a b t))
  | .vimm d t i => some ({}, vimmBody d t i)
  | .vaddi d t i => some ({}, vaddiBody d t i)
  | .tdecl a b d => some ({}, tdeclBody a b d)
  | .tld a b => some ({}, tldBody false a b)
  | .tldS a b => some ({}, tldBody true a b)
  | .tfill a b v => some ({}, tfillBody a b v)
  | .tseal a => some ({}, tsealBody a)
  | .tget a b v => some ({}, tgetBody a b v)
  | .tst a b => some ({}, tstBody false a b)
  | .tstS a b => some ({}, tstBody true a b)
  | .tkill a => some ({}, tkillBody a)
  | .ttag a d => some ({ inCode := true }, ttagBody a d)
  | .mfmt a => some ({}, mfmtBody a)
  | .mlutA a => some ({}, mlutBody false false a)
  | .mlutB a => some ({}, mlutBody true false a)
  | .mlutA4 a => some ({}, mlutBody false true a)
  | .mlutB4 a => some ({}, mlutBody true true a)
  | .mzero a => some ({}, mzeroBody a)
  | .mma a => some ({}, mmaBody false a)
  | .mmaNc a => some ({}, mmaBody true a)
  | .mmax a b => some ({}, mmaxBody false a b)
  | .mmaxNc a b => some ({}, mmaxBody true a b)
  | .mtrn a => some ({}, mtrnBody a)
  | .mcvt a => some ({}, mcvtBody a)
  | .sendEnt a b => some ({ inCode := true }, sendBody 0 a b)
  | .sendCode a b => some ({ inCode := true }, sendBody 1 a b)
  | .sendData a b => some ({ inCode := true }, sendBody 2 a b)
  | .sendCnt a b => some ({ inCode := true }, sendBody 3 a b)
  | .mw a d => some ({ inCode := true }, mwBody a d)
  | .mrel => some ({ inCode := true }, mrelBody)
  | .hret => some ({ inCode := true }, hretBody)
  | .dqput a => some ({ inCode := true }, dqputBody a)
  | .dqtake b d => some ({}, dqtakeBody b d)
  | .launch a b d => some ({}, launchBody false a b d)
  | .launchGang a b d => some ({}, launchBody true a b d)
  | .trigger => some ({}, triggerBody)
  | .spawn a b => some ({}, spawnBody 0 a b)
  | .spawnH a b => some ({}, spawnBody 1 a b)
  | .pres h d => some ({}, pipeWaitBody true h d)
  | .pwait h d => some ({}, pipeWaitBody false h d)
  | .padv h => some ({}, padvBody h)
  | .resample a b d => some ({}, resampleBody a b d)
  | .barset a b d => some ({}, barsetBody a b d)
  | .bararr d => some ({}, bararrBody d)
  | .barwait d => some ({}, barwaitBody d)
  | .barleave d => some ({}, barleaveBody d)
  | .barleaveO a b => some ({ mode := 1 }, barleaveOBody a b)
  | .still d => some ({}, stillBody d)
  | .stillTo a d => some ({ mode := 1 }, stillToBody a d)
  | .qcount a d => some ({ inCode := true }, qcountBody a d)
  | .qfix a b => some ({ mode := 1 }, qfixBody a b)
  | .cpystart a d => some ({}, cpystartBody a d)
  | .cpywait a d => some ({}, cpywaitBody false a d)
  | .cpywaitNl a d => some ({}, cpywaitBody true a d)
  | .cpypoll a d => some ({}, cpypollBody a d)
  | .cpygwait a d => some ({}, cpygwaitBody a d)
  | .cpycancel a => some ({}, cpycancelBody a)
  | .sysr d r => some ({}, sysrBody d r)
  | .sysw a r => some ({}, syswBody a r)
  | .svc a => some ({}, fun t _ => .trap 0x71 (t.g a))
  | .brk n => some ({}, fun _ _ => .trap 0x70 (n.setWidth 64))
  | .eret b => some ({}, fun t s => eretBody (t.g b) t s)
  | .xroot a b => some ({ mode := 1 }, xrootBody a b)
  | .xinv a b => some ({ mode := 1 }, xinvBody a b)
  | .xprobe a b d => some ({ mode := 1 }, xprobeBody a b d)
  | .xback a d => some ({ mode := 2 }, xbackBody a d)
  | .partset a b => some ({ mode := 2 }, partsetBody a b)
  | .skipset a b => some ({ mode := 2 }, skipsetBody a b)
  | .wayset a b => some ({ mode := 2 }, waysetBody a b)
  | .bregion a b => some ({ mode := 2 }, bregionBody a b)
  | .eset a b => some ({ mode := 1 }, esetBody a b)
  | .mdrain a => some ({ mode := 1 }, mdrainBody a)
  | .mrest a => some ({ mode := 1 }, mrestBody a)
  | .vsave a => some ({ mode := 1 }, vsaveBody a)
  | .vrest a => some ({ mode := 1 }, vrestBody a)
  | .translationAnswer _ => none
  | .fillReturn _ => none
  | .storePerformed _ => none
  | .operationPacket _ => none
  | .cuckooRecall _ => none
  | .directoryRecall _ _ _ _ => none
  | .vectorCompletion _ => none
  | .matrixCompletion _ => none
  | .drainComplete _ _ => none
  | .aStreamArrival _ => none
  | .copyRun _ => none
  | .copyEnd _ => none
  | .copyLate _ _ => none
  | .sleepWake _ => none
  | .energyRefill _ => none
  | .watchdog _ => none
  | .launchInletEntry _ => none
  | .dependantPush _ => none
  | .heldPush _ => none
  | .split _ => none
  | .leafStrandStart _ => none
  | .gangGroupPlacement _ => none
  | .taskStart _ => none
  | .messageArrival _ => none
  | .entryActivation _ => none
  | .codeActivation _ => none
  | .dataLanding _ => none
  | .countMessage _ => none
  | .creditReturn _ => none
  | .strandRestore _ => none
  | .displacement _ => none
  | .stealRequest _ => none
  | .stealReply _ => none
  | .loadSummaryToken _ => none
  | .packetHop _ => none
  | .stillWave _ => none
  | .waveOutcome _ => none
  | .confinedWave _ => none
  | .barrierArrival _ => none
  | .barrierWithdrawal _ => none
  | .resampleDecision _ _ => none
  | .cloneReady _ => none
  | .preEmptDelivery _ => none
  | .queueImage _ => none
  | .preEmptComplete => none
  | .resize _ => none
  | .prqreply _ _ => none
  | .prqreplyRefuse _ _ => none
  | .lptinv _ => none
  | .jobEntryWrite _ _ _ _ => none
  | .guarWrite _ _ => none
  | .burstWrite _ _ => none
  | .mmioWrite _ _ _ _ => none
  | .biasFlipToHost _ => none
  | .biasFlipToDevice _ => none
  | .biasFlipComplete => none
  | .biasstatRead => none
  | .hostHdmRead _ _ => none
  | .hostHdmWrite _ _ => none
  | .snpinv _ _ => none
  | .snpdata _ => none
  | .snpcur _ => none
  | .bisnpResponse _ _ => none
  | .preEmpt => none
  | .setReductionEntry => none
  | .fenceDie => none
  | .degradeLanes => none
  | .retrainComplete _ => none
  | .frameCopy => none
  | .countRebase => none
  | .extendMeasurementSlot => none
  | .readBlackBox => none
  | .loadFirmware => none
  | .readCounters => none
  | .getVersion _ => none
  | .getCapabilities _ => none
  | .negotiateAlgorithms _ => none
  | .getDigests _ => none
  | .getCertificate _ => none
  | .challenge _ _ => none
  | .getMeasurements _ _ => none
  | .keyExchange _ _ => none
  | .cxlIdeKm _ _ => none
  | .ideCheckFailure => none
  | .badFlit _ => none
  | .linkDown _ => none
  | .requestTimeout _ => none
  | .patrolScrub _ _ => none
  | .fatalError _ _ => none
  | .railUndervoltage _ => none
  | .thermalTrip _ => none
  | .coldReset => none
  | .packageReset => none
  | .bringUp => none
  | .prst _ => none
  | .bpwrRead => none
  | .illegalInstruction _ => none
  | .instructionFetchFault => none
  | .prqidxWrite _ _ => none
  | .cxlLinkRetrain => none
  | .configurationRequest => none
  | .bankRetentionSleep _ _ => none

end Sys2Proof.Machine
end

