-- ==== Sys2Proof/Safety.lean ====
section
/-!
DEFINITION. What counts as a safe run, the invariant, and the words that claims are made of: when a strand is ready to issue
a word, and the state in which that word has retired.
-/
namespace Sys2Proof.Machine

/-- The plain-data invariant of a state: memory is in its canonical form (INVENTORY.md, Memory). -/
def State.Inv (s : State) : Prop := Memory.wf s.mem = true

/-- A step that ends in a next state is safe; a fault or a refusal is not. -/
def Safe (o : Host.Outcome State Fault Refusal) : Prop := ∃ s, o = .next s

/-- The running strand is t, no asynchronous trap awaits it (R344), and the word after the one at its PC lies in the address
space (R103). -/
def Ready (s : State) (t : Strand) : Prop := s.me = some t ∧ t.doom = none ∧ t.pc + 8 ≤ 2 ^ 56

/-- The word at the PC of t is not one of the image of a code message, which runs a restricted set only (R181). -/
def Plain (t : Strand) : Prop := t.code = false ∨ 16 ≤ t.pc

/-- The state s' of an instruction's effect once the word at t's PC has retired (R103): the running strand's PC is t.pc + 4,
what it kept of an interrupted instruction is gone, and a handler's watchdog has counted (R296). -/
def State.after (s : State) (t : Strand) (s' : State) : State :=
  s'.modStrand s'.cur fun x => (x.retire (t.pc + 4)).countWatch (s.watchStep t)

/-- The same for a word that goes to another PC (R103). -/
def State.afterAt (s : State) (t : Strand) (pc : Nat) (s' : State) : State :=
  s'.modStrand s'.cur fun x => (x.retire pc).countWatch (s.watchStep t)

/-- Instruction i completes: its effect s', then its retirement. -/
def Completes (i : Instr) (s : State) (t : Strand) (s' : State) : Prop := exec i s = .next (s.after t s')

/-- Instruction i completes with one effect: x in g[d] (nothing when d is g0, R6). Everything else stands as it was. -/
def Writes (i : Instr) (s : State) (t : Strand) (d : BitVec 5) (x : Word64) : Prop :=
  Completes i s t (s.putMe (t.setG d x))

/-- Instruction i takes a trap with this cause and TVAL, and does nothing else (R217) but count in a handler's watchdog (R296). -/
def Traps (i : Instr) (s : State) (t : Strand) (cause : Nat) (tval : Word64) : Prop :=
  exec i s = .next (s.trapMe (t.countWatch (s.watchStep t)) cause tval)

/-- The same on the state s' to which the instruction's own effect has brought the machine before the trap, where the strand is as
it was. -/
def TrapsAt (i : Instr) (s : State) (t : Strand) (s' : State) (cause : Nat) (tval : Word64) : Prop :=
  s'.me = some t → exec i s = .next (s'.trapMe (t.countWatch (s.watchStep t)) cause tval)

/-- No other strand of the core of t has a store in its buffer, so that no access of t to the core's pool goes after one (R12). -/
def Alone (s : State) (t : Strand) : Prop := ∀ p ∈ s.strands, p.1 ≠ s.cur → p.2.core ≠ t.core ∨ p.2.buf = []

/-- Instruction i does not retire: the strand stays at it, in state s'. -/
def Holds (i : Instr) (s : State) (s' : State) : Prop := exec i s = .next s'

end Sys2Proof.Machine
end

