-- ==== Sys2Proof/Certificates/Slice0/Obligations.lean ====
section
/-!
DEFINITION. The statements of this row for the provers, each from the numbered rules that its entry of OBLIGATIONS.json cites.
-/

open Sys2Proof Sys2Proof.Machine

/-- For every state with a ready strand and every d, a, b: add, sub, and, or, xor, slt, sltz and the five shifts and rotates answer
a next state in which g[d] holds the 64-bit result that the table gives (a shift or rotate by g[b] mod 64), the PC has advanced
by 4 and nothing else has changed; with d = g0 nothing is written. The second part says what these equations mean: writing g[d]
changes that register alone, g0 reads 0 and discards writes, and a retired register write leaves every byte of memory, every
other strand, core, quad, partition and packet as it was. Completes: add, sub, and, or, xor, slt, sltz, sll, srl, sra, rol,
ror. (R92, R6, 05_ref_scalar.md) -/
def Obligations.IntegerArithmeticCompletes : Prop :=
  (∀ (t : Strand) (d : BitVec 5) (x : Word64), t.g 0#5 = 0#64 ∧ t.setG 0#5 x = t ∧ (d ≠ 0#5 → (t.setG d x).g d = x) ∧
    (∀ r, r ≠ d → (t.setG d x).g r = t.g r) ∧
    (∀ r, (t.setG d x).v r = t.v r) ∧ (∀ r, (t.setG d x).k r = t.k r) ∧ (∀ r, (t.setG d x).h r = t.h r) ∧
    (∀ r, (t.setG d x).b r = t.b r) ∧ (∀ r, (t.setG d x).w r = t.w r) ∧
    { t.setG d x with regs := t.regs } = t) ∧
  (∀ (s : State) (t x : Strand), let s' := s.after t (s.putMe x)
    s'.me = some ((x.retire (t.pc + 4)).countWatch (s.watchStep t)) ∧ (∀ u, u ≠ s.cur → s'.strand? u = s.strand? u) ∧
    { s' with strands := s.strands } = s ∧ ((x.retire (t.pc + 4)).countWatch (s.watchStep t)).pc = t.pc + 4 ∧
    ((x.retire (t.pc + 4)).countWatch (s.watchStep t)).regs = x.regs ∧ ((x.retire (t.pc + 4)).countWatch (s.watchStep t)).sys = x.sys ∧
    ((x.retire (t.pc + 4)).countWatch (s.watchStep t)).buf = x.buf) ∧
  ∀ (s : State) (t : Strand) (d a b : BitVec 5), Ready s t →
    Writes (.add d a b) s t d (t.g a + t.g b) ∧
    Writes (.sub d a b) s t d (t.g a - t.g b) ∧
    Writes (.and d a b) s t d (t.g a &&& t.g b) ∧
    Writes (.or d a b) s t d (t.g a ||| t.g b) ∧
    Writes (.xor d a b) s t d (t.g a ^^^ t.g b) ∧
    Writes (.slt d a b) s t d (if (t.g a).toInt < (t.g b).toInt then 1#64 else 0#64) ∧
    Writes (.sltz d a b) s t d (if (t.g a).toNat < (t.g b).toNat then 1#64 else 0#64) ∧
    Writes (.sll d a b) s t d (t.g a <<< ((t.g b).toNat % 64)) ∧
    Writes (.srl d a b) s t d (t.g a >>> ((t.g b).toNat % 64)) ∧
    Writes (.sra d a b) s t d ((t.g a).sshiftRight ((t.g b).toNat % 64)) ∧
    Writes (.rol d a b) s t d ((t.g a).rotateLeft ((t.g b).toNat % 64)) ∧
    Writes (.ror d a b) s t d ((t.g a).rotateRight ((t.g b).toNat % 64))

/-- For every state with a ready strand and every d, a, b: the fourteen .s32 and .z32 forms answer a next state in which g[d] holds
the operation on bits [31:0] of both operands, a shift or rotate by g[b] mod 32, sign-extended for .s32 and zero-extended for
.z32; nothing else changes but the PC, which advances by 4. Completes: addS32, addZ32, subS32, subZ32, sllS32, sllZ32, srlS32,
srlZ32, sraS32, sraZ32, rolS32, rolZ32, rorS32, rorZ32. (R92, R6, 05_ref_scalar.md) -/
def Obligations.Integer32BitFormsComplete : Prop :=
  ∀ (s : State) (t : Strand) (d a b : BitVec 5), Ready s t →
    let x : BitVec 32 := (t.g a).setWidth 32
    let y : BitVec 32 := (t.g b).setWidth 32
    let n := (t.g b).toNat % 32
    Writes (.addS32 d a b) s t d ((x + y).signExtend 64) ∧ Writes (.addZ32 d a b) s t d ((x + y).setWidth 64) ∧
    Writes (.subS32 d a b) s t d ((x - y).signExtend 64) ∧ Writes (.subZ32 d a b) s t d ((x - y).setWidth 64) ∧
    Writes (.sllS32 d a b) s t d ((x <<< n).signExtend 64) ∧ Writes (.sllZ32 d a b) s t d ((x <<< n).setWidth 64) ∧
    Writes (.srlS32 d a b) s t d ((x >>> n).signExtend 64) ∧ Writes (.srlZ32 d a b) s t d ((x >>> n).setWidth 64) ∧
    Writes (.sraS32 d a b) s t d ((x.sshiftRight n).signExtend 64) ∧
    Writes (.sraZ32 d a b) s t d ((x.sshiftRight n).setWidth 64) ∧
    Writes (.rolS32 d a b) s t d ((x.rotateLeft n).signExtend 64) ∧
    Writes (.rolZ32 d a b) s t d ((x.rotateLeft n).setWidth 64) ∧
    Writes (.rorS32 d a b) s t d ((x.rotateRight n).signExtend 64) ∧
    Writes (.rorZ32 d a b) s t d ((x.rotateRight n).setWidth 64)

/-- For every state with a ready strand: the six immediate operations (imm16 sign-extended in addi, slti, sltiz, zero-extended in
andi, ori, xori), the four immediate shifts with their .s32 and .z32 forms and LIH answer a next state in which g[d] holds the
result the rule gives; nothing else changes but the PC, which advances by 4. Completes: addi, andi, ori, xori, slti, sltiz,
slli, srli, srai, rori, slliS32, slliZ32, srliS32, srliZ32, sraiS32, sraiZ32, roriS32, roriZ32, lih. (R93, R94, R95,
05_ref_scalar.md) -/
def Obligations.ImmediatesComplete : Prop :=
  ∀ (s : State) (t : Strand) (d a : BitVec 5) (i : BitVec 16) (h : BitVec 6) (h5 : BitVec 5), Ready s t →
    let x : BitVec 32 := (t.g a).setWidth 32
    Writes (.addi d a i) s t d (t.g a + i.signExtend 64) ∧
    Writes (.andi d a i) s t d (t.g a &&& i.setWidth 64) ∧
    Writes (.ori d a i) s t d (t.g a ||| i.setWidth 64) ∧
    Writes (.xori d a i) s t d (t.g a ^^^ i.setWidth 64) ∧
    Writes (.slti d a i) s t d (if (t.g a).toInt < i.toInt then 1#64 else 0#64) ∧
    Writes (.sltiz d a i) s t d (if (t.g a).toNat < (i.signExtend 64).toNat then 1#64 else 0#64) ∧
    Writes (.slli d a h) s t d (t.g a <<< h.toNat) ∧
    Writes (.srli d a h) s t d (t.g a >>> h.toNat) ∧
    Writes (.srai d a h) s t d ((t.g a).sshiftRight h.toNat) ∧
    Writes (.rori d a h) s t d ((t.g a).rotateRight h.toNat) ∧
    Writes (.slliS32 d a h5) s t d ((x <<< h5.toNat).signExtend 64) ∧
    Writes (.slliZ32 d a h5) s t d ((x <<< h5.toNat).setWidth 64) ∧
    Writes (.srliS32 d a h5) s t d ((x >>> h5.toNat).signExtend 64) ∧
    Writes (.srliZ32 d a h5) s t d ((x >>> h5.toNat).setWidth 64) ∧
    Writes (.sraiS32 d a h5) s t d ((x.sshiftRight h5.toNat).signExtend 64) ∧
    Writes (.sraiZ32 d a h5) s t d ((x.sshiftRight h5.toNat).setWidth 64) ∧
    Writes (.roriS32 d a h5) s t d ((x.rotateRight h5.toNat).signExtend 64) ∧
    Writes (.roriZ32 d a h5) s t d ((x.rotateRight h5.toNat).setWidth 64) ∧
    Writes (.lih d a i) s t d ((t.g a <<< 16) ||| i.setWidth 64)

/-- For every state with a ready strand and every d, a, b, each function of major 0x0C answers a next state: products formed
exactly with the bits shown kept, quotients truncating toward zero, remainders with the sign of the dividend; a zero divisor
gives a quotient of all ones in the width of the operation and a remainder equal to the dividend, extended as the suffix gives,
and the most negative dividend by -1 gives itself and remainder 0; mad and msb read the old g[d]. Completes: mul, mulhiS64,
mulhiZ64, mulhm, quoS64, quoZ64, rmdS64, rmdZ64, mulS32, mulZ32, quoS32, quoZ32, rmdS32, rmdZ32, mad, msb. (R98) -/
def Obligations.MultiplyDivideComplete : Prop :=
  ∀ (s : State) (t : Strand) (d a b : BitVec 5), Ready s t →
    let x := t.g a
    let y := t.g b
    let x3 : BitVec 32 := x.setWidth 32
    let y3 : BitVec 32 := y.setWidth 32
    Writes (.mul d a b) s t d (x * y) ∧
    Writes (.mulhiS64 d a b) s t d (BitVec.ofInt 64 (x.toInt * y.toInt / 2 ^ 64)) ∧
    Writes (.mulhiZ64 d a b) s t d (BitVec.ofNat 64 (x.toNat * y.toNat / 2 ^ 64)) ∧
    Writes (.mulhm d a b) s t d (BitVec.ofInt 64 (x.toInt * y.toNat / 2 ^ 64)) ∧
    Writes (.quoS64 d a b) s t d (if y = 0#64 then BitVec.allOnes 64 else BitVec.ofInt 64 (x.toInt.tdiv y.toInt)) ∧
    Writes (.quoZ64 d a b) s t d (if y = 0#64 then BitVec.allOnes 64 else BitVec.ofNat 64 (x.toNat / y.toNat)) ∧
    Writes (.rmdS64 d a b) s t d (if y = 0#64 then x else BitVec.ofInt 64 (x.toInt.tmod y.toInt)) ∧
    Writes (.rmdZ64 d a b) s t d (if y = 0#64 then x else BitVec.ofNat 64 (x.toNat % y.toNat)) ∧
    Writes (.mulS32 d a b) s t d ((x3 * y3).signExtend 64) ∧
    Writes (.mulZ32 d a b) s t d ((x3 * y3).setWidth 64) ∧
    Writes (.quoS32 d a b) s t d
      (if y3 = 0#32 then BitVec.allOnes 64 else (BitVec.ofInt 32 (x3.toInt.tdiv y3.toInt)).signExtend 64) ∧
    Writes (.quoZ32 d a b) s t d (if y3 = 0#32 then 0xffffffff#64 else BitVec.ofNat 64 (x3.toNat / y3.toNat)) ∧
    Writes (.rmdS32 d a b) s t d
      (if y3 = 0#32 then x3.signExtend 64 else (BitVec.ofInt 32 (x3.toInt.tmod y3.toInt)).signExtend 64) ∧
    Writes (.rmdZ32 d a b) s t d (if y3 = 0#32 then x3.setWidth 64 else BitVec.ofNat 64 (x3.toNat % y3.toNat)) ∧
    Writes (.mad d a b) s t d (t.g d + x * y) ∧
    Writes (.msb d a b) s t d (t.g d - x * y) ∧
    (x = 0x8000000000000000#64 → y = BitVec.allOnes 64 →
      Writes (.quoS64 d a b) s t d 0x8000000000000000#64 ∧ Writes (.rmdS64 d a b) s t d 0#64) ∧
    (x3 = 0x80000000#32 → y3 = BitVec.allOnes 32 →
      Writes (.quoS32 d a b) s t d 0xffffffff80000000#64 ∧ Writes (.rmdS32 d a b) s t d 0#64)

/-- For every state with a ready strand: lzc, tzc and ones write the counts (64 for a zero operand), bswap and bitrev the bytes and
bits in reverse order, the minima and maxima and sel the operand the row names, andnot, ornot, xnor and the extensions their
bits; g[d] alone changes, and the PC advances by 4. Completes: lzc, tzc, ones, bswap, bitrev, minS64, maxS64, minZ64, maxZ64,
andnot, ornot, sel, extS8, extS16, extS32, extZ32, extZ8, extZ16, xnor. (R99, 05_ref_scalar.md) -/
def Obligations.BitAndSelectFunctionsComplete : Prop :=
  ∀ (s : State) (t : Strand) (d a b c : BitVec 5), Ready s t →
    let x := t.g a
    let y := t.g b
    (∃ n : Nat, Writes (.lzc d a) s t d (BitVec.ofNat 64 n) ∧ n ≤ 64 ∧ (∀ j < 64, 64 - n ≤ j → x.getLsbD j = false) ∧
      (n < 64 → x.getLsbD (63 - n) = true)) ∧
    (∃ n : Nat, Writes (.tzc d a) s t d (BitVec.ofNat 64 n) ∧ n ≤ 64 ∧ (∀ j < n, x.getLsbD j = false) ∧
      (n < 64 → x.getLsbD n = true)) ∧
    Writes (.ones d a) s t d (BitVec.ofNat 64 ((List.range 64).countP fun j => x.getLsbD j)) ∧
    (∃ z : Word64, Writes (.bswap d a) s t d z ∧
      ∀ k < 8, z.extractLsb' (8 * k) 8 = x.extractLsb' (8 * (7 - k)) 8) ∧
    (∃ z : Word64, Writes (.bitrev d a) s t d z ∧ ∀ k < 64, z.getLsbD k = x.getLsbD (63 - k)) ∧
    Writes (.minS64 d a b) s t d (if x.toInt ≤ y.toInt then x else y) ∧
    Writes (.maxS64 d a b) s t d (if x.toInt ≥ y.toInt then x else y) ∧
    Writes (.minZ64 d a b) s t d (if x.toNat ≤ y.toNat then x else y) ∧
    Writes (.maxZ64 d a b) s t d (if x.toNat ≥ y.toNat then x else y) ∧
    Writes (.andnot d a b) s t d (x &&& ~~~y) ∧ Writes (.ornot d a b) s t d (x ||| ~~~y) ∧
    Writes (.xnor d a b) s t d (~~~(x ^^^ y)) ∧
    Writes (.sel d a b c) s t d (if t.g c ≠ 0#64 then x else y) ∧
    Writes (.extS8 d a) s t d ((x.setWidth 8).signExtend 64) ∧ Writes (.extS16 d a) s t d ((x.setWidth 16).signExtend 64) ∧
    Writes (.extS32 d a) s t d ((x.setWidth 32).signExtend 64) ∧ Writes (.extZ32 d a) s t d ((x.setWidth 32).setWidth 64) ∧
    Writes (.extZ8 d a) s t d ((x.setWidth 8).setWidth 64) ∧ Writes (.extZ16 d a) s t d ((x.setWidth 16).setWidth 64)

/-- For every state with a ready strand, with L, e, A the parts of g[a], H the highest level for e, Size(M) = 2^(e+2M): when the
reference checks pass, ptrunc, pparent, pchild, psib, pdig and psdig write the row's value when the row's limit holds and trap
0x07 with g[a] when it is broken, pnext traps 0x05 with A when A + Size(L) reaches 2^56; pin compares two checked references;
pmake checks the upper bits of g[a] and the word it builds; plevel, pesz, pbase, ppack, prow and pcol need no check. Completes:
ptrunc, pparent, pchild, psib, pnext, pdig, psdig, pin, plevel, pesz, pbase, pmake, ppack, prow, pcol. (R101, R102) -/
def Obligations.PathInstructionsComplete : Prop :=
  ∀ (s : State) (t : Strand) (d a b : BitVec 5), Ready s t →
    let x := t.g a
    let y := t.g b
    let L := x.toNat / 2 ^ 58
    let e := x.toNat / 2 ^ 56 % 4
    let A := x.toNat % 2 ^ 56
    let H := if e = 0 then 28 else if e = 3 then 26 else 27
    let Z : Nat → Nat := fun M => 2 ^ (e + 2 * M)
    let R : Nat → Nat → Word64 := fun M adr => BitVec.ofNat 64 (M * 2 ^ 58 + e * 2 ^ 56 + adr)
    let q := y.toNat % 4
    (L ≤ H → A % Z L = 0 →
      (let M := y.toNat
       if L ≤ M ∧ M ≤ H then Writes (.ptrunc d a b) s t d (R M (A / Z M * Z M)) else Traps (.ptrunc d a b) s t 0x07 x) ∧
      (if L + 1 ≤ H then Writes (.pparent d a) s t d (R (L + 1) (A / Z (L + 1) * Z (L + 1))) else Traps (.pparent d a) s t 0x07 x) ∧
      (if 1 ≤ L then Writes (.pchild d a b) s t d (R (L - 1) (A + q * Z (L - 1))) else Traps (.pchild d a b) s t 0x07 x) ∧
      (if L + 1 ≤ H then Writes (.psib d a b) s t d (R L (A / Z (L + 1) * Z (L + 1) + q * Z L)) else Traps (.psib d a b) s t 0x07 x) ∧
      (if A + Z L < 2 ^ 56 then Writes (.pnext d a) s t d (R L (A + Z L)) else Traps (.pnext d a) s t 0x05 (BitVec.ofNat 64 A)) ∧
      (let j := y.toNat
       if 1 ≤ j ∧ j ≤ H then Writes (.pdig d a b) s t d (BitVec.ofNat 64 (A / 2 ^ (e + 2 * j - 2) % 4))
       else Traps (.pdig d a b) s t 0x07 x) ∧
      (let j := y.toNat % 64
       let p := 2 ^ (e + 2 * j - 2)
       if L < j ∧ j ≤ H then Writes (.psdig d a b) s t d (R L (A - A / p % 4 * p + y.toNat / 256 % 4 * p))
       else Traps (.psdig d a b) s t 0x07 x) ∧
      (refCheck y = none →
        Writes (.pin d a b) s t d (if A ≤ refAddr y ∧ refAddr y + blockBytes y ≤ A + Z L then 1#64 else 0#64)) ∧
      (∀ p, refCheck y = some p → Traps (.pin d a b) s t p.1 p.2)) ∧
    (∀ p, refCheck x = some p →
      Traps (.ptrunc d a b) s t p.1 p.2 ∧ Traps (.pparent d a) s t p.1 p.2 ∧ Traps (.pchild d a b) s t p.1 p.2 ∧
      Traps (.psib d a b) s t p.1 p.2 ∧ Traps (.pnext d a) s t p.1 p.2 ∧ Traps (.pdig d a b) s t p.1 p.2 ∧
      Traps (.psdig d a b) s t p.1 p.2 ∧ Traps (.pin d a b) s t p.1 p.2) ∧
    Writes (.plevel d a) s t d (BitVec.ofNat 64 L) ∧ Writes (.pesz d a) s t d (BitVec.ofNat 64 e) ∧
    Writes (.pbase d a) s t d (BitVec.ofNat 64 A) ∧
    (let w := BitVec.ofNat 64 (y.toNat % 64 * 2 ^ 58 + y.toNat / 64 % 4 * 2 ^ 56 + A)
     if x.toNat / 2 ^ 56 ≠ 0 then Traps (.pmake d a b) s t 0x04 x
     else match refCheck w with
       | none => Writes (.pmake d a b) s t d w
       | some p => Traps (.pmake d a b) s t p.1 p.2) ∧
    (∃ z : Word64, Writes (.ppack d a b) s t d z ∧ (∀ j < 28, z.getLsbD (2 * j + 1) = x.getLsbD j ∧ z.getLsbD (2 * j) = y.getLsbD j) ∧
      z.toNat < 2 ^ 56) ∧
    (∃ z : Word64, Writes (.prow d a) s t d z ∧ (∀ j < 28, z.getLsbD j = x.getLsbD (2 * j + 1)) ∧ z.toNat < 2 ^ 28) ∧
    (∃ z : Word64, Writes (.pcol d a) s t d z ∧ (∀ j < 28, z.getLsbD j = x.getLsbD (2 * j)) ∧ z.toNat < 2 ^ 28)

/-- For every state with a ready strand outside a code image: a branch whose target is a legal PC goes to PC + 4 * SExt(imm16) when
its condition holds, else to PC + 4, and changes nothing else; a taken branch to an illegal PC traps 0x05; JAL and JALR write
PC + 4 to g[d] and jump; JALR checks the upper bits of g[a], the range and the alignment of the target in that order; PCREL
writes PC + imm16 * 65536 when it lies in the address space and traps 0x05 otherwise. Completes: pcrel, beq, bne, blt, bge,
bltu, bgeu, jal, jalr. (R104, R106, R96) -/
def Obligations.BranchesAndJumpsComplete : Prop :=
  ∀ (s : State) (t : Strand) (d a b : BitVec 5) (i : BitVec 16) (o : BitVec 21), Ready s t → Plain t →
    let x := t.g a
    let y := t.g b
    let tgt : Int := (t.pc : Int) + 4 * i.toInt
    let ok : Int → Prop := fun z => 0 ≤ z ∧ z ≤ 2 ^ 56 - 4
    let br : Instr → Prop → Prop := fun ins c =>
      (c → ok tgt → exec ins s = .next (s.afterAt t tgt.toNat s)) ∧
      (c → ¬ok tgt → Traps ins s t 0x05 (BitVec.ofNat 64 t.pc)) ∧
      (¬c → Completes ins s t s)
    br (.beq a b i) (x = y) ∧ br (.bne a b i) (x ≠ y) ∧ br (.blt a b i) (x.toInt < y.toInt) ∧
    br (.bge a b i) (x.toInt ≥ y.toInt) ∧ br (.bltu a b i) (x.toNat < y.toNat) ∧ br (.bgeu a b i) (x.toNat ≥ y.toNat) ∧
    (let z : Int := (t.pc : Int) + 4 * o.toInt
     let link := s.putMe (t.setG d (BitVec.ofNat 64 (t.pc + 4)))
     (ok z → exec (.jal d o) s = .next (s.afterAt t z.toNat link)) ∧
     (¬ok z → Traps (.jal d o) s t 0x05 (BitVec.ofNat 64 t.pc))) ∧
    (let z : Int := (x.toNat : Int) + i.toInt
     let link := s.putMe (t.setG d (BitVec.ofNat 64 (t.pc + 4)))
     (2 ^ 56 ≤ x.toNat → Traps (.jalr d a i) s t 0x04 x) ∧
     (x.toNat < 2 ^ 56 → ¬ok z → Traps (.jalr d a i) s t 0x05 (BitVec.ofNat 64 t.pc)) ∧
     (x.toNat < 2 ^ 56 → ok z → z % 4 ≠ 0 → Traps (.jalr d a i) s t 0x03 (BitVec.ofInt 64 z)) ∧
     (x.toNat < 2 ^ 56 → ok z → z % 4 = 0 → exec (.jalr d a i) s = .next (s.afterAt t z.toNat link))) ∧
    (let z : Int := (t.pc : Int) + i.toInt * 65536
     (0 ≤ z → z < 2 ^ 56 → Writes (.pcrel d i) s t d (BitVec.ofInt 64 z)) ∧
     (z < 0 ∨ 2 ^ 56 ≤ z → Traps (.pcrel d i) s t 0x05 (BitVec.ofNat 64 t.pc)))

/-- For a ready strand: SLEEPUNTIL traps 0x01 in a handler or task, completes at once when g[a] has been reached and else parks the
strand at its instruction with nothing else changed; YIELD completes and its slot is passed over in the 3 cycles that follow;
EXIT, and HRET in a handler, answer the state in which the activation has ended (State.endStrand: its declarations broken, the
strand gone from its slot, its message counted as consumed with the last strand of a gang), when the strand's stores are
performed, its vector and matrix instructions complete, no barrier register of it is bound and no arrival or withdrawal of it
is under way; with the first two alone they withdraw the bound registers first, and from then on nothing interrupts the end;
otherwise they leave the strand as it is. HRET elsewhere traps 0x01. Completes: sleepuntil, yield, exit, hret. (R107, R108,
R109, R182, R46) -/
def Obligations.WaitsYieldAndEndComplete : Prop :=
  ∀ (s : State) (t : Strand) (a : BitVec 5), Ready s t →
    let idle : Prop := t.buf = [] ∧ t.vflags = [] ∧ ∀ o ∈ (s.quad (quadOf t.core)).ops, o.uid ≠ s.cur
    let unbound : Prop := ∀ i : BitVec 2, bitAt (t.b i) 63 = false ∨ bitAt (t.b i) 57 = true
    (Plain t → t.kind = .handler ∨ t.kind = .task → Traps (.sleepuntil a) s t 0x01 s.wordTval) ∧
    (Plain t → t.kind = .resident ∨ t.kind = .gang → (t.g a).toNat ≤ s.cyc → exec (.sleepuntil a) s = .next (s.after t s)) ∧
    (Plain t → t.kind = .resident ∨ t.kind = .gang → s.cyc < (t.g a).toNat →
      Holds (.sleepuntil a) s (s.putMe { t with run := .waiting (.sleep (t.g a).toNat), since := s.tick })) ∧
    (Plain t → exec .yield s =
      .next (s.after t (s.putCore t.core { s.core t.core with
        yields := FMap.set (s.core t.core).yields (t.slot.getD 0) (s.cyc + 4) }))) ∧
    (idle → unbound → s.barrierTraffic s.cur = false →
      exec .exit s = .next (s.endStrand s.cur t) ∧ (t.kind = .handler → exec .hret s = .next (s.endStrand s.cur t))) ∧
    (idle → ¬unbound → let s' := (s.leaveAll s.cur t).modStrand s.cur fun t => { t with doom := some (doomExit, 0#64) }
      Holds .exit s s' ∧ (t.kind = .handler → Holds .hret s s')) ∧
    (idle → unbound → s.barrierTraffic s.cur = true → Holds .exit s s ∧ (t.kind = .handler → Holds .hret s s)) ∧
    (¬idle → Holds .exit s s ∧ (t.kind = .handler → Holds .hret s s)) ∧
    (t.kind ≠ .handler → Traps .hret s t 0x01 s.wordTval)

/-- For every state with a ready strand and each of the seven loads with its n and its extension: a base with bits above 55 traps
0x04 with the base; an address outside the address space traps 0x05; a misaligned one 0x03; one that the weirs refuse 0x08 with
the lowest refused byte; an access whose answer is not there parks the strand; a refused translation traps 0x09; a request that
was given up 0x0B. With the access granted at target tg, a load inside one buffered store takes its bytes from it, or traps
0x0B where they will lie in a poisoned granule; one that overlaps stores otherwise leaves the strand as it is, a dry page gives
zero, and any other load, with the older stores to the same banks of its own pool performed first, traps 0x0B at a poisoned
granule or where its request is lost, waits for its line, or writes the extended little-endian value of the bytes read; nothing
else changes but the PC and what those stores, the translation and the read themselves change. Completes: ldB, ldH, ldW, ldD,
ldBz, ldHz, ldWz. (R25, R117) -/
def Obligations.ScalarLoadsComplete : Prop :=
  ∀ (s : State) (t : Strand) (d a : BitVec 5) (i : BitVec 16), Ready s t →
    ∀ p ∈ ([(.ldB d a i, 1, fun x => (BitVec.ofNat 8 x).signExtend 64), (.ldH d a i, 2, fun x => (BitVec.ofNat 16 x).signExtend 64),
        (.ldW d a i, 4, fun x => (BitVec.ofNat 32 x).signExtend 64), (.ldD d a i, 8, fun x => BitVec.ofNat 64 x),
        (.ldBz d a i, 1, fun x => BitVec.ofNat 64 x), (.ldHz d a i, 2, fun x => BitVec.ofNat 64 x),
        (.ldWz d a i, 4, fun x => BitVec.ofNat 64 x)] : List (Instr × Nat × (Nat → Word64))),
    let ins := p.1
    let n := p.2.1
    let ext := p.2.2
    let base := t.g a
    let z : Int := (base.toNat : Int) + i.toInt
    (2 ^ 56 ≤ base.toNat → Traps ins s t 0x04 base) ∧
    (base.toNat < 2 ^ 56 → z < 0 ∨ 2 ^ 56 < z + n → Traps ins s t 0x05 (BitVec.ofInt 64 z)) ∧
    ∀ ea : Nat, base.toNat < 2 ^ 56 → z = ea → ea + n ≤ 2 ^ 56 →
      (ea % n ≠ 0 → Traps ins s t 0x03 (BitVec.ofNat 64 ea)) ∧
      (ea % n = 0 → ∀ b, weirRefuses t.weirs ea n 2 = some b → Traps ins s t 0x08 (BitVec.ofNat 64 b)) ∧
      (ea % n = 0 → weirRefuses t.weirs ea n 2 = none →
        (s.answeredAt t ea false = false → Holds ins s (s.parkMe t .answer)) ∧
        (s.answeredAt t ea false = true →
          (∀ s', resolve s t.vf t.mode (dieOf t.core) ea .read = .refused s' → s'.me = some t →
            exec ins s = .next (s'.trapMe (t.countWatch (s.watchStep t)) 0x09 (BitVec.ofNat 64 ea))) ∧
          (∀ s' tg, resolve s t.vf t.mode (dieOf t.core) ea .read = .ok s' tg →
            (tg = .dry → Completes ins s t (s'.putMe (t.setG d (ext 0)))) ∧
            (tg ≠ .dry → t.timeout = true → Traps ins s t 0x0B (BitVec.ofNat 64 ea)) ∧
            (tg ≠ .dry → t.timeout = false →
              (∀ bs, t.forward ea n = some (some bs) → s'.forwardPoison t ea n tg = false →
                Completes ins s t (s'.putMe (t.setG d (ext (leNat bs))))) ∧
              (∀ bs, t.forward ea n = some (some bs) → s'.forwardPoison t ea n tg = true → Traps ins s t 0x0B (BitVec.ofNat 64 ea)) ∧
              (t.forward ea n = some none → Holds ins s s') ∧
              (t.forward ea n = none → (s'.ownPool t tg n).loadBytes t ea tg n = .poison → Traps ins s t 0x0B (BitVec.ofNat 64 ea)) ∧
              (t.forward ea n = none → (s'.ownPool t tg n).loadBytes t ea tg n = .lost →
                TrapsAt ins s t ((s'.ownPool t tg n).readLost t tg) 0x0B (BitVec.ofNat 64 ea)) ∧
              (t.forward ea n = none → ∀ s'' w, (s'.ownPool t tg n).loadBytes t ea tg n = .wait s'' w → Holds ins s (s''.parkMe t w)) ∧
              (t.forward ea n = none → ∀ s'' bs, (s'.ownPool t tg n).loadBytes t ea tg n = .ok s'' bs →
                Completes ins s t (s''.putMe (t.setG d (ext (leNat bs)))))))))

/-- For every state with a ready strand and the seven loads: with an aligned effective address in the aperture that names a pool of
the partition, which no weir refuses, no buffered store overlaps and no poison touches, while no other strand of the core has a
store in its buffer, the load answers a next state in which g[d] holds the extended little-endian value of the n pool bytes at
that address; memory, every other register and every other unit are as before, and the PC has advanced by 4. (R110, R112, R117,
06_ref_memory.md) -/
def Obligations.PoolLoadsReadPoolBytes : Prop :=
  ∀ (s : State) (t : Strand) (d a : BitVec 5) (i : BitVec 16), Ready s t → Alone s t →
    ∀ p ∈ ([(.ldB d a i, 1, fun x => (BitVec.ofNat 8 x).signExtend 64), (.ldH d a i, 2, fun x => (BitVec.ofNat 16 x).signExtend 64),
        (.ldW d a i, 4, fun x => (BitVec.ofNat 32 x).signExtend 64), (.ldD d a i, 8, fun x => BitVec.ofNat 64 x),
        (.ldBz d a i, 1, fun x => BitVec.ofNat 64 x), (.ldHz d a i, 2, fun x => BitVec.ofNat 64 x),
        (.ldWz d a i, 4, fun x => BitVec.ofNat 64 x)] : List (Instr × Nat × (Nat → Word64))),
    ∀ ea : Nat, (t.g a).toNat < 2 ^ 56 → ((t.g a).toNat : Int) + i.toInt = ea → ea + p.2.1 ≤ 2 ^ 56 → ea % p.2.1 = 0 →
      2 ^ 56 - 2 ^ 27 ≤ ea → s.coreIn t.vf (1024 * dieOf t.core + ea / 2 ^ 17 % 1024) = true →
      weirRefuses t.weirs ea p.2.1 2 = none → t.timeout = false → t.forward ea p.2.1 = none →
      let key := (Target.pool (1024 * dieOf t.core + ea / 2 ^ 17 % 1024) (ea % 2 ^ 17)).key
      s.poisoned key p.2.1 = false →
      Writes p.1 s t d (p.2.2 (leNat (Memory.bytes s.mem key p.2.1)))

/-- For every state with a ready strand and each of the four stores: the traps of the checks come in the order of a load, with
write rights asked of the weirs; with the access granted, a dry page counts the n bytes in DRYCNT, a full buffer leaves the
strand as it is, and otherwise the store buffer of the strand gains one entry at its end with the address and the low n bytes
of g[b], little-endian; no byte of memory is written by the store itself. A store whose request was lost is reported so, and
enters the buffer only where a free value says that it was performed, at a place that can be reached (log 12). Completes: stB,
stH, stW, stD. (R119) -/
def Obligations.ScalarStoresEnterTheBuffer : Prop :=
  ∀ (s : State) (t : Strand) (b a : BitVec 5) (i : BitVec 16), Ready s t →
    ∀ p ∈ ([(.stB b a i, 1), (.stH b a i, 2), (.stW b a i, 4), (.stD b a i, 8)] : List (Instr × Nat)),
    let ins := p.1
    let n := p.2
    let base := t.g a
    let z : Int := (base.toNat : Int) + i.toInt
    (2 ^ 56 ≤ base.toNat → Traps ins s t 0x04 base) ∧
    (base.toNat < 2 ^ 56 → z < 0 ∨ 2 ^ 56 < z + n → Traps ins s t 0x05 (BitVec.ofInt 64 z)) ∧
    ∀ ea : Nat, base.toNat < 2 ^ 56 → z = ea → ea + n ≤ 2 ^ 56 →
      (ea % n ≠ 0 → Traps ins s t 0x03 (BitVec.ofNat 64 ea)) ∧
      (ea % n = 0 → ∀ x, weirRefuses t.weirs ea n 3 = some x → Traps ins s t 0x08 (BitVec.ofNat 64 x)) ∧
      (ea % n = 0 → weirRefuses t.weirs ea n 3 = none →
        (s.answeredAt t ea true = false → Holds ins s (s.parkMe t .answer)) ∧
        (s.answeredAt t ea true = true →
          (∀ s', resolve s t.vf t.mode (dieOf t.core) ea .write = .refused s' → s'.me = some t →
            exec ins s = .next (s'.trapMe (t.countWatch (s.watchStep t)) 0x09 (BitVec.ofNat 64 ea))) ∧
          (∀ s' tg, resolve s t.vf t.mode (dieOf t.core) ea .write = .ok s' tg →
            (tg = .dry → Completes ins s t (s'.dryBytes t.vf n)) ∧
            let entry := { t with buf := t.buf ++ [⟨s'.tick, ea, tg, [(0, leBytes n (t.g b).toNat)]⟩] }
            let gone : Prop := t.timeout = true ∧ (Config.lostPerformed s'.tick = false ∨ s'.unanswered (quadOf t.core) t.vf tg true = true)
            (tg ≠ .dry → gone → Completes ins s t (s'.reportLost t ea tg)) ∧
            (tg ≠ .dry → ¬gone → 8 ≤ t.buf.length → Holds ins s s') ∧
            (tg ≠ .dry → ¬gone → t.buf.length < 8 → t.timeout = true → Completes ins s t ((s'.reportLost t ea tg).putMe entry)) ∧
            (tg ≠ .dry → t.buf.length < 8 → t.timeout = false → Completes ins s t (s'.putMe entry)))))

/-- For every state whose memory is canonical, every strand with a scalar store at the head of its buffer: when the target is a
pool, or a peer package whose table entry is not with the host, or local memory of another die while the L1s hold no line and
every block is in device bias, and the place can be reached, STORE_PERFORMED answers a next state in which the bytes of the
entry stand at its place, every byte outside them reads as before, and the strand is as before but for that entry, which has
left the buffer. Completes: storePerformed. (R114, R265, R368, 95_what_each_step_holds.md) -/
def Obligations.StorePerformedWritesItsBytes : Prop :=
  ∀ (s : State) (u : Nat) (t : Strand) (k0 va : Nat) (tg : Target) (bs : List Byte) (r : List Store),
    Memory.wf s.mem = true → s.strand? u = some t → t.buf = ⟨k0, va, tg, [(0, bs)]⟩ :: r →
    s.reachable (quadOf t.core) t.vf tg = true →
    (match tg with
      | .pool _ _ => True
      | .peer l _ => s.lptWait t.vf l = none
      | .loc pa => dieOfPa pa ≠ dieOf t.core ∧ s.l1 = [] ∧ s.host.flip = none ∧ s.host.hostBias = []
      | _ => False) →
    ∃ s', exec (.storePerformed u) s = .next s' ∧ s'.strand? u = some { t with buf := r } ∧
      ∀ k, Memory.read s'.mem k = if tg.key ≤ k ∧ k < tg.key + bs.length then bs.getD (k - tg.key) 0#8 else Memory.read s.mem k

/-- For every state with a ready strand, each operation and each accepted ordering and scope, with g[a] a legal aligned address and
the access granted: every atomic traps 0x0B when its request was given up, waits while a store is buffered and, with an empty
buffer, for the host at its place; on a dry page it counts the bytes and reads zero. At any other place, with the older stores
of the core's other strands to the same banks of its own pool performed first (log 66, the model's choice of banks), it traps
0x0B where its request is lost, and where its granule is poisoned (for amo.st one that it covers only in part); else it answers
a next state in which the place holds the row's new value (g[b] and, for cas, g[d] cut to the width) and g[d] the old value,
sign-extended from 32 bits for .w; amo.ld leaves memory and amo.st leaves g[d] as they were; an acquire at p or s advances the
quad's generation. At a place other than host memory the value read is the home's, and reading leaves memory as it is.
Completes: amoAddW, amoAddD, amoMinW, amoMinD, amoMaxW, amoMaxD, amoMinuW, amoMinuD, amoMaxuW, amoMaxuD, amoAndW, amoAndD,
amoOrW, amoOrD, amoXorW, amoXorD, amoSwapW, amoSwapD, amoCasW, amoCasD, amoFaddW, amoLdW, amoLdD, amoStW, amoStD. (R124, R125,
R111, R271, 06_ref_memory.md) -/
def Obligations.AtomicsCompleteInOneStep : Prop :=
  ∀ (s : State) (t : Strand) (d a b : BitVec 5) (o : MOrd) (sc : Scope), Ready s t →
    let q := quadOf t.core
    let comes (ins : Instr) (n ea : Nat) (s' : State) (tg : Target) (st : Bool) (zero : Strand) (done : State → Prop) : Prop :=
      (t.timeout = true → Traps ins s t 0x0B (BitVec.ofNat 64 ea)) ∧
      (t.timeout = false → t.buf ≠ [] → Holds ins s s') ∧
      (t.timeout = false → t.buf = [] → tg = .dry → Completes ins s t (((s'.dryBytes t.vf n).putMe zero).acquireAt q o sc)) ∧
      (t.timeout = false → t.buf = [] → tg ≠ .dry → ∀ w, s'.placeWait tg = some w → Holds ins s ((s'.askHost w true).parkMe t w)) ∧
      (t.timeout = false → t.buf = [] → tg ≠ .dry → s'.placeWait tg = none → let z := s'.ownPool t tg n
        (z.unanswered q t.vf tg true = true → TrapsAt ins s t (z.readLost t tg) 0x0B (BitVec.ofNat 64 ea)) ∧
        (z.unanswered q t.vf tg true = false → z.homePoison q t.vf ea tg n st = true → TrapsAt ins s t z 0x0B (BitVec.ofNat 64 ea)) ∧
        (z.unanswered q t.vf tg true = false → z.homePoison q t.vf ea tg n st = false → done z))
    (∀ p ∈ ([(.amoAddW d a b o sc, fun x y _ => x + y), (.amoMinW d a b o sc, fun x y _ => if x.toInt < y.toInt then x else y),
        (.amoMaxW d a b o sc, fun x y _ => if y.toInt < x.toInt then x else y),
        (.amoMinuW d a b o sc, fun x y _ => if x.toNat < y.toNat then x else y),
        (.amoMaxuW d a b o sc, fun x y _ => if y.toNat < x.toNat then x else y),
        (.amoAndW d a b o sc, fun x y _ => x &&& y), (.amoOrW d a b o sc, fun x y _ => x ||| y),
        (.amoXorW d a b o sc, fun x y _ => x ^^^ y), (.amoSwapW d a b o sc, fun _ y _ => y),
        (.amoCasW d a b o sc, fun x y z => if x = z then y else x),
        (.amoFaddW d a b o sc, fun x y _ => fadd32 x y)] : List (Instr × (BitVec 32 → BitVec 32 → BitVec 32 → BitVec 32))),
      ∀ ea s' tg, eaCheck (t.g a) 0 4 = .ok ea → s.scalarAccess t ea 4 .rmw 3 = .go s' tg →
        comes p.1 4 ea s' tg false (t.setG d 0#64) fun z => ∀ s'' bs, z.syncRead q t.vf ea tg 4 = .ok s'' bs →
          let old : BitVec 32 := BitVec.ofNat 32 (leNat bs)
          let new := leBytes 4 (p.2 old ((t.g b).setWidth 32) ((t.g d).setWidth 32)).toNat
          Completes p.1 s t (((s''.syncWrite q t.vf ea tg new).putMe (t.setG d (old.signExtend 64))).acquireAt q o sc)) ∧
    (∀ p ∈ ([(.amoAddD d a b o sc, fun x y _ => x + y), (.amoMinD d a b o sc, fun x y _ => if x.toInt < y.toInt then x else y),
        (.amoMaxD d a b o sc, fun x y _ => if y.toInt < x.toInt then x else y),
        (.amoMinuD d a b o sc, fun x y _ => if x.toNat < y.toNat then x else y),
        (.amoMaxuD d a b o sc, fun x y _ => if y.toNat < x.toNat then x else y),
        (.amoAndD d a b o sc, fun x y _ => x &&& y), (.amoOrD d a b o sc, fun x y _ => x ||| y),
        (.amoXorD d a b o sc, fun x y _ => x ^^^ y), (.amoSwapD d a b o sc, fun _ y _ => y),
        (.amoCasD d a b o sc, fun x y z => if x = z then y else x)] : List (Instr × (Word64 → Word64 → Word64 → Word64))),
      ∀ ea s' tg, eaCheck (t.g a) 0 8 = .ok ea → s.scalarAccess t ea 8 .rmw 3 = .go s' tg →
        comes p.1 8 ea s' tg false (t.setG d 0#64) fun z => ∀ s'' bs, z.syncRead q t.vf ea tg 8 = .ok s'' bs →
          let old : Word64 := BitVec.ofNat 64 (leNat bs)
          let new := leBytes 8 (p.2 old (t.g b) (t.g d)).toNat
          Completes p.1 s t (((s''.syncWrite q t.vf ea tg new).putMe (t.setG d old)).acquireAt q o sc)) ∧
    (∀ p ∈ ([(.amoLdW d a b o sc, 4, fun x => (BitVec.ofNat 32 x).signExtend 64), (.amoLdD d a b o sc, 8, fun x => BitVec.ofNat 64 x)] :
        List (Instr × Nat × (Nat → Word64))),
      ∀ ea s' tg, eaCheck (t.g a) 0 p.2.1 = .ok ea → s.scalarAccess t ea p.2.1 .sync 2 = .go s' tg →
        comes p.1 p.2.1 ea s' tg false (t.setG d (p.2.2 0)) fun z => ∀ s'' bs, z.syncRead q t.vf ea tg p.2.1 = .ok s'' bs →
          Completes p.1 s t ((s''.putMe (t.setG d (p.2.2 (leNat bs)))).acquireAt q o sc)) ∧
    (∀ p ∈ ([(.amoStW a b o sc, 4), (.amoStD a b o sc, 8)] : List (Instr × Nat)),
      ∀ ea s' tg, eaCheck (t.g a) 0 p.2 = .ok ea → s.scalarAccess t ea p.2 .rmw 3 = .go s' tg →
        comes p.1 p.2 ea s' tg true t fun z =>
          Completes p.1 s t (((z.partyWrite q t.vf ea tg (leBytes p.2 (t.g b).toNat)).putMe t).acquireAt q o sc)) ∧
    (∀ ea n tg, (∀ h, tg ≠ .host h) → s.readPoison t.vf ea tg n = false → s.cutOff q t.vf tg = false →
      ∃ s'', s.syncRead q t.vf ea tg n = .ok s'' (s.homeRead t.vf ea tg n) ∧ s''.mem = s.mem)

/-- For every state whose memory is canonical, with a ready strand whose buffer is empty, while no other strand of the core has a
store in its buffer: each atomic on an aligned aperture address of a pool of the partition, with no weir and no poison against
it, answers a next state in which the bytes there hold the row's new value (g[b] for amo.st, the old value for amo.ld), g[d]
holds the old value, sign-extended from 32 bits for .w (nothing when d is g0; amo.st writes no register), every byte outside
them reads as before, every other register and the store buffer of the strand are unchanged, and so is every other strand with
its buffer. (R124, R111, R110) -/
def Obligations.AtomicsOnPoolChangeTheirBytesOnly : Prop :=
  ∀ (s : State) (t : Strand) (d a b : BitVec 5) (o : MOrd) (sc : Scope), Ready s t → Alone s t → Memory.wf s.mem = true →
    t.buf = [] → t.timeout = false → ∀ ea : Nat, (t.g a).toNat = ea → 2 ^ 56 - 2 ^ 27 ≤ ea → ea < 2 ^ 56 →
      s.coreIn t.vf (1024 * dieOf t.core + ea / 2 ^ 17 % 1024) = true →
      let key := (Target.pool (1024 * dieOf t.core + ea / 2 ^ 17 % 1024) (ea % 2 ^ 17)).key
      let effect : Instr → Nat → Nat → Option Word64 → Prop := fun ins n new res =>
        ∃ s' t', exec ins s = .next s' ∧ s'.me = some t' ∧
          Memory.bytes s'.mem key n = leBytes n new ∧ (∀ k, k < key ∨ key + n ≤ k → Memory.read s'.mem k = Memory.read s.mem k) ∧
          (∀ r, t'.g r = if r ≠ 0#5 ∧ r = d then res.getD (t.g r) else t.g r) ∧ t'.regs.v = t.regs.v ∧ t'.regs.k = t.regs.k ∧
          t'.regs.h = t.regs.h ∧ t'.regs.b = t.regs.b ∧ t'.regs.w = t.regs.w ∧ t'.sys = t.sys ∧ t'.pc = t.pc + 4 ∧
          t'.buf = t.buf ∧ ∀ u, u ≠ s.cur → s'.strand? u = s.strand? u
      let old4 := BitVec.ofNat 32 (leNat (Memory.bytes s.mem key 4))
      let old8 := Memory.dword s.mem key
      (ea % 4 = 0 → s.poisoned key 4 = false →
        (weirRefuses t.weirs ea 4 3 = none →
          (∀ p ∈ ([(.amoAddW d a b o sc, fun x y _ => x + y), (.amoMinW d a b o sc, fun x y _ => if x.toInt < y.toInt then x else y),
        (.amoMaxW d a b o sc, fun x y _ => if y.toInt < x.toInt then x else y),
        (.amoMinuW d a b o sc, fun x y _ => if x.toNat < y.toNat then x else y),
        (.amoMaxuW d a b o sc, fun x y _ => if y.toNat < x.toNat then x else y),
        (.amoAndW d a b o sc, fun x y _ => x &&& y), (.amoOrW d a b o sc, fun x y _ => x ||| y),
        (.amoXorW d a b o sc, fun x y _ => x ^^^ y), (.amoSwapW d a b o sc, fun _ y _ => y),
        (.amoCasW d a b o sc, fun x y z => if x = z then y else x),
        (.amoFaddW d a b o sc, fun x y _ => fadd32 x y)] : List (Instr × (BitVec 32 → BitVec 32 → BitVec 32 → BitVec 32))),
            effect p.1 4 (p.2 old4 ((t.g b).setWidth 32) ((t.g d).setWidth 32)).toNat (some (old4.signExtend 64))) ∧
          effect (.amoStW a b o sc) 4 ((t.g b).setWidth 32).toNat none) ∧
        (weirRefuses t.weirs ea 4 2 = none → effect (.amoLdW d a b o sc) 4 old4.toNat (some (old4.signExtend 64)))) ∧
      (ea % 8 = 0 → s.poisoned key 8 = false →
        (weirRefuses t.weirs ea 8 3 = none →
          (∀ p ∈ ([(.amoAddD d a b o sc, fun x y _ => x + y), (.amoMinD d a b o sc, fun x y _ => if x.toInt < y.toInt then x else y),
        (.amoMaxD d a b o sc, fun x y _ => if y.toInt < x.toInt then x else y),
        (.amoMinuD d a b o sc, fun x y _ => if x.toNat < y.toNat then x else y),
        (.amoMaxuD d a b o sc, fun x y _ => if y.toNat < x.toNat then x else y),
        (.amoAndD d a b o sc, fun x y _ => x &&& y), (.amoOrD d a b o sc, fun x y _ => x ||| y),
        (.amoXorD d a b o sc, fun x y _ => x ^^^ y), (.amoSwapD d a b o sc, fun _ y _ => y),
        (.amoCasD d a b o sc, fun x y z => if x = z then y else x)] : List (Instr × (Word64 → Word64 → Word64 → Word64))),
            effect p.1 8 (p.2 old8 (t.g b) (t.g d)).toNat (some old8)) ∧
          effect (.amoStD a b o sc) 8 (t.g b).toNat none) ∧
        (weirRefuses t.weirs ea 8 2 = none → effect (.amoLdD d a b o sc) 8 old8.toNat (some old8)))

/-- For every state with a ready strand: a fence at scope d or wider, or a completion fence, leaves the strand as it is while a
store is buffered; otherwise it completes, and one that acquires at p or s advances the quad's generation. PROMOTE with its
access granted waits while a store is buffered; with an empty buffer and no wait for the host it traps 0x0B where its request
is lost and at a poisoned granule, and else writes the doubleword read (zero on a dry page, the eight pool bytes at an aperture
address while no other strand of the core has a store in its buffer) and acquires. wset checks its reference and sets the weir,
wclr turns it off, wref and wrt read it, wqry writes the least rights of the weirs that are on and overlap the block, 3 when
there are none, with bit 8 telling whether there are. The weir instructions and PROMOTE stand outside code images only.
Completes: fence, promote, wset, wclr, wref, wrt, wqry. (R127, R128, R129, R271, 06_ref_memory.md) -/
def Obligations.FencesPromoteAndWeirsComplete : Prop :=
  ∀ (s : State) (t : Strand) (d a b : BitVec 5) (w : BitVec 3) (o : MOrd) (sc : Scope), Ready s t →
    (2 ≤ scopeNum sc ∨ o = .rlx → t.buf ≠ [] → Holds (.fence o sc) s s) ∧
    (t.buf = [] ∨ (scopeNum sc < 2 ∧ o ≠ .rlx) →
      Completes (.fence o sc) s t (if o ≠ .rel ∧ 3 ≤ scopeNum sc then s.acquire (quadOf t.core) else s)) ∧
    (Plain t → ∀ ea s' tg, eaCheck (t.g a) 0 8 = .ok ea → s.scalarAccess t ea 8 .sync 2 = .go s' tg → t.timeout = false →
      (t.buf ≠ [] → Holds (.promote d a o sc) s s') ∧
      (t.buf = [] → tg = .dry →
        Completes (.promote d a o sc) s t (((s'.dryBytes t.vf 8).putMe (t.setG d 0#64)).acquireAt (quadOf t.core) o sc)) ∧
      (t.buf = [] → tg ≠ .dry → ∀ w, s'.placeWait tg = some w → Holds (.promote d a o sc) s ((s'.askHost w true).parkMe t w)) ∧
      (t.buf = [] → tg ≠ .dry → s'.placeWait tg = none → let q := quadOf t.core; let z := s'.ownPool t tg 8
        (z.unanswered q t.vf tg true = true → TrapsAt (.promote d a o sc) s t (z.readLost t tg) 0x0B (BitVec.ofNat 64 ea)) ∧
        (z.unanswered q t.vf tg true = false → z.homePoison q t.vf ea tg 8 false = true →
          TrapsAt (.promote d a o sc) s t z 0x0B (BitVec.ofNat 64 ea)) ∧
        (z.unanswered q t.vf tg true = false → z.homePoison q t.vf ea tg 8 false = false →
          ∀ s'' bs, z.syncRead q t.vf ea tg 8 = .ok s'' bs →
          Completes (.promote d a o sc) s t ((s''.putMe (t.setG d (BitVec.ofNat 64 (leNat bs)))).acquireAt q o sc)))) ∧
    (Plain t → Alone s t → ∀ ea : Nat, (t.g a).toNat = ea → ea % 8 = 0 → 2 ^ 56 - 2 ^ 27 ≤ ea → ea < 2 ^ 56 →
      s.coreIn t.vf (1024 * dieOf t.core + ea / 2 ^ 17 % 1024) = true → weirRefuses t.weirs ea 8 2 = none → t.buf = [] →
      t.timeout = false → let key := (Target.pool (1024 * dieOf t.core + ea / 2 ^ 17 % 1024) (ea % 2 ^ 17)).key
      s.poisoned key 8 = false → Completes (.promote d a o sc) s t
        ((s.putMe (t.setG d (Memory.dword s.mem key))).acquireAt (quadOf t.core) o sc)) ∧
    (Plain t →
      (∀ p, refCheck (t.g a) = some p → Traps (.wset w a b) s t p.1 p.2 ∧ Traps (.wqry d a) s t p.1 p.2) ∧
      (refCheck (t.g a) = none → Completes (.wset w a b) s t (s.putMe (t.setW w ⟨t.g a, (t.g b).setWidth 2⟩))) ∧
      Completes (.wclr w) s t (s.putMe (t.setW w ⟨0#64, 0#2⟩)) ∧
      Writes (.wref d w) s t d (t.w w).ref ∧ Writes (.wrt d w) s t d ((t.w w).rights.setWidth 64) ∧
      (refCheck (t.g a) = none → ∃ z : Nat, Writes (.wqry d a) s t d (BitVec.ofNat 64 z) ∧
        let hit : Weir → Prop := fun x => x ∈ t.regs.w.toList ∧ x.rights ≠ 0#2 ∧
          refAddr x.ref < refAddr (t.g a) + blockBytes (t.g a) ∧ refAddr (t.g a) < refAddr x.ref + blockBytes x.ref
        ((¬∃ x, hit x) → z = 3) ∧
        ((∃ x, hit x) → 256 < z ∧ (∃ x, hit x ∧ z = 256 + x.rights.toNat) ∧ ∀ x, hit x → z ≤ 256 + x.rights.toNat)))

/-- For every state with a ready strand outside a code image: a failing check of a block operation traps with its cause and nothing
is written; with every check passed, the granule at the resume point done and the block not ended, the strand stays at the
instruction with the resume point one granule further; with the last granule done the instruction retires. On blocks of at most
64 KiB in pools of the partition that no weir refuses and whose source no poison touches, while no other strand of the core has
a store in its buffer and memory is canonical, each of the five completes, no strand changed but the one that retires: bld
leaves the block's bytes in the own pool, bst the own pool's bytes in the block, bcopy the source's in the destination, bfill
the element value repeated over the block, bzero zeros, and every byte outside the destination reads as before. bpref has no
effect; bclean and bflush wait for the store buffer and for the host where a walk or a line's home must, and then write back
the copies of their block. Completes: bld, bst, bcopy, bfill, bzero, bpref, bclean, bflush. (R120, R121, R122, R35, R123,
06_ref_memory.md) -/
def Obligations.BlockOperationsComplete : Prop :=
  ∀ (s : State) (t : Strand) (d a : BitVec 5), Ready s t → Plain t →
    let x := t.g d
    let y := t.g a
    let pool (r : Word64) := poolVa t.core r.toNat
    (∀ p ∈ ([(.bld d a, .bld, y, y, x, ⟨pool x, refAddr y, blockBytes y, refE y, 0⟩), (.bst d a, .bst, x, x, y, ⟨refAddr x, pool y, blockBytes x, refE x, 0⟩),
        (.bcopy d a, .bcopy, x, y, 0#64, ⟨refAddr x, refAddr y, blockBytes x, refE x, 0⟩),
        (.bfill d a, .bfill, x, x, 0#64, ⟨refAddr x, 0, blockBytes x, refE x, y.toNat⟩),
        (.bzero d, .bzero, x, x, 0#64, ⟨refAddr x, 0, blockBytes x, refE x, 0⟩)] : List (Instr × BlockOp × Word64 × Word64 × Word64 × BlockArgs)),
      let op := p.2.1
      let g := p.2.2.2.2.2
      let n := min g.size 65536
      (t.prog.at_ ≠ t.pc ∨ t.prog.block = none → ∀ c, blockChecks op p.2.2.1 p.2.2.2.1 p.2.2.2.2.1 s t = some c → Traps p.1 s t c.1 c.2) ∧
      (t.prog.at_ ≠ t.pc ∨ t.prog.block = none → blockChecks op p.2.2.1 p.2.2.2.1 p.2.2.2.2.1 s t = none → ∀ s', blockGranule op g 0 n t s = .inr s' →
        (g.size ≤ 65536 → Completes p.1 s t s') ∧
        (65536 < g.size → Holds p.1 s (s'.modStrand s'.cur fun t => { t with timeout := false, prog := { t.prog with at_ := t.pc, block := some 65536 } }))) ∧
      (t.prog.at_ = t.pc → ∀ off, t.prog.block = some off → ∀ s', blockGranule op g off n t s = .inr s' →
        (g.size ≤ off + n → Completes p.1 s t s') ∧
        (off + n < g.size → Holds p.1 s (s'.modStrand s'.cur fun t => { t with timeout := false, prog := { t.prog with at_ := t.pc, block := some (off + n) } })))) ∧
    (t.buf = [] → t.timeout = false → t.prog.at_ ≠ t.pc ∨ t.prog.block = none → Alone s t → Memory.wf s.mem = true →
      let leaves : Instr → Nat → List Byte → Prop := fun ins k bs => ∃ s', exec ins s = .next (s.after t s') ∧ s'.cur = s.cur ∧
        s'.strands = s.strands ∧
        ∀ j, Memory.read s'.mem j = if k ≤ j ∧ j < k + bs.length then bs.getD (j - k) 0#8 else Memory.read s.mem j
      let near : Word64 → Prop := fun r => refCheck r = none ∧ blockBytes r ≤ 65536 ∧ inAperture (refAddr r) = true ∧
        s.coreIn t.vf (apertureCore (dieOf t.core) (refAddr r)) = true
      let open_ : Nat → Nat → Nat → Prop := fun va z need => weirRefuses t.weirs va z need = none
      let at_ : Word64 → Nat := fun r => (Target.pool (apertureCore (dieOf t.core) (refAddr r)) (refAddr r % 2 ^ 17)).key
      let own : Word64 → Nat := fun r => (Target.pool t.core r.toNat).key
      let fits : Word64 → Nat → Prop := fun r z => r.toNat + z ≤ 131072 ∧ r.toNat % min z 64 = 0 ∧ s.coreIn t.vf t.core = true
      (near y → fits x (blockBytes y) → open_ (refAddr y) (blockBytes y) 2 → open_ (pool x) (blockBytes y) 3 →
        s.poisoned (at_ y) (blockBytes y) = false →
        leaves (.bld d a) (own x) (Memory.bytes s.mem (at_ y) (blockBytes y))) ∧
      (near x → fits y (blockBytes x) → open_ (pool y) (blockBytes x) 2 → open_ (refAddr x) (blockBytes x) 3 →
        s.poisoned (own y) (blockBytes x) = false →
        leaves (.bst d a) (at_ x) (Memory.bytes s.mem (own y) (blockBytes x))) ∧
      (near x → near y → blockBytes x = blockBytes y → open_ (refAddr y) (blockBytes y) 2 → open_ (refAddr x) (blockBytes x) 3 →
        s.poisoned (at_ y) (blockBytes y) = false →
        leaves (.bcopy d a) (at_ x) (Memory.bytes s.mem (at_ y) (blockBytes y))) ∧
      (near x → open_ (refAddr x) (blockBytes x) 3 →
        leaves (.bfill d a) (at_ x)
          ((List.range (blockBytes x)).map fun i => BitVec.ofNat 8 (y.toNat >>> (8 * (i % 2 ^ refE x))))) ∧
      (near x → open_ (refAddr x) (blockBytes x) 3 →
        leaves (.bzero d) (at_ x) (List.replicate (blockBytes x) 0#8))) ∧
    (∀ p, refCheck x = some p → Traps (.bpref d) s t p.1 p.2 ∧ Traps (.bclean d) s t p.1 p.2 ∧ Traps (.bflush d) s t p.1 p.2) ∧
    (refCheck x = none → s.refPlace t x = true → exec (.bpref d) s = .next (s.after t s)) ∧
    (refCheck x = none → s.refPlace t x = true → weirRefuses t.weirs (refAddr x) (blockBytes x) 2 = none →
      (t.buf = [] → inAperture (refAddr x) = true →
        exec (.bclean d) s = .next (s.after t s) ∧ exec (.bflush d) s = .next (s.after t s)) ∧
      (t.buf = [] → inAperture (refAddr x) = false → ∀ w, s.cleanWait t.vf t.mode (refAddr x) (blockBytes x) = some w →
        Holds (.bclean d) s ((s.askHost w false).parkMe t w) ∧ Holds (.bflush d) s ((s.askHost w false).parkMe t w)) ∧
      (t.buf = [] → inAperture (refAddr x) = false → s.cleanWait t.vf t.mode (refAddr x) (blockBytes x) = none →
        exec (.bclean d) s = .next (s.after t (s.cleanRange t.vf t.mode (refAddr x) (blockBytes x) false)) ∧
        exec (.bflush d) s = .next (s.after t (s.cleanRange t.vf t.mode (refAddr x) (blockBytes x) true))) ∧
      (t.buf ≠ [] → Holds (.bclean d) s s ∧ Holds (.bflush d) s s))

/-- For every state with a ready strand outside a code image none of whose TGETs is under way, every integer type, mask and
registers: each arithmetic instruction answers a next state in which lane i of vd, where the mask leaves it on, holds the sum,
difference, product, fused result, minimum, maximum, saturated result, bit operation or shift modulo 2^w, and its old value
elsewhere; the flags it leaves to complete are none, and nothing else changes but the PC. Completes: vadd, vsub, vmul, vfma,
vfnma, vmin, vmax, vadds, vsubs, vand, vor, vxor, vsl, vsr. (R134, R135, R132, R137, 07_ref_vector.md) -/
def Obligations.VectorIntegerArithmeticCompletes : Prop :=
  ∀ (s : State) (t : Strand) (d a b : BitVec 5) (k : BitVec 3) (ty : EType), Ready s t → Plain t → s.tgetBusy s.cur t = false →
    ty.isInt = true →
    let w := laneW ty
    let lo : Int := if ty.isSigned then -(2 ^ (w - 1)) else 0
    let hi : Int := if ty.isSigned then 2 ^ (w - 1) - 1 else 2 ^ w - 1
    let sat : Int → Int := fun x => if x < lo then lo else if hi < x then hi else x
    let val : Nat → Int := laneInt ty
    ∀ p ∈ ([(.vadd d a b k ty, fun x y _ => val x + val y), (.vsub d a b k ty, fun x y _ => val x - val y),
        (.vmul d a b k ty, fun x y _ => val x * val y), (.vfma d a b k ty, fun x y z => val x * val y + val z),
        (.vfnma d a b k ty, fun x y z => val z - val x * val y),
        (.vmin d a b k ty, fun x y _ => min (val x) (val y)), (.vmax d a b k ty, fun x y _ => max (val x) (val y)),
        (.vadds d a b k ty, fun x y _ => sat (val x + val y)), (.vsubs d a b k ty, fun x y _ => sat (val x - val y)),
        (.vand d a b k ty, fun x y _ => (x &&& y : Nat)), (.vor d a b k ty, fun x y _ => (x ||| y : Nat)),
        (.vxor d a b k ty, fun x y _ => (x ^^^ y : Nat)), (.vsl d a b k ty, fun x y _ => (x * 2 ^ (y % w) : Nat)),
        (.vsr d a b k ty, fun x y _ => val x / 2 ^ (y % w))] : List (Instr × (Nat → Nat → Nat → Int))),
      ∃ v : Vec, Completes p.1 s t (s.putMe { t.setV d v with vflags := t.vflags ++ [0#5] }) ∧
        ∀ i < 512 / w, laneOf ty v i =
          if t.laneOn k ty i then (p.2 (laneOf ty (t.v a) i) (laneOf ty (t.v b) i) (laneOf ty (t.v d) i) % 2 ^ w).toNat
          else laneOf ty (t.v d) i

/-- For every state with a ready strand outside a code image none of whose TGETs is under way, every floating type: each floating
instruction of major 0x30 answers a next state in which lane i of vd, where the mask leaves it on, holds the result of its rule
(the exact result rounded under FRM, the minimum, the maximum, the estimate) and its old value elsewhere, and the strand's
queue of flags has gained the union of the flags of the unmasked lanes; nothing else changes but the PC. Completes: vadd, vsub,
vmul, vfma, vfnma, vmin, vmax, vrcpe, vrsqe. (R133, R135, R136, R137, R130, 07_ref_vector.md) -/
def Obligations.VectorFloatArithmeticCompletes : Prop :=
  ∀ (s : State) (t : Strand) (d a b : BitVec 5) (k : BitVec 3) (ty : EType), Ready s t → Plain t → s.tgetBusy s.cur t = false →
    ty.isFloat = true →
    let m := (t.sys.frm.toNat) % 8
    let val : Nat → Val := laneVal ty
    let fin : Val × BitVec 5 → LaneRes := fun x => ((roundLane ty m x.1).1, x.2 ||| (roundLane ty m x.1).2)
    let fma : Bool → Nat → Nat → Nat → LaneRes := fun neg x y z =>
      let q := (val x).mul (val y)
      let r := (if neg then q.1.negate else q.1).add m (val z)
      fin (r.1, q.2 ||| r.2)
    ∀ p ∈ ([(.vadd d a b k ty, fun x y _ => fin ((val x).add m (val y))), (.vsub d a b k ty, fun x y _ => fin ((val x).add m (val y).negate)),
        (.vmul d a b k ty, fun x y _ => fin ((val x).mul (val y))), (.vfma d a b k ty, fma false), (.vfnma d a b k ty, fma true),
        (.vmin d a b k ty, fun x y _ => laneMinMax false ty x y), (.vmax d a b k ty, fun x y _ => laneMinMax true ty x y),
        (.vrcpe d a k ty, fun x _ _ => laneRcpe ty x), (.vrsqe d a k ty, fun x _ _ => laneRsqe ty x)] :
        List (Instr × (Nat → Nat → Nat → LaneRes))),
      ∃ (v : Vec) (fl : BitVec 5), Completes p.1 s t (s.putMe { t.setV d v with vflags := t.vflags ++ [fl] }) ∧
        (∀ i < 512 / laneW ty, laneOf ty v i =
          if t.laneOn k ty i then (p.2 (laneOf ty (t.v a) i) (laneOf ty (t.v b) i) (laneOf ty (t.v d) i)).1 % 2 ^ laneW ty
          else laneOf ty (t.v d) i) ∧
        ∀ j < 5, fl.getLsbD j = true ↔ ∃ i < 512 / laneW ty, t.laneOn k ty i = true ∧
          (p.2 (laneOf ty (t.v a) i) (laneOf ty (t.v b) i) (laneOf ty (t.v d) i)).2.getLsbD j = true

/-- For every floating type and all lane values x and y: vmin and vmax give y when x alone is a NaN, x when y alone is, the
canonical NaN when both are; of the zeros, the minimum is -0 and the maximum +0; a signalling NaN operand sets NV and nothing
else sets a flag. (R137) -/
def Obligations.FloatMinMaxAndZeros : Prop :=
  ∀ (ty : EType) (big : Bool) (x y : Nat), ty.isFloat = true →
    ((laneVal ty x).isNan = true → (laneVal ty y).isNan = false → (laneMinMax big ty x y).1 = y) ∧
    ((laneVal ty x).isNan = false → (laneVal ty y).isNan = true → (laneMinMax big ty x y).1 = x) ∧
    ((laneVal ty x).isNan = true → (laneVal ty y).isNan = true → (laneMinMax big ty x y).1 = (fmtOf ty).cnan) ∧
    (laneMinMax false ty 0 ((fmtOf ty).sign true)).1 = (fmtOf ty).sign true ∧
    (laneMinMax false ty ((fmtOf ty).sign true) 0).1 = (fmtOf ty).sign true ∧
    (laneMinMax true ty 0 ((fmtOf ty).sign true)).1 = 0 ∧ (laneMinMax true ty ((fmtOf ty).sign true) 0).1 = 0 ∧
    (laneMinMax big ty x y).2 = if (laneVal ty x).isSnan = true ∨ (laneVal ty y).isSnan = true then flNV else 0#5

/-- For every state with a ready strand outside a code image none of whose TGETs is under way: a compare answers a next state in
which bit i of kd is set exactly when lane i exists, is unmasked and the condition holds (integers by their signedness, floats
by R139), every other register is unchanged and the union of the lanes' flags waits for completion; the mask operations write
their bits and no flag. Completes: vceq, vcne, vclt, vcle, kand, kor, kxor, kandn, knot, kset, kget, kpop. (R138, R139,
07_ref_vector.md) -/
def Obligations.ComparesAndMasksComplete : Prop :=
  ∀ (s : State) (t : Strand) (d a b k : BitVec 3) (gd : BitVec 5) (x y : BitVec 5) (ty : EType), Ready s t → Plain t →
    s.tgetBusy s.cur t = false →
    (∀ p ∈ ([(.vceq d x y k ty, .eq), (.vcne d x y k ty, .ne), (.vclt d x y k ty, .lt), (.vcle d x y k ty, .le)] : List (Instr × VCmp)),
      ∃ (m : Word64) (fl : BitVec 5), Completes p.1 s t (s.putMe { t.setK d m with vflags := t.vflags ++ [fl] }) ∧
        (∀ i < 64, m.getLsbD i = true ↔ i < laneN ty ∧ t.laneOn k ty i = true ∧
          (laneCmp p.2 ty (laneOf ty (t.v x) i) (laneOf ty (t.v y) i)).1 = true) ∧
        ∀ j < 5, fl.getLsbD j = true ↔ ∃ i < laneN ty, t.laneOn k ty i = true ∧
          (laneCmp p.2 ty (laneOf ty (t.v x) i) (laneOf ty (t.v y) i)).2.getLsbD j = true) ∧
    (∀ p ∈ ([(.kand d a b, t.k a &&& t.k b), (.kor d a b, t.k a ||| t.k b), (.kxor d a b, t.k a ^^^ t.k b),
        (.kandn d a b, t.k a &&& ~~~(t.k b)), (.knot d a, ~~~(t.k a)), (.kset d x, t.g x)] : List (Instr × Word64)),
      Completes p.1 s t (s.putMe { t.setK d p.2 with vflags := t.vflags ++ [0#5] })) ∧
    Completes (.kget gd a) s t (s.putMe { t.setG gd (t.k a) with vflags := t.vflags ++ [0#5] }) ∧
    Completes (.kpop gd a) s t (s.putMe { t.setG gd (BitVec.ofNat 64 ((List.range 64).countP fun j => (t.k a).getLsbD j)) with
      vflags := t.vflags ++ [0#5] }) ∧
    (∀ (c : VCmp) (m n : Nat), ty.isFloat = true → (laneVal ty m).isNan = true ∨ (laneVal ty n).isNan = true →
      (laneCmp c ty m n).1 = (c == VCmp.ne))

/-- For every state with a ready strand outside a code image none of whose TGETs is under way, and every type: vsel with k not 0,
vbcast, vperm, vshuf, viota, vsld, vrand, vimm and vaddi answer a next state in which each lane of vd that the instruction
writes holds the row's value and every other lane its old one; vext writes the extended lane to g[d] and vins one lane of vd;
vsel with k = 0 traps 0x01; an instruction that uses a decode table waits for an issued MLUT of that table to complete, and
vimm of a NaN without a code traps 0x23. Completes: vsel, vbcast, vperm, vshuf, viota, vext, vins, vsld, vrand, vimm, vaddi.
(R144, R147, R148, R75, R246, 07_ref_vector.md) -/
def Obligations.VectorMovesComplete : Prop :=
  ∀ (s : State) (t : Strand) (d a b : BitVec 5) (k : BitVec 3) (ty : EType) (im : BitVec 16), Ready s t → Plain t →
    s.tgetBusy s.cur t = false →
    let n := laneN ty
    let w := laneW ty
    let seen : BitVec 5 → Nat → Nat := fun r i => laneOf ty (t.v r) i
    let puts : Instr → (Nat → Nat) → Prop := fun ins f =>
      ∃ v : Vec, Completes ins s t (s.putMe { t.setV d v with vflags := t.vflags ++ [0#5] }) ∧ ∀ i < n, laneOf ty v i = f i
    let masked : Instr → (Nat → Nat) → Prop := fun ins f => puts ins fun i => if t.laneOn k ty i then f i % 2 ^ w else seen d i
    (k = 0#3 → Traps (.vsel d a b k ty) s t 0x01 s.wordTval) ∧
    (k ≠ 0#3 → puts (.vsel d a b k ty) fun i => if t.laneOn k ty i then seen a i else seen b i) ∧
    masked (.vbcast d a k ty) (fun _ => (t.g a).toNat) ∧
    masked (.vperm d a b k ty) (fun i => seen a (seen b i % n)) ∧
    masked (.vshuf d a b k ty) (fun i => if seen d i % (2 * n) < n then seen a (seen d i % (2 * n)) else seen b (seen d i % (2 * n) - n)) ∧
    (ty.isInt = true → masked (.viota d k ty) fun i => i) ∧
    (ty.isFloat = true → masked (.viota d k ty) fun i => ((fmtOf ty).round 0 (.fin false i 1)).1) ∧
    masked (.vsld d a b k ty) (fun i => if i + (t.g b).toNat < n then seen a (i + (t.g b).toNat) else 0) ∧
    (ty.isInt = true → masked (.vrand d a b k ty) fun i => (mix64 (t.g b) (t.g a + BitVec.ofNat 64 i)).toNat) ∧
    (ty = .f32 → masked (.vrand d a b k ty) fun i =>
      (fF32.round 0 (.fin false ((mix64 (t.g b) (t.g a + BitVec.ofNat 64 i)).toNat / 2 ^ 40) (2 ^ 24))).1) ∧
    (ty = .f16 → masked (.vrand d a b k ty) fun i =>
      (fF16.round 0 (.fin false ((mix64 (t.g b) (t.g a + BitVec.ofNat 64 i)).toNat / 2 ^ 53) (2 ^ 11))).1) ∧
    (ty = .bf16 → masked (.vrand d a b k ty) fun i =>
      (fBF16.round 0 (.fin false ((mix64 (t.g b) (t.g a + BitVec.ofNat 64 i)).toNat / 2 ^ 56) (2 ^ 8))).1) ∧
    Completes (.vext d a b ty) s t (s.putMe { t.setG d (BitVec.ofInt 64 (laneInt ty (seen a ((t.g b).toNat % n)))) with
      vflags := t.vflags ++ [0#5] }) ∧
    puts (.vins d a b ty) (fun i => if i = (t.g b).toNat % n then (t.g a).toNat % 2 ^ w else seen d i) ∧
    (s.tableBusy t.core ty = true → Holds (.vimm d ty im) s s) ∧
    (s.tableBusy t.core ty = false → immLane (s.core t.core) ty im = none → Traps (.vimm d ty im) s t 0x23 (tableTval ty)) ∧
    (s.tableBusy t.core ty = false → ∀ x, immLane (s.core t.core) ty im = some x → puts (.vimm d ty im) fun _ => x % 2 ^ w) ∧
    (ty.isInt = true → puts (.vaddi d ty im) fun i => ((laneInt ty (seen d i) + if ty.isSigned then im.toInt else im.toNat) % 2 ^ w).toNat) ∧
    (ty.isFloat = true → ∃ (v : Vec) (fl : BitVec 5), Completes (.vaddi d ty im) s t (s.putMe { t.setV d v with vflags := t.vflags ++ [fl] }) ∧
      ∀ i < n, laneOf ty v i = (laneAdd ty t.frm (seen d i) ((fmtOf ty).round 0 (fBF16.value im.toNat)).1).1 % 2 ^ w)

/-- For every state with a ready strand outside a code image none of whose TGETs is under way: vcvt whose tables no issued MLUT is
still to load answers a next state in which the low lanes of vd hold the converted lanes and the others zero, or traps 0x23
when a NaN meets a table with no NaN code; a reduction leaves its result in lane 0 of vd and zero in every other lane; an
integer vredsum leaves the sum of the unmasked lanes modulo 2^w, and integer vredmin and vredmax of at least one unmasked lane
leave the least and the greatest of them. Completes: vcvt, vredsum, vredmin, vredmax. (R145, R146, R243, 07_ref_vector.md) -/
def Obligations.ConversionsAndReductionsComplete : Prop :=
  ∀ (s : State) (t : Strand) (d a : BitVec 5) (k r : BitVec 3) (u ty : EType), Ready s t → Plain t → s.tgetBusy s.cur t = false →
    (let m := min (laneN u) (laneN ty)
     let conv : Nat → Option LaneRes := fun i => convLane (s.core t.core) (cvtMode t r) u ty (laneOf u (t.v a) i)
     (s.tableBusy t.core u = true ∨ s.tableBusy t.core ty = true → Holds (.vcvt d a u r ty) s s) ∧
     (s.tableBusy t.core u = false → s.tableBusy t.core ty = false →
       ((∃ i < m, conv i = none) → Traps (.vcvt d a u r ty) s t 0x23 (tableTval ty)) ∧
       ((∀ i < m, (conv i).isSome = true) → ∃ (v : Vec) (fl : BitVec 5),
         Completes (.vcvt d a u r ty) s t (s.putMe { t.setV d v with vflags := t.vflags ++ [fl] }) ∧
         ∀ i < laneN ty, laneOf ty v i = if i < m then ((conv i).getD (0, 0#5)).1 % 2 ^ laneW ty else 0))) ∧
    (let xs := (List.range (laneN ty)).map fun i => if t.laneOn k ty i then some (laneOf ty (t.v a) i) else none
     let on := (List.range (laneN ty)).filter fun i => t.laneOn k ty i
     ∀ p ∈ ([(.vredsum d a k ty, .sum), (.vredmin d a k ty, .min), (.vredmax d a k ty, .max)] : List (Instr × Red)),
       ∃ v : Vec, Completes p.1 s t (s.putMe { t.setV d v with vflags := t.vflags ++ [(reduce p.2 ty t.frm xs).2] }) ∧
         laneOf ty v 0 = (reduce p.2 ty t.frm xs).1 % 2 ^ laneW ty ∧ (∀ i < laneN ty, 0 < i → laneOf ty v i = 0) ∧
         (ty.isInt = true → p.2 = .sum →
           laneOf ty v 0 = ((on.map fun i => laneOf ty (t.v a) i).foldl (· + ·) 0) % 2 ^ laneW ty) ∧
         (ty.isInt = true → p.2 = .min → on ≠ [] → (∃ i ∈ on, laneOf ty v 0 = laneOf ty (t.v a) i) ∧
           ∀ i ∈ on, laneInt ty (laneOf ty v 0) ≤ laneInt ty (laneOf ty (t.v a) i)) ∧
         (ty.isInt = true → p.2 = .max → on ≠ [] → (∃ i ∈ on, laneOf ty v 0 = laneOf ty (t.v a) i) ∧
           ∀ i ∈ on, laneInt ty (laneOf ty (t.v a) i) ≤ laneInt ty (laneOf ty v 0)))

/-- For every state with a ready strand outside a code image none of whose TGETs is under way, nothing of an earlier attempt kept:
when no unmasked lane fails its checks, none is absent and no walk waits for the host, a vector load whose lanes can be read
answers a next state in which the unmasked lanes of vd hold what was read and the others their old value, and a vector store
that finds room answers one in which the strand's buffer has gained the entries of its lanes in ascending order (with a lost
request its lane's store is reported, and enters the buffer or not, R363); when a lane fails, the lowest failing one decides
the trap. vldr and vstr check their reference first. Completes: vld, vst, vlds, vsts, vgather, vscatter, vldr, vstr. (R140,
R141, R142, R143, R112, 07_ref_vector.md) -/
def Obligations.VectorMemoryCompletes : Prop :=
  ∀ (s : State) (t : Strand) (d a b : BitVec 5) (k : BitVec 3) (ty : EType), Ready s t → Plain t → s.tgetBusy s.cur t = false →
    t.prog = Progress.none →
    let n := memBytes ty
    let on := (List.range (memN ty)).filter (t.memOn k)
    let base : Int := (t.g a).toNat
    let t0 := t.claimLanes
    let unit : Nat → Int := fun i => base + i * n
    let stride : Nat → Int := fun i => base + i * (t.g b).toInt
    let index : Nat → Int := fun i => base + laneInt .s32 (laneOf .s32 (t.v b) i) * n
    let blk : Nat → Int := fun i => (refAddr (t.g a) : Int) + i * n
    let loads : Instr → Option Word64 → (Nat → Int) → Prop := fun ins bs ea =>
      let m := s.checkLanes t0 bs ea n .read on
      (∀ c v, m.fail = some (c, v) → exec ins s = .next ((m.s.putMe t0).trapMe (t0.countWatch (s.watchStep t)) c v)) ∧
      (m.fail = none → m.host = none → m.absent = [] → ∀ s' v, m.s.readLanes t0 n 0#512 m.present = .ok s' v →
        ∃ x : Vec, Completes ins s t (s'.putMe { t0.setV d x with vflags := t.vflags ++ [0#5] }) ∧
          ∀ j < 512, x.getLsbD j = if j / (8 * n) ∈ on then v.getLsbD j else (t.v d).getLsbD j)
    let stores : Instr → Bool → Option Word64 → (Nat → Int) → Prop := fun ins line bs ea =>
      let m := s.checkLanes t0 bs ea n .write on
      (∀ c v, m.fail = some (c, v) → exec ins s = .next ((m.s.putMe t0).trapMe (t0.countWatch (s.watchStep t)) c v)) ∧
      (m.fail = none → m.host = none → m.absent = [] →
        let lost := if t.timeout then m.present.head? else none
        let s1 := lost.elim m.s fun p => m.s.reportLost t0 p.2.1 p.2.2
        let ls := if lost.isSome = true ∧ Config.lostPerformed s1.tick = false then m.present.tail else m.present
        ∀ s' t', storeLanes line n (t.v d) t.vf 65 s1 { t0 with timeout := false } ls = (s', t', none) →
          Completes ins s t (s'.putMe { t' with vflags := t'.vflags ++ [0#5] }))
    loads (.vld d a k ty) (some (t.g a)) unit ∧ loads (.vlds d a b k ty) (some (t.g a)) stride ∧
    loads (.vgather d a b k ty) (some (t.g a)) index ∧
    stores (.vst d a k ty) true (some (t.g a)) unit ∧ stores (.vsts d a b k ty) false (some (t.g a)) stride ∧
    stores (.vscatter d a b k ty) false (some (t.g a)) index ∧
    (∀ p, refCheck (t.g a) = some p → Traps (.vldr d a k ty) s t p.1 p.2 ∧ Traps (.vstr d a k ty) s t p.1 p.2) ∧
    (refCheck (t.g a) = none → blockBytes (t.g a) ≠ 64 ∨ 2 ^ refE (t.g a) ≠ n →
      Traps (.vldr d a k ty) s t 0x07 (t.g a) ∧ Traps (.vstr d a k ty) s t 0x07 (t.g a)) ∧
    (refCheck (t.g a) = none → blockBytes (t.g a) = 64 → 2 ^ refE (t.g a) = n →
      loads (.vldr d a k ty) none blk ∧ stores (.vstr d a k ty) true none blk)

/-- For every state with a ready strand (outside a code image but for TTAG): the issue of each of the nine puts its request at the
end of the quad's dispatch queue; a queued request whose turn it is not leaves the strand as it is; and one whose turn it is
(the arbiter names it) is served, the quad notes the core, and TDECL with a legal tag declares a free name, queues on a
draining one and traps 0x22 otherwise, and traps 0x23 with g[b] on an illegal tag; the strand that declared a name writes it
with TLD, TLD.S and TFILL, defines it with TSEAL, and with MZERO defines an FP32 one as zeros, the definition completing at
once when the strand has no earlier instruction of these majors and no earlier store under way, and else accepted to complete
after them; a write of a name traps 0x22 when the name is defined or another's, 0x20 when it is free, parks for the strand's
own queued declaration and waits, keeping its place, while an accepted instruction of the strand is to define the name; TKILL
makes a declared name free, a defined one with no read in flight and no draining name before it free as well, a defined one
otherwise draining, and traps 0x20 on the rest; TTAG writes the tag word and MFMT the format fields, which an MLUT of the
strand accepted before it leaves so. Completes: tdecl, tld, tldS, tfill, tseal, tkill, ttag, mfmt, mzero. (R154, R155, R156,
R158, R159, R160, R162, R55, R13, 08_ref_tarn_matrix.md) -/
def Obligations.TarnNameInstructionsComplete : Prop :=
  ∀ (s : State) (t : Strand) (a b d v : BitVec 5), Ready s t →
    let q := quadOf t.core
    let x0 := (s.quad q).refreshed s.cyc
    let x := x0.serve s.cur t.core
    let s0 := s.putQuad q x
    let traps : Instr → Nat → Word64 → Prop := fun i c w => exec i s = .next (s0.trapMe (t.countWatch (s.watchStep t)) c w)
    let forms : List Instr := [.tdecl a b d, .tld a b, .tldS a b, .tfill a b v, .tkill a, .mfmt a, .tseal a, .mzero a]
    let enters : State := s.putQuad q { x0 with queue := x0.queue ++ [⟨s.cur, s.ir, ReqKind.plain, s.cyc⟩] }
    let keeps : State → State := fun s' => s'.putQuad q ((s'.quad q).unserve x0 s.cur s.cyc)
    let n := (t.g a).toNat % 256
    let n3 := (t.g a).toNat / 2 ^ 24 % 256
    let tag : BitVec 29 := ((t.g b) >>> 35).setWidth 29
    let word := BitVec.ofNat 64 (tag.toNat * 2 ^ 35 + 2 ^ 32 + t.core % 4 * 2 ^ 14 + t.slot.getD 0 * 2 ^ 12)
    let own : Nat → Nat → Nat → Prop := fun o core slot => o = s.cur ∨ (o = 0 ∧ t.core % 4 = core ∧ t.slot = some slot)
    let mine : Nat → Prop := fun m => (x.name m).st = .declared ∧ own (x.name m).owner (x.name m).dcore (x.name m).dslot
    let free : Nat → Prop := fun m => mine m ∧ x.defines s.cur m = false
    let idle := x.busyFor s.cur = false ∧ t.buf = []
    let later : MatKind → Nat → State := fun k m => s0.putQuad q { x with
      ops := x.ops ++ [⟨s.cur, k, [], some m, (x.name m).decl, (s.core t.core).ctx t, none, none, 0, 0, s.tick⟩],
      mmaxBy := if x.mmaxBy = some s.cur then none else x.mmaxBy }
    let writes : List (Instr × Nat) := [(.tld a b, n), (.tldS a b, n), (.tfill a b v, n), (.tseal a, n), (.mzero a, n3)]
    (x0.queues s.cur = false → Holds (.ttag a d) s enters ∧ (Plain t → ∀ i ∈ forms, Holds i s enters)) ∧
    (x0.queues s.cur = true → s.arbiter q ≠ some s.cur → Holds (.ttag a d) s (s.putQuad q x0) ∧
      (Plain t → ∀ i ∈ forms, Holds i s (s.putQuad q x0))) ∧
    (x0.queues s.cur = true → s.arbiter q = some s.cur → Completes (.ttag a d) s t (s0.putMe (t.setG d (x.name n).tagWord))) ∧
    (Plain t → t.slot.getD 0 < 4 → x0.queues s.cur = true → s.arbiter q = some s.cur →
      (tagOk tag = false → traps (.tdecl a b d) 0x23 (t.g b)) ∧
      (tagOk tag = true → (x.name n).st = .free →
        Completes (.tdecl a b d) s t
          (((s0.putQuad q (x.declare n tag s.cur (t.core % 4) (t.slot.getD 0))).nameChanged q n).putMe (t.setG d word))) ∧
      (tagOk tag = true → (x.name n).st = .draining → (x.name n).queued = none → Completes (.tdecl a b d) s t
        (((s0.putQuad q (x.putName n { x.name n with queued := some (tag, s.cur), qcore := t.core % 4, qslot := t.slot.getD 0 })).nameChanged
          q n).putMe (t.setG d word))) ∧
      (tagOk tag = true → ((x.name n).st = .declared ∨ (x.name n).st = .defined ∨ ((x.name n).st = .draining ∧ (x.name n).queued ≠ none)) →
        traps (.tdecl a b d) 0x22 (BitVec.ofNat 64 n)) ∧
      (free n → ∀ s' bs, regionRead (t.g b) 4096 4096 t s0 = .ok (s', bs) →
        Completes (.tld a b) s t (s'.putQuad q ((s'.quad q).putName n
          { x.name n with data := bs, poison := (x.name n).poison.filter (· < 256) }))) ∧
      (free n → ∀ s' bs, regionRead (t.g b) 512 512 t s0 = .ok (s', bs) →
        Completes (.tldS a b) s t (s'.putQuad q ((s'.quad q).putName n
          { x.name n with side := bs, poison := (x.name n).poison.filter (256 ≤ ·) }))) ∧
      (free n → let h := (t.g b).toNat % 128
        let m : Name := { x.name n with poison := (x.name n).poison.filter fun g => g / 4 ≠ h }
        (72 ≤ h → traps (.tfill a b v) 0x23 (BitVec.ofNat 64 n)) ∧
        (h < 64 → Completes (.tfill a b v) s t (s0.putQuad q (x.putName n
          { m with data := spliceBytes 0 m.data (64 * h) (leBytes 64 (t.v v).toNat) }))) ∧
        (64 ≤ h → h < 72 → Completes (.tfill a b v) s t (s0.putQuad q (x.putName n
          { m with side := spliceBytes 0 m.side (64 * (h - 64)) (leBytes 64 (t.v v).toNat) })))) ∧
      (free n → (idle → Completes (.tseal a) s t ((s0.putQuad q (x.putName n (x.name n).seal)).nameChanged q n)) ∧
        (¬idle → Completes (.tseal a) s t (later .seal n))) ∧
      (free n3 → tagT (x.name n3).tag = 10 →
        let m : Name := { x.name n3 with data := List.replicate 4096 0#8, poison := (x.name n3).poison.filter (256 ≤ ·) }
        (idle → Completes (.mzero a) s t ((s0.putQuad q (x.putName n3 m.seal)).nameChanged q n3)) ∧
        (¬idle → Completes (.mzero a) s t (later .mzero n3))) ∧
      (free n3 → tagT (x.name n3).tag ≠ 10 → traps (.mzero a) 0x23 (BitVec.ofNat 64 n3)) ∧
      (∀ p ∈ writes, let m := x.name p.2
        (m.st = .defined ∨ (m.st = .declared ∧ ¬mine p.2) → traps p.1 0x22 (BitVec.ofNat 64 p.2)) ∧
        (m.st = .free ∨ (m.st = .draining ∧ m.queued = none) → traps p.1 0x20 (BitVec.ofNat 64 p.2)) ∧
        (∀ g o, m.st = .draining → m.queued = some (g, o) →
          (own o m.qcore m.qslot → Holds p.1 s (keeps (s0.parkMe t (.names [p.2])))) ∧
          (¬own o m.qcore m.qslot → traps p.1 0x22 (BitVec.ofNat 64 p.2))) ∧
        (mine p.2 → x.defines s.cur p.2 = true → Holds p.1 s (keeps s0))) ∧
      ((x.name n).st = .free ∨ (x.name n).st = .draining → traps (.tkill a) 0x20 (BitVec.ofNat 64 n)) ∧
      ((x.name n).st = .declared → Completes (.tkill a) s t (s0.breakName q n)) ∧
      ((x.name n).st = .defined →
        let y : Quad := { x.putName n { x.name n with st := .draining, rank := x.nextRank } with nextRank := x.nextRank + 1 }
        let s1 := (s0.putQuad q y).nameChanged q n
        Completes (.tkill a) s t (if x.reading n = false ∧ (∀ p ∈ x.names, p.2.st ≠ .draining) then s1.freeName q n else s1)) ∧
      Completes (.mfmt a) s t ((s0.putQuad q { x with ops := x.ops.map fun o => o.refit s.cur (t.g a) }).putCore t.core
        { s.core t.core with tblsel := formatWrite (s.core t.core).tblsel (t.g a) }))

/-- For every state with a ready strand outside a code image: the issue of TGET, of TST and TST.S whose address and weirs pass, and
of an MLUT form puts the request at the end of the quad's dispatch queue; when its turn has come (the arbiter names it), TGET
of a defined name with h below 72 and no poison in those 64 bytes completes at issue with one instruction more accepted by the
quad, traps 0x23 for a larger h, 0x20 for a free name, 0x0B where the bytes are poisoned, and parks on a declared one, keeping
its place among the requests; TST and TST.S with a granted aligned destination and room in the store buffer put the bytes of
the name into the buffer as one entry of 64-byte segments (one entry for the whole operand: the model's choice,
notes/assumptions/25.md) and are accepted; each MLUT form whose image can be read, when no copy uses its table, is accepted
with the table entries it read. Completes: tget, tst, tstS, mlutA, mlutB, mlutA4, mlutB4. (R157, R150, R161, R13,
08_ref_tarn_matrix.md) -/
def Obligations.TarnReadsAreAccepted : Prop :=
  ∀ (s : State) (t : Strand) (a b v : BitVec 5), Ready s t → Plain t →
    let q := quadOf t.core
    let x0 := (s.quad q).refreshed s.cyc
    let x := x0.serve s.cur t.core
    let s0 := s.putQuad q x
    let traps : Instr → Nat → Word64 → Prop := fun i c w => exec i s = .next (s0.trapMe (t.countWatch (s.watchStep t)) c w)
    let enters : State := s.putQuad q { x0 with queue := x0.queue ++ [⟨s.cur, s.ir, ReqKind.plain, s.cyc⟩] }
    let keeps : State → State := fun s' => s'.putQuad q ((s'.quad q).unserve x0 s.cur s.cyc)
    let n := (t.g a).toNat % 256
    let h := (t.g b).toNat % 128
    let takes : MatKind → List Nat → State → State := fun k r s => s.putQuad q { s.quad q with
      ops := (s.quad q).ops ++ [⟨s.cur, k, r, none, 0, (s.core t.core).ctx t, none, none, 0, 0, s.tick⟩],
      mmaxBy := if (s.quad q).mmaxBy = some s.cur then none else (s.quad q).mmaxBy }
    let parks : State := keeps (s0.parkMe t (.names [n]))
    (x0.queues s.cur = false → Holds (.tget a b v) s enters ∧
      (∀ p ∈ ([(.tst a b, 4096), (.tstS a b, 512)] : List (Instr × Nat)), ∀ va, eaCheck (t.g b) 0 p.2 = .ok va → va % p.2 = 0 →
        weirRefuses t.weirs va p.2 3 = none → Holds p.1 s enters) ∧
      ∀ p ∈ ([.mlutA a, .mlutB a, .mlutA4 a, .mlutB4 a] : List Instr), Holds p s enters) ∧
    (x0.queues s.cur = true → s.arbiter q = some s.cur →
    ((x.name n).st = .defined → (∀ g ∈ (x.name n).poison, g / 4 ≠ h) → h < 72 → Completes (.tget a b v) s t (takes (.tget v.toNat h) [n] s0)) ∧
    ((x.name n).st = .defined → 72 ≤ h → traps (.tget a b v) 0x23 (BitVec.ofNat 64 n)) ∧
    ((x.name n).st = .defined → h < 72 → (∃ g ∈ (x.name n).poison, g / 4 = h) → traps (.tget a b v) 0x0B (BitVec.ofNat 64 n)) ∧
    ((x.name n).st = .free → traps (.tget a b v) 0x20 (BitVec.ofNat 64 n)) ∧
    ((x.name n).st = .declared → Holds (.tget a b v) s parks) ∧
    (∀ p ∈ ([(.tst a b, 4096, false), (.tstS a b, 512, true)] : List (Instr × Nat × Bool)), let z := p.2.1
      ∀ va, eaCheck (t.g b) 0 z = .ok va → va % z = 0 → weirRefuses t.weirs va z 3 = none →
        ((x.name n).st = .declared → Holds p.1 s parks) ∧
        ((x.name n).st = .defined → (∀ g ∈ (x.name n).poison, decide (256 ≤ g) ≠ p.2.2) →
          ∀ s' tg, resolve s0 t.vf t.mode (dieOf t.core) va .write = .ok s' tg →
          (tg = .dry → Completes p.1 s t (takes (.tst va p.2.2) [n] (s'.dryBytes t.vf z))) ∧
          (tg ≠ .dry → 8 ≤ t.buf.length → Holds p.1 s (keeps s')) ∧
          (tg ≠ .dry → t.buf.length < 8 → Completes p.1 s t ((takes (.tst va p.2.2) [n] s').putMe { t with buf := t.buf ++
            [⟨s'.tick, va, tg, (List.range (z / 64)).map fun i =>
              (64 * i, (((if p.2.2 then (x.name n).side else (x.name n).data).drop (64 * i)).take 64))⟩] })))) ∧
    (∀ p ∈ ([(.mlutA a, false, false), (.mlutB a, true, false), (.mlutA4 a, false, true), (.mlutB4 a, true, true)] : List (Instr × Bool × Bool)),
      let z := if p.2.2 then 64 else 1024
      (x.copyUses t.core p.2.1 = true → Holds p.1 s (keeps s0)) ∧
      (x.copyUses t.core p.2.1 = false → ∀ s' bs, regionRead (t.g a) z 64 t s0 = .ok (s', bs) →
        Completes p.1 s t (takes (.mlut p.2.1 p.2.2 ((List.range (z / 4)).map fun i => BitVec.ofNat 19 (leNat ((bs.drop (4 * i)).take 4)))) [] s'))))

/-- For every state with a ready strand outside a code image: the issue of each of the six (of an MMAX while no other is
outstanding; else it waits) puts its request at the end of the quad's dispatch queue; when its turn has come (the arbiter names
it), the destination is a name the strand declared that no accepted instruction of it is to define, and every source is defined
and unpoisoned: MMA and MMA.NC whose operands pass the checks of R163 and whose tables no MLUT loads are accepted, with their
cost drawn from the allowance and the datapath occupied, or, when the allowance does not cover it, accepted as well, owing the
cost; MMAX and MMAX.NC do so on a rectangle of quads of the partition with their B operand read from the quad's region, at the
west edge from a name and inside it from the stream that has arrived (one that does not fit traps 0x23 and is consumed), and
send the stream on to the east; MTRN and MCVT whose tags fit are accepted for 32 units and 32 cycles. That a request held for
energy counts as accepted (notes/assumptions/24.md), that a stream goes on by a step of its own (26.md), and the order of an
MMAX's checks, its choice of the stream and the consumed stream (92.md) are the model's choices. Completes: mma, mmaNc, mmax,
mmaxNc, mtrn, mcvt. (R163, R166, R167, R168, R169, R170, R294, R295, R297, R13, 08_ref_tarn_matrix.md) -/
def Obligations.MatrixInstructionsAreAccepted : Prop :=
  ∀ (s : State) (t : Strand) (a b : BitVec 5), Ready s t → Plain t →
    let q := quadOf t.core
    let x0 := (s.quad q).refreshed s.cyc
    let x := x0.serve s.cur t.core
    let s0 := s.putQuad q x
    let enters : Quad → State := fun y => s.putQuad q { y with queue := y.queue ++ [⟨s.cur, s.ir, ReqKind.datapath, s.cyc⟩] }
    let keeps : State → State := fun s' => s'.putQuad q ((s'.quad q).unserve x0 s.cur s.cyc)
    let g := t.g a
    let nm : Nat → Nat := fun i => g.toNat / 2 ^ (8 * i) % 256
    let n0 := nm 0
    let n1 := nm 1
    let n2 := nm 2
    let n3 := nm 3
    let ta := (s.core t.core).tblsel.toNat / 2 ^ 60
    let tb := (s.core t.core).tblsel.toNat / 2 ^ 56 % 16
    let good : Nat → Prop := fun n => (x.name n).st = .defined ∧ (x.name n).bad = false
    let accepted : State → MatKind → List Nat → Option Operand → Option Operand → Nat → Nat → State := fun s k r oa ob cost occ =>
      let y := (s.quad q).refill s.cyc
      let o : Nat → MatOp := fun owes => ⟨s.cur, k, r, some n3, (x.name n3).decl, (s.core t.core).ctx t, oa, ob, owes, occ, s.tick⟩
      let by_ := if y.mmaxBy = some s.cur then none else y.mmaxBy
      s.putQuad q (if cost ≤ y.level.toNat then
          { y with level := BitVec.ofNat 32 (y.level.toNat - cost), ops := y.ops ++ [o 0],
                   busyUntil := if occ = 0 then y.busyUntil else s.cyc + occ, mmaxBy := by_ }
        else { y with ops := y.ops ++ [o cost], mmaxBy := by_ })
    let fresh := x.defines s.cur n3 = false
    (x0.queues s.cur = false → (∀ p ∈ ([.mma a, .mmaNc a, .mtrn a, .mcvt a] : List Instr), Holds p s (enters x0)) ∧
      ((s.quad q).mmaxOther s.cur = false →
        ∀ p ∈ ([.mmax a b, .mmaxNc a b] : List Instr), Holds p s (enters { x0 with mmaxBy := some s.cur }))) ∧
    ((s.quad q).mmaxOther s.cur = true → ∀ p ∈ ([.mmax a b, .mmaxNc a b] : List Instr), Holds p s s) ∧
    (x0.queues s.cur = true → s.arbiter q = some s.cur → (x.name n3).st = .declared →
      (x.name n3).owner = s.cur ∨ ((x.name n3).owner = 0 ∧ t.core % 4 = (x.name n3).dcore ∧ t.slot = some (x.name n3).dslot) →
    (∀ p ∈ ([(.mma a, some n2), (.mmaNc a, none)] : List (Instr × Option Nat)), let reads := [n0, n1] ++ p.2.toList
      let k := tagCols (x.name n0).tag + 1
      p.2 ≠ some n3 → isAcc (x.name n3).tag = true → (∀ n ∈ reads, good n) →
      productChecks ta tb (some ((x.name n0).tag, n0)) (x.name n1).tag n1 (p.2.map fun n => ((x.name n).tag, n)) = none →
      (fresh ∧ s0.typeBusy t.core ta = false ∧ s0.typeBusy t.core tb = false →
        Completes p.1 s t (accepted s0 (.mma p.2) reads none none (productCost ta tb k) (occupancy ta tb k))) ∧
      (¬fresh ∨ s0.typeBusy t.core ta = true ∨ s0.typeBusy t.core tb = true → Holds p.1 s (keeps s0))) ∧
    (∀ p ∈ ([(.mmax a b, some n2), (.mmaxNc a b, none)] : List (Instr × Option Nat)),
      let px := g.toNat / 2 ^ 40 % 8
      let py := g.toNat / 2 ^ 43 % 8
      let w := g.toNat / 2 ^ 32 % 8 + 1
      let h := g.toNat / 2 ^ 35 % 8 + 1
      let org := q - px - 16 * py
      let off := (t.g b).toNat % 2 ^ 32
      let reads := (if px = 0 then [n0] else []) ++ p.2.toList
      let bs := Memory.bytes s.mem (regionKey q off) 4672
      let gb : BitVec 29 := BitVec.ofNat 29 (leNat (bs.take 8) / 2 ^ 35)
      let ob : Operand := ⟨gb, (bs.drop 64).take 4096, bs.drop 4160⟩
      let k := tagCols gb + 1
      let y : Quad := { x with mmaxBy := some s.cur }
      let sent : State → Operand → State := fun s oa =>
        let s1 := accepted s (.mmax p.2 (decide (px + 1 < w))) reads (some oa) (some ob) (productCost ta tb k) (occupancy ta tb k)
        if px + 1 < w then s1.putQuad (q + 1) { s1.quad (q + 1) with
          streams := (s1.quad (q + 1)).streams ++ [⟨t.birthJob, org, w, oa, false⟩] } else s1
      let mine := x.streams.find? fun m => m.arrived && m.origin == org && m.job == t.birthJob
      px < w → py < h → px ≤ q % 16 → py ≤ q / 16 % 16 → q % 16 - px + w ≤ 16 → q / 16 % 16 - py + h ≤ 16 →
      (∀ dy < h, ∀ dx < w, s.coreIn t.vf (4 * (org + 16 * dy + dx)) = true) →
      p.2 ≠ some n3 → isAcc (x.name n3).tag = true → (∀ n ∈ reads, good n) → x.bvf = t.vf → off + 4672 ≤ x.regionSize → off % 64 = 0 →
      productChecks ta tb (if px = 0 then some ((x.name n0).tag, n0) else none) gb n1 (p.2.map fun n => ((x.name n).tag, n)) = none →
      s.poisoned (regionKey q off) 4672 = false → fresh → s0.typeBusy t.core ta = false → s0.typeBusy t.core tb = false →
      (s.quad q).mmaxOther s.cur = false →
      (px = 0 → Completes p.1 s t (sent (s.putQuad q y) (x.name n0).operand)) ∧
      (px ≠ 0 → ∀ m, mine = some m → let s1 := s.putQuad q { y with streams := x.streams.filter (· ≠ m) }
        (m.w = w ∧ tagT m.a.tag = ta ∧ tagCols m.a.tag = tagCols gb → Completes p.1 s t (sent s1 m.a)) ∧
        (m.w ≠ w ∨ tagT m.a.tag ≠ ta ∨ tagCols m.a.tag ≠ tagCols gb →
          exec p.1 s = .next (s1.trapMe (t.countWatch (s.watchStep t)) 0x23 0x100#64))) ∧
      (px ≠ 0 → mine = none → Holds p.1 s (keeps ((s.putQuad q y).parkMe t .stream)))) ∧
    (let gs := (x.name n2).tag
     let gd := (x.name n3).tag
     good n2 → fresh →
     (tagT gd = tagT gs → tagRows gd = tagCols gs → tagCols gd = tagRows gs → tagO gd = 1 - tagO gs → tagCols gs ≤ 31 → tagNsc gs = 0 → tagNsc gd = 0 →
       Completes (.mtrn a) s t (accepted s0 .mtrn [n2] none none 32 32)) ∧
     (8 ≤ tagT gs → tagT gs ≤ 10 → 8 ≤ tagT gd → tagT gd ≤ 13 → tagRows gd = tagRows gs → tagCols gd = tagCols gs → tagO gd = tagO gs →
       (tagNsc gs = 0 ∨ (tagRows gs + 1) * tagBlocks gs ≤ tagNsc gs) → (tagNsc gd = 0 ∨ (tagRows gs + 1) * tagBlocks gs ≤ tagNsc gd) →
       s0.typeBusy t.core (tagT gd) = false →
       (∀ r ∈ mcvtAll ((s.core t.core).ctx t) (x.name n2).operand (x.name n3).operand, r ≠ none) →
       Completes (.mcvt a) s t (accepted s0 .mcvt [n2] none none 32 32))))

/-- For every state: VECTOR_COMPLETION of a strand with uncompleted vector instructions ORs the oldest one's flags into FFLAGS and
takes it off the queue; MATRIX_COMPLETION of a strand whose oldest accepted instruction can complete takes it off the unit, and
a TGET leaves 64 bytes of its name in the vector register, an MLUT its table in the core, a product, transposition or
conversion whose destination is still the declaration it was accepted for defines that name with its result and ORs its flags,
a TSEAL defines it with the bytes it holds and an MZERO with zeros, and one whose declaration was broken changes nothing more;
one that owes energy stays, and so does one that defines a name while a store that its strand issued before it is buffered;
DRAIN_COMPLETE frees the draining name whose turn it is; A_STREAM_ARRIVAL marks the oldest stream of the quad arrived, unless
the west neighbour that sends it still owes energy, and lets the waiting MMAX go on. Completes: vectorCompletion,
matrixCompletion, drainComplete, aStreamArrival. (R151, R130, R157, R158, R164, R55, R168, 95_what_each_step_holds.md) -/
def Obligations.MatrixAndVectorCompletions : Prop :=
  ∀ (s : State) (u q n : Nat) (t : Strand), s.strand? u = some t →
    let x := s.quad (quadOf t.core)
    (∀ f r, t.vflags = f :: r → exec (.vectorCompletion u) s = .next (s.putStrand u
      { t with vflags := r, sys := { t.sys with fflags := t.sys.fflags ||| f.setWidth 64 } })) ∧
    (∀ o, x.oldest u = some o → o.owes ≠ 0 → exec (.matrixCompletion u) s = .next s) ∧
    (∀ o, x.oldest u = some o → o.owes = 0 →
      let s1 := s.putQuad (quadOf t.core) { x with ops := dropOp o x.ops }
      (∀ vm h, o.kind = .tget vm h → o.dest = none →
        let m := x.name (o.reads.headD 0)
        exec (.matrixCompletion u) s = .next (s1.putStrand u (t.setV (BitVec.ofNat 5 vm)
          (bytesLine (if h < 64 then (m.data.drop (64 * h)).take 64 else (m.side.drop (64 * (h - 64))).take 64))))) ∧
      (∀ va sd, o.kind = .tst va sd → o.dest = none → (∀ e ∈ t.buf, e.va ≠ va ∨ e.segs.length < 8) → exec (.matrixCompletion u) s = .next s1) ∧
      (∀ b nib img, o.kind = .mlut b nib img → o.dest = none → exec (.matrixCompletion u) s = .next (s1.putCore t.core ((s1.core t.core).loadTable b nib img))) ∧
      (o.dest ≠ none → (∃ e ∈ t.buf, e.stamp < o.stamp) → exec (.matrixCompletion u) s = .next s) ∧
      (∀ m, o.dest = some m → (∀ e ∈ t.buf, o.stamp ≤ e.stamp) → o.kind = .seal ∨ o.kind = .mzero →
        let z : Name := if o.kind = .seal then x.name m
          else { x.name m with data := List.replicate 4096 0#8, poison := (x.name m).poison.filter (256 ≤ ·) }
        ((x.name m).st = .declared → (x.name m).decl = o.decl →
          exec (.matrixCompletion u) s = .next ((s1.putStrand u t).define (quadOf t.core) m z)) ∧
        ((x.name m).st ≠ .declared ∨ (x.name m).decl ≠ o.decl → exec (.matrixCompletion u) s = .next s1)) ∧
      (∀ m, o.dest = some m → (∀ e ∈ t.buf, o.stamp ≤ e.stamp) → (∃ c, o.kind = .mma c) ∨ (∃ c, o.kind = .mmax c false) ∨
          (∃ c, o.kind = .mmax c true ∧ ∀ st ∈ (s.quad (quadOf t.core + 1)).streams, st.arrived = true) ∨ o.kind = .mtrn ∨ o.kind = .mcvt →
        ((x.name m).st = .declared → (x.name m).decl = o.decl → exec (.matrixCompletion u) s = .next
          ((s1.putStrand u (t.orFlags (o.result x (x.name m)).2)).define (quadOf t.core) m
            { x.name m with data := (o.result x (x.name m)).1, poison := (x.name m).poison.filter (256 ≤ ·) })) ∧
        ((x.name m).st ≠ .declared ∨ (x.name m).decl ≠ o.decl → exec (.matrixCompletion u) s = .next s1))) ∧
    ((s.quad q).drainNext = some n → exec (.drainComplete q n) s = .next (s.freeName q n)) ∧
    (∀ m r, (s.quad q).streams = m :: r → m.arrived = false →
      q % 16 = 0 ∨ (∀ o ∈ (s.quad (q - 1)).ops, o.owes = 0) → exec (.aStreamArrival q) s = .next
        ((s.putQuad q { s.quad q with streams := { m with arrived := true } :: r }).wake fun _ t w => w == .stream && quadOf t.core == q))

/-- For every state with a ready strand and each kind of SEND, in the order of R174: the form of the route word and the length rule
of the kind (0x51, g[a]), the top byte of an entry's TARGET (0x04, g[b]), the range of TARGET (0x51, g[b]) before its alignment
(0x03, g[b]), the payload inside the pool (0x05, g[a]), the weirs over the payload as a read (0x08, the lowest refused byte),
the route (0x09, g[a]: no valid table entry, or for SELF a core that is not the partition's or is skip-masked), once no read of
its table entry waits for the host. Each trap is taken when the checks before it pass and its own fails; the trap is all that
happens. (R174) -/
def Obligations.SendChecksInOrder : Prop :=
  ∀ (s : State) (t : Strand) (a b : BitVec 5), Ready s t →
    ∀ p ∈ ([(.sendEnt a b, 0), (.sendCode a b, 1), (.sendData a b, 2), (.sendCnt a b, 3)] : List (Instr × Nat)), let k := p.2
    let x := t.g a
    let y := t.g b
    let len := bitsNat x 30 22
    let xf := bitsNat x 21 19
    let poff := bitsNat x 16 0
    let widest := match xf with
      | 1 => 4 * len
      | 2 => 8 * len
      | 3 => len / 4
      | _ => len
    let align := match xf with
      | 1 => 2
      | 2 => 4
      | 4 => len / 64
      | 5 => len / 64
      | 6 => len / 64
      | 7 => 4
      | _ => 1
    let c1 : Prop := bitAt x 17 = false ∧ len ≤ 256 ∧ (k ≠ 2 → xf = 0) ∧ (k ≠ 0 → bitAt x 18 = false)
    let c2 : Prop := (k = 1 → 4 ≤ len ∧ (len < 16 → len % 4 = 0)) ∧ (k = 3 → len = 0) ∧
      (k = 2 → (xf = 3 → len % 8 = 0) ∧ (xf = 4 ∨ xf = 5 ∨ xf = 6 → len = 64 ∨ len = 128 ∨ len = 256) ∧ (xf = 7 → len % 4 = 0))
    let c3 : Prop := k = 0 → bitsNat y 63 56 = 0
    let c4r : Prop := (k = 3 → y.toNat < 131072) ∧ (k = 2 → y.toNat + widest ≤ 131072) ∧ (k = 1 → y = 0#64)
    let c4a : Prop := (k = 0 → y.toNat % 4 = 0) ∧ (k = 3 → y.toNat % 64 = 0) ∧ (k = 2 → y.toNat % align = 0)
    let c5 : Prop := poff + len ≤ 131072
    let c6 := if len = 0 then none else weirRefuses t.weirs (poolVa t.core poff) len 2
    let dpkg := bitsNat x 63 46
    let place := hilbertOf (quadOf (bitsNat x 45 31))
    let c7 : Prop := bitAt (s.lpt t.vf dpkg).2 63 = true ∧
      (dpkg = (s.part t.vf).self → (s.part t.vf).holds place = true ∧ place ∉ s.skip)
    (¬c1 ∨ ¬c2 → Traps p.1 s t 0x51 x) ∧
    (c1 → c2 → ¬c3 → Traps p.1 s t 0x04 y) ∧
    (c1 → c2 → c3 → ¬c4r → Traps p.1 s t 0x51 y) ∧
    (c1 → c2 → c3 → c4r → ¬c4a → Traps p.1 s t 0x03 y) ∧
    (c1 → c2 → c3 → c4r → c4a → ¬c5 → Traps p.1 s t 0x05 x) ∧
    (c1 → c2 → c3 → c4r → c4a → c5 → ∀ v, c6 = some v → Traps p.1 s t 0x08 (BitVec.ofNat 64 v)) ∧
    (c1 → c2 → c3 → c4r → c4a → c5 → c6 = none → s.lptWait t.vf dpkg = none → ¬c7 → Traps p.1 s t 0x09 x)

/-- For every state with a ready strand whose stores are performed and whose core has its credit: each SEND whose checks pass
completes with one message counted sent for its job (in SR too when the destination is retiring) and one packet in the fabric
with the header of R50, TARGET and the LEN bytes of the own pool at POFF, the poisoned ones marked; SPAWN and SPAWN.H (outside
a code image) do so with an entry message to the issuing core whose payload is six registers, and trap on their register number
and target as R192 says. No register is written. While the core waits for credit or the strand's stores are not performed,
nothing happens but what the route look-up caches (LPT); while the table entry's line waits for the host, the strand parks.
Completes: sendEnt, sendCode, sendData, sendCnt, spawn, spawnH. (R175, R192, R50, R306, R309, 09_ref_messages_tasks.md) -/
def Obligations.SendsAndSpawnsComplete : Prop :=
  ∀ (s : State) (t : Strand) (a b : BitVec 5), Ready s t →
    let job := bitsNat t.sys.job 15 0
    let x := t.g a
    let self := (s.part t.vf).self
    (∀ p ∈ ([(.sendEnt a b, 0), (.sendCode a b, 1), (.sendData a b, 2), (.sendCnt a b, 3)] : List (Instr × Nat)), ∀ s1 port ret, sendChecks p.2 x (t.g b) t = none →
      s.lptWait t.vf (bitsNat x 63 46) = none → s.sendRoute t.vf (bitsNat x 63 46) (bitsNat x 45 31) = some (s1, port, ret) →
      let len := bitsNat x 30 22
      let from_ := memPool + t.core * 2 ^ 17 + bitsNat x 16 0
      let m : Msg := ⟨header job t.core (s1.part t.vf).self len (bitsNat x 18 18) (bitsNat x 21 19) p.2, field64 (bitsNat (t.g b) 55 0) 0,
        Memory.bytes s1.mem from_ len, t.vf, bitsNat x 45 31, bitsNat x 63 46, 0, ret, t.anc,
        ((List.range len).filter fun i => s1.poisoned (from_ + i) 1).map (16 + ·)⟩
      ((s1.core t.core).noCredit = [] → t.buf = [] →
        Completes p.1 s t (((if ret then (s1.sent t.core m.job).countMarked t.core m.job 1 0 else s1.sent t.core m.job)).post
          .message m.job t.core m.dcore port (.msg m))) ∧
      ((s1.core t.core).noCredit ≠ [] ∨ t.buf ≠ [] → Holds p.1 s s1)) ∧
    (∀ p ∈ ([(.sendEnt a b, 0), (.sendCode a b, 1), (.sendData a b, 2), (.sendCnt a b, 3)] : List (Instr × Nat)), ∀ w, sendChecks p.2 x (t.g b) t = none →
      s.lptWait t.vf (bitsNat x 63 46) = some w → Holds p.1 s ((s.askHost w false).parkMe t w)) ∧
    (Plain t → ∀ p ∈ ([(.spawn a b, 0), (.spawnH a b, 1)] : List (Instr × Nat)),
      (b = 0#5 ∨ 26 < b.toNat → Traps p.1 s t 0x01 s.wordTval) ∧
      (b ≠ 0#5 → b.toNat ≤ 26 →
        (bitsNat x 63 56 ≠ 0 → Traps p.1 s t 0x04 x) ∧
        (bitsNat x 63 56 = 0 → x.toNat % 4 ≠ 0 → Traps p.1 s t 0x03 x) ∧
        (bitsNat x 63 56 = 0 → x.toNat % 4 = 0 → (s.core t.core).noCredit ≠ [] ∨ t.buf ≠ [] → Holds p.1 s s) ∧
        (bitsNat x 63 56 = 0 → x.toNat % 4 = 0 → (s.core t.core).noCredit = [] → t.buf = [] →
          ∀ w, s.lptWait t.vf self = some w → Holds p.1 s ((s.askHost w false).parkMe t w)) ∧
        (bitsNat x 63 56 = 0 → x.toNat % 4 = 0 → (s.core t.core).noCredit = [] → t.buf = [] → s.lptWait t.vf self = none →
          let s1 := (s.lpt t.vf self).1
          let e := (s.lpt t.vf self).2
          ∃ m : Msg, m.hdr0 = header job t.core self 48 p.2 0 0 ∧ m.hdr1 = field64 (bitsNat x 55 0) 0 ∧ m.vf = t.vf ∧ m.dcore = t.core ∧
            m.dpkg = self ∧ m.anc = t.anc ∧ m.bad = [] ∧ m.payload.length = 48 ∧
            (∀ k < 6, (dwords m.payload 6)[k]? = some (t.gN (b.toNat + k))) ∧ m.marked = (bitAt e 63 && bitAt e 62) ∧
            Completes p.1 s t (s1.sendMsg t m none))))

/-- For every state with a ready strand: MW of a valid window reads the doubleword of the window image at an aligned offset up to
264, and traps 0x51 or 0x03 otherwise; MREL releases the window or does nothing; DQPUT of a good record pushes it at the owner
end and counts it sent, with the traps of R185 before, and holds while the deque is full or the strand's stores are not
performed (that hold, and TRIGGER's, are the model's choice, notes/assumptions/33.md); outside a code image DQTAKE answers 0 on
an empty deque, takes a task record with its four doublewords, its g[d] (the record before g[d]: the model's choice,
notes/assumptions/38.md) and its message consumed, answers 2 on a sweep or gang record; TRIGGER marks a strand of a launch once
its stores are performed, and else does nothing. Completes: mw, mrel, dqput, dqtake, trigger. (R182, R185, R186, R189, R306,
R51, 09_ref_messages_tasks.md) -/
def Obligations.WindowDequeAndTriggerComplete : Prop :=
  ∀ (s : State) (t : Strand) (a b d : BitVec 5), Ready s t →
    let job := bitsNat t.sys.job 15 0
    let off := (t.g a).toNat
    let c := s.core t.core
    let w : Nat → Word64 := fun k => t.gN (a.toNat + k)
    (t.win = none ∨ t.released = true → Traps (.mw a d) s t 0x51 (t.g a) ∧
      (t.win = none → Completes .mrel s t s)) ∧
    (∀ m, t.win = some m → Completes .mrel s t (s.putMe { t with released := true }) ∧ (t.released = false →
      (off % 8 ≠ 0 → Traps (.mw a d) s t 0x03 (t.g a)) ∧
      (off % 8 = 0 → 264 < off → Traps (.mw a d) s t 0x51 (t.g a)) ∧
      (off % 8 = 0 → off ≤ 264 → Writes (.mw a d) s t d (BitVec.ofNat 64 (leNat ((m.image.drop off).take 8)))))) ∧
    (a = 0#5 ∨ 28 < a.toNat → Traps (.dqput a) s t 0x01 s.wordTval) ∧
    (a ≠ 0#5 → a.toNat ≤ 28 →
      (∀ e, recordChecks (w 0) (w 3) = some e → Traps (.dqput a) s t e.1 e.2) ∧
      (recordChecks (w 0) (w 3) = none → c.full = true ∨ t.buf ≠ [] → Holds (.dqput a) s s) ∧
      (recordChecks (w 0) (w 3) = none → c.full = false → t.buf = [] → Completes (.dqput a) s t
        ((s.sent t.core job).push t.core ⟨.task (w 0) (w 1) (w 2) (w 3), job, t.vf, 0, 0, t.anc⟩))) ∧
    (Plain t →
      (b = 0#5 ∨ 28 < b.toNat → Traps (.dqtake b d) s t 0x01 s.wordTval) ∧
      (b ≠ 0#5 → b.toNat ≤ 28 →
        (c.deque = [] → Writes (.dqtake b d) s t d 0#64) ∧
        (∀ r rest, c.deque = r :: rest →
          (∀ d0 d1 d2 d3, r.body = .task d0 d1 d2 d3 → Completes (.dqtake b d) s t
            (((s.putCore t.core { c with deque := rest }).putMe
              (((((t.setGN b.toNat d0).setGN (b.toNat + 1) d1).setGN (b.toNat + 2) d2).setGN (b.toNat + 3) d3).setG d 1#64)).count t.core r.job 0 1)) ∧
          ((∀ d0 d1 d2 d3, r.body ≠ .task d0 d1 d2 d3) → Writes (.dqtake b d) s t d 2#64))) ∧
      (t.launch = 0 ∨ t.triggered = true → Completes .trigger s t s) ∧
      (t.launch ≠ 0 → t.triggered = false → t.buf ≠ [] → Holds .trigger s s) ∧
      (t.launch ≠ 0 → t.triggered = false → t.buf = [] → Completes .trigger s t (s.putMe { t with triggered := true })))

/-- For every state with a ready strand outside a code image whose stores are performed: LAUNCH of a descriptor that reads as 64
bytes (loads of the strand), passes the checks of a sweep and names a predecessor in g[b][15:0] alone completes: the job's
launch counter gives the ID that g[d] gets and moves on, skipping 0, the launch is counted sent (a job's first launch on
counters that start again at 0), and its record is pushed at the owner end, on a die that is not fenced, or waits for its
predecessor; LAUNCH.GANG does the same with a descriptor of 64 + 64 n bytes. A failed check traps with its cause and TVAL after
the descriptor was read (which of two broken rules of one gang doubleword counts is the model's choice,
notes/assumptions/104.md), g[b] above its low 16 bits traps 0x51. Completes: launch, launchGang. (R187, R188, R189, R190, R306,
09_ref_messages_tasks.md) -/
def Obligations.LaunchesComplete : Prop :=
  ∀ (s : State) (t : Strand) (a b d : BitVec 5), Ready s t → Plain t → t.buf = [] →
    let job := bitsNat t.sys.job 15 0
    let addr := (t.g a).toNat
    let high := bitsNat (t.g b) 63 16
    let done : Instr → State → Body → Prop := fun i s' body =>
      let pred := s'.predecessor job (bitsNat (t.g b) 15 0)
      let id := (s'.job job).nextLaunch
      let r : Rec := ⟨body, job, t.vf, s'.nextUid, id, s'.nextUid :: t.anc⟩
      s'.me = some t →
      (s'.launchHeld t.vf pred = false → (s'.core t.core).full = true → Holds i s s') ∧
      (s'.launchHeld t.vf pred = true ∨ (s'.core t.core).full = false → ∃ s2 : State,
        Completes i s t (s2.putMe (t.setG d (BitVec.ofNat 64 id))) ∧
        (s2.job job).nextLaunch = (if id = 65535 then 1 else id + 1) ∧
        ((s2.core t.core).counters job).s = (if (s'.job job).launched then ((s'.core t.core).counters job).s
          else (FMap.getD (FMap.erase (s'.core t.core).cnt job) job Counters.reset).s) + 1#64 ∧
        (s'.launchHeld t.vf pred = false → (s'.die (dieOf t.core)).fenced = false → (s2.core t.core).deque = r :: (s'.core t.core).deque ∧ s2.pending = s'.pending) ∧
        (s'.launchHeld t.vf pred = true → (s2.core t.core).deque = (s'.core t.core).deque ∧ s2.pending.map Pending.rec_ = s'.pending.map Pending.rec_ ++ [r]) ∧
        s2.mem = s'.mem ∧ s2.strands = s'.strands)
    (∀ s' bs, regionRead (t.g a) 64 64 t s = .ok (s', bs) →
      let ws := dwords bs 8
      let w : Nat → Word64 := fun k => (ws[k]?).getD 0#64
      (∀ c v, sweepChecks (s'.strandSlots t.vf) (w 0) (w 1) = some (c, v) → s'.me = some t → Holds (.launch a b d) s (s'.trapMe (t.countWatch (s.watchStep t)) c v)) ∧
      (sweepChecks (s'.strandSlots t.vf) (w 0) (w 1) = none →
        (high ≠ 0 → s'.me = some t → Holds (.launch a b d) s (s'.trapMe (t.countWatch (s.watchStep t)) 0x51 (t.g b))) ∧
        (high = 0 → done (.launch a b d) s' (.sweep (w 0) (w 1) ((ws.drop 2).take 6) 0))) ∧
      (let n := bitsNat (w 0) 2 0
       (n < 2 ∨ 4 < n → s'.me = some t → Holds (.launchGang a b d) s (s'.trapMe (t.countWatch (s.watchStep t)) 0x51 (BitVec.ofNat 64 addr))) ∧
       (2 ≤ n → n ≤ 4 → ∀ s'' cs, regionRead (t.g a) (64 + 64 * n) 64 t s' = .ok (s'', cs) →
         let gs := dwords cs (8 + 8 * n)
         (∀ c v, gangChecks (s''.strandSlots t.vf) addr gs = some (c, v) → s''.me = some t → Holds (.launchGang a b d) s (s''.trapMe (t.countWatch (s.watchStep t)) c v)) ∧
         (gangChecks (s''.strandSlots t.vf) addr gs = none →
           (high ≠ 0 → s''.me = some t → Holds (.launchGang a b d) s (s''.trapMe (t.countWatch (s.watchStep t)) 0x51 (t.g b))) ∧
           (high = 0 → done (.launchGang a b d) s'' (launchRecord true addr gs))))))

/-- For every state with a ready strand outside a code image: PRES on a producer end and PWAIT on a consumer end, in a resident
strand or a gang member, write the aperture address of slot IDX to g[d], or park while the ring is full (PRES) or empty
(PWAIT); in a handler or task they trap 0x01, and on an absent handle or the wrong end 0x43 with the handle. PADV on an end
that may advance adds one to the count of its end in the ring's control line, steps IDX round the ring in its handle, and lets
the strands that wait on that ring look again, no other byte changed; once software has stored to a ring's counts, what PRES,
PWAIT and PADV find and leave there are free values of Config (notes/assumptions/62.md), and that PADV holds until the strand's
stores are performed is the model's choice (notes/assumptions/33.md); on an absent handle, a full ring (producer) or an empty
one (consumer) it traps 0x43 with the handle. Completes: pres, pwait, padv. (R191, R40, R46, R47, 09_ref_messages_tasks.md) -/
def Obligations.PipesComplete : Prop :=
  ∀ (s : State) (t : Strand) (h : BitVec 3) (d : BitVec 5), Ready s t → Plain t →
    let x := t.h h
    let k := pipeKey (dieOf t.core) x
    let own := s.pipeOwn k
    let fill := if own then (Memory.dword s.mem k - Memory.dword s.mem (k + 8)).toNat else Config.pipeFill s.tick
    let slots := 2 ^ bitsNat x 55 52
    let at_ := if bitAt x 62 then k else k + 8
    (∀ p ∈ ([(.pres h d, true, slots), (.pwait h d, false, 0)] : List (Instr × Bool × Nat)),
      (t.kind = .handler ∨ t.kind = .task → Traps p.1 s t 0x01 s.wordTval) ∧
      (t.kind = .resident ∨ t.kind = .gang →
        (bitAt x 63 = false ∨ bitAt x 62 ≠ p.2.1 → Traps p.1 s t 0x43 x) ∧
        (bitAt x 63 = true → bitAt x 62 = p.2.1 → fill = p.2.2 →
          Holds p.1 s (s.putMe { t with run := .waiting (.pipe h.toNat), since := s.tick })) ∧
        (bitAt x 63 = true → bitAt x 62 = p.2.1 → fill ≠ p.2.2 → Writes p.1 s t d (BitVec.ofNat 64 (2 ^ 56 - 2 ^ 27 +
          bitsNat x 51 42 * 2 ^ 17 + bitsNat x 41 25 + bitsNat x 24 17 * (64 * 2 ^ bitsNat x 59 56)))))) ∧
    (bitAt x 63 = false ∨ (bitAt x 62 = true ∧ fill = slots) ∨ (bitAt x 62 = false ∧ fill = 0) → Traps (.padv h) s t 0x43 x) ∧
    (bitAt x 63 = true → (bitAt x 62 = true → fill ≠ slots) → (bitAt x 62 = false → fill ≠ 0) →
      (t.buf ≠ [] → Holds (.padv h) s s) ∧
      (t.buf = [] → Completes (.padv h) s t (((s.pipeCount k at_).putMe
        (t.setH h ((x &&& ~~~(field64 255 17)) ||| field64 ((bitsNat x 24 17 + 1) % slots) 17))).wake fun _ u w =>
          match w with
          | .pipe i => dieOf u.core == dieOf t.core && pipeKey (dieOf u.core) (u.h (BitVec.ofNat 3 i)) == k
          | _ => false)) ∧
        (Memory.wf s.mem = true →
          Memory.dword (s.pipeCount k at_).mem at_ = BitVec.ofNat 64 (if own then (Memory.dword s.mem at_).toNat + 1 else Config.pipeCount s.tick) ∧
          ∀ y, y < at_ ∨ at_ + 8 ≤ y → Memory.read (s.pipeCount k at_).mem y = Memory.read s.mem y))

/-- For every state with a ready strand outside a code image: BARSET of a good word binds b[d] to the instance (its phase, its
count fixed by the first BARSET of an idle number and compared by the later ones) and traps 0x42 with the old register on each
misuse of R198; BARARR of a bound register that has neither arrived nor left sets A and sends one arrival to the home with the
phase and the contribution, once the strand's stores are performed, and traps 0x42 otherwise; BARWAIT traps 0x01 in a handler
or task, 0x42 when V = 0, parks while A = 1 and completes when A = 0, advancing the quad's generation at scopes p and s and
where the phase delivered reduction results; BARLEAVE of a bound register sets W and sends one withdrawal, once the strand's
stores are performed, and else does nothing; BARLEAVE.O traps 0x42 on a scope outside 1 to 4, waits for the stores of its
issuer and of those it names, and then withdraws the bound participant that g[b] names by core and slot (scopes q, d, p), or at
scope s every one of the named package: the register reads W = 1 and a withdrawal goes to the home, every other strand and
memory as before; it does nothing where nobody is bound to that number and none was lost. The holds until the stores are
performed are the model's choice (notes/assumptions/33.md), and so is that a withdrawal sets W alone (notes/assumptions/81.md).
Completes: barset, bararr, barwait, barleave, barleaveO. (R41, R46, R197, R198, R199, R313, 09_ref_messages_tasks.md) -/
def Obligations.BarrierInstructionsComplete : Prop :=
  ∀ (s : State) (t : Strand) (a b : BitVec 5) (d : BitVec 2), Ready s t → Plain t →
    let old := t.b d
    let x := t.g a
    let y := t.g b
    let sc := bitsNat x 2 0
    let num := bitsNat x 15 8
    let i := s.barrier t.vf t.birthJob sc num (barPlace sc t.core t.birthJob)
    let misuse : Prop := (bitAt old 63 = true ∧ bitAt old 57 = false) ∨ sc = 0 ∨ 4 < sc ∨ bitsNat x 63 16 ≠ 0 ∨ bitsNat x 7 3 ≠ 0 ∨
      y = 0#64 ∨ 2 ^ 32 ≤ y.toNat ∨ (i.parts ≠ 0 ∧ i.count ≠ y.toNat)
    let bound : Prop := bitAt old 63 = true ∧ bitAt old 57 = false
    let named : Strand → Prop := fun p => p.vf = t.vf ∧ barPlace sc p.core p.birthJob = barPlace sc t.core t.birthJob ∧
      p.boundTo sc num ≠ [] ∧ (if sc = 4 then p.birthJob = t.birthJob ∧ bitsNat y 49 32 = (s.part t.vf).self
        else p.core = bitsNat y 16 2 ∧ p.slot = some (bitsNat y 1 0))
    (misuse → Traps (.barset a b d) s t 0x42 old) ∧
    (¬misuse → Completes (.barset a b d) s t ((s.putBarrier
        { i with count := if i.parts = 0 then y.toNat else i.count, parts := if i.parts = 0 then y.toNat else i.parts,
                 arrivals := if i.parts = 0 then 0 else i.arrivals, members := i.members ++ [⟨s.cur, d.toNat, none⟩] }).putMe
        { t.setB d (field64 1 63 ||| field64 sc 60 ||| field64 (if i.ph then 1 else 0) 59 ||| field64 num 32 ||| field64 y.toNat 0) with
          reduced := t.reduced.filter (· ≠ d.toNat) })) ∧
    (¬bound ∨ bitAt old 58 = true → Traps (.bararr d) s t 0x42 old) ∧
    (bound → bitAt old 58 = false → t.buf ≠ [] → Holds (.bararr d) s s) ∧
    (bound → bitAt old 58 = false → t.buf = [] →
      let p := s.contribution t (barSc old) (barNum old)
      Completes (.bararr d) s t ((p.1.putMe (t.setB d (old ||| field64 1 58))).post .control t.birthJob t.core (p.1.barHome t.vf (barSc old) t.core) none
        (.arrive t.vf t.birthJob (barSc old) (barNum old) (bitAt old 59) s.cur d.toNat t.core (t.slot.getD 0) p.2))) ∧
    (t.kind = .handler ∨ t.kind = .task → Traps (.barwait d) s t 0x01 s.wordTval) ∧
    (t.kind = .resident ∨ t.kind = .gang →
      (bitAt old 63 = false → Traps (.barwait d) s t 0x42 old) ∧
      (bitAt old 63 = true → bitAt old 58 = true → Holds (.barwait d) s (s.putMe { t with run := .waiting (.barrier d.toNat), since := s.tick })) ∧
      (bitAt old 63 = true → bitAt old 58 = false →
        let s1 := s.putMe { t with reduced := t.reduced.filter (· ≠ d.toNat) }
        Completes (.barwait d) s t (if 3 ≤ barSc old ∨ d.toNat ∈ t.reduced then s1.acquire (quadOf t.core) else s1))) ∧
    (bound → t.buf ≠ [] → Holds (.barleave d) s s) ∧
    (bound → t.buf = [] → ∃ s' : State, Completes (.barleave d) s t s' ∧ s'.me = some (t.setB d (old ||| field64 1 57)) ∧
      (∃ p, s'.packets = s.packets ++ [p] ∧ p.cls = .control ∧ p.src = t.core ∧ p.dst = s.barHome t.vf (barSc old) t.core ∧ p.port = none ∧
        p.body = .withdraw t.vf t.birthJob (barSc old) (barNum old) (bitAt old 59) (bitAt old 58) s.cur d.toNat) ∧ s'.mem = s.mem) ∧
    (¬bound → Completes (.barleave d) s t s) ∧
    (1 ≤ t.mode → (sc = 0 ∨ 4 < sc → Traps (.barleaveO a b) s t 0x42 x) ∧
      (1 ≤ sc → sc ≤ 4 → t.buf ≠ [] ∨ (∃ p ∈ s.strands, named p.2 ∧ p.2.buf ≠ []) → Holds (.barleaveO a b) s s) ∧
      (1 ≤ sc → sc ≤ 4 → t.buf = [] → (∀ p ∈ s.strands, named p.2 → p.2.buf = []) → FMap.wf s.strands = true →
        ∃ s' : State, exec (.barleaveO a b) s = .next (s.after t s') ∧ s'.mem = s.mem ∧
          (∀ u p, s.strand? u = some p → ¬named p → s'.strand? u = some p) ∧
          ∀ u p, s.strand? u = some p → named p → ∃ p', s'.strand? u = some p' ∧ { p' with regs := p.regs } = p ∧
            ∀ r, (r ∉ p.boundTo sc num → p'.b r = p.b r) ∧ (r ∈ p.boundTo sc num → p'.b r = p.b r ||| field64 1 57 ∧
              ∃ k ∈ s'.packets, k.dst = s.barHome p.vf sc p.core ∧
                k.body = .withdraw p.vf p.birthJob sc num (bitAt (p.b r) 59) (bitAt (p.b r) 58) u r.toNat)) ∧
      (1 ≤ sc → sc ≤ 4 → t.buf = [] → (∀ p ∈ s.strands, p.2.vf = t.vf → p.2.boundTo sc num = []) → (∀ m ∈ i.members, m.lost = none) →
        Completes (.barleaveO a b) s t s)) ∧
    (t.mode = 0 → Traps (.barleaveO a b) s t 0x02 s.wordTval)

/-- For every state and a packet that has reached its home: an arrival of the phase still open adds one arrival and its
contribution; a withdrawal takes one participant away, and one arrival with its contribution when it carries A = 1 for the open
phase, be it that this arrival is still on its way and comes after it, without its contribution; an arrival that carries
another phase changes nothing. When the arrivals then equal the participants and are not zero, the arrival count returns to
zero, the phase toggles, every participant's register has A cleared, PH toggled and CNT refreshed, those that wait on it run
on, and each job's results are delivered: where one participant has contributed, its N results and its status stand in its pool
and its register counts as reduced. Otherwise the counts stand as counted and strands and memory are as before. The packet is
gone, and a strand not bound to the instance and not contributing stays as it is. That an instance left with no participants
keeps its phase is the model's choice (notes/assumptions/45.md). Completes: barrierArrival, barrierWithdrawal. (R198, R311,
R313) -/
def Obligations.BarrierHomeDecides : Prop :=
  (∀ (r : Word64) (ph : Bool) (n : Nat), n < 2 ^ 32 → bitAt (completedReg r ph n) 58 = false ∧ bitAt (completedReg r ph n) 59 = ph ∧
    bitsNat (completedReg r ph n) 31 0 = n ∧ ∀ j < 64, 32 ≤ j → j ≠ 58 → j ≠ 59 → (completedReg r ph n).getLsbD j = r.getLsbD j) ∧
  (∀ (s : State) (b : Barrier) (job : Nat) (e : Word64) (c : Contrib) (t : Strand), (s.job job).entry b.sc b.num = some e →
    b.contrib.filter (fun c => c.job == job) = [c] → (∃ m ∈ b.members, m.uid = c.uid ∧ m.b = c.b ∧ m.lost = none) →
    s.strand? c.uid = some t → Memory.wf s.mem = true →
    let k := memPool + c.core * 2 ^ 17 + bitsNat e 50 34
    let z := reduceWords e [c]
    let s' := s.deliverResults b job
    c.slot < 4 → z.1.length ≤ 256 → Memory.bytes s'.mem (k + 256 * c.slot) z.1.length = z.1 ∧
      Memory.dword s'.mem (k + 1024 + 8 * c.slot) = BitVec.ofNat 64 (2 ^ 63 + (if c.words = [] then z.2 ||| flNV else z.2).toNat) ∧
      s'.strand? c.uid = some { t with reduced := c.b :: t.reduced }) ∧
  ∀ (s : State) (p : Packet), s.arrival p.id = some p → (∀ x ∈ s.packets, x.id = p.id → x = p) →
    let coming : Nat → Nat → Bool → Bool := fun u r ph => s.packets.any fun x => match x.body with
      | .arrive _ _ _ _ h v k _ _ _ => v == u && k == r && h == ph
      | _ => false
    let ends : State → Barrier → Prop := fun s' b =>
      let z := s'.barrier b.vf b.job b.sc b.num b.place
      (b.arrivals = b.parts → b.parts ≠ 0 → z.parts = b.parts ∧ z.arrivals = 0 ∧ z.ph = !b.ph ∧ z.gone = [] ∧
        (∀ m ∈ b.members, ∀ x, s.strand? m.uid = some x → ∃ x', s'.strand? m.uid = some x' ∧
          x'.b (BitVec.ofNat 2 m.b) = completedReg (x.b (BitVec.ofNat 2 m.b)) (!b.ph) b.parts ∧
          (x.run = .waiting (.barrier m.b) → x'.run = .running)) ∧
        s'.mem = ((b.contrib.map Contrib.job).dedup.foldl (fun s j => s.deliverResults b j) (s.dropPacket p)).mem) ∧
      (b.arrivals ≠ b.parts ∨ b.parts = 0 → z.parts = b.parts ∧ z.arrivals = b.arrivals ∧ z.ph = b.ph ∧ z.contrib = b.contrib ∧ z.gone = b.gone ∧
        s'.strands = s.strands ∧ s'.mem = s.mem)
    (∀ vf job sc num ph u r core slot ws, p.body = .arrive vf job sc num ph u r core slot ws →
      let b := s.barrier vf job sc num (barPlace sc core job)
      ∃ s' : State, exec (.barrierArrival p.id) s = .next s' ∧ s'.packets = s.packets.filter (fun x => x.id ≠ p.id) ∧
        (b.ph = ph →
          let mine : List Contrib := if (u, r) ∈ b.gone then [] else ws.toList.map fun w => ⟨u, r, job, core, slot, w⟩
          ends s' { b with arrivals := b.arrivals + 1, contrib := b.contrib ++ mine, gone := b.gone.erase (u, r) }) ∧
        (b.ph ≠ ph → s'.barriers = s.barriers ∧ s'.strands = s.strands ∧ s'.mem = s.mem) ∧
        (∀ v x, s.strand? v = some x → (∀ m ∈ b.members, m.uid ≠ v) → s'.strand? v = some x)) ∧
    (∀ vf job sc num ph hadA u r, p.body = .withdraw vf job sc num ph hadA u r →
      let b := s.barrier vf job sc num (barPlace sc p.src job)
      let back : Prop := hadA = true ∧ ph = b.ph
      ∃ s' : State, exec (.barrierWithdrawal p.id) s = .next s' ∧ s'.packets = s.packets.filter (fun x => x.id ≠ p.id) ∧
        ends s' { b with parts := b.parts - 1, arrivals := if back then b.arrivals - 1 else b.arrivals,
                         contrib := if back then b.contrib.filter (fun c => !(c.uid == u && c.b == r)) else b.contrib,
                         gone := if back ∧ coming u r ph = true then b.gone ++ [(u, r)] else b.gone } ∧
        (∀ v x, s.strand? v = some x → (∀ m ∈ b.members, m.uid ≠ v) → s'.strand? v = some x))

/-- For every state with a ready strand: QCOUNT writes S or C of the strand's job at its core to g[d]; outside a code image, QFIX
in supervisor mode or above adds g[b] to S or C of the named job at the core and traps 0x51 on the upper bits of g[a], 0x09 on
a job without a partition in the function; STILL, and STILL.TO in supervisor mode with a good word, in a resident strand or
gang member count one consumed (in CR too of a marked activation) and park until a later wave once nothing of the strand is
under way, its withdrawals included, and trap 0x01 in a handler or task; RESAMPLE of a population strand parks with its weight
and g[b], and traps 0x42 in any other strand. Completes: resample, still, stillTo, qcount, qfix. (R46, R193, R200, R201, R306,
R307, 09_ref_messages_tasks.md) -/
def Obligations.StillCountsAndResampleComplete : Prop :=
  ∀ (s : State) (t : Strand) (a b d : BitVec 5), Ready s t →
    let x := t.g a
    let c := (s.core t.core).counters t.birthJob
    let j := bitsNat x 15 0
    let parks : Instr → (Nat → Wait) → Prop := fun i w =>
      (s.canEnd s.cur t = false ∨ s.barrierTraffic s.cur = true → Holds i s s) ∧
      (s.canEnd s.cur t = true → s.barrierTraffic s.cur = false → Holds i s (((s.consumed t.core t.birthJob t.marked).startSeries t.birthJob).putMe
        { t with run := .waiting (w (s.job t.birthJob).wavesIssued), since := s.tick }))
    Writes (.qcount a d) s t d (if bitAt x 0 then c.c else c.s) ∧
    (Plain t →
      (t.mode = 0 → Traps (.qfix a b) s t 0x02 s.wordTval ∧ Traps (.stillTo a d) s t 0x02 s.wordTval) ∧
      (1 ≤ t.mode →
        (bitsNat x 63 17 ≠ 0 → Traps (.qfix a b) s t 0x51 x) ∧
        (bitsNat x 63 17 = 0 → (s.part t.vf).jobIndex j = none → Traps (.qfix a b) s t 0x09 x) ∧
        (bitsNat x 63 17 = 0 → (s.part t.vf).jobIndex j ≠ none → Completes (.qfix a b) s t
          ((if bitAt x 16 then s.count t.core j 0 (t.g b).toNat else s.count t.core j (t.g b).toNat 0).startSeries j))) ∧
      (t.kind = .handler ∨ t.kind = .task → Traps (.still d) s t 0x01 s.wordTval ∧ Traps (.resample a b d) s t 0x42 s.wordTval ∧
        (1 ≤ t.mode → Traps (.stillTo a d) s t 0x01 s.wordTval)) ∧
      (t.pop = none → Traps (.resample a b d) s t 0x42 s.wordTval) ∧
      (t.kind = .resident ∨ t.kind = .gang →
        parks (.still d) (fun n => .still d.toNat n) ∧
        (1 ≤ t.mode → bitsNat x 63 18 ≠ 0 → Traps (.stillTo a d) s t 0x51 x) ∧
        (1 ≤ t.mode → bitsNat x 63 18 = 0 → parks (.stillTo a d) (fun n => .stillTo d.toNat (bitsNat x 17 0) n)) ∧
        (t.pop ≠ none → s.canEnd s.cur t = true → Holds (.resample a b d) s
          (s.putMe { t with run := .waiting (.resample d.toNat (field64 (bitsNat x 31 0) 0) (t.g b)), since := s.tick })) ∧
        (t.pop ≠ none → s.canEnd s.cur t = false → Holds (.resample a b d) s s)))

/-- For every state and job: with no wave and one due, STILL_WAVE starts one over S and C, and CONFINED_WAVE one over SR and CR for
a retiring package that a STILL.TO names, numbered one later than the last; each further event reads the two counters of the
next interface into the sums of its pass, pass 2 after pass 1; WAVE_OUTCOME of a swept wave ends it, sets WAVESTAT of the job
to what R68 and R308 give from S1 = C1 = S2 = C2 and from the unchanged waves counted, and returns every strand that the
outcome releases: its g[d] holds WAVESTAT, it stands at the next instruction and runs; one that it does not release stays;
while the table entry that a STILL.TO names is with the host, the wave asks for it. That a confined wave sets WAVESTAT is the
model's choice (notes/assumptions/46.md). Completes: stillWave, waveOutcome, confinedWave. (R68, R200, R306, R307, R308, R309)
-/
def Obligations.WavesReadCountersAndRelease : Prop :=
  ∀ (s : State) (job : Nat),
    let j := s.job job
    (∀ w, s.retireWait job = some w → (j.wave = none → exec (.confinedWave job) s = .next (s.askHost w false)) ∧
      (∀ v, j.wave = some v → j.swept = true → exec (.waveOutcome job) s = .next (s.askHost w false))) ∧
    (∀ c, j.wave = none → s.waveDue job = true → (c ≠ none → s.retireWait job = none) → (c = none ∨ ∃ l, c = some l ∧ s.confinedFor job = some l) →
      ∃ s' : State, exec (if c = none then .stillWave job else .confinedWave job) s = .next s' ∧
        (s'.job job).wave = some ⟨c, 1, s.waveCores job, 0#64, 0#64, 0#64, 0#64, j.wavesIssued + 1⟩ ∧
        (s'.job job).wavesIssued = j.wavesIssued + 1 ∧ (s'.job job).wavestat = j.wavestat ∧ s'.strands = s.strands ∧ s'.cores = s.cores) ∧
    (∀ w, j.wave = some w → j.swept = false → w.pass = 1 ∨ w.pass = 2 →
      ∃ s' : State, exec (if w.confined = none then .stillWave job else .confinedWave job) s = .next s' ∧ s'.strands = s.strands ∧ s'.cores = s.cores ∧
        (∀ c r, w.todo = c :: r →
          let x := (s.core c).counters job
          let a := if w.confined = none then x.s else x.sr
          let b := if w.confined = none then x.c else x.cr
          (s'.job job).wave = some (if w.pass = 1 then { w with todo := r, s1 := w.s1 + a, c1 := w.c1 + b }
            else { w with todo := r, s2 := w.s2 + a, c2 := w.c2 + b })) ∧
        (w.todo = [] → (s'.job job).wave = some { w with pass := 2, todo := s.waveCores job })) ∧
    (∀ w, j.wave = some w → j.swept = true → s.retireWait job = none →
      let still : Bool := decide (w.s1 = w.c1 ∧ w.c1 = w.s2 ∧ w.s2 = w.c2)
      let stuck : Bool := decide (8 ≤ if w.confined = none then sameCount j.same j.lastS2 j.lastC2 w else sameCount j.confSame j.confS2 j.confC2 w)
      let ws := waveStat j.wavestat still stuck w
      ∃ s' : State, exec (.waveOutcome job) s = .next s' ∧ (s'.job job).wave = none ∧ (s'.job job).wavestat = ws ∧ s'.mem = s.mem ∧
        (still = true → bitAt ws 63 = true ∧ bitAt ws 62 = false ∧ bitsNat ws 31 0 = 0) ∧
        (still = false → stuck = true → bitAt ws 62 = true ∧ bitAt ws 63 = false) ∧
        (∀ u t, s.strands.filter (fun p => p.1 == u) = [(u, t)] → s.strand? u = some t →
          (∀ d, t.birthJob = job → s.releases w (still || stuck) t = some d →
            s'.strand? u = some { (t.setGN d ws).retire (t.pc + 4) with run := .running, wokenAt := s.tick }) ∧
          (t.birthJob ≠ job ∨ s.releases w (still || stuck) t = none → s'.strand? u = some t)))

/-- For every state in which every living strand of a population is parked in RESAMPLE, each under a number of its own: with a
weight that is NaN, infinite or below -0 every strand takes trap 0x41 with the lowest such index, with a bad explicit u trap
0x41 with g[b] of strand 0; with weights that sum to zero every strand goes on with WZERO set and zero in g[d]; with more
clones needed than slots free every strand goes on with all ones; else the strands with count zero leave their barriers and
end, the others go on, strands out of a slot are restored and the clones are placed in population order. Free is R195's sum,
the free slots of the partition and the strands with count zero, where every strand stands in a slot; where one stands out of
its slot, that its restoration goes before the clones and takes from that sum is the model's choice (notes/assumptions/75.md,
from R48 and R290). A clone becomes ready by CLONE_READY. Completes: resampleDecision, cloneReady. (R193, R194, R195, R196,
R48, R62, R290, R315) -/
def Obligations.ResampleDecides : Prop :=
  (∀ (s : State) (u : Nat) (t : Strand), s.strand? u = some t →
    exec (.cloneReady u) s = .next (s.putStrand u { t with pendingClone := false })) ∧
  ∀ (s : State) (job uid : Nat), s.resampleReady uid = true →
    let ps := s.population uid
    let z := (ps.headD (0, Strand.newborn .resident 0 0 0 0)).2
    let gb := z.resampleOp.2.2
    let seed := (((s.job job).launches.find? fun l => l.uid == uid).map Launch.seed).getD 0#64
    let ws := ps.map fun p => weightUnits p.2.resampleOp.2.1
    let w := ws.map fun x => x.getD 0
    let each : State → (Strand → Strand) → Prop := fun s' f =>
      exec (.resampleDecision job uid) s = .next s' ∧ ∀ p ∈ ps, s'.strand? p.1 = some (f p.2)
    let goes : Word64 → Strand → Strand := fun v t => { (t.setGN t.resampleOp.1 v).retire (t.pc + 4) with run := .running, wokenAt := s.tick }
    (ps.map Prod.fst).Nodup →
    (∀ i, ws.findIdx? Option.isNone = some i → ∃ s', each s' fun t => { t with run := .running, wokenAt := s.tick, doom := some (0x41, BitVec.ofNat 64 i) }) ∧
    (ws.findIdx? Option.isNone = none →
      (resampleU seed gb z.sys.lineage = none → ∃ s', each s' fun t => { t with run := .running, wokenAt := s.tick, doom := some (0x41, gb) }) ∧
      (∀ un ud, resampleU seed gb z.sys.lineage = some (un, ud) →
        (w.sum = 0 → ∃ s', each s' fun t => goes 0#64 { t with sys := { t.sys with status := t.sys.status ||| 2#64 } }) ∧
        (w.sum ≠ 0 →
          let ns := resampleCounts (bitsNat gb 30 0) un ud w.sum 0 w
          let need := (ns.map fun n => n - 1).sum
          let cs := s.partCores z.vf
          let both := ps.zip ns
          let free := (cs.flatMap s.freeSlots).length + ns.count 0 - s.notForClones cs both
          ((∀ p ∈ s.strands, p.2.slot ≠ none) → free = (cs.flatMap s.freeSlots).length + ns.count 0) ∧
          (free < need → ∃ s', each s' (goes (BitVec.allOnes 64))) ∧
          (need ≤ free → exec (.resampleDecision job uid) s = .next
            ((((both.foldl (fun s p =>
              if p.2 = 0 then ((s.leaveAll p.1.1 p.1.2).settleBarriers p.1.1).endStrand p.1.1 p.1.2 else s) s).surviveAll 0 both).restoreAll
              cs).cloneAll 0 both)))))

/-- For every state with a ready strand outside a code image: CPYSTART of a record that passes R206, with fewer than 16 unfinished
copies and the strand's stores performed, appends the copy, counts it in its group when GV = 1, writes the promise to g[d] and
the ID to g[a+7], keeps every unfinished copy, and holds otherwise; its register check and its record checks trap with what
they give. CPYWAIT, CPYWAIT.NL, CPYPOLL and CPYCANCEL trap 0x31 on a bad ID and 0x09 on another job's copy, and answer OLD with
STATE 1 (CPYCANCEL: nothing) on an ID not held, which is an acquire of what that copy wrote off the die; CPYWAIT writes the
status of an ended copy, traps with the cause of a failed one, traps 0x30 once when the promise has passed and else parks;
CPYPOLL writes the status at once; CPYGWAIT parks while the group counts copies and then writes and clears its two bits;
CPYCANCEL cancels a queued copy and marks a running one. Completes: cpystart, cpywait, cpywaitNl, cpypoll, cpygwait, cpycancel.
(R203, R206, R207, R208, R210, R211, R212, R213, R214, R215, R268) -/
def Obligations.CopyInstructionsComplete : Prop :=
  ∀ (s : State) (t : Strand) (a d : BitVec 5), Ready s t → Plain t →
    let q := quadOf t.core
    let x := s.quad q
    let w := t.g a
    let ws := (List.range 8).map fun k => t.gN (a.toNat + k)
    let l := layoutOf ws
    let bad : Prop := bitsNat w 63 16 ≠ 0 ∨ w = 0#64
    let named : Option Copy := x.held.find? fun c => c.id == w.toNat
    let old : Word64 := field64 1 12 ||| field64 1 8
    (a = 0#5 ∨ 24 < a.toNat → Traps (.cpystart a d) s t 0x01 s.wordTval) ∧
    (a ≠ 0#5 → a.toNat ≤ 24 →
      (∀ e, s.copyChecks t ws = some e → Traps (.cpystart a d) s t e.1 e.2) ∧
      (s.copyChecks t ws = none → 16 ≤ (x.copies.filter Copy.live).length ∨ t.buf ≠ [] → Holds (.cpystart a d) s s) ∧
      (s.copyChecks t ws = none → (x.copies.filter Copy.live).length < 16 → t.buf = [] →
        let c : Copy := ⟨x.nextCopy, ws, s.promise t l, t.birthJob, t.vf, t.mode, t.core, .queued, 0, 0, false, false, false, false, 0, [], 0, false, []⟩
        let groups := if l.gv then FMap.set x.groups l.grp { x.group l.grp with pending := (x.group l.grp).pending + 1 } else x.groups
        let next := if x.nextCopy = 65535 then 1 else x.nextCopy + 1
        let y : Quad := { x.addCopy c with groups := groups, nextCopy := next }
        Completes (.cpystart a d) s t (((s.putQuad q y).wake fun _ t w => quadOf t.core == q && (match w with
            | .copy i => !y.held.any fun c => c.id == i
            | _ => false)).putMe
          ((t.setG d (BitVec.ofNat 64 (s.promise t l))).setGN (a.toNat + 7) (BitVec.ofNat 64 x.nextCopy))) ∧
        (x.copies.length < 64 → y.copies = x.copies ++ [c]) ∧ (∀ k ∈ x.copies, k.live = true → k ∈ y.copies) ∧ c ∈ y.copies)) ∧
    (∀ i ∈ [Instr.cpywait a d, .cpywaitNl a d, .cpypoll a d, .cpycancel a],
      (bad → Traps i s t 0x31 w) ∧ (¬bad → ∀ c, named = some c → c.job ≠ t.birthJob → Traps i s t 0x09 w)) ∧
    (¬bad → named = none → Completes (.cpycancel a) s t s ∧
      ∀ i ∈ [Instr.cpywait a d, .cpywaitNl a d, .cpypoll a d],
        Completes i s t ((if x.oldWasOff w.toNat = true then s.acquire q else s).putMe (t.setG d old))) ∧
    (¬bad → ∀ c, named = some c → c.job = t.birthJob →
      (∀ p ∈ ([(.cpywait a d, false), (.cpywaitNl a d, true)] : List (Instr × Bool)),
        (c.st = .failed → Traps p.1 s t c.cause (BitVec.ofNat 64 c.failAddr)) ∧
        (c.st = .completed ∨ c.st = .cancelled → Completes p.1 s t (((if c.offDie then s.acquire q else s)).putMe (t.setG d (s.copyStatus c)))) ∧
        (c.live = true → p.2 = true ∨ s.cyc < c.promise ∨ c.lateReported = true →
          Holds p.1 s (s.putMe { t with run := .waiting (.copy c.id), since := s.tick })) ∧
        (c.live = true → p.2 = false → c.promise ≤ s.cyc → c.lateReported = false →
          Holds p.1 s ((s.putCopy q { c with lateReported := true, late := true }).trapMe (t.countWatch (s.watchStep t)) 0x30 (BitVec.ofNat 64 c.id)))) ∧
      Completes (.cpypoll a d) s t (((if c.live = false ∧ c.offDie = true then s.acquire q else s)).putMe (t.setG d (s.copyStatus c))) ∧
      (c.st = .queued → Completes (.cpycancel a) s t (s.finishCopy q c .cancelled)) ∧
      (c.st = .running → Completes (.cpycancel a) s t (s.putCopy q { c with cancel := true })) ∧
      (c.live = false → Completes (.cpycancel a) s t s)) ∧
    (bitsNat w 63 3 ≠ 0 → Traps (.cpygwait a d) s t 0x31 w) ∧
    (bitsNat w 63 3 = 0 →
      let n := bitsNat w 2 0
      let g := x.group n
      (g.pending ≠ 0 → Holds (.cpygwait a d) s (s.putMe { t with run := .waiting (.group n), since := s.tick })) ∧
      (g.pending = 0 →
        let s1 := s.putQuad q { x with groups := FMap.set x.groups n { g with fail := false, canc := false } }
        Completes (.cpygwait a d) s t (((if g.off then s1.acquire q else s1)).putMe
          (t.setG d (field64 (if g.fail then 1 else 0) 0 ||| field64 (if g.canc then 1 else 0) 1)))))

/-- For every state and quad: COPY_RUN sets the queued copy at the head running, and runs a running one that neither waits, is
cancelled at a boundary nor has failed up to the next 64-byte boundary of its destination; COPY_END makes a running copy failed
when it has a cause, else cancelled when it was cancelled and stands at such a boundary or has written every element, else
completed when every destination element is written, takes it out of its group's count with FAIL or CANC set, and lets its
waiters look again; COPY_LATE marks an unfinished copy whose promise has passed; ENERGY_REFILL adds RATE to LEVEL once for each
multiple of 256 cycles that has passed, up to RATE times 2^15, and serves the request held for energy at the refill that covers
its cost. No step but COPY_RUN's run of a copy changes memory, and none changes a register of any strand. Completes: copyRun,
copyEnd, copyLate, energyRefill. (R207, R209, R211, R214, R215, R295, 10_ref_system.md) -/
def Obligations.CopyEngineSteps : Prop :=
  ∀ (s : State) (q : Nat), let x := s.quad q
    (∀ c, x.headCopy = some c →
      let l := layoutOf c.rec_
      let ends : CopyState → Prop := fun st => ∃ s' : State, exec (.copyEnd q) s = .next s' ∧
        ((s'.quad q).copies = x.copies.map fun y => if y.id = c.id then
          { c with st := st, late := c.late || decide (c.promise ≤ s.cyc), saved := [] } else y) ∧
        (l.gv = true → ((s'.quad q).group l.grp).pending = (x.group l.grp).pending - 1 ∧
          ((s'.quad q).group l.grp).fail = ((x.group l.grp).fail || decide (st = .failed)) ∧
          ((s'.quad q).group l.grp).canc = ((x.group l.grp).canc || decide (st = .cancelled))) ∧
        (l.gv = false → (s'.quad q).groups = x.groups) ∧ s'.mem = s.mem ∧
        (∀ u t, s.strand? u = some t → ∃ t', s'.strand? u = some t' ∧ t'.regs = t.regs ∧ t'.pc = t.pc ∧
          (quadOf t.core = q → t.run = .waiting (.copy c.id) → t'.run = .running))
      (c.st = .queued → exec (.copyRun q) s = .next (s.putCopy q { c with st := .running })) ∧
      (c.st = .running → c.waits = [] → c.cause = 0 → c.next < l.count → c.cancel = false ∨ c.between l = false →
        exec (.copyRun q) s = .next (s.copyChunk q c l 64)) ∧
      (c.st = .running → c.cause ≠ 0 → ends .failed) ∧
      (c.st = .running → c.cause = 0 → l.count ≤ c.next → c.cancel = false → ends .completed) ∧
      (c.st = .running → c.cause = 0 → c.cancel = true → l.count ≤ c.next ∨ c.between l = true → ends .cancelled)) ∧
    (∀ c, c ∈ x.copies → c.live = true → c.promise ≤ s.cyc → (∀ y ∈ x.copies, y.id = c.id → y = c) →
      ∃ s' : State, exec (.copyLate q c.id) s = .next s' ∧ { c with late := true } ∈ (s'.quad q).copies ∧ s'.mem = s.mem ∧
        ∀ u t, s.strand? u = some t → ∃ t', s'.strand? u = some t' ∧ t'.regs = t.regs ∧ t'.pc = t.pc) ∧
    (x.refilled < s.cyc / 256 → (∀ o ∈ x.ops, o.owes = 0) → ∃ y : Quad, exec (.energyRefill q) s = .next (s.putQuad q y) ∧ y.refilled = s.cyc / 256 ∧ y.rate = x.rate ∧
      y.level = BitVec.ofNat 32 (min (x.level.toNat + (s.cyc / 256 - x.refilled) * x.rate.toNat) (x.rate.toNat * 2 ^ 15)) ∧
      y.copies = x.copies ∧ y.names = x.names) ∧
    (∀ o, x.ops.find? (fun o => o.owes ≠ 0) = some o → s.cyc / 256 = x.refilled + 1 →
      let level := min (x.level.toNat + x.rate.toNat) (x.rate.toNat * 2 ^ 15)
      (level < o.owes → exec (.energyRefill q) s =
        .next (s.putQuad q { x with level := BitVec.ofNat 32 level, refilled := x.refilled + 1 })) ∧
      (o.owes ≤ level → exec (.energyRefill q) s =
        .next (s.putQuad q { x with level := BitVec.ofNat 32 level - BitVec.ofNat 32 o.owes, refilled := x.refilled + 1,
                                    busyUntil := 256 * (x.refilled + 1) + o.occ,
                                    ops := List.map (fun (p : MatOp) => if p.owes = 0 then p else { p with owes := 0 }) x.ops })))

/-- For every state with a ready strand: SVC outside a code image takes trap 0x71 with g[a], BRK trap 0x70 with n. For every cause
and value, a trap of the strand's instruction sets TCAUSE, TPC (the address of the instruction) and TVAL; a delegated cause in
user mode with UTVEC nonzero goes to UTVEC and leaves STATUS alone; any other sets PMODE and PPIE from MODE and PIE, clears
PIE, raises MODE to supervisor at least, and goes to TVEC; with TVEC = 0 the black box of the die records cause, TPC and TVAL
(unless frozen) and the strand's next issue ends it as EXIT does. No g, v, k, h, b or w register changes, no other strand, no
memory, no core and no partition. Completes: svc, brk. (R217, R218) -/
def Obligations.TrapEntry : Prop :=
  ∀ (s : State) (t : Strand), Ready s t →
    (∀ a : BitVec 5, Plain t → Traps (.svc a) s t 0x71 (t.g a)) ∧
    (∀ n : BitVec 5, Plain t → Traps (.brk n) s t 0x70 (n.setWidth 64)) ∧
    ∀ (cause : Nat) (v : Word64),
      let s' := s.trapMe t cause v
      let p := s.part t.vf
      let st := t.sys.status
      let deleg : Prop := t.mode = 0 ∧ bitAt p.deleg (delegBit cause) = true ∧ t.sys.utvec ≠ 0#64
      ∃ t' : Strand, s'.me = some t' ∧ t'.sys.tcause = BitVec.ofNat 64 cause ∧ t'.sys.tpc = BitVec.ofNat 64 t.pc ∧ t'.sys.tval = v ∧
        t'.regs = t.regs ∧ t'.run = .running ∧
        (deleg → t'.pc = t.sys.utvec.toNat ∧ t'.sys.status = st ∧ t'.doom = none) ∧
        (¬deleg → t'.mode = max t.mode 1 ∧ bitsNat t'.sys.status 5 4 = t.mode ∧ bitAt t'.sys.status 2 = bitAt st 3 ∧
          bitAt t'.sys.status 3 = false ∧ bitAt t'.sys.status 1 = bitAt st 1 ∧
          (p.tvec ≠ 0#64 → t'.pc = p.tvec.toNat ∧ t'.doom = none) ∧
          (p.tvec = 0#64 → (∀ g body, runWord g body s' = .next (s'.tryEnd s.cur t')) ∧
            ((s.die (dieOf t.core)).frozen = false → ∃ e, e ∈ (s'.die (dieOf t.core)).ring ∧ e.cls = 0x01 ∧ e.sub = cause ∧
              e.args = [BitVec.ofNat 64 t.pc, v]))) ∧
        (∀ u, u ≠ s.cur → s'.strand? u = s.strand? u) ∧ s'.mem = s.mem ∧ s'.cores = s.cores ∧ s'.parts = s.parts

/-- For every state with a ready strand outside a code image, with t = TPC + SInt(g[b]): a target outside 0 to 2^56 - 4 traps 0x05
with the PC, one that is no multiple of 4 traps 0x03 with t; in user mode ERET then changes the PC alone (the count of a
handler's watchdog is left at 4,096 at most, so that a due one comes due again, notes/assumptions/19.md, and the resume point
put by last for the instruction at t, if there is one, is taken back, notes/assumptions/71.md; both are the model's choice);
above user mode PMODE above MODE traps 0x02 with the PC, and otherwise MODE and PIE become PMODE and PPIE, PMODE and PPIE keep
their values, and the PC becomes t. Completes: eret. (R219, R36, R342, R343, R344) -/
def Obligations.TrapReturn : Prop :=
  ∀ (s : State) (t : Strand) (b : BitVec 5), Ready s t → Plain t →
    let tgt : Int := t.sys.tpc.toNat + (t.g b).toInt
    let st := t.sys.status
    let pmode := bitsNat st 5 4
    let quiet : Strand := { t.takePoint tgt.toNat with watch := min t.watch 4096 }
    (tgt < 0 ∨ 2 ^ 56 - 4 < tgt → Traps (.eret b) s t 0x05 (BitVec.ofNat 64 t.pc)) ∧
    (0 ≤ tgt → tgt ≤ 2 ^ 56 - 4 → tgt % 4 ≠ 0 → Traps (.eret b) s t 0x03 (BitVec.ofInt 64 tgt)) ∧
    (0 ≤ tgt → tgt ≤ 2 ^ 56 - 4 → tgt % 4 = 0 →
      (t.mode = 0 → exec (.eret b) s = .next (s.afterAt t tgt.toNat (s.putMe quiet))) ∧
      (t.mode ≠ 0 → t.mode < pmode → Traps (.eret b) s t 0x02 (BitVec.ofNat 64 t.pc)) ∧
      (t.mode ≠ 0 → pmode ≤ t.mode → ∃ st' : Word64, exec (.eret b) s = .next (s.afterAt t tgt.toNat (s.putMe { quiet with sys := { t.sys with status := st' } })) ∧
        bitsNat st' 7 6 = pmode ∧ bitAt st' 3 = bitAt st 2 ∧ bitsNat st' 5 4 = pmode ∧ bitAt st' 2 = bitAt st 2 ∧ bitAt st' 1 = bitAt st 1))

/-- For every state with a ready strand outside a code image: SYSR of each register writes its value with reserved bits zero to
g[d] in the modes that may read it (TVEC, DELEG and DRYCNT need supervisor) and traps 0x02 below; SYSR of FFLAGS waits while
vector or matrix instructions of the strand are under way. SYSW of each register that the mode may write stores the writable
fields as R57 to R67 give them, and traps 0x02 where no field is writable: in user mode all but UTVEC, FFLAGS, FRM and TBLSEL,
in supervisor mode PART (its partition holds a strand), in every mode CYC, STRAND and WAVESTAT. A reserved FRM leaves FRM;
QPERIOD below 256 becomes 256; a PART of another extent clears the partition's measurement slots, and one whose extent no
partition may have is not written (notes/assumptions/72.md). Nothing else changes. Completes: sysr, sysw. (R59, R60, R63, R64,
R66, R67, R216, R57, R130) -/
def Obligations.SystemRegistersComplete : Prop :=
  ∀ (s : State) (t : Strand) (a d : BitVec 5), Ready s t → Plain t →
    let y := t.sys
    let p := s.part t.vf
    let q := quadOf t.core
    let j := s.job t.birthJob
    let c := s.core t.core
    let w := t.g a
    let kind := match t.kind with
      | .handler => 0
      | .task => 1
      | .resident => 2
      | .gang => 3
    let newStatus := field64 (bitsNat y.status 7 6) 6 ||| field64 (if bitsNat w 5 4 = 3 then bitsNat y.status 5 4 else bitsNat w 5 4) 4 |||
      field64 (bitsNat w 3 1) 1
    let newPart := field64 (bitsNat w 63 58) 58 ||| field64 (if bitsNat w 57 55 = 7 then bitsNat p.part 57 55 else bitsNat w 57 55) 55 |||
      field64 (bitsNat w 26 14) 14 ||| field64 (bitsNat w 12 0) 0
    let newTbl := field64 (bitsNat (formatWrite c.tblsel w) 63 54) 54 ||| field64 (if t.mode = 0 then bitsNat c.tblsel 47 16 else bitsNat w 47 16) 16
    (∀ r ∈ ([(.status, y.status &&& 0xfe#64), (.tcause, y.tcause), (.tpc, y.tpc), (.tval, y.tval), (.utvec, y.utvec), (.cyc, BitVec.ofNat 64 s.cyc),
        (.strand, field64 kind 62 ||| field64 (y.lpkg % 2 ^ 18) 32 ||| field64 t.core 2 ||| field64 (t.slot.getD 0) 0), (.lineage, y.lineage),
        (.job, y.job), (.part, p.part), (.frm, y.frm), (.qperiod, j.qperiod.setWidth 64), (.tblsel, c.tblsel), (.wavestat, j.wavestat),
        (.eallow, field64 ((s.quad q).refill s.cyc).rate.toNat 32 ||| field64 ((s.quad q).refill s.cyc).level.toNat 0)] : List (SysReg × Word64)),
      Writes (.sysr d r.1) s t d r.2) ∧
    (s.flagsPending s.cur t = false → Writes (.sysr d .fflags) s t d y.fflags) ∧
    (s.flagsPending s.cur t = true → Holds (.sysr d .fflags) s s) ∧
    (∀ r ∈ ([(.tvec, p.tvec), (.deleg, p.deleg), (.drycnt, p.drycnt)] : List (SysReg × Word64)),
      (t.mode = 0 → Traps (.sysr d r.1) s t 0x02 s.wordTval) ∧ (1 ≤ t.mode → Writes (.sysr d r.1) s t d r.2)) ∧
    (∀ r ∈ [SysReg.cyc, .strand, .wavestat], t.mode < 3 → Traps (.sysw a r) s t 0x02 s.wordTval) ∧
    (t.mode = 0 → ∀ r ∈ [SysReg.status, .tcause, .tpc, .tval, .tvec, .deleg, .lineage, .job, .part, .eallow, .qperiod, .drycnt],
      Traps (.sysw a r) s t 0x02 s.wordTval) ∧
    (t.mode = 1 → Traps (.sysw a .part) s t 0x02 s.wordTval) ∧
    Completes (.sysw a .utvec) s t (s.putMe { t with sys := { y with utvec := field64 (bitsNat w 55 2) 2 } }) ∧
    Completes (.sysw a .fflags) s t (s.putMe { t with sys := { y with fflags := w &&& 0x1f#64 } }) ∧
    (bitsNat w 2 0 < 4 → Completes (.sysw a .frm) s t (s.putMe { t with sys := { y with frm := w &&& 7#64 } })) ∧
    (4 ≤ bitsNat w 2 0 → Completes (.sysw a .frm) s t s) ∧
    Completes (.sysw a .tblsel) s t (s.putCore t.core { c with tblsel := newTbl }) ∧
    (1 ≤ t.mode →
      Completes (.sysw a .status) s t (s.putMe { t with sys := { y with status := newStatus } }) ∧
      Completes (.sysw a .tcause) s t (s.putMe { t with sys := { y with tcause := w &&& 0xff#64 } }) ∧
      Completes (.sysw a .tpc) s t (s.putMe { t with sys := { y with tpc := field64 (bitsNat w 55 0) 0 } }) ∧
      Completes (.sysw a .tval) s t (s.putMe { t with sys := { y with tval := w } }) ∧
      Completes (.sysw a .lineage) s t (s.putMe { t with sys := { y with lineage := w } }) ∧
      Completes (.sysw a .job) s t (s.putMe { t with sys := { y with job := w &&& 0xffff#64 } }) ∧
      Completes (.sysw a .tvec) s t (s.putPart t.vf { p with tvec := field64 (bitsNat w 55 2) 2 }) ∧
      Completes (.sysw a .deleg) s t (s.putPart t.vf { p with deleg := w &&& delegMask }) ∧
      Completes (.sysw a .drycnt) s t (s.putPart t.vf { p with drycnt := w }) ∧
      Completes (.sysw a .eallow) s t (s.putQuad q { (s.quad q).refill s.cyc with rate := BitVec.ofNat 16 (bitsNat w 47 32) }) ∧
      Completes (.sysw a .qperiod) s t (s.putJob t.birthJob { j with qperiod := BitVec.ofNat 24 (max 256 (bitsNat w 23 0)) })) ∧
    (2 ≤ t.mode →
      (s.extentOk t.vf (bitsNat newPart 12 0) (bitsNat newPart 26 14) = true → Completes (.sysw a .part) s t (s.putPart t.vf
        { p with present := true, part := newPart, slots := if bitsNat newPart 26 0 = bitsNat p.part 26 0 then p.slots else [] })) ∧
      (s.extentOk t.vf (bitsNat newPart 12 0) (bitsNat newPart 26 14) = false → Completes (.sysw a .part) s t s))

/-- For every state with a ready strand outside a code image: below supervisor mode XROOT, XINV and XPROBE, below hypervisor mode
XBACK, trap 0x02. A g[a] with bits [63:9] or [7:6] set traps 0x09 with g[a]; below hypervisor mode the second stage or another
function than PART.VF traps 0x02. XROOT of an address aligned to 2 KiB, once no store of the function is pending, sets that
stage's root and drops the function's cached translations; an unaligned one traps 0x03. XINV of a good reference word drops the
cached translations that its block touches, and of the second stage those of a first stage that a walk contradicts. That a root
of either stage drops them all, and what XINV of the second stage drops beside its block, are the model's choice
(notes/assumptions/58.md). XPROBE and XBACK write their answers to g[d] and change nothing else; XPROBE waits for the host
where an entry that it reads lies in a line of the host's. Completes: xroot, xinv, xprobe, xback. (R220, R221, R328, R333, R79)
-/
def Obligations.TranslationInstructionsComplete : Prop :=
  ∀ (s : State) (t : Strand) (a b d : BitVec 5), Ready s t → Plain t →
    let w := t.g a
    let y := t.g b
    let vf := bitsNat w 5 0
    let two := bitAt w 8
    let shape : Prop := bitsNat w 63 9 = 0 ∧ bitsNat w 7 6 = 0
    let may : Prop := t.mode ≥ 2 ∨ (two = false ∧ vf = bitsNat (s.part t.vf).part 63 58)
    let p := s.part vf
    let named := [Instr.xroot a b, .xinv a b, .xprobe a b d]
    (t.mode = 0 → ∀ i ∈ named, Traps i s t 0x02 s.wordTval) ∧
    (t.mode < 2 → Traps (.xback a d) s t 0x02 s.wordTval) ∧
    (1 ≤ t.mode →
      (¬shape → ∀ i ∈ named, Traps i s t 0x09 w) ∧
      (shape → ¬may → ∀ i ∈ named, Traps i s t 0x02 s.wordTval) ∧
      (shape → may →
        (bitsNat y 55 0 % 2048 ≠ 0 → Traps (.xroot a b) s t 0x03 y) ∧
        (bitsNat y 55 0 % 2048 = 0 → s.storesPending vf = true → Holds (.xroot a b) s s) ∧
        (bitsNat y 55 0 % 2048 = 0 → s.storesPending vf = false →
          (two = true → Completes (.xroot a b) s t ((s.putPart vf { p with root2 := some (field64 (bitsNat y 55 0) 0) }).dropXlat
            fun x => x.vf == vf)) ∧
          (two = false → Completes (.xroot a b) s t ((s.putPart vf { p with root1 := field64 (bitsNat y 55 0) 0 }).dropXlat
            fun x => x.vf == vf))) ∧
        (∀ e, refCheck y = some e → Traps (.xinv a b) s t e.1 e.2) ∧
        (refCheck y = none → s.storesPending vf = true → Holds (.xinv a b) s s) ∧
        (refCheck y = none → s.storesPending vf = false →
          let lo := refAddr y
          let hi := refAddr y + blockBytes y
          Completes (.xinv a b) s t (s.dropXlat fun x => x.vf == vf && ((if two then decide (x.ipage < hi) && decide (lo < x.ipage + 65536)
            else decide (x.page < hi) && decide (lo < x.page + 65536)) || (two && x.s1 && s.outdated x)))) ∧
        (let va := bitsNat y 55 0
         let z : Walk := if two then stage2 s vf va else if p.root1 = 0#64 then .ok (.loc va) va true true true true
           else probe1 s vf p.root1.toNat va 0 walkLevels
         (∀ v, probeWord z = .inl v → Writes (.xprobe a b d) s t d v) ∧
         (∀ h, probeWord z = .inr h → Holds (.xprobe a b d) s ((s.askHost h false).parkMe t h)) ∧
         (two = false → p.root1 = 0#64 → Writes (.xprobe a b d) s t d (field64 1 63 ||| field64 (bitsNat y 55 16) 16)) ∧
         (two = true → p.root2 = none → Writes (.xprobe a b d) s t d 0x09#64)))) ∧
    (2 ≤ t.mode →
      let e := if frameOk (bitsNat w 55 0) then Memory.dword s.mem (backKey (bitsNat w 55 0)) else 0#64
      (bitAt e 63 = true → Writes (.xback a d) s t d (e &&& ~~~(field64 1 63))) ∧
      (bitAt e 63 = false → Writes (.xback a d) s t d (BitVec.allOnes 64)))

/-- For every state with a ready strand outside a code image: below hypervisor mode PARTSET, SKIPSET, WAYSET and BREGION, below
supervisor mode ESET, trap 0x02. PARTSET of an extent past quad 8,191 or over another partition, as it is or as a PARTSET under
way will leave it, traps 0x09 with g[b], else it queues a resize behind the launches of the partition that are begun; SKIPSET
queues the change of a quad's skip bit behind its partition's launches, or makes it at once for a quad of no partition, where a
cleared bit lets a RATE set meanwhile take effect. WAYSET that takes a way of a B-operand region of the function traps 0x09
with g[b], else it sets the way mask: no line of the function stays in a way given up, in any column, every other line stays,
and with no way left no L1 keeps a foreign line of the function. BREGION of ways outside the owner's mask traps 0x09 with g[b];
with an MMAX of the quad outstanding it waits; else the column's lines in those ways are given up, its region has the ways, the
owner, and zero bytes. ESET of a position past the partition's end traps 0x09 with g[a], else it sets RATE, of a skip-masked
quad once its bit is cleared. Completes: partset, skipset, wayset, bregion, eset. (R15, R222, R223, R224, R67, R79) -/
def Obligations.PartitionInstructionsComplete : Prop :=
  ∀ (s : State) (t : Strand) (a b : BitVec 5), Ready s t → Plain t →
    let x := t.g a
    let y := t.g b
    let vf := bitsNat x 5 0
    let base := bitsNat y 12 0
    let len := bitsNat y 26 14
    let h := bitsNat x 12 0
    let m : BitVec 14 := y.setWidth 14
    let own := s.part t.vf
    (t.mode < 2 → ∀ i ∈ [Instr.partset a b, .skipset a b, .wayset a b, .bregion a b], Traps i s t 0x02 s.wordTval) ∧
    (t.mode = 0 → Traps (.eset a b) s t 0x02 s.wordTval) ∧
    (2 ≤ t.mode →
      (let past : Prop := 8191 < base + len ∨
         (∃ p ∈ s.parts, p.1 ≠ vf ∧ p.2.present = true ∧ base ≤ p.2.base + p.2.len ∧ p.2.base ≤ base + len) ∨
         ∃ r ∈ s.resizes, r.vf ≠ vf ∧ r.skip = none ∧ base ≤ r.base + r.len ∧ r.base ≤ base + len
       (past → Traps (.partset a b) s t 0x09 y) ∧
       (¬past → Completes (.partset a b) s t { s with resizes := s.resizes ++ [⟨vf, base, len, none, (s.liveLaunches vf).dedup⟩] })) ∧
      (∀ p, s.parts.find? (fun p => p.2.holds h) = some p → Completes (.skipset a b) s t
        { s with resizes := s.resizes ++ [⟨p.1, p.2.base, p.2.len, some (h, bitAt y 0), (s.liveLaunches p.1).dedup⟩] }) ∧
      (s.parts.find? (fun p => p.2.holds h) = none → Completes (.skipset a b) s t (s.setSkip h (bitAt y 0))) ∧
      (let s1 := s.setSkip h (bitAt y 0)
       let q := quadOfHilbert h
       (∀ k, k ∈ s1.skip ↔ (k ∈ s.skip ∧ k ≠ h) ∨ (k = h ∧ bitAt y 0 = true)) ∧
       (bitAt y 0 = true ∨ (s.quad q).rateNext = none → s1 = { s with skip := s1.skip }) ∧
       (bitAt y 0 = false → ∀ r, (s.quad q).rateNext = some r →
         s1.quad q = { (s.quad q).refill s.cyc with rate := r, rateNext := none })) ∧
      ((∃ q ∈ s.quads, q.2.bvf = vf ∧ q.2.bway &&& ~~~m ≠ 0#14) → Traps (.wayset a b) s t 0x09 y) ∧
      ((∀ q ∈ s.quads, q.2.bvf = vf → q.2.bway &&& ~~~m = 0#14) → ∃ s1 : State,
        Completes (.wayset a b) s t (s1.putPart vf { s.part vf with ways := m }) ∧ s1.parts = s.parts ∧ s1.strands = s.strands ∧ s1.cores = s.cores ∧
          (∀ q, (∀ l ∈ (s1.quad q).bed, l.vf = vf → ((s.part vf).ways &&& ~~~m).getLsbD l.way = false) ∧
            (∀ l ∈ (s.quad q).bed, l.vf ≠ vf ∨ ((s.part vf).ways &&& ~~~m).getLsbD l.way = false → l ∈ (s1.quad q).bed)) ∧
          (m = 0#14 → ∀ l ∈ s1.l1, l.vf = vf → l.stamp = none) ∧
          ((s.part vf).ways &&& ~~~m = 0#14 → m ≠ 0#14 → s1 = s)) ∧
      (let q := quadOfHilbert h
       let fn := bitsNat x 21 16
       (m &&& ~~~(s.part fn).ways ≠ 0#14 → Traps (.bregion a b) s t 0x09 y) ∧
       (m &&& ~~~(s.part fn).ways = 0#14 → (s.quad q).mmaxOther 0 = true → Holds (.bregion a b) s s) ∧
       (m &&& ~~~(s.part fn).ways = 0#14 → (s.quad q).mmaxOther 0 = false → ∃ s1 : State, Completes (.bregion a b) s t s1 ∧
         (s1.quad q).bway = m ∧ (s1.quad q).bvf = fn ∧ (∀ l ∈ (s1.quad q).bed, m.getLsbD l.way = false) ∧
         (Memory.wf s.mem = true → ∀ k, k < 2 ^ 22 → Memory.read s1.mem (regionKey q 0 + k) = 0#8)))) ∧
    (1 ≤ t.mode →
      (own.len < h → Traps (.eset a b) s t 0x09 x) ∧
      (h ≤ own.len →
        let q := quadOfHilbert (own.base + h)
        (own.base + h ∉ s.skip → Completes (.eset a b) s t
          (s.putQuad q { (s.quad q).refill s.cyc with rate := y.setWidth 16, rateNext := none })) ∧
        (own.base + h ∈ s.skip → Completes (.eset a b) s t (s.putQuad q { s.quad q with rateNext := some (y.setWidth 16) }))))

/-- For every state with a ready strand outside a code image: below supervisor mode each traps 0x02. With an image address that
passes its checks and every page of it there, MDRAIN waits while another strand holds the quad's drain, takes it, waits for the
quad's matrix instructions and the strand's stores, then writes the image page by page, and with its last page frees every name
and the drain; VSAVE waits for the strand's vector instructions and stores and writes its image the same way, into a pool of
the partition in one step. MREST of a quad without names and without matrix instructions, and VREST, read the image as loads of
the strand: a bad version or name word of an MREST image, that of a queued declaration too, traps 0x23; a good one restores
TBLSEL, both tables of each core and the names of the quad with their tags, bytes and queued declarations; and VREST restores
the v and k registers, the pending and loaded lanes and the resume lane. That TBLSEL is restored as MFMT writes it is the
model's choice (notes/assumptions/63.md). Completes: mdrain, mrest, vsave, vrest. (R225, R226, R227, R228, R354,
10_ref_system.md) -/
def Obligations.ImagesSaveAndRestore : Prop :=
  ∀ (s : State) (t : Strand) (a : BitVec 5), Ready s t → Plain t →
    let q := quadOf t.core
    let x := s.quad q
    let point : Nat := if t.prog.at_ = t.pc then t.prog.image.getD 0 else 0
    let kept : Nat → Strand → Strand := fun off u => { u with prog := { u.prog with at_ := u.pc, image := some off } }
    let first : List (Nat × Nat × Target) → Target := fun ts => (ts.head?.map fun p => p.2.2).getD .dry
    (t.mode = 0 → ∀ i ∈ [Instr.mdrain a, .mrest a, .vsave a, .vrest a], Traps i s t 0x02 s.wordTval) ∧
    (1 ≤ t.mode →
      (∀ e, imageChecks (t.g a) 1204544 4096 3 t = .error e → Traps (.mdrain a) s t e.1 e.2) ∧
      (∀ va s' ts, imageChecks (t.g a) 1204544 4096 3 t = .ok va →
        lookPages .write (va + point) (1204544 - point) (if point = 0 then t else kept point t) s = .ok (s', ts) →
        (x.drainBy ≠ none → x.drainBy ≠ some s'.cur → Holds (.mdrain a) s s') ∧
        (x.drainBy = none ∨ x.drainBy = some s'.cur →
          let s1 := s'.putQuad q { s'.quad q with drainBy := some s'.cur }
          (x.ops ≠ [] ∨ t.buf ≠ [] → Holds (.mdrain a) s s1) ∧
          (x.ops = [] → t.buf = [] →
            let s2 := s1.wake fun _ t w => quadOf t.core == q && (match w with
              | .names _ => true
              | _ => false)
            ∀ s3 off, s2.writeImage (kept point t) va point (s2.mdrainImage q) (first ts) = .ok (s3, off) →
              (1204544 ≤ off → Completes (.mdrain a) s t (s3.putQuad q { s3.quad q with names := [], drainBy := none })) ∧
              (off < 1204544 → Holds (.mdrain a) s (s3.modStrand s3.cur fun u => { kept off u with timeout := false }))))) ∧
      (∀ e, imageChecks (t.g a) 2240 64 3 t = .error e → Traps (.vsave a) s t e.1 e.2) ∧
      (∀ va s' ts, imageChecks (t.g a) 2240 64 3 t = .ok va →
        lookPages .write (va + point) (2240 - point) (if point = 0 then t else kept point t) s = .ok (s', ts) →
        (t.vflags ≠ [] ∨ t.buf ≠ [] → Holds (.vsave a) s s') ∧
        (t.vflags = [] → t.buf = [] → ∀ s3 off, s'.writeImage (kept point t) va point t.vectorImage (first ts) = .ok (s3, off) →
          (2240 ≤ off → Completes (.vsave a) s t s3) ∧
          (off < 2240 → Holds (.vsave a) s (s3.modStrand s3.cur fun u => { kept off u with timeout := false })))) ∧
      (∀ va : Nat, (t.g a).toNat = va → va % 64 = 0 → 2 ^ 56 - 2 ^ 27 ≤ va → va + 2240 ≤ 2 ^ 56 → va % 65536 + 2240 ≤ 65536 →
        s.coreIn t.vf (1024 * dieOf t.core + va / 2 ^ 17 % 1024) = true → weirRefuses t.weirs va 2240 3 = none → point = 0 →
        t.vflags = [] → t.buf = [] → t.timeout = false → Alone s t → Memory.wf s.mem = true →
        let k := (Target.pool (1024 * dieOf t.core + va / 2 ^ 17 % 1024) (va % 2 ^ 17)).key
        ∃ s' : State, Completes (.vsave a) s t s' ∧ s'.cur = s.cur ∧ s'.strands = s.strands ∧ ∀ j, Memory.read s'.mem j =
          if k ≤ j ∧ j < k + 2240 then t.vectorImage.getD (j - k) 0#8 else Memory.read s.mem j) ∧
      (∀ e, imageChecks (t.g a) 2240 64 2 t = .error e → Traps (.vrest a) s t e.1 e.2) ∧
      (∀ va s' bs, imageChecks (t.g a) 2240 64 2 t = .ok va → longRead va 2240 t s = .ok (s', bs) → ∃ t' : Strand,
        Completes (.vrest a) s t (s'.putMe t') ∧ t'.pc = t.pc ∧ t'.sys = t.sys ∧ t'.regs.g = t.regs.g ∧ t'.regs.h = t.regs.h ∧
        (∀ i < 32, t'.v (BitVec.ofNat 5 i) = bytesLine ((bs.drop (64 * i)).take 64)) ∧
        (∀ i < 8, t'.k (BitVec.ofNat 3 i) = BitVec.ofNat 64 (leNat ((bs.drop (2048 + 8 * i)).take 8))) ∧
        (let w : Nat → Word64 := fun k => BitVec.ofNat 64 (leNat ((bs.drop k).take 8))
         t'.prog.pending = (if w 2112 = 0#64 then none else some (w 2112)) ∧
         t'.prog.lane = (if bitAt (w 2120) 8 = true then some (bitsNat (w 2120) 6 0) else none) ∧
         t'.prog.loaded = bytesLine ((bs.drop 2176).take 64))) ∧
      (x.drainBy = none ∨ x.drainBy = some s.cur →
        (∀ n m, x.names.find? (fun p => p.2.st ≠ .free) = some (n, m) → Traps (.mrest a) s t 0x22 (BitVec.ofNat 64 n)) ∧
        (x.names.find? (fun p => p.2.st ≠ .free) = none →
          (x.ops ≠ [] → Traps (.mrest a) s t 0x22 0x100#64) ∧
          (x.ops = [] → ∀ va s' bs, imageChecks (t.g a) 1204544 4096 2 t = .ok va → longRead va 1204544 t s = .ok (s', bs) →
            let w : Nat → Word64 := fun k => BitVec.ofNat 64 (leNat ((bs.drop k).take 8))
            let ok : Nat → Prop := fun n => ∀ k ∈ [8512 + 4672 * n, 8520 + 4672 * n], bitsNat (w k) 63 60 < 14 ∧ bitsNat (w k) 34 32 < 4
            (w 0 ≠ 1#64 → s'.me = some t → Holds (.mrest a) s (s'.trapMe (t.countWatch (s.watchStep t)) 0x23 0x100#64)) ∧
            (w 0 = 1#64 → s'.me = some t → ∀ n < 256, ¬ok n → (∀ m < n, ok m) → Holds (.mrest a) s (s'.trapMe (t.countWatch (s.watchStep t)) 0x23 (BitVec.ofNat 64 n))) ∧
            (w 0 = 1#64 → (∀ n < 256, ok n) → ∃ s1 : State, Completes (.mrest a) s t s1 ∧ s1.strands = s'.strands ∧ s1.mem = s'.mem ∧
              (∀ n < 256, let k := 8512 + 4672 * n
                let m := (s1.quad q).name n
                m = imageName bs n ∧ stCode m.st = bitsNat (w k) 34 32 ∧ (bitsNat (w k) 34 32 ≠ 0 → m.tag = ((w k) >>> 35).setWidth 29 ∧
                  m.data = (bs.drop (k + 64)).take 4096 ∧ m.side = (bs.drop (k + 4160)).take 512 ∧
                  (m.queued.isSome = true ↔ w (k + 8) ≠ 0#64))) ∧
              (∀ c < 4, ∀ p ∈ ([((s1.core (4 * q + c)).tabA, 128), ((s1.core (4 * q + c)).tabB, 1152)] : List (List (BitVec 19) × Nat)),
                p.1 = (List.range 256).map fun i => BitVec.ofNat 19 (leNat ((bs.drop (2112 * c + p.2 + 4 * i)).take 4))) ∧
              (∀ c < 4, (s1.core (4 * q + c)).tblsel = field64 (bitsNat (formatWrite (s'.core (4 * q + c)).tblsel (w (64 + 2112 * c))) 63 54) 54 |||
                field64 (bitsNat (w (64 + 2112 * c)) 47 16) 16))))))

/-- For every state: an answer and a timed-out request let their strand go on; a due SLEEPUNTIL retires, and the next instruction
may issue in that cycle; a fill brings the line that its home holds, with its poison, and one that is lost ends as a lost
request; a cuckoo recall, once no copy waits for the host, leaves no L1 with the line it recalls and takes its entry off the
waiting ones; a directory recall, once no copy waits for the host, leaves no L1 of the die with a copy of the line and no entry
that no L1 needs, and takes its value home from a dirty copy, poisoned where two differ or one is corrupt; a watchdog at 4,096
traps 0x40 where the strand is not in the middle of an instruction; an illegal word traps 0x01, a refused or poisoned or lost
fetch 0x09 or 0x0B, one that the quad's instruction cache holds does not (that a free value says whether a fetched line is
still held is the model's choice, notes/assumptions/91.md), an absent page parks the strand; a page reply lets a strand that
waits for that page alone walk again, and go on, or wait for what is still absent or for the host, with a refused walk or
REFUSE its page is marked refused, and an unknown ID does nothing; PRQIDX takes CONS; a lost store is reported and leaves the
buffer, performed only where it can be; that free values say which of the requests that a strand has out is lost, and whether a
lost store was performed, is the model's choice (notes/assumptions/94.md); an operation packet is performed under this
package's ID, a write of a part of a poisoned granule with an event, waits where the host must be asked, and is misrouted under
another ID; a bank falls asleep; the scrubber poisons or counts a granule, and a bad directory entry's line is recalled.
Completes: translationAnswer, fillReturn, operationPacket, cuckooRecall, directoryRecall, sleepWake, watchdog, prqreply,
prqreplyRefuse, requestTimeout, patrolScrub, illegalInstruction, instructionFetchFault, prqidxWrite, bankRetentionSleep. (R79,
R107, R111, R113, R272, R274, R275, R296, R331, R360, R363, 95_what_each_step_holds.md) -/
def Obligations.MemoryEventsAnswer : Prop :=
  ∀ (s : State) (u : Nat) (t : Strand), s.strand? u = some t →
    let goes : Strand := { t with run := .running, wokenAt := s.tick }
    (t.run = .waiting .answer → exec (.translationAnswer u) s = .next (s.putStrand u { goes with answered := true })) ∧
    (∀ c, t.run = .waiting (.sleep c) → c ≤ s.cyc → exec (.sleepWake u) s =
      .next (s.putStrand u { t.retire (t.pc + 4) with run := .running, wokenAt := s.tick, readyAt := s.cyc })) ∧
    (∀ l stamp s' tg, t.run = .waiting (.fill l stamp) → s.resolveFor u t.vf t.mode (dieOf t.core) (l * 64) .read = .ok s' tg →
      s'.biasRange tg 64 = none → s'.strand? u = some t → s'.tick = s.tick →
      (s'.cutOff (quadOf t.core) t.vf tg = true →
        exec (.fillReturn u) s = .next ((s'.readLost t tg).putStrand u { goes with timeout := true, answered := true })) ∧
      (s'.cutOff (quadOf t.core) t.vf tg = false → ∃ s2 : State, exec (.fillReturn u) s = .next s2 ∧
        s2.strand? u = some { goes with answered := true, filled := some (bytesLine (s'.homeRead t.vf (l * 64) tg 64), s'.bedPoison t.vf l tg) })) ∧
    (∀ e w, (s.overfull.find? fun x => x.die == e.die) = some e → s.recallWait e = some w →
      exec (.cuckooRecall e.die) s = .next (s.askHost w false)) ∧
    (∀ e, (s.overfull.find? fun x => x.die == e.die) = some e → s.recallWait e = none → ∃ s' : State, exec (.cuckooRecall e.die) s = .next s' ∧
      s'.overfull = s.overfull.erase e ∧ (∀ l ∈ s'.l1, e.covers l = false) ∧
      (t.run = .waiting (.recall e.die) → (∀ x ∈ s.overfull.erase e, x.die ≠ e.die) → s'.strand? u = some goes)) ∧
    (∀ die vf line corrupt,
      let copies := s.l1.filter fun l => dieOf l.core == die && l.vf == vf && l.vline == line
      let dirty := copies.filter L1Line.dirty
      (∀ w, copies.findSome? s.homeWait = some w → exec (.directoryRecall die vf line corrupt) s =
        .next { (s.askHost w false) with outside := .recall die vf line none corrupt :: s.outside }) ∧
      (copies.findSome? s.homeWait = none → ∃ s' : State, exec (.directoryRecall die vf line corrupt) s = .next s' ∧ s'.strands = s.strands ∧
        (∀ l ∈ s'.l1, dieOf l.core = die → l.vf = vf → l.vline ≠ line) ∧
        (∀ e ∈ s'.dir, e.die = die → e.vf = vf → e.vline = line → ∃ l ∈ s'.l1, e.covers l = true) ∧
        (dirty = [] → s'.mem = s.mem) ∧ (∀ l r, dirty = l :: r → s'.mem = (s.writeBack l).mem) ∧
        (∀ l, copies.head? = some l → (∃ x ∈ copies, x.core ∈ corrupt) ∨ (∃ x ∈ dirty, ∃ y ∈ dirty, x.data ≠ y.data) →
          let tg := (dirty.head?.elim s fun x => s.writeBack x).homeOf l
          tg ≠ .dry → s'.poisoned tg.key 64 = true))) ∧
    (t.kind = .handler → t.watch = 4096 → t.run = .running → t.slot ≠ none → t.doom = none → t.midway = false →
      exec (.watchdog u) s = .next (s.takeTrap u { t with watch := 4097 } 0x40 4096#64)) ∧
    (∀ w : Word32, Ready s t → Traps (.illegalInstruction w) s t 0x01 (w.setWidth 64)) ∧
    (Ready s t →
      (∀ s', resolve s t.vf t.mode (dieOf t.core) t.pc .fetch = .refused s' → s'.me = some t →
        Holds .instructionFetchFault s (s'.trapMe (t.countWatch (s.watchStep t)) 0x09 (BitVec.ofNat 64 t.pc))) ∧
      (inAperture t.pc = true → Traps .instructionFetchFault s t 0x09 (BitVec.ofNat 64 t.pc)) ∧
      (∀ s' r, resolve s t.vf t.mode (dieOf t.core) t.pc .fetch = .wait s' r → Holds .instructionFetchFault s (s'.faultPark t [r])) ∧
      (∀ s' tg, resolve s t.vf t.mode (dieOf t.core) t.pc .fetch = .ok s' tg →
        (s'.heldCode t tg ≠ none → Holds .instructionFetchFault s s') ∧
        (s'.heldCode t tg = none → ∀ w, s'.biasRange tg 4 = some w →
          Holds .instructionFetchFault s ((s'.askHost w false).parkMe t w)) ∧
        (s'.heldCode t tg = none → s'.biasRange tg 4 = none →
          (∀ s2, s'.fillCode t tg = .bad s2 → s2.me = some t →
            Holds .instructionFetchFault s (s2.trapMe (t.countWatch (s.watchStep t)) 0x0B (BitVec.ofNat 64 t.pc))) ∧
          (∀ s2 w, s'.fillCode t tg = .ok s2 w → Holds .instructionFetchFault s s')))) ∧
    (∀ fn v, (s.replyTo fn v = none → exec (.prqreply fn v) s = .next s ∧ exec (.prqreplyRefuse fn v) s = .next s) ∧
      (∀ r, s.replyTo fn v = some r → (∀ c ∈ s.cores, ∀ f ∈ c.2.foot, ∀ w ∈ f.2.2, w.is r = false) →
        (∀ ws, t.run = .waiting (.pages ws) → (∃ w ∈ ws, w.is r = true) → s.strands.filter (fun p => p.1 == u) = [(u, t)] →
          ∃ s' : State, exec (.prqreplyRefuse fn v) s = .next s' ∧
            s'.strand? u = some { goes with refused := t.refused ++ (ws.filter fun w => w.is r).map fun w => w.va / 65536 * 65536 }) ∧
        (∀ w, t.run = .waiting (.pages [w]) → w.is r = true → s.strands = [(u, t)] →
          let s1 := ({ s with pageReqs := s.pageReqs.erase r } : State).dropPage (quadOf t.core) w.vf (w.va / 65536 * 65536)
          ∃ s' : State, exec (.prqreply fn v) s = .next s' ∧ s'.strand? u = some (match s1.resolveFor u w.vf w.mode 0 w.va w.acc with
            | .wait _ q => { t with run := .waiting (.pages [q]) }
            | .host _ _ => { t with run := .waiting (.pages [{ w with host := true }]) }
            | .refused _ => { goes with refused := t.refused ++ [w.va / 65536 * 65536] }
            | .ok _ _ => goes)))) ∧
    (∀ (vf : Nat) (v : Word64),
      exec (.prqidxWrite (some vf) v) s = .next ((s.putPart vf { s.part vf with
        prqidx := field64 (bitsNat v 47 32) 32 ||| field64 (bitsNat (s.part vf).prqidx 15 0) 0 }).postRing false vf) ∧
      exec (.prqidxWrite none v) s = .next (({ s with box := { s.box with
        prqidx := field64 (bitsNat v 47 32) 32 ||| field64 (bitsNat s.box.prqidx 15 0) 0 } } : State).postRing true 0)) ∧
    (∀ w, t.run = .waiting w → (w.onRequest = true → t.buf = [] ∨ Config.lostStore s.tick = false →
        exec (.requestTimeout u) s = .next (s.putStrand u { goes with timeout := true, answered := true })) ∧
      (w.onRequest = false → t.buf = [] → exec (.requestTimeout u) s = .next s)) ∧
    (t.run = .running → t.buf = [] →
      (t.doom = none → Config.lostFetch s.tick = true →
        exec (.requestTimeout u) s = .next (s.putStrand u { t with doom := some (0x0B, BitVec.ofNat 64 t.pc) })) ∧
      (t.doom ≠ none ∨ Config.lostFetch s.tick = false → exec (.requestTimeout u) s = .next (s.putStrand u { t with timeout := true }))) ∧
    (∀ e r, t.buf = e :: r → t.run = .running ∨ (∃ w, t.run = .waiting w ∧ (w.onRequest = false ∨ Config.lostStore s.tick = true)) →
      let may : Prop := s.storeWait t.vf e = none ∧ s.storeGone t e = false
      (Config.lostPerformed s.tick = false ∨ ¬may → exec (.requestTimeout u) s = .next ((s.reportLost t e.va e.target).popStore u)) ∧
      (Config.lostPerformed s.tick = true → may →
        exec (.requestTimeout u) s = .next (((s.performStore t e).reportLost t e.va e.target).popStore u))) ∧
    (∀ p : OpPacket, (p.lpkg ≠ (s.part p.vf).self → exec (.operationPacket p) s = .next (s.misroute p.vf (dieOfPa p.addr) 0 0 p.addr)) ∧
      (p.lpkg = (s.part p.vf).self →
        (∀ w, s.biasWait p.addr = some w → exec (.operationPacket p) s =
          .next (({ s with host := { s.host with waitingOps := s.host.waitingOps ++ [p] } } : State).askHost w (p.op ≠ .read))) ∧
        (s.biasWait p.addr = none → frameOk p.addr = true → (s.die (dieOfPa p.addr)).fenced = false → p.addr % p.n = 0 →
          (∀ x, p.op = .write x →
            let s1 := if s.physHomePoison p.addr p.n then s.event (dieOfPa p.addr) 0x03 0 0 p.vf 0 [5#64, BitVec.ofNat 64 p.addr] else s
            exec (.operationPacket p) s = .next ((s1.devWrite p.addr (leBytes p.n x.toNat)).emit (.opAnswer [] true))) ∧
          (s.physPoison p.addr p.n = true → p.op = .read → exec (.operationPacket p) s = .next (s.emit (.opAnswer [] false))) ∧
          (s.physHomePoison p.addr p.n = true → ∀ op x e, p.op = .atomic op x e → exec (.operationPacket p) s = .next (s.emit (.opAnswer [] false))) ∧
          (let old := s.physBytes p.addr p.n
           (s.physPoison p.addr p.n = false → p.op = .read → exec (.operationPacket p) s = .next (s.emit (.opAnswer old true))) ∧
           (s.physHomePoison p.addr p.n = false → ∀ op x e, p.op = .atomic op x e →
              let new := if p.n = 4 then (amoNew 32 (packetOp op) (BitVec.ofNat 32 (leNat old)) (lo32 x) (lo32 e)).toNat
                else (amoNew 64 (packetOp op) (BitVec.ofNat 64 (leNat old)) x e).toNat
              exec (.operationPacket p) s = .next ((s.devWrite p.addr (leBytes p.n new)).emit (.opAnswer old true))))))) ∧
    (∀ q bank, (bank ∈ (s.quad q).asleep → exec (.bankRetentionSleep q bank) s = .next s) ∧
      (bank ∉ (s.quad q).asleep → exec (.bankRetentionSleep q bank) s = .next (s.putQuad q { s.quad q with asleep := (s.quad q).asleep ++ [bank] }))) ∧
    (∀ g, let k := structureOf g
      let s1 := s.errorAt g
      exec (.patrolScrub g false) s = .next (s.corrected (s.dieOfKey 0 g) k g) ∧
      (k = 7 ∨ k = 8 → exec (.patrolScrub g true) s = .next (s1.corrected (s1.dieOfKey 0 g) k g)) ∧
      (k = 6 → exec (.patrolScrub g true) s = .next s1 ∧
        ∀ e, (s.dir.filter fun e => e.die == (g - memCount) / 3 % 32)[(g - memCount) / 96]? = some e →
          s1 = s.fullRecall e.die e.vf e.vline (if (s.l1.filter e.covers).any (fun l => l.stamp.isSome) then some e.slice else none) []) ∧
      (k ≠ 6 → k ≠ 7 → k ≠ 8 → exec (.patrolScrub g true) s = .next
        (s1.event (s1.dieOfKey 0 g) 0x03 0 0 0 0 [BitVec.ofNat 64 k, BitVec.ofNat 64 g])) ∧
      (g < memTile → (s.errorAt g).poisoned g 1 = true))

/-- For every state and core: with nothing to restore and no message waiting, step 3 of R289 takes the record at the owner end;
SPLIT replaces the chosen record by its four children, child 0 at the owner end, and counts four sent and one consumed; a leaf
starts as a resident strand, a gang group's members together, a task with its footprint (kept waiting for a page of it,
starting with its trap where it is refused or poisoned), an entry or code message as a strand, each in the lowest free slot; a
strand whose wait has ended takes its core's lowest free slot, and its window's bytes are written back there; a displaced
strand leaves its slot; a thief takes the record at a victim's thief end, and pushes it at its owner end, or where a link that
is down cuts it off gets none (notes/assumptions/99.md); held and dependant pushes are made; a launch inlet entry is refused
with its cause, accepted, or waits for its descriptor's page; a token under this package's ID passes on, with a request of a
package that wants work, or leaves records of a loaded one for the oldest request, and one under another ID is counted. From
which deques a token takes its records, in what order, and to which package it goes next are the model's choice
(notes/assumptions/43.md). Completes: launchInletEntry, dependantPush, heldPush, split, leafStrandStart, gangGroupPlacement,
taskStart, entryActivation, codeActivation, strandRestore, displacement, stealRequest, stealReply, loadSummaryToken. (R48,
R183, R189, R287, R288, R289, R290, R291, R292, R293, R306, R44) -/
def Obligations.SchedulerPlacesWork : Prop :=
  ∀ (s : State) (c n : Nat) (r : Rec),
    let x := s.core c
    (x.stopped = false → (∀ p ∈ s.strands, p.2.core = c → p.2.slot ≠ none) → (∀ m ∈ x.inlet, 2 ≤ m.kind) → s.partOfCore c ≠ none →
      (x.gangHold = none → (∀ o ∈ (s.quad (quadOf c)).ops, o.owes = 0) → x.deque.head? = some r → s.step3 c = some (0, r)) ∧
      (x.gangHold = some r → x.deque[n]? = some r → (∀ j < n, x.deque[j]? ≠ some r) → s.step3 c = some (n, r))) ∧
    (s.partOfCore c = none → s.step3 c = none) ∧
    (s.step3 c = some (n, r) → r.splits = true → s.freeSlots c ≠ [] → x.deque.length + 3 ≤ 256 → ∃ s' : State,
      exec (.split c) s = .next s' ∧ (s'.core c).deque = [r.child 0, r.child 1, r.child 2, r.child 3] ++ x.deque.eraseIdx n ∧
      ((s'.core c).counters r.job).s = (x.counters r.job).s + 4#64 ∧ ((s'.core c).counters r.job).c = (x.counters r.job).c + 1#64 ∧
      s'.strands = s.strands ∧ s'.mem = s.mem) ∧
    (∀ root d1 args first k ks, s.step3 c = some (n, r) → r.splits = false → r.body = .sweep root d1 args first → s.freeSlots c = k :: ks →
      ∃ (s' : State) (t : Strand), exec (.leafStrandStart c) s = .next s' ∧ s'.strand? s.nextUid = some t ∧ (s'.core c).deque = x.deque.eraseIdx n ∧
        t.kind = .resident ∧ t.core = c ∧ t.slot = some k ∧ t.birthJob = r.job ∧ t.launch = r.launch ∧ t.pc = bitsNat d1 55 0 ∧ (args.length ≤ 6 → t.g 1#5 = root) ∧
        t.run = .running ∧ (t.pop = if bitAt d1 57 then some first else none)) ∧
    (∀ desc pipes ms refs, s.step3 c = some (n, r) → r.body = .gang desc pipes ms refs → r.isGroup = true →
      ((s.freeSlots c).length < ms.length → exec (.gangGroupPlacement c) s = .next (s.putCore c { x with gangHold := some r })) ∧
      (ms.length ≤ (s.freeSlots c).length → ∃ s' : State, exec (.gangGroupPlacement c) s = .next s' ∧
        (s'.core c).gangHold = none ∧ (s'.core c).deque = x.deque.eraseIdx n ∧ ∀ i < ms.length, ∃ t, s'.strand? (s.nextUid + 1 + i) = some t ∧ t.kind = .gang ∧
          t.core = c ∧ t.slot = (s.freeSlots c)[i]? ∧ t.group = s.nextUid ∧ t.pc = bitsNat ((((ms[i]?).getD [])[1]?).getD 0#64) 55 0)) ∧
    (∀ d0 d1 d2 foot k ks, x.footReady = none → s.step3 c = some (n, r) → r.body = .task d0 d1 d2 foot → s.freeSlots c = k :: ks →
      (foot = 0#64 → ∃ (s' : State) (t : Strand), exec (.taskStart c) s = .next s' ∧ s'.strand? s.nextUid = some t ∧ (s'.core c).deque = x.deque.eraseIdx n ∧
        t.kind = .task ∧ t.slot = some k ∧ t.pc = bitsNat d0 55 0 ∧ t.g 1#5 = 0#64 ∧ t.g 3#5 = d1 ∧ t.g 4#5 = d2 ∧ t.g 5#5 = BitVec.ofNat 64 (bitsNat d0 63 62)) ∧
      (foot ≠ 0#64 →
        let off := 0x10000 + 0x4000 * k
        let t : Strand := { ({ s.birth .task r.vf r.job c k 0 r.anc with pc := bitsNat d0 55 0 } : Strand).args 1
          [mkRef (refL foot) (refE foot) (poolVa c off), foot, d1, d2, BitVec.ofNat 64 (bitsNat d0 63 62)] with pinned := true }
        let reserved : State → List PageWait → State := fun s qs => s.putCore c { s.core c with foot := (s.core c).foot ++ [(k, r, qs)] }
        exec (.taskStart c) s = .next (match (s.takeRec c n).footprint t foot (memPool + c * 2 ^ 17 + off) with
          | .ok s1 => s1.place t
          | .bad s1 cause v => s1.place { t with doom := some (cause, v) }
          | .wait s1 q => reserved s1 [q]
          | .again s1 => reserved s1 []))) ∧
    (∀ k, x.footReady = some (k, r) → exec (.taskStart c) s =
      .next ((s.putCore c { x with foot := x.foot.filter fun f => f.1 ≠ k }).startTask c k r false)) ∧
    (∀ p ∈ ([(.entryActivation c, 0), (.codeActivation c, 1)] : List (Instr × Nat)), ∀ m k ks, s.placing c = true → x.waiting = some m → m.kind = p.2 →
      s.freeSlots c = k :: ks → ∃ (s' : State) (t : Strand), exec p.1 s = .next s' ∧ s'.strand? s.nextUid = some t ∧ (s'.core c).inlet = x.inlet.erase m ∧
        t.slot = some k ∧ t.birthJob = m.job ∧ t.win = some m ∧ t.g 1#5 = m.hdr0 ∧ t.pc = (if p.2 = 1 then 0 else m.target) ∧ t.code = decide (p.2 = 1) ∧
        t.kind = (if p.2 = 1 ∨ bitAt m.hdr0 5 = true then Kind.handler else Kind.resident)) ∧
    (∀ u t, s.strand? u = some t → t.core = c → t.slot = none → t.run = .running →
      (∀ p ∈ s.strands, p.2.core = c → p.2.slot = none → p.2.run = .running → p.1 = u) → s.restorable c = some u) ∧
    (∀ u t k ks, s.restorable c = some u → s.strand? u = some t → s.freeSlots t.core = k :: ks → ∃ s' : State,
      exec (.strandRestore c) s = .next s' ∧ s'.strand? u = some { t with slot := some k, parked := [] } ∧
      (Memory.wf s.mem = true → let at_ := memPool + t.core * 2 ^ 17 + k * (s.part t.vf).window
        Memory.bytes s'.mem at_ t.parked.length = t.parked ∧
          ∀ j, j < at_ ∨ at_ + t.parked.length ≤ j → Memory.read s'.mem j = Memory.read s.mem j)) ∧
    (∀ u t, s.wantsSlot c = true → s.displaced c = some u → s.strand? u = some t → exec (.displacement c) s = .next (s.leaveSlot u t)) ∧
    (∀ v, s.canSteal c = true → (s.victims c)[match x.steal with
        | some y => y.asked % (s.victims c).length
        | none => 0]? = some v → c ≠ v →
      (∀ z, s.cutSide (dieOf c) (dieOf v) = some z → ∃ (s' : State) (i : Nat), exec (.stealRequest c) s = .next s' ∧
        (s'.core c).steal = some ⟨i, some v, some none⟩ ∧ (s'.core v).deque = (s.core v).deque ∧ s'.strands = s.strands) ∧
      (∀ g, s.cutSide (dieOf c) (dieOf v) = none → s.gives v = some g → ∃ s' : State, exec (.stealRequest c) s = .next s' ∧ (s'.core v).deque = (s.core v).deque.dropLast ∧
        (∃ i, (s'.core c).steal = some ⟨i, some v, some (some g)⟩) ∧ s'.strands = s.strands) ∧
      (s.cutSide (dieOf c) (dieOf v) = none → s.gives v = none → ∃ (s' : State) (i : Nat), exec (.stealRequest c) s = .next s' ∧ (s'.core c).steal = some ⟨i, some v, some none⟩ ∧
        s'.strands = s.strands)) ∧
    (∀ i v, x.steal = some ⟨i, v, some (some r)⟩ → exec (.stealReply c) s = .next ((s.putCore c { x with steal := none }).pushOrHold c r)) ∧
    (∀ i v, x.steal = some ⟨i, v, some none⟩ → exec (.stealReply c) s =
      .next (s.putCore c { x with steal := if s.idle c then some ⟨i, none, none⟩ else none })) ∧
    (∀ hs, x.deque.length < 256 → x.held = some r :: hs → exec (.heldPush c) s =
      .next (((s.putCore c { x with held := hs }).push c r).pushMade r)) ∧
    (∀ hs m s', x.deque.length < 256 → x.held = none :: hs → (x.inlet.find? fun m => m.kind == 3) = some m →
      (s.putCore c { x with held := hs, inlet := x.inlet.erase m }).countDown m false = some s' → exec (.heldPush c) s = .next s') ∧
    (∀ p, s.pending[n]? = some p → s.pushable p = true → exec (.dependantPush n) s =
      .next (({ s with pending := s.pending.eraseIdx n } : State).pushOrHold p.core p.rec_)) ∧
    (∀ vf, s.entryReady vf = true →
      let i := (s.part vf).inletPos
      let va := bitsNat ((s.part vf).inletWord i 1) 55 0
      let gang := bitAt ((s.part vf).inletWord i 0) 1
      let job := bitsNat ((s.part vf).inletWord i 0) 63 48
      (∀ e, (s.part vf).entryRefused i = some e → exec (.launchInletEntry vf) s = .next (s.entryDone vf i e 0)) ∧
      ((s.part vf).entryRefused i = none →
        (∀ s' q, s.descRead vf job va 64 = .wait s' q → exec (.launchInletEntry vf) s = .next (s'.putPart vf { s'.part vf with inletWaits := [q] })) ∧
        (∀ s' e, s.descRead vf job va 64 = .bad s' e → exec (.launchInletEntry vf) s = .next (s'.entryDone vf i e 0)) ∧
        (∀ s' bs, s.descRead vf job va 64 = .ok s' bs →
          let d0 := (dwords bs 8).headD 0#64
          let k := bitsNat d0 2 0
          let checks := sweepChecks (s'.strandSlots vf) d0 (((dwords bs 8)[1]?).getD 0#64)
          (∀ e, gang = false → checks = some e → exec (.launchInletEntry vf) s = .next (s'.entryDone vf i e.1 0)) ∧
          (gang = false → checks = none → exec (.launchInletEntry vf) s = .next (s'.acceptEntry vf i false (dwords bs 8))) ∧
          (gang = true → k < 2 ∨ 4 < k → exec (.launchInletEntry vf) s = .next (s'.entryDone vf i 0x51 0)) ∧
          (∀ s2 cs, gang = true → 2 ≤ k → k ≤ 4 → s'.descRead vf job va (64 + 64 * k) = .ok s2 cs →
            let ws := dwords cs (8 + 8 * k)
            (∀ e, gangChecks (s2.strandSlots vf) va ws = some e → exec (.launchInletEntry vf) s = .next (s2.entryDone vf i e.1 0)) ∧
            (gangChecks (s2.strandSlots vf) va ws = none → exec (.launchInletEntry vf) s = .next (s2.acceptEntry vf i true ws)))))) ∧
    (∀ k : Token, let self := (s.part k.vf).self
      let under := s.underloaded k.vf
      let asks := if under then k.requests else k.requests.filter (· ≠ self)
      let load := ((s.partCores k.vf).map fun c => ((s.core c).deque.filter fun r => r.job == k.job).length).sum
      let on : State → List Nat → State := fun s rs => s.emit (.token k.job k.vf (Config.nextPackage k.job) rs)
      (k.lpkg ≠ self → exec (.loadSummaryToken k) s = .next (s.misroute k.vf (dieOf (s.firstCore k.vf)) k.job (4 * s.firstCore k.vf) 0)) ∧
      (k.lpkg = self → (s.part k.vf).jobIndex k.job = none → exec (.loadSummaryToken k) s = .next (on s k.requests)) ∧
      (k.lpkg = self → (s.part k.vf).jobIndex k.job ≠ none →
        (asks = [] → exec (.loadSummaryToken k) s = .next (on s (if under then [self] else []))) ∧
        (∀ l rs, asks = l :: rs →
          (load < 64 → exec (.loadSummaryToken k) s =
            .next (on s (if under = true ∧ self ∉ asks ∧ asks.length < 8 then asks ++ [self] else asks))) ∧
          (64 ≤ load → (∀ w, s.lptWait k.vf l = some w → exec (.loadSummaryToken k) s =
              .next { (s.askHost w false) with outside := .token k :: s.outside }) ∧
            (s.lptWait k.vf l = none → let y := s.takeThief k.job 16 (s.partCores k.vf)
              exec (.loadSummaryToken k) s = .next (on (y.1.emit (.records (bitsNat (y.1.lptEntry k.vf l) 54 50) l y.2)) rs))))))

/-- For every state: a packet that is not at its destination moves one quad along the mesh, along X until its column is that of the
quad it makes for on this die and then along Y, crosses to the next die at the port's edge quad, leaves at its pod port, or is
lost where its link is down; it has arrived, or leaves, only while no older packet of its flow is under way; a record that the
token brought is pushed at the end of its way; an arrived message that belongs to its core, while the interface has room, takes
the lowest free inlet slot (entry, code), is landed and counted consumed (data), or takes one from its counter (count): a count
of 0 stays and is an event of class 0x08, with the message counted consumed; above 1 the count goes down; 1 pushes the record,
a record that the checks refuse is an event instead, its count going down and the message counted consumed; without room the
message waits in the fabric and takes its core's credit; CREDIT_RETURN gives credit back for packets that wait no more;
messages that do not belong to their core are counted in MISROUTE. Two clauses are the model's choice: a count of 1 whose push
finds the deque full waits in the inlet with the count not yet taken down (log entry 41), and a message to a fenced die is lost
(log entry 35). Completes: messageArrival, dataLanding, countMessage, creditReturn, packetHop. (R176, R178, R179, R183, R299,
R300, R301, R302, R303, R304, R306, R327) -/
def Obligations.FabricDeliversMessages : Prop :=
  (∀ (s : State) (c : Nat), exec (.creditReturn c) s = .next (s.putCore c { s.core c with
    noCredit := (s.core c).noCredit.filter fun id => s.packets.any fun p => p.id == id })) ∧
  ∀ (s : State) (p : Packet), (s.packets.find? fun x => x.id == p.id) = some p →
    (s.canHop p = true →
      (s.linkLost p = true → exec (.packetHop p.id) s = .next (s.losePacket p (dieOfQuad p.at_))) ∧
      (s.linkLost p = false →
        (∀ q, p.move = .mesh q →
          let aim := match nextDir (dieOfQuad p.at_) (dieOfQuad p.final) with
            | some dir => edgeOf (dieOfQuad p.at_) dir
            | none => p.final
          (p.at_ % 16 < aim % 16 → q = p.at_ + 1) ∧ (aim % 16 < p.at_ % 16 → q + 1 = p.at_) ∧
          (p.at_ % 16 = aim % 16 → p.at_ / 16 % 16 < aim / 16 % 16 → q = p.at_ + 16) ∧
          (p.at_ % 16 = aim % 16 → aim / 16 % 16 < p.at_ / 16 % 16 → q + 16 = p.at_) ∧
          exec (.packetHop p.id) s = .next { s with packets := s.packets.map fun x => if x.id = p.id then { p with at_ := q } else x }) ∧
        (∀ dir, p.move = .die dir → ∃ s' : State, exec (.packetHop p.id) s = .next s' ∧ p.at_ = edgeOf (dieOfQuad p.at_) dir ∧
          s'.packets = s.packets.map fun x => if x.id = p.id then p.cross dir (Config.sharedFull s.tick) else x) ∧
        (∀ n, p.move = .leave n → ∃ s' : State, exec (.packetHop p.id) s = .next s' ∧ p.port = some n ∧ p.at_ = portQuad n ∧
          s'.packets = s.packets.filter (fun x => x.id ≠ p.id) ∧ s'.outbox = s.outbox ++ [.toPod n p]) ∧
        (∀ r, p.move = .here → p.body = .tokenRec r → exec (.packetHop p.id) s = .next ((s.dropPacket p).pushOrHold p.dst r)))) ∧
    (let first : Prop := ∀ x ∈ s.packets, x.id < p.id →
       ¬(x.cls = p.cls ∧ x.job = p.job ∧ x.src = p.src ∧ x.dst = p.dst ∧ x.port = p.port ∧ x.dpkg = p.dpkg)
     (s.arrived p = true ↔ p.port = none ∧ p.at_ = quadOf p.dst ∧ first) ∧
     (∀ n, p.move = .leave n → s.canHop p = true → first)) ∧
    (∀ m, p.body = .msg m → s.arrived p = true →
      let own : Prop := (s.die (dieOf m.dcore)).fenced = false ∧ s.strays m = false
      ∀ i : Instr, (m.kind < 2 ∧ i = .messageArrival p.id) ∨ (m.kind = 2 ∧ i = .dataLanding p.id) ∨ (m.kind = 3 ∧ i = .countMessage p.id) →
      ((s.die (dieOf m.dcore)).fenced = true → exec i s = .next (s.losePacket p (dieOf m.dcore))) ∧
      ((s.die (dieOf m.dcore)).fenced = false → s.strays m = true →
        exec i s = .next ((s.dropPacket p).misroute m.vf (dieOf m.dcore) m.job (4 * m.dcore) m.target)) ∧
      (own → s.inletRoom p.dst = false → ∃ s' : State, exec i s = .next s' ∧ (p.src < 2 ^ 15 → p.id ∈ (s'.core p.src).noCredit) ∧
        s'.packets = (s.packets.map fun x => if x.id = p.id then { p with held := true } else x) ∧ s'.strands = s.strands ∧ s'.mem = s.mem) ∧
      (own → s.inletRoom p.dst = true →
        (m.kind < 2 → exec (.messageArrival p.id) s = .next ((s.dropPacket p).putCore p.dst { s.core p.dst with
          inlet := (s.core p.dst).inlet ++ [{ m with slot := s.inletSlot p.dst }] })) ∧
        (m.kind = 2 → exec (.dataLanding p.id) s = .next (((s.dropPacket p).land m).consumed p.dst m.job m.marked)) ∧
        (m.kind = 3 → s.poisoned (memPool + m.dcore * 2 ^ 17 + m.target) 64 = false →
          let k := memPool + m.dcore * 2 ^ 17 + m.target
          let v := Memory.dword s.mem k
          let w : Nat → Word64 := fun i => Memory.dword s.mem (k + 32 + 8 * i)
          (v ≠ 0#64 → v ≠ 1#64 → exec (.countMessage p.id) s = .next
            ((((s.acquire (quadOf m.dcore)).putHome k (leBytes 8 (v - 1#64).toNat)).consumed m.dcore m.job m.marked).dropPacket p)) ∧
          (v = 0#64 → exec (.countMessage p.id) s = .next ((((s.acquire (quadOf m.dcore)).event (dieOf m.dcore) 0x08 1 m.job m.vf
            (4 * m.dcore) [field64 m.target 0]).consumed m.dcore m.job m.marked).dropPacket p)) ∧
          (v = 1#64 → (recordChecks (w 0) (w 3)).isSome = true → exec (.countMessage p.id) s = .next
            (((((s.acquire (quadOf m.dcore)).putHome k (leBytes 8 0)).event (dieOf m.dcore) 0x08 3 m.job m.vf (4 * m.dcore)
              [field64 m.target 0]).consumed m.dcore m.job m.marked).dropPacket p)) ∧
          (v = 1#64 → p.dst = m.dcore → recordChecks (w 0) (w 3) = none →
            ((s.core m.dcore).full = false → ∃ s' : State, exec (.countMessage p.id) s = .next s' ∧ s'.packets = (s.dropPacket p).packets ∧
              (s'.core m.dcore).deque = ⟨.task (w 0) (w 1) (w 2) (w 3), m.job, m.vf, 0, 0, m.anc⟩ :: (s.core m.dcore).deque ∧
              ((s'.core m.dcore).counters m.job).s = ((s.core m.dcore).counters m.job).s + 1#64 ∧
              ((s'.core m.dcore).counters m.job).c = ((s.core m.dcore).counters m.job).c + 1#64) ∧
            ((s.core m.dcore).full = true → exec (.countMessage p.id) s = .next ((s.dropPacket p).putCore p.dst { s.core p.dst with
              inlet := (s.core p.dst).inlet ++ [{ m with slot := s.inletSlot p.dst }], held := (s.core p.dst).held ++ [none] }))))))

/-- For every state: a ready RESIZE takes the change off the queue, sets PART or the skip bit, steps RSZEVT and raises vector 2;
PRE_EMPT with good arguments stops the named cores, with bad ones ends with result 2; a delivery restores a parked strand
first, and otherwise writes the frame head and traps 0x7F with its address, with 0 and an event where the frame is refused,
fault-parks while the frame's page is absent, or waits for the host; a due queue image empties its core's inlet and deque once
its pages are there, and finishes the inlet entry whose push it saved; the command completes when all is written; GUAR, BURST
and job entries are written or ignored as R334 and R327 say; LPTINV drops the entry, after the host's answer where the new
entry's line is with the host. The model's choices: the frame's and image's writes translate as supervisor stores, a refused
part is left unwritten and recorded, a core is imaged once and its queues stand empty then (log entries 48 and 49), and LPTINV
asks the host (log entry 80). An MMIO write of a bad width or alignment answers Completer Abort and changes nothing else, one
of a doubleword reaches its register, one of a half the register with the other half as it was, an action register only with
its low half. Completes: preEmptDelivery, queueImage, preEmptComplete, resize, lptinv, jobEntryWrite, guarWrite, burstWrite,
mmioWrite, preEmpt. (R222, R323, R324, R326, R327, R334, R337, R347, R348, R349, R354, R378) -/
def Obligations.PartitionAndPreemptEventsTakeEffect : Prop :=
  ∀ (s : State) (vf : Nat) (v : Word64),
    let p := s.part vf
    (∀ r, s.resizeReady vf = some r → ∃ s' : State, exec (.resize vf) s = .next s' ∧ s'.resizes = s.resizes.erase r ∧ s'.strands = s.strands ∧
      Out.irq (some vf) 2 ∈ s'.outbox ∧ (s'.part vf).rszevt =
        field64 ((bitsNat p.rszevt 63 48 + 1) % 65536) 48 ||| field64 (s'.part vf).len 14 ||| field64 (s'.part vf).base 0 ∧
      (r.skip = none → (s'.part vf).part = field64 (bitsNat p.part 63 55) 55 ||| field64 r.len 14 ||| field64 r.base 0 ∧ s'.skip = s.skip) ∧
      (∀ h, r.skip = some (h, true) → h ∈ s'.skip ∧ (s'.part vf).part = p.part) ∧ (∀ h, r.skip = some (h, false) → h ∉ s'.skip ∧ (s'.part vf).part = p.part)) ∧
    (s.boxRuns 1 = true → s.box.preempt = none →
      let d := s.arg 0
      let x : Preempt := ⟨bitsNat d 5 0, bitsNat d 28 16, bitsNat d 44 32, (s.arg 1).toNat, (s.arg 2).toNat⟩
      let bad : Prop := (s.part x.vf).present = false ∨ x.last < x.first ∨ (s.part x.vf).len < x.last ∨ x.a % 65536 ≠ 0 ∨ x.q % 65536 ≠ 0
      (bad → exec .preEmpt s = .next (s.boxDone 2)) ∧
      (¬bad → ∃ s' : State, exec .preEmpt s = .next s' ∧ s'.box.preempt = some x ∧ s'.strands = s.strands ∧
        ∀ c ∈ s.preemptCores x, (s'.core c).stopped = true)) ∧
    (∀ x u t, s.box.preempt = some x → s.strand? u = some t → s.canDeliver t = true →
      (t.slot = none → exec (.preEmptDelivery u) s = .next ((s.abandonWait t).restore u { t with run := .running, fromPark := true })) ∧
      (∀ k, t.slot = some k →
        let f := x.a + 1310720 * (s.preemptPos t.core).getD 0 + 4096 * (4 * (t.core % 4) + k)
        let s0 := ({ s with cur := u } : State).abandonWait t
        let parked := t.delivery.getD (decide (t.run ≠ .running))
        let took := fun (s : State) (v : Nat) => s.takeTrap u
          { t with run := .running, preempt := some v, fromPark := false, delivery := none } 0x7F (BitVec.ofNat 64 v)
        let lost := fun (now : State) => took (s0.noteRefusal now t.vf (dieOf t.core) f t.birthJob t.unit) 0
        let waits := fun (s : State) (w : Wait) => s.putStrand u { t with run := .waiting w, since := s.tick, delivery := some parked }
        (2 ^ 56 < f + 128 → exec (.preEmptDelivery u) s = .next (lost s0)) ∧
        (f + 128 ≤ 2 ^ 56 → ∀ s1,
          (∀ tg, resolve s0 t.vf 1 (dieOf t.core) f .write = .ok s1 tg →
            (s1.biasRange tg 128 = none → exec (.preEmptDelivery u) s =
              .next (took (s1.partyStore t f tg (t.frameHead parked)) f)) ∧
            (∀ w, s1.biasRange tg 128 = some w → exec (.preEmptDelivery u) s = .next (waits (s1.askHost w true) w))) ∧
          (resolve s0 t.vf 1 (dieOf t.core) f .write = .refused s1 → exec (.preEmptDelivery u) s = .next (lost s1)) ∧
          (∀ w, resolve s0 t.vf 1 (dieOf t.core) f .write = .host s1 w → exec (.preEmptDelivery u) s = .next (waits s1 w)) ∧
          (∀ r, resolve s0 t.vf 1 (dieOf t.core) f .write = .wait s1 r → exec (.preEmptDelivery u) s =
            .next (s1.faultPark { t with run := .running, delivery := some parked } [r]))))) ∧
    (∀ x c, s.box.preempt = some x → s.imageDue c = true →
      let va := x.q + 131072 * (4 * (s.preemptPos c).getD 0 + c % 4)
      (∀ s1, s.pagesWait x.vf (dieOf c) va (s.queueImage c).length = some s1 → exec (.queueImage c) s = .next s1) ∧
      (s.pagesWait x.vf (dieOf c) va (s.queueImage c).length = none →
        let s1 := s.writePages x.vf c va (s.queueImage c) 4
        exec (.queueImage c) s = .next (((s.core c).held.filterMap id).foldl State.pushMade
          (s1.putCore c { s1.core c with imaged := true, deque := [], held := [], inlet := [], gangHold := none })))) ∧
    (∀ x, s.box.preempt = some x → s.preemptOver = true → ∃ s' : State, exec .preEmptComplete s = .next s' ∧ s'.box.preempt = none ∧
      s'.strands = s.strands ∧ Out.irq none 0 ∈ s'.outbox ∧ bitAt s'.box.stat 63 = false ∧ bitsNat s'.box.stat 7 0 = 0 ∧
      ∀ c ∈ s.preemptCores x, (s'.core c).stopped = false) ∧
    (let g := bitsNat v 22 0
     let others := ((s.parts.filter fun q => q.1 ≠ vf).map fun q => q.2.guar).sum
     (6290688 < others + g → exec (.guarWrite vf v) s = .next s) ∧
     (others + g ≤ 6290688 → exec (.guarWrite vf v) s = .next (s.putPart vf { p with guar := g }).noteReclaim) ∧
     (g < p.guar → exec (.burstWrite vf v) s = .next s) ∧
     (p.guar ≤ g → exec (.burstWrite vf v) s = .next (s.putPart vf { p with burst := g }))) ∧
    (∀ pf j, let old := (p.jobtab.toList[j]?).getD 0#64
      let new := field64 (if bitAt v 63 then 1 else 0) 63 ||| field64 (if bitAt (if pf then v else old) 62 then 1 else 0) 62 |||
        field64 (bitsNat v 61 58) 58 ||| field64 (bitsNat v 15 0) 0
      let job := bitsNat new 15 0
      let fresh : Prop := bitAt new 63 = true ∧ (bitAt old 63 = false ∨ bitsNat old 15 0 ≠ job)
      (s.jobWriteIgnored vf j old new = true → exec (.jobEntryWrite pf vf j v) s = .next s) ∧
      (s.jobWriteIgnored vf j old new = false →
        (¬fresh → exec (.jobEntryWrite pf vf j v) s = .next (s.putPart vf { p with jobtab := p.jobtab.setIfInBounds j new })) ∧
        (fresh → exec (.jobEntryWrite pf vf j v) s = .next ((s.putJob job { s.job job with launched := false, series := false, wave := none }).putPart vf
          { p with jobtab := p.jobtab.setIfInBounds j new })))) ∧
    (∀ w, s.lptinvAsk v = some w → exec (.lptinv v) s = .next { (s.askHost w false) with outside := .lptinv v :: s.outside }) ∧
    (s.lptinvAsk v = none → ∃ s' : State, exec (.lptinv v) s = .next s' ∧ s'.lptCache = FMap.erase s.lptCache (bitsNat v 29 24 * 2 ^ 18 + bitsNat v 17 0) ∧
      s'.box.lptinv = v ∧ s'.strands = s.strands ∧ s'.mem = s.mem) ∧
    (∀ fn off width,
      ((width ≠ 4 ∧ width ≠ 8) ∨ off % width ≠ 0 → exec (.mmioWrite fn off width v) s = .next (s.emit .abort)) ∧
      (off % 8 = 0 → exec (.mmioWrite fn off 8 v) s = .next (s.regWrite fn off v)) ∧
      (off % 8 = 0 → exec (.mmioWrite fn off 4 v) s = .next (s.regWrite fn off (field64 (bitsNat (s.regRead fn off) 63 32) 32 ||| field64 (bitsNat v 31 0) 0))) ∧
      (off % 8 = 0 →
        let new := field64 (bitsNat v 31 0) 32 ||| field64 (bitsNat (s.regRead fn off) 31 0) 0
        exec (.mmioWrite fn (off + 4) 4 v) s = .next (if isAction fn off = true then s.keepHigh fn off new else s.regWrite fn off new))) ∧
    exec (.mmioWrite (some vf) 0x048 8 v) s = .next (s.putPart vf { p with rszpc := field64 (bitsNat v 55 0) 0 }) ∧
    exec (.mmioWrite (some vf) 0x058 8 v) s = .next s ∧
    (∀ k < 512, exec (.mmioWrite (some vf) (0x1000 + 8 * k) 8 v) s = .next (s.putPart vf { p with inlet := FMap.set p.inlet k v })) ∧
    (∀ k < 32, exec (.mmioWrite none (0x41100 + 8 * k) 8 v) s = .next { s with box := { s.box with args := FMap.set s.box.args k v } })

/-- For every state in which the mailbox carries a command out: each command with a bad argument ends with result 2; a reduction
entry is cleared or set; a fenced die holds no strand, no message and no record and refuses its memory; lanes are degraded by
retraining, and the retraining ends with the lanes in force and result 0; a frame copy into a mapped frame, or from or to a
fenced die, is refused with 3, and another copies the bytes; a count rebase of a busy job is refused with 3, else zeroes the
counters and WAVESTAT; a measurement slot becomes the SHA3-384 of its old value and the data; an event is read; a good image
goes to the other slot, and a bad one ends with 4; counters are read. That a command whose opcode does not stand in MBCMD does
nothing is the model's choice (log entry 57). Completes: setReductionEntry, fenceDie, degradeLanes, retrainComplete, frameCopy,
countRebase, extendMeasurementSlot, readBlackBox, loadFirmware, readCounters. (R312, R338, R339, R359, R362, R364, R365, R366,
R368, R369, R372, R381) -/
def Obligations.MailboxCommandsComplete : Prop :=
  ∀ (s : State),
    (∀ p ∈ ([(.setReductionEntry, 2), (.fenceDie, 3), (.degradeLanes, 4), (.frameCopy, 5), (.countRebase, 6), (.extendMeasurementSlot, 7),
        (.readBlackBox, 8), (.loadFirmware, 9), (.readCounters, 10)] : List (Instr × Nat)), s.boxRuns p.2 = false → exec p.1 s = .next s) ∧
    (s.boxRuns 2 = true →
      let job := bitsNat (s.arg 0) 15 0
      let e := s.arg 1
      let z := if bitsNat e 62 60 = 0 then 4 else if bitsNat e 62 60 ≤ 2 then 2 else 8
      let bad : Prop := 5 ≤ bitsNat e 62 60 ∨ bitsNat e 33 31 = 0 ∨ 4 < bitsNat e 33 31 ∨ bitsNat e 59 51 = 0 ∨ 256 < bitsNat e 59 51 * z ∨
        bitsNat e 50 34 % 2048 ≠ 0 ∨ 0x1f800 < bitsNat e 50 34
      let rest := (s.job job).reductions.filter fun x => !(bitsNat x 33 31 == bitsNat e 33 31 && bitsNat x 30 23 == bitsNat e 30 23)
      (bitAt e 63 = false → exec .setReductionEntry s = .next ((s.putJob job { s.job job with reductions := rest }).boxDone 0)) ∧
      (bitAt e 63 = true → bad → exec .setReductionEntry s = .next (s.boxDone 2)) ∧
      (bitAt e 63 = true → ¬bad → exec .setReductionEntry s =
        .next ((s.putJob job { s.job job with reductions := rest ++ [e &&& ~~~(field64 (2 ^ 23 - 1) 0)] }).boxDone 0))) ∧
    (s.boxRuns 3 = true →
      (32 ≤ (s.arg 0).toNat → exec .fenceDie s = .next (s.boxDone 2)) ∧
      ((s.arg 0).toNat < 32 → (s.die (s.arg 0).toNat).fenced = true → exec .fenceDie s = .next (s.boxDone 0)) ∧
      ((s.arg 0).toNat < 32 → (s.die (s.arg 0).toNat).fenced = false → ∃ s' : State, let d := (s.arg 0).toNat
        exec .fenceDie s = .next (s'.boxDone 0) ∧ (s'.die d).fenced = true ∧ (∀ p ∈ s'.strands, dieOf p.2.core ≠ d) ∧ s'.mem = s.mem ∧
        (∀ c, dieOf c = d → (s'.core c).deque = [] ∧ (s'.core c).inlet = []) ∧ (∀ l ∈ s'.l1, dieOf l.core ≠ d))) ∧
    (s.boxRuns 4 = true →
      let link := (s.arg 0).toNat
      let mask := s.arg 1 &&& allLanes link
      let bad : Prop := 96 ≤ link ∨ (64 ≤ link ∧ onesCount mask < 2) ∨ (link < 64 ∧ (2 * onesCount mask < Config.dieLanes ∨ onesCount mask = 0))
      (bad → exec .degradeLanes s = .next (s.boxDone 2)) ∧
      (¬bad → (∃ r ∈ s.box.retraining, r.1 = link) → exec .degradeLanes s = .next s) ∧
      (¬bad → (∀ r ∈ s.box.retraining, r.1 ≠ link) → exec .degradeLanes s =
        .next { s with box := { s.box with retraining := s.box.retraining ++ [(link, mask)] } })) ∧
    (∀ link mask, s.box.retraining.find? (fun r => r.1 == link) = some (link, mask) → ∃ s' : State, exec (.retrainComplete link) s = .next s' ∧
      s'.box.retraining = s.box.retraining.filter (fun r => r.1 ≠ link) ∧ s'.laneMask link = mask ∧ s'.strands = s.strands ∧
      (s.boxRuns 4 = true → (s.arg 0).toNat = link → bitAt s'.box.stat 63 = false ∧ bitsNat s'.box.stat 7 0 = 0)) ∧
    (s.boxRuns 5 = true →
      let a := (s.arg 0).toNat
      let b := (s.arg 1).toNat
      let bad : Prop := a % 65536 ≠ 0 ∨ b % 65536 ≠ 0 ∨ frameOk a = false ∨ frameOk b = false
      (bad → exec .frameCopy s = .next (s.boxDone 2)) ∧
      let taken : Prop := bitAt (Memory.dword s.mem (backKey b)) 63 = true ∨ (s.die (dieOfPa a)).fenced = true ∨ (s.die (dieOfPa b)).fenced = true
      (¬bad → taken → exec .frameCopy s = .next (s.boxDone 3)) ∧
      (∀ w, ¬bad → ¬taken → s.biasRange (.loc a) 65536 = some w → exec .frameCopy s = .next (s.askHost w true)) ∧
      (¬bad → ¬taken → s.host.flip = none → s.host.filter = [] → Memory.wf s.mem = true → s.l1 = [] → ∃ s' : State,
        exec .frameCopy s = .next (s'.boxDone 0) ∧ ∀ k < 65536, Memory.read s'.mem (b + k) = Memory.read s.mem (a + k))) ∧
    (s.boxRuns 6 = true →
      let job := bitsNat (s.arg 0) 15 0
      (s.jobBusy job = true → exec .countRebase s = .next (s.boxDone 3)) ∧
      (s.jobBusy job = false → ∃ s' : State, exec .countRebase s = .next (s'.boxDone 0) ∧ (s'.job job).wavestat = 0#64 ∧ s'.strands = s.strands ∧
        ∀ c, FMap.wf (s.core c).cnt = true → (s'.core c).counters job = Counters.reset)) ∧
    (s.boxRuns 7 = true →
      let vf := bitsNat (s.arg 0) 5 0
      let n := if bitsNat (s.arg 0) 10 8 = 0 then 8 else bitsNat (s.arg 0) 10 8
      let new := Config.sha3_384 (FMap.getD (s.part vf).slots n (List.replicate 48 0#8) ++
        (List.range 24).flatMap fun k => leBytes 8 (s.arg (k + 1)).toNat)
      (n < 5 → exec .extendMeasurementSlot s = .next (s.boxDone 2)) ∧
      (5 ≤ n → exec .extendMeasurementSlot s =
        .next ((s.putPart vf { s.part vf with slots := FMap.set (s.part vf).slots n new }).boxDone 0))) ∧
    (s.boxRuns 8 = true →
      let die := (s.arg 0).toNat
      let i := (s.arg 1).toNat
      let d := s.die die
      let s1 := if bitAt (s.arg 2) 0 then s.putDie die { d with frozen := false } else s
      (32 ≤ die ∨ 1024 ≤ i → exec .readBlackBox s = .next (s.boxDone 2)) ∧
      (die < 32 → i < 1024 →
        (d.ring.reverse.find? (fun e => e.seq % 1024 == i) = none → exec .readBlackBox s = .next (s1.boxResult (List.replicate 8 0#64))) ∧
        (∀ e, d.ring.reverse.find? (fun e => e.seq % 1024 == i) = some e → exec .readBlackBox s = .next (s1.boxResult e.words)))) ∧
    (s.boxRuns 9 = true →
      let pa := (s.arg 0).toNat
      let n := (s.arg 1).toNat
      let bad : Prop := n = 0 ∨ 2 ^ 26 < n ∨ frameOk pa = false ∨ frameOk (pa + n - 1) = false
      let gone : Prop := (s.die (dieOfPa pa)).fenced = true ∨ (s.die (dieOfPa (pa + n - 1))).fenced = true
      let bs := s.physBytes pa n
      let h := Config.imageHeader bs
      let spare := 1 - if h.component = 0 then s.steax.slot else FMap.getD s.steax.running h.component 0
      let flash := FMap.set s.steax.flash (2 * h.component + spare) bs
      let good : Prop := h.component ≤ 3 ∧ Config.fusedSvn h.component ≤ h.svn ∧ h.length = Config.payloadBytes bs ∧
        h.digest = Config.fusedDigest h.component ∧ Config.signatureOk bs = true
      (bad → exec .loadFirmware s = .next (s.boxDone 2)) ∧
      (¬bad → gone → exec .loadFirmware s = .next (s.boxDone 3)) ∧
      (∀ w, ¬bad → ¬gone → s.biasRange (.loc pa) n = some w → exec .loadFirmware s = .next (s.askHost w false)) ∧
      (¬bad → ¬gone → s.biasRange (.loc pa) n = none →
        (good → h.component = 0 → exec .loadFirmware s = .next (({ s with steax := { s.steax with flash := flash } } : State).boxDone 0)) ∧
        (good → h.component ≠ 0 → exec .loadFirmware s = .next (({ s with steax := { s.steax with
          flash := flash, accepted := FMap.set s.steax.accepted h.component spare } } : State).boxDone 0)) ∧
        (¬good → exec .loadFirmware s =
          .next ((s.event 0 0x09 0 0 0 0 [BitVec.ofNat 64 h.component, BitVec.ofNat 64 h.version]).boxDone 4)))) ∧
    (s.boxRuns 10 = true →
      let die := (s.arg 0).toNat
      let x := (s.arg 1).toNat
      (32 ≤ die ∨ x = 0 ∨ (13 < x ∧ x < 0x100) ∨ 0x100 + 65535 < x → exec .readCounters s = .next (s.boxDone 2)) ∧
      (die < 32 → 1 ≤ x → x ≤ 13 → exec .readCounters s = .next (s.boxResult [BitVec.ofNat 64 (FMap.getD (s.die die).corrected x 0)])) ∧
      (die < 32 → 0x100 ≤ x → x ≤ 0x100 + 65535 → exec .readCounters s = .next (s.boxResult [BitVec.ofNat 64 (s.job (x - 0x100)).lost])))

/-- For every state: a bad flit counts one failure of that flit in its direction, up to the first sending and 16 resends; a link of
which a flit has failed that often goes down, the packets held for it that may be lost are gone, and with the CXL link the
host; a CXL retrain is recorded with the link up; an IDE failure takes the CXL link down; a fatal error, a thermal trip and a
rail fault of a die fence it, freeze its ring and raise vector 2, a package rail stops every die, VMGT none, and a rail that is
not up none; a package reset, and PRST with bit 0 when none is under way, leaves no strand, no partition, CYC zero and zero
pools, resets the links, and keeps GDDR-7 but for its reserved area, and Steax, where it has no valid image as well; a cold
reset loses GDDR-7 too and all of Steax but the flash; the first bring-up after it chooses Steax's slot, and fails with stage
0xF where there is no valid image; bring-up goes one stage on, ends when one fails, and is ready after stage 6; BPWR and
configuration reads answer. The model's choices: what exactly a package reset keeps (log entry 51), that Steax's check of its
own image is part of the first BRING_UP step (log entry 87), that a row outside its condition changes nothing (log entry 57),
and that the CXL link is link 96 (log entry 7). Completes: ideCheckFailure, badFlit, linkDown, fatalError, railUndervoltage,
thermalTrip, coldReset, packageReset, bringUp, prst, bpwrRead, cxlLinkRetrain, configurationRequest. (R361, R363, R365, R377,
R388, R391, R392, R393, R395, R396, R397, R399) -/
def Obligations.ErrorsResetsAndBringUp : Prop :=
  let keeps : Nat → Prop := fun k => k < memPool ∧ ¬(k < 96 * 2 ^ 32 ∧ 2 ^ 32 - 2 ^ 19 ≤ k % 2 ^ 32)
  let stops : State → State → Nat → Prop := fun s s' d => (s'.die d).frozen = true ∧
    ((s.die d).fenced = false → (s'.die d).fenced = true ∧ ∀ p ∈ s'.strands, dieOf p.2.core ≠ d) ∧ Out.irq none 2 ∈ s'.outbox
  let resets : State → State → Prop := fun s s' => s'.strands = [] ∧ s'.parts = [] ∧ s'.cyc = 0 ∧ s'.steax.ready = false ∧
    s'.steax.slot = s.steax.checked.slot ∧ s'.steax.flash = s.steax.flash ∧ (s'.steax.fail = true ↔ s.steax.checked.stage = 0xF) ∧
    s'.steax.downLinks = [] ∧ s'.steax.badLanes = [] ∧ s'.steax.laneErrors = [] ∧ s'.steax.retries = [] ∧ ∀ k, (keeps k → Memory.read s'.mem k = Memory.read s.mem k) ∧ (¬keeps k → Memory.read s'.mem k = 0#8)
  ∀ (s : State),
    (∀ l back n, l < 128 → ∃ s' : State, exec (.badFlit (256 * n + wayOf l back)) s = .next s' ∧ s'.packets = s.packets ∧
      s'.steax.failures (wayOf l back) n = min 17 (s.steax.failures (wayOf l back) n + 1) ∧
      ∀ way g, way ≠ wayOf l back → s'.steax.failures way g = s.steax.failures way g) ∧
    (∀ l, let failed : Prop := ∃ back g n, FMap.get? s.steax.retries (wayOf l back) = some (g, n) ∧ 17 ≤ n
      (¬failed ∨ l ∈ s.steax.downLinks → exec (.linkDown l) s = .next s) ∧
      (failed → l ∉ s.steax.downLinks → ∃ s' : State, exec (.linkDown l) s = .next s' ∧ s'.steax.downLinks = s.steax.downLinks ++ [l] ∧
        (l = 96 → s'.host.linkUp = false) ∧ s'.strands = s.strands ∧ s'.mem = s.mem ∧
        ∀ p ∈ s'.packets, p ∈ s.packets ∧ ¬(p.link = some l ∧ p.bears = true))) ∧
    (let lanes := FMap.getD s.steax.badLanes 96 0xffff#64
     exec .cxlLinkRetrain s = .next (({ s with host := { s.host with linkUp := true }, steax := { s.steax with downLinks := s.steax.downLinks.filter (· ≠ 96) } } : State).event 0 0x05 0 0 0 0 [96#64, lanes]) ∧
     (s.host.ideActive = true → exec .ideCheckFailure s =
       .next (({ s with host := { s.host with linkUp := false } } : State).event 0 0x05 0 0 0 0 [96#64, lanes]))) ∧
    (s.host.ideActive = false → exec .ideCheckFailure s = .next s) ∧
    (∀ d k, 9 ≤ k → k ≤ 11 → ∃ s', exec (.fatalError d k) s = .next s' ∧ stops s s' d) ∧
    (∀ d, ∃ s', exec (.thermalTrip d) s = .next s' ∧ stops s s' d) ∧
    (∀ r, r ∈ s.steax.railsOff ∨ r = .vmgt → exec (.railUndervoltage r) s = .next s) ∧
    (∀ d, ∀ r ∈ [Rail.vddc d, .vddb d], r ∉ s.steax.railsOff → ∃ s', exec (.railUndervoltage r) s = .next s' ∧ stops s s' d) ∧
    (∀ r ∈ [Rail.vdds, .vddp], r ∉ s.steax.railsOff → ∃ s', exec (.railUndervoltage r) s = .next s' ∧ ∀ d < 32, stops s s' d) ∧
    (∃ s', exec .packageReset s = .next s' ∧ resets s s') ∧
    (∀ v : Word64, (bitAt v 0 = true → s.steax.resetting = false → ∃ s', exec (.prst v) s = .next s' ∧ resets s s') ∧
      (bitAt v 0 = false ∨ s.steax.resetting = true → exec (.prst v) s = .next s)) ∧
    (∃ s' : State, exec .coldReset s = .next s' ∧ s'.strands = [] ∧ s'.parts = [] ∧ s'.cyc = 0 ∧
      s'.steax = { Steax.reset with flash := s.steax.flash } ∧ ∀ k, k < memHost ∨ memPool ≤ k → Memory.read s'.mem k = 0#8) ∧
    (s.steax.ready = true ∨ s.steax.fail = true → exec .bringUp s = .next s) ∧
    (s.steax.ready = false → s.steax.fail = false →
      let first : Prop := s.steax.stage = 0 ∧ s.steax.resetting = false
      let x := s.steax.checked
      (first → s.steax.bootSlot 0 = none → exec .bringUp s = .next { s with steax := { s.steax with fail := true, stage := 0xF } }) ∧
      (¬first ∨ (∃ n, s.steax.bootSlot 0 = some n) → ∃ s' : State, exec .bringUp s = .next s' ∧ s'.steax.stage = s.steax.stage + 1 ∧
        s'.strands.length ≤ s.strands.length ∧
        (¬first → s'.steax.slot = s.steax.slot) ∧ (∀ n, first → s.steax.bootSlot 0 = some n → s'.steax.slot = n) ∧
        (({ s with steax := x } : State).stageFails (s.steax.stage + 1) = true → s'.steax.fail = true ∧ s'.steax.ready = false) ∧
        (({ s with steax := x } : State).stageFails (s.steax.stage + 1) = false → s'.steax.fail = false ∧
          s'.steax.ready = decide (s.steax.stage = 5)))) ∧
    exec .bpwrRead s = .next (({ s with steax := { s.steax with p10m := 0#64 } } : State).emit (.board
      (field64 (bitsNat s.steax.p1s 15 0) 48 ||| field64 (bitsNat s.steax.p10m 15 0) 32 ||| field64 (bitsNat s.steax.tmax 7 0) 24))) ∧
    exec .configurationRequest s = .next (s.emit (.cfg (!s.steax.ready)))

/-- For every state: a flip that is asked for while one is in progress sets IGN, one to the bias the block has ends at once,
another starts; a flip to host bias finishes one line after another, writing a dirty copy home and dropping every copy; a
finished flip sets the bias, clears BUSY and wakes its waiters: every strand that waits for it runs on, and the waiting reads,
writes and operations are tried again in that order; BIASSTAT answers and loses IGN; a host access outside HDM aborts, one to a
reserved frame or fenced die reads poisoned or writes nothing, one to a line of a host-biased block that the filter lists, or
of a block whose flip has finished the line, is served, with another block's flip in progress or none, one that the filter has
room for is listed and served, one whose set of the filter is full asks the oldest line of the set back and waits, one to a
line that the flip has not finished waits, and so does one to a device-biased block, which starts its flip where none is in
progress; a snoop answers with the line's data and whether it is dirty, dirty data becoming the host memory's, and invalidates
it, leaves it shared, or changes nothing; a back-invalidate answer takes the line off the filter with its dirty data home; each
SPDM request answers on the mailbox of its function. The model's choices: the flip goes line by line, one line a step, and a
back-invalidate answer for a line not listed changes nothing (log entry 53); the filter's sets (log entry 52); what a host
access to a reserved frame or fenced die reads or writes (log entry 54); a row outside its condition changes nothing (log entry
57). Completes: biasFlipToHost, biasFlipToDevice, biasFlipComplete, biasstatRead, hostHdmRead, hostHdmWrite, snpinv, snpdata,
snpcur, bisnpResponse, getVersion, getCapabilities, negotiateAlgorithms, getDigests, getCertificate, challenge,
getMeasurements, keyExchange, cxlIdeKm. (R339, R382, R383, R384, R385, R386, R387, R388) -/
def Obligations.HostMemoryBiasAndAttestation : Prop :=
  ∀ (s : State) (v : Word64),
    let blk := bitsNat v 55 12
    (∀ p ∈ ([(.biasFlipToHost v, true), (.biasFlipToDevice v, false)] : List (Instr × Bool)),
      (s.host.flip ≠ none → exec p.1 s = .next { s with host := { s.host with biasstat := s.host.biasstat ||| field64 1 62 } }) ∧
      (s.host.flip = none → s.host.hostBias.contains blk = p.2 → ∃ s' : State, exec p.1 s = .next s' ∧ s'.host.flip = none ∧
        s'.host.hostBias = s.host.hostBias ∧ bitAt s'.host.biasstat 63 = false ∧ bitAt s'.host.biasstat 0 = p.2) ∧
      (s.host.flip = none → s.host.hostBias.contains blk ≠ p.2 → ∃ s' : State, exec p.1 s = .next s' ∧ s'.host.flip = some ⟨blk, p.2, 0⟩ ∧
        bitAt s'.host.biasstat 63 = true ∧ s'.host.hostBias = s.host.hostBias ∧ s'.mem = s.mem)) ∧
    (s.host.flip = none → exec .biasFlipComplete s = .next s) ∧
    (∀ f, s.host.flip = some f →
      let ended : Prop := if f.toHost then 64 ≤ f.lines else ∀ l ∈ s.host.filter, l / 64 ≠ f.blk
      let served : State → State := fun s => let h := s.host
        (h.waitingOps.foldl State.operate (h.waitingWrites.foldl (fun s w => s.hostWrite w.1 w.2) (h.waitingReads.foldl (fun s r => s.hostRead r.1 r.2)
          { s with host := { h with waitingReads := [], waitingWrites := [], waitingOps := [] } }))).hostWalks
      (ended → ∃ bias : List Nat, (∀ b, b ∈ bias ↔ (b ∈ s.host.hostBias ∧ b ≠ f.blk) ∨ (b = f.blk ∧ f.toHost = true)) ∧
        let stat := field64 f.blk 12 ||| (s.host.biasstat &&& field64 1 62) ||| field64 (if f.toHost then 1 else 0) 0
        let s1 : State := { s with host := { s.host with flip := none, hostBias := bias, biasstat := stat } }
        let s2 := s1.wake fun _ _ w => w == .flip
        exec .biasFlipComplete s = .next (served s2.postRings) ∧
        ∀ u t, s.strand? u = some t → t.run = .waiting .flip → s2.strand? u = some { t with run := .running, wokenAt := s.tick } ∧
          (s.host.walks = [] → (∀ p ∈ s.strands, (∀ ws, p.2.run = .waiting (.pages ws) → ws.any PageWait.host = false) ∧ p.2.asked.any PageWait.host = false) →
            (∀ c ∈ s.cores, ∀ f ∈ c.2.foot, f.2.2.any PageWait.host = false) → (∀ q ∈ s.quads, ∀ c ∈ q.2.copies, c.waits.any PageWait.host = false) →
            (∀ p ∈ s.parts, p.2.inletWaits.any PageWait.host = false) →
            (served s2.postRings).strand? u = some { t with run := .running, wokenAt := s.tick })) ∧
      (f.toHost = true → f.lines < 64 → let s1 := s.flushLine (f.blk * 4096 + 64 * f.lines)
        exec .biasFlipComplete s = .next (served { s1 with host := { s1.host with flip := some { f with lines := f.lines + 1 } } })) ∧
      (f.toHost = false → (∃ l ∈ s.host.filter, l / 64 = f.blk) → exec .biasFlipComplete s = .next s) ∧
      (s.host.waitingReads = [] → s.host.waitingWrites = [] → s.host.waitingOps = [] →
        (f.toHost = true → f.lines < 64 → s.host.walks = [] →
          let pa := f.blk * 4096 + 64 * f.lines
          let here : L1Line → Prop := fun l => (if l.stamp.isSome then l.pa else s.frameOf l) = pa
          ∃ s' : State, exec .biasFlipComplete s = .next s' ∧ s'.host.flip = some { f with lines := f.lines + 1 } ∧
            s'.host.hostBias = s.host.hostBias ∧ s'.strands = s.strands ∧ (∀ q ∈ s'.quads, ∀ l ∈ q.2.bed, l.target ≠ .loc pa) ∧
            (∀ l ∈ s'.l1, l ∈ s.l1 ∧ ¬here l) ∧
            ((∀ l ∈ s.l1, here l → l.dirty = false) → s'.mem = s.mem) ∧
            (∀ l ∈ s.l1, here l → l.dirty = true → (∀ y ∈ s.l1, here y → y.dirty = true → y = l) → Memory.wf s.mem = true →
              ∀ k, Memory.read s'.mem k = if pa ≤ k ∧ k < pa + 64 then (lineBytes l.data).getD (k - pa) 0#8 else Memory.read s.mem k)) ∧
        (f.blk < 2 ^ 44 → (∀ r ∈ s.pageReqs, r.posted = true) →
          (f.toHost = true → 64 ≤ f.lines → ∃ s' : State, exec .biasFlipComplete s = .next s' ∧ s'.host.flip = none ∧ bitAt s'.host.biasstat 63 = false ∧
            f.blk ∈ s'.host.hostBias ∧ s'.mem = s.mem) ∧
          (f.toHost = false → (∀ l ∈ s.host.filter, l / 64 ≠ f.blk) → ∃ s' : State, exec .biasFlipComplete s = .next s' ∧ s'.host.flip = none ∧
            bitAt s'.host.biasstat 63 = false ∧ f.blk ∉ s'.host.hostBias ∧ s'.mem = s.mem)))) ∧
    exec .biasstatRead s = .next (({ s with host := { s.host with biasstat := s.host.biasstat &&& ~~~(field64 1 62) } } : State).emit (.mmioRead s.host.biasstat)) ∧
    (∀ hpa n, (s.hdm hpa n = none → exec (.hostHdmRead hpa n) s = .next (s.emit .abort)) ∧
      (∀ pa, s.hdm hpa n = some pa → s.hdmLive pa = false → exec (.hostHdmRead hpa n) s = .next (s.emit (.hdmRead hpa [] true))) ∧
      (∀ pa, s.hdm hpa n = some pa → s.hdmLive pa = true →
        let blk := pa / 4096
        let set := s.host.filter.filter fun l => l % filterSets == pa / 64 % filterSets
        let waits : State → State := fun s => { s with host := { s.host with waitingReads := s.host.waitingReads ++ [(hpa, n)] } }
        let done : Prop := ((∀ f, s.host.flip = some f → f.blk ≠ blk) ∧ s.host.hostBias.contains blk = true) ∨
          ∃ f, s.host.flip = some f ∧ f.blk = blk ∧ f.toHost = true ∧ pa / 64 % 64 < f.lines
        (done → s.host.filter.contains (pa / 64) = true →
          exec (.hostHdmRead hpa n) s = .next (s.emit (.hdmRead hpa (s.physBytes pa n) (s.physPoison pa n)))) ∧
        (∀ e r, done → s.host.filter.contains (pa / 64) = false → set = e :: r → 16 ≤ set.length →
          exec (.hostHdmRead hpa n) s = .next (waits (s.askHost (.bisnp e) true))) ∧
        (∀ f, s.host.flip = some f → f.blk ≠ blk → s.host.hostBias.contains blk = false → exec (.hostHdmRead hpa n) s = .next (waits s)) ∧
        (done → s.host.filter.contains (pa / 64) = false → set.length < 16 → ∃ s' : State,
          exec (.hostHdmRead hpa n) s = .next s' ∧ pa / 64 ∈ s'.host.filter ∧ s'.outbox = s.outbox ++ [.hdmRead hpa (s.physBytes pa n) (s.physPoison pa n)] ∧
          s'.mem = s.mem) ∧
        (∀ f, s.host.flip = some f → f.blk = blk → f.toHost = false ∨ f.lines ≤ pa / 64 % 64 → exec (.hostHdmRead hpa n) s = .next (waits s)) ∧
        (s.host.flip = none → s.host.hostBias.contains blk = false → ∃ s' : State,
          exec (.hostHdmRead hpa n) s = .next s' ∧ s'.host.flip = some ⟨blk, true, 0⟩ ∧ s'.host.waitingReads = s.host.waitingReads ++ [(hpa, n)]))) ∧
    (∀ hpa data, let n := data.length
      (s.hdm hpa n = none → exec (.hostHdmWrite hpa data) s = .next (s.emit .abort)) ∧
      (∀ pa, s.hdm hpa n = some pa → s.hdmLive pa = false → exec (.hostHdmWrite hpa data) s = .next (s.emit (.hdmWrite hpa))) ∧
      (∀ pa, s.hdm hpa n = some pa → s.hdmLive pa = true →
        let blk := pa / 4096
        let set := s.host.filter.filter fun l => l % filterSets == pa / 64 % filterSets
        let waits : State → State := fun s => { s with host := { s.host with waitingWrites := s.host.waitingWrites ++ [(hpa, data)] } }
        let done : Prop := ((∀ f, s.host.flip = some f → f.blk ≠ blk) ∧ s.host.hostBias.contains blk = true) ∨
          ∃ f, s.host.flip = some f ∧ f.blk = blk ∧ f.toHost = true ∧ pa / 64 % 64 < f.lines
        (done → s.host.filter.contains (pa / 64) = true → exec (.hostHdmWrite hpa data) s = .next ((s.agentWrite 0 pa data).emit (.hdmWrite hpa))) ∧
        (done → s.host.filter.contains (pa / 64) = false → set.length < 16 → exec (.hostHdmWrite hpa data) s = .next
          ((({ s with host := { s.host with filter := s.host.filter ++ [pa / 64] } } : State).agentWrite 0 pa data).emit (.hdmWrite hpa))) ∧
        (∀ e r, done → s.host.filter.contains (pa / 64) = false → set = e :: r → 16 ≤ set.length →
          exec (.hostHdmWrite hpa data) s = .next (waits (s.askHost (.bisnp e) true))) ∧
        (∀ f, s.host.flip = some f → f.blk ≠ blk → s.host.hostBias.contains blk = false → exec (.hostHdmWrite hpa data) s = .next (waits s)) ∧
        (∀ f, s.host.flip = some f → f.blk = blk → f.toHost = false ∨ f.lines ≤ pa / 64 % 64 → exec (.hostHdmWrite hpa data) s = .next (waits s)) ∧
        (s.host.flip = none → s.host.hostBias.contains (pa / 4096) = false → ∃ s' : State,
          exec (.hostHdmWrite hpa data) s = .next s' ∧ s'.host.flip = some ⟨pa / 4096, true, 0⟩ ∧
          s'.host.waitingWrites = s.host.waitingWrites ++ [(hpa, data)] ∧ s'.mem = s.mem))) ∧
    (∀ line, (∀ l, s.hostLine line = some l → exec (.snpcur line) s = .next (s.emit (.snoop line l.dirty (lineBytes l.data) (decide (l.poison ≠ 0#4))))) ∧
      (s.hostLine line = none → exec (.snpcur line) s = .next (s.emit (.snoop line false [] false))) ∧
      (let ans : Out := match s.hostLine line with
          | some l => .snoop line l.dirty (lineBytes l.data) (decide (l.poison ≠ 0#4))
          | none => .snoop line false [] false
        let home : Nat → Byte := fun k => match s.hostLine line with
          | some l => if l.dirty = true ∧ memHost + line * 64 ≤ k ∧ k < memHost + line * 64 + 64 then (lineBytes l.data).getD (k - (memHost + line * 64)) 0#8
            else Memory.read s.mem k
          | none => Memory.read s.mem k
        (∃ s' : State, exec (.snpdata line) s = .next s' ∧ s'.strands = s.strands ∧ s'.outbox = s.outbox ++ [ans] ∧
          (Memory.wf s.mem = true → ∀ k, Memory.read s'.mem k = home k) ∧
          ∀ q ∈ s'.quads, ∀ l ∈ q.2.bed, l.target = .host (line * 64) → l.excl = false ∧ l.dirty = false) ∧
        (∀ after, ∃ s' : State, exec (.snpinv line after) s = .next s' ∧ s'.strands = s.strands ∧ s'.outbox = s.outbox ++ [ans] ∧
          (Memory.wf s.mem = true → ∀ k, Memory.read s'.mem k =
            if memHost + line * 64 ≤ k ∧ k < memHost + line * 64 + (after.take 64).length then (after.take 64).getD (k - (memHost + line * 64)) 0#8
            else home k) ∧
          ∀ q ∈ s'.quads, ∀ l ∈ q.2.bed, l.target ≠ .host (line * 64))) ∧
      (∀ dirty, (line ∉ s.host.filter → exec (.bisnpResponse line dirty) s = .next s) ∧
        (line ∈ s.host.filter → s.host.waitingReads = [] → s.host.waitingWrites = [] → s.host.waitingOps = [] → (∀ r ∈ s.pageReqs, r.posted = true) → Memory.wf s.mem = true → ∃ s' : State,
          exec (.bisnpResponse line dirty) s = .next s' ∧ line ∉ s'.host.filter ∧
          ∀ k, Memory.read s'.mem k = if line * 64 ≤ k ∧ k < line * 64 + (dirty.take 64).length then (dirty.take 64).getD (k - line * 64) 0#8
            else Memory.read s.mem k))) ∧
    (∀ (fn : Option Nat) (b : List Byte) (part : Nat), let no := (fn.map (· + 1)).getD 0
      let ans : Instr → Nat → List Byte → Prop := fun i code c => exec i s = .next (s.emit (.doe fn code (Config.spdmBytes code no c)))
      ans (.getVersion fn) 0x84 [] ∧ ans (.getCapabilities fn) 0xe1 [] ∧ ans (.negotiateAlgorithms fn) 0xe3 [] ∧ ans (.getDigests fn) 0x81 [] ∧
      ans (.getCertificate fn) 0x82 [] ∧ ans (.challenge fn b) 0x83 b ∧
      ans (.getMeasurements fn part) 0xe0 ((List.range 8).flatMap fun i => s.measurement (fn.getD part) (i + 1)) ∧
      (fn ≠ none → ans (.keyExchange fn b) 0x7f [] ∧ ans (.cxlIdeKm fn b) 0x7f []) ∧
      (fn = none → exec (.keyExchange fn b) s = .next (({ s with host := { s.host with session := true } } : State).emit (.doe fn 0xe4 (Config.spdmBytes 0xe4 no b))) ∧
        (s.host.session = true → exec (.cxlIdeKm fn b) s = .next (({ s with host := { s.host with ideKeys := b, ideActive := true } } : State).emit
          (.doe fn 0xfe (Config.spdmBytes 0xfe no []))))))

/-- For one or two instructions of every family that the manual's reference chapters write out with their words, the decoder reads
that word as that instruction with those operands; the all-zero word and the all-ones word are no instruction; and the four
bytes of a word in memory, lowest address first, are its bits 7..0, 15..8, 23..16 and 31..24. (R69, R72, R73, R77, R78, R92,
R117, R135, R154, R173, R183, R216) -/
def Obligations.DecodeWords : Prop :=
  decode 0x04a63e00#32 = some (.addZ32 5 6 7) ∧
  decode 0x04a63801#32 = some (.sub 5 6 7) ∧
  decode 0x20a60f01#32 = some (.srliZ32 5 6 3) ∧
  decode 0x20a6fc02#32 = some (.srai 5 6 63) ∧
  decode 0x28a00002#32 = some (.pcrel 5 2) ∧
  decode 0x30a60004#32 = some (.quoS64 5 6 0) ∧
  decode 0x34a63a0b#32 = some (.sel 5 6 7 8) ∧
  decode 0x38a64805#32 = some (.pdig 5 6 9) ∧
  decode 0x38ad700c#32 = some (.ppack 5 13 14) ∧
  decode 0x8520fffc#32 = some (.bne 9 0 0xfffc) ∧
  decode 0x48a20008#32 = some (.ldW 5 2 8) ∧
  decode 0x51680000#32 = some (.ldBz 11 8 0) ∧
  decode 0x70a60000#32 = some (.bld 5 6) ∧
  decode 0x70e60002#32 = some (.bcopy 7 6) ∧
  decode 0x74a2300a#32 = some (.amoAddW 5 2 6 .acq .d) ∧
  decode 0x74a23d3b#32 = some (.amoCasD 5 2 7 .ar .p) ∧
  decode 0x7800001b#32 = some (.fence .ar .p) ∧
  decode 0x78a2002b#32 = some (.promote 5 2 .acq .p) ∧
  decode 0x7c263800#32 = some (.wset 1 6 7) ∧
  decode 0xc08531a3#32 = some (.vfma 4 5 6 1 .f32) ∧
  decode 0xc042086d#32 = some (.vxor 2 2 1 0 .z32) ∧
  decode 0xd02a8000#32 = some (.vimm 1 .f32 0x8000) ∧
  decode 0xc4411022#32 = some (.vclt 2 1 2 0 .s32) ∧
  decode 0xc4221804#32 = some (.kand 1 2 3) ∧
  decode 0xc8e240a4#32 = some (.vgather 7 2 8 0 .f32) ∧
  decode 0xcc6458a7#32 = some (.vcvt 3 4 .c8a 0 .f32) ∧
  decode 0xcc2200a9#32 = some (.vredsum 1 2 0 .f32) ∧
  decode 0xe0031ca0#32 = some (.tdecl 6 7 5) ∧
  decode 0xe0132000#32 = some (.tld 6 8) ∧
  decode 0xe4030000#32 = some (.mfmt 6) ∧
  decode 0xe4130003#32 = some (.mlutB4 6) ∧
  decode 0xe8042400#32 = some (.sendEnt 8 9) ∧
  decode 0xe8042401#32 = some (.sendCode 8 9) ∧
  decode 0xec050000#32 = some (.dqput 10) ∧
  decode 0xec1030a0#32 = some (.dqtake 12 5) ∧
  decode 0xf0031c20#32 = some (.barset 6 7 1) ∧
  decode 0xf0100020#32 = some (.bararr 1) ∧
  decode 0xf40400a0#32 = some (.cpystart 8 5) ∧
  decode 0xf41480a0#32 = some (.cpywait 9 5) ∧
  decode 0xf80000a7#32 = some (.sysr 5 .cyc) ∧
  decode 0xf813000d#32 = some (.sysw 6 .frm) ∧
  decode 0x00000000#32 = none ∧ decode 0xffffffff#32 = none ∧ decode 0xa0000003#32 = none ∧
  wordBytes 0x04a63801#32 = [0x01#8, 0x38#8, 0xa6#8, 0x04#8] ∧ bytesWord 0x01#8 0x38#8 0xa6#8 0x04#8 = 0x04a63801#32

/-- For every well-formed instruction that has a word, with every operand at every value its fields admit, the decoder reads the
instruction from the word that the encoder writes, and reads it from the four bytes of that word in memory, leaving the bytes
after them. (R69, R70, R71, R72, R73, R74, R78, 04_encoding.md) -/
def Obligations.DecodeReadsWhatEncodeWrites : Prop :=
  ∀ (i : Instr) (w : Word32), i.wf = true → encode i = some w →
    decode w = some i ∧ ∀ r : List Byte, decodeBytes (wordBytes w ++ r) = some (i, r)

/-- Every word that the decoder takes holds a well-formed instruction, and is the one word of that instruction: no bit of it is
ignored, reserved fields are zero, and two words never decode to one instruction. Every word of a major that R78 lists,
whatever its other bits hold, decodes to nothing; and a word that decodes to nothing takes trap 0x01 with the word in TVAL
[31:0], in every state with a ready strand; a step whose only candidate is an issue that fetches such a word runs exactly that.
(R78) -/
def Obligations.EveryWordIsOneInstructionOrNone : Prop :=
  (∀ (w : Word32) (i : Instr), decode w = some i → i.wf = true ∧ encode i = some w) ∧
  (∀ w : Word32, (w >>> 26).toNat ∈ [0x00, 0x0b, 0x0f, 0x17, 0x29, 0x2a, 0x2b, 0x2c, 0x2d, 0x2e, 0x2f, 0x35, 0x36, 0x37, 0x3f] →
    decode w = none) ∧
  (∀ (w : Word32) (s : State) (t : Strand), Ready s t → Traps (.illegalInstruction w) s t 0x01 (w.setWidth 64)) ∧
  (∀ (s s3 : State) (u : Nat) (t : Strand) (w : Word32), s.advance.candidates = [.issue u] → s.advance.strand? u = some t →
    t.doom = none → fetch { s.advance with cur := u } u t = .word s3 w → decode w = none →
    step s = onNext (fun s' => s'.settle u t false) (exec (.illegalInstruction w) { s3 with ir := w }))

/-- With s1 the state whose clock has moved on (not while a core can issue or a sleep has ended in this cycle, by one cycle while a
latency runs, never past the end of a sleep): when nothing is enabled the step is s1; otherwise it runs one of the enabled
candidates, and the only one when there is one. Only a strand that stands in a slot, runs and has its operands may issue, on a
core of a partition that has not issued in this cycle and whose sleepers are all woken. A row runs exec of it. When the issue
of strand u is the only candidate, u's strand t has no trap pending, the fetch at t's PC succeeds and the four bytes there
decode to i, the step is exec of i in the state the fetch left, with that word as the one being executed, and then the end of
the turn, which changes only when the strand and its core may issue again; a word that decodes to nothing runs
ILLEGAL_INSTRUCTION, a refused fetch INSTRUCTION_FETCH_FAULT, the place after a code message's image HRET; a line of the host's
is waited for; and a pending trap is taken instead. The fetch of a strand that runs no code message takes the word from the
line of the quad's instruction cache where that is held, which needs nothing else, and else from beyond it: on its own die the
home bytes of the line that translation finds at its PC; it fails when it is refused, a link loses it, or those bytes are
poisoned. That a free value says whether a line that was fetched is still held is the model's choice (log entry 91). (R7, R11,
R69, R79, R181, R344, 95_what_each_step_holds.md) -/
def Obligations.StepRunsDecodedInstruction : Prop :=
  ∀ (s : State),
    let s1 := s.advance
    (s1.tick = s.tick + 1 ∧ s1.mem = s.mem ∧ s1.strands = s.strands) ∧
    (s.busyNow = true → s1.cyc = s.cyc) ∧
    (s.busyNow = false → s.cyc < s1.cyc ∧ (s.latent = true → s1.cyc = s.cyc + 1) ∧
      ∀ p ∈ s.strands, ∀ c, p.2.run = .waiting (.sleep c) → s.cyc < c → s1.cyc ≤ c) ∧
    (s1.candidates = [] → step s = .next s1) ∧
    (s1.candidates ≠ [] → ∃ c ∈ s1.candidates, step s = stepCand s1 c) ∧
    (∀ u, Cand.issue u ∈ s1.candidates → ∃ t, (u, t) ∈ s1.strands ∧ t.slot ≠ none ∧ t.run = .running ∧ t.readyAt ≤ s1.cyc ∧
      (s1.core t.core).nextIssue ≤ s1.cyc ∧ s1.steax.ready = true ∧ s1.partOfCore t.core ≠ none ∧
      ∀ p ∈ s1.strands, ∀ c, p.2.core = t.core → p.2.slot ≠ none → p.2.run = .waiting (.sleep c) → s1.cyc < c) ∧
    (∀ i, s1.candidates = [.row i] → step s = exec i { s1 with cur := 0 }) ∧
    (∀ i, s1.candidates = [.input i] → step s = exec i { s1 with cur := 0, inputs := s1.inputs.tail }) ∧
    (∀ (u : Nat) (t : Strand), s1.candidates = [.issue u] → s1.strand? u = some t →
      let s2 : State := { s1 with cur := u }
      let ends : Bool → Host.Outcome State Fault Refusal → Host.Outcome State Fault Refusal := fun stays => onNext fun s' => s'.settle u t stays
      s2.me = some t ∧
      (∀ (s' : State) (stays : Bool), (s'.settle u t stays).mem = s'.mem ∧ ∀ v x, s'.strand? v = some x → ∃ n, (s'.settle u t stays).strand? v = some { x with readyAt := n }) ∧
      (t.doom = none → ∀ s3 w,
        (fetch s2 u t = .word s3 w → ∀ i, decode w = some i → step s = ends (Machine.Instr.mayStay i) (exec i { s3 with ir := w })) ∧
        (fetch s2 u t = .word s3 w → decode w = none → step s = ends false (exec (.illegalInstruction w) { s3 with ir := w }))) ∧
      (t.doom = none → fetch s2 u t = .implicitHret → step s = ends false (exec .hret s2)) ∧
      (t.doom = none → fetch s2 u t = .none → step s = ends false (exec .instructionFetchFault s2)) ∧
      (t.doom = none → ∀ s3 w, fetch s2 u t = .host s3 w → step s = ends false (.next (s3.parkMe t w))) ∧
      (∀ c v, t.doom = some (c, v) → c ≠ doomExit → step s = ends false (.next (s2.trapMe t c v))) ∧
      (t.code = false → ∀ s3 tg, s2.resolveFor u t.vf t.mode (dieOf t.core) t.pc .fetch = .ok s3 tg →
        (∀ w, s3.heldCode t tg = some w → fetch s2 u t = .word s3 w ∧
          ∃ l ∈ (s3.quad (quadOf t.core)).icache, l.line = tg.key / 64 ∧ w = l.data.extractLsb' (8 * (t.pc % 64)) 32) ∧
        (s3.heldCode t tg = none →
          (∀ w, s3.biasRange tg 4 = some w → fetch s2 u t = .host (s3.askHost w false) w) ∧
          (s3.biasRange tg 4 = none →
            (∀ s4 w, s3.fillCode t tg = .ok s4 w → fetch s2 u t = .word s4 w) ∧
            (∀ s4, s3.fillCode t tg = .bad s4 → fetch s2 u t = .none) ∧
            (∀ pa, tg = .loc pa → dieOfPa pa = dieOf t.core →
              let home : Target := .loc (pa / 64 * 64)
              let bad := (s3.bedPoison t.vf (t.pc / 64) home).getLsbD (t.pc % 64 / 16)
              (bad = true → fetch s2 u t = .none) ∧
              (bad = false → ∃ s4 : State, s4.mem = s3.mem ∧ s4.strands = s3.strands ∧ fetch s2 u t = .word s4
                ((bytesLine (s3.homeRead t.vf (t.pc / 64 * 64) home 64)).extractLsb' (8 * (t.pc % 64)) 32)))))) ∧
      (t.code = false → ∀ s3, s2.resolveFor u t.vf t.mode (dieOf t.core) t.pc .fetch = .refused s3 → fetch s2 u t = .none) ∧
      (t.code = true → ∀ m, t.win = some m → t.pc < 16 → fetch s2 u t = .word s2 (imageWord m t.pc)) ∧
      (t.code = true → t.pc = 16 → fetch s2 u t = .implicitHret))

/-- The state after a cold reset has no strand, CYC 0 and no bring-up stage done; no core has a record, a message or a count;
TBLSEL holds 8 in TA and in TB and no table is loaded; every tarn name of every quad is free with a zero tag and zero data;
EALLOW is at its reset value; TVEC, DELEG, DRYCNT and every register of every partition block are 0, with an empty launch inlet
and no stage-2 root; QPERIOD is 4,096 and WAVESTAT 0; every block of memory is in device bias; the die rings are empty and no
die is fenced; no launch, packet, barrier, copy or mailbox command is under way. The model's choices (log entry 55): the zero
generation of a quad's acquires, no skip bit, no cached translation, no line in an L1 or an instruction cache, no poison, an
empty loss log, and MBCMD and MBSTAT of zero; and that an unwritten byte of memory reads 0 where no rule zeroes that memory
(log entry 13). (R15, R57, R59, R67, R68, R183, R304, R305, R326, R383, R395, R397) -/
def Obligations.ResetState : Prop :=
  let s := State.reset
  s.cyc = 0 ∧ s.strands = [] ∧ s.steax.ready = false ∧ s.steax.fail = false ∧ s.steax.stage = 0 ∧
  (∀ c j, (s.core c).deque = [] ∧ (s.core c).held = [] ∧ (s.core c).inlet = [] ∧ (s.core c).tblsel = 0x8800000000000000#64 ∧
    (s.core c).tabA = [] ∧ (s.core c).tabB = [] ∧ (s.core c).counters j = ⟨0#64, 0#64, 0#64, 0#64⟩ ∧ (s.core c).stopped = false ∧ (s.core c).steal = none) ∧
  (∀ q n, ((s.quad q).name n).st = .free ∧ ((s.quad q).name n).tag = 0#29 ∧ (s.quad q).ops = [] ∧ (s.quad q).copies = [] ∧
    (s.quad q).rate = 0xffff#16 ∧ (s.quad q).level = 0#32 ∧ (s.quad q).gen = 0#16 ∧ (s.quad q).bed = [] ∧ (s.quad q).icache = [] ∧
    ∀ k, ((s.quad q).name n).data.getD k 0#8 = 0#8 ∧ ((s.quad q).name n).side.getD k 0#8 = 0#8) ∧
  (∀ v, (s.part v).part = 0#64 ∧ (s.part v).tvec = 0#64 ∧ (s.part v).deleg = 0#64 ∧ (s.part v).drycnt = 0#64 ∧
    (s.part v).misroute = 0#64 ∧ (s.part v).prqbase = 0#64 ∧ (s.part v).rszpc = 0#64 ∧ (s.part v).lptbase = 0#64 ∧
    (s.part v).prqidx = 0#64 ∧ (s.part v).rszevt = 0#64 ∧ (s.part v).rszjob = 0#64 ∧ (s.part v).used = 0 ∧ (s.part v).self = 0 ∧ (∀ e ∈ (s.part v).jobtab.toList, e = 0#64) ∧
    (∀ e ∈ (s.part v).juvec.toList, e = 0#64) ∧ (∀ i k, (s.part v).inletWord i k = 0#64) ∧
    (s.part v).root2 = none ∧ (s.part v).present = false ∧ (s.part v).guar = 0 ∧ (s.part v).burst = 0) ∧
  (∀ j, (s.job j).qperiod = 4096#24 ∧ (s.job j).wavestat = 0#64 ∧ (s.job j).launches = [] ∧ (s.job j).launched = false ∧ (s.job j).lost = 0) ∧
  (∀ d, (s.die d).ring = [] ∧ (s.die d).fenced = false ∧ (s.die d).frozen = false) ∧
  s.host.hostBias = [] ∧ s.packets = [] ∧ s.barriers = [] ∧ s.pending = [] ∧ s.resizes = [] ∧ s.losses = [] ∧ s.skip = [] ∧ s.xlat = [] ∧ s.l1 = [] ∧ s.poison = [] ∧
  s.box.cmd = 0#64 ∧ s.box.stat = 0#64 ∧ (∀ k, Memory.read s.mem k = 0#8)

/-- The state after reset meets the invariant that its memory is in canonical form: addresses strictly rising, no listed byte equal
to what an unlisted address reads as. A state that meets it still does after one instruction word is placed at the place where
the next step fetches. The form is the model's own; no rule names it. (R395, R397, 03_state.md) -/
def Obligations.ResetInvariant : Prop :=
  State.reset.Inv ∧ ∀ (s : State) (nbits w : Nat), s.Inv → (s.withFetchWord nbits w).Inv

/-- For every state whose memory is in canonical form, whatever row of the opcode table the step runs, when the step answers a next
state the memory of that state is in canonical form again: every store, block operation, copy, image, message landing, reset
and table write goes through the operations that keep it. The form is the model's own; no rule names it. (R6, R7, R111, R114,
R265, 03_state.md, 95_what_each_step_holds.md) -/
def Obligations.StepKeepsMemoryCanonical : Prop :=
  ∀ (s s' : State), s.Inv → step s = .next s' → s'.Inv

/-- For every ready strand: an instruction fetched from the image of a code message whose word does not belong to the restricted
set of R181 takes trap 0x50 with its word in TVAL; the restricted set comes before the mode. Outside such an image XROOT, XINV,
XPROBE, ESET, MDRAIN, MREST, VSAVE and VREST trap 0x02 in user mode, and XBACK, PARTSET, SKIPSET, WAYSET and BREGION trap 0x02
below hypervisor mode. Every instruction that has a word runs by its gate and its body (wordBody lists them); in the last word
of the address space, an instruction whose body is done, its own checks passed and no branch taken, traps 0x05 with the PC in
TVAL and writes nothing: an addition, a load of an immediate or a compare in any state. (R79, R181, R103, R60, R216,
10_ref_system.md) -/
def Obligations.ChecksBeforeTheInstructionsOwn : Prop :=
  ∀ (s : State) (t : Strand),
    (Ready s t → t.code = true → t.pc < 16 → ∀ (i : Instr) (w : Word32), encode i = some w →
      let major := (fld w 26 6).toNat
      ¬((1 ≤ major ∧ major ≤ 9) ∨ (0x0c ≤ major ∧ major ≤ 0x0e) ∨ (0x10 ≤ major ∧ major ≤ 0x16) ∨ (0x18 ≤ major ∧ major ≤ 0x1b) ∨
        major = 0x1d ∨ (∃ o c, i = .fence o c) ∨ i = .exit ∨ (∃ a d, i = .ttag a d) ∨ major = 0x3a ∨ (∃ a, i = .dqput a) ∨
        (∃ a d, i = .qcount a d)) →
      Traps i s t 0x50 s.wordTval) ∧
    (Ready s t → Plain t → ∀ a b d : BitVec 5,
      (t.mode < 1 → ∀ i ∈ [Instr.xroot a b, .xinv a b, .xprobe a b d, .eset a b, .mdrain a, .mrest a, .vsave a, .vrest a],
        Traps i s t 0x02 s.wordTval) ∧
      (t.mode < 2 → ∀ i ∈ [Instr.xback a d, .partset a b, .skipset a b, .wayset a b, .bregion a b], Traps i s t 0x02 s.wordTval)) ∧
    (∀ (i : Instr) (w : Word32), encode i = some w → wordBody i ≠ none) ∧
    (∀ (i : Instr) (g : Gate) (f : Strand → State → Res), wordBody i = some (g, f) → exec i s = runWord g f s ∧
      (s.me = some t → t.doom = none → t.pc = 2 ^ 56 - 4 → g.mode ≤ t.mode → ∀ s', f t s = .done s' → Traps i s t 0x05 (BitVec.ofNat 64 t.pc))) ∧
    (s.me = some t → t.doom = none → t.pc = 2 ^ 56 - 4 → ∀ (a b d : BitVec 5) (x : BitVec 16),
      (∀ i ∈ [Instr.add d a b, .addi d a x, .mul d a b, .lzc d a, .lih d a x, .slti d a x, .plevel d 0#5],
        Traps i s t 0x05 (BitVec.ofNat 64 t.pc)) ∧
      (t.g a ≠ t.g b → Traps (.beq a b x) s t 0x05 (BitVec.ofNat 64 t.pc)))
end

