-- ==== Sys2Proof/Laws/Fields.lean ====
section
/-!
SUPPORT. The fields of a word written as the concatenation of its parts, for every layout that the encoder uses; the codes of
types, orderings, scopes and system registers; the decoder by major opcode.
-/
namespace Sys2Proof

theorem EType.ofCode_code (t : EType) : EType.ofCode t.code = some t := by cases t <;> rfl
theorem MOrd.ofCode_code (o : MOrd) : MOrd.ofCode o.code = o := by cases o <;> rfl
theorem Scope.ofCode_code (c : Scope) : Scope.ofCode c.code = some c := by cases c <;> rfl
theorem SysReg.ofCode_code (r : SysReg) : SysReg.ofCode r.code = some r := by cases r <;> rfl

/-- A well-formed instruction that the raw decoder reads is what the decoder reads. -/
theorem decode_of_raw {w : Word32} {i : Instr} (h : decodeRaw w = some i) (k : i.wf = true) : decode w = some i := by
  simp only [decode, h, k, if_true]

theorem fld_6_5_5_5_11_0 (x0 : BitVec 6) (x1 : BitVec 5) (x2 : BitVec 5) (x3 : BitVec 5) (x4 : BitVec 11) :
    fld (x0 ++ x1 ++ x2 ++ x3 ++ x4) 0 11 = x4 := by
  show BitVec.extractLsb' 0 11 (x0 ++ x1 ++ x2 ++ x3 ++ x4 : BitVec (6 + 5 + 5 + 5 + 11)) = x4
  repeat (first | rw [BitVec.extractLsb'_append_eq_of_le (by omega)] | rw [BitVec.extractLsb'_append_eq_of_add_le (by omega)])
  exact BitVec.extractLsb'_eq_self

theorem fld_6_5_5_5_11_11 (x0 : BitVec 6) (x1 : BitVec 5) (x2 : BitVec 5) (x3 : BitVec 5) (x4 : BitVec 11) :
    fld (x0 ++ x1 ++ x2 ++ x3 ++ x4) 11 5 = x3 := by
  show BitVec.extractLsb' 11 5 (x0 ++ x1 ++ x2 ++ x3 ++ x4 : BitVec (6 + 5 + 5 + 5 + 11)) = x3
  repeat (first | rw [BitVec.extractLsb'_append_eq_of_le (by omega)] | rw [BitVec.extractLsb'_append_eq_of_add_le (by omega)])
  exact BitVec.extractLsb'_eq_self

theorem fld_6_5_5_5_11_16 (x0 : BitVec 6) (x1 : BitVec 5) (x2 : BitVec 5) (x3 : BitVec 5) (x4 : BitVec 11) :
    fld (x0 ++ x1 ++ x2 ++ x3 ++ x4) 16 5 = x2 := by
  show BitVec.extractLsb' 16 5 (x0 ++ x1 ++ x2 ++ x3 ++ x4 : BitVec (6 + 5 + 5 + 5 + 11)) = x2
  repeat (first | rw [BitVec.extractLsb'_append_eq_of_le (by omega)] | rw [BitVec.extractLsb'_append_eq_of_add_le (by omega)])
  exact BitVec.extractLsb'_eq_self

theorem fld_6_5_5_5_11_21 (x0 : BitVec 6) (x1 : BitVec 5) (x2 : BitVec 5) (x3 : BitVec 5) (x4 : BitVec 11) :
    fld (x0 ++ x1 ++ x2 ++ x3 ++ x4) 21 5 = x1 := by
  show BitVec.extractLsb' 21 5 (x0 ++ x1 ++ x2 ++ x3 ++ x4 : BitVec (6 + 5 + 5 + 5 + 11)) = x1
  repeat (first | rw [BitVec.extractLsb'_append_eq_of_le (by omega)] | rw [BitVec.extractLsb'_append_eq_of_add_le (by omega)])
  exact BitVec.extractLsb'_eq_self

theorem fld_6_5_5_5_11_26 (x0 : BitVec 6) (x1 : BitVec 5) (x2 : BitVec 5) (x3 : BitVec 5) (x4 : BitVec 11) :
    fld (x0 ++ x1 ++ x2 ++ x3 ++ x4) 26 6 = x0 := by
  show BitVec.extractLsb' 26 6 (x0 ++ x1 ++ x2 ++ x3 ++ x4 : BitVec (6 + 5 + 5 + 5 + 11)) = x0
  repeat (first | rw [BitVec.extractLsb'_append_eq_of_le (by omega)] | rw [BitVec.extractLsb'_append_eq_of_add_le (by omega)])
  exact BitVec.extractLsb'_eq_self

theorem fld_6_5_5_16_0 (x0 : BitVec 6) (x1 : BitVec 5) (x2 : BitVec 5) (x3 : BitVec 16) :
    fld (x0 ++ x1 ++ x2 ++ x3) 0 16 = x3 := by
  show BitVec.extractLsb' 0 16 (x0 ++ x1 ++ x2 ++ x3 : BitVec (6 + 5 + 5 + 16)) = x3
  repeat (first | rw [BitVec.extractLsb'_append_eq_of_le (by omega)] | rw [BitVec.extractLsb'_append_eq_of_add_le (by omega)])
  exact BitVec.extractLsb'_eq_self

theorem fld_6_5_5_16_16 (x0 : BitVec 6) (x1 : BitVec 5) (x2 : BitVec 5) (x3 : BitVec 16) :
    fld (x0 ++ x1 ++ x2 ++ x3) 16 5 = x2 := by
  show BitVec.extractLsb' 16 5 (x0 ++ x1 ++ x2 ++ x3 : BitVec (6 + 5 + 5 + 16)) = x2
  repeat (first | rw [BitVec.extractLsb'_append_eq_of_le (by omega)] | rw [BitVec.extractLsb'_append_eq_of_add_le (by omega)])
  exact BitVec.extractLsb'_eq_self

theorem fld_6_5_5_16_21 (x0 : BitVec 6) (x1 : BitVec 5) (x2 : BitVec 5) (x3 : BitVec 16) :
    fld (x0 ++ x1 ++ x2 ++ x3) 21 5 = x1 := by
  show BitVec.extractLsb' 21 5 (x0 ++ x1 ++ x2 ++ x3 : BitVec (6 + 5 + 5 + 16)) = x1
  repeat (first | rw [BitVec.extractLsb'_append_eq_of_le (by omega)] | rw [BitVec.extractLsb'_append_eq_of_add_le (by omega)])
  exact BitVec.extractLsb'_eq_self

theorem fld_6_5_5_16_26 (x0 : BitVec 6) (x1 : BitVec 5) (x2 : BitVec 5) (x3 : BitVec 16) :
    fld (x0 ++ x1 ++ x2 ++ x3) 26 6 = x0 := by
  show BitVec.extractLsb' 26 6 (x0 ++ x1 ++ x2 ++ x3 : BitVec (6 + 5 + 5 + 16)) = x0
  repeat (first | rw [BitVec.extractLsb'_append_eq_of_le (by omega)] | rw [BitVec.extractLsb'_append_eq_of_add_le (by omega)])
  exact BitVec.extractLsb'_eq_self

theorem fld_6_5_5_6_10_0 (x0 : BitVec 6) (x1 : BitVec 5) (x2 : BitVec 5) (x3 : BitVec 6) (x4 : BitVec 10) :
    fld (x0 ++ x1 ++ x2 ++ x3 ++ x4) 0 10 = x4 := by
  show BitVec.extractLsb' 0 10 (x0 ++ x1 ++ x2 ++ x3 ++ x4 : BitVec (6 + 5 + 5 + 6 + 10)) = x4
  repeat (first | rw [BitVec.extractLsb'_append_eq_of_le (by omega)] | rw [BitVec.extractLsb'_append_eq_of_add_le (by omega)])
  exact BitVec.extractLsb'_eq_self

theorem fld_6_5_5_6_10_10 (x0 : BitVec 6) (x1 : BitVec 5) (x2 : BitVec 5) (x3 : BitVec 6) (x4 : BitVec 10) :
    fld (x0 ++ x1 ++ x2 ++ x3 ++ x4) 10 6 = x3 := by
  show BitVec.extractLsb' 10 6 (x0 ++ x1 ++ x2 ++ x3 ++ x4 : BitVec (6 + 5 + 5 + 6 + 10)) = x3
  repeat (first | rw [BitVec.extractLsb'_append_eq_of_le (by omega)] | rw [BitVec.extractLsb'_append_eq_of_add_le (by omega)])
  exact BitVec.extractLsb'_eq_self

theorem fld_6_5_5_6_10_16 (x0 : BitVec 6) (x1 : BitVec 5) (x2 : BitVec 5) (x3 : BitVec 6) (x4 : BitVec 10) :
    fld (x0 ++ x1 ++ x2 ++ x3 ++ x4) 16 5 = x2 := by
  show BitVec.extractLsb' 16 5 (x0 ++ x1 ++ x2 ++ x3 ++ x4 : BitVec (6 + 5 + 5 + 6 + 10)) = x2
  repeat (first | rw [BitVec.extractLsb'_append_eq_of_le (by omega)] | rw [BitVec.extractLsb'_append_eq_of_add_le (by omega)])
  exact BitVec.extractLsb'_eq_self

theorem fld_6_5_5_6_10_21 (x0 : BitVec 6) (x1 : BitVec 5) (x2 : BitVec 5) (x3 : BitVec 6) (x4 : BitVec 10) :
    fld (x0 ++ x1 ++ x2 ++ x3 ++ x4) 21 5 = x1 := by
  show BitVec.extractLsb' 21 5 (x0 ++ x1 ++ x2 ++ x3 ++ x4 : BitVec (6 + 5 + 5 + 6 + 10)) = x1
  repeat (first | rw [BitVec.extractLsb'_append_eq_of_le (by omega)] | rw [BitVec.extractLsb'_append_eq_of_add_le (by omega)])
  exact BitVec.extractLsb'_eq_self

theorem fld_6_5_5_6_10_26 (x0 : BitVec 6) (x1 : BitVec 5) (x2 : BitVec 5) (x3 : BitVec 6) (x4 : BitVec 10) :
    fld (x0 ++ x1 ++ x2 ++ x3 ++ x4) 26 6 = x0 := by
  show BitVec.extractLsb' 26 6 (x0 ++ x1 ++ x2 ++ x3 ++ x4 : BitVec (6 + 5 + 5 + 6 + 10)) = x0
  repeat (first | rw [BitVec.extractLsb'_append_eq_of_le (by omega)] | rw [BitVec.extractLsb'_append_eq_of_add_le (by omega)])
  exact BitVec.extractLsb'_eq_self

theorem fld_6_5_5_1_5_10_0 (x0 : BitVec 6) (x1 : BitVec 5) (x2 : BitVec 5) (x3 : BitVec 1) (x4 : BitVec 5) (x5 : BitVec 10) :
    fld (x0 ++ x1 ++ x2 ++ x3 ++ x4 ++ x5) 0 10 = x5 := by
  show BitVec.extractLsb' 0 10 (x0 ++ x1 ++ x2 ++ x3 ++ x4 ++ x5 : BitVec (6 + 5 + 5 + 1 + 5 + 10)) = x5
  repeat (first | rw [BitVec.extractLsb'_append_eq_of_le (by omega)] | rw [BitVec.extractLsb'_append_eq_of_add_le (by omega)])
  exact BitVec.extractLsb'_eq_self

theorem fld_6_5_5_1_5_10_10 (x0 : BitVec 6) (x1 : BitVec 5) (x2 : BitVec 5) (x3 : BitVec 1) (x4 : BitVec 5) (x5 : BitVec 10) :
    fld (x0 ++ x1 ++ x2 ++ x3 ++ x4 ++ x5) 10 5 = x4 := by
  show BitVec.extractLsb' 10 5 (x0 ++ x1 ++ x2 ++ x3 ++ x4 ++ x5 : BitVec (6 + 5 + 5 + 1 + 5 + 10)) = x4
  repeat (first | rw [BitVec.extractLsb'_append_eq_of_le (by omega)] | rw [BitVec.extractLsb'_append_eq_of_add_le (by omega)])
  exact BitVec.extractLsb'_eq_self

theorem fld_6_5_5_1_5_10_15 (x0 : BitVec 6) (x1 : BitVec 5) (x2 : BitVec 5) (x3 : BitVec 1) (x4 : BitVec 5) (x5 : BitVec 10) :
    fld (x0 ++ x1 ++ x2 ++ x3 ++ x4 ++ x5) 15 1 = x3 := by
  show BitVec.extractLsb' 15 1 (x0 ++ x1 ++ x2 ++ x3 ++ x4 ++ x5 : BitVec (6 + 5 + 5 + 1 + 5 + 10)) = x3
  repeat (first | rw [BitVec.extractLsb'_append_eq_of_le (by omega)] | rw [BitVec.extractLsb'_append_eq_of_add_le (by omega)])
  exact BitVec.extractLsb'_eq_self

theorem fld_6_5_5_1_5_10_16 (x0 : BitVec 6) (x1 : BitVec 5) (x2 : BitVec 5) (x3 : BitVec 1) (x4 : BitVec 5) (x5 : BitVec 10) :
    fld (x0 ++ x1 ++ x2 ++ x3 ++ x4 ++ x5) 16 5 = x2 := by
  show BitVec.extractLsb' 16 5 (x0 ++ x1 ++ x2 ++ x3 ++ x4 ++ x5 : BitVec (6 + 5 + 5 + 1 + 5 + 10)) = x2
  repeat (first | rw [BitVec.extractLsb'_append_eq_of_le (by omega)] | rw [BitVec.extractLsb'_append_eq_of_add_le (by omega)])
  exact BitVec.extractLsb'_eq_self

theorem fld_6_5_5_1_5_10_21 (x0 : BitVec 6) (x1 : BitVec 5) (x2 : BitVec 5) (x3 : BitVec 1) (x4 : BitVec 5) (x5 : BitVec 10) :
    fld (x0 ++ x1 ++ x2 ++ x3 ++ x4 ++ x5) 21 5 = x1 := by
  show BitVec.extractLsb' 21 5 (x0 ++ x1 ++ x2 ++ x3 ++ x4 ++ x5 : BitVec (6 + 5 + 5 + 1 + 5 + 10)) = x1
  repeat (first | rw [BitVec.extractLsb'_append_eq_of_le (by omega)] | rw [BitVec.extractLsb'_append_eq_of_add_le (by omega)])
  exact BitVec.extractLsb'_eq_self

theorem fld_6_5_5_1_5_10_26 (x0 : BitVec 6) (x1 : BitVec 5) (x2 : BitVec 5) (x3 : BitVec 1) (x4 : BitVec 5) (x5 : BitVec 10) :
    fld (x0 ++ x1 ++ x2 ++ x3 ++ x4 ++ x5) 26 6 = x0 := by
  show BitVec.extractLsb' 26 6 (x0 ++ x1 ++ x2 ++ x3 ++ x4 ++ x5 : BitVec (6 + 5 + 5 + 1 + 5 + 10)) = x0
  repeat (first | rw [BitVec.extractLsb'_append_eq_of_le (by omega)] | rw [BitVec.extractLsb'_append_eq_of_add_le (by omega)])
  exact BitVec.extractLsb'_eq_self

theorem fld_6_5_5_10_6_0 (x0 : BitVec 6) (x1 : BitVec 5) (x2 : BitVec 5) (x3 : BitVec 10) (x4 : BitVec 6) :
    fld (x0 ++ x1 ++ x2 ++ x3 ++ x4) 0 6 = x4 := by
  show BitVec.extractLsb' 0 6 (x0 ++ x1 ++ x2 ++ x3 ++ x4 : BitVec (6 + 5 + 5 + 10 + 6)) = x4
  repeat (first | rw [BitVec.extractLsb'_append_eq_of_le (by omega)] | rw [BitVec.extractLsb'_append_eq_of_add_le (by omega)])
  exact BitVec.extractLsb'_eq_self

theorem fld_6_5_5_10_6_6_5_z3 (x0 : BitVec 6) (x1 : BitVec 5) (x2 : BitVec 5) (x4 : BitVec 6) :
    fld (x0 ++ x1 ++ x2 ++ 0#10 ++ x4) 6 5 = 0#5 := by
  show BitVec.extractLsb' 6 5 (x0 ++ x1 ++ x2 ++ 0#10 ++ x4 : BitVec (6 + 5 + 5 + 10 + 6)) = 0#5
  repeat (first | rw [BitVec.extractLsb'_append_eq_of_le (by omega)] | rw [BitVec.extractLsb'_append_eq_of_add_le (by omega)])
  exact BitVec.extractLsb'_zero

theorem fld_6_5_5_10_6_6 (x0 : BitVec 6) (x1 : BitVec 5) (x2 : BitVec 5) (x3 : BitVec 10) (x4 : BitVec 6) :
    fld (x0 ++ x1 ++ x2 ++ x3 ++ x4) 6 10 = x3 := by
  show BitVec.extractLsb' 6 10 (x0 ++ x1 ++ x2 ++ x3 ++ x4 : BitVec (6 + 5 + 5 + 10 + 6)) = x3
  repeat (first | rw [BitVec.extractLsb'_append_eq_of_le (by omega)] | rw [BitVec.extractLsb'_append_eq_of_add_le (by omega)])
  exact BitVec.extractLsb'_eq_self

theorem fld_6_5_5_10_6_11_5_z3 (x0 : BitVec 6) (x1 : BitVec 5) (x2 : BitVec 5) (x4 : BitVec 6) :
    fld (x0 ++ x1 ++ x2 ++ 0#10 ++ x4) 11 5 = 0#5 := by
  show BitVec.extractLsb' 11 5 (x0 ++ x1 ++ x2 ++ 0#10 ++ x4 : BitVec (6 + 5 + 5 + 10 + 6)) = 0#5
  repeat (first | rw [BitVec.extractLsb'_append_eq_of_le (by omega)] | rw [BitVec.extractLsb'_append_eq_of_add_le (by omega)])
  exact BitVec.extractLsb'_zero

theorem fld_6_5_5_10_6_16 (x0 : BitVec 6) (x1 : BitVec 5) (x2 : BitVec 5) (x3 : BitVec 10) (x4 : BitVec 6) :
    fld (x0 ++ x1 ++ x2 ++ x3 ++ x4) 16 5 = x2 := by
  show BitVec.extractLsb' 16 5 (x0 ++ x1 ++ x2 ++ x3 ++ x4 : BitVec (6 + 5 + 5 + 10 + 6)) = x2
  repeat (first | rw [BitVec.extractLsb'_append_eq_of_le (by omega)] | rw [BitVec.extractLsb'_append_eq_of_add_le (by omega)])
  exact BitVec.extractLsb'_eq_self

theorem fld_6_5_5_10_6_21 (x0 : BitVec 6) (x1 : BitVec 5) (x2 : BitVec 5) (x3 : BitVec 10) (x4 : BitVec 6) :
    fld (x0 ++ x1 ++ x2 ++ x3 ++ x4) 21 5 = x1 := by
  show BitVec.extractLsb' 21 5 (x0 ++ x1 ++ x2 ++ x3 ++ x4 : BitVec (6 + 5 + 5 + 10 + 6)) = x1
  repeat (first | rw [BitVec.extractLsb'_append_eq_of_le (by omega)] | rw [BitVec.extractLsb'_append_eq_of_add_le (by omega)])
  exact BitVec.extractLsb'_eq_self

theorem fld_6_5_5_10_6_26 (x0 : BitVec 6) (x1 : BitVec 5) (x2 : BitVec 5) (x3 : BitVec 10) (x4 : BitVec 6) :
    fld (x0 ++ x1 ++ x2 ++ x3 ++ x4) 26 6 = x0 := by
  show BitVec.extractLsb' 26 6 (x0 ++ x1 ++ x2 ++ x3 ++ x4 : BitVec (6 + 5 + 5 + 10 + 6)) = x0
  repeat (first | rw [BitVec.extractLsb'_append_eq_of_le (by omega)] | rw [BitVec.extractLsb'_append_eq_of_add_le (by omega)])
  exact BitVec.extractLsb'_eq_self

theorem fld_6_5_5_5_5_6_0 (x0 : BitVec 6) (x1 : BitVec 5) (x2 : BitVec 5) (x3 : BitVec 5) (x4 : BitVec 5) (x5 : BitVec 6) :
    fld (x0 ++ x1 ++ x2 ++ x3 ++ x4 ++ x5) 0 6 = x5 := by
  show BitVec.extractLsb' 0 6 (x0 ++ x1 ++ x2 ++ x3 ++ x4 ++ x5 : BitVec (6 + 5 + 5 + 5 + 5 + 6)) = x5
  repeat (first | rw [BitVec.extractLsb'_append_eq_of_le (by omega)] | rw [BitVec.extractLsb'_append_eq_of_add_le (by omega)])
  exact BitVec.extractLsb'_eq_self

theorem fld_6_5_5_5_5_6_6 (x0 : BitVec 6) (x1 : BitVec 5) (x2 : BitVec 5) (x3 : BitVec 5) (x4 : BitVec 5) (x5 : BitVec 6) :
    fld (x0 ++ x1 ++ x2 ++ x3 ++ x4 ++ x5) 6 5 = x4 := by
  show BitVec.extractLsb' 6 5 (x0 ++ x1 ++ x2 ++ x3 ++ x4 ++ x5 : BitVec (6 + 5 + 5 + 5 + 5 + 6)) = x4
  repeat (first | rw [BitVec.extractLsb'_append_eq_of_le (by omega)] | rw [BitVec.extractLsb'_append_eq_of_add_le (by omega)])
  exact BitVec.extractLsb'_eq_self

theorem fld_6_5_5_5_5_6_11 (x0 : BitVec 6) (x1 : BitVec 5) (x2 : BitVec 5) (x3 : BitVec 5) (x4 : BitVec 5) (x5 : BitVec 6) :
    fld (x0 ++ x1 ++ x2 ++ x3 ++ x4 ++ x5) 11 5 = x3 := by
  show BitVec.extractLsb' 11 5 (x0 ++ x1 ++ x2 ++ x3 ++ x4 ++ x5 : BitVec (6 + 5 + 5 + 5 + 5 + 6)) = x3
  repeat (first | rw [BitVec.extractLsb'_append_eq_of_le (by omega)] | rw [BitVec.extractLsb'_append_eq_of_add_le (by omega)])
  exact BitVec.extractLsb'_eq_self

theorem fld_6_5_5_5_5_6_16 (x0 : BitVec 6) (x1 : BitVec 5) (x2 : BitVec 5) (x3 : BitVec 5) (x4 : BitVec 5) (x5 : BitVec 6) :
    fld (x0 ++ x1 ++ x2 ++ x3 ++ x4 ++ x5) 16 5 = x2 := by
  show BitVec.extractLsb' 16 5 (x0 ++ x1 ++ x2 ++ x3 ++ x4 ++ x5 : BitVec (6 + 5 + 5 + 5 + 5 + 6)) = x2
  repeat (first | rw [BitVec.extractLsb'_append_eq_of_le (by omega)] | rw [BitVec.extractLsb'_append_eq_of_add_le (by omega)])
  exact BitVec.extractLsb'_eq_self

theorem fld_6_5_5_5_5_6_21 (x0 : BitVec 6) (x1 : BitVec 5) (x2 : BitVec 5) (x3 : BitVec 5) (x4 : BitVec 5) (x5 : BitVec 6) :
    fld (x0 ++ x1 ++ x2 ++ x3 ++ x4 ++ x5) 21 5 = x1 := by
  show BitVec.extractLsb' 21 5 (x0 ++ x1 ++ x2 ++ x3 ++ x4 ++ x5 : BitVec (6 + 5 + 5 + 5 + 5 + 6)) = x1
  repeat (first | rw [BitVec.extractLsb'_append_eq_of_le (by omega)] | rw [BitVec.extractLsb'_append_eq_of_add_le (by omega)])
  exact BitVec.extractLsb'_eq_self

theorem fld_6_5_5_5_5_6_26 (x0 : BitVec 6) (x1 : BitVec 5) (x2 : BitVec 5) (x3 : BitVec 5) (x4 : BitVec 5) (x5 : BitVec 6) :
    fld (x0 ++ x1 ++ x2 ++ x3 ++ x4 ++ x5) 26 6 = x0 := by
  show BitVec.extractLsb' 26 6 (x0 ++ x1 ++ x2 ++ x3 ++ x4 ++ x5 : BitVec (6 + 5 + 5 + 5 + 5 + 6)) = x0
  repeat (first | rw [BitVec.extractLsb'_append_eq_of_le (by omega)] | rw [BitVec.extractLsb'_append_eq_of_add_le (by omega)])
  exact BitVec.extractLsb'_eq_self

theorem fld_6_5_10_11_0 (x0 : BitVec 6) (x1 : BitVec 5) (x2 : BitVec 10) (x3 : BitVec 11) :
    fld (x0 ++ x1 ++ x2 ++ x3) 0 11 = x3 := by
  show BitVec.extractLsb' 0 11 (x0 ++ x1 ++ x2 ++ x3 : BitVec (6 + 5 + 10 + 11)) = x3
  repeat (first | rw [BitVec.extractLsb'_append_eq_of_le (by omega)] | rw [BitVec.extractLsb'_append_eq_of_add_le (by omega)])
  exact BitVec.extractLsb'_eq_self

theorem fld_6_5_10_11_11_5_z2 (x0 : BitVec 6) (x1 : BitVec 5) (x3 : BitVec 11) :
    fld (x0 ++ x1 ++ 0#10 ++ x3) 11 5 = 0#5 := by
  show BitVec.extractLsb' 11 5 (x0 ++ x1 ++ 0#10 ++ x3 : BitVec (6 + 5 + 10 + 11)) = 0#5
  repeat (first | rw [BitVec.extractLsb'_append_eq_of_le (by omega)] | rw [BitVec.extractLsb'_append_eq_of_add_le (by omega)])
  exact BitVec.extractLsb'_zero

theorem fld_6_5_10_11_11 (x0 : BitVec 6) (x1 : BitVec 5) (x2 : BitVec 10) (x3 : BitVec 11) :
    fld (x0 ++ x1 ++ x2 ++ x3) 11 10 = x2 := by
  show BitVec.extractLsb' 11 10 (x0 ++ x1 ++ x2 ++ x3 : BitVec (6 + 5 + 10 + 11)) = x2
  repeat (first | rw [BitVec.extractLsb'_append_eq_of_le (by omega)] | rw [BitVec.extractLsb'_append_eq_of_add_le (by omega)])
  exact BitVec.extractLsb'_eq_self

theorem fld_6_5_10_11_16_5_z2 (x0 : BitVec 6) (x1 : BitVec 5) (x3 : BitVec 11) :
    fld (x0 ++ x1 ++ 0#10 ++ x3) 16 5 = 0#5 := by
  show BitVec.extractLsb' 16 5 (x0 ++ x1 ++ 0#10 ++ x3 : BitVec (6 + 5 + 10 + 11)) = 0#5
  repeat (first | rw [BitVec.extractLsb'_append_eq_of_le (by omega)] | rw [BitVec.extractLsb'_append_eq_of_add_le (by omega)])
  exact BitVec.extractLsb'_zero

theorem fld_6_5_10_11_21 (x0 : BitVec 6) (x1 : BitVec 5) (x2 : BitVec 10) (x3 : BitVec 11) :
    fld (x0 ++ x1 ++ x2 ++ x3) 21 5 = x1 := by
  show BitVec.extractLsb' 21 5 (x0 ++ x1 ++ x2 ++ x3 : BitVec (6 + 5 + 10 + 11)) = x1
  repeat (first | rw [BitVec.extractLsb'_append_eq_of_le (by omega)] | rw [BitVec.extractLsb'_append_eq_of_add_le (by omega)])
  exact BitVec.extractLsb'_eq_self

theorem fld_6_5_10_11_26 (x0 : BitVec 6) (x1 : BitVec 5) (x2 : BitVec 10) (x3 : BitVec 11) :
    fld (x0 ++ x1 ++ x2 ++ x3) 26 6 = x0 := by
  show BitVec.extractLsb' 26 6 (x0 ++ x1 ++ x2 ++ x3 : BitVec (6 + 5 + 10 + 11)) = x0
  repeat (first | rw [BitVec.extractLsb'_append_eq_of_le (by omega)] | rw [BitVec.extractLsb'_append_eq_of_add_le (by omega)])
  exact BitVec.extractLsb'_eq_self

theorem fld_6_5_5_5_6_2_3_0 (x0 : BitVec 6) (x1 : BitVec 5) (x2 : BitVec 5) (x3 : BitVec 5) (x4 : BitVec 6) (x5 : BitVec 2) (x6 : BitVec 3) :
    fld (x0 ++ x1 ++ x2 ++ x3 ++ x4 ++ x5 ++ x6) 0 3 = x6 := by
  show BitVec.extractLsb' 0 3 (x0 ++ x1 ++ x2 ++ x3 ++ x4 ++ x5 ++ x6 : BitVec (6 + 5 + 5 + 5 + 6 + 2 + 3)) = x6
  repeat (first | rw [BitVec.extractLsb'_append_eq_of_le (by omega)] | rw [BitVec.extractLsb'_append_eq_of_add_le (by omega)])
  exact BitVec.extractLsb'_eq_self

theorem fld_6_5_5_5_6_2_3_3 (x0 : BitVec 6) (x1 : BitVec 5) (x2 : BitVec 5) (x3 : BitVec 5) (x4 : BitVec 6) (x5 : BitVec 2) (x6 : BitVec 3) :
    fld (x0 ++ x1 ++ x2 ++ x3 ++ x4 ++ x5 ++ x6) 3 2 = x5 := by
  show BitVec.extractLsb' 3 2 (x0 ++ x1 ++ x2 ++ x3 ++ x4 ++ x5 ++ x6 : BitVec (6 + 5 + 5 + 5 + 6 + 2 + 3)) = x5
  repeat (first | rw [BitVec.extractLsb'_append_eq_of_le (by omega)] | rw [BitVec.extractLsb'_append_eq_of_add_le (by omega)])
  exact BitVec.extractLsb'_eq_self

theorem fld_6_5_5_5_6_2_3_5 (x0 : BitVec 6) (x1 : BitVec 5) (x2 : BitVec 5) (x3 : BitVec 5) (x4 : BitVec 6) (x5 : BitVec 2) (x6 : BitVec 3) :
    fld (x0 ++ x1 ++ x2 ++ x3 ++ x4 ++ x5 ++ x6) 5 6 = x4 := by
  show BitVec.extractLsb' 5 6 (x0 ++ x1 ++ x2 ++ x3 ++ x4 ++ x5 ++ x6 : BitVec (6 + 5 + 5 + 5 + 6 + 2 + 3)) = x4
  repeat (first | rw [BitVec.extractLsb'_append_eq_of_le (by omega)] | rw [BitVec.extractLsb'_append_eq_of_add_le (by omega)])
  exact BitVec.extractLsb'_eq_self

theorem fld_6_5_5_5_6_2_3_11 (x0 : BitVec 6) (x1 : BitVec 5) (x2 : BitVec 5) (x3 : BitVec 5) (x4 : BitVec 6) (x5 : BitVec 2) (x6 : BitVec 3) :
    fld (x0 ++ x1 ++ x2 ++ x3 ++ x4 ++ x5 ++ x6) 11 5 = x3 := by
  show BitVec.extractLsb' 11 5 (x0 ++ x1 ++ x2 ++ x3 ++ x4 ++ x5 ++ x6 : BitVec (6 + 5 + 5 + 5 + 6 + 2 + 3)) = x3
  repeat (first | rw [BitVec.extractLsb'_append_eq_of_le (by omega)] | rw [BitVec.extractLsb'_append_eq_of_add_le (by omega)])
  exact BitVec.extractLsb'_eq_self

theorem fld_6_5_5_5_6_2_3_16 (x0 : BitVec 6) (x1 : BitVec 5) (x2 : BitVec 5) (x3 : BitVec 5) (x4 : BitVec 6) (x5 : BitVec 2) (x6 : BitVec 3) :
    fld (x0 ++ x1 ++ x2 ++ x3 ++ x4 ++ x5 ++ x6) 16 5 = x2 := by
  show BitVec.extractLsb' 16 5 (x0 ++ x1 ++ x2 ++ x3 ++ x4 ++ x5 ++ x6 : BitVec (6 + 5 + 5 + 5 + 6 + 2 + 3)) = x2
  repeat (first | rw [BitVec.extractLsb'_append_eq_of_le (by omega)] | rw [BitVec.extractLsb'_append_eq_of_add_le (by omega)])
  exact BitVec.extractLsb'_eq_self

theorem fld_6_5_5_5_6_2_3_21 (x0 : BitVec 6) (x1 : BitVec 5) (x2 : BitVec 5) (x3 : BitVec 5) (x4 : BitVec 6) (x5 : BitVec 2) (x6 : BitVec 3) :
    fld (x0 ++ x1 ++ x2 ++ x3 ++ x4 ++ x5 ++ x6) 21 5 = x1 := by
  show BitVec.extractLsb' 21 5 (x0 ++ x1 ++ x2 ++ x3 ++ x4 ++ x5 ++ x6 : BitVec (6 + 5 + 5 + 5 + 6 + 2 + 3)) = x1
  repeat (first | rw [BitVec.extractLsb'_append_eq_of_le (by omega)] | rw [BitVec.extractLsb'_append_eq_of_add_le (by omega)])
  exact BitVec.extractLsb'_eq_self

theorem fld_6_5_5_5_6_2_3_26 (x0 : BitVec 6) (x1 : BitVec 5) (x2 : BitVec 5) (x3 : BitVec 5) (x4 : BitVec 6) (x5 : BitVec 2) (x6 : BitVec 3) :
    fld (x0 ++ x1 ++ x2 ++ x3 ++ x4 ++ x5 ++ x6) 26 6 = x0 := by
  show BitVec.extractLsb' 26 6 (x0 ++ x1 ++ x2 ++ x3 ++ x4 ++ x5 ++ x6 : BitVec (6 + 5 + 5 + 5 + 6 + 2 + 3)) = x0
  repeat (first | rw [BitVec.extractLsb'_append_eq_of_le (by omega)] | rw [BitVec.extractLsb'_append_eq_of_add_le (by omega)])
  exact BitVec.extractLsb'_eq_self

theorem fld_6_15_6_2_3_0 (x0 : BitVec 6) (x1 : BitVec 15) (x2 : BitVec 6) (x3 : BitVec 2) (x4 : BitVec 3) :
    fld (x0 ++ x1 ++ x2 ++ x3 ++ x4) 0 3 = x4 := by
  show BitVec.extractLsb' 0 3 (x0 ++ x1 ++ x2 ++ x3 ++ x4 : BitVec (6 + 15 + 6 + 2 + 3)) = x4
  repeat (first | rw [BitVec.extractLsb'_append_eq_of_le (by omega)] | rw [BitVec.extractLsb'_append_eq_of_add_le (by omega)])
  exact BitVec.extractLsb'_eq_self

theorem fld_6_15_6_2_3_3 (x0 : BitVec 6) (x1 : BitVec 15) (x2 : BitVec 6) (x3 : BitVec 2) (x4 : BitVec 3) :
    fld (x0 ++ x1 ++ x2 ++ x3 ++ x4) 3 2 = x3 := by
  show BitVec.extractLsb' 3 2 (x0 ++ x1 ++ x2 ++ x3 ++ x4 : BitVec (6 + 15 + 6 + 2 + 3)) = x3
  repeat (first | rw [BitVec.extractLsb'_append_eq_of_le (by omega)] | rw [BitVec.extractLsb'_append_eq_of_add_le (by omega)])
  exact BitVec.extractLsb'_eq_self

theorem fld_6_15_6_2_3_5 (x0 : BitVec 6) (x1 : BitVec 15) (x2 : BitVec 6) (x3 : BitVec 2) (x4 : BitVec 3) :
    fld (x0 ++ x1 ++ x2 ++ x3 ++ x4) 5 6 = x2 := by
  show BitVec.extractLsb' 5 6 (x0 ++ x1 ++ x2 ++ x3 ++ x4 : BitVec (6 + 15 + 6 + 2 + 3)) = x2
  repeat (first | rw [BitVec.extractLsb'_append_eq_of_le (by omega)] | rw [BitVec.extractLsb'_append_eq_of_add_le (by omega)])
  exact BitVec.extractLsb'_eq_self

theorem fld_6_15_6_2_3_11_5_z1 (x0 : BitVec 6) (x2 : BitVec 6) (x3 : BitVec 2) (x4 : BitVec 3) :
    fld (x0 ++ 0#15 ++ x2 ++ x3 ++ x4) 11 5 = 0#5 := by
  show BitVec.extractLsb' 11 5 (x0 ++ 0#15 ++ x2 ++ x3 ++ x4 : BitVec (6 + 15 + 6 + 2 + 3)) = 0#5
  repeat (first | rw [BitVec.extractLsb'_append_eq_of_le (by omega)] | rw [BitVec.extractLsb'_append_eq_of_add_le (by omega)])
  exact BitVec.extractLsb'_zero

theorem fld_6_15_6_2_3_11 (x0 : BitVec 6) (x1 : BitVec 15) (x2 : BitVec 6) (x3 : BitVec 2) (x4 : BitVec 3) :
    fld (x0 ++ x1 ++ x2 ++ x3 ++ x4) 11 15 = x1 := by
  show BitVec.extractLsb' 11 15 (x0 ++ x1 ++ x2 ++ x3 ++ x4 : BitVec (6 + 15 + 6 + 2 + 3)) = x1
  repeat (first | rw [BitVec.extractLsb'_append_eq_of_le (by omega)] | rw [BitVec.extractLsb'_append_eq_of_add_le (by omega)])
  exact BitVec.extractLsb'_eq_self

theorem fld_6_15_6_2_3_16_5_z1 (x0 : BitVec 6) (x2 : BitVec 6) (x3 : BitVec 2) (x4 : BitVec 3) :
    fld (x0 ++ 0#15 ++ x2 ++ x3 ++ x4) 16 5 = 0#5 := by
  show BitVec.extractLsb' 16 5 (x0 ++ 0#15 ++ x2 ++ x3 ++ x4 : BitVec (6 + 15 + 6 + 2 + 3)) = 0#5
  repeat (first | rw [BitVec.extractLsb'_append_eq_of_le (by omega)] | rw [BitVec.extractLsb'_append_eq_of_add_le (by omega)])
  exact BitVec.extractLsb'_zero

theorem fld_6_15_6_2_3_21_5_z1 (x0 : BitVec 6) (x2 : BitVec 6) (x3 : BitVec 2) (x4 : BitVec 3) :
    fld (x0 ++ 0#15 ++ x2 ++ x3 ++ x4) 21 5 = 0#5 := by
  show BitVec.extractLsb' 21 5 (x0 ++ 0#15 ++ x2 ++ x3 ++ x4 : BitVec (6 + 15 + 6 + 2 + 3)) = 0#5
  repeat (first | rw [BitVec.extractLsb'_append_eq_of_le (by omega)] | rw [BitVec.extractLsb'_append_eq_of_add_le (by omega)])
  exact BitVec.extractLsb'_zero

theorem fld_6_15_6_2_3_26 (x0 : BitVec 6) (x1 : BitVec 15) (x2 : BitVec 6) (x3 : BitVec 2) (x4 : BitVec 3) :
    fld (x0 ++ x1 ++ x2 ++ x3 ++ x4) 26 6 = x0 := by
  show BitVec.extractLsb' 26 6 (x0 ++ x1 ++ x2 ++ x3 ++ x4 : BitVec (6 + 15 + 6 + 2 + 3)) = x0
  repeat (first | rw [BitVec.extractLsb'_append_eq_of_le (by omega)] | rw [BitVec.extractLsb'_append_eq_of_add_le (by omega)])
  exact BitVec.extractLsb'_eq_self

theorem fld_6_2_3_5_5_11_0 (x0 : BitVec 6) (x1 : BitVec 2) (x2 : BitVec 3) (x3 : BitVec 5) (x4 : BitVec 5) (x5 : BitVec 11) :
    fld (x0 ++ x1 ++ x2 ++ x3 ++ x4 ++ x5) 0 11 = x5 := by
  show BitVec.extractLsb' 0 11 (x0 ++ x1 ++ x2 ++ x3 ++ x4 ++ x5 : BitVec (6 + 2 + 3 + 5 + 5 + 11)) = x5
  repeat (first | rw [BitVec.extractLsb'_append_eq_of_le (by omega)] | rw [BitVec.extractLsb'_append_eq_of_add_le (by omega)])
  exact BitVec.extractLsb'_eq_self

theorem fld_6_2_3_5_5_11_11 (x0 : BitVec 6) (x1 : BitVec 2) (x2 : BitVec 3) (x3 : BitVec 5) (x4 : BitVec 5) (x5 : BitVec 11) :
    fld (x0 ++ x1 ++ x2 ++ x3 ++ x4 ++ x5) 11 5 = x4 := by
  show BitVec.extractLsb' 11 5 (x0 ++ x1 ++ x2 ++ x3 ++ x4 ++ x5 : BitVec (6 + 2 + 3 + 5 + 5 + 11)) = x4
  repeat (first | rw [BitVec.extractLsb'_append_eq_of_le (by omega)] | rw [BitVec.extractLsb'_append_eq_of_add_le (by omega)])
  exact BitVec.extractLsb'_eq_self

theorem fld_6_2_3_5_5_11_16 (x0 : BitVec 6) (x1 : BitVec 2) (x2 : BitVec 3) (x3 : BitVec 5) (x4 : BitVec 5) (x5 : BitVec 11) :
    fld (x0 ++ x1 ++ x2 ++ x3 ++ x4 ++ x5) 16 5 = x3 := by
  show BitVec.extractLsb' 16 5 (x0 ++ x1 ++ x2 ++ x3 ++ x4 ++ x5 : BitVec (6 + 2 + 3 + 5 + 5 + 11)) = x3
  repeat (first | rw [BitVec.extractLsb'_append_eq_of_le (by omega)] | rw [BitVec.extractLsb'_append_eq_of_add_le (by omega)])
  exact BitVec.extractLsb'_eq_self

theorem fld_6_2_3_5_5_11_21 (x0 : BitVec 6) (x1 : BitVec 2) (x2 : BitVec 3) (x3 : BitVec 5) (x4 : BitVec 5) (x5 : BitVec 11) :
    fld (x0 ++ x1 ++ x2 ++ x3 ++ x4 ++ x5) 21 3 = x2 := by
  show BitVec.extractLsb' 21 3 (x0 ++ x1 ++ x2 ++ x3 ++ x4 ++ x5 : BitVec (6 + 2 + 3 + 5 + 5 + 11)) = x2
  repeat (first | rw [BitVec.extractLsb'_append_eq_of_le (by omega)] | rw [BitVec.extractLsb'_append_eq_of_add_le (by omega)])
  exact BitVec.extractLsb'_eq_self

theorem fld_6_2_3_5_5_11_24 (x0 : BitVec 6) (x1 : BitVec 2) (x2 : BitVec 3) (x3 : BitVec 5) (x4 : BitVec 5) (x5 : BitVec 11) :
    fld (x0 ++ x1 ++ x2 ++ x3 ++ x4 ++ x5) 24 2 = x1 := by
  show BitVec.extractLsb' 24 2 (x0 ++ x1 ++ x2 ++ x3 ++ x4 ++ x5 : BitVec (6 + 2 + 3 + 5 + 5 + 11)) = x1
  repeat (first | rw [BitVec.extractLsb'_append_eq_of_le (by omega)] | rw [BitVec.extractLsb'_append_eq_of_add_le (by omega)])
  exact BitVec.extractLsb'_eq_self

theorem fld_6_2_3_5_5_11_26 (x0 : BitVec 6) (x1 : BitVec 2) (x2 : BitVec 3) (x3 : BitVec 5) (x4 : BitVec 5) (x5 : BitVec 11) :
    fld (x0 ++ x1 ++ x2 ++ x3 ++ x4 ++ x5) 26 6 = x0 := by
  show BitVec.extractLsb' 26 6 (x0 ++ x1 ++ x2 ++ x3 ++ x4 ++ x5 : BitVec (6 + 2 + 3 + 5 + 5 + 11)) = x0
  repeat (first | rw [BitVec.extractLsb'_append_eq_of_le (by omega)] | rw [BitVec.extractLsb'_append_eq_of_add_le (by omega)])
  exact BitVec.extractLsb'_eq_self

theorem fld_6_2_3_10_11_0 (x0 : BitVec 6) (x1 : BitVec 2) (x2 : BitVec 3) (x3 : BitVec 10) (x4 : BitVec 11) :
    fld (x0 ++ x1 ++ x2 ++ x3 ++ x4) 0 11 = x4 := by
  show BitVec.extractLsb' 0 11 (x0 ++ x1 ++ x2 ++ x3 ++ x4 : BitVec (6 + 2 + 3 + 10 + 11)) = x4
  repeat (first | rw [BitVec.extractLsb'_append_eq_of_le (by omega)] | rw [BitVec.extractLsb'_append_eq_of_add_le (by omega)])
  exact BitVec.extractLsb'_eq_self

theorem fld_6_2_3_10_11_11_5_z3 (x0 : BitVec 6) (x1 : BitVec 2) (x2 : BitVec 3) (x4 : BitVec 11) :
    fld (x0 ++ x1 ++ x2 ++ 0#10 ++ x4) 11 5 = 0#5 := by
  show BitVec.extractLsb' 11 5 (x0 ++ x1 ++ x2 ++ 0#10 ++ x4 : BitVec (6 + 2 + 3 + 10 + 11)) = 0#5
  repeat (first | rw [BitVec.extractLsb'_append_eq_of_le (by omega)] | rw [BitVec.extractLsb'_append_eq_of_add_le (by omega)])
  exact BitVec.extractLsb'_zero

theorem fld_6_2_3_10_11_11 (x0 : BitVec 6) (x1 : BitVec 2) (x2 : BitVec 3) (x3 : BitVec 10) (x4 : BitVec 11) :
    fld (x0 ++ x1 ++ x2 ++ x3 ++ x4) 11 10 = x3 := by
  show BitVec.extractLsb' 11 10 (x0 ++ x1 ++ x2 ++ x3 ++ x4 : BitVec (6 + 2 + 3 + 10 + 11)) = x3
  repeat (first | rw [BitVec.extractLsb'_append_eq_of_le (by omega)] | rw [BitVec.extractLsb'_append_eq_of_add_le (by omega)])
  exact BitVec.extractLsb'_eq_self

theorem fld_6_2_3_10_11_16_3_z3 (x0 : BitVec 6) (x1 : BitVec 2) (x2 : BitVec 3) (x4 : BitVec 11) :
    fld (x0 ++ x1 ++ x2 ++ 0#10 ++ x4) 16 3 = 0#3 := by
  show BitVec.extractLsb' 16 3 (x0 ++ x1 ++ x2 ++ 0#10 ++ x4 : BitVec (6 + 2 + 3 + 10 + 11)) = 0#3
  repeat (first | rw [BitVec.extractLsb'_append_eq_of_le (by omega)] | rw [BitVec.extractLsb'_append_eq_of_add_le (by omega)])
  exact BitVec.extractLsb'_zero

theorem fld_6_2_3_10_11_16_5_z3 (x0 : BitVec 6) (x1 : BitVec 2) (x2 : BitVec 3) (x4 : BitVec 11) :
    fld (x0 ++ x1 ++ x2 ++ 0#10 ++ x4) 16 5 = 0#5 := by
  show BitVec.extractLsb' 16 5 (x0 ++ x1 ++ x2 ++ 0#10 ++ x4 : BitVec (6 + 2 + 3 + 10 + 11)) = 0#5
  repeat (first | rw [BitVec.extractLsb'_append_eq_of_le (by omega)] | rw [BitVec.extractLsb'_append_eq_of_add_le (by omega)])
  exact BitVec.extractLsb'_zero

theorem fld_6_2_3_10_11_19_2_z3 (x0 : BitVec 6) (x1 : BitVec 2) (x2 : BitVec 3) (x4 : BitVec 11) :
    fld (x0 ++ x1 ++ x2 ++ 0#10 ++ x4) 19 2 = 0#2 := by
  show BitVec.extractLsb' 19 2 (x0 ++ x1 ++ x2 ++ 0#10 ++ x4 : BitVec (6 + 2 + 3 + 10 + 11)) = 0#2
  repeat (first | rw [BitVec.extractLsb'_append_eq_of_le (by omega)] | rw [BitVec.extractLsb'_append_eq_of_add_le (by omega)])
  exact BitVec.extractLsb'_zero

theorem fld_6_2_3_10_11_21 (x0 : BitVec 6) (x1 : BitVec 2) (x2 : BitVec 3) (x3 : BitVec 10) (x4 : BitVec 11) :
    fld (x0 ++ x1 ++ x2 ++ x3 ++ x4) 21 3 = x2 := by
  show BitVec.extractLsb' 21 3 (x0 ++ x1 ++ x2 ++ x3 ++ x4 : BitVec (6 + 2 + 3 + 10 + 11)) = x2
  repeat (first | rw [BitVec.extractLsb'_append_eq_of_le (by omega)] | rw [BitVec.extractLsb'_append_eq_of_add_le (by omega)])
  exact BitVec.extractLsb'_eq_self

theorem fld_6_2_3_10_11_24 (x0 : BitVec 6) (x1 : BitVec 2) (x2 : BitVec 3) (x3 : BitVec 10) (x4 : BitVec 11) :
    fld (x0 ++ x1 ++ x2 ++ x3 ++ x4) 24 2 = x1 := by
  show BitVec.extractLsb' 24 2 (x0 ++ x1 ++ x2 ++ x3 ++ x4 : BitVec (6 + 2 + 3 + 10 + 11)) = x1
  repeat (first | rw [BitVec.extractLsb'_append_eq_of_le (by omega)] | rw [BitVec.extractLsb'_append_eq_of_add_le (by omega)])
  exact BitVec.extractLsb'_eq_self

theorem fld_6_2_3_10_11_26 (x0 : BitVec 6) (x1 : BitVec 2) (x2 : BitVec 3) (x3 : BitVec 10) (x4 : BitVec 11) :
    fld (x0 ++ x1 ++ x2 ++ x3 ++ x4) 26 6 = x0 := by
  show BitVec.extractLsb' 26 6 (x0 ++ x1 ++ x2 ++ x3 ++ x4 : BitVec (6 + 2 + 3 + 10 + 11)) = x0
  repeat (first | rw [BitVec.extractLsb'_append_eq_of_le (by omega)] | rw [BitVec.extractLsb'_append_eq_of_add_le (by omega)])
  exact BitVec.extractLsb'_eq_self

theorem fld_6_5_2_3_5_11_0 (x0 : BitVec 6) (x1 : BitVec 5) (x2 : BitVec 2) (x3 : BitVec 3) (x4 : BitVec 5) (x5 : BitVec 11) :
    fld (x0 ++ x1 ++ x2 ++ x3 ++ x4 ++ x5) 0 11 = x5 := by
  show BitVec.extractLsb' 0 11 (x0 ++ x1 ++ x2 ++ x3 ++ x4 ++ x5 : BitVec (6 + 5 + 2 + 3 + 5 + 11)) = x5
  repeat (first | rw [BitVec.extractLsb'_append_eq_of_le (by omega)] | rw [BitVec.extractLsb'_append_eq_of_add_le (by omega)])
  exact BitVec.extractLsb'_eq_self

theorem fld_6_5_2_3_5_11_11 (x0 : BitVec 6) (x1 : BitVec 5) (x2 : BitVec 2) (x3 : BitVec 3) (x4 : BitVec 5) (x5 : BitVec 11) :
    fld (x0 ++ x1 ++ x2 ++ x3 ++ x4 ++ x5) 11 5 = x4 := by
  show BitVec.extractLsb' 11 5 (x0 ++ x1 ++ x2 ++ x3 ++ x4 ++ x5 : BitVec (6 + 5 + 2 + 3 + 5 + 11)) = x4
  repeat (first | rw [BitVec.extractLsb'_append_eq_of_le (by omega)] | rw [BitVec.extractLsb'_append_eq_of_add_le (by omega)])
  exact BitVec.extractLsb'_eq_self

theorem fld_6_5_2_3_5_11_16 (x0 : BitVec 6) (x1 : BitVec 5) (x2 : BitVec 2) (x3 : BitVec 3) (x4 : BitVec 5) (x5 : BitVec 11) :
    fld (x0 ++ x1 ++ x2 ++ x3 ++ x4 ++ x5) 16 3 = x3 := by
  show BitVec.extractLsb' 16 3 (x0 ++ x1 ++ x2 ++ x3 ++ x4 ++ x5 : BitVec (6 + 5 + 2 + 3 + 5 + 11)) = x3
  repeat (first | rw [BitVec.extractLsb'_append_eq_of_le (by omega)] | rw [BitVec.extractLsb'_append_eq_of_add_le (by omega)])
  exact BitVec.extractLsb'_eq_self

theorem fld_6_5_2_3_5_11_19 (x0 : BitVec 6) (x1 : BitVec 5) (x2 : BitVec 2) (x3 : BitVec 3) (x4 : BitVec 5) (x5 : BitVec 11) :
    fld (x0 ++ x1 ++ x2 ++ x3 ++ x4 ++ x5) 19 2 = x2 := by
  show BitVec.extractLsb' 19 2 (x0 ++ x1 ++ x2 ++ x3 ++ x4 ++ x5 : BitVec (6 + 5 + 2 + 3 + 5 + 11)) = x2
  repeat (first | rw [BitVec.extractLsb'_append_eq_of_le (by omega)] | rw [BitVec.extractLsb'_append_eq_of_add_le (by omega)])
  exact BitVec.extractLsb'_eq_self

theorem fld_6_5_2_3_5_11_21 (x0 : BitVec 6) (x1 : BitVec 5) (x2 : BitVec 2) (x3 : BitVec 3) (x4 : BitVec 5) (x5 : BitVec 11) :
    fld (x0 ++ x1 ++ x2 ++ x3 ++ x4 ++ x5) 21 5 = x1 := by
  show BitVec.extractLsb' 21 5 (x0 ++ x1 ++ x2 ++ x3 ++ x4 ++ x5 : BitVec (6 + 5 + 2 + 3 + 5 + 11)) = x1
  repeat (first | rw [BitVec.extractLsb'_append_eq_of_le (by omega)] | rw [BitVec.extractLsb'_append_eq_of_add_le (by omega)])
  exact BitVec.extractLsb'_eq_self

theorem fld_6_5_2_3_5_11_26 (x0 : BitVec 6) (x1 : BitVec 5) (x2 : BitVec 2) (x3 : BitVec 3) (x4 : BitVec 5) (x5 : BitVec 11) :
    fld (x0 ++ x1 ++ x2 ++ x3 ++ x4 ++ x5) 26 6 = x0 := by
  show BitVec.extractLsb' 26 6 (x0 ++ x1 ++ x2 ++ x3 ++ x4 ++ x5 : BitVec (6 + 5 + 2 + 3 + 5 + 11)) = x0
  repeat (first | rw [BitVec.extractLsb'_append_eq_of_le (by omega)] | rw [BitVec.extractLsb'_append_eq_of_add_le (by omega)])
  exact BitVec.extractLsb'_eq_self

theorem fld_6_5_21_0 (x0 : BitVec 6) (x1 : BitVec 5) (x2 : BitVec 21) :
    fld (x0 ++ x1 ++ x2) 0 21 = x2 := by
  show BitVec.extractLsb' 0 21 (x0 ++ x1 ++ x2 : BitVec (6 + 5 + 21)) = x2
  repeat (first | rw [BitVec.extractLsb'_append_eq_of_le (by omega)] | rw [BitVec.extractLsb'_append_eq_of_add_le (by omega)])
  exact BitVec.extractLsb'_eq_self

theorem fld_6_5_21_21 (x0 : BitVec 6) (x1 : BitVec 5) (x2 : BitVec 21) :
    fld (x0 ++ x1 ++ x2) 21 5 = x1 := by
  show BitVec.extractLsb' 21 5 (x0 ++ x1 ++ x2 : BitVec (6 + 5 + 21)) = x1
  repeat (first | rw [BitVec.extractLsb'_append_eq_of_le (by omega)] | rw [BitVec.extractLsb'_append_eq_of_add_le (by omega)])
  exact BitVec.extractLsb'_eq_self

theorem fld_6_5_21_26 (x0 : BitVec 6) (x1 : BitVec 5) (x2 : BitVec 21) :
    fld (x0 ++ x1 ++ x2) 26 6 = x0 := by
  show BitVec.extractLsb' 26 6 (x0 ++ x1 ++ x2 : BitVec (6 + 5 + 21)) = x0
  repeat (first | rw [BitVec.extractLsb'_append_eq_of_le (by omega)] | rw [BitVec.extractLsb'_append_eq_of_add_le (by omega)])
  exact BitVec.extractLsb'_eq_self

theorem fld_6_15_11_0 (x0 : BitVec 6) (x1 : BitVec 15) (x2 : BitVec 11) :
    fld (x0 ++ x1 ++ x2) 0 11 = x2 := by
  show BitVec.extractLsb' 0 11 (x0 ++ x1 ++ x2 : BitVec (6 + 15 + 11)) = x2
  repeat (first | rw [BitVec.extractLsb'_append_eq_of_le (by omega)] | rw [BitVec.extractLsb'_append_eq_of_add_le (by omega)])
  exact BitVec.extractLsb'_eq_self

theorem fld_6_15_11_11_5_z1 (x0 : BitVec 6) (x2 : BitVec 11) :
    fld (x0 ++ 0#15 ++ x2) 11 5 = 0#5 := by
  show BitVec.extractLsb' 11 5 (x0 ++ 0#15 ++ x2 : BitVec (6 + 15 + 11)) = 0#5
  repeat (first | rw [BitVec.extractLsb'_append_eq_of_le (by omega)] | rw [BitVec.extractLsb'_append_eq_of_add_le (by omega)])
  exact BitVec.extractLsb'_zero

theorem fld_6_15_11_11 (x0 : BitVec 6) (x1 : BitVec 15) (x2 : BitVec 11) :
    fld (x0 ++ x1 ++ x2) 11 15 = x1 := by
  show BitVec.extractLsb' 11 15 (x0 ++ x1 ++ x2 : BitVec (6 + 15 + 11)) = x1
  repeat (first | rw [BitVec.extractLsb'_append_eq_of_le (by omega)] | rw [BitVec.extractLsb'_append_eq_of_add_le (by omega)])
  exact BitVec.extractLsb'_eq_self

theorem fld_6_15_11_16_5_z1 (x0 : BitVec 6) (x2 : BitVec 11) :
    fld (x0 ++ 0#15 ++ x2) 16 5 = 0#5 := by
  show BitVec.extractLsb' 16 5 (x0 ++ 0#15 ++ x2 : BitVec (6 + 15 + 11)) = 0#5
  repeat (first | rw [BitVec.extractLsb'_append_eq_of_le (by omega)] | rw [BitVec.extractLsb'_append_eq_of_add_le (by omega)])
  exact BitVec.extractLsb'_zero

theorem fld_6_15_11_21_5_z1 (x0 : BitVec 6) (x2 : BitVec 11) :
    fld (x0 ++ 0#15 ++ x2) 21 5 = 0#5 := by
  show BitVec.extractLsb' 21 5 (x0 ++ 0#15 ++ x2 : BitVec (6 + 15 + 11)) = 0#5
  repeat (first | rw [BitVec.extractLsb'_append_eq_of_le (by omega)] | rw [BitVec.extractLsb'_append_eq_of_add_le (by omega)])
  exact BitVec.extractLsb'_zero

theorem fld_6_15_11_26 (x0 : BitVec 6) (x1 : BitVec 15) (x2 : BitVec 11) :
    fld (x0 ++ x1 ++ x2) 26 6 = x0 := by
  show BitVec.extractLsb' 26 6 (x0 ++ x1 ++ x2 : BitVec (6 + 15 + 11)) = x0
  repeat (first | rw [BitVec.extractLsb'_append_eq_of_le (by omega)] | rw [BitVec.extractLsb'_append_eq_of_add_le (by omega)])
  exact BitVec.extractLsb'_eq_self

theorem fld_6_5_5_5_3_4_4_0 (x0 : BitVec 6) (x1 : BitVec 5) (x2 : BitVec 5) (x3 : BitVec 5) (x4 : BitVec 3) (x5 : BitVec 4) (x6 : BitVec 4) :
    fld (x0 ++ x1 ++ x2 ++ x3 ++ x4 ++ x5 ++ x6) 0 4 = x6 := by
  show BitVec.extractLsb' 0 4 (x0 ++ x1 ++ x2 ++ x3 ++ x4 ++ x5 ++ x6 : BitVec (6 + 5 + 5 + 5 + 3 + 4 + 4)) = x6
  repeat (first | rw [BitVec.extractLsb'_append_eq_of_le (by omega)] | rw [BitVec.extractLsb'_append_eq_of_add_le (by omega)])
  exact BitVec.extractLsb'_eq_self

theorem fld_6_5_5_5_3_4_4_4 (x0 : BitVec 6) (x1 : BitVec 5) (x2 : BitVec 5) (x3 : BitVec 5) (x4 : BitVec 3) (x5 : BitVec 4) (x6 : BitVec 4) :
    fld (x0 ++ x1 ++ x2 ++ x3 ++ x4 ++ x5 ++ x6) 4 4 = x5 := by
  show BitVec.extractLsb' 4 4 (x0 ++ x1 ++ x2 ++ x3 ++ x4 ++ x5 ++ x6 : BitVec (6 + 5 + 5 + 5 + 3 + 4 + 4)) = x5
  repeat (first | rw [BitVec.extractLsb'_append_eq_of_le (by omega)] | rw [BitVec.extractLsb'_append_eq_of_add_le (by omega)])
  exact BitVec.extractLsb'_eq_self

theorem fld_6_5_5_5_3_4_4_8 (x0 : BitVec 6) (x1 : BitVec 5) (x2 : BitVec 5) (x3 : BitVec 5) (x4 : BitVec 3) (x5 : BitVec 4) (x6 : BitVec 4) :
    fld (x0 ++ x1 ++ x2 ++ x3 ++ x4 ++ x5 ++ x6) 8 3 = x4 := by
  show BitVec.extractLsb' 8 3 (x0 ++ x1 ++ x2 ++ x3 ++ x4 ++ x5 ++ x6 : BitVec (6 + 5 + 5 + 5 + 3 + 4 + 4)) = x4
  repeat (first | rw [BitVec.extractLsb'_append_eq_of_le (by omega)] | rw [BitVec.extractLsb'_append_eq_of_add_le (by omega)])
  exact BitVec.extractLsb'_eq_self

theorem fld_6_5_5_5_3_4_4_11 (x0 : BitVec 6) (x1 : BitVec 5) (x2 : BitVec 5) (x3 : BitVec 5) (x4 : BitVec 3) (x5 : BitVec 4) (x6 : BitVec 4) :
    fld (x0 ++ x1 ++ x2 ++ x3 ++ x4 ++ x5 ++ x6) 11 5 = x3 := by
  show BitVec.extractLsb' 11 5 (x0 ++ x1 ++ x2 ++ x3 ++ x4 ++ x5 ++ x6 : BitVec (6 + 5 + 5 + 5 + 3 + 4 + 4)) = x3
  repeat (first | rw [BitVec.extractLsb'_append_eq_of_le (by omega)] | rw [BitVec.extractLsb'_append_eq_of_add_le (by omega)])
  exact BitVec.extractLsb'_eq_self

theorem fld_6_5_5_5_3_4_4_16 (x0 : BitVec 6) (x1 : BitVec 5) (x2 : BitVec 5) (x3 : BitVec 5) (x4 : BitVec 3) (x5 : BitVec 4) (x6 : BitVec 4) :
    fld (x0 ++ x1 ++ x2 ++ x3 ++ x4 ++ x5 ++ x6) 16 5 = x2 := by
  show BitVec.extractLsb' 16 5 (x0 ++ x1 ++ x2 ++ x3 ++ x4 ++ x5 ++ x6 : BitVec (6 + 5 + 5 + 5 + 3 + 4 + 4)) = x2
  repeat (first | rw [BitVec.extractLsb'_append_eq_of_le (by omega)] | rw [BitVec.extractLsb'_append_eq_of_add_le (by omega)])
  exact BitVec.extractLsb'_eq_self

theorem fld_6_5_5_5_3_4_4_21 (x0 : BitVec 6) (x1 : BitVec 5) (x2 : BitVec 5) (x3 : BitVec 5) (x4 : BitVec 3) (x5 : BitVec 4) (x6 : BitVec 4) :
    fld (x0 ++ x1 ++ x2 ++ x3 ++ x4 ++ x5 ++ x6) 21 5 = x1 := by
  show BitVec.extractLsb' 21 5 (x0 ++ x1 ++ x2 ++ x3 ++ x4 ++ x5 ++ x6 : BitVec (6 + 5 + 5 + 5 + 3 + 4 + 4)) = x1
  repeat (first | rw [BitVec.extractLsb'_append_eq_of_le (by omega)] | rw [BitVec.extractLsb'_append_eq_of_add_le (by omega)])
  exact BitVec.extractLsb'_eq_self

theorem fld_6_5_5_5_3_4_4_26 (x0 : BitVec 6) (x1 : BitVec 5) (x2 : BitVec 5) (x3 : BitVec 5) (x4 : BitVec 3) (x5 : BitVec 4) (x6 : BitVec 4) :
    fld (x0 ++ x1 ++ x2 ++ x3 ++ x4 ++ x5 ++ x6) 26 6 = x0 := by
  show BitVec.extractLsb' 26 6 (x0 ++ x1 ++ x2 ++ x3 ++ x4 ++ x5 ++ x6 : BitVec (6 + 5 + 5 + 5 + 3 + 4 + 4)) = x0
  repeat (first | rw [BitVec.extractLsb'_append_eq_of_le (by omega)] | rw [BitVec.extractLsb'_append_eq_of_add_le (by omega)])
  exact BitVec.extractLsb'_eq_self

theorem fld_6_2_3_5_5_3_4_4_0 (x0 : BitVec 6) (x1 : BitVec 2) (x2 : BitVec 3) (x3 : BitVec 5) (x4 : BitVec 5) (x5 : BitVec 3) (x6 : BitVec 4) (x7 : BitVec 4) :
    fld (x0 ++ x1 ++ x2 ++ x3 ++ x4 ++ x5 ++ x6 ++ x7) 0 4 = x7 := by
  show BitVec.extractLsb' 0 4 (x0 ++ x1 ++ x2 ++ x3 ++ x4 ++ x5 ++ x6 ++ x7 : BitVec (6 + 2 + 3 + 5 + 5 + 3 + 4 + 4)) = x7
  repeat (first | rw [BitVec.extractLsb'_append_eq_of_le (by omega)] | rw [BitVec.extractLsb'_append_eq_of_add_le (by omega)])
  exact BitVec.extractLsb'_eq_self

theorem fld_6_2_3_5_5_3_4_4_4 (x0 : BitVec 6) (x1 : BitVec 2) (x2 : BitVec 3) (x3 : BitVec 5) (x4 : BitVec 5) (x5 : BitVec 3) (x6 : BitVec 4) (x7 : BitVec 4) :
    fld (x0 ++ x1 ++ x2 ++ x3 ++ x4 ++ x5 ++ x6 ++ x7) 4 4 = x6 := by
  show BitVec.extractLsb' 4 4 (x0 ++ x1 ++ x2 ++ x3 ++ x4 ++ x5 ++ x6 ++ x7 : BitVec (6 + 2 + 3 + 5 + 5 + 3 + 4 + 4)) = x6
  repeat (first | rw [BitVec.extractLsb'_append_eq_of_le (by omega)] | rw [BitVec.extractLsb'_append_eq_of_add_le (by omega)])
  exact BitVec.extractLsb'_eq_self

theorem fld_6_2_3_5_5_3_4_4_8 (x0 : BitVec 6) (x1 : BitVec 2) (x2 : BitVec 3) (x3 : BitVec 5) (x4 : BitVec 5) (x5 : BitVec 3) (x6 : BitVec 4) (x7 : BitVec 4) :
    fld (x0 ++ x1 ++ x2 ++ x3 ++ x4 ++ x5 ++ x6 ++ x7) 8 3 = x5 := by
  show BitVec.extractLsb' 8 3 (x0 ++ x1 ++ x2 ++ x3 ++ x4 ++ x5 ++ x6 ++ x7 : BitVec (6 + 2 + 3 + 5 + 5 + 3 + 4 + 4)) = x5
  repeat (first | rw [BitVec.extractLsb'_append_eq_of_le (by omega)] | rw [BitVec.extractLsb'_append_eq_of_add_le (by omega)])
  exact BitVec.extractLsb'_eq_self

theorem fld_6_2_3_5_5_3_4_4_11 (x0 : BitVec 6) (x1 : BitVec 2) (x2 : BitVec 3) (x3 : BitVec 5) (x4 : BitVec 5) (x5 : BitVec 3) (x6 : BitVec 4) (x7 : BitVec 4) :
    fld (x0 ++ x1 ++ x2 ++ x3 ++ x4 ++ x5 ++ x6 ++ x7) 11 5 = x4 := by
  show BitVec.extractLsb' 11 5 (x0 ++ x1 ++ x2 ++ x3 ++ x4 ++ x5 ++ x6 ++ x7 : BitVec (6 + 2 + 3 + 5 + 5 + 3 + 4 + 4)) = x4
  repeat (first | rw [BitVec.extractLsb'_append_eq_of_le (by omega)] | rw [BitVec.extractLsb'_append_eq_of_add_le (by omega)])
  exact BitVec.extractLsb'_eq_self

theorem fld_6_2_3_5_5_3_4_4_16 (x0 : BitVec 6) (x1 : BitVec 2) (x2 : BitVec 3) (x3 : BitVec 5) (x4 : BitVec 5) (x5 : BitVec 3) (x6 : BitVec 4) (x7 : BitVec 4) :
    fld (x0 ++ x1 ++ x2 ++ x3 ++ x4 ++ x5 ++ x6 ++ x7) 16 5 = x3 := by
  show BitVec.extractLsb' 16 5 (x0 ++ x1 ++ x2 ++ x3 ++ x4 ++ x5 ++ x6 ++ x7 : BitVec (6 + 2 + 3 + 5 + 5 + 3 + 4 + 4)) = x3
  repeat (first | rw [BitVec.extractLsb'_append_eq_of_le (by omega)] | rw [BitVec.extractLsb'_append_eq_of_add_le (by omega)])
  exact BitVec.extractLsb'_eq_self

theorem fld_6_2_3_5_5_3_4_4_21 (x0 : BitVec 6) (x1 : BitVec 2) (x2 : BitVec 3) (x3 : BitVec 5) (x4 : BitVec 5) (x5 : BitVec 3) (x6 : BitVec 4) (x7 : BitVec 4) :
    fld (x0 ++ x1 ++ x2 ++ x3 ++ x4 ++ x5 ++ x6 ++ x7) 21 3 = x2 := by
  show BitVec.extractLsb' 21 3 (x0 ++ x1 ++ x2 ++ x3 ++ x4 ++ x5 ++ x6 ++ x7 : BitVec (6 + 2 + 3 + 5 + 5 + 3 + 4 + 4)) = x2
  repeat (first | rw [BitVec.extractLsb'_append_eq_of_le (by omega)] | rw [BitVec.extractLsb'_append_eq_of_add_le (by omega)])
  exact BitVec.extractLsb'_eq_self

theorem fld_6_2_3_5_5_3_4_4_24 (x0 : BitVec 6) (x1 : BitVec 2) (x2 : BitVec 3) (x3 : BitVec 5) (x4 : BitVec 5) (x5 : BitVec 3) (x6 : BitVec 4) (x7 : BitVec 4) :
    fld (x0 ++ x1 ++ x2 ++ x3 ++ x4 ++ x5 ++ x6 ++ x7) 24 2 = x1 := by
  show BitVec.extractLsb' 24 2 (x0 ++ x1 ++ x2 ++ x3 ++ x4 ++ x5 ++ x6 ++ x7 : BitVec (6 + 2 + 3 + 5 + 5 + 3 + 4 + 4)) = x1
  repeat (first | rw [BitVec.extractLsb'_append_eq_of_le (by omega)] | rw [BitVec.extractLsb'_append_eq_of_add_le (by omega)])
  exact BitVec.extractLsb'_eq_self

theorem fld_6_2_3_5_5_3_4_4_26 (x0 : BitVec 6) (x1 : BitVec 2) (x2 : BitVec 3) (x3 : BitVec 5) (x4 : BitVec 5) (x5 : BitVec 3) (x6 : BitVec 4) (x7 : BitVec 4) :
    fld (x0 ++ x1 ++ x2 ++ x3 ++ x4 ++ x5 ++ x6 ++ x7) 26 6 = x0 := by
  show BitVec.extractLsb' 26 6 (x0 ++ x1 ++ x2 ++ x3 ++ x4 ++ x5 ++ x6 ++ x7 : BitVec (6 + 2 + 3 + 5 + 5 + 3 + 4 + 4)) = x0
  repeat (first | rw [BitVec.extractLsb'_append_eq_of_le (by omega)] | rw [BitVec.extractLsb'_append_eq_of_add_le (by omega)])
  exact BitVec.extractLsb'_eq_self

theorem fld_6_2_3_2_3_2_3_7_4_0 (x0 : BitVec 6) (x1 : BitVec 2) (x2 : BitVec 3) (x3 : BitVec 2) (x4 : BitVec 3) (x5 : BitVec 2) (x6 : BitVec 3) (x7 : BitVec 7) (x8 : BitVec 4) :
    fld (x0 ++ x1 ++ x2 ++ x3 ++ x4 ++ x5 ++ x6 ++ x7 ++ x8) 0 4 = x8 := by
  show BitVec.extractLsb' 0 4 (x0 ++ x1 ++ x2 ++ x3 ++ x4 ++ x5 ++ x6 ++ x7 ++ x8 : BitVec (6 + 2 + 3 + 2 + 3 + 2 + 3 + 7 + 4)) = x8
  repeat (first | rw [BitVec.extractLsb'_append_eq_of_le (by omega)] | rw [BitVec.extractLsb'_append_eq_of_add_le (by omega)])
  exact BitVec.extractLsb'_eq_self

theorem fld_6_2_3_2_3_2_3_7_4_4_4_z7 (x0 : BitVec 6) (x1 : BitVec 2) (x2 : BitVec 3) (x3 : BitVec 2) (x4 : BitVec 3) (x5 : BitVec 2) (x6 : BitVec 3) (x8 : BitVec 4) :
    fld (x0 ++ x1 ++ x2 ++ x3 ++ x4 ++ x5 ++ x6 ++ 0#7 ++ x8) 4 4 = 0#4 := by
  show BitVec.extractLsb' 4 4 (x0 ++ x1 ++ x2 ++ x3 ++ x4 ++ x5 ++ x6 ++ 0#7 ++ x8 : BitVec (6 + 2 + 3 + 2 + 3 + 2 + 3 + 7 + 4)) = 0#4
  repeat (first | rw [BitVec.extractLsb'_append_eq_of_le (by omega)] | rw [BitVec.extractLsb'_append_eq_of_add_le (by omega)])
  exact BitVec.extractLsb'_zero

theorem fld_6_2_3_2_3_2_3_7_4_4 (x0 : BitVec 6) (x1 : BitVec 2) (x2 : BitVec 3) (x3 : BitVec 2) (x4 : BitVec 3) (x5 : BitVec 2) (x6 : BitVec 3) (x7 : BitVec 7) (x8 : BitVec 4) :
    fld (x0 ++ x1 ++ x2 ++ x3 ++ x4 ++ x5 ++ x6 ++ x7 ++ x8) 4 7 = x7 := by
  show BitVec.extractLsb' 4 7 (x0 ++ x1 ++ x2 ++ x3 ++ x4 ++ x5 ++ x6 ++ x7 ++ x8 : BitVec (6 + 2 + 3 + 2 + 3 + 2 + 3 + 7 + 4)) = x7
  repeat (first | rw [BitVec.extractLsb'_append_eq_of_le (by omega)] | rw [BitVec.extractLsb'_append_eq_of_add_le (by omega)])
  exact BitVec.extractLsb'_eq_self

theorem fld_6_2_3_2_3_2_3_7_4_8_3_z7 (x0 : BitVec 6) (x1 : BitVec 2) (x2 : BitVec 3) (x3 : BitVec 2) (x4 : BitVec 3) (x5 : BitVec 2) (x6 : BitVec 3) (x8 : BitVec 4) :
    fld (x0 ++ x1 ++ x2 ++ x3 ++ x4 ++ x5 ++ x6 ++ 0#7 ++ x8) 8 3 = 0#3 := by
  show BitVec.extractLsb' 8 3 (x0 ++ x1 ++ x2 ++ x3 ++ x4 ++ x5 ++ x6 ++ 0#7 ++ x8 : BitVec (6 + 2 + 3 + 2 + 3 + 2 + 3 + 7 + 4)) = 0#3
  repeat (first | rw [BitVec.extractLsb'_append_eq_of_le (by omega)] | rw [BitVec.extractLsb'_append_eq_of_add_le (by omega)])
  exact BitVec.extractLsb'_zero

theorem fld_6_2_3_2_3_2_3_7_4_11 (x0 : BitVec 6) (x1 : BitVec 2) (x2 : BitVec 3) (x3 : BitVec 2) (x4 : BitVec 3) (x5 : BitVec 2) (x6 : BitVec 3) (x7 : BitVec 7) (x8 : BitVec 4) :
    fld (x0 ++ x1 ++ x2 ++ x3 ++ x4 ++ x5 ++ x6 ++ x7 ++ x8) 11 3 = x6 := by
  show BitVec.extractLsb' 11 3 (x0 ++ x1 ++ x2 ++ x3 ++ x4 ++ x5 ++ x6 ++ x7 ++ x8 : BitVec (6 + 2 + 3 + 2 + 3 + 2 + 3 + 7 + 4)) = x6
  repeat (first | rw [BitVec.extractLsb'_append_eq_of_le (by omega)] | rw [BitVec.extractLsb'_append_eq_of_add_le (by omega)])
  exact BitVec.extractLsb'_eq_self

theorem fld_6_2_3_2_3_2_3_7_4_14 (x0 : BitVec 6) (x1 : BitVec 2) (x2 : BitVec 3) (x3 : BitVec 2) (x4 : BitVec 3) (x5 : BitVec 2) (x6 : BitVec 3) (x7 : BitVec 7) (x8 : BitVec 4) :
    fld (x0 ++ x1 ++ x2 ++ x3 ++ x4 ++ x5 ++ x6 ++ x7 ++ x8) 14 2 = x5 := by
  show BitVec.extractLsb' 14 2 (x0 ++ x1 ++ x2 ++ x3 ++ x4 ++ x5 ++ x6 ++ x7 ++ x8 : BitVec (6 + 2 + 3 + 2 + 3 + 2 + 3 + 7 + 4)) = x5
  repeat (first | rw [BitVec.extractLsb'_append_eq_of_le (by omega)] | rw [BitVec.extractLsb'_append_eq_of_add_le (by omega)])
  exact BitVec.extractLsb'_eq_self

theorem fld_6_2_3_2_3_2_3_7_4_16 (x0 : BitVec 6) (x1 : BitVec 2) (x2 : BitVec 3) (x3 : BitVec 2) (x4 : BitVec 3) (x5 : BitVec 2) (x6 : BitVec 3) (x7 : BitVec 7) (x8 : BitVec 4) :
    fld (x0 ++ x1 ++ x2 ++ x3 ++ x4 ++ x5 ++ x6 ++ x7 ++ x8) 16 3 = x4 := by
  show BitVec.extractLsb' 16 3 (x0 ++ x1 ++ x2 ++ x3 ++ x4 ++ x5 ++ x6 ++ x7 ++ x8 : BitVec (6 + 2 + 3 + 2 + 3 + 2 + 3 + 7 + 4)) = x4
  repeat (first | rw [BitVec.extractLsb'_append_eq_of_le (by omega)] | rw [BitVec.extractLsb'_append_eq_of_add_le (by omega)])
  exact BitVec.extractLsb'_eq_self

theorem fld_6_2_3_2_3_2_3_7_4_19 (x0 : BitVec 6) (x1 : BitVec 2) (x2 : BitVec 3) (x3 : BitVec 2) (x4 : BitVec 3) (x5 : BitVec 2) (x6 : BitVec 3) (x7 : BitVec 7) (x8 : BitVec 4) :
    fld (x0 ++ x1 ++ x2 ++ x3 ++ x4 ++ x5 ++ x6 ++ x7 ++ x8) 19 2 = x3 := by
  show BitVec.extractLsb' 19 2 (x0 ++ x1 ++ x2 ++ x3 ++ x4 ++ x5 ++ x6 ++ x7 ++ x8 : BitVec (6 + 2 + 3 + 2 + 3 + 2 + 3 + 7 + 4)) = x3
  repeat (first | rw [BitVec.extractLsb'_append_eq_of_le (by omega)] | rw [BitVec.extractLsb'_append_eq_of_add_le (by omega)])
  exact BitVec.extractLsb'_eq_self

theorem fld_6_2_3_2_3_2_3_7_4_21 (x0 : BitVec 6) (x1 : BitVec 2) (x2 : BitVec 3) (x3 : BitVec 2) (x4 : BitVec 3) (x5 : BitVec 2) (x6 : BitVec 3) (x7 : BitVec 7) (x8 : BitVec 4) :
    fld (x0 ++ x1 ++ x2 ++ x3 ++ x4 ++ x5 ++ x6 ++ x7 ++ x8) 21 3 = x2 := by
  show BitVec.extractLsb' 21 3 (x0 ++ x1 ++ x2 ++ x3 ++ x4 ++ x5 ++ x6 ++ x7 ++ x8 : BitVec (6 + 2 + 3 + 2 + 3 + 2 + 3 + 7 + 4)) = x2
  repeat (first | rw [BitVec.extractLsb'_append_eq_of_le (by omega)] | rw [BitVec.extractLsb'_append_eq_of_add_le (by omega)])
  exact BitVec.extractLsb'_eq_self

theorem fld_6_2_3_2_3_2_3_7_4_24 (x0 : BitVec 6) (x1 : BitVec 2) (x2 : BitVec 3) (x3 : BitVec 2) (x4 : BitVec 3) (x5 : BitVec 2) (x6 : BitVec 3) (x7 : BitVec 7) (x8 : BitVec 4) :
    fld (x0 ++ x1 ++ x2 ++ x3 ++ x4 ++ x5 ++ x6 ++ x7 ++ x8) 24 2 = x1 := by
  show BitVec.extractLsb' 24 2 (x0 ++ x1 ++ x2 ++ x3 ++ x4 ++ x5 ++ x6 ++ x7 ++ x8 : BitVec (6 + 2 + 3 + 2 + 3 + 2 + 3 + 7 + 4)) = x1
  repeat (first | rw [BitVec.extractLsb'_append_eq_of_le (by omega)] | rw [BitVec.extractLsb'_append_eq_of_add_le (by omega)])
  exact BitVec.extractLsb'_eq_self

theorem fld_6_2_3_2_3_2_3_7_4_26 (x0 : BitVec 6) (x1 : BitVec 2) (x2 : BitVec 3) (x3 : BitVec 2) (x4 : BitVec 3) (x5 : BitVec 2) (x6 : BitVec 3) (x7 : BitVec 7) (x8 : BitVec 4) :
    fld (x0 ++ x1 ++ x2 ++ x3 ++ x4 ++ x5 ++ x6 ++ x7 ++ x8) 26 6 = x0 := by
  show BitVec.extractLsb' 26 6 (x0 ++ x1 ++ x2 ++ x3 ++ x4 ++ x5 ++ x6 ++ x7 ++ x8 : BitVec (6 + 2 + 3 + 2 + 3 + 2 + 3 + 7 + 4)) = x0
  repeat (first | rw [BitVec.extractLsb'_append_eq_of_le (by omega)] | rw [BitVec.extractLsb'_append_eq_of_add_le (by omega)])
  exact BitVec.extractLsb'_eq_self

theorem fld_6_2_3_2_3_12_4_0 (x0 : BitVec 6) (x1 : BitVec 2) (x2 : BitVec 3) (x3 : BitVec 2) (x4 : BitVec 3) (x5 : BitVec 12) (x6 : BitVec 4) :
    fld (x0 ++ x1 ++ x2 ++ x3 ++ x4 ++ x5 ++ x6) 0 4 = x6 := by
  show BitVec.extractLsb' 0 4 (x0 ++ x1 ++ x2 ++ x3 ++ x4 ++ x5 ++ x6 : BitVec (6 + 2 + 3 + 2 + 3 + 12 + 4)) = x6
  repeat (first | rw [BitVec.extractLsb'_append_eq_of_le (by omega)] | rw [BitVec.extractLsb'_append_eq_of_add_le (by omega)])
  exact BitVec.extractLsb'_eq_self

theorem fld_6_2_3_2_3_12_4_4_4_z5 (x0 : BitVec 6) (x1 : BitVec 2) (x2 : BitVec 3) (x3 : BitVec 2) (x4 : BitVec 3) (x6 : BitVec 4) :
    fld (x0 ++ x1 ++ x2 ++ x3 ++ x4 ++ 0#12 ++ x6) 4 4 = 0#4 := by
  show BitVec.extractLsb' 4 4 (x0 ++ x1 ++ x2 ++ x3 ++ x4 ++ 0#12 ++ x6 : BitVec (6 + 2 + 3 + 2 + 3 + 12 + 4)) = 0#4
  repeat (first | rw [BitVec.extractLsb'_append_eq_of_le (by omega)] | rw [BitVec.extractLsb'_append_eq_of_add_le (by omega)])
  exact BitVec.extractLsb'_zero

theorem fld_6_2_3_2_3_12_4_4_7_z5 (x0 : BitVec 6) (x1 : BitVec 2) (x2 : BitVec 3) (x3 : BitVec 2) (x4 : BitVec 3) (x6 : BitVec 4) :
    fld (x0 ++ x1 ++ x2 ++ x3 ++ x4 ++ 0#12 ++ x6) 4 7 = 0#7 := by
  show BitVec.extractLsb' 4 7 (x0 ++ x1 ++ x2 ++ x3 ++ x4 ++ 0#12 ++ x6 : BitVec (6 + 2 + 3 + 2 + 3 + 12 + 4)) = 0#7
  repeat (first | rw [BitVec.extractLsb'_append_eq_of_le (by omega)] | rw [BitVec.extractLsb'_append_eq_of_add_le (by omega)])
  exact BitVec.extractLsb'_zero

theorem fld_6_2_3_2_3_12_4_4 (x0 : BitVec 6) (x1 : BitVec 2) (x2 : BitVec 3) (x3 : BitVec 2) (x4 : BitVec 3) (x5 : BitVec 12) (x6 : BitVec 4) :
    fld (x0 ++ x1 ++ x2 ++ x3 ++ x4 ++ x5 ++ x6) 4 12 = x5 := by
  show BitVec.extractLsb' 4 12 (x0 ++ x1 ++ x2 ++ x3 ++ x4 ++ x5 ++ x6 : BitVec (6 + 2 + 3 + 2 + 3 + 12 + 4)) = x5
  repeat (first | rw [BitVec.extractLsb'_append_eq_of_le (by omega)] | rw [BitVec.extractLsb'_append_eq_of_add_le (by omega)])
  exact BitVec.extractLsb'_eq_self

theorem fld_6_2_3_2_3_12_4_8_3_z5 (x0 : BitVec 6) (x1 : BitVec 2) (x2 : BitVec 3) (x3 : BitVec 2) (x4 : BitVec 3) (x6 : BitVec 4) :
    fld (x0 ++ x1 ++ x2 ++ x3 ++ x4 ++ 0#12 ++ x6) 8 3 = 0#3 := by
  show BitVec.extractLsb' 8 3 (x0 ++ x1 ++ x2 ++ x3 ++ x4 ++ 0#12 ++ x6 : BitVec (6 + 2 + 3 + 2 + 3 + 12 + 4)) = 0#3
  repeat (first | rw [BitVec.extractLsb'_append_eq_of_le (by omega)] | rw [BitVec.extractLsb'_append_eq_of_add_le (by omega)])
  exact BitVec.extractLsb'_zero

theorem fld_6_2_3_2_3_12_4_11_3_z5 (x0 : BitVec 6) (x1 : BitVec 2) (x2 : BitVec 3) (x3 : BitVec 2) (x4 : BitVec 3) (x6 : BitVec 4) :
    fld (x0 ++ x1 ++ x2 ++ x3 ++ x4 ++ 0#12 ++ x6) 11 3 = 0#3 := by
  show BitVec.extractLsb' 11 3 (x0 ++ x1 ++ x2 ++ x3 ++ x4 ++ 0#12 ++ x6 : BitVec (6 + 2 + 3 + 2 + 3 + 12 + 4)) = 0#3
  repeat (first | rw [BitVec.extractLsb'_append_eq_of_le (by omega)] | rw [BitVec.extractLsb'_append_eq_of_add_le (by omega)])
  exact BitVec.extractLsb'_zero

theorem fld_6_2_3_2_3_12_4_11_5_z5 (x0 : BitVec 6) (x1 : BitVec 2) (x2 : BitVec 3) (x3 : BitVec 2) (x4 : BitVec 3) (x6 : BitVec 4) :
    fld (x0 ++ x1 ++ x2 ++ x3 ++ x4 ++ 0#12 ++ x6) 11 5 = 0#5 := by
  show BitVec.extractLsb' 11 5 (x0 ++ x1 ++ x2 ++ x3 ++ x4 ++ 0#12 ++ x6 : BitVec (6 + 2 + 3 + 2 + 3 + 12 + 4)) = 0#5
  repeat (first | rw [BitVec.extractLsb'_append_eq_of_le (by omega)] | rw [BitVec.extractLsb'_append_eq_of_add_le (by omega)])
  exact BitVec.extractLsb'_zero

theorem fld_6_2_3_2_3_12_4_14_2_z5 (x0 : BitVec 6) (x1 : BitVec 2) (x2 : BitVec 3) (x3 : BitVec 2) (x4 : BitVec 3) (x6 : BitVec 4) :
    fld (x0 ++ x1 ++ x2 ++ x3 ++ x4 ++ 0#12 ++ x6) 14 2 = 0#2 := by
  show BitVec.extractLsb' 14 2 (x0 ++ x1 ++ x2 ++ x3 ++ x4 ++ 0#12 ++ x6 : BitVec (6 + 2 + 3 + 2 + 3 + 12 + 4)) = 0#2
  repeat (first | rw [BitVec.extractLsb'_append_eq_of_le (by omega)] | rw [BitVec.extractLsb'_append_eq_of_add_le (by omega)])
  exact BitVec.extractLsb'_zero

theorem fld_6_2_3_2_3_12_4_16 (x0 : BitVec 6) (x1 : BitVec 2) (x2 : BitVec 3) (x3 : BitVec 2) (x4 : BitVec 3) (x5 : BitVec 12) (x6 : BitVec 4) :
    fld (x0 ++ x1 ++ x2 ++ x3 ++ x4 ++ x5 ++ x6) 16 3 = x4 := by
  show BitVec.extractLsb' 16 3 (x0 ++ x1 ++ x2 ++ x3 ++ x4 ++ x5 ++ x6 : BitVec (6 + 2 + 3 + 2 + 3 + 12 + 4)) = x4
  repeat (first | rw [BitVec.extractLsb'_append_eq_of_le (by omega)] | rw [BitVec.extractLsb'_append_eq_of_add_le (by omega)])
  exact BitVec.extractLsb'_eq_self

theorem fld_6_2_3_2_3_12_4_19 (x0 : BitVec 6) (x1 : BitVec 2) (x2 : BitVec 3) (x3 : BitVec 2) (x4 : BitVec 3) (x5 : BitVec 12) (x6 : BitVec 4) :
    fld (x0 ++ x1 ++ x2 ++ x3 ++ x4 ++ x5 ++ x6) 19 2 = x3 := by
  show BitVec.extractLsb' 19 2 (x0 ++ x1 ++ x2 ++ x3 ++ x4 ++ x5 ++ x6 : BitVec (6 + 2 + 3 + 2 + 3 + 12 + 4)) = x3
  repeat (first | rw [BitVec.extractLsb'_append_eq_of_le (by omega)] | rw [BitVec.extractLsb'_append_eq_of_add_le (by omega)])
  exact BitVec.extractLsb'_eq_self

theorem fld_6_2_3_2_3_12_4_21 (x0 : BitVec 6) (x1 : BitVec 2) (x2 : BitVec 3) (x3 : BitVec 2) (x4 : BitVec 3) (x5 : BitVec 12) (x6 : BitVec 4) :
    fld (x0 ++ x1 ++ x2 ++ x3 ++ x4 ++ x5 ++ x6) 21 3 = x2 := by
  show BitVec.extractLsb' 21 3 (x0 ++ x1 ++ x2 ++ x3 ++ x4 ++ x5 ++ x6 : BitVec (6 + 2 + 3 + 2 + 3 + 12 + 4)) = x2
  repeat (first | rw [BitVec.extractLsb'_append_eq_of_le (by omega)] | rw [BitVec.extractLsb'_append_eq_of_add_le (by omega)])
  exact BitVec.extractLsb'_eq_self

theorem fld_6_2_3_2_3_12_4_24 (x0 : BitVec 6) (x1 : BitVec 2) (x2 : BitVec 3) (x3 : BitVec 2) (x4 : BitVec 3) (x5 : BitVec 12) (x6 : BitVec 4) :
    fld (x0 ++ x1 ++ x2 ++ x3 ++ x4 ++ x5 ++ x6) 24 2 = x1 := by
  show BitVec.extractLsb' 24 2 (x0 ++ x1 ++ x2 ++ x3 ++ x4 ++ x5 ++ x6 : BitVec (6 + 2 + 3 + 2 + 3 + 12 + 4)) = x1
  repeat (first | rw [BitVec.extractLsb'_append_eq_of_le (by omega)] | rw [BitVec.extractLsb'_append_eq_of_add_le (by omega)])
  exact BitVec.extractLsb'_eq_self

theorem fld_6_2_3_2_3_12_4_26 (x0 : BitVec 6) (x1 : BitVec 2) (x2 : BitVec 3) (x3 : BitVec 2) (x4 : BitVec 3) (x5 : BitVec 12) (x6 : BitVec 4) :
    fld (x0 ++ x1 ++ x2 ++ x3 ++ x4 ++ x5 ++ x6) 26 6 = x0 := by
  show BitVec.extractLsb' 26 6 (x0 ++ x1 ++ x2 ++ x3 ++ x4 ++ x5 ++ x6 : BitVec (6 + 2 + 3 + 2 + 3 + 12 + 4)) = x0
  repeat (first | rw [BitVec.extractLsb'_append_eq_of_le (by omega)] | rw [BitVec.extractLsb'_append_eq_of_add_le (by omega)])
  exact BitVec.extractLsb'_eq_self

theorem fld_6_2_3_5_12_4_0 (x0 : BitVec 6) (x1 : BitVec 2) (x2 : BitVec 3) (x3 : BitVec 5) (x4 : BitVec 12) (x5 : BitVec 4) :
    fld (x0 ++ x1 ++ x2 ++ x3 ++ x4 ++ x5) 0 4 = x5 := by
  show BitVec.extractLsb' 0 4 (x0 ++ x1 ++ x2 ++ x3 ++ x4 ++ x5 : BitVec (6 + 2 + 3 + 5 + 12 + 4)) = x5
  repeat (first | rw [BitVec.extractLsb'_append_eq_of_le (by omega)] | rw [BitVec.extractLsb'_append_eq_of_add_le (by omega)])
  exact BitVec.extractLsb'_eq_self

theorem fld_6_2_3_5_12_4_4_4_z4 (x0 : BitVec 6) (x1 : BitVec 2) (x2 : BitVec 3) (x3 : BitVec 5) (x5 : BitVec 4) :
    fld (x0 ++ x1 ++ x2 ++ x3 ++ 0#12 ++ x5) 4 4 = 0#4 := by
  show BitVec.extractLsb' 4 4 (x0 ++ x1 ++ x2 ++ x3 ++ 0#12 ++ x5 : BitVec (6 + 2 + 3 + 5 + 12 + 4)) = 0#4
  repeat (first | rw [BitVec.extractLsb'_append_eq_of_le (by omega)] | rw [BitVec.extractLsb'_append_eq_of_add_le (by omega)])
  exact BitVec.extractLsb'_zero

theorem fld_6_2_3_5_12_4_4_7_z4 (x0 : BitVec 6) (x1 : BitVec 2) (x2 : BitVec 3) (x3 : BitVec 5) (x5 : BitVec 4) :
    fld (x0 ++ x1 ++ x2 ++ x3 ++ 0#12 ++ x5) 4 7 = 0#7 := by
  show BitVec.extractLsb' 4 7 (x0 ++ x1 ++ x2 ++ x3 ++ 0#12 ++ x5 : BitVec (6 + 2 + 3 + 5 + 12 + 4)) = 0#7
  repeat (first | rw [BitVec.extractLsb'_append_eq_of_le (by omega)] | rw [BitVec.extractLsb'_append_eq_of_add_le (by omega)])
  exact BitVec.extractLsb'_zero

theorem fld_6_2_3_5_12_4_4 (x0 : BitVec 6) (x1 : BitVec 2) (x2 : BitVec 3) (x3 : BitVec 5) (x4 : BitVec 12) (x5 : BitVec 4) :
    fld (x0 ++ x1 ++ x2 ++ x3 ++ x4 ++ x5) 4 12 = x4 := by
  show BitVec.extractLsb' 4 12 (x0 ++ x1 ++ x2 ++ x3 ++ x4 ++ x5 : BitVec (6 + 2 + 3 + 5 + 12 + 4)) = x4
  repeat (first | rw [BitVec.extractLsb'_append_eq_of_le (by omega)] | rw [BitVec.extractLsb'_append_eq_of_add_le (by omega)])
  exact BitVec.extractLsb'_eq_self

theorem fld_6_2_3_5_12_4_8_3_z4 (x0 : BitVec 6) (x1 : BitVec 2) (x2 : BitVec 3) (x3 : BitVec 5) (x5 : BitVec 4) :
    fld (x0 ++ x1 ++ x2 ++ x3 ++ 0#12 ++ x5) 8 3 = 0#3 := by
  show BitVec.extractLsb' 8 3 (x0 ++ x1 ++ x2 ++ x3 ++ 0#12 ++ x5 : BitVec (6 + 2 + 3 + 5 + 12 + 4)) = 0#3
  repeat (first | rw [BitVec.extractLsb'_append_eq_of_le (by omega)] | rw [BitVec.extractLsb'_append_eq_of_add_le (by omega)])
  exact BitVec.extractLsb'_zero

theorem fld_6_2_3_5_12_4_11_3_z4 (x0 : BitVec 6) (x1 : BitVec 2) (x2 : BitVec 3) (x3 : BitVec 5) (x5 : BitVec 4) :
    fld (x0 ++ x1 ++ x2 ++ x3 ++ 0#12 ++ x5) 11 3 = 0#3 := by
  show BitVec.extractLsb' 11 3 (x0 ++ x1 ++ x2 ++ x3 ++ 0#12 ++ x5 : BitVec (6 + 2 + 3 + 5 + 12 + 4)) = 0#3
  repeat (first | rw [BitVec.extractLsb'_append_eq_of_le (by omega)] | rw [BitVec.extractLsb'_append_eq_of_add_le (by omega)])
  exact BitVec.extractLsb'_zero

theorem fld_6_2_3_5_12_4_11_5_z4 (x0 : BitVec 6) (x1 : BitVec 2) (x2 : BitVec 3) (x3 : BitVec 5) (x5 : BitVec 4) :
    fld (x0 ++ x1 ++ x2 ++ x3 ++ 0#12 ++ x5) 11 5 = 0#5 := by
  show BitVec.extractLsb' 11 5 (x0 ++ x1 ++ x2 ++ x3 ++ 0#12 ++ x5 : BitVec (6 + 2 + 3 + 5 + 12 + 4)) = 0#5
  repeat (first | rw [BitVec.extractLsb'_append_eq_of_le (by omega)] | rw [BitVec.extractLsb'_append_eq_of_add_le (by omega)])
  exact BitVec.extractLsb'_zero

theorem fld_6_2_3_5_12_4_14_2_z4 (x0 : BitVec 6) (x1 : BitVec 2) (x2 : BitVec 3) (x3 : BitVec 5) (x5 : BitVec 4) :
    fld (x0 ++ x1 ++ x2 ++ x3 ++ 0#12 ++ x5) 14 2 = 0#2 := by
  show BitVec.extractLsb' 14 2 (x0 ++ x1 ++ x2 ++ x3 ++ 0#12 ++ x5 : BitVec (6 + 2 + 3 + 5 + 12 + 4)) = 0#2
  repeat (first | rw [BitVec.extractLsb'_append_eq_of_le (by omega)] | rw [BitVec.extractLsb'_append_eq_of_add_le (by omega)])
  exact BitVec.extractLsb'_zero

theorem fld_6_2_3_5_12_4_16 (x0 : BitVec 6) (x1 : BitVec 2) (x2 : BitVec 3) (x3 : BitVec 5) (x4 : BitVec 12) (x5 : BitVec 4) :
    fld (x0 ++ x1 ++ x2 ++ x3 ++ x4 ++ x5) 16 5 = x3 := by
  show BitVec.extractLsb' 16 5 (x0 ++ x1 ++ x2 ++ x3 ++ x4 ++ x5 : BitVec (6 + 2 + 3 + 5 + 12 + 4)) = x3
  repeat (first | rw [BitVec.extractLsb'_append_eq_of_le (by omega)] | rw [BitVec.extractLsb'_append_eq_of_add_le (by omega)])
  exact BitVec.extractLsb'_eq_self

theorem fld_6_2_3_5_12_4_21 (x0 : BitVec 6) (x1 : BitVec 2) (x2 : BitVec 3) (x3 : BitVec 5) (x4 : BitVec 12) (x5 : BitVec 4) :
    fld (x0 ++ x1 ++ x2 ++ x3 ++ x4 ++ x5) 21 3 = x2 := by
  show BitVec.extractLsb' 21 3 (x0 ++ x1 ++ x2 ++ x3 ++ x4 ++ x5 : BitVec (6 + 2 + 3 + 5 + 12 + 4)) = x2
  repeat (first | rw [BitVec.extractLsb'_append_eq_of_le (by omega)] | rw [BitVec.extractLsb'_append_eq_of_add_le (by omega)])
  exact BitVec.extractLsb'_eq_self

theorem fld_6_2_3_5_12_4_24 (x0 : BitVec 6) (x1 : BitVec 2) (x2 : BitVec 3) (x3 : BitVec 5) (x4 : BitVec 12) (x5 : BitVec 4) :
    fld (x0 ++ x1 ++ x2 ++ x3 ++ x4 ++ x5) 24 2 = x1 := by
  show BitVec.extractLsb' 24 2 (x0 ++ x1 ++ x2 ++ x3 ++ x4 ++ x5 : BitVec (6 + 2 + 3 + 5 + 12 + 4)) = x1
  repeat (first | rw [BitVec.extractLsb'_append_eq_of_le (by omega)] | rw [BitVec.extractLsb'_append_eq_of_add_le (by omega)])
  exact BitVec.extractLsb'_eq_self

theorem fld_6_2_3_5_12_4_26 (x0 : BitVec 6) (x1 : BitVec 2) (x2 : BitVec 3) (x3 : BitVec 5) (x4 : BitVec 12) (x5 : BitVec 4) :
    fld (x0 ++ x1 ++ x2 ++ x3 ++ x4 ++ x5) 26 6 = x0 := by
  show BitVec.extractLsb' 26 6 (x0 ++ x1 ++ x2 ++ x3 ++ x4 ++ x5 : BitVec (6 + 2 + 3 + 5 + 12 + 4)) = x0
  repeat (first | rw [BitVec.extractLsb'_append_eq_of_le (by omega)] | rw [BitVec.extractLsb'_append_eq_of_add_le (by omega)])
  exact BitVec.extractLsb'_eq_self

theorem fld_6_5_2_3_12_4_0 (x0 : BitVec 6) (x1 : BitVec 5) (x2 : BitVec 2) (x3 : BitVec 3) (x4 : BitVec 12) (x5 : BitVec 4) :
    fld (x0 ++ x1 ++ x2 ++ x3 ++ x4 ++ x5) 0 4 = x5 := by
  show BitVec.extractLsb' 0 4 (x0 ++ x1 ++ x2 ++ x3 ++ x4 ++ x5 : BitVec (6 + 5 + 2 + 3 + 12 + 4)) = x5
  repeat (first | rw [BitVec.extractLsb'_append_eq_of_le (by omega)] | rw [BitVec.extractLsb'_append_eq_of_add_le (by omega)])
  exact BitVec.extractLsb'_eq_self

theorem fld_6_5_2_3_12_4_4_4_z4 (x0 : BitVec 6) (x1 : BitVec 5) (x2 : BitVec 2) (x3 : BitVec 3) (x5 : BitVec 4) :
    fld (x0 ++ x1 ++ x2 ++ x3 ++ 0#12 ++ x5) 4 4 = 0#4 := by
  show BitVec.extractLsb' 4 4 (x0 ++ x1 ++ x2 ++ x3 ++ 0#12 ++ x5 : BitVec (6 + 5 + 2 + 3 + 12 + 4)) = 0#4
  repeat (first | rw [BitVec.extractLsb'_append_eq_of_le (by omega)] | rw [BitVec.extractLsb'_append_eq_of_add_le (by omega)])
  exact BitVec.extractLsb'_zero

theorem fld_6_5_2_3_12_4_4_7_z4 (x0 : BitVec 6) (x1 : BitVec 5) (x2 : BitVec 2) (x3 : BitVec 3) (x5 : BitVec 4) :
    fld (x0 ++ x1 ++ x2 ++ x3 ++ 0#12 ++ x5) 4 7 = 0#7 := by
  show BitVec.extractLsb' 4 7 (x0 ++ x1 ++ x2 ++ x3 ++ 0#12 ++ x5 : BitVec (6 + 5 + 2 + 3 + 12 + 4)) = 0#7
  repeat (first | rw [BitVec.extractLsb'_append_eq_of_le (by omega)] | rw [BitVec.extractLsb'_append_eq_of_add_le (by omega)])
  exact BitVec.extractLsb'_zero

theorem fld_6_5_2_3_12_4_4 (x0 : BitVec 6) (x1 : BitVec 5) (x2 : BitVec 2) (x3 : BitVec 3) (x4 : BitVec 12) (x5 : BitVec 4) :
    fld (x0 ++ x1 ++ x2 ++ x3 ++ x4 ++ x5) 4 12 = x4 := by
  show BitVec.extractLsb' 4 12 (x0 ++ x1 ++ x2 ++ x3 ++ x4 ++ x5 : BitVec (6 + 5 + 2 + 3 + 12 + 4)) = x4
  repeat (first | rw [BitVec.extractLsb'_append_eq_of_le (by omega)] | rw [BitVec.extractLsb'_append_eq_of_add_le (by omega)])
  exact BitVec.extractLsb'_eq_self

theorem fld_6_5_2_3_12_4_8_3_z4 (x0 : BitVec 6) (x1 : BitVec 5) (x2 : BitVec 2) (x3 : BitVec 3) (x5 : BitVec 4) :
    fld (x0 ++ x1 ++ x2 ++ x3 ++ 0#12 ++ x5) 8 3 = 0#3 := by
  show BitVec.extractLsb' 8 3 (x0 ++ x1 ++ x2 ++ x3 ++ 0#12 ++ x5 : BitVec (6 + 5 + 2 + 3 + 12 + 4)) = 0#3
  repeat (first | rw [BitVec.extractLsb'_append_eq_of_le (by omega)] | rw [BitVec.extractLsb'_append_eq_of_add_le (by omega)])
  exact BitVec.extractLsb'_zero

theorem fld_6_5_2_3_12_4_11_3_z4 (x0 : BitVec 6) (x1 : BitVec 5) (x2 : BitVec 2) (x3 : BitVec 3) (x5 : BitVec 4) :
    fld (x0 ++ x1 ++ x2 ++ x3 ++ 0#12 ++ x5) 11 3 = 0#3 := by
  show BitVec.extractLsb' 11 3 (x0 ++ x1 ++ x2 ++ x3 ++ 0#12 ++ x5 : BitVec (6 + 5 + 2 + 3 + 12 + 4)) = 0#3
  repeat (first | rw [BitVec.extractLsb'_append_eq_of_le (by omega)] | rw [BitVec.extractLsb'_append_eq_of_add_le (by omega)])
  exact BitVec.extractLsb'_zero

theorem fld_6_5_2_3_12_4_11_5_z4 (x0 : BitVec 6) (x1 : BitVec 5) (x2 : BitVec 2) (x3 : BitVec 3) (x5 : BitVec 4) :
    fld (x0 ++ x1 ++ x2 ++ x3 ++ 0#12 ++ x5) 11 5 = 0#5 := by
  show BitVec.extractLsb' 11 5 (x0 ++ x1 ++ x2 ++ x3 ++ 0#12 ++ x5 : BitVec (6 + 5 + 2 + 3 + 12 + 4)) = 0#5
  repeat (first | rw [BitVec.extractLsb'_append_eq_of_le (by omega)] | rw [BitVec.extractLsb'_append_eq_of_add_le (by omega)])
  exact BitVec.extractLsb'_zero

theorem fld_6_5_2_3_12_4_14_2_z4 (x0 : BitVec 6) (x1 : BitVec 5) (x2 : BitVec 2) (x3 : BitVec 3) (x5 : BitVec 4) :
    fld (x0 ++ x1 ++ x2 ++ x3 ++ 0#12 ++ x5) 14 2 = 0#2 := by
  show BitVec.extractLsb' 14 2 (x0 ++ x1 ++ x2 ++ x3 ++ 0#12 ++ x5 : BitVec (6 + 5 + 2 + 3 + 12 + 4)) = 0#2
  repeat (first | rw [BitVec.extractLsb'_append_eq_of_le (by omega)] | rw [BitVec.extractLsb'_append_eq_of_add_le (by omega)])
  exact BitVec.extractLsb'_zero

theorem fld_6_5_2_3_12_4_16 (x0 : BitVec 6) (x1 : BitVec 5) (x2 : BitVec 2) (x3 : BitVec 3) (x4 : BitVec 12) (x5 : BitVec 4) :
    fld (x0 ++ x1 ++ x2 ++ x3 ++ x4 ++ x5) 16 3 = x3 := by
  show BitVec.extractLsb' 16 3 (x0 ++ x1 ++ x2 ++ x3 ++ x4 ++ x5 : BitVec (6 + 5 + 2 + 3 + 12 + 4)) = x3
  repeat (first | rw [BitVec.extractLsb'_append_eq_of_le (by omega)] | rw [BitVec.extractLsb'_append_eq_of_add_le (by omega)])
  exact BitVec.extractLsb'_eq_self

theorem fld_6_5_2_3_12_4_19 (x0 : BitVec 6) (x1 : BitVec 5) (x2 : BitVec 2) (x3 : BitVec 3) (x4 : BitVec 12) (x5 : BitVec 4) :
    fld (x0 ++ x1 ++ x2 ++ x3 ++ x4 ++ x5) 19 2 = x2 := by
  show BitVec.extractLsb' 19 2 (x0 ++ x1 ++ x2 ++ x3 ++ x4 ++ x5 : BitVec (6 + 5 + 2 + 3 + 12 + 4)) = x2
  repeat (first | rw [BitVec.extractLsb'_append_eq_of_le (by omega)] | rw [BitVec.extractLsb'_append_eq_of_add_le (by omega)])
  exact BitVec.extractLsb'_eq_self

theorem fld_6_5_2_3_12_4_21 (x0 : BitVec 6) (x1 : BitVec 5) (x2 : BitVec 2) (x3 : BitVec 3) (x4 : BitVec 12) (x5 : BitVec 4) :
    fld (x0 ++ x1 ++ x2 ++ x3 ++ x4 ++ x5) 21 5 = x1 := by
  show BitVec.extractLsb' 21 5 (x0 ++ x1 ++ x2 ++ x3 ++ x4 ++ x5 : BitVec (6 + 5 + 2 + 3 + 12 + 4)) = x1
  repeat (first | rw [BitVec.extractLsb'_append_eq_of_le (by omega)] | rw [BitVec.extractLsb'_append_eq_of_add_le (by omega)])
  exact BitVec.extractLsb'_eq_self

theorem fld_6_5_2_3_12_4_26 (x0 : BitVec 6) (x1 : BitVec 5) (x2 : BitVec 2) (x3 : BitVec 3) (x4 : BitVec 12) (x5 : BitVec 4) :
    fld (x0 ++ x1 ++ x2 ++ x3 ++ x4 ++ x5) 26 6 = x0 := by
  show BitVec.extractLsb' 26 6 (x0 ++ x1 ++ x2 ++ x3 ++ x4 ++ x5 : BitVec (6 + 5 + 2 + 3 + 12 + 4)) = x0
  repeat (first | rw [BitVec.extractLsb'_append_eq_of_le (by omega)] | rw [BitVec.extractLsb'_append_eq_of_add_le (by omega)])
  exact BitVec.extractLsb'_eq_self

theorem fld_6_5_5_5_3_4_4_11_4_z3 (x0 : BitVec 6) (x1 : BitVec 5) (x2 : BitVec 5) (x4 : BitVec 3) (x5 : BitVec 4) (x6 : BitVec 4) :
    fld (x0 ++ x1 ++ x2 ++ 0#5 ++ x4 ++ x5 ++ x6) 11 4 = 0#4 := by
  show BitVec.extractLsb' 11 4 (x0 ++ x1 ++ x2 ++ 0#5 ++ x4 ++ x5 ++ x6 : BitVec (6 + 5 + 5 + 5 + 3 + 4 + 4)) = 0#4
  repeat (first | rw [BitVec.extractLsb'_append_eq_of_le (by omega)] | rw [BitVec.extractLsb'_append_eq_of_add_le (by omega)])
  exact BitVec.extractLsb'_zero

theorem fld_6_5_5_5_3_4_4_15_1_z3 (x0 : BitVec 6) (x1 : BitVec 5) (x2 : BitVec 5) (x4 : BitVec 3) (x5 : BitVec 4) (x6 : BitVec 4) :
    fld (x0 ++ x1 ++ x2 ++ 0#5 ++ x4 ++ x5 ++ x6) 15 1 = 0#1 := by
  show BitVec.extractLsb' 15 1 (x0 ++ x1 ++ x2 ++ 0#5 ++ x4 ++ x5 ++ x6 : BitVec (6 + 5 + 5 + 5 + 3 + 4 + 4)) = 0#1
  repeat (first | rw [BitVec.extractLsb'_append_eq_of_le (by omega)] | rw [BitVec.extractLsb'_append_eq_of_add_le (by omega)])
  exact BitVec.extractLsb'_zero

theorem fld_6_5_10_3_4_4_0 (x0 : BitVec 6) (x1 : BitVec 5) (x2 : BitVec 10) (x3 : BitVec 3) (x4 : BitVec 4) (x5 : BitVec 4) :
    fld (x0 ++ x1 ++ x2 ++ x3 ++ x4 ++ x5) 0 4 = x5 := by
  show BitVec.extractLsb' 0 4 (x0 ++ x1 ++ x2 ++ x3 ++ x4 ++ x5 : BitVec (6 + 5 + 10 + 3 + 4 + 4)) = x5
  repeat (first | rw [BitVec.extractLsb'_append_eq_of_le (by omega)] | rw [BitVec.extractLsb'_append_eq_of_add_le (by omega)])
  exact BitVec.extractLsb'_eq_self

theorem fld_6_5_10_3_4_4_4 (x0 : BitVec 6) (x1 : BitVec 5) (x2 : BitVec 10) (x3 : BitVec 3) (x4 : BitVec 4) (x5 : BitVec 4) :
    fld (x0 ++ x1 ++ x2 ++ x3 ++ x4 ++ x5) 4 4 = x4 := by
  show BitVec.extractLsb' 4 4 (x0 ++ x1 ++ x2 ++ x3 ++ x4 ++ x5 : BitVec (6 + 5 + 10 + 3 + 4 + 4)) = x4
  repeat (first | rw [BitVec.extractLsb'_append_eq_of_le (by omega)] | rw [BitVec.extractLsb'_append_eq_of_add_le (by omega)])
  exact BitVec.extractLsb'_eq_self

theorem fld_6_5_10_3_4_4_8 (x0 : BitVec 6) (x1 : BitVec 5) (x2 : BitVec 10) (x3 : BitVec 3) (x4 : BitVec 4) (x5 : BitVec 4) :
    fld (x0 ++ x1 ++ x2 ++ x3 ++ x4 ++ x5) 8 3 = x3 := by
  show BitVec.extractLsb' 8 3 (x0 ++ x1 ++ x2 ++ x3 ++ x4 ++ x5 : BitVec (6 + 5 + 10 + 3 + 4 + 4)) = x3
  repeat (first | rw [BitVec.extractLsb'_append_eq_of_le (by omega)] | rw [BitVec.extractLsb'_append_eq_of_add_le (by omega)])
  exact BitVec.extractLsb'_eq_self

theorem fld_6_5_10_3_4_4_11_4_z2 (x0 : BitVec 6) (x1 : BitVec 5) (x3 : BitVec 3) (x4 : BitVec 4) (x5 : BitVec 4) :
    fld (x0 ++ x1 ++ 0#10 ++ x3 ++ x4 ++ x5) 11 4 = 0#4 := by
  show BitVec.extractLsb' 11 4 (x0 ++ x1 ++ 0#10 ++ x3 ++ x4 ++ x5 : BitVec (6 + 5 + 10 + 3 + 4 + 4)) = 0#4
  repeat (first | rw [BitVec.extractLsb'_append_eq_of_le (by omega)] | rw [BitVec.extractLsb'_append_eq_of_add_le (by omega)])
  exact BitVec.extractLsb'_zero

theorem fld_6_5_10_3_4_4_11_5_z2 (x0 : BitVec 6) (x1 : BitVec 5) (x3 : BitVec 3) (x4 : BitVec 4) (x5 : BitVec 4) :
    fld (x0 ++ x1 ++ 0#10 ++ x3 ++ x4 ++ x5) 11 5 = 0#5 := by
  show BitVec.extractLsb' 11 5 (x0 ++ x1 ++ 0#10 ++ x3 ++ x4 ++ x5 : BitVec (6 + 5 + 10 + 3 + 4 + 4)) = 0#5
  repeat (first | rw [BitVec.extractLsb'_append_eq_of_le (by omega)] | rw [BitVec.extractLsb'_append_eq_of_add_le (by omega)])
  exact BitVec.extractLsb'_zero

theorem fld_6_5_10_3_4_4_11 (x0 : BitVec 6) (x1 : BitVec 5) (x2 : BitVec 10) (x3 : BitVec 3) (x4 : BitVec 4) (x5 : BitVec 4) :
    fld (x0 ++ x1 ++ x2 ++ x3 ++ x4 ++ x5) 11 10 = x2 := by
  show BitVec.extractLsb' 11 10 (x0 ++ x1 ++ x2 ++ x3 ++ x4 ++ x5 : BitVec (6 + 5 + 10 + 3 + 4 + 4)) = x2
  repeat (first | rw [BitVec.extractLsb'_append_eq_of_le (by omega)] | rw [BitVec.extractLsb'_append_eq_of_add_le (by omega)])
  exact BitVec.extractLsb'_eq_self

theorem fld_6_5_10_3_4_4_15_1_z2 (x0 : BitVec 6) (x1 : BitVec 5) (x3 : BitVec 3) (x4 : BitVec 4) (x5 : BitVec 4) :
    fld (x0 ++ x1 ++ 0#10 ++ x3 ++ x4 ++ x5) 15 1 = 0#1 := by
  show BitVec.extractLsb' 15 1 (x0 ++ x1 ++ 0#10 ++ x3 ++ x4 ++ x5 : BitVec (6 + 5 + 10 + 3 + 4 + 4)) = 0#1
  repeat (first | rw [BitVec.extractLsb'_append_eq_of_le (by omega)] | rw [BitVec.extractLsb'_append_eq_of_add_le (by omega)])
  exact BitVec.extractLsb'_zero

theorem fld_6_5_10_3_4_4_16_5_z2 (x0 : BitVec 6) (x1 : BitVec 5) (x3 : BitVec 3) (x4 : BitVec 4) (x5 : BitVec 4) :
    fld (x0 ++ x1 ++ 0#10 ++ x3 ++ x4 ++ x5) 16 5 = 0#5 := by
  show BitVec.extractLsb' 16 5 (x0 ++ x1 ++ 0#10 ++ x3 ++ x4 ++ x5 : BitVec (6 + 5 + 10 + 3 + 4 + 4)) = 0#5
  repeat (first | rw [BitVec.extractLsb'_append_eq_of_le (by omega)] | rw [BitVec.extractLsb'_append_eq_of_add_le (by omega)])
  exact BitVec.extractLsb'_zero

theorem fld_6_5_10_3_4_4_21 (x0 : BitVec 6) (x1 : BitVec 5) (x2 : BitVec 10) (x3 : BitVec 3) (x4 : BitVec 4) (x5 : BitVec 4) :
    fld (x0 ++ x1 ++ x2 ++ x3 ++ x4 ++ x5) 21 5 = x1 := by
  show BitVec.extractLsb' 21 5 (x0 ++ x1 ++ x2 ++ x3 ++ x4 ++ x5 : BitVec (6 + 5 + 10 + 3 + 4 + 4)) = x1
  repeat (first | rw [BitVec.extractLsb'_append_eq_of_le (by omega)] | rw [BitVec.extractLsb'_append_eq_of_add_le (by omega)])
  exact BitVec.extractLsb'_eq_self

theorem fld_6_5_10_3_4_4_26 (x0 : BitVec 6) (x1 : BitVec 5) (x2 : BitVec 10) (x3 : BitVec 3) (x4 : BitVec 4) (x5 : BitVec 4) :
    fld (x0 ++ x1 ++ x2 ++ x3 ++ x4 ++ x5) 26 6 = x0 := by
  show BitVec.extractLsb' 26 6 (x0 ++ x1 ++ x2 ++ x3 ++ x4 ++ x5 : BitVec (6 + 5 + 10 + 3 + 4 + 4)) = x0
  repeat (first | rw [BitVec.extractLsb'_append_eq_of_le (by omega)] | rw [BitVec.extractLsb'_append_eq_of_add_le (by omega)])
  exact BitVec.extractLsb'_eq_self

theorem fld_6_5_5_1_4_3_4_4_0 (x0 : BitVec 6) (x1 : BitVec 5) (x2 : BitVec 5) (x3 : BitVec 1) (x4 : BitVec 4) (x5 : BitVec 3) (x6 : BitVec 4) (x7 : BitVec 4) :
    fld (x0 ++ x1 ++ x2 ++ x3 ++ x4 ++ x5 ++ x6 ++ x7) 0 4 = x7 := by
  show BitVec.extractLsb' 0 4 (x0 ++ x1 ++ x2 ++ x3 ++ x4 ++ x5 ++ x6 ++ x7 : BitVec (6 + 5 + 5 + 1 + 4 + 3 + 4 + 4)) = x7
  repeat (first | rw [BitVec.extractLsb'_append_eq_of_le (by omega)] | rw [BitVec.extractLsb'_append_eq_of_add_le (by omega)])
  exact BitVec.extractLsb'_eq_self

theorem fld_6_5_5_1_4_3_4_4_4 (x0 : BitVec 6) (x1 : BitVec 5) (x2 : BitVec 5) (x3 : BitVec 1) (x4 : BitVec 4) (x5 : BitVec 3) (x6 : BitVec 4) (x7 : BitVec 4) :
    fld (x0 ++ x1 ++ x2 ++ x3 ++ x4 ++ x5 ++ x6 ++ x7) 4 4 = x6 := by
  show BitVec.extractLsb' 4 4 (x0 ++ x1 ++ x2 ++ x3 ++ x4 ++ x5 ++ x6 ++ x7 : BitVec (6 + 5 + 5 + 1 + 4 + 3 + 4 + 4)) = x6
  repeat (first | rw [BitVec.extractLsb'_append_eq_of_le (by omega)] | rw [BitVec.extractLsb'_append_eq_of_add_le (by omega)])
  exact BitVec.extractLsb'_eq_self

theorem fld_6_5_5_1_4_3_4_4_8 (x0 : BitVec 6) (x1 : BitVec 5) (x2 : BitVec 5) (x3 : BitVec 1) (x4 : BitVec 4) (x5 : BitVec 3) (x6 : BitVec 4) (x7 : BitVec 4) :
    fld (x0 ++ x1 ++ x2 ++ x3 ++ x4 ++ x5 ++ x6 ++ x7) 8 3 = x5 := by
  show BitVec.extractLsb' 8 3 (x0 ++ x1 ++ x2 ++ x3 ++ x4 ++ x5 ++ x6 ++ x7 : BitVec (6 + 5 + 5 + 1 + 4 + 3 + 4 + 4)) = x5
  repeat (first | rw [BitVec.extractLsb'_append_eq_of_le (by omega)] | rw [BitVec.extractLsb'_append_eq_of_add_le (by omega)])
  exact BitVec.extractLsb'_eq_self

theorem fld_6_5_5_1_4_3_4_4_11 (x0 : BitVec 6) (x1 : BitVec 5) (x2 : BitVec 5) (x3 : BitVec 1) (x4 : BitVec 4) (x5 : BitVec 3) (x6 : BitVec 4) (x7 : BitVec 4) :
    fld (x0 ++ x1 ++ x2 ++ x3 ++ x4 ++ x5 ++ x6 ++ x7) 11 4 = x4 := by
  show BitVec.extractLsb' 11 4 (x0 ++ x1 ++ x2 ++ x3 ++ x4 ++ x5 ++ x6 ++ x7 : BitVec (6 + 5 + 5 + 1 + 4 + 3 + 4 + 4)) = x4
  repeat (first | rw [BitVec.extractLsb'_append_eq_of_le (by omega)] | rw [BitVec.extractLsb'_append_eq_of_add_le (by omega)])
  exact BitVec.extractLsb'_eq_self

theorem fld_6_5_5_1_4_3_4_4_15 (x0 : BitVec 6) (x1 : BitVec 5) (x2 : BitVec 5) (x3 : BitVec 1) (x4 : BitVec 4) (x5 : BitVec 3) (x6 : BitVec 4) (x7 : BitVec 4) :
    fld (x0 ++ x1 ++ x2 ++ x3 ++ x4 ++ x5 ++ x6 ++ x7) 15 1 = x3 := by
  show BitVec.extractLsb' 15 1 (x0 ++ x1 ++ x2 ++ x3 ++ x4 ++ x5 ++ x6 ++ x7 : BitVec (6 + 5 + 5 + 1 + 4 + 3 + 4 + 4)) = x3
  repeat (first | rw [BitVec.extractLsb'_append_eq_of_le (by omega)] | rw [BitVec.extractLsb'_append_eq_of_add_le (by omega)])
  exact BitVec.extractLsb'_eq_self

theorem fld_6_5_5_1_4_3_4_4_16 (x0 : BitVec 6) (x1 : BitVec 5) (x2 : BitVec 5) (x3 : BitVec 1) (x4 : BitVec 4) (x5 : BitVec 3) (x6 : BitVec 4) (x7 : BitVec 4) :
    fld (x0 ++ x1 ++ x2 ++ x3 ++ x4 ++ x5 ++ x6 ++ x7) 16 5 = x2 := by
  show BitVec.extractLsb' 16 5 (x0 ++ x1 ++ x2 ++ x3 ++ x4 ++ x5 ++ x6 ++ x7 : BitVec (6 + 5 + 5 + 1 + 4 + 3 + 4 + 4)) = x2
  repeat (first | rw [BitVec.extractLsb'_append_eq_of_le (by omega)] | rw [BitVec.extractLsb'_append_eq_of_add_le (by omega)])
  exact BitVec.extractLsb'_eq_self

theorem fld_6_5_5_1_4_3_4_4_21 (x0 : BitVec 6) (x1 : BitVec 5) (x2 : BitVec 5) (x3 : BitVec 1) (x4 : BitVec 4) (x5 : BitVec 3) (x6 : BitVec 4) (x7 : BitVec 4) :
    fld (x0 ++ x1 ++ x2 ++ x3 ++ x4 ++ x5 ++ x6 ++ x7) 21 5 = x1 := by
  show BitVec.extractLsb' 21 5 (x0 ++ x1 ++ x2 ++ x3 ++ x4 ++ x5 ++ x6 ++ x7 : BitVec (6 + 5 + 5 + 1 + 4 + 3 + 4 + 4)) = x1
  repeat (first | rw [BitVec.extractLsb'_append_eq_of_le (by omega)] | rw [BitVec.extractLsb'_append_eq_of_add_le (by omega)])
  exact BitVec.extractLsb'_eq_self

theorem fld_6_5_5_1_4_3_4_4_26 (x0 : BitVec 6) (x1 : BitVec 5) (x2 : BitVec 5) (x3 : BitVec 1) (x4 : BitVec 4) (x5 : BitVec 3) (x6 : BitVec 4) (x7 : BitVec 4) :
    fld (x0 ++ x1 ++ x2 ++ x3 ++ x4 ++ x5 ++ x6 ++ x7) 26 6 = x0 := by
  show BitVec.extractLsb' 26 6 (x0 ++ x1 ++ x2 ++ x3 ++ x4 ++ x5 ++ x6 ++ x7 : BitVec (6 + 5 + 5 + 1 + 4 + 3 + 4 + 4)) = x0
  repeat (first | rw [BitVec.extractLsb'_append_eq_of_le (by omega)] | rw [BitVec.extractLsb'_append_eq_of_add_le (by omega)])
  exact BitVec.extractLsb'_eq_self

theorem fld_6_5_1_4_16_0 (x0 : BitVec 6) (x1 : BitVec 5) (x2 : BitVec 1) (x3 : BitVec 4) (x4 : BitVec 16) :
    fld (x0 ++ x1 ++ x2 ++ x3 ++ x4) 0 16 = x4 := by
  show BitVec.extractLsb' 0 16 (x0 ++ x1 ++ x2 ++ x3 ++ x4 : BitVec (6 + 5 + 1 + 4 + 16)) = x4
  repeat (first | rw [BitVec.extractLsb'_append_eq_of_le (by omega)] | rw [BitVec.extractLsb'_append_eq_of_add_le (by omega)])
  exact BitVec.extractLsb'_eq_self

theorem fld_6_5_1_4_16_16 (x0 : BitVec 6) (x1 : BitVec 5) (x2 : BitVec 1) (x3 : BitVec 4) (x4 : BitVec 16) :
    fld (x0 ++ x1 ++ x2 ++ x3 ++ x4) 16 4 = x3 := by
  show BitVec.extractLsb' 16 4 (x0 ++ x1 ++ x2 ++ x3 ++ x4 : BitVec (6 + 5 + 1 + 4 + 16)) = x3
  repeat (first | rw [BitVec.extractLsb'_append_eq_of_le (by omega)] | rw [BitVec.extractLsb'_append_eq_of_add_le (by omega)])
  exact BitVec.extractLsb'_eq_self

theorem fld_6_5_1_4_16_20 (x0 : BitVec 6) (x1 : BitVec 5) (x2 : BitVec 1) (x3 : BitVec 4) (x4 : BitVec 16) :
    fld (x0 ++ x1 ++ x2 ++ x3 ++ x4) 20 1 = x2 := by
  show BitVec.extractLsb' 20 1 (x0 ++ x1 ++ x2 ++ x3 ++ x4 : BitVec (6 + 5 + 1 + 4 + 16)) = x2
  repeat (first | rw [BitVec.extractLsb'_append_eq_of_le (by omega)] | rw [BitVec.extractLsb'_append_eq_of_add_le (by omega)])
  exact BitVec.extractLsb'_eq_self

theorem fld_6_5_1_4_16_21 (x0 : BitVec 6) (x1 : BitVec 5) (x2 : BitVec 1) (x3 : BitVec 4) (x4 : BitVec 16) :
    fld (x0 ++ x1 ++ x2 ++ x3 ++ x4) 21 5 = x1 := by
  show BitVec.extractLsb' 21 5 (x0 ++ x1 ++ x2 ++ x3 ++ x4 : BitVec (6 + 5 + 1 + 4 + 16)) = x1
  repeat (first | rw [BitVec.extractLsb'_append_eq_of_le (by omega)] | rw [BitVec.extractLsb'_append_eq_of_add_le (by omega)])
  exact BitVec.extractLsb'_eq_self

theorem fld_6_5_1_4_16_26 (x0 : BitVec 6) (x1 : BitVec 5) (x2 : BitVec 1) (x3 : BitVec 4) (x4 : BitVec 16) :
    fld (x0 ++ x1 ++ x2 ++ x3 ++ x4) 26 6 = x0 := by
  show BitVec.extractLsb' 26 6 (x0 ++ x1 ++ x2 ++ x3 ++ x4 : BitVec (6 + 5 + 1 + 4 + 16)) = x0
  repeat (first | rw [BitVec.extractLsb'_append_eq_of_le (by omega)] | rw [BitVec.extractLsb'_append_eq_of_add_le (by omega)])
  exact BitVec.extractLsb'_eq_self

theorem fld_6_6_5_5_5_5_0 (x0 : BitVec 6) (x1 : BitVec 6) (x2 : BitVec 5) (x3 : BitVec 5) (x4 : BitVec 5) (x5 : BitVec 5) :
    fld (x0 ++ x1 ++ x2 ++ x3 ++ x4 ++ x5) 0 5 = x5 := by
  show BitVec.extractLsb' 0 5 (x0 ++ x1 ++ x2 ++ x3 ++ x4 ++ x5 : BitVec (6 + 6 + 5 + 5 + 5 + 5)) = x5
  repeat (first | rw [BitVec.extractLsb'_append_eq_of_le (by omega)] | rw [BitVec.extractLsb'_append_eq_of_add_le (by omega)])
  exact BitVec.extractLsb'_eq_self

theorem fld_6_6_5_5_5_5_5 (x0 : BitVec 6) (x1 : BitVec 6) (x2 : BitVec 5) (x3 : BitVec 5) (x4 : BitVec 5) (x5 : BitVec 5) :
    fld (x0 ++ x1 ++ x2 ++ x3 ++ x4 ++ x5) 5 5 = x4 := by
  show BitVec.extractLsb' 5 5 (x0 ++ x1 ++ x2 ++ x3 ++ x4 ++ x5 : BitVec (6 + 6 + 5 + 5 + 5 + 5)) = x4
  repeat (first | rw [BitVec.extractLsb'_append_eq_of_le (by omega)] | rw [BitVec.extractLsb'_append_eq_of_add_le (by omega)])
  exact BitVec.extractLsb'_eq_self

theorem fld_6_6_5_5_5_5_10 (x0 : BitVec 6) (x1 : BitVec 6) (x2 : BitVec 5) (x3 : BitVec 5) (x4 : BitVec 5) (x5 : BitVec 5) :
    fld (x0 ++ x1 ++ x2 ++ x3 ++ x4 ++ x5) 10 5 = x3 := by
  show BitVec.extractLsb' 10 5 (x0 ++ x1 ++ x2 ++ x3 ++ x4 ++ x5 : BitVec (6 + 6 + 5 + 5 + 5 + 5)) = x3
  repeat (first | rw [BitVec.extractLsb'_append_eq_of_le (by omega)] | rw [BitVec.extractLsb'_append_eq_of_add_le (by omega)])
  exact BitVec.extractLsb'_eq_self

theorem fld_6_6_5_5_5_5_15 (x0 : BitVec 6) (x1 : BitVec 6) (x2 : BitVec 5) (x3 : BitVec 5) (x4 : BitVec 5) (x5 : BitVec 5) :
    fld (x0 ++ x1 ++ x2 ++ x3 ++ x4 ++ x5) 15 5 = x2 := by
  show BitVec.extractLsb' 15 5 (x0 ++ x1 ++ x2 ++ x3 ++ x4 ++ x5 : BitVec (6 + 6 + 5 + 5 + 5 + 5)) = x2
  repeat (first | rw [BitVec.extractLsb'_append_eq_of_le (by omega)] | rw [BitVec.extractLsb'_append_eq_of_add_le (by omega)])
  exact BitVec.extractLsb'_eq_self

theorem fld_6_6_5_5_5_5_20 (x0 : BitVec 6) (x1 : BitVec 6) (x2 : BitVec 5) (x3 : BitVec 5) (x4 : BitVec 5) (x5 : BitVec 5) :
    fld (x0 ++ x1 ++ x2 ++ x3 ++ x4 ++ x5) 20 6 = x1 := by
  show BitVec.extractLsb' 20 6 (x0 ++ x1 ++ x2 ++ x3 ++ x4 ++ x5 : BitVec (6 + 6 + 5 + 5 + 5 + 5)) = x1
  repeat (first | rw [BitVec.extractLsb'_append_eq_of_le (by omega)] | rw [BitVec.extractLsb'_append_eq_of_add_le (by omega)])
  exact BitVec.extractLsb'_eq_self

theorem fld_6_6_5_5_5_5_26 (x0 : BitVec 6) (x1 : BitVec 6) (x2 : BitVec 5) (x3 : BitVec 5) (x4 : BitVec 5) (x5 : BitVec 5) :
    fld (x0 ++ x1 ++ x2 ++ x3 ++ x4 ++ x5) 26 6 = x0 := by
  show BitVec.extractLsb' 26 6 (x0 ++ x1 ++ x2 ++ x3 ++ x4 ++ x5 : BitVec (6 + 6 + 5 + 5 + 5 + 5)) = x0
  repeat (first | rw [BitVec.extractLsb'_append_eq_of_le (by omega)] | rw [BitVec.extractLsb'_append_eq_of_add_le (by omega)])
  exact BitVec.extractLsb'_eq_self

theorem fld_6_6_5_5_10_0_5_z4 (x0 : BitVec 6) (x1 : BitVec 6) (x2 : BitVec 5) (x3 : BitVec 5) :
    fld (x0 ++ x1 ++ x2 ++ x3 ++ 0#10) 0 5 = 0#5 := by
  show BitVec.extractLsb' 0 5 (x0 ++ x1 ++ x2 ++ x3 ++ 0#10 : BitVec (6 + 6 + 5 + 5 + 10)) = 0#5
  repeat (first | rw [BitVec.extractLsb'_append_eq_of_le (by omega)] | rw [BitVec.extractLsb'_append_eq_of_add_le (by omega)])
  exact BitVec.extractLsb'_zero

theorem fld_6_6_5_5_10_0 (x0 : BitVec 6) (x1 : BitVec 6) (x2 : BitVec 5) (x3 : BitVec 5) (x4 : BitVec 10) :
    fld (x0 ++ x1 ++ x2 ++ x3 ++ x4) 0 10 = x4 := by
  show BitVec.extractLsb' 0 10 (x0 ++ x1 ++ x2 ++ x3 ++ x4 : BitVec (6 + 6 + 5 + 5 + 10)) = x4
  repeat (first | rw [BitVec.extractLsb'_append_eq_of_le (by omega)] | rw [BitVec.extractLsb'_append_eq_of_add_le (by omega)])
  exact BitVec.extractLsb'_eq_self

theorem fld_6_6_5_5_10_5_5_z4 (x0 : BitVec 6) (x1 : BitVec 6) (x2 : BitVec 5) (x3 : BitVec 5) :
    fld (x0 ++ x1 ++ x2 ++ x3 ++ 0#10) 5 5 = 0#5 := by
  show BitVec.extractLsb' 5 5 (x0 ++ x1 ++ x2 ++ x3 ++ 0#10 : BitVec (6 + 6 + 5 + 5 + 10)) = 0#5
  repeat (first | rw [BitVec.extractLsb'_append_eq_of_le (by omega)] | rw [BitVec.extractLsb'_append_eq_of_add_le (by omega)])
  exact BitVec.extractLsb'_zero

theorem fld_6_6_5_5_10_10 (x0 : BitVec 6) (x1 : BitVec 6) (x2 : BitVec 5) (x3 : BitVec 5) (x4 : BitVec 10) :
    fld (x0 ++ x1 ++ x2 ++ x3 ++ x4) 10 5 = x3 := by
  show BitVec.extractLsb' 10 5 (x0 ++ x1 ++ x2 ++ x3 ++ x4 : BitVec (6 + 6 + 5 + 5 + 10)) = x3
  repeat (first | rw [BitVec.extractLsb'_append_eq_of_le (by omega)] | rw [BitVec.extractLsb'_append_eq_of_add_le (by omega)])
  exact BitVec.extractLsb'_eq_self

theorem fld_6_6_5_5_10_15 (x0 : BitVec 6) (x1 : BitVec 6) (x2 : BitVec 5) (x3 : BitVec 5) (x4 : BitVec 10) :
    fld (x0 ++ x1 ++ x2 ++ x3 ++ x4) 15 5 = x2 := by
  show BitVec.extractLsb' 15 5 (x0 ++ x1 ++ x2 ++ x3 ++ x4 : BitVec (6 + 6 + 5 + 5 + 10)) = x2
  repeat (first | rw [BitVec.extractLsb'_append_eq_of_le (by omega)] | rw [BitVec.extractLsb'_append_eq_of_add_le (by omega)])
  exact BitVec.extractLsb'_eq_self

theorem fld_6_6_5_5_10_20 (x0 : BitVec 6) (x1 : BitVec 6) (x2 : BitVec 5) (x3 : BitVec 5) (x4 : BitVec 10) :
    fld (x0 ++ x1 ++ x2 ++ x3 ++ x4) 20 6 = x1 := by
  show BitVec.extractLsb' 20 6 (x0 ++ x1 ++ x2 ++ x3 ++ x4 : BitVec (6 + 6 + 5 + 5 + 10)) = x1
  repeat (first | rw [BitVec.extractLsb'_append_eq_of_le (by omega)] | rw [BitVec.extractLsb'_append_eq_of_add_le (by omega)])
  exact BitVec.extractLsb'_eq_self

theorem fld_6_6_5_5_10_26 (x0 : BitVec 6) (x1 : BitVec 6) (x2 : BitVec 5) (x3 : BitVec 5) (x4 : BitVec 10) :
    fld (x0 ++ x1 ++ x2 ++ x3 ++ x4) 26 6 = x0 := by
  show BitVec.extractLsb' 26 6 (x0 ++ x1 ++ x2 ++ x3 ++ x4 : BitVec (6 + 6 + 5 + 5 + 10)) = x0
  repeat (first | rw [BitVec.extractLsb'_append_eq_of_le (by omega)] | rw [BitVec.extractLsb'_append_eq_of_add_le (by omega)])
  exact BitVec.extractLsb'_eq_self

theorem fld_6_6_5_5_10_0_5_c1 (x0 : BitVec 6) (x1 : BitVec 6) (x2 : BitVec 5) (x3 : BitVec 5) :
    fld (x0 ++ x1 ++ x2 ++ x3 ++ 1#10) 0 5 = 1#5 := by
  show BitVec.extractLsb' 0 5 (x0 ++ x1 ++ x2 ++ x3 ++ 1#10 : BitVec (6 + 6 + 5 + 5 + 10)) = 1#5
  repeat (first | rw [BitVec.extractLsb'_append_eq_of_le (by omega)] | rw [BitVec.extractLsb'_append_eq_of_add_le (by omega)])
  rfl

theorem fld_6_6_5_5_10_5_5_c1 (x0 : BitVec 6) (x1 : BitVec 6) (x2 : BitVec 5) (x3 : BitVec 5) :
    fld (x0 ++ x1 ++ x2 ++ x3 ++ 1#10) 5 5 = 0#5 := by
  show BitVec.extractLsb' 5 5 (x0 ++ x1 ++ x2 ++ x3 ++ 1#10 : BitVec (6 + 6 + 5 + 5 + 10)) = 0#5
  repeat (first | rw [BitVec.extractLsb'_append_eq_of_le (by omega)] | rw [BitVec.extractLsb'_append_eq_of_add_le (by omega)])
  rfl

theorem fld_6_6_5_15_0_5_z3 (x0 : BitVec 6) (x1 : BitVec 6) (x2 : BitVec 5) :
    fld (x0 ++ x1 ++ x2 ++ 0#15) 0 5 = 0#5 := by
  show BitVec.extractLsb' 0 5 (x0 ++ x1 ++ x2 ++ 0#15 : BitVec (6 + 6 + 5 + 15)) = 0#5
  repeat (first | rw [BitVec.extractLsb'_append_eq_of_le (by omega)] | rw [BitVec.extractLsb'_append_eq_of_add_le (by omega)])
  exact BitVec.extractLsb'_zero

theorem fld_6_6_5_15_0_10_z3 (x0 : BitVec 6) (x1 : BitVec 6) (x2 : BitVec 5) :
    fld (x0 ++ x1 ++ x2 ++ 0#15) 0 10 = 0#10 := by
  show BitVec.extractLsb' 0 10 (x0 ++ x1 ++ x2 ++ 0#15 : BitVec (6 + 6 + 5 + 15)) = 0#10
  repeat (first | rw [BitVec.extractLsb'_append_eq_of_le (by omega)] | rw [BitVec.extractLsb'_append_eq_of_add_le (by omega)])
  exact BitVec.extractLsb'_zero

theorem fld_6_6_5_15_0 (x0 : BitVec 6) (x1 : BitVec 6) (x2 : BitVec 5) (x3 : BitVec 15) :
    fld (x0 ++ x1 ++ x2 ++ x3) 0 15 = x3 := by
  show BitVec.extractLsb' 0 15 (x0 ++ x1 ++ x2 ++ x3 : BitVec (6 + 6 + 5 + 15)) = x3
  repeat (first | rw [BitVec.extractLsb'_append_eq_of_le (by omega)] | rw [BitVec.extractLsb'_append_eq_of_add_le (by omega)])
  exact BitVec.extractLsb'_eq_self

theorem fld_6_6_5_15_5_5_z3 (x0 : BitVec 6) (x1 : BitVec 6) (x2 : BitVec 5) :
    fld (x0 ++ x1 ++ x2 ++ 0#15) 5 5 = 0#5 := by
  show BitVec.extractLsb' 5 5 (x0 ++ x1 ++ x2 ++ 0#15 : BitVec (6 + 6 + 5 + 15)) = 0#5
  repeat (first | rw [BitVec.extractLsb'_append_eq_of_le (by omega)] | rw [BitVec.extractLsb'_append_eq_of_add_le (by omega)])
  exact BitVec.extractLsb'_zero

theorem fld_6_6_5_15_10_5_z3 (x0 : BitVec 6) (x1 : BitVec 6) (x2 : BitVec 5) :
    fld (x0 ++ x1 ++ x2 ++ 0#15) 10 5 = 0#5 := by
  show BitVec.extractLsb' 10 5 (x0 ++ x1 ++ x2 ++ 0#15 : BitVec (6 + 6 + 5 + 15)) = 0#5
  repeat (first | rw [BitVec.extractLsb'_append_eq_of_le (by omega)] | rw [BitVec.extractLsb'_append_eq_of_add_le (by omega)])
  exact BitVec.extractLsb'_zero

theorem fld_6_6_5_15_15 (x0 : BitVec 6) (x1 : BitVec 6) (x2 : BitVec 5) (x3 : BitVec 15) :
    fld (x0 ++ x1 ++ x2 ++ x3) 15 5 = x2 := by
  show BitVec.extractLsb' 15 5 (x0 ++ x1 ++ x2 ++ x3 : BitVec (6 + 6 + 5 + 15)) = x2
  repeat (first | rw [BitVec.extractLsb'_append_eq_of_le (by omega)] | rw [BitVec.extractLsb'_append_eq_of_add_le (by omega)])
  exact BitVec.extractLsb'_eq_self

theorem fld_6_6_5_15_20 (x0 : BitVec 6) (x1 : BitVec 6) (x2 : BitVec 5) (x3 : BitVec 15) :
    fld (x0 ++ x1 ++ x2 ++ x3) 20 6 = x1 := by
  show BitVec.extractLsb' 20 6 (x0 ++ x1 ++ x2 ++ x3 : BitVec (6 + 6 + 5 + 15)) = x1
  repeat (first | rw [BitVec.extractLsb'_append_eq_of_le (by omega)] | rw [BitVec.extractLsb'_append_eq_of_add_le (by omega)])
  exact BitVec.extractLsb'_eq_self

theorem fld_6_6_5_15_26 (x0 : BitVec 6) (x1 : BitVec 6) (x2 : BitVec 5) (x3 : BitVec 15) :
    fld (x0 ++ x1 ++ x2 ++ x3) 26 6 = x0 := by
  show BitVec.extractLsb' 26 6 (x0 ++ x1 ++ x2 ++ x3 : BitVec (6 + 6 + 5 + 15)) = x0
  repeat (first | rw [BitVec.extractLsb'_append_eq_of_le (by omega)] | rw [BitVec.extractLsb'_append_eq_of_add_le (by omega)])
  exact BitVec.extractLsb'_eq_self

theorem fld_6_6_5_15_0_10_c1 (x0 : BitVec 6) (x1 : BitVec 6) (x2 : BitVec 5) :
    fld (x0 ++ x1 ++ x2 ++ 1#15) 0 10 = 1#10 := by
  show BitVec.extractLsb' 0 10 (x0 ++ x1 ++ x2 ++ 1#15 : BitVec (6 + 6 + 5 + 15)) = 1#10
  repeat (first | rw [BitVec.extractLsb'_append_eq_of_le (by omega)] | rw [BitVec.extractLsb'_append_eq_of_add_le (by omega)])
  rfl

theorem fld_6_6_5_15_10_5_c1 (x0 : BitVec 6) (x1 : BitVec 6) (x2 : BitVec 5) :
    fld (x0 ++ x1 ++ x2 ++ 1#15) 10 5 = 0#5 := by
  show BitVec.extractLsb' 10 5 (x0 ++ x1 ++ x2 ++ 1#15 : BitVec (6 + 6 + 5 + 15)) = 0#5
  repeat (first | rw [BitVec.extractLsb'_append_eq_of_le (by omega)] | rw [BitVec.extractLsb'_append_eq_of_add_le (by omega)])
  rfl

theorem fld_6_6_5_15_0_10_c2 (x0 : BitVec 6) (x1 : BitVec 6) (x2 : BitVec 5) :
    fld (x0 ++ x1 ++ x2 ++ 2#15) 0 10 = 2#10 := by
  show BitVec.extractLsb' 0 10 (x0 ++ x1 ++ x2 ++ 2#15 : BitVec (6 + 6 + 5 + 15)) = 2#10
  repeat (first | rw [BitVec.extractLsb'_append_eq_of_le (by omega)] | rw [BitVec.extractLsb'_append_eq_of_add_le (by omega)])
  rfl

theorem fld_6_6_5_15_10_5_c2 (x0 : BitVec 6) (x1 : BitVec 6) (x2 : BitVec 5) :
    fld (x0 ++ x1 ++ x2 ++ 2#15) 10 5 = 0#5 := by
  show BitVec.extractLsb' 10 5 (x0 ++ x1 ++ x2 ++ 2#15 : BitVec (6 + 6 + 5 + 15)) = 0#5
  repeat (first | rw [BitVec.extractLsb'_append_eq_of_le (by omega)] | rw [BitVec.extractLsb'_append_eq_of_add_le (by omega)])
  rfl

theorem fld_6_6_5_15_0_10_c3 (x0 : BitVec 6) (x1 : BitVec 6) (x2 : BitVec 5) :
    fld (x0 ++ x1 ++ x2 ++ 3#15) 0 10 = 3#10 := by
  show BitVec.extractLsb' 0 10 (x0 ++ x1 ++ x2 ++ 3#15 : BitVec (6 + 6 + 5 + 15)) = 3#10
  repeat (first | rw [BitVec.extractLsb'_append_eq_of_le (by omega)] | rw [BitVec.extractLsb'_append_eq_of_add_le (by omega)])
  rfl

theorem fld_6_6_5_15_10_5_c3 (x0 : BitVec 6) (x1 : BitVec 6) (x2 : BitVec 5) :
    fld (x0 ++ x1 ++ x2 ++ 3#15) 10 5 = 0#5 := by
  show BitVec.extractLsb' 10 5 (x0 ++ x1 ++ x2 ++ 3#15 : BitVec (6 + 6 + 5 + 15)) = 0#5
  repeat (first | rw [BitVec.extractLsb'_append_eq_of_le (by omega)] | rw [BitVec.extractLsb'_append_eq_of_add_le (by omega)])
  rfl

theorem fld_6_6_5_5_10_0_5_c2 (x0 : BitVec 6) (x1 : BitVec 6) (x2 : BitVec 5) (x3 : BitVec 5) :
    fld (x0 ++ x1 ++ x2 ++ x3 ++ 2#10) 0 5 = 2#5 := by
  show BitVec.extractLsb' 0 5 (x0 ++ x1 ++ x2 ++ x3 ++ 2#10 : BitVec (6 + 6 + 5 + 5 + 10)) = 2#5
  repeat (first | rw [BitVec.extractLsb'_append_eq_of_le (by omega)] | rw [BitVec.extractLsb'_append_eq_of_add_le (by omega)])
  rfl

theorem fld_6_6_5_5_10_5_5_c2 (x0 : BitVec 6) (x1 : BitVec 6) (x2 : BitVec 5) (x3 : BitVec 5) :
    fld (x0 ++ x1 ++ x2 ++ x3 ++ 2#10) 5 5 = 0#5 := by
  show BitVec.extractLsb' 5 5 (x0 ++ x1 ++ x2 ++ x3 ++ 2#10 : BitVec (6 + 6 + 5 + 5 + 10)) = 0#5
  repeat (first | rw [BitVec.extractLsb'_append_eq_of_le (by omega)] | rw [BitVec.extractLsb'_append_eq_of_add_le (by omega)])
  rfl

theorem fld_6_6_5_5_10_0_5_c3 (x0 : BitVec 6) (x1 : BitVec 6) (x2 : BitVec 5) (x3 : BitVec 5) :
    fld (x0 ++ x1 ++ x2 ++ x3 ++ 3#10) 0 5 = 3#5 := by
  show BitVec.extractLsb' 0 5 (x0 ++ x1 ++ x2 ++ x3 ++ 3#10 : BitVec (6 + 6 + 5 + 5 + 10)) = 3#5
  repeat (first | rw [BitVec.extractLsb'_append_eq_of_le (by omega)] | rw [BitVec.extractLsb'_append_eq_of_add_le (by omega)])
  rfl

theorem fld_6_6_5_5_10_5_5_c3 (x0 : BitVec 6) (x1 : BitVec 6) (x2 : BitVec 5) (x3 : BitVec 5) :
    fld (x0 ++ x1 ++ x2 ++ x3 ++ 3#10) 5 5 = 0#5 := by
  show BitVec.extractLsb' 5 5 (x0 ++ x1 ++ x2 ++ x3 ++ 3#10 : BitVec (6 + 6 + 5 + 5 + 10)) = 0#5
  repeat (first | rw [BitVec.extractLsb'_append_eq_of_le (by omega)] | rw [BitVec.extractLsb'_append_eq_of_add_le (by omega)])
  rfl

theorem fld_6_6_20_0_5_z2 (x0 : BitVec 6) (x1 : BitVec 6) :
    fld (x0 ++ x1 ++ 0#20) 0 5 = 0#5 := by
  show BitVec.extractLsb' 0 5 (x0 ++ x1 ++ 0#20 : BitVec (6 + 6 + 20)) = 0#5
  repeat (first | rw [BitVec.extractLsb'_append_eq_of_le (by omega)] | rw [BitVec.extractLsb'_append_eq_of_add_le (by omega)])
  exact BitVec.extractLsb'_zero

theorem fld_6_6_20_0_10_z2 (x0 : BitVec 6) (x1 : BitVec 6) :
    fld (x0 ++ x1 ++ 0#20) 0 10 = 0#10 := by
  show BitVec.extractLsb' 0 10 (x0 ++ x1 ++ 0#20 : BitVec (6 + 6 + 20)) = 0#10
  repeat (first | rw [BitVec.extractLsb'_append_eq_of_le (by omega)] | rw [BitVec.extractLsb'_append_eq_of_add_le (by omega)])
  exact BitVec.extractLsb'_zero

theorem fld_6_6_20_0 (x0 : BitVec 6) (x1 : BitVec 6) (x2 : BitVec 20) :
    fld (x0 ++ x1 ++ x2) 0 20 = x2 := by
  show BitVec.extractLsb' 0 20 (x0 ++ x1 ++ x2 : BitVec (6 + 6 + 20)) = x2
  repeat (first | rw [BitVec.extractLsb'_append_eq_of_le (by omega)] | rw [BitVec.extractLsb'_append_eq_of_add_le (by omega)])
  exact BitVec.extractLsb'_eq_self

theorem fld_6_6_20_5_5_z2 (x0 : BitVec 6) (x1 : BitVec 6) :
    fld (x0 ++ x1 ++ 0#20) 5 5 = 0#5 := by
  show BitVec.extractLsb' 5 5 (x0 ++ x1 ++ 0#20 : BitVec (6 + 6 + 20)) = 0#5
  repeat (first | rw [BitVec.extractLsb'_append_eq_of_le (by omega)] | rw [BitVec.extractLsb'_append_eq_of_add_le (by omega)])
  exact BitVec.extractLsb'_zero

theorem fld_6_6_20_10_5_z2 (x0 : BitVec 6) (x1 : BitVec 6) :
    fld (x0 ++ x1 ++ 0#20) 10 5 = 0#5 := by
  show BitVec.extractLsb' 10 5 (x0 ++ x1 ++ 0#20 : BitVec (6 + 6 + 20)) = 0#5
  repeat (first | rw [BitVec.extractLsb'_append_eq_of_le (by omega)] | rw [BitVec.extractLsb'_append_eq_of_add_le (by omega)])
  exact BitVec.extractLsb'_zero

theorem fld_6_6_20_15_5_z2 (x0 : BitVec 6) (x1 : BitVec 6) :
    fld (x0 ++ x1 ++ 0#20) 15 5 = 0#5 := by
  show BitVec.extractLsb' 15 5 (x0 ++ x1 ++ 0#20 : BitVec (6 + 6 + 20)) = 0#5
  repeat (first | rw [BitVec.extractLsb'_append_eq_of_le (by omega)] | rw [BitVec.extractLsb'_append_eq_of_add_le (by omega)])
  exact BitVec.extractLsb'_zero

theorem fld_6_6_20_20 (x0 : BitVec 6) (x1 : BitVec 6) (x2 : BitVec 20) :
    fld (x0 ++ x1 ++ x2) 20 6 = x1 := by
  show BitVec.extractLsb' 20 6 (x0 ++ x1 ++ x2 : BitVec (6 + 6 + 20)) = x1
  repeat (first | rw [BitVec.extractLsb'_append_eq_of_le (by omega)] | rw [BitVec.extractLsb'_append_eq_of_add_le (by omega)])
  exact BitVec.extractLsb'_eq_self

theorem fld_6_6_20_26 (x0 : BitVec 6) (x1 : BitVec 6) (x2 : BitVec 20) :
    fld (x0 ++ x1 ++ x2) 26 6 = x0 := by
  show BitVec.extractLsb' 26 6 (x0 ++ x1 ++ x2 : BitVec (6 + 6 + 20)) = x0
  repeat (first | rw [BitVec.extractLsb'_append_eq_of_le (by omega)] | rw [BitVec.extractLsb'_append_eq_of_add_le (by omega)])
  exact BitVec.extractLsb'_eq_self

theorem fld_6_6_5_5_5_5_15_3_z2 (x0 : BitVec 6) (x1 : BitVec 6) (x3 : BitVec 5) (x4 : BitVec 5) (x5 : BitVec 5) :
    fld (x0 ++ x1 ++ 0#5 ++ x3 ++ x4 ++ x5) 15 3 = 0#3 := by
  show BitVec.extractLsb' 15 3 (x0 ++ x1 ++ 0#5 ++ x3 ++ x4 ++ x5 : BitVec (6 + 6 + 5 + 5 + 5 + 5)) = 0#3
  repeat (first | rw [BitVec.extractLsb'_append_eq_of_le (by omega)] | rw [BitVec.extractLsb'_append_eq_of_add_le (by omega)])
  exact BitVec.extractLsb'_zero

theorem fld_6_6_5_5_5_5_18_2_z2 (x0 : BitVec 6) (x1 : BitVec 6) (x3 : BitVec 5) (x4 : BitVec 5) (x5 : BitVec 5) :
    fld (x0 ++ x1 ++ 0#5 ++ x3 ++ x4 ++ x5) 18 2 = 0#2 := by
  show BitVec.extractLsb' 18 2 (x0 ++ x1 ++ 0#5 ++ x3 ++ x4 ++ x5 : BitVec (6 + 6 + 5 + 5 + 5 + 5)) = 0#2
  repeat (first | rw [BitVec.extractLsb'_append_eq_of_le (by omega)] | rw [BitVec.extractLsb'_append_eq_of_add_le (by omega)])
  exact BitVec.extractLsb'_zero

theorem fld_6_6_20_0_15_z2 (x0 : BitVec 6) (x1 : BitVec 6) :
    fld (x0 ++ x1 ++ 0#20) 0 15 = 0#15 := by
  show BitVec.extractLsb' 0 15 (x0 ++ x1 ++ 0#20 : BitVec (6 + 6 + 20)) = 0#15
  repeat (first | rw [BitVec.extractLsb'_append_eq_of_le (by omega)] | rw [BitVec.extractLsb'_append_eq_of_add_le (by omega)])
  exact BitVec.extractLsb'_zero

theorem fld_6_6_20_15_3_z2 (x0 : BitVec 6) (x1 : BitVec 6) :
    fld (x0 ++ x1 ++ 0#20) 15 3 = 0#3 := by
  show BitVec.extractLsb' 15 3 (x0 ++ x1 ++ 0#20 : BitVec (6 + 6 + 20)) = 0#3
  repeat (first | rw [BitVec.extractLsb'_append_eq_of_le (by omega)] | rw [BitVec.extractLsb'_append_eq_of_add_le (by omega)])
  exact BitVec.extractLsb'_zero

theorem fld_6_6_20_18_2_z2 (x0 : BitVec 6) (x1 : BitVec 6) :
    fld (x0 ++ x1 ++ 0#20) 18 2 = 0#2 := by
  show BitVec.extractLsb' 18 2 (x0 ++ x1 ++ 0#20 : BitVec (6 + 6 + 20)) = 0#2
  repeat (first | rw [BitVec.extractLsb'_append_eq_of_le (by omega)] | rw [BitVec.extractLsb'_append_eq_of_add_le (by omega)])
  exact BitVec.extractLsb'_zero

theorem fld_6_6_2_3_5_5_5_0 (x0 : BitVec 6) (x1 : BitVec 6) (x2 : BitVec 2) (x3 : BitVec 3) (x4 : BitVec 5) (x5 : BitVec 5) (x6 : BitVec 5) :
    fld (x0 ++ x1 ++ x2 ++ x3 ++ x4 ++ x5 ++ x6) 0 5 = x6 := by
  show BitVec.extractLsb' 0 5 (x0 ++ x1 ++ x2 ++ x3 ++ x4 ++ x5 ++ x6 : BitVec (6 + 6 + 2 + 3 + 5 + 5 + 5)) = x6
  repeat (first | rw [BitVec.extractLsb'_append_eq_of_le (by omega)] | rw [BitVec.extractLsb'_append_eq_of_add_le (by omega)])
  exact BitVec.extractLsb'_eq_self

theorem fld_6_6_2_3_5_5_5_5 (x0 : BitVec 6) (x1 : BitVec 6) (x2 : BitVec 2) (x3 : BitVec 3) (x4 : BitVec 5) (x5 : BitVec 5) (x6 : BitVec 5) :
    fld (x0 ++ x1 ++ x2 ++ x3 ++ x4 ++ x5 ++ x6) 5 5 = x5 := by
  show BitVec.extractLsb' 5 5 (x0 ++ x1 ++ x2 ++ x3 ++ x4 ++ x5 ++ x6 : BitVec (6 + 6 + 2 + 3 + 5 + 5 + 5)) = x5
  repeat (first | rw [BitVec.extractLsb'_append_eq_of_le (by omega)] | rw [BitVec.extractLsb'_append_eq_of_add_le (by omega)])
  exact BitVec.extractLsb'_eq_self

theorem fld_6_6_2_3_5_5_5_10 (x0 : BitVec 6) (x1 : BitVec 6) (x2 : BitVec 2) (x3 : BitVec 3) (x4 : BitVec 5) (x5 : BitVec 5) (x6 : BitVec 5) :
    fld (x0 ++ x1 ++ x2 ++ x3 ++ x4 ++ x5 ++ x6) 10 5 = x4 := by
  show BitVec.extractLsb' 10 5 (x0 ++ x1 ++ x2 ++ x3 ++ x4 ++ x5 ++ x6 : BitVec (6 + 6 + 2 + 3 + 5 + 5 + 5)) = x4
  repeat (first | rw [BitVec.extractLsb'_append_eq_of_le (by omega)] | rw [BitVec.extractLsb'_append_eq_of_add_le (by omega)])
  exact BitVec.extractLsb'_eq_self

theorem fld_6_6_2_3_5_5_5_15 (x0 : BitVec 6) (x1 : BitVec 6) (x2 : BitVec 2) (x3 : BitVec 3) (x4 : BitVec 5) (x5 : BitVec 5) (x6 : BitVec 5) :
    fld (x0 ++ x1 ++ x2 ++ x3 ++ x4 ++ x5 ++ x6) 15 3 = x3 := by
  show BitVec.extractLsb' 15 3 (x0 ++ x1 ++ x2 ++ x3 ++ x4 ++ x5 ++ x6 : BitVec (6 + 6 + 2 + 3 + 5 + 5 + 5)) = x3
  repeat (first | rw [BitVec.extractLsb'_append_eq_of_le (by omega)] | rw [BitVec.extractLsb'_append_eq_of_add_le (by omega)])
  exact BitVec.extractLsb'_eq_self

theorem fld_6_6_2_3_5_5_5_18 (x0 : BitVec 6) (x1 : BitVec 6) (x2 : BitVec 2) (x3 : BitVec 3) (x4 : BitVec 5) (x5 : BitVec 5) (x6 : BitVec 5) :
    fld (x0 ++ x1 ++ x2 ++ x3 ++ x4 ++ x5 ++ x6) 18 2 = x2 := by
  show BitVec.extractLsb' 18 2 (x0 ++ x1 ++ x2 ++ x3 ++ x4 ++ x5 ++ x6 : BitVec (6 + 6 + 2 + 3 + 5 + 5 + 5)) = x2
  repeat (first | rw [BitVec.extractLsb'_append_eq_of_le (by omega)] | rw [BitVec.extractLsb'_append_eq_of_add_le (by omega)])
  exact BitVec.extractLsb'_eq_self

theorem fld_6_6_2_3_5_5_5_20 (x0 : BitVec 6) (x1 : BitVec 6) (x2 : BitVec 2) (x3 : BitVec 3) (x4 : BitVec 5) (x5 : BitVec 5) (x6 : BitVec 5) :
    fld (x0 ++ x1 ++ x2 ++ x3 ++ x4 ++ x5 ++ x6) 20 6 = x1 := by
  show BitVec.extractLsb' 20 6 (x0 ++ x1 ++ x2 ++ x3 ++ x4 ++ x5 ++ x6 : BitVec (6 + 6 + 2 + 3 + 5 + 5 + 5)) = x1
  repeat (first | rw [BitVec.extractLsb'_append_eq_of_le (by omega)] | rw [BitVec.extractLsb'_append_eq_of_add_le (by omega)])
  exact BitVec.extractLsb'_eq_self

theorem fld_6_6_2_3_5_5_5_26 (x0 : BitVec 6) (x1 : BitVec 6) (x2 : BitVec 2) (x3 : BitVec 3) (x4 : BitVec 5) (x5 : BitVec 5) (x6 : BitVec 5) :
    fld (x0 ++ x1 ++ x2 ++ x3 ++ x4 ++ x5 ++ x6) 26 6 = x0 := by
  show BitVec.extractLsb' 26 6 (x0 ++ x1 ++ x2 ++ x3 ++ x4 ++ x5 ++ x6 : BitVec (6 + 6 + 2 + 3 + 5 + 5 + 5)) = x0
  repeat (first | rw [BitVec.extractLsb'_append_eq_of_le (by omega)] | rw [BitVec.extractLsb'_append_eq_of_add_le (by omega)])
  exact BitVec.extractLsb'_eq_self

theorem fld_6_6_2_3_15_0_5_z4 (x0 : BitVec 6) (x1 : BitVec 6) (x2 : BitVec 2) (x3 : BitVec 3) :
    fld (x0 ++ x1 ++ x2 ++ x3 ++ 0#15) 0 5 = 0#5 := by
  show BitVec.extractLsb' 0 5 (x0 ++ x1 ++ x2 ++ x3 ++ 0#15 : BitVec (6 + 6 + 2 + 3 + 15)) = 0#5
  repeat (first | rw [BitVec.extractLsb'_append_eq_of_le (by omega)] | rw [BitVec.extractLsb'_append_eq_of_add_le (by omega)])
  exact BitVec.extractLsb'_zero

theorem fld_6_6_2_3_15_0_10_z4 (x0 : BitVec 6) (x1 : BitVec 6) (x2 : BitVec 2) (x3 : BitVec 3) :
    fld (x0 ++ x1 ++ x2 ++ x3 ++ 0#15) 0 10 = 0#10 := by
  show BitVec.extractLsb' 0 10 (x0 ++ x1 ++ x2 ++ x3 ++ 0#15 : BitVec (6 + 6 + 2 + 3 + 15)) = 0#10
  repeat (first | rw [BitVec.extractLsb'_append_eq_of_le (by omega)] | rw [BitVec.extractLsb'_append_eq_of_add_le (by omega)])
  exact BitVec.extractLsb'_zero

theorem fld_6_6_2_3_15_0 (x0 : BitVec 6) (x1 : BitVec 6) (x2 : BitVec 2) (x3 : BitVec 3) (x4 : BitVec 15) :
    fld (x0 ++ x1 ++ x2 ++ x3 ++ x4) 0 15 = x4 := by
  show BitVec.extractLsb' 0 15 (x0 ++ x1 ++ x2 ++ x3 ++ x4 : BitVec (6 + 6 + 2 + 3 + 15)) = x4
  repeat (first | rw [BitVec.extractLsb'_append_eq_of_le (by omega)] | rw [BitVec.extractLsb'_append_eq_of_add_le (by omega)])
  exact BitVec.extractLsb'_eq_self

theorem fld_6_6_2_3_15_5_5_z4 (x0 : BitVec 6) (x1 : BitVec 6) (x2 : BitVec 2) (x3 : BitVec 3) :
    fld (x0 ++ x1 ++ x2 ++ x3 ++ 0#15) 5 5 = 0#5 := by
  show BitVec.extractLsb' 5 5 (x0 ++ x1 ++ x2 ++ x3 ++ 0#15 : BitVec (6 + 6 + 2 + 3 + 15)) = 0#5
  repeat (first | rw [BitVec.extractLsb'_append_eq_of_le (by omega)] | rw [BitVec.extractLsb'_append_eq_of_add_le (by omega)])
  exact BitVec.extractLsb'_zero

theorem fld_6_6_2_3_15_10_5_z4 (x0 : BitVec 6) (x1 : BitVec 6) (x2 : BitVec 2) (x3 : BitVec 3) :
    fld (x0 ++ x1 ++ x2 ++ x3 ++ 0#15) 10 5 = 0#5 := by
  show BitVec.extractLsb' 10 5 (x0 ++ x1 ++ x2 ++ x3 ++ 0#15 : BitVec (6 + 6 + 2 + 3 + 15)) = 0#5
  repeat (first | rw [BitVec.extractLsb'_append_eq_of_le (by omega)] | rw [BitVec.extractLsb'_append_eq_of_add_le (by omega)])
  exact BitVec.extractLsb'_zero

theorem fld_6_6_2_3_15_15 (x0 : BitVec 6) (x1 : BitVec 6) (x2 : BitVec 2) (x3 : BitVec 3) (x4 : BitVec 15) :
    fld (x0 ++ x1 ++ x2 ++ x3 ++ x4) 15 3 = x3 := by
  show BitVec.extractLsb' 15 3 (x0 ++ x1 ++ x2 ++ x3 ++ x4 : BitVec (6 + 6 + 2 + 3 + 15)) = x3
  repeat (first | rw [BitVec.extractLsb'_append_eq_of_le (by omega)] | rw [BitVec.extractLsb'_append_eq_of_add_le (by omega)])
  exact BitVec.extractLsb'_eq_self

theorem fld_6_6_2_3_15_18 (x0 : BitVec 6) (x1 : BitVec 6) (x2 : BitVec 2) (x3 : BitVec 3) (x4 : BitVec 15) :
    fld (x0 ++ x1 ++ x2 ++ x3 ++ x4) 18 2 = x2 := by
  show BitVec.extractLsb' 18 2 (x0 ++ x1 ++ x2 ++ x3 ++ x4 : BitVec (6 + 6 + 2 + 3 + 15)) = x2
  repeat (first | rw [BitVec.extractLsb'_append_eq_of_le (by omega)] | rw [BitVec.extractLsb'_append_eq_of_add_le (by omega)])
  exact BitVec.extractLsb'_eq_self

theorem fld_6_6_2_3_15_20 (x0 : BitVec 6) (x1 : BitVec 6) (x2 : BitVec 2) (x3 : BitVec 3) (x4 : BitVec 15) :
    fld (x0 ++ x1 ++ x2 ++ x3 ++ x4) 20 6 = x1 := by
  show BitVec.extractLsb' 20 6 (x0 ++ x1 ++ x2 ++ x3 ++ x4 : BitVec (6 + 6 + 2 + 3 + 15)) = x1
  repeat (first | rw [BitVec.extractLsb'_append_eq_of_le (by omega)] | rw [BitVec.extractLsb'_append_eq_of_add_le (by omega)])
  exact BitVec.extractLsb'_eq_self

theorem fld_6_6_2_3_15_26 (x0 : BitVec 6) (x1 : BitVec 6) (x2 : BitVec 2) (x3 : BitVec 3) (x4 : BitVec 15) :
    fld (x0 ++ x1 ++ x2 ++ x3 ++ x4) 26 6 = x0 := by
  show BitVec.extractLsb' 26 6 (x0 ++ x1 ++ x2 ++ x3 ++ x4 : BitVec (6 + 6 + 2 + 3 + 15)) = x0
  repeat (first | rw [BitVec.extractLsb'_append_eq_of_le (by omega)] | rw [BitVec.extractLsb'_append_eq_of_add_le (by omega)])
  exact BitVec.extractLsb'_eq_self

theorem fld_6_6_5_5_3_2_5_0 (x0 : BitVec 6) (x1 : BitVec 6) (x2 : BitVec 5) (x3 : BitVec 5) (x4 : BitVec 3) (x5 : BitVec 2) (x6 : BitVec 5) :
    fld (x0 ++ x1 ++ x2 ++ x3 ++ x4 ++ x5 ++ x6) 0 5 = x6 := by
  show BitVec.extractLsb' 0 5 (x0 ++ x1 ++ x2 ++ x3 ++ x4 ++ x5 ++ x6 : BitVec (6 + 6 + 5 + 5 + 3 + 2 + 5)) = x6
  repeat (first | rw [BitVec.extractLsb'_append_eq_of_le (by omega)] | rw [BitVec.extractLsb'_append_eq_of_add_le (by omega)])
  exact BitVec.extractLsb'_eq_self

theorem fld_6_6_5_5_3_2_5_5 (x0 : BitVec 6) (x1 : BitVec 6) (x2 : BitVec 5) (x3 : BitVec 5) (x4 : BitVec 3) (x5 : BitVec 2) (x6 : BitVec 5) :
    fld (x0 ++ x1 ++ x2 ++ x3 ++ x4 ++ x5 ++ x6) 5 2 = x5 := by
  show BitVec.extractLsb' 5 2 (x0 ++ x1 ++ x2 ++ x3 ++ x4 ++ x5 ++ x6 : BitVec (6 + 6 + 5 + 5 + 3 + 2 + 5)) = x5
  repeat (first | rw [BitVec.extractLsb'_append_eq_of_le (by omega)] | rw [BitVec.extractLsb'_append_eq_of_add_le (by omega)])
  exact BitVec.extractLsb'_eq_self

theorem fld_6_6_5_5_3_2_5_7 (x0 : BitVec 6) (x1 : BitVec 6) (x2 : BitVec 5) (x3 : BitVec 5) (x4 : BitVec 3) (x5 : BitVec 2) (x6 : BitVec 5) :
    fld (x0 ++ x1 ++ x2 ++ x3 ++ x4 ++ x5 ++ x6) 7 3 = x4 := by
  show BitVec.extractLsb' 7 3 (x0 ++ x1 ++ x2 ++ x3 ++ x4 ++ x5 ++ x6 : BitVec (6 + 6 + 5 + 5 + 3 + 2 + 5)) = x4
  repeat (first | rw [BitVec.extractLsb'_append_eq_of_le (by omega)] | rw [BitVec.extractLsb'_append_eq_of_add_le (by omega)])
  exact BitVec.extractLsb'_eq_self

theorem fld_6_6_5_5_3_2_5_10 (x0 : BitVec 6) (x1 : BitVec 6) (x2 : BitVec 5) (x3 : BitVec 5) (x4 : BitVec 3) (x5 : BitVec 2) (x6 : BitVec 5) :
    fld (x0 ++ x1 ++ x2 ++ x3 ++ x4 ++ x5 ++ x6) 10 5 = x3 := by
  show BitVec.extractLsb' 10 5 (x0 ++ x1 ++ x2 ++ x3 ++ x4 ++ x5 ++ x6 : BitVec (6 + 6 + 5 + 5 + 3 + 2 + 5)) = x3
  repeat (first | rw [BitVec.extractLsb'_append_eq_of_le (by omega)] | rw [BitVec.extractLsb'_append_eq_of_add_le (by omega)])
  exact BitVec.extractLsb'_eq_self

theorem fld_6_6_5_5_3_2_5_15 (x0 : BitVec 6) (x1 : BitVec 6) (x2 : BitVec 5) (x3 : BitVec 5) (x4 : BitVec 3) (x5 : BitVec 2) (x6 : BitVec 5) :
    fld (x0 ++ x1 ++ x2 ++ x3 ++ x4 ++ x5 ++ x6) 15 5 = x2 := by
  show BitVec.extractLsb' 15 5 (x0 ++ x1 ++ x2 ++ x3 ++ x4 ++ x5 ++ x6 : BitVec (6 + 6 + 5 + 5 + 3 + 2 + 5)) = x2
  repeat (first | rw [BitVec.extractLsb'_append_eq_of_le (by omega)] | rw [BitVec.extractLsb'_append_eq_of_add_le (by omega)])
  exact BitVec.extractLsb'_eq_self

theorem fld_6_6_5_5_3_2_5_20 (x0 : BitVec 6) (x1 : BitVec 6) (x2 : BitVec 5) (x3 : BitVec 5) (x4 : BitVec 3) (x5 : BitVec 2) (x6 : BitVec 5) :
    fld (x0 ++ x1 ++ x2 ++ x3 ++ x4 ++ x5 ++ x6) 20 6 = x1 := by
  show BitVec.extractLsb' 20 6 (x0 ++ x1 ++ x2 ++ x3 ++ x4 ++ x5 ++ x6 : BitVec (6 + 6 + 5 + 5 + 3 + 2 + 5)) = x1
  repeat (first | rw [BitVec.extractLsb'_append_eq_of_le (by omega)] | rw [BitVec.extractLsb'_append_eq_of_add_le (by omega)])
  exact BitVec.extractLsb'_eq_self

theorem fld_6_6_5_5_3_2_5_26 (x0 : BitVec 6) (x1 : BitVec 6) (x2 : BitVec 5) (x3 : BitVec 5) (x4 : BitVec 3) (x5 : BitVec 2) (x6 : BitVec 5) :
    fld (x0 ++ x1 ++ x2 ++ x3 ++ x4 ++ x5 ++ x6) 26 6 = x0 := by
  show BitVec.extractLsb' 26 6 (x0 ++ x1 ++ x2 ++ x3 ++ x4 ++ x5 ++ x6 : BitVec (6 + 6 + 5 + 5 + 3 + 2 + 5)) = x0
  repeat (first | rw [BitVec.extractLsb'_append_eq_of_le (by omega)] | rw [BitVec.extractLsb'_append_eq_of_add_le (by omega)])
  exact BitVec.extractLsb'_eq_self

theorem fld_6_6_13_2_5_0 (x0 : BitVec 6) (x1 : BitVec 6) (x2 : BitVec 13) (x3 : BitVec 2) (x4 : BitVec 5) :
    fld (x0 ++ x1 ++ x2 ++ x3 ++ x4) 0 5 = x4 := by
  show BitVec.extractLsb' 0 5 (x0 ++ x1 ++ x2 ++ x3 ++ x4 : BitVec (6 + 6 + 13 + 2 + 5)) = x4
  repeat (first | rw [BitVec.extractLsb'_append_eq_of_le (by omega)] | rw [BitVec.extractLsb'_append_eq_of_add_le (by omega)])
  exact BitVec.extractLsb'_eq_self

theorem fld_6_6_13_2_5_5 (x0 : BitVec 6) (x1 : BitVec 6) (x2 : BitVec 13) (x3 : BitVec 2) (x4 : BitVec 5) :
    fld (x0 ++ x1 ++ x2 ++ x3 ++ x4) 5 2 = x3 := by
  show BitVec.extractLsb' 5 2 (x0 ++ x1 ++ x2 ++ x3 ++ x4 : BitVec (6 + 6 + 13 + 2 + 5)) = x3
  repeat (first | rw [BitVec.extractLsb'_append_eq_of_le (by omega)] | rw [BitVec.extractLsb'_append_eq_of_add_le (by omega)])
  exact BitVec.extractLsb'_eq_self

theorem fld_6_6_13_2_5_7_3_z2 (x0 : BitVec 6) (x1 : BitVec 6) (x3 : BitVec 2) (x4 : BitVec 5) :
    fld (x0 ++ x1 ++ 0#13 ++ x3 ++ x4) 7 3 = 0#3 := by
  show BitVec.extractLsb' 7 3 (x0 ++ x1 ++ 0#13 ++ x3 ++ x4 : BitVec (6 + 6 + 13 + 2 + 5)) = 0#3
  repeat (first | rw [BitVec.extractLsb'_append_eq_of_le (by omega)] | rw [BitVec.extractLsb'_append_eq_of_add_le (by omega)])
  exact BitVec.extractLsb'_zero

theorem fld_6_6_13_2_5_7 (x0 : BitVec 6) (x1 : BitVec 6) (x2 : BitVec 13) (x3 : BitVec 2) (x4 : BitVec 5) :
    fld (x0 ++ x1 ++ x2 ++ x3 ++ x4) 7 13 = x2 := by
  show BitVec.extractLsb' 7 13 (x0 ++ x1 ++ x2 ++ x3 ++ x4 : BitVec (6 + 6 + 13 + 2 + 5)) = x2
  repeat (first | rw [BitVec.extractLsb'_append_eq_of_le (by omega)] | rw [BitVec.extractLsb'_append_eq_of_add_le (by omega)])
  exact BitVec.extractLsb'_eq_self

theorem fld_6_6_13_2_5_10_5_z2 (x0 : BitVec 6) (x1 : BitVec 6) (x3 : BitVec 2) (x4 : BitVec 5) :
    fld (x0 ++ x1 ++ 0#13 ++ x3 ++ x4) 10 5 = 0#5 := by
  show BitVec.extractLsb' 10 5 (x0 ++ x1 ++ 0#13 ++ x3 ++ x4 : BitVec (6 + 6 + 13 + 2 + 5)) = 0#5
  repeat (first | rw [BitVec.extractLsb'_append_eq_of_le (by omega)] | rw [BitVec.extractLsb'_append_eq_of_add_le (by omega)])
  exact BitVec.extractLsb'_zero

theorem fld_6_6_13_2_5_10_10_z2 (x0 : BitVec 6) (x1 : BitVec 6) (x3 : BitVec 2) (x4 : BitVec 5) :
    fld (x0 ++ x1 ++ 0#13 ++ x3 ++ x4) 10 10 = 0#10 := by
  show BitVec.extractLsb' 10 10 (x0 ++ x1 ++ 0#13 ++ x3 ++ x4 : BitVec (6 + 6 + 13 + 2 + 5)) = 0#10
  repeat (first | rw [BitVec.extractLsb'_append_eq_of_le (by omega)] | rw [BitVec.extractLsb'_append_eq_of_add_le (by omega)])
  exact BitVec.extractLsb'_zero

theorem fld_6_6_13_2_5_15_5_z2 (x0 : BitVec 6) (x1 : BitVec 6) (x3 : BitVec 2) (x4 : BitVec 5) :
    fld (x0 ++ x1 ++ 0#13 ++ x3 ++ x4) 15 5 = 0#5 := by
  show BitVec.extractLsb' 15 5 (x0 ++ x1 ++ 0#13 ++ x3 ++ x4 : BitVec (6 + 6 + 13 + 2 + 5)) = 0#5
  repeat (first | rw [BitVec.extractLsb'_append_eq_of_le (by omega)] | rw [BitVec.extractLsb'_append_eq_of_add_le (by omega)])
  exact BitVec.extractLsb'_zero

theorem fld_6_6_13_2_5_20 (x0 : BitVec 6) (x1 : BitVec 6) (x2 : BitVec 13) (x3 : BitVec 2) (x4 : BitVec 5) :
    fld (x0 ++ x1 ++ x2 ++ x3 ++ x4) 20 6 = x1 := by
  show BitVec.extractLsb' 20 6 (x0 ++ x1 ++ x2 ++ x3 ++ x4 : BitVec (6 + 6 + 13 + 2 + 5)) = x1
  repeat (first | rw [BitVec.extractLsb'_append_eq_of_le (by omega)] | rw [BitVec.extractLsb'_append_eq_of_add_le (by omega)])
  exact BitVec.extractLsb'_eq_self

theorem fld_6_6_13_2_5_26 (x0 : BitVec 6) (x1 : BitVec 6) (x2 : BitVec 13) (x3 : BitVec 2) (x4 : BitVec 5) :
    fld (x0 ++ x1 ++ x2 ++ x3 ++ x4) 26 6 = x0 := by
  show BitVec.extractLsb' 26 6 (x0 ++ x1 ++ x2 ++ x3 ++ x4 : BitVec (6 + 6 + 13 + 2 + 5)) = x0
  repeat (first | rw [BitVec.extractLsb'_append_eq_of_le (by omega)] | rw [BitVec.extractLsb'_append_eq_of_add_le (by omega)])
  exact BitVec.extractLsb'_eq_self

theorem fld_6_6_5_5_10_5_2_c1 (x0 : BitVec 6) (x1 : BitVec 6) (x2 : BitVec 5) (x3 : BitVec 5) :
    fld (x0 ++ x1 ++ x2 ++ x3 ++ 1#10) 5 2 = 0#2 := by
  show BitVec.extractLsb' 5 2 (x0 ++ x1 ++ x2 ++ x3 ++ 1#10 : BitVec (6 + 6 + 5 + 5 + 10)) = 0#2
  repeat (first | rw [BitVec.extractLsb'_append_eq_of_le (by omega)] | rw [BitVec.extractLsb'_append_eq_of_add_le (by omega)])
  rfl

theorem fld_6_6_5_5_10_7_3_c1 (x0 : BitVec 6) (x1 : BitVec 6) (x2 : BitVec 5) (x3 : BitVec 5) :
    fld (x0 ++ x1 ++ x2 ++ x3 ++ 1#10) 7 3 = 0#3 := by
  show BitVec.extractLsb' 7 3 (x0 ++ x1 ++ x2 ++ x3 ++ 1#10 : BitVec (6 + 6 + 5 + 5 + 10)) = 0#3
  repeat (first | rw [BitVec.extractLsb'_append_eq_of_le (by omega)] | rw [BitVec.extractLsb'_append_eq_of_add_le (by omega)])
  rfl

theorem fld_6_6_10_5_5_0 (x0 : BitVec 6) (x1 : BitVec 6) (x2 : BitVec 10) (x3 : BitVec 5) (x4 : BitVec 5) :
    fld (x0 ++ x1 ++ x2 ++ x3 ++ x4) 0 5 = x4 := by
  show BitVec.extractLsb' 0 5 (x0 ++ x1 ++ x2 ++ x3 ++ x4 : BitVec (6 + 6 + 10 + 5 + 5)) = x4
  repeat (first | rw [BitVec.extractLsb'_append_eq_of_le (by omega)] | rw [BitVec.extractLsb'_append_eq_of_add_le (by omega)])
  exact BitVec.extractLsb'_eq_self

theorem fld_6_6_10_5_5_5 (x0 : BitVec 6) (x1 : BitVec 6) (x2 : BitVec 10) (x3 : BitVec 5) (x4 : BitVec 5) :
    fld (x0 ++ x1 ++ x2 ++ x3 ++ x4) 5 5 = x3 := by
  show BitVec.extractLsb' 5 5 (x0 ++ x1 ++ x2 ++ x3 ++ x4 : BitVec (6 + 6 + 10 + 5 + 5)) = x3
  repeat (first | rw [BitVec.extractLsb'_append_eq_of_le (by omega)] | rw [BitVec.extractLsb'_append_eq_of_add_le (by omega)])
  exact BitVec.extractLsb'_eq_self

theorem fld_6_6_10_5_5_10_5_z2 (x0 : BitVec 6) (x1 : BitVec 6) (x3 : BitVec 5) (x4 : BitVec 5) :
    fld (x0 ++ x1 ++ 0#10 ++ x3 ++ x4) 10 5 = 0#5 := by
  show BitVec.extractLsb' 10 5 (x0 ++ x1 ++ 0#10 ++ x3 ++ x4 : BitVec (6 + 6 + 10 + 5 + 5)) = 0#5
  repeat (first | rw [BitVec.extractLsb'_append_eq_of_le (by omega)] | rw [BitVec.extractLsb'_append_eq_of_add_le (by omega)])
  exact BitVec.extractLsb'_zero

theorem fld_6_6_10_5_5_10 (x0 : BitVec 6) (x1 : BitVec 6) (x2 : BitVec 10) (x3 : BitVec 5) (x4 : BitVec 5) :
    fld (x0 ++ x1 ++ x2 ++ x3 ++ x4) 10 10 = x2 := by
  show BitVec.extractLsb' 10 10 (x0 ++ x1 ++ x2 ++ x3 ++ x4 : BitVec (6 + 6 + 10 + 5 + 5)) = x2
  repeat (first | rw [BitVec.extractLsb'_append_eq_of_le (by omega)] | rw [BitVec.extractLsb'_append_eq_of_add_le (by omega)])
  exact BitVec.extractLsb'_eq_self

theorem fld_6_6_10_5_5_15_5_z2 (x0 : BitVec 6) (x1 : BitVec 6) (x3 : BitVec 5) (x4 : BitVec 5) :
    fld (x0 ++ x1 ++ 0#10 ++ x3 ++ x4) 15 5 = 0#5 := by
  show BitVec.extractLsb' 15 5 (x0 ++ x1 ++ 0#10 ++ x3 ++ x4 : BitVec (6 + 6 + 10 + 5 + 5)) = 0#5
  repeat (first | rw [BitVec.extractLsb'_append_eq_of_le (by omega)] | rw [BitVec.extractLsb'_append_eq_of_add_le (by omega)])
  exact BitVec.extractLsb'_zero

theorem fld_6_6_10_5_5_20 (x0 : BitVec 6) (x1 : BitVec 6) (x2 : BitVec 10) (x3 : BitVec 5) (x4 : BitVec 5) :
    fld (x0 ++ x1 ++ x2 ++ x3 ++ x4) 20 6 = x1 := by
  show BitVec.extractLsb' 20 6 (x0 ++ x1 ++ x2 ++ x3 ++ x4 : BitVec (6 + 6 + 10 + 5 + 5)) = x1
  repeat (first | rw [BitVec.extractLsb'_append_eq_of_le (by omega)] | rw [BitVec.extractLsb'_append_eq_of_add_le (by omega)])
  exact BitVec.extractLsb'_eq_self

theorem fld_6_6_10_5_5_26 (x0 : BitVec 6) (x1 : BitVec 6) (x2 : BitVec 10) (x3 : BitVec 5) (x4 : BitVec 5) :
    fld (x0 ++ x1 ++ x2 ++ x3 ++ x4) 26 6 = x0 := by
  show BitVec.extractLsb' 26 6 (x0 ++ x1 ++ x2 ++ x3 ++ x4 : BitVec (6 + 6 + 10 + 5 + 5)) = x0
  repeat (first | rw [BitVec.extractLsb'_append_eq_of_le (by omega)] | rw [BitVec.extractLsb'_append_eq_of_add_le (by omega)])
  exact BitVec.extractLsb'_eq_self

theorem fld_6_6_5_5_10_5_2_z4 (x0 : BitVec 6) (x1 : BitVec 6) (x2 : BitVec 5) (x3 : BitVec 5) :
    fld (x0 ++ x1 ++ x2 ++ x3 ++ 0#10) 5 2 = 0#2 := by
  show BitVec.extractLsb' 5 2 (x0 ++ x1 ++ x2 ++ x3 ++ 0#10 : BitVec (6 + 6 + 5 + 5 + 10)) = 0#2
  repeat (first | rw [BitVec.extractLsb'_append_eq_of_le (by omega)] | rw [BitVec.extractLsb'_append_eq_of_add_le (by omega)])
  exact BitVec.extractLsb'_zero

theorem fld_6_6_5_5_10_7_3_z4 (x0 : BitVec 6) (x1 : BitVec 6) (x2 : BitVec 5) (x3 : BitVec 5) :
    fld (x0 ++ x1 ++ x2 ++ x3 ++ 0#10) 7 3 = 0#3 := by
  show BitVec.extractLsb' 7 3 (x0 ++ x1 ++ x2 ++ x3 ++ 0#10 : BitVec (6 + 6 + 5 + 5 + 10)) = 0#3
  repeat (first | rw [BitVec.extractLsb'_append_eq_of_le (by omega)] | rw [BitVec.extractLsb'_append_eq_of_add_le (by omega)])
  exact BitVec.extractLsb'_zero

theorem fld_6_6_5_10_5_0 (x0 : BitVec 6) (x1 : BitVec 6) (x2 : BitVec 5) (x3 : BitVec 10) (x4 : BitVec 5) :
    fld (x0 ++ x1 ++ x2 ++ x3 ++ x4) 0 5 = x4 := by
  show BitVec.extractLsb' 0 5 (x0 ++ x1 ++ x2 ++ x3 ++ x4 : BitVec (6 + 6 + 5 + 10 + 5)) = x4
  repeat (first | rw [BitVec.extractLsb'_append_eq_of_le (by omega)] | rw [BitVec.extractLsb'_append_eq_of_add_le (by omega)])
  exact BitVec.extractLsb'_eq_self

theorem fld_6_6_5_10_5_5_5_z3 (x0 : BitVec 6) (x1 : BitVec 6) (x2 : BitVec 5) (x4 : BitVec 5) :
    fld (x0 ++ x1 ++ x2 ++ 0#10 ++ x4) 5 5 = 0#5 := by
  show BitVec.extractLsb' 5 5 (x0 ++ x1 ++ x2 ++ 0#10 ++ x4 : BitVec (6 + 6 + 5 + 10 + 5)) = 0#5
  repeat (first | rw [BitVec.extractLsb'_append_eq_of_le (by omega)] | rw [BitVec.extractLsb'_append_eq_of_add_le (by omega)])
  exact BitVec.extractLsb'_zero

theorem fld_6_6_5_10_5_5 (x0 : BitVec 6) (x1 : BitVec 6) (x2 : BitVec 5) (x3 : BitVec 10) (x4 : BitVec 5) :
    fld (x0 ++ x1 ++ x2 ++ x3 ++ x4) 5 10 = x3 := by
  show BitVec.extractLsb' 5 10 (x0 ++ x1 ++ x2 ++ x3 ++ x4 : BitVec (6 + 6 + 5 + 10 + 5)) = x3
  repeat (first | rw [BitVec.extractLsb'_append_eq_of_le (by omega)] | rw [BitVec.extractLsb'_append_eq_of_add_le (by omega)])
  exact BitVec.extractLsb'_eq_self

theorem fld_6_6_5_10_5_10_5_z3 (x0 : BitVec 6) (x1 : BitVec 6) (x2 : BitVec 5) (x4 : BitVec 5) :
    fld (x0 ++ x1 ++ x2 ++ 0#10 ++ x4) 10 5 = 0#5 := by
  show BitVec.extractLsb' 10 5 (x0 ++ x1 ++ x2 ++ 0#10 ++ x4 : BitVec (6 + 6 + 5 + 10 + 5)) = 0#5
  repeat (first | rw [BitVec.extractLsb'_append_eq_of_le (by omega)] | rw [BitVec.extractLsb'_append_eq_of_add_le (by omega)])
  exact BitVec.extractLsb'_zero

theorem fld_6_6_5_10_5_15 (x0 : BitVec 6) (x1 : BitVec 6) (x2 : BitVec 5) (x3 : BitVec 10) (x4 : BitVec 5) :
    fld (x0 ++ x1 ++ x2 ++ x3 ++ x4) 15 5 = x2 := by
  show BitVec.extractLsb' 15 5 (x0 ++ x1 ++ x2 ++ x3 ++ x4 : BitVec (6 + 6 + 5 + 10 + 5)) = x2
  repeat (first | rw [BitVec.extractLsb'_append_eq_of_le (by omega)] | rw [BitVec.extractLsb'_append_eq_of_add_le (by omega)])
  exact BitVec.extractLsb'_eq_self

theorem fld_6_6_5_10_5_20 (x0 : BitVec 6) (x1 : BitVec 6) (x2 : BitVec 5) (x3 : BitVec 10) (x4 : BitVec 5) :
    fld (x0 ++ x1 ++ x2 ++ x3 ++ x4) 20 6 = x1 := by
  show BitVec.extractLsb' 20 6 (x0 ++ x1 ++ x2 ++ x3 ++ x4 : BitVec (6 + 6 + 5 + 10 + 5)) = x1
  repeat (first | rw [BitVec.extractLsb'_append_eq_of_le (by omega)] | rw [BitVec.extractLsb'_append_eq_of_add_le (by omega)])
  exact BitVec.extractLsb'_eq_self

theorem fld_6_6_5_10_5_26 (x0 : BitVec 6) (x1 : BitVec 6) (x2 : BitVec 5) (x3 : BitVec 10) (x4 : BitVec 5) :
    fld (x0 ++ x1 ++ x2 ++ x3 ++ x4) 26 6 = x0 := by
  show BitVec.extractLsb' 26 6 (x0 ++ x1 ++ x2 ++ x3 ++ x4 : BitVec (6 + 6 + 5 + 10 + 5)) = x0
  repeat (first | rw [BitVec.extractLsb'_append_eq_of_le (by omega)] | rw [BitVec.extractLsb'_append_eq_of_add_le (by omega)])
  exact BitVec.extractLsb'_eq_self

theorem fld_6_6_5_15_5_10_z3 (x0 : BitVec 6) (x1 : BitVec 6) (x2 : BitVec 5) :
    fld (x0 ++ x1 ++ x2 ++ 0#15) 5 10 = 0#10 := by
  show BitVec.extractLsb' 5 10 (x0 ++ x1 ++ x2 ++ 0#15 : BitVec (6 + 6 + 5 + 15)) = 0#10
  repeat (first | rw [BitVec.extractLsb'_append_eq_of_le (by omega)] | rw [BitVec.extractLsb'_append_eq_of_add_le (by omega)])
  exact BitVec.extractLsb'_zero

theorem fld_6_6_15_5_0 (x0 : BitVec 6) (x1 : BitVec 6) (x2 : BitVec 15) (x3 : BitVec 5) :
    fld (x0 ++ x1 ++ x2 ++ x3) 0 5 = x3 := by
  show BitVec.extractLsb' 0 5 (x0 ++ x1 ++ x2 ++ x3 : BitVec (6 + 6 + 15 + 5)) = x3
  repeat (first | rw [BitVec.extractLsb'_append_eq_of_le (by omega)] | rw [BitVec.extractLsb'_append_eq_of_add_le (by omega)])
  exact BitVec.extractLsb'_eq_self

theorem fld_6_6_15_5_5_5_z2 (x0 : BitVec 6) (x1 : BitVec 6) (x3 : BitVec 5) :
    fld (x0 ++ x1 ++ 0#15 ++ x3) 5 5 = 0#5 := by
  show BitVec.extractLsb' 5 5 (x0 ++ x1 ++ 0#15 ++ x3 : BitVec (6 + 6 + 15 + 5)) = 0#5
  repeat (first | rw [BitVec.extractLsb'_append_eq_of_le (by omega)] | rw [BitVec.extractLsb'_append_eq_of_add_le (by omega)])
  exact BitVec.extractLsb'_zero

theorem fld_6_6_15_5_5_10_z2 (x0 : BitVec 6) (x1 : BitVec 6) (x3 : BitVec 5) :
    fld (x0 ++ x1 ++ 0#15 ++ x3) 5 10 = 0#10 := by
  show BitVec.extractLsb' 5 10 (x0 ++ x1 ++ 0#15 ++ x3 : BitVec (6 + 6 + 15 + 5)) = 0#10
  repeat (first | rw [BitVec.extractLsb'_append_eq_of_le (by omega)] | rw [BitVec.extractLsb'_append_eq_of_add_le (by omega)])
  exact BitVec.extractLsb'_zero

theorem fld_6_6_15_5_5 (x0 : BitVec 6) (x1 : BitVec 6) (x2 : BitVec 15) (x3 : BitVec 5) :
    fld (x0 ++ x1 ++ x2 ++ x3) 5 15 = x2 := by
  show BitVec.extractLsb' 5 15 (x0 ++ x1 ++ x2 ++ x3 : BitVec (6 + 6 + 15 + 5)) = x2
  repeat (first | rw [BitVec.extractLsb'_append_eq_of_le (by omega)] | rw [BitVec.extractLsb'_append_eq_of_add_le (by omega)])
  exact BitVec.extractLsb'_eq_self

theorem fld_6_6_15_5_10_5_z2 (x0 : BitVec 6) (x1 : BitVec 6) (x3 : BitVec 5) :
    fld (x0 ++ x1 ++ 0#15 ++ x3) 10 5 = 0#5 := by
  show BitVec.extractLsb' 10 5 (x0 ++ x1 ++ 0#15 ++ x3 : BitVec (6 + 6 + 15 + 5)) = 0#5
  repeat (first | rw [BitVec.extractLsb'_append_eq_of_le (by omega)] | rw [BitVec.extractLsb'_append_eq_of_add_le (by omega)])
  exact BitVec.extractLsb'_zero

theorem fld_6_6_15_5_10_10_z2 (x0 : BitVec 6) (x1 : BitVec 6) (x3 : BitVec 5) :
    fld (x0 ++ x1 ++ 0#15 ++ x3) 10 10 = 0#10 := by
  show BitVec.extractLsb' 10 10 (x0 ++ x1 ++ 0#15 ++ x3 : BitVec (6 + 6 + 15 + 5)) = 0#10
  repeat (first | rw [BitVec.extractLsb'_append_eq_of_le (by omega)] | rw [BitVec.extractLsb'_append_eq_of_add_le (by omega)])
  exact BitVec.extractLsb'_zero

theorem fld_6_6_15_5_15_5_z2 (x0 : BitVec 6) (x1 : BitVec 6) (x3 : BitVec 5) :
    fld (x0 ++ x1 ++ 0#15 ++ x3) 15 5 = 0#5 := by
  show BitVec.extractLsb' 15 5 (x0 ++ x1 ++ 0#15 ++ x3 : BitVec (6 + 6 + 15 + 5)) = 0#5
  repeat (first | rw [BitVec.extractLsb'_append_eq_of_le (by omega)] | rw [BitVec.extractLsb'_append_eq_of_add_le (by omega)])
  exact BitVec.extractLsb'_zero

theorem fld_6_6_15_5_20 (x0 : BitVec 6) (x1 : BitVec 6) (x2 : BitVec 15) (x3 : BitVec 5) :
    fld (x0 ++ x1 ++ x2 ++ x3) 20 6 = x1 := by
  show BitVec.extractLsb' 20 6 (x0 ++ x1 ++ x2 ++ x3 : BitVec (6 + 6 + 15 + 5)) = x1
  repeat (first | rw [BitVec.extractLsb'_append_eq_of_le (by omega)] | rw [BitVec.extractLsb'_append_eq_of_add_le (by omega)])
  exact BitVec.extractLsb'_eq_self

theorem fld_6_6_15_5_26 (x0 : BitVec 6) (x1 : BitVec 6) (x2 : BitVec 15) (x3 : BitVec 5) :
    fld (x0 ++ x1 ++ x2 ++ x3) 26 6 = x0 := by
  show BitVec.extractLsb' 26 6 (x0 ++ x1 ++ x2 ++ x3 : BitVec (6 + 6 + 15 + 5)) = x0
  repeat (first | rw [BitVec.extractLsb'_append_eq_of_le (by omega)] | rw [BitVec.extractLsb'_append_eq_of_add_le (by omega)])
  exact BitVec.extractLsb'_eq_self

theorem raw_01 (w : Word32) (h : fld w 26 6 = 1#6) : decodeRaw w = decode01 w := by
  simp only [decodeRaw, h, BitVec.reduceEq, false_and, reduceIte]

theorem raw_02 (w : Word32) (h : fld w 26 6 = 2#6) : decodeRaw w = some (.addi (fld w 21 5) (fld w 16 5) (fld w 0 16)) := by
  simp only [decodeRaw, h, BitVec.reduceEq, false_and, reduceIte]

theorem raw_03 (w : Word32) (h : fld w 26 6 = 3#6) : decodeRaw w = some (.andi (fld w 21 5) (fld w 16 5) (fld w 0 16)) := by
  simp only [decodeRaw, h, BitVec.reduceEq, false_and, reduceIte]

theorem raw_04 (w : Word32) (h : fld w 26 6 = 4#6) : decodeRaw w = some (.ori (fld w 21 5) (fld w 16 5) (fld w 0 16)) := by
  simp only [decodeRaw, h, BitVec.reduceEq, false_and, reduceIte]

theorem raw_05 (w : Word32) (h : fld w 26 6 = 5#6) : decodeRaw w = some (.xori (fld w 21 5) (fld w 16 5) (fld w 0 16)) := by
  simp only [decodeRaw, h, BitVec.reduceEq, false_and, reduceIte]

theorem raw_06 (w : Word32) (h : fld w 26 6 = 6#6) : decodeRaw w = some (.slti (fld w 21 5) (fld w 16 5) (fld w 0 16)) := by
  simp only [decodeRaw, h, BitVec.reduceEq, false_and, reduceIte]

theorem raw_07 (w : Word32) (h : fld w 26 6 = 7#6) : decodeRaw w = some (.sltiz (fld w 21 5) (fld w 16 5) (fld w 0 16)) := by
  simp only [decodeRaw, h, BitVec.reduceEq, false_and, reduceIte]

theorem raw_08 (w : Word32) (h : fld w 26 6 = 8#6) : decodeRaw w = decode08 w := by
  simp only [decodeRaw, h, BitVec.reduceEq, false_and, reduceIte]

theorem raw_09 (w : Word32) (h : fld w 26 6 = 9#6) : decodeRaw w = some (.lih (fld w 21 5) (fld w 16 5) (fld w 0 16)) := by
  simp only [decodeRaw, h, BitVec.reduceEq, false_and, reduceIte]

theorem raw_0a (w : Word32) (h : fld w 26 6 = 10#6) (k : fld w 16 5 = 0x0#5) : decodeRaw w = some (.pcrel (fld w 21 5) (fld w 0 16)) := by
  simp only [decodeRaw, h, k, BitVec.reduceEq, false_and, and_self, reduceIte]

theorem raw_0c (w : Word32) (h : fld w 26 6 = 12#6) : decodeRaw w = decode0C w := by
  simp only [decodeRaw, h, BitVec.reduceEq, false_and, reduceIte]

theorem raw_0d (w : Word32) (h : fld w 26 6 = 13#6) : decodeRaw w = decode0D w := by
  simp only [decodeRaw, h, BitVec.reduceEq, false_and, reduceIte]

theorem raw_0e (w : Word32) (h : fld w 26 6 = 14#6) : decodeRaw w = decode0E w := by
  simp only [decodeRaw, h, BitVec.reduceEq, false_and, reduceIte]

theorem raw_10 (w : Word32) (h : fld w 26 6 = 16#6) : decodeRaw w = some (.ldB (fld w 21 5) (fld w 16 5) (fld w 0 16)) := by
  simp only [decodeRaw, h, BitVec.reduceEq, false_and, reduceIte]

theorem raw_11 (w : Word32) (h : fld w 26 6 = 17#6) : decodeRaw w = some (.ldH (fld w 21 5) (fld w 16 5) (fld w 0 16)) := by
  simp only [decodeRaw, h, BitVec.reduceEq, false_and, reduceIte]

theorem raw_12 (w : Word32) (h : fld w 26 6 = 18#6) : decodeRaw w = some (.ldW (fld w 21 5) (fld w 16 5) (fld w 0 16)) := by
  simp only [decodeRaw, h, BitVec.reduceEq, false_and, reduceIte]

theorem raw_13 (w : Word32) (h : fld w 26 6 = 19#6) : decodeRaw w = some (.ldD (fld w 21 5) (fld w 16 5) (fld w 0 16)) := by
  simp only [decodeRaw, h, BitVec.reduceEq, false_and, reduceIte]

theorem raw_14 (w : Word32) (h : fld w 26 6 = 20#6) : decodeRaw w = some (.ldBz (fld w 21 5) (fld w 16 5) (fld w 0 16)) := by
  simp only [decodeRaw, h, BitVec.reduceEq, false_and, reduceIte]

theorem raw_15 (w : Word32) (h : fld w 26 6 = 21#6) : decodeRaw w = some (.ldHz (fld w 21 5) (fld w 16 5) (fld w 0 16)) := by
  simp only [decodeRaw, h, BitVec.reduceEq, false_and, reduceIte]

theorem raw_16 (w : Word32) (h : fld w 26 6 = 22#6) : decodeRaw w = some (.ldWz (fld w 21 5) (fld w 16 5) (fld w 0 16)) := by
  simp only [decodeRaw, h, BitVec.reduceEq, false_and, reduceIte]

theorem raw_18 (w : Word32) (h : fld w 26 6 = 24#6) : decodeRaw w = some (.stB (fld w 21 5) (fld w 16 5) (fld w 0 16)) := by
  simp only [decodeRaw, h, BitVec.reduceEq, false_and, reduceIte]

theorem raw_19 (w : Word32) (h : fld w 26 6 = 25#6) : decodeRaw w = some (.stH (fld w 21 5) (fld w 16 5) (fld w 0 16)) := by
  simp only [decodeRaw, h, BitVec.reduceEq, false_and, reduceIte]

theorem raw_1a (w : Word32) (h : fld w 26 6 = 26#6) : decodeRaw w = some (.stW (fld w 21 5) (fld w 16 5) (fld w 0 16)) := by
  simp only [decodeRaw, h, BitVec.reduceEq, false_and, reduceIte]

theorem raw_1b (w : Word32) (h : fld w 26 6 = 27#6) : decodeRaw w = some (.stD (fld w 21 5) (fld w 16 5) (fld w 0 16)) := by
  simp only [decodeRaw, h, BitVec.reduceEq, false_and, reduceIte]

theorem raw_1c (w : Word32) (h : fld w 26 6 = 28#6) : decodeRaw w = decode1C w := by
  simp only [decodeRaw, h, BitVec.reduceEq, false_and, reduceIte]

theorem raw_1d (w : Word32) (h : fld w 26 6 = 29#6) : decodeRaw w = decode1D w := by
  simp only [decodeRaw, h, BitVec.reduceEq, false_and, reduceIte]

theorem raw_1e (w : Word32) (h : fld w 26 6 = 30#6) : decodeRaw w = decode1E w := by
  simp only [decodeRaw, h, BitVec.reduceEq, false_and, reduceIte]

theorem raw_1f (w : Word32) (h : fld w 26 6 = 31#6) : decodeRaw w = decode1F w := by
  simp only [decodeRaw, h, BitVec.reduceEq, false_and, reduceIte]

theorem raw_20 (w : Word32) (h : fld w 26 6 = 32#6) : decodeRaw w = some (.beq (fld w 21 5) (fld w 16 5) (fld w 0 16)) := by
  simp only [decodeRaw, h, BitVec.reduceEq, false_and, reduceIte]

theorem raw_21 (w : Word32) (h : fld w 26 6 = 33#6) : decodeRaw w = some (.bne (fld w 21 5) (fld w 16 5) (fld w 0 16)) := by
  simp only [decodeRaw, h, BitVec.reduceEq, false_and, reduceIte]

theorem raw_22 (w : Word32) (h : fld w 26 6 = 34#6) : decodeRaw w = some (.blt (fld w 21 5) (fld w 16 5) (fld w 0 16)) := by
  simp only [decodeRaw, h, BitVec.reduceEq, false_and, reduceIte]

theorem raw_23 (w : Word32) (h : fld w 26 6 = 35#6) : decodeRaw w = some (.bge (fld w 21 5) (fld w 16 5) (fld w 0 16)) := by
  simp only [decodeRaw, h, BitVec.reduceEq, false_and, reduceIte]

theorem raw_24 (w : Word32) (h : fld w 26 6 = 36#6) : decodeRaw w = some (.bltu (fld w 21 5) (fld w 16 5) (fld w 0 16)) := by
  simp only [decodeRaw, h, BitVec.reduceEq, false_and, reduceIte]

theorem raw_25 (w : Word32) (h : fld w 26 6 = 37#6) : decodeRaw w = some (.bgeu (fld w 21 5) (fld w 16 5) (fld w 0 16)) := by
  simp only [decodeRaw, h, BitVec.reduceEq, false_and, reduceIte]

theorem raw_26 (w : Word32) (h : fld w 26 6 = 38#6) : decodeRaw w = some (.jal (fld w 21 5) (fld w 0 21)) := by
  simp only [decodeRaw, h, BitVec.reduceEq, false_and, reduceIte]

theorem raw_27 (w : Word32) (h : fld w 26 6 = 39#6) : decodeRaw w = some (.jalr (fld w 21 5) (fld w 16 5) (fld w 0 16)) := by
  simp only [decodeRaw, h, BitVec.reduceEq, false_and, reduceIte]

theorem raw_28 (w : Word32) (h : fld w 26 6 = 40#6) : decodeRaw w = decode28 w := by
  simp only [decodeRaw, h, BitVec.reduceEq, false_and, reduceIte]

theorem raw_30 (w : Word32) (h : fld w 26 6 = 48#6) : decodeRaw w = decode30 w := by
  simp only [decodeRaw, h, BitVec.reduceEq, false_and, reduceIte]

theorem raw_31 (w : Word32) (h : fld w 26 6 = 49#6) : decodeRaw w = decode31 w := by
  simp only [decodeRaw, h, BitVec.reduceEq, false_and, reduceIte]

theorem raw_32 (w : Word32) (h : fld w 26 6 = 50#6) : decodeRaw w = decode32 w := by
  simp only [decodeRaw, h, BitVec.reduceEq, false_and, reduceIte]

theorem raw_33 (w : Word32) (h : fld w 26 6 = 51#6) : decodeRaw w = decode33 w := by
  simp only [decodeRaw, h, BitVec.reduceEq, false_and, reduceIte]

theorem raw_34 (w : Word32) (h : fld w 26 6 = 52#6) : decodeRaw w = decode34 w := by
  simp only [decodeRaw, h, BitVec.reduceEq, false_and, reduceIte]

theorem raw_38 (w : Word32) (h : fld w 26 6 = 56#6) : decodeRaw w = decode38 w := by
  simp only [decodeRaw, h, BitVec.reduceEq, false_and, reduceIte]

theorem raw_39 (w : Word32) (h : fld w 26 6 = 57#6) : decodeRaw w = decode39 w := by
  simp only [decodeRaw, h, BitVec.reduceEq, false_and, reduceIte]

theorem raw_3a (w : Word32) (h : fld w 26 6 = 58#6) : decodeRaw w = decode3A w := by
  simp only [decodeRaw, h, BitVec.reduceEq, false_and, reduceIte]

theorem raw_3b (w : Word32) (h : fld w 26 6 = 59#6) : decodeRaw w = decode3B w := by
  simp only [decodeRaw, h, BitVec.reduceEq, false_and, reduceIte]

theorem raw_3c (w : Word32) (h : fld w 26 6 = 60#6) : decodeRaw w = decode3C w := by
  simp only [decodeRaw, h, BitVec.reduceEq, false_and, reduceIte]

theorem raw_3d (w : Word32) (h : fld w 26 6 = 61#6) : decodeRaw w = decode3D w := by
  simp only [decodeRaw, h, BitVec.reduceEq, false_and, reduceIte]

theorem raw_3e (w : Word32) (h : fld w 26 6 = 62#6) : decodeRaw w = decode3E w := by
  simp only [decodeRaw, h, BitVec.reduceEq, false_and, reduceIte]

end Sys2Proof
end

