-- ==== Sys2Proof/Laws/Units.lean ====
section
/-!
SUPPORT. The laws of plain-data maps and of memory: a read after a write, writes at other places, and the canonical form that
every memory operation keeps.
-/
namespace Sys2Proof.Machine

namespace FMap

variable {α : Type}

theorem get?_set (m : FMap α) (k j : Nat) (v : α) : get? (set m k v) j = if k = j then some v else get? m j := by
  induction m with
  | nil => by_cases h : k = j <;> simp [set, get?, h]
  | cons p r ih =>
    obtain ⟨i, a⟩ := p
    simp only [set]
    split
    · by_cases h : k = j <;> simp [get?, h]
    · split
      · rename_i h; subst h
        by_cases h : k = j <;> simp [get?, h]
      · rename_i h h'
        simp only [get?, ih]
        by_cases hj : i = j
        · have : k ≠ j := fun e => h' (e.trans hj.symm)
          simp [hj, this]
        · simp [hj]

@[simp] theorem get?_set_self (m : FMap α) (k : Nat) (v : α) : get? (set m k v) k = some v := by simp [get?_set]

theorem set_set (m : FMap α) (k : Nat) (v w : α) : set (set m k v) k w = set m k w := by
  induction m with
  | nil => simp [set]
  | cons p r ih =>
    obtain ⟨i, a⟩ := p
    simp only [set]
    split
    · simp [set]
    · split
      · simp [set]
      · rename_i h h'; simp [set, h, h', ih]

/-- Every key of a map lies above a bound. -/
def Above (k : Nat) (m : FMap α) : Prop := ∀ p ∈ m, k < p.1

theorem wf_cons (k : Nat) (a : α) (m : FMap α) : wf ((k, a) :: m) = true ↔ Above k m ∧ wf m = true := by
  induction m generalizing k a with
  | nil => simp [wf, Above]
  | cons p r ih =>
    obtain ⟨j, b⟩ := p
    simp only [wf, Bool.and_eq_true, decide_eq_true_eq, ih j b]
    constructor
    · rintro ⟨h, h1, h2⟩
      refine ⟨?_, h1, h2⟩
      intro p hp
      rcases List.mem_cons.1 hp with rfl | hp
      · exact h
      · exact h.trans (h1 p hp)
    · rintro ⟨h, h1, h2⟩
      exact ⟨h _ (List.mem_cons_self ..), h1, h2⟩

theorem mem_set {m : FMap α} {k : Nat} {v : α} {p : Nat × α} (h : p ∈ set m k v) : p = (k, v) ∨ p ∈ m := by
  induction m with
  | nil => simpa [set] using h
  | cons q r ih =>
    obtain ⟨i, a⟩ := q
    simp only [set] at h
    split at h
    · simpa using h
    · split at h
      · rcases List.mem_cons.1 h with h | h
        · exact .inl h
        · exact .inr (List.mem_cons_of_mem _ h)
      · rcases List.mem_cons.1 h with h | h
        · exact .inr (h ▸ List.mem_cons_self ..)
        · exact (ih h).imp_right (List.mem_cons_of_mem _)

theorem mem_erase {m : FMap α} {k : Nat} {p : Nat × α} (h : p ∈ erase m k) : p ∈ m := by
  induction m with
  | nil => simpa [erase] using h
  | cons q r ih =>
    obtain ⟨i, a⟩ := q
    simp only [erase] at h
    split at h
    · exact List.mem_cons_of_mem _ h
    · rcases List.mem_cons.1 h with h | h
      · exact h ▸ List.mem_cons_self ..
      · exact List.mem_cons_of_mem _ (ih h)

theorem set_wf {m : FMap α} (h : wf m = true) (k : Nat) (v : α) : wf (set m k v) = true := by
  induction m with
  | nil => rfl
  | cons q r ih =>
    obtain ⟨i, a⟩ := q
    have hr := (wf_cons i a r).1 h
    simp only [set]
    split
    · rename_i hk
      exact (wf_cons ..).2 ⟨fun p hp => by
        rcases List.mem_cons.1 hp with rfl | hp
        · exact hk
        · exact hk.trans (hr.1 p hp), h⟩
    · split
      · rename_i _ hk; subst hk
        exact (wf_cons ..).2 hr
      · rename_i h1 h2
        refine (wf_cons ..).2 ⟨fun p hp => ?_, ih hr.2⟩
        rcases mem_set hp with rfl | hp
        · exact Nat.lt_of_le_of_ne (Nat.le_of_not_lt h1) (fun e => h2 e.symm)
        · exact hr.1 p hp

theorem erase_wf {m : FMap α} (h : wf m = true) (k : Nat) : wf (erase m k) = true := by
  induction m with
  | nil => rfl
  | cons q r ih =>
    obtain ⟨i, a⟩ := q
    have hr := (wf_cons i a r).1 h
    simp only [erase]
    split
    · exact hr.2
    · exact (wf_cons ..).2 ⟨fun p hp => hr.1 p (mem_erase hp), ih hr.2⟩

theorem filter_wf {m : FMap α} (h : wf m = true) (f : Nat × α → Bool) : wf (m.filter f) = true := by
  induction m with
  | nil => rfl
  | cons q r ih =>
    obtain ⟨i, a⟩ := q
    have hr := (wf_cons i a r).1 h
    simp only [List.filter]
    split
    · exact (wf_cons ..).2 ⟨fun p hp => hr.1 p (List.mem_filter.1 hp).1, ih hr.2⟩
    · exact ih hr.2

theorem get?_of_above {m : FMap α} {k : Nat} (h : Above k m) : get? m k = none := by
  induction m with
  | nil => rfl
  | cons q r ih =>
    obtain ⟨i, a⟩ := q
    have hi : k < i := h _ (List.mem_cons_self ..)
    simp only [get?, hi.ne', if_false]
    exact ih fun p hp => h p (List.mem_cons_of_mem _ hp)

theorem get?_erase {m : FMap α} (h : wf m = true) (k j : Nat) : get? (erase m k) j = if k = j then none else get? m j := by
  induction m with
  | nil => simp [erase, get?]
  | cons q r ih =>
    obtain ⟨i, a⟩ := q
    have hr := (wf_cons i a r).1 h
    simp only [erase]
    split
    · rename_i hk; subst hk
      by_cases hj : i = j
      · subst hj; simp [get?_of_above hr.1]
      · simp [get?, hj]
    · rename_i hk
      simp only [get?, ih hr.2]
      by_cases hj : i = j
      · subst hj; simp [show ¬k = i from fun e => hk e.symm]
      · simp [hj]

end FMap

theorem Memory.wf_iff (m : Memory) : Memory.wf m = true ↔ FMap.wf m = true ∧ ∀ c ∈ m, c.2 ≠ 0#8 := by
  simp [Memory.wf]

/-- A byte written is the byte read; every other byte reads as before. -/
theorem Memory.read_write {m : Memory} (h : Memory.wf m = true) (k j : Nat) (b : Byte) :
    Memory.read (Memory.write m k b) j = if k = j then b else Memory.read m j := by
  have hm := (Memory.wf_iff m).1 h
  unfold Memory.read Memory.write FMap.getD
  split
  · rename_i hb; subst hb
    rw [FMap.get?_erase hm.1]
    split <;> rfl
  · rw [FMap.get?_set]
    split <;> rfl

/-- A write keeps the canonical form. -/
theorem Memory.write_wf {m : Memory} (h : Memory.wf m = true) (k : Nat) (b : Byte) :
    Memory.wf (Memory.write m k b) = true := by
  have hm := (Memory.wf_iff m).1 h
  refine (Memory.wf_iff _).2 ?_
  unfold Memory.write
  split
  · exact ⟨FMap.erase_wf hm.1 k, fun c hc => hm.2 c (FMap.mem_erase hc)⟩
  · rename_i hb
    refine ⟨FMap.set_wf hm.1 k b, fun c hc => ?_⟩
    rcases FMap.mem_set hc with rfl | hc
    · exact hb
    · exact hm.2 c hc

/-- Writing a run of bytes keeps the canonical form. -/
theorem Memory.put_wf {m : Memory} (h : Memory.wf m = true) (k : Nat) (bs : List Byte) :
    Memory.wf (Memory.put m k bs) = true := by
  induction bs generalizing m k with
  | nil => exact h
  | cons b r ih => exact ih (Memory.write_wf h k b) (k + 1)

/-- Dropping listed bytes keeps the canonical form. -/
theorem Memory.filter_wf {m : Memory} (h : Memory.wf m = true) (f : Nat × Byte → Bool) :
    Memory.wf (m.filter f) = true := by
  have hm := (Memory.wf_iff m).1 h
  exact (Memory.wf_iff _).2 ⟨FMap.filter_wf hm.1 f, fun c hc => hm.2 c (List.mem_filter.1 hc).1⟩

/-- A run of bytes written reads back; every byte outside it reads as before. -/
theorem Memory.read_put {m : Memory} (h : Memory.wf m = true) (k j : Nat) (bs : List Byte) :
    Memory.read (Memory.put m k bs) j = if k ≤ j ∧ j < k + bs.length then bs.getD (j - k) 0#8 else Memory.read m j := by
  induction bs generalizing m k with
  | nil => simp [Memory.put, show ¬(k ≤ j ∧ j < k) by omega]
  | cons b r ih =>
    rw [Memory.put, ih (Memory.write_wf h k b), Memory.read_write h]
    simp only [List.length_cons]
    by_cases hkj : k = j
    · subst hkj
      simp
    · by_cases hin : k + 1 ≤ j ∧ j < k + 1 + r.length
      · have h2 : k ≤ j ∧ j < k + (r.length + 1) := by omega
        rw [if_pos hin, if_pos h2, show j - k = (j - (k + 1)) + 1 by omega, List.getD_cons_succ]
      · have h2 : ¬(k ≤ j ∧ j < k + (r.length + 1)) := by omega
        rw [if_neg hin, if_neg h2, if_neg hkj]

/-- A write at its home keeps the canonical form. -/
theorem State.putHome_wf {s : State} (h : Memory.wf s.mem = true) (k : Nat) (bs : List Byte) :
    Memory.wf (s.putHome k bs).mem = true := Memory.put_wf h k bs

/-- What a write at its home leaves: the bytes written at their place, every other byte as before. -/
theorem State.putHome_read {s : State} (h : Memory.wf s.mem = true) (k j : Nat) (bs : List Byte) :
    Memory.read (s.putHome k bs).mem j =
      if k ≤ j ∧ j < k + bs.length then bs.getD (j - k) 0#8 else Memory.read s.mem j :=
  Memory.read_put h k j bs

/-- Memory after reset is in canonical form. -/
theorem State.reset_mem_wf : Memory.wf State.reset.mem = true := rfl

end Sys2Proof.Machine
end

