-- ==== Sys2Proof/Laws/State.lean ====
section
/-!
SUPPORT. One law for each field of State and of Strand under each plain update: the update leaves that field alone, so that no
proof unfolds a record update; and what the updated field reads as.
-/
namespace Sys2Proof.Machine

@[simp] theorem State.putStrand_tick (s : State) (u : Nat) (t : Strand) : (s.putStrand u t).tick = s.tick := rfl
@[simp] theorem State.putStrand_cyc (s : State) (u : Nat) (t : Strand) : (s.putStrand u t).cyc = s.cyc := rfl
@[simp] theorem State.putStrand_cur (s : State) (u : Nat) (t : Strand) : (s.putStrand u t).cur = s.cur := rfl
@[simp] theorem State.putStrand_ir (s : State) (u : Nat) (t : Strand) : (s.putStrand u t).ir = s.ir := rfl
@[simp] theorem State.putStrand_nextUid (s : State) (u : Nat) (t : Strand) : (s.putStrand u t).nextUid = s.nextUid := rfl
@[simp] theorem State.putStrand_inputs (s : State) (u : Nat) (t : Strand) : (s.putStrand u t).inputs = s.inputs := rfl
@[simp] theorem State.putStrand_outbox (s : State) (u : Nat) (t : Strand) : (s.putStrand u t).outbox = s.outbox := rfl
@[simp] theorem State.putStrand_cores (s : State) (u : Nat) (t : Strand) : (s.putStrand u t).cores = s.cores := rfl
@[simp] theorem State.putStrand_quads (s : State) (u : Nat) (t : Strand) : (s.putStrand u t).quads = s.quads := rfl
@[simp] theorem State.putStrand_parts (s : State) (u : Nat) (t : Strand) : (s.putStrand u t).parts = s.parts := rfl
@[simp] theorem State.putStrand_jobs (s : State) (u : Nat) (t : Strand) : (s.putStrand u t).jobs = s.jobs := rfl
@[simp] theorem State.putStrand_dies (s : State) (u : Nat) (t : Strand) : (s.putStrand u t).dies = s.dies := rfl
@[simp] theorem State.putStrand_mem (s : State) (u : Nat) (t : Strand) : (s.putStrand u t).mem = s.mem := rfl
@[simp] theorem State.putStrand_poison (s : State) (u : Nat) (t : Strand) : (s.putStrand u t).poison = s.poison := rfl
@[simp] theorem State.putStrand_l1 (s : State) (u : Nat) (t : Strand) : (s.putStrand u t).l1 = s.l1 := rfl
@[simp] theorem State.putStrand_dir (s : State) (u : Nat) (t : Strand) : (s.putStrand u t).dir = s.dir := rfl
@[simp] theorem State.putStrand_overfull (s : State) (u : Nat) (t : Strand) : (s.putStrand u t).overfull = s.overfull := rfl
@[simp] theorem State.putStrand_xlat (s : State) (u : Nat) (t : Strand) : (s.putStrand u t).xlat = s.xlat := rfl
@[simp] theorem State.putStrand_lptCache (s : State) (u : Nat) (t : Strand) : (s.putStrand u t).lptCache = s.lptCache := rfl
@[simp] theorem State.putStrand_pageReqs (s : State) (u : Nat) (t : Strand) : (s.putStrand u t).pageReqs = s.pageReqs := rfl
@[simp] theorem State.putStrand_skip (s : State) (u : Nat) (t : Strand) : (s.putStrand u t).skip = s.skip := rfl
@[simp] theorem State.putStrand_pending (s : State) (u : Nat) (t : Strand) : (s.putStrand u t).pending = s.pending := rfl
@[simp] theorem State.putStrand_resizes (s : State) (u : Nat) (t : Strand) : (s.putStrand u t).resizes = s.resizes := rfl
@[simp] theorem State.putStrand_rings (s : State) (u : Nat) (t : Strand) : (s.putStrand u t).rings = s.rings := rfl
@[simp] theorem State.putStrand_packets (s : State) (u : Nat) (t : Strand) : (s.putStrand u t).packets = s.packets := rfl
@[simp] theorem State.putStrand_barriers (s : State) (u : Nat) (t : Strand) : (s.putStrand u t).barriers = s.barriers := rfl
@[simp] theorem State.putStrand_losses (s : State) (u : Nat) (t : Strand) : (s.putStrand u t).losses = s.losses := rfl
@[simp] theorem State.putStrand_away (s : State) (u : Nat) (t : Strand) : (s.putStrand u t).away = s.away := rfl
@[simp] theorem State.putStrand_outside (s : State) (u : Nat) (t : Strand) : (s.putStrand u t).outside = s.outside := rfl
@[simp] theorem State.putStrand_host (s : State) (u : Nat) (t : Strand) : (s.putStrand u t).host = s.host := rfl
@[simp] theorem State.putStrand_box (s : State) (u : Nat) (t : Strand) : (s.putStrand u t).box = s.box := rfl
@[simp] theorem State.putStrand_steax (s : State) (u : Nat) (t : Strand) : (s.putStrand u t).steax = s.steax := rfl
@[simp] theorem State.dropStrand_tick (s : State) (u : Nat) : (s.dropStrand u).tick = s.tick := rfl
@[simp] theorem State.dropStrand_cyc (s : State) (u : Nat) : (s.dropStrand u).cyc = s.cyc := rfl
@[simp] theorem State.dropStrand_cur (s : State) (u : Nat) : (s.dropStrand u).cur = s.cur := rfl
@[simp] theorem State.dropStrand_ir (s : State) (u : Nat) : (s.dropStrand u).ir = s.ir := rfl
@[simp] theorem State.dropStrand_nextUid (s : State) (u : Nat) : (s.dropStrand u).nextUid = s.nextUid := rfl
@[simp] theorem State.dropStrand_inputs (s : State) (u : Nat) : (s.dropStrand u).inputs = s.inputs := rfl
@[simp] theorem State.dropStrand_outbox (s : State) (u : Nat) : (s.dropStrand u).outbox = s.outbox := rfl
@[simp] theorem State.dropStrand_cores (s : State) (u : Nat) : (s.dropStrand u).cores = s.cores := rfl
@[simp] theorem State.dropStrand_quads (s : State) (u : Nat) : (s.dropStrand u).quads = s.quads := rfl
@[simp] theorem State.dropStrand_parts (s : State) (u : Nat) : (s.dropStrand u).parts = s.parts := rfl
@[simp] theorem State.dropStrand_jobs (s : State) (u : Nat) : (s.dropStrand u).jobs = s.jobs := rfl
@[simp] theorem State.dropStrand_dies (s : State) (u : Nat) : (s.dropStrand u).dies = s.dies := rfl
@[simp] theorem State.dropStrand_mem (s : State) (u : Nat) : (s.dropStrand u).mem = s.mem := rfl
@[simp] theorem State.dropStrand_poison (s : State) (u : Nat) : (s.dropStrand u).poison = s.poison := rfl
@[simp] theorem State.dropStrand_l1 (s : State) (u : Nat) : (s.dropStrand u).l1 = s.l1 := rfl
@[simp] theorem State.dropStrand_dir (s : State) (u : Nat) : (s.dropStrand u).dir = s.dir := rfl
@[simp] theorem State.dropStrand_overfull (s : State) (u : Nat) : (s.dropStrand u).overfull = s.overfull := rfl
@[simp] theorem State.dropStrand_xlat (s : State) (u : Nat) : (s.dropStrand u).xlat = s.xlat := rfl
@[simp] theorem State.dropStrand_lptCache (s : State) (u : Nat) : (s.dropStrand u).lptCache = s.lptCache := rfl
@[simp] theorem State.dropStrand_pageReqs (s : State) (u : Nat) : (s.dropStrand u).pageReqs = s.pageReqs := rfl
@[simp] theorem State.dropStrand_skip (s : State) (u : Nat) : (s.dropStrand u).skip = s.skip := rfl
@[simp] theorem State.dropStrand_pending (s : State) (u : Nat) : (s.dropStrand u).pending = s.pending := rfl
@[simp] theorem State.dropStrand_resizes (s : State) (u : Nat) : (s.dropStrand u).resizes = s.resizes := rfl
@[simp] theorem State.dropStrand_rings (s : State) (u : Nat) : (s.dropStrand u).rings = s.rings := rfl
@[simp] theorem State.dropStrand_packets (s : State) (u : Nat) : (s.dropStrand u).packets = s.packets := rfl
@[simp] theorem State.dropStrand_barriers (s : State) (u : Nat) : (s.dropStrand u).barriers = s.barriers := rfl
@[simp] theorem State.dropStrand_losses (s : State) (u : Nat) : (s.dropStrand u).losses = s.losses := rfl
@[simp] theorem State.dropStrand_away (s : State) (u : Nat) : (s.dropStrand u).away = s.away := rfl
@[simp] theorem State.dropStrand_outside (s : State) (u : Nat) : (s.dropStrand u).outside = s.outside := rfl
@[simp] theorem State.dropStrand_host (s : State) (u : Nat) : (s.dropStrand u).host = s.host := rfl
@[simp] theorem State.dropStrand_box (s : State) (u : Nat) : (s.dropStrand u).box = s.box := rfl
@[simp] theorem State.dropStrand_steax (s : State) (u : Nat) : (s.dropStrand u).steax = s.steax := rfl
@[simp] theorem State.putMe_tick (s : State) (t : Strand) : (s.putMe t).tick = s.tick := rfl
@[simp] theorem State.putMe_cyc (s : State) (t : Strand) : (s.putMe t).cyc = s.cyc := rfl
@[simp] theorem State.putMe_cur (s : State) (t : Strand) : (s.putMe t).cur = s.cur := rfl
@[simp] theorem State.putMe_ir (s : State) (t : Strand) : (s.putMe t).ir = s.ir := rfl
@[simp] theorem State.putMe_nextUid (s : State) (t : Strand) : (s.putMe t).nextUid = s.nextUid := rfl
@[simp] theorem State.putMe_inputs (s : State) (t : Strand) : (s.putMe t).inputs = s.inputs := rfl
@[simp] theorem State.putMe_outbox (s : State) (t : Strand) : (s.putMe t).outbox = s.outbox := rfl
@[simp] theorem State.putMe_cores (s : State) (t : Strand) : (s.putMe t).cores = s.cores := rfl
@[simp] theorem State.putMe_quads (s : State) (t : Strand) : (s.putMe t).quads = s.quads := rfl
@[simp] theorem State.putMe_parts (s : State) (t : Strand) : (s.putMe t).parts = s.parts := rfl
@[simp] theorem State.putMe_jobs (s : State) (t : Strand) : (s.putMe t).jobs = s.jobs := rfl
@[simp] theorem State.putMe_dies (s : State) (t : Strand) : (s.putMe t).dies = s.dies := rfl
@[simp] theorem State.putMe_mem (s : State) (t : Strand) : (s.putMe t).mem = s.mem := rfl
@[simp] theorem State.putMe_poison (s : State) (t : Strand) : (s.putMe t).poison = s.poison := rfl
@[simp] theorem State.putMe_l1 (s : State) (t : Strand) : (s.putMe t).l1 = s.l1 := rfl
@[simp] theorem State.putMe_dir (s : State) (t : Strand) : (s.putMe t).dir = s.dir := rfl
@[simp] theorem State.putMe_overfull (s : State) (t : Strand) : (s.putMe t).overfull = s.overfull := rfl
@[simp] theorem State.putMe_xlat (s : State) (t : Strand) : (s.putMe t).xlat = s.xlat := rfl
@[simp] theorem State.putMe_lptCache (s : State) (t : Strand) : (s.putMe t).lptCache = s.lptCache := rfl
@[simp] theorem State.putMe_pageReqs (s : State) (t : Strand) : (s.putMe t).pageReqs = s.pageReqs := rfl
@[simp] theorem State.putMe_skip (s : State) (t : Strand) : (s.putMe t).skip = s.skip := rfl
@[simp] theorem State.putMe_pending (s : State) (t : Strand) : (s.putMe t).pending = s.pending := rfl
@[simp] theorem State.putMe_resizes (s : State) (t : Strand) : (s.putMe t).resizes = s.resizes := rfl
@[simp] theorem State.putMe_rings (s : State) (t : Strand) : (s.putMe t).rings = s.rings := rfl
@[simp] theorem State.putMe_packets (s : State) (t : Strand) : (s.putMe t).packets = s.packets := rfl
@[simp] theorem State.putMe_barriers (s : State) (t : Strand) : (s.putMe t).barriers = s.barriers := rfl
@[simp] theorem State.putMe_losses (s : State) (t : Strand) : (s.putMe t).losses = s.losses := rfl
@[simp] theorem State.putMe_away (s : State) (t : Strand) : (s.putMe t).away = s.away := rfl
@[simp] theorem State.putMe_outside (s : State) (t : Strand) : (s.putMe t).outside = s.outside := rfl
@[simp] theorem State.putMe_host (s : State) (t : Strand) : (s.putMe t).host = s.host := rfl
@[simp] theorem State.putMe_box (s : State) (t : Strand) : (s.putMe t).box = s.box := rfl
@[simp] theorem State.putMe_steax (s : State) (t : Strand) : (s.putMe t).steax = s.steax := rfl
@[simp] theorem State.putCore_tick (s : State) (c : Nat) (x : Core) : (s.putCore c x).tick = s.tick := rfl
@[simp] theorem State.putCore_cyc (s : State) (c : Nat) (x : Core) : (s.putCore c x).cyc = s.cyc := rfl
@[simp] theorem State.putCore_cur (s : State) (c : Nat) (x : Core) : (s.putCore c x).cur = s.cur := rfl
@[simp] theorem State.putCore_ir (s : State) (c : Nat) (x : Core) : (s.putCore c x).ir = s.ir := rfl
@[simp] theorem State.putCore_nextUid (s : State) (c : Nat) (x : Core) : (s.putCore c x).nextUid = s.nextUid := rfl
@[simp] theorem State.putCore_inputs (s : State) (c : Nat) (x : Core) : (s.putCore c x).inputs = s.inputs := rfl
@[simp] theorem State.putCore_outbox (s : State) (c : Nat) (x : Core) : (s.putCore c x).outbox = s.outbox := rfl
@[simp] theorem State.putCore_strands (s : State) (c : Nat) (x : Core) : (s.putCore c x).strands = s.strands := rfl
@[simp] theorem State.putCore_quads (s : State) (c : Nat) (x : Core) : (s.putCore c x).quads = s.quads := rfl
@[simp] theorem State.putCore_parts (s : State) (c : Nat) (x : Core) : (s.putCore c x).parts = s.parts := rfl
@[simp] theorem State.putCore_jobs (s : State) (c : Nat) (x : Core) : (s.putCore c x).jobs = s.jobs := rfl
@[simp] theorem State.putCore_dies (s : State) (c : Nat) (x : Core) : (s.putCore c x).dies = s.dies := rfl
@[simp] theorem State.putCore_mem (s : State) (c : Nat) (x : Core) : (s.putCore c x).mem = s.mem := rfl
@[simp] theorem State.putCore_poison (s : State) (c : Nat) (x : Core) : (s.putCore c x).poison = s.poison := rfl
@[simp] theorem State.putCore_l1 (s : State) (c : Nat) (x : Core) : (s.putCore c x).l1 = s.l1 := rfl
@[simp] theorem State.putCore_dir (s : State) (c : Nat) (x : Core) : (s.putCore c x).dir = s.dir := rfl
@[simp] theorem State.putCore_overfull (s : State) (c : Nat) (x : Core) : (s.putCore c x).overfull = s.overfull := rfl
@[simp] theorem State.putCore_xlat (s : State) (c : Nat) (x : Core) : (s.putCore c x).xlat = s.xlat := rfl
@[simp] theorem State.putCore_lptCache (s : State) (c : Nat) (x : Core) : (s.putCore c x).lptCache = s.lptCache := rfl
@[simp] theorem State.putCore_pageReqs (s : State) (c : Nat) (x : Core) : (s.putCore c x).pageReqs = s.pageReqs := rfl
@[simp] theorem State.putCore_skip (s : State) (c : Nat) (x : Core) : (s.putCore c x).skip = s.skip := rfl
@[simp] theorem State.putCore_pending (s : State) (c : Nat) (x : Core) : (s.putCore c x).pending = s.pending := rfl
@[simp] theorem State.putCore_resizes (s : State) (c : Nat) (x : Core) : (s.putCore c x).resizes = s.resizes := rfl
@[simp] theorem State.putCore_rings (s : State) (c : Nat) (x : Core) : (s.putCore c x).rings = s.rings := rfl
@[simp] theorem State.putCore_packets (s : State) (c : Nat) (x : Core) : (s.putCore c x).packets = s.packets := rfl
@[simp] theorem State.putCore_barriers (s : State) (c : Nat) (x : Core) : (s.putCore c x).barriers = s.barriers := rfl
@[simp] theorem State.putCore_losses (s : State) (c : Nat) (x : Core) : (s.putCore c x).losses = s.losses := rfl
@[simp] theorem State.putCore_away (s : State) (c : Nat) (x : Core) : (s.putCore c x).away = s.away := rfl
@[simp] theorem State.putCore_outside (s : State) (c : Nat) (x : Core) : (s.putCore c x).outside = s.outside := rfl
@[simp] theorem State.putCore_host (s : State) (c : Nat) (x : Core) : (s.putCore c x).host = s.host := rfl
@[simp] theorem State.putCore_box (s : State) (c : Nat) (x : Core) : (s.putCore c x).box = s.box := rfl
@[simp] theorem State.putCore_steax (s : State) (c : Nat) (x : Core) : (s.putCore c x).steax = s.steax := rfl
@[simp] theorem State.putQuad_tick (s : State) (q : Nat) (x : Quad) : (s.putQuad q x).tick = s.tick := rfl
@[simp] theorem State.putQuad_cyc (s : State) (q : Nat) (x : Quad) : (s.putQuad q x).cyc = s.cyc := rfl
@[simp] theorem State.putQuad_cur (s : State) (q : Nat) (x : Quad) : (s.putQuad q x).cur = s.cur := rfl
@[simp] theorem State.putQuad_ir (s : State) (q : Nat) (x : Quad) : (s.putQuad q x).ir = s.ir := rfl
@[simp] theorem State.putQuad_nextUid (s : State) (q : Nat) (x : Quad) : (s.putQuad q x).nextUid = s.nextUid := rfl
@[simp] theorem State.putQuad_inputs (s : State) (q : Nat) (x : Quad) : (s.putQuad q x).inputs = s.inputs := rfl
@[simp] theorem State.putQuad_outbox (s : State) (q : Nat) (x : Quad) : (s.putQuad q x).outbox = s.outbox := rfl
@[simp] theorem State.putQuad_strands (s : State) (q : Nat) (x : Quad) : (s.putQuad q x).strands = s.strands := rfl
@[simp] theorem State.putQuad_cores (s : State) (q : Nat) (x : Quad) : (s.putQuad q x).cores = s.cores := rfl
@[simp] theorem State.putQuad_parts (s : State) (q : Nat) (x : Quad) : (s.putQuad q x).parts = s.parts := rfl
@[simp] theorem State.putQuad_jobs (s : State) (q : Nat) (x : Quad) : (s.putQuad q x).jobs = s.jobs := rfl
@[simp] theorem State.putQuad_dies (s : State) (q : Nat) (x : Quad) : (s.putQuad q x).dies = s.dies := rfl
@[simp] theorem State.putQuad_mem (s : State) (q : Nat) (x : Quad) : (s.putQuad q x).mem = s.mem := rfl
@[simp] theorem State.putQuad_poison (s : State) (q : Nat) (x : Quad) : (s.putQuad q x).poison = s.poison := rfl
@[simp] theorem State.putQuad_l1 (s : State) (q : Nat) (x : Quad) : (s.putQuad q x).l1 = s.l1 := rfl
@[simp] theorem State.putQuad_dir (s : State) (q : Nat) (x : Quad) : (s.putQuad q x).dir = s.dir := rfl
@[simp] theorem State.putQuad_overfull (s : State) (q : Nat) (x : Quad) : (s.putQuad q x).overfull = s.overfull := rfl
@[simp] theorem State.putQuad_xlat (s : State) (q : Nat) (x : Quad) : (s.putQuad q x).xlat = s.xlat := rfl
@[simp] theorem State.putQuad_lptCache (s : State) (q : Nat) (x : Quad) : (s.putQuad q x).lptCache = s.lptCache := rfl
@[simp] theorem State.putQuad_pageReqs (s : State) (q : Nat) (x : Quad) : (s.putQuad q x).pageReqs = s.pageReqs := rfl
@[simp] theorem State.putQuad_skip (s : State) (q : Nat) (x : Quad) : (s.putQuad q x).skip = s.skip := rfl
@[simp] theorem State.putQuad_pending (s : State) (q : Nat) (x : Quad) : (s.putQuad q x).pending = s.pending := rfl
@[simp] theorem State.putQuad_resizes (s : State) (q : Nat) (x : Quad) : (s.putQuad q x).resizes = s.resizes := rfl
@[simp] theorem State.putQuad_rings (s : State) (q : Nat) (x : Quad) : (s.putQuad q x).rings = s.rings := rfl
@[simp] theorem State.putQuad_packets (s : State) (q : Nat) (x : Quad) : (s.putQuad q x).packets = s.packets := rfl
@[simp] theorem State.putQuad_barriers (s : State) (q : Nat) (x : Quad) : (s.putQuad q x).barriers = s.barriers := rfl
@[simp] theorem State.putQuad_losses (s : State) (q : Nat) (x : Quad) : (s.putQuad q x).losses = s.losses := rfl
@[simp] theorem State.putQuad_away (s : State) (q : Nat) (x : Quad) : (s.putQuad q x).away = s.away := rfl
@[simp] theorem State.putQuad_outside (s : State) (q : Nat) (x : Quad) : (s.putQuad q x).outside = s.outside := rfl
@[simp] theorem State.putQuad_host (s : State) (q : Nat) (x : Quad) : (s.putQuad q x).host = s.host := rfl
@[simp] theorem State.putQuad_box (s : State) (q : Nat) (x : Quad) : (s.putQuad q x).box = s.box := rfl
@[simp] theorem State.putQuad_steax (s : State) (q : Nat) (x : Quad) : (s.putQuad q x).steax = s.steax := rfl
@[simp] theorem State.putPart_tick (s : State) (v : Nat) (x : Part) : (s.putPart v x).tick = s.tick := rfl
@[simp] theorem State.putPart_cyc (s : State) (v : Nat) (x : Part) : (s.putPart v x).cyc = s.cyc := rfl
@[simp] theorem State.putPart_cur (s : State) (v : Nat) (x : Part) : (s.putPart v x).cur = s.cur := rfl
@[simp] theorem State.putPart_ir (s : State) (v : Nat) (x : Part) : (s.putPart v x).ir = s.ir := rfl
@[simp] theorem State.putPart_nextUid (s : State) (v : Nat) (x : Part) : (s.putPart v x).nextUid = s.nextUid := rfl
@[simp] theorem State.putPart_inputs (s : State) (v : Nat) (x : Part) : (s.putPart v x).inputs = s.inputs := rfl
@[simp] theorem State.putPart_outbox (s : State) (v : Nat) (x : Part) : (s.putPart v x).outbox = s.outbox := rfl
@[simp] theorem State.putPart_strands (s : State) (v : Nat) (x : Part) : (s.putPart v x).strands = s.strands := rfl
@[simp] theorem State.putPart_cores (s : State) (v : Nat) (x : Part) : (s.putPart v x).cores = s.cores := rfl
@[simp] theorem State.putPart_quads (s : State) (v : Nat) (x : Part) : (s.putPart v x).quads = s.quads := rfl
@[simp] theorem State.putPart_jobs (s : State) (v : Nat) (x : Part) : (s.putPart v x).jobs = s.jobs := rfl
@[simp] theorem State.putPart_dies (s : State) (v : Nat) (x : Part) : (s.putPart v x).dies = s.dies := rfl
@[simp] theorem State.putPart_mem (s : State) (v : Nat) (x : Part) : (s.putPart v x).mem = s.mem := rfl
@[simp] theorem State.putPart_poison (s : State) (v : Nat) (x : Part) : (s.putPart v x).poison = s.poison := rfl
@[simp] theorem State.putPart_l1 (s : State) (v : Nat) (x : Part) : (s.putPart v x).l1 = s.l1 := rfl
@[simp] theorem State.putPart_dir (s : State) (v : Nat) (x : Part) : (s.putPart v x).dir = s.dir := rfl
@[simp] theorem State.putPart_overfull (s : State) (v : Nat) (x : Part) : (s.putPart v x).overfull = s.overfull := rfl
@[simp] theorem State.putPart_xlat (s : State) (v : Nat) (x : Part) : (s.putPart v x).xlat = s.xlat := rfl
@[simp] theorem State.putPart_lptCache (s : State) (v : Nat) (x : Part) : (s.putPart v x).lptCache = s.lptCache := rfl
@[simp] theorem State.putPart_pageReqs (s : State) (v : Nat) (x : Part) : (s.putPart v x).pageReqs = s.pageReqs := rfl
@[simp] theorem State.putPart_skip (s : State) (v : Nat) (x : Part) : (s.putPart v x).skip = s.skip := rfl
@[simp] theorem State.putPart_pending (s : State) (v : Nat) (x : Part) : (s.putPart v x).pending = s.pending := rfl
@[simp] theorem State.putPart_resizes (s : State) (v : Nat) (x : Part) : (s.putPart v x).resizes = s.resizes := rfl
@[simp] theorem State.putPart_rings (s : State) (v : Nat) (x : Part) : (s.putPart v x).rings = s.rings := rfl
@[simp] theorem State.putPart_packets (s : State) (v : Nat) (x : Part) : (s.putPart v x).packets = s.packets := rfl
@[simp] theorem State.putPart_barriers (s : State) (v : Nat) (x : Part) : (s.putPart v x).barriers = s.barriers := rfl
@[simp] theorem State.putPart_losses (s : State) (v : Nat) (x : Part) : (s.putPart v x).losses = s.losses := rfl
@[simp] theorem State.putPart_away (s : State) (v : Nat) (x : Part) : (s.putPart v x).away = s.away := rfl
@[simp] theorem State.putPart_outside (s : State) (v : Nat) (x : Part) : (s.putPart v x).outside = s.outside := rfl
@[simp] theorem State.putPart_host (s : State) (v : Nat) (x : Part) : (s.putPart v x).host = s.host := rfl
@[simp] theorem State.putPart_box (s : State) (v : Nat) (x : Part) : (s.putPart v x).box = s.box := rfl
@[simp] theorem State.putPart_steax (s : State) (v : Nat) (x : Part) : (s.putPart v x).steax = s.steax := rfl
@[simp] theorem State.putJob_tick (s : State) (j : Nat) (x : Job) : (s.putJob j x).tick = s.tick := rfl
@[simp] theorem State.putJob_cyc (s : State) (j : Nat) (x : Job) : (s.putJob j x).cyc = s.cyc := rfl
@[simp] theorem State.putJob_cur (s : State) (j : Nat) (x : Job) : (s.putJob j x).cur = s.cur := rfl
@[simp] theorem State.putJob_ir (s : State) (j : Nat) (x : Job) : (s.putJob j x).ir = s.ir := rfl
@[simp] theorem State.putJob_nextUid (s : State) (j : Nat) (x : Job) : (s.putJob j x).nextUid = s.nextUid := rfl
@[simp] theorem State.putJob_inputs (s : State) (j : Nat) (x : Job) : (s.putJob j x).inputs = s.inputs := rfl
@[simp] theorem State.putJob_outbox (s : State) (j : Nat) (x : Job) : (s.putJob j x).outbox = s.outbox := rfl
@[simp] theorem State.putJob_strands (s : State) (j : Nat) (x : Job) : (s.putJob j x).strands = s.strands := rfl
@[simp] theorem State.putJob_cores (s : State) (j : Nat) (x : Job) : (s.putJob j x).cores = s.cores := rfl
@[simp] theorem State.putJob_quads (s : State) (j : Nat) (x : Job) : (s.putJob j x).quads = s.quads := rfl
@[simp] theorem State.putJob_parts (s : State) (j : Nat) (x : Job) : (s.putJob j x).parts = s.parts := rfl
@[simp] theorem State.putJob_dies (s : State) (j : Nat) (x : Job) : (s.putJob j x).dies = s.dies := rfl
@[simp] theorem State.putJob_mem (s : State) (j : Nat) (x : Job) : (s.putJob j x).mem = s.mem := rfl
@[simp] theorem State.putJob_poison (s : State) (j : Nat) (x : Job) : (s.putJob j x).poison = s.poison := rfl
@[simp] theorem State.putJob_l1 (s : State) (j : Nat) (x : Job) : (s.putJob j x).l1 = s.l1 := rfl
@[simp] theorem State.putJob_dir (s : State) (j : Nat) (x : Job) : (s.putJob j x).dir = s.dir := rfl
@[simp] theorem State.putJob_overfull (s : State) (j : Nat) (x : Job) : (s.putJob j x).overfull = s.overfull := rfl
@[simp] theorem State.putJob_xlat (s : State) (j : Nat) (x : Job) : (s.putJob j x).xlat = s.xlat := rfl
@[simp] theorem State.putJob_lptCache (s : State) (j : Nat) (x : Job) : (s.putJob j x).lptCache = s.lptCache := rfl
@[simp] theorem State.putJob_pageReqs (s : State) (j : Nat) (x : Job) : (s.putJob j x).pageReqs = s.pageReqs := rfl
@[simp] theorem State.putJob_skip (s : State) (j : Nat) (x : Job) : (s.putJob j x).skip = s.skip := rfl
@[simp] theorem State.putJob_pending (s : State) (j : Nat) (x : Job) : (s.putJob j x).pending = s.pending := rfl
@[simp] theorem State.putJob_resizes (s : State) (j : Nat) (x : Job) : (s.putJob j x).resizes = s.resizes := rfl
@[simp] theorem State.putJob_rings (s : State) (j : Nat) (x : Job) : (s.putJob j x).rings = s.rings := rfl
@[simp] theorem State.putJob_packets (s : State) (j : Nat) (x : Job) : (s.putJob j x).packets = s.packets := rfl
@[simp] theorem State.putJob_barriers (s : State) (j : Nat) (x : Job) : (s.putJob j x).barriers = s.barriers := rfl
@[simp] theorem State.putJob_losses (s : State) (j : Nat) (x : Job) : (s.putJob j x).losses = s.losses := rfl
@[simp] theorem State.putJob_away (s : State) (j : Nat) (x : Job) : (s.putJob j x).away = s.away := rfl
@[simp] theorem State.putJob_outside (s : State) (j : Nat) (x : Job) : (s.putJob j x).outside = s.outside := rfl
@[simp] theorem State.putJob_host (s : State) (j : Nat) (x : Job) : (s.putJob j x).host = s.host := rfl
@[simp] theorem State.putJob_box (s : State) (j : Nat) (x : Job) : (s.putJob j x).box = s.box := rfl
@[simp] theorem State.putJob_steax (s : State) (j : Nat) (x : Job) : (s.putJob j x).steax = s.steax := rfl
@[simp] theorem State.putDie_tick (s : State) (d : Nat) (x : Die) : (s.putDie d x).tick = s.tick := rfl
@[simp] theorem State.putDie_cyc (s : State) (d : Nat) (x : Die) : (s.putDie d x).cyc = s.cyc := rfl
@[simp] theorem State.putDie_cur (s : State) (d : Nat) (x : Die) : (s.putDie d x).cur = s.cur := rfl
@[simp] theorem State.putDie_ir (s : State) (d : Nat) (x : Die) : (s.putDie d x).ir = s.ir := rfl
@[simp] theorem State.putDie_nextUid (s : State) (d : Nat) (x : Die) : (s.putDie d x).nextUid = s.nextUid := rfl
@[simp] theorem State.putDie_inputs (s : State) (d : Nat) (x : Die) : (s.putDie d x).inputs = s.inputs := rfl
@[simp] theorem State.putDie_outbox (s : State) (d : Nat) (x : Die) : (s.putDie d x).outbox = s.outbox := rfl
@[simp] theorem State.putDie_strands (s : State) (d : Nat) (x : Die) : (s.putDie d x).strands = s.strands := rfl
@[simp] theorem State.putDie_cores (s : State) (d : Nat) (x : Die) : (s.putDie d x).cores = s.cores := rfl
@[simp] theorem State.putDie_quads (s : State) (d : Nat) (x : Die) : (s.putDie d x).quads = s.quads := rfl
@[simp] theorem State.putDie_parts (s : State) (d : Nat) (x : Die) : (s.putDie d x).parts = s.parts := rfl
@[simp] theorem State.putDie_jobs (s : State) (d : Nat) (x : Die) : (s.putDie d x).jobs = s.jobs := rfl
@[simp] theorem State.putDie_mem (s : State) (d : Nat) (x : Die) : (s.putDie d x).mem = s.mem := rfl
@[simp] theorem State.putDie_poison (s : State) (d : Nat) (x : Die) : (s.putDie d x).poison = s.poison := rfl
@[simp] theorem State.putDie_l1 (s : State) (d : Nat) (x : Die) : (s.putDie d x).l1 = s.l1 := rfl
@[simp] theorem State.putDie_dir (s : State) (d : Nat) (x : Die) : (s.putDie d x).dir = s.dir := rfl
@[simp] theorem State.putDie_overfull (s : State) (d : Nat) (x : Die) : (s.putDie d x).overfull = s.overfull := rfl
@[simp] theorem State.putDie_xlat (s : State) (d : Nat) (x : Die) : (s.putDie d x).xlat = s.xlat := rfl
@[simp] theorem State.putDie_lptCache (s : State) (d : Nat) (x : Die) : (s.putDie d x).lptCache = s.lptCache := rfl
@[simp] theorem State.putDie_pageReqs (s : State) (d : Nat) (x : Die) : (s.putDie d x).pageReqs = s.pageReqs := rfl
@[simp] theorem State.putDie_skip (s : State) (d : Nat) (x : Die) : (s.putDie d x).skip = s.skip := rfl
@[simp] theorem State.putDie_pending (s : State) (d : Nat) (x : Die) : (s.putDie d x).pending = s.pending := rfl
@[simp] theorem State.putDie_resizes (s : State) (d : Nat) (x : Die) : (s.putDie d x).resizes = s.resizes := rfl
@[simp] theorem State.putDie_rings (s : State) (d : Nat) (x : Die) : (s.putDie d x).rings = s.rings := rfl
@[simp] theorem State.putDie_packets (s : State) (d : Nat) (x : Die) : (s.putDie d x).packets = s.packets := rfl
@[simp] theorem State.putDie_barriers (s : State) (d : Nat) (x : Die) : (s.putDie d x).barriers = s.barriers := rfl
@[simp] theorem State.putDie_losses (s : State) (d : Nat) (x : Die) : (s.putDie d x).losses = s.losses := rfl
@[simp] theorem State.putDie_away (s : State) (d : Nat) (x : Die) : (s.putDie d x).away = s.away := rfl
@[simp] theorem State.putDie_outside (s : State) (d : Nat) (x : Die) : (s.putDie d x).outside = s.outside := rfl
@[simp] theorem State.putDie_host (s : State) (d : Nat) (x : Die) : (s.putDie d x).host = s.host := rfl
@[simp] theorem State.putDie_box (s : State) (d : Nat) (x : Die) : (s.putDie d x).box = s.box := rfl
@[simp] theorem State.putDie_steax (s : State) (d : Nat) (x : Die) : (s.putDie d x).steax = s.steax := rfl
@[simp] theorem State.emit_tick (s : State) (o : Out) : (s.emit o).tick = s.tick := rfl
@[simp] theorem State.emit_cyc (s : State) (o : Out) : (s.emit o).cyc = s.cyc := rfl
@[simp] theorem State.emit_cur (s : State) (o : Out) : (s.emit o).cur = s.cur := rfl
@[simp] theorem State.emit_ir (s : State) (o : Out) : (s.emit o).ir = s.ir := rfl
@[simp] theorem State.emit_nextUid (s : State) (o : Out) : (s.emit o).nextUid = s.nextUid := rfl
@[simp] theorem State.emit_inputs (s : State) (o : Out) : (s.emit o).inputs = s.inputs := rfl
@[simp] theorem State.emit_strands (s : State) (o : Out) : (s.emit o).strands = s.strands := rfl
@[simp] theorem State.emit_cores (s : State) (o : Out) : (s.emit o).cores = s.cores := rfl
@[simp] theorem State.emit_quads (s : State) (o : Out) : (s.emit o).quads = s.quads := rfl
@[simp] theorem State.emit_parts (s : State) (o : Out) : (s.emit o).parts = s.parts := rfl
@[simp] theorem State.emit_jobs (s : State) (o : Out) : (s.emit o).jobs = s.jobs := rfl
@[simp] theorem State.emit_dies (s : State) (o : Out) : (s.emit o).dies = s.dies := rfl
@[simp] theorem State.emit_mem (s : State) (o : Out) : (s.emit o).mem = s.mem := rfl
@[simp] theorem State.emit_poison (s : State) (o : Out) : (s.emit o).poison = s.poison := rfl
@[simp] theorem State.emit_l1 (s : State) (o : Out) : (s.emit o).l1 = s.l1 := rfl
@[simp] theorem State.emit_dir (s : State) (o : Out) : (s.emit o).dir = s.dir := rfl
@[simp] theorem State.emit_overfull (s : State) (o : Out) : (s.emit o).overfull = s.overfull := rfl
@[simp] theorem State.emit_xlat (s : State) (o : Out) : (s.emit o).xlat = s.xlat := rfl
@[simp] theorem State.emit_lptCache (s : State) (o : Out) : (s.emit o).lptCache = s.lptCache := rfl
@[simp] theorem State.emit_pageReqs (s : State) (o : Out) : (s.emit o).pageReqs = s.pageReqs := rfl
@[simp] theorem State.emit_skip (s : State) (o : Out) : (s.emit o).skip = s.skip := rfl
@[simp] theorem State.emit_pending (s : State) (o : Out) : (s.emit o).pending = s.pending := rfl
@[simp] theorem State.emit_resizes (s : State) (o : Out) : (s.emit o).resizes = s.resizes := rfl
@[simp] theorem State.emit_rings (s : State) (o : Out) : (s.emit o).rings = s.rings := rfl
@[simp] theorem State.emit_packets (s : State) (o : Out) : (s.emit o).packets = s.packets := rfl
@[simp] theorem State.emit_barriers (s : State) (o : Out) : (s.emit o).barriers = s.barriers := rfl
@[simp] theorem State.emit_losses (s : State) (o : Out) : (s.emit o).losses = s.losses := rfl
@[simp] theorem State.emit_away (s : State) (o : Out) : (s.emit o).away = s.away := rfl
@[simp] theorem State.emit_outside (s : State) (o : Out) : (s.emit o).outside = s.outside := rfl
@[simp] theorem State.emit_host (s : State) (o : Out) : (s.emit o).host = s.host := rfl
@[simp] theorem State.emit_box (s : State) (o : Out) : (s.emit o).box = s.box := rfl
@[simp] theorem State.emit_steax (s : State) (o : Out) : (s.emit o).steax = s.steax := rfl
@[simp] theorem State.clearPoison_tick (s : State) (k n : Nat) : (s.clearPoison k n).tick = s.tick := rfl
@[simp] theorem State.clearPoison_cyc (s : State) (k n : Nat) : (s.clearPoison k n).cyc = s.cyc := rfl
@[simp] theorem State.clearPoison_cur (s : State) (k n : Nat) : (s.clearPoison k n).cur = s.cur := rfl
@[simp] theorem State.clearPoison_ir (s : State) (k n : Nat) : (s.clearPoison k n).ir = s.ir := rfl
@[simp] theorem State.clearPoison_nextUid (s : State) (k n : Nat) : (s.clearPoison k n).nextUid = s.nextUid := rfl
@[simp] theorem State.clearPoison_inputs (s : State) (k n : Nat) : (s.clearPoison k n).inputs = s.inputs := rfl
@[simp] theorem State.clearPoison_outbox (s : State) (k n : Nat) : (s.clearPoison k n).outbox = s.outbox := rfl
@[simp] theorem State.clearPoison_strands (s : State) (k n : Nat) : (s.clearPoison k n).strands = s.strands := rfl
@[simp] theorem State.clearPoison_cores (s : State) (k n : Nat) : (s.clearPoison k n).cores = s.cores := rfl
@[simp] theorem State.clearPoison_quads (s : State) (k n : Nat) : (s.clearPoison k n).quads = s.quads := rfl
@[simp] theorem State.clearPoison_parts (s : State) (k n : Nat) : (s.clearPoison k n).parts = s.parts := rfl
@[simp] theorem State.clearPoison_jobs (s : State) (k n : Nat) : (s.clearPoison k n).jobs = s.jobs := rfl
@[simp] theorem State.clearPoison_dies (s : State) (k n : Nat) : (s.clearPoison k n).dies = s.dies := rfl
@[simp] theorem State.clearPoison_mem (s : State) (k n : Nat) : (s.clearPoison k n).mem = s.mem := rfl
@[simp] theorem State.clearPoison_l1 (s : State) (k n : Nat) : (s.clearPoison k n).l1 = s.l1 := rfl
@[simp] theorem State.clearPoison_dir (s : State) (k n : Nat) : (s.clearPoison k n).dir = s.dir := rfl
@[simp] theorem State.clearPoison_overfull (s : State) (k n : Nat) : (s.clearPoison k n).overfull = s.overfull := rfl
@[simp] theorem State.clearPoison_xlat (s : State) (k n : Nat) : (s.clearPoison k n).xlat = s.xlat := rfl
@[simp] theorem State.clearPoison_lptCache (s : State) (k n : Nat) : (s.clearPoison k n).lptCache = s.lptCache := rfl
@[simp] theorem State.clearPoison_pageReqs (s : State) (k n : Nat) : (s.clearPoison k n).pageReqs = s.pageReqs := rfl
@[simp] theorem State.clearPoison_skip (s : State) (k n : Nat) : (s.clearPoison k n).skip = s.skip := rfl
@[simp] theorem State.clearPoison_pending (s : State) (k n : Nat) : (s.clearPoison k n).pending = s.pending := rfl
@[simp] theorem State.clearPoison_resizes (s : State) (k n : Nat) : (s.clearPoison k n).resizes = s.resizes := rfl
@[simp] theorem State.clearPoison_rings (s : State) (k n : Nat) : (s.clearPoison k n).rings = s.rings := rfl
@[simp] theorem State.clearPoison_packets (s : State) (k n : Nat) : (s.clearPoison k n).packets = s.packets := rfl
@[simp] theorem State.clearPoison_barriers (s : State) (k n : Nat) : (s.clearPoison k n).barriers = s.barriers := rfl
@[simp] theorem State.clearPoison_losses (s : State) (k n : Nat) : (s.clearPoison k n).losses = s.losses := rfl
@[simp] theorem State.clearPoison_away (s : State) (k n : Nat) : (s.clearPoison k n).away = s.away := rfl
@[simp] theorem State.clearPoison_outside (s : State) (k n : Nat) : (s.clearPoison k n).outside = s.outside := rfl
@[simp] theorem State.clearPoison_host (s : State) (k n : Nat) : (s.clearPoison k n).host = s.host := rfl
@[simp] theorem State.clearPoison_box (s : State) (k n : Nat) : (s.clearPoison k n).box = s.box := rfl
@[simp] theorem State.clearPoison_steax (s : State) (k n : Nat) : (s.clearPoison k n).steax = s.steax := rfl
@[simp] theorem State.putHome_tick (s : State) (k : Nat) (bs : List Byte) : (s.putHome k bs).tick = s.tick := rfl
@[simp] theorem State.putHome_cyc (s : State) (k : Nat) (bs : List Byte) : (s.putHome k bs).cyc = s.cyc := rfl
@[simp] theorem State.putHome_cur (s : State) (k : Nat) (bs : List Byte) : (s.putHome k bs).cur = s.cur := rfl
@[simp] theorem State.putHome_ir (s : State) (k : Nat) (bs : List Byte) : (s.putHome k bs).ir = s.ir := rfl
@[simp] theorem State.putHome_nextUid (s : State) (k : Nat) (bs : List Byte) : (s.putHome k bs).nextUid = s.nextUid := rfl
@[simp] theorem State.putHome_inputs (s : State) (k : Nat) (bs : List Byte) : (s.putHome k bs).inputs = s.inputs := rfl
@[simp] theorem State.putHome_outbox (s : State) (k : Nat) (bs : List Byte) : (s.putHome k bs).outbox = s.outbox := rfl
@[simp] theorem State.putHome_strands (s : State) (k : Nat) (bs : List Byte) : (s.putHome k bs).strands = s.strands := rfl
@[simp] theorem State.putHome_cores (s : State) (k : Nat) (bs : List Byte) : (s.putHome k bs).cores = s.cores := rfl
@[simp] theorem State.putHome_quads (s : State) (k : Nat) (bs : List Byte) : (s.putHome k bs).quads = s.quads := rfl
@[simp] theorem State.putHome_parts (s : State) (k : Nat) (bs : List Byte) : (s.putHome k bs).parts = s.parts := rfl
@[simp] theorem State.putHome_jobs (s : State) (k : Nat) (bs : List Byte) : (s.putHome k bs).jobs = s.jobs := rfl
@[simp] theorem State.putHome_dies (s : State) (k : Nat) (bs : List Byte) : (s.putHome k bs).dies = s.dies := rfl
@[simp] theorem State.putHome_l1 (s : State) (k : Nat) (bs : List Byte) : (s.putHome k bs).l1 = s.l1 := rfl
@[simp] theorem State.putHome_dir (s : State) (k : Nat) (bs : List Byte) : (s.putHome k bs).dir = s.dir := rfl
@[simp] theorem State.putHome_overfull (s : State) (k : Nat) (bs : List Byte) : (s.putHome k bs).overfull = s.overfull := rfl
@[simp] theorem State.putHome_xlat (s : State) (k : Nat) (bs : List Byte) : (s.putHome k bs).xlat = s.xlat := rfl
@[simp] theorem State.putHome_lptCache (s : State) (k : Nat) (bs : List Byte) : (s.putHome k bs).lptCache = s.lptCache := rfl
@[simp] theorem State.putHome_pageReqs (s : State) (k : Nat) (bs : List Byte) : (s.putHome k bs).pageReqs = s.pageReqs := rfl
@[simp] theorem State.putHome_skip (s : State) (k : Nat) (bs : List Byte) : (s.putHome k bs).skip = s.skip := rfl
@[simp] theorem State.putHome_pending (s : State) (k : Nat) (bs : List Byte) : (s.putHome k bs).pending = s.pending := rfl
@[simp] theorem State.putHome_resizes (s : State) (k : Nat) (bs : List Byte) : (s.putHome k bs).resizes = s.resizes := rfl
@[simp] theorem State.putHome_rings (s : State) (k : Nat) (bs : List Byte) : (s.putHome k bs).rings = s.rings := rfl
@[simp] theorem State.putHome_packets (s : State) (k : Nat) (bs : List Byte) : (s.putHome k bs).packets = s.packets := rfl
@[simp] theorem State.putHome_barriers (s : State) (k : Nat) (bs : List Byte) : (s.putHome k bs).barriers = s.barriers := rfl
@[simp] theorem State.putHome_losses (s : State) (k : Nat) (bs : List Byte) : (s.putHome k bs).losses = s.losses := rfl
@[simp] theorem State.putHome_away (s : State) (k : Nat) (bs : List Byte) : (s.putHome k bs).away = s.away := rfl
@[simp] theorem State.putHome_outside (s : State) (k : Nat) (bs : List Byte) : (s.putHome k bs).outside = s.outside := rfl
@[simp] theorem State.putHome_host (s : State) (k : Nat) (bs : List Byte) : (s.putHome k bs).host = s.host := rfl
@[simp] theorem State.putHome_box (s : State) (k : Nat) (bs : List Byte) : (s.putHome k bs).box = s.box := rfl
@[simp] theorem State.putHome_steax (s : State) (k : Nat) (bs : List Byte) : (s.putHome k bs).steax = s.steax := rfl
@[simp] theorem State.wake_tick (s : State) (test : Nat → Strand → Wait → Bool) : (s.wake test).tick = s.tick := rfl
@[simp] theorem State.wake_cyc (s : State) (test : Nat → Strand → Wait → Bool) : (s.wake test).cyc = s.cyc := rfl
@[simp] theorem State.wake_cur (s : State) (test : Nat → Strand → Wait → Bool) : (s.wake test).cur = s.cur := rfl
@[simp] theorem State.wake_ir (s : State) (test : Nat → Strand → Wait → Bool) : (s.wake test).ir = s.ir := rfl
@[simp] theorem State.wake_nextUid (s : State) (test : Nat → Strand → Wait → Bool) : (s.wake test).nextUid = s.nextUid := rfl
@[simp] theorem State.wake_inputs (s : State) (test : Nat → Strand → Wait → Bool) : (s.wake test).inputs = s.inputs := rfl
@[simp] theorem State.wake_outbox (s : State) (test : Nat → Strand → Wait → Bool) : (s.wake test).outbox = s.outbox := rfl
@[simp] theorem State.wake_cores (s : State) (test : Nat → Strand → Wait → Bool) : (s.wake test).cores = s.cores := rfl
@[simp] theorem State.wake_quads (s : State) (test : Nat → Strand → Wait → Bool) : (s.wake test).quads = s.quads := rfl
@[simp] theorem State.wake_parts (s : State) (test : Nat → Strand → Wait → Bool) : (s.wake test).parts = s.parts := rfl
@[simp] theorem State.wake_jobs (s : State) (test : Nat → Strand → Wait → Bool) : (s.wake test).jobs = s.jobs := rfl
@[simp] theorem State.wake_dies (s : State) (test : Nat → Strand → Wait → Bool) : (s.wake test).dies = s.dies := rfl
@[simp] theorem State.wake_mem (s : State) (test : Nat → Strand → Wait → Bool) : (s.wake test).mem = s.mem := rfl
@[simp] theorem State.wake_poison (s : State) (test : Nat → Strand → Wait → Bool) : (s.wake test).poison = s.poison := rfl
@[simp] theorem State.wake_l1 (s : State) (test : Nat → Strand → Wait → Bool) : (s.wake test).l1 = s.l1 := rfl
@[simp] theorem State.wake_dir (s : State) (test : Nat → Strand → Wait → Bool) : (s.wake test).dir = s.dir := rfl
@[simp] theorem State.wake_overfull (s : State) (test : Nat → Strand → Wait → Bool) : (s.wake test).overfull = s.overfull := rfl
@[simp] theorem State.wake_xlat (s : State) (test : Nat → Strand → Wait → Bool) : (s.wake test).xlat = s.xlat := rfl
@[simp] theorem State.wake_lptCache (s : State) (test : Nat → Strand → Wait → Bool) : (s.wake test).lptCache = s.lptCache := rfl
@[simp] theorem State.wake_pageReqs (s : State) (test : Nat → Strand → Wait → Bool) : (s.wake test).pageReqs = s.pageReqs := rfl
@[simp] theorem State.wake_skip (s : State) (test : Nat → Strand → Wait → Bool) : (s.wake test).skip = s.skip := rfl
@[simp] theorem State.wake_pending (s : State) (test : Nat → Strand → Wait → Bool) : (s.wake test).pending = s.pending := rfl
@[simp] theorem State.wake_resizes (s : State) (test : Nat → Strand → Wait → Bool) : (s.wake test).resizes = s.resizes := rfl
@[simp] theorem State.wake_rings (s : State) (test : Nat → Strand → Wait → Bool) : (s.wake test).rings = s.rings := rfl
@[simp] theorem State.wake_packets (s : State) (test : Nat → Strand → Wait → Bool) : (s.wake test).packets = s.packets := rfl
@[simp] theorem State.wake_barriers (s : State) (test : Nat → Strand → Wait → Bool) : (s.wake test).barriers = s.barriers := rfl
@[simp] theorem State.wake_losses (s : State) (test : Nat → Strand → Wait → Bool) : (s.wake test).losses = s.losses := rfl
@[simp] theorem State.wake_away (s : State) (test : Nat → Strand → Wait → Bool) : (s.wake test).away = s.away := rfl
@[simp] theorem State.wake_outside (s : State) (test : Nat → Strand → Wait → Bool) : (s.wake test).outside = s.outside := rfl
@[simp] theorem State.wake_host (s : State) (test : Nat → Strand → Wait → Bool) : (s.wake test).host = s.host := rfl
@[simp] theorem State.wake_box (s : State) (test : Nat → Strand → Wait → Bool) : (s.wake test).box = s.box := rfl
@[simp] theorem State.wake_steax (s : State) (test : Nat → Strand → Wait → Bool) : (s.wake test).steax = s.steax := rfl
@[simp] theorem Strand.setV_kind (t : Strand) (r : BitVec 5) (x : Vec) : (t.setV r x).kind = t.kind := rfl
@[simp] theorem Strand.setV_vf (t : Strand) (r : BitVec 5) (x : Vec) : (t.setV r x).vf = t.vf := rfl
@[simp] theorem Strand.setV_birthJob (t : Strand) (r : BitVec 5) (x : Vec) : (t.setV r x).birthJob = t.birthJob := rfl
@[simp] theorem Strand.setV_core (t : Strand) (r : BitVec 5) (x : Vec) : (t.setV r x).core = t.core := rfl
@[simp] theorem Strand.setV_slot (t : Strand) (r : BitVec 5) (x : Vec) : (t.setV r x).slot = t.slot := rfl
@[simp] theorem Strand.setV_launch (t : Strand) (r : BitVec 5) (x : Vec) : (t.setV r x).launch = t.launch := rfl
@[simp] theorem Strand.setV_anc (t : Strand) (r : BitVec 5) (x : Vec) : (t.setV r x).anc = t.anc := rfl
@[simp] theorem Strand.setV_pop (t : Strand) (r : BitVec 5) (x : Vec) : (t.setV r x).pop = t.pop := rfl
@[simp] theorem Strand.setV_group (t : Strand) (r : BitVec 5) (x : Vec) : (t.setV r x).group = t.group := rfl
@[simp] theorem Strand.setV_triggered (t : Strand) (r : BitVec 5) (x : Vec) : (t.setV r x).triggered = t.triggered := rfl
@[simp] theorem Strand.setV_code (t : Strand) (r : BitVec 5) (x : Vec) : (t.setV r x).code = t.code := rfl
@[simp] theorem Strand.setV_win (t : Strand) (r : BitVec 5) (x : Vec) : (t.setV r x).win = t.win := rfl
@[simp] theorem Strand.setV_released (t : Strand) (r : BitVec 5) (x : Vec) : (t.setV r x).released = t.released := rfl
@[simp] theorem Strand.setV_marked (t : Strand) (r : BitVec 5) (x : Vec) : (t.setV r x).marked = t.marked := rfl
@[simp] theorem Strand.setV_pc (t : Strand) (r : BitVec 5) (x : Vec) : (t.setV r x).pc = t.pc := rfl
@[simp] theorem Strand.setV_sys (t : Strand) (r : BitVec 5) (x : Vec) : (t.setV r x).sys = t.sys := rfl
@[simp] theorem Strand.setV_run (t : Strand) (r : BitVec 5) (x : Vec) : (t.setV r x).run = t.run := rfl
@[simp] theorem Strand.setV_prog (t : Strand) (r : BitVec 5) (x : Vec) : (t.setV r x).prog = t.prog := rfl
@[simp] theorem Strand.setV_since (t : Strand) (r : BitVec 5) (x : Vec) : (t.setV r x).since = t.since := rfl
@[simp] theorem Strand.setV_wokenAt (t : Strand) (r : BitVec 5) (x : Vec) : (t.setV r x).wokenAt = t.wokenAt := rfl
@[simp] theorem Strand.setV_buf (t : Strand) (r : BitVec 5) (x : Vec) : (t.setV r x).buf = t.buf := rfl
@[simp] theorem Strand.setV_vflags (t : Strand) (r : BitVec 5) (x : Vec) : (t.setV r x).vflags = t.vflags := rfl
@[simp] theorem Strand.setV_answered (t : Strand) (r : BitVec 5) (x : Vec) : (t.setV r x).answered = t.answered := rfl
@[simp] theorem Strand.setV_filled (t : Strand) (r : BitVec 5) (x : Vec) : (t.setV r x).filled = t.filled := rfl
@[simp] theorem Strand.setV_refused (t : Strand) (r : BitVec 5) (x : Vec) : (t.setV r x).refused = t.refused := rfl
@[simp] theorem Strand.setV_timeout (t : Strand) (r : BitVec 5) (x : Vec) : (t.setV r x).timeout = t.timeout := rfl
@[simp] theorem Strand.setV_doom (t : Strand) (r : BitVec 5) (x : Vec) : (t.setV r x).doom = t.doom := rfl
@[simp] theorem Strand.setV_points (t : Strand) (r : BitVec 5) (x : Vec) : (t.setV r x).points = t.points := rfl
@[simp] theorem Strand.setV_readyAt (t : Strand) (r : BitVec 5) (x : Vec) : (t.setV r x).readyAt = t.readyAt := rfl
@[simp] theorem Strand.setV_watch (t : Strand) (r : BitVec 5) (x : Vec) : (t.setV r x).watch = t.watch := rfl
@[simp] theorem Strand.setV_parked (t : Strand) (r : BitVec 5) (x : Vec) : (t.setV r x).parked = t.parked := rfl
@[simp] theorem Strand.setV_preempt (t : Strand) (r : BitVec 5) (x : Vec) : (t.setV r x).preempt = t.preempt := rfl
@[simp] theorem Strand.setV_fromPark (t : Strand) (r : BitVec 5) (x : Vec) : (t.setV r x).fromPark = t.fromPark := rfl
@[simp] theorem Strand.setV_delivery (t : Strand) (r : BitVec 5) (x : Vec) : (t.setV r x).delivery = t.delivery := rfl
@[simp] theorem Strand.setV_pendingClone (t : Strand) (r : BitVec 5) (x : Vec) : (t.setV r x).pendingClone = t.pendingClone := rfl
@[simp] theorem Strand.setV_pinned (t : Strand) (r : BitVec 5) (x : Vec) : (t.setV r x).pinned = t.pinned := rfl
@[simp] theorem Strand.setV_reduced (t : Strand) (r : BitVec 5) (x : Vec) : (t.setV r x).reduced = t.reduced := rfl
@[simp] theorem Strand.setK_kind (t : Strand) (r : BitVec 3) (x : Word64) : (t.setK r x).kind = t.kind := rfl
@[simp] theorem Strand.setK_vf (t : Strand) (r : BitVec 3) (x : Word64) : (t.setK r x).vf = t.vf := rfl
@[simp] theorem Strand.setK_birthJob (t : Strand) (r : BitVec 3) (x : Word64) : (t.setK r x).birthJob = t.birthJob := rfl
@[simp] theorem Strand.setK_core (t : Strand) (r : BitVec 3) (x : Word64) : (t.setK r x).core = t.core := rfl
@[simp] theorem Strand.setK_slot (t : Strand) (r : BitVec 3) (x : Word64) : (t.setK r x).slot = t.slot := rfl
@[simp] theorem Strand.setK_launch (t : Strand) (r : BitVec 3) (x : Word64) : (t.setK r x).launch = t.launch := rfl
@[simp] theorem Strand.setK_anc (t : Strand) (r : BitVec 3) (x : Word64) : (t.setK r x).anc = t.anc := rfl
@[simp] theorem Strand.setK_pop (t : Strand) (r : BitVec 3) (x : Word64) : (t.setK r x).pop = t.pop := rfl
@[simp] theorem Strand.setK_group (t : Strand) (r : BitVec 3) (x : Word64) : (t.setK r x).group = t.group := rfl
@[simp] theorem Strand.setK_triggered (t : Strand) (r : BitVec 3) (x : Word64) : (t.setK r x).triggered = t.triggered := rfl
@[simp] theorem Strand.setK_code (t : Strand) (r : BitVec 3) (x : Word64) : (t.setK r x).code = t.code := rfl
@[simp] theorem Strand.setK_win (t : Strand) (r : BitVec 3) (x : Word64) : (t.setK r x).win = t.win := rfl
@[simp] theorem Strand.setK_released (t : Strand) (r : BitVec 3) (x : Word64) : (t.setK r x).released = t.released := rfl
@[simp] theorem Strand.setK_marked (t : Strand) (r : BitVec 3) (x : Word64) : (t.setK r x).marked = t.marked := rfl
@[simp] theorem Strand.setK_pc (t : Strand) (r : BitVec 3) (x : Word64) : (t.setK r x).pc = t.pc := rfl
@[simp] theorem Strand.setK_sys (t : Strand) (r : BitVec 3) (x : Word64) : (t.setK r x).sys = t.sys := rfl
@[simp] theorem Strand.setK_run (t : Strand) (r : BitVec 3) (x : Word64) : (t.setK r x).run = t.run := rfl
@[simp] theorem Strand.setK_prog (t : Strand) (r : BitVec 3) (x : Word64) : (t.setK r x).prog = t.prog := rfl
@[simp] theorem Strand.setK_since (t : Strand) (r : BitVec 3) (x : Word64) : (t.setK r x).since = t.since := rfl
@[simp] theorem Strand.setK_wokenAt (t : Strand) (r : BitVec 3) (x : Word64) : (t.setK r x).wokenAt = t.wokenAt := rfl
@[simp] theorem Strand.setK_buf (t : Strand) (r : BitVec 3) (x : Word64) : (t.setK r x).buf = t.buf := rfl
@[simp] theorem Strand.setK_vflags (t : Strand) (r : BitVec 3) (x : Word64) : (t.setK r x).vflags = t.vflags := rfl
@[simp] theorem Strand.setK_answered (t : Strand) (r : BitVec 3) (x : Word64) : (t.setK r x).answered = t.answered := rfl
@[simp] theorem Strand.setK_filled (t : Strand) (r : BitVec 3) (x : Word64) : (t.setK r x).filled = t.filled := rfl
@[simp] theorem Strand.setK_refused (t : Strand) (r : BitVec 3) (x : Word64) : (t.setK r x).refused = t.refused := rfl
@[simp] theorem Strand.setK_timeout (t : Strand) (r : BitVec 3) (x : Word64) : (t.setK r x).timeout = t.timeout := rfl
@[simp] theorem Strand.setK_doom (t : Strand) (r : BitVec 3) (x : Word64) : (t.setK r x).doom = t.doom := rfl
@[simp] theorem Strand.setK_points (t : Strand) (r : BitVec 3) (x : Word64) : (t.setK r x).points = t.points := rfl
@[simp] theorem Strand.setK_readyAt (t : Strand) (r : BitVec 3) (x : Word64) : (t.setK r x).readyAt = t.readyAt := rfl
@[simp] theorem Strand.setK_watch (t : Strand) (r : BitVec 3) (x : Word64) : (t.setK r x).watch = t.watch := rfl
@[simp] theorem Strand.setK_parked (t : Strand) (r : BitVec 3) (x : Word64) : (t.setK r x).parked = t.parked := rfl
@[simp] theorem Strand.setK_preempt (t : Strand) (r : BitVec 3) (x : Word64) : (t.setK r x).preempt = t.preempt := rfl
@[simp] theorem Strand.setK_fromPark (t : Strand) (r : BitVec 3) (x : Word64) : (t.setK r x).fromPark = t.fromPark := rfl
@[simp] theorem Strand.setK_delivery (t : Strand) (r : BitVec 3) (x : Word64) : (t.setK r x).delivery = t.delivery := rfl
@[simp] theorem Strand.setK_pendingClone (t : Strand) (r : BitVec 3) (x : Word64) : (t.setK r x).pendingClone = t.pendingClone := rfl
@[simp] theorem Strand.setK_pinned (t : Strand) (r : BitVec 3) (x : Word64) : (t.setK r x).pinned = t.pinned := rfl
@[simp] theorem Strand.setK_reduced (t : Strand) (r : BitVec 3) (x : Word64) : (t.setK r x).reduced = t.reduced := rfl
@[simp] theorem Strand.setH_kind (t : Strand) (r : BitVec 3) (x : Word64) : (t.setH r x).kind = t.kind := rfl
@[simp] theorem Strand.setH_vf (t : Strand) (r : BitVec 3) (x : Word64) : (t.setH r x).vf = t.vf := rfl
@[simp] theorem Strand.setH_birthJob (t : Strand) (r : BitVec 3) (x : Word64) : (t.setH r x).birthJob = t.birthJob := rfl
@[simp] theorem Strand.setH_core (t : Strand) (r : BitVec 3) (x : Word64) : (t.setH r x).core = t.core := rfl
@[simp] theorem Strand.setH_slot (t : Strand) (r : BitVec 3) (x : Word64) : (t.setH r x).slot = t.slot := rfl
@[simp] theorem Strand.setH_launch (t : Strand) (r : BitVec 3) (x : Word64) : (t.setH r x).launch = t.launch := rfl
@[simp] theorem Strand.setH_anc (t : Strand) (r : BitVec 3) (x : Word64) : (t.setH r x).anc = t.anc := rfl
@[simp] theorem Strand.setH_pop (t : Strand) (r : BitVec 3) (x : Word64) : (t.setH r x).pop = t.pop := rfl
@[simp] theorem Strand.setH_group (t : Strand) (r : BitVec 3) (x : Word64) : (t.setH r x).group = t.group := rfl
@[simp] theorem Strand.setH_triggered (t : Strand) (r : BitVec 3) (x : Word64) : (t.setH r x).triggered = t.triggered := rfl
@[simp] theorem Strand.setH_code (t : Strand) (r : BitVec 3) (x : Word64) : (t.setH r x).code = t.code := rfl
@[simp] theorem Strand.setH_win (t : Strand) (r : BitVec 3) (x : Word64) : (t.setH r x).win = t.win := rfl
@[simp] theorem Strand.setH_released (t : Strand) (r : BitVec 3) (x : Word64) : (t.setH r x).released = t.released := rfl
@[simp] theorem Strand.setH_marked (t : Strand) (r : BitVec 3) (x : Word64) : (t.setH r x).marked = t.marked := rfl
@[simp] theorem Strand.setH_pc (t : Strand) (r : BitVec 3) (x : Word64) : (t.setH r x).pc = t.pc := rfl
@[simp] theorem Strand.setH_sys (t : Strand) (r : BitVec 3) (x : Word64) : (t.setH r x).sys = t.sys := rfl
@[simp] theorem Strand.setH_run (t : Strand) (r : BitVec 3) (x : Word64) : (t.setH r x).run = t.run := rfl
@[simp] theorem Strand.setH_prog (t : Strand) (r : BitVec 3) (x : Word64) : (t.setH r x).prog = t.prog := rfl
@[simp] theorem Strand.setH_since (t : Strand) (r : BitVec 3) (x : Word64) : (t.setH r x).since = t.since := rfl
@[simp] theorem Strand.setH_wokenAt (t : Strand) (r : BitVec 3) (x : Word64) : (t.setH r x).wokenAt = t.wokenAt := rfl
@[simp] theorem Strand.setH_buf (t : Strand) (r : BitVec 3) (x : Word64) : (t.setH r x).buf = t.buf := rfl
@[simp] theorem Strand.setH_vflags (t : Strand) (r : BitVec 3) (x : Word64) : (t.setH r x).vflags = t.vflags := rfl
@[simp] theorem Strand.setH_answered (t : Strand) (r : BitVec 3) (x : Word64) : (t.setH r x).answered = t.answered := rfl
@[simp] theorem Strand.setH_filled (t : Strand) (r : BitVec 3) (x : Word64) : (t.setH r x).filled = t.filled := rfl
@[simp] theorem Strand.setH_refused (t : Strand) (r : BitVec 3) (x : Word64) : (t.setH r x).refused = t.refused := rfl
@[simp] theorem Strand.setH_timeout (t : Strand) (r : BitVec 3) (x : Word64) : (t.setH r x).timeout = t.timeout := rfl
@[simp] theorem Strand.setH_doom (t : Strand) (r : BitVec 3) (x : Word64) : (t.setH r x).doom = t.doom := rfl
@[simp] theorem Strand.setH_points (t : Strand) (r : BitVec 3) (x : Word64) : (t.setH r x).points = t.points := rfl
@[simp] theorem Strand.setH_readyAt (t : Strand) (r : BitVec 3) (x : Word64) : (t.setH r x).readyAt = t.readyAt := rfl
@[simp] theorem Strand.setH_watch (t : Strand) (r : BitVec 3) (x : Word64) : (t.setH r x).watch = t.watch := rfl
@[simp] theorem Strand.setH_parked (t : Strand) (r : BitVec 3) (x : Word64) : (t.setH r x).parked = t.parked := rfl
@[simp] theorem Strand.setH_preempt (t : Strand) (r : BitVec 3) (x : Word64) : (t.setH r x).preempt = t.preempt := rfl
@[simp] theorem Strand.setH_fromPark (t : Strand) (r : BitVec 3) (x : Word64) : (t.setH r x).fromPark = t.fromPark := rfl
@[simp] theorem Strand.setH_delivery (t : Strand) (r : BitVec 3) (x : Word64) : (t.setH r x).delivery = t.delivery := rfl
@[simp] theorem Strand.setH_pendingClone (t : Strand) (r : BitVec 3) (x : Word64) : (t.setH r x).pendingClone = t.pendingClone := rfl
@[simp] theorem Strand.setH_pinned (t : Strand) (r : BitVec 3) (x : Word64) : (t.setH r x).pinned = t.pinned := rfl
@[simp] theorem Strand.setH_reduced (t : Strand) (r : BitVec 3) (x : Word64) : (t.setH r x).reduced = t.reduced := rfl
@[simp] theorem Strand.setB_kind (t : Strand) (r : BitVec 2) (x : Word64) : (t.setB r x).kind = t.kind := rfl
@[simp] theorem Strand.setB_vf (t : Strand) (r : BitVec 2) (x : Word64) : (t.setB r x).vf = t.vf := rfl
@[simp] theorem Strand.setB_birthJob (t : Strand) (r : BitVec 2) (x : Word64) : (t.setB r x).birthJob = t.birthJob := rfl
@[simp] theorem Strand.setB_core (t : Strand) (r : BitVec 2) (x : Word64) : (t.setB r x).core = t.core := rfl
@[simp] theorem Strand.setB_slot (t : Strand) (r : BitVec 2) (x : Word64) : (t.setB r x).slot = t.slot := rfl
@[simp] theorem Strand.setB_launch (t : Strand) (r : BitVec 2) (x : Word64) : (t.setB r x).launch = t.launch := rfl
@[simp] theorem Strand.setB_anc (t : Strand) (r : BitVec 2) (x : Word64) : (t.setB r x).anc = t.anc := rfl
@[simp] theorem Strand.setB_pop (t : Strand) (r : BitVec 2) (x : Word64) : (t.setB r x).pop = t.pop := rfl
@[simp] theorem Strand.setB_group (t : Strand) (r : BitVec 2) (x : Word64) : (t.setB r x).group = t.group := rfl
@[simp] theorem Strand.setB_triggered (t : Strand) (r : BitVec 2) (x : Word64) : (t.setB r x).triggered = t.triggered := rfl
@[simp] theorem Strand.setB_code (t : Strand) (r : BitVec 2) (x : Word64) : (t.setB r x).code = t.code := rfl
@[simp] theorem Strand.setB_win (t : Strand) (r : BitVec 2) (x : Word64) : (t.setB r x).win = t.win := rfl
@[simp] theorem Strand.setB_released (t : Strand) (r : BitVec 2) (x : Word64) : (t.setB r x).released = t.released := rfl
@[simp] theorem Strand.setB_marked (t : Strand) (r : BitVec 2) (x : Word64) : (t.setB r x).marked = t.marked := rfl
@[simp] theorem Strand.setB_pc (t : Strand) (r : BitVec 2) (x : Word64) : (t.setB r x).pc = t.pc := rfl
@[simp] theorem Strand.setB_sys (t : Strand) (r : BitVec 2) (x : Word64) : (t.setB r x).sys = t.sys := rfl
@[simp] theorem Strand.setB_run (t : Strand) (r : BitVec 2) (x : Word64) : (t.setB r x).run = t.run := rfl
@[simp] theorem Strand.setB_prog (t : Strand) (r : BitVec 2) (x : Word64) : (t.setB r x).prog = t.prog := rfl
@[simp] theorem Strand.setB_since (t : Strand) (r : BitVec 2) (x : Word64) : (t.setB r x).since = t.since := rfl
@[simp] theorem Strand.setB_wokenAt (t : Strand) (r : BitVec 2) (x : Word64) : (t.setB r x).wokenAt = t.wokenAt := rfl
@[simp] theorem Strand.setB_buf (t : Strand) (r : BitVec 2) (x : Word64) : (t.setB r x).buf = t.buf := rfl
@[simp] theorem Strand.setB_vflags (t : Strand) (r : BitVec 2) (x : Word64) : (t.setB r x).vflags = t.vflags := rfl
@[simp] theorem Strand.setB_answered (t : Strand) (r : BitVec 2) (x : Word64) : (t.setB r x).answered = t.answered := rfl
@[simp] theorem Strand.setB_filled (t : Strand) (r : BitVec 2) (x : Word64) : (t.setB r x).filled = t.filled := rfl
@[simp] theorem Strand.setB_refused (t : Strand) (r : BitVec 2) (x : Word64) : (t.setB r x).refused = t.refused := rfl
@[simp] theorem Strand.setB_timeout (t : Strand) (r : BitVec 2) (x : Word64) : (t.setB r x).timeout = t.timeout := rfl
@[simp] theorem Strand.setB_doom (t : Strand) (r : BitVec 2) (x : Word64) : (t.setB r x).doom = t.doom := rfl
@[simp] theorem Strand.setB_points (t : Strand) (r : BitVec 2) (x : Word64) : (t.setB r x).points = t.points := rfl
@[simp] theorem Strand.setB_readyAt (t : Strand) (r : BitVec 2) (x : Word64) : (t.setB r x).readyAt = t.readyAt := rfl
@[simp] theorem Strand.setB_watch (t : Strand) (r : BitVec 2) (x : Word64) : (t.setB r x).watch = t.watch := rfl
@[simp] theorem Strand.setB_parked (t : Strand) (r : BitVec 2) (x : Word64) : (t.setB r x).parked = t.parked := rfl
@[simp] theorem Strand.setB_preempt (t : Strand) (r : BitVec 2) (x : Word64) : (t.setB r x).preempt = t.preempt := rfl
@[simp] theorem Strand.setB_fromPark (t : Strand) (r : BitVec 2) (x : Word64) : (t.setB r x).fromPark = t.fromPark := rfl
@[simp] theorem Strand.setB_delivery (t : Strand) (r : BitVec 2) (x : Word64) : (t.setB r x).delivery = t.delivery := rfl
@[simp] theorem Strand.setB_pendingClone (t : Strand) (r : BitVec 2) (x : Word64) : (t.setB r x).pendingClone = t.pendingClone := rfl
@[simp] theorem Strand.setB_pinned (t : Strand) (r : BitVec 2) (x : Word64) : (t.setB r x).pinned = t.pinned := rfl
@[simp] theorem Strand.setB_reduced (t : Strand) (r : BitVec 2) (x : Word64) : (t.setB r x).reduced = t.reduced := rfl
@[simp] theorem Strand.setW_kind (t : Strand) (r : BitVec 3) (x : Weir) : (t.setW r x).kind = t.kind := rfl
@[simp] theorem Strand.setW_vf (t : Strand) (r : BitVec 3) (x : Weir) : (t.setW r x).vf = t.vf := rfl
@[simp] theorem Strand.setW_birthJob (t : Strand) (r : BitVec 3) (x : Weir) : (t.setW r x).birthJob = t.birthJob := rfl
@[simp] theorem Strand.setW_core (t : Strand) (r : BitVec 3) (x : Weir) : (t.setW r x).core = t.core := rfl
@[simp] theorem Strand.setW_slot (t : Strand) (r : BitVec 3) (x : Weir) : (t.setW r x).slot = t.slot := rfl
@[simp] theorem Strand.setW_launch (t : Strand) (r : BitVec 3) (x : Weir) : (t.setW r x).launch = t.launch := rfl
@[simp] theorem Strand.setW_anc (t : Strand) (r : BitVec 3) (x : Weir) : (t.setW r x).anc = t.anc := rfl
@[simp] theorem Strand.setW_pop (t : Strand) (r : BitVec 3) (x : Weir) : (t.setW r x).pop = t.pop := rfl
@[simp] theorem Strand.setW_group (t : Strand) (r : BitVec 3) (x : Weir) : (t.setW r x).group = t.group := rfl
@[simp] theorem Strand.setW_triggered (t : Strand) (r : BitVec 3) (x : Weir) : (t.setW r x).triggered = t.triggered := rfl
@[simp] theorem Strand.setW_code (t : Strand) (r : BitVec 3) (x : Weir) : (t.setW r x).code = t.code := rfl
@[simp] theorem Strand.setW_win (t : Strand) (r : BitVec 3) (x : Weir) : (t.setW r x).win = t.win := rfl
@[simp] theorem Strand.setW_released (t : Strand) (r : BitVec 3) (x : Weir) : (t.setW r x).released = t.released := rfl
@[simp] theorem Strand.setW_marked (t : Strand) (r : BitVec 3) (x : Weir) : (t.setW r x).marked = t.marked := rfl
@[simp] theorem Strand.setW_pc (t : Strand) (r : BitVec 3) (x : Weir) : (t.setW r x).pc = t.pc := rfl
@[simp] theorem Strand.setW_sys (t : Strand) (r : BitVec 3) (x : Weir) : (t.setW r x).sys = t.sys := rfl
@[simp] theorem Strand.setW_run (t : Strand) (r : BitVec 3) (x : Weir) : (t.setW r x).run = t.run := rfl
@[simp] theorem Strand.setW_prog (t : Strand) (r : BitVec 3) (x : Weir) : (t.setW r x).prog = t.prog := rfl
@[simp] theorem Strand.setW_since (t : Strand) (r : BitVec 3) (x : Weir) : (t.setW r x).since = t.since := rfl
@[simp] theorem Strand.setW_wokenAt (t : Strand) (r : BitVec 3) (x : Weir) : (t.setW r x).wokenAt = t.wokenAt := rfl
@[simp] theorem Strand.setW_buf (t : Strand) (r : BitVec 3) (x : Weir) : (t.setW r x).buf = t.buf := rfl
@[simp] theorem Strand.setW_vflags (t : Strand) (r : BitVec 3) (x : Weir) : (t.setW r x).vflags = t.vflags := rfl
@[simp] theorem Strand.setW_answered (t : Strand) (r : BitVec 3) (x : Weir) : (t.setW r x).answered = t.answered := rfl
@[simp] theorem Strand.setW_filled (t : Strand) (r : BitVec 3) (x : Weir) : (t.setW r x).filled = t.filled := rfl
@[simp] theorem Strand.setW_refused (t : Strand) (r : BitVec 3) (x : Weir) : (t.setW r x).refused = t.refused := rfl
@[simp] theorem Strand.setW_timeout (t : Strand) (r : BitVec 3) (x : Weir) : (t.setW r x).timeout = t.timeout := rfl
@[simp] theorem Strand.setW_doom (t : Strand) (r : BitVec 3) (x : Weir) : (t.setW r x).doom = t.doom := rfl
@[simp] theorem Strand.setW_points (t : Strand) (r : BitVec 3) (x : Weir) : (t.setW r x).points = t.points := rfl
@[simp] theorem Strand.setW_readyAt (t : Strand) (r : BitVec 3) (x : Weir) : (t.setW r x).readyAt = t.readyAt := rfl
@[simp] theorem Strand.setW_watch (t : Strand) (r : BitVec 3) (x : Weir) : (t.setW r x).watch = t.watch := rfl
@[simp] theorem Strand.setW_parked (t : Strand) (r : BitVec 3) (x : Weir) : (t.setW r x).parked = t.parked := rfl
@[simp] theorem Strand.setW_preempt (t : Strand) (r : BitVec 3) (x : Weir) : (t.setW r x).preempt = t.preempt := rfl
@[simp] theorem Strand.setW_fromPark (t : Strand) (r : BitVec 3) (x : Weir) : (t.setW r x).fromPark = t.fromPark := rfl
@[simp] theorem Strand.setW_delivery (t : Strand) (r : BitVec 3) (x : Weir) : (t.setW r x).delivery = t.delivery := rfl
@[simp] theorem Strand.setW_pendingClone (t : Strand) (r : BitVec 3) (x : Weir) : (t.setW r x).pendingClone = t.pendingClone := rfl
@[simp] theorem Strand.setW_pinned (t : Strand) (r : BitVec 3) (x : Weir) : (t.setW r x).pinned = t.pinned := rfl
@[simp] theorem Strand.setW_reduced (t : Strand) (r : BitVec 3) (x : Weir) : (t.setW r x).reduced = t.reduced := rfl
@[simp] theorem Strand.setG_kind (t : Strand) (r : BitVec 5) (x : Word64) : (t.setG r x).kind = t.kind := by
  unfold Strand.setG; split <;> rfl
@[simp] theorem Strand.setG_vf (t : Strand) (r : BitVec 5) (x : Word64) : (t.setG r x).vf = t.vf := by
  unfold Strand.setG; split <;> rfl
@[simp] theorem Strand.setG_birthJob (t : Strand) (r : BitVec 5) (x : Word64) : (t.setG r x).birthJob = t.birthJob := by
  unfold Strand.setG; split <;> rfl
@[simp] theorem Strand.setG_core (t : Strand) (r : BitVec 5) (x : Word64) : (t.setG r x).core = t.core := by
  unfold Strand.setG; split <;> rfl
@[simp] theorem Strand.setG_slot (t : Strand) (r : BitVec 5) (x : Word64) : (t.setG r x).slot = t.slot := by
  unfold Strand.setG; split <;> rfl
@[simp] theorem Strand.setG_launch (t : Strand) (r : BitVec 5) (x : Word64) : (t.setG r x).launch = t.launch := by
  unfold Strand.setG; split <;> rfl
@[simp] theorem Strand.setG_anc (t : Strand) (r : BitVec 5) (x : Word64) : (t.setG r x).anc = t.anc := by
  unfold Strand.setG; split <;> rfl
@[simp] theorem Strand.setG_pop (t : Strand) (r : BitVec 5) (x : Word64) : (t.setG r x).pop = t.pop := by
  unfold Strand.setG; split <;> rfl
@[simp] theorem Strand.setG_group (t : Strand) (r : BitVec 5) (x : Word64) : (t.setG r x).group = t.group := by
  unfold Strand.setG; split <;> rfl
@[simp] theorem Strand.setG_triggered (t : Strand) (r : BitVec 5) (x : Word64) : (t.setG r x).triggered = t.triggered := by
  unfold Strand.setG; split <;> rfl
@[simp] theorem Strand.setG_code (t : Strand) (r : BitVec 5) (x : Word64) : (t.setG r x).code = t.code := by
  unfold Strand.setG; split <;> rfl
@[simp] theorem Strand.setG_win (t : Strand) (r : BitVec 5) (x : Word64) : (t.setG r x).win = t.win := by
  unfold Strand.setG; split <;> rfl
@[simp] theorem Strand.setG_released (t : Strand) (r : BitVec 5) (x : Word64) : (t.setG r x).released = t.released := by
  unfold Strand.setG; split <;> rfl
@[simp] theorem Strand.setG_marked (t : Strand) (r : BitVec 5) (x : Word64) : (t.setG r x).marked = t.marked := by
  unfold Strand.setG; split <;> rfl
@[simp] theorem Strand.setG_pc (t : Strand) (r : BitVec 5) (x : Word64) : (t.setG r x).pc = t.pc := by
  unfold Strand.setG; split <;> rfl
@[simp] theorem Strand.setG_sys (t : Strand) (r : BitVec 5) (x : Word64) : (t.setG r x).sys = t.sys := by
  unfold Strand.setG; split <;> rfl
@[simp] theorem Strand.setG_run (t : Strand) (r : BitVec 5) (x : Word64) : (t.setG r x).run = t.run := by
  unfold Strand.setG; split <;> rfl
@[simp] theorem Strand.setG_prog (t : Strand) (r : BitVec 5) (x : Word64) : (t.setG r x).prog = t.prog := by
  unfold Strand.setG; split <;> rfl
@[simp] theorem Strand.setG_since (t : Strand) (r : BitVec 5) (x : Word64) : (t.setG r x).since = t.since := by
  unfold Strand.setG; split <;> rfl
@[simp] theorem Strand.setG_wokenAt (t : Strand) (r : BitVec 5) (x : Word64) : (t.setG r x).wokenAt = t.wokenAt := by
  unfold Strand.setG; split <;> rfl
@[simp] theorem Strand.setG_buf (t : Strand) (r : BitVec 5) (x : Word64) : (t.setG r x).buf = t.buf := by
  unfold Strand.setG; split <;> rfl
@[simp] theorem Strand.setG_vflags (t : Strand) (r : BitVec 5) (x : Word64) : (t.setG r x).vflags = t.vflags := by
  unfold Strand.setG; split <;> rfl
@[simp] theorem Strand.setG_answered (t : Strand) (r : BitVec 5) (x : Word64) : (t.setG r x).answered = t.answered := by
  unfold Strand.setG; split <;> rfl
@[simp] theorem Strand.setG_filled (t : Strand) (r : BitVec 5) (x : Word64) : (t.setG r x).filled = t.filled := by
  unfold Strand.setG; split <;> rfl
@[simp] theorem Strand.setG_refused (t : Strand) (r : BitVec 5) (x : Word64) : (t.setG r x).refused = t.refused := by
  unfold Strand.setG; split <;> rfl
@[simp] theorem Strand.setG_timeout (t : Strand) (r : BitVec 5) (x : Word64) : (t.setG r x).timeout = t.timeout := by
  unfold Strand.setG; split <;> rfl
@[simp] theorem Strand.setG_doom (t : Strand) (r : BitVec 5) (x : Word64) : (t.setG r x).doom = t.doom := by
  unfold Strand.setG; split <;> rfl
@[simp] theorem Strand.setG_points (t : Strand) (r : BitVec 5) (x : Word64) : (t.setG r x).points = t.points := by
  unfold Strand.setG; split <;> rfl
@[simp] theorem Strand.setG_readyAt (t : Strand) (r : BitVec 5) (x : Word64) : (t.setG r x).readyAt = t.readyAt := by
  unfold Strand.setG; split <;> rfl
@[simp] theorem Strand.setG_watch (t : Strand) (r : BitVec 5) (x : Word64) : (t.setG r x).watch = t.watch := by
  unfold Strand.setG; split <;> rfl
@[simp] theorem Strand.setG_parked (t : Strand) (r : BitVec 5) (x : Word64) : (t.setG r x).parked = t.parked := by
  unfold Strand.setG; split <;> rfl
@[simp] theorem Strand.setG_preempt (t : Strand) (r : BitVec 5) (x : Word64) : (t.setG r x).preempt = t.preempt := by
  unfold Strand.setG; split <;> rfl
@[simp] theorem Strand.setG_fromPark (t : Strand) (r : BitVec 5) (x : Word64) : (t.setG r x).fromPark = t.fromPark := by
  unfold Strand.setG; split <;> rfl
@[simp] theorem Strand.setG_delivery (t : Strand) (r : BitVec 5) (x : Word64) : (t.setG r x).delivery = t.delivery := by
  unfold Strand.setG; split <;> rfl
@[simp] theorem Strand.setG_pendingClone (t : Strand) (r : BitVec 5) (x : Word64) : (t.setG r x).pendingClone = t.pendingClone := by
  unfold Strand.setG; split <;> rfl
@[simp] theorem Strand.setG_pinned (t : Strand) (r : BitVec 5) (x : Word64) : (t.setG r x).pinned = t.pinned := by
  unfold Strand.setG; split <;> rfl
@[simp] theorem Strand.setG_reduced (t : Strand) (r : BitVec 5) (x : Word64) : (t.setG r x).reduced = t.reduced := by
  unfold Strand.setG; split <;> rfl
@[simp] theorem Strand.retire_kind (t : Strand) (pc : Nat) : (t.retire pc).kind = t.kind := rfl
@[simp] theorem Strand.retire_vf (t : Strand) (pc : Nat) : (t.retire pc).vf = t.vf := rfl
@[simp] theorem Strand.retire_birthJob (t : Strand) (pc : Nat) : (t.retire pc).birthJob = t.birthJob := rfl
@[simp] theorem Strand.retire_core (t : Strand) (pc : Nat) : (t.retire pc).core = t.core := rfl
@[simp] theorem Strand.retire_slot (t : Strand) (pc : Nat) : (t.retire pc).slot = t.slot := rfl
@[simp] theorem Strand.retire_launch (t : Strand) (pc : Nat) : (t.retire pc).launch = t.launch := rfl
@[simp] theorem Strand.retire_anc (t : Strand) (pc : Nat) : (t.retire pc).anc = t.anc := rfl
@[simp] theorem Strand.retire_pop (t : Strand) (pc : Nat) : (t.retire pc).pop = t.pop := rfl
@[simp] theorem Strand.retire_group (t : Strand) (pc : Nat) : (t.retire pc).group = t.group := rfl
@[simp] theorem Strand.retire_triggered (t : Strand) (pc : Nat) : (t.retire pc).triggered = t.triggered := rfl
@[simp] theorem Strand.retire_code (t : Strand) (pc : Nat) : (t.retire pc).code = t.code := rfl
@[simp] theorem Strand.retire_win (t : Strand) (pc : Nat) : (t.retire pc).win = t.win := rfl
@[simp] theorem Strand.retire_released (t : Strand) (pc : Nat) : (t.retire pc).released = t.released := rfl
@[simp] theorem Strand.retire_marked (t : Strand) (pc : Nat) : (t.retire pc).marked = t.marked := rfl
@[simp] theorem Strand.retire_regs (t : Strand) (pc : Nat) : (t.retire pc).regs = t.regs := rfl
@[simp] theorem Strand.retire_sys (t : Strand) (pc : Nat) : (t.retire pc).sys = t.sys := rfl
@[simp] theorem Strand.retire_run (t : Strand) (pc : Nat) : (t.retire pc).run = t.run := rfl
@[simp] theorem Strand.retire_since (t : Strand) (pc : Nat) : (t.retire pc).since = t.since := rfl
@[simp] theorem Strand.retire_wokenAt (t : Strand) (pc : Nat) : (t.retire pc).wokenAt = t.wokenAt := rfl
@[simp] theorem Strand.retire_buf (t : Strand) (pc : Nat) : (t.retire pc).buf = t.buf := rfl
@[simp] theorem Strand.retire_vflags (t : Strand) (pc : Nat) : (t.retire pc).vflags = t.vflags := rfl
@[simp] theorem Strand.retire_doom (t : Strand) (pc : Nat) : (t.retire pc).doom = t.doom := rfl
@[simp] theorem Strand.retire_points (t : Strand) (pc : Nat) : (t.retire pc).points = t.points.filter (·.1 ≠ t.pc) := rfl
@[simp] theorem Strand.retire_readyAt (t : Strand) (pc : Nat) : (t.retire pc).readyAt = t.readyAt := rfl
@[simp] theorem Strand.retire_watch (t : Strand) (pc : Nat) : (t.retire pc).watch = t.watch := rfl
@[simp] theorem Strand.retire_parked (t : Strand) (pc : Nat) : (t.retire pc).parked = t.parked := rfl
@[simp] theorem Strand.retire_preempt (t : Strand) (pc : Nat) : (t.retire pc).preempt = t.preempt := rfl
@[simp] theorem Strand.retire_fromPark (t : Strand) (pc : Nat) : (t.retire pc).fromPark = t.fromPark := rfl
@[simp] theorem Strand.retire_delivery (t : Strand) (pc : Nat) : (t.retire pc).delivery = t.delivery := rfl
@[simp] theorem Strand.retire_pendingClone (t : Strand) (pc : Nat) : (t.retire pc).pendingClone = t.pendingClone := rfl
@[simp] theorem Strand.retire_pinned (t : Strand) (pc : Nat) : (t.retire pc).pinned = t.pinned := rfl
@[simp] theorem Strand.retire_reduced (t : Strand) (pc : Nat) : (t.retire pc).reduced = t.reduced := rfl
@[simp] theorem Strand.countWatch_kind (t : Strand) (n : Nat) : (t.countWatch n).kind = t.kind := by
  unfold Strand.countWatch; split <;> rfl
@[simp] theorem Strand.countWatch_vf (t : Strand) (n : Nat) : (t.countWatch n).vf = t.vf := by
  unfold Strand.countWatch; split <;> rfl
@[simp] theorem Strand.countWatch_birthJob (t : Strand) (n : Nat) : (t.countWatch n).birthJob = t.birthJob := by
  unfold Strand.countWatch; split <;> rfl
@[simp] theorem Strand.countWatch_core (t : Strand) (n : Nat) : (t.countWatch n).core = t.core := by
  unfold Strand.countWatch; split <;> rfl
@[simp] theorem Strand.countWatch_slot (t : Strand) (n : Nat) : (t.countWatch n).slot = t.slot := by
  unfold Strand.countWatch; split <;> rfl
@[simp] theorem Strand.countWatch_launch (t : Strand) (n : Nat) : (t.countWatch n).launch = t.launch := by
  unfold Strand.countWatch; split <;> rfl
@[simp] theorem Strand.countWatch_anc (t : Strand) (n : Nat) : (t.countWatch n).anc = t.anc := by
  unfold Strand.countWatch; split <;> rfl
@[simp] theorem Strand.countWatch_pop (t : Strand) (n : Nat) : (t.countWatch n).pop = t.pop := by
  unfold Strand.countWatch; split <;> rfl
@[simp] theorem Strand.countWatch_group (t : Strand) (n : Nat) : (t.countWatch n).group = t.group := by
  unfold Strand.countWatch; split <;> rfl
@[simp] theorem Strand.countWatch_triggered (t : Strand) (n : Nat) : (t.countWatch n).triggered = t.triggered := by
  unfold Strand.countWatch; split <;> rfl
@[simp] theorem Strand.countWatch_code (t : Strand) (n : Nat) : (t.countWatch n).code = t.code := by
  unfold Strand.countWatch; split <;> rfl
@[simp] theorem Strand.countWatch_win (t : Strand) (n : Nat) : (t.countWatch n).win = t.win := by
  unfold Strand.countWatch; split <;> rfl
@[simp] theorem Strand.countWatch_released (t : Strand) (n : Nat) : (t.countWatch n).released = t.released := by
  unfold Strand.countWatch; split <;> rfl
@[simp] theorem Strand.countWatch_marked (t : Strand) (n : Nat) : (t.countWatch n).marked = t.marked := by
  unfold Strand.countWatch; split <;> rfl
@[simp] theorem Strand.countWatch_pc (t : Strand) (n : Nat) : (t.countWatch n).pc = t.pc := by
  unfold Strand.countWatch; split <;> rfl
@[simp] theorem Strand.countWatch_regs (t : Strand) (n : Nat) : (t.countWatch n).regs = t.regs := by
  unfold Strand.countWatch; split <;> rfl
@[simp] theorem Strand.countWatch_sys (t : Strand) (n : Nat) : (t.countWatch n).sys = t.sys := by
  unfold Strand.countWatch; split <;> rfl
@[simp] theorem Strand.countWatch_run (t : Strand) (n : Nat) : (t.countWatch n).run = t.run := by
  unfold Strand.countWatch; split <;> rfl
@[simp] theorem Strand.countWatch_prog (t : Strand) (n : Nat) : (t.countWatch n).prog = t.prog := by
  unfold Strand.countWatch; split <;> rfl
@[simp] theorem Strand.countWatch_since (t : Strand) (n : Nat) : (t.countWatch n).since = t.since := by
  unfold Strand.countWatch; split <;> rfl
@[simp] theorem Strand.countWatch_wokenAt (t : Strand) (n : Nat) : (t.countWatch n).wokenAt = t.wokenAt := by
  unfold Strand.countWatch; split <;> rfl
@[simp] theorem Strand.countWatch_buf (t : Strand) (n : Nat) : (t.countWatch n).buf = t.buf := by
  unfold Strand.countWatch; split <;> rfl
@[simp] theorem Strand.countWatch_vflags (t : Strand) (n : Nat) : (t.countWatch n).vflags = t.vflags := by
  unfold Strand.countWatch; split <;> rfl
@[simp] theorem Strand.countWatch_answered (t : Strand) (n : Nat) : (t.countWatch n).answered = t.answered := by
  unfold Strand.countWatch; split <;> rfl
@[simp] theorem Strand.countWatch_filled (t : Strand) (n : Nat) : (t.countWatch n).filled = t.filled := by
  unfold Strand.countWatch; split <;> rfl
@[simp] theorem Strand.countWatch_refused (t : Strand) (n : Nat) : (t.countWatch n).refused = t.refused := by
  unfold Strand.countWatch; split <;> rfl
@[simp] theorem Strand.countWatch_timeout (t : Strand) (n : Nat) : (t.countWatch n).timeout = t.timeout := by
  unfold Strand.countWatch; split <;> rfl
@[simp] theorem Strand.countWatch_asked (t : Strand) (n : Nat) : (t.countWatch n).asked = t.asked := by
  unfold Strand.countWatch; split <;> rfl
@[simp] theorem Strand.countWatch_doom (t : Strand) (n : Nat) : (t.countWatch n).doom = t.doom := by
  unfold Strand.countWatch; split <;> rfl
@[simp] theorem Strand.countWatch_points (t : Strand) (n : Nat) : (t.countWatch n).points = t.points := by
  unfold Strand.countWatch; split <;> rfl
@[simp] theorem Strand.countWatch_readyAt (t : Strand) (n : Nat) : (t.countWatch n).readyAt = t.readyAt := by
  unfold Strand.countWatch; split <;> rfl
@[simp] theorem Strand.countWatch_parked (t : Strand) (n : Nat) : (t.countWatch n).parked = t.parked := by
  unfold Strand.countWatch; split <;> rfl
@[simp] theorem Strand.countWatch_preempt (t : Strand) (n : Nat) : (t.countWatch n).preempt = t.preempt := by
  unfold Strand.countWatch; split <;> rfl
@[simp] theorem Strand.countWatch_fromPark (t : Strand) (n : Nat) : (t.countWatch n).fromPark = t.fromPark := by
  unfold Strand.countWatch; split <;> rfl
@[simp] theorem Strand.countWatch_delivery (t : Strand) (n : Nat) : (t.countWatch n).delivery = t.delivery := by
  unfold Strand.countWatch; split <;> rfl
@[simp] theorem Strand.countWatch_pendingClone (t : Strand) (n : Nat) : (t.countWatch n).pendingClone = t.pendingClone := by
  unfold Strand.countWatch; split <;> rfl
@[simp] theorem Strand.countWatch_pinned (t : Strand) (n : Nat) : (t.countWatch n).pinned = t.pinned := by
  unfold Strand.countWatch; split <;> rfl
@[simp] theorem Strand.countWatch_reduced (t : Strand) (n : Nat) : (t.countWatch n).reduced = t.reduced := by
  unfold Strand.countWatch; split <;> rfl

@[simp] theorem State.strand?_putStrand (s : State) (u w : Nat) (t : Strand) :
    (s.putStrand u t).strand? w = if u = w then some t else s.strand? w := FMap.get?_set ..
@[simp] theorem State.me_putMe (s : State) (t : Strand) : (s.putMe t).me = some t := by simp [State.me, State.putMe]
theorem State.putStrand_putStrand (s : State) (u : Nat) (t t' : Strand) :
    (s.putStrand u t).putStrand u t' = s.putStrand u t' := by simp [State.putStrand, FMap.set_set]
theorem State.putMe_putMe (s : State) (t t' : Strand) : (s.putMe t).putMe t' = s.putMe t' := State.putStrand_putStrand ..
@[simp] theorem State.modStrand_putStrand (s : State) (u : Nat) (t : Strand) (f : Strand → Strand) :
    (s.putStrand u t).modStrand u f = s.putStrand u (f t) := by simp [State.modStrand, State.putStrand_putStrand]
@[simp] theorem State.modStrand_putMe (s : State) (t : Strand) (f : Strand → Strand) :
    (s.putMe t).modStrand s.cur f = s.putMe (f t) := State.modStrand_putStrand ..
@[simp] theorem State.core_putCore (s : State) (c d : Nat) (x : Core) :
    (s.putCore c x).core d = if c = d then x else s.core d := by
  simp only [State.core, State.putCore, FMap.getD, FMap.get?_set]; split <;> rfl
@[simp] theorem State.quad_putQuad (s : State) (c d : Nat) (x : Quad) :
    (s.putQuad c x).quad d = if c = d then x else s.quad d := by
  simp only [State.quad, State.putQuad, FMap.getD, FMap.get?_set]; split <;> rfl
@[simp] theorem State.part_putPart (s : State) (c d : Nat) (x : Part) :
    (s.putPart c x).part d = if c = d then x else s.part d := by
  simp only [State.part, State.putPart, FMap.getD, FMap.get?_set]; split <;> rfl
@[simp] theorem State.job_putJob (s : State) (c d : Nat) (x : Job) :
    (s.putJob c x).job d = if c = d then x else s.job d := by
  simp only [State.job, State.putJob, FMap.getD, FMap.get?_set]; split <;> rfl
@[simp] theorem State.die_putDie (s : State) (c d : Nat) (x : Die) :
    (s.putDie c x).die d = if c = d then x else s.die d := by
  simp only [State.die, State.putDie, FMap.getD, FMap.get?_set]; split <;> rfl
@[simp] theorem Quad.name_putName (q : Quad) (n m : Nat) (x : Name) :
    (q.putName n x).name m = if n = m then x else q.name m := by
  simp only [Quad.name, Quad.putName, FMap.getD, FMap.get?_set]; split <;> rfl
@[simp] theorem State.emit_outbox (s : State) (o : Out) : (s.emit o).outbox = s.outbox ++ [o] := rfl
@[simp] theorem State.putHome_mem (s : State) (k : Nat) (bs : List Byte) : (s.putHome k bs).mem = Memory.put s.mem k bs := rfl
@[simp] theorem Strand.retire_pc (t : Strand) (pc : Nat) : (t.retire pc).pc = pc := rfl

/-- g0 reads zero whatever is written (R6). -/
@[simp] theorem Strand.g_zero (t : Strand) : t.g 0#5 = 0#64 := rfl
/-- A write to g0 changes nothing (R6). -/
@[simp] theorem Strand.setG_zero (t : Strand) (x : Word64) : t.setG 0#5 x = t := rfl
/-- A written register reads as written; every other reads as before. -/
theorem Strand.g_setG (t : Strand) (r q : BitVec 5) (x : Word64) :
    (t.setG r x).g q = if q = 0#5 then 0#64 else if q = r then x else t.g q := by
  unfold Strand.g Strand.setG
  by_cases hq : q = 0#5
  · simp [hq]
  · by_cases hr : r = 0#5
    · subst hr; simp [hq]
    · simp only [hq, hr, if_false]
      by_cases h : q = r
      · subst h; simp
      · have : r.toNat ≠ q.toNat := fun e => h (BitVec.eq_of_toNat_eq e.symm)
        simp [h, Vector.getElem_set_ne, this]
theorem Strand.v_setV (t : Strand) (r q : BitVec 5) (x : Vec) : (t.setV r x).v q = if q = r then x else t.v q := by
  unfold Strand.v Strand.setV
  by_cases h : q = r
  · subst h; simp
  · have : r.toNat ≠ q.toNat := fun e => h (BitVec.eq_of_toNat_eq e.symm)
    simp [h, Vector.getElem_set_ne, this]
theorem Strand.k_setK (t : Strand) (r q : BitVec 3) (x : Word64) : (t.setK r x).k q = if q = r then x else t.k q := by
  unfold Strand.k Strand.setK
  by_cases h : q = r
  · subst h; simp
  · have : r.toNat ≠ q.toNat := fun e => h (BitVec.eq_of_toNat_eq e.symm)
    simp [h, Vector.getElem_set_ne, this]

end Sys2Proof.Machine
end

