-- ==== Sys2Proof/Laws/Issue.lean ====
section
/-!
SUPPORT. What issuing a word can do (R79, R103, R217, R344), one lemma for each way its body answers, and what a retired word
leaves of the running strand.
-/
namespace Sys2Proof.Machine

/-- A ready strand issues a word past the first checks when the word runs where it stands and its mode suffices. -/
theorem runWord_ready {s : State} {t : Strand} {g : Gate} {body : Strand → State → Res} (h : Ready s t)
    (hc : g.inCode = true ∨ Plain t) (hm : g.mode ≤ t.mode) :
    runWord g body s = .next (match body t s with
      | .done s' => s.after t s'
      | .jump s' a => if a < 0 || a > pcTop then s.trapMe (t.countWatch (s.watchStep t)) 0x05 (BitVec.ofNat 64 t.pc) else s.afterAt t a.toNat s'
      | .hold s' => s'
      | .stop s' => s'
      | .trap c v => s.trapMe (t.countWatch (s.watchStep t)) c v
      | .trapIn s' c v =>
        match s'.strand? s'.cur with
        | some t' => s'.trapMe (t'.countWatch (s.watchStep t)) c v
        | none => s') := by
  obtain ⟨hme, hd, hp⟩ := h
  have hcode : (t.code && decide (t.pc < 16) && !g.inCode) = false := by
    rcases hc with hc | hc | hc
    · simp [hc]
    · simp [hc]
    · simp [Nat.not_lt.2 hc]
  have hpc : ¬((t.pc : Int) + 4 > pcTop) := by simp only [pcTop]; omega
  simp only [runWord, hme, State.issue, hd, hcode, Bool.false_eq_true, if_false, Nat.not_lt.2 hm]
  cases body t s with
  | done s' => simp only [hpc, if_false, State.after]
  | jump s' a =>
    simp only [Bool.or_eq_true, decide_eq_true_eq, State.afterAt]
  | hold s' => rfl
  | stop s' => rfl
  | trap c v => rfl
  | trapIn s' c v => rfl

theorem runWord_done {s s' : State} {t : Strand} {g : Gate} {body : Strand → State → Res} (h : Ready s t)
    (hc : g.inCode = true ∨ Plain t) (hm : g.mode ≤ t.mode) (hb : body t s = .done s') :
    runWord g body s = .next (s.after t s') := by rw [runWord_ready h hc hm, hb]

theorem runWord_hold {s s' : State} {t : Strand} {g : Gate} {body : Strand → State → Res} (h : Ready s t)
    (hc : g.inCode = true ∨ Plain t) (hm : g.mode ≤ t.mode) (hb : body t s = .hold s') :
    runWord g body s = .next s' := by rw [runWord_ready h hc hm, hb]

theorem runWord_stop {s s' : State} {t : Strand} {g : Gate} {body : Strand → State → Res} (h : Ready s t)
    (hc : g.inCode = true ∨ Plain t) (hm : g.mode ≤ t.mode) (hb : body t s = .stop s') :
    runWord g body s = .next s' := by rw [runWord_ready h hc hm, hb]

theorem runWord_trap {s : State} {t : Strand} {g : Gate} {body : Strand → State → Res} {c : Nat} {v : Word64}
    (h : Ready s t) (hc : g.inCode = true ∨ Plain t) (hm : g.mode ≤ t.mode) (hb : body t s = .trap c v) :
    runWord g body s = .next (s.trapMe (t.countWatch (s.watchStep t)) c v) := by rw [runWord_ready h hc hm, hb]

theorem runWord_jump {s s' : State} {t : Strand} {g : Gate} {body : Strand → State → Res} {a : Int} (h : Ready s t)
    (hc : g.inCode = true ∨ Plain t) (hm : g.mode ≤ t.mode) (hb : body t s = .jump s' a) (h0 : 0 ≤ a) (h1 : a ≤ pcTop) :
    runWord g body s = .next (s.afterAt t a.toNat s') := by
  rw [runWord_ready h hc hm, hb]
  have : ¬(a < 0 ∨ a > pcTop) := by omega
  simp [this]

/-- A word whose mode the strand lacks traps 0x02 with its word as TVAL (R79 check 5). -/
theorem runWord_mode {s : State} {t : Strand} {g : Gate} {body : Strand → State → Res} (h : Ready s t)
    (hc : g.inCode = true ∨ Plain t) (hm : t.mode < g.mode) :
    runWord g body s = .next (s.trapMe (t.countWatch (s.watchStep t)) 0x02 s.wordTval) := by
  obtain ⟨hme, hd, hp⟩ := h
  have hcode : (t.code && decide (t.pc < 16) && !g.inCode) = false := by
    rcases hc with hc | hc | hc
    · simp [hc]
    · simp [hc]
    · simp [Nat.not_lt.2 hc]
  simp only [runWord, hme, State.issue, hd, hcode, Bool.false_eq_true, if_false, hm, if_true]

/-- A word outside the restricted set traps 0x50 in the image of a code message (R79 check 4, R181). -/
theorem runWord_restricted {s : State} {t : Strand} {g : Gate} {body : Strand → State → Res} (h : Ready s t)
    (hc : t.code = true) (hp : t.pc < 16) (hg : g.inCode = false) :
    runWord g body s = .next (s.trapMe (t.countWatch (s.watchStep t)) 0x50 s.wordTval) := by
  simp only [runWord, h.1, State.issue, h.2.1, hc, hp, hg, decide_true, Bool.not_false, Bool.and_self, if_true]

/-- A word that writes one scalar register completes with it. -/
theorem runWord_alu {s : State} {t : Strand} {g : Gate} {d : BitVec 5} {f : Strand → Word64} (h : Ready s t)
    (hc : g.inCode = true ∨ Plain t) (hm : g.mode ≤ t.mode) :
    runWord g (aluBody d f) s = .next (s.after t (s.putMe (t.setG d (f t)))) := runWord_done h hc hm rfl

/-- What a retired effect on the running strand alone leaves. -/
theorem State.after_putMe (s : State) (t x : Strand) :
    s.after t (s.putMe x) = s.putMe ((x.retire (t.pc + 4)).countWatch (s.watchStep t)) := by
  simp [State.after]

end Sys2Proof.Machine
end

