-- ==== Sys2Proof/Laws/Ops.lean ====
section
/-!
SUPPORT. What shared operations of the fabric, the instruction cache, the dispatch queues and the token change, once each, so that
proofs cite it and do not unfold them.
-/
namespace Sys2Proof.Machine

/-- A loss log entry changes the loss log alone (R364). -/
theorem State.enterLoss_eq (s : State) (x : Nat × PktClass) (core job dest : Nat) :
    s.enterLoss x core job dest = { s with losses := s.losses ++ [⟨x.1, job, x.2, core, dest, Config.lostFlits s.tick⟩] } := rfl

/-- What a down link has lost of an access changes the loss log alone, by one entry where something was lost (R361). -/
theorem State.logLost_eq (s : State) (core vf job : Nat) (tg : Target) :
    s.logLost core vf job tg = { s with losses := s.losses ++ ((s.lostAt (quadOf core) vf tg).map fun x =>
      ⟨x.1, job, x.2, core, s.destOf vf tg, Config.lostFlits s.tick⟩).toList } := by
  unfold State.logLost
  split <;> rename_i h <;> simp [h, State.enterLoss]

/-- Keeping a fetched line changes the quad's instruction cache alone, which then has the line or is as it was (R11). -/
theorem State.keepCode_cases (s : State) (q : Nat) (tg : Target) (d : Vec) :
    s.keepCode q tg d = s ∨ ∃ ls : List ILine, (∀ l ∈ ls, l ∈ (s.quad q).icache) ∧
      s.keepCode q tg d = s.putQuad q { s.quad q with icache := ls ++ [⟨tg.key / 64, d⟩] } := by
  simp only [State.keepCode]
  by_cases h : (match tg with
    | .loc pa => !s.hostBiased pa
    | .host _ => true
    | _ => false) = true
  · exact .inr ⟨_, fun l h => (List.mem_filter.1 (List.mem_of_mem_drop h)).1, if_pos h⟩
  · exact .inl (if_neg h)
@[simp] theorem State.keepCode_mem (s : State) (q : Nat) (tg : Target) (d : Vec) : (s.keepCode q tg d).mem = s.mem := by
  obtain h | ⟨_, _, h⟩ := s.keepCode_cases q tg d <;> rw [h]; rfl
@[simp] theorem State.keepCode_strands (s : State) (q : Nat) (tg : Target) (d : Vec) : (s.keepCode q tg d).strands = s.strands := by
  obtain h | ⟨_, _, h⟩ := s.keepCode_cases q tg d <;> rw [h]; rfl

/-- A word that the instruction cache gives comes from the line that it holds for the place of the PC (R11). -/
theorem State.heldCode_some {s : State} {t : Strand} {tg : Target} {w : Word32} (h : s.heldCode t tg = some w) :
    ∃ l ∈ (s.quad (quadOf t.core)).icache, l.line = tg.key / 64 ∧ w = wordOf l.data t.pc := by
  unfold State.heldCode at h
  split at h
  · next l hl =>
    split at h
    · exact ⟨l, List.mem_of_find?_eq_some hl, by simpa using List.find?_some hl, (Option.some.inj h).symm⟩
    · cases h
  · cases h

/-- Serving a request touches the queue and the turn alone; a request that keeps its place brings both back (R13). -/
@[simp] theorem Quad.serve_names (x : Quad) (u c : Nat) : (x.serve u c).names = x.names := rfl
@[simp] theorem Quad.serve_ops (x : Quad) (u c : Nat) : (x.serve u c).ops = x.ops := rfl
@[simp] theorem Quad.unserve_names (x old : Quad) (u c : Nat) : (x.unserve old u c).names = x.names := rfl
@[simp] theorem Quad.unserve_ops (x old : Quad) (u c : Nat) : (x.unserve old u c).ops = x.ops := rfl
@[simp] theorem Quad.unserve_lastCore (x old : Quad) (u c : Nat) : (x.unserve old u c).lastCore = old.lastCore := rfl

/-- Passing the token on leaves the package alone but for what has left it (R292). -/
@[simp] theorem State.sendToken_outbox (s : State) (t : Token) (r : List Nat) :
    (s.sendToken t r).outbox = s.outbox ++ [.token t.job t.vf (Config.nextPackage t.job) r] := rfl
@[simp] theorem State.sendToken_mem (s : State) (t : Token) (r : List Nat) : (s.sendToken t r).mem = s.mem := rfl
@[simp] theorem State.sendToken_strands (s : State) (t : Token) (r : List Nat) : (s.sendToken t r).strands = s.strands := rfl
@[simp] theorem State.sendToken_cores (s : State) (t : Token) (r : List Nat) : (s.sendToken t r).cores = s.cores := rfl

/-- A token under another logical ID is counted in MISROUTE and nothing else is done with it (R337). -/
theorem State.takeToken_stray {s : State} {t : Token} (h : s.tokenMine t = false) :
    s.takeToken t = s.misroute t.vf (dieOf (s.firstCore t.vf)) t.job (4 * s.firstCore t.vf) 0 := by
  simp [State.takeToken, h]

end Sys2Proof.Machine
end

