-- ==== Sys2Proof/Laws/PerInstr.lean ====
section
/-!
SUPPORT. The family RoundTrip: for each constructor of Instr, the decoder reads back the word that the encoder writes.
-/
set_option linter.unusedSimpArgs false

namespace Sys2Proof

/-- What the family RoundTrip states of an instruction: when it is well-formed and has a word, the word decodes to it. -/
def Laws.RoundTrip.Statement (i : Instr) : Prop := ∀ w, i.wf = true → encode i = some w → decode w = some i

/-- Round trip of add. -/
theorem Laws.RoundTrip.add (d : BitVec 5) (a : BitVec 5) (b : BitVec 5) : Laws.RoundTrip.Statement (.add d a b) := by
  intro word hwf henc
  cases (show some (0x1#6 ++ d ++ a ++ b ++ 0x0#11 : Word32) = some word from henc)
  refine decode_of_raw ((raw_01 _ (fld_6_5_5_5_11_26 ..)).trans ?_) hwf
  simp only [decode01, fld_6_5_5_5_11_0, fld_6_5_5_5_11_11, fld_6_5_5_5_11_16, fld_6_5_5_5_11_21, BitVec.reduceEq, false_and, and_false, and_self, and_true, true_and, reduceIte]

/-- Round trip of sub. -/
theorem Laws.RoundTrip.sub (d : BitVec 5) (a : BitVec 5) (b : BitVec 5) : Laws.RoundTrip.Statement (.sub d a b) := by
  intro word hwf henc
  cases (show some (0x1#6 ++ d ++ a ++ b ++ 0x1#11 : Word32) = some word from henc)
  refine decode_of_raw ((raw_01 _ (fld_6_5_5_5_11_26 ..)).trans ?_) hwf
  simp only [decode01, fld_6_5_5_5_11_0, fld_6_5_5_5_11_11, fld_6_5_5_5_11_16, fld_6_5_5_5_11_21, BitVec.reduceEq, false_and, and_false, and_self, and_true, true_and, reduceIte]

/-- Round trip of and. -/
theorem Laws.RoundTrip.and (d : BitVec 5) (a : BitVec 5) (b : BitVec 5) : Laws.RoundTrip.Statement (.and d a b) := by
  intro word hwf henc
  cases (show some (0x1#6 ++ d ++ a ++ b ++ 0x2#11 : Word32) = some word from henc)
  refine decode_of_raw ((raw_01 _ (fld_6_5_5_5_11_26 ..)).trans ?_) hwf
  simp only [decode01, fld_6_5_5_5_11_0, fld_6_5_5_5_11_11, fld_6_5_5_5_11_16, fld_6_5_5_5_11_21, BitVec.reduceEq, false_and, and_false, and_self, and_true, true_and, reduceIte]

/-- Round trip of or. -/
theorem Laws.RoundTrip.or (d : BitVec 5) (a : BitVec 5) (b : BitVec 5) : Laws.RoundTrip.Statement (.or d a b) := by
  intro word hwf henc
  cases (show some (0x1#6 ++ d ++ a ++ b ++ 0x3#11 : Word32) = some word from henc)
  refine decode_of_raw ((raw_01 _ (fld_6_5_5_5_11_26 ..)).trans ?_) hwf
  simp only [decode01, fld_6_5_5_5_11_0, fld_6_5_5_5_11_11, fld_6_5_5_5_11_16, fld_6_5_5_5_11_21, BitVec.reduceEq, false_and, and_false, and_self, and_true, true_and, reduceIte]

/-- Round trip of xor. -/
theorem Laws.RoundTrip.xor (d : BitVec 5) (a : BitVec 5) (b : BitVec 5) : Laws.RoundTrip.Statement (.xor d a b) := by
  intro word hwf henc
  cases (show some (0x1#6 ++ d ++ a ++ b ++ 0x4#11 : Word32) = some word from henc)
  refine decode_of_raw ((raw_01 _ (fld_6_5_5_5_11_26 ..)).trans ?_) hwf
  simp only [decode01, fld_6_5_5_5_11_0, fld_6_5_5_5_11_11, fld_6_5_5_5_11_16, fld_6_5_5_5_11_21, BitVec.reduceEq, false_and, and_false, and_self, and_true, true_and, reduceIte]

/-- Round trip of slt. -/
theorem Laws.RoundTrip.slt (d : BitVec 5) (a : BitVec 5) (b : BitVec 5) : Laws.RoundTrip.Statement (.slt d a b) := by
  intro word hwf henc
  cases (show some (0x1#6 ++ d ++ a ++ b ++ 0x5#11 : Word32) = some word from henc)
  refine decode_of_raw ((raw_01 _ (fld_6_5_5_5_11_26 ..)).trans ?_) hwf
  simp only [decode01, fld_6_5_5_5_11_0, fld_6_5_5_5_11_11, fld_6_5_5_5_11_16, fld_6_5_5_5_11_21, BitVec.reduceEq, false_and, and_false, and_self, and_true, true_and, reduceIte]

/-- Round trip of sltz. -/
theorem Laws.RoundTrip.sltz (d : BitVec 5) (a : BitVec 5) (b : BitVec 5) : Laws.RoundTrip.Statement (.sltz d a b) := by
  intro word hwf henc
  cases (show some (0x1#6 ++ d ++ a ++ b ++ 0x6#11 : Word32) = some word from henc)
  refine decode_of_raw ((raw_01 _ (fld_6_5_5_5_11_26 ..)).trans ?_) hwf
  simp only [decode01, fld_6_5_5_5_11_0, fld_6_5_5_5_11_11, fld_6_5_5_5_11_16, fld_6_5_5_5_11_21, BitVec.reduceEq, false_and, and_false, and_self, and_true, true_and, reduceIte]

/-- Round trip of sll. -/
theorem Laws.RoundTrip.sll (d : BitVec 5) (a : BitVec 5) (b : BitVec 5) : Laws.RoundTrip.Statement (.sll d a b) := by
  intro word hwf henc
  cases (show some (0x1#6 ++ d ++ a ++ b ++ 0x7#11 : Word32) = some word from henc)
  refine decode_of_raw ((raw_01 _ (fld_6_5_5_5_11_26 ..)).trans ?_) hwf
  simp only [decode01, fld_6_5_5_5_11_0, fld_6_5_5_5_11_11, fld_6_5_5_5_11_16, fld_6_5_5_5_11_21, BitVec.reduceEq, false_and, and_false, and_self, and_true, true_and, reduceIte]

/-- Round trip of srl. -/
theorem Laws.RoundTrip.srl (d : BitVec 5) (a : BitVec 5) (b : BitVec 5) : Laws.RoundTrip.Statement (.srl d a b) := by
  intro word hwf henc
  cases (show some (0x1#6 ++ d ++ a ++ b ++ 0x8#11 : Word32) = some word from henc)
  refine decode_of_raw ((raw_01 _ (fld_6_5_5_5_11_26 ..)).trans ?_) hwf
  simp only [decode01, fld_6_5_5_5_11_0, fld_6_5_5_5_11_11, fld_6_5_5_5_11_16, fld_6_5_5_5_11_21, BitVec.reduceEq, false_and, and_false, and_self, and_true, true_and, reduceIte]

/-- Round trip of sra. -/
theorem Laws.RoundTrip.sra (d : BitVec 5) (a : BitVec 5) (b : BitVec 5) : Laws.RoundTrip.Statement (.sra d a b) := by
  intro word hwf henc
  cases (show some (0x1#6 ++ d ++ a ++ b ++ 0x9#11 : Word32) = some word from henc)
  refine decode_of_raw ((raw_01 _ (fld_6_5_5_5_11_26 ..)).trans ?_) hwf
  simp only [decode01, fld_6_5_5_5_11_0, fld_6_5_5_5_11_11, fld_6_5_5_5_11_16, fld_6_5_5_5_11_21, BitVec.reduceEq, false_and, and_false, and_self, and_true, true_and, reduceIte]

/-- Round trip of rol. -/
theorem Laws.RoundTrip.rol (d : BitVec 5) (a : BitVec 5) (b : BitVec 5) : Laws.RoundTrip.Statement (.rol d a b) := by
  intro word hwf henc
  cases (show some (0x1#6 ++ d ++ a ++ b ++ 0xa#11 : Word32) = some word from henc)
  refine decode_of_raw ((raw_01 _ (fld_6_5_5_5_11_26 ..)).trans ?_) hwf
  simp only [decode01, fld_6_5_5_5_11_0, fld_6_5_5_5_11_11, fld_6_5_5_5_11_16, fld_6_5_5_5_11_21, BitVec.reduceEq, false_and, and_false, and_self, and_true, true_and, reduceIte]

/-- Round trip of ror. -/
theorem Laws.RoundTrip.ror (d : BitVec 5) (a : BitVec 5) (b : BitVec 5) : Laws.RoundTrip.Statement (.ror d a b) := by
  intro word hwf henc
  cases (show some (0x1#6 ++ d ++ a ++ b ++ 0xb#11 : Word32) = some word from henc)
  refine decode_of_raw ((raw_01 _ (fld_6_5_5_5_11_26 ..)).trans ?_) hwf
  simp only [decode01, fld_6_5_5_5_11_0, fld_6_5_5_5_11_11, fld_6_5_5_5_11_16, fld_6_5_5_5_11_21, BitVec.reduceEq, false_and, and_false, and_self, and_true, true_and, reduceIte]

/-- Round trip of addS32. -/
theorem Laws.RoundTrip.addS32 (d : BitVec 5) (a : BitVec 5) (b : BitVec 5) : Laws.RoundTrip.Statement (.addS32 d a b) := by
  intro word hwf henc
  cases (show some (0x1#6 ++ d ++ a ++ b ++ 0x400#11 : Word32) = some word from henc)
  refine decode_of_raw ((raw_01 _ (fld_6_5_5_5_11_26 ..)).trans ?_) hwf
  simp only [decode01, fld_6_5_5_5_11_0, fld_6_5_5_5_11_11, fld_6_5_5_5_11_16, fld_6_5_5_5_11_21, BitVec.reduceEq, false_and, and_false, and_self, and_true, true_and, reduceIte]

/-- Round trip of addZ32. -/
theorem Laws.RoundTrip.addZ32 (d : BitVec 5) (a : BitVec 5) (b : BitVec 5) : Laws.RoundTrip.Statement (.addZ32 d a b) := by
  intro word hwf henc
  cases (show some (0x1#6 ++ d ++ a ++ b ++ 0x600#11 : Word32) = some word from henc)
  refine decode_of_raw ((raw_01 _ (fld_6_5_5_5_11_26 ..)).trans ?_) hwf
  simp only [decode01, fld_6_5_5_5_11_0, fld_6_5_5_5_11_11, fld_6_5_5_5_11_16, fld_6_5_5_5_11_21, BitVec.reduceEq, false_and, and_false, and_self, and_true, true_and, reduceIte]

/-- Round trip of subS32. -/
theorem Laws.RoundTrip.subS32 (d : BitVec 5) (a : BitVec 5) (b : BitVec 5) : Laws.RoundTrip.Statement (.subS32 d a b) := by
  intro word hwf henc
  cases (show some (0x1#6 ++ d ++ a ++ b ++ 0x401#11 : Word32) = some word from henc)
  refine decode_of_raw ((raw_01 _ (fld_6_5_5_5_11_26 ..)).trans ?_) hwf
  simp only [decode01, fld_6_5_5_5_11_0, fld_6_5_5_5_11_11, fld_6_5_5_5_11_16, fld_6_5_5_5_11_21, BitVec.reduceEq, false_and, and_false, and_self, and_true, true_and, reduceIte]

/-- Round trip of subZ32. -/
theorem Laws.RoundTrip.subZ32 (d : BitVec 5) (a : BitVec 5) (b : BitVec 5) : Laws.RoundTrip.Statement (.subZ32 d a b) := by
  intro word hwf henc
  cases (show some (0x1#6 ++ d ++ a ++ b ++ 0x601#11 : Word32) = some word from henc)
  refine decode_of_raw ((raw_01 _ (fld_6_5_5_5_11_26 ..)).trans ?_) hwf
  simp only [decode01, fld_6_5_5_5_11_0, fld_6_5_5_5_11_11, fld_6_5_5_5_11_16, fld_6_5_5_5_11_21, BitVec.reduceEq, false_and, and_false, and_self, and_true, true_and, reduceIte]

/-- Round trip of sllS32. -/
theorem Laws.RoundTrip.sllS32 (d : BitVec 5) (a : BitVec 5) (b : BitVec 5) : Laws.RoundTrip.Statement (.sllS32 d a b) := by
  intro word hwf henc
  cases (show some (0x1#6 ++ d ++ a ++ b ++ 0x407#11 : Word32) = some word from henc)
  refine decode_of_raw ((raw_01 _ (fld_6_5_5_5_11_26 ..)).trans ?_) hwf
  simp only [decode01, fld_6_5_5_5_11_0, fld_6_5_5_5_11_11, fld_6_5_5_5_11_16, fld_6_5_5_5_11_21, BitVec.reduceEq, false_and, and_false, and_self, and_true, true_and, reduceIte]

/-- Round trip of sllZ32. -/
theorem Laws.RoundTrip.sllZ32 (d : BitVec 5) (a : BitVec 5) (b : BitVec 5) : Laws.RoundTrip.Statement (.sllZ32 d a b) := by
  intro word hwf henc
  cases (show some (0x1#6 ++ d ++ a ++ b ++ 0x607#11 : Word32) = some word from henc)
  refine decode_of_raw ((raw_01 _ (fld_6_5_5_5_11_26 ..)).trans ?_) hwf
  simp only [decode01, fld_6_5_5_5_11_0, fld_6_5_5_5_11_11, fld_6_5_5_5_11_16, fld_6_5_5_5_11_21, BitVec.reduceEq, false_and, and_false, and_self, and_true, true_and, reduceIte]

/-- Round trip of srlS32. -/
theorem Laws.RoundTrip.srlS32 (d : BitVec 5) (a : BitVec 5) (b : BitVec 5) : Laws.RoundTrip.Statement (.srlS32 d a b) := by
  intro word hwf henc
  cases (show some (0x1#6 ++ d ++ a ++ b ++ 0x408#11 : Word32) = some word from henc)
  refine decode_of_raw ((raw_01 _ (fld_6_5_5_5_11_26 ..)).trans ?_) hwf
  simp only [decode01, fld_6_5_5_5_11_0, fld_6_5_5_5_11_11, fld_6_5_5_5_11_16, fld_6_5_5_5_11_21, BitVec.reduceEq, false_and, and_false, and_self, and_true, true_and, reduceIte]

/-- Round trip of srlZ32. -/
theorem Laws.RoundTrip.srlZ32 (d : BitVec 5) (a : BitVec 5) (b : BitVec 5) : Laws.RoundTrip.Statement (.srlZ32 d a b) := by
  intro word hwf henc
  cases (show some (0x1#6 ++ d ++ a ++ b ++ 0x608#11 : Word32) = some word from henc)
  refine decode_of_raw ((raw_01 _ (fld_6_5_5_5_11_26 ..)).trans ?_) hwf
  simp only [decode01, fld_6_5_5_5_11_0, fld_6_5_5_5_11_11, fld_6_5_5_5_11_16, fld_6_5_5_5_11_21, BitVec.reduceEq, false_and, and_false, and_self, and_true, true_and, reduceIte]

/-- Round trip of sraS32. -/
theorem Laws.RoundTrip.sraS32 (d : BitVec 5) (a : BitVec 5) (b : BitVec 5) : Laws.RoundTrip.Statement (.sraS32 d a b) := by
  intro word hwf henc
  cases (show some (0x1#6 ++ d ++ a ++ b ++ 0x409#11 : Word32) = some word from henc)
  refine decode_of_raw ((raw_01 _ (fld_6_5_5_5_11_26 ..)).trans ?_) hwf
  simp only [decode01, fld_6_5_5_5_11_0, fld_6_5_5_5_11_11, fld_6_5_5_5_11_16, fld_6_5_5_5_11_21, BitVec.reduceEq, false_and, and_false, and_self, and_true, true_and, reduceIte]

/-- Round trip of sraZ32. -/
theorem Laws.RoundTrip.sraZ32 (d : BitVec 5) (a : BitVec 5) (b : BitVec 5) : Laws.RoundTrip.Statement (.sraZ32 d a b) := by
  intro word hwf henc
  cases (show some (0x1#6 ++ d ++ a ++ b ++ 0x609#11 : Word32) = some word from henc)
  refine decode_of_raw ((raw_01 _ (fld_6_5_5_5_11_26 ..)).trans ?_) hwf
  simp only [decode01, fld_6_5_5_5_11_0, fld_6_5_5_5_11_11, fld_6_5_5_5_11_16, fld_6_5_5_5_11_21, BitVec.reduceEq, false_and, and_false, and_self, and_true, true_and, reduceIte]

/-- Round trip of rolS32. -/
theorem Laws.RoundTrip.rolS32 (d : BitVec 5) (a : BitVec 5) (b : BitVec 5) : Laws.RoundTrip.Statement (.rolS32 d a b) := by
  intro word hwf henc
  cases (show some (0x1#6 ++ d ++ a ++ b ++ 0x40a#11 : Word32) = some word from henc)
  refine decode_of_raw ((raw_01 _ (fld_6_5_5_5_11_26 ..)).trans ?_) hwf
  simp only [decode01, fld_6_5_5_5_11_0, fld_6_5_5_5_11_11, fld_6_5_5_5_11_16, fld_6_5_5_5_11_21, BitVec.reduceEq, false_and, and_false, and_self, and_true, true_and, reduceIte]

/-- Round trip of rolZ32. -/
theorem Laws.RoundTrip.rolZ32 (d : BitVec 5) (a : BitVec 5) (b : BitVec 5) : Laws.RoundTrip.Statement (.rolZ32 d a b) := by
  intro word hwf henc
  cases (show some (0x1#6 ++ d ++ a ++ b ++ 0x60a#11 : Word32) = some word from henc)
  refine decode_of_raw ((raw_01 _ (fld_6_5_5_5_11_26 ..)).trans ?_) hwf
  simp only [decode01, fld_6_5_5_5_11_0, fld_6_5_5_5_11_11, fld_6_5_5_5_11_16, fld_6_5_5_5_11_21, BitVec.reduceEq, false_and, and_false, and_self, and_true, true_and, reduceIte]

/-- Round trip of rorS32. -/
theorem Laws.RoundTrip.rorS32 (d : BitVec 5) (a : BitVec 5) (b : BitVec 5) : Laws.RoundTrip.Statement (.rorS32 d a b) := by
  intro word hwf henc
  cases (show some (0x1#6 ++ d ++ a ++ b ++ 0x40b#11 : Word32) = some word from henc)
  refine decode_of_raw ((raw_01 _ (fld_6_5_5_5_11_26 ..)).trans ?_) hwf
  simp only [decode01, fld_6_5_5_5_11_0, fld_6_5_5_5_11_11, fld_6_5_5_5_11_16, fld_6_5_5_5_11_21, BitVec.reduceEq, false_and, and_false, and_self, and_true, true_and, reduceIte]

/-- Round trip of rorZ32. -/
theorem Laws.RoundTrip.rorZ32 (d : BitVec 5) (a : BitVec 5) (b : BitVec 5) : Laws.RoundTrip.Statement (.rorZ32 d a b) := by
  intro word hwf henc
  cases (show some (0x1#6 ++ d ++ a ++ b ++ 0x60b#11 : Word32) = some word from henc)
  refine decode_of_raw ((raw_01 _ (fld_6_5_5_5_11_26 ..)).trans ?_) hwf
  simp only [decode01, fld_6_5_5_5_11_0, fld_6_5_5_5_11_11, fld_6_5_5_5_11_16, fld_6_5_5_5_11_21, BitVec.reduceEq, false_and, and_false, and_self, and_true, true_and, reduceIte]

/-- Round trip of addi. -/
theorem Laws.RoundTrip.addi (d : BitVec 5) (a : BitVec 5) (i : BitVec 16) : Laws.RoundTrip.Statement (.addi d a i) := by
  intro word hwf henc
  cases (show some (0x2#6 ++ d ++ a ++ i : Word32) = some word from henc)
  refine decode_of_raw ((raw_02 _ (fld_6_5_5_16_26 ..)).trans ?_) hwf
  simp only [fld_6_5_5_16_0, fld_6_5_5_16_16, fld_6_5_5_16_21, BitVec.reduceEq, false_and, and_false, and_self, and_true, true_and, reduceIte]

/-- Round trip of andi. -/
theorem Laws.RoundTrip.andi (d : BitVec 5) (a : BitVec 5) (i : BitVec 16) : Laws.RoundTrip.Statement (.andi d a i) := by
  intro word hwf henc
  cases (show some (0x3#6 ++ d ++ a ++ i : Word32) = some word from henc)
  refine decode_of_raw ((raw_03 _ (fld_6_5_5_16_26 ..)).trans ?_) hwf
  simp only [fld_6_5_5_16_0, fld_6_5_5_16_16, fld_6_5_5_16_21, BitVec.reduceEq, false_and, and_false, and_self, and_true, true_and, reduceIte]

/-- Round trip of ori. -/
theorem Laws.RoundTrip.ori (d : BitVec 5) (a : BitVec 5) (i : BitVec 16) : Laws.RoundTrip.Statement (.ori d a i) := by
  intro word hwf henc
  cases (show some (0x4#6 ++ d ++ a ++ i : Word32) = some word from henc)
  refine decode_of_raw ((raw_04 _ (fld_6_5_5_16_26 ..)).trans ?_) hwf
  simp only [fld_6_5_5_16_0, fld_6_5_5_16_16, fld_6_5_5_16_21, BitVec.reduceEq, false_and, and_false, and_self, and_true, true_and, reduceIte]

/-- Round trip of xori. -/
theorem Laws.RoundTrip.xori (d : BitVec 5) (a : BitVec 5) (i : BitVec 16) : Laws.RoundTrip.Statement (.xori d a i) := by
  intro word hwf henc
  cases (show some (0x5#6 ++ d ++ a ++ i : Word32) = some word from henc)
  refine decode_of_raw ((raw_05 _ (fld_6_5_5_16_26 ..)).trans ?_) hwf
  simp only [fld_6_5_5_16_0, fld_6_5_5_16_16, fld_6_5_5_16_21, BitVec.reduceEq, false_and, and_false, and_self, and_true, true_and, reduceIte]

/-- Round trip of slti. -/
theorem Laws.RoundTrip.slti (d : BitVec 5) (a : BitVec 5) (i : BitVec 16) : Laws.RoundTrip.Statement (.slti d a i) := by
  intro word hwf henc
  cases (show some (0x6#6 ++ d ++ a ++ i : Word32) = some word from henc)
  refine decode_of_raw ((raw_06 _ (fld_6_5_5_16_26 ..)).trans ?_) hwf
  simp only [fld_6_5_5_16_0, fld_6_5_5_16_16, fld_6_5_5_16_21, BitVec.reduceEq, false_and, and_false, and_self, and_true, true_and, reduceIte]

/-- Round trip of sltiz. -/
theorem Laws.RoundTrip.sltiz (d : BitVec 5) (a : BitVec 5) (i : BitVec 16) : Laws.RoundTrip.Statement (.sltiz d a i) := by
  intro word hwf henc
  cases (show some (0x7#6 ++ d ++ a ++ i : Word32) = some word from henc)
  refine decode_of_raw ((raw_07 _ (fld_6_5_5_16_26 ..)).trans ?_) hwf
  simp only [fld_6_5_5_16_0, fld_6_5_5_16_16, fld_6_5_5_16_21, BitVec.reduceEq, false_and, and_false, and_self, and_true, true_and, reduceIte]

/-- Round trip of slli. -/
theorem Laws.RoundTrip.slli (d : BitVec 5) (a : BitVec 5) (s : BitVec 6) : Laws.RoundTrip.Statement (.slli d a s) := by
  intro word hwf henc
  cases (show some (0x8#6 ++ d ++ a ++ s ++ 0x0#10 : Word32) = some word from henc)
  refine decode_of_raw ((raw_08 _ (fld_6_5_5_6_10_26 ..)).trans ?_) hwf
  simp only [decode08, fld_6_5_5_6_10_0, fld_6_5_5_6_10_10, fld_6_5_5_6_10_16, fld_6_5_5_6_10_21, BitVec.reduceEq, false_and, and_false, and_self, and_true, true_and, reduceIte]

/-- Round trip of srli. -/
theorem Laws.RoundTrip.srli (d : BitVec 5) (a : BitVec 5) (s : BitVec 6) : Laws.RoundTrip.Statement (.srli d a s) := by
  intro word hwf henc
  cases (show some (0x8#6 ++ d ++ a ++ s ++ 0x1#10 : Word32) = some word from henc)
  refine decode_of_raw ((raw_08 _ (fld_6_5_5_6_10_26 ..)).trans ?_) hwf
  simp only [decode08, fld_6_5_5_6_10_0, fld_6_5_5_6_10_10, fld_6_5_5_6_10_16, fld_6_5_5_6_10_21, BitVec.reduceEq, false_and, and_false, and_self, and_true, true_and, reduceIte]

/-- Round trip of srai. -/
theorem Laws.RoundTrip.srai (d : BitVec 5) (a : BitVec 5) (s : BitVec 6) : Laws.RoundTrip.Statement (.srai d a s) := by
  intro word hwf henc
  cases (show some (0x8#6 ++ d ++ a ++ s ++ 0x2#10 : Word32) = some word from henc)
  refine decode_of_raw ((raw_08 _ (fld_6_5_5_6_10_26 ..)).trans ?_) hwf
  simp only [decode08, fld_6_5_5_6_10_0, fld_6_5_5_6_10_10, fld_6_5_5_6_10_16, fld_6_5_5_6_10_21, BitVec.reduceEq, false_and, and_false, and_self, and_true, true_and, reduceIte]

/-- Round trip of rori. -/
theorem Laws.RoundTrip.rori (d : BitVec 5) (a : BitVec 5) (s : BitVec 6) : Laws.RoundTrip.Statement (.rori d a s) := by
  intro word hwf henc
  cases (show some (0x8#6 ++ d ++ a ++ s ++ 0x3#10 : Word32) = some word from henc)
  refine decode_of_raw ((raw_08 _ (fld_6_5_5_6_10_26 ..)).trans ?_) hwf
  simp only [decode08, fld_6_5_5_6_10_0, fld_6_5_5_6_10_10, fld_6_5_5_6_10_16, fld_6_5_5_6_10_21, BitVec.reduceEq, false_and, and_false, and_self, and_true, true_and, reduceIte]

/-- Round trip of slliS32. -/
theorem Laws.RoundTrip.slliS32 (d : BitVec 5) (a : BitVec 5) (s : BitVec 5) : Laws.RoundTrip.Statement (.slliS32 d a s) := by
  intro word hwf henc
  cases (show some (0x8#6 ++ d ++ a ++ 0x0#1 ++ s ++ 0x200#10 : Word32) = some word from henc)
  refine decode_of_raw ((raw_08 _ (fld_6_5_5_1_5_10_26 ..)).trans ?_) hwf
  simp only [decode08, fld_6_5_5_1_5_10_0, fld_6_5_5_1_5_10_10, fld_6_5_5_1_5_10_15, fld_6_5_5_1_5_10_16, fld_6_5_5_1_5_10_21, BitVec.reduceEq, false_and, and_false, and_self, and_true, true_and, reduceIte]

/-- Round trip of slliZ32. -/
theorem Laws.RoundTrip.slliZ32 (d : BitVec 5) (a : BitVec 5) (s : BitVec 5) : Laws.RoundTrip.Statement (.slliZ32 d a s) := by
  intro word hwf henc
  cases (show some (0x8#6 ++ d ++ a ++ 0x0#1 ++ s ++ 0x300#10 : Word32) = some word from henc)
  refine decode_of_raw ((raw_08 _ (fld_6_5_5_1_5_10_26 ..)).trans ?_) hwf
  simp only [decode08, fld_6_5_5_1_5_10_0, fld_6_5_5_1_5_10_10, fld_6_5_5_1_5_10_15, fld_6_5_5_1_5_10_16, fld_6_5_5_1_5_10_21, BitVec.reduceEq, false_and, and_false, and_self, and_true, true_and, reduceIte]

/-- Round trip of srliS32. -/
theorem Laws.RoundTrip.srliS32 (d : BitVec 5) (a : BitVec 5) (s : BitVec 5) : Laws.RoundTrip.Statement (.srliS32 d a s) := by
  intro word hwf henc
  cases (show some (0x8#6 ++ d ++ a ++ 0x0#1 ++ s ++ 0x201#10 : Word32) = some word from henc)
  refine decode_of_raw ((raw_08 _ (fld_6_5_5_1_5_10_26 ..)).trans ?_) hwf
  simp only [decode08, fld_6_5_5_1_5_10_0, fld_6_5_5_1_5_10_10, fld_6_5_5_1_5_10_15, fld_6_5_5_1_5_10_16, fld_6_5_5_1_5_10_21, BitVec.reduceEq, false_and, and_false, and_self, and_true, true_and, reduceIte]

/-- Round trip of srliZ32. -/
theorem Laws.RoundTrip.srliZ32 (d : BitVec 5) (a : BitVec 5) (s : BitVec 5) : Laws.RoundTrip.Statement (.srliZ32 d a s) := by
  intro word hwf henc
  cases (show some (0x8#6 ++ d ++ a ++ 0x0#1 ++ s ++ 0x301#10 : Word32) = some word from henc)
  refine decode_of_raw ((raw_08 _ (fld_6_5_5_1_5_10_26 ..)).trans ?_) hwf
  simp only [decode08, fld_6_5_5_1_5_10_0, fld_6_5_5_1_5_10_10, fld_6_5_5_1_5_10_15, fld_6_5_5_1_5_10_16, fld_6_5_5_1_5_10_21, BitVec.reduceEq, false_and, and_false, and_self, and_true, true_and, reduceIte]

/-- Round trip of sraiS32. -/
theorem Laws.RoundTrip.sraiS32 (d : BitVec 5) (a : BitVec 5) (s : BitVec 5) : Laws.RoundTrip.Statement (.sraiS32 d a s) := by
  intro word hwf henc
  cases (show some (0x8#6 ++ d ++ a ++ 0x0#1 ++ s ++ 0x202#10 : Word32) = some word from henc)
  refine decode_of_raw ((raw_08 _ (fld_6_5_5_1_5_10_26 ..)).trans ?_) hwf
  simp only [decode08, fld_6_5_5_1_5_10_0, fld_6_5_5_1_5_10_10, fld_6_5_5_1_5_10_15, fld_6_5_5_1_5_10_16, fld_6_5_5_1_5_10_21, BitVec.reduceEq, false_and, and_false, and_self, and_true, true_and, reduceIte]

/-- Round trip of sraiZ32. -/
theorem Laws.RoundTrip.sraiZ32 (d : BitVec 5) (a : BitVec 5) (s : BitVec 5) : Laws.RoundTrip.Statement (.sraiZ32 d a s) := by
  intro word hwf henc
  cases (show some (0x8#6 ++ d ++ a ++ 0x0#1 ++ s ++ 0x302#10 : Word32) = some word from henc)
  refine decode_of_raw ((raw_08 _ (fld_6_5_5_1_5_10_26 ..)).trans ?_) hwf
  simp only [decode08, fld_6_5_5_1_5_10_0, fld_6_5_5_1_5_10_10, fld_6_5_5_1_5_10_15, fld_6_5_5_1_5_10_16, fld_6_5_5_1_5_10_21, BitVec.reduceEq, false_and, and_false, and_self, and_true, true_and, reduceIte]

/-- Round trip of roriS32. -/
theorem Laws.RoundTrip.roriS32 (d : BitVec 5) (a : BitVec 5) (s : BitVec 5) : Laws.RoundTrip.Statement (.roriS32 d a s) := by
  intro word hwf henc
  cases (show some (0x8#6 ++ d ++ a ++ 0x0#1 ++ s ++ 0x203#10 : Word32) = some word from henc)
  refine decode_of_raw ((raw_08 _ (fld_6_5_5_1_5_10_26 ..)).trans ?_) hwf
  simp only [decode08, fld_6_5_5_1_5_10_0, fld_6_5_5_1_5_10_10, fld_6_5_5_1_5_10_15, fld_6_5_5_1_5_10_16, fld_6_5_5_1_5_10_21, BitVec.reduceEq, false_and, and_false, and_self, and_true, true_and, reduceIte]

/-- Round trip of roriZ32. -/
theorem Laws.RoundTrip.roriZ32 (d : BitVec 5) (a : BitVec 5) (s : BitVec 5) : Laws.RoundTrip.Statement (.roriZ32 d a s) := by
  intro word hwf henc
  cases (show some (0x8#6 ++ d ++ a ++ 0x0#1 ++ s ++ 0x303#10 : Word32) = some word from henc)
  refine decode_of_raw ((raw_08 _ (fld_6_5_5_1_5_10_26 ..)).trans ?_) hwf
  simp only [decode08, fld_6_5_5_1_5_10_0, fld_6_5_5_1_5_10_10, fld_6_5_5_1_5_10_15, fld_6_5_5_1_5_10_16, fld_6_5_5_1_5_10_21, BitVec.reduceEq, false_and, and_false, and_self, and_true, true_and, reduceIte]

/-- Round trip of lih. -/
theorem Laws.RoundTrip.lih (d : BitVec 5) (a : BitVec 5) (i : BitVec 16) : Laws.RoundTrip.Statement (.lih d a i) := by
  intro word hwf henc
  cases (show some (0x9#6 ++ d ++ a ++ i : Word32) = some word from henc)
  refine decode_of_raw ((raw_09 _ (fld_6_5_5_16_26 ..)).trans ?_) hwf
  simp only [fld_6_5_5_16_0, fld_6_5_5_16_16, fld_6_5_5_16_21, BitVec.reduceEq, false_and, and_false, and_self, and_true, true_and, reduceIte]

/-- Round trip of pcrel. -/
theorem Laws.RoundTrip.pcrel (d : BitVec 5) (i : BitVec 16) : Laws.RoundTrip.Statement (.pcrel d i) := by
  intro word hwf henc
  cases (show some (0xa#6 ++ d ++ 0x0#5 ++ i : Word32) = some word from henc)
  refine decode_of_raw ((raw_0a _ (fld_6_5_5_16_26 ..) (fld_6_5_5_16_16 ..)).trans ?_) hwf
  simp only [fld_6_5_5_16_0, fld_6_5_5_16_16, fld_6_5_5_16_21, BitVec.reduceEq, false_and, and_false, and_self, and_true, true_and, reduceIte]

/-- Round trip of mul. -/
theorem Laws.RoundTrip.mul (d : BitVec 5) (a : BitVec 5) (b : BitVec 5) : Laws.RoundTrip.Statement (.mul d a b) := by
  intro word hwf henc
  cases (show some (0xc#6 ++ d ++ a ++ b ++ 0x0#11 : Word32) = some word from henc)
  refine decode_of_raw ((raw_0c _ (fld_6_5_5_5_11_26 ..)).trans ?_) hwf
  simp only [decode0C, fld_6_5_5_5_11_0, fld_6_5_5_5_11_11, fld_6_5_5_5_11_16, fld_6_5_5_5_11_21, BitVec.reduceEq, false_and, and_false, and_self, and_true, true_and, reduceIte]

/-- Round trip of mulhiS64. -/
theorem Laws.RoundTrip.mulhiS64 (d : BitVec 5) (a : BitVec 5) (b : BitVec 5) : Laws.RoundTrip.Statement (.mulhiS64 d a b) := by
  intro word hwf henc
  cases (show some (0xc#6 ++ d ++ a ++ b ++ 0x1#11 : Word32) = some word from henc)
  refine decode_of_raw ((raw_0c _ (fld_6_5_5_5_11_26 ..)).trans ?_) hwf
  simp only [decode0C, fld_6_5_5_5_11_0, fld_6_5_5_5_11_11, fld_6_5_5_5_11_16, fld_6_5_5_5_11_21, BitVec.reduceEq, false_and, and_false, and_self, and_true, true_and, reduceIte]

/-- Round trip of mulhiZ64. -/
theorem Laws.RoundTrip.mulhiZ64 (d : BitVec 5) (a : BitVec 5) (b : BitVec 5) : Laws.RoundTrip.Statement (.mulhiZ64 d a b) := by
  intro word hwf henc
  cases (show some (0xc#6 ++ d ++ a ++ b ++ 0x2#11 : Word32) = some word from henc)
  refine decode_of_raw ((raw_0c _ (fld_6_5_5_5_11_26 ..)).trans ?_) hwf
  simp only [decode0C, fld_6_5_5_5_11_0, fld_6_5_5_5_11_11, fld_6_5_5_5_11_16, fld_6_5_5_5_11_21, BitVec.reduceEq, false_and, and_false, and_self, and_true, true_and, reduceIte]

/-- Round trip of mulhm. -/
theorem Laws.RoundTrip.mulhm (d : BitVec 5) (a : BitVec 5) (b : BitVec 5) : Laws.RoundTrip.Statement (.mulhm d a b) := by
  intro word hwf henc
  cases (show some (0xc#6 ++ d ++ a ++ b ++ 0x3#11 : Word32) = some word from henc)
  refine decode_of_raw ((raw_0c _ (fld_6_5_5_5_11_26 ..)).trans ?_) hwf
  simp only [decode0C, fld_6_5_5_5_11_0, fld_6_5_5_5_11_11, fld_6_5_5_5_11_16, fld_6_5_5_5_11_21, BitVec.reduceEq, false_and, and_false, and_self, and_true, true_and, reduceIte]

/-- Round trip of quoS64. -/
theorem Laws.RoundTrip.quoS64 (d : BitVec 5) (a : BitVec 5) (b : BitVec 5) : Laws.RoundTrip.Statement (.quoS64 d a b) := by
  intro word hwf henc
  cases (show some (0xc#6 ++ d ++ a ++ b ++ 0x4#11 : Word32) = some word from henc)
  refine decode_of_raw ((raw_0c _ (fld_6_5_5_5_11_26 ..)).trans ?_) hwf
  simp only [decode0C, fld_6_5_5_5_11_0, fld_6_5_5_5_11_11, fld_6_5_5_5_11_16, fld_6_5_5_5_11_21, BitVec.reduceEq, false_and, and_false, and_self, and_true, true_and, reduceIte]

/-- Round trip of quoZ64. -/
theorem Laws.RoundTrip.quoZ64 (d : BitVec 5) (a : BitVec 5) (b : BitVec 5) : Laws.RoundTrip.Statement (.quoZ64 d a b) := by
  intro word hwf henc
  cases (show some (0xc#6 ++ d ++ a ++ b ++ 0x5#11 : Word32) = some word from henc)
  refine decode_of_raw ((raw_0c _ (fld_6_5_5_5_11_26 ..)).trans ?_) hwf
  simp only [decode0C, fld_6_5_5_5_11_0, fld_6_5_5_5_11_11, fld_6_5_5_5_11_16, fld_6_5_5_5_11_21, BitVec.reduceEq, false_and, and_false, and_self, and_true, true_and, reduceIte]

/-- Round trip of rmdS64. -/
theorem Laws.RoundTrip.rmdS64 (d : BitVec 5) (a : BitVec 5) (b : BitVec 5) : Laws.RoundTrip.Statement (.rmdS64 d a b) := by
  intro word hwf henc
  cases (show some (0xc#6 ++ d ++ a ++ b ++ 0x6#11 : Word32) = some word from henc)
  refine decode_of_raw ((raw_0c _ (fld_6_5_5_5_11_26 ..)).trans ?_) hwf
  simp only [decode0C, fld_6_5_5_5_11_0, fld_6_5_5_5_11_11, fld_6_5_5_5_11_16, fld_6_5_5_5_11_21, BitVec.reduceEq, false_and, and_false, and_self, and_true, true_and, reduceIte]

/-- Round trip of rmdZ64. -/
theorem Laws.RoundTrip.rmdZ64 (d : BitVec 5) (a : BitVec 5) (b : BitVec 5) : Laws.RoundTrip.Statement (.rmdZ64 d a b) := by
  intro word hwf henc
  cases (show some (0xc#6 ++ d ++ a ++ b ++ 0x7#11 : Word32) = some word from henc)
  refine decode_of_raw ((raw_0c _ (fld_6_5_5_5_11_26 ..)).trans ?_) hwf
  simp only [decode0C, fld_6_5_5_5_11_0, fld_6_5_5_5_11_11, fld_6_5_5_5_11_16, fld_6_5_5_5_11_21, BitVec.reduceEq, false_and, and_false, and_self, and_true, true_and, reduceIte]

/-- Round trip of mulS32. -/
theorem Laws.RoundTrip.mulS32 (d : BitVec 5) (a : BitVec 5) (b : BitVec 5) : Laws.RoundTrip.Statement (.mulS32 d a b) := by
  intro word hwf henc
  cases (show some (0xc#6 ++ d ++ a ++ b ++ 0x8#11 : Word32) = some word from henc)
  refine decode_of_raw ((raw_0c _ (fld_6_5_5_5_11_26 ..)).trans ?_) hwf
  simp only [decode0C, fld_6_5_5_5_11_0, fld_6_5_5_5_11_11, fld_6_5_5_5_11_16, fld_6_5_5_5_11_21, BitVec.reduceEq, false_and, and_false, and_self, and_true, true_and, reduceIte]

/-- Round trip of mulZ32. -/
theorem Laws.RoundTrip.mulZ32 (d : BitVec 5) (a : BitVec 5) (b : BitVec 5) : Laws.RoundTrip.Statement (.mulZ32 d a b) := by
  intro word hwf henc
  cases (show some (0xc#6 ++ d ++ a ++ b ++ 0x9#11 : Word32) = some word from henc)
  refine decode_of_raw ((raw_0c _ (fld_6_5_5_5_11_26 ..)).trans ?_) hwf
  simp only [decode0C, fld_6_5_5_5_11_0, fld_6_5_5_5_11_11, fld_6_5_5_5_11_16, fld_6_5_5_5_11_21, BitVec.reduceEq, false_and, and_false, and_self, and_true, true_and, reduceIte]

/-- Round trip of quoS32. -/
theorem Laws.RoundTrip.quoS32 (d : BitVec 5) (a : BitVec 5) (b : BitVec 5) : Laws.RoundTrip.Statement (.quoS32 d a b) := by
  intro word hwf henc
  cases (show some (0xc#6 ++ d ++ a ++ b ++ 0xa#11 : Word32) = some word from henc)
  refine decode_of_raw ((raw_0c _ (fld_6_5_5_5_11_26 ..)).trans ?_) hwf
  simp only [decode0C, fld_6_5_5_5_11_0, fld_6_5_5_5_11_11, fld_6_5_5_5_11_16, fld_6_5_5_5_11_21, BitVec.reduceEq, false_and, and_false, and_self, and_true, true_and, reduceIte]

/-- Round trip of quoZ32. -/
theorem Laws.RoundTrip.quoZ32 (d : BitVec 5) (a : BitVec 5) (b : BitVec 5) : Laws.RoundTrip.Statement (.quoZ32 d a b) := by
  intro word hwf henc
  cases (show some (0xc#6 ++ d ++ a ++ b ++ 0xb#11 : Word32) = some word from henc)
  refine decode_of_raw ((raw_0c _ (fld_6_5_5_5_11_26 ..)).trans ?_) hwf
  simp only [decode0C, fld_6_5_5_5_11_0, fld_6_5_5_5_11_11, fld_6_5_5_5_11_16, fld_6_5_5_5_11_21, BitVec.reduceEq, false_and, and_false, and_self, and_true, true_and, reduceIte]

/-- Round trip of rmdS32. -/
theorem Laws.RoundTrip.rmdS32 (d : BitVec 5) (a : BitVec 5) (b : BitVec 5) : Laws.RoundTrip.Statement (.rmdS32 d a b) := by
  intro word hwf henc
  cases (show some (0xc#6 ++ d ++ a ++ b ++ 0xc#11 : Word32) = some word from henc)
  refine decode_of_raw ((raw_0c _ (fld_6_5_5_5_11_26 ..)).trans ?_) hwf
  simp only [decode0C, fld_6_5_5_5_11_0, fld_6_5_5_5_11_11, fld_6_5_5_5_11_16, fld_6_5_5_5_11_21, BitVec.reduceEq, false_and, and_false, and_self, and_true, true_and, reduceIte]

/-- Round trip of rmdZ32. -/
theorem Laws.RoundTrip.rmdZ32 (d : BitVec 5) (a : BitVec 5) (b : BitVec 5) : Laws.RoundTrip.Statement (.rmdZ32 d a b) := by
  intro word hwf henc
  cases (show some (0xc#6 ++ d ++ a ++ b ++ 0xd#11 : Word32) = some word from henc)
  refine decode_of_raw ((raw_0c _ (fld_6_5_5_5_11_26 ..)).trans ?_) hwf
  simp only [decode0C, fld_6_5_5_5_11_0, fld_6_5_5_5_11_11, fld_6_5_5_5_11_16, fld_6_5_5_5_11_21, BitVec.reduceEq, false_and, and_false, and_self, and_true, true_and, reduceIte]

/-- Round trip of mad. -/
theorem Laws.RoundTrip.mad (d : BitVec 5) (a : BitVec 5) (b : BitVec 5) : Laws.RoundTrip.Statement (.mad d a b) := by
  intro word hwf henc
  cases (show some (0xc#6 ++ d ++ a ++ b ++ 0xe#11 : Word32) = some word from henc)
  refine decode_of_raw ((raw_0c _ (fld_6_5_5_5_11_26 ..)).trans ?_) hwf
  simp only [decode0C, fld_6_5_5_5_11_0, fld_6_5_5_5_11_11, fld_6_5_5_5_11_16, fld_6_5_5_5_11_21, BitVec.reduceEq, false_and, and_false, and_self, and_true, true_and, reduceIte]

/-- Round trip of msb. -/
theorem Laws.RoundTrip.msb (d : BitVec 5) (a : BitVec 5) (b : BitVec 5) : Laws.RoundTrip.Statement (.msb d a b) := by
  intro word hwf henc
  cases (show some (0xc#6 ++ d ++ a ++ b ++ 0xf#11 : Word32) = some word from henc)
  refine decode_of_raw ((raw_0c _ (fld_6_5_5_5_11_26 ..)).trans ?_) hwf
  simp only [decode0C, fld_6_5_5_5_11_0, fld_6_5_5_5_11_11, fld_6_5_5_5_11_16, fld_6_5_5_5_11_21, BitVec.reduceEq, false_and, and_false, and_self, and_true, true_and, reduceIte]

/-- Round trip of lzc. -/
theorem Laws.RoundTrip.lzc (d : BitVec 5) (a : BitVec 5) : Laws.RoundTrip.Statement (.lzc d a) := by
  intro word hwf henc
  cases (show some (0xd#6 ++ d ++ a ++ 0x0#10 ++ 0x0#6 : Word32) = some word from henc)
  refine decode_of_raw ((raw_0d _ (fld_6_5_5_10_6_26 ..)).trans ?_) hwf
  simp only [decode0D, fld_6_5_5_10_6_0, fld_6_5_5_10_6_6_5_z3, fld_6_5_5_10_6_6, fld_6_5_5_10_6_11_5_z3, fld_6_5_5_10_6_16, fld_6_5_5_10_6_21, BitVec.reduceEq, false_and, and_false, and_self, and_true, true_and, reduceIte]

/-- Round trip of tzc. -/
theorem Laws.RoundTrip.tzc (d : BitVec 5) (a : BitVec 5) : Laws.RoundTrip.Statement (.tzc d a) := by
  intro word hwf henc
  cases (show some (0xd#6 ++ d ++ a ++ 0x0#10 ++ 0x1#6 : Word32) = some word from henc)
  refine decode_of_raw ((raw_0d _ (fld_6_5_5_10_6_26 ..)).trans ?_) hwf
  simp only [decode0D, fld_6_5_5_10_6_0, fld_6_5_5_10_6_6_5_z3, fld_6_5_5_10_6_6, fld_6_5_5_10_6_11_5_z3, fld_6_5_5_10_6_16, fld_6_5_5_10_6_21, BitVec.reduceEq, false_and, and_false, and_self, and_true, true_and, reduceIte]

/-- Round trip of ones. -/
theorem Laws.RoundTrip.ones (d : BitVec 5) (a : BitVec 5) : Laws.RoundTrip.Statement (.ones d a) := by
  intro word hwf henc
  cases (show some (0xd#6 ++ d ++ a ++ 0x0#10 ++ 0x2#6 : Word32) = some word from henc)
  refine decode_of_raw ((raw_0d _ (fld_6_5_5_10_6_26 ..)).trans ?_) hwf
  simp only [decode0D, fld_6_5_5_10_6_0, fld_6_5_5_10_6_6_5_z3, fld_6_5_5_10_6_6, fld_6_5_5_10_6_11_5_z3, fld_6_5_5_10_6_16, fld_6_5_5_10_6_21, BitVec.reduceEq, false_and, and_false, and_self, and_true, true_and, reduceIte]

/-- Round trip of bswap. -/
theorem Laws.RoundTrip.bswap (d : BitVec 5) (a : BitVec 5) : Laws.RoundTrip.Statement (.bswap d a) := by
  intro word hwf henc
  cases (show some (0xd#6 ++ d ++ a ++ 0x0#10 ++ 0x3#6 : Word32) = some word from henc)
  refine decode_of_raw ((raw_0d _ (fld_6_5_5_10_6_26 ..)).trans ?_) hwf
  simp only [decode0D, fld_6_5_5_10_6_0, fld_6_5_5_10_6_6_5_z3, fld_6_5_5_10_6_6, fld_6_5_5_10_6_11_5_z3, fld_6_5_5_10_6_16, fld_6_5_5_10_6_21, BitVec.reduceEq, false_and, and_false, and_self, and_true, true_and, reduceIte]

/-- Round trip of bitrev. -/
theorem Laws.RoundTrip.bitrev (d : BitVec 5) (a : BitVec 5) : Laws.RoundTrip.Statement (.bitrev d a) := by
  intro word hwf henc
  cases (show some (0xd#6 ++ d ++ a ++ 0x0#10 ++ 0x4#6 : Word32) = some word from henc)
  refine decode_of_raw ((raw_0d _ (fld_6_5_5_10_6_26 ..)).trans ?_) hwf
  simp only [decode0D, fld_6_5_5_10_6_0, fld_6_5_5_10_6_6_5_z3, fld_6_5_5_10_6_6, fld_6_5_5_10_6_11_5_z3, fld_6_5_5_10_6_16, fld_6_5_5_10_6_21, BitVec.reduceEq, false_and, and_false, and_self, and_true, true_and, reduceIte]

/-- Round trip of minS64. -/
theorem Laws.RoundTrip.minS64 (d : BitVec 5) (a : BitVec 5) (b : BitVec 5) : Laws.RoundTrip.Statement (.minS64 d a b) := by
  intro word hwf henc
  cases (show some (0xd#6 ++ d ++ a ++ b ++ 0x0#5 ++ 0x5#6 : Word32) = some word from henc)
  refine decode_of_raw ((raw_0d _ (fld_6_5_5_5_5_6_26 ..)).trans ?_) hwf
  simp only [decode0D, fld_6_5_5_5_5_6_0, fld_6_5_5_5_5_6_6, fld_6_5_5_5_5_6_11, fld_6_5_5_5_5_6_16, fld_6_5_5_5_5_6_21, BitVec.reduceEq, false_and, and_false, and_self, and_true, true_and, reduceIte]

/-- Round trip of maxS64. -/
theorem Laws.RoundTrip.maxS64 (d : BitVec 5) (a : BitVec 5) (b : BitVec 5) : Laws.RoundTrip.Statement (.maxS64 d a b) := by
  intro word hwf henc
  cases (show some (0xd#6 ++ d ++ a ++ b ++ 0x0#5 ++ 0x6#6 : Word32) = some word from henc)
  refine decode_of_raw ((raw_0d _ (fld_6_5_5_5_5_6_26 ..)).trans ?_) hwf
  simp only [decode0D, fld_6_5_5_5_5_6_0, fld_6_5_5_5_5_6_6, fld_6_5_5_5_5_6_11, fld_6_5_5_5_5_6_16, fld_6_5_5_5_5_6_21, BitVec.reduceEq, false_and, and_false, and_self, and_true, true_and, reduceIte]

/-- Round trip of minZ64. -/
theorem Laws.RoundTrip.minZ64 (d : BitVec 5) (a : BitVec 5) (b : BitVec 5) : Laws.RoundTrip.Statement (.minZ64 d a b) := by
  intro word hwf henc
  cases (show some (0xd#6 ++ d ++ a ++ b ++ 0x0#5 ++ 0x7#6 : Word32) = some word from henc)
  refine decode_of_raw ((raw_0d _ (fld_6_5_5_5_5_6_26 ..)).trans ?_) hwf
  simp only [decode0D, fld_6_5_5_5_5_6_0, fld_6_5_5_5_5_6_6, fld_6_5_5_5_5_6_11, fld_6_5_5_5_5_6_16, fld_6_5_5_5_5_6_21, BitVec.reduceEq, false_and, and_false, and_self, and_true, true_and, reduceIte]

/-- Round trip of maxZ64. -/
theorem Laws.RoundTrip.maxZ64 (d : BitVec 5) (a : BitVec 5) (b : BitVec 5) : Laws.RoundTrip.Statement (.maxZ64 d a b) := by
  intro word hwf henc
  cases (show some (0xd#6 ++ d ++ a ++ b ++ 0x0#5 ++ 0x8#6 : Word32) = some word from henc)
  refine decode_of_raw ((raw_0d _ (fld_6_5_5_5_5_6_26 ..)).trans ?_) hwf
  simp only [decode0D, fld_6_5_5_5_5_6_0, fld_6_5_5_5_5_6_6, fld_6_5_5_5_5_6_11, fld_6_5_5_5_5_6_16, fld_6_5_5_5_5_6_21, BitVec.reduceEq, false_and, and_false, and_self, and_true, true_and, reduceIte]

/-- Round trip of andnot. -/
theorem Laws.RoundTrip.andnot (d : BitVec 5) (a : BitVec 5) (b : BitVec 5) : Laws.RoundTrip.Statement (.andnot d a b) := by
  intro word hwf henc
  cases (show some (0xd#6 ++ d ++ a ++ b ++ 0x0#5 ++ 0x9#6 : Word32) = some word from henc)
  refine decode_of_raw ((raw_0d _ (fld_6_5_5_5_5_6_26 ..)).trans ?_) hwf
  simp only [decode0D, fld_6_5_5_5_5_6_0, fld_6_5_5_5_5_6_6, fld_6_5_5_5_5_6_11, fld_6_5_5_5_5_6_16, fld_6_5_5_5_5_6_21, BitVec.reduceEq, false_and, and_false, and_self, and_true, true_and, reduceIte]

/-- Round trip of ornot. -/
theorem Laws.RoundTrip.ornot (d : BitVec 5) (a : BitVec 5) (b : BitVec 5) : Laws.RoundTrip.Statement (.ornot d a b) := by
  intro word hwf henc
  cases (show some (0xd#6 ++ d ++ a ++ b ++ 0x0#5 ++ 0xa#6 : Word32) = some word from henc)
  refine decode_of_raw ((raw_0d _ (fld_6_5_5_5_5_6_26 ..)).trans ?_) hwf
  simp only [decode0D, fld_6_5_5_5_5_6_0, fld_6_5_5_5_5_6_6, fld_6_5_5_5_5_6_11, fld_6_5_5_5_5_6_16, fld_6_5_5_5_5_6_21, BitVec.reduceEq, false_and, and_false, and_self, and_true, true_and, reduceIte]

/-- Round trip of sel. -/
theorem Laws.RoundTrip.sel (d : BitVec 5) (a : BitVec 5) (b : BitVec 5) (c : BitVec 5) : Laws.RoundTrip.Statement (.sel d a b c) := by
  intro word hwf henc
  cases (show some (0xd#6 ++ d ++ a ++ b ++ c ++ 0xb#6 : Word32) = some word from henc)
  refine decode_of_raw ((raw_0d _ (fld_6_5_5_5_5_6_26 ..)).trans ?_) hwf
  simp only [decode0D, fld_6_5_5_5_5_6_0, fld_6_5_5_5_5_6_6, fld_6_5_5_5_5_6_11, fld_6_5_5_5_5_6_16, fld_6_5_5_5_5_6_21, BitVec.reduceEq, false_and, and_false, and_self, and_true, true_and, reduceIte]

/-- Round trip of extS8. -/
theorem Laws.RoundTrip.extS8 (d : BitVec 5) (a : BitVec 5) : Laws.RoundTrip.Statement (.extS8 d a) := by
  intro word hwf henc
  cases (show some (0xd#6 ++ d ++ a ++ 0x0#10 ++ 0xc#6 : Word32) = some word from henc)
  refine decode_of_raw ((raw_0d _ (fld_6_5_5_10_6_26 ..)).trans ?_) hwf
  simp only [decode0D, fld_6_5_5_10_6_0, fld_6_5_5_10_6_6_5_z3, fld_6_5_5_10_6_6, fld_6_5_5_10_6_11_5_z3, fld_6_5_5_10_6_16, fld_6_5_5_10_6_21, BitVec.reduceEq, false_and, and_false, and_self, and_true, true_and, reduceIte]

/-- Round trip of extS16. -/
theorem Laws.RoundTrip.extS16 (d : BitVec 5) (a : BitVec 5) : Laws.RoundTrip.Statement (.extS16 d a) := by
  intro word hwf henc
  cases (show some (0xd#6 ++ d ++ a ++ 0x0#10 ++ 0xd#6 : Word32) = some word from henc)
  refine decode_of_raw ((raw_0d _ (fld_6_5_5_10_6_26 ..)).trans ?_) hwf
  simp only [decode0D, fld_6_5_5_10_6_0, fld_6_5_5_10_6_6_5_z3, fld_6_5_5_10_6_6, fld_6_5_5_10_6_11_5_z3, fld_6_5_5_10_6_16, fld_6_5_5_10_6_21, BitVec.reduceEq, false_and, and_false, and_self, and_true, true_and, reduceIte]

/-- Round trip of extS32. -/
theorem Laws.RoundTrip.extS32 (d : BitVec 5) (a : BitVec 5) : Laws.RoundTrip.Statement (.extS32 d a) := by
  intro word hwf henc
  cases (show some (0xd#6 ++ d ++ a ++ 0x0#10 ++ 0xe#6 : Word32) = some word from henc)
  refine decode_of_raw ((raw_0d _ (fld_6_5_5_10_6_26 ..)).trans ?_) hwf
  simp only [decode0D, fld_6_5_5_10_6_0, fld_6_5_5_10_6_6_5_z3, fld_6_5_5_10_6_6, fld_6_5_5_10_6_11_5_z3, fld_6_5_5_10_6_16, fld_6_5_5_10_6_21, BitVec.reduceEq, false_and, and_false, and_self, and_true, true_and, reduceIte]

/-- Round trip of extZ32. -/
theorem Laws.RoundTrip.extZ32 (d : BitVec 5) (a : BitVec 5) : Laws.RoundTrip.Statement (.extZ32 d a) := by
  intro word hwf henc
  cases (show some (0xd#6 ++ d ++ a ++ 0x0#10 ++ 0xf#6 : Word32) = some word from henc)
  refine decode_of_raw ((raw_0d _ (fld_6_5_5_10_6_26 ..)).trans ?_) hwf
  simp only [decode0D, fld_6_5_5_10_6_0, fld_6_5_5_10_6_6_5_z3, fld_6_5_5_10_6_6, fld_6_5_5_10_6_11_5_z3, fld_6_5_5_10_6_16, fld_6_5_5_10_6_21, BitVec.reduceEq, false_and, and_false, and_self, and_true, true_and, reduceIte]

/-- Round trip of extZ8. -/
theorem Laws.RoundTrip.extZ8 (d : BitVec 5) (a : BitVec 5) : Laws.RoundTrip.Statement (.extZ8 d a) := by
  intro word hwf henc
  cases (show some (0xd#6 ++ d ++ a ++ 0x0#10 ++ 0x10#6 : Word32) = some word from henc)
  refine decode_of_raw ((raw_0d _ (fld_6_5_5_10_6_26 ..)).trans ?_) hwf
  simp only [decode0D, fld_6_5_5_10_6_0, fld_6_5_5_10_6_6_5_z3, fld_6_5_5_10_6_6, fld_6_5_5_10_6_11_5_z3, fld_6_5_5_10_6_16, fld_6_5_5_10_6_21, BitVec.reduceEq, false_and, and_false, and_self, and_true, true_and, reduceIte]

/-- Round trip of extZ16. -/
theorem Laws.RoundTrip.extZ16 (d : BitVec 5) (a : BitVec 5) : Laws.RoundTrip.Statement (.extZ16 d a) := by
  intro word hwf henc
  cases (show some (0xd#6 ++ d ++ a ++ 0x0#10 ++ 0x11#6 : Word32) = some word from henc)
  refine decode_of_raw ((raw_0d _ (fld_6_5_5_10_6_26 ..)).trans ?_) hwf
  simp only [decode0D, fld_6_5_5_10_6_0, fld_6_5_5_10_6_6_5_z3, fld_6_5_5_10_6_6, fld_6_5_5_10_6_11_5_z3, fld_6_5_5_10_6_16, fld_6_5_5_10_6_21, BitVec.reduceEq, false_and, and_false, and_self, and_true, true_and, reduceIte]

/-- Round trip of xnor. -/
theorem Laws.RoundTrip.xnor (d : BitVec 5) (a : BitVec 5) (b : BitVec 5) : Laws.RoundTrip.Statement (.xnor d a b) := by
  intro word hwf henc
  cases (show some (0xd#6 ++ d ++ a ++ b ++ 0x0#5 ++ 0x12#6 : Word32) = some word from henc)
  refine decode_of_raw ((raw_0d _ (fld_6_5_5_5_5_6_26 ..)).trans ?_) hwf
  simp only [decode0D, fld_6_5_5_5_5_6_0, fld_6_5_5_5_5_6_6, fld_6_5_5_5_5_6_11, fld_6_5_5_5_5_6_16, fld_6_5_5_5_5_6_21, BitVec.reduceEq, false_and, and_false, and_self, and_true, true_and, reduceIte]

/-- Round trip of ptrunc. -/
theorem Laws.RoundTrip.ptrunc (d : BitVec 5) (a : BitVec 5) (b : BitVec 5) : Laws.RoundTrip.Statement (.ptrunc d a b) := by
  intro word hwf henc
  cases (show some (0xe#6 ++ d ++ a ++ b ++ 0x0#11 : Word32) = some word from henc)
  refine decode_of_raw ((raw_0e _ (fld_6_5_5_5_11_26 ..)).trans ?_) hwf
  simp only [decode0E, fld_6_5_5_5_11_0, fld_6_5_5_5_11_11, fld_6_5_5_5_11_16, fld_6_5_5_5_11_21, BitVec.reduceEq, false_and, and_false, and_self, and_true, true_and, reduceIte]

/-- Round trip of pparent. -/
theorem Laws.RoundTrip.pparent (d : BitVec 5) (a : BitVec 5) : Laws.RoundTrip.Statement (.pparent d a) := by
  intro word hwf henc
  cases (show some (0xe#6 ++ d ++ a ++ 0x0#5 ++ 0x1#11 : Word32) = some word from henc)
  refine decode_of_raw ((raw_0e _ (fld_6_5_5_5_11_26 ..)).trans ?_) hwf
  simp only [decode0E, fld_6_5_5_5_11_0, fld_6_5_5_5_11_11, fld_6_5_5_5_11_16, fld_6_5_5_5_11_21, BitVec.reduceEq, false_and, and_false, and_self, and_true, true_and, reduceIte]

/-- Round trip of pchild. -/
theorem Laws.RoundTrip.pchild (d : BitVec 5) (a : BitVec 5) (b : BitVec 5) : Laws.RoundTrip.Statement (.pchild d a b) := by
  intro word hwf henc
  cases (show some (0xe#6 ++ d ++ a ++ b ++ 0x2#11 : Word32) = some word from henc)
  refine decode_of_raw ((raw_0e _ (fld_6_5_5_5_11_26 ..)).trans ?_) hwf
  simp only [decode0E, fld_6_5_5_5_11_0, fld_6_5_5_5_11_11, fld_6_5_5_5_11_16, fld_6_5_5_5_11_21, BitVec.reduceEq, false_and, and_false, and_self, and_true, true_and, reduceIte]

/-- Round trip of psib. -/
theorem Laws.RoundTrip.psib (d : BitVec 5) (a : BitVec 5) (b : BitVec 5) : Laws.RoundTrip.Statement (.psib d a b) := by
  intro word hwf henc
  cases (show some (0xe#6 ++ d ++ a ++ b ++ 0x3#11 : Word32) = some word from henc)
  refine decode_of_raw ((raw_0e _ (fld_6_5_5_5_11_26 ..)).trans ?_) hwf
  simp only [decode0E, fld_6_5_5_5_11_0, fld_6_5_5_5_11_11, fld_6_5_5_5_11_16, fld_6_5_5_5_11_21, BitVec.reduceEq, false_and, and_false, and_self, and_true, true_and, reduceIte]

/-- Round trip of pnext. -/
theorem Laws.RoundTrip.pnext (d : BitVec 5) (a : BitVec 5) : Laws.RoundTrip.Statement (.pnext d a) := by
  intro word hwf henc
  cases (show some (0xe#6 ++ d ++ a ++ 0x0#5 ++ 0x4#11 : Word32) = some word from henc)
  refine decode_of_raw ((raw_0e _ (fld_6_5_5_5_11_26 ..)).trans ?_) hwf
  simp only [decode0E, fld_6_5_5_5_11_0, fld_6_5_5_5_11_11, fld_6_5_5_5_11_16, fld_6_5_5_5_11_21, BitVec.reduceEq, false_and, and_false, and_self, and_true, true_and, reduceIte]

/-- Round trip of pdig. -/
theorem Laws.RoundTrip.pdig (d : BitVec 5) (a : BitVec 5) (b : BitVec 5) : Laws.RoundTrip.Statement (.pdig d a b) := by
  intro word hwf henc
  cases (show some (0xe#6 ++ d ++ a ++ b ++ 0x5#11 : Word32) = some word from henc)
  refine decode_of_raw ((raw_0e _ (fld_6_5_5_5_11_26 ..)).trans ?_) hwf
  simp only [decode0E, fld_6_5_5_5_11_0, fld_6_5_5_5_11_11, fld_6_5_5_5_11_16, fld_6_5_5_5_11_21, BitVec.reduceEq, false_and, and_false, and_self, and_true, true_and, reduceIte]

/-- Round trip of psdig. -/
theorem Laws.RoundTrip.psdig (d : BitVec 5) (a : BitVec 5) (b : BitVec 5) : Laws.RoundTrip.Statement (.psdig d a b) := by
  intro word hwf henc
  cases (show some (0xe#6 ++ d ++ a ++ b ++ 0x6#11 : Word32) = some word from henc)
  refine decode_of_raw ((raw_0e _ (fld_6_5_5_5_11_26 ..)).trans ?_) hwf
  simp only [decode0E, fld_6_5_5_5_11_0, fld_6_5_5_5_11_11, fld_6_5_5_5_11_16, fld_6_5_5_5_11_21, BitVec.reduceEq, false_and, and_false, and_self, and_true, true_and, reduceIte]

/-- Round trip of pin. -/
theorem Laws.RoundTrip.pin (d : BitVec 5) (a : BitVec 5) (b : BitVec 5) : Laws.RoundTrip.Statement (.pin d a b) := by
  intro word hwf henc
  cases (show some (0xe#6 ++ d ++ a ++ b ++ 0x7#11 : Word32) = some word from henc)
  refine decode_of_raw ((raw_0e _ (fld_6_5_5_5_11_26 ..)).trans ?_) hwf
  simp only [decode0E, fld_6_5_5_5_11_0, fld_6_5_5_5_11_11, fld_6_5_5_5_11_16, fld_6_5_5_5_11_21, BitVec.reduceEq, false_and, and_false, and_self, and_true, true_and, reduceIte]

/-- Round trip of plevel. -/
theorem Laws.RoundTrip.plevel (d : BitVec 5) (a : BitVec 5) : Laws.RoundTrip.Statement (.plevel d a) := by
  intro word hwf henc
  cases (show some (0xe#6 ++ d ++ a ++ 0x0#5 ++ 0x8#11 : Word32) = some word from henc)
  refine decode_of_raw ((raw_0e _ (fld_6_5_5_5_11_26 ..)).trans ?_) hwf
  simp only [decode0E, fld_6_5_5_5_11_0, fld_6_5_5_5_11_11, fld_6_5_5_5_11_16, fld_6_5_5_5_11_21, BitVec.reduceEq, false_and, and_false, and_self, and_true, true_and, reduceIte]

/-- Round trip of pesz. -/
theorem Laws.RoundTrip.pesz (d : BitVec 5) (a : BitVec 5) : Laws.RoundTrip.Statement (.pesz d a) := by
  intro word hwf henc
  cases (show some (0xe#6 ++ d ++ a ++ 0x0#5 ++ 0x9#11 : Word32) = some word from henc)
  refine decode_of_raw ((raw_0e _ (fld_6_5_5_5_11_26 ..)).trans ?_) hwf
  simp only [decode0E, fld_6_5_5_5_11_0, fld_6_5_5_5_11_11, fld_6_5_5_5_11_16, fld_6_5_5_5_11_21, BitVec.reduceEq, false_and, and_false, and_self, and_true, true_and, reduceIte]

/-- Round trip of pbase. -/
theorem Laws.RoundTrip.pbase (d : BitVec 5) (a : BitVec 5) : Laws.RoundTrip.Statement (.pbase d a) := by
  intro word hwf henc
  cases (show some (0xe#6 ++ d ++ a ++ 0x0#5 ++ 0xa#11 : Word32) = some word from henc)
  refine decode_of_raw ((raw_0e _ (fld_6_5_5_5_11_26 ..)).trans ?_) hwf
  simp only [decode0E, fld_6_5_5_5_11_0, fld_6_5_5_5_11_11, fld_6_5_5_5_11_16, fld_6_5_5_5_11_21, BitVec.reduceEq, false_and, and_false, and_self, and_true, true_and, reduceIte]

/-- Round trip of pmake. -/
theorem Laws.RoundTrip.pmake (d : BitVec 5) (a : BitVec 5) (b : BitVec 5) : Laws.RoundTrip.Statement (.pmake d a b) := by
  intro word hwf henc
  cases (show some (0xe#6 ++ d ++ a ++ b ++ 0xb#11 : Word32) = some word from henc)
  refine decode_of_raw ((raw_0e _ (fld_6_5_5_5_11_26 ..)).trans ?_) hwf
  simp only [decode0E, fld_6_5_5_5_11_0, fld_6_5_5_5_11_11, fld_6_5_5_5_11_16, fld_6_5_5_5_11_21, BitVec.reduceEq, false_and, and_false, and_self, and_true, true_and, reduceIte]

/-- Round trip of ppack. -/
theorem Laws.RoundTrip.ppack (d : BitVec 5) (a : BitVec 5) (b : BitVec 5) : Laws.RoundTrip.Statement (.ppack d a b) := by
  intro word hwf henc
  cases (show some (0xe#6 ++ d ++ a ++ b ++ 0xc#11 : Word32) = some word from henc)
  refine decode_of_raw ((raw_0e _ (fld_6_5_5_5_11_26 ..)).trans ?_) hwf
  simp only [decode0E, fld_6_5_5_5_11_0, fld_6_5_5_5_11_11, fld_6_5_5_5_11_16, fld_6_5_5_5_11_21, BitVec.reduceEq, false_and, and_false, and_self, and_true, true_and, reduceIte]

/-- Round trip of prow. -/
theorem Laws.RoundTrip.prow (d : BitVec 5) (a : BitVec 5) : Laws.RoundTrip.Statement (.prow d a) := by
  intro word hwf henc
  cases (show some (0xe#6 ++ d ++ a ++ 0x0#5 ++ 0xd#11 : Word32) = some word from henc)
  refine decode_of_raw ((raw_0e _ (fld_6_5_5_5_11_26 ..)).trans ?_) hwf
  simp only [decode0E, fld_6_5_5_5_11_0, fld_6_5_5_5_11_11, fld_6_5_5_5_11_16, fld_6_5_5_5_11_21, BitVec.reduceEq, false_and, and_false, and_self, and_true, true_and, reduceIte]

/-- Round trip of pcol. -/
theorem Laws.RoundTrip.pcol (d : BitVec 5) (a : BitVec 5) : Laws.RoundTrip.Statement (.pcol d a) := by
  intro word hwf henc
  cases (show some (0xe#6 ++ d ++ a ++ 0x0#5 ++ 0xe#11 : Word32) = some word from henc)
  refine decode_of_raw ((raw_0e _ (fld_6_5_5_5_11_26 ..)).trans ?_) hwf
  simp only [decode0E, fld_6_5_5_5_11_0, fld_6_5_5_5_11_11, fld_6_5_5_5_11_16, fld_6_5_5_5_11_21, BitVec.reduceEq, false_and, and_false, and_self, and_true, true_and, reduceIte]

/-- Round trip of ldB. -/
theorem Laws.RoundTrip.ldB (d : BitVec 5) (a : BitVec 5) (i : BitVec 16) : Laws.RoundTrip.Statement (.ldB d a i) := by
  intro word hwf henc
  cases (show some (0x10#6 ++ d ++ a ++ i : Word32) = some word from henc)
  refine decode_of_raw ((raw_10 _ (fld_6_5_5_16_26 ..)).trans ?_) hwf
  simp only [fld_6_5_5_16_0, fld_6_5_5_16_16, fld_6_5_5_16_21, BitVec.reduceEq, false_and, and_false, and_self, and_true, true_and, reduceIte]

/-- Round trip of ldH. -/
theorem Laws.RoundTrip.ldH (d : BitVec 5) (a : BitVec 5) (i : BitVec 16) : Laws.RoundTrip.Statement (.ldH d a i) := by
  intro word hwf henc
  cases (show some (0x11#6 ++ d ++ a ++ i : Word32) = some word from henc)
  refine decode_of_raw ((raw_11 _ (fld_6_5_5_16_26 ..)).trans ?_) hwf
  simp only [fld_6_5_5_16_0, fld_6_5_5_16_16, fld_6_5_5_16_21, BitVec.reduceEq, false_and, and_false, and_self, and_true, true_and, reduceIte]

/-- Round trip of ldW. -/
theorem Laws.RoundTrip.ldW (d : BitVec 5) (a : BitVec 5) (i : BitVec 16) : Laws.RoundTrip.Statement (.ldW d a i) := by
  intro word hwf henc
  cases (show some (0x12#6 ++ d ++ a ++ i : Word32) = some word from henc)
  refine decode_of_raw ((raw_12 _ (fld_6_5_5_16_26 ..)).trans ?_) hwf
  simp only [fld_6_5_5_16_0, fld_6_5_5_16_16, fld_6_5_5_16_21, BitVec.reduceEq, false_and, and_false, and_self, and_true, true_and, reduceIte]

/-- Round trip of ldD. -/
theorem Laws.RoundTrip.ldD (d : BitVec 5) (a : BitVec 5) (i : BitVec 16) : Laws.RoundTrip.Statement (.ldD d a i) := by
  intro word hwf henc
  cases (show some (0x13#6 ++ d ++ a ++ i : Word32) = some word from henc)
  refine decode_of_raw ((raw_13 _ (fld_6_5_5_16_26 ..)).trans ?_) hwf
  simp only [fld_6_5_5_16_0, fld_6_5_5_16_16, fld_6_5_5_16_21, BitVec.reduceEq, false_and, and_false, and_self, and_true, true_and, reduceIte]

/-- Round trip of ldBz. -/
theorem Laws.RoundTrip.ldBz (d : BitVec 5) (a : BitVec 5) (i : BitVec 16) : Laws.RoundTrip.Statement (.ldBz d a i) := by
  intro word hwf henc
  cases (show some (0x14#6 ++ d ++ a ++ i : Word32) = some word from henc)
  refine decode_of_raw ((raw_14 _ (fld_6_5_5_16_26 ..)).trans ?_) hwf
  simp only [fld_6_5_5_16_0, fld_6_5_5_16_16, fld_6_5_5_16_21, BitVec.reduceEq, false_and, and_false, and_self, and_true, true_and, reduceIte]

/-- Round trip of ldHz. -/
theorem Laws.RoundTrip.ldHz (d : BitVec 5) (a : BitVec 5) (i : BitVec 16) : Laws.RoundTrip.Statement (.ldHz d a i) := by
  intro word hwf henc
  cases (show some (0x15#6 ++ d ++ a ++ i : Word32) = some word from henc)
  refine decode_of_raw ((raw_15 _ (fld_6_5_5_16_26 ..)).trans ?_) hwf
  simp only [fld_6_5_5_16_0, fld_6_5_5_16_16, fld_6_5_5_16_21, BitVec.reduceEq, false_and, and_false, and_self, and_true, true_and, reduceIte]

/-- Round trip of ldWz. -/
theorem Laws.RoundTrip.ldWz (d : BitVec 5) (a : BitVec 5) (i : BitVec 16) : Laws.RoundTrip.Statement (.ldWz d a i) := by
  intro word hwf henc
  cases (show some (0x16#6 ++ d ++ a ++ i : Word32) = some word from henc)
  refine decode_of_raw ((raw_16 _ (fld_6_5_5_16_26 ..)).trans ?_) hwf
  simp only [fld_6_5_5_16_0, fld_6_5_5_16_16, fld_6_5_5_16_21, BitVec.reduceEq, false_and, and_false, and_self, and_true, true_and, reduceIte]

/-- Round trip of stB. -/
theorem Laws.RoundTrip.stB (b : BitVec 5) (a : BitVec 5) (i : BitVec 16) : Laws.RoundTrip.Statement (.stB b a i) := by
  intro word hwf henc
  cases (show some (0x18#6 ++ b ++ a ++ i : Word32) = some word from henc)
  refine decode_of_raw ((raw_18 _ (fld_6_5_5_16_26 ..)).trans ?_) hwf
  simp only [fld_6_5_5_16_0, fld_6_5_5_16_16, fld_6_5_5_16_21, BitVec.reduceEq, false_and, and_false, and_self, and_true, true_and, reduceIte]

/-- Round trip of stH. -/
theorem Laws.RoundTrip.stH (b : BitVec 5) (a : BitVec 5) (i : BitVec 16) : Laws.RoundTrip.Statement (.stH b a i) := by
  intro word hwf henc
  cases (show some (0x19#6 ++ b ++ a ++ i : Word32) = some word from henc)
  refine decode_of_raw ((raw_19 _ (fld_6_5_5_16_26 ..)).trans ?_) hwf
  simp only [fld_6_5_5_16_0, fld_6_5_5_16_16, fld_6_5_5_16_21, BitVec.reduceEq, false_and, and_false, and_self, and_true, true_and, reduceIte]

/-- Round trip of stW. -/
theorem Laws.RoundTrip.stW (b : BitVec 5) (a : BitVec 5) (i : BitVec 16) : Laws.RoundTrip.Statement (.stW b a i) := by
  intro word hwf henc
  cases (show some (0x1a#6 ++ b ++ a ++ i : Word32) = some word from henc)
  refine decode_of_raw ((raw_1a _ (fld_6_5_5_16_26 ..)).trans ?_) hwf
  simp only [fld_6_5_5_16_0, fld_6_5_5_16_16, fld_6_5_5_16_21, BitVec.reduceEq, false_and, and_false, and_self, and_true, true_and, reduceIte]

/-- Round trip of stD. -/
theorem Laws.RoundTrip.stD (b : BitVec 5) (a : BitVec 5) (i : BitVec 16) : Laws.RoundTrip.Statement (.stD b a i) := by
  intro word hwf henc
  cases (show some (0x1b#6 ++ b ++ a ++ i : Word32) = some word from henc)
  refine decode_of_raw ((raw_1b _ (fld_6_5_5_16_26 ..)).trans ?_) hwf
  simp only [fld_6_5_5_16_0, fld_6_5_5_16_16, fld_6_5_5_16_21, BitVec.reduceEq, false_and, and_false, and_self, and_true, true_and, reduceIte]

/-- Round trip of bld. -/
theorem Laws.RoundTrip.bld (d : BitVec 5) (a : BitVec 5) : Laws.RoundTrip.Statement (.bld d a) := by
  intro word hwf henc
  cases (show some (0x1c#6 ++ d ++ a ++ 0x0#5 ++ 0x0#11 : Word32) = some word from henc)
  refine decode_of_raw ((raw_1c _ (fld_6_5_5_5_11_26 ..)).trans ?_) hwf
  simp only [decode1C, fld_6_5_5_5_11_0, fld_6_5_5_5_11_11, fld_6_5_5_5_11_16, fld_6_5_5_5_11_21, BitVec.reduceEq, false_and, and_false, and_self, and_true, true_and, reduceIte]

/-- Round trip of bst. -/
theorem Laws.RoundTrip.bst (d : BitVec 5) (a : BitVec 5) : Laws.RoundTrip.Statement (.bst d a) := by
  intro word hwf henc
  cases (show some (0x1c#6 ++ d ++ a ++ 0x0#5 ++ 0x1#11 : Word32) = some word from henc)
  refine decode_of_raw ((raw_1c _ (fld_6_5_5_5_11_26 ..)).trans ?_) hwf
  simp only [decode1C, fld_6_5_5_5_11_0, fld_6_5_5_5_11_11, fld_6_5_5_5_11_16, fld_6_5_5_5_11_21, BitVec.reduceEq, false_and, and_false, and_self, and_true, true_and, reduceIte]

/-- Round trip of bcopy. -/
theorem Laws.RoundTrip.bcopy (d : BitVec 5) (a : BitVec 5) : Laws.RoundTrip.Statement (.bcopy d a) := by
  intro word hwf henc
  cases (show some (0x1c#6 ++ d ++ a ++ 0x0#5 ++ 0x2#11 : Word32) = some word from henc)
  refine decode_of_raw ((raw_1c _ (fld_6_5_5_5_11_26 ..)).trans ?_) hwf
  simp only [decode1C, fld_6_5_5_5_11_0, fld_6_5_5_5_11_11, fld_6_5_5_5_11_16, fld_6_5_5_5_11_21, BitVec.reduceEq, false_and, and_false, and_self, and_true, true_and, reduceIte]

/-- Round trip of bfill. -/
theorem Laws.RoundTrip.bfill (d : BitVec 5) (a : BitVec 5) : Laws.RoundTrip.Statement (.bfill d a) := by
  intro word hwf henc
  cases (show some (0x1c#6 ++ d ++ a ++ 0x0#5 ++ 0x3#11 : Word32) = some word from henc)
  refine decode_of_raw ((raw_1c _ (fld_6_5_5_5_11_26 ..)).trans ?_) hwf
  simp only [decode1C, fld_6_5_5_5_11_0, fld_6_5_5_5_11_11, fld_6_5_5_5_11_16, fld_6_5_5_5_11_21, BitVec.reduceEq, false_and, and_false, and_self, and_true, true_and, reduceIte]

/-- Round trip of bzero. -/
theorem Laws.RoundTrip.bzero (d : BitVec 5) : Laws.RoundTrip.Statement (.bzero d) := by
  intro word hwf henc
  cases (show some (0x1c#6 ++ d ++ 0x0#10 ++ 0x4#11 : Word32) = some word from henc)
  refine decode_of_raw ((raw_1c _ (fld_6_5_10_11_26 ..)).trans ?_) hwf
  simp only [decode1C, fld_6_5_10_11_0, fld_6_5_10_11_11_5_z2, fld_6_5_10_11_11, fld_6_5_10_11_16_5_z2, fld_6_5_10_11_21, BitVec.reduceEq, false_and, and_false, and_self, and_true, true_and, reduceIte]

/-- Round trip of bpref. -/
theorem Laws.RoundTrip.bpref (d : BitVec 5) : Laws.RoundTrip.Statement (.bpref d) := by
  intro word hwf henc
  cases (show some (0x1c#6 ++ d ++ 0x0#10 ++ 0x5#11 : Word32) = some word from henc)
  refine decode_of_raw ((raw_1c _ (fld_6_5_10_11_26 ..)).trans ?_) hwf
  simp only [decode1C, fld_6_5_10_11_0, fld_6_5_10_11_11_5_z2, fld_6_5_10_11_11, fld_6_5_10_11_16_5_z2, fld_6_5_10_11_21, BitVec.reduceEq, false_and, and_false, and_self, and_true, true_and, reduceIte]

/-- Round trip of bclean. -/
theorem Laws.RoundTrip.bclean (d : BitVec 5) : Laws.RoundTrip.Statement (.bclean d) := by
  intro word hwf henc
  cases (show some (0x1c#6 ++ d ++ 0x0#10 ++ 0x6#11 : Word32) = some word from henc)
  refine decode_of_raw ((raw_1c _ (fld_6_5_10_11_26 ..)).trans ?_) hwf
  simp only [decode1C, fld_6_5_10_11_0, fld_6_5_10_11_11_5_z2, fld_6_5_10_11_11, fld_6_5_10_11_16_5_z2, fld_6_5_10_11_21, BitVec.reduceEq, false_and, and_false, and_self, and_true, true_and, reduceIte]

/-- Round trip of bflush. -/
theorem Laws.RoundTrip.bflush (d : BitVec 5) : Laws.RoundTrip.Statement (.bflush d) := by
  intro word hwf henc
  cases (show some (0x1c#6 ++ d ++ 0x0#10 ++ 0x7#11 : Word32) = some word from henc)
  refine decode_of_raw ((raw_1c _ (fld_6_5_10_11_26 ..)).trans ?_) hwf
  simp only [decode1C, fld_6_5_10_11_0, fld_6_5_10_11_11_5_z2, fld_6_5_10_11_11, fld_6_5_10_11_16_5_z2, fld_6_5_10_11_21, BitVec.reduceEq, false_and, and_false, and_self, and_true, true_and, reduceIte]

/-- Round trip of amoAddW. -/
theorem Laws.RoundTrip.amoAddW (d : BitVec 5) (a : BitVec 5) (b : BitVec 5) (ord : MOrd) (sc : Scope) : Laws.RoundTrip.Statement (.amoAddW d a b ord sc) := by
  intro word hwf henc
  cases (show some (0x1d#6 ++ d ++ a ++ b ++ 0x0#6 ++ ord.code ++ sc.code : Word32) = some word from henc)
  refine decode_of_raw ((raw_1d _ (fld_6_5_5_5_6_2_3_26 ..)).trans ?_) hwf
  simp only [decode1D, fld_6_5_5_5_6_2_3_0, fld_6_5_5_5_6_2_3_3, fld_6_5_5_5_6_2_3_5, fld_6_5_5_5_6_2_3_11, fld_6_5_5_5_6_2_3_16, fld_6_5_5_5_6_2_3_21, MOrd.ofCode_code, Scope.ofCode_code, Option.map_some, Option.bind_some, BitVec.reduceEq, false_and, and_false, and_self, and_true, true_and, reduceIte]

/-- Round trip of amoAddD. -/
theorem Laws.RoundTrip.amoAddD (d : BitVec 5) (a : BitVec 5) (b : BitVec 5) (ord : MOrd) (sc : Scope) : Laws.RoundTrip.Statement (.amoAddD d a b ord sc) := by
  intro word hwf henc
  cases (show some (0x1d#6 ++ d ++ a ++ b ++ 0x20#6 ++ ord.code ++ sc.code : Word32) = some word from henc)
  refine decode_of_raw ((raw_1d _ (fld_6_5_5_5_6_2_3_26 ..)).trans ?_) hwf
  simp only [decode1D, fld_6_5_5_5_6_2_3_0, fld_6_5_5_5_6_2_3_3, fld_6_5_5_5_6_2_3_5, fld_6_5_5_5_6_2_3_11, fld_6_5_5_5_6_2_3_16, fld_6_5_5_5_6_2_3_21, MOrd.ofCode_code, Scope.ofCode_code, Option.map_some, Option.bind_some, BitVec.reduceEq, false_and, and_false, and_self, and_true, true_and, reduceIte]

/-- Round trip of amoMinW. -/
theorem Laws.RoundTrip.amoMinW (d : BitVec 5) (a : BitVec 5) (b : BitVec 5) (ord : MOrd) (sc : Scope) : Laws.RoundTrip.Statement (.amoMinW d a b ord sc) := by
  intro word hwf henc
  cases (show some (0x1d#6 ++ d ++ a ++ b ++ 0x1#6 ++ ord.code ++ sc.code : Word32) = some word from henc)
  refine decode_of_raw ((raw_1d _ (fld_6_5_5_5_6_2_3_26 ..)).trans ?_) hwf
  simp only [decode1D, fld_6_5_5_5_6_2_3_0, fld_6_5_5_5_6_2_3_3, fld_6_5_5_5_6_2_3_5, fld_6_5_5_5_6_2_3_11, fld_6_5_5_5_6_2_3_16, fld_6_5_5_5_6_2_3_21, MOrd.ofCode_code, Scope.ofCode_code, Option.map_some, Option.bind_some, BitVec.reduceEq, false_and, and_false, and_self, and_true, true_and, reduceIte]

/-- Round trip of amoMinD. -/
theorem Laws.RoundTrip.amoMinD (d : BitVec 5) (a : BitVec 5) (b : BitVec 5) (ord : MOrd) (sc : Scope) : Laws.RoundTrip.Statement (.amoMinD d a b ord sc) := by
  intro word hwf henc
  cases (show some (0x1d#6 ++ d ++ a ++ b ++ 0x21#6 ++ ord.code ++ sc.code : Word32) = some word from henc)
  refine decode_of_raw ((raw_1d _ (fld_6_5_5_5_6_2_3_26 ..)).trans ?_) hwf
  simp only [decode1D, fld_6_5_5_5_6_2_3_0, fld_6_5_5_5_6_2_3_3, fld_6_5_5_5_6_2_3_5, fld_6_5_5_5_6_2_3_11, fld_6_5_5_5_6_2_3_16, fld_6_5_5_5_6_2_3_21, MOrd.ofCode_code, Scope.ofCode_code, Option.map_some, Option.bind_some, BitVec.reduceEq, false_and, and_false, and_self, and_true, true_and, reduceIte]

/-- Round trip of amoMaxW. -/
theorem Laws.RoundTrip.amoMaxW (d : BitVec 5) (a : BitVec 5) (b : BitVec 5) (ord : MOrd) (sc : Scope) : Laws.RoundTrip.Statement (.amoMaxW d a b ord sc) := by
  intro word hwf henc
  cases (show some (0x1d#6 ++ d ++ a ++ b ++ 0x2#6 ++ ord.code ++ sc.code : Word32) = some word from henc)
  refine decode_of_raw ((raw_1d _ (fld_6_5_5_5_6_2_3_26 ..)).trans ?_) hwf
  simp only [decode1D, fld_6_5_5_5_6_2_3_0, fld_6_5_5_5_6_2_3_3, fld_6_5_5_5_6_2_3_5, fld_6_5_5_5_6_2_3_11, fld_6_5_5_5_6_2_3_16, fld_6_5_5_5_6_2_3_21, MOrd.ofCode_code, Scope.ofCode_code, Option.map_some, Option.bind_some, BitVec.reduceEq, false_and, and_false, and_self, and_true, true_and, reduceIte]

/-- Round trip of amoMaxD. -/
theorem Laws.RoundTrip.amoMaxD (d : BitVec 5) (a : BitVec 5) (b : BitVec 5) (ord : MOrd) (sc : Scope) : Laws.RoundTrip.Statement (.amoMaxD d a b ord sc) := by
  intro word hwf henc
  cases (show some (0x1d#6 ++ d ++ a ++ b ++ 0x22#6 ++ ord.code ++ sc.code : Word32) = some word from henc)
  refine decode_of_raw ((raw_1d _ (fld_6_5_5_5_6_2_3_26 ..)).trans ?_) hwf
  simp only [decode1D, fld_6_5_5_5_6_2_3_0, fld_6_5_5_5_6_2_3_3, fld_6_5_5_5_6_2_3_5, fld_6_5_5_5_6_2_3_11, fld_6_5_5_5_6_2_3_16, fld_6_5_5_5_6_2_3_21, MOrd.ofCode_code, Scope.ofCode_code, Option.map_some, Option.bind_some, BitVec.reduceEq, false_and, and_false, and_self, and_true, true_and, reduceIte]

/-- Round trip of amoMinuW. -/
theorem Laws.RoundTrip.amoMinuW (d : BitVec 5) (a : BitVec 5) (b : BitVec 5) (ord : MOrd) (sc : Scope) : Laws.RoundTrip.Statement (.amoMinuW d a b ord sc) := by
  intro word hwf henc
  cases (show some (0x1d#6 ++ d ++ a ++ b ++ 0x3#6 ++ ord.code ++ sc.code : Word32) = some word from henc)
  refine decode_of_raw ((raw_1d _ (fld_6_5_5_5_6_2_3_26 ..)).trans ?_) hwf
  simp only [decode1D, fld_6_5_5_5_6_2_3_0, fld_6_5_5_5_6_2_3_3, fld_6_5_5_5_6_2_3_5, fld_6_5_5_5_6_2_3_11, fld_6_5_5_5_6_2_3_16, fld_6_5_5_5_6_2_3_21, MOrd.ofCode_code, Scope.ofCode_code, Option.map_some, Option.bind_some, BitVec.reduceEq, false_and, and_false, and_self, and_true, true_and, reduceIte]

/-- Round trip of amoMinuD. -/
theorem Laws.RoundTrip.amoMinuD (d : BitVec 5) (a : BitVec 5) (b : BitVec 5) (ord : MOrd) (sc : Scope) : Laws.RoundTrip.Statement (.amoMinuD d a b ord sc) := by
  intro word hwf henc
  cases (show some (0x1d#6 ++ d ++ a ++ b ++ 0x23#6 ++ ord.code ++ sc.code : Word32) = some word from henc)
  refine decode_of_raw ((raw_1d _ (fld_6_5_5_5_6_2_3_26 ..)).trans ?_) hwf
  simp only [decode1D, fld_6_5_5_5_6_2_3_0, fld_6_5_5_5_6_2_3_3, fld_6_5_5_5_6_2_3_5, fld_6_5_5_5_6_2_3_11, fld_6_5_5_5_6_2_3_16, fld_6_5_5_5_6_2_3_21, MOrd.ofCode_code, Scope.ofCode_code, Option.map_some, Option.bind_some, BitVec.reduceEq, false_and, and_false, and_self, and_true, true_and, reduceIte]

/-- Round trip of amoMaxuW. -/
theorem Laws.RoundTrip.amoMaxuW (d : BitVec 5) (a : BitVec 5) (b : BitVec 5) (ord : MOrd) (sc : Scope) : Laws.RoundTrip.Statement (.amoMaxuW d a b ord sc) := by
  intro word hwf henc
  cases (show some (0x1d#6 ++ d ++ a ++ b ++ 0x4#6 ++ ord.code ++ sc.code : Word32) = some word from henc)
  refine decode_of_raw ((raw_1d _ (fld_6_5_5_5_6_2_3_26 ..)).trans ?_) hwf
  simp only [decode1D, fld_6_5_5_5_6_2_3_0, fld_6_5_5_5_6_2_3_3, fld_6_5_5_5_6_2_3_5, fld_6_5_5_5_6_2_3_11, fld_6_5_5_5_6_2_3_16, fld_6_5_5_5_6_2_3_21, MOrd.ofCode_code, Scope.ofCode_code, Option.map_some, Option.bind_some, BitVec.reduceEq, false_and, and_false, and_self, and_true, true_and, reduceIte]

/-- Round trip of amoMaxuD. -/
theorem Laws.RoundTrip.amoMaxuD (d : BitVec 5) (a : BitVec 5) (b : BitVec 5) (ord : MOrd) (sc : Scope) : Laws.RoundTrip.Statement (.amoMaxuD d a b ord sc) := by
  intro word hwf henc
  cases (show some (0x1d#6 ++ d ++ a ++ b ++ 0x24#6 ++ ord.code ++ sc.code : Word32) = some word from henc)
  refine decode_of_raw ((raw_1d _ (fld_6_5_5_5_6_2_3_26 ..)).trans ?_) hwf
  simp only [decode1D, fld_6_5_5_5_6_2_3_0, fld_6_5_5_5_6_2_3_3, fld_6_5_5_5_6_2_3_5, fld_6_5_5_5_6_2_3_11, fld_6_5_5_5_6_2_3_16, fld_6_5_5_5_6_2_3_21, MOrd.ofCode_code, Scope.ofCode_code, Option.map_some, Option.bind_some, BitVec.reduceEq, false_and, and_false, and_self, and_true, true_and, reduceIte]

/-- Round trip of amoAndW. -/
theorem Laws.RoundTrip.amoAndW (d : BitVec 5) (a : BitVec 5) (b : BitVec 5) (ord : MOrd) (sc : Scope) : Laws.RoundTrip.Statement (.amoAndW d a b ord sc) := by
  intro word hwf henc
  cases (show some (0x1d#6 ++ d ++ a ++ b ++ 0x5#6 ++ ord.code ++ sc.code : Word32) = some word from henc)
  refine decode_of_raw ((raw_1d _ (fld_6_5_5_5_6_2_3_26 ..)).trans ?_) hwf
  simp only [decode1D, fld_6_5_5_5_6_2_3_0, fld_6_5_5_5_6_2_3_3, fld_6_5_5_5_6_2_3_5, fld_6_5_5_5_6_2_3_11, fld_6_5_5_5_6_2_3_16, fld_6_5_5_5_6_2_3_21, MOrd.ofCode_code, Scope.ofCode_code, Option.map_some, Option.bind_some, BitVec.reduceEq, false_and, and_false, and_self, and_true, true_and, reduceIte]

/-- Round trip of amoAndD. -/
theorem Laws.RoundTrip.amoAndD (d : BitVec 5) (a : BitVec 5) (b : BitVec 5) (ord : MOrd) (sc : Scope) : Laws.RoundTrip.Statement (.amoAndD d a b ord sc) := by
  intro word hwf henc
  cases (show some (0x1d#6 ++ d ++ a ++ b ++ 0x25#6 ++ ord.code ++ sc.code : Word32) = some word from henc)
  refine decode_of_raw ((raw_1d _ (fld_6_5_5_5_6_2_3_26 ..)).trans ?_) hwf
  simp only [decode1D, fld_6_5_5_5_6_2_3_0, fld_6_5_5_5_6_2_3_3, fld_6_5_5_5_6_2_3_5, fld_6_5_5_5_6_2_3_11, fld_6_5_5_5_6_2_3_16, fld_6_5_5_5_6_2_3_21, MOrd.ofCode_code, Scope.ofCode_code, Option.map_some, Option.bind_some, BitVec.reduceEq, false_and, and_false, and_self, and_true, true_and, reduceIte]

/-- Round trip of amoOrW. -/
theorem Laws.RoundTrip.amoOrW (d : BitVec 5) (a : BitVec 5) (b : BitVec 5) (ord : MOrd) (sc : Scope) : Laws.RoundTrip.Statement (.amoOrW d a b ord sc) := by
  intro word hwf henc
  cases (show some (0x1d#6 ++ d ++ a ++ b ++ 0x6#6 ++ ord.code ++ sc.code : Word32) = some word from henc)
  refine decode_of_raw ((raw_1d _ (fld_6_5_5_5_6_2_3_26 ..)).trans ?_) hwf
  simp only [decode1D, fld_6_5_5_5_6_2_3_0, fld_6_5_5_5_6_2_3_3, fld_6_5_5_5_6_2_3_5, fld_6_5_5_5_6_2_3_11, fld_6_5_5_5_6_2_3_16, fld_6_5_5_5_6_2_3_21, MOrd.ofCode_code, Scope.ofCode_code, Option.map_some, Option.bind_some, BitVec.reduceEq, false_and, and_false, and_self, and_true, true_and, reduceIte]

/-- Round trip of amoOrD. -/
theorem Laws.RoundTrip.amoOrD (d : BitVec 5) (a : BitVec 5) (b : BitVec 5) (ord : MOrd) (sc : Scope) : Laws.RoundTrip.Statement (.amoOrD d a b ord sc) := by
  intro word hwf henc
  cases (show some (0x1d#6 ++ d ++ a ++ b ++ 0x26#6 ++ ord.code ++ sc.code : Word32) = some word from henc)
  refine decode_of_raw ((raw_1d _ (fld_6_5_5_5_6_2_3_26 ..)).trans ?_) hwf
  simp only [decode1D, fld_6_5_5_5_6_2_3_0, fld_6_5_5_5_6_2_3_3, fld_6_5_5_5_6_2_3_5, fld_6_5_5_5_6_2_3_11, fld_6_5_5_5_6_2_3_16, fld_6_5_5_5_6_2_3_21, MOrd.ofCode_code, Scope.ofCode_code, Option.map_some, Option.bind_some, BitVec.reduceEq, false_and, and_false, and_self, and_true, true_and, reduceIte]

/-- Round trip of amoXorW. -/
theorem Laws.RoundTrip.amoXorW (d : BitVec 5) (a : BitVec 5) (b : BitVec 5) (ord : MOrd) (sc : Scope) : Laws.RoundTrip.Statement (.amoXorW d a b ord sc) := by
  intro word hwf henc
  cases (show some (0x1d#6 ++ d ++ a ++ b ++ 0x7#6 ++ ord.code ++ sc.code : Word32) = some word from henc)
  refine decode_of_raw ((raw_1d _ (fld_6_5_5_5_6_2_3_26 ..)).trans ?_) hwf
  simp only [decode1D, fld_6_5_5_5_6_2_3_0, fld_6_5_5_5_6_2_3_3, fld_6_5_5_5_6_2_3_5, fld_6_5_5_5_6_2_3_11, fld_6_5_5_5_6_2_3_16, fld_6_5_5_5_6_2_3_21, MOrd.ofCode_code, Scope.ofCode_code, Option.map_some, Option.bind_some, BitVec.reduceEq, false_and, and_false, and_self, and_true, true_and, reduceIte]

/-- Round trip of amoXorD. -/
theorem Laws.RoundTrip.amoXorD (d : BitVec 5) (a : BitVec 5) (b : BitVec 5) (ord : MOrd) (sc : Scope) : Laws.RoundTrip.Statement (.amoXorD d a b ord sc) := by
  intro word hwf henc
  cases (show some (0x1d#6 ++ d ++ a ++ b ++ 0x27#6 ++ ord.code ++ sc.code : Word32) = some word from henc)
  refine decode_of_raw ((raw_1d _ (fld_6_5_5_5_6_2_3_26 ..)).trans ?_) hwf
  simp only [decode1D, fld_6_5_5_5_6_2_3_0, fld_6_5_5_5_6_2_3_3, fld_6_5_5_5_6_2_3_5, fld_6_5_5_5_6_2_3_11, fld_6_5_5_5_6_2_3_16, fld_6_5_5_5_6_2_3_21, MOrd.ofCode_code, Scope.ofCode_code, Option.map_some, Option.bind_some, BitVec.reduceEq, false_and, and_false, and_self, and_true, true_and, reduceIte]

/-- Round trip of amoSwapW. -/
theorem Laws.RoundTrip.amoSwapW (d : BitVec 5) (a : BitVec 5) (b : BitVec 5) (ord : MOrd) (sc : Scope) : Laws.RoundTrip.Statement (.amoSwapW d a b ord sc) := by
  intro word hwf henc
  cases (show some (0x1d#6 ++ d ++ a ++ b ++ 0x8#6 ++ ord.code ++ sc.code : Word32) = some word from henc)
  refine decode_of_raw ((raw_1d _ (fld_6_5_5_5_6_2_3_26 ..)).trans ?_) hwf
  simp only [decode1D, fld_6_5_5_5_6_2_3_0, fld_6_5_5_5_6_2_3_3, fld_6_5_5_5_6_2_3_5, fld_6_5_5_5_6_2_3_11, fld_6_5_5_5_6_2_3_16, fld_6_5_5_5_6_2_3_21, MOrd.ofCode_code, Scope.ofCode_code, Option.map_some, Option.bind_some, BitVec.reduceEq, false_and, and_false, and_self, and_true, true_and, reduceIte]

/-- Round trip of amoSwapD. -/
theorem Laws.RoundTrip.amoSwapD (d : BitVec 5) (a : BitVec 5) (b : BitVec 5) (ord : MOrd) (sc : Scope) : Laws.RoundTrip.Statement (.amoSwapD d a b ord sc) := by
  intro word hwf henc
  cases (show some (0x1d#6 ++ d ++ a ++ b ++ 0x28#6 ++ ord.code ++ sc.code : Word32) = some word from henc)
  refine decode_of_raw ((raw_1d _ (fld_6_5_5_5_6_2_3_26 ..)).trans ?_) hwf
  simp only [decode1D, fld_6_5_5_5_6_2_3_0, fld_6_5_5_5_6_2_3_3, fld_6_5_5_5_6_2_3_5, fld_6_5_5_5_6_2_3_11, fld_6_5_5_5_6_2_3_16, fld_6_5_5_5_6_2_3_21, MOrd.ofCode_code, Scope.ofCode_code, Option.map_some, Option.bind_some, BitVec.reduceEq, false_and, and_false, and_self, and_true, true_and, reduceIte]

/-- Round trip of amoCasW. -/
theorem Laws.RoundTrip.amoCasW (d : BitVec 5) (a : BitVec 5) (b : BitVec 5) (ord : MOrd) (sc : Scope) : Laws.RoundTrip.Statement (.amoCasW d a b ord sc) := by
  intro word hwf henc
  cases (show some (0x1d#6 ++ d ++ a ++ b ++ 0x9#6 ++ ord.code ++ sc.code : Word32) = some word from henc)
  refine decode_of_raw ((raw_1d _ (fld_6_5_5_5_6_2_3_26 ..)).trans ?_) hwf
  simp only [decode1D, fld_6_5_5_5_6_2_3_0, fld_6_5_5_5_6_2_3_3, fld_6_5_5_5_6_2_3_5, fld_6_5_5_5_6_2_3_11, fld_6_5_5_5_6_2_3_16, fld_6_5_5_5_6_2_3_21, MOrd.ofCode_code, Scope.ofCode_code, Option.map_some, Option.bind_some, BitVec.reduceEq, false_and, and_false, and_self, and_true, true_and, reduceIte]

/-- Round trip of amoCasD. -/
theorem Laws.RoundTrip.amoCasD (d : BitVec 5) (a : BitVec 5) (b : BitVec 5) (ord : MOrd) (sc : Scope) : Laws.RoundTrip.Statement (.amoCasD d a b ord sc) := by
  intro word hwf henc
  cases (show some (0x1d#6 ++ d ++ a ++ b ++ 0x29#6 ++ ord.code ++ sc.code : Word32) = some word from henc)
  refine decode_of_raw ((raw_1d _ (fld_6_5_5_5_6_2_3_26 ..)).trans ?_) hwf
  simp only [decode1D, fld_6_5_5_5_6_2_3_0, fld_6_5_5_5_6_2_3_3, fld_6_5_5_5_6_2_3_5, fld_6_5_5_5_6_2_3_11, fld_6_5_5_5_6_2_3_16, fld_6_5_5_5_6_2_3_21, MOrd.ofCode_code, Scope.ofCode_code, Option.map_some, Option.bind_some, BitVec.reduceEq, false_and, and_false, and_self, and_true, true_and, reduceIte]

/-- Round trip of amoFaddW. -/
theorem Laws.RoundTrip.amoFaddW (d : BitVec 5) (a : BitVec 5) (b : BitVec 5) (ord : MOrd) (sc : Scope) : Laws.RoundTrip.Statement (.amoFaddW d a b ord sc) := by
  intro word hwf henc
  cases (show some (0x1d#6 ++ d ++ a ++ b ++ 0xa#6 ++ ord.code ++ sc.code : Word32) = some word from henc)
  refine decode_of_raw ((raw_1d _ (fld_6_5_5_5_6_2_3_26 ..)).trans ?_) hwf
  simp only [decode1D, fld_6_5_5_5_6_2_3_0, fld_6_5_5_5_6_2_3_3, fld_6_5_5_5_6_2_3_5, fld_6_5_5_5_6_2_3_11, fld_6_5_5_5_6_2_3_16, fld_6_5_5_5_6_2_3_21, MOrd.ofCode_code, Scope.ofCode_code, Option.map_some, Option.bind_some, BitVec.reduceEq, false_and, and_false, and_self, and_true, true_and, reduceIte]

/-- Round trip of amoLdW. -/
theorem Laws.RoundTrip.amoLdW (d : BitVec 5) (a : BitVec 5) (b : BitVec 5) (ord : MOrd) (sc : Scope) : Laws.RoundTrip.Statement (.amoLdW d a b ord sc) := by
  intro word hwf henc
  cases (show some (0x1d#6 ++ d ++ a ++ b ++ 0xb#6 ++ ord.code ++ sc.code : Word32) = some word from henc)
  refine decode_of_raw ((raw_1d _ (fld_6_5_5_5_6_2_3_26 ..)).trans ?_) hwf
  simp only [decode1D, fld_6_5_5_5_6_2_3_0, fld_6_5_5_5_6_2_3_3, fld_6_5_5_5_6_2_3_5, fld_6_5_5_5_6_2_3_11, fld_6_5_5_5_6_2_3_16, fld_6_5_5_5_6_2_3_21, MOrd.ofCode_code, Scope.ofCode_code, Option.map_some, Option.bind_some, BitVec.reduceEq, false_and, and_false, and_self, and_true, true_and, reduceIte]

/-- Round trip of amoLdD. -/
theorem Laws.RoundTrip.amoLdD (d : BitVec 5) (a : BitVec 5) (b : BitVec 5) (ord : MOrd) (sc : Scope) : Laws.RoundTrip.Statement (.amoLdD d a b ord sc) := by
  intro word hwf henc
  cases (show some (0x1d#6 ++ d ++ a ++ b ++ 0x2b#6 ++ ord.code ++ sc.code : Word32) = some word from henc)
  refine decode_of_raw ((raw_1d _ (fld_6_5_5_5_6_2_3_26 ..)).trans ?_) hwf
  simp only [decode1D, fld_6_5_5_5_6_2_3_0, fld_6_5_5_5_6_2_3_3, fld_6_5_5_5_6_2_3_5, fld_6_5_5_5_6_2_3_11, fld_6_5_5_5_6_2_3_16, fld_6_5_5_5_6_2_3_21, MOrd.ofCode_code, Scope.ofCode_code, Option.map_some, Option.bind_some, BitVec.reduceEq, false_and, and_false, and_self, and_true, true_and, reduceIte]

/-- Round trip of amoStW. -/
theorem Laws.RoundTrip.amoStW (a : BitVec 5) (b : BitVec 5) (ord : MOrd) (sc : Scope) : Laws.RoundTrip.Statement (.amoStW a b ord sc) := by
  intro word hwf henc
  cases (show some (0x1d#6 ++ 0x0#5 ++ a ++ b ++ 0xc#6 ++ ord.code ++ sc.code : Word32) = some word from henc)
  refine decode_of_raw ((raw_1d _ (fld_6_5_5_5_6_2_3_26 ..)).trans ?_) hwf
  simp only [decode1D, fld_6_5_5_5_6_2_3_0, fld_6_5_5_5_6_2_3_3, fld_6_5_5_5_6_2_3_5, fld_6_5_5_5_6_2_3_11, fld_6_5_5_5_6_2_3_16, fld_6_5_5_5_6_2_3_21, MOrd.ofCode_code, Scope.ofCode_code, Option.map_some, Option.bind_some, BitVec.reduceEq, false_and, and_false, and_self, and_true, true_and, reduceIte]

/-- Round trip of amoStD. -/
theorem Laws.RoundTrip.amoStD (a : BitVec 5) (b : BitVec 5) (ord : MOrd) (sc : Scope) : Laws.RoundTrip.Statement (.amoStD a b ord sc) := by
  intro word hwf henc
  cases (show some (0x1d#6 ++ 0x0#5 ++ a ++ b ++ 0x2c#6 ++ ord.code ++ sc.code : Word32) = some word from henc)
  refine decode_of_raw ((raw_1d _ (fld_6_5_5_5_6_2_3_26 ..)).trans ?_) hwf
  simp only [decode1D, fld_6_5_5_5_6_2_3_0, fld_6_5_5_5_6_2_3_3, fld_6_5_5_5_6_2_3_5, fld_6_5_5_5_6_2_3_11, fld_6_5_5_5_6_2_3_16, fld_6_5_5_5_6_2_3_21, MOrd.ofCode_code, Scope.ofCode_code, Option.map_some, Option.bind_some, BitVec.reduceEq, false_and, and_false, and_self, and_true, true_and, reduceIte]

/-- Round trip of fence. -/
theorem Laws.RoundTrip.fence (ord : MOrd) (sc : Scope) : Laws.RoundTrip.Statement (.fence ord sc) := by
  intro word hwf henc
  cases (show some (0x1e#6 ++ 0x0#15 ++ 0x0#6 ++ ord.code ++ sc.code : Word32) = some word from henc)
  refine decode_of_raw ((raw_1e _ (fld_6_15_6_2_3_26 ..)).trans ?_) hwf
  simp only [decode1E, fld_6_15_6_2_3_0, fld_6_15_6_2_3_3, fld_6_15_6_2_3_5, fld_6_15_6_2_3_11_5_z1, fld_6_15_6_2_3_11, fld_6_15_6_2_3_16_5_z1, fld_6_15_6_2_3_21_5_z1, MOrd.ofCode_code, Scope.ofCode_code, Option.map_some, Option.bind_some, BitVec.reduceEq, false_and, and_false, and_self, and_true, true_and, reduceIte]

/-- Round trip of promote. -/
theorem Laws.RoundTrip.promote (d : BitVec 5) (a : BitVec 5) (ord : MOrd) (sc : Scope) : Laws.RoundTrip.Statement (.promote d a ord sc) := by
  intro word hwf henc
  cases (show some (0x1e#6 ++ d ++ a ++ 0x0#5 ++ 0x1#6 ++ ord.code ++ sc.code : Word32) = some word from henc)
  refine decode_of_raw ((raw_1e _ (fld_6_5_5_5_6_2_3_26 ..)).trans ?_) hwf
  simp only [decode1E, fld_6_5_5_5_6_2_3_0, fld_6_5_5_5_6_2_3_3, fld_6_5_5_5_6_2_3_5, fld_6_5_5_5_6_2_3_11, fld_6_5_5_5_6_2_3_16, fld_6_5_5_5_6_2_3_21, MOrd.ofCode_code, Scope.ofCode_code, Option.map_some, Option.bind_some, BitVec.reduceEq, false_and, and_false, and_self, and_true, true_and, reduceIte]

/-- Round trip of wset. -/
theorem Laws.RoundTrip.wset (d : BitVec 3) (a : BitVec 5) (b : BitVec 5) : Laws.RoundTrip.Statement (.wset d a b) := by
  intro word hwf henc
  cases (show some (0x1f#6 ++ 0x0#2 ++ d ++ a ++ b ++ 0x0#11 : Word32) = some word from henc)
  refine decode_of_raw ((raw_1f _ (fld_6_2_3_5_5_11_26 ..)).trans ?_) hwf
  simp only [decode1F, fld_6_2_3_5_5_11_0, fld_6_2_3_5_5_11_11, fld_6_2_3_5_5_11_16, fld_6_2_3_5_5_11_21, fld_6_2_3_5_5_11_24, BitVec.reduceEq, false_and, and_false, and_self, and_true, true_and, reduceIte]

/-- Round trip of wclr. -/
theorem Laws.RoundTrip.wclr (d : BitVec 3) : Laws.RoundTrip.Statement (.wclr d) := by
  intro word hwf henc
  cases (show some (0x1f#6 ++ 0x0#2 ++ d ++ 0x0#10 ++ 0x1#11 : Word32) = some word from henc)
  refine decode_of_raw ((raw_1f _ (fld_6_2_3_10_11_26 ..)).trans ?_) hwf
  simp only [decode1F, fld_6_2_3_10_11_0, fld_6_2_3_10_11_11_5_z3, fld_6_2_3_10_11_11, fld_6_2_3_10_11_16_3_z3, fld_6_2_3_10_11_16_5_z3, fld_6_2_3_10_11_19_2_z3, fld_6_2_3_10_11_21, fld_6_2_3_10_11_24, BitVec.reduceEq, false_and, and_false, and_self, and_true, true_and, reduceIte]

/-- Round trip of wref. -/
theorem Laws.RoundTrip.wref (d : BitVec 5) (a : BitVec 3) : Laws.RoundTrip.Statement (.wref d a) := by
  intro word hwf henc
  cases (show some (0x1f#6 ++ d ++ 0x0#2 ++ a ++ 0x0#5 ++ 0x2#11 : Word32) = some word from henc)
  refine decode_of_raw ((raw_1f _ (fld_6_5_2_3_5_11_26 ..)).trans ?_) hwf
  simp only [decode1F, fld_6_5_2_3_5_11_0, fld_6_5_2_3_5_11_11, fld_6_5_2_3_5_11_16, fld_6_5_2_3_5_11_19, fld_6_5_2_3_5_11_21, BitVec.reduceEq, false_and, and_false, and_self, and_true, true_and, reduceIte]

/-- Round trip of wrt. -/
theorem Laws.RoundTrip.wrt (d : BitVec 5) (a : BitVec 3) : Laws.RoundTrip.Statement (.wrt d a) := by
  intro word hwf henc
  cases (show some (0x1f#6 ++ d ++ 0x0#2 ++ a ++ 0x0#5 ++ 0x3#11 : Word32) = some word from henc)
  refine decode_of_raw ((raw_1f _ (fld_6_5_2_3_5_11_26 ..)).trans ?_) hwf
  simp only [decode1F, fld_6_5_2_3_5_11_0, fld_6_5_2_3_5_11_11, fld_6_5_2_3_5_11_16, fld_6_5_2_3_5_11_19, fld_6_5_2_3_5_11_21, BitVec.reduceEq, false_and, and_false, and_self, and_true, true_and, reduceIte]

/-- Round trip of wqry. -/
theorem Laws.RoundTrip.wqry (d : BitVec 5) (a : BitVec 5) : Laws.RoundTrip.Statement (.wqry d a) := by
  intro word hwf henc
  cases (show some (0x1f#6 ++ d ++ a ++ 0x0#5 ++ 0x4#11 : Word32) = some word from henc)
  refine decode_of_raw ((raw_1f _ (fld_6_5_5_5_11_26 ..)).trans ?_) hwf
  simp only [decode1F, fld_6_5_5_5_11_0, fld_6_5_5_5_11_11, fld_6_5_5_5_11_16, fld_6_5_5_5_11_21, BitVec.reduceEq, false_and, and_false, and_self, and_true, true_and, reduceIte]

/-- Round trip of beq. -/
theorem Laws.RoundTrip.beq (a : BitVec 5) (b : BitVec 5) (i : BitVec 16) : Laws.RoundTrip.Statement (.beq a b i) := by
  intro word hwf henc
  cases (show some (0x20#6 ++ a ++ b ++ i : Word32) = some word from henc)
  refine decode_of_raw ((raw_20 _ (fld_6_5_5_16_26 ..)).trans ?_) hwf
  simp only [fld_6_5_5_16_0, fld_6_5_5_16_16, fld_6_5_5_16_21, BitVec.reduceEq, false_and, and_false, and_self, and_true, true_and, reduceIte]

/-- Round trip of bne. -/
theorem Laws.RoundTrip.bne (a : BitVec 5) (b : BitVec 5) (i : BitVec 16) : Laws.RoundTrip.Statement (.bne a b i) := by
  intro word hwf henc
  cases (show some (0x21#6 ++ a ++ b ++ i : Word32) = some word from henc)
  refine decode_of_raw ((raw_21 _ (fld_6_5_5_16_26 ..)).trans ?_) hwf
  simp only [fld_6_5_5_16_0, fld_6_5_5_16_16, fld_6_5_5_16_21, BitVec.reduceEq, false_and, and_false, and_self, and_true, true_and, reduceIte]

/-- Round trip of blt. -/
theorem Laws.RoundTrip.blt (a : BitVec 5) (b : BitVec 5) (i : BitVec 16) : Laws.RoundTrip.Statement (.blt a b i) := by
  intro word hwf henc
  cases (show some (0x22#6 ++ a ++ b ++ i : Word32) = some word from henc)
  refine decode_of_raw ((raw_22 _ (fld_6_5_5_16_26 ..)).trans ?_) hwf
  simp only [fld_6_5_5_16_0, fld_6_5_5_16_16, fld_6_5_5_16_21, BitVec.reduceEq, false_and, and_false, and_self, and_true, true_and, reduceIte]

/-- Round trip of bge. -/
theorem Laws.RoundTrip.bge (a : BitVec 5) (b : BitVec 5) (i : BitVec 16) : Laws.RoundTrip.Statement (.bge a b i) := by
  intro word hwf henc
  cases (show some (0x23#6 ++ a ++ b ++ i : Word32) = some word from henc)
  refine decode_of_raw ((raw_23 _ (fld_6_5_5_16_26 ..)).trans ?_) hwf
  simp only [fld_6_5_5_16_0, fld_6_5_5_16_16, fld_6_5_5_16_21, BitVec.reduceEq, false_and, and_false, and_self, and_true, true_and, reduceIte]

/-- Round trip of bltu. -/
theorem Laws.RoundTrip.bltu (a : BitVec 5) (b : BitVec 5) (i : BitVec 16) : Laws.RoundTrip.Statement (.bltu a b i) := by
  intro word hwf henc
  cases (show some (0x24#6 ++ a ++ b ++ i : Word32) = some word from henc)
  refine decode_of_raw ((raw_24 _ (fld_6_5_5_16_26 ..)).trans ?_) hwf
  simp only [fld_6_5_5_16_0, fld_6_5_5_16_16, fld_6_5_5_16_21, BitVec.reduceEq, false_and, and_false, and_self, and_true, true_and, reduceIte]

/-- Round trip of bgeu. -/
theorem Laws.RoundTrip.bgeu (a : BitVec 5) (b : BitVec 5) (i : BitVec 16) : Laws.RoundTrip.Statement (.bgeu a b i) := by
  intro word hwf henc
  cases (show some (0x25#6 ++ a ++ b ++ i : Word32) = some word from henc)
  refine decode_of_raw ((raw_25 _ (fld_6_5_5_16_26 ..)).trans ?_) hwf
  simp only [fld_6_5_5_16_0, fld_6_5_5_16_16, fld_6_5_5_16_21, BitVec.reduceEq, false_and, and_false, and_self, and_true, true_and, reduceIte]

/-- Round trip of jal. -/
theorem Laws.RoundTrip.jal (d : BitVec 5) (i : BitVec 21) : Laws.RoundTrip.Statement (.jal d i) := by
  intro word hwf henc
  cases (show some (0x26#6 ++ d ++ i : Word32) = some word from henc)
  refine decode_of_raw ((raw_26 _ (fld_6_5_21_26 ..)).trans ?_) hwf
  simp only [fld_6_5_21_0, fld_6_5_21_21, BitVec.reduceEq, false_and, and_false, and_self, and_true, true_and, reduceIte]

/-- Round trip of jalr. -/
theorem Laws.RoundTrip.jalr (d : BitVec 5) (a : BitVec 5) (i : BitVec 16) : Laws.RoundTrip.Statement (.jalr d a i) := by
  intro word hwf henc
  cases (show some (0x27#6 ++ d ++ a ++ i : Word32) = some word from henc)
  refine decode_of_raw ((raw_27 _ (fld_6_5_5_16_26 ..)).trans ?_) hwf
  simp only [fld_6_5_5_16_0, fld_6_5_5_16_16, fld_6_5_5_16_21, BitVec.reduceEq, false_and, and_false, and_self, and_true, true_and, reduceIte]

/-- Round trip of sleepuntil. -/
theorem Laws.RoundTrip.sleepuntil (a : BitVec 5) : Laws.RoundTrip.Statement (.sleepuntil a) := by
  intro word hwf henc
  cases (show some (0x28#6 ++ 0x0#5 ++ a ++ 0x0#5 ++ 0x0#11 : Word32) = some word from henc)
  refine decode_of_raw ((raw_28 _ (fld_6_5_5_5_11_26 ..)).trans ?_) hwf
  simp only [decode28, fld_6_5_5_5_11_0, fld_6_5_5_5_11_11, fld_6_5_5_5_11_16, fld_6_5_5_5_11_21, BitVec.reduceEq, false_and, and_false, and_self, and_true, true_and, reduceIte]

/-- Round trip of yield. -/
theorem Laws.RoundTrip.yield : Laws.RoundTrip.Statement (.yield) := by
  intro word hwf henc
  cases (show some (0x28#6 ++ 0x0#15 ++ 0x1#11 : Word32) = some word from henc)
  refine decode_of_raw ((raw_28 _ (fld_6_15_11_26 ..)).trans ?_) hwf
  simp only [decode28, fld_6_15_11_0, fld_6_15_11_11_5_z1, fld_6_15_11_11, fld_6_15_11_16_5_z1, fld_6_15_11_21_5_z1, BitVec.reduceEq, false_and, and_false, and_self, and_true, true_and, reduceIte]

/-- Round trip of exit. -/
theorem Laws.RoundTrip.exit : Laws.RoundTrip.Statement (.exit) := by
  intro word hwf henc
  cases (show some (0x28#6 ++ 0x0#15 ++ 0x2#11 : Word32) = some word from henc)
  refine decode_of_raw ((raw_28 _ (fld_6_15_11_26 ..)).trans ?_) hwf
  simp only [decode28, fld_6_15_11_0, fld_6_15_11_11_5_z1, fld_6_15_11_11, fld_6_15_11_16_5_z1, fld_6_15_11_21_5_z1, BitVec.reduceEq, false_and, and_false, and_self, and_true, true_and, reduceIte]

/-- Round trip of vadd. -/
theorem Laws.RoundTrip.vadd (d : BitVec 5) (a : BitVec 5) (b : BitVec 5) (k : BitVec 3) (t : EType) : Laws.RoundTrip.Statement (.vadd d a b k t) := by
  intro word hwf henc
  cases (show some (0x30#6 ++ d ++ a ++ b ++ k ++ t.code ++ 0x0#4 : Word32) = some word from henc)
  refine decode_of_raw ((raw_30 _ (fld_6_5_5_5_3_4_4_26 ..)).trans ?_) hwf
  simp only [decode30, fld_6_5_5_5_3_4_4_0, fld_6_5_5_5_3_4_4_4, fld_6_5_5_5_3_4_4_8, fld_6_5_5_5_3_4_4_11, fld_6_5_5_5_3_4_4_16, fld_6_5_5_5_3_4_4_21, EType.ofCode_code, Option.map_some, Option.bind_some, BitVec.reduceEq, false_and, and_false, and_self, and_true, true_and, reduceIte]

/-- Round trip of vsub. -/
theorem Laws.RoundTrip.vsub (d : BitVec 5) (a : BitVec 5) (b : BitVec 5) (k : BitVec 3) (t : EType) : Laws.RoundTrip.Statement (.vsub d a b k t) := by
  intro word hwf henc
  cases (show some (0x30#6 ++ d ++ a ++ b ++ k ++ t.code ++ 0x1#4 : Word32) = some word from henc)
  refine decode_of_raw ((raw_30 _ (fld_6_5_5_5_3_4_4_26 ..)).trans ?_) hwf
  simp only [decode30, fld_6_5_5_5_3_4_4_0, fld_6_5_5_5_3_4_4_4, fld_6_5_5_5_3_4_4_8, fld_6_5_5_5_3_4_4_11, fld_6_5_5_5_3_4_4_16, fld_6_5_5_5_3_4_4_21, EType.ofCode_code, Option.map_some, Option.bind_some, BitVec.reduceEq, false_and, and_false, and_self, and_true, true_and, reduceIte]

/-- Round trip of vmul. -/
theorem Laws.RoundTrip.vmul (d : BitVec 5) (a : BitVec 5) (b : BitVec 5) (k : BitVec 3) (t : EType) : Laws.RoundTrip.Statement (.vmul d a b k t) := by
  intro word hwf henc
  cases (show some (0x30#6 ++ d ++ a ++ b ++ k ++ t.code ++ 0x2#4 : Word32) = some word from henc)
  refine decode_of_raw ((raw_30 _ (fld_6_5_5_5_3_4_4_26 ..)).trans ?_) hwf
  simp only [decode30, fld_6_5_5_5_3_4_4_0, fld_6_5_5_5_3_4_4_4, fld_6_5_5_5_3_4_4_8, fld_6_5_5_5_3_4_4_11, fld_6_5_5_5_3_4_4_16, fld_6_5_5_5_3_4_4_21, EType.ofCode_code, Option.map_some, Option.bind_some, BitVec.reduceEq, false_and, and_false, and_self, and_true, true_and, reduceIte]

/-- Round trip of vfma. -/
theorem Laws.RoundTrip.vfma (d : BitVec 5) (a : BitVec 5) (b : BitVec 5) (k : BitVec 3) (t : EType) : Laws.RoundTrip.Statement (.vfma d a b k t) := by
  intro word hwf henc
  cases (show some (0x30#6 ++ d ++ a ++ b ++ k ++ t.code ++ 0x3#4 : Word32) = some word from henc)
  refine decode_of_raw ((raw_30 _ (fld_6_5_5_5_3_4_4_26 ..)).trans ?_) hwf
  simp only [decode30, fld_6_5_5_5_3_4_4_0, fld_6_5_5_5_3_4_4_4, fld_6_5_5_5_3_4_4_8, fld_6_5_5_5_3_4_4_11, fld_6_5_5_5_3_4_4_16, fld_6_5_5_5_3_4_4_21, EType.ofCode_code, Option.map_some, Option.bind_some, BitVec.reduceEq, false_and, and_false, and_self, and_true, true_and, reduceIte]

/-- Round trip of vfnma. -/
theorem Laws.RoundTrip.vfnma (d : BitVec 5) (a : BitVec 5) (b : BitVec 5) (k : BitVec 3) (t : EType) : Laws.RoundTrip.Statement (.vfnma d a b k t) := by
  intro word hwf henc
  cases (show some (0x30#6 ++ d ++ a ++ b ++ k ++ t.code ++ 0x4#4 : Word32) = some word from henc)
  refine decode_of_raw ((raw_30 _ (fld_6_5_5_5_3_4_4_26 ..)).trans ?_) hwf
  simp only [decode30, fld_6_5_5_5_3_4_4_0, fld_6_5_5_5_3_4_4_4, fld_6_5_5_5_3_4_4_8, fld_6_5_5_5_3_4_4_11, fld_6_5_5_5_3_4_4_16, fld_6_5_5_5_3_4_4_21, EType.ofCode_code, Option.map_some, Option.bind_some, BitVec.reduceEq, false_and, and_false, and_self, and_true, true_and, reduceIte]

/-- Round trip of vmin. -/
theorem Laws.RoundTrip.vmin (d : BitVec 5) (a : BitVec 5) (b : BitVec 5) (k : BitVec 3) (t : EType) : Laws.RoundTrip.Statement (.vmin d a b k t) := by
  intro word hwf henc
  cases (show some (0x30#6 ++ d ++ a ++ b ++ k ++ t.code ++ 0x5#4 : Word32) = some word from henc)
  refine decode_of_raw ((raw_30 _ (fld_6_5_5_5_3_4_4_26 ..)).trans ?_) hwf
  simp only [decode30, fld_6_5_5_5_3_4_4_0, fld_6_5_5_5_3_4_4_4, fld_6_5_5_5_3_4_4_8, fld_6_5_5_5_3_4_4_11, fld_6_5_5_5_3_4_4_16, fld_6_5_5_5_3_4_4_21, EType.ofCode_code, Option.map_some, Option.bind_some, BitVec.reduceEq, false_and, and_false, and_self, and_true, true_and, reduceIte]

/-- Round trip of vmax. -/
theorem Laws.RoundTrip.vmax (d : BitVec 5) (a : BitVec 5) (b : BitVec 5) (k : BitVec 3) (t : EType) : Laws.RoundTrip.Statement (.vmax d a b k t) := by
  intro word hwf henc
  cases (show some (0x30#6 ++ d ++ a ++ b ++ k ++ t.code ++ 0x6#4 : Word32) = some word from henc)
  refine decode_of_raw ((raw_30 _ (fld_6_5_5_5_3_4_4_26 ..)).trans ?_) hwf
  simp only [decode30, fld_6_5_5_5_3_4_4_0, fld_6_5_5_5_3_4_4_4, fld_6_5_5_5_3_4_4_8, fld_6_5_5_5_3_4_4_11, fld_6_5_5_5_3_4_4_16, fld_6_5_5_5_3_4_4_21, EType.ofCode_code, Option.map_some, Option.bind_some, BitVec.reduceEq, false_and, and_false, and_self, and_true, true_and, reduceIte]

/-- Round trip of vrcpe. -/
theorem Laws.RoundTrip.vrcpe (d : BitVec 5) (a : BitVec 5) (k : BitVec 3) (t : EType) : Laws.RoundTrip.Statement (.vrcpe d a k t) := by
  intro word hwf henc
  cases (show some (0x30#6 ++ d ++ a ++ 0x0#5 ++ k ++ t.code ++ 0x7#4 : Word32) = some word from henc)
  refine decode_of_raw ((raw_30 _ (fld_6_5_5_5_3_4_4_26 ..)).trans ?_) hwf
  simp only [decode30, fld_6_5_5_5_3_4_4_0, fld_6_5_5_5_3_4_4_4, fld_6_5_5_5_3_4_4_8, fld_6_5_5_5_3_4_4_11, fld_6_5_5_5_3_4_4_16, fld_6_5_5_5_3_4_4_21, EType.ofCode_code, Option.map_some, Option.bind_some, BitVec.reduceEq, false_and, and_false, and_self, and_true, true_and, reduceIte]

/-- Round trip of vrsqe. -/
theorem Laws.RoundTrip.vrsqe (d : BitVec 5) (a : BitVec 5) (k : BitVec 3) (t : EType) : Laws.RoundTrip.Statement (.vrsqe d a k t) := by
  intro word hwf henc
  cases (show some (0x30#6 ++ d ++ a ++ 0x0#5 ++ k ++ t.code ++ 0x8#4 : Word32) = some word from henc)
  refine decode_of_raw ((raw_30 _ (fld_6_5_5_5_3_4_4_26 ..)).trans ?_) hwf
  simp only [decode30, fld_6_5_5_5_3_4_4_0, fld_6_5_5_5_3_4_4_4, fld_6_5_5_5_3_4_4_8, fld_6_5_5_5_3_4_4_11, fld_6_5_5_5_3_4_4_16, fld_6_5_5_5_3_4_4_21, EType.ofCode_code, Option.map_some, Option.bind_some, BitVec.reduceEq, false_and, and_false, and_self, and_true, true_and, reduceIte]

/-- Round trip of vadds. -/
theorem Laws.RoundTrip.vadds (d : BitVec 5) (a : BitVec 5) (b : BitVec 5) (k : BitVec 3) (t : EType) : Laws.RoundTrip.Statement (.vadds d a b k t) := by
  intro word hwf henc
  cases (show some (0x30#6 ++ d ++ a ++ b ++ k ++ t.code ++ 0x9#4 : Word32) = some word from henc)
  refine decode_of_raw ((raw_30 _ (fld_6_5_5_5_3_4_4_26 ..)).trans ?_) hwf
  simp only [decode30, fld_6_5_5_5_3_4_4_0, fld_6_5_5_5_3_4_4_4, fld_6_5_5_5_3_4_4_8, fld_6_5_5_5_3_4_4_11, fld_6_5_5_5_3_4_4_16, fld_6_5_5_5_3_4_4_21, EType.ofCode_code, Option.map_some, Option.bind_some, BitVec.reduceEq, false_and, and_false, and_self, and_true, true_and, reduceIte]

/-- Round trip of vsubs. -/
theorem Laws.RoundTrip.vsubs (d : BitVec 5) (a : BitVec 5) (b : BitVec 5) (k : BitVec 3) (t : EType) : Laws.RoundTrip.Statement (.vsubs d a b k t) := by
  intro word hwf henc
  cases (show some (0x30#6 ++ d ++ a ++ b ++ k ++ t.code ++ 0xa#4 : Word32) = some word from henc)
  refine decode_of_raw ((raw_30 _ (fld_6_5_5_5_3_4_4_26 ..)).trans ?_) hwf
  simp only [decode30, fld_6_5_5_5_3_4_4_0, fld_6_5_5_5_3_4_4_4, fld_6_5_5_5_3_4_4_8, fld_6_5_5_5_3_4_4_11, fld_6_5_5_5_3_4_4_16, fld_6_5_5_5_3_4_4_21, EType.ofCode_code, Option.map_some, Option.bind_some, BitVec.reduceEq, false_and, and_false, and_self, and_true, true_and, reduceIte]

/-- Round trip of vand. -/
theorem Laws.RoundTrip.vand (d : BitVec 5) (a : BitVec 5) (b : BitVec 5) (k : BitVec 3) (t : EType) : Laws.RoundTrip.Statement (.vand d a b k t) := by
  intro word hwf henc
  cases (show some (0x30#6 ++ d ++ a ++ b ++ k ++ t.code ++ 0xb#4 : Word32) = some word from henc)
  refine decode_of_raw ((raw_30 _ (fld_6_5_5_5_3_4_4_26 ..)).trans ?_) hwf
  simp only [decode30, fld_6_5_5_5_3_4_4_0, fld_6_5_5_5_3_4_4_4, fld_6_5_5_5_3_4_4_8, fld_6_5_5_5_3_4_4_11, fld_6_5_5_5_3_4_4_16, fld_6_5_5_5_3_4_4_21, EType.ofCode_code, Option.map_some, Option.bind_some, BitVec.reduceEq, false_and, and_false, and_self, and_true, true_and, reduceIte]

/-- Round trip of vor. -/
theorem Laws.RoundTrip.vor (d : BitVec 5) (a : BitVec 5) (b : BitVec 5) (k : BitVec 3) (t : EType) : Laws.RoundTrip.Statement (.vor d a b k t) := by
  intro word hwf henc
  cases (show some (0x30#6 ++ d ++ a ++ b ++ k ++ t.code ++ 0xc#4 : Word32) = some word from henc)
  refine decode_of_raw ((raw_30 _ (fld_6_5_5_5_3_4_4_26 ..)).trans ?_) hwf
  simp only [decode30, fld_6_5_5_5_3_4_4_0, fld_6_5_5_5_3_4_4_4, fld_6_5_5_5_3_4_4_8, fld_6_5_5_5_3_4_4_11, fld_6_5_5_5_3_4_4_16, fld_6_5_5_5_3_4_4_21, EType.ofCode_code, Option.map_some, Option.bind_some, BitVec.reduceEq, false_and, and_false, and_self, and_true, true_and, reduceIte]

/-- Round trip of vxor. -/
theorem Laws.RoundTrip.vxor (d : BitVec 5) (a : BitVec 5) (b : BitVec 5) (k : BitVec 3) (t : EType) : Laws.RoundTrip.Statement (.vxor d a b k t) := by
  intro word hwf henc
  cases (show some (0x30#6 ++ d ++ a ++ b ++ k ++ t.code ++ 0xd#4 : Word32) = some word from henc)
  refine decode_of_raw ((raw_30 _ (fld_6_5_5_5_3_4_4_26 ..)).trans ?_) hwf
  simp only [decode30, fld_6_5_5_5_3_4_4_0, fld_6_5_5_5_3_4_4_4, fld_6_5_5_5_3_4_4_8, fld_6_5_5_5_3_4_4_11, fld_6_5_5_5_3_4_4_16, fld_6_5_5_5_3_4_4_21, EType.ofCode_code, Option.map_some, Option.bind_some, BitVec.reduceEq, false_and, and_false, and_self, and_true, true_and, reduceIte]

/-- Round trip of vsl. -/
theorem Laws.RoundTrip.vsl (d : BitVec 5) (a : BitVec 5) (b : BitVec 5) (k : BitVec 3) (t : EType) : Laws.RoundTrip.Statement (.vsl d a b k t) := by
  intro word hwf henc
  cases (show some (0x30#6 ++ d ++ a ++ b ++ k ++ t.code ++ 0xe#4 : Word32) = some word from henc)
  refine decode_of_raw ((raw_30 _ (fld_6_5_5_5_3_4_4_26 ..)).trans ?_) hwf
  simp only [decode30, fld_6_5_5_5_3_4_4_0, fld_6_5_5_5_3_4_4_4, fld_6_5_5_5_3_4_4_8, fld_6_5_5_5_3_4_4_11, fld_6_5_5_5_3_4_4_16, fld_6_5_5_5_3_4_4_21, EType.ofCode_code, Option.map_some, Option.bind_some, BitVec.reduceEq, false_and, and_false, and_self, and_true, true_and, reduceIte]

/-- Round trip of vsr. -/
theorem Laws.RoundTrip.vsr (d : BitVec 5) (a : BitVec 5) (b : BitVec 5) (k : BitVec 3) (t : EType) : Laws.RoundTrip.Statement (.vsr d a b k t) := by
  intro word hwf henc
  cases (show some (0x30#6 ++ d ++ a ++ b ++ k ++ t.code ++ 0xf#4 : Word32) = some word from henc)
  refine decode_of_raw ((raw_30 _ (fld_6_5_5_5_3_4_4_26 ..)).trans ?_) hwf
  simp only [decode30, fld_6_5_5_5_3_4_4_0, fld_6_5_5_5_3_4_4_4, fld_6_5_5_5_3_4_4_8, fld_6_5_5_5_3_4_4_11, fld_6_5_5_5_3_4_4_16, fld_6_5_5_5_3_4_4_21, EType.ofCode_code, Option.map_some, Option.bind_some, BitVec.reduceEq, false_and, and_false, and_self, and_true, true_and, reduceIte]

/-- Round trip of vceq. -/
theorem Laws.RoundTrip.vceq (d : BitVec 3) (a : BitVec 5) (b : BitVec 5) (k : BitVec 3) (t : EType) : Laws.RoundTrip.Statement (.vceq d a b k t) := by
  intro word hwf henc
  cases (show some (0x31#6 ++ 0x0#2 ++ d ++ a ++ b ++ k ++ t.code ++ 0x0#4 : Word32) = some word from henc)
  refine decode_of_raw ((raw_31 _ (fld_6_2_3_5_5_3_4_4_26 ..)).trans ?_) hwf
  simp only [decode31, fld_6_2_3_5_5_3_4_4_0, fld_6_2_3_5_5_3_4_4_4, fld_6_2_3_5_5_3_4_4_8, fld_6_2_3_5_5_3_4_4_11, fld_6_2_3_5_5_3_4_4_16, fld_6_2_3_5_5_3_4_4_21, fld_6_2_3_5_5_3_4_4_24, EType.ofCode_code, Option.map_some, Option.bind_some, BitVec.reduceEq, false_and, and_false, and_self, and_true, true_and, reduceIte]

/-- Round trip of vcne. -/
theorem Laws.RoundTrip.vcne (d : BitVec 3) (a : BitVec 5) (b : BitVec 5) (k : BitVec 3) (t : EType) : Laws.RoundTrip.Statement (.vcne d a b k t) := by
  intro word hwf henc
  cases (show some (0x31#6 ++ 0x0#2 ++ d ++ a ++ b ++ k ++ t.code ++ 0x1#4 : Word32) = some word from henc)
  refine decode_of_raw ((raw_31 _ (fld_6_2_3_5_5_3_4_4_26 ..)).trans ?_) hwf
  simp only [decode31, fld_6_2_3_5_5_3_4_4_0, fld_6_2_3_5_5_3_4_4_4, fld_6_2_3_5_5_3_4_4_8, fld_6_2_3_5_5_3_4_4_11, fld_6_2_3_5_5_3_4_4_16, fld_6_2_3_5_5_3_4_4_21, fld_6_2_3_5_5_3_4_4_24, EType.ofCode_code, Option.map_some, Option.bind_some, BitVec.reduceEq, false_and, and_false, and_self, and_true, true_and, reduceIte]

/-- Round trip of vclt. -/
theorem Laws.RoundTrip.vclt (d : BitVec 3) (a : BitVec 5) (b : BitVec 5) (k : BitVec 3) (t : EType) : Laws.RoundTrip.Statement (.vclt d a b k t) := by
  intro word hwf henc
  cases (show some (0x31#6 ++ 0x0#2 ++ d ++ a ++ b ++ k ++ t.code ++ 0x2#4 : Word32) = some word from henc)
  refine decode_of_raw ((raw_31 _ (fld_6_2_3_5_5_3_4_4_26 ..)).trans ?_) hwf
  simp only [decode31, fld_6_2_3_5_5_3_4_4_0, fld_6_2_3_5_5_3_4_4_4, fld_6_2_3_5_5_3_4_4_8, fld_6_2_3_5_5_3_4_4_11, fld_6_2_3_5_5_3_4_4_16, fld_6_2_3_5_5_3_4_4_21, fld_6_2_3_5_5_3_4_4_24, EType.ofCode_code, Option.map_some, Option.bind_some, BitVec.reduceEq, false_and, and_false, and_self, and_true, true_and, reduceIte]

/-- Round trip of vcle. -/
theorem Laws.RoundTrip.vcle (d : BitVec 3) (a : BitVec 5) (b : BitVec 5) (k : BitVec 3) (t : EType) : Laws.RoundTrip.Statement (.vcle d a b k t) := by
  intro word hwf henc
  cases (show some (0x31#6 ++ 0x0#2 ++ d ++ a ++ b ++ k ++ t.code ++ 0x3#4 : Word32) = some word from henc)
  refine decode_of_raw ((raw_31 _ (fld_6_2_3_5_5_3_4_4_26 ..)).trans ?_) hwf
  simp only [decode31, fld_6_2_3_5_5_3_4_4_0, fld_6_2_3_5_5_3_4_4_4, fld_6_2_3_5_5_3_4_4_8, fld_6_2_3_5_5_3_4_4_11, fld_6_2_3_5_5_3_4_4_16, fld_6_2_3_5_5_3_4_4_21, fld_6_2_3_5_5_3_4_4_24, EType.ofCode_code, Option.map_some, Option.bind_some, BitVec.reduceEq, false_and, and_false, and_self, and_true, true_and, reduceIte]

/-- Round trip of kand. -/
theorem Laws.RoundTrip.kand (d : BitVec 3) (a : BitVec 3) (b : BitVec 3) : Laws.RoundTrip.Statement (.kand d a b) := by
  intro word hwf henc
  cases (show some (0x31#6 ++ 0x0#2 ++ d ++ 0x0#2 ++ a ++ 0x0#2 ++ b ++ 0x0#7 ++ 0x4#4 : Word32) = some word from henc)
  refine decode_of_raw ((raw_31 _ (fld_6_2_3_2_3_2_3_7_4_26 ..)).trans ?_) hwf
  simp only [decode31, fld_6_2_3_2_3_2_3_7_4_0, fld_6_2_3_2_3_2_3_7_4_4_4_z7, fld_6_2_3_2_3_2_3_7_4_4, fld_6_2_3_2_3_2_3_7_4_8_3_z7, fld_6_2_3_2_3_2_3_7_4_11, fld_6_2_3_2_3_2_3_7_4_14, fld_6_2_3_2_3_2_3_7_4_16, fld_6_2_3_2_3_2_3_7_4_19, fld_6_2_3_2_3_2_3_7_4_21, fld_6_2_3_2_3_2_3_7_4_24, BitVec.reduceEq, false_and, and_false, and_self, and_true, true_and, reduceIte]

/-- Round trip of kor. -/
theorem Laws.RoundTrip.kor (d : BitVec 3) (a : BitVec 3) (b : BitVec 3) : Laws.RoundTrip.Statement (.kor d a b) := by
  intro word hwf henc
  cases (show some (0x31#6 ++ 0x0#2 ++ d ++ 0x0#2 ++ a ++ 0x0#2 ++ b ++ 0x0#7 ++ 0x5#4 : Word32) = some word from henc)
  refine decode_of_raw ((raw_31 _ (fld_6_2_3_2_3_2_3_7_4_26 ..)).trans ?_) hwf
  simp only [decode31, fld_6_2_3_2_3_2_3_7_4_0, fld_6_2_3_2_3_2_3_7_4_4_4_z7, fld_6_2_3_2_3_2_3_7_4_4, fld_6_2_3_2_3_2_3_7_4_8_3_z7, fld_6_2_3_2_3_2_3_7_4_11, fld_6_2_3_2_3_2_3_7_4_14, fld_6_2_3_2_3_2_3_7_4_16, fld_6_2_3_2_3_2_3_7_4_19, fld_6_2_3_2_3_2_3_7_4_21, fld_6_2_3_2_3_2_3_7_4_24, BitVec.reduceEq, false_and, and_false, and_self, and_true, true_and, reduceIte]

/-- Round trip of kxor. -/
theorem Laws.RoundTrip.kxor (d : BitVec 3) (a : BitVec 3) (b : BitVec 3) : Laws.RoundTrip.Statement (.kxor d a b) := by
  intro word hwf henc
  cases (show some (0x31#6 ++ 0x0#2 ++ d ++ 0x0#2 ++ a ++ 0x0#2 ++ b ++ 0x0#7 ++ 0x6#4 : Word32) = some word from henc)
  refine decode_of_raw ((raw_31 _ (fld_6_2_3_2_3_2_3_7_4_26 ..)).trans ?_) hwf
  simp only [decode31, fld_6_2_3_2_3_2_3_7_4_0, fld_6_2_3_2_3_2_3_7_4_4_4_z7, fld_6_2_3_2_3_2_3_7_4_4, fld_6_2_3_2_3_2_3_7_4_8_3_z7, fld_6_2_3_2_3_2_3_7_4_11, fld_6_2_3_2_3_2_3_7_4_14, fld_6_2_3_2_3_2_3_7_4_16, fld_6_2_3_2_3_2_3_7_4_19, fld_6_2_3_2_3_2_3_7_4_21, fld_6_2_3_2_3_2_3_7_4_24, BitVec.reduceEq, false_and, and_false, and_self, and_true, true_and, reduceIte]

/-- Round trip of kandn. -/
theorem Laws.RoundTrip.kandn (d : BitVec 3) (a : BitVec 3) (b : BitVec 3) : Laws.RoundTrip.Statement (.kandn d a b) := by
  intro word hwf henc
  cases (show some (0x31#6 ++ 0x0#2 ++ d ++ 0x0#2 ++ a ++ 0x0#2 ++ b ++ 0x0#7 ++ 0x7#4 : Word32) = some word from henc)
  refine decode_of_raw ((raw_31 _ (fld_6_2_3_2_3_2_3_7_4_26 ..)).trans ?_) hwf
  simp only [decode31, fld_6_2_3_2_3_2_3_7_4_0, fld_6_2_3_2_3_2_3_7_4_4_4_z7, fld_6_2_3_2_3_2_3_7_4_4, fld_6_2_3_2_3_2_3_7_4_8_3_z7, fld_6_2_3_2_3_2_3_7_4_11, fld_6_2_3_2_3_2_3_7_4_14, fld_6_2_3_2_3_2_3_7_4_16, fld_6_2_3_2_3_2_3_7_4_19, fld_6_2_3_2_3_2_3_7_4_21, fld_6_2_3_2_3_2_3_7_4_24, BitVec.reduceEq, false_and, and_false, and_self, and_true, true_and, reduceIte]

/-- Round trip of knot. -/
theorem Laws.RoundTrip.knot (d : BitVec 3) (a : BitVec 3) : Laws.RoundTrip.Statement (.knot d a) := by
  intro word hwf henc
  cases (show some (0x31#6 ++ 0x0#2 ++ d ++ 0x0#2 ++ a ++ 0x0#12 ++ 0x8#4 : Word32) = some word from henc)
  refine decode_of_raw ((raw_31 _ (fld_6_2_3_2_3_12_4_26 ..)).trans ?_) hwf
  simp only [decode31, fld_6_2_3_2_3_12_4_0, fld_6_2_3_2_3_12_4_4_4_z5, fld_6_2_3_2_3_12_4_4_7_z5, fld_6_2_3_2_3_12_4_4, fld_6_2_3_2_3_12_4_8_3_z5, fld_6_2_3_2_3_12_4_11_3_z5, fld_6_2_3_2_3_12_4_11_5_z5, fld_6_2_3_2_3_12_4_14_2_z5, fld_6_2_3_2_3_12_4_16, fld_6_2_3_2_3_12_4_19, fld_6_2_3_2_3_12_4_21, fld_6_2_3_2_3_12_4_24, BitVec.reduceEq, false_and, and_false, and_self, and_true, true_and, reduceIte]

/-- Round trip of kset. -/
theorem Laws.RoundTrip.kset (d : BitVec 3) (a : BitVec 5) : Laws.RoundTrip.Statement (.kset d a) := by
  intro word hwf henc
  cases (show some (0x31#6 ++ 0x0#2 ++ d ++ a ++ 0x0#12 ++ 0x9#4 : Word32) = some word from henc)
  refine decode_of_raw ((raw_31 _ (fld_6_2_3_5_12_4_26 ..)).trans ?_) hwf
  simp only [decode31, fld_6_2_3_5_12_4_0, fld_6_2_3_5_12_4_4_4_z4, fld_6_2_3_5_12_4_4_7_z4, fld_6_2_3_5_12_4_4, fld_6_2_3_5_12_4_8_3_z4, fld_6_2_3_5_12_4_11_3_z4, fld_6_2_3_5_12_4_11_5_z4, fld_6_2_3_5_12_4_14_2_z4, fld_6_2_3_5_12_4_16, fld_6_2_3_5_12_4_21, fld_6_2_3_5_12_4_24, BitVec.reduceEq, false_and, and_false, and_self, and_true, true_and, reduceIte]

/-- Round trip of kget. -/
theorem Laws.RoundTrip.kget (d : BitVec 5) (a : BitVec 3) : Laws.RoundTrip.Statement (.kget d a) := by
  intro word hwf henc
  cases (show some (0x31#6 ++ d ++ 0x0#2 ++ a ++ 0x0#12 ++ 0xa#4 : Word32) = some word from henc)
  refine decode_of_raw ((raw_31 _ (fld_6_5_2_3_12_4_26 ..)).trans ?_) hwf
  simp only [decode31, fld_6_5_2_3_12_4_0, fld_6_5_2_3_12_4_4_4_z4, fld_6_5_2_3_12_4_4_7_z4, fld_6_5_2_3_12_4_4, fld_6_5_2_3_12_4_8_3_z4, fld_6_5_2_3_12_4_11_3_z4, fld_6_5_2_3_12_4_11_5_z4, fld_6_5_2_3_12_4_14_2_z4, fld_6_5_2_3_12_4_16, fld_6_5_2_3_12_4_19, fld_6_5_2_3_12_4_21, BitVec.reduceEq, false_and, and_false, and_self, and_true, true_and, reduceIte]

/-- Round trip of kpop. -/
theorem Laws.RoundTrip.kpop (d : BitVec 5) (a : BitVec 3) : Laws.RoundTrip.Statement (.kpop d a) := by
  intro word hwf henc
  cases (show some (0x31#6 ++ d ++ 0x0#2 ++ a ++ 0x0#12 ++ 0xb#4 : Word32) = some word from henc)
  refine decode_of_raw ((raw_31 _ (fld_6_5_2_3_12_4_26 ..)).trans ?_) hwf
  simp only [decode31, fld_6_5_2_3_12_4_0, fld_6_5_2_3_12_4_4_4_z4, fld_6_5_2_3_12_4_4_7_z4, fld_6_5_2_3_12_4_4, fld_6_5_2_3_12_4_8_3_z4, fld_6_5_2_3_12_4_11_3_z4, fld_6_5_2_3_12_4_11_5_z4, fld_6_5_2_3_12_4_14_2_z4, fld_6_5_2_3_12_4_16, fld_6_5_2_3_12_4_19, fld_6_5_2_3_12_4_21, BitVec.reduceEq, false_and, and_false, and_self, and_true, true_and, reduceIte]

/-- Round trip of vld. -/
theorem Laws.RoundTrip.vld (d : BitVec 5) (a : BitVec 5) (k : BitVec 3) (t : EType) : Laws.RoundTrip.Statement (.vld d a k t) := by
  intro word hwf henc
  cases (show some (0x32#6 ++ d ++ a ++ 0x0#5 ++ k ++ t.code ++ 0x0#4 : Word32) = some word from henc)
  refine decode_of_raw ((raw_32 _ (fld_6_5_5_5_3_4_4_26 ..)).trans ?_) hwf
  simp only [decode32, fld_6_5_5_5_3_4_4_0, fld_6_5_5_5_3_4_4_4, fld_6_5_5_5_3_4_4_8, fld_6_5_5_5_3_4_4_11, fld_6_5_5_5_3_4_4_16, fld_6_5_5_5_3_4_4_21, EType.ofCode_code, Option.map_some, Option.bind_some, BitVec.reduceEq, false_and, and_false, and_self, and_true, true_and, reduceIte]

/-- Round trip of vst. -/
theorem Laws.RoundTrip.vst (d : BitVec 5) (a : BitVec 5) (k : BitVec 3) (t : EType) : Laws.RoundTrip.Statement (.vst d a k t) := by
  intro word hwf henc
  cases (show some (0x32#6 ++ d ++ a ++ 0x0#5 ++ k ++ t.code ++ 0x1#4 : Word32) = some word from henc)
  refine decode_of_raw ((raw_32 _ (fld_6_5_5_5_3_4_4_26 ..)).trans ?_) hwf
  simp only [decode32, fld_6_5_5_5_3_4_4_0, fld_6_5_5_5_3_4_4_4, fld_6_5_5_5_3_4_4_8, fld_6_5_5_5_3_4_4_11, fld_6_5_5_5_3_4_4_16, fld_6_5_5_5_3_4_4_21, EType.ofCode_code, Option.map_some, Option.bind_some, BitVec.reduceEq, false_and, and_false, and_self, and_true, true_and, reduceIte]

/-- Round trip of vlds. -/
theorem Laws.RoundTrip.vlds (d : BitVec 5) (a : BitVec 5) (b : BitVec 5) (k : BitVec 3) (t : EType) : Laws.RoundTrip.Statement (.vlds d a b k t) := by
  intro word hwf henc
  cases (show some (0x32#6 ++ d ++ a ++ b ++ k ++ t.code ++ 0x2#4 : Word32) = some word from henc)
  refine decode_of_raw ((raw_32 _ (fld_6_5_5_5_3_4_4_26 ..)).trans ?_) hwf
  simp only [decode32, fld_6_5_5_5_3_4_4_0, fld_6_5_5_5_3_4_4_4, fld_6_5_5_5_3_4_4_8, fld_6_5_5_5_3_4_4_11, fld_6_5_5_5_3_4_4_16, fld_6_5_5_5_3_4_4_21, EType.ofCode_code, Option.map_some, Option.bind_some, BitVec.reduceEq, false_and, and_false, and_self, and_true, true_and, reduceIte]

/-- Round trip of vsts. -/
theorem Laws.RoundTrip.vsts (d : BitVec 5) (a : BitVec 5) (b : BitVec 5) (k : BitVec 3) (t : EType) : Laws.RoundTrip.Statement (.vsts d a b k t) := by
  intro word hwf henc
  cases (show some (0x32#6 ++ d ++ a ++ b ++ k ++ t.code ++ 0x3#4 : Word32) = some word from henc)
  refine decode_of_raw ((raw_32 _ (fld_6_5_5_5_3_4_4_26 ..)).trans ?_) hwf
  simp only [decode32, fld_6_5_5_5_3_4_4_0, fld_6_5_5_5_3_4_4_4, fld_6_5_5_5_3_4_4_8, fld_6_5_5_5_3_4_4_11, fld_6_5_5_5_3_4_4_16, fld_6_5_5_5_3_4_4_21, EType.ofCode_code, Option.map_some, Option.bind_some, BitVec.reduceEq, false_and, and_false, and_self, and_true, true_and, reduceIte]

/-- Round trip of vgather. -/
theorem Laws.RoundTrip.vgather (d : BitVec 5) (a : BitVec 5) (b : BitVec 5) (k : BitVec 3) (t : EType) : Laws.RoundTrip.Statement (.vgather d a b k t) := by
  intro word hwf henc
  cases (show some (0x32#6 ++ d ++ a ++ b ++ k ++ t.code ++ 0x4#4 : Word32) = some word from henc)
  refine decode_of_raw ((raw_32 _ (fld_6_5_5_5_3_4_4_26 ..)).trans ?_) hwf
  simp only [decode32, fld_6_5_5_5_3_4_4_0, fld_6_5_5_5_3_4_4_4, fld_6_5_5_5_3_4_4_8, fld_6_5_5_5_3_4_4_11, fld_6_5_5_5_3_4_4_16, fld_6_5_5_5_3_4_4_21, EType.ofCode_code, Option.map_some, Option.bind_some, BitVec.reduceEq, false_and, and_false, and_self, and_true, true_and, reduceIte]

/-- Round trip of vscatter. -/
theorem Laws.RoundTrip.vscatter (d : BitVec 5) (a : BitVec 5) (b : BitVec 5) (k : BitVec 3) (t : EType) : Laws.RoundTrip.Statement (.vscatter d a b k t) := by
  intro word hwf henc
  cases (show some (0x32#6 ++ d ++ a ++ b ++ k ++ t.code ++ 0x5#4 : Word32) = some word from henc)
  refine decode_of_raw ((raw_32 _ (fld_6_5_5_5_3_4_4_26 ..)).trans ?_) hwf
  simp only [decode32, fld_6_5_5_5_3_4_4_0, fld_6_5_5_5_3_4_4_4, fld_6_5_5_5_3_4_4_8, fld_6_5_5_5_3_4_4_11, fld_6_5_5_5_3_4_4_16, fld_6_5_5_5_3_4_4_21, EType.ofCode_code, Option.map_some, Option.bind_some, BitVec.reduceEq, false_and, and_false, and_self, and_true, true_and, reduceIte]

/-- Round trip of vldr. -/
theorem Laws.RoundTrip.vldr (d : BitVec 5) (a : BitVec 5) (k : BitVec 3) (t : EType) : Laws.RoundTrip.Statement (.vldr d a k t) := by
  intro word hwf henc
  cases (show some (0x32#6 ++ d ++ a ++ 0x0#5 ++ k ++ t.code ++ 0x6#4 : Word32) = some word from henc)
  refine decode_of_raw ((raw_32 _ (fld_6_5_5_5_3_4_4_26 ..)).trans ?_) hwf
  simp only [decode32, fld_6_5_5_5_3_4_4_0, fld_6_5_5_5_3_4_4_4, fld_6_5_5_5_3_4_4_8, fld_6_5_5_5_3_4_4_11, fld_6_5_5_5_3_4_4_16, fld_6_5_5_5_3_4_4_21, EType.ofCode_code, Option.map_some, Option.bind_some, BitVec.reduceEq, false_and, and_false, and_self, and_true, true_and, reduceIte]

/-- Round trip of vstr. -/
theorem Laws.RoundTrip.vstr (d : BitVec 5) (a : BitVec 5) (k : BitVec 3) (t : EType) : Laws.RoundTrip.Statement (.vstr d a k t) := by
  intro word hwf henc
  cases (show some (0x32#6 ++ d ++ a ++ 0x0#5 ++ k ++ t.code ++ 0x7#4 : Word32) = some word from henc)
  refine decode_of_raw ((raw_32 _ (fld_6_5_5_5_3_4_4_26 ..)).trans ?_) hwf
  simp only [decode32, fld_6_5_5_5_3_4_4_0, fld_6_5_5_5_3_4_4_4, fld_6_5_5_5_3_4_4_8, fld_6_5_5_5_3_4_4_11, fld_6_5_5_5_3_4_4_16, fld_6_5_5_5_3_4_4_21, EType.ofCode_code, Option.map_some, Option.bind_some, BitVec.reduceEq, false_and, and_false, and_self, and_true, true_and, reduceIte]

/-- Round trip of vsel. -/
theorem Laws.RoundTrip.vsel (d : BitVec 5) (a : BitVec 5) (b : BitVec 5) (k : BitVec 3) (t : EType) : Laws.RoundTrip.Statement (.vsel d a b k t) := by
  intro word hwf henc
  cases (show some (0x33#6 ++ d ++ a ++ b ++ k ++ t.code ++ 0x0#4 : Word32) = some word from henc)
  refine decode_of_raw ((raw_33 _ (fld_6_5_5_5_3_4_4_26 ..)).trans ?_) hwf
  simp only [decode33, fld_6_5_5_5_3_4_4_0, fld_6_5_5_5_3_4_4_4, fld_6_5_5_5_3_4_4_8, fld_6_5_5_5_3_4_4_11, fld_6_5_5_5_3_4_4_16, fld_6_5_5_5_3_4_4_21, EType.ofCode_code, Option.map_some, Option.bind_some, BitVec.reduceEq, false_and, and_false, and_self, and_true, true_and, reduceIte]

/-- Round trip of vbcast. -/
theorem Laws.RoundTrip.vbcast (d : BitVec 5) (a : BitVec 5) (k : BitVec 3) (t : EType) : Laws.RoundTrip.Statement (.vbcast d a k t) := by
  intro word hwf henc
  cases (show some (0x33#6 ++ d ++ a ++ 0x0#5 ++ k ++ t.code ++ 0x1#4 : Word32) = some word from henc)
  refine decode_of_raw ((raw_33 _ (fld_6_5_5_5_3_4_4_26 ..)).trans ?_) hwf
  simp only [decode33, fld_6_5_5_5_3_4_4_0, fld_6_5_5_5_3_4_4_4, fld_6_5_5_5_3_4_4_8, fld_6_5_5_5_3_4_4_11_4_z3, fld_6_5_5_5_3_4_4_11, fld_6_5_5_5_3_4_4_15_1_z3, fld_6_5_5_5_3_4_4_16, fld_6_5_5_5_3_4_4_21, EType.ofCode_code, Option.map_some, Option.bind_some, BitVec.reduceEq, false_and, and_false, and_self, and_true, true_and, reduceIte]

/-- Round trip of vperm. -/
theorem Laws.RoundTrip.vperm (d : BitVec 5) (a : BitVec 5) (b : BitVec 5) (k : BitVec 3) (t : EType) : Laws.RoundTrip.Statement (.vperm d a b k t) := by
  intro word hwf henc
  cases (show some (0x33#6 ++ d ++ a ++ b ++ k ++ t.code ++ 0x2#4 : Word32) = some word from henc)
  refine decode_of_raw ((raw_33 _ (fld_6_5_5_5_3_4_4_26 ..)).trans ?_) hwf
  simp only [decode33, fld_6_5_5_5_3_4_4_0, fld_6_5_5_5_3_4_4_4, fld_6_5_5_5_3_4_4_8, fld_6_5_5_5_3_4_4_11, fld_6_5_5_5_3_4_4_16, fld_6_5_5_5_3_4_4_21, EType.ofCode_code, Option.map_some, Option.bind_some, BitVec.reduceEq, false_and, and_false, and_self, and_true, true_and, reduceIte]

/-- Round trip of vshuf. -/
theorem Laws.RoundTrip.vshuf (d : BitVec 5) (a : BitVec 5) (b : BitVec 5) (k : BitVec 3) (t : EType) : Laws.RoundTrip.Statement (.vshuf d a b k t) := by
  intro word hwf henc
  cases (show some (0x33#6 ++ d ++ a ++ b ++ k ++ t.code ++ 0x3#4 : Word32) = some word from henc)
  refine decode_of_raw ((raw_33 _ (fld_6_5_5_5_3_4_4_26 ..)).trans ?_) hwf
  simp only [decode33, fld_6_5_5_5_3_4_4_0, fld_6_5_5_5_3_4_4_4, fld_6_5_5_5_3_4_4_8, fld_6_5_5_5_3_4_4_11, fld_6_5_5_5_3_4_4_16, fld_6_5_5_5_3_4_4_21, EType.ofCode_code, Option.map_some, Option.bind_some, BitVec.reduceEq, false_and, and_false, and_self, and_true, true_and, reduceIte]

/-- Round trip of viota. -/
theorem Laws.RoundTrip.viota (d : BitVec 5) (k : BitVec 3) (t : EType) : Laws.RoundTrip.Statement (.viota d k t) := by
  intro word hwf henc
  cases (show some (0x33#6 ++ d ++ 0x0#10 ++ k ++ t.code ++ 0x4#4 : Word32) = some word from henc)
  refine decode_of_raw ((raw_33 _ (fld_6_5_10_3_4_4_26 ..)).trans ?_) hwf
  simp only [decode33, fld_6_5_10_3_4_4_0, fld_6_5_10_3_4_4_4, fld_6_5_10_3_4_4_8, fld_6_5_10_3_4_4_11_4_z2, fld_6_5_10_3_4_4_11_5_z2, fld_6_5_10_3_4_4_11, fld_6_5_10_3_4_4_15_1_z2, fld_6_5_10_3_4_4_16_5_z2, fld_6_5_10_3_4_4_21, EType.ofCode_code, Option.map_some, Option.bind_some, BitVec.reduceEq, false_and, and_false, and_self, and_true, true_and, reduceIte]

/-- Round trip of vext. -/
theorem Laws.RoundTrip.vext (d : BitVec 5) (a : BitVec 5) (b : BitVec 5) (t : EType) : Laws.RoundTrip.Statement (.vext d a b t) := by
  intro word hwf henc
  cases (show some (0x33#6 ++ d ++ a ++ b ++ 0x0#3 ++ t.code ++ 0x5#4 : Word32) = some word from henc)
  refine decode_of_raw ((raw_33 _ (fld_6_5_5_5_3_4_4_26 ..)).trans ?_) hwf
  simp only [decode33, fld_6_5_5_5_3_4_4_0, fld_6_5_5_5_3_4_4_4, fld_6_5_5_5_3_4_4_8, fld_6_5_5_5_3_4_4_11, fld_6_5_5_5_3_4_4_16, fld_6_5_5_5_3_4_4_21, EType.ofCode_code, Option.map_some, Option.bind_some, BitVec.reduceEq, false_and, and_false, and_self, and_true, true_and, reduceIte]

/-- Round trip of vins. -/
theorem Laws.RoundTrip.vins (d : BitVec 5) (a : BitVec 5) (b : BitVec 5) (t : EType) : Laws.RoundTrip.Statement (.vins d a b t) := by
  intro word hwf henc
  cases (show some (0x33#6 ++ d ++ a ++ b ++ 0x0#3 ++ t.code ++ 0x6#4 : Word32) = some word from henc)
  refine decode_of_raw ((raw_33 _ (fld_6_5_5_5_3_4_4_26 ..)).trans ?_) hwf
  simp only [decode33, fld_6_5_5_5_3_4_4_0, fld_6_5_5_5_3_4_4_4, fld_6_5_5_5_3_4_4_8, fld_6_5_5_5_3_4_4_11, fld_6_5_5_5_3_4_4_16, fld_6_5_5_5_3_4_4_21, EType.ofCode_code, Option.map_some, Option.bind_some, BitVec.reduceEq, false_and, and_false, and_self, and_true, true_and, reduceIte]

/-- Round trip of vcvt. -/
theorem Laws.RoundTrip.vcvt (d : BitVec 5) (a : BitVec 5) (u : EType) (r : BitVec 3) (t : EType) : Laws.RoundTrip.Statement (.vcvt d a u r t) := by
  intro word hwf henc
  cases (show some (0x33#6 ++ d ++ a ++ 0x0#1 ++ u.code ++ r ++ t.code ++ 0x7#4 : Word32) = some word from henc)
  refine decode_of_raw ((raw_33 _ (fld_6_5_5_1_4_3_4_4_26 ..)).trans ?_) hwf
  simp only [decode33, fld_6_5_5_1_4_3_4_4_0, fld_6_5_5_1_4_3_4_4_4, fld_6_5_5_1_4_3_4_4_8, fld_6_5_5_1_4_3_4_4_11, fld_6_5_5_1_4_3_4_4_15, fld_6_5_5_1_4_3_4_4_16, fld_6_5_5_1_4_3_4_4_21, EType.ofCode_code, Option.map_some, Option.bind_some, BitVec.reduceEq, false_and, and_false, and_self, and_true, true_and, reduceIte]

/-- Round trip of vsld. -/
theorem Laws.RoundTrip.vsld (d : BitVec 5) (a : BitVec 5) (b : BitVec 5) (k : BitVec 3) (t : EType) : Laws.RoundTrip.Statement (.vsld d a b k t) := by
  intro word hwf henc
  cases (show some (0x33#6 ++ d ++ a ++ b ++ k ++ t.code ++ 0x8#4 : Word32) = some word from henc)
  refine decode_of_raw ((raw_33 _ (fld_6_5_5_5_3_4_4_26 ..)).trans ?_) hwf
  simp only [decode33, fld_6_5_5_5_3_4_4_0, fld_6_5_5_5_3_4_4_4, fld_6_5_5_5_3_4_4_8, fld_6_5_5_5_3_4_4_11, fld_6_5_5_5_3_4_4_16, fld_6_5_5_5_3_4_4_21, EType.ofCode_code, Option.map_some, Option.bind_some, BitVec.reduceEq, false_and, and_false, and_self, and_true, true_and, reduceIte]

/-- Round trip of vredsum. -/
theorem Laws.RoundTrip.vredsum (d : BitVec 5) (a : BitVec 5) (k : BitVec 3) (t : EType) : Laws.RoundTrip.Statement (.vredsum d a k t) := by
  intro word hwf henc
  cases (show some (0x33#6 ++ d ++ a ++ 0x0#5 ++ k ++ t.code ++ 0x9#4 : Word32) = some word from henc)
  refine decode_of_raw ((raw_33 _ (fld_6_5_5_5_3_4_4_26 ..)).trans ?_) hwf
  simp only [decode33, fld_6_5_5_5_3_4_4_0, fld_6_5_5_5_3_4_4_4, fld_6_5_5_5_3_4_4_8, fld_6_5_5_5_3_4_4_11_4_z3, fld_6_5_5_5_3_4_4_11, fld_6_5_5_5_3_4_4_15_1_z3, fld_6_5_5_5_3_4_4_16, fld_6_5_5_5_3_4_4_21, EType.ofCode_code, Option.map_some, Option.bind_some, BitVec.reduceEq, false_and, and_false, and_self, and_true, true_and, reduceIte]

/-- Round trip of vredmin. -/
theorem Laws.RoundTrip.vredmin (d : BitVec 5) (a : BitVec 5) (k : BitVec 3) (t : EType) : Laws.RoundTrip.Statement (.vredmin d a k t) := by
  intro word hwf henc
  cases (show some (0x33#6 ++ d ++ a ++ 0x0#5 ++ k ++ t.code ++ 0xa#4 : Word32) = some word from henc)
  refine decode_of_raw ((raw_33 _ (fld_6_5_5_5_3_4_4_26 ..)).trans ?_) hwf
  simp only [decode33, fld_6_5_5_5_3_4_4_0, fld_6_5_5_5_3_4_4_4, fld_6_5_5_5_3_4_4_8, fld_6_5_5_5_3_4_4_11_4_z3, fld_6_5_5_5_3_4_4_11, fld_6_5_5_5_3_4_4_15_1_z3, fld_6_5_5_5_3_4_4_16, fld_6_5_5_5_3_4_4_21, EType.ofCode_code, Option.map_some, Option.bind_some, BitVec.reduceEq, false_and, and_false, and_self, and_true, true_and, reduceIte]

/-- Round trip of vredmax. -/
theorem Laws.RoundTrip.vredmax (d : BitVec 5) (a : BitVec 5) (k : BitVec 3) (t : EType) : Laws.RoundTrip.Statement (.vredmax d a k t) := by
  intro word hwf henc
  cases (show some (0x33#6 ++ d ++ a ++ 0x0#5 ++ k ++ t.code ++ 0xb#4 : Word32) = some word from henc)
  refine decode_of_raw ((raw_33 _ (fld_6_5_5_5_3_4_4_26 ..)).trans ?_) hwf
  simp only [decode33, fld_6_5_5_5_3_4_4_0, fld_6_5_5_5_3_4_4_4, fld_6_5_5_5_3_4_4_8, fld_6_5_5_5_3_4_4_11_4_z3, fld_6_5_5_5_3_4_4_11, fld_6_5_5_5_3_4_4_15_1_z3, fld_6_5_5_5_3_4_4_16, fld_6_5_5_5_3_4_4_21, EType.ofCode_code, Option.map_some, Option.bind_some, BitVec.reduceEq, false_and, and_false, and_self, and_true, true_and, reduceIte]

/-- Round trip of vrand. -/
theorem Laws.RoundTrip.vrand (d : BitVec 5) (a : BitVec 5) (b : BitVec 5) (k : BitVec 3) (t : EType) : Laws.RoundTrip.Statement (.vrand d a b k t) := by
  intro word hwf henc
  cases (show some (0x33#6 ++ d ++ a ++ b ++ k ++ t.code ++ 0xc#4 : Word32) = some word from henc)
  refine decode_of_raw ((raw_33 _ (fld_6_5_5_5_3_4_4_26 ..)).trans ?_) hwf
  simp only [decode33, fld_6_5_5_5_3_4_4_0, fld_6_5_5_5_3_4_4_4, fld_6_5_5_5_3_4_4_8, fld_6_5_5_5_3_4_4_11, fld_6_5_5_5_3_4_4_16, fld_6_5_5_5_3_4_4_21, EType.ofCode_code, Option.map_some, Option.bind_some, BitVec.reduceEq, false_and, and_false, and_self, and_true, true_and, reduceIte]

/-- Round trip of vimm. -/
theorem Laws.RoundTrip.vimm (d : BitVec 5) (t : EType) (i : BitVec 16) : Laws.RoundTrip.Statement (.vimm d t i) := by
  intro word hwf henc
  cases (show some (0x34#6 ++ d ++ 0x0#1 ++ t.code ++ i : Word32) = some word from henc)
  refine decode_of_raw ((raw_34 _ (fld_6_5_1_4_16_26 ..)).trans ?_) hwf
  simp only [decode34, fld_6_5_1_4_16_0, fld_6_5_1_4_16_16, fld_6_5_1_4_16_20, fld_6_5_1_4_16_21, EType.ofCode_code, Option.map_some, Option.bind_some, BitVec.reduceEq, false_and, and_false, and_self, and_true, true_and, reduceIte]

/-- Round trip of vaddi. -/
theorem Laws.RoundTrip.vaddi (d : BitVec 5) (t : EType) (i : BitVec 16) : Laws.RoundTrip.Statement (.vaddi d t i) := by
  intro word hwf henc
  cases (show some (0x34#6 ++ d ++ 0x1#1 ++ t.code ++ i : Word32) = some word from henc)
  refine decode_of_raw ((raw_34 _ (fld_6_5_1_4_16_26 ..)).trans ?_) hwf
  simp only [decode34, fld_6_5_1_4_16_0, fld_6_5_1_4_16_16, fld_6_5_1_4_16_20, fld_6_5_1_4_16_21, EType.ofCode_code, Option.map_some, Option.bind_some, BitVec.reduceEq, false_and, and_false, and_self, and_true, true_and, reduceIte]

/-- Round trip of tdecl. -/
theorem Laws.RoundTrip.tdecl (a : BitVec 5) (b : BitVec 5) (d : BitVec 5) : Laws.RoundTrip.Statement (.tdecl a b d) := by
  intro word hwf henc
  cases (show some (0x38#6 ++ 0x0#6 ++ a ++ b ++ d ++ 0x0#5 : Word32) = some word from henc)
  refine decode_of_raw ((raw_38 _ (fld_6_6_5_5_5_5_26 ..)).trans ?_) hwf
  simp only [decode38, fld_6_6_5_5_5_5_0, fld_6_6_5_5_5_5_5, fld_6_6_5_5_5_5_10, fld_6_6_5_5_5_5_15, fld_6_6_5_5_5_5_20, BitVec.reduceEq, false_and, and_false, and_self, and_true, true_and, reduceIte]

/-- Round trip of tld. -/
theorem Laws.RoundTrip.tld (a : BitVec 5) (b : BitVec 5) : Laws.RoundTrip.Statement (.tld a b) := by
  intro word hwf henc
  cases (show some (0x38#6 ++ 0x1#6 ++ a ++ b ++ 0x0#10 : Word32) = some word from henc)
  refine decode_of_raw ((raw_38 _ (fld_6_6_5_5_10_26 ..)).trans ?_) hwf
  simp only [decode38, fld_6_6_5_5_10_0_5_z4, fld_6_6_5_5_10_0, fld_6_6_5_5_10_5_5_z4, fld_6_6_5_5_10_10, fld_6_6_5_5_10_15, fld_6_6_5_5_10_20, BitVec.reduceEq, false_and, and_false, and_self, and_true, true_and, reduceIte]

/-- Round trip of tldS. -/
theorem Laws.RoundTrip.tldS (a : BitVec 5) (b : BitVec 5) : Laws.RoundTrip.Statement (.tldS a b) := by
  intro word hwf henc
  cases (show some (0x38#6 ++ 0x1#6 ++ a ++ b ++ 0x1#10 : Word32) = some word from henc)
  refine decode_of_raw ((raw_38 _ (fld_6_6_5_5_10_26 ..)).trans ?_) hwf
  simp only [decode38, fld_6_6_5_5_10_0_5_c1, fld_6_6_5_5_10_0, fld_6_6_5_5_10_5_5_c1, fld_6_6_5_5_10_10, fld_6_6_5_5_10_15, fld_6_6_5_5_10_20, BitVec.reduceEq, false_and, and_false, and_self, and_true, true_and, reduceIte]

/-- Round trip of tfill. -/
theorem Laws.RoundTrip.tfill (a : BitVec 5) (b : BitVec 5) (v : BitVec 5) : Laws.RoundTrip.Statement (.tfill a b v) := by
  intro word hwf henc
  cases (show some (0x38#6 ++ 0x2#6 ++ a ++ b ++ 0x0#5 ++ v : Word32) = some word from henc)
  refine decode_of_raw ((raw_38 _ (fld_6_6_5_5_5_5_26 ..)).trans ?_) hwf
  simp only [decode38, fld_6_6_5_5_5_5_0, fld_6_6_5_5_5_5_5, fld_6_6_5_5_5_5_10, fld_6_6_5_5_5_5_15, fld_6_6_5_5_5_5_20, BitVec.reduceEq, false_and, and_false, and_self, and_true, true_and, reduceIte]

/-- Round trip of tseal. -/
theorem Laws.RoundTrip.tseal (a : BitVec 5) : Laws.RoundTrip.Statement (.tseal a) := by
  intro word hwf henc
  cases (show some (0x38#6 ++ 0x3#6 ++ a ++ 0x0#15 : Word32) = some word from henc)
  refine decode_of_raw ((raw_38 _ (fld_6_6_5_15_26 ..)).trans ?_) hwf
  simp only [decode38, fld_6_6_5_15_0_5_z3, fld_6_6_5_15_0_10_z3, fld_6_6_5_15_0, fld_6_6_5_15_5_5_z3, fld_6_6_5_15_10_5_z3, fld_6_6_5_15_15, fld_6_6_5_15_20, BitVec.reduceEq, false_and, and_false, and_self, and_true, true_and, reduceIte]

/-- Round trip of tget. -/
theorem Laws.RoundTrip.tget (a : BitVec 5) (b : BitVec 5) (v : BitVec 5) : Laws.RoundTrip.Statement (.tget a b v) := by
  intro word hwf henc
  cases (show some (0x38#6 ++ 0x4#6 ++ a ++ b ++ 0x0#5 ++ v : Word32) = some word from henc)
  refine decode_of_raw ((raw_38 _ (fld_6_6_5_5_5_5_26 ..)).trans ?_) hwf
  simp only [decode38, fld_6_6_5_5_5_5_0, fld_6_6_5_5_5_5_5, fld_6_6_5_5_5_5_10, fld_6_6_5_5_5_5_15, fld_6_6_5_5_5_5_20, BitVec.reduceEq, false_and, and_false, and_self, and_true, true_and, reduceIte]

/-- Round trip of tst. -/
theorem Laws.RoundTrip.tst (a : BitVec 5) (b : BitVec 5) : Laws.RoundTrip.Statement (.tst a b) := by
  intro word hwf henc
  cases (show some (0x38#6 ++ 0x5#6 ++ a ++ b ++ 0x0#10 : Word32) = some word from henc)
  refine decode_of_raw ((raw_38 _ (fld_6_6_5_5_10_26 ..)).trans ?_) hwf
  simp only [decode38, fld_6_6_5_5_10_0_5_z4, fld_6_6_5_5_10_0, fld_6_6_5_5_10_5_5_z4, fld_6_6_5_5_10_10, fld_6_6_5_5_10_15, fld_6_6_5_5_10_20, BitVec.reduceEq, false_and, and_false, and_self, and_true, true_and, reduceIte]

/-- Round trip of tstS. -/
theorem Laws.RoundTrip.tstS (a : BitVec 5) (b : BitVec 5) : Laws.RoundTrip.Statement (.tstS a b) := by
  intro word hwf henc
  cases (show some (0x38#6 ++ 0x5#6 ++ a ++ b ++ 0x1#10 : Word32) = some word from henc)
  refine decode_of_raw ((raw_38 _ (fld_6_6_5_5_10_26 ..)).trans ?_) hwf
  simp only [decode38, fld_6_6_5_5_10_0_5_c1, fld_6_6_5_5_10_0, fld_6_6_5_5_10_5_5_c1, fld_6_6_5_5_10_10, fld_6_6_5_5_10_15, fld_6_6_5_5_10_20, BitVec.reduceEq, false_and, and_false, and_self, and_true, true_and, reduceIte]

/-- Round trip of tkill. -/
theorem Laws.RoundTrip.tkill (a : BitVec 5) : Laws.RoundTrip.Statement (.tkill a) := by
  intro word hwf henc
  cases (show some (0x38#6 ++ 0x6#6 ++ a ++ 0x0#15 : Word32) = some word from henc)
  refine decode_of_raw ((raw_38 _ (fld_6_6_5_15_26 ..)).trans ?_) hwf
  simp only [decode38, fld_6_6_5_15_0_5_z3, fld_6_6_5_15_0_10_z3, fld_6_6_5_15_0, fld_6_6_5_15_5_5_z3, fld_6_6_5_15_10_5_z3, fld_6_6_5_15_15, fld_6_6_5_15_20, BitVec.reduceEq, false_and, and_false, and_self, and_true, true_and, reduceIte]

/-- Round trip of ttag. -/
theorem Laws.RoundTrip.ttag (a : BitVec 5) (d : BitVec 5) : Laws.RoundTrip.Statement (.ttag a d) := by
  intro word hwf henc
  cases (show some (0x38#6 ++ 0x7#6 ++ a ++ 0x0#5 ++ d ++ 0x0#5 : Word32) = some word from henc)
  refine decode_of_raw ((raw_38 _ (fld_6_6_5_5_5_5_26 ..)).trans ?_) hwf
  simp only [decode38, fld_6_6_5_5_5_5_0, fld_6_6_5_5_5_5_5, fld_6_6_5_5_5_5_10, fld_6_6_5_5_5_5_15, fld_6_6_5_5_5_5_20, BitVec.reduceEq, false_and, and_false, and_self, and_true, true_and, reduceIte]

/-- Round trip of mfmt. -/
theorem Laws.RoundTrip.mfmt (a : BitVec 5) : Laws.RoundTrip.Statement (.mfmt a) := by
  intro word hwf henc
  cases (show some (0x39#6 ++ 0x0#6 ++ a ++ 0x0#15 : Word32) = some word from henc)
  refine decode_of_raw ((raw_39 _ (fld_6_6_5_15_26 ..)).trans ?_) hwf
  simp only [decode39, fld_6_6_5_15_0_10_z3, fld_6_6_5_15_0, fld_6_6_5_15_10_5_z3, fld_6_6_5_15_15, fld_6_6_5_15_20, BitVec.reduceEq, false_and, and_false, and_self, and_true, true_and, reduceIte]

/-- Round trip of mlutA. -/
theorem Laws.RoundTrip.mlutA (a : BitVec 5) : Laws.RoundTrip.Statement (.mlutA a) := by
  intro word hwf henc
  cases (show some (0x39#6 ++ 0x1#6 ++ a ++ 0x0#15 : Word32) = some word from henc)
  refine decode_of_raw ((raw_39 _ (fld_6_6_5_15_26 ..)).trans ?_) hwf
  simp only [decode39, fld_6_6_5_15_0_10_z3, fld_6_6_5_15_0, fld_6_6_5_15_10_5_z3, fld_6_6_5_15_15, fld_6_6_5_15_20, BitVec.reduceEq, false_and, and_false, and_self, and_true, true_and, reduceIte]

/-- Round trip of mlutB. -/
theorem Laws.RoundTrip.mlutB (a : BitVec 5) : Laws.RoundTrip.Statement (.mlutB a) := by
  intro word hwf henc
  cases (show some (0x39#6 ++ 0x1#6 ++ a ++ 0x1#15 : Word32) = some word from henc)
  refine decode_of_raw ((raw_39 _ (fld_6_6_5_15_26 ..)).trans ?_) hwf
  simp only [decode39, fld_6_6_5_15_0_10_c1, fld_6_6_5_15_0, fld_6_6_5_15_10_5_c1, fld_6_6_5_15_15, fld_6_6_5_15_20, BitVec.reduceEq, false_and, and_false, and_self, and_true, true_and, reduceIte]

/-- Round trip of mlutA4. -/
theorem Laws.RoundTrip.mlutA4 (a : BitVec 5) : Laws.RoundTrip.Statement (.mlutA4 a) := by
  intro word hwf henc
  cases (show some (0x39#6 ++ 0x1#6 ++ a ++ 0x2#15 : Word32) = some word from henc)
  refine decode_of_raw ((raw_39 _ (fld_6_6_5_15_26 ..)).trans ?_) hwf
  simp only [decode39, fld_6_6_5_15_0_10_c2, fld_6_6_5_15_0, fld_6_6_5_15_10_5_c2, fld_6_6_5_15_15, fld_6_6_5_15_20, BitVec.reduceEq, false_and, and_false, and_self, and_true, true_and, reduceIte]

/-- Round trip of mlutB4. -/
theorem Laws.RoundTrip.mlutB4 (a : BitVec 5) : Laws.RoundTrip.Statement (.mlutB4 a) := by
  intro word hwf henc
  cases (show some (0x39#6 ++ 0x1#6 ++ a ++ 0x3#15 : Word32) = some word from henc)
  refine decode_of_raw ((raw_39 _ (fld_6_6_5_15_26 ..)).trans ?_) hwf
  simp only [decode39, fld_6_6_5_15_0_10_c3, fld_6_6_5_15_0, fld_6_6_5_15_10_5_c3, fld_6_6_5_15_15, fld_6_6_5_15_20, BitVec.reduceEq, false_and, and_false, and_self, and_true, true_and, reduceIte]

/-- Round trip of mzero. -/
theorem Laws.RoundTrip.mzero (a : BitVec 5) : Laws.RoundTrip.Statement (.mzero a) := by
  intro word hwf henc
  cases (show some (0x39#6 ++ 0x2#6 ++ a ++ 0x0#15 : Word32) = some word from henc)
  refine decode_of_raw ((raw_39 _ (fld_6_6_5_15_26 ..)).trans ?_) hwf
  simp only [decode39, fld_6_6_5_15_0_10_z3, fld_6_6_5_15_0, fld_6_6_5_15_10_5_z3, fld_6_6_5_15_15, fld_6_6_5_15_20, BitVec.reduceEq, false_and, and_false, and_self, and_true, true_and, reduceIte]

/-- Round trip of mma. -/
theorem Laws.RoundTrip.mma (a : BitVec 5) : Laws.RoundTrip.Statement (.mma a) := by
  intro word hwf henc
  cases (show some (0x39#6 ++ 0x3#6 ++ a ++ 0x0#15 : Word32) = some word from henc)
  refine decode_of_raw ((raw_39 _ (fld_6_6_5_15_26 ..)).trans ?_) hwf
  simp only [decode39, fld_6_6_5_15_0_10_z3, fld_6_6_5_15_0, fld_6_6_5_15_10_5_z3, fld_6_6_5_15_15, fld_6_6_5_15_20, BitVec.reduceEq, false_and, and_false, and_self, and_true, true_and, reduceIte]

/-- Round trip of mmaNc. -/
theorem Laws.RoundTrip.mmaNc (a : BitVec 5) : Laws.RoundTrip.Statement (.mmaNc a) := by
  intro word hwf henc
  cases (show some (0x39#6 ++ 0x3#6 ++ a ++ 0x1#15 : Word32) = some word from henc)
  refine decode_of_raw ((raw_39 _ (fld_6_6_5_15_26 ..)).trans ?_) hwf
  simp only [decode39, fld_6_6_5_15_0_10_c1, fld_6_6_5_15_0, fld_6_6_5_15_10_5_c1, fld_6_6_5_15_15, fld_6_6_5_15_20, BitVec.reduceEq, false_and, and_false, and_self, and_true, true_and, reduceIte]

/-- Round trip of mmax. -/
theorem Laws.RoundTrip.mmax (a : BitVec 5) (b : BitVec 5) : Laws.RoundTrip.Statement (.mmax a b) := by
  intro word hwf henc
  cases (show some (0x39#6 ++ 0x4#6 ++ a ++ b ++ 0x0#10 : Word32) = some word from henc)
  refine decode_of_raw ((raw_39 _ (fld_6_6_5_5_10_26 ..)).trans ?_) hwf
  simp only [decode39, fld_6_6_5_5_10_0, fld_6_6_5_5_10_10, fld_6_6_5_5_10_15, fld_6_6_5_5_10_20, BitVec.reduceEq, false_and, and_false, and_self, and_true, true_and, reduceIte]

/-- Round trip of mmaxNc. -/
theorem Laws.RoundTrip.mmaxNc (a : BitVec 5) (b : BitVec 5) : Laws.RoundTrip.Statement (.mmaxNc a b) := by
  intro word hwf henc
  cases (show some (0x39#6 ++ 0x4#6 ++ a ++ b ++ 0x1#10 : Word32) = some word from henc)
  refine decode_of_raw ((raw_39 _ (fld_6_6_5_5_10_26 ..)).trans ?_) hwf
  simp only [decode39, fld_6_6_5_5_10_0, fld_6_6_5_5_10_10, fld_6_6_5_5_10_15, fld_6_6_5_5_10_20, BitVec.reduceEq, false_and, and_false, and_self, and_true, true_and, reduceIte]

/-- Round trip of mtrn. -/
theorem Laws.RoundTrip.mtrn (a : BitVec 5) : Laws.RoundTrip.Statement (.mtrn a) := by
  intro word hwf henc
  cases (show some (0x39#6 ++ 0x5#6 ++ a ++ 0x0#15 : Word32) = some word from henc)
  refine decode_of_raw ((raw_39 _ (fld_6_6_5_15_26 ..)).trans ?_) hwf
  simp only [decode39, fld_6_6_5_15_0_10_z3, fld_6_6_5_15_0, fld_6_6_5_15_10_5_z3, fld_6_6_5_15_15, fld_6_6_5_15_20, BitVec.reduceEq, false_and, and_false, and_self, and_true, true_and, reduceIte]

/-- Round trip of mcvt. -/
theorem Laws.RoundTrip.mcvt (a : BitVec 5) : Laws.RoundTrip.Statement (.mcvt a) := by
  intro word hwf henc
  cases (show some (0x39#6 ++ 0x6#6 ++ a ++ 0x0#15 : Word32) = some word from henc)
  refine decode_of_raw ((raw_39 _ (fld_6_6_5_15_26 ..)).trans ?_) hwf
  simp only [decode39, fld_6_6_5_15_0_10_z3, fld_6_6_5_15_0, fld_6_6_5_15_10_5_z3, fld_6_6_5_15_15, fld_6_6_5_15_20, BitVec.reduceEq, false_and, and_false, and_self, and_true, true_and, reduceIte]

/-- Round trip of sendEnt. -/
theorem Laws.RoundTrip.sendEnt (a : BitVec 5) (b : BitVec 5) : Laws.RoundTrip.Statement (.sendEnt a b) := by
  intro word hwf henc
  cases (show some (0x3a#6 ++ 0x0#6 ++ a ++ b ++ 0x0#10 : Word32) = some word from henc)
  refine decode_of_raw ((raw_3a _ (fld_6_6_5_5_10_26 ..)).trans ?_) hwf
  simp only [decode3A, fld_6_6_5_5_10_0_5_z4, fld_6_6_5_5_10_0, fld_6_6_5_5_10_5_5_z4, fld_6_6_5_5_10_10, fld_6_6_5_5_10_15, fld_6_6_5_5_10_20, BitVec.reduceEq, false_and, and_false, and_self, and_true, true_and, reduceIte]

/-- Round trip of sendCode. -/
theorem Laws.RoundTrip.sendCode (a : BitVec 5) (b : BitVec 5) : Laws.RoundTrip.Statement (.sendCode a b) := by
  intro word hwf henc
  cases (show some (0x3a#6 ++ 0x0#6 ++ a ++ b ++ 0x1#10 : Word32) = some word from henc)
  refine decode_of_raw ((raw_3a _ (fld_6_6_5_5_10_26 ..)).trans ?_) hwf
  simp only [decode3A, fld_6_6_5_5_10_0_5_c1, fld_6_6_5_5_10_0, fld_6_6_5_5_10_5_5_c1, fld_6_6_5_5_10_10, fld_6_6_5_5_10_15, fld_6_6_5_5_10_20, BitVec.reduceEq, false_and, and_false, and_self, and_true, true_and, reduceIte]

/-- Round trip of sendData. -/
theorem Laws.RoundTrip.sendData (a : BitVec 5) (b : BitVec 5) : Laws.RoundTrip.Statement (.sendData a b) := by
  intro word hwf henc
  cases (show some (0x3a#6 ++ 0x0#6 ++ a ++ b ++ 0x2#10 : Word32) = some word from henc)
  refine decode_of_raw ((raw_3a _ (fld_6_6_5_5_10_26 ..)).trans ?_) hwf
  simp only [decode3A, fld_6_6_5_5_10_0_5_c2, fld_6_6_5_5_10_0, fld_6_6_5_5_10_5_5_c2, fld_6_6_5_5_10_10, fld_6_6_5_5_10_15, fld_6_6_5_5_10_20, BitVec.reduceEq, false_and, and_false, and_self, and_true, true_and, reduceIte]

/-- Round trip of sendCnt. -/
theorem Laws.RoundTrip.sendCnt (a : BitVec 5) (b : BitVec 5) : Laws.RoundTrip.Statement (.sendCnt a b) := by
  intro word hwf henc
  cases (show some (0x3a#6 ++ 0x0#6 ++ a ++ b ++ 0x3#10 : Word32) = some word from henc)
  refine decode_of_raw ((raw_3a _ (fld_6_6_5_5_10_26 ..)).trans ?_) hwf
  simp only [decode3A, fld_6_6_5_5_10_0_5_c3, fld_6_6_5_5_10_0, fld_6_6_5_5_10_5_5_c3, fld_6_6_5_5_10_10, fld_6_6_5_5_10_15, fld_6_6_5_5_10_20, BitVec.reduceEq, false_and, and_false, and_self, and_true, true_and, reduceIte]

/-- Round trip of mw. -/
theorem Laws.RoundTrip.mw (a : BitVec 5) (d : BitVec 5) : Laws.RoundTrip.Statement (.mw a d) := by
  intro word hwf henc
  cases (show some (0x3a#6 ++ 0x1#6 ++ a ++ 0x0#5 ++ d ++ 0x0#5 : Word32) = some word from henc)
  refine decode_of_raw ((raw_3a _ (fld_6_6_5_5_5_5_26 ..)).trans ?_) hwf
  simp only [decode3A, fld_6_6_5_5_5_5_0, fld_6_6_5_5_5_5_5, fld_6_6_5_5_5_5_10, fld_6_6_5_5_5_5_15, fld_6_6_5_5_5_5_20, BitVec.reduceEq, false_and, and_false, and_self, and_true, true_and, reduceIte]

/-- Round trip of mrel. -/
theorem Laws.RoundTrip.mrel : Laws.RoundTrip.Statement (.mrel) := by
  intro word hwf henc
  cases (show some (0x3a#6 ++ 0x2#6 ++ 0x0#20 : Word32) = some word from henc)
  refine decode_of_raw ((raw_3a _ (fld_6_6_20_26 ..)).trans ?_) hwf
  simp only [decode3A, fld_6_6_20_0_5_z2, fld_6_6_20_0_10_z2, fld_6_6_20_0, fld_6_6_20_5_5_z2, fld_6_6_20_10_5_z2, fld_6_6_20_15_5_z2, fld_6_6_20_20, BitVec.reduceEq, false_and, and_false, and_self, and_true, true_and, reduceIte]

/-- Round trip of hret. -/
theorem Laws.RoundTrip.hret : Laws.RoundTrip.Statement (.hret) := by
  intro word hwf henc
  cases (show some (0x3a#6 ++ 0x3#6 ++ 0x0#20 : Word32) = some word from henc)
  refine decode_of_raw ((raw_3a _ (fld_6_6_20_26 ..)).trans ?_) hwf
  simp only [decode3A, fld_6_6_20_0_5_z2, fld_6_6_20_0_10_z2, fld_6_6_20_0, fld_6_6_20_5_5_z2, fld_6_6_20_10_5_z2, fld_6_6_20_15_5_z2, fld_6_6_20_20, BitVec.reduceEq, false_and, and_false, and_self, and_true, true_and, reduceIte]

/-- Round trip of dqput. -/
theorem Laws.RoundTrip.dqput (a : BitVec 5) : Laws.RoundTrip.Statement (.dqput a) := by
  intro word hwf henc
  cases (show some (0x3b#6 ++ 0x0#6 ++ a ++ 0x0#15 : Word32) = some word from henc)
  refine decode_of_raw ((raw_3b _ (fld_6_6_5_15_26 ..)).trans ?_) hwf
  simp only [decode3B, fld_6_6_5_15_0_5_z3, fld_6_6_5_15_0_10_z3, fld_6_6_5_15_0, fld_6_6_5_15_5_5_z3, fld_6_6_5_15_10_5_z3, fld_6_6_5_15_15, fld_6_6_5_15_20, BitVec.reduceEq, false_and, and_false, and_self, and_true, true_and, reduceIte]

/-- Round trip of dqtake. -/
theorem Laws.RoundTrip.dqtake (b : BitVec 5) (d : BitVec 5) : Laws.RoundTrip.Statement (.dqtake b d) := by
  intro word hwf henc
  cases (show some (0x3b#6 ++ 0x1#6 ++ 0x0#5 ++ b ++ d ++ 0x0#5 : Word32) = some word from henc)
  refine decode_of_raw ((raw_3b _ (fld_6_6_5_5_5_5_26 ..)).trans ?_) hwf
  simp only [decode3B, fld_6_6_5_5_5_5_0, fld_6_6_5_5_5_5_5, fld_6_6_5_5_5_5_10, fld_6_6_5_5_5_5_15_3_z2, fld_6_6_5_5_5_5_15, fld_6_6_5_5_5_5_18_2_z2, fld_6_6_5_5_5_5_20, BitVec.reduceEq, false_and, and_false, and_self, and_true, true_and, reduceIte]

/-- Round trip of launch. -/
theorem Laws.RoundTrip.launch (a : BitVec 5) (b : BitVec 5) (d : BitVec 5) : Laws.RoundTrip.Statement (.launch a b d) := by
  intro word hwf henc
  cases (show some (0x3b#6 ++ 0x2#6 ++ a ++ b ++ d ++ 0x0#5 : Word32) = some word from henc)
  refine decode_of_raw ((raw_3b _ (fld_6_6_5_5_5_5_26 ..)).trans ?_) hwf
  simp only [decode3B, fld_6_6_5_5_5_5_0, fld_6_6_5_5_5_5_5, fld_6_6_5_5_5_5_10, fld_6_6_5_5_5_5_15, fld_6_6_5_5_5_5_20, BitVec.reduceEq, false_and, and_false, and_self, and_true, true_and, reduceIte]

/-- Round trip of launchGang. -/
theorem Laws.RoundTrip.launchGang (a : BitVec 5) (b : BitVec 5) (d : BitVec 5) : Laws.RoundTrip.Statement (.launchGang a b d) := by
  intro word hwf henc
  cases (show some (0x3b#6 ++ 0x2#6 ++ a ++ b ++ d ++ 0x1#5 : Word32) = some word from henc)
  refine decode_of_raw ((raw_3b _ (fld_6_6_5_5_5_5_26 ..)).trans ?_) hwf
  simp only [decode3B, fld_6_6_5_5_5_5_0, fld_6_6_5_5_5_5_5, fld_6_6_5_5_5_5_10, fld_6_6_5_5_5_5_15, fld_6_6_5_5_5_5_20, BitVec.reduceEq, false_and, and_false, and_self, and_true, true_and, reduceIte]

/-- Round trip of trigger. -/
theorem Laws.RoundTrip.trigger : Laws.RoundTrip.Statement (.trigger) := by
  intro word hwf henc
  cases (show some (0x3b#6 ++ 0x3#6 ++ 0x0#20 : Word32) = some word from henc)
  refine decode_of_raw ((raw_3b _ (fld_6_6_20_26 ..)).trans ?_) hwf
  simp only [decode3B, fld_6_6_20_0_5_z2, fld_6_6_20_0_10_z2, fld_6_6_20_0_15_z2, fld_6_6_20_0, fld_6_6_20_5_5_z2, fld_6_6_20_10_5_z2, fld_6_6_20_15_3_z2, fld_6_6_20_15_5_z2, fld_6_6_20_18_2_z2, fld_6_6_20_20, BitVec.reduceEq, false_and, and_false, and_self, and_true, true_and, reduceIte]

/-- Round trip of spawn. -/
theorem Laws.RoundTrip.spawn (a : BitVec 5) (b : BitVec 5) : Laws.RoundTrip.Statement (.spawn a b) := by
  intro word hwf henc
  cases (show some (0x3b#6 ++ 0x4#6 ++ a ++ b ++ 0x0#10 : Word32) = some word from henc)
  refine decode_of_raw ((raw_3b _ (fld_6_6_5_5_10_26 ..)).trans ?_) hwf
  simp only [decode3B, fld_6_6_5_5_10_0_5_z4, fld_6_6_5_5_10_0, fld_6_6_5_5_10_5_5_z4, fld_6_6_5_5_10_10, fld_6_6_5_5_10_15, fld_6_6_5_5_10_20, BitVec.reduceEq, false_and, and_false, and_self, and_true, true_and, reduceIte]

/-- Round trip of spawnH. -/
theorem Laws.RoundTrip.spawnH (a : BitVec 5) (b : BitVec 5) : Laws.RoundTrip.Statement (.spawnH a b) := by
  intro word hwf henc
  cases (show some (0x3b#6 ++ 0x4#6 ++ a ++ b ++ 0x1#10 : Word32) = some word from henc)
  refine decode_of_raw ((raw_3b _ (fld_6_6_5_5_10_26 ..)).trans ?_) hwf
  simp only [decode3B, fld_6_6_5_5_10_0_5_c1, fld_6_6_5_5_10_0, fld_6_6_5_5_10_5_5_c1, fld_6_6_5_5_10_10, fld_6_6_5_5_10_15, fld_6_6_5_5_10_20, BitVec.reduceEq, false_and, and_false, and_self, and_true, true_and, reduceIte]

/-- Round trip of pres. -/
theorem Laws.RoundTrip.pres (h : BitVec 3) (d : BitVec 5) : Laws.RoundTrip.Statement (.pres h d) := by
  intro word hwf henc
  cases (show some (0x3b#6 ++ 0x5#6 ++ 0x0#2 ++ h ++ 0x0#5 ++ d ++ 0x0#5 : Word32) = some word from henc)
  refine decode_of_raw ((raw_3b _ (fld_6_6_2_3_5_5_5_26 ..)).trans ?_) hwf
  simp only [decode3B, fld_6_6_2_3_5_5_5_0, fld_6_6_2_3_5_5_5_5, fld_6_6_2_3_5_5_5_10, fld_6_6_2_3_5_5_5_15, fld_6_6_2_3_5_5_5_18, fld_6_6_2_3_5_5_5_20, BitVec.reduceEq, false_and, and_false, and_self, and_true, true_and, reduceIte]

/-- Round trip of pwait. -/
theorem Laws.RoundTrip.pwait (h : BitVec 3) (d : BitVec 5) : Laws.RoundTrip.Statement (.pwait h d) := by
  intro word hwf henc
  cases (show some (0x3b#6 ++ 0x6#6 ++ 0x0#2 ++ h ++ 0x0#5 ++ d ++ 0x0#5 : Word32) = some word from henc)
  refine decode_of_raw ((raw_3b _ (fld_6_6_2_3_5_5_5_26 ..)).trans ?_) hwf
  simp only [decode3B, fld_6_6_2_3_5_5_5_0, fld_6_6_2_3_5_5_5_5, fld_6_6_2_3_5_5_5_10, fld_6_6_2_3_5_5_5_15, fld_6_6_2_3_5_5_5_18, fld_6_6_2_3_5_5_5_20, BitVec.reduceEq, false_and, and_false, and_self, and_true, true_and, reduceIte]

/-- Round trip of padv. -/
theorem Laws.RoundTrip.padv (h : BitVec 3) : Laws.RoundTrip.Statement (.padv h) := by
  intro word hwf henc
  cases (show some (0x3b#6 ++ 0x7#6 ++ 0x0#2 ++ h ++ 0x0#15 : Word32) = some word from henc)
  refine decode_of_raw ((raw_3b _ (fld_6_6_2_3_15_26 ..)).trans ?_) hwf
  simp only [decode3B, fld_6_6_2_3_15_0_5_z4, fld_6_6_2_3_15_0_10_z4, fld_6_6_2_3_15_0, fld_6_6_2_3_15_5_5_z4, fld_6_6_2_3_15_10_5_z4, fld_6_6_2_3_15_15, fld_6_6_2_3_15_18, fld_6_6_2_3_15_20, BitVec.reduceEq, false_and, and_false, and_self, and_true, true_and, reduceIte]

/-- Round trip of resample. -/
theorem Laws.RoundTrip.resample (a : BitVec 5) (b : BitVec 5) (d : BitVec 5) : Laws.RoundTrip.Statement (.resample a b d) := by
  intro word hwf henc
  cases (show some (0x3b#6 ++ 0x8#6 ++ a ++ b ++ d ++ 0x0#5 : Word32) = some word from henc)
  refine decode_of_raw ((raw_3b _ (fld_6_6_5_5_5_5_26 ..)).trans ?_) hwf
  simp only [decode3B, fld_6_6_5_5_5_5_0, fld_6_6_5_5_5_5_5, fld_6_6_5_5_5_5_10, fld_6_6_5_5_5_5_15, fld_6_6_5_5_5_5_20, BitVec.reduceEq, false_and, and_false, and_self, and_true, true_and, reduceIte]

/-- Round trip of barset. -/
theorem Laws.RoundTrip.barset (a : BitVec 5) (b : BitVec 5) (d : BitVec 2) : Laws.RoundTrip.Statement (.barset a b d) := by
  intro word hwf henc
  cases (show some (0x3c#6 ++ 0x0#6 ++ a ++ b ++ 0x0#3 ++ d ++ 0x0#5 : Word32) = some word from henc)
  refine decode_of_raw ((raw_3c _ (fld_6_6_5_5_3_2_5_26 ..)).trans ?_) hwf
  simp only [decode3C, fld_6_6_5_5_3_2_5_0, fld_6_6_5_5_3_2_5_5, fld_6_6_5_5_3_2_5_7, fld_6_6_5_5_3_2_5_10, fld_6_6_5_5_3_2_5_15, fld_6_6_5_5_3_2_5_20, BitVec.reduceEq, false_and, and_false, and_self, and_true, true_and, reduceIte]

/-- Round trip of bararr. -/
theorem Laws.RoundTrip.bararr (d : BitVec 2) : Laws.RoundTrip.Statement (.bararr d) := by
  intro word hwf henc
  cases (show some (0x3c#6 ++ 0x1#6 ++ 0x0#13 ++ d ++ 0x0#5 : Word32) = some word from henc)
  refine decode_of_raw ((raw_3c _ (fld_6_6_13_2_5_26 ..)).trans ?_) hwf
  simp only [decode3C, fld_6_6_13_2_5_0, fld_6_6_13_2_5_5, fld_6_6_13_2_5_7_3_z2, fld_6_6_13_2_5_7, fld_6_6_13_2_5_10_5_z2, fld_6_6_13_2_5_10_10_z2, fld_6_6_13_2_5_15_5_z2, fld_6_6_13_2_5_20, BitVec.reduceEq, false_and, and_false, and_self, and_true, true_and, reduceIte]

/-- Round trip of barwait. -/
theorem Laws.RoundTrip.barwait (d : BitVec 2) : Laws.RoundTrip.Statement (.barwait d) := by
  intro word hwf henc
  cases (show some (0x3c#6 ++ 0x2#6 ++ 0x0#13 ++ d ++ 0x0#5 : Word32) = some word from henc)
  refine decode_of_raw ((raw_3c _ (fld_6_6_13_2_5_26 ..)).trans ?_) hwf
  simp only [decode3C, fld_6_6_13_2_5_0, fld_6_6_13_2_5_5, fld_6_6_13_2_5_7_3_z2, fld_6_6_13_2_5_7, fld_6_6_13_2_5_10_5_z2, fld_6_6_13_2_5_10_10_z2, fld_6_6_13_2_5_15_5_z2, fld_6_6_13_2_5_20, BitVec.reduceEq, false_and, and_false, and_self, and_true, true_and, reduceIte]

/-- Round trip of barleave. -/
theorem Laws.RoundTrip.barleave (d : BitVec 2) : Laws.RoundTrip.Statement (.barleave d) := by
  intro word hwf henc
  cases (show some (0x3c#6 ++ 0x3#6 ++ 0x0#13 ++ d ++ 0x0#5 : Word32) = some word from henc)
  refine decode_of_raw ((raw_3c _ (fld_6_6_13_2_5_26 ..)).trans ?_) hwf
  simp only [decode3C, fld_6_6_13_2_5_0, fld_6_6_13_2_5_5, fld_6_6_13_2_5_7_3_z2, fld_6_6_13_2_5_7, fld_6_6_13_2_5_10_5_z2, fld_6_6_13_2_5_10_10_z2, fld_6_6_13_2_5_15_5_z2, fld_6_6_13_2_5_20, BitVec.reduceEq, false_and, and_false, and_self, and_true, true_and, reduceIte]

/-- Round trip of barleaveO. -/
theorem Laws.RoundTrip.barleaveO (a : BitVec 5) (b : BitVec 5) : Laws.RoundTrip.Statement (.barleaveO a b) := by
  intro word hwf henc
  cases (show some (0x3c#6 ++ 0x3#6 ++ a ++ b ++ 0x1#10 : Word32) = some word from henc)
  refine decode_of_raw ((raw_3c _ (fld_6_6_5_5_10_26 ..)).trans ?_) hwf
  simp only [decode3C, fld_6_6_5_5_10_0_5_c1, fld_6_6_5_5_10_0, fld_6_6_5_5_10_5_2_c1, fld_6_6_5_5_10_5_5_c1, fld_6_6_5_5_10_7_3_c1, fld_6_6_5_5_10_10, fld_6_6_5_5_10_15, fld_6_6_5_5_10_20, BitVec.reduceEq, false_and, and_false, and_self, and_true, true_and, reduceIte]

/-- Round trip of still. -/
theorem Laws.RoundTrip.still (d : BitVec 5) : Laws.RoundTrip.Statement (.still d) := by
  intro word hwf henc
  cases (show some (0x3c#6 ++ 0x4#6 ++ 0x0#10 ++ d ++ 0x0#5 : Word32) = some word from henc)
  refine decode_of_raw ((raw_3c _ (fld_6_6_10_5_5_26 ..)).trans ?_) hwf
  simp only [decode3C, fld_6_6_10_5_5_0, fld_6_6_10_5_5_5, fld_6_6_10_5_5_10_5_z2, fld_6_6_10_5_5_10, fld_6_6_10_5_5_15_5_z2, fld_6_6_10_5_5_20, BitVec.reduceEq, false_and, and_false, and_self, and_true, true_and, reduceIte]

/-- Round trip of stillTo. -/
theorem Laws.RoundTrip.stillTo (a : BitVec 5) (d : BitVec 5) : Laws.RoundTrip.Statement (.stillTo a d) := by
  intro word hwf henc
  cases (show some (0x3c#6 ++ 0x4#6 ++ a ++ 0x0#5 ++ d ++ 0x1#5 : Word32) = some word from henc)
  refine decode_of_raw ((raw_3c _ (fld_6_6_5_5_5_5_26 ..)).trans ?_) hwf
  simp only [decode3C, fld_6_6_5_5_5_5_0, fld_6_6_5_5_5_5_5, fld_6_6_5_5_5_5_10, fld_6_6_5_5_5_5_15, fld_6_6_5_5_5_5_20, BitVec.reduceEq, false_and, and_false, and_self, and_true, true_and, reduceIte]

/-- Round trip of qcount. -/
theorem Laws.RoundTrip.qcount (a : BitVec 5) (d : BitVec 5) : Laws.RoundTrip.Statement (.qcount a d) := by
  intro word hwf henc
  cases (show some (0x3c#6 ++ 0x5#6 ++ a ++ 0x0#5 ++ d ++ 0x0#5 : Word32) = some word from henc)
  refine decode_of_raw ((raw_3c _ (fld_6_6_5_5_5_5_26 ..)).trans ?_) hwf
  simp only [decode3C, fld_6_6_5_5_5_5_0, fld_6_6_5_5_5_5_5, fld_6_6_5_5_5_5_10, fld_6_6_5_5_5_5_15, fld_6_6_5_5_5_5_20, BitVec.reduceEq, false_and, and_false, and_self, and_true, true_and, reduceIte]

/-- Round trip of qfix. -/
theorem Laws.RoundTrip.qfix (a : BitVec 5) (b : BitVec 5) : Laws.RoundTrip.Statement (.qfix a b) := by
  intro word hwf henc
  cases (show some (0x3c#6 ++ 0x6#6 ++ a ++ b ++ 0x0#10 : Word32) = some word from henc)
  refine decode_of_raw ((raw_3c _ (fld_6_6_5_5_10_26 ..)).trans ?_) hwf
  simp only [decode3C, fld_6_6_5_5_10_0_5_z4, fld_6_6_5_5_10_0, fld_6_6_5_5_10_5_2_z4, fld_6_6_5_5_10_5_5_z4, fld_6_6_5_5_10_7_3_z4, fld_6_6_5_5_10_10, fld_6_6_5_5_10_15, fld_6_6_5_5_10_20, BitVec.reduceEq, false_and, and_false, and_self, and_true, true_and, reduceIte]

/-- Round trip of cpystart. -/
theorem Laws.RoundTrip.cpystart (a : BitVec 5) (d : BitVec 5) : Laws.RoundTrip.Statement (.cpystart a d) := by
  intro word hwf henc
  cases (show some (0x3d#6 ++ 0x0#6 ++ a ++ 0x0#5 ++ d ++ 0x0#5 : Word32) = some word from henc)
  refine decode_of_raw ((raw_3d _ (fld_6_6_5_5_5_5_26 ..)).trans ?_) hwf
  simp only [decode3D, fld_6_6_5_5_5_5_0, fld_6_6_5_5_5_5_5, fld_6_6_5_5_5_5_10, fld_6_6_5_5_5_5_15, fld_6_6_5_5_5_5_20, BitVec.reduceEq, false_and, and_false, and_self, and_true, true_and, reduceIte]

/-- Round trip of cpywait. -/
theorem Laws.RoundTrip.cpywait (a : BitVec 5) (d : BitVec 5) : Laws.RoundTrip.Statement (.cpywait a d) := by
  intro word hwf henc
  cases (show some (0x3d#6 ++ 0x1#6 ++ a ++ 0x0#5 ++ d ++ 0x0#5 : Word32) = some word from henc)
  refine decode_of_raw ((raw_3d _ (fld_6_6_5_5_5_5_26 ..)).trans ?_) hwf
  simp only [decode3D, fld_6_6_5_5_5_5_0, fld_6_6_5_5_5_5_5, fld_6_6_5_5_5_5_10, fld_6_6_5_5_5_5_15, fld_6_6_5_5_5_5_20, BitVec.reduceEq, false_and, and_false, and_self, and_true, true_and, reduceIte]

/-- Round trip of cpywaitNl. -/
theorem Laws.RoundTrip.cpywaitNl (a : BitVec 5) (d : BitVec 5) : Laws.RoundTrip.Statement (.cpywaitNl a d) := by
  intro word hwf henc
  cases (show some (0x3d#6 ++ 0x1#6 ++ a ++ 0x0#5 ++ d ++ 0x1#5 : Word32) = some word from henc)
  refine decode_of_raw ((raw_3d _ (fld_6_6_5_5_5_5_26 ..)).trans ?_) hwf
  simp only [decode3D, fld_6_6_5_5_5_5_0, fld_6_6_5_5_5_5_5, fld_6_6_5_5_5_5_10, fld_6_6_5_5_5_5_15, fld_6_6_5_5_5_5_20, BitVec.reduceEq, false_and, and_false, and_self, and_true, true_and, reduceIte]

/-- Round trip of cpypoll. -/
theorem Laws.RoundTrip.cpypoll (a : BitVec 5) (d : BitVec 5) : Laws.RoundTrip.Statement (.cpypoll a d) := by
  intro word hwf henc
  cases (show some (0x3d#6 ++ 0x2#6 ++ a ++ 0x0#5 ++ d ++ 0x0#5 : Word32) = some word from henc)
  refine decode_of_raw ((raw_3d _ (fld_6_6_5_5_5_5_26 ..)).trans ?_) hwf
  simp only [decode3D, fld_6_6_5_5_5_5_0, fld_6_6_5_5_5_5_5, fld_6_6_5_5_5_5_10, fld_6_6_5_5_5_5_15, fld_6_6_5_5_5_5_20, BitVec.reduceEq, false_and, and_false, and_self, and_true, true_and, reduceIte]

/-- Round trip of cpygwait. -/
theorem Laws.RoundTrip.cpygwait (a : BitVec 5) (d : BitVec 5) : Laws.RoundTrip.Statement (.cpygwait a d) := by
  intro word hwf henc
  cases (show some (0x3d#6 ++ 0x3#6 ++ a ++ 0x0#5 ++ d ++ 0x0#5 : Word32) = some word from henc)
  refine decode_of_raw ((raw_3d _ (fld_6_6_5_5_5_5_26 ..)).trans ?_) hwf
  simp only [decode3D, fld_6_6_5_5_5_5_0, fld_6_6_5_5_5_5_5, fld_6_6_5_5_5_5_10, fld_6_6_5_5_5_5_15, fld_6_6_5_5_5_5_20, BitVec.reduceEq, false_and, and_false, and_self, and_true, true_and, reduceIte]

/-- Round trip of cpycancel. -/
theorem Laws.RoundTrip.cpycancel (a : BitVec 5) : Laws.RoundTrip.Statement (.cpycancel a) := by
  intro word hwf henc
  cases (show some (0x3d#6 ++ 0x4#6 ++ a ++ 0x0#15 : Word32) = some word from henc)
  refine decode_of_raw ((raw_3d _ (fld_6_6_5_15_26 ..)).trans ?_) hwf
  simp only [decode3D, fld_6_6_5_15_0_5_z3, fld_6_6_5_15_0, fld_6_6_5_15_5_5_z3, fld_6_6_5_15_10_5_z3, fld_6_6_5_15_15, fld_6_6_5_15_20, BitVec.reduceEq, false_and, and_false, and_self, and_true, true_and, reduceIte]

/-- Round trip of sysr. -/
theorem Laws.RoundTrip.sysr (d : BitVec 5) (r : SysReg) : Laws.RoundTrip.Statement (.sysr d r) := by
  intro word hwf henc
  cases (show some (0x3e#6 ++ 0x0#6 ++ 0x0#10 ++ d ++ r.code : Word32) = some word from henc)
  refine decode_of_raw ((raw_3e _ (fld_6_6_10_5_5_26 ..)).trans ?_) hwf
  simp only [decode3E, fld_6_6_10_5_5_0, fld_6_6_10_5_5_5, fld_6_6_10_5_5_10_5_z2, fld_6_6_10_5_5_10, fld_6_6_10_5_5_15_5_z2, fld_6_6_10_5_5_20, SysReg.ofCode_code, Option.map_some, Option.bind_some, BitVec.reduceEq, false_and, and_false, and_self, and_true, true_and, reduceIte]

/-- Round trip of sysw. -/
theorem Laws.RoundTrip.sysw (a : BitVec 5) (r : SysReg) : Laws.RoundTrip.Statement (.sysw a r) := by
  intro word hwf henc
  cases (show some (0x3e#6 ++ 0x1#6 ++ a ++ 0x0#10 ++ r.code : Word32) = some word from henc)
  refine decode_of_raw ((raw_3e _ (fld_6_6_5_10_5_26 ..)).trans ?_) hwf
  simp only [decode3E, fld_6_6_5_10_5_0, fld_6_6_5_10_5_5_5_z3, fld_6_6_5_10_5_5, fld_6_6_5_10_5_10_5_z3, fld_6_6_5_10_5_15, fld_6_6_5_10_5_20, SysReg.ofCode_code, Option.map_some, Option.bind_some, BitVec.reduceEq, false_and, and_false, and_self, and_true, true_and, reduceIte]

/-- Round trip of svc. -/
theorem Laws.RoundTrip.svc (a : BitVec 5) : Laws.RoundTrip.Statement (.svc a) := by
  intro word hwf henc
  cases (show some (0x3e#6 ++ 0x2#6 ++ a ++ 0x0#15 : Word32) = some word from henc)
  refine decode_of_raw ((raw_3e _ (fld_6_6_5_15_26 ..)).trans ?_) hwf
  simp only [decode3E, fld_6_6_5_15_0_5_z3, fld_6_6_5_15_0_10_z3, fld_6_6_5_15_0, fld_6_6_5_15_5_5_z3, fld_6_6_5_15_5_10_z3, fld_6_6_5_15_10_5_z3, fld_6_6_5_15_15, fld_6_6_5_15_20, BitVec.reduceEq, false_and, and_false, and_self, and_true, true_and, reduceIte]

/-- Round trip of brk. -/
theorem Laws.RoundTrip.brk (n : BitVec 5) : Laws.RoundTrip.Statement (.brk n) := by
  intro word hwf henc
  cases (show some (0x3e#6 ++ 0x3#6 ++ 0x0#15 ++ n : Word32) = some word from henc)
  refine decode_of_raw ((raw_3e _ (fld_6_6_15_5_26 ..)).trans ?_) hwf
  simp only [decode3E, fld_6_6_15_5_0, fld_6_6_15_5_5_5_z2, fld_6_6_15_5_5_10_z2, fld_6_6_15_5_5, fld_6_6_15_5_10_5_z2, fld_6_6_15_5_10_10_z2, fld_6_6_15_5_15_5_z2, fld_6_6_15_5_20, BitVec.reduceEq, false_and, and_false, and_self, and_true, true_and, reduceIte]

/-- Round trip of eret. -/
theorem Laws.RoundTrip.eret (b : BitVec 5) : Laws.RoundTrip.Statement (.eret b) := by
  intro word hwf henc
  cases (show some (0x3e#6 ++ 0x4#6 ++ 0x0#5 ++ b ++ 0x0#10 : Word32) = some word from henc)
  refine decode_of_raw ((raw_3e _ (fld_6_6_5_5_10_26 ..)).trans ?_) hwf
  simp only [decode3E, fld_6_6_5_5_10_0_5_z4, fld_6_6_5_5_10_0, fld_6_6_5_5_10_5_5_z4, fld_6_6_5_5_10_10, fld_6_6_5_5_10_15, fld_6_6_5_5_10_20, BitVec.reduceEq, false_and, and_false, and_self, and_true, true_and, reduceIte]

/-- Round trip of xroot. -/
theorem Laws.RoundTrip.xroot (a : BitVec 5) (b : BitVec 5) : Laws.RoundTrip.Statement (.xroot a b) := by
  intro word hwf henc
  cases (show some (0x3e#6 ++ 0x8#6 ++ a ++ b ++ 0x0#10 : Word32) = some word from henc)
  refine decode_of_raw ((raw_3e _ (fld_6_6_5_5_10_26 ..)).trans ?_) hwf
  simp only [decode3E, fld_6_6_5_5_10_0_5_z4, fld_6_6_5_5_10_0, fld_6_6_5_5_10_5_5_z4, fld_6_6_5_5_10_10, fld_6_6_5_5_10_15, fld_6_6_5_5_10_20, BitVec.reduceEq, false_and, and_false, and_self, and_true, true_and, reduceIte]

/-- Round trip of xinv. -/
theorem Laws.RoundTrip.xinv (a : BitVec 5) (b : BitVec 5) : Laws.RoundTrip.Statement (.xinv a b) := by
  intro word hwf henc
  cases (show some (0x3e#6 ++ 0x9#6 ++ a ++ b ++ 0x0#10 : Word32) = some word from henc)
  refine decode_of_raw ((raw_3e _ (fld_6_6_5_5_10_26 ..)).trans ?_) hwf
  simp only [decode3E, fld_6_6_5_5_10_0_5_z4, fld_6_6_5_5_10_0, fld_6_6_5_5_10_5_5_z4, fld_6_6_5_5_10_10, fld_6_6_5_5_10_15, fld_6_6_5_5_10_20, BitVec.reduceEq, false_and, and_false, and_self, and_true, true_and, reduceIte]

/-- Round trip of xprobe. -/
theorem Laws.RoundTrip.xprobe (a : BitVec 5) (b : BitVec 5) (d : BitVec 5) : Laws.RoundTrip.Statement (.xprobe a b d) := by
  intro word hwf henc
  cases (show some (0x3e#6 ++ 0xa#6 ++ a ++ b ++ d ++ 0x0#5 : Word32) = some word from henc)
  refine decode_of_raw ((raw_3e _ (fld_6_6_5_5_5_5_26 ..)).trans ?_) hwf
  simp only [decode3E, fld_6_6_5_5_5_5_0, fld_6_6_5_5_5_5_5, fld_6_6_5_5_5_5_10, fld_6_6_5_5_5_5_15, fld_6_6_5_5_5_5_20, BitVec.reduceEq, false_and, and_false, and_self, and_true, true_and, reduceIte]

/-- Round trip of xback. -/
theorem Laws.RoundTrip.xback (a : BitVec 5) (d : BitVec 5) : Laws.RoundTrip.Statement (.xback a d) := by
  intro word hwf henc
  cases (show some (0x3e#6 ++ 0xb#6 ++ a ++ 0x0#5 ++ d ++ 0x0#5 : Word32) = some word from henc)
  refine decode_of_raw ((raw_3e _ (fld_6_6_5_5_5_5_26 ..)).trans ?_) hwf
  simp only [decode3E, fld_6_6_5_5_5_5_0, fld_6_6_5_5_5_5_5, fld_6_6_5_5_5_5_10, fld_6_6_5_5_5_5_15, fld_6_6_5_5_5_5_20, BitVec.reduceEq, false_and, and_false, and_self, and_true, true_and, reduceIte]

/-- Round trip of partset. -/
theorem Laws.RoundTrip.partset (a : BitVec 5) (b : BitVec 5) : Laws.RoundTrip.Statement (.partset a b) := by
  intro word hwf henc
  cases (show some (0x3e#6 ++ 0xc#6 ++ a ++ b ++ 0x0#10 : Word32) = some word from henc)
  refine decode_of_raw ((raw_3e _ (fld_6_6_5_5_10_26 ..)).trans ?_) hwf
  simp only [decode3E, fld_6_6_5_5_10_0_5_z4, fld_6_6_5_5_10_0, fld_6_6_5_5_10_5_5_z4, fld_6_6_5_5_10_10, fld_6_6_5_5_10_15, fld_6_6_5_5_10_20, BitVec.reduceEq, false_and, and_false, and_self, and_true, true_and, reduceIte]

/-- Round trip of skipset. -/
theorem Laws.RoundTrip.skipset (a : BitVec 5) (b : BitVec 5) : Laws.RoundTrip.Statement (.skipset a b) := by
  intro word hwf henc
  cases (show some (0x3e#6 ++ 0xd#6 ++ a ++ b ++ 0x0#10 : Word32) = some word from henc)
  refine decode_of_raw ((raw_3e _ (fld_6_6_5_5_10_26 ..)).trans ?_) hwf
  simp only [decode3E, fld_6_6_5_5_10_0_5_z4, fld_6_6_5_5_10_0, fld_6_6_5_5_10_5_5_z4, fld_6_6_5_5_10_10, fld_6_6_5_5_10_15, fld_6_6_5_5_10_20, BitVec.reduceEq, false_and, and_false, and_self, and_true, true_and, reduceIte]

/-- Round trip of wayset. -/
theorem Laws.RoundTrip.wayset (a : BitVec 5) (b : BitVec 5) : Laws.RoundTrip.Statement (.wayset a b) := by
  intro word hwf henc
  cases (show some (0x3e#6 ++ 0xe#6 ++ a ++ b ++ 0x0#10 : Word32) = some word from henc)
  refine decode_of_raw ((raw_3e _ (fld_6_6_5_5_10_26 ..)).trans ?_) hwf
  simp only [decode3E, fld_6_6_5_5_10_0_5_z4, fld_6_6_5_5_10_0, fld_6_6_5_5_10_5_5_z4, fld_6_6_5_5_10_10, fld_6_6_5_5_10_15, fld_6_6_5_5_10_20, BitVec.reduceEq, false_and, and_false, and_self, and_true, true_and, reduceIte]

/-- Round trip of bregion. -/
theorem Laws.RoundTrip.bregion (a : BitVec 5) (b : BitVec 5) : Laws.RoundTrip.Statement (.bregion a b) := by
  intro word hwf henc
  cases (show some (0x3e#6 ++ 0xf#6 ++ a ++ b ++ 0x0#10 : Word32) = some word from henc)
  refine decode_of_raw ((raw_3e _ (fld_6_6_5_5_10_26 ..)).trans ?_) hwf
  simp only [decode3E, fld_6_6_5_5_10_0_5_z4, fld_6_6_5_5_10_0, fld_6_6_5_5_10_5_5_z4, fld_6_6_5_5_10_10, fld_6_6_5_5_10_15, fld_6_6_5_5_10_20, BitVec.reduceEq, false_and, and_false, and_self, and_true, true_and, reduceIte]

/-- Round trip of eset. -/
theorem Laws.RoundTrip.eset (a : BitVec 5) (b : BitVec 5) : Laws.RoundTrip.Statement (.eset a b) := by
  intro word hwf henc
  cases (show some (0x3e#6 ++ 0x10#6 ++ a ++ b ++ 0x0#10 : Word32) = some word from henc)
  refine decode_of_raw ((raw_3e _ (fld_6_6_5_5_10_26 ..)).trans ?_) hwf
  simp only [decode3E, fld_6_6_5_5_10_0_5_z4, fld_6_6_5_5_10_0, fld_6_6_5_5_10_5_5_z4, fld_6_6_5_5_10_10, fld_6_6_5_5_10_15, fld_6_6_5_5_10_20, BitVec.reduceEq, false_and, and_false, and_self, and_true, true_and, reduceIte]

/-- Round trip of mdrain. -/
theorem Laws.RoundTrip.mdrain (a : BitVec 5) : Laws.RoundTrip.Statement (.mdrain a) := by
  intro word hwf henc
  cases (show some (0x3e#6 ++ 0x14#6 ++ a ++ 0x0#15 : Word32) = some word from henc)
  refine decode_of_raw ((raw_3e _ (fld_6_6_5_15_26 ..)).trans ?_) hwf
  simp only [decode3E, fld_6_6_5_15_0_5_z3, fld_6_6_5_15_0_10_z3, fld_6_6_5_15_0, fld_6_6_5_15_5_5_z3, fld_6_6_5_15_5_10_z3, fld_6_6_5_15_10_5_z3, fld_6_6_5_15_15, fld_6_6_5_15_20, BitVec.reduceEq, false_and, and_false, and_self, and_true, true_and, reduceIte]

/-- Round trip of mrest. -/
theorem Laws.RoundTrip.mrest (a : BitVec 5) : Laws.RoundTrip.Statement (.mrest a) := by
  intro word hwf henc
  cases (show some (0x3e#6 ++ 0x15#6 ++ a ++ 0x0#15 : Word32) = some word from henc)
  refine decode_of_raw ((raw_3e _ (fld_6_6_5_15_26 ..)).trans ?_) hwf
  simp only [decode3E, fld_6_6_5_15_0_5_z3, fld_6_6_5_15_0_10_z3, fld_6_6_5_15_0, fld_6_6_5_15_5_5_z3, fld_6_6_5_15_5_10_z3, fld_6_6_5_15_10_5_z3, fld_6_6_5_15_15, fld_6_6_5_15_20, BitVec.reduceEq, false_and, and_false, and_self, and_true, true_and, reduceIte]

/-- Round trip of vsave. -/
theorem Laws.RoundTrip.vsave (a : BitVec 5) : Laws.RoundTrip.Statement (.vsave a) := by
  intro word hwf henc
  cases (show some (0x3e#6 ++ 0x16#6 ++ a ++ 0x0#15 : Word32) = some word from henc)
  refine decode_of_raw ((raw_3e _ (fld_6_6_5_15_26 ..)).trans ?_) hwf
  simp only [decode3E, fld_6_6_5_15_0_5_z3, fld_6_6_5_15_0_10_z3, fld_6_6_5_15_0, fld_6_6_5_15_5_5_z3, fld_6_6_5_15_5_10_z3, fld_6_6_5_15_10_5_z3, fld_6_6_5_15_15, fld_6_6_5_15_20, BitVec.reduceEq, false_and, and_false, and_self, and_true, true_and, reduceIte]

/-- Round trip of vrest. -/
theorem Laws.RoundTrip.vrest (a : BitVec 5) : Laws.RoundTrip.Statement (.vrest a) := by
  intro word hwf henc
  cases (show some (0x3e#6 ++ 0x17#6 ++ a ++ 0x0#15 : Word32) = some word from henc)
  refine decode_of_raw ((raw_3e _ (fld_6_6_5_15_26 ..)).trans ?_) hwf
  simp only [decode3E, fld_6_6_5_15_0_5_z3, fld_6_6_5_15_0_10_z3, fld_6_6_5_15_0, fld_6_6_5_15_5_5_z3, fld_6_6_5_15_5_10_z3, fld_6_6_5_15_10_5_z3, fld_6_6_5_15_15, fld_6_6_5_15_20, BitVec.reduceEq, false_and, and_false, and_self, and_true, true_and, reduceIte]

/-- Round trip of translationAnswer: it has no word. -/
theorem Laws.RoundTrip.translationAnswer (u : Nat) : Laws.RoundTrip.Statement (.translationAnswer u) :=
  fun _ _ h => nomatch (show (none : Option Word32) = some _ from h)

/-- Round trip of fillReturn: it has no word. -/
theorem Laws.RoundTrip.fillReturn (u : Nat) : Laws.RoundTrip.Statement (.fillReturn u) :=
  fun _ _ h => nomatch (show (none : Option Word32) = some _ from h)

/-- Round trip of storePerformed: it has no word. -/
theorem Laws.RoundTrip.storePerformed (u : Nat) : Laws.RoundTrip.Statement (.storePerformed u) :=
  fun _ _ h => nomatch (show (none : Option Word32) = some _ from h)

/-- Round trip of operationPacket: it has no word. -/
theorem Laws.RoundTrip.operationPacket (p : OpPacket) : Laws.RoundTrip.Statement (.operationPacket p) :=
  fun _ _ h => nomatch (show (none : Option Word32) = some _ from h)

/-- Round trip of cuckooRecall: it has no word. -/
theorem Laws.RoundTrip.cuckooRecall (die : Nat) : Laws.RoundTrip.Statement (.cuckooRecall die) :=
  fun _ _ h => nomatch (show (none : Option Word32) = some _ from h)

/-- Round trip of directoryRecall: it has no word. -/
theorem Laws.RoundTrip.directoryRecall (die : Nat) (vf : Nat) (line : Nat) (corrupt : List Nat) : Laws.RoundTrip.Statement (.directoryRecall die vf line corrupt) :=
  fun _ _ h => nomatch (show (none : Option Word32) = some _ from h)

/-- Round trip of vectorCompletion: it has no word. -/
theorem Laws.RoundTrip.vectorCompletion (u : Nat) : Laws.RoundTrip.Statement (.vectorCompletion u) :=
  fun _ _ h => nomatch (show (none : Option Word32) = some _ from h)

/-- Round trip of matrixCompletion: it has no word. -/
theorem Laws.RoundTrip.matrixCompletion (u : Nat) : Laws.RoundTrip.Statement (.matrixCompletion u) :=
  fun _ _ h => nomatch (show (none : Option Word32) = some _ from h)

/-- Round trip of drainComplete: it has no word. -/
theorem Laws.RoundTrip.drainComplete (q : Nat) (n : Nat) : Laws.RoundTrip.Statement (.drainComplete q n) :=
  fun _ _ h => nomatch (show (none : Option Word32) = some _ from h)

/-- Round trip of aStreamArrival: it has no word. -/
theorem Laws.RoundTrip.aStreamArrival (q : Nat) : Laws.RoundTrip.Statement (.aStreamArrival q) :=
  fun _ _ h => nomatch (show (none : Option Word32) = some _ from h)

/-- Round trip of copyRun: it has no word. -/
theorem Laws.RoundTrip.copyRun (q : Nat) : Laws.RoundTrip.Statement (.copyRun q) :=
  fun _ _ h => nomatch (show (none : Option Word32) = some _ from h)

/-- Round trip of copyEnd: it has no word. -/
theorem Laws.RoundTrip.copyEnd (q : Nat) : Laws.RoundTrip.Statement (.copyEnd q) :=
  fun _ _ h => nomatch (show (none : Option Word32) = some _ from h)

/-- Round trip of copyLate: it has no word. -/
theorem Laws.RoundTrip.copyLate (q : Nat) (id : Nat) : Laws.RoundTrip.Statement (.copyLate q id) :=
  fun _ _ h => nomatch (show (none : Option Word32) = some _ from h)

/-- Round trip of sleepWake: it has no word. -/
theorem Laws.RoundTrip.sleepWake (u : Nat) : Laws.RoundTrip.Statement (.sleepWake u) :=
  fun _ _ h => nomatch (show (none : Option Word32) = some _ from h)

/-- Round trip of energyRefill: it has no word. -/
theorem Laws.RoundTrip.energyRefill (q : Nat) : Laws.RoundTrip.Statement (.energyRefill q) :=
  fun _ _ h => nomatch (show (none : Option Word32) = some _ from h)

/-- Round trip of watchdog: it has no word. -/
theorem Laws.RoundTrip.watchdog (u : Nat) : Laws.RoundTrip.Statement (.watchdog u) :=
  fun _ _ h => nomatch (show (none : Option Word32) = some _ from h)

/-- Round trip of launchInletEntry: it has no word. -/
theorem Laws.RoundTrip.launchInletEntry (vf : Nat) : Laws.RoundTrip.Statement (.launchInletEntry vf) :=
  fun _ _ h => nomatch (show (none : Option Word32) = some _ from h)

/-- Round trip of dependantPush: it has no word. -/
theorem Laws.RoundTrip.dependantPush (n : Nat) : Laws.RoundTrip.Statement (.dependantPush n) :=
  fun _ _ h => nomatch (show (none : Option Word32) = some _ from h)

/-- Round trip of heldPush: it has no word. -/
theorem Laws.RoundTrip.heldPush (core : Nat) : Laws.RoundTrip.Statement (.heldPush core) :=
  fun _ _ h => nomatch (show (none : Option Word32) = some _ from h)

/-- Round trip of split: it has no word. -/
theorem Laws.RoundTrip.split (core : Nat) : Laws.RoundTrip.Statement (.split core) :=
  fun _ _ h => nomatch (show (none : Option Word32) = some _ from h)

/-- Round trip of leafStrandStart: it has no word. -/
theorem Laws.RoundTrip.leafStrandStart (core : Nat) : Laws.RoundTrip.Statement (.leafStrandStart core) :=
  fun _ _ h => nomatch (show (none : Option Word32) = some _ from h)

/-- Round trip of gangGroupPlacement: it has no word. -/
theorem Laws.RoundTrip.gangGroupPlacement (core : Nat) : Laws.RoundTrip.Statement (.gangGroupPlacement core) :=
  fun _ _ h => nomatch (show (none : Option Word32) = some _ from h)

/-- Round trip of taskStart: it has no word. -/
theorem Laws.RoundTrip.taskStart (core : Nat) : Laws.RoundTrip.Statement (.taskStart core) :=
  fun _ _ h => nomatch (show (none : Option Word32) = some _ from h)

/-- Round trip of messageArrival: it has no word. -/
theorem Laws.RoundTrip.messageArrival (p : Nat) : Laws.RoundTrip.Statement (.messageArrival p) :=
  fun _ _ h => nomatch (show (none : Option Word32) = some _ from h)

/-- Round trip of entryActivation: it has no word. -/
theorem Laws.RoundTrip.entryActivation (core : Nat) : Laws.RoundTrip.Statement (.entryActivation core) :=
  fun _ _ h => nomatch (show (none : Option Word32) = some _ from h)

/-- Round trip of codeActivation: it has no word. -/
theorem Laws.RoundTrip.codeActivation (core : Nat) : Laws.RoundTrip.Statement (.codeActivation core) :=
  fun _ _ h => nomatch (show (none : Option Word32) = some _ from h)

/-- Round trip of dataLanding: it has no word. -/
theorem Laws.RoundTrip.dataLanding (p : Nat) : Laws.RoundTrip.Statement (.dataLanding p) :=
  fun _ _ h => nomatch (show (none : Option Word32) = some _ from h)

/-- Round trip of countMessage: it has no word. -/
theorem Laws.RoundTrip.countMessage (p : Nat) : Laws.RoundTrip.Statement (.countMessage p) :=
  fun _ _ h => nomatch (show (none : Option Word32) = some _ from h)

/-- Round trip of creditReturn: it has no word. -/
theorem Laws.RoundTrip.creditReturn (core : Nat) : Laws.RoundTrip.Statement (.creditReturn core) :=
  fun _ _ h => nomatch (show (none : Option Word32) = some _ from h)

/-- Round trip of strandRestore: it has no word. -/
theorem Laws.RoundTrip.strandRestore (core : Nat) : Laws.RoundTrip.Statement (.strandRestore core) :=
  fun _ _ h => nomatch (show (none : Option Word32) = some _ from h)

/-- Round trip of displacement: it has no word. -/
theorem Laws.RoundTrip.displacement (core : Nat) : Laws.RoundTrip.Statement (.displacement core) :=
  fun _ _ h => nomatch (show (none : Option Word32) = some _ from h)

/-- Round trip of stealRequest: it has no word. -/
theorem Laws.RoundTrip.stealRequest (core : Nat) : Laws.RoundTrip.Statement (.stealRequest core) :=
  fun _ _ h => nomatch (show (none : Option Word32) = some _ from h)

/-- Round trip of stealReply: it has no word. -/
theorem Laws.RoundTrip.stealReply (core : Nat) : Laws.RoundTrip.Statement (.stealReply core) :=
  fun _ _ h => nomatch (show (none : Option Word32) = some _ from h)

/-- Round trip of loadSummaryToken: it has no word. -/
theorem Laws.RoundTrip.loadSummaryToken (t : Token) : Laws.RoundTrip.Statement (.loadSummaryToken t) :=
  fun _ _ h => nomatch (show (none : Option Word32) = some _ from h)

/-- Round trip of packetHop: it has no word. -/
theorem Laws.RoundTrip.packetHop (p : Nat) : Laws.RoundTrip.Statement (.packetHop p) :=
  fun _ _ h => nomatch (show (none : Option Word32) = some _ from h)

/-- Round trip of stillWave: it has no word. -/
theorem Laws.RoundTrip.stillWave (job : Nat) : Laws.RoundTrip.Statement (.stillWave job) :=
  fun _ _ h => nomatch (show (none : Option Word32) = some _ from h)

/-- Round trip of waveOutcome: it has no word. -/
theorem Laws.RoundTrip.waveOutcome (job : Nat) : Laws.RoundTrip.Statement (.waveOutcome job) :=
  fun _ _ h => nomatch (show (none : Option Word32) = some _ from h)

/-- Round trip of confinedWave: it has no word. -/
theorem Laws.RoundTrip.confinedWave (job : Nat) : Laws.RoundTrip.Statement (.confinedWave job) :=
  fun _ _ h => nomatch (show (none : Option Word32) = some _ from h)

/-- Round trip of barrierArrival: it has no word. -/
theorem Laws.RoundTrip.barrierArrival (p : Nat) : Laws.RoundTrip.Statement (.barrierArrival p) :=
  fun _ _ h => nomatch (show (none : Option Word32) = some _ from h)

/-- Round trip of barrierWithdrawal: it has no word. -/
theorem Laws.RoundTrip.barrierWithdrawal (p : Nat) : Laws.RoundTrip.Statement (.barrierWithdrawal p) :=
  fun _ _ h => nomatch (show (none : Option Word32) = some _ from h)

/-- Round trip of resampleDecision: it has no word. -/
theorem Laws.RoundTrip.resampleDecision (job : Nat) (launch : Nat) : Laws.RoundTrip.Statement (.resampleDecision job launch) :=
  fun _ _ h => nomatch (show (none : Option Word32) = some _ from h)

/-- Round trip of cloneReady: it has no word. -/
theorem Laws.RoundTrip.cloneReady (u : Nat) : Laws.RoundTrip.Statement (.cloneReady u) :=
  fun _ _ h => nomatch (show (none : Option Word32) = some _ from h)

/-- Round trip of preEmptDelivery: it has no word. -/
theorem Laws.RoundTrip.preEmptDelivery (u : Nat) : Laws.RoundTrip.Statement (.preEmptDelivery u) :=
  fun _ _ h => nomatch (show (none : Option Word32) = some _ from h)

/-- Round trip of queueImage: it has no word. -/
theorem Laws.RoundTrip.queueImage (core : Nat) : Laws.RoundTrip.Statement (.queueImage core) :=
  fun _ _ h => nomatch (show (none : Option Word32) = some _ from h)

/-- Round trip of preEmptComplete: it has no word. -/
theorem Laws.RoundTrip.preEmptComplete : Laws.RoundTrip.Statement (.preEmptComplete) :=
  fun _ _ h => nomatch (show (none : Option Word32) = some _ from h)

/-- Round trip of resize: it has no word. -/
theorem Laws.RoundTrip.resize (vf : Nat) : Laws.RoundTrip.Statement (.resize vf) :=
  fun _ _ h => nomatch (show (none : Option Word32) = some _ from h)

/-- Round trip of prqreply: it has no word. -/
theorem Laws.RoundTrip.prqreply (fn : Option Nat) (v : Word64) : Laws.RoundTrip.Statement (.prqreply fn v) :=
  fun _ _ h => nomatch (show (none : Option Word32) = some _ from h)

/-- Round trip of prqreplyRefuse: it has no word. -/
theorem Laws.RoundTrip.prqreplyRefuse (fn : Option Nat) (v : Word64) : Laws.RoundTrip.Statement (.prqreplyRefuse fn v) :=
  fun _ _ h => nomatch (show (none : Option Word32) = some _ from h)

/-- Round trip of lptinv: it has no word. -/
theorem Laws.RoundTrip.lptinv (v : Word64) : Laws.RoundTrip.Statement (.lptinv v) :=
  fun _ _ h => nomatch (show (none : Option Word32) = some _ from h)

/-- Round trip of jobEntryWrite: it has no word. -/
theorem Laws.RoundTrip.jobEntryWrite (pf : Bool) (vf : Nat) (j : Nat) (v : Word64) : Laws.RoundTrip.Statement (.jobEntryWrite pf vf j v) :=
  fun _ _ h => nomatch (show (none : Option Word32) = some _ from h)

/-- Round trip of guarWrite: it has no word. -/
theorem Laws.RoundTrip.guarWrite (vf : Nat) (v : Word64) : Laws.RoundTrip.Statement (.guarWrite vf v) :=
  fun _ _ h => nomatch (show (none : Option Word32) = some _ from h)

/-- Round trip of burstWrite: it has no word. -/
theorem Laws.RoundTrip.burstWrite (vf : Nat) (v : Word64) : Laws.RoundTrip.Statement (.burstWrite vf v) :=
  fun _ _ h => nomatch (show (none : Option Word32) = some _ from h)

/-- Round trip of mmioWrite: it has no word. -/
theorem Laws.RoundTrip.mmioWrite (fn : Option Nat) (off : Nat) (width : Nat) (v : Word64) : Laws.RoundTrip.Statement (.mmioWrite fn off width v) :=
  fun _ _ h => nomatch (show (none : Option Word32) = some _ from h)

/-- Round trip of biasFlipToHost: it has no word. -/
theorem Laws.RoundTrip.biasFlipToHost (v : Word64) : Laws.RoundTrip.Statement (.biasFlipToHost v) :=
  fun _ _ h => nomatch (show (none : Option Word32) = some _ from h)

/-- Round trip of biasFlipToDevice: it has no word. -/
theorem Laws.RoundTrip.biasFlipToDevice (v : Word64) : Laws.RoundTrip.Statement (.biasFlipToDevice v) :=
  fun _ _ h => nomatch (show (none : Option Word32) = some _ from h)

/-- Round trip of biasFlipComplete: it has no word. -/
theorem Laws.RoundTrip.biasFlipComplete : Laws.RoundTrip.Statement (.biasFlipComplete) :=
  fun _ _ h => nomatch (show (none : Option Word32) = some _ from h)

/-- Round trip of biasstatRead: it has no word. -/
theorem Laws.RoundTrip.biasstatRead : Laws.RoundTrip.Statement (.biasstatRead) :=
  fun _ _ h => nomatch (show (none : Option Word32) = some _ from h)

/-- Round trip of hostHdmRead: it has no word. -/
theorem Laws.RoundTrip.hostHdmRead (hpa : Nat) (n : Nat) : Laws.RoundTrip.Statement (.hostHdmRead hpa n) :=
  fun _ _ h => nomatch (show (none : Option Word32) = some _ from h)

/-- Round trip of hostHdmWrite: it has no word. -/
theorem Laws.RoundTrip.hostHdmWrite (hpa : Nat) (data : List Byte) : Laws.RoundTrip.Statement (.hostHdmWrite hpa data) :=
  fun _ _ h => nomatch (show (none : Option Word32) = some _ from h)

/-- Round trip of snpinv: it has no word. -/
theorem Laws.RoundTrip.snpinv (line : Nat) (after : List Byte) : Laws.RoundTrip.Statement (.snpinv line after) :=
  fun _ _ h => nomatch (show (none : Option Word32) = some _ from h)

/-- Round trip of snpdata: it has no word. -/
theorem Laws.RoundTrip.snpdata (line : Nat) : Laws.RoundTrip.Statement (.snpdata line) :=
  fun _ _ h => nomatch (show (none : Option Word32) = some _ from h)

/-- Round trip of snpcur: it has no word. -/
theorem Laws.RoundTrip.snpcur (line : Nat) : Laws.RoundTrip.Statement (.snpcur line) :=
  fun _ _ h => nomatch (show (none : Option Word32) = some _ from h)

/-- Round trip of bisnpResponse: it has no word. -/
theorem Laws.RoundTrip.bisnpResponse (line : Nat) (dirty : List Byte) : Laws.RoundTrip.Statement (.bisnpResponse line dirty) :=
  fun _ _ h => nomatch (show (none : Option Word32) = some _ from h)

/-- Round trip of preEmpt: it has no word. -/
theorem Laws.RoundTrip.preEmpt : Laws.RoundTrip.Statement (.preEmpt) :=
  fun _ _ h => nomatch (show (none : Option Word32) = some _ from h)

/-- Round trip of setReductionEntry: it has no word. -/
theorem Laws.RoundTrip.setReductionEntry : Laws.RoundTrip.Statement (.setReductionEntry) :=
  fun _ _ h => nomatch (show (none : Option Word32) = some _ from h)

/-- Round trip of fenceDie: it has no word. -/
theorem Laws.RoundTrip.fenceDie : Laws.RoundTrip.Statement (.fenceDie) :=
  fun _ _ h => nomatch (show (none : Option Word32) = some _ from h)

/-- Round trip of degradeLanes: it has no word. -/
theorem Laws.RoundTrip.degradeLanes : Laws.RoundTrip.Statement (.degradeLanes) :=
  fun _ _ h => nomatch (show (none : Option Word32) = some _ from h)

/-- Round trip of retrainComplete: it has no word. -/
theorem Laws.RoundTrip.retrainComplete (link : Nat) : Laws.RoundTrip.Statement (.retrainComplete link) :=
  fun _ _ h => nomatch (show (none : Option Word32) = some _ from h)

/-- Round trip of frameCopy: it has no word. -/
theorem Laws.RoundTrip.frameCopy : Laws.RoundTrip.Statement (.frameCopy) :=
  fun _ _ h => nomatch (show (none : Option Word32) = some _ from h)

/-- Round trip of countRebase: it has no word. -/
theorem Laws.RoundTrip.countRebase : Laws.RoundTrip.Statement (.countRebase) :=
  fun _ _ h => nomatch (show (none : Option Word32) = some _ from h)

/-- Round trip of extendMeasurementSlot: it has no word. -/
theorem Laws.RoundTrip.extendMeasurementSlot : Laws.RoundTrip.Statement (.extendMeasurementSlot) :=
  fun _ _ h => nomatch (show (none : Option Word32) = some _ from h)

/-- Round trip of readBlackBox: it has no word. -/
theorem Laws.RoundTrip.readBlackBox : Laws.RoundTrip.Statement (.readBlackBox) :=
  fun _ _ h => nomatch (show (none : Option Word32) = some _ from h)

/-- Round trip of loadFirmware: it has no word. -/
theorem Laws.RoundTrip.loadFirmware : Laws.RoundTrip.Statement (.loadFirmware) :=
  fun _ _ h => nomatch (show (none : Option Word32) = some _ from h)

/-- Round trip of readCounters: it has no word. -/
theorem Laws.RoundTrip.readCounters : Laws.RoundTrip.Statement (.readCounters) :=
  fun _ _ h => nomatch (show (none : Option Word32) = some _ from h)

/-- Round trip of getVersion: it has no word. -/
theorem Laws.RoundTrip.getVersion (fn : Option Nat) : Laws.RoundTrip.Statement (.getVersion fn) :=
  fun _ _ h => nomatch (show (none : Option Word32) = some _ from h)

/-- Round trip of getCapabilities: it has no word. -/
theorem Laws.RoundTrip.getCapabilities (fn : Option Nat) : Laws.RoundTrip.Statement (.getCapabilities fn) :=
  fun _ _ h => nomatch (show (none : Option Word32) = some _ from h)

/-- Round trip of negotiateAlgorithms: it has no word. -/
theorem Laws.RoundTrip.negotiateAlgorithms (fn : Option Nat) : Laws.RoundTrip.Statement (.negotiateAlgorithms fn) :=
  fun _ _ h => nomatch (show (none : Option Word32) = some _ from h)

/-- Round trip of getDigests: it has no word. -/
theorem Laws.RoundTrip.getDigests (fn : Option Nat) : Laws.RoundTrip.Statement (.getDigests fn) :=
  fun _ _ h => nomatch (show (none : Option Word32) = some _ from h)

/-- Round trip of getCertificate: it has no word. -/
theorem Laws.RoundTrip.getCertificate (fn : Option Nat) : Laws.RoundTrip.Statement (.getCertificate fn) :=
  fun _ _ h => nomatch (show (none : Option Word32) = some _ from h)

/-- Round trip of challenge: it has no word. -/
theorem Laws.RoundTrip.challenge (fn : Option Nat) (nonce : List Byte) : Laws.RoundTrip.Statement (.challenge fn nonce) :=
  fun _ _ h => nomatch (show (none : Option Word32) = some _ from h)

/-- Round trip of getMeasurements: it has no word. -/
theorem Laws.RoundTrip.getMeasurements (fn : Option Nat) (part : Nat) : Laws.RoundTrip.Statement (.getMeasurements fn part) :=
  fun _ _ h => nomatch (show (none : Option Word32) = some _ from h)

/-- Round trip of keyExchange: it has no word. -/
theorem Laws.RoundTrip.keyExchange (fn : Option Nat) (body : List Byte) : Laws.RoundTrip.Statement (.keyExchange fn body) :=
  fun _ _ h => nomatch (show (none : Option Word32) = some _ from h)

/-- Round trip of cxlIdeKm: it has no word. -/
theorem Laws.RoundTrip.cxlIdeKm (fn : Option Nat) (key : List Byte) : Laws.RoundTrip.Statement (.cxlIdeKm fn key) :=
  fun _ _ h => nomatch (show (none : Option Word32) = some _ from h)

/-- Round trip of ideCheckFailure: it has no word. -/
theorem Laws.RoundTrip.ideCheckFailure : Laws.RoundTrip.Statement (.ideCheckFailure) :=
  fun _ _ h => nomatch (show (none : Option Word32) = some _ from h)

/-- Round trip of badFlit: it has no word. -/
theorem Laws.RoundTrip.badFlit (flit : Nat) : Laws.RoundTrip.Statement (.badFlit flit) :=
  fun _ _ h => nomatch (show (none : Option Word32) = some _ from h)

/-- Round trip of linkDown: it has no word. -/
theorem Laws.RoundTrip.linkDown (link : Nat) : Laws.RoundTrip.Statement (.linkDown link) :=
  fun _ _ h => nomatch (show (none : Option Word32) = some _ from h)

/-- Round trip of requestTimeout: it has no word. -/
theorem Laws.RoundTrip.requestTimeout (u : Nat) : Laws.RoundTrip.Statement (.requestTimeout u) :=
  fun _ _ h => nomatch (show (none : Option Word32) = some _ from h)

/-- Round trip of patrolScrub: it has no word. -/
theorem Laws.RoundTrip.patrolScrub (g : Nat) (bad : Bool) : Laws.RoundTrip.Statement (.patrolScrub g bad) :=
  fun _ _ h => nomatch (show (none : Option Word32) = some _ from h)

/-- Round trip of fatalError: it has no word. -/
theorem Laws.RoundTrip.fatalError (die : Nat) (structure_ : Nat) : Laws.RoundTrip.Statement (.fatalError die structure_) :=
  fun _ _ h => nomatch (show (none : Option Word32) = some _ from h)

/-- Round trip of railUndervoltage: it has no word. -/
theorem Laws.RoundTrip.railUndervoltage (rail : Rail) : Laws.RoundTrip.Statement (.railUndervoltage rail) :=
  fun _ _ h => nomatch (show (none : Option Word32) = some _ from h)

/-- Round trip of thermalTrip: it has no word. -/
theorem Laws.RoundTrip.thermalTrip (die : Nat) : Laws.RoundTrip.Statement (.thermalTrip die) :=
  fun _ _ h => nomatch (show (none : Option Word32) = some _ from h)

/-- Round trip of coldReset: it has no word. -/
theorem Laws.RoundTrip.coldReset : Laws.RoundTrip.Statement (.coldReset) :=
  fun _ _ h => nomatch (show (none : Option Word32) = some _ from h)

/-- Round trip of packageReset: it has no word. -/
theorem Laws.RoundTrip.packageReset : Laws.RoundTrip.Statement (.packageReset) :=
  fun _ _ h => nomatch (show (none : Option Word32) = some _ from h)

/-- Round trip of bringUp: it has no word. -/
theorem Laws.RoundTrip.bringUp : Laws.RoundTrip.Statement (.bringUp) :=
  fun _ _ h => nomatch (show (none : Option Word32) = some _ from h)

/-- Round trip of prst: it has no word. -/
theorem Laws.RoundTrip.prst (v : Word64) : Laws.RoundTrip.Statement (.prst v) :=
  fun _ _ h => nomatch (show (none : Option Word32) = some _ from h)

/-- Round trip of bpwrRead: it has no word. -/
theorem Laws.RoundTrip.bpwrRead : Laws.RoundTrip.Statement (.bpwrRead) :=
  fun _ _ h => nomatch (show (none : Option Word32) = some _ from h)

/-- Round trip of illegalInstruction: it has no word. -/
theorem Laws.RoundTrip.illegalInstruction (w : Word32) : Laws.RoundTrip.Statement (.illegalInstruction w) :=
  fun _ _ h => nomatch (show (none : Option Word32) = some _ from h)

/-- Round trip of instructionFetchFault: it has no word. -/
theorem Laws.RoundTrip.instructionFetchFault : Laws.RoundTrip.Statement (.instructionFetchFault) :=
  fun _ _ h => nomatch (show (none : Option Word32) = some _ from h)

/-- Round trip of prqidxWrite: it has no word. -/
theorem Laws.RoundTrip.prqidxWrite (fn : Option Nat) (v : Word64) : Laws.RoundTrip.Statement (.prqidxWrite fn v) :=
  fun _ _ h => nomatch (show (none : Option Word32) = some _ from h)

/-- Round trip of cxlLinkRetrain: it has no word. -/
theorem Laws.RoundTrip.cxlLinkRetrain : Laws.RoundTrip.Statement (.cxlLinkRetrain) :=
  fun _ _ h => nomatch (show (none : Option Word32) = some _ from h)

/-- Round trip of configurationRequest: it has no word. -/
theorem Laws.RoundTrip.configurationRequest : Laws.RoundTrip.Statement (.configurationRequest) :=
  fun _ _ h => nomatch (show (none : Option Word32) = some _ from h)

/-- Round trip of bankRetentionSleep: it has no word. -/
theorem Laws.RoundTrip.bankRetentionSleep (q : Nat) (bank : Nat) : Laws.RoundTrip.Statement (.bankRetentionSleep q bank) :=
  fun _ _ h => nomatch (show (none : Option Word32) = some _ from h)

end Sys2Proof
end

