-- ==== Sys2Proof/Laws/Vector.lean ====
section
/-!
SUPPORT. The lanes of a vector register (R39): what a vector built lane by lane holds in each lane.
-/
namespace Sys2Proof.Machine

/-- The sum of digits in base B, lowest first. -/
def digitSum (B : Nat) (f : Nat → Nat) : Nat → Nat
  | 0 => 0
  | n + 1 => digitSum B f n + f n % B * B ^ n

theorem digitSum_lt {B : Nat} (hB : 0 < B) (f : Nat → Nat) (n : Nat) : digitSum B f n < B ^ n := by
  induction n with
  | zero => simp [digitSum]
  | succ n ih =>
    have h1 : f n % B * B ^ n ≤ (B - 1) * B ^ n := Nat.mul_le_mul_right _ (Nat.le_sub_one_of_lt (Nat.mod_lt _ hB))
    have h2 : B ^ (n + 1) = (B - 1) * B ^ n + B ^ n := by
      rw [pow_succ, ← Nat.add_one_mul, Nat.sub_add_cancel hB, Nat.mul_comm]
    simp only [digitSum]
    omega

theorem digitSum_digit {B : Nat} (hB : 0 < B) (f : Nat → Nat) (n i : Nat) (h : i < n) :
    digitSum B f n / B ^ i % B = f i % B := by
  induction n with
  | zero => omega
  | succ n ih =>
    simp only [digitSum]
    by_cases hi : i = n
    · subst hi
      rw [Nat.add_mul_div_right _ _ (Nat.pow_pos hB), Nat.div_eq_of_lt (digitSum_lt hB f i), Nat.zero_add, Nat.mod_mod]
    · have hlt : i < n := by omega
      have e : f n % B * B ^ n = (f n % B * B ^ (n - i - 1) * B) * B ^ i := by
        rw [Nat.mul_assoc, Nat.mul_assoc, ← pow_succ', ← pow_add]
        congr 2
        omega
      rw [e, Nat.add_mul_div_right _ _ (Nat.pow_pos hB), Nat.add_mul_mod_self_right]
      exact ih hlt

theorem lanes_fold (w n : Nat) (f : Nat → Nat) :
    (List.range n).foldl (fun a i => a + (f i % 2 ^ w) <<< (w * i)) 0 = digitSum (2 ^ w) f n := by
  induction n with
  | zero => rfl
  | succ n ih =>
    rw [List.range_succ, List.foldl_append, ih]
    simp only [List.foldl_cons, List.foldl_nil, digitSum, Nat.shiftLeft_eq, pow_mul]

theorem laneW_pos (t : EType) : 0 < laneW t := by cases t <;> decide
theorem laneW_mul (t : EType) : laneW t * laneN t = 512 := by cases t <;> rfl

/-- Lane i of a vector built lane by lane is what was put there, modulo 2^w. -/
theorem laneOf_lanes (t : EType) (f : Nat → Nat) (i : Nat) (h : i < laneN t) :
    laneOf t (lanes t f) i = f i % 2 ^ laneW t := by
  have hB : 0 < 2 ^ laneW t := Nat.two_pow_pos _
  have hlt : digitSum (2 ^ laneW t) f (laneN t) < 2 ^ 512 := by
    have := digitSum_lt hB f (laneN t)
    rwa [← pow_mul, laneW_mul] at this
  unfold laneOf lanes
  rw [lanes_fold, BitVec.toNat_ofNat, Nat.mod_eq_of_lt hlt, Nat.shiftRight_eq_div_pow, pow_mul]
  exact digitSum_digit hB f _ i h

/-- A lane is less than 2^w. -/
theorem laneOf_lt (t : EType) (v : Vec) (i : Nat) : laneOf t v i < 2 ^ laneW t := Nat.mod_lt _ (Nat.two_pow_pos _)

/-- What a masked lane operation leaves: the result in each lane the mask leaves on, the old value in every other. -/
theorem Strand.mapLanes_spec (t : Strand) (d : BitVec 5) (k : BitVec 3) (ty : EType) (f : Nat → LaneRes) :
    ∃ v fl, t.mapLanes d k ty f = (t.setV d v, fl) ∧
      (∀ i < laneN ty, laneOf ty v i = if t.laneOn k ty i then (f i).1 % 2 ^ laneW ty else laneOf ty (t.v d) i) ∧
      ((∀ i, (f i).2 = 0#5) → fl = 0#5) := by
  refine ⟨_, _, rfl, ?_, ?_⟩
  · intro i hi
    rw [laneOf_lanes _ _ _ hi]
    simp only [List.getElem?_map, List.getElem?_range hi, Option.map_some, Option.getD_some]
    split
    · rfl
    · exact Nat.mod_eq_of_lt (laneOf_lt ..)
  · intro hf
    have : ∀ (l : List LaneRes) (a : BitVec 5), (∀ r ∈ l, r.2 = 0#5) → l.foldl (fun a r => a ||| r.2) a = a := by
      intro l
      induction l with
      | nil => intros; rfl
      | cons x r ih =>
        intro a h
        simp only [List.foldl_cons]
        rw [ih _ fun r hr => h r (List.mem_cons_of_mem _ hr), h x (List.mem_cons_self ..)]
        simp
    apply this
    intro r hr
    simp only [List.mem_map] at hr
    obtain ⟨i, _, rfl⟩ := hr
    split
    · exact hf i
    · rfl

end Sys2Proof.Machine
end

