-- ==== Sys2Proof/Tests/Slice0.lean ====
section
/-!
SUPPORT. Tests: the words that the manual lists decode to what they stand for, ill-formed terms are refused, worked examples of
the manual come out, and the hypotheses of every statement are met by a concrete state. Each test names its source.
-/
set_option Elab.async false
set_option maxRecDepth 100000

namespace Sys2Proof.Tests
open Sys2Proof Sys2Proof.Machine

/-- A resident strand of job 1 in slot 0 of core 0, at address 0x1000. -/
def base : Strand := { Strand.newborn .resident 0 1 0 0 with pc := 0x1000 }

/-- A strand with these values in these g registers. -/
def withG (t : Strand) (l : List (Nat × Nat)) : Strand := l.foldl (fun t p => t.setGN p.1 (BitVec.ofNat 64 p.2)) t

/-- A strand in this mode. -/
def inMode (t : Strand) (m : Nat) : Strand := { t with sys := { t.sys with status := field64 m 6 } }

/-- A partition of function 0 with quad 0 alone and windows of 4 KiB, if PWS holds 1. -/
def part0 : Part := { Part.reset with present := true, part := field64 1 55, jobtab := Part.reset.jobtab.set 0 (field64 1 63 ||| field64 1 0) }

/-- A device that is up, with the partition part0 and this strand, which is the running one. -/
def on (t : Strand) : State :=
  { State.reset with cur := 1, nextUid := 2, strands := [(1, t)], parts := [(0, part0)], host := { HostPort.reset with linkUp := true },
                     steax := { Steax.reset with ready := true, stage := 6, railsOff := [] } }

/-- The strand that a next state runs. -/
def after (o : Host.Outcome State Fault Refusal) : Option Strand :=
  match o with
  | .next s => s.strand? 1
  | _ => none

/-- g[d] of the strand after an instruction. -/
noncomputable def gAfter (i : Instr) (t : Strand) (d : Nat) : Option Nat := (after (exec i (on t))).map fun t => (t.gN d).toNat

/-- TCAUSE and TVAL after an instruction. -/
noncomputable def trapAfter (i : Instr) (t : Strand) : Option (Nat × Nat) :=
  (after (exec i (on t))).map fun t => (t.sys.tcause.toNat, t.sys.tval.toNat)

/-! Ill-formed terms, one for each check of Instr.wf (the rule of each stands beside it). -/

/-- R135: no code types. -/
theorem test_illFormed_vadd : Instr.wf (.vadd 1 2 3 0 .c8a) = false := by decide
/-- R136: floats only. -/
theorem test_illFormed_vrcpe : Instr.wf (.vrcpe 1 2 0 .s32) = false := by decide
/-- R135: integers only. -/
theorem test_illFormed_vadds : Instr.wf (.vadds 1 2 3 0 .f32) = false := by decide
/-- R135: integers only. -/
theorem test_illFormed_vand : Instr.wf (.vand 1 2 3 0 .bf16) = false := by decide
/-- R138: no code types. -/
theorem test_illFormed_vceq : Instr.wf (.vceq 1 2 3 0 .c4) = false := by decide
/-- R140: no half bytes. -/
theorem test_illFormed_vlds : Instr.wf (.vlds 1 2 3 0 .c4) = false := by decide
/-- R140: 4 and 8 byte elements. -/
theorem test_illFormed_vgather : Instr.wf (.vgather 1 2 3 0 .f16) = false := by decide
/-- R144. -/
theorem test_illFormed_vperm : Instr.wf (.vperm 1 2 3 0 .c4) = false := by decide
/-- R144. -/
theorem test_illFormed_viota : Instr.wf (.viota 1 0 .c8a) = false := by decide
/-- R146. -/
theorem test_illFormed_vredsum : Instr.wf (.vredsum 1 2 0 .c8b) = false := by decide
/-- R148. -/
theorem test_illFormed_vaddi : Instr.wf (.vaddi 1 .c4 0) = false := by decide
/-- R124: loads take rlx and acq. -/
theorem test_illFormed_amoLd : Instr.wf (.amoLdW 1 2 0 .rel .d) = false := by decide
/-- R124: stores take rlx and rel. -/
theorem test_illFormed_amoSt : Instr.wf (.amoStD 1 2 .acq .d) = false := by decide
/-- R128: PROMOTE acquires. -/
theorem test_illFormed_promote_order : Instr.wf (.promote 1 2 .rlx .d) = false := by decide
/-- R128: no scope c. -/
theorem test_illFormed_promote_scope : Instr.wf (.promote 1 2 .acq .c) = false := by decide
/-- R145: rounding codes 5 to 7 are reserved. -/
theorem test_illFormed_vcvt_round : Instr.wf (.vcvt 1 2 .f32 5 .f16) = false := by decide
/-- R145. -/
theorem test_illFormed_vcvt_code_int : Instr.wf (.vcvt 1 2 .c8a 0 .s32) = false := by decide
/-- R145. -/
theorem test_illFormed_vcvt_int_code : Instr.wf (.vcvt 1 2 .s32 0 .c8a) = false := by decide
/-- R145: an encoding rounds by 0 or 1. -/
theorem test_illFormed_vcvt_code_round : Instr.wf (.vcvt 1 2 .f32 2 .c8a) = false := by decide
/-- R145. -/
theorem test_illFormed_vcvt_code_code : Instr.wf (.vcvt 1 2 .c8a 0 .c8b) = false := by decide
theorem test_wellFormed : Instr.wf (.vadd 1 2 3 7 .f32) = true ∧ Instr.wf (.vcvt 3 4 .c8a 0 .f32) = true := by decide

/-! Words that the reference chapters 04 to 10 of the manual write out beside their instructions. -/

theorem test_decode_scalar0 :
    decode 0x04a63e00#32 = some (.addZ32 5 6 7) ∧
    decode 0x04a63801#32 = some (.sub 5 6 7) ∧
    decode 0x1ca6ffff#32 = some (.sltiz 5 6 0xffff) ∧
    decode 0x08a00040#32 = some (.addi 5 0 0x40) := by
  decide
theorem test_decode_scalar1 :
    decode 0x24a50032#32 = some (.lih 5 5 0x32) := by
  decide
theorem test_decode_shift0 :
    decode 0x20a60f01#32 = some (.srliZ32 5 6 3) ∧
    decode 0x20a6fc02#32 = some (.srai 5 6 63) := by
  decide
theorem test_decode_control0 :
    decode 0x28a00002#32 = some (.pcrel 5 2) ∧
    decode 0x8520fffc#32 = some (.bne 9 0 0xfffc) ∧
    decode 0x9be00010#32 = some (.jal 31 0x10) ∧
    decode 0x9c1f0000#32 = some (.jalr 0 31 0) := by
  decide
theorem test_decode_control1 :
    decode 0xa0000002#32 = some (.exit) ∧
    decode 0xa0050000#32 = some (.sleepuntil 5) := by
  decide
theorem test_decode_muldiv0 :
    decode 0x30a60004#32 = some (.quoS64 5 6 0) := by
  decide
theorem test_decode_bits0 :
    decode 0x34a63a0b#32 = some (.sel 5 6 7 8) := by
  decide
theorem test_decode_path0 :
    decode 0x38a64805#32 = some (.pdig 5 6 9) ∧
    decode 0x38ad700c#32 = some (.ppack 5 13 14) := by
  decide
theorem test_decode_memory0 :
    decode 0x48a20008#32 = some (.ldW 5 2 8) ∧
    decode 0x51680000#32 = some (.ldBz 11 8 0) ∧
    decode 0x6cfefff8#32 = some (.stD 7 30 0xfff8) ∧
    decode 0x65430000#32 = some (.stH 10 3 0) := by
  decide
theorem test_decode_block0 :
    decode 0x70a60000#32 = some (.bld 5 6) ∧
    decode 0x70e60002#32 = some (.bcopy 7 6) := by
  decide
theorem test_decode_atomic0 :
    decode 0x74a2300a#32 = some (.amoAddW 5 2 6 .acq .d) ∧
    decode 0x74a23d3b#32 = some (.amoCasD 5 2 7 .ar .p) := by
  decide
theorem test_decode_fence0 :
    decode 0x7800001b#32 = some (.fence .ar .p) ∧
    decode 0x78a2002b#32 = some (.promote 5 2 .acq .p) := by
  decide
theorem test_decode_weir0 :
    decode 0x7c263800#32 = some (.wset 1 6 7) := by
  decide
theorem test_decode_varith0 :
    decode 0xc08531a3#32 = some (.vfma 4 5 6 1 .f32) ∧
    decode 0xc042086d#32 = some (.vxor 2 2 1 0 .z32) := by
  decide
theorem test_decode_vimm0 :
    decode 0xd02a8000#32 = some (.vimm 1 .f32 0x8000) := by
  decide
theorem test_decode_vcmp0 :
    decode 0xc4411022#32 = some (.vclt 2 1 2 0 .s32) ∧
    decode 0xc4221804#32 = some (.kand 1 2 3) := by
  decide
theorem test_decode_vmem0 :
    decode 0xc8e240a4#32 = some (.vgather 7 2 8 0 .f32) := by
  decide
theorem test_decode_vperm0 :
    decode 0xcc6458a7#32 = some (.vcvt 3 4 .c8a 0 .f32) ∧
    decode 0xcc2200a9#32 = some (.vredsum 1 2 0 .f32) ∧
    decode 0xcc4530ac#32 = some (.vrand 2 5 6 0 .f32) := by
  decide
theorem test_decode_tarn0 :
    decode 0xe0031ca0#32 = some (.tdecl 6 7 5) ∧
    decode 0xe0132000#32 = some (.tld 6 8) ∧
    decode 0xe0232403#32 = some (.tfill 6 9 3) ∧
    decode 0xe0330000#32 = some (.tseal 6) := by
  decide
theorem test_decode_tarn1 :
    decode 0xe0432404#32 = some (.tget 6 9 4) ∧
    decode 0xe0630000#32 = some (.tkill 6) ∧
    decode 0xe07300a0#32 = some (.ttag 6 5) := by
  decide
theorem test_decode_matrix0 :
    decode 0xe4030000#32 = some (.mfmt 6) ∧
    decode 0xe4130003#32 = some (.mlutB4 6) ∧
    decode 0xe4230000#32 = some (.mzero 6) ∧
    decode 0xe4330000#32 = some (.mma 6) := by
  decide
theorem test_decode_matrix1 :
    decode 0xe4330001#32 = some (.mmaNc 6) ∧
    decode 0xe4431c00#32 = some (.mmax 6 7) ∧
    decode 0xe4530000#32 = some (.mtrn 6) ∧
    decode 0xe4630000#32 = some (.mcvt 6) := by
  decide
theorem test_decode_message0 :
    decode 0xe8042400#32 = some (.sendEnt 8 9) ∧
    decode 0xe8042401#32 = some (.sendCode 8 9) ∧
    decode 0xe8042402#32 = some (.sendData 8 9) ∧
    decode 0xe8042403#32 = some (.sendCnt 8 9) := by
  decide
theorem test_decode_message1 :
    decode 0xe81300a0#32 = some (.mw 6 5) ∧
    decode 0xe8200000#32 = some (.mrel) ∧
    decode 0xe8300000#32 = some (.hret) := by
  decide
theorem test_decode_task0 :
    decode 0xec050000#32 = some (.dqput 10) ∧
    decode 0xec1030a0#32 = some (.dqtake 12 5) ∧
    decode 0xec231ca0#32 = some (.launch 6 7 5) ∧
    decode 0xec231ca1#32 = some (.launchGang 6 7 5) := by
  decide
theorem test_decode_task1 :
    decode 0xec300000#32 = some (.trigger) ∧
    decode 0xec432000#32 = some (.spawn 6 8) ∧
    decode 0xec432001#32 = some (.spawnH 6 8) ∧
    decode 0xec5080a0#32 = some (.pres 1 5) := by
  decide
theorem test_decode_task2 :
    decode 0xec6100a0#32 = some (.pwait 2 5) ∧
    decode 0xec708000#32 = some (.padv 1) ∧
    decode 0xec831ca0#32 = some (.resample 6 7 5) := by
  decide
theorem test_decode_collective0 :
    decode 0xf0031c20#32 = some (.barset 6 7 1) ∧
    decode 0xf0100020#32 = some (.bararr 1) ∧
    decode 0xf0200020#32 = some (.barwait 1) ∧
    decode 0xf0300020#32 = some (.barleave 1) := by
  decide
theorem test_decode_collective1 :
    decode 0xf0331c01#32 = some (.barleaveO 6 7) ∧
    decode 0xf04000a0#32 = some (.still 5) ∧
    decode 0xf04300a1#32 = some (.stillTo 6 5) ∧
    decode 0xf05300a0#32 = some (.qcount 6 5) := by
  decide
theorem test_decode_collective2 :
    decode 0xf0631c00#32 = some (.qfix 6 7) := by
  decide
theorem test_decode_copy0 :
    decode 0xf40400a0#32 = some (.cpystart 8 5) ∧
    decode 0xf41480a0#32 = some (.cpywait 9 5) ∧
    decode 0xf41480a1#32 = some (.cpywaitNl 9 5) ∧
    decode 0xf42480a0#32 = some (.cpypoll 9 5) := by
  decide
theorem test_decode_copy1 :
    decode 0xf43300a0#32 = some (.cpygwait 6 5) ∧
    decode 0xf4448000#32 = some (.cpycancel 9) := by
  decide
theorem test_decode_system0 :
    decode 0xf80000a7#32 = some (.sysr 5 .cyc) ∧
    decode 0xf813000d#32 = some (.sysw 6 .frm) ∧
    decode 0xf8230000#32 = some (.svc 6) ∧
    decode 0xf8300005#32 = some (.brk 5) := by
  decide
theorem test_decode_system1 :
    decode 0xf8401c00#32 = some (.eret 7) ∧
    decode 0xf8831c00#32 = some (.xroot 6 7) ∧
    decode 0xf8931c00#32 = some (.xinv 6 7) ∧
    decode 0xf8a31ca0#32 = some (.xprobe 6 7 5) := by
  decide
theorem test_decode_system2 :
    decode 0xf8b300a0#32 = some (.xback 6 5) ∧
    decode 0xf8e31c00#32 = some (.wayset 6 7) ∧
    decode 0xf8f31c00#32 = some (.bregion 6 7) ∧
    decode 0xf9031c00#32 = some (.eset 6 7) := by
  decide
theorem test_decode_system3 :
    decode 0xf9430000#32 = some (.mdrain 6) ∧
    decode 0xf9530000#32 = some (.mrest 6) ∧
    decode 0xf9630000#32 = some (.vsave 6) ∧
    decode 0xf9730000#32 = some (.vrest 6) := by
  decide
/-- R78: words of unassigned majors, unassigned functions, reserved bits. -/
theorem test_decode_illegal : decode 0x00000000#32 = none ∧ decode 0xffffffff#32 = none ∧ decode 0xa0000003#32 = none ∧
    decode 0x28a10002#32 = none ∧ decode 0xc08531ae#32 = none ∧ decode 0x78000005#32 = none ∧ decode 0xf8008013#32 = none := by decide
/-- R3 and R69: the byte order of a word. -/
theorem test_tableWord : decodeTableWord 32 0x04a63e00 = some (.addZ32 5 6 7) := by decide

/-! Worked examples of the manual, one step each. -/

/-- R102's walk of the shared tensor: references g6, g10, g11, and g12 = 39, g13 = 5, g14 = 3. -/
def walk : Strand := withG base [(6, 0x100027), (10, 0x0400000000100024), (11, 0x0800000000100020), (12, 39), (13, 5), (14, 3)]

theorem test_pdig : gAfter (.pdig 5 6 9) (withG walk [(9, 3)]) 5 = some 2 ∧ gAfter (.pdig 5 6 9) (withG walk [(9, 1)]) 5 = some 3 := by decide
theorem test_pparent : gAfter (.pparent 7 6) walk 7 = some 0x0400000000100024 := by decide
theorem test_ptrunc : gAfter (.ptrunc 7 6 8) (withG walk [(8, 2)]) 7 = some 0x0800000000100020 := by decide
theorem test_pnext : gAfter (.pnext 7 10) walk 7 = some 0x0400000000100028 := by decide
theorem test_psib : gAfter (.psib 7 10 9) (withG walk [(9, 3)]) 7 = some 0x040000000010002c := by decide
theorem test_pchild : gAfter (.pchild 7 11 9) (withG walk [(9, 1)]) 7 = some 0x0400000000100024 := by decide
theorem test_psdig : gAfter (.psdig 7 6 9) (withG walk [(9, 3)]) 7 = some 0x100007 := by decide
theorem test_pin : gAfter (.pin 5 11 6) walk 5 = some 1 := by decide
theorem test_prow_pcol : gAfter (.prow 5 12) walk 5 = some 5 ∧ gAfter (.pcol 5 12) walk 5 = some 3 := by decide
theorem test_ppack : gAfter (.ppack 5 13 14) walk 5 = some 39 := by decide
/-- The failing cases below the table. -/
theorem test_path_traps : trapAfter (.ptrunc 7 6 8) (withG walk [(8, 29)]) = some (0x07, 0x100027) ∧
    trapAfter (.psdig 7 10 9) (withG walk [(9, 0x101)]) = some (0x07, 0x0400000000100024) ∧
    trapAfter (.pparent 7 15) (withG walk [(15, 0x0800000000100024)]) = some (0x06, 0x0800000000100024) := by decide
/-- R98's table: division by zero and overflow. -/
theorem test_quo_zero : gAfter (.quoS64 5 6 0) (withG base [(6, 7)]) 5 = some (2 ^ 64 - 1) ∧
    gAfter (.rmdS32 5 6 0) (withG base [(6, 0x80000000)]) 5 = some 0xffffffff80000000 ∧
    gAfter (.quoZ32 5 6 0) (withG base [(6, 7)]) 5 = some 0xffffffff := by decide
theorem test_quo_overflow : gAfter (.quoS64 5 6 7) (withG base [(6, 2 ^ 63), (7, 2 ^ 64 - 1)]) 5 = some (2 ^ 63) ∧
    gAfter (.quoS32 5 6 7) (withG base [(6, 0x80000000), (7, 0xffffffff)]) 5 = some 0xffffffff80000000 := by decide
/-- R96: PCREL 2 at PC 0x1_0000_0040. -/
theorem test_pcrel : gAfter (.pcrel 5 2) { base with pc := 0x100000040 } 5 = some 0x100020040 := by decide
/-- 04_encoding.md: li builds 0x40_0032_5000 by lih. -/
theorem test_lih : gAfter (.lih 5 5 0x5000) (withG base [(5, 0x400032)]) 5 = some 0x4000325000 := by decide
/-- R6: a write to g0 is discarded. -/
theorem test_g0 : gAfter (.addi 0 0 7) base 0 = some 0 := by decide
/-- R25's example: ld.d g5, 0x10(g2) past the top traps 0x05 with the exact address. -/
theorem test_load_past_top : trapAfter (.ldD 5 2 0x10) (withG base [(2, 2 ^ 56 - 8)]) = some (0x05, 2 ^ 56 + 8) := by decide
/-- R54's example: the tag of a defined 32 x 40 operand of codes. -/
theorem test_tag : ({ Name.reset with st := .defined, tag := (0xb7c4e20000000000#64 >>> 35).setWidth 29, dcore := 1, dslot := 0 } : Name).tagWord =
    0xb7c4e20200004000#64 := by decide
/-- R196's example: eight weights, N = 8, u = 0.5. -/
theorem test_resampleCounts : resampleCounts 8 1 2 16 0 [1, 3, 0, 2, 6, 0, 2, 2] = [1, 1, 0, 1, 3, 0, 1, 1] := by decide
/-- R324's example (20_isolation.md): die 10, quad x = 14, y = 1 has curve index 3,330. -/
theorem test_hilbert : hilbertOf (256 * 10 + 16 * 1 + 14) = 3330 ∧ quadOfHilbert 3330 = 256 * 10 + 16 * 1 + 14 := by decide
/-- R217 and R218: SVC saves the cause, the address and g[a], and goes to TVEC in supervisor mode. -/
theorem test_svc : (after (exec (.svc 6) { on (withG base [(6, 9)]) with parts := [(0, { part0 with tvec := 0x8000#64 })] })).map
    (fun t => (t.pc, t.sys.tcause, t.sys.tpc, t.sys.tval, t.mode, bitsNat t.sys.status 5 4)) = some (0x8000, 0x71#64, 0x1000#64, 9#64, 1, 0) := by decide
/-- R219: ERET by 4 from supervisor mode with PMODE user. -/
theorem test_eret : (after (exec (.eret 7) (on { inMode (withG base [(7, 4)]) 1 with sys := { (inMode base 1).sys with tpc := 0x2000#64 } }))).map
    (fun t => (t.pc, t.mode)) = some (0x2004, 0) := by decide
/-- R103: the last word of the address space. -/
theorem test_next_pc : trapAfter (.add 5 6 7) { base with pc := 2 ^ 56 - 4 } = some (0x05, 2 ^ 56 - 4) := by decide
/-- R119 and R114: a store enters the buffer, and STORE_PERFORMED writes it, little-endian. -/
theorem test_store : (after (exec (.stW 6 5 0) (on (withG base [(5, 2 ^ 56 - 2 ^ 27), (6, 0x11223344)])))).map (fun t => t.buf.map fun e => e.segs) =
    some [[(0, [0x44#8, 0x33#8, 0x22#8, 0x11#8])]] := by decide +kernel
theorem test_storePerformed : (match exec (.storePerformed 1) (on { base with buf := [⟨0, 2 ^ 56 - 2 ^ 27, .pool 0 0, [(0, [0x44#8, 0x33#8])]⟩] }) with
    | .next s => s.mem
    | _ => []) = [(memPool, 0x44#8), (memPool + 1, 0x33#8)] := by decide +kernel
/-- A step right after placing a word runs it: addi g5, g0, 0x40 (0x08a0_0040). -/
theorem test_step : (match step ((State.reset).withFetchWord 32 0x08a00040) with
    | .next s => List.map (fun (p : Nat × Strand) => (p.2.pc, (p.2.gN 5).toNat)) s.strands
    | _ => []) = [(placePc + 4, 0x40)] := by decide +kernel

/-! Witnesses: concrete states and operands that meet the hypotheses of the statements, clause by clause. -/

/-- Every strand at an ordinary address with no trap pending is ready in the state it is placed in. -/
theorem ready_on (t : Strand) (h : t.doom = none) (p : t.pc + 8 ≤ 2 ^ 56) : Ready (on t) t := ⟨rfl, h, p⟩

theorem witness_ready : Ready (on base) base ∧ Plain base := ⟨ready_on _ rfl (by decide), .inl rfl⟩

/-- IntegerArithmeticCompletes, Integer32BitFormsComplete, ImmediatesComplete, BitAndSelectFunctionsComplete: a ready strand; d = 0
and d not 0. -/
theorem witness_scalar : Ready (on base) base ∧ (5#5 ≠ 0#5) := ⟨witness_ready.1, by decide⟩

/-- MultiplyDivideComplete: the overflow operands of both widths. -/
theorem witness_divide : let t := withG base [(6, 2 ^ 63), (7, 2 ^ 64 - 1), (8, 2 ^ 31)]
    Ready (on t) t ∧ t.g 6#5 = 0x8000000000000000#64 ∧ t.g 7#5 = BitVec.allOnes 64 ∧
    (t.g 8#5).setWidth 32 = 0x80000000#32 ∧ (t.g 7#5).setWidth 32 = BitVec.allOnes 32 :=
  ⟨ready_on _ rfl (by decide), by decide⟩

/-- PathInstructionsComplete: a reference that passes its checks, at L = 0 and at the highest level; one that fails them; the
limits of each row on both sides. -/
theorem witness_path : let t := withG walk [(15, 0x0800000000100024), (16, 2 ^ 63)]
    Ready (on t) t ∧ refCheck (t.g 6#5) = none ∧ refCheck (t.g 15#5) = some (0x06, t.g 15#5) ∧ refCheck (t.g 10#5) = none ∧
    (t.g 6#5).toNat / 2 ^ 58 = 0 ∧ (t.g 6#5).toNat % 2 ^ 56 % 2 ^ 0 = 0 ∧ (t.g 16#5).toNat / 2 ^ 56 ≠ 0 ∧ (t.g 12#5).toNat / 2 ^ 56 = 0 :=
  ⟨ready_on _ rfl (by decide), by decide⟩
theorem witness_path_top : let x := 0x7000000000000000#64
    refCheck x = none ∧ x.toNat / 2 ^ 58 = 28 ∧ ¬(x.toNat / 2 ^ 58 + 1 ≤ 28) ∧ 2 ^ 56 ≤ x.toNat % 2 ^ 56 + 2 ^ (2 * 28) := by decide

/-- BranchesAndJumpsComplete: taken and not taken, a target below 0, JALR's checks, PCREL below 0 and inside. -/
theorem witness_branch : let t := withG { base with pc := 0 } [(6, 2 ^ 56), (7, 2 ^ 56 - 1), (8, 2)]
    Ready (on t) t ∧ Plain t ∧ t.g 6#5 ≠ t.g 7#5 ∧ t.g 6#5 = t.g 6#5 ∧ (t.pc : Int) + 4 * (0xffff#16).toInt < 0 ∧
    (t.pc : Int) + 4 * (0x7fff#16).toInt ≤ 2 ^ 56 - 4 ∧ 2 ^ 56 ≤ (t.g 6#5).toNat ∧ (t.g 7#5).toNat < 2 ^ 56 ∧
    2 ^ 56 - 4 < ((t.g 7#5).toNat : Int) + (0#16).toInt ∧ ((t.g 8#5).toNat : Int) % 4 ≠ 0 ∧ ((t.g 8#5).toNat + (2#16).toInt) % 4 = 0 ∧
    (t.pc : Int) + (0xffff#16).toInt * 65536 < 0 ∧ 0 ≤ (t.pc : Int) + (0#16).toInt * 65536 :=
  ⟨ready_on _ rfl (by decide), .inl rfl, by decide⟩

/-- WaitsYieldAndEndComplete: a task, a resident and a handler; CYC reached and not; nothing and something under way. -/
theorem witness_waits : let t := withG base [(6, 1)]
    Ready (on t) t ∧ Plain t ∧ t.kind = .resident ∧ (t.g 0#5).toNat ≤ (on t).cyc ∧ (on t).cyc < (t.g 6#5).toNat ∧
    (on t).canEnd (on t).cur t = true ∧ (on { t with vflags := [0#5] }).canEnd 1 { t with vflags := [0#5] } = false :=
  ⟨ready_on _ rfl (by decide), .inl rfl, by decide⟩
/-- The same: registers bound and unbound, a withdrawal on its way and none. -/
theorem witness_ends : let t : Strand := base.setB 0#2 (field64 1 63 ||| field64 1 60 ||| field64 5 32)
    (∀ i : BitVec 2, bitAt (base.b i) 63 = false) ∧ bitAt (t.b 0#2) 63 = true ∧ bitAt (t.b 0#2) 57 = false ∧ (on base).barrierTraffic 1 = false ∧
    ({ on base with packets := [⟨9, .withdraw 0 1 1 5 false false 1 0, .control, 1, 0, 0, 0, none, 0, .shared, 0, false⟩] } : State).barrierTraffic 1 = true := by
  decide +kernel
theorem witness_handler : let t : Strand := { base with kind := .handler }
    Ready (on t) t ∧ t.kind = .handler ∧ (on t).canEnd 1 t = true := ⟨ready_on _ rfl (by decide), by decide⟩

/-- A device whose partition maps virtual page 0x1_0000 to frame 0x20_0000 and page 0x2_0000 dry, in stage 2 alone. -/
def mapped (t : Strand) : State :=
  { on t with parts := [(0, { part0 with burst := 4, root2 := some (BitVec.ofNat 64 placeRoot) })]
              mem := Memory.put (placeTables []) (placeRoot + 8192 + 16) (leBytes 8 (2 ^ 63 + 2 ^ 62 + 7 * 2 ^ 58)) }

/-- A strand whose translation answer has come, with g2 in the mapped page, g3 in the dry page, g4 in its own pool, g5 in no
page, g6 = 2^56. -/
def reads : Strand := { withG base [(2, 0x10008), (3, 0x20008), (4, 2 ^ 56 - 2 ^ 27 + 0x108), (5, 0x30000), (6, 2 ^ 56), (7, 2 ^ 56 - 4)] with answered := true }

theorem ready_mapped (t : Strand) (h : t.doom = none) (p : t.pc + 8 ≤ 2 ^ 56) : Ready (mapped t) t := ⟨rfl, h, p⟩

/-- ScalarLoadsComplete and ScalarStoresEnterTheBuffer: each check failing and passing, a dry page, a mapped page, forwarding. -/
theorem witness_access_checks : Ready (mapped reads) reads ∧ 2 ^ 56 ≤ (reads.g 6#5).toNat ∧ (reads.g 7#5).toNat < 2 ^ 56 ∧
    2 ^ 56 < ((reads.g 7#5).toNat : Int) + (0#16).toInt + 8 ∧ ((reads.g 2#5).toNat : Int) + (0#16).toInt = (0x10008 : Nat) ∧
    0x10008 + 8 ≤ 2 ^ 56 ∧ 0x10008 % 8 = 0 ∧ 0x10009 % 2 ≠ 0 ∧ weirRefuses reads.weirs 0x10008 8 3 = none ∧
    weirRefuses [⟨0x10000#64, 1#2⟩] 0x10000 1 2 = some 0x10000 ∧ (mapped reads).answeredAt reads 0x10008 true = true ∧
    (mapped base).answeredAt base 0x10008 false = false :=
  ⟨ready_mapped _ rfl (by decide), by decide +kernel⟩
theorem witness_access_mapped : ∃ s', resolve (mapped reads) 0 0 0 0x10008 .read = .ok s' (.loc 0x200008) ∧
    reads.timeout = false ∧ reads.forward 0x10008 8 = none ∧ s'.readPoison 0 0x10008 (.loc 0x200008) 8 = false := ⟨_, rfl, by decide +kernel⟩
theorem witness_access_write : ∃ s', resolve (mapped reads) 0 0 0 0x10008 .write = .ok s' (.loc 0x200008) := ⟨_, rfl⟩
theorem witness_access_dry : (∃ s', resolve (mapped reads) 0 0 0 0x20008 .read = .ok s' .dry) ∧
    ∃ s', resolve (mapped reads) 0 0 0 0x20008 .write = .ok s' .dry := ⟨⟨_, rfl⟩, ⟨_, rfl⟩⟩
theorem witness_access_refused : (∃ s', resolve (on reads) 0 0 0 0x30000 .read = .refused s' ∧ s'.me = some reads) ∧
    ∃ s', resolve (on reads) 0 0 0 0x30000 .write = .refused s' ∧ s'.me = some reads := ⟨⟨_, rfl, rfl⟩, ⟨_, rfl, rfl⟩⟩
theorem witness_forward : let t := { reads with buf := [⟨0, 0x10008, .loc 0x200008, [(0, [1#8, 2#8])]⟩] }
    t.forward 0x10008 2 = some (some [1#8, 2#8]) ∧ t.forward 0x10008 4 = some none ∧ t.buf.length < 8 := by decide +kernel
theorem witness_loaded : ∃ s'' bs, (mapped reads).loadBytes reads 0x10008 (.loc 0x200008) 8 = .ok s'' bs := ⟨_, _, rfl⟩
theorem witness_load_poison : ({ mapped reads with poison := [0x200000] } : State).loadBytes reads 0x10008 (.loc 0x200008) 8 = .poison := rfl

/-- The statements over pools: no other strand of the core has a store buffered. -/
theorem alone_on (t : Strand) : Alone (on t) t := by intro p h n; simp only [on, List.mem_singleton] at h; subst h; exact absurd rfl n

/-- PoolLoadsReadPoolBytes, AtomicsOnPoolChangeTheirBytesOnly and the others over the own pool. -/
theorem witness_pool : let ea := 2 ^ 56 - 2 ^ 27 + 0x108
    Ready (on reads) reads ∧ (reads.g 4#5).toNat < 2 ^ 56 ∧ ((reads.g 4#5).toNat : Int) + (0#16).toInt = (ea : Nat) ∧ ea + 8 ≤ 2 ^ 56 ∧ ea % 8 = 0 ∧
    2 ^ 56 - 2 ^ 27 ≤ ea ∧ (on reads).coreIn reads.vf (1024 * dieOf reads.core + ea / 2 ^ 17 % 1024) = true ∧
    weirRefuses reads.weirs ea 8 3 = none ∧ weirRefuses reads.weirs ea 8 2 = none ∧ reads.timeout = false ∧ reads.forward ea 8 = none ∧
    (on reads).poisoned (Target.pool (1024 * dieOf reads.core + ea / 2 ^ 17 % 1024) (ea % 2 ^ 17)).key 8 = false ∧ reads.buf = [] ∧
    Memory.wf (on reads).mem = true :=
  ⟨ready_on _ rfl (by decide), by decide +kernel⟩

/-- StorePerformedWritesItsBytes: a pool target, and local memory of another die. -/
theorem witness_storePerformed : let t : Strand := { base with buf := [⟨0, 2 ^ 56 - 2 ^ 27, .pool 0 0, [(0, [1#8])]⟩] }
    Memory.wf (on t).mem = true ∧ (on t).strand? 1 = some t ∧ t.buf = ⟨0, 2 ^ 56 - 2 ^ 27, .pool 0 0, [(0, [1#8])]⟩ :: [] ∧
    (on t).reachable 0 0 (.pool 0 0) = true := by decide +kernel
theorem witness_storePerformed_far : let pa := 3 * 2 ^ 32
    dieOfPa pa ≠ dieOf base.core ∧ (on base).l1 = [] ∧ (on base).host.flip = none ∧ (on base).host.hostBias = [] ∧ (on base).reachable 0 0 (.loc pa) = true := by decide +kernel

/-- Whether an access is granted at this target, in a state that meets a test. -/
def granted (c : Chk) (tg : Target) (test : State → Bool) : Bool :=
  match c with
  | .go s t => t = tg && test s
  | .res _ => false

/-- AtomicsCompleteInOneStep, FencesPromoteAndWeirsComplete: an access granted at a pool, at memory and at a dry page; stores
buffered and none; poison. -/
theorem witness_atomic : let ea := 2 ^ 56 - 2 ^ 27 + 0x108
    eaCheck (reads.g 4#5) 0 8 = .ok ea ∧
    granted ((on reads).scalarAccess reads ea 8 .rmw 3) (.pool 0 0x108) (fun s' => !s'.readPoison 0 ea (.pool 0 0x108) 8) = true ∧
    granted ((on reads).scalarAccess reads ea 8 .sync 2) (.pool 0 0x108) (fun _ => true) = true ∧
    (on reads).homePoison 0 0 ea (.pool 0 0x108) 8 false = false ∧ (∀ p ∈ (on reads).strands, p.1 ≠ (on reads).cur → p.2.core ≠ reads.core ∨ p.2.buf = []) ∧ (on reads).cutOff 0 0 (.pool 0 0x108) = false ∧
    ((on reads).ownPool reads (.pool 0 0x108) 8).mem = [] := ⟨rfl, by decide +kernel⟩
/-- The same: a poisoned granule in the way of a load, an atomic and of amo.st that covers it in part; a line that no link reaches. -/
theorem witness_atomic_fails : let s : State := { on reads with poison := [memPool + 0x108] }
    s.homePoison 0 0 (2 ^ 56 - 2 ^ 27 + 0x108) (.pool 0 0x108) 8 false = true ∧ s.homePoison 0 0 (2 ^ 56 - 2 ^ 27 + 0x108) (.pool 0 0x108) 4 true = true ∧ s.homePoison 0 0 (2 ^ 56 - 2 ^ 27 + 0x108) (.pool 0 0x108) 8 true = false ∧
    (s.ownPool reads (.pool 0 0x108) 8).poison = s.poison ∧
    ({ on reads with host := { HostPort.reset with linkUp := false } } : State).hostGone 0 0 0 true = true := by decide +kernel
theorem witness_syncRead : ∃ s'' bs, ((on reads).ownPool reads (.pool 0 0x108) 8).syncRead 0 0 (2 ^ 56 - 2 ^ 27 + 0x108) (.pool 0 0x108) 8 = .ok s'' bs := ⟨_, _, rfl⟩
theorem witness_atomic_dry : granted ((mapped reads).scalarAccess reads 0x20008 8 .rmw 3) .dry (fun _ => true) = true := by decide +kernel
theorem witness_atomic_memory :
    granted ((mapped reads).scalarAccess reads 0x10008 8 .rmw 3) (.loc 0x200008) (fun s' => (s'.biasWait 0x200008).isNone) = true ∧
    granted ((mapped reads).scalarAccess reads 0x10008 8 .sync 2) (.loc 0x200008) (fun _ => true) = true := by decide +kernel
theorem witness_weirs : refCheck 0x100027#64 = none ∧ refCheck 0x0800000000100024#64 ≠ none ∧ scopeNum .p = 3 ∧ scopeNum .q < 2 := by decide

/-- BlockOperationsComplete: checks that pass and fail, a resume point, a last granule; a block of own pool bytes. -/
def blocks : Strand := withG base [(2, 3 * 2 ^ 58 + (2 ^ 56 - 2 ^ 27)), (3, 0x10000), (4, 0x0800000000100024)]
theorem witness_blocks : Ready (on blocks) blocks ∧ Plain blocks ∧ blocks.prog.block = none ∧ blocks.buf = [] ∧
    blockChecks .bzero (blocks.g 2#5) (blocks.g 2#5) 0#64 (on blocks) blocks = none ∧ blockBytes (blocks.g 2#5) = 64 ∧
    inAperture (refAddr (blocks.g 2#5)) = true ∧ (on blocks).coreIn 0 (apertureCore 0 (refAddr (blocks.g 2#5))) = true ∧
    ((on blocks).quad 0).bed = [] ∧ (on blocks).refPlace blocks (blocks.g 2#5) = true ∧
    refCheck (blocks.g 4#5) = some (0x06, blocks.g 4#5) ∧ refCheck (blocks.g 3#5) = none ∧ inAperture (refAddr (blocks.g 3#5)) = false ∧
    (on blocks).refPlace blocks (blocks.g 3#5) = true ∧ weirRefuses blocks.weirs (refAddr (blocks.g 3#5)) 1 2 = none :=
  ⟨ready_on _ rfl (by decide), .inl rfl, by decide +kernel⟩
/-- The same: a block and a destination offset within pools, weirs open, nothing poisoned; a block in the mapped page. -/
theorem witness_block_pool : let x := blocks.g 2#5
    refCheck x = none ∧ blockBytes x ≤ 65536 ∧ (64#64 : Word64).toNat + blockBytes x ≤ 131072 ∧ (64#64 : Word64).toNat % min (blockBytes x) 64 = 0 ∧
    (on blocks).coreIn 0 0 = true ∧ weirRefuses blocks.weirs (refAddr x) (blockBytes x) 3 = none ∧ weirRefuses blocks.weirs (poolVa 0 64) (blockBytes x) 2 = none ∧
    (on blocks).poisoned (Target.pool 0 64).key (blockBytes x) = false ∧ blocks.timeout = false ∧ blocks.prog.at_ ≠ blocks.pc := by decide +kernel
theorem witness_block_granule : ∃ s', blockGranule .bzero ⟨refAddr (blocks.g 2#5), 0, 64, 0, 0⟩ 0 64 blocks (on blocks) = .inr s' := ⟨_, rfl⟩
/-- The same: lines that can be cleaned at once, and one whose walk waits for the host. -/
theorem witness_clean : (on blocks).cleanWait 0 0 0x10000 64 = none ∧
    ({ mapped blocks with l1 := [⟨0, false, 0, 0x400, 0x200000, .m, 0#512, 0#8, none⟩],
                          host := { HostPort.reset with hostBias := [0x100], filter := [placeRoot / 64] } } : State).cleanWait 0 0 0x10000 64 =
      some (.bisnp (placeRoot / 64)) := by decide +kernel
theorem witness_block_fails : ∃ c, blockChecks .bzero (blocks.g 4#5) (blocks.g 4#5) 0#64 (on blocks) blocks = some c := ⟨_, rfl⟩

/-- A device with this quad 0, and this strand running. -/
def inQuad (t : Strand) (x : Quad) : State := (on t).putQuad 0 x

theorem ready_inQuad (t : Strand) (x : Quad) (h : t.doom = none) (p : t.pc + 8 ≤ 2 ^ 56) : Ready (inQuad t x) t := ⟨rfl, h, p⟩

/-- The vector statements: no TGET under way, integer, floating and code types, masks, NaN operands, busy tables. -/
theorem witness_vector : Ready (on base) base ∧ Plain base ∧ (on base).tgetBusy 1 base = false ∧ EType.s8.isInt = true ∧ EType.z64.isInt = true ∧
    EType.bf16.isFloat = true ∧ EType.f32.isFloat = true ∧ base.laneOn 0 .s8 63 = true ∧ base.laneOn 1 .s8 0 = false ∧ base.prog = Progress.none :=
  ⟨witness_ready.1, witness_ready.2, by decide⟩
theorem witness_nan : (laneVal .f32 0x7fc00000).isNan = true ∧ (laneVal .f32 0x3f800000).isNan = false ∧ (laneVal .f16 0x7e00).isNan = true ∧
    (laneVal .f32 0x7f800001).isSnan = true := by decide
theorem witness_tables : let s := inQuad base { Quad.reset with ops := [⟨1, .mlut false false [], [], none, 0, (Core.reset).ctx base, none, none, 0, 0, 0⟩] }
    s.tableBusy 0 .c8a = true ∧ s.tableBusy 0 .f32 = false ∧ immLane Core.reset .c8a 0x7fc0#16 = none ∧
    immLane Core.reset .f32 0xbf80#16 = some 0xbf800000 := by decide +kernel
theorem witness_convert : (convLane Core.reset 0 .f32 .c8a 0x7fc00000 = none) ∧ (∀ i < 16, (convLane Core.reset 0 .s32 .f32 i).isSome = true) := by
  decide +kernel
/-- VectorMemoryCompletes: unmasked lanes that are granted, one that fails, a reference block of 64 bytes and one that is not. -/
def lanes : Strand := { withG base [(2, 2 ^ 56 - 2 ^ 27 + 0x100), (3, 2 ^ 56), (4, 3 * 2 ^ 58 + (2 ^ 56 - 2 ^ 27)), (5, 0x10000)] with
  regs := { (withG base [(2, 2 ^ 56 - 2 ^ 27 + 0x100), (3, 2 ^ 56), (4, 3 * 2 ^ 58 + (2 ^ 56 - 2 ^ 27)), (5, 0x10000)]).regs with k := Vector.replicate 8 1#64 } }
theorem witness_lanes : let m := (on lanes).checkLanes lanes.claimLanes (some (lanes.g 2#5)) (fun i => ((lanes.g 2#5).toNat : Int) + i * 4) 4 .read [0]
    Ready (on lanes) lanes ∧ lanes.prog = Progress.none ∧ lanes.memOn 1 0 = true ∧ lanes.memOn 1 1 = false ∧ m.fail = none ∧ m.absent = [] ∧
    m.present = [(0, 2 ^ 56 - 2 ^ 27 + 0x100, .pool 0 0x100)] := ⟨ready_on _ rfl (by decide), by decide +kernel⟩
theorem witness_lanes_fail : ((on lanes).checkLanes lanes.claimLanes (some (lanes.g 3#5)) (fun _ => ((lanes.g 3#5).toNat : Int)) 4 .read [0]).fail =
    some (0x04, lanes.g 3#5) := by decide +kernel
theorem witness_lanes_read : ∃ s' v, (on lanes).readLanes lanes 4 0#512 [(0, 2 ^ 56 - 2 ^ 27 + 0x100, .pool 0 0x100)] = .ok s' v := ⟨_, _, rfl⟩
theorem witness_lanes_store : (storeLanes true 4 (lanes.v 0#5) 0 65 (on lanes) lanes [(0, 2 ^ 56 - 2 ^ 27 + 0x100, .pool 0 0x100)]).2.2 = none := by
  decide +kernel
theorem witness_lanes_ref : refCheck (lanes.g 4#5) = none ∧ blockBytes (lanes.g 4#5) = 64 ∧ 2 ^ refE (lanes.g 4#5) = 1 ∧
    refCheck (lanes.g 5#5) = none ∧ blockBytes (lanes.g 5#5) ≠ 64 ∧ refCheck 0x0800000000100024#64 ≠ none := by decide

/-- The tag of a 32 x 32 FP32 name (08_ref_tarn_matrix.md, TDECL), of BF16 operands in orders 0 and 1, of 1 x 1 names. -/
def tagF : BitVec 29 := (0xa7c3e00000000000#64 >>> 35).setWidth 29
/-- BF16, O = 0. -/
def tagA : BitVec 29 := BitVec.ofNat 29 (8 * 2 ^ 25 + 31 * 2 ^ 19 + 31 * 2 ^ 10)
/-- BF16, O = 1. -/
def tagB : BitVec 29 := BitVec.ofNat 29 (8 * 2 ^ 25 + 31 * 2 ^ 19 + 31 * 2 ^ 10 + 2 ^ 9)
/-- A name in this state with this tag, declared by strand 1. -/
def nm (st : NameState) (g : BitVec 29) : Name := { Name.reset with st := st, tag := g, owner := 1, decl := 1 }
/-- A quad with names: 0 and 1 operands, 2 a defined accumulator, 3 a declared one, 4 draining, 5 defined and poisoned. -/
def names : Quad := { Quad.reset with
  names := [(0, nm .defined tagA), (1, nm .defined tagB), (2, nm .defined tagF), (3, nm .declared tagF), (4, nm .draining tagF),
    (5, { nm .defined tagF with poison := [0] })]
  level := 0xffffffff#32 }
/-- A strand with N0 to N3 in g6, name 3 in g7, 7 (free) in g8, 4 in g9, 2 in g10, 5 in g11 and the tags' words in g20 and g21. -/
def tarn : Strand := withG base [(6, 0x03020100), (7, 3), (8, 7), (9, 4), (10, 2), (11, 5), (12, 72), (13, 0x0303030303), (20, 0xa7c3e00000000000), (21, 0xf000000000000000)]

/-- TarnNameInstructionsComplete and TarnReadsAreAccepted: names in every state, tags good and bad, h on both sides of 64 and 72. -/
theorem witness_tarn : let s := inQuad tarn names
    Ready s tarn ∧ Plain tarn ∧ tarn.slot.getD 0 < 4 ∧ names.drainBy = none ∧ names.queue = [] ∧ names.ops = [] ∧
    tagOk (((tarn.g 20#5) >>> 35).setWidth 29) = true ∧ tagOk (((tarn.g 21#5) >>> 35).setWidth 29) = false ∧
    (names.name ((tarn.g 8#5).toNat % 256)).st = .free ∧ (names.name ((tarn.g 7#5).toNat % 256)).st = .declared ∧
    (names.name ((tarn.g 7#5).toNat % 256)).owner = 1 ∧ (names.name ((tarn.g 9#5).toNat % 256)).st = .draining ∧
    (names.name ((tarn.g 9#5).toNat % 256)).queued = none ∧ (names.name ((tarn.g 10#5).toNat % 256)).st = .defined ∧
    (names.name ((tarn.g 10#5).toNat % 256)).poison = [] ∧ (names.name ((tarn.g 11#5).toNat % 256)).poison = [0] ∧
    (names.name ((tarn.g 6#5).toNat / 2 ^ 24 % 256)).st = .declared ∧ tagT tagF = 10 ∧ tagT tagA ≠ 10 ∧
    72 ≤ (tarn.g 12#5).toNat % 128 ∧ (tarn.g 8#5).toNat % 128 < 64 :=
  ⟨ready_inQuad _ _ rfl (by decide), .inl rfl, by decide +kernel⟩
/-- A device one cycle on, whose strand 1 stands in the dispatch queue of quad 0 before strand u. -/
def turn (t : Strand) (x : Quad) (u : Nat) : State := { inQuad t { x with queue := [⟨u, 0#32, .plain, 0⟩, ⟨1, 0#32, .plain, 0⟩] } with cyc := 1 }
/-- The tarn and matrix statements: a request not yet queued, one whose turn it is, and one of a core whose turn comes later. -/
theorem witness_turn : (((inQuad tarn names).quad 0).refreshed 0).queues 1 = false ∧
    (((turn tarn names 7).quad 0).refreshed 1).queues 1 = true ∧ (turn tarn names 7).arbiter 0 = some 1 ∧
    (({ turn tarn names 2 with strands := [(1, tarn), (2, tarn)] } : State).arbiter 0) = some 2 ∧ (turn tarn names 7).typeBusy 0 8 = false ∧
    (turn tarn names 7).me = some tarn ∧ (names.refreshed 1).copyUses 0 true = false := by decide +kernel
/-- The same: a definition of a name by the strand under way and none, an earlier instruction and a buffered store under way and none,
a name that the strand has queued and one that another has. -/
theorem witness_defines : let o : MatOp := ⟨1, .seal, [], some 3, 1, (Core.reset).ctx tarn, none, none, 0, 0, 5⟩
    let x : Quad := { names with ops := [o] }
    let y (u : Nat) : Name := { nm .draining tagF with queued := some (tagF, u), qslot := 2 }
    x.defines 1 3 = true ∧ names.defines 1 3 = false ∧ x.busyFor 1 = true ∧ names.busyFor 1 = false ∧ tarn.buf = [] ∧
    (y 1).queued = some (tagF, 1) ∧ (y 2).queued = some (tagF, 2) ∧ tarn.slot ≠ some 2 ∧ (x.name 3).st = .declared ∧
    (o.refit 1 0#64).kind = .seal ∧ (x.oldest 1) = some o := by decide +kernel
/-- The regions that TLD, TLD.S and MLUT read, and the pages that TST writes, in the own pool. -/
def pooled : Strand := withG tarn [(14, 2 ^ 56 - 2 ^ 27)]
/-- Whether a region can be read. -/
def readable (r : Except Res (State × List Byte)) : Bool :=
  match r with
  | .ok _ => true
  | .error _ => false
theorem witness_regions : readable (regionRead (pooled.g 14#5) 4096 4096 pooled (inQuad pooled names)) = true ∧
    readable (regionRead (pooled.g 14#5) 512 512 pooled (inQuad pooled names)) = true ∧
    readable (regionRead (pooled.g 14#5) 64 64 pooled (inQuad pooled names)) = true ∧ names.copyUses 0 true = false := by decide +kernel
theorem witness_tst : let va := 2 ^ 56 - 2 ^ 27
    eaCheck (pooled.g 14#5) 0 4096 = .ok va ∧ va % 4096 = 0 ∧ weirRefuses pooled.weirs va 4096 3 = none ∧
    (∃ s', resolve (inQuad pooled names) 0 0 0 va .write = .ok s' (.pool 0 0)) := ⟨rfl, by decide, by decide +kernel, ⟨_, rfl⟩⟩

/-- MatrixInstructionsAreAccepted: a product whose operands pass, its allowance there and not there; MMAX at the west edge of a
rectangle of one quad and inside one of two; MTRN and MCVT. -/
theorem witness_mma : let s := inQuad tarn names
    Ready s tarn ∧ (∀ n ∈ [0, 1, 2], (names.name n).st = .defined ∧ (names.name n).bad = false) ∧ names.busyUntil ≤ s.cyc ∧ (names.name 3).st = .declared ∧ (names.name 3).owner = 1 ∧
    isAcc (names.name 3).tag = true ∧ (s.core 0).tblsel.toNat / 2 ^ 60 = 8 ∧ (s.core 0).tblsel.toNat / 2 ^ 56 % 16 = 8 ∧
    productChecks 8 8 (some (tagA, 0)) tagB 1 (some (tagF, 2)) = none ∧ s.typeBusy 0 8 = false ∧
    productCost 8 8 32 ≤ (names.refill 0).level.toNat ∧ (({ names with level := 0#32 } : Quad).refill 0).level.toNat < productCost 8 8 32 :=
  ⟨ready_inQuad _ _ rfl (by decide), by decide +kernel⟩
/-- A quad whose region holds a B operand at offset 0. -/
def region (t : Strand) (q : Nat) (x : Quad) (p : Part) : State :=
  let s : State := (on t).putQuad q { x with bway := 1#14 }
  { s with parts := [(0, p)], mem := Memory.put [] (regionKey q 0) (leBytes 8 (tagB.toNat * 2 ^ 35)) }
theorem witness_mmax_edge : let s := region tarn 0 names part0
    s.coreIn 0 0 = true ∧ (s.quad 0).bvf = 0 ∧ 0 + 4672 ≤ (s.quad 0).regionSize ∧
    BitVec.ofNat 29 (leNat ((Memory.bytes s.mem (regionKey 0 0) 4672).take 8) / 2 ^ 35) = tagB ∧ s.poisoned (regionKey 0 0) 4672 = false ∧
    (s.quad 0).mmaxOther 1 = false := by decide +kernel
theorem witness_mmax_inside : let t : Strand := { withG tarn [(6, 0x03020100 + 2 ^ 32 + 2 ^ 40)] with core := 4 }
    let m : Stream := ⟨1, 0, 2, ⟨tagA, [], []⟩, true⟩
    let s := region t 1 { names with streams := [m] } { part0 with part := field64 1 55 ||| field64 3 14 }
    quadOf t.core = 1 ∧ (t.g 6#5).toNat / 2 ^ 40 % 8 = 1 ∧ (t.g 6#5).toNat / 2 ^ 32 % 8 + 1 = 2 ∧ s.coreIn 0 0 = true ∧ s.coreIn 0 4 = true ∧
    (s.quad 1).streams.find? (fun m => m.arrived && m.origin == 0 && m.job == t.birthJob) = some m ∧ tagT m.a.tag = 8 ∧
    productChecks 8 8 none tagB 1 (some (tagF, 2)) = none ∧ tagCols m.a.tag = tagCols tagB := by decide +kernel
/-- The same: a stream of another width that stands first of its origin and job. -/
theorem witness_mmax_misfit : let m : Stream := ⟨1, 0, 3, ⟨tagA, [], []⟩, true⟩
    let x : Quad := { names with streams := [m] }
    (x.streams.find? fun m => m.arrived && m.origin == 0 && m.job == base.birthJob) = some m ∧ m.w ≠ 2 ∧
    (x.streams.find? fun m => m.arrived && m.origin == 7 && m.job == base.birthJob) = none ∧ names.defines 1 3 = false := by decide
theorem witness_mtrn : let gs := BitVec.ofNat 29 (10 * 2 ^ 25)
    let gd := BitVec.ofNat 29 (10 * 2 ^ 25 + 2 ^ 9)
    tagT gd = tagT gs ∧ tagRows gd = tagCols gs ∧ tagCols gd = tagRows gs ∧ tagO gd = 1 - tagO gs ∧ tagCols gs ≤ 31 ∧ tagNsc gs = 0 ∧ tagNsc gd = 0 := by decide
theorem witness_mcvt : let gs := BitVec.ofNat 29 (10 * 2 ^ 25)
    let gd := BitVec.ofNat 29 (8 * 2 ^ 25)
    8 ≤ tagT gs ∧ tagT gs ≤ 10 ∧ 8 ≤ tagT gd ∧ tagT gd ≤ 13 ∧ tagRows gd = tagRows gs ∧ tagCols gd = tagCols gs ∧ tagO gd = tagO gs ∧
    ∀ r ∈ mcvtAll ((Core.reset).ctx tarn) ⟨gs, [], []⟩ ⟨gd, [], []⟩, r ≠ none := by decide +kernel

/-- MatrixAndVectorCompletions: flags that wait; an oldest TGET, TST, MLUT and product that can complete, its destination still
declared and broken; a draining name; a stream not arrived. -/
theorem witness_completions : let t : Strand := { tarn with vflags := [1#5] }
    let o (k : MatKind) : MatOp := ⟨1, k, [2], some 3, 1, (Core.reset).ctx t, none, none, 0, 0, 0⟩
    let s (k : MatKind) := inQuad t { names with ops := [o k], streams := [⟨1, 0, 2, ⟨tagA, [], []⟩, false⟩] }
    (s .mtrn).strand? 1 = some t ∧ t.vflags = 1#5 :: [] ∧ (∀ k ∈ [MatKind.tget 4 9, .tst 0x10000 false, .mlut false false [], .mma (some 2), .mmax none false, .mtrn, .mcvt],
      ((s k).quad 0).oldest 1 = some (o k) ∧ (s k).canComplete 0 (o k) = true) ∧ (names.name 3).st = .declared ∧ (names.name 3).decl = (o .mtrn).decl ∧
    (names.name 2).st ≠ .declared ∧ names.drainNext = some 4 := by decide +kernel

/-- The same: a TSEAL and an MZERO whose strand has an older store buffered, a younger one, and none; one that owes energy. -/
theorem witness_definitions : let o (k : MatKind) (owes : Nat) : MatOp := ⟨1, k, [], some 3, 1, (Core.reset).ctx tarn, none, none, owes, 0, 5⟩
    let st (n : Nat) : Store := ⟨n, 2 ^ 56 - 2 ^ 27, .pool 0 0, [(0, [1#8])]⟩
    (∀ k ∈ [MatKind.seal, .mzero], ((inQuad tarn { names with ops := [o k 0] }).quad 0).oldest 1 = some (o k 0) ∧
      ((inQuad tarn { names with ops := [o k 9] }).quad 0).oldest 1 = some (o k 9)) ∧
    (∃ e ∈ [st 4], e.stamp < (o .seal 0).stamp) ∧ (∀ e ∈ [st 6], (o .seal 0).stamp ≤ e.stamp) ∧ (names.name 3).st = .declared ∧ (names.name 3).decl = 1 ∧
    (names.name 2).st ≠ .declared := by decide +kernel
/-- SEND: each check failing with those before it passing, at the borders; and all passing (SELF, core 0). Route words carry LEN in
[30:22], XF in [21:19], SHORT in [18], POFF in [16:0]. -/
theorem witness_sendChecks : let t := base
    sendChecks 0 0x20000#64 0#64 t = some (0x51, 0x20000#64) ∧                    -- reserved bit 17
    sendChecks 0 (BitVec.ofNat 64 (257 * 2 ^ 22)) 0#64 t = some (0x51, BitVec.ofNat 64 (257 * 2 ^ 22)) ∧
    sendChecks 0 (BitVec.ofNat 64 (256 * 2 ^ 22)) 0#64 t = none ∧
    sendChecks 1 (BitVec.ofNat 64 (6 * 2 ^ 22)) 0#64 t = some (0x51, BitVec.ofNat 64 (6 * 2 ^ 22)) ∧
    sendChecks 1 (BitVec.ofNat 64 (4 * 2 ^ 22)) 0#64 t = none ∧
    sendChecks 0 0#64 (BitVec.ofNat 64 (2 ^ 56)) t = some (0x04, BitVec.ofNat 64 (2 ^ 56)) ∧
    sendChecks 3 0#64 131072#64 t = some (0x51, 131072#64) ∧ sendChecks 3 0#64 131008#64 t = none ∧
    sendChecks 3 0#64 131007#64 t = some (0x03, 131007#64) ∧
    sendChecks 2 (BitVec.ofNat 64 (2 ^ 22)) 131072#64 t = some (0x51, 131072#64) ∧ sendChecks 2 (BitVec.ofNat 64 (2 ^ 22)) 131071#64 t = none ∧
    sendChecks 0 (BitVec.ofNat 64 (2 ^ 22 + 131071)) 0#64 t = none ∧
    sendChecks 0 (BitVec.ofNat 64 (2 * 2 ^ 22 + 131071)) 0#64 t = some (0x05, BitVec.ofNat 64 (2 * 2 ^ 22 + 131071)) := by decide +kernel
theorem witness_sendWeir : let t : Strand := { base with regs := { base.regs with w := Vector.replicate 8 ⟨BitVec.ofNat 64 (2 ^ 56 - 2 ^ 27), 1#2⟩ } }
    sendChecks 0 (BitVec.ofNat 64 (2 ^ 22)) 0#64 t = some (0x08, BitVec.ofNat 64 (2 ^ 56 - 2 ^ 27)) := by decide +kernel
theorem witness_sendRoute : let s : State := { on base with lptCache := [(0, field64 1 63)] }
    s.sendRoute 0 0 0 = some (s, none, false) ∧ s.sendRoute 0 0 4 = none ∧ (on base).sendRoute 0 0 0 = none ∧
    s.sendRoute 0 1 0 = none ∧ ((on base).core 0).noCredit = [] ∧ base.buf = [] ∧ (s.part 0).holds 0 = true ∧ (s.part 0).holds 1 = false ∧ 0 ∉ s.skip := by decide +kernel
/-- The same: a package entry that can be read at once, and one whose line is with the host. -/
theorem witness_lptWait : (on base).lptWait 0 0 = none ∧
    ({ on base with parts := [(0, { part0 with lptbase := 0x100000#64 })],
                    host := { HostPort.reset with hostBias := [0x100], filter := [0x4000] } } : State).lptWait 0 0 = some (.bisnp 0x4000) := by decide +kernel
/-- SPAWN: register numbers and targets at the borders. -/
theorem witness_spawn : 26 < (27#5).toNat ∧ (26#5).toNat ≤ 26 ∧ bitsNat (BitVec.ofNat 64 (2 ^ 56)) 63 56 ≠ 0 ∧ bitsNat 2#64 63 56 = 0 ∧ (2#64).toNat % 4 ≠ 0 := by decide
/-- WindowDequeAndTriggerComplete: a window, records good and bad, deques empty, full, with a task and a sweep at the owner end, a
launch that is not triggered. -/
def msg0 : Msg := ⟨header 1 0 0 8 0 0 0, 0x4000#64, [1#8, 2#8], 0, 0, 0, 0, false, [], []⟩
/-- A task record of job 1. -/
def task0 : Rec := ⟨.task 0x4000#64 1#64 2#64 0#64, 1, 0, 0, 0, []⟩
/-- A sweep record over four elements, to be split. -/
def sweep0 : Rec := ⟨.sweep (BitVec.ofNat 64 (2 ^ 58 + 0x100000)) 0x4000#64 [] 0, 1, 0, 1, 1, [1]⟩
/-- A sweep record of one element. -/
def leaf0 : Rec := ⟨.sweep 0x100000#64 0x4000#64 [] 0, 1, 0, 1, 1, [1]⟩
/-- A device whose core 0 has this deque. -/
def deque (t : Strand) (l : List Rec) : State := (on t).putCore 0 { Core.reset with deque := l }
theorem witness_window : ({ base with win := some msg0 } : Strand).win = some msg0 ∧ base.win = none ∧ 272 % 8 = 0 ∧ 264 < 272 ∧ 264 % 8 = 0 ∧ 260 % 8 ≠ 0 := by decide
theorem witness_records : recordChecks 0x4000#64 0#64 = none ∧ recordChecks 0#64 0#64 = some (0x03, 0#64) ∧ recordChecks (field64 1 56) 0#64 ≠ none ∧
    (Core.reset).full = false ∧ ({ Core.reset with deque := List.replicate 256 task0 } : Core).full = true ∧ 28 < (29#5).toNat ∧ (28#5).toNat ≤ 28 := by decide +kernel
theorem witness_deque : ((deque base [task0]).core 0).deque = task0 :: [] ∧ ((deque base [sweep0]).core 0).deque = sweep0 :: [] ∧ ((on base).core 0).deque = [] ∧
    ({ base with launch := 1 } : Strand).launch ≠ 0 ∧ base.launch = 0 := by decide +kernel
/-- LaunchesComplete: a descriptor that reads and passes, one that fails; a gang of two; a predecessor open and none. -/
theorem witness_launch : readable (regionRead (pooled.g 14#5) 64 64 pooled (on pooled)) = true ∧ sweepChecks 16 0x0400000000100024#64 0x4000#64 = none ∧
    sweepChecks 16 0x0800000000100024#64 0x4000#64 = some (0x06, 0x0800000000100024#64) ∧
    gangChecks 16 0x10000 ([2#64] ++ List.replicate 7 0#64 ++ [0x100000#64, 0x4000#64] ++ List.replicate 6 0#64 ++ [0x100000#64, 0x4000#64] ++ List.replicate 6 0#64) = none ∧
    gangChecks 16 0x10000 (1#64 :: List.replicate 23 0#64) ≠ none ∧ bitsNat 0#64 63 16 = 0 ∧ bitsNat 0x10000#64 63 16 ≠ 0 ∧
    (on pooled).launchHeld 0 0 = false ∧ ({ on pooled with resizes := [⟨0, 0, 0, none, [1]⟩] } : State).launchHeld 0 0 = true := by decide +kernel
/-- PipesComplete: a producer end and a consumer end of a ring of two slots, empty, filled and full. -/
def ring (p : Bool) : Word64 := field64 1 63 ||| field64 (if p then 1 else 0) 62 ||| field64 1 52 ||| field64 64 25
theorem witness_pipes : let s (n : Nat) : State := { on base with mem := Memory.put [] (pipeKey 0 (ring true)) (leBytes 8 n) }
    bitAt (ring true) 63 = true ∧ bitAt (ring true) 62 = true ∧ bitAt (ring false) 62 = false ∧ 2 ^ bitsNat (ring true) 55 52 = 2 ∧
    (∀ n < 3, (Memory.dword (s n).mem (pipeKey 0 (ring true)) - Memory.dword (s n).mem (pipeKey 0 (ring true) + 8)).toNat = n) ∧
    (∀ n < 3, (s n).pipeOwn (pipeKey 0 (ring true)) = true ∧ Memory.wf (s n).mem = true ∧
      ((s n).startRing (pipeKey 0 (ring true))).pipeOwn (pipeKey 0 (ring true)) = true ∧
      (((s n).startRing (pipeKey 0 (ring true))).putHome (pipeKey 0 (ring true)) [1#8]).pipeOwn (pipeKey 0 (ring true)) = false) ∧
    bitAt (base.h 0#3) 63 = false := by decide +kernel

/-- BarrierInstructionsComplete and BarrierHomeDecides: words good and misused, registers bound, arrived and left; packets at home. -/
def bound : Word64 := field64 1 63 ||| field64 1 60 ||| field64 5 32 ||| field64 2 0
theorem witness_barriers : bitAt bound 63 = true ∧ bitAt bound 57 = false ∧ bitAt bound 58 = false ∧ bitAt (bound ||| field64 1 58) 58 = true ∧
    barSc bound = 1 ∧ barNum bound = 5 ∧ bitAt (base.b 0#2) 63 = false ∧
    ((on base).barrier 0 1 1 5 0).parts = 0 ∧ bitsNat 0x501#64 2 0 = 1 ∧ bitsNat 0x501#64 63 16 = 0 ∧ bitsNat 0x501#64 7 3 = 0 ∧ bitsNat 0x500#64 2 0 = 0 ∧
    4 < bitsNat 0x505#64 2 0 ∧ (inMode base 1).mode = 1 ∧ base.mode = 0 ∧ (∀ p ∈ (on base).strands, p.2.boundTo 1 5 = []) := by decide +kernel
/-- A packet of core 0 that stands at its home, quad 0. -/
def pkt (b : PktBody) : Packet := ⟨9, b, .control, 1, 0, 0, 0, none, 0, .shared, 0, false⟩
theorem witness_barrierHome :
    (∀ b ∈ [PktBody.arrive 0 1 1 5 false 1 0 0 0 none, .arrive 0 1 1 5 true 1 0 0 0 none, .withdraw 0 1 1 5 false true 1 0, .withdraw 0 1 1 5 false false 1 0],
      ({ on base with packets := [pkt b] } : State).arrival 9 = some (pkt b)) ∧ ((on base).barrier 0 1 1 5 0).ph = false := by decide +kernel
/-- BarrierInstructionsComplete: a bound strand that BARLEAVE.O names, by core and slot, and a register that counts as reduced;
BarrierHomeDecides: the last arrival of an instance of one, which waits, with a contribution of four bytes and its entry. -/
def member : Strand := { (base.setB 0#2 (bound ||| field64 1 58)) with run := .waiting (.barrier 0), reduced := [0] }
theorem witness_barleaveO : member.boundTo 1 5 = [0#2] ∧ member.core = bitsNat 0#64 16 2 ∧ member.slot = some (bitsNat 0#64 1 0) ∧ 0 ∈ member.reduced ∧
    FMap.wf (on member).strands = true ∧ barPlace 1 member.core member.birthJob = barPlace 1 base.core base.birthJob ∧
    (∀ p ∈ (on member).strands, p.2.buf = []) ∧ (on base).barHome 0 1 0 = 0 := by decide +kernel
theorem witness_completes : let b : Barrier := ⟨0, 1, 1, 5, 0, 1, 1, 1, false, [⟨1, 0, none⟩], [⟨1, 0, 1, 0, 0, [0#8, 0#8, 0x80#8, 0x3f#8]⟩], []⟩
    let e := field64 1 63 ||| field64 1 51 ||| field64 1 31 ||| field64 5 23
    let s : State := { on member with barriers := [b], jobs := [(1, { Job.reset with reductions := [e] })] }
    s.barrier 0 1 1 5 0 = b ∧ b.arrivals = b.parts ∧ b.parts ≠ 0 ∧ (s.job 1).entry 1 5 = some e ∧ b.contrib.filter (fun c => c.job == 1) = b.contrib ∧
    s.strand? 1 = some member ∧ (reduceWords e b.contrib).1.length = 4 ∧ Memory.wf s.mem = true := by decide +kernel
/-- The same: an arrival on its way, and one that its withdrawal has taken back before it came. -/
theorem witness_gone : let b : Barrier := ⟨0, 1, 1, 5, 0, 1, 1, -1, false, [⟨1, 0, none⟩], [], [(1, 0)]⟩
    let s : State := { on member with barriers := [b], packets := [pkt (.arrive 0 1 1 5 false 1 0 0 0 (some [1#8]))] }
    s.barrier 0 1 1 5 0 = b ∧ (1, 0) ∈ b.gone ∧ b.ph = false ∧ b.arrivals + 1 ≠ b.parts ∧
    (s.packets.any fun x => match x.body with
      | .arrive _ _ _ _ h v k _ _ _ => v == 1 && k == 0 && h == false
      | _ => false) = true := by decide +kernel
/-- StillCountsAndResampleComplete and WavesReadCountersAndRelease: QFIX words, a population strand; a wave due, a confined wave,
a wave in both passes, one swept; strands that it releases and not. -/
theorem witness_still : bitsNat 0x20000#64 63 17 ≠ 0 ∧ bitsNat 0x1ffff#64 63 17 = 0 ∧ part0.jobIndex 1 = some 0 ∧ part0.jobIndex 2 = none ∧
    bitsNat 0x40000#64 63 18 ≠ 0 ∧ bitsNat 0x3ffff#64 63 18 = 0 ∧ ({ base with pop := some 3 } : Strand).pop ≠ none := by decide
/-- A device whose job 1 has this record. -/
def jobIs (t : Strand) (j : Job) : State := { on t with jobs := [(1, j)] }
/-- Waves in pass 1, pass 2, and swept. -/
def wave (p : Nat) (l : List Nat) : Wave := ⟨none, p, l, 0#64, 0#64, 0#64, 0#64, 1⟩
theorem witness_waves : (jobIs base { Job.reset with series := true }).waveDue 1 = true ∧ (jobIs base { Job.reset with wave := some (wave 1 [0]) }).waveDue 1 = false ∧
    ({ Job.reset with wave := some (wave 1 [0]) } : Job).swept = false ∧ ({ Job.reset with wave := some (wave 2 [0, 1]) } : Job).swept = false ∧
    ({ Job.reset with wave := some (wave 2 []) } : Job).swept = true ∧
    (on base).releases (wave 2 []) true { base with run := .waiting (.still 5 0) } = some 5 ∧
    (on base).releases (wave 2 []) true { base with run := .waiting (.still 5 1) } = none ∧
    (on base).releases (wave 2 []) false { base with run := .waiting (.still 5 0) } = none := by decide +kernel
theorem witness_confined : let t : Strand := { base with run := .waiting (.stillTo 5 7 0) }
    let p : Part := { part0 with lptbase := 0x100000#64 }
    let s : State := { jobIs t { Job.reset with series := true } with parts := [(0, p)], mem := Memory.put [] (0x100000 + 56) (leBytes 8 (3 * 2 ^ 62)) }
    s.confinedFor 1 = some 7 ∧ s.waveDue 1 = true := by decide +kernel
/-- The same: a STILL.TO whose table entry is with the host, and none. -/
theorem witness_retireWait : let t : Strand := { base with run := .waiting (.stillTo 5 7 0) }
    let s : State := { jobIs t { Job.reset with series := true } with
      parts := [(0, { part0 with lptbase := 0x100000#64 })], host := { HostPort.reset with hostBias := [0x100], filter := [0x4000] } }
    s.retireWait 1 = some (.bisnp 0x4000) ∧ (jobIs t Job.reset).retireWait 1 = none ∧ (s.job 1).wave = none := by decide +kernel
/-- A population of two parked in RESAMPLE with these weights (FP32). -/
def popu (w0 w1 : Nat) (gb : Nat) : State :=
  let p (i w : Nat) : Strand := { base with launch := 3, pop := some i, slot := some i, run := .waiting (.resample 5 (BitVec.ofNat 64 w) (BitVec.ofNat 64 gb)) }
  { on base with strands := [(1, p 0 w0), (2, p 1 w1)], jobs := [(1, { Job.reset with launches := [⟨3, 1, 0#64, true, false⟩] })] }
theorem witness_resample : let ones := 0x3f800000
    (∀ s ∈ [popu ones ones 2, popu 0 0 2, popu 0x7fc00000 ones 2, popu ones 0xbf800000 2],
      s.resampleReady 3 = true ∧ ((s.population 3).map Prod.fst).Nodup) ∧
    weightUnits 0x7fc00000#64 = none ∧ weightUnits 0xbf800000#64 = none ∧ weightUnits 0x80000000#64 = some 0 ∧ weightUnits 0x3f800000#64 = some (2 ^ 149) ∧
    (∀ p ∈ (popu ones ones 2).strands, p.2.slot ≠ none) ∧ (popu ones 0 2).resampleReady 3 = true ∧
    resampleU 0#64 (field64 1 31 ||| field64 0x3f800000 32) 0#64 = none ∧ (resampleU 0#64 (field64 1 31 ||| field64 0x3f000000 32) 0#64).isSome = true := by
  decide +kernel

/-- CopyInstructionsComplete and CopyEngineSteps: a record that passes R206 (64 bytes within the pool, R203), bad IDs, copies in
every state of this job and of another, groups with and without copies. -/
def rec0 : List Word64 := [BitVec.ofNat 64 (2 ^ 56 - 2 ^ 27), BitVec.ofNat 64 (2 ^ 56 - 2 ^ 27 + 0x400), 1#64, 64#64, 64#64, 64#64, 0#64, 0#64]
/-- A strand with the record in g8 to g15. -/
def copier : Strand := withG base ((List.range 8).map fun k => (8 + k, ((rec0[k]?).getD 0#64).toNat))
/-- A copy of the record by strand 1 in this state. -/
def cp (st : CopyState) (cause promise : Nat) : Copy := ⟨1, rec0, promise, 1, 0, 0, 0, st, cause, 0, false, false, false, false, 0, [], 0, false, []⟩
theorem witness_copy : (on copier).copyChecks copier rec0 = none ∧ ((List.range 8).map fun k => copier.gN (8 + k)) = rec0 ∧
    (on copier).copyChecks copier [0#64, 0#64, 0#64, 0#64, 0#64, 0#64, 0x7c#64, 0#64] ≠ none ∧ copier.buf = [] ∧
    (Quad.reset.copies.filter Copy.live).length < 16 ∧ 16 ≤ ((List.replicate 16 (cp .queued 0 0)).filter Copy.live).length ∧
    bitsNat 0x10000#64 63 16 ≠ 0 ∧ bitsNat 1#64 63 16 = 0 ∧ bitsNat 8#64 63 3 ≠ 0 ∧ bitsNat 7#64 63 3 = 0 := by decide +kernel
theorem witness_copyStates : (∀ st ∈ [CopyState.queued, .running, .completed, .cancelled, .failed],
      ({ Quad.reset with copies := [cp st 0 5] } : Quad).copies.find? (fun c => c.id == (1#64).toNat) = some (cp st 0 5)) ∧
    (cp .queued 0 5).job = base.birthJob ∧ ({ cp .queued 0 5 with job := 2 } : Copy).job ≠ base.birthJob ∧ (cp .queued 0 0).live = true ∧ (cp .running 0 5).live = true ∧
    (cp .completed 0 5).live = false ∧ (on base).cyc < (cp .queued 0 5).promise ∧ (cp .queued 0 0).promise ≤ (on base).cyc ∧
    ({ Quad.reset with groups := [(7, { Group.reset with pending := 1 })] } : Quad).group 7 ≠ Group.reset := by decide +kernel
theorem witness_copyEngine : (∀ c ∈ [cp .queued 0 5, cp .running 0 5, cp .running 0x0B 5, { cp .running 0 5 with next := 64 }, { cp .running 0 5 with cancel := true }],
      ({ Quad.reset with copies := [c] } : Quad).headCopy = some c) ∧ (layoutOf rec0).count = 64 ∧ (layoutOf rec0).gv = false ∧
    (Quad.reset).refilled < 256 / 256 := by decide +kernel

/-- TrapEntry, TrapReturn, SystemRegistersComplete: delegated and not, TVEC zero and not, targets at the borders, modes 0 to 2. -/
theorem witness_traps : let t : Strand := { base with sys := { base.sys with utvec := 0x3000#64 } }
    let p : Part := { part0 with deleg := BitVec.allOnes 64, tvec := 0x8000#64 }
    t.mode = 0 ∧ bitAt p.deleg (delegBit 0x71) = true ∧ t.sys.utvec ≠ 0#64 ∧ p.tvec ≠ 0#64 ∧ part0.tvec = 0#64 ∧ base.sys.utvec = 0#64 ∧
    ((on base).die 0).frozen = false ∧ (inMode base 1).mode = 1 ∧ (inMode base 2).mode = 2 ∧
    bitsNat (inMode base 1).sys.status 5 4 ≤ (inMode base 1).mode ∧
    1 < bitsNat ((inMode base 1).sys.status ||| field64 2 4) 5 4 ∧ 2 ^ 56 - 4 < (2 ^ 56 : Int) ∧ (2 ^ 56 - 4 : Int) % 4 = 0 ∧ (2 : Int) % 4 ≠ 0 := by decide
theorem witness_sysr : (on base).flagsPending 1 base = false ∧ (on { base with vflags := [0#5] }).flagsPending 1 { base with vflags := [0#5] } = true ∧
    bitsNat 3#64 2 0 < 4 ∧ 4 ≤ bitsNat 4#64 2 0 := by decide +kernel
/-- TranslationInstructionsComplete and PartitionInstructionsComplete: table words good and bad, the own function and another, roots
aligned and not, stores pending; extents past the end and over another partition; ways held; quads in and outside partitions. -/
theorem witness_translation : bitsNat 0x200#64 63 9 ≠ 0 ∧ bitsNat 0x40#64 7 6 ≠ 0 ∧ bitsNat 0x100#64 63 9 = 0 ∧ bitsNat 0x100#64 7 6 = 0 ∧ bitAt 0x100#64 8 = true ∧
    bitsNat 0#64 5 0 = bitsNat ((on base).part 0).part 63 58 ∧ bitsNat 0x400#64 55 0 % 2048 ≠ 0 ∧ bitsNat 0x800#64 55 0 % 2048 = 0 ∧
    (on base).storesPending 0 = false ∧ (on { base with buf := [⟨0, 0, .dry, []⟩] }).storesPending 0 = true ∧
    bitAt (backEntry 0 0x10000) 63 = true ∧ frameOk 0 = true ∧ part0.root1 = 0#64 ∧ part0.root2 = none := by decide +kernel
theorem witness_partition : 8191 < 8191 + 1 ∧ ¬(8191 < 8190 + 1) ∧ (∃ p ∈ (on base).parts, p.1 ≠ 1 ∧ p.2.present = true ∧ 0 ≤ p.2.base + p.2.len ∧ p.2.base ≤ 0 + 0) ∧
    (on base).parts.find? (fun p => p.2.holds 0) = some (0, part0) ∧ (on base).parts.find? (fun p => p.2.holds 1) = none ∧
    (∀ q ∈ (on base).quads, q.2.bvf = 0 → q.2.bway &&& ~~~(0#14) = 0#14) ∧
    (∃ q ∈ (inQuad base { Quad.reset with bway := 1#14 }).quads, q.2.bvf = 0 ∧ q.2.bway &&& ~~~(0#14) ≠ 0#14) ∧
    (1#14 &&& ~~~((on base).part 0).ways ≠ 0#14) ∧ (0#14 &&& ~~~((on base).part 0).ways = 0#14) ∧ ((on base).quad 0).mmaxOther 1 = false ∧
    ({ Quad.reset with mmaxBy := some 2 } : Quad).mmaxOther 1 = true ∧ ((on base).part 0).len < 1 ∧ 0 ≤ ((on base).part 0).len := by decide +kernel
/-- The same: a quad whose skip bit is set with a RATE put off; a way given up that holds a line. -/
theorem witness_rates : let s : State := { inQuad base { Quad.reset with rateNext := some 5#16, bed := [⟨0, 0x400, .host 320, 0, true, true, true, 1#512, 0, 0#4⟩] } with
      skip := [0], parts := [(0, { part0 with ways := 3#14 })] }
    (s.quad 0).rateNext = some 5#16 ∧ (Quad.reset).rateNext = none ∧ (s.part 0).base + 0 ∈ s.skip ∧ 0 ∉ (on base).skip ∧
    ((s.part 0).ways &&& ~~~2#14).getLsbD 0 = true ∧ quadOfHilbert 0 = 0 := by decide +kernel
/-- ImagesSaveAndRestore: addresses that pass and fail, a drain that is free, one's own and another's, names and none. -/
theorem witness_images : (match imageChecks 0x10000#64 1204544 4096 3 base with
      | .ok _ => true
      | .error _ => false) = true ∧ (match imageChecks 0x10040#64 1204544 4096 3 base with
      | .ok _ => true
      | .error _ => false) = false ∧ (match imageChecks 0x10040#64 2240 64 2 base with
      | .ok _ => true
      | .error _ => false) = true ∧ Quad.reset.drainBy = none ∧ Quad.reset.ops = [] ∧ names.names.find? (fun p => p.2.st ≠ .free) = some (0, nm .defined tagA) ∧
    Quad.reset.names.find? (fun p => p.2.st ≠ .free) = none := by decide +kernel
theorem witness_imageWritten : (match (mapped (inMode base 1)).writeImage (inMode base 1) 0x10000 0 (base.vectorImage) (.loc 0x200000) with
    | .ok (_, n) => n
    | .error _ => 0) = 2240 := by decide +kernel

/-- The same: version words and name words of an image, good and bad. -/
theorem witness_imageWords : (1#64 : Word64) ≠ 0#64 ∧ bitsNat (tagF.setWidth 64 <<< 35) 63 60 < 14 ∧ ¬bitsNat (field64 14 60) 63 60 < 14 ∧
    bitsNat (field64 4 32) 34 32 = 4 ∧ bitsNat (tagF.setWidth 64 <<< 35) 34 32 < 4 := by decide
/-- MemoryEventsAnswer: strands that wait for each kind of answer, a watchdog that is due, requests, rings, banks. -/
theorem witness_events : (∀ r ∈ [Run.waiting .answer, .waiting (.sleep 0), .waiting (.fill 0x400 0), .waiting (.pages [⟨true, 1, false, 0, 0, 0x10000, .read⟩])],
      (on { base with run := r }).strand? 1 = some { base with run := r }) ∧ 0 ≤ (on base).cyc ∧
    ({ base with kind := .handler, watch := 4096 } : Strand).slot ≠ none ∧
    ({ on base with overfull := [⟨0, 0, 0, 0, 5, .s, none, []⟩] } : State).overfull.find? (fun x => x.die == 0) = some ⟨0, 0, 0, 0, 5, .s, none, []⟩ ∧
    ({ on base with pageReqs := [⟨true, 1, 0, 0x10000, 0, true⟩] } : State).replyTo none 1#64 = some ⟨true, 1, 0, 0x10000, 0, true⟩ ∧
    (on base).replyTo none 1#64 = none ∧ (Wait.answer).onRequest = true ∧ 3 ∉ ((on base).quad 0).asleep ∧
    (on base).biasWait 0x200000 = none ∧ frameOk 0x200000 = true ∧ ((on base).die 0).fenced = false ∧ ((on base).part 0).self = 0 := by decide +kernel
/-- The same: a fill whose page is mapped; a recall that one access waits for; the oldest store of a running strand; a strand in the
middle of a store and not; an operation packet for this package and another, aligned, in an answering frame; keys of every
structure. -/
theorem witness_fill : ∃ s', (mapped base).resolveFor 1 0 0 0 0x10000 .read = .ok s' (.loc 0x200000) ∧ s'.biasRange (.loc 0x200000) 64 = none ∧
    s'.strand? 1 = some base ∧ s'.tick = (mapped base).tick := ⟨_, rfl, by decide +kernel⟩
theorem witness_events2 : (∀ x ∈ ([⟨0, 0, 0, 0, 5, .s, none, []⟩] : List DirEntry).erase ⟨0, 0, 0, 0, 5, .s, none, []⟩, x.die ≠ 0) ∧ base.prog.lane = none ∧
    base.run = .running ∧ base.buf = [] ∧ 0x200000 % 8 = 0 ∧ (on base).physPoison 0x200000 8 = false ∧ (∀ c ∈ (on base).cores, ∀ f ∈ c.2.foot, f.1 = 9) ∧
    (PageWait.is ⟨true, 1, false, 0, 0, 0x10000, .read⟩ ⟨true, 1, 0, 0x10000, 0, true⟩) = true ∧ (on base).strands = [(1, base)] ∧
    structureOf (memCount + 1) = 7 ∧ structureOf (memCount + 2) = 8 ∧ structureOf 0 = 5 ∧ 0 < memTile ∧ inAperture (2 ^ 56 - 2 ^ 27) = true := by decide +kernel
/-- The same: a recall with nothing to wait for and one of a dirty line whose home is with the host; a fetch that poison ends; a
handler at 4,096 that is not in the middle of an instruction, and one that is. -/
theorem witness_recalls : let e : DirEntry := ⟨0, 0, 0, 0, 0x400, .s, none, []⟩
    let l : L1Line := ⟨0, false, 0, 0x400, 0x200000, .m, 0#512, 0#8, none⟩
    let s : State := { mapped base with overfull := [e], l1 := [l], host := { HostPort.reset with hostBias := [0x100], filter := [0x4000] } }
    (on base).recallWait e = none ∧ s.overfull.find? (fun x => x.die == e.die) = some e ∧ e.covers l = true ∧ s.recallWait e = some (.bisnp 0x4000) ∧
    ({ base with kind := .handler, watch := 4096 } : Strand).midway = false ∧ ({ base with refused := [0] } : Strand).midway = true := by decide +kernel
/-- The same: a directory recall of two dirty copies that differ, of one whose die reports it corrupt, of none, and of one that waits
for the host; a bad entry of a home line, and one of a foreign line. -/
theorem witness_directoryRecall : let l (c : Nat) (d : Vec) : L1Line := ⟨c, false, 0, 0x400, 0x200000, .m, d, 0#8, none⟩
    let s : State := { mapped base with l1 := [l 0 0#512, l 4 1#512] }
    let h : State := { s with host := { HostPort.reset with hostBias := [0x100], filter := [0x4000] } }
    let copies (s : State) : List L1Line := s.l1.filter fun l => dieOf l.core == 0 && l.vf == 0 && l.vline == 0x400
    copies s = [l 0 0#512, l 4 1#512] ∧ (copies s).filter L1Line.dirty = [l 0 0#512, l 4 1#512] ∧ (l 0 0#512).data ≠ (l 4 1#512).data ∧
    (∃ x ∈ copies s, x.core ∈ [4]) ∧ (copies s).findSome? s.homeWait = none ∧ copies (on base) = [] ∧
    (copies h).findSome? h.homeWait = some (.bisnp 0x4000) ∧ (s.writeBack (l 0 0#512)).homeOf (l 0 0#512) ≠ .dry := by decide +kernel
theorem witness_badEntry : let e : DirEntry := ⟨0, 0, 0, 0, 0x400, .s, none, [0]⟩
    let s (f : Bool) : State := { mapped base with dir := [e], l1 := [⟨0, false, 0, 0x400, 0x200000, .s, 0#512, 0#8, if f then some 0 else none⟩] }
    structureOf memCount = 6 ∧ (((s true).dir.filter fun e => e.die == (memCount - memCount) / 3 % 32)[(memCount - memCount) / 96]?) = some e ∧
    ((s true).l1.filter e.covers).any (fun l => l.stamp.isSome) = true ∧ ((s false).l1.filter e.covers).any (fun l => l.stamp.isSome) = false := by
  decide +kernel
/-- MemoryEventsAnswer and StepRunsDecodedInstruction: a fetched line that the instruction cache has, where the free value keeps it; a
word read at its home; a poisoned one; a line that no link reaches. -/
theorem witness_code : let t : Strand := { base with pc := 0x10000 }
    let s : State := mapped t
    (∀ d : Vec, ({ s with quads := [(0, { Quad.reset with icache := [⟨0x8000, d⟩] })] } : State).heldCode t (.loc 0x200000) =
      if Config.icacheKeeps 0 then some (wordOf d 0x10000) else none) ∧ s.heldCode t (.loc 0x200000) = none ∧ s.biasRange (.loc 0x200000) 4 = none ∧
    (∃ s', s.fillCode t (.loc 0x200000) = .ok s' 0#32 ∧ s'.me = some t) ∧
    ∃ s', ({ s with poison := [0x200000] } : State).fillCode t (.loc 0x200000) = .bad s' ∧ s'.me = some t :=
  ⟨fun _ => rfl, by decide +kernel, by decide +kernel, ⟨_, rfl, rfl⟩, ⟨_, rfl, rfl⟩⟩
/-- The same: stores that can be performed, that wait for the host and that no link reaches; strands that wait for an answer and for
none; a write of a part of a poisoned granule and of the whole of it. -/
theorem witness_timeouts : let e : Store := ⟨0, 0x10000, .loc 0x200000, [(0, [1#8])]⟩
    let f : Store := ⟨0, 0x10000, .loc (3 * 2 ^ 32 + 0x200000), [(0, [1#8])]⟩
    let s : State := mapped { base with buf := [e] }
    let h : State := { s with host := { HostPort.reset with hostBias := [0x200], filter := [0x8000] } }
    let g : State := { s with steax := { s.steax with downLinks := [linkOf 0 1] } }
    let p : State := { s with poison := [0x200000] }
    s.storeWait 0 e = none ∧ s.storeGone base e = false ∧ h.storeWait 0 e = some (.bisnp 0x8000) ∧ g.storeGone base f = true ∧
    (Wait.barrier 0).onRequest = false ∧ Wait.answer.onRequest = true ∧
    p.physHomePoison 0x200000 4 = true ∧ p.physHomePoison 0x200000 32 = false ∧ s.physHomePoison 0x200000 4 = false := by decide +kernel
theorem witness_fetch : (∃ s', resolve (on base) 0 0 0 base.pc .fetch = .refused s' ∧ s'.me = some base) ∧
    ∃ s' tg, resolve (mapped { base with pc := 0x10000 }) 0 0 0 0x10000 .fetch = .ok s' tg := ⟨⟨_, rfl, rfl⟩, ⟨_, _, rfl⟩⟩
theorem witness_fetch_absent : (match resolve (mapped base) 0 0 0 0x30000 .fetch with
    | .wait _ _ => true
    | _ => false) = true := by decide +kernel

/-- SchedulerPlacesWork: what each placement looks for, in core 0 with slots 1 to 3 free. -/
theorem witness_schedule : (deque base [sweep0]).step3 0 = some (0, sweep0) ∧ sweep0.splits = true ∧ (deque base [leaf0]).step3 0 = some (0, leaf0) ∧ leaf0.splits = false ∧
    (deque base [task0]).step3 0 = some (0, task0) ∧ (on base).freeSlots 0 = [1, 2, 3] ∧ (on base).placing 0 = true ∧
    ({ Core.reset with inlet := [msg0] } : Core).waiting = some msg0 ∧ msg0.kind = 0 ∧ ({ msg0 with hdr0 := header 1 0 0 8 0 0 1 } : Msg).kind = 1 ∧
    (on { base with slot := none }).restorable 0 = some 1 ∧ Core.reset.footReady = none := by decide +kernel
/-- The same: nothing in the way of step 3 and of a restore; a footprint's task; a record and a count message held at a deque. -/
theorem witness_step3 : (Core.reset).stopped = false ∧ (∀ p ∈ (on base).strands, p.2.core = 0 → p.2.slot ≠ none) ∧ (Core.reset).gangHold = none ∧
    ((on base).quad 0).ops = [] ∧ (deque base [leaf0]).core 0 = { Core.reset with deque := [leaf0] } ∧
    (deque base [⟨.task 0x4000#64 1#64 2#64 0x100000#64, 1, 0, 0, 0, []⟩]).step3 0 = some (0, ⟨.task 0x4000#64 1#64 2#64 0x100000#64, 1, 0, 0, 0, []⟩) ∧
    ({ Core.reset with foot := [(1, task0, [])] } : Core).footReady = some (1, task0) ∧ ({ Core.reset with held := [some task0] } : Core).deque.length < 256 ∧
    ((on base).countDown { msg0 with hdr0 := header 1 0 0 8 0 0 3 } false).isSome = true := by decide +kernel
/-- The same: descriptors whose page is mapped, absent, refused; the launch inlet of a gang and of a sweep. -/
theorem witness_descriptor : (match (mapped base).descRead 0 1 0x10000 64 with
      | .ok _ bs => bs.length
      | _ => 0) = 64 ∧ (match (mapped base).descRead 0 1 0x30000 64 with
      | .wait _ _ => true
      | _ => false) = true ∧ (match (mapped base).descRead 0 1 0x10001 64 with
      | .bad _ c => c
      | _ => 0) = 3 ∧ 2 ≤ bitsNat 2#64 2 0 ∧ bitsNat 1#64 2 0 < 2 ∧ bitAt 3#64 1 = true ∧ bitAt 1#64 1 = false := by decide +kernel
/-- The same: a token of this package and of another, of a job here and not, with requests and none, at a loaded package and at one
that is not; the request's table entry with the host and not. -/
theorem witness_token : let s : State := { deque base (List.replicate 64 sweep0) with parts := [(0, { part0 with lptbase := 0x100000#64 })] }
    let k : Token := ⟨1, 0, 0, [5]⟩
    let h : State := { s with host := { HostPort.reset with hostBias := [0x100], filter := [0x4000] } }
    s.tokenMine k = true ∧ s.tokenMine { k with lpkg := 5 } = false ∧ s.tokenHere k = true ∧ s.tokenHere { k with job := 2 } = false ∧
    s.tokenAsks k = [5] ∧ s.tokenAsks { k with requests := [] } = [] ∧ 64 ≤ s.tokenLoad k ∧ (on base).tokenLoad k < 64 ∧
    s.lptWait 0 5 = none ∧ h.lptWait 0 5 = some (.bisnp 0x4000) ∧ h.tokenWait k = some (.bisnp 0x4000) := by decide +kernel
theorem witness_gang : let d : List Word64 := [0x100000#64, 0x4000#64]
    let r : Rec := ⟨.gang 0x10000 [] [d, d] [0x100000#64, 0x100000#64], 1, 0, 1, 1, [1]⟩
    (deque base [r]).step3 0 = some (0, r) ∧ r.isGroup = true ∧ 2 ≤ ((deque base [r]).freeSlots 0).length := by decide +kernel
/-- The same: a core that holds slots for a group that stands behind another record, and takes that group. -/
theorem witness_gangHold : let d : List Word64 := [0x100000#64, 0x4000#64]
    let r : Rec := ⟨.gang 0x10000 [] [d, d] [0x100000#64, 0x100000#64], 1, 0, 1, 1, [1]⟩
    let s : State := (on base).putCore 0 { Core.reset with deque := [leaf0, r], gangHold := some r }
    (s.core 0).gangHold = some r ∧ s.step3 0 = some (1, r) := by decide +kernel
/-- The same: a thief that a link that is down cuts off from its victim, and one that none does; a window to write back. -/
theorem witness_cutSteal : let s : State := { on base with steax := { (on base).steax with downLinks := [linkOf 0 1] } }
    s.cutSide 0 1 = some (0, .request) ∧ s.cutSide 1 0 = some (1, .request) ∧ ({ s with steax := { s.steax with downLinks := [linkOf 0 2] } } : State).cutSide 0 9 = some (8, .response) ∧ (on base).cutSide 0 1 = none ∧
    ({ base with parked := [1#8] } : Strand).parked.length = 1 := by decide +kernel
theorem witness_displace : let t (k : Nat) : Strand := { base with slot := some k, run := .waiting (.sleep 9) }
    let s : State := { (on base).putCore 0 { Core.reset with inlet := [msg0] } with strands := [(1, t 0), (2, t 1), (3, t 2), (4, t 3)] }
    s.wantsSlot 0 = true ∧ s.displaced 0 = some 1 := by decide +kernel
theorem witness_steal : let s : State := { (on base).putCore 1 { Core.reset with deque := [sweep0] } with parts := [(0, part0)] }
    s.canSteal 2 = true ∧ (s.victims 2)[0]? = some 3 ∧ s.gives 3 = none ∧ (s.victims 2)[2]? = some 1 ∧ s.gives 1 = some sweep0 ∧ s.canSteal 1 = false := by
  decide +kernel
theorem witness_pushes : ({ on base with pending := [⟨leaf0, 0, 0, false, false⟩] } : State).pushable ⟨leaf0, 0, 0, false, false⟩ = true ∧
    (on base).jobVf 1 = some 0 ∧ (on base).jobVf 2 = none := by decide +kernel
theorem witness_inlet : let p (d0 : Word64) : Part := { part0 with inlet := [(0, d0), (1, 0x10000#64)] }
    let s (d0 : Word64) : State := { on base with parts := [(0, p d0)] }
    (s (field64 1 48 ||| 1#64)).entryReady 0 = true ∧ (p (field64 1 48 ||| 1#64)).entryRefused 0 = none ∧ (p (field64 2 48 ||| 1#64)).entryRefused 0 = some 0x09 ∧
    (p (field64 1 48 ||| 5#64)).entryRefused 0 = some 0x51 := by decide +kernel

/-- FabricDeliversMessages: packets under way on the mesh, at a port, and arrived, of each kind, own and stray, with room and none. -/
def mp (k : Nat) (at_ dst : Nat) : Packet :=
  ⟨9, .msg { msg0 with hdr0 := header 1 0 0 8 0 0 k, hdr1 := 0x4000#64, dcore := dst }, .message, 1, 0, 0, dst, none, at_, .shared, 0, false⟩
/-- A device with this packet in its fabric. -/
def flying (p : Packet) : State := { on base with packets := [p] }
theorem witness_mesh : (flying (mp 0 0 40)).canHop (mp 0 0 40) = true ∧ (flying (mp 0 0 40)).linkLost (mp 0 0 40) = false ∧ (mp 0 0 40).move = .mesh 1 ∧
    (flying (mp 0 0 40)).packets.find? (fun x => x.id == 9) = some (mp 0 0 40) := by decide +kernel
theorem witness_edge (d dir : Nat) : dieOfQuad (edgeOf d dir) = d := by simp only [dieOfQuad, edgeOf, edgeRouter]; split_ifs <;> omega
theorem witness_port : dieOfQuad (portQuad 3) = 3 := by simp only [dieOfQuad, portQuad, edgeRouter]; split_ifs <;> omega
/-- The same: a packet that has yet to go along Y alone; one that stands behind an older one of its flow. -/
theorem witness_order : (mp 0 0 64).move = .mesh 16 ∧ (mp 0 1 64).move = .mesh 0 ∧ 1 % 16 ≠ 16 % 16 ∧
    ¬(∀ x ∈ ({ on base with packets := [{ mp 0 0 0 with id := 8 }, mp 0 0 0] } : State).packets, x.id < 9 →
      ¬(x.cls = (mp 0 0 0).cls ∧ x.job = 1 ∧ x.src = 0 ∧ x.dst = 0 ∧ x.port = none ∧ x.dpkg = (mp 0 0 0).dpkg)) := by decide +kernel
/-- A packet at the east edge of die 0 on its way to die 1, and one at its pod port. -/
def far : Packet := { mp 0 0 1024 with at_ := edgeOf 0 1 }
def out : Packet := { mp 0 0 0 with port := some 3, at_ := portQuad 3 }
theorem witness_far : far.move = .die 1 := by
  have h : nextDir 0 (dieOfQuad far.final) = some 1 := by decide
  have h0 : far.at_ = edgeOf 0 1 := rfl
  simp [Packet.move, h0, witness_edge, h]
theorem witness_out : out.move = .leave 3 := by
  have h0 : out.at_ = portQuad 3 := rfl
  have h1 : out.final = portQuad 3 := rfl
  have h2 : out.port = some 3 := rfl
  have h3 : nextDir 3 3 = none := by decide
  simp [Packet.move, h0, h1, h2, witness_port, h3]
theorem witness_first (p : Packet) : (flying p).firstOfFlow p = true := by simp [State.firstOfFlow, flying]
theorem witness_canHop : (flying far).canHop far = true ∧ (flying out).canHop out = true ∧ (flying out).linkLost out = false := by
  have d : (flying far).steax.downLinks = [] := rfl
  have r : (flying far).box.retraining = [] := rfl
  have d' : (flying out).steax.downLinks = [] := rfl
  have r' : (flying out).box.retraining = [] := rfl
  simp [State.canHop, State.linkHeld, State.linkLost, Packet.link, witness_far, witness_out, witness_first, d, r, d', r']
/-- The same with the port's link down. -/
def dead : State := { flying out with steax := { (on base).steax with downLinks := [67] } }
theorem witness_linkLost : dead.linkLost out = true ∧ dead.canHop out = true := by
  have b : out.bears = true := by decide
  have d : dead.steax.downLinks = [67] := rfl
  have r : dead.box.retraining = [] := rfl
  simp [State.canHop, State.linkHeld, State.linkLost, Packet.link, witness_out, b, d, r]
  exact witness_first out
/-- The same: a record of the token at its end; no room; a full deque. -/
theorem witness_hops : let rec_ : Packet := { mp 0 0 0 with body := .tokenRec task0 }
    far.move = .die 1 ∧ out.move = .leave 3 ∧ rec_.move = .here ∧ (flying rec_).canHop rec_ = true ∧
    ({ flying (mp 0 0 0) with cores := [(0, { Core.reset with imaged := true })] } : State).inletRoom 0 = false ∧
    ({ Core.reset with deque := List.replicate 256 task0 } : Core).full = true := by
  refine ⟨witness_far, witness_out, ?_⟩
  decide +kernel
theorem witness_arrived : (∀ k < 4, (flying (mp k 0 0)).arrived (mp k 0 0) = true) ∧ (∀ k < 4, ({ msg0 with hdr0 := header 1 0 0 8 0 0 k } : Msg).kind = k) ∧
    (flying (mp 0 0 0)).strays msg0 = false ∧ (flying (mp 0 0 0)).strays { msg0 with dpkg := 3 } = true ∧ (flying (mp 0 0 0)).inletRoom 0 = true ∧
    (flying (mp 3 0 0)).poisoned (memPool + 0x4000) 64 = false ∧ ((on base).core 0).imaged = false := by decide +kernel
/-- The same: counters of 0, 1 and 2 with records good and bad. -/
theorem witness_counts : let s (v : Nat) : State := { flying (mp 3 0 0) with mem := Memory.put [] (memPool + 0x4000) (leBytes 8 v) }
    (∀ v < 3, Memory.dword (s v).mem (memPool + 0x4000) = BitVec.ofNat 64 v) ∧ (recordChecks (Memory.dword (s 1).mem (memPool + 0x4020)) 0#64).isSome = true ∧
    recordChecks 0x4000#64 0#64 = none ∧ (mp 3 0 0).dst = 0 := by decide +kernel
theorem witness_fenced : ({ on base with dies := [(0, { Die.reset with fenced := true })] } : State).die 0 = { Die.reset with fenced := true } := by decide

/-- PartitionAndPreemptEventsTakeEffect: a resize that is ready, a pre-emption over the partition, words that are ignored and not. -/
theorem witness_resize : ({ on base with resizes := [⟨0, 0, 0, none, []⟩] } : State).resizeReady 0 = some ⟨0, 0, 0, none, []⟩ ∧
    ({ on base with resizes := [⟨0, 0, 0, some (0, true), []⟩], strands := [] } : State).resizeReady 0 = some ⟨0, 0, 0, some (0, true), []⟩ := by decide +kernel
/-- A device whose mailbox carries out this command with these arguments. -/
def boxed (op : Nat) (a : List Nat) : State :=
  { on base with box := { Mailbox.reset with cmd := BitVec.ofNat 64 op, stat := field64 1 63, args := a.zipIdx.map fun p => (p.2, BitVec.ofNat 64 p.1) } }
theorem witness_mailbox : (∀ op ∈ [1, 2, 3, 4, 5, 6, 7, 8, 9, 10], (boxed op []).boxRuns op = true ∧ (boxed op []).boxRuns (op + 1) = false) ∧
    (boxed 1 []).box.preempt = none ∧ (boxed 3 [31]).arg 0 = 31#64 ∧ (boxed 3 [32]).arg 0 = 32#64 ∧ ((boxed 3 [31]).die 31).fenced = false ∧
    (boxed 6 [1]).jobBusy 1 = true ∧ (boxed 6 [2]).jobBusy 2 = false ∧ Memory.wf (boxed 5 []).mem = true ∧ (boxed 5 []).l1 = [] := by decide +kernel
/-- A pre-emption of quad 0 of function 0. -/
def pre (t : Strand) : State := { on t with box := { Mailbox.reset with preempt := some ⟨0, 0, 0, 0x10000, 0x20000⟩ } }
theorem witness_preempt : let t : Strand := { base with sys := { base.sys with status := field64 1 3 } }
    (pre t).canDeliver t = true ∧ (pre { t with slot := none }).canDeliver { t with slot := none } = true ∧
    ({ (pre t).putCore 0 { Core.reset with stopped := true } with strands := [] } : State).imageDue 0 = true ∧
    ({ pre t with strands := [], cores := [(0, { Core.reset with imaged := true }), (1, { Core.reset with imaged := true }),
      (2, { Core.reset with imaged := true }), (3, { Core.reset with imaged := true })] } : State).preemptOver = true := by decide +kernel
/-- LPTINV of an entry whose line is with the host, and of one that nobody holds. -/
theorem witness_lptinv : let p : State := { on base with parts := [(0, { part0 with lptbase := 0x100000#64 })], lptCache := [(5, field64 1 63)], away := [(0, 5)] }
    let s : State := { p with host := { HostPort.reset with hostBias := [0x100], filter := [0x4000] } }
    s.lptinvAsk 5#64 = some (.bisnp 0x4000) ∧ (on base).lptinvAsk 5#64 = none := by decide +kernel
/-- Frames and queue images whose page is mapped, absent and refused. -/
theorem witness_delivery : let s : State := State.reset.withFetchWord 32 0
    (match resolve s 0 1 0 0x10000 .write with
      | .ok s1 tg => (s1.biasRange tg 128).isNone
      | _ => false) = true ∧
    (match resolve s 0 1 0 0x30000 .write with
      | .wait _ _ => true
      | _ => false) = true ∧
    (match resolve s 0 1 0 (2 ^ 56 - 2 ^ 27 + 2 ^ 22) .write with
      | .refused _ => true
      | _ => false) = true ∧
    (s.pagesWait 0 0 0x10000 64).isNone = true ∧ (s.pagesWait 0 0 0x30000 64).isSome = true := by decide +kernel
/-- MailboxCommandsComplete: frames that can be copied, are mapped, or lie on a fenced die; lanes that suffice and not. -/
theorem witness_frames : let s := boxed 5 [0x100000, 0x200000]
    frameOk 0x100000 = true ∧ frameOk 0x200000 = true ∧ bitAt (Memory.dword s.mem (backKey 0x200000)) 63 = false ∧ s.host.flip = none ∧ s.host.filter = [] ∧
    ({ s with dies := [(0, { Die.reset with fenced := true })] } : State).die 0 = { Die.reset with fenced := true } ∧
    onesCount (3#64 &&& allLanes 64) = 2 ∧ onesCount (1#64 &&& allLanes 64) = 1 ∧ s.box.retraining = [] ∧ s.biasRange (.loc 0x100000) 65536 = none := by decide +kernel
theorem witness_writes : (on base).jobWriteIgnored 0 1 0#64 (field64 1 63 ||| 1#64) = true ∧ (on base).jobWriteIgnored 0 1 0#64 (field64 1 63 ||| 2#64) = false ∧
    (6 : Nat) ≠ 4 ∧ 0x44 % 8 ≠ 0 ∧ 0x48 % 8 = 0 := by decide +kernel

/-- ErrorsResetsAndBringUp: a flit that has failed 16 resends and none, rails on and off, both IDE states, the bring-up states. -/
theorem witness_errors : let x : Steax := { (on base).steax with retries := [(6, 2, 17)] }
    (96 : Nat) < 128 ∧ FMap.get? x.retries (wayOf 3 false) = some (2, 17) ∧ FMap.get? x.retries (wayOf 4 false) = none ∧ x.flitFails 3 = true ∧ 3 ∉ x.downLinks ∧
    Rail.vdds ∉ (on base).steax.railsOff ∧ Rail.vddc 3 ∈ State.reset.steax.railsOff ∧ (on base).host.ideActive = false ∧ (on base).steax.ready = true ∧
    State.reset.steax.ready = false ∧ State.reset.steax.fail = false ∧ State.reset.steax.stage = 0 ∧ State.reset.steax.resetting = false ∧
    (on base).steax.stage ≠ 0 ∧ bitAt 1#64 0 = true ∧ (on base).steax.resetting = false := by decide +kernel
/-- HostMemoryBiasAndAttestation: blocks in both biases, flips idle, running and over, addresses in and outside HDM, lines cached
and not, a filter with the line and without. -/
theorem witness_host : let s := on base
    let h : State := { s with host := { HostPort.reset with hostBias := [0x200], filter := [0x8000] } }
    let f : State := { s with host := { HostPort.reset with flip := some ⟨0x200, true, 64⟩ } }
    s.host.flip = none ∧ s.host.hostBias.contains 0x200 = false ∧ h.host.hostBias.contains 0x200 = true ∧ f.host.flip ≠ none ∧ f.flipOver = true ∧
    s.hdm 0x200000 64 = some 0x200000 ∧ s.hdm (96 * 2 ^ 32) 1 = none ∧ s.hdm 0x20 64 = none ∧ s.hdmLive 0x200000 = true ∧ s.hdmLive (2 ^ 32 - 1) = false ∧
    h.host.filter.contains (0x200000 / 64) = true ∧ 5 ∉ h.host.filter ∧ 0x8000 ∈ h.host.filter ∧ s.hostLine 5 = none ∧ Memory.wf h.mem = true ∧ f.host.waitingReads = [] := by
  decide +kernel
/-- The same: a flip to host bias with lines to do and all done, its lines finished and not; a filter set with room. -/
theorem witness_flip : let f (n : Nat) : State := { on base with host := { HostPort.reset with linkUp := true, flip := some ⟨0x200, true, n⟩ } }
    (f 3).host.flip = some ⟨0x200, true, 3⟩ ∧ (3 < 64) ∧ 0x200080 / 64 % 64 < 3 ∧ 3 ≤ 0x2000c0 / 64 % 64 ∧ 0x200080 / 4096 = 0x200 ∧ (f 3).hdm 0x200080 64 = some 0x200080 ∧
    (f 3).hdmLive 0x200080 = true ∧ ((f 3).host.filter.filter fun l => l % filterSets == 0).length < 16 ∧ (∀ r ∈ (f 3).pageReqs, r.posted = true) ∧ 0x200 < 2 ^ 44 := by
  decide +kernel
/-- The same: the flip of another block; a set of the filter that is full; strands and host reads that wait for a flip. -/
theorem witness_flip2 : let s : State := { on { base with run := .waiting .flip } with
      host := { HostPort.reset with linkUp := true, hostBias := [0x200], flip := some ⟨0x300, false, 0⟩, filter := (List.range 16).map fun i => 0x8000 + (100 + i) * filterSets } }
    (∀ f, s.host.flip = some f → f.blk ≠ 0x200) ∧ s.host.hostBias.contains 0x200 = true ∧ s.host.filter.contains (0x200000 / 64) = false ∧
    16 ≤ (s.host.filter.filter fun l => l % filterSets == 0x200000 / 64 % filterSets).length ∧ s.host.hostBias.contains 0x201 = false ∧
    s.strand? 1 = some { base with run := .waiting .flip } ∧ s.host.walks = [] ∧ (∀ l ∈ s.host.filter, l / 64 ≠ 0x300) ∧
    ({ s with host := { s.host with waitingReads := [(0, 4)] } } : State).host.waitingReads ≠ [] := by decide +kernel
theorem witness_hostLine : (inQuad base { Quad.reset with bed := [⟨0, 0x400, .host 320, 0, true, true, true, 1#512, 0, 0#4⟩] }).hostLine 5 =
    some ⟨0, 0x400, .host 320, 0, true, true, true, 1#512, 0, 0#4⟩ := by decide +kernel

/-- The same: the one dirty copy of the line that a flip comes to, and a dirty copy of a host line. -/
theorem witness_dirty : let l : L1Line := ⟨0, false, 0, 0x400, 0x2000c0, .m, 1#512, 0#8, none⟩
    let s : State := { on base with l1 := [l], host := { HostPort.reset with linkUp := true, flip := some ⟨0x200, true, 3⟩ } }
    s.frameOf l = 0x200 * 4096 + 64 * 3 ∧ l.stamp = none ∧ l.dirty = true ∧ s.host.walks = [] ∧ s.host.waitingReads = [] ∧ s.host.waitingWrites = [] ∧
    s.host.waitingOps = [] ∧ Memory.wf s.mem = true ∧ (⟨0, 0x400, .host 320, 0, true, true, true, 1#512, 0, 0#4⟩ : BedLine).dirty = true := by decide +kernel

/-- DecodeReadsWhatEncodeWrites and EveryWordIsOneInstructionOrNone: an instruction with a word, and a word that is none. -/
theorem witness_encode : Instr.wf (.add 5 6 7) = true ∧ encode (.add 5 6 7) = some 0x04a63800#32 ∧ decode 0x04a63800#32 = some (.add 5 6 7) ∧
    (0x00000000#32 >>> 26).toNat = 0 := by decide
/-- StepRunsDecodedInstruction: right after placing a word the only candidate is the issue of the placed strand, and its fetch gives
that word. -/
theorem witness_step : let s := ((State.reset).withFetchWord 32 0x08a00040).advance
    (match s.candidates with
      | [.issue u] => u
      | _ => 0) = 1 ∧ (match s.strand? 1 with
      | some t => (match fetch { s with cur := 1 } 1 t with
        | .word _ w => w
        | _ => 0#32)
      | none => 0#32) = 0x08a00040#32 := by decide +kernel
theorem witness_noCandidate : ((({ State.reset with steax := { Steax.reset with fail := true } } : State).advance).candidates).length = 0 := by decide +kernel
/-- ResetInvariant and StepKeepsMemoryCanonical: a state that keeps its memory canonical takes a step. -/
theorem witness_inv : State.reset.Inv ∧ Memory.wf (State.reset.withFetchWord 32 0x08a00040).mem = true := ⟨rfl, by decide +kernel⟩
/-- ChecksBeforeTheInstructionsOwn: a handler in its image; modes; the last word. -/
theorem witness_checks : let t : Strand := { base with kind := .handler, code := true, pc := 0, win := some msg0 }
    Ready (on t) t ∧ t.code = true ∧ t.pc < 16 ∧ encode (.beq 1 2 3) ≠ none ∧ (fld 0x80220003#32 26 6).toNat = 0x20 ∧
    (on { base with pc := 2 ^ 56 - 4 }).me = some { base with pc := 2 ^ 56 - 4 } := ⟨ready_on _ rfl (by decide), by decide +kernel⟩
/-- The same: bodies that are done, in the last word, of an addition, a weir, a pool load and a message window's MW. -/
theorem witness_body : let t : Strand := { base with pc := 2 ^ 56 - 4, win := some msg0, regs := (withG base [(6, 8), (7, 2 ^ 56 - 2 ^ 27)]).regs }
    (on t).me = some t ∧ t.doom = none ∧ ∀ i ∈ [Instr.add 5 6 7, .wset 1 6 7, .mw 5 6, .ldD 5 7 0],
      (match wordBody i with
        | some (g, f) => decide (g.mode ≤ t.mode) && match f t (on t) with
          | .done _ => true
          | _ => false
        | none => false) = true := by decide +kernel
/-- StepRunsDecodedInstruction: the core of the placed strand lies in a partition, and none of its sleepers is due. -/
theorem witness_issue : let s := ((State.reset).withFetchWord 32 0x08a00040).advance
    s.partOfCore 0 ≠ none ∧ (∀ p ∈ s.strands, p.2.run = .running ∧ p.2.slot ≠ none ∧ p.2.readyAt ≤ s.cyc) ∧ (s.core 0).nextIssue ≤ s.cyc ∧ s.steax.ready = true := by
  decide +kernel

end Sys2Proof.Tests
end

section
/-!
SUPPORT. The step (R7, R11, R79): the clock before it, the choice among the enabled candidates, the issue of a strand and its
fetch; that a step is one enabled row (O56).
-/
namespace Sys2Proof.Machine

theorem State.lt_of_nextWake {s : State} {after w : Nat} (e : s.nextWake after = some w) : after ≤ w := by
  obtain ⟨p, _, hp⟩ := List.mem_filterMap.1 (List.min?_mem e)
  grind

/-- A sleep that ends at or after a time ends no earlier than the first of those. -/
theorem State.nextWake_le {s : State} {after c : Nat} {p : Nat × Strand} (hp : p ∈ s.strands)
    (hr : p.2.run = .waiting (.sleep c)) (hc : after ≤ c) : ∃ w, s.nextWake after = some w ∧ w ≤ c := by
  have hm : c ∈ s.strands.filterMap fun p => match p.2.run with
      | .waiting (.sleep c) => if after ≤ c then some c else none
      | _ => none := List.mem_filterMap.2 ⟨p, hp, by simp [hr, hc]⟩
  obtain ⟨w, hw⟩ := Option.isSome_iff_exists.1 (List.isSome_min?_of_mem hm)
  exact ⟨w, hw, (List.min?_eq_some_iff.1 hw).2 c hm⟩

theorem State.nextCyc_of_busyNow {s : State} (h : s.busyNow = true) : s.nextCyc = s.cyc := if_pos h

theorem State.lt_nextCyc {s : State} (h : s.busyNow = false) : s.cyc < s.nextCyc := by
  unfold State.nextCyc
  cases e : s.nextWake (s.cyc + 1) with
  | none => simp [h]; omega
  | some w =>
    have := State.lt_of_nextWake e
    simp [h]; omega

theorem State.nextCyc_of_latent {s : State} (h : s.busyNow = false) (hl : s.latent = true) : s.nextCyc = s.cyc + 1 := by
  have hlt := State.lt_nextCyc h
  simp only [State.nextCyc, h, hl] at hlt ⊢
  simp at hlt ⊢
  omega

theorem State.nextCyc_le_sleep {s : State} (h : s.busyNow = false) {p : Nat × Strand} (hp : p ∈ s.strands) {c : Nat}
    (hr : p.2.run = .waiting (.sleep c)) (hc : s.cyc < c) : s.nextCyc ≤ c := by
  obtain ⟨w, hw, hwc⟩ := State.nextWake_le hp hr hc
  simp only [State.nextCyc, h, hw]
  simp
  omega

theorem step_of_no_candidate {s : State} (h : s.advance.candidates = []) : step s = .next s.advance := by
  simp only [step, h]

theorem step_of_candidate {s : State} {c : Cand} (h : s.advance.candidates = [c]) : step s = stepCand s.advance c := by
  simp only [step, h]

theorem step_of_candidates {s : State} (h : s.advance.candidates ≠ []) :
    ∃ c ∈ s.advance.candidates, step s = stepCand s.advance c := by
  unfold step
  dsimp only
  split
  · next e => exact absurd e h
  · next c e => exact ⟨c, by simp [e], rfl⟩
  · next c r _ e =>
    refine ⟨_, ?_, rfl⟩
    rw [e]
    cases hg : (c :: r)[Config.pick s.advance.tick % (r.length + 1)]? with
    | none => exact List.mem_cons_self
    | some d => exact List.mem_of_getElem? hg

theorem State.readyIn_some {s : State} {c k u : Nat} (h : s.readyIn c k = some u) :
    ∃ t, (u, t) ∈ s.strands ∧ t.core = c ∧ t.slot = some k ∧ t.ready s u = true := by
  obtain ⟨p, hf, rfl⟩ := Option.map_eq_some_iff.1 h
  exact ⟨p.2, List.mem_of_find?_eq_some hf, by simpa [and_assoc] using List.find?_some hf⟩

theorem State.issuer_some {s : State} {c u : Nat} (h : s.issuer c = some u) :
    (s.core c).nextIssue ≤ s.cyc ∧ s.wakesIn c = false ∧ s.partOfCore c ≠ none ∧ ∃ k, s.readyIn c k = some u := by
  unfold State.issuer at h
  extract_lets x order yields at h
  split at h
  · cases h
  next hn =>
  have hk : ∃ k, s.readyIn c k = some u := by
    split at h
    · next e =>
      obtain ⟨k, _, hk⟩ := List.exists_of_findSome?_eq_some e
      exact ⟨k, hk.trans h⟩
    · obtain ⟨k, _, hk⟩ := List.exists_of_findSome?_eq_some h
      exact ⟨k, hk⟩
  simp only [Bool.or_eq_true, decide_eq_true_eq, not_or, Nat.not_lt, Bool.not_eq_true, Option.isNone_eq_false_iff] at hn
  obtain ⟨⟨hc, hw⟩, hp⟩ := hn
  exact ⟨hc, hw, Option.isSome_iff_ne_none.1 hp, hk⟩

theorem mem_issuers {s : State} {u : Nat} (h : u ∈ s.issuers) : s.steax.ready = true ∧ ∃ c, s.issuer c = some u := by
  unfold State.issuers at h
  split at h
  · next hr =>
    obtain ⟨c, _, hc⟩ := List.mem_filterMap.1 h
    exact ⟨hr, c, hc⟩
  · cases h

theorem issue_mem_candidates {s : State} {u : Nat} : Cand.issue u ∈ s.candidates ↔ u ∈ s.issuers := by
  have ho : Cand.issue u ∉ s.nextOutside := by simp [State.nextOutside]
  simp [State.candidates, ho]

theorem State.lt_of_wakesIn {s : State} {c : Nat} (h : s.wakesIn c = false) {p : Nat × Strand} (hp : p ∈ s.strands)
    (hc : p.2.core = c) (hs : p.2.slot ≠ none) {n : Nat} (hr : p.2.run = .waiting (.sleep n)) : s.cyc < n := by
  have := List.any_eq_false.1 h p hp
  simpa [hc, hr, Option.isSome_iff_ne_none.2 hs] using this

@[simp] theorem State.modStrand_mem (s : State) (u : Nat) (f : Strand → Strand) : (s.modStrand u f).mem = s.mem := by
  unfold State.modStrand
  split <;> rfl

@[simp] theorem State.settle_mem (s : State) (u : Nat) (t : Strand) (stays : Bool) : (s.settle u t stays).mem = s.mem := by
  unfold State.settle
  extract_lets held
  split <;> rw [State.modStrand_mem]
  rfl

theorem State.strand?_modStrand_readyAt (s : State) (u n v : Nat) {x : Strand} (h : s.strand? v = some x) :
    ∃ m, (s.modStrand u fun t => { t with readyAt := n }).strand? v = some { x with readyAt := m } := by
  unfold State.modStrand
  split
  · next t e =>
    by_cases huv : u = v
    · subst huv
      obtain rfl := Option.some.inj (e.symm.trans h)
      exact ⟨n, by simp⟩
    · exact ⟨x.readyAt, by simp [huv, h]⟩
  · exact ⟨x.readyAt, h⟩

/-- The end of a turn changes of a strand only when it may issue again (R11, R90). -/
theorem State.strand?_settle (s : State) (u : Nat) (t : Strand) (stays : Bool) {v : Nat} {x : Strand}
    (h : s.strand? v = some x) :
    ∃ n, (s.settle u t stays).strand? v = some { x with readyAt := n } := by
  unfold State.settle
  extract_lets held
  split
  · exact State.strand?_modStrand_readyAt _ _ _ _ h
  · exact State.strand?_modStrand_readyAt _ _ _ _ (by exact h)

section
variable {s s3 s4 : State} {u : Nat} {t : Strand} {w : Word32} {tg : Target}

theorem stepIssue_of_strand (h : s.strand? u = some t) : stepIssue s u =
    onNext (fun s' => s'.settle u t (t.doom.isNone && wordStays { s with cur := u } u t))
      (issueWord { s with cur := u } u t) := by
  have hu : ({ s with cur := u } : State).strand? u = some t := h
  unfold stepIssue
  dsimp only
  rw [hu]

theorem issueWord_of_word (hd : t.doom = none) (hf : fetch s u t = .word s3 w) {i : Instr} (hi : decode w = some i) :
    issueWord s u t = exec i { s3 with ir := w } := by simp [issueWord, hd, hf, hi]

theorem issueWord_of_illegal (hd : t.doom = none) (hf : fetch s u t = .word s3 w) (hi : decode w = none) :
    issueWord s u t = exec (.illegalInstruction w) { s3 with ir := w } := by simp [issueWord, hd, hf, hi]

theorem issueWord_of_implicitHret (hd : t.doom = none) (hf : fetch s u t = .implicitHret) : issueWord s u t = exec .hret s := by
  simp [issueWord, hd, hf]

theorem issueWord_of_none (hd : t.doom = none) (hf : fetch s u t = .none) :
    issueWord s u t = exec .instructionFetchFault s := by
  simp [issueWord, hd, hf]

theorem issueWord_of_host (hd : t.doom = none) {wt : Wait} (hf : fetch s u t = .host s3 wt) :
    issueWord s u t = .next (s3.parkMe t wt) := by simp [issueWord, hd, hf]

theorem issueWord_of_doom {c : Nat} {v : Word64} (hd : t.doom = some (c, v)) (hc : c ≠ doomExit) :
    issueWord s u t = .next (s.trapMe t c v) := by simp [issueWord, State.issue, hd, hc]

theorem stays_of_word (hd : t.doom = none) (hf : fetch s u t = .word s3 w) :
    (t.doom.isNone && wordStays s u t) = ((decode w).map Instr.mayStay).getD false := by simp [wordStays, hd, hf]

theorem stays_of_no_word (hf : ∀ s3 w, fetch s u t ≠ .word s3 w) : (t.doom.isNone && wordStays s u t) = false := by
  have hw : wordStays s u t = false := by
    unfold wordStays
    split
    · next e => exact absurd e (hf _ _)
    · rfl
  rw [hw, Bool.and_false]

theorem fetch_of_held (hc : t.code = false) (hr : s.resolveFor u t.vf t.mode (dieOf t.core) t.pc .fetch = .ok s3 tg)
    (hh : s3.heldCode t tg = some w) : fetch s u t = .word s3 w := by simp [fetch, hc, hr, hh]

theorem fetch_of_biasRange (hc : t.code = false) (hr : s.resolveFor u t.vf t.mode (dieOf t.core) t.pc .fetch = .ok s3 tg)
    (hh : s3.heldCode t tg = none) {wt : Wait} (hb : s3.biasRange tg 4 = some wt) :
    fetch s u t = .host (s3.askHost wt false) wt := by
  simp [fetch, hc, hr, hh, hb]

theorem fetch_of_fill (hc : t.code = false) (hr : s.resolveFor u t.vf t.mode (dieOf t.core) t.pc .fetch = .ok s3 tg)
    (hh : s3.heldCode t tg = none) (hb : s3.biasRange tg 4 = none) (hl : s3.fillCode t tg = .ok s4 w) :
    fetch s u t = .word s4 w := by
  simp [fetch, hc, hr, hh, hb, hl]

theorem fetch_of_bad (hc : t.code = false) (hr : s.resolveFor u t.vf t.mode (dieOf t.core) t.pc .fetch = .ok s3 tg)
    (hh : s3.heldCode t tg = none) (hb : s3.biasRange tg 4 = none) (hl : s3.fillCode t tg = .bad s4) : fetch s u t = .none := by
  simp [fetch, hc, hr, hh, hb, hl]

theorem fetch_of_refused (hc : t.code = false) (hr : s.resolveFor u t.vf t.mode (dieOf t.core) t.pc .fetch = .refused s3) :
    fetch s u t = .none := by simp [fetch, hc, hr]

theorem fetch_of_image (hc : t.code = true) {m : Msg} (hm : t.win = some m) (hp : t.pc < 16) :
    fetch s u t = .word s (imageWord m t.pc) := by simp [fetch, hc, hm, hp, hp.ne]

theorem fetch_past_image (hc : t.code = true) (hp : t.pc = 16) : fetch s u t = .implicitHret := by simp [fetch, hc, hp]

theorem State.codeLine_own_die {pa : Nat} (hd : dieOfPa pa = dieOf t.core) :
    s.codeLine t (.loc pa) = some (s, bytesLine (s.homeRead t.vf (t.pc / 64 * 64) (.loc (pa / 64 * 64)) 64),
      s.bedPoison t.vf (t.pc / 64) (.loc (pa / 64 * 64))) := if_pos hd

theorem State.fillCode_own_die_bad {pa : Nat} (hd : dieOfPa pa = dieOf t.core)
    (hb : (s.bedPoison t.vf (t.pc / 64) (.loc (pa / 64 * 64))).getLsbD (t.pc % 64 / 16) = true) :
    s.fillCode t (.loc pa) = .bad s := by simp [State.fillCode, State.codeLine_own_die hd, hb]

theorem State.fillCode_own_die {pa : Nat} (hd : dieOfPa pa = dieOf t.core)
    (hb : (s.bedPoison t.vf (t.pc / 64) (.loc (pa / 64 * 64))).getLsbD (t.pc % 64 / 16) = false) :
    ∃ s4 : State, s4.mem = s.mem ∧ s4.strands = s.strands ∧ s.fillCode t (.loc pa) = .ok s4
      ((bytesLine (s.homeRead t.vf (t.pc / 64 * 64) (.loc (pa / 64 * 64)) 64)).extractLsb' (8 * (t.pc % 64)) 32) := by
  simp only [State.fillCode, State.codeLine_own_die hd, hb]
  refine ⟨_, ?_, ?_, rfl⟩ <;> split <;> simp

end

theorem step_issue {s : State} {u : Nat} {t : Strand} (hc : s.advance.candidates = [.issue u])
    (ht : s.advance.strand? u = some t)
    {stays : Bool} {o : Host.Outcome State Fault Refusal}
    (hs : (t.doom.isNone && wordStays { s.advance with cur := u } u t) = stays)
    (ho : issueWord { s.advance with cur := u } u t = o) : step s = onNext (fun s' => s'.settle u t stays) o := by
  rw [step_of_candidate hc]
  show stepIssue s.advance u = _
  rw [stepIssue_of_strand ht, hs, ho]

theorem advance_holds (s : State) :
    (s.busyNow = true → s.advance.cyc = s.cyc) ∧ (s.busyNow = false → s.cyc < s.advance.cyc ∧
      (s.latent = true → s.advance.cyc = s.cyc + 1) ∧
      ∀ p ∈ s.strands, ∀ c, p.2.run = .waiting (.sleep c) → s.cyc < c → s.advance.cyc ≤ c) :=
  ⟨State.nextCyc_of_busyNow, fun h => ⟨State.lt_nextCyc h, State.nextCyc_of_latent h,
    fun _ hp _ hr hc => State.nextCyc_le_sleep h hp hr hc⟩⟩

/-- What a core's issue needs (R11, R107). -/
theorem issue_candidate {s : State} {u : Nat} (h : Cand.issue u ∈ s.candidates) :
    ∃ t, (u, t) ∈ s.strands ∧ t.slot ≠ none ∧ t.run = .running ∧ t.readyAt ≤ s.cyc ∧
      (s.core t.core).nextIssue ≤ s.cyc ∧ s.steax.ready = true ∧ s.partOfCore t.core ≠ none ∧
      ∀ p ∈ s.strands, ∀ c, p.2.core = t.core → p.2.slot ≠ none → p.2.run = .waiting (.sleep c) → s.cyc < c := by
  obtain ⟨hready, c, hi⟩ := mem_issuers (issue_mem_candidates.1 h)
  obtain ⟨hnext, hwake, hpart, k, hk⟩ := State.issuer_some hi
  obtain ⟨t, ht, rfl, hslot, hr⟩ := State.readyIn_some hk
  have hrun : t.run = .running ∧ t.readyAt ≤ s.cyc := by
    simp only [Strand.ready, Strand.standing, Bool.and_eq_true, decide_eq_true_eq] at hr
    exact ⟨hr.1.1.1.1.1.2, hr.1.1.1.2⟩
  exact ⟨t, ht, by simp [hslot], hrun.1, hrun.2, hnext, hready, hpart,
    fun p hp n hc hs hr => State.lt_of_wakesIn hwake hp hc hs hr⟩

/-- Settles O56: the clock, the choice among the enabled candidates, and for the issue of a strand one equation for each thing
that its fetch can answer. -/
theorem stepRunsDecodedInstruction : Obligations.StepRunsDecodedInstruction := by
  unfold Obligations.StepRunsDecodedInstruction
  intro s s1
  obtain ⟨hbusy, hidle⟩ := advance_holds s
  refine ⟨⟨rfl, rfl, rfl⟩, hbusy, hidle, step_of_no_candidate, step_of_candidates, fun u => issue_candidate,
    fun i hi => step_of_candidate hi, fun i hi => step_of_candidate hi, fun u t hc ht => ?_⟩
  intro s2 ends
  refine ⟨ht, fun s' stays => ⟨State.settle_mem .., fun v x => State.strand?_settle s' u t stays⟩,
    fun hd s3 w => ⟨fun hf i hi => ?_, fun hf hi => ?_⟩, fun hd hf => ?_, fun hd hf => ?_,
    fun hd s3 w hf => ?_, fun c v hd hne => ?_, fun hcode s3 tg hr => ?_, fun hcode s3 hr => fetch_of_refused hcode hr,
    fun hcode m hm hp => fetch_of_image hcode hm hp, fetch_past_image⟩
  · exact step_issue hc ht ((stays_of_word hd hf).trans (by rw [hi]; rfl)) (issueWord_of_word hd hf hi)
  · exact step_issue hc ht ((stays_of_word hd hf).trans (by rw [hi]; rfl)) (issueWord_of_illegal hd hf hi)
  · exact step_issue hc ht (stays_of_no_word fun _ _ e => nomatch hf.symm.trans e) (issueWord_of_implicitHret hd hf)
  · exact step_issue hc ht (stays_of_no_word fun _ _ e => nomatch hf.symm.trans e) (issueWord_of_none hd hf)
  · exact step_issue hc ht (stays_of_no_word fun _ _ e => nomatch hf.symm.trans e) (issueWord_of_host hd hf)
  · exact step_issue hc ht (by rw [hd]; rfl) (issueWord_of_doom hd hne)
  · refine ⟨fun w hw => ⟨fetch_of_held hcode hr hw, State.heldCode_some hw⟩, fun hh =>
      ⟨fun w hb => fetch_of_biasRange hcode hr hh hb, fun hb =>
      ⟨fun s4 w hl => fetch_of_fill hcode hr hh hb hl, fun s4 hl => fetch_of_bad hcode hr hh hb hl, ?_⟩⟩⟩
    rintro pa rfl hdie home bad
    refine ⟨fun hbad => fetch_of_bad hcode hr hh hb (State.fillCode_own_die_bad hdie hbad), fun hbad => ?_⟩
    obtain ⟨s4, hm, hs, hl⟩ := State.fillCode_own_die hdie hbad
    exact ⟨s4, hm, hs, fetch_of_fill hcode hr hh hb hl⟩

end Sys2Proof.Machine
end

section
/-!
SUPPORT. Every operation of the model keeps memory in its canonical form (O59). One lemma for each operation that answers a state,
in the order of the definitions, so that each proof cites the lemmas about the operations that its operation calls; memory itself
changes only by Memory.put, Memory.write and Memory.filter, whose laws stand with the model.
-/
namespace Sys2Proof.Machine

/-! That the state of an answer keeps memory canonical, for each kind of answer that the operations give: every state that the
answer carries is State.Inv. -/

/-- The same for a translation's answer. -/
def XRes.Inv : XRes → Prop
  | .ok s _ | .wait s _ | .host s _ | .refused s => s.Inv
/-- The same for a read of memory; an answer with no state leaves the one that stood. -/
def MemRes.Inv : MemRes → Prop
  | .ok s _ | .wait s _ => s.Inv
  | .poison | .lost => True
/-- The same for the body of an instruction. -/
def Res.Inv : Res → Prop
  | .done s | .jump s _ | .hold s | .stop s | .trapIn s _ _ => s.Inv
  | .trap _ _ => True
/-- The same for the checks of an access. -/
def Chk.Inv : Chk → Prop
  | .go s _ => s.Inv
  | .res r => r.Inv
/-- The same for the check of one lane. -/
def LaneChk.Inv : LaneChk → Prop
  | .ok s _ _ | .absent s _ | .host s _ | .fail s _ _ => s.Inv
/-- The same for the read of a vector's lanes. -/
def LaneRead.Inv : LaneRead → Prop
  | .ok s _ | .again s _ | .lost s _ => s.Inv
  | .poison _ => True
/-- The same for the read of a run of lines. -/
def RunRead.Inv : RunRead → Prop
  | .ok s _ | .again s _ | .lost s => s.Inv
  | .poison _ => True
/-- The same for one element of a copy. -/
def ElemRes.Inv : ElemRes → Prop
  | .ok s _ | .wait s _ _ | .again s | .fail s _ _ => s.Inv
/-- The same for the footprint of a task. -/
def Foot.Inv : Foot → Prop
  | .ok s | .wait s _ | .again s | .bad s _ _ => s.Inv
/-- The same for the read of a descriptor. -/
def Desc.Inv : Desc → Prop
  | .ok s _ | .wait s _ | .again s | .bad s _ => s.Inv
/-- The same for a fetch. -/
def Fetched.Inv : Fetched → Prop
  | .word s _ | .host s _ => s.Inv
  | .implicitHret | .none => True
/-- The same for the read of a line of code. -/
def CodeRes.Inv : CodeRes → Prop
  | .ok s _ | .bad s => s.Inv
/-- The same for the outcome of a step. -/
def OutInv : Host.Outcome State Fault Refusal → Prop
  | .next s => s.Inv
  | .fault _ | .refused _ => True
/-- The same for either of two answers. -/
def SumInv {α β : Type} (l : α → Prop) (r : β → Prop) : α ⊕ β → Prop
  | .inl a => l a
  | .inr b => r b
/-- The same for an answer that ends the instruction, or a state and a value with which it goes on. -/
def ExceptInv {β : Type} : Except Res (State × β) → Prop
  | .error a => a.Inv
  | .ok b => b.1.Inv

theorem State.inv_of_mem {s s' : State} (h : s.Inv) (e : s'.mem = s.mem) : s'.Inv := by rw [State.Inv, e]; exact h

theorem foldl_inv {α : Type} {f : State → α → State} (hf : ∀ s a, s.Inv → (f s a).Inv) (l : List α) {s : State} (h : s.Inv) :
    (l.foldl f s).Inv := by
  induction l generalizing s with
  | nil => exact h
  | cons a r ih => exact ih (hf s a h)

variable {s : State}

/-! ### The operations of Machine/Units.lean -/

theorem State.putStrand_inv (h : s.Inv) (u : Nat) (t : Strand) : (s.putStrand u t).Inv := h

theorem State.dropStrand_inv (h : s.Inv) (u : Nat) : (s.dropStrand u).Inv := h

theorem State.modStrand_inv (h : s.Inv) (u : Nat) (f : Strand → Strand) : (s.modStrand u f).Inv := by
  unfold State.modStrand
  grind [State.putStrand_inv]

theorem State.putCore_inv (h : s.Inv) (c : Nat) (x : Core) : (s.putCore c x).Inv := h

theorem State.putQuad_inv (h : s.Inv) (q : Nat) (x : Quad) : (s.putQuad q x).Inv := h

theorem State.putPart_inv (h : s.Inv) (v : Nat) (x : Part) : (s.putPart v x).Inv := h

theorem State.putJob_inv (h : s.Inv) (j : Nat) (x : Job) : (s.putJob j x).Inv := h

theorem State.putDie_inv (h : s.Inv) (d : Nat) (x : Die) : (s.putDie d x).Inv := h

theorem State.emit_inv (h : s.Inv) (o : Out) : (s.emit o).Inv := h

theorem State.setPoison_inv (h : s.Inv) (k n : Nat) : (s.setPoison k n).Inv := h

theorem State.carryPoison_inv (h : s.Inv) (from_ to_ n : Nat) : (s.carryPoison from_ to_ n).Inv := by
  unfold State.carryPoison
  grind [State.setPoison_inv, @foldl_inv]

theorem State.clearPoison_inv (h : s.Inv) (k n : Nat) : (s.clearPoison k n).Inv := h

theorem State.putHome_inv (h : s.Inv) (k : Nat) (bs : List Byte) : (s.putHome k bs).Inv := State.putHome_wf h k bs

theorem State.wake_inv (h : s.Inv) (test : Nat → Strand → Wait → Bool) : (s.wake test).Inv := h

theorem State.count_inv (h : s.Inv) (core job ds dc : Nat) : (s.count core job ds dc).Inv := h

theorem State.countMarked_inv (h : s.Inv) (core job ds dc : Nat) : (s.countMarked core job ds dc).Inv := h

theorem State.startSeries_inv (h : s.Inv) (job : Nat) : (s.startSeries job).Inv := by
  unfold State.startSeries
  grind [State.putJob_inv]

theorem State.jobStart_inv (h : s.Inv) (job : Nat) : (s.jobStart job).Inv := by
  unfold State.jobStart
  grind [State.startSeries_inv, State.putJob_inv, State.Inv]

theorem State.sent_inv (h : s.Inv) (core job : Nat) : (s.sent core job).Inv := State.startSeries_inv (State.count_inv h ..) ..

theorem State.consumed_inv (h : s.Inv) (core job : Nat) (marked : Bool) : (s.consumed core job marked).Inv := by
  unfold State.consumed
  grind [State.count_inv, State.countMarked_inv]

theorem State.event_inv (h : s.Inv) (die cls sub job vf unit_ : Nat) (args : List Word64) :
    (s.event die cls sub job vf unit_ args).Inv := by
  unfold State.event
  grind [State.putDie_inv]

theorem State.misroute_inv (h : s.Inv) (vf die job unit_ addr : Nat) : (s.misroute vf die job unit_ addr).Inv :=
  State.event_inv (State.putPart_inv h ..) ..

theorem State.dryBytes_inv (h : s.Inv) (vf n : Nat) : (s.dryBytes vf n).Inv := h

theorem State.dropForeign_inv (h : s.Inv) (q : Nat) : (s.dropForeign q).Inv := h

theorem State.acquire_inv (h : s.Inv) (q : Nat) : (s.acquire q).Inv := by
  unfold State.acquire
  grind [State.putQuad_inv, State.dropForeign_inv]

theorem State.setSkip_inv (h : s.Inv) (h_ : Nat) (on : Bool) : (s.setSkip h_ on).Inv := by
  unfold State.setSkip
  grind [State.putQuad_inv, State.Inv]

theorem State.acquireAt_inv (h : s.Inv) (q : Nat) (o : MOrd) (sc : Scope) : (s.acquireAt q o sc).Inv := by
  unfold State.acquireAt
  grind [State.acquire_inv]

/-! ### The operations of Machine/Translate.lean -/

theorem State.askHost_inv (h : s.Inv) (w : Wait) (inv : Bool) : (s.askHost w inv).Inv := by
  unfold State.askHost
  grind [State.emit_inv]

theorem State.devWrite_inv (h : s.Inv) (pa : Nat) (bs : List Byte) : (s.devWrite pa bs).Inv := by
  unfold State.devWrite
  refine State.putHome_inv (State.inv_of_mem (foldl_inv (fun s' l hs => ?_) _ h) rfl) _ _
  split
  · exact foldl_inv (by grind [State.setPoison_inv]) _ (State.putHome_inv hs _ _)
  · exact hs

theorem State.lpt_inv (h : s.Inv) (vf l : Nat) : (s.lpt vf l).1.Inv := by
  unfold State.lpt
  grind [State.Inv]

theorem State.noteReclaim_inv (h : s.Inv) : s.noteReclaim.Inv := by
  unfold State.noteReclaim
  grind [State.emit_inv, State.Inv]

theorem claimFrame_inv {s' : State} (h : s.Inv) {vf page pa : Nat} (e : claimFrame s vf page pa = some s') : s'.Inv := by
  have hput : ∀ k bs, State.Inv { s with mem := Memory.put s.mem k bs } := Memory.put_wf h
  unfold claimFrame at e
  grind [State.putPart_inv, State.noteReclaim_inv]

theorem State.postOne_inv (h : s.Inv) (r : PageReq) : (s.postOne r).Inv := by
  unfold State.postOne
  grind [State.askHost_inv, State.event_inv, State.devWrite_inv, State.emit_inv, State.putPart_inv, State.Inv]

theorem State.postRing_inv (h : s.Inv) (pf : Bool) (vf : Nat) : (s.postRing pf vf).Inv := by
  unfold State.postRing
  grind [State.postOne_inv, @foldl_inv]

theorem State.postRings_inv (h : s.Inv) : s.postRings.Inv := by
  unfold State.postRings
  grind [State.postOne_inv, @foldl_inv]

theorem State.request_inv (h : s.Inv) (vf : Nat) (stage2 : Bool) (page acc : Nat) : (s.request vf stage2 page acc).1.Inv := by
  unfold State.request
  grind [State.postRing_inv, State.Inv]

theorem State.useXlat_inv (h : s.Inv) (mode off : Nat) (a : Acc) (x : Xlat) : (s.useXlat mode off a x).Inv := by
  unfold State.useXlat
  grind [State.askHost_inv, State.lpt_inv, XRes.Inv]

theorem translate_inv (h : s.Inv) (vf mode va : Nat) (a : Acc) : (translate s vf mode va a).Inv := by
  unfold translate
  generalize va % 65536 = off, va / 65536 * 65536 = page
  dsimp only
  split
  · exact h
  split
  · exact State.useXlat_inv h ..
  split
  · exact State.event_inv h ..
  · exact State.askHost_inv h ..
  · exact State.request_inv h ..
  split
  · split
    · exact h
    split
    · exact State.event_inv h ..
    · next e =>
      have hc := claimFrame_inv h e
      exact State.useXlat_inv (by exact hc) ..
  · exact State.useXlat_inv (by exact h) ..

theorem resolve_inv (h : s.Inv) (vf mode die va : Nat) (a : Acc) : (resolve s vf mode die va a).Inv := by
  unfold resolve
  grind [translate_inv, XRes.Inv]

theorem XRes.on_inv {r : XRes} (h : r.Inv) {f : State → State} (hf : ∀ s : State, s.Inv → (f s).Inv) : (r.on f).Inv := by
  cases r <;> exact hf _ h

theorem State.resolveFor_inv (h : s.Inv) (who vf mode die va : Nat) (a : Acc) : (s.resolveFor who vf mode die va a).Inv := by
  unfold State.resolveFor
  grind [XRes.on_inv, resolve_inv, State.Inv]

/-! ### The operations of Machine/Cache.lean -/

theorem State.poisonBy_inv (h : s.Inv) (k z m : Nat) (mask : Nat → Bool) : (s.poisonBy k z m mask).Inv := by
  unfold State.poisonBy
  grind [State.setPoison_inv, @foldl_inv]

theorem State.writeBack_inv (h : s.Inv) (l : L1Line) : (s.writeBack l).Inv := by
  unfold State.writeBack
  grind [State.poisonBy_inv, State.putHome_inv]

theorem State.recallEntry_inv (h : s.Inv) (e : DirEntry) : (s.recallEntry e).Inv :=
  State.inv_of_mem (foldl_inv (fun _ l h => State.writeBack_inv h l) _ h) rfl

theorem State.recallLine_inv (h : s.Inv) (die vf vline : Nat) : (s.recallLine die vf vline).Inv :=
  State.inv_of_mem (foldl_inv (fun _ l h => State.writeBack_inv h l) _ h) rfl

theorem State.recallBytes_inv (h : s.Inv) (die vf va n : Nat) : (s.recallBytes die vf va n).Inv := by
  unfold State.recallBytes
  grind [State.recallLine_inv, @foldl_inv]

theorem State.flushDirty_inv (h : s.Inv) (ls : List BedLine) :
    (ls.foldl (fun s l => (s.putHome l.target.key (lineBytes l.data)).poisonBy l.target.key 64 1
      fun _ => l.poison ≠ 0#4) s).Inv :=
  foldl_inv (fun _ _ h => State.poisonBy_inv (State.putHome_inv h ..) ..) ls h

theorem State.hostFlush_inv (h : s.Inv) (h_ n : Nat) : (s.hostFlush h_ n).Inv := by
  unfold State.hostFlush
  extract_lets cs s'
  split
  · exact h
  · exact State.inv_of_mem (State.flushDirty_inv h _) rfl

theorem State.homeWrite_inv (h : s.Inv) (vf va : Nat) (t : Target) (bs : List Byte) : (s.homeWrite vf va t bs).Inv := by
  unfold State.homeWrite
  grind [State.dryBytes_inv, State.putHome_inv, State.recallBytes_inv, State.emit_inv, State.hostFlush_inv]

theorem State.wakeLine_inv (h : s.Inv) (q vline : Nat) : (s.wakeLine q vline).Inv := by
  unfold State.wakeLine
  grind [State.putQuad_inv]

theorem State.evictBed_inv (h : s.Inv) (l : BedLine) : (s.evictBed l).Inv := by
  unfold State.evictBed
  grind [State.emit_inv, State.poisonBy_inv, State.putHome_inv]

theorem State.installBed_inv (h : s.Inv) (q : Nat) (l : BedLine) : (s.installBed q l).Inv := by
  unfold State.installBed
  grind [State.putQuad_inv, State.evictBed_inv, @foldl_inv]

theorem State.hostDemote_inv (h : s.Inv) (h_ : Nat) (excl : Bool) : (s.hostDemote h_ excl).Inv := by
  unfold State.hostDemote
  have hf := State.flushDirty_inv h ((s.hostCopies h_ 64).filter BedLine.dirty)
  split
  · exact State.hostFlush_inv h ..
  · extract_lets cs s'
    split
    · exact hf
    · exact State.inv_of_mem hf rfl

theorem State.hostHold_inv (h : s.Inv) (q vf vline h_ : Nat) (excl : Bool) : (s.hostHold q vf vline h_ excl).1.Inv := by
  have hw := State.wakeLine_inv h q vline
  unfold State.hostHold
  dsimp only
  split
  · exact hw
  split
  · exact hw
  · exact State.installBed_inv (State.emit_inv (State.hostDemote_inv hw ..) _) ..

theorem State.hostStore_inv (h : s.Inv) (q vf va h_ : Nat) (bs : List Byte) : (s.hostStore q vf va h_ bs).Inv := by
  unfold State.hostStore
  split
  · exact h
  have hh := State.hostHold_inv h q vf (va / 64) (h_ / 64 * 64) true
  dsimp only
  split
  · exact State.putHome_inv hh ..
  · exact State.putQuad_inv hh ..

theorem moveChain_inv (h : s.Inv) (e : DirEntry) (b fuel : Nat) : (moveChain s e b fuel).1.Inv := by
  induction fuel generalizing s e b with
  | zero => exact h
  | succ fuel ih =>
    unfold moveChain
    grind [State.Inv]

theorem State.dirInsert_inv (h : s.Inv) (e : DirEntry) : (s.dirInsert e).1.Inv := by
  unfold State.dirInsert
  grind [moveChain_inv, State.Inv]

theorem State.dirRefresh_inv (h : s.Inv) (vf vline : Nat) : (s.dirRefresh vf vline).Inv := h

theorem State.evictL1_inv (h : s.Inv) (l : L1Line) : (s.evictL1 l).Inv := by
  unfold State.evictL1
  grind [State.writeBack_inv, State.dirRefresh_inv, State.Inv]

theorem State.l1Install_inv (h : s.Inv) (l : L1Line) : (s.l1Install l).1.Inv := by
  unfold State.l1Install
  grind [State.evictL1_inv, State.dirRefresh_inv, State.dirInsert_inv, State.Inv]

theorem State.l1Fill_inv (h : s.Inv) (core : Nat) (hyper : Bool) (vf vline pa : Nat) :
    (s.l1Fill core hyper vf vline pa).1.Inv := State.l1Install_inv (by exact h) ..

theorem State.l1Foreign_inv (h : s.Inv) (core : Nat) (l : BedLine) : (s.l1Foreign core l).1.Inv := State.l1Install_inv h ..

theorem State.l1Read_inv (h : s.Inv) (l : L1Line) (va n : Nat) : (s.l1Read l va n).Inv := by
  unfold State.l1Read
  grind [MemRes.Inv]

theorem State.bedRead_inv (h : s.Inv) (l : BedLine) (va n : Nat) : (s.bedRead l va n).Inv := by
  unfold State.bedRead
  grind [MemRes.Inv]

theorem State.enterLoss_inv (h : s.Inv) (x : Nat × PktClass) (core job dest : Nat) : (s.enterLoss x core job dest).Inv := h

theorem State.logLost_inv (h : s.Inv) (core vf job : Nat) (tg : Target) : (s.logLost core vf job tg).Inv := by
  unfold State.logLost
  grind [State.enterLoss_inv]

theorem State.lossEvent_inv (h : s.Inv) (die vf job unit_ dest : Nat) : (s.lossEvent die vf job unit_ dest).Inv :=
  State.event_inv h ..

theorem State.loseRequest_inv (h : s.Inv) (core vf job unit_ : Nat) (tg : Target) :
    (s.loseRequest core vf job unit_ tg).Inv := by
  unfold State.loseRequest
  grind [State.lossEvent_inv, State.logLost_inv]

theorem State.homeReadRes_inv (h : s.Inv) (vf va : Nat) (tg : Target) (n : Nat) : (s.homeReadRes vf va tg n).Inv := by
  unfold State.homeReadRes
  grind [MemRes.Inv]

theorem State.readLocal_inv (h : s.Inv) (core : Nat) (hyper : Bool) (vf va pa n : Nat) :
    (s.readLocal core hyper vf va pa n).Inv := by
  unfold State.readLocal
  grind [State.l1Read_inv, State.l1Fill_inv, State.wakeLine_inv, State.homeReadRes_inv, MemRes.Inv]

theorem State.readForeign_inv (h : s.Inv) (core vf va pa : Nat) (filled : Option (Vec × BitVec 4)) (n : Nat) :
    (s.readForeign core vf va pa filled n).Inv := by
  unfold State.readForeign
  grind [State.l1Read_inv, State.wakeLine_inv, State.bedRead_inv, State.l1Foreign_inv, MemRes.Inv]

theorem State.loadBytes_inv (h : s.Inv) (t : Strand) (va : Nat) (tg : Target) (n : Nat) : (s.loadBytes t va tg n).Inv := by
  unfold State.loadBytes
  grind [State.emit_inv, State.askHost_inv, State.homeReadRes_inv, State.readLocal_inv, State.readForeign_inv,
    State.hostHold_inv, State.bedRead_inv, MemRes.Inv]

theorem State.modForeign_inv (h : s.Inv) (q vf va n : Nat) (f : BedLine → BedLine) (g : L1Line → L1Line) :
    (s.modForeign q vf va n f g).Inv := by
  unfold State.modForeign
  grind [State.putQuad_inv, State.Inv]

theorem State.updateForeign_inv (h : s.Inv) (q vf va : Nat) (bs : List Byte) : (s.updateForeign q vf va bs).Inv :=
  State.modForeign_inv h ..

theorem State.refreshForeign_inv (h : s.Inv) (q vf va n : Nat) : (s.refreshForeign q vf va n).Inv := State.modForeign_inv h ..

theorem State.partyRead_inv (h : s.Inv) (q vf va : Nat) (tg : Target) (n : Nat) : (s.partyRead q vf va tg n).Inv := by
  unfold State.partyRead
  split
  · refine List.foldlRecOn (motive := MemRes.Inv) _ _ (by exact h) fun r hr p _ => ?_
    grind [State.hostHold_inv, State.bedRead_inv, MemRes.Inv]
  all_goals grind [State.refreshForeign_inv, State.emit_inv, State.homeReadRes_inv, MemRes.Inv]

theorem State.partyWrite_inv (h : s.Inv) (q vf va : Nat) (tg : Target) (bs : List Byte) : (s.partyWrite q vf va tg bs).Inv := by
  unfold State.partyWrite
  grind [State.updateForeign_inv, State.homeWrite_inv, State.hostStore_inv, @foldl_inv]

theorem State.storeBytes_inv (h : s.Inv) (core vf va : Nat) (tg : Target) (bs : List Byte) :
    (s.storeBytes core vf va tg bs).Inv := by
  unfold State.storeBytes
  grind [State.dirRefresh_inv, State.partyWrite_inv, State.Inv]

/-! ### The operations of Machine/Ops.lean -/

theorem State.putMe_inv (h : s.Inv) (t : Strand) : (s.putMe t).Inv := h

theorem State.post_inv (h : s.Inv) (cls : PktClass) (job src dst : Nat) (port : Option Nat) (body : PktBody) :
    (s.post cls job src dst port body).Inv := h

theorem State.nameChanged_inv (h : s.Inv) (q n : Nat) : (s.nameChanged q n).Inv := h

theorem State.breakName_inv (h : s.Inv) (q n : Nat) : (s.breakName q n).Inv := h

theorem State.withdrawQueued_inv (h : s.Inv) (q n : Nat) : (s.withdrawQueued q n).Inv := h

theorem State.endNames_inv (h : s.Inv) (q u : Nat) : (s.endNames q u).Inv := by
  unfold State.endNames
  grind [State.breakName_inv, State.withdrawQueued_inv, @foldl_inv]

theorem State.leaveBarrier_inv (h : s.Inv) (u : Nat) (t : Strand) (i : BitVec 2) : (s.leaveBarrier u t i).Inv := by
  unfold State.leaveBarrier
  grind [State.modStrand_inv, State.post_inv, State.Inv]

theorem State.leaveAll_inv (h : s.Inv) (u : Nat) (t : Strand) : (s.leaveAll u t).Inv := by
  unfold State.leaveAll
  grind [State.leaveBarrier_inv]

theorem State.endStrand_inv (h : s.Inv) (u : Nat) (t : Strand) : (s.endStrand u t).Inv := by
  unfold State.endStrand
  grind [State.endNames_inv, State.dropStrand_inv, State.consumed_inv]

theorem State.tryEnd_inv (h : s.Inv) (u : Nat) (t : Strand) : (s.tryEnd u t).Inv := by
  unfold State.tryEnd
  grind [State.modStrand_inv, State.leaveAll_inv, State.endStrand_inv]

theorem State.takeTrap_inv (h : s.Inv) (u : Nat) (t : Strand) (cause : Nat) (tval : Word64) :
    (s.takeTrap u t cause tval).Inv := by
  unfold State.takeTrap
  grind [State.putQuad_inv, State.putStrand_inv, State.event_inv]

theorem State.trapMe_inv (h : s.Inv) (t : Strand) (cause : Nat) (tval : Word64) : (s.trapMe t cause tval).Inv :=
  State.takeTrap_inv h ..

theorem eretBody_inv (h : s.Inv) (disp : Word64) (t : Strand) : (eretBody disp t s).Inv := by
  unfold eretBody
  grind [State.putMe_inv, Res.Inv]

theorem State.issue_inv (h : s.Inv) (t : Strand) (gate : Gate) {body : Strand → State → Res} (hb : (body t s).Inv) :
    (s.issue t gate body).Inv := by
  unfold State.issue
  grind [State.tryEnd_inv, State.trapMe_inv, State.modStrand_inv, Res.Inv]

theorem State.parkMe_inv (h : s.Inv) (t : Strand) (w : Wait) : (s.parkMe t w).Inv := h

theorem State.readLost_inv (h : s.Inv) (t : Strand) (tg : Target) : (s.readLost t tg).Inv := State.loseRequest_inv h ..

theorem State.reportLost_inv (h : s.Inv) (t : Strand) (va : Nat) (tg : Target) : (s.reportLost t va tg).Inv :=
  State.event_inv (State.logLost_inv h ..) ..

theorem State.notePoison_inv (h : s.Inv) (t : Strand) (key : Nat) (left : Bool) : (s.notePoison t key left).Inv := by
  unfold State.notePoison
  grind [State.event_inv]

theorem State.performStore_inv (h : s.Inv) (t : Strand) (e : Store) : (s.performStore t e).Inv := by
  unfold State.performStore
  grind [State.reportLost_inv, State.storeBytes_inv, State.notePoison_inv, @foldl_inv]

theorem State.partyStore_inv (h : s.Inv) (t : Strand) (va : Nat) (tg : Target) (bs : List Byte) :
    (s.partyStore t va tg bs).Inv := by
  unfold State.partyStore
  grind [State.partyWrite_inv, State.reportLost_inv, State.notePoison_inv, @foldl_inv]

theorem State.popStore_inv (h : s.Inv) (u : Nat) : (s.popStore u).Inv := State.modStrand_inv h ..

theorem State.poolFirst_inv (h : s.Inv) (core u before : Nat) (banks : List Nat) (fuel : Nat) :
    (s.poolFirst core u before banks fuel).Inv := by
  induction fuel generalizing s with
  | zero => exact h
  | succ fuel ih =>
    unfold State.poolFirst
    grind [State.performStore_inv, State.popStore_inv]

theorem State.ownPool_inv (h : s.Inv) (t : Strand) (tg : Target) (n : Nat) : (s.ownPool t tg n).Inv := by
  unfold State.ownPool
  grind [State.poolFirst_inv]

theorem State.drain_inv (h : s.Inv) (u : Nat) (t : Strand) : (s.drain u t).Inv := by
  unfold State.drain
  grind [State.modStrand_inv, State.performStore_inv, State.poolFirst_inv, @foldl_inv]

theorem State.leaveSlot_inv (h : s.Inv) (u : Nat) (t : Strand) : (s.leaveSlot u t).Inv := by
  unfold State.leaveSlot
  grind [State.drain_inv, State.carryPoison_inv, State.clearPoison_inv, State.modStrand_inv]

theorem State.faultPark_inv (h : s.Inv) (t : Strand) (reqs : List PageWait) : (s.faultPark t reqs).Inv := by
  unfold State.faultPark
  grind [State.parkMe_inv, State.leaveSlot_inv]

/-! ### The operations of Machine/Operands.lean -/

theorem aluBody_inv (h : s.Inv) (d : BitVec 5) (f : Strand → Word64) (t : Strand) : (aluBody d f t s).Inv := h

theorem pathBody_inv (h : s.Inv) (d : BitVec 5) (f : Strand → Except (Nat × Word64) Word64) (t : Strand) :
    (pathBody d f t s).Inv := by
  unfold pathBody
  grind [State.putMe_inv, Res.Inv]

theorem pcrelBody_inv (h : s.Inv) (d : BitVec 5) (i : BitVec 16) (t : Strand) : (pcrelBody d i t s).Inv := by
  unfold pcrelBody
  grind [State.putMe_inv, Res.Inv]

theorem branchBody_inv (h : s.Inv) (i : BitVec 16) (c : Strand → Bool) (t : Strand) : (branchBody i c t s).Inv := h

theorem jalBody_inv (h : s.Inv) (d : BitVec 5) (i : BitVec 21) (t : Strand) : (jalBody d i t s).Inv := h

theorem jalrBody_inv (h : s.Inv) (d a : BitVec 5) (i : BitVec 16) (t : Strand) : (jalrBody d a i t s).Inv := by
  unfold jalrBody
  grind [State.putMe_inv, Res.Inv]

theorem sleepBody_inv (h : s.Inv) (a : BitVec 5) (t : Strand) : (sleepBody a t s).Inv := by
  unfold sleepBody
  grind [State.parkMe_inv, Res.Inv]

theorem yieldBody_inv (h : s.Inv) (t : Strand) : (yieldBody t s).Inv := h

theorem exitBody_inv (h : s.Inv) (t : Strand) : (exitBody t s).Inv := State.tryEnd_inv h ..

theorem hretBody_inv (h : s.Inv) (t : Strand) : (hretBody t s).Inv := by
  unfold hretBody
  grind [exitBody_inv, Res.Inv]

/-! ### The operations of Machine/Access.lean -/

theorem State.reach_inv (h : s.Inv) (t : Strand) (va : Nat) (a : Acc) (tval : Nat) : (s.reach t va a tval).Inv := by
  unfold State.reach
  grind [resolve_inv, State.faultPark_inv, State.parkMe_inv, XRes.Inv, Chk.Inv, Res.Inv]

theorem State.scalarAccess_inv (h : s.Inv) (t : Strand) (ea n : Nat) (a : Acc) (need : Nat) :
    (s.scalarAccess t ea n a need).Inv := by
  unfold State.scalarAccess
  grind [State.reach_inv,State.parkMe_inv, Chk.Inv, Res.Inv]

theorem loadBody_inv (h : s.Inv) (d a : BitVec 5) (i : BitVec 16) (n : Nat) (ext : Nat → Word64) (t : Strand) :
    (loadBody d a i n ext t s).Inv := by
  unfold loadBody
  grind [State.scalarAccess_inv, State.putMe_inv, State.loadBytes_inv, State.ownPool_inv, State.parkMe_inv, State.readLost_inv,
    Res.Inv, Chk.Inv, MemRes.Inv]

theorem storeBody_inv (h : s.Inv) (b a : BitVec 5) (i : BitVec 16) (n : Nat) (t : Strand) : (storeBody b a i n t s).Inv := by
  unfold storeBody
  grind [State.scalarAccess_inv, State.dryBytes_inv, State.reportLost_inv, State.putMe_inv, Res.Inv, Chk.Inv]

theorem State.syncRead_inv (h : s.Inv) (q vf va : Nat) (tg : Target) (n : Nat) : (s.syncRead q vf va tg n).Inv := by
  unfold State.syncRead
  grind [State.hostHold_inv, State.bedRead_inv, State.partyRead_inv]

theorem State.syncWrite_inv (h : s.Inv) (q vf va : Nat) (tg : Target) (bs : List Byte) : (s.syncWrite q vf va tg bs).Inv := by
  unfold State.syncWrite
  grind [State.putHome_inv, State.partyWrite_inv]

theorem amoBody_inv (h : s.Inv) (w : Nat) (op : AmoOp) (d a b : BitVec 5) (o : MOrd) (sc : Scope) (t : Strand) :
    (amoBody w op d a b o sc t s).Inv := by
  unfold amoBody
  extract_lets n acc ret fin
  have hfin : ∀ s : State, s.Inv → (fin s).Inv := fun s h => State.acquireAt_inv h ..
  clear_value fin ret acc
  split
  · trivial
  next ea _ =>
  have hs := State.scalarAccess_inv h t ea n acc (weirNeed acc)
  split
  · next e => rwa [e] at hs
  next e =>
  rw [e] at hs
  split
  · trivial
  split
  · exact hs
  split
  · exact hfin _ (State.putMe_inv (State.dryBytes_inv hs ..) ..)
  split
  · exact State.parkMe_inv (State.askHost_inv hs ..) ..
  grind [State.ownPool_inv, State.readLost_inv, State.putMe_inv, State.parkMe_inv, State.partyWrite_inv, State.syncRead_inv,
    State.syncWrite_inv, Chk.Inv, MemRes.Inv, Res.Inv]

theorem fenceBody_inv (h : s.Inv) (o : MOrd) (sc : Scope) (t : Strand) : (fenceBody o sc t s).Inv := by
  unfold fenceBody
  grind [State.acquireAt_inv, Res.Inv]

theorem promoteBody_inv (h : s.Inv) (d a : BitVec 5) (o : MOrd) (sc : Scope) (t : Strand) : (promoteBody d a o sc t s).Inv := by
  unfold promoteBody
  grind [State.scalarAccess_inv, State.acquireAt_inv, State.putMe_inv, State.dryBytes_inv, State.parkMe_inv, State.askHost_inv,
    State.ownPool_inv, State.readLost_inv, State.syncRead_inv, Res.Inv, Chk.Inv, MemRes.Inv]

theorem blockSource_inv (h : s.Inv) (op : BlockOp) (b : BlockArgs) (off n : Nat) (t : Strand) :
    SumInv Res.Inv (fun p => p.1.Inv) (blockSource op b off n t s) := by
  unfold blockSource
  grind [State.reach_inv, State.parkMe_inv, State.askHost_inv, State.ownPool_inv, State.partyRead_inv, State.readLost_inv,
    Res.Inv, SumInv, Chk.Inv, MemRes.Inv]

theorem blockGranule_inv (h : s.Inv) (op : BlockOp) (b : BlockArgs) (off n : Nat) (t : Strand) :
    SumInv Res.Inv State.Inv (blockGranule op b off n t s) := by
  unfold blockGranule
  grind [blockSource_inv, State.reach_inv, State.parkMe_inv, State.askHost_inv, State.reportLost_inv, State.partyWrite_inv,
    State.partyStore_inv, State.ownPool_inv, Res.Inv, SumInv, Chk.Inv]

theorem blockBody_inv (h : s.Inv) (op : BlockOp) (x y p : Word64) (b : BlockArgs) (t : Strand) :
    (blockBody op x y p b t s).Inv := by
  unfold blockBody
  grind [blockGranule_inv, State.modStrand_inv, Res.Inv, SumInv]

theorem bldBody_inv (h : s.Inv) (d a : BitVec 5) (t : Strand) : (bldBody d a t s).Inv := blockBody_inv h ..

theorem bstBody_inv (h : s.Inv) (d a : BitVec 5) (t : Strand) : (bstBody d a t s).Inv := blockBody_inv h ..

theorem bcopyBody_inv (h : s.Inv) (d a : BitVec 5) (t : Strand) : (bcopyBody d a t s).Inv := blockBody_inv h ..

theorem bfillBody_inv (h : s.Inv) (d a : BitVec 5) (t : Strand) : (bfillBody d a t s).Inv := blockBody_inv h ..

theorem bzeroBody_inv (h : s.Inv) (d : BitVec 5) (t : Strand) : (bzeroBody d t s).Inv := blockBody_inv h ..

theorem bprefBody_inv (h : s.Inv) (d : BitVec 5) (t : Strand) : (bprefBody d t s).Inv := by
  unfold bprefBody
  grind [Res.Inv]

theorem State.cleanRange_inv (h : s.Inv) (vf mode va n : Nat) (inval : Bool) : (s.cleanRange vf mode va n inval).Inv :=
  State.inv_of_mem (foldl_inv (fun _ _ h => foldl_inv (fun _ l h => State.evictBed_inv h l) _ h) _
    (foldl_inv (fun _ l h => State.writeBack_inv h l) _ h)) rfl

theorem maintBody_inv (h : s.Inv) (d : BitVec 5) (inval : Bool) (t : Strand) : (maintBody d inval t s).Inv := by
  unfold maintBody
  grind [State.parkMe_inv, State.askHost_inv, State.cleanRange_inv, Res.Inv]

theorem wsetBody_inv (h : s.Inv) (d : BitVec 3) (a b : BitVec 5) (t : Strand) : (wsetBody d a b t s).Inv := by
  unfold wsetBody
  grind [State.putMe_inv, Res.Inv]

theorem wqryBody_inv (h : s.Inv) (d a : BitVec 5) (t : Strand) : (wqryBody d a t s).Inv := by
  unfold wqryBody
  grind [State.putMe_inv, Res.Inv]

/-! ### The operations of Machine/Lanes.lean -/

theorem vecBody_inv (h : s.Inv) (f : Strand → Except (Nat × Word64) (Strand × BitVec 5)) (t : Strand) :
    (vecBody f t s).Inv := by
  unfold vecBody
  grind [State.putMe_inv, Res.Inv]

theorem binBody_inv (h : s.Inv) (d a b : BitVec 5) (k : BitVec 3) (ty : EType) (f : Nat → Nat → Nat → LaneRes) (t : Strand) :
    (binBody d a b k ty f t s).Inv := vecBody_inv h ..

theorem fmaBody_inv (h : s.Inv) (neg : Bool) (d a b : BitVec 5) (k : BitVec 3) (ty : EType) (t : Strand) :
    (fmaBody neg d a b k ty t s).Inv := vecBody_inv h ..

theorem unBody_inv (h : s.Inv) (d a : BitVec 5) (k : BitVec 3) (ty : EType) (f : Nat → LaneRes) (t : Strand) :
    (unBody d a k ty f t s).Inv := vecBody_inv h ..

theorem cmpBody_inv (h : s.Inv) (c : VCmp) (d : BitVec 3) (a b : BitVec 5) (k : BitVec 3) (ty : EType) (t : Strand) :
    (cmpBody c d a b k ty t s).Inv := vecBody_inv h ..

theorem maskBody_inv (h : s.Inv) (f : Strand → Strand) (t : Strand) : (maskBody f t s).Inv := vecBody_inv h ..

theorem vselBody_inv (h : s.Inv) (d a b : BitVec 5) (k : BitVec 3) (ty : EType) (t : Strand) :
    (vselBody d a b k ty t s).Inv := by
  unfold vselBody
  grind [vecBody_inv, Res.Inv]

theorem moveBody_inv (h : s.Inv) (d : BitVec 5) (k : BitVec 3) (ty : EType) (f : Strand → Nat → Nat) (t : Strand) :
    (moveBody d k ty f t s).Inv := vecBody_inv h ..

theorem vextBody_inv (h : s.Inv) (d a b : BitVec 5) (ty : EType) (t : Strand) : (vextBody d a b ty t s).Inv := vecBody_inv h ..

theorem vinsBody_inv (h : s.Inv) (d a b : BitVec 5) (ty : EType) (t : Strand) : (vinsBody d a b ty t s).Inv := vecBody_inv h ..

theorem vcvtBody_inv (h : s.Inv) (d a : BitVec 5) (u : EType) (r : BitVec 3) (ty : EType) (t : Strand) :
    (vcvtBody d a u r ty t s).Inv := by
  unfold vcvtBody
  grind [vecBody_inv, Res.Inv]

theorem redBody_inv (h : s.Inv) (r : Red) (d a : BitVec 5) (k : BitVec 3) (ty : EType) (t : Strand) :
    (redBody r d a k ty t s).Inv := vecBody_inv h ..

theorem vimmBody_inv (h : s.Inv) (d : BitVec 5) (ty : EType) (i : BitVec 16) (t : Strand) : (vimmBody d ty i t s).Inv := by
  unfold vimmBody
  grind [vecBody_inv, Res.Inv]

theorem vaddiBody_inv (h : s.Inv) (d : BitVec 5) (ty : EType) (i : BitVec 16) (t : Strand) : (vaddiBody d ty i t s).Inv := by
  unfold vaddiBody
  grind [vecBody_inv]

theorem State.checkLane_inv (h : s.Inv) (t : Strand) (base : Option Word64) (ea : Int) (n : Nat) (a : Acc) :
    (s.checkLane t base ea n a).Inv := by
  unfold State.checkLane State.checkLane.go
  grind [resolve_inv, XRes.Inv, LaneChk.Inv]

theorem State.checkLanes_inv (h : s.Inv) (t : Strand) (base : Option Word64) (ea : Nat → Int) (n : Nat) (a : Acc)
    (ls : List Nat) :
    (s.checkLanes t base ea n a ls).s.Inv := by
  unfold State.checkLanes
  refine List.foldlRecOn (motive := fun m => State.Inv (LaneMap.s m)) _ _ (by exact h) fun m hm i _ => ?_
  grind [State.checkLane_inv, LaneChk.Inv]

theorem State.readThrough_inv (h : s.Inv) (core vf va pa n : Nat) : (s.readThrough core vf va pa n).Inv := by
  unfold State.readThrough
  grind [State.l1Read_inv, State.wakeLine_inv, State.bedRead_inv, State.installBed_inv, MemRes.Inv]

theorem State.readLane_inv (h : s.Inv) (t : Strand) (va n : Nat) (tg : Target) : (s.readLane t va n tg).Inv := by
  unfold State.readLane
  grind [State.askHost_inv, State.homeReadRes_inv, State.l1Read_inv, State.readThrough_inv, State.partyRead_inv,
    State.ownPool_inv, MemRes.Inv]

theorem State.readLanes_inv (h : s.Inv) (t : Strand) (n : Nat) (v : Vec) (ls : List (Nat × Nat × Target)) :
    (s.readLanes t n v ls).Inv := by
  induction ls generalizing s v with
  | nil => exact h
  | cons p r ih =>
    unfold State.readLanes
    grind [State.readLane_inv, State.readLost_inv, MemRes.Inv, LaneRead.Inv]

theorem vloadBody_inv (h : s.Inv) (d : BitVec 5) (k : BitVec 3) (ty : EType) (addr : Strand → Except (Nat × Word64) (Option
    Word64 × (Nat → Int))) (t : Strand) :
    (vloadBody d k ty addr t s).Inv := by
  unfold vloadBody
  grind [State.checkLanes_inv, State.putMe_inv, State.readLanes_inv, State.parkMe_inv, State.faultPark_inv, Res.Inv,
    LaneRead.Inv]

theorem storeLanes_inv (h : s.Inv) (byLine : Bool) (n : Nat) (vd : Vec) (vf fuel : Nat) (t : Strand) (ls : List (Nat × Nat × Target)) 
   :
    (storeLanes byLine n vd vf fuel s t ls).1.Inv := by
  induction fuel generalizing s t ls with
  | zero => exact h
  | succ fuel ih =>
    cases ls with
    | nil => exact h
    | cons p r =>
      unfold storeLanes
      grind [State.dryBytes_inv]

theorem vstoreBody_inv (h : s.Inv) (byLine : Bool) (d : BitVec 5) (k : BitVec 3) (ty : EType)
    (addr : Strand → Except (Nat × Word64) (Option Word64 × (Nat → Int))) (t : Strand) :
    (vstoreBody byLine d k ty addr t s).Inv := by
  unfold vstoreBody
  split
  · exact h
  split
  · trivial
  next base ea _ =>
  extract_lets t' n first todo m
  have hm : m.s.Inv := State.checkLanes_inv h ..
  clear_value m first
  split
  · exact State.putMe_inv hm ..
  · exact State.parkMe_inv hm ..
  split
  · split
    · exact hm
    · exact State.faultPark_inv hm ..
  next upTo lost s1 upTo' _ _ _ _ _ =>
  have h1 : s1.Inv := by
    unfold s1
    cases lost with
    | none => exact hm
    | some p => exact State.reportLost_inv hm ..
  clear_value s1 upTo'
  have h2 := storeLanes_inv h1 byLine n (t'.v d) t'.vf 65 { t' with timeout := false } upTo'
  split
  next e =>
  rw [e] at h2
  split
  · exact State.putMe_inv h2 ..
  · exact State.faultPark_inv h2 ..
  · exact State.putMe_inv h2 ..

/-! ### The operations of Machine/Tarn.lean -/

theorem State.define_inv (h : s.Inv) (q n : Nat) (x : Name) : (s.define q n x).Inv := h

theorem State.bindNames_inv (h : s.Inv) (u core slot : Nat) : (s.bindNames u core slot).Inv := by
  unfold State.bindNames
  grind [State.putQuad_inv]

theorem State.freeName_inv (h : s.Inv) (q n : Nat) : (s.freeName q n).Inv := h

theorem tarnBody_inv {f : Strand → Quad → State → Res} (hf : ∀ (t : Strand) (x : Quad) (s : State), s.Inv → (f t x s).Inv)
    (h : s.Inv) (k : ReqKind) (t : Strand) : (tarnBody k f t s).Inv := by
  unfold tarnBody
  grind [State.putQuad_inv, Res.Inv]

theorem tdeclBody_inv (h : s.Inv) (a b d : BitVec 5) (t : Strand) : (tdeclBody a b d t s).Inv := by
  unfold tdeclBody
  grind [tarnBody_inv, State.putMe_inv, State.nameChanged_inv, State.putQuad_inv, Res.Inv]

theorem State.readRun_inv (h : s.Inv) (t : Strand) (va : Nat) (tg : Target) (m : Nat) : (s.readRun t va tg m).Inv := by
  induction m generalizing s va tg with
  | zero => exact h
  | succ m ih =>
    unfold State.readRun
    grind [State.readLane_inv, State.readLost_inv, MemRes.Inv, RunRead.Inv]

theorem regionRead_inv (h : s.Inv) (base : Word64) (n align : Nat) (t : Strand) : ExceptInv (regionRead base n align t s) := by
  unfold regionRead
  split
  · trivial
  split
  · trivial
  split
  · trivial
  next va _ _ _ _ =>
  have hr := State.reach_inv h t va .read va
  extract_lets n1
  split
  · next e => rwa [e] at hr
  next s1 tg e =>
  rw [e] at hr
  extract_lets second
  have h2 : ExceptInv second := by
    unfold second
    grind [State.reach_inv, ExceptInv, Chk.Inv]
  clear_value second
  cases second with
  | error r => exact h2
  | ok p => grind [State.readRun_inv, State.parkMe_inv, RunRead.Inv, ExceptInv, Res.Inv]

theorem writeName_inv (h : s.Inv) (n : Nat) {f : Name → Strand → State → Res} (hf : ∀ x t (s : State), s.Inv → (f x t s).Inv)
    (t : Strand) :
    (writeName n f t s).Inv := by
  refine tarnBody_inv (fun t x s h => ?_) h _ _
  grind [State.parkMe_inv, Res.Inv]

theorem tldBody_inv (h : s.Inv) (side : Bool) (a b : BitVec 5) (t : Strand) : (tldBody side a b t s).Inv := by
  unfold tldBody
  grind [writeName_inv, regionRead_inv, State.putQuad_inv, Res.Inv, ExceptInv]

theorem tfillBody_inv (h : s.Inv) (a b v : BitVec 5) (t : Strand) : (tfillBody a b v t s).Inv := by
  unfold tfillBody
  grind [writeName_inv, State.putQuad_inv, Res.Inv]

theorem State.accept_inv (h : s.Inv) (t : Strand) (kind : MatKind) (reads : List Nat) (dest : Option Nat) (aOp bOp : Option
    Operand) (owes occ : Nat) :
    (s.accept t kind reads dest aOp bOp owes occ).Inv := h

theorem State.acceptDefinition_inv (h : s.Inv) (t : Strand) (kind : MatKind) (n : Nat) (m : Name) :
    (s.acceptDefinition t kind n m).Inv := by
  unfold State.acceptDefinition
  grind [State.accept_inv, State.define_inv]

theorem tsealBody_inv (h : s.Inv) (a : BitVec 5) (t : Strand) : (tsealBody a t s).Inv := by
  unfold tsealBody
  grind [writeName_inv, State.acceptDefinition_inv, Res.Inv]

theorem tgetBody_inv (h : s.Inv) (a b v : BitVec 5) (t : Strand) : (tgetBody a b v t s).Inv := by
  unfold tgetBody
  grind [tarnBody_inv, State.accept_inv, State.parkMe_inv, Res.Inv]

theorem tstBody_inv (h : s.Inv) (side : Bool) (a b : BitVec 5) (t : Strand) : (tstBody side a b t s).Inv := by
  unfold tstBody
  grind [tarnBody_inv, State.reach_inv, State.accept_inv, State.dryBytes_inv, State.putMe_inv, State.parkMe_inv, Res.Inv,
    Chk.Inv]

theorem tkillBody_inv (h : s.Inv) (a : BitVec 5) (t : Strand) : (tkillBody a t s).Inv := by
  unfold tkillBody
  grind [tarnBody_inv, State.breakName_inv, State.nameChanged_inv, State.putQuad_inv, State.freeName_inv, Res.Inv]

theorem ttagBody_inv (h : s.Inv) (a d : BitVec 5) (t : Strand) : (ttagBody a d t s).Inv := by
  unfold ttagBody
  grind [tarnBody_inv, State.putMe_inv, Res.Inv]

theorem mfmtBody_inv (h : s.Inv) (a : BitVec 5) (t : Strand) : (mfmtBody a t s).Inv := by
  unfold mfmtBody
  grind [tarnBody_inv, State.putQuad_inv, State.putCore_inv, Res.Inv]

theorem mlutBody_inv (h : s.Inv) (tableB nibble : Bool) (a : BitVec 5) (t : Strand) : (mlutBody tableB nibble a t s).Inv := by
  unfold mlutBody
  grind [tarnBody_inv, regionRead_inv, State.accept_inv, Res.Inv, ExceptInv]

theorem mzeroBody_inv (h : s.Inv) (a : BitVec 5) (t : Strand) : (mzeroBody a t s).Inv := by
  unfold mzeroBody
  grind [writeName_inv, State.acceptDefinition_inv, Res.Inv]

theorem State.charge_inv (h : s.Inv) (t : Strand) (cost : Nat) : (s.charge t cost).1.Inv := by
  unfold State.charge
  grind [State.putQuad_inv]

theorem State.acceptData_inv (h : s.Inv) (t : Strand) (kind : MatKind) (reads : List Nat) (dest : Nat) (aOp bOp : Option
    Operand) (cost occ : Nat) :
    (s.acceptData t kind reads dest aOp bOp cost occ).Inv := State.accept_inv (State.charge_inv h ..) ..

theorem mmaBody_inv (h : s.Inv) (nc : Bool) (a : BitVec 5) (t : Strand) : (mmaBody nc a t s).Inv := by
  unfold mmaBody
  grind [tarnBody_inv, State.parkMe_inv, State.acceptData_inv, Res.Inv]

theorem oneMmax_inv {f : Strand → State → Res} (hf : ∀ (t : Strand) (s : State), s.Inv → (f t s).Inv) (h : s.Inv) (t : Strand) :
    (oneMmax f t s).Inv := by
  unfold oneMmax
  grind [State.putQuad_inv, Res.Inv]

theorem mmaxBody_inv (h : s.Inv) (nc : Bool) (a b : BitVec 5) (t : Strand) : (mmaxBody nc a b t s).Inv := by
  refine oneMmax_inv (fun t s h => tarnBody_inv (fun t x s h => ?_) h ..) h t
  extract_lets g q py px h_ w qx qy n0 n1 n2 n3 cin c ta tb origin rect off reads bs gb ob na mine take east
  clear_value origin rect off reads ta tb px py h_ w qx qy bs gb ob na take
  split
  · trivial
  split
  · trivial
  split
  · trivial
  · exact State.parkMe_inv h ..
  split
  · trivial
  split
  · trivial
  · split
    · trivial
    split
    · trivial
    split
    · trivial
    split
    · trivial
    split
    · trivial
    split
    · exact h
    cases take with
    | none => exact State.parkMe_inv h ..
    | some st =>
      cases st with
      | none =>
        dsimp only
        split
        · exact h
        split
        · exact State.putQuad_inv (State.acceptData_inv h ..) ..
        · exact State.acceptData_inv h ..
      | some m =>
        have hq : ∀ x, (s.putQuad q x).Inv := fun x => State.putQuad_inv h ..
        dsimp only
        split
        · exact hq _
        split
        · exact State.putQuad_inv (State.acceptData_inv (hq _) ..) ..
        · exact State.acceptData_inv (hq _) ..
  · exact State.parkMe_inv h ..

theorem mtrnBody_inv (h : s.Inv) (a : BitVec 5) (t : Strand) : (mtrnBody a t s).Inv := by
  unfold mtrnBody
  grind [tarnBody_inv, State.parkMe_inv, State.acceptData_inv, Res.Inv]

theorem mcvtBody_inv (h : s.Inv) (a : BitVec 5) (t : Strand) : (mcvtBody a t s).Inv := by
  unfold mcvtBody
  grind [tarnBody_inv, State.parkMe_inv, State.acceptData_inv, Res.Inv]

theorem State.completeOp_inv (h : s.Inv) (u : Nat) (t : Strand) : (s.completeOp u t).Inv := by
  unfold State.completeOp
  grind [State.putQuad_inv, State.putStrand_inv, State.putCore_inv, State.define_inv]

/-! ### The operations of Machine/Copying.lean -/

theorem cpystartBody_inv (h : s.Inv) (a d : BitVec 5) (t : Strand) : (cpystartBody a d t s).Inv := by
  unfold cpystartBody
  grind [State.wake_inv, State.putQuad_inv, State.putMe_inv, Res.Inv]

theorem State.putCopy_inv (h : s.Inv) (q : Nat) (c : Copy) : (s.putCopy q c).Inv := h

theorem State.finishCopy_inv (h : s.Inv) (q : Nat) (c : Copy) (st : CopyState) : (s.finishCopy q c st).Inv := by
  unfold State.finishCopy
  grind [State.putCopy_inv, State.putQuad_inv, State.wake_inv]

theorem State.copySource_inv (h : s.Inv) (c : Copy) (l : Layout) (i j m : Nat) :
    SumInv ElemRes.Inv (fun p => p.1.Inv) (s.copySource c l i j m) := by
  unfold State.copySource
  grind [State.resolveFor_inv, State.askHost_inv, State.partyRead_inv, State.readLost_inv, ElemRes.Inv, SumInv, XRes.Inv,
    MemRes.Inv]

theorem State.copyPoison_inv (h : s.Inv) (c : Copy) (l : Layout) (a key : Nat) (bad : Bool) {write : State → State}
    (hw : ∀ s : State, s.Inv → (write s).Inv) : (s.copyPoison c l a key bad write).Inv := by
  unfold State.copyPoison
  grind [State.notePoison_inv, State.clearPoison_inv]

theorem State.copyWrite_inv (h : s.Inv) (q : Nat) (c : Copy) (l : Layout) (a : Nat) (tg : Target) (bs : List Byte) :
    (s.copyWrite q c l a tg bs).Inv := by
  unfold State.copyWrite
  grind [State.emit_inv, State.hostFlush_inv, State.putHome_inv, State.partyWrite_inv]

theorem State.copyNote_inv (h : s.Inv) (c : Copy) (a : Nat) (ev : Bool) : (s.copyNote c a ev).Inv := by
  unfold State.copyNote
  grind [State.event_inv]

theorem State.copyLost_inv (h : s.Inv) (c : Copy) (a : Nat) (tg : Target) {put : State → State}
    (hp : ∀ s : State, s.Inv → (put s).Inv) : (s.copyLost c a tg put).Inv := by
  unfold State.copyLost
  grind [State.reportLost_inv]

theorem State.copyDest_inv (h : s.Inv) (q : Nat) (c : Copy) (l : Layout) (a : Nat) (bs : List Byte) (add ev : Bool) :
    (s.copyDest q c l a bs add ev).Inv := by
  unfold State.copyDest
  extract_lets c' n
  clear_value c'
  split
  · split
    · exact h
    · exact State.copyNote_inv (State.copyPoison_inv h _ _ _ _ _ fun _ h => State.putHome_inv h ..) ..
  have hr := State.resolveFor_inv h 0 c'.vf c'.mode (dieOf c'.core) a .write
  split
  · next e => rwa [e] at hr
  · next e => rwa [e] at hr
  · next e => rwa [e] at hr
  next s1 tg e =>
  rw [e] at hr
  split
  · exact State.askHost_inv hr ..
  extract_lets cut old bs' saved off c2 bad put
  split
  · exact State.readLost_inv hr ..
  split
  · exact hr
  have hput : ∀ s : State, s.Inv → (put s).Inv := fun s h => by
    have hw : ∀ s : State, s.Inv → (s.copyWrite q c2 l a tg bs').Inv := fun s h => State.copyWrite_inv h ..
    unfold put
    split
    · exact hw s h
    · exact State.copyPoison_inv h _ _ _ _ _ hw
  clear_value put
  split
  · exact State.copyLost_inv hr _ _ _ hput
  · exact State.copyNote_inv (hput _ hr) ..

theorem State.copyElem_inv (h : s.Inv) (q : Nat) (c : Copy) (l : Layout) (m : Nat) : (s.copyElem q c l m).Inv := by
  unfold State.copyElem
  grind [State.copyDest_inv, State.copySource_inv, ElemRes.Inv, SumInv]

theorem State.copyChunk_inv (h : s.Inv) (q : Nat) (c : Copy) (l : Layout) (fuel : Nat) : (s.copyChunk q c l fuel).Inv := by
  induction fuel generalizing s c with
  | zero => exact State.putCopy_inv h ..
  | succ fuel ih =>
    unfold State.copyChunk
    grind [State.copyElem_inv, State.putCopy_inv, ElemRes.Inv]

theorem State.copyAcquire_inv (h : s.Inv) (t : Strand) (off : Bool) : (s.copyAcquire t off).Inv := by
  unfold State.copyAcquire
  grind [State.acquire_inv]

theorem State.oldCopy_inv (h : s.Inv) (t : Strand) (w : Word64) : (s.oldCopy t w).Inv := State.copyAcquire_inv h ..

theorem cpywaitBody_inv (h : s.Inv) (nl : Bool) (a d : BitVec 5) (t : Strand) : (cpywaitBody nl a d t s).Inv := by
  unfold cpywaitBody
  grind [State.putMe_inv, State.oldCopy_inv, State.putCopy_inv, State.parkMe_inv, State.copyAcquire_inv, Res.Inv]

theorem cpypollBody_inv (h : s.Inv) (a d : BitVec 5) (t : Strand) : (cpypollBody a d t s).Inv := by
  unfold cpypollBody
  grind [State.putMe_inv, State.oldCopy_inv, State.copyAcquire_inv, Res.Inv]

theorem cpygwaitBody_inv (h : s.Inv) (a d : BitVec 5) (t : Strand) : (cpygwaitBody a d t s).Inv := by
  unfold cpygwaitBody
  grind [State.parkMe_inv, State.putQuad_inv, State.putMe_inv, State.copyAcquire_inv, Res.Inv]

theorem cpycancelBody_inv (h : s.Inv) (a : BitVec 5) (t : Strand) : (cpycancelBody a t s).Inv := by
  unfold cpycancelBody
  grind [State.finishCopy_inv, State.putCopy_inv, Res.Inv]

theorem execCopyRun_inv (h : s.Inv) (q : Nat) : OutInv (execCopyRun q s) := by
  unfold execCopyRun
  grind [State.putCopy_inv, State.copyChunk_inv, OutInv]

theorem execCopyEnd_inv (h : s.Inv) (q : Nat) : OutInv (execCopyEnd q s) := by
  unfold execCopyEnd
  grind [State.finishCopy_inv, OutInv]

theorem execCopyLate_inv (h : s.Inv) (q id : Nat) : OutInv (execCopyLate q id s) := by
  unfold execCopyLate
  grind [State.wake_inv, State.putCopy_inv, OutInv]

/-! ### The operations of Machine/System.lean -/

theorem sysrBody_inv (h : s.Inv) (d : BitVec 5) (r : SysReg) (t : Strand) : (sysrBody d r t s).Inv := by
  unfold sysrBody
  grind [State.putMe_inv, Res.Inv]

theorem State.writePart_inv (h : s.Inv) (vf : Nat) (w : Word64) : (s.writePart vf w).Inv := by
  unfold State.writePart
  grind [State.putPart_inv]

theorem State.sysWrite_inv (h : s.Inv) (t : Strand) (r : SysReg) (w : Word64) : (s.sysWrite t r w).Inv := by
  unfold State.sysWrite
  grind [State.putMe_inv, State.putPart_inv, State.writePart_inv, State.putQuad_inv, State.putJob_inv, State.putCore_inv]

theorem syswBody_inv (h : s.Inv) (a : BitVec 5) (r : SysReg) (t : Strand) : (syswBody a r t s).Inv := by
  unfold syswBody
  grind [State.sysWrite_inv, Res.Inv]

theorem State.dropXlat_inv (h : s.Inv) (test : Xlat → Bool) : (s.dropXlat test).Inv := by
  refine State.noteReclaim_inv (foldl_inv (fun s x h => ?_) _ (by exact h))
  have hput : ∀ k bs, State.Inv { s with mem := Memory.put s.mem k bs } := Memory.put_wf h
  grind [State.putPart_inv]

theorem xrootBody_inv (h : s.Inv) (a b : BitVec 5) (t : Strand) : (xrootBody a b t s).Inv := by
  unfold xrootBody
  grind [State.putPart_inv, State.dropXlat_inv, Res.Inv]

theorem xinvBody_inv (h : s.Inv) (a b : BitVec 5) (t : Strand) : (xinvBody a b t s).Inv := by
  unfold xinvBody
  grind [State.dropXlat_inv, Res.Inv]

theorem xprobeBody_inv (h : s.Inv) (a b d : BitVec 5) (t : Strand) : (xprobeBody a b d t s).Inv := by
  unfold xprobeBody
  grind [State.putMe_inv, State.parkMe_inv, State.askHost_inv, Res.Inv]

theorem xbackBody_inv (h : s.Inv) (a d : BitVec 5) (t : Strand) : (xbackBody a d t s).Inv := h

theorem partsetBody_inv (h : s.Inv) (a b : BitVec 5) (t : Strand) : (partsetBody a b t s).Inv := by
  unfold partsetBody
  grind [State.Inv, Res.Inv]

theorem skipsetBody_inv (h : s.Inv) (a b : BitVec 5) (t : Strand) : (skipsetBody a b t s).Inv := by
  unfold skipsetBody
  grind [State.setSkip_inv, State.Inv, Res.Inv]

theorem State.purgeBed_inv (h : s.Inv) (q : Nat) (test : BedLine → Bool) : (s.purgeBed q test).Inv := by
  unfold State.purgeBed
  grind [State.evictBed_inv, State.putQuad_inv, @foldl_inv]

theorem State.dropForeignOf_inv (h : s.Inv) (vf : Nat) : (s.dropForeignOf vf).Inv := h

theorem waysetBody_inv (h : s.Inv) (a b : BitVec 5) (t : Strand) : (waysetBody a b t s).Inv := by
  unfold waysetBody
  grind [State.purgeBed_inv, State.dropForeignOf_inv, State.putPart_inv, @foldl_inv, Res.Inv]

theorem State.zeroKeys_inv (h : s.Inv) (lo n : Nat) : (s.zeroKeys lo n).Inv := Memory.filter_wf h _

theorem bregionBody_inv (h : s.Inv) (a b : BitVec 5) (t : Strand) : (bregionBody a b t s).Inv := by
  unfold bregionBody
  grind [State.finishCopy_inv, State.zeroKeys_inv, State.purgeBed_inv, State.putQuad_inv, @foldl_inv, Res.Inv]

theorem esetBody_inv (h : s.Inv) (a b : BitVec 5) (t : Strand) : (esetBody a b t s).Inv := by
  unfold esetBody
  grind [State.putQuad_inv, Res.Inv]

theorem lookPages_inv (h : s.Inv) (a : Acc) (va n : Nat) (t : Strand) : ExceptInv (lookPages a va n t s) := by
  unfold lookPages
  extract_lets first pages look
  have hl : ExceptInv look := by
    refine List.foldlRecOn (motive := ExceptInv) _ _ (by exact h) fun acc ha p _ => ?_
    grind [resolve_inv, State.parkMe_inv, XRes.Inv, ExceptInv, Res.Inv]
  grind [State.faultPark_inv, ExceptInv, Res.Inv]

theorem State.writeImage_inv (h : s.Inv) (t : Strand) (base off : Nat) (img : List Byte) (tg : Target) :
    ExceptInv (s.writeImage t base off img tg) := by
  unfold State.writeImage
  grind [State.parkMe_inv, State.askHost_inv, State.reportLost_inv, State.partyWrite_inv, State.partyStore_inv,
    State.ownPool_inv, Res.Inv, ExceptInv]

theorem mdrainBody_inv (h : s.Inv) (a : BitVec 5) (t : Strand) : (mdrainBody a t s).Inv := by
  unfold mdrainBody
  grind [lookPages_inv, State.putQuad_inv, State.wake_inv, State.writeImage_inv, State.modStrand_inv, Res.Inv, ExceptInv]

theorem longRead_inv (h : s.Inv) (va n : Nat) (t : Strand) : ExceptInv (longRead va n t s) := by
  have hp := lookPages_inv h .read va n t
  unfold longRead
  split
  · next e => rwa [e] at hp
  · next e =>
    rw [e] at hp
    refine List.foldlRecOn (motive := ExceptInv) _ _ (by exact hp) fun acc ha p _ => ?_
    grind [State.readRun_inv, State.parkMe_inv, RunRead.Inv, ExceptInv, Res.Inv]

theorem mrestBody_inv (h : s.Inv) (a : BitVec 5) (t : Strand) : (mrestBody a t s).Inv := by
  unfold mrestBody
  obtain ⟨n, hn⟩ : ∃ n, mdrainSize = n := ⟨_, rfl⟩
  rw [hn]
  extract_lets q x
  split
  · exact h
  split
  · trivial
  split
  · trivial
  split
  · trivial
  next va _ =>
  have hl := longRead_inv h va n t
  split
  · next e => rwa [e] at hl
  next e =>
  rw [e] at hl
  extract_lets w bad cores names top
  have hc : cores.Inv := foldl_inv (fun _ _ h => State.putCore_inv h ..) _ hl
  clear_value cores names top bad
  split
  · exact hl
  cases bad with
  | some n => exact hl
  | none => exact State.putQuad_inv hc ..

theorem vsaveBody_inv (h : s.Inv) (a : BitVec 5) (t : Strand) : (vsaveBody a t s).Inv := by
  unfold vsaveBody
  grind [lookPages_inv, State.writeImage_inv, State.modStrand_inv, Res.Inv, ExceptInv]

theorem vrestBody_inv (h : s.Inv) (a : BitVec 5) (t : Strand) : (vrestBody a t s).Inv := by
  unfold vrestBody
  grind [longRead_inv, State.putMe_inv, Res.Inv, ExceptInv]

theorem execEnergyRefill_inv (h : s.Inv) (q : Nat) : OutInv (execEnergyRefill q s) := h

/-! ### The operations of Machine/Messages.lean -/

theorem State.place_inv (h : s.Inv) (t : Strand) : (s.place t).Inv := by
  unfold State.place
  grind [State.zeroKeys_inv, State.bindNames_inv, State.putStrand_inv, State.acquire_inv, State.Inv]

theorem State.sendRoute_inv {p : State × Option Nat × Bool} (h : s.Inv) {vf dpkg dcore : Nat} (e : s.sendRoute vf dpkg dcore =
    some p) :
    p.1.Inv := by
  unfold State.sendRoute at e
  grind [State.lpt_inv]

theorem State.sendMsg_inv (h : s.Inv) (t : Strand) (m : Msg) (port : Option Nat) : (s.sendMsg t m port).Inv := by
  unfold State.sendMsg
  grind [State.sent_inv, State.countMarked_inv, State.post_inv]

theorem sendBody_inv (h : s.Inv) (kind : Nat) (a b : BitVec 5) (t : Strand) : (sendBody kind a b t s).Inv := by
  unfold sendBody
  grind [State.parkMe_inv, State.askHost_inv, → State.sendRoute_inv, State.sendMsg_inv, Res.Inv]

theorem spawnBody_inv (h : s.Inv) (short : Nat) (a b : BitVec 5) (t : Strand) : (spawnBody short a b t s).Inv := by
  unfold spawnBody
  grind [State.parkMe_inv, State.askHost_inv, State.lpt_inv, State.sendMsg_inv, Res.Inv]

theorem mwBody_inv (h : s.Inv) (a d : BitVec 5) (t : Strand) : (mwBody a d t s).Inv := by
  unfold mwBody
  grind [State.putMe_inv, Res.Inv]

theorem mrelBody_inv (h : s.Inv) (t : Strand) : (mrelBody t s).Inv := by
  unfold mrelBody
  grind [State.putMe_inv, Res.Inv]

theorem State.push_inv (h : s.Inv) (c : Nat) (r : Rec) : (s.push c r).Inv := h

theorem State.pushOrHold_inv (h : s.Inv) (c : Nat) (r : Rec) : (s.pushOrHold c r).Inv := by
  unfold State.pushOrHold
  grind [State.putCore_inv, State.push_inv]

theorem dqputBody_inv (h : s.Inv) (a : BitVec 5) (t : Strand) : (dqputBody a t s).Inv := by
  unfold dqputBody
  grind [State.push_inv, State.sent_inv, Res.Inv]

theorem dqtakeBody_inv (h : s.Inv) (b d : BitVec 5) (t : Strand) : (dqtakeBody b d t s).Inv := by
  unfold dqtakeBody
  grind [State.putMe_inv, State.consumed_inv, State.putCore_inv, Res.Inv]

theorem State.launch_inv (h : s.Inv) (inlet : Bool) (vf job core predId : Nat) (body : Body) (anc : List Nat) :
    (s.launch inlet vf job core predId body anc).1.Inv := by
  have hn : ∀ (s : State) (n : Nat), s.Inv → (({ s with nextUid := n } : State).sent core job).Inv :=
    fun s n h => State.sent_inv (by exact h) ..
  have h1 : ∀ x, ((s.jobStart job).putJob job x).Inv := fun x => State.putJob_inv (State.jobStart_inv h ..) ..
  unfold State.launch
  split
  dsimp only
  split
  · exact hn _ _ (h1 _)
  · exact State.pushOrHold_inv (hn _ _ (h1 _)) ..

theorem launchBody_inv (h : s.Inv) (gang : Bool) (a b d : BitVec 5) (t : Strand) : (launchBody gang a b d t s).Inv := by
  unfold launchBody
  grind [State.launch_inv, State.modStrand_inv, regionRead_inv, Res.Inv, ExceptInv]

theorem triggerBody_inv (h : s.Inv) (t : Strand) : (triggerBody t s).Inv := by
  unfold triggerBody
  grind [State.putMe_inv, Res.Inv]

theorem State.startRing_inv (h : s.Inv) (k : Nat) : (s.startRing k).Inv := State.putHome_inv h ..

theorem State.pipeCount_inv (h : s.Inv) (k at_ : Nat) : (s.pipeCount k at_).Inv := by
  unfold State.pipeCount
  grind [State.putHome_inv, State.Inv]

theorem pipeWaitBody_inv (h : s.Inv) (producer : Bool) (h_ : BitVec 3) (d : BitVec 5) (t : Strand) :
    (pipeWaitBody producer h_ d t s).Inv := by
  unfold pipeWaitBody
  grind [State.parkMe_inv, State.putMe_inv, Res.Inv]

theorem padvBody_inv (h : s.Inv) (h_ : BitVec 3) (t : Strand) : (padvBody h_ t s).Inv := by
  unfold padvBody
  grind [State.pipeCount_inv, State.putMe_inv, State.wake_inv, Res.Inv]

/-! ### The operations of Machine/Tasks.lean -/

theorem State.takeRec_inv (h : s.Inv) (c n : Nat) : (s.takeRec c n).Inv := h

theorem execSplit_inv (h : s.Inv) (c : Nat) : OutInv (execSplit c s) := by
  unfold execSplit
  grind [State.takeRec_inv, State.push_inv, State.startSeries_inv, State.count_inv, OutInv]

theorem execLeafStrandStart_inv (h : s.Inv) (c : Nat) : OutInv (execLeafStrandStart c s) := by
  unfold execLeafStrandStart
  grind [State.place_inv, State.takeRec_inv, OutInv]

theorem execGangGroupPlacement_inv (h : s.Inv) (c : Nat) : OutInv (execGangGroupPlacement c s) := by
  unfold execGangGroupPlacement
  show State.Inv _
  split
  · exact h
  split
  · split
    · exact h
    split
    · exact State.putCore_inv h ..
    · refine foldl_inv (fun _ _ h => State.place_inv h ..) _ (State.inv_of_mem (foldl_inv (fun s w h => ?_) _ ?_) rfl)
      · split
        · exact h
        · exact State.startRing_inv h ..
      · exact State.putCore_inv (State.takeRec_inv h ..) ..
  · exact h

theorem State.footprint_inv (h : s.Inv) (t : Strand) (foot : Word64) (dst : Nat) : (s.footprint t foot dst).Inv := by
  unfold State.footprint
  grind [State.resolveFor_inv, State.askHost_inv, State.partyRead_inv, State.readLost_inv, State.putHome_inv, Foot.Inv,
    XRes.Inv, MemRes.Inv]

theorem State.startTask_inv (h : s.Inv) (c k : Nat) (r : Rec) (refused : Bool) : (s.startTask c k r refused).Inv := by
  unfold State.startTask
  grind [State.place_inv, State.footprint_inv, State.putCore_inv, Foot.Inv]

theorem execTaskStart_inv (h : s.Inv) (c : Nat) : OutInv (execTaskStart c s) := by
  unfold execTaskStart
  grind [State.startTask_inv, State.putCore_inv, State.takeRec_inv, OutInv]

theorem execDependantPush_inv (h : s.Inv) (n : Nat) : OutInv (execDependantPush n s) := by
  unfold execDependantPush
  grind [State.pushOrHold_inv, State.Inv, OutInv]

theorem State.descPage_inv (h : s.Inv) (vf job die va n : Nat) : (s.descPage vf job die va n).Inv := by
  unfold State.descPage
  grind [State.resolveFor_inv, State.askHost_inv, State.partyRead_inv, State.loseRequest_inv, Desc.Inv, XRes.Inv, MemRes.Inv]

theorem State.descRead_inv (h : s.Inv) (vf job va n : Nat) : (s.descRead vf job va n).Inv := by
  unfold State.descRead
  grind [State.descPage_inv, Desc.Inv]

theorem State.entryDone_inv (h : s.Inv) (vf i cause id : Nat) : (s.entryDone vf i cause id).Inv := h

theorem State.pushMade_inv (h : s.Inv) (r : Rec) : (s.pushMade r).Inv := by
  unfold State.pushMade
  grind [State.entryDone_inv, State.putPart_inv]

theorem State.acceptEntry_inv (h : s.Inv) (vf i : Nat) (gang : Bool) (ws : List Word64) : (s.acceptEntry vf i gang ws).Inv := by
  unfold State.acceptEntry
  grind [State.launch_inv, State.putPart_inv, State.entryDone_inv]

theorem execLaunchInletEntry_inv (h : s.Inv) (vf : Nat) : OutInv (execLaunchInletEntry vf s) := by
  unfold execLaunchInletEntry
  grind [State.putPart_inv, State.entryDone_inv, State.descRead_inv, State.acceptEntry_inv, OutInv, Desc.Inv]

theorem State.restore_inv (h : s.Inv) (u : Nat) (t : Strand) : (s.restore u t).Inv := by
  unfold State.restore
  grind [State.putHome_inv, State.clearPoison_inv, State.carryPoison_inv, State.putQuad_inv, State.putStrand_inv]

theorem State.restoreFirst_inv (h : s.Inv) (c : Nat) : (s.restoreFirst c).Inv := by
  unfold State.restoreFirst
  grind [State.restore_inv]

theorem State.restoreAll_inv (h : s.Inv) (cs : List Nat) : (s.restoreAll cs).Inv := by
  unfold State.restoreAll
  grind [State.restoreFirst_inv, @foldl_inv]

theorem execStrandRestore_inv (h : s.Inv) (c : Nat) : OutInv (execStrandRestore c s) := State.restoreFirst_inv h ..

theorem execDisplacement_inv (h : s.Inv) (c : Nat) : OutInv (execDisplacement c s) := by
  unfold execDisplacement
  grind [State.leaveSlot_inv, OutInv]

theorem execStealRequest_inv (h : s.Inv) (c : Nat) : OutInv (execStealRequest c s) := by
  unfold execStealRequest
  grind [State.lossEvent_inv, State.enterLoss_inv, State.putCore_inv, OutInv]

theorem execStealReply_inv (h : s.Inv) (c : Nat) : OutInv (execStealReply c s) := by
  unfold execStealReply
  grind [State.pushOrHold_inv, State.putCore_inv, OutInv]

theorem State.takeThief_inv (h : s.Inv) (job n : Nat) (cs : List Nat) : (s.takeThief job n cs).1.Inv := by
  induction cs generalizing s n with
  | nil => exact h
  | cons c r ih =>
    unfold State.takeThief
    grind [State.putCore_inv]

theorem State.sendToken_inv (h : s.Inv) (t : Token) (reqs : List Nat) : (s.sendToken t reqs).Inv := h

theorem State.takeToken_inv (h : s.Inv) (t : Token) : (s.takeToken t).Inv := by
  unfold State.takeToken
  grind [State.misroute_inv, State.sendToken_inv, State.askHost_inv, State.takeThief_inv, State.emit_inv, State.Inv]

theorem execLoadSummaryToken_inv (h : s.Inv) (t : Token) : OutInv (execLoadSummaryToken t s) := State.takeToken_inv h ..

/-! ### The operations of Machine/Fabric.lean -/

theorem State.dropPacket_inv (h : s.Inv) (p : Packet) : (s.dropPacket p).Inv := h

theorem State.putPacket_inv (h : s.Inv) (p : Packet) : (s.putPacket p).Inv := h

theorem State.enter_inv (h : s.Inv) (cls : PktClass) (job port src dst : Nat) (body : PktBody) :
    (s.enter cls job port src dst body).Inv := h

theorem State.takeRecords_inv (h : s.Inv) (port vf lpkg : Nat) (rs : List Rec) : (s.takeRecords port vf lpkg rs).Inv := by
  unfold State.takeRecords
  grind [State.enter_inv, State.jobStart_inv, State.misroute_inv, @foldl_inv]

theorem State.losePacket_inv (h : s.Inv) (p : Packet) (die : Nat) : (s.losePacket p die).Inv := by
  unfold State.losePacket
  grind [State.dropPacket_inv, State.putJob_inv, State.event_inv, State.Inv]

theorem State.flitSent_inv (h : s.Inv) (way : Nat) : (s.flitSent way).Inv := h

theorem State.sentAway_inv (h : s.Inv) (p : Packet) : (s.sentAway p).Inv := by
  unfold State.sentAway
  grind [State.Inv]

theorem execPacketHop_inv (h : s.Inv) (id : Nat) : OutInv (execPacketHop id s) := by
  unfold execPacketHop
  grind [State.losePacket_inv, State.putPacket_inv, State.flitSent_inv, State.emit_inv, State.sentAway_inv,
    State.dropPacket_inv, State.pushOrHold_inv, OutInv]

theorem State.turnAway_inv {s' : State} (h : s.Inv) {p : Packet} {m : Msg} (e : s.turnAway p m = some s') : s'.Inv := by
  unfold State.turnAway at e
  grind [State.losePacket_inv, State.misroute_inv, State.dropPacket_inv]

theorem State.noCredit_inv (h : s.Inv) (p : Packet) : (s.noCredit p).Inv := by
  unfold State.noCredit
  grind [State.putPacket_inv, State.putCore_inv]

theorem execMessageArrival_inv (h : s.Inv) (id : Nat) : OutInv (execMessageArrival id s) := by
  unfold execMessageArrival
  grind [→ State.turnAway_inv, State.noCredit_inv, State.putCore_inv, State.dropPacket_inv, OutInv]

theorem State.activate_inv (h : s.Inv) (c kind : Nat) : (s.activate c kind).Inv := by
  unfold State.activate
  grind [State.place_inv, State.putCore_inv]

theorem execEntryActivation_inv (h : s.Inv) (c : Nat) : OutInv (execEntryActivation c s) := State.activate_inv h ..

theorem execCodeActivation_inv (h : s.Inv) (c : Nat) : OutInv (execCodeActivation c s) := State.activate_inv h ..

theorem execCreditReturn_inv (h : s.Inv) (c : Nat) : OutInv (execCreditReturn c s) := h

theorem State.landingError_inv (h : s.Inv) (m : Msg) : (s.landingError m).Inv := State.event_inv h ..

theorem State.land_inv (h : s.Inv) (m : Msg) : (s.land m).Inv := by
  unfold State.land
  grind [State.acquire_inv, State.landingError_inv, State.putHome_inv, State.event_inv, State.setPoison_inv, @foldl_inv]

theorem execDataLanding_inv (h : s.Inv) (id : Nat) : OutInv (execDataLanding id s) := by
  unfold execDataLanding
  grind [→ State.turnAway_inv, State.noCredit_inv, State.consumed_inv, State.land_inv, State.dropPacket_inv, OutInv]

theorem State.countDown_inv {s' : State} (h : s.Inv) {m : Msg} {full : Bool} (e : s.countDown m full = some s') : s'.Inv := by
  unfold State.countDown at e
  grind [State.acquire_inv, State.event_inv, State.consumed_inv, State.putHome_inv, State.push_inv, State.sent_inv]

theorem execCountMessage_inv (h : s.Inv) (id : Nat) : OutInv (execCountMessage id s) := by
  unfold execCountMessage
  grind [→ State.turnAway_inv, State.noCredit_inv, → State.countDown_inv, State.dropPacket_inv, State.putCore_inv, OutInv]

theorem execHeldPush_inv (h : s.Inv) (c : Nat) : OutInv (execHeldPush c s) := by
  unfold execHeldPush
  grind [State.putCore_inv, State.pushMade_inv, State.push_inv, → State.countDown_inv, OutInv]

/-! ### The operations of Machine/Collect.lean -/

theorem State.putBarrier_inv (h : s.Inv) (b : Barrier) : (s.putBarrier b).Inv := h

theorem State.deliverResults_inv (h : s.Inv) (b : Barrier) (job : Nat) : (s.deliverResults b job).Inv := by
  unfold State.deliverResults
  grind [State.putHome_inv, State.event_inv, State.modStrand_inv, @foldl_inv]

theorem State.barrierStep_inv (h : s.Inv) (b : Barrier) : (s.barrierStep b).Inv := by
  unfold State.barrierStep
  grind [State.deliverResults_inv, State.putBarrier_inv, State.modStrand_inv, State.wake_inv, @foldl_inv]

theorem barsetBody_inv (h : s.Inv) (a b : BitVec 5) (d : BitVec 2) (t : Strand) : (barsetBody a b d t s).Inv := by
  unfold barsetBody
  grind [State.putMe_inv, State.putBarrier_inv, Res.Inv]

theorem State.contribution_inv (h : s.Inv) (t : Strand) (sc num : Nat) : (s.contribution t sc num).1.Inv := by
  unfold State.contribution
  grind [State.event_inv]

theorem bararrBody_inv (h : s.Inv) (d : BitVec 2) (t : Strand) : (bararrBody d t s).Inv := by
  unfold bararrBody
  grind [State.contribution_inv, State.putMe_inv, State.post_inv, Res.Inv]

theorem barwaitBody_inv (h : s.Inv) (d : BitVec 2) (t : Strand) : (barwaitBody d t s).Inv := by
  unfold barwaitBody
  grind [State.parkMe_inv, State.putMe_inv, State.acquire_inv, Res.Inv]

theorem barleaveBody_inv (h : s.Inv) (d : BitVec 2) (t : Strand) : (barleaveBody d t s).Inv := by
  unfold barleaveBody
  grind [State.leaveBarrier_inv, Res.Inv]

theorem State.leaveLost_inv (h : s.Inv) (t : Strand) (sc num : Nat) (named : Nat → Nat → Bool) :
    (s.leaveLost t sc num named).Inv := by
  unfold State.leaveLost
  grind [State.putBarrier_inv, State.post_inv, @foldl_inv]

theorem barleaveOBody_inv (h : s.Inv) (a b : BitVec 5) (t : Strand) : (barleaveOBody a b t s).Inv := by
  unfold barleaveOBody
  grind [State.leaveBarrier_inv, State.leaveLost_inv, @foldl_inv, Res.Inv]

theorem State.atHome_inv (h : s.Inv) (p : Packet) : (s.atHome p).Inv := by
  unfold State.atHome
  grind [State.dropPacket_inv, State.barrierStep_inv]

theorem execBarrierArrival_inv (h : s.Inv) (id : Nat) : OutInv (execBarrierArrival id s) := by
  unfold execBarrierArrival
  grind [State.atHome_inv, OutInv]

theorem execBarrierWithdrawal_inv (h : s.Inv) (id : Nat) : OutInv (execBarrierWithdrawal id s) := by
  unfold execBarrierWithdrawal
  grind [State.atHome_inv, OutInv]

theorem State.settleBarriers_inv (h : s.Inv) (u : Nat) : (s.settleBarriers u).Inv := by
  unfold State.settleBarriers
  grind [State.atHome_inv, @foldl_inv]

theorem qcountBody_inv (h : s.Inv) (a d : BitVec 5) (t : Strand) : (qcountBody a d t s).Inv := h

theorem qfixBody_inv (h : s.Inv) (a b : BitVec 5) (t : Strand) : (qfixBody a b t s).Inv := by
  unfold qfixBody
  grind [State.startSeries_inv, State.count_inv, Res.Inv]

theorem stillPark_inv (h : s.Inv) (w : Nat → Wait) (t : Strand) : (stillPark w t s).Inv := by
  unfold stillPark
  grind [State.parkMe_inv, State.startSeries_inv, State.consumed_inv, Res.Inv]

theorem stillBody_inv (h : s.Inv) (d : BitVec 5) (t : Strand) : (stillBody d t s).Inv := by
  unfold stillBody
  grind [stillPark_inv, Res.Inv]

theorem stillToBody_inv (h : s.Inv) (a d : BitVec 5) (t : Strand) : (stillToBody a d t s).Inv := by
  unfold stillToBody
  grind [stillPark_inv, Res.Inv]

theorem State.beginWave_inv (h : s.Inv) (job : Nat) (confined : Option Nat) : (s.beginWave job confined).Inv := h

theorem State.passWave_inv (h : s.Inv) (job : Nat) (w : Wave) : (s.passWave job w).Inv := by
  unfold State.passWave
  grind [State.putJob_inv]

theorem execStillWave_inv (h : s.Inv) (job : Nat) : OutInv (execStillWave job s) := by
  unfold execStillWave
  grind [State.passWave_inv, State.beginWave_inv, OutInv]

theorem execConfinedWave_inv (h : s.Inv) (job : Nat) : OutInv (execConfinedWave job s) := by
  unfold execConfinedWave
  grind [State.passWave_inv, State.askHost_inv, State.beginWave_inv, OutInv]

theorem State.stillReturn_inv (h : s.Inv) (u : Nat) (t : Strand) (d : Nat) (v : Word64) : (s.stillReturn u t d v).Inv := by
  unfold State.stillReturn
  grind [State.putStrand_inv, State.countMarked_inv, State.acquire_inv, State.sent_inv]

theorem execWaveOutcome_inv (h : s.Inv) (job : Nat) : OutInv (execWaveOutcome job s) := by
  unfold execWaveOutcome
  grind [State.askHost_inv, State.putJob_inv, State.event_inv, State.emit_inv, State.stillReturn_inv, @foldl_inv, OutInv]

theorem resampleBody_inv (h : s.Inv) (a b d : BitVec 5) (t : Strand) : (resampleBody a b d t s).Inv := by
  unfold resampleBody
  grind [State.parkMe_inv, Res.Inv]

theorem State.resampleDone_inv (h : s.Inv) (u : Nat) (t : Strand) (v : Word64) : (s.resampleDone u t v).Inv := h

theorem State.clone_inv (h : s.Inv) (src : Strand) (k idx : Nat) : (s.clone src k idx).Inv := by
  unfold State.clone
  grind [State.putStrand_inv, State.putHome_inv, State.sent_inv, State.Inv]

theorem State.surviveAll_inv (h : s.Inv) (idx : Nat) (ps : List ((Nat × Strand) × Nat)) : (s.surviveAll idx ps).Inv := by
  induction ps generalizing s idx with
  | nil => exact h
  | cons p r ih =>
    unfold State.surviveAll
    grind [State.resampleDone_inv]

theorem State.cloneAll_inv (h : s.Inv) (idx : Nat) (ps : List ((Nat × Strand) × Nat)) : (s.cloneAll idx ps).Inv := by
  induction ps generalizing s idx with
  | nil => exact h
  | cons p r ih => exact ih (foldl_inv (fun _ _ h => State.clone_inv h ..) _ h) _

theorem execResampleDecision_inv (h : s.Inv) (job uid : Nat) : OutInv (execResampleDecision job uid s) := by
  unfold execResampleDecision
  grind [State.putStrand_inv, State.resampleDone_inv, State.endStrand_inv, State.settleBarriers_inv, State.leaveAll_inv,
    State.cloneAll_inv, State.restoreAll_inv, State.surviveAll_inv, @foldl_inv, OutInv]

theorem execCloneReady_inv (h : s.Inv) (u : Nat) : OutInv (execCloneReady u s) := State.modStrand_inv h ..

/-! ### The operations of Machine/Fetch.lean -/

theorem State.codeLine_inv {p : State × Vec × BitVec 4} (h : s.Inv) {t : Strand} {tg : Target} (e : s.codeLine t tg = some p) :
    p.1.Inv := by
  unfold State.codeLine at e
  grind [State.hostHold_inv, State.wakeLine_inv, State.emit_inv]

theorem State.keepCode_inv (h : s.Inv) (q : Nat) (tg : Target) (d : Vec) : (s.keepCode q tg d).Inv := by
  unfold State.keepCode
  grind [State.putQuad_inv]

theorem State.fillCode_inv (h : s.Inv) (t : Strand) (tg : Target) : (s.fillCode t tg).Inv := by
  unfold State.fillCode
  grind [→ State.codeLine_inv, State.readLost_inv, State.keepCode_inv, CodeRes.Inv]

theorem fetch_inv (h : s.Inv) (u : Nat) (t : Strand) : (fetch s u t).Inv := by
  unfold fetch
  grind [State.resolveFor_inv, State.askHost_inv, State.fillCode_inv, Fetched.Inv, XRes.Inv, CodeRes.Inv]

/-! ### The operations of Machine/MemoryEvents.lean -/

theorem State.resume_inv (h : s.Inv) (u : Nat) (f : Strand → Strand) : (s.resume u f).Inv := State.modStrand_inv h ..

theorem execTranslationAnswer_inv (h : s.Inv) (u : Nat) : OutInv (execTranslationAnswer u s) := by
  unfold execTranslationAnswer
  grind [State.resume_inv, OutInv]

theorem State.fill_inv (h : s.Inv) (u : Nat) (t : Strand) (vline stamp : Nat) : (s.fill u t vline stamp).Inv := by
  unfold State.fill
  grind [State.resolveFor_inv, State.askHost_inv, State.resume_inv, State.readLost_inv, State.refreshForeign_inv,
    State.installBed_inv, XRes.Inv]

theorem execFillReturn_inv (h : s.Inv) (u : Nat) : OutInv (execFillReturn u s) := by
  unfold execFillReturn
  grind [State.fill_inv, OutInv]

theorem execStorePerformed_inv (h : s.Inv) (u : Nat) : OutInv (execStorePerformed u s) := by
  unfold execStorePerformed
  grind [State.askHost_inv, State.popStore_inv, State.performStore_inv, OutInv]

theorem State.agentWrite_inv (h : s.Inv) (vf pa : Nat) (bs : List Byte) : (s.agentWrite vf pa bs).Inv := by
  unfold State.agentWrite
  grind [State.devWrite_inv, State.event_inv]

theorem State.performOp_inv (h : s.Inv) (p : OpPacket) : (s.performOp p).Inv := by
  unfold State.performOp
  grind [State.emit_inv, State.agentWrite_inv, State.devWrite_inv]

theorem State.operate_inv (h : s.Inv) (p : OpPacket) : (s.operate p).Inv := by
  unfold State.operate
  grind [State.askHost_inv, State.performOp_inv, State.Inv]

theorem execOperationPacket_inv (h : s.Inv) (p : OpPacket) : OutInv (execOperationPacket p s) := by
  unfold execOperationPacket
  grind [State.misroute_inv, State.operate_inv, OutInv]

theorem execCuckooRecall_inv (h : s.Inv) (die : Nat) : OutInv (execCuckooRecall die s) := by
  unfold execCuckooRecall
  grind [State.askHost_inv, State.recallEntry_inv, State.wake_inv, State.Inv, OutInv]

theorem State.recallNow_inv (h : s.Inv) (die vf line : Nat) (hit : L1Line → Bool) (corrupt : List Nat) :
    (s.recallNow die vf line hit corrupt).Inv := by
  unfold State.recallNow
  extract_lets cs dirty bad s1 s2
  have h1 : s1.Inv := by
    unfold s1
    cases dirty.head? with
    | none => exact h
    | some l => exact State.writeBack_inv h l
  have h2 : s2.Inv := by
    unfold s2
    split
    · cases cs.head? with
      | none => exact h1
      | some l =>
        simp only [Option.elim]
        split
        · exact h1
        · exact State.setPoison_inv h1 ..
    · exact h1
  exact State.event_inv (by exact h2) ..

theorem State.fullRecall_inv (h : s.Inv) (die vf line : Nat) (quad : Option Nat) (corrupt : List Nat) :
    (s.fullRecall die vf line quad corrupt).Inv := by
  unfold State.fullRecall
  grind [State.askHost_inv, State.recallNow_inv, State.Inv]

theorem execDirectoryRecall_inv (h : s.Inv) (die vf line : Nat) (corrupt : List Nat) :
    OutInv (execDirectoryRecall die vf line corrupt s) := State.fullRecall_inv h ..

theorem execSleepWake_inv (h : s.Inv) (u : Nat) : OutInv (execSleepWake u s) := by
  unfold execSleepWake
  grind [State.modStrand_inv, OutInv]

theorem execWatchdog_inv (h : s.Inv) (u : Nat) : OutInv (execWatchdog u s) := by
  unfold execWatchdog
  grind [State.takeTrap_inv, OutInv]

theorem State.rewalk_inv (h : s.Inv) (who : Nat) (ws : List PageWait) (sel : PageWait → Bool) :
    (s.rewalk who ws sel).1.Inv := by
  refine List.foldlRecOn (motive := fun acc : State × List PageWait × List Nat => acc.1.Inv) _ _ (by exact h)
    fun acc ha w _ => ?_
  grind [State.resolveFor_inv, XRes.Inv]

theorem State.dropPage_inv (h : s.Inv) (q vf page : Nat) : (s.dropPage q vf page).Inv := by
  unfold State.dropPage
  grind [State.putQuad_inv, State.Inv]

theorem State.strandAnswer_inv (h : s.Inv) (u : Nat) (t : Strand) (sel : PageWait → Bool) (refuse : Bool) :
    (s.strandAnswer u t sel refuse).Inv := by
  unfold State.strandAnswer
  grind [State.resume_inv, State.dropPage_inv, State.rewalk_inv, State.modStrand_inv, @foldl_inv, State.Inv]

theorem State.engineAnswer_inv (h : s.Inv) (q : Nat) (ws : List PageWait) (sel : PageWait → Bool) (refuse : Bool) :
    (s.engineAnswer q ws sel refuse).1.Inv := by
  unfold State.engineAnswer
  grind [State.dropPage_inv, State.rewalk_inv, @foldl_inv, State.Inv]

theorem State.copyAnswer_inv (h : s.Inv) (q : Nat) (sel : PageWait → Bool) (refuse : Bool) :
    (s.copyAnswer q sel refuse).Inv := by
  unfold State.copyAnswer
  grind [State.engineAnswer_inv, State.putCopy_inv, @foldl_inv]

theorem State.footAnswer_inv (h : s.Inv) (sel : PageWait → Bool) (refuse : Bool) : (s.footAnswer sel refuse).Inv := by
  unfold State.footAnswer
  grind [State.engineAnswer_inv, State.startTask_inv, State.putCore_inv, @foldl_inv]

theorem State.inletAnswer_inv (h : s.Inv) (sel : PageWait → Bool) (refuse : Bool) : (s.inletAnswer sel refuse).Inv := by
  unfold State.inletAnswer
  grind [State.rewalk_inv, State.putPart_inv, State.entryDone_inv, @foldl_inv]

theorem State.answerWaits_inv (h : s.Inv) (sel : PageWait → Bool) (refuse : Bool) : (s.answerWaits sel refuse).Inv := by
  unfold State.answerWaits
  grind [State.strandAnswer_inv, State.copyAnswer_inv, State.inletAnswer_inv, State.footAnswer_inv, @foldl_inv]

theorem State.answerPage_inv (h : s.Inv) (r : PageReq) (refuse : Bool) : (s.answerPage r refuse).Inv :=
  State.answerWaits_inv (by exact h) ..

theorem State.hostWalks_inv (h : s.Inv) : s.hostWalks.Inv := by
  unfold State.hostWalks
  grind [State.rewalk_inv, State.answerWaits_inv, State.Inv]

theorem execPrqreply_inv (h : s.Inv) (fn : Option Nat) (v : Word64) : OutInv (execPrqreply fn v s) := by
  unfold execPrqreply
  grind [State.answerPage_inv, OutInv]

theorem execPrqreplyRefuse_inv (h : s.Inv) (fn : Option Nat) (v : Word64) : OutInv (execPrqreplyRefuse fn v s) := by
  unfold execPrqreplyRefuse
  grind [State.answerPage_inv, OutInv]

theorem execPrqidxWrite_inv (h : s.Inv) (fn : Option Nat) (v : Word64) : OutInv (execPrqidxWrite fn v s) := by
  unfold execPrqidxWrite
  grind [State.postRing_inv, State.putPart_inv, State.Inv, OutInv]

theorem State.loseStore_inv (h : s.Inv) (u : Nat) (t : Strand) : (s.loseStore u t).Inv := by
  unfold State.loseStore
  grind [State.popStore_inv, State.reportLost_inv, State.performStore_inv]

theorem execRequestTimeout_inv (h : s.Inv) (u : Nat) : OutInv (execRequestTimeout u s) := by
  unfold execRequestTimeout
  grind [State.resume_inv, State.loseStore_inv, State.modStrand_inv, OutInv]

theorem execBankRetentionSleep_inv (h : s.Inv) (q bank : Nat) : OutInv (execBankRetentionSleep q bank s) := by
  unfold execBankRetentionSleep
  grind [State.putQuad_inv, OutInv]

theorem State.corrected_inv (h : s.Inv) (die structure_ addr : Nat) : (s.corrected die structure_ addr).Inv := by
  unfold State.corrected
  grind [State.putDie_inv, State.event_inv]

theorem State.errorAt_inv (h : s.Inv) (g : Nat) : (s.errorAt g).Inv := by
  unfold State.errorAt
  grind [State.setPoison_inv, State.putQuad_inv, State.putCore_inv, State.fullRecall_inv, State.Inv]

theorem execPatrolScrub_inv (h : s.Inv) (g : Nat) (bad : Bool) : OutInv (execPatrolScrub g bad s) := by
  unfold execPatrolScrub
  grind [State.errorAt_inv, State.corrected_inv, State.event_inv, OutInv]

/-! ### The operations of Machine/Management.lean -/

theorem State.clearQuad_inv (h : s.Inv) (vf q : Nat) : (s.clearQuad vf q).Inv := by
  unfold State.clearQuad
  grind [State.purgeBed_inv, State.zeroKeys_inv, State.putCore_inv, State.putQuad_inv, @foldl_inv]

theorem State.resizeEvent_inv (h : s.Inv) (vf : Nat) : (s.resizeEvent vf).Inv := by
  have h1 : ∀ x, ((s.putPart vf x).emit (.irq (some vf) 2)).Inv := fun x => h
  unfold State.resizeEvent
  extract_lets p old new s1
  split
  · exact State.post_inv (State.sent_inv (h1 _) ..) ..
  · exact h1 _

theorem State.relocate_inv (h : s.Inv) (vf : Nat) : (s.relocate vf).Inv :=
  State.inv_of_mem (foldl_inv (fun _ _ h => State.count_inv (State.count_inv h ..) ..) _ h) rfl

theorem execResize_inv (h : s.Inv) (vf : Nat) : OutInv (execResize vf s) := by
  unfold execResize
  show State.Inv _
  split
  · exact h
  next r _ =>
  refine State.resizeEvent_inv (State.relocate_inv (foldl_inv (fun s c h => ?_) _ ?_) _) _
  · split
    · exact State.putCore_inv h ..
    · exact h
  · have hq : State.Inv ((s.leavingQuads r).foldl (fun s q => s.clearQuad vf q) s) :=
      foldl_inv (fun _ _ h => State.clearQuad_inv h ..) _ h
    split
    · exact State.setSkip_inv (by exact hq) ..
    · exact State.putPart_inv (by exact hq) ..

theorem State.boxDone_inv (h : s.Inv) (code : Nat) : (s.boxDone code).Inv := h

theorem State.boxResult_inv (h : s.Inv) (ws : List Word64) : (s.boxResult ws).Inv := h

theorem State.command_inv (h : s.Inv) (op : Nat) {f : State → State} (hf : ∀ s : State, s.Inv → (f s).Inv) :
    OutInv (s.command op f) := by
  unfold State.command
  grind [OutInv]

theorem execPreEmpt_inv (h : s.Inv) : OutInv (execPreEmpt s) := by
  unfold execPreEmpt
  grind [State.command_inv, State.boxDone_inv, State.putCore_inv, @foldl_inv, State.Inv]

theorem State.abandonWait_inv (h : s.Inv) (t : Strand) : (s.abandonWait t).Inv := by
  unfold State.abandonWait
  grind [State.sent_inv, State.countMarked_inv]

theorem State.delivered_inv (h : s.Inv) (u : Nat) (t : Strand) (v : Nat) : (s.delivered u t v).Inv := State.takeTrap_inv h ..

theorem State.noteRefusal_inv {now : State} (h : now.Inv) (s : State) (vf d va job unit_ : Nat) :
    (s.noteRefusal now vf d va job unit_).Inv := by
  unfold State.noteRefusal
  grind [State.event_inv]

theorem execPreEmptDelivery_inv (h : s.Inv) (u : Nat) : OutInv (execPreEmptDelivery u s) := by
  unfold execPreEmptDelivery
  show State.Inv _
  split
  · next t x _ _ =>
    split
    · exact h
    split
    · exact State.restore_inv (State.abandonWait_inv h t) ..
    · next k _ =>
      extract_lets s1 pos f parked no hold
      clear_value f pos
      have h1 : s1.Inv := State.abandonWait_inv (s := { s with cur := u }) h t
      have hno : ∀ now : State, now.Inv → (no now).Inv := fun now h => by
        unfold no
        refine State.delivered_inv ?_ ..
        exact State.noteRefusal_inv h s1 ..
      have hr := resolve_inv h1 t.vf 1 (dieOf t.core) f .write
      clear_value no s1
      split
      · exact hno _ h1
      split
      · next e =>
        rw [e] at hr
        split
        · exact State.putStrand_inv (State.askHost_inv hr ..) ..
        · exact State.delivered_inv (State.partyStore_inv hr ..) ..
      · next e => rw [e] at hr; exact hno _ hr
      · next e => rw [e] at hr; exact State.putStrand_inv hr ..
      · next e => rw [e] at hr; exact State.faultPark_inv hr ..
  · exact h

theorem State.pagesWait_inv {s' : State} (h : s.Inv) {vf die va n : Nat} (e : s.pagesWait vf die va n = some s') : s'.Inv := by
  obtain ⟨i, _, hi⟩ := List.exists_of_findSome?_eq_some e
  grind [State.resolveFor_inv, State.askHost_inv, XRes.Inv, Option.map_eq_some_iff]

theorem State.imageWrite_inv (h : s.Inv) (vf c va : Nat) (tg : Target) (bs : List Byte) : (s.imageWrite vf c va tg bs).Inv :=
  State.partyStore_inv h ..

theorem State.writePages_inv (h : s.Inv) (vf c va : Nat) (bs : List Byte) (fuel : Nat) :
    (s.writePages vf c va bs fuel).Inv := by
  induction fuel generalizing s va bs with
  | zero => exact h
  | succ fuel ih =>
    unfold State.writePages
    split
    · exact h
    · refine ih ?_ _ _
      dsimp only
      grind [State.resolveFor_inv, State.imageWrite_inv, State.noteRefusal_inv, XRes.Inv]

theorem execQueueImage_inv (h : s.Inv) (c : Nat) : OutInv (execQueueImage c s) := by
  unfold execQueueImage
  split
  · exact h
  next x _ =>
  show State.Inv (if _ then _ else _)
  split
  · exact h
  show State.Inv (match s.pagesWait x.vf (dieOf c) _ _ with | some w => w | none => _)
  split
  · next e => exact State.pagesWait_inv h e
  · exact foldl_inv (fun _ r h => State.pushMade_inv h r) _ (State.putCore_inv (State.writePages_inv h ..) ..)

theorem execPreEmptComplete_inv (h : s.Inv) : OutInv (execPreEmptComplete s) := by
  unfold execPreEmptComplete
  show State.Inv _
  split
  · exact h
  split
  · exact h
  · exact State.boxDone_inv (State.inv_of_mem (foldl_inv (fun _ _ h => State.putCore_inv h ..) _ h) rfl) 0

theorem State.writeGuar_inv (h : s.Inv) (vf : Nat) (v : Word64) : (s.writeGuar vf v).Inv := by
  unfold State.writeGuar
  grind [State.noteReclaim_inv, State.putPart_inv]

theorem State.writeBurst_inv (h : s.Inv) (vf : Nat) (v : Word64) : (s.writeBurst vf v).Inv := by
  unfold State.writeBurst
  grind [State.putPart_inv]

theorem State.writeJob_inv (h : s.Inv) (pf : Bool) (vf j : Nat) (v : Word64) : (s.writeJob pf vf j v).Inv := by
  unfold State.writeJob
  grind [State.putJob_inv, State.putPart_inv]

theorem State.dropLpt_inv (h : s.Inv) (v : Word64) : (s.dropLpt v).Inv := by
  unfold State.dropLpt
  grind [State.Inv]

theorem execGuarWrite_inv (h : s.Inv) (vf : Nat) (v : Word64) : OutInv (execGuarWrite vf v s) := State.writeGuar_inv h ..

theorem execBurstWrite_inv (h : s.Inv) (vf : Nat) (v : Word64) : OutInv (execBurstWrite vf v s) := State.writeBurst_inv h ..

theorem execJobEntryWrite_inv (h : s.Inv) (pf : Bool) (vf j : Nat) (v : Word64) : OutInv (execJobEntryWrite pf vf j v s) :=
  State.writeJob_inv h ..

theorem State.lptinvWrite_inv (h : s.Inv) (v : Word64) : (s.lptinvWrite v).Inv := by
  unfold State.lptinvWrite
  grind [State.askHost_inv, State.dropLpt_inv, State.Inv]

theorem execLptinv_inv (h : s.Inv) (v : Word64) : OutInv (execLptinv v s) := State.lptinvWrite_inv h ..

theorem State.biasRequest_inv (h : s.Inv) (v : Word64) : (s.biasRequest v).Inv := by
  unfold State.biasRequest
  grind [State.askHost_inv, @foldl_inv, State.Inv]

theorem State.mailWrite_inv (h : s.Inv) (v : Word64) : (s.mailWrite v).Inv := by
  unfold State.mailWrite
  grind [State.boxDone_inv, State.Inv]

theorem State.blockWrite_inv (h : s.Inv) (pf : Bool) (vf r : Nat) (v : Word64) : (s.blockWrite pf vf r v).Inv := by
  have hp : ∀ x, (s.putPart vf x).Inv := fun x => State.putPart_inv h ..
  have hi : ∀ {c : Prop} [Decidable c] {a b : State}, a.Inv → b.Inv → (if c then a else b).Inv := fun ha hb => by
    split
    · exact ha
    · exact hb
  refine hi (hi (State.writePart_inv h ..) h) <| hi (hp _) <| hi (hi (State.writeGuar_inv h ..) h) <|
    hi (hi (State.writeBurst_inv h ..) h) <| hi (hp _) <| hi (hp _) <| hi (State.postRing_inv (hp _) ..) <| hi ?_ <| hi (hp _) <|
    hi (hp _) <| hi (hi (hp _) h) <| hi (hi (hp _) h) <| hi (State.writeJob_inv h ..) <| hi (hp _) h
  dsimp only
  split
  · exact State.answerPage_inv (hp _) ..
  · exact hp _

theorem State.regWrite_inv (h : s.Inv) (fn : Option Nat) (off : Nat) (v : Word64) : (s.regWrite fn off v).Inv := by
  unfold State.regWrite
  grind [State.blockWrite_inv, State.putPart_inv, State.postRing_inv, State.answerPage_inv, State.lptinvWrite_inv,
    State.biasRequest_inv, State.mailWrite_inv, State.Inv]

theorem State.keepHigh_inv (h : s.Inv) (fn : Option Nat) (off : Nat) (v : Word64) : (s.keepHigh fn off v).Inv := by
  unfold State.keepHigh
  grind [State.putPart_inv, State.Inv]

theorem execMmioWrite_inv (h : s.Inv) (fn : Option Nat) (off width : Nat) (v : Word64) :
    OutInv (execMmioWrite fn off width v s) := by
  unfold execMmioWrite
  grind [State.emit_inv, State.regWrite_inv, State.keepHigh_inv, OutInv]

theorem State.clearIgn_inv (h : s.Inv) (fn : Option Nat) (off : Nat) : (s.clearIgn fn off).Inv := by
  unfold State.clearIgn
  grind [State.Inv]

theorem State.mmioRead_inv (h : s.Inv) (fn : Option Nat) (off n : Nat) : (s.mmioRead fn off n).Inv := by
  unfold State.mmioRead
  grind [State.emit_inv, State.clearIgn_inv]

theorem execSetReductionEntry_inv (h : s.Inv) : OutInv (execSetReductionEntry s) := by
  unfold execSetReductionEntry
  grind [State.command_inv, State.boxDone_inv, State.putJob_inv]

theorem State.fatalEvent_inv (h : s.Inv) (die : Nat) : (s.fatalEvent die).Inv := by
  unfold State.fatalEvent
  grind [State.event_inv, State.putDie_inv]

theorem State.breakGroups_inv (h : s.Inv) (die : Nat) : (s.breakGroups die).Inv := h

theorem State.dropDie_inv (h : s.Inv) (die : Nat) : (s.dropDie die).Inv := h

theorem State.fence_inv (h : s.Inv) (die : Nat) (fatal : Bool) : (s.fence die fatal).Inv := by
  unfold State.fence
  grind [State.event_inv, State.putDie_inv, State.breakGroups_inv, State.pushMade_inv, State.dropDie_inv, @foldl_inv, State.Inv]

theorem execFenceDie_inv (h : s.Inv) : OutInv (execFenceDie s) := by
  unfold execFenceDie
  grind [State.command_inv, State.boxDone_inv, State.fence_inv]

theorem State.fatal_inv (h : s.Inv) (die : Nat) : (s.fatal die).Inv := by
  unfold State.fatal
  grind [State.fatalEvent_inv, State.fence_inv, State.emit_inv, State.putDie_inv]

theorem execFatalError_inv (h : s.Inv) (die structure_ : Nat) : OutInv (execFatalError die structure_ s) := by
  unfold execFatalError
  grind [State.fatal_inv, OutInv]

theorem execRailUndervoltage_inv (h : s.Inv) (rail : Rail) : OutInv (execRailUndervoltage rail s) := by
  unfold execRailUndervoltage
  grind [State.fatal_inv, @foldl_inv, OutInv]

theorem execThermalTrip_inv (h : s.Inv) (die : Nat) : OutInv (execThermalTrip die s) := State.fatal_inv h ..

theorem State.linkEvent_inv (h : s.Inv) (link : Nat) : (s.linkEvent link).Inv := by
  unfold State.linkEvent
  grind [State.event_inv, @foldl_inv]

theorem execDegradeLanes_inv (h : s.Inv) : OutInv (execDegradeLanes s) := by
  unfold execDegradeLanes
  grind [State.command_inv, State.boxDone_inv, State.Inv]

theorem execRetrainComplete_inv (h : s.Inv) (link : Nat) : OutInv (execRetrainComplete link s) := by
  unfold execRetrainComplete
  grind [State.linkEvent_inv, State.boxDone_inv, State.Inv, OutInv]

theorem execFrameCopy_inv (h : s.Inv) : OutInv (execFrameCopy s) := by
  refine State.command_inv h 5 fun s h => ?_
  obtain ⟨size, hsize⟩ : ∃ n, 65536 = n := ⟨_, rfl⟩
  rw [hsize]
  extract_lets a b inA gone s1 s2 bs bad s3
  split
  · exact State.boxDone_inv h _
  split
  · exact State.boxDone_inv h _
  split
  · exact State.askHost_inv h ..
  · exact State.askHost_inv h ..
  · have h1 : s1.Inv := foldl_inv (fun s' l hs => by
      split
      · exact State.poisonBy_inv (State.putHome_inv hs ..) ..
      · exact hs) _ h
    exact State.boxDone_inv (s := { s3 with poison := _ }) (State.putHome_inv (s := s2) h1 b bs) 0

theorem execCountRebase_inv (h : s.Inv) : OutInv (execCountRebase s) := by
  unfold execCountRebase
  grind [State.command_inv, State.boxDone_inv, State.putJob_inv, State.Inv]

theorem execExtendMeasurementSlot_inv (h : s.Inv) : OutInv (execExtendMeasurementSlot s) := by
  unfold execExtendMeasurementSlot
  grind [State.command_inv, State.boxDone_inv, State.putPart_inv]

theorem execReadBlackBox_inv (h : s.Inv) : OutInv (execReadBlackBox s) := by
  unfold execReadBlackBox
  grind [State.command_inv, State.boxDone_inv, State.putDie_inv, State.boxResult_inv]

theorem execLoadFirmware_inv (h : s.Inv) : OutInv (execLoadFirmware s) := by
  unfold execLoadFirmware
  grind [State.command_inv, State.boxDone_inv, State.askHost_inv, State.event_inv, State.Inv]

theorem execReadCounters_inv (h : s.Inv) : OutInv (execReadCounters s) := by
  unfold execReadCounters
  grind [State.command_inv, State.boxDone_inv, State.boxResult_inv]

theorem State.spdm_inv (h : s.Inv) (fn : Option Nat) (code : Nat) (content : List Byte) : (s.spdm fn code content).Inv := h

theorem execGetVersion_inv (h : s.Inv) (fn : Option Nat) : OutInv (execGetVersion fn s) := h

theorem execGetCapabilities_inv (h : s.Inv) (fn : Option Nat) : OutInv (execGetCapabilities fn s) := h

theorem execNegotiateAlgorithms_inv (h : s.Inv) (fn : Option Nat) : OutInv (execNegotiateAlgorithms fn s) := h

theorem execGetDigests_inv (h : s.Inv) (fn : Option Nat) : OutInv (execGetDigests fn s) := h

theorem execGetCertificate_inv (h : s.Inv) (fn : Option Nat) : OutInv (execGetCertificate fn s) := h

theorem execChallenge_inv (h : s.Inv) (fn : Option Nat) (nonce : List Byte) : OutInv (execChallenge fn nonce s) := h

theorem execGetMeasurements_inv (h : s.Inv) (fn : Option Nat) (part : Nat) : OutInv (execGetMeasurements fn part s) := h

theorem execKeyExchange_inv (h : s.Inv) (fn : Option Nat) (body : List Byte) : OutInv (execKeyExchange fn body s) := by
  unfold execKeyExchange
  grind [State.spdm_inv, State.Inv, OutInv]

theorem execCxlIdeKm_inv (h : s.Inv) (fn : Option Nat) (key : List Byte) : OutInv (execCxlIdeKm fn key s) := by
  unfold execCxlIdeKm
  grind [State.spdm_inv, State.Inv, OutInv]

theorem execIdeCheckFailure_inv (h : s.Inv) : OutInv (execIdeCheckFailure s) := by
  unfold execIdeCheckFailure
  grind [State.linkEvent_inv, State.Inv, OutInv]

theorem State.trainHost_inv (h : s.Inv) (cxl : Bool) : (s.trainHost cxl).Inv := State.linkEvent_inv (by exact h) ..

theorem execCxlLinkRetrain_inv (h : s.Inv) : OutInv (execCxlLinkRetrain s) := State.trainHost_inv h ..

theorem execBadFlit_inv (h : s.Inv) (flit : Nat) : OutInv (execBadFlit flit s) := h

theorem execLinkDown_inv (h : s.Inv) (link : Nat) : OutInv (execLinkDown link s) := by
  unfold execLinkDown
  grind [State.linkEvent_inv, State.losePacket_inv, @foldl_inv, State.Inv, OutInv]

theorem State.resetPackage_inv (h : s.Inv) : s.resetPackage.Inv := Memory.filter_wf h _

theorem execPackageReset_inv (h : s.Inv) : OutInv (execPackageReset s) := State.resetPackage_inv h ..

theorem execPrst_inv (h : s.Inv) (v : Word64) : OutInv (execPrst v s) := by
  unfold execPrst
  grind [State.resetPackage_inv, OutInv]

theorem execColdReset_inv (h : s.Inv) : OutInv (execColdReset s) := Memory.filter_wf h _

theorem State.trainLanes_inv (h : s.Inv) (mine : Nat → Bool) : (s.trainLanes mine).Inv := by
  unfold State.trainLanes
  grind [State.linkEvent_inv, @foldl_inv, State.Inv]

theorem State.stageDone_inv (h : s.Inv) (n : Nat) : (s.stageDone n).Inv := by
  unfold State.stageDone
  split
  · exact h
  · exact Memory.filter_wf h _
  · exact State.trainLanes_inv (foldl_inv (fun _ _ h => State.event_inv (State.fence_inv h ..) ..) _ h) _
  · exact State.trainLanes_inv h _
  · exact h
  · exact h

theorem execBringUp_inv (h : s.Inv) : OutInv (execBringUp s) := by
  unfold execBringUp
  grind [State.stageDone_inv, State.Inv, OutInv]

theorem execBpwrRead_inv (h : s.Inv) : OutInv (execBpwrRead s) := h

theorem execConfigurationRequest_inv (h : s.Inv) : OutInv (execConfigurationRequest s) := h

/-! ### The operations of Machine/HostMemory.lean -/

theorem State.filterInsert_inv (h : s.Inv) (line : Nat) : (s.filterInsert line).1.Inv := by
  unfold State.filterInsert
  grind [State.askHost_inv, State.Inv]

theorem State.hostAccess_inv (h : s.Inv) (pa : Nat) : (s.hostAccess pa).1.Inv := by
  unfold State.hostAccess
  grind [State.filterInsert_inv, State.biasRequest_inv]

theorem State.hostRead_inv (h : s.Inv) (hpa n : Nat) : (s.hostRead hpa n).Inv := by
  unfold State.hostRead
  grind [State.emit_inv, State.hostAccess_inv, State.Inv]

theorem State.hostWrite_inv (h : s.Inv) (hpa : Nat) (data : List Byte) : (s.hostWrite hpa data).Inv := by
  unfold State.hostWrite
  grind [State.emit_inv, State.hostAccess_inv, State.agentWrite_inv, State.Inv]

theorem State.serveHost_inv (h : s.Inv) : s.serveHost.Inv := by
  unfold State.serveHost
  grind [State.hostRead_inv, State.hostWrite_inv, State.hostWalks_inv, State.operate_inv, @foldl_inv, State.Inv]

theorem execBiasFlipToHost_inv (h : s.Inv) (v : Word64) : OutInv (execBiasFlipToHost v s) := State.biasRequest_inv h ..

theorem execBiasFlipToDevice_inv (h : s.Inv) (v : Word64) : OutInv (execBiasFlipToDevice v s) := State.biasRequest_inv h ..

theorem State.flushLine_inv (h : s.Inv) (pa : Nat) : (s.flushLine pa).Inv := by
  refine State.inv_of_mem (foldl_inv (fun s' l hs => ?_) _ h) rfl
  grind [State.poisonBy_inv, State.putHome_inv]

theorem State.flipEnd_inv (h : s.Inv) (f : Flip) : (s.flipEnd f).Inv := by
  unfold State.flipEnd
  grind [State.serveHost_inv, State.postRings_inv, State.wake_inv, State.Inv]

theorem execBiasFlipComplete_inv (h : s.Inv) : OutInv (execBiasFlipComplete s) := by
  unfold execBiasFlipComplete
  grind [State.flipEnd_inv, State.flushLine_inv, State.serveHost_inv, State.Inv, OutInv]

theorem execBiasstatRead_inv (h : s.Inv) : OutInv (execBiasstatRead s) := h

theorem execHostHdmRead_inv (h : s.Inv) (hpa n : Nat) : OutInv (execHostHdmRead hpa n s) := State.hostRead_inv h ..

theorem execHostHdmWrite_inv (h : s.Inv) (hpa : Nat) (data : List Byte) : OutInv (execHostHdmWrite hpa data s) :=
  State.hostWrite_inv h ..

theorem State.mapHostLine_inv (h : s.Inv) (line : Nat) (f : BedLine → Option BedLine) : (s.mapHostLine line f).Inv := h

theorem State.snoopAnswer_inv (h : s.Inv) (line : Nat) : (s.snoopAnswer line).Inv := by
  unfold State.snoopAnswer
  grind [State.emit_inv]

theorem State.snoopOut_inv (h : s.Inv) (line : Nat) : (s.snoopOut line).Inv := by
  unfold State.snoopOut
  grind [State.snoopAnswer_inv, State.poisonBy_inv, State.putHome_inv]

theorem execSnpinv_inv (h : s.Inv) (line : Nat) (after : List Byte) : OutInv (execSnpinv line after s) := by
  unfold execSnpinv
  grind [State.mapHostLine_inv, State.snoopOut_inv, State.putHome_inv, OutInv]

theorem execSnpdata_inv (h : s.Inv) (line : Nat) : OutInv (execSnpdata line s) :=
  State.mapHostLine_inv (State.snoopOut_inv h ..) ..

theorem execSnpcur_inv (h : s.Inv) (line : Nat) : OutInv (execSnpcur line s) := State.snoopAnswer_inv h ..

theorem execBisnpResponse_inv (h : s.Inv) (line : Nat) (dirty : List Byte) : OutInv (execBisnpResponse line dirty s) := by
  unfold execBisnpResponse
  grind [State.putHome_inv, State.serveHost_inv, State.postRings_inv, State.wake_inv, State.Inv, OutInv]

theorem State.loseCopyRequest_inv (h : s.Inv) (q : Nat) (write : Bool) : (s.loseCopyRequest q write).Inv := by
  unfold State.loseCopyRequest
  grind [State.copyElem_inv, State.putCopy_inv, State.copyLost_inv, ElemRes.Inv]

theorem State.podMessage_inv (h : s.Inv) (port : Nat) (m : Msg) : (s.podMessage port m).Inv := by
  unfold State.podMessage
  grind [State.jobStart_inv, State.enter_inv]

theorem State.outsideStep_inv (h : s.Inv) (o : Outside) : (s.outsideStep o).Inv := by
  unfold State.outsideStep
  grind [State.mmioRead_inv, State.trainHost_inv, State.podMessage_inv, State.takeRecords_inv, State.lptinvWrite_inv,
    State.fullRecall_inv, State.takeToken_inv, State.loseCopyRequest_inv, State.emit_inv, State.Inv]

/-! ### The operations of Machine/TarnInstr.lean -/

theorem execMatrixCompletion_inv (h : s.Inv) (u : Nat) : OutInv (execMatrixCompletion u s) := by
  unfold execMatrixCompletion
  grind [State.completeOp_inv, OutInv]

theorem execVectorCompletion_inv (h : s.Inv) (u : Nat) : OutInv (execVectorCompletion u s) := by
  unfold execVectorCompletion
  grind [State.putStrand_inv, OutInv]

theorem execDrainComplete_inv (h : s.Inv) (q n : Nat) : OutInv (execDrainComplete q n s) := by
  unfold execDrainComplete
  grind [State.freeName_inv, OutInv]

theorem execAStreamArrival_inv (h : s.Inv) (q : Nat) : OutInv (execAStreamArrival q s) := by
  unfold execAStreamArrival
  grind [State.wake_inv, State.putQuad_inv, OutInv]

/-! ### The operations of Machine/Step.lean -/

theorem State.settle_inv (h : s.Inv) (u : Nat) (t : Strand) (stays : Bool) : (s.settle u t stays).Inv := by
  unfold State.settle
  grind [State.modStrand_inv, State.putCore_inv]

theorem onNext_inv {f : State → State} (hf : ∀ s : State, s.Inv → (f s).Inv) {o : Host.Outcome State Fault Refusal}
    (h : OutInv o) :
    OutInv (onNext f o) := by
  cases o with
  | next s => exact hf s h
  | fault r => trivial
  | refused r => trivial

/-! ### The rows and the step -/

theorem exec_of_wordBody {i : Instr} {g : Gate} {f : Strand → State → Res} (hb : wordBody i = some (g, f)) (s : State) :
    exec i s = runWord g f s := by
  cases i <;> cases hb <;> rfl

theorem wordBody_inv (h : s.Inv) {i : Instr} {g : Gate} {f : Strand → State → Res} (hb : wordBody i = some (g, f))
    (t : Strand) :
    (f t s).Inv := by
  cases i <;> cases hb
  case add | sub | and | or | xor | slt | sltz | sll | srl | sra | rol | ror | addS32 | addZ32 | subS32 | subZ32 | sllS32 |
      sllZ32 | srlS32 | srlZ32 | sraS32 | sraZ32 | rolS32 | rolZ32 | rorS32 | rorZ32 | addi | andi | ori | xori | slti | sltiz
      | slli | srli | srai | rori | slliS32 | slliZ32 | srliS32 | srliZ32 | sraiS32 | sraiZ32 | roriS32 | roriZ32 | lih | mul
      | mulhiS64 | mulhiZ64 | mulhm | quoS64 | quoZ64 | rmdS64 | rmdZ64 | mulS32 | mulZ32 | quoS32 | quoZ32 | rmdS32 | rmdZ32
      | mad | msb | lzc | tzc | ones | bswap | bitrev | minS64 | maxS64 | minZ64 | maxZ64 | andnot | ornot | sel | extS8 |
      extS16 | extS32 | extZ32 | extZ8 | extZ16 | xnor | plevel | pesz | pbase | ppack | prow | pcol | wref | wrt =>
    exact aluBody_inv h ..
  case pcrel => exact pcrelBody_inv h ..
  case ptrunc | pparent | pchild | psib | pnext | pdig | psdig | pin | pmake => exact pathBody_inv h ..
  case ldB | ldH | ldW | ldD | ldBz | ldHz | ldWz => exact loadBody_inv h ..
  case stB | stH | stW | stD => exact storeBody_inv h ..
  case bld => exact bldBody_inv h ..
  case bst => exact bstBody_inv h ..
  case bcopy => exact bcopyBody_inv h ..
  case bfill => exact bfillBody_inv h ..
  case bzero => exact bzeroBody_inv h ..
  case bpref => exact bprefBody_inv h ..
  case bclean | bflush => exact maintBody_inv h ..
  case amoAddW | amoAddD | amoMinW | amoMinD | amoMaxW | amoMaxD | amoMinuW | amoMinuD | amoMaxuW | amoMaxuD | amoAndW |
      amoAndD | amoOrW | amoOrD | amoXorW | amoXorD | amoSwapW | amoSwapD | amoCasW | amoCasD | amoFaddW | amoLdW | amoLdD |
      amoStW | amoStD =>
    exact amoBody_inv h ..
  case fence => exact fenceBody_inv h ..
  case promote => exact promoteBody_inv h ..
  case wset => exact wsetBody_inv h ..
  case wclr => exact State.putMe_inv h ..
  case svc => exact trivial
  case brk => exact trivial
  case eret => exact eretBody_inv h ..
  case wqry => exact wqryBody_inv h ..
  case beq | bne | blt | bge | bltu | bgeu => exact branchBody_inv h ..
  case jal => exact jalBody_inv h ..
  case jalr => exact jalrBody_inv h ..
  case sleepuntil => exact sleepBody_inv h ..
  case yield => exact yieldBody_inv h ..
  case exit => exact exitBody_inv h ..
  case vadd | vsub | vmul | vmin | vmax | vadds | vsubs | vand | vor | vxor | vsl | vsr => exact binBody_inv h ..
  case vfma | vfnma => exact fmaBody_inv h ..
  case vrcpe | vrsqe => exact unBody_inv h ..
  case vceq | vcne | vclt | vcle => exact cmpBody_inv h ..
  case kand | kor | kxor | kandn | knot | kset | kget | kpop => exact maskBody_inv h ..
  case vld | vlds | vgather | vldr => exact vloadBody_inv h ..
  case vst | vsts | vscatter | vstr => exact vstoreBody_inv h ..
  case vsel => exact vselBody_inv h ..
  case vbcast | vperm | vshuf | viota | vsld | vrand => exact moveBody_inv h ..
  case vext => exact vextBody_inv h ..
  case vins => exact vinsBody_inv h ..
  case vcvt => exact vcvtBody_inv h ..
  case vredsum | vredmin | vredmax => exact redBody_inv h ..
  case vimm => exact vimmBody_inv h ..
  case vaddi => exact vaddiBody_inv h ..
  case tdecl => exact tdeclBody_inv h ..
  case tld | tldS => exact tldBody_inv h ..
  case tfill => exact tfillBody_inv h ..
  case tseal => exact tsealBody_inv h ..
  case tget => exact tgetBody_inv h ..
  case tst | tstS => exact tstBody_inv h ..
  case tkill => exact tkillBody_inv h ..
  case ttag => exact ttagBody_inv h ..
  case mfmt => exact mfmtBody_inv h ..
  case mlutA | mlutB | mlutA4 | mlutB4 => exact mlutBody_inv h ..
  case mzero => exact mzeroBody_inv h ..
  case mma | mmaNc => exact mmaBody_inv h ..
  case mmax | mmaxNc => exact mmaxBody_inv h ..
  case mtrn => exact mtrnBody_inv h ..
  case mcvt => exact mcvtBody_inv h ..
  case sendEnt | sendCode | sendData | sendCnt => exact sendBody_inv h ..
  case mw => exact mwBody_inv h ..
  case mrel => exact mrelBody_inv h ..
  case hret => exact hretBody_inv h ..
  case dqput => exact dqputBody_inv h ..
  case dqtake => exact dqtakeBody_inv h ..
  case launch | launchGang => exact launchBody_inv h ..
  case trigger => exact triggerBody_inv h ..
  case spawn | spawnH => exact spawnBody_inv h ..
  case pres | pwait => exact pipeWaitBody_inv h ..
  case padv => exact padvBody_inv h ..
  case resample => exact resampleBody_inv h ..
  case barset => exact barsetBody_inv h ..
  case bararr => exact bararrBody_inv h ..
  case barwait => exact barwaitBody_inv h ..
  case barleave => exact barleaveBody_inv h ..
  case barleaveO => exact barleaveOBody_inv h ..
  case still => exact stillBody_inv h ..
  case stillTo => exact stillToBody_inv h ..
  case qcount => exact qcountBody_inv h ..
  case qfix => exact qfixBody_inv h ..
  case cpystart => exact cpystartBody_inv h ..
  case cpywait | cpywaitNl => exact cpywaitBody_inv h ..
  case cpypoll => exact cpypollBody_inv h ..
  case cpygwait => exact cpygwaitBody_inv h ..
  case cpycancel => exact cpycancelBody_inv h ..
  case sysr => exact sysrBody_inv h ..
  case sysw => exact syswBody_inv h ..
  case xroot => exact xrootBody_inv h ..
  case xinv => exact xinvBody_inv h ..
  case xprobe => exact xprobeBody_inv h ..
  case xback => exact xbackBody_inv h ..
  case partset => exact partsetBody_inv h ..
  case skipset => exact skipsetBody_inv h ..
  case wayset => exact waysetBody_inv h ..
  case bregion => exact bregionBody_inv h ..
  case eset => exact esetBody_inv h ..
  case mdrain => exact mdrainBody_inv h ..
  case mrest => exact mrestBody_inv h ..
  case vsave => exact vsaveBody_inv h ..
  case vrest => exact vrestBody_inv h ..

theorem runWord_inv (h : s.Inv) (g : Gate) {f : Strand → State → Res} (hf : ∀ t, (f t s).Inv) : OutInv (runWord g f s) := by
  unfold runWord
  split
  · trivial
  · exact State.issue_inv h _ g (hf _)

theorem execIllegalInstruction_inv (h : s.Inv) (w : Word32) : OutInv (execIllegalInstruction w s) :=
  runWord_inv h _ fun _ => trivial

theorem execInstructionFetchFault_inv (h : s.Inv) : OutInv (execInstructionFetchFault s) := by
  refine runWord_inv h _ fun t => ?_
  grind [resolve_inv, State.askHost_inv, State.parkMe_inv, State.fillCode_inv, State.faultPark_inv, XRes.Inv, CodeRes.Inv,
    Res.Inv]

/-- The rows that have no word: each by the lemma about it. -/
theorem exec_inv_of_no_word (h : s.Inv) {i : Instr} (hb : wordBody i = none) : OutInv (exec i s) := by
  cases i with
  | translationAnswer => exact execTranslationAnswer_inv h ..
  | fillReturn => exact execFillReturn_inv h ..
  | storePerformed => exact execStorePerformed_inv h ..
  | operationPacket => exact execOperationPacket_inv h ..
  | cuckooRecall => exact execCuckooRecall_inv h ..
  | directoryRecall => exact execDirectoryRecall_inv h ..
  | vectorCompletion => exact execVectorCompletion_inv h ..
  | matrixCompletion => exact execMatrixCompletion_inv h ..
  | drainComplete => exact execDrainComplete_inv h ..
  | aStreamArrival => exact execAStreamArrival_inv h ..
  | copyRun => exact execCopyRun_inv h ..
  | copyEnd => exact execCopyEnd_inv h ..
  | copyLate => exact execCopyLate_inv h ..
  | sleepWake => exact execSleepWake_inv h ..
  | energyRefill => exact execEnergyRefill_inv h ..
  | watchdog => exact execWatchdog_inv h ..
  | launchInletEntry => exact execLaunchInletEntry_inv h ..
  | dependantPush => exact execDependantPush_inv h ..
  | heldPush => exact execHeldPush_inv h ..
  | split => exact execSplit_inv h ..
  | leafStrandStart => exact execLeafStrandStart_inv h ..
  | gangGroupPlacement => exact execGangGroupPlacement_inv h ..
  | taskStart => exact execTaskStart_inv h ..
  | messageArrival => exact execMessageArrival_inv h ..
  | entryActivation => exact execEntryActivation_inv h ..
  | codeActivation => exact execCodeActivation_inv h ..
  | dataLanding => exact execDataLanding_inv h ..
  | countMessage => exact execCountMessage_inv h ..
  | creditReturn => exact execCreditReturn_inv h ..
  | strandRestore => exact execStrandRestore_inv h ..
  | displacement => exact execDisplacement_inv h ..
  | stealRequest => exact execStealRequest_inv h ..
  | stealReply => exact execStealReply_inv h ..
  | loadSummaryToken => exact execLoadSummaryToken_inv h ..
  | packetHop => exact execPacketHop_inv h ..
  | stillWave => exact execStillWave_inv h ..
  | waveOutcome => exact execWaveOutcome_inv h ..
  | confinedWave => exact execConfinedWave_inv h ..
  | barrierArrival => exact execBarrierArrival_inv h ..
  | barrierWithdrawal => exact execBarrierWithdrawal_inv h ..
  | resampleDecision => exact execResampleDecision_inv h ..
  | cloneReady => exact execCloneReady_inv h ..
  | preEmptDelivery => exact execPreEmptDelivery_inv h ..
  | queueImage => exact execQueueImage_inv h ..
  | preEmptComplete => exact execPreEmptComplete_inv h
  | resize => exact execResize_inv h ..
  | prqreply => exact execPrqreply_inv h ..
  | prqreplyRefuse => exact execPrqreplyRefuse_inv h ..
  | lptinv => exact execLptinv_inv h ..
  | jobEntryWrite => exact execJobEntryWrite_inv h ..
  | guarWrite => exact execGuarWrite_inv h ..
  | burstWrite => exact execBurstWrite_inv h ..
  | mmioWrite => exact execMmioWrite_inv h ..
  | biasFlipToHost => exact execBiasFlipToHost_inv h ..
  | biasFlipToDevice => exact execBiasFlipToDevice_inv h ..
  | biasFlipComplete => exact execBiasFlipComplete_inv h
  | biasstatRead => exact execBiasstatRead_inv h
  | hostHdmRead => exact execHostHdmRead_inv h ..
  | hostHdmWrite => exact execHostHdmWrite_inv h ..
  | snpinv => exact execSnpinv_inv h ..
  | snpdata => exact execSnpdata_inv h ..
  | snpcur => exact execSnpcur_inv h ..
  | bisnpResponse => exact execBisnpResponse_inv h ..
  | preEmpt => exact execPreEmpt_inv h
  | setReductionEntry => exact execSetReductionEntry_inv h
  | fenceDie => exact execFenceDie_inv h
  | degradeLanes => exact execDegradeLanes_inv h
  | retrainComplete => exact execRetrainComplete_inv h ..
  | frameCopy => exact execFrameCopy_inv h
  | countRebase => exact execCountRebase_inv h
  | extendMeasurementSlot => exact execExtendMeasurementSlot_inv h
  | readBlackBox => exact execReadBlackBox_inv h
  | loadFirmware => exact execLoadFirmware_inv h
  | readCounters => exact execReadCounters_inv h
  | getVersion => exact execGetVersion_inv h ..
  | getCapabilities => exact execGetCapabilities_inv h ..
  | negotiateAlgorithms => exact execNegotiateAlgorithms_inv h ..
  | getDigests => exact execGetDigests_inv h ..
  | getCertificate => exact execGetCertificate_inv h ..
  | challenge => exact execChallenge_inv h ..
  | getMeasurements => exact execGetMeasurements_inv h ..
  | keyExchange => exact execKeyExchange_inv h ..
  | cxlIdeKm => exact execCxlIdeKm_inv h ..
  | ideCheckFailure => exact execIdeCheckFailure_inv h
  | badFlit => exact execBadFlit_inv h ..
  | linkDown => exact execLinkDown_inv h ..
  | requestTimeout => exact execRequestTimeout_inv h ..
  | patrolScrub => exact execPatrolScrub_inv h ..
  | fatalError => exact execFatalError_inv h ..
  | railUndervoltage => exact execRailUndervoltage_inv h ..
  | thermalTrip => exact execThermalTrip_inv h ..
  | coldReset => exact execColdReset_inv h
  | packageReset => exact execPackageReset_inv h
  | bringUp => exact execBringUp_inv h
  | prst => exact execPrst_inv h ..
  | bpwrRead => exact execBpwrRead_inv h
  | illegalInstruction => exact execIllegalInstruction_inv h ..
  | instructionFetchFault => exact execInstructionFetchFault_inv h
  | prqidxWrite => exact execPrqidxWrite_inv h ..
  | cxlLinkRetrain => exact execCxlLinkRetrain_inv h
  | configurationRequest => exact execConfigurationRequest_inv h
  | bankRetentionSleep => exact execBankRetentionSleep_inv h ..
  | _ => cases hb

theorem exec_inv (h : s.Inv) (i : Instr) : OutInv (exec i s) := by
  cases hb : wordBody i with
  | none => exact exec_inv_of_no_word h hb
  | some p =>
    rw [exec_of_wordBody hb]
    exact runWord_inv h _ fun t => wordBody_inv h hb t

theorem issueWord_inv (h : s.Inv) (u : Nat) (t : Strand) : OutInv (issueWord s u t) := by
  have hf := fetch_inv h u t
  unfold issueWord
  split
  · exact State.issue_inv h _ _ h
  split
  · exact exec_inv h _
  · exact exec_inv h _
  · next e => rw [e] at hf; exact State.parkMe_inv hf ..
  next s1 w e =>
  rw [e] at hf
  split
  · exact exec_inv (s := { s1 with ir := w }) hf _
  · exact exec_inv (s := { s1 with ir := w }) hf _

theorem stepIssue_inv (h : s.Inv) (u : Nat) : OutInv (stepIssue s u) := by
  have hc : State.Inv { s with cur := u } := h
  unfold stepIssue
  dsimp only
  split
  · exact hc
  · exact onNext_inv (fun _ h => State.settle_inv h ..) (issueWord_inv hc ..)

theorem stepServe_inv (h : s.Inv) (r : Request) : OutInv (stepServe s r) := by
  unfold stepServe
  split
  · exact h
  next i _ => exact onNext_inv (fun _ h => State.modStrand_inv h ..) (exec_inv (s := { s with cur := r.uid, ir := r.word }) h i)

theorem stepCand_inv (h : s.Inv) (c : Cand) : OutInv (stepCand s c) := by
  cases c with
  | issue u => exact stepIssue_inv h u
  | serve r => exact stepServe_inv h r
  | row i => exact exec_inv (s := { s with cur := 0 }) h i
  | input i => exact exec_inv (s := { s with cur := 0, inputs := s.inputs.tail }) h i
  | outside o => exact State.outsideStep_inv (s := { s with cur := 0, outside := s.outside.erase o }) h o

theorem step_inv (h : s.Inv) : OutInv (step s) := by
  have ha : s.advance.Inv := h
  unfold step
  dsimp only
  split
  · exact ha
  · exact stepCand_inv ha _
  · exact stepCand_inv ha _

/-- Settles O59: every operation of the model that answers a state keeps the canonical form (the lemmas above, in the order of the
definitions they speak of), so every row of the opcode table does, and so does the step. -/
theorem stepKeepsMemoryCanonical : Obligations.StepKeepsMemoryCanonical := by
  unfold Obligations.StepKeepsMemoryCanonical
  intro s s' h e
  have hs := step_inv h
  rwa [e] at hs

end Sys2Proof.Machine
end

section
/-!
SUPPORT. The state after a cold reset, unit by unit (O57): no unit is listed, so that each reads as its reset value.
-/
namespace Sys2Proof.Machine

theorem Name.reset_zero (k : Nat) : Name.reset.data.getD k 0#8 = 0#8 ∧ Name.reset.side.getD k 0#8 = 0#8 := ⟨rfl, rfl⟩

/-- A table of launches or of jobs' vectors at reset holds zeros (R326). -/
theorem Part.reset_tables : (∀ e ∈ Part.reset.jobtab.toList, e = 0#64) ∧ (∀ e ∈ Part.reset.juvec.toList, e = 0#64) := by
  simp [Part.reset]

/-- Settles O57: no unit is listed after a cold reset, so each reads as its reset value. -/
theorem resetState : Obligations.ResetState := by
  unfold Obligations.ResetState
  intro s
  refine ⟨rfl, rfl, rfl, rfl, rfl, fun c j => ?core, fun q n => ?quad, fun v => ?part, fun j => ?job, fun d => ?die, rfl, rfl,
    rfl, rfl, rfl, rfl, rfl, rfl, rfl, rfl, rfl, rfl, fun k => rfl⟩
  case core => exact ⟨rfl, rfl, rfl, rfl, rfl, rfl, rfl, rfl, rfl⟩
  case quad => exact ⟨rfl, rfl, rfl, rfl, rfl, rfl, rfl, rfl, rfl, Name.reset_zero⟩
  case part =>
    obtain ⟨hjob, hju⟩ := Part.reset_tables
    exact ⟨rfl, rfl, rfl, rfl, rfl, rfl, rfl, rfl, rfl, rfl, rfl, rfl, rfl, hjob, hju, fun i k => rfl, rfl, rfl, rfl, rfl⟩
  case job => exact ⟨rfl, rfl, rfl, rfl, rfl⟩
  case die => exact ⟨rfl, rfl, rfl⟩

end Sys2Proof.Machine
end

section
/-!
SUPPORT. The partition instructions (R222 to R224): what an extent may be, what giving up the lines of a bed column leaves, what a
skip bit changes (O44).
-/
namespace Sys2Proof.Machine

theorem overlap_iff (b1 l1 b2 l2 : Nat) : overlap b1 l1 b2 l2 = true ↔ b1 ≤ b2 + l2 ∧ b2 ≤ b1 + l1 := by
  simp [overlap]

/-- When no partition may have an extent (R321). -/
theorem State.extentOk_eq_false_iff (s : State) (vf base len : Nat) : s.extentOk vf base len = false ↔
    8191 < base + len ∨
      (∃ p ∈ s.parts, p.1 ≠ vf ∧ p.2.present = true ∧ base ≤ p.2.base + p.2.len ∧ p.2.base ≤ base + len) ∨
      ∃ r ∈ s.resizes, r.vf ≠ vf ∧ r.skip = none ∧ base ≤ r.base + r.len ∧ r.base ≤ base + len := by
  rw [← Bool.not_eq_true]
  simp only [State.extentOk, Bool.and_eq_true, decide_eq_true_eq, Bool.not_eq_true', List.any_eq_false, overlap_iff,
    Option.isNone_iff_eq_none]
  grind

/-! ### The skip bits -/

theorem State.mem_skip_setSkip (s : State) (h : Nat) (on : Bool) (k : Nat) :
    k ∈ (s.setSkip h on).skip ↔ (k ∈ s.skip ∧ k ≠ h) ∨ (k = h ∧ on = true) := by
  unfold State.setSkip
  cases on <;> grind [State.putQuad_skip]

theorem State.setSkip_eq_of_no_rate {s : State} {h : Nat} {on : Bool}
    (e : on = true ∨ (s.quad (quadOfHilbert h)).rateNext = none) :
    s.setSkip h on = { s with skip := (s.setSkip h on).skip } := by
  unfold State.setSkip
  have hq (l : List Nat) : ({ s with skip := l } : State).quad (quadOfHilbert h) = s.quad (quadOfHilbert h) := rfl
  cases on with
  | true => rfl
  | false => simp [hq, e.resolve_left Bool.false_ne_true]

theorem State.setSkip_quad {s : State} {h : Nat} {r : BitVec 16} (e : (s.quad (quadOfHilbert h)).rateNext = some r) :
    (s.setSkip h false).quad (quadOfHilbert h) = (s.quad (quadOfHilbert h)).setRate s.cyc r := by
  have hq (l : List Nat) : ({ s with skip := l } : State).quad (quadOfHilbert h) = s.quad (quadOfHilbert h) := rfl
  simp [State.setSkip, hq, e]

/-! ### The lines of a bed column -/

theorem State.poisonBy_eq (s : State) (k z m : Nat) (mask : Nat → Bool) : ∃ p, s.poisonBy k z m mask = { s with poison := p } := by
  have hfold (l : List Nat) : ∀ s : State, ∃ p, l.foldl (fun s i => if mask i then s.setPoison (k + z * i) z else s) s = { s with poison := p } := by
    induction l with
    | nil => exact fun s => ⟨s.poison, rfl⟩
    | cons i l ih =>
      intro s
      rw [List.foldl_cons]
      split
      · exact ih _
      · exact ih s
  exact hfold _ s

/-- Giving up a line of a bed column changes bytes of host memory and what has left the package (R387). -/
theorem State.evictBed_eq (s : State) (l : BedLine) :
    ∃ m p o, s.evictBed l = { s with mem := m, poison := p, outbox := o } := by
  unfold State.evictBed
  split
  · exact ⟨_, _, _, rfl⟩
  split
  · exact ⟨_, _, _, rfl⟩
  · exact ⟨_, _, _, rfl⟩
  · obtain ⟨p, hp⟩ := (s.putHome l.target.key (lineBytes l.data)).poisonBy_eq l.target.key 64 1 fun _ => l.poison ≠ 0#4
    exact ⟨_, p, _, by rw [hp]; rfl⟩

theorem State.evictBeds_eq (ls : List BedLine) (s : State) :
    ∃ m p o, ls.foldl State.evictBed s = { s with mem := m, poison := p, outbox := o } := by
  induction ls generalizing s with
  | nil => exact ⟨_, _, _, rfl⟩
  | cons l ls ih =>
    obtain ⟨m, p, o, e⟩ := s.evictBed_eq l
    obtain ⟨m', p', o', e'⟩ := ih (s.evictBed l)
    exact ⟨m', p', o', by rw [List.foldl_cons, e', e]⟩

/-- Purging a bed column changes the column, bytes of host memory and what has left the package. -/
theorem State.purgeBed_eq (s : State) (q : Nat) (test : BedLine → Bool) :
    ∃ m p o qs, s.purgeBed q test = { s with mem := m, poison := p, outbox := o, quads := qs } := by
  unfold State.purgeBed
  extract_lets x s'
  split
  · obtain ⟨m, p, o, e⟩ := State.evictBeds_eq (x.bed.filter test) s
    exact ⟨m, p, o, _, by rw [show s' = _ from e]; rfl⟩
  · exact ⟨_, _, _, _, rfl⟩

theorem State.purgeBed_bed (s : State) (q r : Nat) (test : BedLine → Bool) :
    ((s.purgeBed q test).quad r).bed = if q = r then (s.quad q).bed.filter (!test ·) else (s.quad r).bed := by
  unfold State.purgeBed
  extract_lets x s'
  obtain ⟨m, p, o, e⟩ := State.evictBeds_eq (x.bed.filter test) s
  have hs' : s'.quad r = s.quad r := by rw [show s' = _ from e]; rfl
  split
  · rw [State.quad_putQuad]
    split
    · rfl
    · rw [hs']
  next hany =>
    have : x.bed.filter (!test ·) = x.bed := by simpa [List.filter_eq_self] using hany
    split
    next h => rw [this, ← h]
    · rfl

/-- What the purge of every listed column leaves: the lines that the test does not pick, and those of columns not listed. -/
theorem State.mem_bed_purgeAll (ls : FMap Quad) (test : BedLine → Bool) (s : State) (r : Nat) (l : BedLine) :
    l ∈ ((ls.foldl (fun s q => s.purgeBed q.1 test) s).quad r).bed ↔
      l ∈ (s.quad r).bed ∧ ((∃ q ∈ ls, q.1 = r) → test l = false) := by
  induction ls generalizing s with
  | nil => simp
  | cons q ls ih =>
    rw [List.foldl_cons, ih, State.purgeBed_bed]
    by_cases h : q.1 = r
    · subst h; simp; tauto
    · simp [h]

theorem State.purgeAll_eq (ls : FMap Quad) (test : BedLine → Bool) (s : State) :
    ∃ m p o qs, ls.foldl (fun s q => s.purgeBed q.1 test) s = { s with mem := m, poison := p, outbox := o, quads := qs } := by
  induction ls generalizing s with
  | nil => exact ⟨_, _, _, _, rfl⟩
  | cons q ls ih =>
    obtain ⟨m, p, o, qs, e⟩ := s.purgeBed_eq q.1 test
    obtain ⟨m', p', o', qs', e'⟩ := ih (s.purgeBed q.1 test)
    exact ⟨m', p', o', qs', by rw [List.foldl_cons, e', e]⟩

theorem FMap.get?_eq_none {α : Type} {m : FMap α} {k : Nat} (h : ∀ p ∈ m, p.1 ≠ k) : FMap.get? m k = none := by
  induction m with
  | nil => rfl
  | cons p r ih =>
    obtain ⟨i, a⟩ := p
    obtain ⟨hi, hr⟩ := List.forall_mem_cons.1 h
    simp [FMap.get?, show i ≠ k from hi, ih hr]

/-- A quad with a line in its bed column is listed: one that is not stands as at reset. -/
theorem State.listed_of_mem_bed {s : State} {r : Nat} {l : BedLine} (h : l ∈ (s.quad r).bed) : ∃ q ∈ s.quads, q.1 = r := by
  by_contra hn
  have hnone : FMap.get? s.quads r = none := FMap.get?_eq_none fun p hp e => hn ⟨p, hp, e⟩
  simp [State.quad, FMap.getD, hnone, Quad.reset] at h

/-- The purge of every column of the package leaves the lines that the test does not pick. -/
theorem State.mem_bed_purge {s : State} {test : BedLine → Bool} {r : Nat} {l : BedLine} :
    l ∈ ((s.quads.foldl (fun s q => s.purgeBed q.1 test) s).quad r).bed ↔ l ∈ (s.quad r).bed ∧ test l = false := by
  rw [State.mem_bed_purgeAll]
  exact and_congr_right fun h => ⟨fun ht => ht (State.listed_of_mem_bed h), fun ht _ => ht⟩

/-! ### WAYSET -/

/-- The state in which a function holds no line in a way outside a mask (R223, R335): what WAYSET makes before it sets the mask. -/
def State.leaveWays (s : State) (vf : Nat) (m : BitVec 14) : State :=
  let gone := (s.part vf).ways &&& ~~~m
  let s' := if gone ≠ 0#14 then s.quads.foldl (fun s q => s.purgeBed q.1 fun l => l.vf == vf && gone.getLsbD l.way) s else s
  if m = 0#14 then s'.dropForeignOf vf else s'

theorem State.leaveWays_frame (s : State) (vf : Nat) (m : BitVec 14) :
    (s.leaveWays vf m).parts = s.parts ∧ (s.leaveWays vf m).strands = s.strands ∧ (s.leaveWays vf m).cores = s.cores := by
  unfold State.leaveWays
  extract_lets gone s'
  have hs' : s'.parts = s.parts ∧ s'.strands = s.strands ∧ s'.cores = s.cores := by
    obtain ⟨_, _, _, _, e⟩ := State.purgeAll_eq s.quads (fun l => l.vf == vf && gone.getLsbD l.way) s
    by_cases h : gone ≠ 0#14
    · simp only [s', if_pos h, e, and_self]
    · simp only [s', if_neg h, and_self]
  split
  · exact hs'
  · exact hs'

theorem State.mem_bed_leaveWays {s : State} {vf : Nat} {m : BitVec 14} {q : Nat} {l : BedLine} :
    l ∈ ((s.leaveWays vf m).quad q).bed ↔
      l ∈ (s.quad q).bed ∧ (l.vf = vf → ((s.part vf).ways &&& ~~~m).getLsbD l.way = false) := by
  unfold State.leaveWays
  extract_lets gone s'
  have hdrop : ((if m = 0#14 then s'.dropForeignOf vf else s').quad q).bed = (s'.quad q).bed := by split <;> rfl
  rw [hdrop]
  by_cases h : gone ≠ 0#14
  · simp [s', if_pos h, State.mem_bed_purge, gone]
  · rw [show s' = s from if_neg h, show (s.part vf).ways &&& ~~~m = 0#14 from not_not.1 h]
    simp

theorem State.leaveWays_l1 {s : State} {vf : Nat} {l : L1Line} (h : l ∈ (s.leaveWays vf 0#14).l1) (hv : l.vf = vf) :
    l.stamp = none := by
  simpa [State.leaveWays, State.dropForeignOf, hv] using (List.mem_filter.1 h).2

theorem State.leaveWays_of_kept {s : State} {vf : Nat} {m : BitVec 14} (hg : (s.part vf).ways &&& ~~~m = 0#14) (hm : m ≠ 0#14) :
    s.leaveWays vf m = s := by simp [State.leaveWays, hg, hm]

/-! ### BREGION -/

/-- The state in which a quad's region has its ways, its owner and zero bytes (R223): what BREGION makes once the copies to the region
have failed. -/
def State.takeRegion (s : State) (q vf : Nat) (m : BitVec 14) : State :=
  let s := (s.purgeBed q fun l => m.getLsbD l.way).zeroKeys (regionKey q 0) (2 ^ 22)
  s.putQuad q { s.quad q with bway := m, bvf := vf }

theorem State.takeRegion_bed {s : State} {q vf : Nat} {m : BitVec 14} {l : BedLine}
    (h : l ∈ ((s.takeRegion q vf m).quad q).bed) : m.getLsbD l.way = false := by
  have hbed : ((s.takeRegion q vf m).quad q).bed = ((s.purgeBed q fun l => m.getLsbD l.way).quad q).bed := by
    simp only [State.takeRegion, State.quad_putQuad, if_true]
    rfl
  rw [hbed, State.purgeBed_bed, if_pos rfl] at h
  simpa using (List.mem_filter.1 h).2

theorem State.read_zeroKeys (s : State) {lo n k : Nat} (h : k < n) : Memory.read (s.zeroKeys lo n).mem (lo + k) = 0#8 := by
  have hnone : FMap.get? (s.zeroKeys lo n).mem (lo + k) = none := by
    refine FMap.get?_eq_none fun p hp e => ?_
    have hout := (List.mem_filter.1 hp).2
    simp [e, h] at hout
  simp [Memory.read, FMap.getD, hnone]

theorem bregionBody_takes {s : State} {t : Strand} {a b : BitVec 5}
    (hw : (t.g b).setWidth 14 &&& ~~~(s.part (bitsNat (t.g a) 21 16)).ways = 0#14)
    (hm : (s.quad (quadOfHilbert (bitsNat (t.g a) 12 0))).mmaxOther 0 = false) :
    ∃ s' : State, bregionBody a b t s =
      .done (s'.takeRegion (quadOfHilbert (bitsNat (t.g a) 12 0)) (bitsNat (t.g a) 21 16) ((t.g b).setWidth 14)) := by
  unfold bregionBody
  extract_lets q vf m die aimed s1 s2
  exact ⟨s1, by rw [if_neg (not_not.2 hw), if_neg (by simp [q, hm])]; rfl⟩

section
variable {s : State} {t : Strand} {a b : BitVec 5}

theorem skipsetBody_held {p : Nat × Part} (h : s.parts.find? (fun p => p.2.holds (bitsNat (t.g a) 12 0)) = some p) :
    skipsetBody a b t s = .done { s with resizes := s.resizes ++
      [⟨p.1, p.2.base, p.2.len, some (bitsNat (t.g a) 12 0, bitAt (t.g b) 0), (s.liveLaunches p.1).dedup⟩] } := by
  simp [skipsetBody, h]

theorem skipsetBody_free (h : s.parts.find? (fun p => p.2.holds (bitsNat (t.g a) 12 0)) = none) :
    skipsetBody a b t s = .done (s.setSkip (bitsNat (t.g a) 12 0) (bitAt (t.g b) 0)) := by simp [skipsetBody, h]

theorem waysetBody_taken (h : ∃ q ∈ s.quads, q.2.bvf = bitsNat (t.g a) 5 0 ∧ q.2.bway &&& ~~~((t.g b).setWidth 14) ≠ 0#14) :
    waysetBody a b t s = .trap 0x09 (t.g b) := if_pos (by simpa using h)

theorem waysetBody_leaves (h : ∀ q ∈ s.quads, q.2.bvf = bitsNat (t.g a) 5 0 → q.2.bway &&& ~~~((t.g b).setWidth 14) = 0#14) :
    waysetBody a b t s = .done ((s.leaveWays (bitsNat (t.g a) 5 0) ((t.g b).setWidth 14)).putPart (bitsNat (t.g a) 5 0)
      { s.part (bitsNat (t.g a) 5 0) with ways := (t.g b).setWidth 14 }) := if_neg (by simpa using h)

end

/-- Settles O44: one equation of the instruction's body for each way that it answers, and the laws above for what it leaves. -/
theorem partitionInstructionsComplete : Obligations.PartitionInstructionsComplete := by
  unfold Obligations.PartitionInstructionsComplete
  intro s t a b hr hp x y vf base len h m own
  refine ⟨fun hm i hi => ?hyper, fun hm => runWord_mode hr (.inr hp) (by simp [hm]), fun hm => ⟨?partset, ?skipIn, ?skipOut, ?setSkip,
    ?waysTaken, ?wayset, ?bregion⟩, fun hm => ⟨?past, ?eset⟩⟩
  case hyper =>
    simp only [List.mem_cons, List.not_mem_nil, or_false] at hi
    rcases hi with rfl | rfl | rfl | rfl <;> exact runWord_mode hr (.inr hp) hm
  case partset =>
    have hpast := s.extentOk_eq_false_iff vf base len
    exact ⟨fun h => runWord_trap hr (.inr hp) hm (if_pos (by rw [hpast.2 h]; rfl)),
      fun h => runWord_done hr (.inr hp) hm (if_neg (by simpa using fun e => h (hpast.1 e)))⟩
  case skipIn => exact fun p hf => runWord_done hr (.inr hp) hm (skipsetBody_held hf)
  case skipOut => exact fun hf => runWord_done hr (.inr hp) hm (skipsetBody_free hf)
  case setSkip =>
    refine ⟨s.mem_skip_setSkip h (bitAt y 0), State.setSkip_eq_of_no_rate, fun hoff r hrate => ?_⟩
    rw [hoff]
    exact State.setSkip_quad hrate
  case waysTaken => exact fun h => runWord_trap hr (.inr hp) hm (waysetBody_taken h)
  case wayset =>
    intro hfree
    obtain ⟨hparts, hstrands, hcores⟩ := s.leaveWays_frame vf m
    refine ⟨s.leaveWays vf m, runWord_done hr (.inr hp) hm (waysetBody_leaves hfree), hparts, hstrands, hcores, fun q => ⟨?_, ?_⟩, ?_,
      State.leaveWays_of_kept⟩
    · exact fun l hl => (State.mem_bed_leaveWays.1 hl).2
    · exact fun l hl hstays => State.mem_bed_leaveWays.2 ⟨hl, fun hv => hstays.resolve_left (not_not.2 hv)⟩
    · intro hm0 l hl
      rw [hm0] at hl
      exact State.leaveWays_l1 hl
  case bregion =>
    intro q fn
    refine ⟨fun hw => runWord_trap hr (.inr hp) hm (if_pos hw), fun hw hx => runWord_hold hr (.inr hp) hm ?_, fun hw hx => ?_⟩
    · exact (if_neg (not_not.2 hw)).trans (if_pos hx)
    · obtain ⟨s', e⟩ := bregionBody_takes (t := t) hw hx
      have hq : ((s'.takeRegion q fn m).quad q).bway = m ∧ ((s'.takeRegion q fn m).quad q).bvf = fn := by simp [State.takeRegion]
      exact ⟨s'.takeRegion q fn m, runWord_done hr (.inr hp) hm e, hq.1, hq.2, fun l => State.takeRegion_bed,
        fun _ k hk => State.read_zeroKeys _ hk⟩
  case past => exact fun h => runWord_trap hr (.inr hp) hm (if_pos h)
  case eset =>
    intro hin
    have hb : esetBody a b t s = _ := if_neg (Nat.not_lt.2 hin)
    refine ⟨fun hk => runWord_done hr (.inr hp) hm (hb.trans ?_), fun hk => runWord_done hr (.inr hp) hm (hb.trans ?_)⟩
    · rw [if_neg (by simpa using hk)]; rfl
    · rw [if_pos (by simpa using hk)]

end Sys2Proof.Machine
end

section
/-!
SUPPORT. Requests to the tarn and the matrix unit (R11, R13, R150): what the issue of one does and what one that is
served answers, once for all the instructions of majors 0x38 and 0x39; the fields of their operands.
-/
namespace Sys2Proof.Machine

theorem State.putQuad_putQuad (s : State) (q : Nat) (x y : Quad) : (s.putQuad q x).putQuad q y = s.putQuad q y := by
  simp [State.putQuad, FMap.set_set]

/-- A word that traps after effects which leave its strand as it was. -/
theorem runWord_trapIn {s s' : State} {t : Strand} {g : Gate} {body : Strand → State → Res} {c : Nat} {v : Word64} (h : Ready s t)
    (hc : g.inCode = true ∨ Plain t) (hm : g.mode ≤ t.mode) (hb : body t s = .trapIn s' c v) (hs : s'.me = some t) :
    runWord g body s = .next (s'.trapMe (t.countWatch (s.watchStep t)) c v) := by
  rw [runWord_ready h hc hm, hb]
  simp only [show s'.strand? s'.cur = some t from hs]

/-- The quad of a strand as a request of the strand finds it: a held request that the refills since have paid for is served (R295). -/
def State.unitOf (s : State) (t : Strand) : Quad := (s.quad (quadOf t.core)).refreshed s.cyc
/-- That quad once it serves the request (R13). -/
def State.servedUnit (s : State) (t : Strand) : Quad := (s.unitOf t).serve s.cur t.core
/-- The state with that quad, in which the request makes its checks. -/
def State.serving (s : State) (t : Strand) : State := s.putQuad (quadOf t.core) (s.servedUnit t)
/-- The turn of the running strand's request has come (R13). -/
def State.Turn (s : State) (t : Strand) : Prop := (s.unitOf t).queues s.cur = true ∧ s.arbiter (quadOf t.core) = some s.cur
/-- The state s' in which the running strand's request has not been served and keeps its place (R13, R150). -/
def State.keepPlace (s : State) (t : Strand) (s' : State) : State :=
  s'.putQuad (quadOf t.core) ((s'.quad (quadOf t.core)).unserve (s.unitOf t) s.cur s.cyc)

@[simp] theorem State.serving_quad (s : State) (t : Strand) : (s.serving t).quad (quadOf t.core) = s.servedUnit t := by
  simp [State.serving]
@[simp] theorem State.serving_cur (s : State) (t : Strand) : (s.serving t).cur = s.cur := rfl

/-- Instruction i, issued by t in s, is a request of kind k that answers f when it is served. It is made in the state s1 that its issue
leaves: s itself, but for an MMAX, whose issue takes the quad's place (R168). -/
def Requests (i : Instr) (s s1 : State) (t : Strand) (k : ReqKind) (f : Strand → Quad → State → Res) : Prop :=
  ∃ body : Strand → State → Res, exec i s = runWord {} body s ∧ body t s = tarnBody k f t s1

theorem tarnBody_of_turn {s : State} {t : Strand} {k : ReqKind} {f : Strand → Quad → State → Res} (ht : s.Turn t) : tarnBody k f t s =
    match f t (s.servedUnit t) (s.serving t) with
    | .hold s' => .hold (s.keepPlace t s')
    | .trap c v => .trapIn (s.serving t) c v
    | r => r := by
  obtain ⟨hq, ha⟩ := ht
  refine (if_neg (by rw [Bool.not_eq_true', Bool.not_eq_false]; exact hq)).trans ((if_neg (not_not.2 ha)).trans ?_)
  rfl

section
variable {i : Instr} {s s1 s' : State} {t : Strand} {k : ReqKind} {f : Strand → Quad → State → Res} {c : Nat} {v : Word64}
  (hr : Ready s t) (hp : Plain t)
include hr hp

/-- The issue puts the request at the end of the quad's dispatch queue. -/
theorem Requests.enters (h : Requests i s s1 t k f) (hq : (s1.unitOf t).queues s1.cur = false) :
    Holds i s (s1.putQuad (quadOf t.core) { s1.unitOf t with queue := (s1.unitOf t).queue ++ [⟨s1.cur, s1.ir, k, s1.cyc⟩] }) := by
  obtain ⟨body, hi, hb⟩ := h
  refine hi.trans (runWord_hold hr (.inr hp) (Nat.zero_le _) (hb.trans ?_))
  exact if_pos (by rw [Bool.not_eq_true']; exact hq)

variable (ht : s1.Turn t)
include ht

theorem Requests.completes (h : Requests i s s1 t k f) (hf : f t (s1.servedUnit t) (s1.serving t) = .done s') : Completes i s t s' := by
  obtain ⟨body, hi, hb⟩ := h
  exact hi.trans (runWord_done hr (.inr hp) (Nat.zero_le _) (by rw [hb, tarnBody_of_turn ht, hf]))

theorem Requests.holds (h : Requests i s s1 t k f) (hf : f t (s1.servedUnit t) (s1.serving t) = .hold s') :
    Holds i s (s1.keepPlace t s') := by
  obtain ⟨body, hi, hb⟩ := h
  exact hi.trans (runWord_hold hr (.inr hp) (Nat.zero_le _) (by rw [hb, tarnBody_of_turn ht, hf]))

theorem Requests.trapsIn (h : Requests i s s1 t k f) (hf : f t (s1.servedUnit t) (s1.serving t) = .trapIn s' c v)
    (hs : s'.me = some t) : exec i s = .next (s'.trapMe (t.countWatch (s.watchStep t)) c v) := by
  obtain ⟨body, hi, hb⟩ := h
  exact hi.trans (runWord_trapIn hr (.inr hp) (Nat.zero_le _) (by rw [hb, tarnBody_of_turn ht, hf]) hs)

end

/-- A request that is served and traps has had its turn. -/
theorem Requests.traps {i : Instr} {s : State} {t : Strand} {k : ReqKind} {f : Strand → Quad → State → Res} {c : Nat} {v : Word64}
    (hr : Ready s t) (hp : Plain t) (ht : s.Turn t) (h : Requests i s s t k f)
    (hf : f t (s.servedUnit t) (s.serving t) = .trap c v) :
    exec i s = .next ((s.serving t).trapMe (t.countWatch (s.watchStep t)) c v) := by
  obtain ⟨body, hi, hb⟩ := h
  exact hi.trans (runWord_trapIn hr (.inr hp) (Nat.zero_le _) (by rw [hb, tarnBody_of_turn ht, hf]) hr.1)

/-! ### Whose a declaration is -/

theorem Strand.declared_iff (t : Strand) (u owner core slot : Nat) :
    t.declared u owner core slot = true ↔ owner = u ∨ (owner = 0 ∧ t.core % 4 = core ∧ t.slot = some slot) := by
  simp [Strand.declared, and_assoc]

/-- A name that stands declared by a strand may be written by it (R155). -/
theorem Quad.checkDest_declared {x : Quad} {t : Strand} {u n : Nat} (h : (x.name n).st = .declared)
    (ho : (x.name n).owner = u ∨ ((x.name n).owner = 0 ∧ t.core % 4 = (x.name n).dcore ∧ t.slot = some (x.name n).dslot)) :
    x.checkDest t u n = .ok false := by
  simp [Quad.checkDest, h, (t.declared_iff ..).2 ho]

/-! ### The fields of operands -/

theorem bitsNat_eq (w : Word64) (hi lo : Nat) : bitsNat w hi lo = w.toNat / 2 ^ lo % 2 ^ (hi + 1 - lo) := by
  rw [bitsNat, Nat.shiftRight_eq_div_pow]

theorem nameField_eq (w : Word64) (i : Nat) : nameField w i = w.toNat / 2 ^ (8 * i) % 256 := by
  rw [nameField, bitsNat_eq, show 8 * i + 7 + 1 - 8 * i = 8 by omega]
  rfl

end Sys2Proof.Machine
end

section
/-!
SUPPORT. A write of a name's sidecar (R155, R357, R358), and a state in which it does not leave the name as O24 says: TLD.S writes the
sidecar, so it clears the sidecar's poison and keeps that of the data, where the statement has it the other way round.
-/
namespace Sys2Proof.Machine

theorem State.modStrand_quad (s : State) (u : Nat) (f : Strand → Strand) (q : Nat) : (s.modStrand u f).quad q = s.quad q := by
  unfold State.modStrand
  split <;> rfl

/-- The strand that declared a name writes its sidecar with TLD.S: the sidecar's poison goes, that of the data stays. -/
theorem tldS_completes {s s' : State} {t : Strand} {a b : BitVec 5} {bs : List Byte} (hr : Ready s t) (hp : Plain t) (ht : s.Turn t)
    (hc : (s.servedUnit t).checkDest t s.cur (nameField (t.g a) 0) = .ok false)
    (hd : (s.servedUnit t).defines s.cur (nameField (t.g a) 0) = false)
    (hread : regionRead (t.g b) 512 512 t (s.serving t) = .ok (s', bs)) :
    Completes (.tldS a b) s t (s'.putQuad (quadOf t.core) ((s'.quad (quadOf t.core)).putName (nameField (t.g a) 0)
      { (s.servedUnit t).name (nameField (t.g a) 0) with
        side := bs, poison := ((s.servedUnit t).name (nameField (t.g a) 0)).poison.filter (· < 256) })) :=
  Requests.completes hr hp ht ⟨_, rfl, by unfold tldBody writeName; rfl⟩ (by simp [hc, hd, hread])

/-! ### The state of the counterexample -/

/-- A resident strand of core 0 with the pool's aperture address in g1. -/
def sidecarWriter : Strand :=
  { Strand.newborn .resident 0 1 0 0 with pc := 0x1000, regs := { Regs.zero with g := Regs.zero.g.set 1 (BitVec.ofNat 64 (2 ^ 56 - 2 ^ 27)) } }

/-- Name 0, which strand 1 has declared, with poison in the first granule of its data. -/
def poisonedName : Name := { Name.reset with st := .declared, owner := 1, poison := [0] }

/-- A quad with that name and the request of strand 1. -/
def poisonedQuad : Quad := { Quad.reset with names := [(0, poisonedName)], queue := [⟨1, 0#32, .plain, 0⟩] }

/-- A package that runs the strand in that quad, in the cycle after its request came. -/
def poisonedState : State :=
  { State.reset with cyc := 1, cur := 1, nextUid := 2, strands := [(1, sidecarWriter)], quads := [(0, poisonedQuad)],
                     parts := [(0, { Part.reset with present := true })] }

theorem poisonedState_ready : Ready poisonedState sidecarWriter ∧ Plain sidecarWriter := ⟨⟨rfl, rfl, by decide⟩, .inl rfl⟩

theorem poisonedState_turn : poisonedState.Turn sidecarWriter := ⟨by decide, by decide⟩

/-- The pool of core 0 reads as zeros. -/
theorem poisonedState_reads : ∃ s' bs, regionRead (sidecarWriter.g 1#5) 512 512 sidecarWriter (poisonedState.serving sidecarWriter) =
    .ok (s', bs) := by
  cases h : regionRead (sidecarWriter.g 1#5) 512 512 sidecarWriter (poisonedState.serving sidecarWriter) with
  | ok p => exact ⟨p.1, p.2, rfl⟩
  | error r =>
    have hok : (regionRead (sidecarWriter.g 1#5) 512 512 sidecarWriter (poisonedState.serving sidecarWriter)).isOk = true := by
      decide +kernel
    rw [h] at hok
    cases hok

/-- Refutes O24: TLD.S of name 0 of that state leaves the poison of the name's data, which the statement clears. -/
theorem not_tarnNameInstructionsComplete : ¬ Obligations.TarnNameInstructionsComplete := by
  unfold Obligations.TarnNameInstructionsComplete
  intro h
  obtain ⟨hr, hp⟩ := poisonedState_ready
  have ht := poisonedState_turn
  obtain ⟨s', bs, hread⟩ := poisonedState_reads
  obtain ⟨-, -, -, hserved⟩ := h poisonedState sidecarWriter 0#5 1#5 0#5 0#5 hr
  obtain ⟨-, -, -, -, -, htldS, -⟩ := hserved hp (by decide) ht.1 ht.2
  have hsays := htldS ⟨⟨rfl, .inl rfl⟩, rfl⟩ s' bs hread
  have hdoes := tldS_completes hr hp ht (a := 0#5) (b := 1#5) (Quad.checkDest_declared rfl (.inl rfl)) rfl hread
  have hsame := congrArg (fun s : State => ((s.quad 0).name 0).poison) (Host.Outcome.next.inj (hsays.symm.trans hdoes))
  simp only [State.after, State.modStrand_quad, show quadOf sidecarWriter.core = 0 from rfl, State.quad_putQuad, if_true,
    show nameField (sidecarWriter.g 0#5) 0 = 0 from rfl, show (sidecarWriter.g 0#5).toNat % 256 = 0 from rfl, Quad.name_putName] at hsame
  exact absurd hsame (by decide)

end Sys2Proof.Machine
end

section
/-!
SUPPORT. The instructions that read tarn names and the one that loads a table (R157, R161): what a read finds of its names, and how
each request answers when it is served (O25).
-/
namespace Sys2Proof.Machine

/-! ### What a read finds -/

theorem Quad.checkReads_defined {x : Quad} {ns : List Nat} (h : ∀ n ∈ ns, (x.name n).st = .defined) : x.checkReads ns = .ok [] := by
  have hyes : ∀ n ∈ ns, x.readable n = .yes := fun n hn => by simp [Quad.readable, h n hn]
  have hfree : ns.find? (fun n => x.readable n = .free) = none := List.find?_eq_none.2 fun n hn => by simp [hyes n hn]
  have hpark : ns.filter (fun n => x.readable n = .park) = [] := List.filter_eq_nil_iff.2 fun n hn => by simp [hyes n hn]
  simp [Quad.checkReads, hfree, hpark]

theorem Quad.checkReads_one {x : Quad} {n : Nat} (h : (x.name n).st = .defined) : x.checkReads [n] = .ok [] :=
  Quad.checkReads_defined (by simpa using h)

theorem Quad.checkReads_declared {x : Quad} {n : Nat} (h : (x.name n).st = .declared) : x.checkReads [n] = .ok [n] := by
  simp [Quad.checkReads, Quad.readable, h]

theorem Quad.checkReads_free {x : Quad} {n : Nat} (h : (x.name n).st = .free) :
    x.checkReads [n] = .error (0x20, BitVec.ofNat 64 n) := by
  simp [Quad.checkReads, Quad.readable, h, nameTval]

theorem State.reach_ok {s s' : State} {t : Strand} {va tval : Nat} {k : Acc} {tg : Target}
    (h : resolve s t.vf t.mode (dieOf t.core) va k = .ok s' tg) : s.reach t va k tval = .go s' tg := by
  simp [State.reach, h]

section
variable {i : Instr} {s s' : State} {t : Strand} {a b v : BitVec 5} (hr : Ready s t) (hp : Plain t) (ht : s.Turn t)
include hr hp ht

/-! ### TGET -/

theorem tget_completes (hst : ((s.servedUnit t).name (nameField (t.g a) 0)).st = .defined)
    (hpo : ∀ g ∈ ((s.servedUnit t).name (nameField (t.g a) 0)).poison, g / 4 ≠ bitsNat (t.g b) 6 0) (hh : bitsNat (t.g b) 6 0 < 72) :
    Completes (.tget a b v) s t
      ((s.serving t).accept t (.tget v.toNat (bitsNat (t.g b) 6 0)) [nameField (t.g a) 0] none none none 0 0) := by
  refine Requests.completes hr hp ht ⟨_, rfl, rfl⟩ ?_
  have hclean : ((s.servedUnit t).name (nameField (t.g a) 0)).poison.any (fun g => g / 4 = bitsNat (t.g b) 6 0) = false := by
    simpa using hpo
  simp only [Quad.checkReads_one hst, Nat.not_le.2 hh, hclean, if_false, Bool.false_eq_true]

theorem tget_traps_part (hst : ((s.servedUnit t).name (nameField (t.g a) 0)).st = .defined) (hh : 72 ≤ bitsNat (t.g b) 6 0) :
    exec (.tget a b v) s =
      .next ((s.serving t).trapMe (t.countWatch (s.watchStep t)) 0x23 (BitVec.ofNat 64 (nameField (t.g a) 0))) := by
  refine Requests.traps hr hp ht ⟨_, rfl, rfl⟩ ?_
  simp [Quad.checkReads_one hst, hh, nameTval]

theorem tget_traps_poison (hst : ((s.servedUnit t).name (nameField (t.g a) 0)).st = .defined) (hh : bitsNat (t.g b) 6 0 < 72)
    (hpo : ∃ g ∈ ((s.servedUnit t).name (nameField (t.g a) 0)).poison, g / 4 = bitsNat (t.g b) 6 0) :
    exec (.tget a b v) s =
      .next ((s.serving t).trapMe (t.countWatch (s.watchStep t)) 0x0B (BitVec.ofNat 64 (nameField (t.g a) 0))) := by
  refine Requests.traps hr hp ht ⟨_, rfl, rfl⟩ ?_
  simp [Quad.checkReads_one hst, Nat.not_le.2 hh, hpo, nameTval]

theorem tget_traps_free (hst : ((s.servedUnit t).name (nameField (t.g a) 0)).st = .free) :
    exec (.tget a b v) s =
      .next ((s.serving t).trapMe (t.countWatch (s.watchStep t)) 0x20 (BitVec.ofNat 64 (nameField (t.g a) 0))) := by
  refine Requests.traps hr hp ht ⟨_, rfl, rfl⟩ ?_
  simp [Quad.checkReads_free hst]

theorem tget_parks (hst : ((s.servedUnit t).name (nameField (t.g a) 0)).st = .declared) :
    Holds (.tget a b v) s (s.keepPlace t ((s.serving t).parkMe t (.names [nameField (t.g a) 0]))) := by
  refine Requests.holds hr hp ht ⟨_, rfl, rfl⟩ ?_
  simp [Quad.checkReads_declared hst]

/-! ### MLUT -/

section
variable {tableB nibble : Bool} (hi : exec i s = runWord {} (mlutBody tableB nibble a) s)
include hi

theorem mlut_waits (hc : (s.servedUnit t).copyUses t.core tableB = true) : Holds i s (s.keepPlace t (s.serving t)) :=
  Requests.holds hr hp ht ⟨_, hi, rfl⟩ (if_pos hc)

theorem mlut_completes {bs : List Byte} (hc : (s.servedUnit t).copyUses t.core tableB = false)
    (hread : regionRead (t.g a) (if nibble then 64 else 1024) 64 t (s.serving t) = .ok (s', bs)) :
    Completes i s t
      (s'.accept t (.mlut tableB nibble (lutEntries bs ((if nibble then 64 else 1024) / 4))) [] none none none 0 0) := by
  refine Requests.completes hr hp ht ⟨_, hi, rfl⟩ ?_
  simp only [hc, hread, if_false, Bool.false_eq_true]

end

end

theorem mlut_enters {i : Instr} {s : State} {t : Strand} {a : BitVec 5} {tableB nibble : Bool} (hr : Ready s t) (hp : Plain t)
    (hi : exec i s = runWord {} (mlutBody tableB nibble a) s) (hq : (s.unitOf t).queues s.cur = false) :
    Holds i s (s.putQuad (quadOf t.core) { s.unitOf t with queue := (s.unitOf t).queue ++ [⟨s.cur, s.ir, .plain, s.cyc⟩] }) :=
  Requests.enters hr hp ⟨_, hi, rfl⟩ hq

/-! ### TST -/

/-- The bytes that TST and TST.S store (R157). -/
def tstSize (side : Bool) : Nat := if side then 512 else 4096

theorem tstSize_eq (side : Bool) : (if side then 512 else 4096) = tstSize side := rfl

/-- The address and the weirs of a TST pass (R43, R157). -/
structure TstPasses (t : Strand) (b : BitVec 5) (side : Bool) (va : Nat) : Prop where
  address : eaCheck (t.g b) 0 (tstSize side) = .ok va
  aligned : va % (tstSize side) = 0
  weirs : weirRefuses t.weirs va (tstSize side) 3 = none

section
variable {i : Instr} {s s' : State} {t : Strand} {a b : BitVec 5} {side : Bool} {va : Nat} {tg : Target} (h : TstPasses t b side va)
include h

theorem tst_enters (hr : Ready s t) (hp : Plain t) (hi : exec i s = runWord {} (tstBody side a b) s)
    (hq : (s.unitOf t).queues s.cur = false) :
    Holds i s (s.putQuad (quadOf t.core) { s.unitOf t with queue := (s.unitOf t).queue ++ [⟨s.cur, s.ir, .plain, s.cyc⟩] }) := by
  obtain ⟨haddress, haligned, hweirs⟩ := h
  have hreq : ∃ f, tstBody side a b t s = tarnBody .plain f t s := by
    unfold tstBody
    simp only [tstSize_eq, haddress, haligned, hweirs, ne_eq, not_true_eq_false, if_false]
    exact ⟨_, rfl⟩
  obtain ⟨f, hf⟩ := hreq
  exact Requests.enters hr hp ⟨_, hi, hf⟩ hq

variable (ht : s.Turn t)
include ht

theorem tstBody_parks (hst : ((s.servedUnit t).name (nameField (t.g a) 0)).st = .declared) :
    tstBody side a b t s = .hold (s.keepPlace t ((s.serving t).parkMe t (.names [nameField (t.g a) 0]))) := by
  obtain ⟨haddress, haligned, hweirs⟩ := h
  simp only [tstBody, tstSize_eq, haddress, haligned, hweirs, tarnBody_of_turn ht, Quad.checkReads_declared hst]
  rfl

/-- TST of a defined name whose destination is there: dry, held while the store buffer is full, or entered into it. -/
theorem tstBody_answers (hst : ((s.servedUnit t).name (nameField (t.g a) 0)).st = .defined)
    (hpo : ∀ g ∈ ((s.servedUnit t).name (nameField (t.g a) 0)).poison, decide (256 ≤ g) ≠ side)
    (hres : resolve (s.serving t) t.vf t.mode (dieOf t.core) va .write = .ok s' tg) : tstBody side a b t s =
    if tg = .dry then .done ((s'.dryBytes t.vf (tstSize side)).accept t (.tst va side) [nameField (t.g a) 0] none none none 0 0)
    else if 8 ≤ t.buf.length then .hold (s.keepPlace t s')
    else .done ((s'.accept t (.tst va side) [nameField (t.g a) 0] none none none 0 0).putMe { t with buf := t.buf ++
      [⟨s'.tick, va, tg, (List.range ((tstSize side) / 64)).map fun i => (64 * i,
        ((if side then ((s.servedUnit t).name (nameField (t.g a) 0)).side else ((s.servedUnit t).name (nameField (t.g a) 0)).data).drop
          (64 * i)).take 64)⟩] }) := by
  obtain ⟨haddress, haligned, hweirs⟩ := h
  have hclean : ((s.servedUnit t).name (nameField (t.g a) 0)).poison.any (fun g => decide (256 ≤ g) == side) = false := by
    simpa using hpo
  simp only [tstBody, tstSize_eq, haddress, haligned, hweirs, tarnBody_of_turn ht, Quad.checkReads_one hst, hclean, State.reach_ok hres]
  by_cases hd : tg = .dry
  · simp [hd]
  · by_cases hb : 8 ≤ t.buf.length
    · simp [hd, hb]
    · simp [hd, hb]

end

/-- Settles O25: one lemma for each way that a request answers when it is served. -/
theorem tarnReadsAreAccepted : Obligations.TarnReadsAreAccepted := by
  unfold Obligations.TarnReadsAreAccepted
  intro s t a b v hr hp q x0 x s0 traps enters keeps n h takes parks
  have hn : nameField (t.g a) 0 = n := by simp [nameField_eq, n]
  have hh : bitsNat (t.g b) 6 0 = h := by simp [bitsNat_eq, h]
  clear_value n h
  subst hn hh
  have htst : ∀ p ∈ ([(.tst a b, 4096, false), (.tstS a b, 512, true)] : List (Instr × Nat × Bool)),
      exec p.1 s = runWord {} (tstBody p.2.2 a b) s ∧ p.2.1 = tstSize p.2.2 := by
    simp only [List.forall_mem_cons, List.not_mem_nil, false_imp_iff, implies_true, and_true]
    exact ⟨⟨rfl, rfl⟩, rfl, rfl⟩
  have hmlut : ∀ p ∈ ([(.mlutA a, false, false), (.mlutB a, true, false), (.mlutA4 a, false, true), (.mlutB4 a, true, true)] :
      List (Instr × Bool × Bool)), exec p.1 s = runWord {} (mlutBody p.2.1 p.2.2 a) s := by
    simp only [List.forall_mem_cons, List.not_mem_nil, false_imp_iff, implies_true, and_true]
    exact ⟨rfl, rfl, rfl, rfl⟩
  refine ⟨fun hq => ⟨Requests.enters hr hp ⟨_, rfl, rfl⟩ hq, ?tstEnters, ?mlutEnters⟩, fun hq ha => ?served⟩
  case tstEnters =>
    simp only [List.forall_mem_cons, List.not_mem_nil, false_imp_iff, implies_true, and_true]
    refine ⟨fun va haddress haligned hweirs => ?_, fun va haddress haligned hweirs => ?_⟩
    · exact tst_enters (side := false) ⟨haddress, haligned, hweirs⟩ hr hp rfl hq
    · exact tst_enters (side := true) ⟨haddress, haligned, hweirs⟩ hr hp rfl hq
  case mlutEnters =>
    simp only [List.forall_mem_cons, List.not_mem_nil, false_imp_iff, implies_true, and_true]
    exact ⟨mlut_enters hr hp rfl hq, mlut_enters hr hp rfl hq, mlut_enters hr hp rfl hq, mlut_enters hr hp rfl hq⟩
  case served =>
    have ht : s.Turn t := ⟨hq, ha⟩
    refine ⟨tget_completes hr hp ht, tget_traps_part hr hp ht, tget_traps_poison hr hp ht, tget_traps_free hr hp ht,
      tget_parks hr hp ht, fun p hmem => ?tst, fun p hmem => ?mlut⟩
    case tst =>
      obtain ⟨hi, hz⟩ := htst p hmem
      obtain ⟨i, z, side⟩ := p
      simp only at hi hz ⊢
      subst hz
      intro va haddress haligned hweirs
      have hpass : TstPasses t b side va := ⟨haddress, haligned, hweirs⟩
      refine ⟨fun hst => hi.trans (runWord_hold hr (.inr hp) (Nat.zero_le _) (tstBody_parks hpass ht hst)), fun hst hpo s' tg hres => ?_⟩
      have hans := tstBody_answers hpass ht hst hpo hres
      refine ⟨fun hd => ?_, fun hd hb => ?_, fun hd hb => ?_⟩
      · exact hi.trans (runWord_done hr (.inr hp) (Nat.zero_le _) (hans.trans (if_pos hd)))
      · exact hi.trans (runWord_hold hr (.inr hp) (Nat.zero_le _) (hans.trans ((if_neg hd).trans (if_pos hb))))
      · exact hi.trans (runWord_done hr (.inr hp) (Nat.zero_le _) (hans.trans ((if_neg hd).trans (if_neg (Nat.not_le.2 hb)))))
    case mlut =>
      exact ⟨mlut_waits hr hp ht (hmlut p hmem), fun hc s' bs hread => mlut_completes hr hp ht (hmlut p hmem) hc hread⟩

end Sys2Proof.Machine
end

section
/-!
SUPPORT. The requests of the matrix datapath (R163 to R170): what accepting one does of the allowance and the datapath (R294, R295),
where an MMAX takes its operands from (R167, R168), and how each request answers when it is served (O26).
-/
namespace Sys2Proof.Machine

@[simp] theorem State.serving_core (s : State) (t : Strand) (c : Nat) : (s.serving t).core c = s.core c := rfl
@[simp] theorem State.serving_mem (s : State) (t : Strand) : (s.serving t).mem = s.mem := rfl

/-! ### The allowance -/

@[simp] theorem Quad.refill_name (x : Quad) (cyc n : Nat) : (x.refill cyc).name n = x.name n := by
  unfold Quad.refill
  extract_lets k
  split
  · rfl
  split
  · rfl
  split
  · rfl
  · rfl

/-- Accepting a request of the datapath draws its cost and occupies the datapath, or, where the allowance does not cover the cost,
leaves the request owing it (R295). -/
theorem State.acceptData_eq (s : State) (t : Strand) (kind : MatKind) (reads : List Nat) (n : Nat) (aOp bOp : Option Operand)
    (cost occ : Nat) : s.acceptData t kind reads n aOp bOp cost occ =
    let y := (s.quad (quadOf t.core)).refill s.cyc
    let o : Nat → MatOp := fun owes => ⟨s.cur, kind, reads, some n, ((s.quad (quadOf t.core)).name n).decl, (s.core t.core).ctx t,
      aOp, bOp, owes, occ, s.tick⟩
    let by_ := if y.mmaxBy = some s.cur then none else y.mmaxBy
    s.putQuad (quadOf t.core) (if cost ≤ y.level.toNat then
        { y with level := BitVec.ofNat 32 (y.level.toNat - cost), ops := y.ops ++ [o 0],
                 busyUntil := if occ = 0 then y.busyUntil else s.cyc + occ, mmaxBy := by_ }
      else { y with ops := y.ops ++ [o cost], mmaxBy := by_ }) := by
  extract_lets y o by_
  have hname : y.name n = (s.quad (quadOf t.core)).name n := Quad.refill_name ..
  by_cases h : cost ≤ y.level.toNat
  · have hcharge : s.charge t cost = (s.putQuad (quadOf t.core) { y with level := BitVec.ofNat 32 (y.level.toNat - cost) }, 0) := if_pos h
    have hdecl : (({ y with level := BitVec.ofNat 32 (y.level.toNat - cost) } : Quad).name n).decl = ((s.quad (quadOf t.core)).name n).decl := by
      rw [← hname]; rfl
    simp only [State.acceptData, hcharge, State.accept, State.quad_putQuad, if_true, State.putQuad_putQuad, if_pos h]
    simp only [hdecl, ne_eq, not_true_eq_false, decide_false, Bool.or_false, decide_eq_true_eq]
    rfl
  · have hcharge : s.charge t cost = (s.putQuad (quadOf t.core) y, cost) := if_neg h
    have howes : cost ≠ 0 := by omega
    simp only [State.acceptData, hcharge, State.accept, State.quad_putQuad, if_true, State.putQuad_putQuad, if_neg h]
    simp only [hname, howes, ne_eq, not_false_eq_true, decide_true, Bool.or_true, if_true]
    rfl

/-! ### The checks that products share -/

theorem Quad.checkOut_ok {x : Quad} {t : Strand} {u n : Nat} {cin : Option Nat} (h : x.checkDest t u n = .ok false) (hc : cin ≠ some n) :
    x.checkOut t u n cin = .ok false := by
  simp [Quad.checkOut, h, hc]

/-- A name that an instruction may read whole. -/
def Quad.good (x : Quad) (n : Nat) : Prop := (x.name n).st = .defined ∧ (x.name n).bad = false

theorem Quad.find?_bad {x : Quad} {ns : List Nat} (h : ∀ n ∈ ns, x.good n) : ns.find? (fun n => (x.name n).bad) = none :=
  List.find?_eq_none.2 fun n hn => by simp [(h n hn).2]

theorem Quad.checkReads_good {x : Quad} {ns : List Nat} (h : ∀ n ∈ ns, x.good n) : x.checkReads ns = .ok [] :=
  Quad.checkReads_defined fun n hn => (h n hn).1

/-! ### MMA -/

section
variable {i : Instr} {s : State} {t : Strand} {a : BitVec 5} {nc : Bool} {cin : Option Nat} {ta tb : Nat}

/-- The operands of an MMA pass the checks of R163. -/
structure MmaPasses (s : State) (t : Strand) (g : Word64) (cin : Option Nat) (ta tb : Nat) : Prop where
  dest : (s.servedUnit t).checkDest t s.cur (nameField g 3) = .ok false
  apart : cin ≠ some (nameField g 3)
  acc : isAcc ((s.servedUnit t).name (nameField g 3)).tag = true
  reads : ∀ n ∈ [nameField g 0, nameField g 1] ++ cin.toList, (s.servedUnit t).good n
  product : productChecks ta tb (some (((s.servedUnit t).name (nameField g 0)).tag, nameField g 0))
    ((s.servedUnit t).name (nameField g 1)).tag (nameField g 1) (cin.map fun n => (((s.servedUnit t).name n).tag, n)) = none

theorem mmaBody_passes (hcin : (if nc then none else some (nameField (t.g a) 2)) = cin)
    (hta : bitsNat (s.core t.core).tblsel 63 60 = ta) (htb : bitsNat (s.core t.core).tblsel 59 56 = tb)
    (h : MmaPasses s t (t.g a) cin ta tb) :
    ∃ f, mmaBody nc a t s = tarnBody .datapath f t s ∧ f t (s.servedUnit t) (s.serving t) =
      if (s.servedUnit t).defines s.cur (nameField (t.g a) 3) || (s.serving t).typeBusy t.core ta || (s.serving t).typeBusy t.core tb then
        .hold (s.serving t)
      else
        let k := tagCols ((s.servedUnit t).name (nameField (t.g a) 0)).tag + 1
        .done ((s.serving t).acceptData t (.mma cin) ([nameField (t.g a) 0, nameField (t.g a) 1] ++ cin.toList) (nameField (t.g a) 3)
          none none (productCost ta tb k) (occupancy ta tb k)) := by
  subst hcin
  obtain ⟨hdest, hapart, hacc, hreads, hproduct⟩ := h
  refine ⟨_, rfl, ?_⟩
  simp only [State.serving_cur, State.serving_core, hta, htb, Quad.checkOut_ok hdest hapart, hacc, Quad.checkReads_good hreads, Quad.find?_bad hreads, hproduct]
  rfl
end

/-! ### MMAX -/

/-- The column of the quad in the rectangle of its MMAX (R166). -/
def mmaxX (g : Word64) : Nat := bitsNat g 42 40
/-- The row of the quad in that rectangle. -/
def mmaxY (g : Word64) : Nat := bitsNat g 45 43
/-- The quads of a row. -/
def mmaxW (g : Word64) : Nat := bitsNat g 34 32 + 1
/-- The rows. -/
def mmaxH (g : Word64) : Nat := bitsNat g 37 35 + 1
/-- The quad at the origin of the rectangle. -/
def mmaxOrigin (q : Nat) (g : Word64) : Nat := q - mmaxX g - 16 * mmaxY g
/-- The names that an MMAX reads: A at the west edge alone (R167). -/
def mmaxReads (g : Word64) (cin : Option Nat) : List Nat := (if mmaxX g = 0 then [nameField g 0] else []) ++ cin.toList
/-- The B operand whose image stands at an offset of a quad's region (R167, R223). -/
def State.mmaxB (s : State) (q off : Nat) : Operand :=
  let bs := Memory.bytes s.mem (regionKey q off) 4672
  ⟨BitVec.ofNat 29 (leNat (bs.take 8) / 2 ^ 35), (bs.drop 64).take 4096, bs.drop 4160⟩

/-- An MMAX is accepted with its A operand, which goes on to the east (R167, R168). -/
def State.acceptMmax (s : State) (t : Strand) (g : Word64) (cin : Option Nat) (ta tb : Nat) (oa ob : Operand) : State :=
  let q := quadOf t.core
  let s := s.acceptData t (.mmax cin (mmaxX g + 1 < mmaxW g)) (mmaxReads g cin) (nameField g 3) (some oa) (some ob)
    (productCost ta tb (tagCols ob.tag + 1)) (occupancy ta tb (tagCols ob.tag + 1))
  if mmaxX g + 1 < mmaxW g then s.putQuad (q + 1) { s.quad (q + 1) with
    streams := (s.quad (q + 1)).streams ++ [⟨t.birthJob, mmaxOrigin q g, mmaxW g, oa, false⟩] } else s

/-- The state that the issue of an MMAX leaves for its request: the strand holds the quad's place (R168). -/
def State.mmaxIssued (s : State) (t : Strand) : State :=
  s.putQuad (quadOf t.core) { s.quad (quadOf t.core) with mmaxBy := some s.cur }

theorem Quad.refill_mmaxBy (x : Quad) (cyc : Nat) (m : Option Nat) :
    ({ x with mmaxBy := m } : Quad).refill cyc = { x.refill cyc with mmaxBy := m } := by
  simp only [Quad.refill]
  split
  · rfl
  split
  · rfl
  split
  · next h => rw [show x.servedAt _ _ = none from h]; rfl
  · next h => rw [show x.servedAt _ _ = some _ from h]; rfl

theorem Quad.refreshed_mmaxBy (x : Quad) (cyc : Nat) (m : Option Nat) :
    ({ x with mmaxBy := m } : Quad).refreshed cyc = { x.refreshed cyc with mmaxBy := m } := by
  have howed : ({ x with mmaxBy := m } : Quad).owed = x.owed := rfl
  simp only [Quad.refreshed, howed]
  split
  · exact x.refill_mmaxBy cyc m
  · rfl

section
variable (s : State) (t : Strand)

theorem State.mmaxIssued_putQuad (x : Quad) : (s.mmaxIssued t).putQuad (quadOf t.core) x = s.putQuad (quadOf t.core) x :=
  State.putQuad_putQuad ..

theorem State.mmaxIssued_unitOf : (s.mmaxIssued t).unitOf t = { s.unitOf t with mmaxBy := some s.cur } := by
  rw [State.unitOf, State.mmaxIssued, State.quad_putQuad, if_pos rfl]
  exact Quad.refreshed_mmaxBy ..

theorem State.mmaxIssued_servedUnit : (s.mmaxIssued t).servedUnit t = { s.servedUnit t with mmaxBy := some s.cur } := by
  rw [State.servedUnit, State.mmaxIssued_unitOf]
  rfl

theorem State.mmaxIssued_serving :
    (s.mmaxIssued t).serving t = s.putQuad (quadOf t.core) { s.servedUnit t with mmaxBy := some s.cur } := by
  rw [State.serving, State.mmaxIssued_servedUnit]
  exact State.putQuad_putQuad ..

theorem State.mmaxIssued_keepPlace (s' : State) : (s.mmaxIssued t).keepPlace t s' = s.keepPlace t s' := by
  rw [State.keepPlace, State.mmaxIssued_unitOf]
  rfl

theorem State.mmaxIssued_arbiter : (s.mmaxIssued t).arbiter (quadOf t.core) = s.arbiter (quadOf t.core) := by
  have hunit : ((s.mmaxIssued t).quad (quadOf t.core)).refreshed (s.mmaxIssued t).cyc = _ := s.mmaxIssued_unitOf t
  rw [State.arbiter, hunit]
  rfl

theorem State.mmaxIssued_turn (h : s.Turn t) : (s.mmaxIssued t).Turn t := by
  refine ⟨?_, (s.mmaxIssued_arbiter t).trans h.2⟩
  rw [State.mmaxIssued_unitOf]
  exact h.1

theorem State.mmaxIssued_typeBusy (ty : Nat) :
    ((s.mmaxIssued t).serving t).typeBusy t.core ty = (s.serving t).typeBusy t.core ty := by
  simp only [State.typeBusy, State.mlutBusy, State.serving_quad, State.mmaxIssued_servedUnit]
  rfl

end

/-- The checks of an MMAX pass up to its stream: its place and rectangle, its destination, its operands (R163, R166, R167). -/
structure MmaxPasses (s : State) (x : Quad) (t : Strand) (g gb : Word64) (cin : Option Nat) (ta tb : Nat) : Prop where
  inside : mmaxX g < mmaxW g ∧ mmaxY g < mmaxH g ∧ mmaxX g ≤ quadOf t.core % 16 ∧ mmaxY g ≤ quadOf t.core / 16 % 16 ∧
    quadOf t.core % 16 - mmaxX g + mmaxW g ≤ 16 ∧ quadOf t.core / 16 % 16 - mmaxY g + mmaxH g ≤ 16
  quads : ∀ dy < mmaxH g, ∀ dx < mmaxW g, s.coreIn t.vf (4 * (mmaxOrigin (quadOf t.core) g + 16 * dy + dx)) = true
  dest : x.checkDest t s.cur (nameField g 3) = .ok false
  apart : cin ≠ some (nameField g 3)
  acc : isAcc (x.name (nameField g 3)).tag = true
  reads : ∀ n ∈ mmaxReads g cin, x.good n
  owner : x.bvf = t.vf
  room : bitsNat gb 31 0 + 4672 ≤ x.regionSize
  aligned : bitsNat gb 31 0 % 64 = 0
  product : productChecks ta tb (if mmaxX g = 0 then some ((x.name (nameField g 0)).tag, nameField g 0) else none)
    (s.mmaxB (quadOf t.core) (bitsNat gb 31 0)).tag (nameField g 1) (cin.map fun n => ((x.name n).tag, n)) = none
  clean : s.poisoned (regionKey (quadOf t.core) (bitsNat gb 31 0)) 4672 = false
  fresh : x.defines s.cur (nameField g 3) = false
  tableA : (s.serving t).typeBusy t.core ta = false
  tableB : (s.serving t).typeBusy t.core tb = false

/-- An MMAX whose checks pass takes its A operand from a name at the west edge, and elsewhere from the first stream of its origin and
its job that has arrived: it waits while there is none, and consumes one that does not fit. -/
theorem mmaxBody_passes {s : State} {t : Strand} {a b : BitVec 5} {nc : Bool} {cin : Option Nat} {ta tb : Nat}
    (hcin : (if nc then none else some (nameField (t.g a) 2)) = cin)
    (hta : bitsNat (s.core t.core).tblsel 63 60 = ta) (htb : bitsNat (s.core t.core).tblsel 59 56 = tb)
    (h : MmaxPasses s (s.servedUnit t) t (t.g a) (t.g b) cin ta tb) :
    let g := t.g a
    let q := quadOf t.core
    let ob := s.mmaxB q (bitsNat (t.g b) 31 0)
    ∃ f, (∀ s', mmaxBody nc a b t s' = if (s'.quad q).mmaxOther s'.cur then .hold s' else tarnBody .datapath f t (s'.mmaxIssued t)) ∧
      f t (s.servedUnit t) (s.serving t) =
        if mmaxX g = 0 then .done ((s.serving t).acceptMmax t g cin ta tb ((s.servedUnit t).name (nameField g 0)).operand ob)
        else match (s.servedUnit t).streams.find? fun m => m.arrived && m.origin == mmaxOrigin q g && m.job == t.birthJob with
          | none => .hold ((s.serving t).parkMe t .stream)
          | some m =>
            let s1 := (s.serving t).putQuad q { s.servedUnit t with streams := (s.servedUnit t).streams.filter (· ≠ m) }
            if m.w = mmaxW g ∧ tagT m.a.tag = ta ∧ tagCols m.a.tag = tagCols ob.tag then .done (s1.acceptMmax t g cin ta tb m.a ob)
            else .trapIn s1 0x23 0x100#64 := by
  subst hcin
  intro g q ob
  obtain ⟨⟨hx, hy, hqx, hqy, hw, hh⟩, hquads, hdest, hapart, hacc, hreads, howner, hroom, haligned, hproduct, hclean, hfresh, hA, hB⟩ := h
  refine ⟨_, fun s' => rfl, ?_⟩
  refine (if_neg ?_).trans ((if_neg ?_).trans ?_)
  · simp only [Bool.or_eq_true, decide_eq_true_eq, not_or]
    simp only [mmaxX, mmaxY, mmaxW, mmaxH] at hx hy hqx hqy hw hh
    omega
  · intro hany
    obtain ⟨r, hr, hout⟩ := List.any_eq_true.1 hany
    obtain ⟨dy, hdy, hr⟩ := List.mem_flatMap.1 hr
    obtain ⟨dx, hdx, rfl⟩ := List.mem_map.1 hr
    have hin : (s.serving t).coreIn t.vf (4 * (q - bitsNat g 42 40 - 16 * bitsNat g 45 43 + 16 * dy + dx)) = true :=
      hquads dy (List.mem_range.1 hdy) dx (List.mem_range.1 hdx)
    exact absurd hout (by simpa using hin)
  · have hreads' : ∀ n ∈ (if bitsNat (t.g a) 42 40 = 0 then [nameField (t.g a) 0] else []) ++
        (if nc then none else some (nameField (t.g a) 2)).toList, (s.servedUnit t).good n := hreads
    have hregion : (decide ((s.servedUnit t).bvf ≠ t.vf) || decide ((s.servedUnit t).regionSize < bitsNat (t.g b) 31 0 + 4672)) = false := by
      simp [howner, hroom]
    have hproduct' : productChecks ta tb
        (if bitsNat (t.g a) 42 40 = 0 then some (((s.servedUnit t).name (nameField (t.g a) 0)).tag, nameField (t.g a) 0) else none)
        (BitVec.ofNat 29 (leNat ((Memory.bytes s.mem (regionKey (quadOf t.core) (bitsNat (t.g b) 31 0)) 4672).take 8) / 2 ^ 35))
        (nameField (t.g a) 1)
        ((if nc then none else some (nameField (t.g a) 2)).map fun n => (((s.servedUnit t).name n).tag, n)) = none := hproduct
    have hclean' : (s.serving t).poisoned (regionKey (quadOf t.core) (bitsNat (t.g b) 31 0)) 4672 = false := hclean
    simp only [State.serving_cur, State.serving_core, State.serving_mem, hta, htb, Quad.checkOut_ok hdest hapart, hacc,
      Quad.checkReads_good hreads', Quad.find?_bad hreads', hregion, haligned, hproduct', hclean', hfresh, hA, hB, Bool.not_true,
      Bool.or_self, Bool.false_eq_true, ne_eq, not_true_eq_false, if_false]
    by_cases hwest : mmaxX g = 0
    · rw [if_pos hwest, if_pos (show bitsNat (t.g a) 42 40 = 0 from hwest)]
      rfl
    · rw [if_neg hwest, if_neg (show ¬bitsNat (t.g a) 42 40 = 0 from hwest)]
      have hmine (r : Option Stream) (e : ((s.servedUnit t).streams.find? fun m =>
          m.arrived && m.origin == mmaxOrigin q g && m.job == t.birthJob) = r) : ((s.servedUnit t).streams.find? fun m => m.arrived &&
            m.origin == quadOf t.core - bitsNat (t.g a) 42 40 - 16 * bitsNat (t.g a) 45 43 && m.job == t.birthJob) = r := e
      cases hm : (s.servedUnit t).streams.find? fun m => m.arrived && m.origin == mmaxOrigin q g && m.job == t.birthJob with
      | none =>
        rw [hmine _ hm]
        rfl
      | some m =>
        rw [hmine _ hm]
        by_cases hfit : m.w = mmaxW g ∧ tagT m.a.tag = ta ∧ tagCols m.a.tag = tagCols ob.tag
        · obtain ⟨hmw, hmt, hmc⟩ := hfit
          have hgood : (decide (¬m.w = bitsNat (t.g a) 34 32 + 1) || decide (¬tagT m.a.tag = ta) || decide (¬tagCols m.a.tag = tagCols ob.tag)) ≠ true := by
            simp [hmt, hmc, show m.w = bitsNat (t.g a) 34 32 + 1 from hmw]
          exact (if_neg hgood).trans (if_pos ⟨hmw, hmt, hmc⟩).symm
        · have hbad : (decide (¬m.w = bitsNat (t.g a) 34 32 + 1) || decide (¬tagT m.a.tag = ta) || decide (¬tagCols m.a.tag = tagCols ob.tag)) = true := by
            by_contra hn
            exact hfit (by simpa [and_assoc, mmaxW] using hn)
          exact (if_pos hbad).trans (if_neg hfit).symm

section
variable {i : Instr} {s : State} {t : Strand} {a b : BitVec 5} {nc : Bool} (hi : exec i s = runWord {} (mmaxBody nc a b) s)
  (hr : Ready s t) (hp : Plain t)
include hi hr hp

/-- A second MMAX of the quad waits (R168). -/
theorem mmax_waits (h : (s.quad (quadOf t.core)).mmaxOther s.cur = true) : Holds i s s :=
  hi.trans (runWord_hold hr (.inr hp) (Nat.zero_le _) (if_pos h))

theorem mmax_enters (h : (s.quad (quadOf t.core)).mmaxOther s.cur = false) (hq : (s.unitOf t).queues s.cur = false) :
    Holds i s (s.putQuad (quadOf t.core) { s.unitOf t with
      mmaxBy := some s.cur, queue := (s.unitOf t).queue ++ [⟨s.cur, s.ir, .datapath, s.cyc⟩] }) := by
  have hq1 : ((s.mmaxIssued t).unitOf t).queues (s.mmaxIssued t).cur = false := by
    rw [State.mmaxIssued_unitOf]
    exact hq
  have henters : Holds i s _ := Requests.enters (s1 := s.mmaxIssued t) hr hp ⟨_, hi, if_neg (by simp [h])⟩ hq1
  rw [State.mmaxIssued_unitOf, State.mmaxIssued_putQuad] at henters
  exact henters

end

/-- The checks do not see who holds the quad's place for an MMAX. -/
theorem MmaxPasses.issued {s : State} {t : Strand} {g gb : Word64} {cin : Option Nat} {ta tb : Nat}
    (h : MmaxPasses s (s.servedUnit t) t g gb cin ta tb) :
    MmaxPasses (s.mmaxIssued t) ((s.mmaxIssued t).servedUnit t) t g gb cin ta tb := by
  rw [State.mmaxIssued_servedUnit]
  exact ⟨h.inside, h.quads, h.dest, h.apart, h.acc, h.reads, h.owner, h.room, h.aligned, h.product, h.clean, h.fresh,
    (s.mmaxIssued_typeBusy t ta).trans h.tableA, (s.mmaxIssued_typeBusy t tb).trans h.tableB⟩

/-- The request that an MMAX whose checks pass makes, and what it answers when it is served. -/
theorem mmax_requests {i : Instr} {s : State} {t : Strand} {a b : BitVec 5} {nc : Bool} {cin : Option Nat} {ta tb : Nat}
    (hi : exec i s = runWord {} (mmaxBody nc a b) s) (hcin : (if nc then none else some (nameField (t.g a) 2)) = cin)
    (hta : bitsNat (s.core t.core).tblsel 63 60 = ta) (htb : bitsNat (s.core t.core).tblsel 59 56 = tb)
    (hother : (s.quad (quadOf t.core)).mmaxOther s.cur = false) (h : MmaxPasses s (s.servedUnit t) t (t.g a) (t.g b) cin ta tb) :
    let q := quadOf t.core
    let y : Quad := { s.servedUnit t with mmaxBy := some s.cur }
    let ob := s.mmaxB q (bitsNat (t.g b) 31 0)
    let mine := y.streams.find? fun m => m.arrived && m.origin == mmaxOrigin q (t.g a) && m.job == t.birthJob
    ∃ f, Requests i s (s.mmaxIssued t) t .datapath f ∧ ∃ r, f t ((s.mmaxIssued t).servedUnit t) ((s.mmaxIssued t).serving t) = r ∧
      (mmaxX (t.g a) = 0 →
        r = .done ((s.putQuad q y).acceptMmax t (t.g a) cin ta tb ((s.servedUnit t).name (nameField (t.g a) 0)).operand ob)) ∧
      (mmaxX (t.g a) ≠ 0 → mine = none → r = .hold ((s.putQuad q y).parkMe t .stream)) ∧
      (mmaxX (t.g a) ≠ 0 → ∀ m, mine = some m → let s1 := s.putQuad q { y with streams := y.streams.filter (· ≠ m) }
        (m.w = mmaxW (t.g a) ∧ tagT m.a.tag = ta ∧ tagCols m.a.tag = tagCols ob.tag →
          r = .done (s1.acceptMmax t (t.g a) cin ta tb m.a ob)) ∧
        (¬(m.w = mmaxW (t.g a) ∧ tagT m.a.tag = ta ∧ tagCols m.a.tag = tagCols ob.tag) → r = .trapIn s1 0x23 0x100#64)) := by
  intro q y ob mine
  obtain ⟨f, hbody, hf⟩ := mmaxBody_passes (s := s.mmaxIssued t) (b := b) hcin hta htb h.issued
  refine ⟨f, ⟨_, hi, (hbody s).trans (if_neg (by simp [hother]))⟩, _, hf, ?_⟩
  simp only [State.mmaxIssued_servedUnit, State.mmaxIssued_serving, State.putQuad_putQuad]
  refine ⟨fun h0 => if_pos h0, fun h0 hm => (if_neg h0).trans ?_, fun h0 m hm => ⟨fun hfit => (if_neg h0).trans ?_, fun hmis => (if_neg h0).trans ?_⟩⟩
  · rw [show List.find? _ _ = none from hm]
  · rw [show List.find? _ _ = some m from hm]
    exact if_pos hfit
  · rw [show List.find? _ _ = some m from hm]
    exact if_neg hmis

/-! ### MTRN and MCVT -/

section
variable {s : State} {t : Strand} {a : BitVec 5} (hr : Ready s t) (hp : Plain t) (ht : s.Turn t)
  (hdest : (s.servedUnit t).checkDest t s.cur (nameField (t.g a) 3) = .ok false)
  (hgood : (s.servedUnit t).good (nameField (t.g a) 2)) (hfresh : (s.servedUnit t).defines s.cur (nameField (t.g a) 3) = false)
include hr hp ht hdest hgood hfresh

theorem mtrn_completes
    (hfit : let gs := ((s.servedUnit t).name (nameField (t.g a) 2)).tag
      let gd := ((s.servedUnit t).name (nameField (t.g a) 3)).tag
      tagT gd = tagT gs ∧ tagRows gd = tagCols gs ∧ tagCols gd = tagRows gs ∧ tagO gd = 1 - tagO gs ∧ tagCols gs ≤ 31 ∧
        tagNsc gs = 0 ∧ tagNsc gd = 0) :
    Completes (.mtrn a) s t ((s.serving t).acceptData t .mtrn [nameField (t.g a) 2] (nameField (t.g a) 3) none none 32 32) := by
  obtain ⟨hT, hrows, hcols, ho, hmax, hns, hnd⟩ := hfit
  have hreads : (s.servedUnit t).checkReads [nameField (t.g a) 2] = .ok [] := Quad.checkReads_one hgood.1
  refine Requests.completes hr hp ht ⟨_, rfl, rfl⟩ ?_
  simp [hdest, hreads, hT, hrows, hcols, ho, Nat.not_lt.2 hmax, hns, hnd, hgood.2, hfresh]

theorem mcvt_completes
    (hfit : let gs := ((s.servedUnit t).name (nameField (t.g a) 2)).tag
      let gd := ((s.servedUnit t).name (nameField (t.g a) 3)).tag
      8 ≤ tagT gs ∧ tagT gs ≤ 10 ∧ 8 ≤ tagT gd ∧ tagT gd ≤ 13 ∧ tagRows gd = tagRows gs ∧ tagCols gd = tagCols gs ∧ tagO gd = tagO gs ∧
        (tagNsc gs = 0 ∨ (tagRows gs + 1) * tagBlocks gs ≤ tagNsc gs) ∧ (tagNsc gd = 0 ∨ (tagRows gs + 1) * tagBlocks gs ≤ tagNsc gd))
    (hbusy : (s.serving t).typeBusy t.core (tagT ((s.servedUnit t).name (nameField (t.g a) 3)).tag) = false)
    (hall : ∀ r ∈ mcvtAll ((s.core t.core).ctx t) ((s.servedUnit t).name (nameField (t.g a) 2)).operand
      ((s.servedUnit t).name (nameField (t.g a) 3)).operand, r ≠ none) :
    Completes (.mcvt a) s t ((s.serving t).acceptData t .mcvt [nameField (t.g a) 2] (nameField (t.g a) 3) none none 32 32) := by
  obtain ⟨hs8, hs10, hd8, hd13, hrows, hcols, ho, hns, hnd⟩ := hfit
  have hreads : (s.servedUnit t).checkReads [nameField (t.g a) 2] = .ok [] := Quad.checkReads_one hgood.1
  have hscale {n need : Nat} (h : n = 0 ∨ need ≤ n) : (decide (0 < n) && decide (n < need)) = false := by
    simp only [Bool.and_eq_false_iff, decide_eq_false_iff_not]
    omega
  have hnone : (mcvtAll ((s.core t.core).ctx t) ((s.servedUnit t).name (nameField (t.g a) 2)).operand
      ((s.servedUnit t).name (nameField (t.g a) 3)).operand).any Option.isNone = false :=
    List.any_eq_false.2 fun r hr => by simpa using hall r hr
  refine Requests.completes hr hp ht ⟨_, rfl, rfl⟩ ?_
  simp [hdest, hreads, hs8, hs10, hd8, hd13, hrows, hcols, ho, hscale hns, hscale hnd, hgood.2, hfresh, hbusy, hnone]

end

/-- Settles O26: the checks of each request pass to the state in which it is accepted, whose form is that of the statement. -/
theorem matrixInstructionsAreAccepted : Obligations.MatrixInstructionsAreAccepted := by
  unfold Obligations.MatrixInstructionsAreAccepted
  intro s t a b hr hp q x0 x s0 enters keeps g nm n0 n1 n2 n3 ta tb good accepted fresh
  have hn0 : nameField (t.g a) 0 = n0 := nameField_eq ..
  have hn1 : nameField (t.g a) 1 = n1 := nameField_eq ..
  have hn2 : nameField (t.g a) 2 = n2 := nameField_eq ..
  have hn3 : nameField (t.g a) 3 = n3 := nameField_eq ..
  have hta : bitsNat (s.core t.core).tblsel 63 60 = ta := by rw [bitsNat_eq]; omega
  have htb : bitsNat (s.core t.core).tblsel 59 56 = tb := bitsNat_eq ..
  clear_value n0 n1 n2 n3 ta tb
  subst hn0 hn1 hn2 hn3
  have hmma : ∀ p ∈ ([(.mma a, some (nameField g 2)), (.mmaNc a, none)] : List (Instr × Option Nat)), ∃ nc,
      exec p.1 s = runWord {} (mmaBody nc a) s ∧ (if nc then none else some (nameField g 2)) = p.2 := by
    simp only [List.forall_mem_cons, List.not_mem_nil, false_imp_iff, implies_true, and_true]
    exact ⟨⟨false, rfl, rfl⟩, true, rfl, rfl⟩
  have hmmax : ∀ p ∈ ([(.mmax a b, some (nameField g 2)), (.mmaxNc a b, none)] : List (Instr × Option Nat)), ∃ nc,
      exec p.1 s = runWord {} (mmaxBody nc a b) s ∧ (if nc then none else some (nameField g 2)) = p.2 := by
    simp only [List.forall_mem_cons, List.not_mem_nil, false_imp_iff, implies_true, and_true]
    exact ⟨⟨false, rfl, rfl⟩, true, rfl, rfl⟩
  refine ⟨fun hq => ⟨?enters, fun hother => ?mmaxEnters⟩, fun hother => ?mmaxWaits, fun hq ha hst hown => ?served⟩
  case enters =>
    simp only [List.forall_mem_cons, List.not_mem_nil, false_imp_iff, implies_true, and_true]
    exact ⟨Requests.enters hr hp ⟨_, rfl, rfl⟩ hq, Requests.enters hr hp ⟨_, rfl, rfl⟩ hq, Requests.enters hr hp ⟨_, rfl, rfl⟩ hq,
      Requests.enters hr hp ⟨_, rfl, rfl⟩ hq⟩
  case mmaxEnters =>
    simp only [List.forall_mem_cons, List.not_mem_nil, false_imp_iff, implies_true, and_true]
    exact ⟨mmax_enters rfl hr hp hother hq, mmax_enters rfl hr hp hother hq⟩
  case mmaxWaits =>
    simp only [List.forall_mem_cons, List.not_mem_nil, false_imp_iff, implies_true, and_true]
    exact ⟨mmax_waits rfl hr hp hother, mmax_waits rfl hr hp hother⟩
  case served =>
    have ht : s.Turn t := ⟨hq, ha⟩
    have hdest : x.checkDest t s.cur (nameField g 3) = .ok false := Quad.checkDest_declared hst hown
    have hs0 : s0.quad q = x := State.serving_quad s t
    have haccept {s' : State} (hd : ((s'.quad q).name (nameField g 3)).decl = (x.name (nameField g 3)).decl) (k : MatKind) (r : List Nat)
        (oa ob : Option Operand) (cost occ : Nat) :
        s'.acceptData t k r (nameField g 3) oa ob cost occ = accepted s' k r oa ob cost occ := by
      rw [State.acceptData_eq, show ((s'.quad (quadOf t.core)).name (nameField g 3)).decl = _ from hd]
    have haccept0 := haccept (s' := s0) (by rw [hs0])
    refine ⟨fun p hmem => ?mma, fun p hmem => ?mmax, ?convert⟩
    case mma =>
      intro reads k hapart hacc hreads hproduct
      obtain ⟨nc, hi, hcin⟩ := hmma p hmem
      obtain ⟨f, hb, hf⟩ := mmaBody_passes hcin hta htb ⟨hdest, hapart, hacc, hreads, hproduct⟩
      refine ⟨fun ⟨hfresh, hA, hB⟩ => ?_, fun hlater => ?_⟩
      · rw [← haccept0]
        exact Requests.completes hr hp ht ⟨_, hi, hb⟩ (hf.trans (if_neg (by simp [show (s.servedUnit t).defines _ _ = false from hfresh,
          show (s.serving t).typeBusy _ _ = false from hA, show (s.serving t).typeBusy _ _ = false from hB])))
      · refine Requests.holds hr hp ht ⟨_, hi, hb⟩ (hf.trans (if_pos ?_))
        simp only [Bool.or_eq_true, or_assoc]
        exact hlater.imp_left fun hn => Bool.not_eq_false _ |>.mp hn
    case mmax =>
      intro px py w h org off reads bs gb ob k y sent mine
      obtain ⟨nc, hi, hcin⟩ := hmmax p hmem
      have hpx : mmaxX (t.g a) = px := bitsNat_eq ..
      have hpy : mmaxY (t.g a) = py := bitsNat_eq ..
      have hwd : mmaxW (t.g a) = w := congrArg (· + 1) (bitsNat_eq ..)
      have hht : mmaxH (t.g a) = h := congrArg (· + 1) (bitsNat_eq ..)
      have hoff : bitsNat (t.g b) 31 0 = off := by simp [bitsNat_eq, off]
      clear_value px py w h off
      subst hpx hpy hwd hht hoff
      intro hin1 hin2 hin3 hin4 hin5 hin6 hquads hapart hacc hreads howner hroom haligned hproduct hclean hfresh hA hB hother
      have hpass : MmaxPasses s (s.servedUnit t) t (t.g a) (t.g b) p.2 ta tb :=
        ⟨⟨hin1, hin2, hin3, hin4, hin5, hin6⟩, hquads, hdest, hapart, hacc, hreads, howner, hroom, haligned, hproduct, hclean, hfresh, hA, hB⟩
      have hsent (ss : List Stream) (oa : Operand) : (s.putQuad q { y with streams := ss }).acceptMmax t (t.g a) p.2 ta tb oa ob =
          sent (s.putQuad q { y with streams := ss }) oa := by
        simp only [State.acceptMmax]
        rw [show nameField (t.g a) 3 = nameField g 3 from rfl, haccept (by rw [State.quad_putQuad, if_pos rfl]; rfl)]
        rfl
      have ht1 := s.mmaxIssued_turn t ht
      obtain ⟨f, hreq, r, hf, hwest, hnone, hsome⟩ := mmax_requests hi hcin hta htb hother hpass
      refine ⟨fun h0 => ?_, fun h0 m hm => ⟨fun hfit => ?_, fun hmis => ?_⟩, fun h0 hm => ?_⟩
      · rw [← hsent x.streams]
        exact hreq.completes hr hp ht1 (hf.trans (hwest h0))
      · rw [← hsent (x.streams.filter (· ≠ m))]
        exact hreq.completes hr hp ht1 (hf.trans ((hsome h0 m hm).1 hfit))
      · have hmis' : ¬(m.w = mmaxW (t.g a) ∧ tagT m.a.tag = ta ∧ tagCols m.a.tag = tagCols gb) := fun ⟨h1, h2, h3⟩ => by simp [h1, h2, h3] at hmis
        exact hreq.trapsIn hr hp ht1 (hf.trans ((hsome h0 m hm).2 hmis')) hr.1
      · have hhold := hreq.holds hr hp ht1 (hf.trans (hnone h0 hm))
        rw [State.mmaxIssued_keepPlace] at hhold
        exact hhold
    case convert =>
      intro gs gd hgood hfresh
      refine ⟨fun h1 h2 h3 h4 h5 h6 h7 => ?_, fun h1 h2 h3 h4 h5 h6 h7 h8 h9 hbusy hall => ?_⟩
      · rw [← haccept0]
        exact mtrn_completes hr hp ht hdest hgood hfresh ⟨h1, h2, h3, h4, h5, h6, h7⟩
      · rw [← haccept0]
        exact mcvt_completes hr hp ht hdest hgood hfresh ⟨h1, h2, h3, h4, h5, h6, h7, h8, h9⟩ hbusy hall

end Sys2Proof.Machine
end

section
/-!
SUPPORT. The scalar loads (R25, R112, R113, R117): what the checks of an address and of an access answer, then one equation for each
way that a load ends (O9).
-/
namespace Sys2Proof.Machine

/-! ### The address of a base and an offset (R25) -/

theorem bitsNat_upper_eq_zero_iff (w : Word64) : bitsNat w 63 56 = 0 ↔ w.toNat < 2 ^ 56 := by
  have := w.isLt
  rw [bitsNat_eq]
  omega

section
variable {base : Word64} {off : Int} {n : Nat}

theorem eaCheck_upper (h : 2 ^ 56 ≤ base.toNat) : eaCheck base off n = .error (0x04, base) :=
  if_pos (mt (bitsNat_upper_eq_zero_iff base).1 (Nat.not_lt.2 h))

theorem eaCheck_outside (hb : base.toNat < 2 ^ 56) (h : (base.toNat : Int) + off < 0 ∨ 2 ^ 56 < (base.toNat : Int) + off + n) :
    eaCheck base off n = .error (0x05, BitVec.ofInt 64 ((base.toNat : Int) + off)) := by
  have hup : ¬bitsNat base 63 56 ≠ 0 := not_not.2 ((bitsNat_upper_eq_zero_iff base).2 hb)
  exact (if_neg hup).trans (if_pos (by simpa using h))

theorem eaCheck_inside {ea : Nat} (hb : base.toNat < 2 ^ 56) (h : (base.toNat : Int) + off = ea) (hn : ea + n ≤ 2 ^ 56) :
    eaCheck base off n = .ok ea := by
  have hup : ¬bitsNat base 63 56 ≠ 0 := not_not.2 ((bitsNat_upper_eq_zero_iff base).2 hb)
  have hin : ¬((ea : Int) < 0 ∨ 2 ^ 56 < (ea : Int) + n) := by omega
  refine (if_neg hup).trans ?_
  simp only [h]
  exact if_neg (by simpa using hin)

end

/-! ### The checks of a scalar access (R112, R113) -/

section
variable {s s' : State} {t : Strand} {va n need tval b : Nat} {k : Acc}

theorem State.reach_refused (h : resolve s t.vf t.mode (dieOf t.core) va k = .refused s') :
    s.reach t va k tval = .res (.trapIn s' 0x09 (BitVec.ofNat 64 tval)) := by
  simp [State.reach, h]

theorem State.scalarAccess_misaligned (h : va % n ≠ 0) : s.scalarAccess t va n k need = .res (.trap 0x03 (BitVec.ofNat 64 va)) :=
  if_pos h

variable (ha : va % n = 0)
include ha

theorem State.scalarAccess_weir (h : weirRefuses t.weirs va n need = some b) :
    s.scalarAccess t va n k need = .res (.trap 0x08 (BitVec.ofNat 64 b)) := by
  simp [State.scalarAccess, ha, h]

variable (hw : weirRefuses t.weirs va n need = none)
include hw

theorem State.scalarAccess_unanswered (h : s.answeredAt t va (need = 3) = false) :
    s.scalarAccess t va n k need = .res (.hold (s.parkMe t .answer)) := by
  simp [State.scalarAccess, ha, hw, h]

theorem State.scalarAccess_answered (h : s.answeredAt t va (need = 3) = true) : s.scalarAccess t va n k need = s.reach t va k va := by
  simp [State.scalarAccess, ha, hw, h]

end

/-! ### The ends of a load (R117) -/

/-- A read of a pool is never lost (R363), so before one that is lost no store of the core's other strands has been performed
(R12): `loadBody` reports the loss on the state before those stores, and that is the state after them. -/
theorem State.ownPool_of_lost {s : State} {t : Strand} {va n : Nat} {tg : Target}
    (h : (s.ownPool t tg n).loadBytes t va tg n = .lost) : s.ownPool t tg n = s := by
  cases tg with
  | pool c off =>
    simp only [State.loadBytes] at h
    split at h <;> cases h
  | dry | loc | peer | host => rfl

section
variable {s s' s'' : State} {t : Strand} {d a : BitVec 5} {i : BitVec 16} {n ea : Nat} {ext : Nat → Word64} {tg : Target}
  {bs : List Byte}

theorem loadBody_badAddress {c : Nat} {v : Word64} (h : eaCheck (t.g a) i.toInt n = .error (c, v)) :
    loadBody d a i n ext t s = .trap c v := by
  simp [loadBody, h]

section
variable (hea : eaCheck (t.g a) i.toInt n = .ok ea)
include hea

theorem loadBody_notGranted {r : Res} (h : s.scalarAccess t ea n .read 2 = .res r) : loadBody d a i n ext t s = r := by
  simp [loadBody, hea, h]

theorem loadBody_dry (h : s.scalarAccess t ea n .read 2 = .go s' .dry) :
    loadBody d a i n ext t s = .done (s'.putMe (t.setG d (ext 0))) := by
  simp [loadBody, hea, h]

variable (hgo : s.scalarAccess t ea n .read 2 = .go s' tg) (htg : tg ≠ .dry)
include hgo htg

theorem loadBody_givenUp (ht : t.timeout = true) : loadBody d a i n ext t s = .trap 0x0B (BitVec.ofNat 64 ea) := by
  simp [loadBody, hea, hgo, ht]

variable (ht : t.timeout = false)
include ht

theorem loadBody_forwarded (hf : t.forward ea n = some (some bs)) (hp : s'.forwardPoison t ea n tg = false) :
    loadBody d a i n ext t s = .done (s'.putMe (t.setG d (ext (leNat bs)))) := by
  simp [loadBody, hea, hgo, ht, hf, hp]

theorem loadBody_forwardPoison (hf : t.forward ea n = some (some bs)) (hp : s'.forwardPoison t ea n tg = true) :
    loadBody d a i n ext t s = .trap 0x0B (BitVec.ofNat 64 ea) := by
  simp [loadBody, hea, hgo, ht, hf, hp]

theorem loadBody_overlapped (hf : t.forward ea n = some none) : loadBody d a i n ext t s = .hold s' := by
  simp [loadBody, hea, hgo, ht, hf]

variable (hf : t.forward ea n = none)
include hf

theorem loadBody_poison (h : (s'.ownPool t tg n).loadBytes t ea tg n = .poison) :
    loadBody d a i n ext t s = .trap 0x0B (BitVec.ofNat 64 ea) := by
  simp [loadBody, hea, hgo, ht, hf, h]

theorem loadBody_lost (h : (s'.ownPool t tg n).loadBytes t ea tg n = .lost) :
    loadBody d a i n ext t s = .trapIn ((s'.ownPool t tg n).readLost t tg) 0x0B (BitVec.ofNat 64 ea) := by
  have hbody : loadBody d a i n ext t s = .trapIn (s'.readLost t tg) 0x0B (BitVec.ofNat 64 ea) := by
    simp [loadBody, hea, hgo, ht, hf, h]
  rw [hbody, State.ownPool_of_lost h]

theorem loadBody_waits {w : Wait} (h : (s'.ownPool t tg n).loadBytes t ea tg n = .wait s'' w) :
    loadBody d a i n ext t s = .hold (s''.parkMe t w) := by
  simp [loadBody, hea, hgo, ht, hf, h]

theorem loadBody_reads (h : (s'.ownPool t tg n).loadBytes t ea tg n = .ok s'' bs) :
    loadBody d a i n ext t s = .done (s''.putMe (t.setG d (ext (leNat bs)))) := by
  simp [loadBody, hea, hgo, ht, hf, h]

end

end

/-- Settles O9: the checks in their order, then one end of the load for each thing that the access and the read can answer. -/
theorem scalarLoadsComplete : Obligations.ScalarLoadsComplete := by
  unfold Obligations.ScalarLoadsComplete
  intro s t d a i hr p hp
  have hload : exec p.1 s = runWord { inCode := true } (loadBody d a i p.2.1 p.2.2) s := by
    revert p
    simp only [List.forall_mem_cons, List.not_mem_nil, false_imp_iff, implies_true, and_true]
    exact ⟨rfl, rfl, rfl, rfl, rfl, rfl, rfl⟩
  obtain ⟨ins, n, ext⟩ := p
  simp only at hload ⊢
  have traps {c v} (hb : loadBody d a i n ext t s = .trap c v) : Traps ins s t c v :=
    hload.trans (runWord_trap hr (.inl rfl) (Nat.zero_le _) hb)
  have trapsAt {s' c v} (hb : loadBody d a i n ext t s = .trapIn s' c v) : TrapsAt ins s t s' c v :=
    fun hme => hload.trans (runWord_trapIn hr (.inl rfl) (Nat.zero_le _) hb hme)
  have holds {s'} (hb : loadBody d a i n ext t s = .hold s') : Holds ins s s' :=
    hload.trans (runWord_hold hr (.inl rfl) (Nat.zero_le _) hb)
  have completes {s'} (hb : loadBody d a i n ext t s = .done s') : Completes ins s t s' :=
    hload.trans (runWord_done hr (.inl rfl) (Nat.zero_le _) hb)
  refine ⟨fun hup => traps (loadBody_badAddress (eaCheck_upper hup)),
    fun hb hout => traps (loadBody_badAddress (eaCheck_outside hb hout)), fun ea hb hz hin => ?_⟩
  have hea : eaCheck (t.g a) i.toInt n = .ok ea := eaCheck_inside hb hz hin
  refine ⟨fun hmis => traps (loadBody_notGranted hea (State.scalarAccess_misaligned hmis)),
    fun hal b hw => traps (loadBody_notGranted hea (State.scalarAccess_weir hal hw)), fun hal hw =>
    ⟨fun hno => holds (loadBody_notGranted hea (State.scalarAccess_unanswered hal hw hno)), fun hans => ?answered⟩⟩
  have hreach : s.scalarAccess t ea n .read 2 = s.reach t ea .read ea := State.scalarAccess_answered hal hw hans
  refine ⟨fun s' href => trapsAt (loadBody_notGranted hea (hreach.trans (State.reach_refused href))), fun s' tg hok => ?granted⟩
  have hgo : s.scalarAccess t ea n .read 2 = .go s' tg := hreach.trans (State.reach_ok hok)
  refine ⟨fun hdry => completes (loadBody_dry hea (hdry ▸ hgo)), fun htg ht => traps (loadBody_givenUp hea hgo htg ht),
    fun htg ht => ⟨?_, ?_, ?_, ?_, ?_, ?_, ?_⟩⟩
  · exact fun bs hf hp => completes (loadBody_forwarded hea hgo htg ht hf hp)
  · exact fun bs hf hp => traps (loadBody_forwardPoison hea hgo htg ht hf hp)
  · exact fun hf => holds (loadBody_overlapped hea hgo htg ht hf)
  · exact fun hf h => traps (loadBody_poison hea hgo htg ht hf h)
  · exact fun hf h => trapsAt (loadBody_lost hea hgo htg ht hf h)
  · exact fun hf s'' w h => holds (loadBody_waits hea hgo htg ht hf h)
  · exact fun hf s'' bs h => completes (loadBody_reads hea hgo htg ht hf h)

end Sys2Proof.Machine
end

section
/-!
SUPPORT. Facts about maps, strands and events that the statements of collectives and of the scheduler share: when a map lists a
value, what a changed strand reads as, what an event leaves.
-/
namespace Sys2Proof.Machine

theorem FMap.mem_of_get? {α : Type} {m : FMap α} {k : Nat} {v : α} (h : FMap.get? m k = some v) : (k, v) ∈ m := by
  induction m with
  | nil => cases h
  | cons p r ih =>
    obtain ⟨i, a⟩ := p
    by_cases hi : i = k
    · simp_all [FMap.get?]
    · simp_all [FMap.get?]

theorem FMap.get?_of_mem {α : Type} {m : FMap α} (hwf : FMap.wf m = true) {k : Nat} {v : α} (h : (k, v) ∈ m) :
    FMap.get? m k = some v := by
  induction m with
  | nil => cases h
  | cons p r ih =>
    obtain ⟨i, a⟩ := p
    obtain ⟨habove, hr⟩ := (FMap.wf_cons i a r).1 hwf
    rcases List.mem_cons.1 h with h | h
    · cases h; simp [FMap.get?]
    · have hi : i < k := habove _ h
      simp [FMap.get?, hi.ne, ih hr h]

theorem State.strand?_iff_mem {s : State} (hwf : FMap.wf s.strands = true) {u : Nat} {p : Strand} :
    s.strand? u = some p ↔ (u, p) ∈ s.strands := ⟨FMap.mem_of_get?, FMap.get?_of_mem hwf⟩

theorem Strand.b_setB (t : Strand) (r q : BitVec 2) (x : Word64) : (t.setB r x).b q = if q = r then x else t.b q := by
  unfold Strand.b Strand.setB
  by_cases h : q = r
  · subst h; simp
  · have : r.toNat ≠ q.toNat := fun e => h (BitVec.eq_of_toNat_eq e.symm)
    simp [h, Vector.getElem_set_ne, this]

theorem State.modStrand_eq (s : State) (u : Nat) (f : Strand → Strand) :
    s.modStrand u f = { s with strands := (s.modStrand u f).strands } := by
  unfold State.modStrand
  split <;> rfl

theorem State.strand?_modStrand (s : State) (u v : Nat) (f : Strand → Strand) :
    (s.modStrand u f).strand? v = if u = v then (s.strand? v).map f else s.strand? v := by
  unfold State.modStrand
  by_cases h : u = v
  · subst h
    cases e : s.strand? u <;> simp [e]
  · cases e : s.strand? u <;> simp [h]

theorem State.event_eq (s : State) (die cls sub job vf unit_ : Nat) (args : List Word64) :
    s.event die cls sub job vf unit_ args = { s with dies := (s.event die cls sub job vf unit_ args).dies } := by
  unfold State.event
  extract_lets d e
  split <;> rfl

theorem Ready.pc_le {s : State} {t : Strand} (h : Ready s t) : ¬(t.pc : Int) + 4 > pcTop := by
  obtain ⟨-, -, hpc⟩ := h
  simp only [pcTop]
  omega

theorem Strand.mayWait_iff (t : Strand) : t.mayWait = true ↔ t.kind = .resident ∨ t.kind = .gang := by simp [Strand.mayWait]

theorem Strand.not_mayWait {t : Strand} (h : t.kind = .handler ∨ t.kind = .task) : t.mayWait = false := by
  rcases h with h | h <;> simp [Strand.mayWait, h]

end Sys2Proof.Machine
end

section
/-!
SUPPORT. The system registers (R59 to R68, R216): one equation for what a read and a write of a register answer in each mode (O42).
-/
namespace Sys2Proof.Machine

section
variable {s : State} {t : Strand} {a d : BitVec 5} {r : SysReg} (hr : Ready s t) (hp : Plain t)
include hr hp

theorem sysr_traps (hm : t.mode < readMode r) : Traps (.sysr d r) s t 0x02 s.wordTval :=
  runWord_trap hr (.inr hp) (Nat.zero_le _) (if_pos hm)

theorem sysr_writes (hm : readMode r ≤ t.mode) (hf : r = .fflags → s.flagsPending s.cur t = false) :
    Writes (.sysr d r) s t d (s.sysRead t r) := by
  refine runWord_done hr (.inr hp) (Nat.zero_le _) ((if_neg (Nat.not_lt.2 hm)).trans (if_neg ?_))
  simpa using hf

theorem sysr_waits (hf : s.flagsPending s.cur t = true) : Holds (.sysr d .fflags) s s :=
  runWord_hold hr (.inr hp) (Nat.zero_le _) ((if_neg (Nat.not_lt_zero _)).trans (if_pos hf))

theorem sysw_traps (hm : t.mode < writeMode r ∨ (r = .part ∧ t.mode < 2)) : Traps (.sysw a r) s t 0x02 s.wordTval :=
  runWord_trap hr (.inr hp) (Nat.zero_le _) (if_pos (by simpa using hm))

theorem sysw_completes (hm : writeMode r ≤ t.mode) (hpart : r = .part → 2 ≤ t.mode) :
    Completes (.sysw a r) s t (s.sysWrite t r (t.g a)) := by
  refine runWord_done hr (.inr hp) (Nat.zero_le _) (if_neg ?_)
  simp only [Bool.or_eq_true, Bool.and_eq_true, decide_eq_true_eq, not_or, not_and, Nat.not_lt]
  exact ⟨hm, hpart⟩

end

/-- A write of PART gives the partition the new word, where its extent may be (R63, R321). -/
theorem State.writePart_ok {s : State} {vf : Nat} {w : Word64}
    (h : s.extentOk vf (bitsNat (partWrite (s.part vf).part w) 12 0) (bitsNat (partWrite (s.part vf).part w) 26 14) = true) :
    s.writePart vf w = s.putPart vf { s.part vf with
      part := partWrite (s.part vf).part w, present := true,
      slots := if bitsNat (partWrite (s.part vf).part w) 26 0 = bitsNat (s.part vf).part 26 0 then (s.part vf).slots else [] } :=
  if_pos h

theorem State.writePart_refused {s : State} {vf : Nat} {w : Word64}
    (h : s.extentOk vf (bitsNat (partWrite (s.part vf).part w) 12 0) (bitsNat (partWrite (s.part vf).part w) 26 14) = false) :
    s.writePart vf w = s := if_neg (by simp [h])

/-- Settles O42: what SYSR reads and SYSW writes of each register, in the modes that readMode and writeMode give. -/
theorem systemRegistersComplete : Obligations.SystemRegistersComplete := by
  unfold Obligations.SystemRegistersComplete
  intro s t a d hr hp y p q j c w kind newStatus newPart newTbl
  have hkind : kind = kindCode t.kind := by cases h : t.kind <;> simp [kind, h, kindCode]
  clear_value kind
  subst hkind
  have reads {r : SysReg} {x : Word64} (hm : readMode r ≤ t.mode) (hf : r ≠ .fflags) (hx : s.sysRead t r = x) :
      Writes (.sysr d r) s t d x := hx ▸ sysr_writes hr hp hm fun h => absurd h hf
  have supervises {r : SysReg} {x : Word64} (hr1 : readMode r = 1) (hx : s.sysRead t r = x) :
      (t.mode = 0 → Traps (.sysr d r) s t 0x02 s.wordTval) ∧ (1 ≤ t.mode → Writes (.sysr d r) s t d x) :=
    ⟨fun hm => sysr_traps hr hp (by omega), fun hm => reads (hr1 ▸ hm) (fun h => by simp [h, readMode] at hr1) hx⟩
  have writes {r : SysReg} {s' : State} (hm : writeMode r ≤ t.mode) (hpart : r ≠ .part) (hs : s.sysWrite t r w = s') :
      Completes (.sysw a r) s t s' := hs ▸ sysw_completes hr hp hm fun h => absurd h hpart
  have writesPart {s' : State} (hm : 2 ≤ t.mode) (hs : s.writePart t.vf w = s') : Completes (.sysw a .part) s t s' :=
    hs ▸ sysw_completes hr hp (r := .part) (Nat.le_of_succ_le hm) fun _ => hm
  refine ⟨?reads, fun hf => sysr_writes hr hp (Nat.zero_le _) fun _ => hf, sysr_waits hr hp, ?supervisorReads, ?readOnly, ?userTraps,
    fun hm => sysw_traps hr hp (.inr ⟨rfl, by omega⟩), ?utvec, ?fflags, ?frm, ?frmReserved, ?tblsel, fun hm => ?supervisor,
    fun hm => ⟨fun h => writesPart hm (State.writePart_ok h), fun h => writesPart hm (State.writePart_refused h)⟩⟩
  case reads =>
    simp only [List.forall_mem_cons, List.not_mem_nil, false_imp_iff, implies_true, and_true]
    refine ⟨?_, ?_, ?_, ?_, ?_, ?_, ?_, ?_, ?_, ?_, ?_, ?_, ?_, ?_, ?_⟩ <;> exact reads (Nat.zero_le _) (by decide) rfl
  case supervisorReads =>
    simp only [List.forall_mem_cons, List.not_mem_nil, false_imp_iff, implies_true, and_true]
    exact ⟨supervises rfl rfl, supervises rfl rfl, supervises rfl rfl⟩
  case readOnly =>
    simp only [List.forall_mem_cons, List.not_mem_nil, false_imp_iff, implies_true, and_true]
    exact ⟨fun hm => sysw_traps hr hp (.inl hm), fun hm => sysw_traps hr hp (.inl hm), fun hm => sysw_traps hr hp (.inl hm)⟩
  case userTraps =>
    intro hm r hmem
    refine sysw_traps hr hp (.inl ?_)
    rw [hm]
    revert r
    decide
  case utvec => exact writes (Nat.zero_le _) (by decide) rfl
  case fflags => exact writes (Nat.zero_le _) (by decide) rfl
  case frm => exact fun h => writes (Nat.zero_le _) (by decide) (if_neg (Nat.not_le.2 h))
  case frmReserved => exact fun h => writes (Nat.zero_le _) (by decide) (if_pos h)
  case tblsel => exact writes (Nat.zero_le _) (by decide) rfl
  case supervisor =>
    exact ⟨writes hm (by decide) rfl, writes hm (by decide) rfl, writes hm (by decide) rfl, writes hm (by decide) rfl,
      writes hm (by decide) rfl, writes hm (by decide) rfl, writes hm (by decide) rfl, writes hm (by decide) rfl,
      writes hm (by decide) rfl, writes hm (by decide) rfl, writes hm (by decide) rfl⟩

end Sys2Proof.Machine
end

section
/-!
SUPPORT. The barrier registers (R41, R197 to R199): what a withdrawal changes, alone and with others, then one equation for each way
that a barrier instruction answers (O33).
-/
namespace Sys2Proof.Machine

/-! ### Withdrawals -/

theorem Strand.bound_iff (t : Strand) (i : BitVec 2) : t.bound i = true ↔ bitAt (t.b i) 63 = true ∧ bitAt (t.b i) 57 = false := by
  simp [Strand.bound]

theorem Strand.mem_boundTo (t : Strand) (sc num : Nat) (r : BitVec 2) :
    r ∈ t.boundTo sc num ↔ t.bound r = true ∧ barSc (t.b r) = sc ∧ barNum (t.b r) = num := by
  have hall : ∀ r : BitVec 2, r ∈ [0#2, 1#2, 2#2, 3#2] := by decide
  simp [Strand.boundTo, hall r, and_assoc, -List.mem_cons]

theorem State.leaveBarrier_unbound {s : State} {u : Nat} {t : Strand} {i : BitVec 2} (h : t.bound i = false) :
    s.leaveBarrier u t i = s := by
  unfold State.leaveBarrier
  extract_lets b
  exact if_neg (by rw [Bool.not_eq_true]; exact h)

/-- The withdrawal of a bound register: W is set, the instances lose the member, and one packet goes to the home (R198, R311). -/
theorem State.leaveBarrier_bound (s : State) (u : Nat) {t : Strand} {i : BitVec 2} (h : t.bound i = true) :
    ∃ bs p, s.leaveBarrier u t i =
        { s with strands := (s.modStrand u fun x => x.setB i (t.b i ||| field64 1 57)).strands,
                 barriers := bs, nextUid := s.nextUid + 1, packets := s.packets ++ [p] } ∧
      p.cls = .control ∧ p.src = t.core ∧ p.dst = s.barHome t.vf (barSc (t.b i)) t.core ∧ p.port = none ∧
      p.body = .withdraw t.vf t.birthJob (barSc (t.b i)) (barNum (t.b i)) (bitAt (t.b i) 59) (bitAt (t.b i) 58) u i.toNat := by
  have e : s.leaveBarrier u t i = _ := if_pos h
  rw [e, s.modStrand_eq u]
  exact ⟨_, _, rfl, rfl, rfl, rfl, rfl, rfl⟩

/-- What a withdrawal, and any number of them, leaves of the package beside strands, instances and packets; no packet goes. -/
structure State.OnlyLeaves (s s' : State) : Prop where
  mem : s'.mem = s.mem
  cur : s'.cur = s.cur
  home : ∀ vf sc c, s'.barHome vf sc c = s.barHome vf sc c
  packets : ∀ p ∈ s.packets, p ∈ s'.packets

theorem State.OnlyLeaves.trans {s s' s'' : State} (h : s.OnlyLeaves s') (h' : s'.OnlyLeaves s'') : s.OnlyLeaves s'' :=
  ⟨h'.mem.trans h.mem, h'.cur.trans h.cur, fun vf sc c => (h'.home vf sc c).trans (h.home vf sc c),
    fun p hp => h'.packets p (h.packets p hp)⟩

theorem State.leaveBarrier_onlyLeaves (s : State) (u : Nat) (t : Strand) (i : BitVec 2) : s.OnlyLeaves (s.leaveBarrier u t i) := by
  cases h : t.bound i with
  | false => rw [State.leaveBarrier_unbound h]; exact ⟨rfl, rfl, fun _ _ _ => rfl, fun _ hp => hp⟩
  | true =>
    obtain ⟨bs, p, e, -⟩ := s.leaveBarrier_bound u h
    rw [e]
    exact ⟨rfl, rfl, fun _ _ _ => rfl, fun _ hp => List.mem_append_left _ hp⟩

theorem State.strand?_leaveBarrier (s : State) (u v : Nat) {t : Strand} {i : BitVec 2} (h : t.bound i = true) :
    (s.leaveBarrier u t i).strand? v =
      if u = v then (s.strand? v).map (·.setB i (t.b i ||| field64 1 57)) else s.strand? v := by
  obtain ⟨bs, p, e, -⟩ := s.leaveBarrier_bound u h
  rw [e]
  exact s.strand?_modStrand u v _

/-- The withdrawals that a list names, each a strand's number, the strand and a register of it, in the order of the list. -/
def State.leaveEach (s : State) (ws : List (Nat × Strand × BitVec 2)) : State :=
  ws.foldl (fun s w => s.leaveBarrier w.1 w.2.1 w.2.2) s

theorem State.leaveEach_onlyLeaves (ws : List (Nat × Strand × BitVec 2)) (s : State) : s.OnlyLeaves (s.leaveEach ws) := by
  induction ws generalizing s with
  | nil => exact ⟨rfl, rfl, fun _ _ _ => rfl, fun _ hp => hp⟩
  | cons w ws ih => exact (s.leaveBarrier_onlyLeaves w.1 w.2.1 w.2.2).trans (ih _)

theorem State.strand?_leaveEach_of_ne {ws : List (Nat × Strand × BitVec 2)} {v : Nat} (hb : ∀ w ∈ ws, w.2.1.bound w.2.2 = true)
    (hv : ∀ w ∈ ws, w.1 ≠ v) (s : State) : (s.leaveEach ws).strand? v = s.strand? v := by
  induction ws generalizing s with
  | nil => rfl
  | cons w ws ih =>
    obtain ⟨hbw, hbs⟩ := List.forall_mem_cons.1 hb
    obtain ⟨hvw, hvs⟩ := List.forall_mem_cons.1 hv
    rw [State.leaveEach, List.foldl_cons]
    exact (ih hbs hvs _).trans (by rw [State.strand?_leaveBarrier _ _ _ hbw, if_neg hvw])

/-- A strand that the withdrawals name keeps all but its registers, and of those the ones that they do not name. -/
theorem State.strand?_leaveEach {ws : List (Nat × Strand × BitVec 2)} {v : Nat} {p : Strand}
    (hb : ∀ w ∈ ws, w.2.1.bound w.2.2 = true) (hv : ∀ w ∈ ws, w.1 = v → w.2.1 = p) {s : State} {q : Strand}
    (hq : s.strand? v = some q) :
    ∃ q', (s.leaveEach ws).strand? v = some q' ∧ { q' with regs := q.regs } = q ∧
      ∀ r, ((v, p, r) ∉ ws → q'.b r = q.b r) ∧ ((v, p, r) ∈ ws → q'.b r = p.b r ||| field64 1 57) := by
  induction ws generalizing s q with
  | nil => exact ⟨q, hq, rfl, fun r => ⟨fun _ => rfl, fun h => nomatch h⟩⟩
  | cons w ws ih =>
    obtain ⟨hbw, hbs⟩ := List.forall_mem_cons.1 hb
    obtain ⟨hvw, hvs⟩ := List.forall_mem_cons.1 hv
    obtain ⟨u, t, i⟩ := w
    have hstep := s.strand?_leaveBarrier u v hbw
    by_cases huv : u = v
    · obtain rfl := hvw huv
      rw [if_pos huv, hq, Option.map_some] at hstep
      obtain ⟨q', hq', hrest, hregs⟩ := ih hbs hvs hstep
      refine ⟨q', hq', ?_, fun r => ⟨fun hr => ?_, fun hr => ?_⟩⟩
      · exact congrArg (fun x : Strand => { x with regs := q.regs }) hrest
      · obtain ⟨hri, hr⟩ := not_or.1 (mt List.mem_cons.2 hr)
        have hne : r ≠ i := fun e => hri (by rw [e, huv])
        rw [(hregs r).1 hr, Strand.b_setB, if_neg hne]
      · by_cases hr' : (v, t, r) ∈ ws
        · exact (hregs r).2 hr'
        · have hri : r = i := by simpa [huv] using (List.mem_cons.1 hr).resolve_right hr'
          rw [(hregs r).1 hr', Strand.b_setB, if_pos hri, hri]
    · rw [if_neg huv] at hstep
      obtain ⟨q', hq', hrest, hregs⟩ := ih hbs hvs (hstep.trans hq)
      refine ⟨q', hq', hrest, fun r => ⟨fun hr => (hregs r).1 fun h => hr (List.mem_cons_of_mem _ h), fun hr => (hregs r).2 ?_⟩⟩
      exact (List.mem_cons.1 hr).resolve_left fun e => huv (congrArg Prod.fst e).symm

/-- Every withdrawal has gone to its home. -/
theorem State.leaveEach_sends {ws : List (Nat × Strand × BitVec 2)} (hb : ∀ w ∈ ws, w.2.1.bound w.2.2 = true)
    (s : State) {u : Nat} {p : Strand} {r : BitVec 2} (hw : (u, p, r) ∈ ws) :
    ∃ k ∈ (s.leaveEach ws).packets, k.dst = s.barHome p.vf (barSc (p.b r)) p.core ∧
      k.body = .withdraw p.vf p.birthJob (barSc (p.b r)) (barNum (p.b r)) (bitAt (p.b r) 59) (bitAt (p.b r) 58) u r.toNat := by
  induction ws generalizing s with
  | nil => cases hw
  | cons w ws ih =>
    obtain ⟨hbw, hbs⟩ := List.forall_mem_cons.1 hb
    rcases List.mem_cons.1 hw with rfl | hw
    · obtain ⟨bs, k, e, -, -, hdst, -, hbody⟩ := s.leaveBarrier_bound u hbw
      have hk : k ∈ (s.leaveBarrier u p r).packets := by rw [e]; exact List.mem_append_right _ (List.mem_singleton_self k)
      exact ⟨k, (State.leaveEach_onlyLeaves ws _).packets k hk, hdst, hbody⟩
    · obtain ⟨k, hk, hdst, hbody⟩ := ih hbs (s.leaveBarrier w.1 w.2.1 w.2.2) hw
      exact ⟨k, hk, hdst.trans ((s.leaveBarrier_onlyLeaves ..).home ..), hbody⟩

/-- The packets of withdrawals are all that a list of them adds (R370). -/
theorem State.postEach_onlyLeaves {α : Type} (f : State → α → State)
    (hf : ∀ s a, s.OnlyLeaves (f s a) ∧ (f s a).strands = s.strands) (l : List α) (s : State) :
    s.OnlyLeaves (l.foldl f s) ∧ (l.foldl f s).strands = s.strands := by
  induction l generalizing s with
  | nil => exact ⟨⟨rfl, rfl, fun _ _ _ => rfl, fun _ hp => hp⟩, rfl⟩
  | cons a l ih =>
    obtain ⟨hleaves, hstrands⟩ := hf s a
    obtain ⟨hleaves', hstrands'⟩ := ih (f s a)
    exact ⟨hleaves.trans hleaves', hstrands'.trans hstrands⟩

theorem State.leaveLost_onlyLeaves (s : State) (t : Strand) (sc num : Nat) (named : Nat → Nat → Bool) :
    s.OnlyLeaves (s.leaveLost t sc num named) ∧ (s.leaveLost t sc num named).strands = s.strands := by
  unfold State.leaveLost
  extract_lets i gone s'
  split
  · exact ⟨⟨rfl, rfl, fun _ _ _ => rfl, fun _ hp => hp⟩, rfl⟩
  · have hput : s.OnlyLeaves s' := ⟨rfl, rfl, fun _ _ _ => rfl, fun _ hp => hp⟩
    obtain ⟨hleaves, hstrands⟩ := State.postEach_onlyLeaves
      (fun s (m : Member) => s.post .control t.birthJob t.core (s.barHome t.vf sc t.core) none
        (.withdraw t.vf t.birthJob sc num (m.lost.any fun x => bitAt x.2.2 59) (m.lost.any fun x => bitAt x.2.2 58) m.uid m.b))
      (fun s m => ⟨⟨rfl, rfl, fun _ _ _ => rfl, fun _ hp => List.mem_append_left _ hp⟩, rfl⟩) gone s'
    exact ⟨hput.trans hleaves, hstrands⟩

theorem State.leaveLost_of_none {s : State} {t : Strand} {sc num : Nat} (named : Nat → Nat → Bool)
    (h : ∀ m ∈ (s.barrier t.vf t.birthJob sc num (barPlace sc t.core t.birthJob)).members, m.lost = none) :
    s.leaveLost t sc num named = s := by
  unfold State.leaveLost
  extract_lets i gone s'
  have hgone : gone = [] := List.filter_eq_nil_iff.2 fun m hm => by simp [h m hm]
  simp [hgone]

/-! ### The instructions -/

/-- The barrier that a word of BARSET names to a strand (R197). -/
def State.instanceOf (s : State) (t : Strand) (x : Word64) : Barrier :=
  s.barrier t.vf t.birthJob (bitsNat x 2 0) (bitsNat x 15 8) (barPlace (bitsNat x 2 0) t.core t.birthJob)

/-- What BARSET refuses (R198). -/
def State.barsetMisuse (s : State) (t : Strand) (x y old : Word64) : Prop :=
  (bitAt old 63 = true ∧ bitAt old 57 = false) ∨ bitsNat x 2 0 = 0 ∨ 4 < bitsNat x 2 0 ∨ bitsNat x 63 16 ≠ 0 ∨
    bitsNat x 7 3 ≠ 0 ∨ y = 0#64 ∨ 2 ^ 32 ≤ y.toNat ∨ ((s.instanceOf t x).parts ≠ 0 ∧ (s.instanceOf t x).count ≠ y.toNat)

/-- A barrier as BARSET makes it for a further member: the first of an idle number fixes the count (R198). -/
def Barrier.join (i : Barrier) (count : Nat) (m : Member) : Barrier :=
  { i with count := if i.parts = 0 then count else i.count, parts := if i.parts = 0 then count else i.parts,
           arrivals := if i.parts = 0 then 0 else i.arrivals, members := i.members ++ [m] }

theorem Barrier.join_eq (i : Barrier) (count : Nat) (m : Member) : i.join count m =
    { (if i.parts = 0 then { i with count := count, parts := count, arrivals := 0 } else i) with
      members := (if i.parts = 0 then { i with count := count, parts := count, arrivals := 0 } else i).members ++ [m] } := by
  unfold Barrier.join
  split <;> rfl

section
variable {s : State} {t : Strand} {a b : BitVec 5} {d : BitVec 2}

theorem barsetBody_misuse (h : s.barsetMisuse t (t.g a) (t.g b) (t.b d)) : barsetBody a b d t s = .trap 0x42 (t.b d) :=
  if_pos (by simpa [State.barsetMisuse, State.instanceOf, or_assoc] using h)

theorem barsetBody_binds (h : ¬s.barsetMisuse t (t.g a) (t.g b) (t.b d)) :
    barsetBody a b d t s = .done ((s.putBarrier ((s.instanceOf t (t.g a)).join (t.g b).toNat ⟨s.cur, d.toNat, none⟩)).putMe
      { t.setB d (field64 1 63 ||| field64 (bitsNat (t.g a) 2 0) 60 ||| field64 (if (s.instanceOf t (t.g a)).ph then 1 else 0) 59 |||
          field64 (bitsNat (t.g a) 15 8) 32 ||| field64 (t.g b).toNat 0) with
        reduced := t.reduced.filter (· ≠ d.toNat) }) := by
  refine (if_neg (by simpa [State.barsetMisuse, State.instanceOf, or_assoc] using h)).trans ?_
  rw [Barrier.join_eq]
  unfold State.instanceOf
  split <;> rfl

theorem bararrBody_traps (h : ¬(bitAt (t.b d) 63 = true ∧ bitAt (t.b d) 57 = false) ∨ bitAt (t.b d) 58 = true) :
    bararrBody d t s = .trap 0x42 (t.b d) := if_pos (by grind)

/-- A contribution is at most recorded as poisoned: it leaves the package otherwise alone (R313). -/
theorem State.contribution_cur (s : State) (t : Strand) (sc num : Nat) : (s.contribution t sc num).1.cur = s.cur := by
  unfold State.contribution
  split
  · rfl
  · extract_lets n k
    split
    · rw [State.event_eq]
    · rfl

section
variable (hbound : bitAt (t.b d) 63 = true ∧ bitAt (t.b d) 57 = false) (ha : bitAt (t.b d) 58 = false)
include hbound ha

theorem bararrBody_holds (hbuf : t.buf ≠ []) : bararrBody d t s = .hold s :=
  (if_neg (by simp [hbound, ha])).trans (if_pos (by simpa using hbuf))

theorem bararrBody_arrives (hbuf : t.buf = []) : bararrBody d t s =
    .done (((s.contribution t (barSc (t.b d)) (barNum (t.b d))).1.putMe (t.setB d (t.b d ||| field64 1 58))).post .control t.birthJob t.core
      ((s.contribution t (barSc (t.b d)) (barNum (t.b d))).1.barHome t.vf (barSc (t.b d)) t.core) none
      (.arrive t.vf t.birthJob (barSc (t.b d)) (barNum (t.b d)) (bitAt (t.b d) 59) s.cur d.toNat t.core (t.slot.getD 0)
        (s.contribution t (barSc (t.b d)) (barNum (t.b d))).2)) := by
  refine (if_neg (by simp [hbound, ha])).trans ((if_neg (by simp [hbuf])).trans ?_)
  rw [← s.contribution_cur t (barSc (t.b d)) (barNum (t.b d))]
  rfl

end

theorem barwaitBody_mayNot (h : t.mayWait = false) : barwaitBody d t s = .trap 0x01 s.wordTval := if_pos (by simp [h])

section
variable (hw : t.mayWait = true)
include hw

theorem barwaitBody_unbound (h : bitAt (t.b d) 63 = false) : barwaitBody d t s = .trap 0x42 (t.b d) :=
  (if_neg (by simp [hw])).trans (if_pos (by simp [h]))

variable (hv : bitAt (t.b d) 63 = true) (hpc : ¬(t.pc : Int) + 4 > pcTop)
include hv hpc

theorem barwaitBody_parks (ha : bitAt (t.b d) 58 = true) : barwaitBody d t s = .hold (s.parkMe t (.barrier d.toNat)) :=
  (if_neg (by simp [hw])).trans ((if_neg (by simp [hv])).trans ((if_neg hpc).trans (if_pos ha)))

theorem barwaitBody_completes (ha : bitAt (t.b d) 58 = false) : barwaitBody d t s =
    .done (if 3 ≤ barSc (t.b d) ∨ d.toNat ∈ t.reduced then
        (s.putMe { t with reduced := t.reduced.filter (· ≠ d.toNat) }).acquire (quadOf t.core)
      else s.putMe { t with reduced := t.reduced.filter (· ≠ d.toNat) }) := by
  refine (if_neg (by simp [hw])).trans ((if_neg (by simp [hv])).trans ((if_neg hpc).trans ((if_neg (by simp [ha])).trans ?_)))
  simp

end

theorem barleaveBody_holds (h : t.bound d = true) (hbuf : t.buf ≠ []) : barleaveBody d t s = .hold s :=
  if_pos (by simpa [h] using hbuf)

theorem barleaveBody_leaves (h : t.bound d = false ∨ t.buf = []) : barleaveBody d t s = .done (s.leaveBarrier s.cur t d) :=
  if_neg (by rcases h with h | h <;> simp [h])

end

/-! ### BARLEAVE.O -/

/-- The participants that BARLEAVE.O names: bound to the barrier, and at scope s the job's where the package is named, else the one in
the core and the slot that y gives (R199). -/
def State.names (s : State) (t : Strand) (y : Word64) (sc num : Nat) (p : Strand) : Bool :=
  p.vf == t.vf && barPlace sc p.core p.birthJob == barPlace sc t.core t.birthJob && !(p.boundTo sc num).isEmpty &&
    (if sc = 4 then p.birthJob == t.birthJob && (bitsNat y 49 32 == (s.part t.vf).self)
      else p.core == bitsNat y 16 2 && p.slot == some (bitsNat y 1 0))

theorem State.names_iff (s : State) (t : Strand) (y : Word64) (sc num : Nat) (p : Strand) : s.names t y sc num p = true ↔
    p.vf = t.vf ∧ barPlace sc p.core p.birthJob = barPlace sc t.core t.birthJob ∧ p.boundTo sc num ≠ [] ∧
      (if sc = 4 then p.birthJob = t.birthJob ∧ bitsNat y 49 32 = (s.part t.vf).self
        else p.core = bitsNat y 16 2 ∧ p.slot = some (bitsNat y 1 0)) := by
  unfold State.names
  split <;> simp [and_assoc]

/-- The withdrawals of BARLEAVE.O: every register of a named participant that is bound to the barrier. -/
def State.withdrawals (s : State) (t : Strand) (y : Word64) (sc num : Nat) : List (Nat × Strand × BitVec 2) :=
  (s.strands.filter fun p => s.names t y sc num p.2).flatMap fun p => (p.2.boundTo sc num).map fun i => (p.1, p.2, i)

theorem State.mem_withdrawals (s : State) (t : Strand) (y : Word64) (sc num u : Nat) (p : Strand) (r : BitVec 2) :
    (u, p, r) ∈ s.withdrawals t y sc num ↔ (u, p) ∈ s.strands ∧ s.names t y sc num p = true ∧ r ∈ p.boundTo sc num := by
  simp only [State.withdrawals, List.mem_flatMap, List.mem_filter, List.mem_map, Prod.mk.injEq]
  constructor
  · rintro ⟨⟨v, q⟩, ⟨hm, hn⟩, i, hi, rfl, rfl, rfl⟩
    exact ⟨hm, hn, hi⟩
  · rintro ⟨hm, hn, hi⟩
    exact ⟨(u, p), ⟨hm, hn⟩, r, hi, rfl, rfl, rfl⟩

/-- The lost participants that BARLEAVE.O names, by core and slot (R370). -/
def State.namesLost (s : State) (t : Strand) (y : Word64) (sc core slot : Nat) : Bool :=
  if sc = 4 then bitsNat y 49 32 == (s.part t.vf).self else core == bitsNat y 16 2 && slot == bitsNat y 1 0

/-- The state in which every participant that BARLEAVE.O names is withdrawn, the lost ones after those that live (R199, R370). -/
def State.withdrawn (s : State) (t : Strand) (y : Word64) (sc num : Nat) : State :=
  (s.leaveEach (s.withdrawals t y sc num)).leaveLost t sc num (s.namesLost t y sc)

section
variable {s : State} {t : Strand} {y : Word64} {sc num : Nat}

theorem State.bound_of_mem_withdrawals : ∀ w ∈ s.withdrawals t y sc num, w.2.1.bound w.2.2 = true := fun ⟨u, p, r⟩ hw =>
  have ⟨_, _, hr⟩ := (s.mem_withdrawals t y sc num u p r).1 hw
  ((p.mem_boundTo sc num r).1 hr).1

theorem State.withdrawn_mem : (s.withdrawn t y sc num).mem = s.mem :=
  ((s.leaveEach_onlyLeaves _).trans (State.leaveLost_onlyLeaves ..).1).mem

theorem State.strand?_withdrawn_eq (u : Nat) :
    (s.withdrawn t y sc num).strand? u = (s.leaveEach (s.withdrawals t y sc num)).strand? u :=
  congrArg (FMap.get? · u) (State.leaveLost_onlyLeaves ..).2

theorem State.withdrawn_of_none (hno : ∀ p ∈ s.strands, s.names t y sc num p.2 = false)
    (hlost : ∀ m ∈ (s.barrier t.vf t.birthJob sc num (barPlace sc t.core t.birthJob)).members, m.lost = none) :
    s.withdrawn t y sc num = s := by
  have hws : s.withdrawals t y sc num = [] := by
    have hfilter : (s.strands.filter fun p => s.names t y sc num p.2) = [] :=
      List.filter_eq_nil_iff.2 fun p hmem => by simp [hno p hmem]
    simp [State.withdrawals, hfilter]
  rw [State.withdrawn, hws]
  exact State.leaveLost_of_none _ hlost

section
variable (hwf : FMap.wf s.strands = true) {u : Nat} {p : Strand} (hu : s.strand? u = some p)
include hwf hu

theorem State.eq_of_mem_withdrawals : ∀ w ∈ s.withdrawals t y sc num, w.1 = u → w.2.1 = p := by
  rintro ⟨v, q, r⟩ hw rfl
  obtain ⟨hmem, -, -⟩ := (s.mem_withdrawals t y sc num v q r).1 hw
  exact Option.some.inj (((State.strand?_iff_mem hwf).2 hmem).symm.trans hu)

theorem State.strand?_withdrawn_of_not_names (hn : s.names t y sc num p ≠ true) : (s.withdrawn t y sc num).strand? u = some p := by
  rw [State.strand?_withdrawn_eq, State.strand?_leaveEach_of_ne State.bound_of_mem_withdrawals ?_ s, hu]
  rintro ⟨v, q, r⟩ hw rfl
  obtain rfl : q = p := State.eq_of_mem_withdrawals hwf hu _ hw rfl
  obtain ⟨-, hq, -⟩ := (s.mem_withdrawals t y sc num v q r).1 hw
  exact hn hq

/-- A named participant reads W = 1 in the registers that are bound to the barrier, and a withdrawal goes to the home for each. -/
theorem State.strand?_withdrawn (hn : s.names t y sc num p = true) :
    ∃ p', (s.withdrawn t y sc num).strand? u = some p' ∧ { p' with regs := p.regs } = p ∧
      ∀ r, (r ∉ p.boundTo sc num → p'.b r = p.b r) ∧ (r ∈ p.boundTo sc num → p'.b r = p.b r ||| field64 1 57 ∧
        ∃ k ∈ (s.withdrawn t y sc num).packets, k.dst = s.barHome p.vf sc p.core ∧
          k.body = .withdraw p.vf p.birthJob sc num (bitAt (p.b r) 59) (bitAt (p.b r) 58) u r.toNat) := by
  obtain ⟨p', hp', hrest, hregs⟩ := State.strand?_leaveEach (ws := s.withdrawals t y sc num) State.bound_of_mem_withdrawals
    (State.eq_of_mem_withdrawals hwf hu) hu
  have hmem (r : BitVec 2) : (u, p, r) ∈ s.withdrawals t y sc num ↔ r ∈ p.boundTo sc num := by
    simp [s.mem_withdrawals, (State.strand?_iff_mem hwf).1 hu, hn]
  refine ⟨p', (State.strand?_withdrawn_eq u).trans hp', hrest, fun r => ⟨fun hb => (hregs r).1 (mt (hmem r).1 hb), fun hb => ?_⟩⟩
  obtain ⟨k, hk, hdst, hbody⟩ := State.leaveEach_sends State.bound_of_mem_withdrawals s ((hmem r).2 hb)
  obtain ⟨-, hsc, hnum⟩ := (p.mem_boundTo sc num r).1 hb
  rw [hsc] at hdst hbody
  rw [hnum] at hbody
  exact ⟨(hregs r).2 ((hmem r).2 hb), k, (State.leaveLost_onlyLeaves ..).1.packets k hk, hdst, hbody⟩

end

end

section
variable {s : State} {t : Strand} {a b : BitVec 5}

theorem barleaveOBody_badScope (h : bitsNat (t.g a) 2 0 = 0 ∨ 4 < bitsNat (t.g a) 2 0) : barleaveOBody a b t s = .trap 0x42 (t.g a) :=
  if_pos (by simpa using h)

section
variable (h1 : 1 ≤ bitsNat (t.g a) 2 0) (h4 : bitsNat (t.g a) 2 0 ≤ 4)
include h1 h4

theorem barleaveOBody_holds (h : t.buf ≠ [] ∨
      ∃ p ∈ s.strands, s.names t (t.g b) (bitsNat (t.g a) 2 0) (bitsNat (t.g a) 15 8) p.2 = true ∧ p.2.buf ≠ []) :
    barleaveOBody a b t s = .hold s := by
  have hc : (!t.buf.isEmpty || (s.strands.filter fun p => s.names t (t.g b) (bitsNat (t.g a) 2 0) (bitsNat (t.g a) 15 8) p.2).any
      fun p => !p.2.buf.isEmpty) = true := by simpa [and_assoc] using h
  exact (if_neg (by simp; omega)).trans (if_pos hc)

theorem barleaveOBody_withdraws (hbuf : t.buf = [])
    (h : ∀ p ∈ s.strands, s.names t (t.g b) (bitsNat (t.g a) 2 0) (bitsNat (t.g a) 15 8) p.2 = true → p.2.buf = []) :
    barleaveOBody a b t s =
      .done (s.withdrawn t (t.g b) (bitsNat (t.g a) 2 0) (bitsNat (t.g a) 15 8)) := by
  have hc : ¬(!t.buf.isEmpty || (s.strands.filter fun p => s.names t (t.g b) (bitsNat (t.g a) 2 0) (bitsNat (t.g a) 15 8) p.2).any
      fun p => !p.2.buf.isEmpty) = true := by simpa [hbuf] using h
  refine (if_neg (by simp; omega)).trans ((if_neg hc).trans ?_)
  simp only [State.withdrawn, State.leaveEach, State.withdrawals, List.foldl_flatMap, List.foldl_map]
  rfl

end

end

/-- Settles O33: one equation of the body for each way that an instruction answers, and for the two withdrawals what they leave of the
package. -/
theorem barrierInstructionsComplete : Obligations.BarrierInstructionsComplete := by
  unfold Obligations.BarrierInstructionsComplete
  intro s t a b d hr hp old x y sc num i misuse bound named
  have completes {ins : Instr} {f : Strand → State → Res} {s' : State} (hi : exec ins s = runWord {} f s) (h : f t s = .done s') :
      Completes ins s t s' := hi.trans (runWord_done hr (.inr hp) (Nat.zero_le _) h)
  have holds {ins : Instr} {f : Strand → State → Res} {s' : State} (hi : exec ins s = runWord {} f s) (h : f t s = .hold s') :
      Holds ins s s' := hi.trans (runWord_hold hr (.inr hp) (Nat.zero_le _) h)
  have traps {ins : Instr} {f : Strand → State → Res} {c : Nat} {v : Word64} (hi : exec ins s = runWord {} f s)
      (h : f t s = .trap c v) : Traps ins s t c v := hi.trans (runWord_trap hr (.inr hp) (Nat.zero_le _) h)
  have hbound : bound ↔ t.bound d = true := (t.bound_iff d).symm
  refine ⟨fun h => traps rfl (barsetBody_misuse h), fun h => completes rfl (barsetBody_binds h), fun h => traps rfl (bararrBody_traps h),
    fun h ha hbuf => holds rfl (bararrBody_holds h ha hbuf), fun h ha hbuf => completes rfl (bararrBody_arrives h ha hbuf),
    fun h => traps rfl (barwaitBody_mayNot (Strand.not_mayWait h)), fun h => ?barwait,
    fun h hbuf => holds rfl (barleaveBody_holds (hbound.1 h) hbuf), fun h hbuf => ?barleave, fun h => ?unbound, fun hm => ?barleaveO,
    fun hm => runWord_mode hr (.inr hp) (by simp [hm])⟩
  case barwait =>
    have hw := t.mayWait_iff.2 h
    exact ⟨fun hv => traps rfl (barwaitBody_unbound hw hv), fun hv ha => holds rfl (barwaitBody_parks hw hv hr.pc_le ha),
      fun hv ha => completes rfl (barwaitBody_completes hw hv hr.pc_le ha)⟩
  case barleave =>
    obtain ⟨bs, p, e, hcls, hsrc, hdst, hport, hbody⟩ := s.leaveBarrier_bound s.cur (hbound.1 h)
    refine ⟨s.leaveBarrier s.cur t d, completes rfl (barleaveBody_leaves (.inr hbuf)), ?_, ⟨p, ?_, hcls, hsrc, hdst, hport, hbody⟩,
      (s.leaveBarrier_onlyLeaves ..).mem⟩
    · have hme := s.strand?_leaveBarrier s.cur s.cur (hbound.1 h)
      rw [State.me, (s.leaveBarrier_onlyLeaves ..).cur, hme, if_pos rfl, show s.strand? s.cur = some t from hr.1]
      rfl
    · rw [e]
  case unbound =>
    have hunbound : t.bound d = false := Bool.eq_false_iff.2 (mt hbound.2 h)
    have hleave := barleaveBody_leaves (s := s) (.inl hunbound)
    rw [State.leaveBarrier_unbound hunbound] at hleave
    exact completes rfl hleave
  case barleaveO =>
    have hnamed (p : Strand) : named p ↔ s.names t y sc num p = true := (s.names_iff t y sc num p).symm
    refine ⟨fun h => runWord_trap hr (.inr hp) hm (barleaveOBody_badScope h), fun h1 h4 h => ?holds, fun h1 h4 hbuf hbufs hwf => ?named,
      fun h1 h4 hbuf hnone hlost => ?nobody⟩
    case holds =>
      refine runWord_hold hr (.inr hp) hm (barleaveOBody_holds h1 h4 (h.imp_right ?_))
      exact fun ⟨p, hmem, hn, hb⟩ => ⟨p, hmem, (hnamed p.2).1 hn, hb⟩
    case named =>
      have hbody := barleaveOBody_withdraws (a := a) (b := b) h1 h4 hbuf fun p hmem hn => hbufs p hmem ((hnamed p.2).2 hn)
      exact ⟨s.withdrawn t y sc num, runWord_done hr (.inr hp) hm hbody, State.withdrawn_mem,
        fun u p hu hn => State.strand?_withdrawn_of_not_names hwf hu (mt (hnamed p).2 hn),
        fun u p hu hn => State.strand?_withdrawn hwf hu ((hnamed p).1 hn)⟩
    case nobody =>
      have hno : ∀ p ∈ s.strands, s.names t y sc num p.2 = false := fun p hmem => Bool.eq_false_iff.2 fun h =>
        have ⟨hvf, _, hb, _⟩ := (hnamed p.2).2 h
        hb (hnone p hmem hvf)
      have hbody := barleaveOBody_withdraws (a := a) (b := b) (s := s) h1 h4 hbuf fun p hmem h =>
        absurd (h.symm.trans (hno p hmem)) (by decide)
      exact runWord_done hr (.inr hp) hm (hbody.trans (congrArg Res.done (State.withdrawn_of_none hno hlost)))

end Sys2Proof.Machine
end

section
/-!
SUPPORT. The still-wave counters and the words that park for a collective (R46, R193, R200, R201, R306): one equation for each way
that such a word answers (O35).
-/
namespace Sys2Proof.Machine

@[simp] theorem State.count_tick (s : State) (core job ds dc : Nat) : (s.count core job ds dc).tick = s.tick := rfl
@[simp] theorem State.countMarked_tick (s : State) (core job ds dc : Nat) : (s.countMarked core job ds dc).tick = s.tick := rfl
@[simp] theorem State.consumed_tick (s : State) (core job : Nat) (marked : Bool) : (s.consumed core job marked).tick = s.tick := by
  cases marked <;> rfl

/-- Starting a series changes the job alone (R307). -/
theorem State.startSeries_eq (s : State) (job : Nat) : s.startSeries job = { s with jobs := (s.startSeries job).jobs } := by
  unfold State.startSeries
  extract_lets j
  split <;> rfl

@[simp] theorem State.startSeries_tick (s : State) (job : Nat) : (s.startSeries job).tick = s.tick := by
  rw [State.startSeries_eq]

section
variable {s : State} {t : Strand} {a b d : BitVec 5}

theorem qfixBody_reserved (h : bitsNat (t.g a) 63 17 ≠ 0) : qfixBody a b t s = .trap 0x51 (t.g a) := if_pos h

section
variable (h : bitsNat (t.g a) 63 17 = 0)
include h

theorem qfixBody_unknown (hj : (s.part t.vf).jobIndex (bitsNat (t.g a) 15 0) = none) : qfixBody a b t s = .trap 0x09 (t.g a) :=
  (if_neg (not_not.2 h)).trans (if_pos (by simp [hj]))

theorem qfixBody_adds (hj : (s.part t.vf).jobIndex (bitsNat (t.g a) 15 0) ≠ none) : qfixBody a b t s =
    .done ((if bitAt (t.g a) 16 then s.count t.core (bitsNat (t.g a) 15 0) 0 (t.g b).toNat
      else s.count t.core (bitsNat (t.g a) 15 0) (t.g b).toNat 0).startSeries (bitsNat (t.g a) 15 0)) :=
  (if_neg (not_not.2 h)).trans (if_neg (by simpa using hj))

end

section
variable (w : Nat → Wait) (hpc : ¬(t.pc : Int) + 4 > pcTop)
include hpc

theorem stillPark_waits (h : s.canEnd s.cur t = false ∨ s.barrierTraffic s.cur = true) : stillPark w t s = .hold s :=
  (if_neg hpc).trans (if_pos (by simpa using h))

theorem stillPark_parks (h : s.canEnd s.cur t = true) (hb : s.barrierTraffic s.cur = false) : stillPark w t s =
    .hold (((s.consumed t.core t.birthJob t.marked).startSeries t.birthJob).putMe
      { t with run := .waiting (w (s.job t.birthJob).wavesIssued), since := s.tick }) := by
  refine (if_neg hpc).trans ((if_neg (by simp [h, hb])).trans ?_)
  simp only [State.parkMe, State.startSeries_tick, State.consumed_tick]

end

theorem stillBody_mayNot (h : t.mayWait = false) : stillBody d t s = .trap 0x01 s.wordTval := if_pos (by simp [h])
theorem stillBody_may (h : t.mayWait = true) : stillBody d t s = stillPark (.still d.toNat) t s := if_neg (by simp [h])

theorem stillToBody_mayNot (h : t.mayWait = false) : stillToBody a d t s = .trap 0x01 s.wordTval := if_pos (by simp [h])
theorem stillToBody_reserved (h : t.mayWait = true) (hx : bitsNat (t.g a) 63 18 ≠ 0) : stillToBody a d t s = .trap 0x51 (t.g a) :=
  (if_neg (by simp [h])).trans (if_pos hx)
theorem stillToBody_may (h : t.mayWait = true) (hx : bitsNat (t.g a) 63 18 = 0) :
    stillToBody a d t s = stillPark (.stillTo d.toNat (bitsNat (t.g a) 17 0)) t s :=
  (if_neg (by simp [h])).trans (if_neg (not_not.2 hx))

theorem resampleBody_traps (h : t.mayWait = false ∨ t.pop = none) : resampleBody a b d t s = .trap 0x42 s.wordTval :=
  if_pos (by simpa using h)

section
variable (h : t.mayWait = true) (hpop : t.pop ≠ none) (hpc : ¬(t.pc : Int) + 4 > pcTop)
include h hpop hpc

theorem resampleBody_waits (hc : s.canEnd s.cur t = false) : resampleBody a b d t s = .hold s :=
  (if_neg (by simpa [h] using hpop)).trans ((if_neg hpc).trans (if_pos (by simp [hc])))

theorem resampleBody_parks (hc : s.canEnd s.cur t = true) : resampleBody a b d t s =
    .hold (s.parkMe t (.resample d.toNat (field64 (bitsNat (t.g a) 31 0) 0) (t.g b))) :=
  (if_neg (by simpa [h] using hpop)).trans ((if_neg hpc).trans (if_neg (by simp [hc])))

end

end

/-- Settles O35: one equation of the body for each way that a word answers. -/
theorem stillCountsAndResampleComplete : Obligations.StillCountsAndResampleComplete := by
  unfold Obligations.StillCountsAndResampleComplete
  intro s t a b d hr x c j parks
  have hpc := hr.pc_le
  refine ⟨runWord_done hr (.inl rfl) (Nat.zero_le _) rfl, fun hp => ⟨fun hm => ?user, fun hm => ?qfix, fun hk => ?mayNot,
    fun hpop => runWord_trap hr (.inr hp) (Nat.zero_le _) (resampleBody_traps (.inr hpop)), fun hk => ?may⟩⟩
  case user => exact ⟨runWord_mode hr (.inr hp) (by simp [hm]), runWord_mode hr (.inr hp) (by simp [hm])⟩
  case qfix =>
    exact ⟨fun h => runWord_trap hr (.inr hp) hm (qfixBody_reserved h), fun h hj => runWord_trap hr (.inr hp) hm (qfixBody_unknown h hj),
      fun h hj => runWord_done hr (.inr hp) hm (qfixBody_adds h hj)⟩
  case mayNot =>
    have hw := Strand.not_mayWait hk
    exact ⟨runWord_trap hr (.inr hp) (Nat.zero_le _) (stillBody_mayNot hw),
      runWord_trap hr (.inr hp) (Nat.zero_le _) (resampleBody_traps (.inl hw)),
      fun hm => runWord_trap hr (.inr hp) hm (stillToBody_mayNot hw)⟩
  case may =>
    have hw := t.mayWait_iff.2 hk
    have hparks {i : Instr} {g : Gate} {f : Strand → State → Res} {w : Nat → Wait} (hi : exec i s = runWord g f s) (hm : g.mode ≤ t.mode)
        (hf : f t s = stillPark w t s) : parks i w :=
      ⟨fun h => hi.trans (runWord_hold hr (.inr hp) hm (hf.trans (stillPark_waits w hpc h))),
        fun h hb => hi.trans (runWord_hold hr (.inr hp) hm (hf.trans (stillPark_parks w hpc h hb)))⟩
    exact ⟨hparks rfl (Nat.zero_le _) (stillBody_may hw),
      fun hm hx => runWord_trap hr (.inr hp) hm (stillToBody_reserved hw hx),
      fun hm hx => hparks rfl hm (stillToBody_may hw hx),
      fun hpop h => runWord_hold hr (.inr hp) (Nat.zero_le _) (resampleBody_parks hw hpop hpc h),
      fun hpop h => runWord_hold hr (.inr hp) (Nat.zero_le _) (resampleBody_waits hw hpop hpc h)⟩

end Sys2Proof.Machine
end

section
/-!
SUPPORT. The still waves (R200, R307 to R309): how a wave starts and reads its counters, what WAVESTAT says, and what an outcome leaves
of the job and of every strand (O36).
-/
namespace Sys2Proof.Machine

/-! ### Bits of a word made of fields -/

theorem bitAt_field64 (n lo i : Nat) : bitAt (field64 n lo) i = (decide (i < 64) && (decide (lo ≤ i) && n.testBit (i - lo))) := by
  simp [bitAt, field64, BitVec.getLsbD_ofNat, Nat.testBit_shiftLeft]

theorem bitAt_or (x y : Word64) (i : Nat) : bitAt (x ||| y) i = (bitAt x i || bitAt y i) := BitVec.getLsbD_or

theorem bitsNat_testBit (w : Word64) (hi lo i : Nat) : (bitsNat w hi lo).testBit i = (decide (i < hi + 1 - lo) && bitAt w (lo + i)) := by
  simp [bitsNat, bitAt, BitVec.getLsbD, Nat.testBit_mod_two_pow, Nat.testBit_shiftRight]

/-- A still outcome reads as still, not stuck, and without a difference (R68). -/
theorem waveStat_still (old : Word64) (stuck : Bool) (w : Wave) :
    bitAt (waveStat old true stuck w) 63 = true ∧ bitAt (waveStat old true stuck w) 62 = false ∧
      bitsNat (waveStat old true stuck w) 31 0 = 0 := by
  refine ⟨?_, ?_, Nat.eq_of_testBit_eq fun i => ?_⟩
  · simp [waveStat, bitAt_or, bitAt_field64]
  · have : (bitsNat old 47 32 + 1) % 65536 < 2 ^ 30 := by omega
    simp [waveStat, bitAt_or, bitAt_field64, Nat.testBit_lt_two_pow this]
  · rw [bitsNat_testBit, Nat.zero_testBit]
    by_cases hi : i < 32
    · have h1 : ¬63 ≤ i := by omega
      have h2 : ¬32 ≤ i := by omega
      simp [waveStat, bitAt_or, bitAt_field64, h1, h2]
    · simp [hi]

/-- A stuck outcome reads as stuck and not still (R68). -/
theorem waveStat_stuck (old : Word64) (w : Wave) :
    bitAt (waveStat old false true w) 62 = true ∧ bitAt (waveStat old false true w) 63 = false := by
  have hw : (bitsNat old 47 32 + 1) % 65536 < 2 ^ 31 := by omega
  have hd : (if w.c2.toNat < w.s2.toNat then min (w.s2.toNat - w.c2.toNat) (2 ^ 32 - 1) else 0) < 2 ^ 63 := by split <;> omega
  constructor
  · simp [waveStat, bitAt_or, bitAt_field64]
  · simp only [waveStat, Bool.false_eq_true, if_false, if_true, bitAt_or, bitAt_field64]
    generalize (if w.c2.toNat < w.s2.toNat then min (w.s2.toNat - w.c2.toNat) (2 ^ 32 - 1) else 0) = n at hd ⊢
    have h1 : Nat.testBit 1 1 = false := by decide
    simp [Nat.testBit_lt_two_pow hw, Nat.testBit_lt_two_pow hd, h1]

/-! ### The passes of a wave -/

section
variable {s : State} {job : Nat}

theorem State.beginWave_job (s : State) (job : Nat) (c : Option Nat) :
    ((s.beginWave job c).job job).wave = some ⟨c, 1, s.waveCores job, 0#64, 0#64, 0#64, 0#64, (s.job job).wavesIssued + 1⟩ ∧
      ((s.beginWave job c).job job).wavesIssued = (s.job job).wavesIssued + 1 ∧
      ((s.beginWave job c).job job).wavestat = (s.job job).wavestat := by
  simp [State.beginWave]

theorem execStillWave_begins (hw : (s.job job).wave = none) (hd : s.waveDue job = true) :
    execStillWave job s = .next (s.beginWave job none) := by simp [execStillWave, hw, hd]

theorem execConfinedWave_begins {l : Nat} (hw : (s.job job).wave = none) (hd : s.waveDue job = true) (hr : s.retireWait job = none)
    (hl : s.confinedFor job = some l) : execConfinedWave job s = .next (s.beginWave job (some l)) := by
  simp [execConfinedWave, hw, hd, hr, hl]

theorem exec_wave_passes {w : Wave} (hw : (s.job job).wave = some w) :
    exec (if w.confined = none then .stillWave job else .confinedWave job) s = .next (s.passWave job w) := by
  cases hc : w.confined with
  | none => exact congrArg Host.Outcome.next (by simp [hw, hc])
  | some l => exact congrArg Host.Outcome.next (by simp [hw, hc])

/-- A pass changes the job alone (R307). -/
theorem State.passWave_frame (s : State) (job : Nat) (w : Wave) :
    (s.passWave job w).strands = s.strands ∧ (s.passWave job w).cores = s.cores := by
  unfold State.passWave
  extract_lets j
  split
  · exact ⟨rfl, rfl⟩
  · split <;> exact ⟨rfl, rfl⟩

theorem State.passWave_reads {w : Wave} {c : Nat} {r : List Nat} (h : w.todo = c :: r) :
    ((s.passWave job w).job job).wave =
      some (if w.pass = 1 then
          { w with todo := r, s1 := w.s1 + (if w.confined = none then ((s.core c).counters job).s else ((s.core c).counters job).sr),
                   c1 := w.c1 + (if w.confined = none then ((s.core c).counters job).c else ((s.core c).counters job).cr) }
        else
          { w with todo := r, s2 := w.s2 + (if w.confined = none then ((s.core c).counters job).s else ((s.core c).counters job).sr),
                   c2 := w.c2 + (if w.confined = none then ((s.core c).counters job).c else ((s.core c).counters job).cr) }) := by
  cases hc : w.confined <;> simp [State.passWave, h, hc]

theorem State.passWave_turns {w : Wave} (h : w.todo = []) (hp : w.pass = 1) :
    ((s.passWave job w).job job).wave = some { w with pass := 2, todo := s.waveCores job } := by
  simp [State.passWave, h, hp]

/-- A wave that is not over and has read every interface is in its first pass. -/
theorem Job.pass_eq_one {j : Job} {w : Wave} (hw : j.wave = some w) (hs : j.swept = false) (hp : w.pass = 1 ∨ w.pass = 2)
    (h : w.todo = []) : w.pass = 1 := hp.resolve_right fun h2 => by simp [Job.swept, hw, h, h2] at hs

end

/-! ### The outcome of a wave -/

theorem State.acquire_eq (s : State) (q : Nat) : ∃ qs ls es, s.acquire q = { s with quads := qs, l1 := ls, dir := es } := by
  unfold State.acquire
  extract_lets x s'
  split
  · exact ⟨_, _, _, rfl⟩
  · exact ⟨_, _, _, rfl⟩

theorem State.startSeries_job (s : State) (j k : Nat) :
    ((s.startSeries j).job k).wave = (s.job k).wave ∧ ((s.startSeries j).job k).wavestat = (s.job k).wavestat := by
  unfold State.startSeries
  extract_lets x
  split
  · exact ⟨rfl, rfl⟩
  · by_cases h : j = k
    · subst h; simp [x]
    · simp [h]

/-- A strand that returns from STILL or STILL.TO, as it stands then (R200, R306). -/
def Strand.stillBack (t : Strand) (tick d : Nat) (v : Word64) : Strand :=
  { (t.setGN d v).retire (t.pc + 4) with run := .running, wokenAt := tick }

/-- What the release of waiting strands leaves: memory, the time, and of every job the wave and WAVESTAT. -/
structure State.KeepsWaves (s s' : State) : Prop where
  mem : s'.mem = s.mem
  tick : s'.tick = s.tick
  wave : ∀ k, (s'.job k).wave = (s.job k).wave
  wavestat : ∀ k, (s'.job k).wavestat = (s.job k).wavestat

theorem State.KeepsWaves.of_jobs {s s' : State} (hm : s'.mem = s.mem) (ht : s'.tick = s.tick) (hj : s'.jobs = s.jobs) : s.KeepsWaves s' :=
  ⟨hm, ht, fun _ => by rw [State.job, hj]; rfl, fun _ => by rw [State.job, hj]; rfl⟩

theorem State.KeepsWaves.refl (s : State) : s.KeepsWaves s := .of_jobs rfl rfl rfl

theorem State.KeepsWaves.trans {s s' s'' : State} (h : s.KeepsWaves s') (h' : s'.KeepsWaves s'') : s.KeepsWaves s'' :=
  ⟨h'.mem.trans h.mem, h'.tick.trans h.tick, fun k => (h'.wave k).trans (h.wave k), fun k => (h'.wavestat k).trans (h.wavestat k)⟩

theorem State.acquire_keeps (s : State) (q : Nat) : s.KeepsWaves (s.acquire q) ∧ (s.acquire q).strands = s.strands := by
  obtain ⟨qs, ls, es, e⟩ := s.acquire_eq q
  rw [e]
  exact ⟨.of_jobs rfl rfl rfl, rfl⟩

theorem State.startSeries_keeps (s : State) (j : Nat) : s.KeepsWaves (s.startSeries j) ∧ (s.startSeries j).strands = s.strands := by
  refine ⟨⟨?_, ?_, fun k => (s.startSeries_job j k).1, fun k => (s.startSeries_job j k).2⟩, ?_⟩ <;> rw [State.startSeries_eq]

/-- A return changes its strand, may start the job's next series, and counts and acquires at its core (R306, R307). -/
theorem State.stillReturn_keeps (s : State) (u : Nat) (t : Strand) (d : Nat) (v : Word64) :
    s.KeepsWaves (s.stillReturn u t d v) ∧
      (s.stillReturn u t d v).strands = FMap.set s.strands u (t.stillBack s.tick d v) := by
  have hcount : ∃ s1 : State, s.stillReturn u t d v = (s1.startSeries t.birthJob).acquire (quadOf t.core) ∧ s.KeepsWaves s1 ∧
      s1.strands = FMap.set s.strands u (t.stillBack s.tick d v) := by
    cases h : t.marked with
    | false =>
      exact ⟨(s.putStrand u (t.stillBack s.tick d v)).count t.core t.birthJob 1 0, by simp only [State.stillReturn, h]; rfl,
        .of_jobs rfl rfl rfl, rfl⟩
    | true =>
      exact ⟨((s.putStrand u (t.stillBack s.tick d v)).countMarked t.core t.birthJob 1 0).count t.core t.birthJob 1 0,
        by simp only [State.stillReturn, h]; rfl, .of_jobs rfl rfl rfl, rfl⟩
  obtain ⟨s1, e, hcounted, hstrands⟩ := hcount
  obtain ⟨hstarted, hstrands2⟩ := s1.startSeries_keeps t.birthJob
  obtain ⟨hacquired, hstrands3⟩ := (s1.startSeries t.birthJob).acquire_keeps (quadOf t.core)
  rw [e]
  exact ⟨hcounted.trans (hstarted.trans hacquired), hstrands3.trans (hstrands2.trans hstrands)⟩

/-- The return of every strand of a job that an outcome releases, each into the register that the outcome gives it. -/
def State.releaseAll (s : State) (job : Nat) (out : Strand → Option Nat) (ws : Word64) (ps : List (Nat × Strand)) : State :=
  ps.foldl (fun s p =>
    if p.2.birthJob = job then
      (match out p.2 with
        | some d => s.stillReturn p.1 p.2 d ws
        | none => s)
    else s) s

section
variable {job : Nat} {out : Strand → Option Nat} {ws : Word64}

theorem State.releaseAll_cons_none {p : Nat × Strand} {ps : List (Nat × Strand)} (s : State) (h : p.2.birthJob ≠ job ∨ out p.2 = none) :
    s.releaseAll job out ws (p :: ps) = s.releaseAll job out ws ps := by
  rcases h with h | h <;> simp [State.releaseAll, h]

theorem State.releaseAll_cons_some {p : Nat × Strand} {ps : List (Nat × Strand)} {d : Nat} (s : State) (hj : p.2.birthJob = job)
    (h : out p.2 = some d) : s.releaseAll job out ws (p :: ps) = (s.stillReturn p.1 p.2 d ws).releaseAll job out ws ps := by
  simp [State.releaseAll, hj, h]

theorem released_or_not (p : Strand) : (∃ d, p.birthJob = job ∧ out p = some d) ∨ (p.birthJob ≠ job ∨ out p = none) := by
  cases h : out p with
  | none => exact .inr (.inr rfl)
  | some d => by_cases hj : p.birthJob = job
              · exact .inl ⟨d, hj, rfl⟩
              · exact .inr (.inl hj)

theorem State.releaseAll_keeps (ps : List (Nat × Strand)) (s : State) : s.KeepsWaves (s.releaseAll job out ws ps) := by
  induction ps generalizing s with
  | nil => exact .refl s
  | cons p ps ih =>
    obtain ⟨d, hj, h⟩ | h := released_or_not (job := job) (out := out) p.2
    · rw [State.releaseAll_cons_some s hj h]
      exact (s.stillReturn_keeps ..).1.trans (ih _)
    · rw [State.releaseAll_cons_none s h]
      exact ih s

theorem State.strand?_releaseAll_of_ne {u : Nat} {ps : List (Nat × Strand)} (hu : ∀ p ∈ ps, p.1 ≠ u) (s : State) :
    (s.releaseAll job out ws ps).strand? u = s.strand? u := by
  induction ps generalizing s with
  | nil => rfl
  | cons p ps ih =>
    obtain ⟨hp, hps⟩ := List.forall_mem_cons.1 hu
    obtain ⟨d, hj, h⟩ | h := released_or_not (job := job) (out := out) p.2
    · rw [State.releaseAll_cons_some s hj h, ih hps, State.strand?, (s.stillReturn_keeps ..).2, FMap.get?_set, if_neg hp]
      rfl
    · rw [State.releaseAll_cons_none s h, ih hps]

/-- A strand that is listed once returns where the outcome releases it, and stays where not. -/
theorem State.strand?_releaseAll {u : Nat} {t : Strand} {ps : List (Nat × Strand)} (hu : ps.filter (fun p => p.1 == u) = [(u, t)])
    (s : State) :
    (∀ d, t.birthJob = job → out t = some d → (s.releaseAll job out ws ps).strand? u = some (t.stillBack s.tick d ws)) ∧
      (t.birthJob ≠ job ∨ out t = none → (s.releaseAll job out ws ps).strand? u = s.strand? u) := by
  obtain ⟨l₁, l₂, rfl, h₁, -, h₂⟩ := List.filter_eq_cons_iff.1 hu
  have hne₁ : ∀ p ∈ l₁, p.1 ≠ u := by simpa using h₁
  have hne₂ : ∀ p ∈ l₂, p.1 ≠ u := by simpa [List.filter_eq_nil_iff] using h₂
  have happ : s.releaseAll job out ws (l₁ ++ (u, t) :: l₂) =
      (s.releaseAll job out ws l₁).releaseAll job out ws ((u, t) :: l₂) := List.foldl_append
  have htick : (s.releaseAll job out ws l₁).tick = s.tick := (State.releaseAll_keeps l₁ s).tick
  rw [happ]
  refine ⟨fun d hj h => ?_, fun h => ?_⟩
  · rw [State.releaseAll_cons_some _ hj h, State.strand?_releaseAll_of_ne hne₂, State.strand?, (State.stillReturn_keeps ..).2,
      FMap.get?_set_self, htick]
  · rw [State.releaseAll_cons_none _ h, State.strand?_releaseAll_of_ne hne₂, State.strand?_releaseAll_of_ne hne₁]

end

/-- Whether a wave has found the job still (R308). -/
def Wave.still (w : Wave) : Bool := decide (w.s1 = w.c1 ∧ w.c1 = w.s2 ∧ w.s2 = w.c2)
/-- Whether a wave is the eighth in a row that has found the same unequal sums (R308). -/
def Job.stuckBy (j : Job) (w : Wave) : Bool :=
  decide (8 ≤ if w.confined = none then sameCount j.same j.lastS2 j.lastC2 w else sameCount j.confSame j.confS2 j.confC2 w)

/-- An outcome sets the job's WAVESTAT, ends its wave, may report, and then releases the waiters (R307, R308). -/
theorem execWaveOutcome_ends {s : State} {job : Nat} {w : Wave} (hw : (s.job job).wave = some w) (hs : (s.job job).swept = true)
    (hr : s.retireWait job = none) :
    ∃ s1 : State, s1.mem = s.mem ∧ s1.tick = s.tick ∧ s1.strands = s.strands ∧ (s1.job job).wave = none ∧
      (s1.job job).wavestat = waveStat (s.job job).wavestat w.still ((s.job job).stuckBy w) w ∧
      execWaveOutcome job s = .next (s1.releaseAll job (s.releases w (w.still || (s.job job).stuckBy w))
        (waveStat (s.job job).wavestat w.still ((s.job job).stuckBy w) w) s1.strands) := by
  unfold execWaveOutcome
  split
  next e => cases e.symm.trans hw
  next w' e =>
  obtain rfl := Option.some.inj (e.symm.trans hw)
  split
  next e => simp [hs] at e
  split
  next e => cases e.symm.trans hr
  extract_lets j vf conf still same stuck same' ws parked ends j' vector3 out s2 s3 s4
  have hstill : still = w'.still := by simp [still, Wave.still, Bool.and_assoc]
  have hstuck : decide stuck = j.stuckBy w' := by
    cases hc : w'.confined <;> simp [stuck, same, conf, hc, Job.stuckBy]
  have h3 : s2.KeepsWaves s3 ∧ s3.strands = s2.strands := by
    simp only [s3]
    split
    · rw [State.event_eq]
      exact ⟨.of_jobs rfl rfl rfl, rfl⟩
    · exact ⟨.refl s2, rfl⟩
  have h4 : s3.KeepsWaves s4 ∧ s4.strands = s3.strands := by
    simp only [s4]
    split
    · exact ⟨.of_jobs rfl rfl rfl, rfl⟩
    · exact ⟨.refl s3, rfl⟩
  obtain ⟨h24, hstrands⟩ : s2.KeepsWaves s4 ∧ s4.strands = s2.strands := ⟨h3.1.trans h4.1, h4.2.trans h3.2⟩
  have hjob : (s2.job job).wave = none ∧ (s2.job job).wavestat = ws := by simp [s2]
  rw [← hstill, ← hstuck]
  exact ⟨s4, h24.mem, h24.tick, hstrands, (h24.wave job).trans hjob.1, (h24.wavestat job).trans hjob.2, rfl⟩

/-- Settles O36: how a wave starts, how it reads, and what its outcome leaves of the job and of every strand. -/
theorem wavesReadCountersAndRelease : Obligations.WavesReadCountersAndRelease := by
  unfold Obligations.WavesReadCountersAndRelease
  intro s job j
  refine ⟨fun w hr => ⟨fun hw => ?asksFirst, fun v hw hs => ?asksLast⟩, fun c hw hd hr hc => ?begins, fun w hw hs hp => ?passes,
    fun w hw hs hr => ?ends⟩
  case asksFirst => exact congrArg Host.Outcome.next (by simp [show (s.job job).wave = none from hw, hr])
  case asksLast =>
    have hw : (s.job job).wave = some v := hw
    have hs : (s.job job).swept = true := hs
    exact congrArg Host.Outcome.next (by simp [hw, hs, hr])
  case begins =>
    obtain ⟨hwave, hissued, hstat⟩ := s.beginWave_job job c
    refine ⟨s.beginWave job c, ?_, hwave, hissued, hstat, rfl, rfl⟩
    rcases hc with rfl | ⟨l, rfl, hl⟩
    · exact execStillWave_begins hw hd
    · exact execConfinedWave_begins hw hd (hr (by simp)) hl
  case passes =>
    obtain ⟨hstrands, hcores⟩ := s.passWave_frame job w
    exact ⟨s.passWave job w, exec_wave_passes hw, hstrands, hcores, fun c r h => State.passWave_reads h,
      fun h => State.passWave_turns h (Job.pass_eq_one hw hs hp h)⟩
  case ends =>
    intro still stuck ws
    obtain ⟨s1, hmem, htick, hstrands, hwave, hstat, he⟩ := execWaveOutcome_ends hw hs hr
    have hkeeps := State.releaseAll_keeps (job := job) (out := s.releases w (still || stuck)) (ws := ws) s1.strands s1
    refine ⟨_, he, (hkeeps.wave job).trans hwave, (hkeeps.wavestat job).trans hstat, hkeeps.mem.trans hmem, fun h => ?_,
      fun h hstuck => ?_, fun u t hu ht => ?_⟩
    · have hws : ws = waveStat j.wavestat true stuck w := by rw [← h]
      rw [hws]
      exact waveStat_still ..
    · have hws : ws = waveStat j.wavestat false true w := by rw [← h, ← hstuck]
      rw [hws]
      exact waveStat_stuck ..
    · have hrel := State.strand?_releaseAll (job := job) (out := s.releases w (still || stuck)) (ws := ws) (hstrands ▸ hu) s1
      obtain ⟨hback, hstays⟩ := hrel
      rw [htick] at hback
      exact ⟨hback, fun h => (hstays h).trans ((congrArg (FMap.get? · u) hstrands).trans ht)⟩

end Sys2Proof.Machine
end

section
/-!
SUPPORT. What the scheduler's own operations leave (R44, R48, R288 to R290): the strand that is placed and its arguments, the deque of
a core after a take and a push, the strand that a core restores first and the window written back for it.
-/
namespace Sys2Proof.Machine

/-! ### A placed strand -/

theorem State.bindNames_eq (s : State) (u c k : Nat) : ∃ qs, s.bindNames u c k = { s with quads := qs } := by
  unfold State.bindNames
  extract_lets q x
  split
  · exact ⟨_, rfl⟩
  · exact ⟨_, rfl⟩

/-- Placing lists the strand under the next number, and beside that touches memory, the names of its quad and foreign lines (R44). -/
theorem State.place_eq (s : State) (t : Strand) : ∃ m ps qs ls es, s.place t = { s with
    mem := m, poison := ps, quads := qs, l1 := ls, dir := es,
    strands := FMap.set s.strands s.nextUid t, nextUid := s.nextUid + 1 } := by
  unfold State.place
  extract_lets w s1 s2
  obtain ⟨qs, ls, es, e⟩ := s1.acquire_eq (quadOf t.core)
  obtain ⟨qs', e'⟩ := (((s1.acquire (quadOf t.core)).putStrand s1.nextUid t).bindNames_eq s1.nextUid t.core (t.slot.getD 0))
  refine ⟨s1.mem, s1.poison, qs', ls, es, ?_⟩
  simp only [s2]
  rw [e', e]
  rfl

theorem State.strand?_place (s : State) (t : Strand) (u : Nat) : (s.place t).strand? u = if s.nextUid = u then some t else s.strand? u := by
  obtain ⟨m, ps, qs, ls, es, e⟩ := s.place_eq t
  rw [e]
  exact FMap.get?_set ..

@[simp] theorem State.core_place (s : State) (t : Strand) (c : Nat) : (s.place t).core c = s.core c := by
  obtain ⟨m, ps, qs, ls, es, e⟩ := s.place_eq t
  rw [e]
  rfl

@[simp] theorem State.nextUid_place (s : State) (t : Strand) : (s.place t).nextUid = s.nextUid + 1 := by
  obtain ⟨m, ps, qs, ls, es, e⟩ := s.place_eq t
  rw [e]

theorem Strand.setG_eq (t : Strand) (r : BitVec 5) (x : Word64) : t.setG r x = { t with regs := (t.setG r x).regs } := by
  unfold Strand.setG
  split <;> rfl

theorem Strand.args_eq (l : List Word64) (t : Strand) (n : Nat) : t.args n l = { t with regs := (t.args n l).regs } := by
  induction l generalizing t n with
  | nil => rfl
  | cons x l ih =>
    rw [Strand.args, ih, Strand.setGN, Strand.setG_eq]

theorem Strand.g_args_of_ne {r : BitVec 5} {l : List Word64} {n : Nat} (h : ∀ i < l.length, r ≠ BitVec.ofNat 5 (n + i)) (t : Strand) :
    (t.args n l).g r = t.g r := by
  induction l generalizing t n with
  | nil => rfl
  | cons x l ih =>
    have hr : r ≠ BitVec.ofNat 5 n := h 0 (Nat.zero_lt_succ _)
    rw [Strand.args, ih fun i hi => by rw [Nat.add_right_comm]; exact h (i + 1) (Nat.succ_lt_succ hi), Strand.setGN,
      Strand.g_setG, if_neg hr]
    by_cases h0 : r = 0#5
    · rw [if_pos h0, h0, Strand.g_zero]
    · rw [if_neg h0]

/-- The first of up to seven argument registers holds the first word. -/
theorem Strand.g_one_args {x : Word64} {l : List Word64} (h : l.length ≤ 6) (t : Strand) : (t.args 1 (x :: l)).g 1#5 = x := by
  have hne : ∀ i < l.length, 1#5 ≠ BitVec.ofNat 5 (2 + i) := fun i hi e => by
    have := congrArg BitVec.toNat e
    simp at this
    omega
  rw [Strand.args, Strand.g_args_of_ne hne, Strand.setGN, Strand.g_setG]
  rfl

@[simp] theorem State.birth_kind (s : State) (kind : Kind) (vf job core slot launch : Nat) (anc : List Nat) :
    (s.birth kind vf job core slot launch anc).kind = kind := rfl

/-! ### Deques -/

@[simp] theorem State.core_takeRec (s : State) (c n : Nat) :
    (s.takeRec c n).core c = { s.core c with deque := (s.core c).deque.eraseIdx n } := by simp [State.takeRec]

@[simp] theorem State.core_push (s : State) (c : Nat) (r : Rec) :
    (s.push c r).core c = { s.core c with deque := r :: (s.core c).deque } := by simp [State.push]

@[simp] theorem State.core_count (s : State) (c job ds dc : Nat) : (s.count c job ds dc).core c =
    { s.core c with cnt := FMap.set (s.core c).cnt job { (s.core c).counters job with
        s := ((s.core c).counters job).s + BitVec.ofNat 64 ds, c := ((s.core c).counters job).c + BitVec.ofNat 64 dc } } := by
  simp [State.count]

@[simp] theorem State.core_startSeries (s : State) (job c : Nat) : (s.startSeries job).core c = s.core c := by
  rw [State.startSeries_eq]
  rfl

theorem Core.counters_set (x : Core) (job : Nat) (y : Counters) : ({ x with cnt := FMap.set x.cnt job y } : Core).counters job = y := by
  simp [Core.counters, FMap.getD]

/-! ### The strand that a core restores first -/

/-- One look at a strand in the search of R48: the one out of its slot whose wait has ended first. -/
def firstWoken (c : Nat) (b : Option (Nat × Nat)) (p : Nat × Strand) : Option (Nat × Nat) :=
  if p.2.core = c && p.2.slot = none && p.2.run = .running then
    (match b with
      | some (w, u) => if p.2.wokenAt < w then some (p.2.wokenAt, p.1) else some (w, u)
      | none => some (p.2.wokenAt, p.1))
  else b

theorem State.restorable_eq (s : State) (c : Nat) : s.restorable c = (s.strands.foldl (firstWoken c) none).map (·.2) := rfl

/-- Whether a core may restore a strand: it is the core's, out of its slot, its wait has ended (R48). -/
def Strand.outOf (t : Strand) (c : Nat) : Prop := t.core = c ∧ t.slot = none ∧ t.run = .running

theorem firstWoken_of_not {c : Nat} {p : Nat × Strand} (h : ¬p.2.outOf c) (b : Option (Nat × Nat)) : firstWoken c b p = b :=
  if_neg (by simpa [Strand.outOf] using h)

theorem firstWoken_of {c : Nat} {p : Nat × Strand} (h : p.2.outOf c) (b : Option (Nat × Nat)) :
    firstWoken c b p = some (p.2.wokenAt, p.1) ∨ (b ≠ none ∧ firstWoken c b p = b) := by
  obtain ⟨hc, hs, hr⟩ := h
  cases b with
  | none => exact .inl (by simp [firstWoken, hc, hs, hr])
  | some x =>
    by_cases hw : p.2.wokenAt < x.1
    · exact .inl (by simp [firstWoken, hc, hs, hr, hw])
    · exact .inr ⟨by simp, by simp [firstWoken, hc, hs, hr, hw]⟩

theorem State.restorable_none {s : State} {c : Nat} (h : ∀ p ∈ s.strands, ¬p.2.outOf c) : s.restorable c = none := by
  have hfold : ∀ ps : List (Nat × Strand), (∀ p ∈ ps, ¬p.2.outOf c) → ps.foldl (firstWoken c) none = none := by
    intro ps
    induction ps with
    | nil => exact fun _ => rfl
    | cons p ps ih =>
      intro hps
      obtain ⟨hp, hps⟩ := List.forall_mem_cons.1 hps
      rw [List.foldl_cons, firstWoken_of_not hp, ih hps]
  rw [State.restorable_eq, hfold s.strands h, Option.map_none]

/-- Where one strand alone waits for a slot of the core, it is the one restored first. -/
theorem State.restorable_some {s : State} {c u : Nat} {t : Strand} (hu : s.strand? u = some t) (ht : t.outOf c)
    (h : ∀ p ∈ s.strands, p.2.outOf c → p.1 = u) : s.restorable c = some u := by
  have hfold : ∀ (ps : List (Nat × Strand)) (b : Option (Nat × Nat)), (∀ p ∈ ps, p.2.outOf c → p.1 = u) → (∀ x ∈ b, x.2 = u) →
      (b ≠ none ∨ ∃ p ∈ ps, p.2.outOf c) → (ps.foldl (firstWoken c) b).map (·.2) = some u := by
    intro ps
    induction ps with
    | nil =>
      rintro (_ | x) - hb (hne | ⟨p, hp, -⟩)
      · exact absurd rfl hne
      · cases hp
      · exact congrArg some (hb x rfl)
      · cases hp
    | cons p ps ih =>
      intro b hps hb hsome
      obtain ⟨hp, hps⟩ := List.forall_mem_cons.1 hps
      rw [List.foldl_cons]
      by_cases hout : p.2.outOf c
      · rcases firstWoken_of hout b with e | ⟨hne, e⟩ <;> rw [e]
        · exact ih _ hps (by rintro _ ⟨⟩; exact hp hout) (.inl (by simp))
        · exact ih _ hps hb (.inl hne)
      · rw [firstWoken_of_not hout]
        refine ih _ hps hb (hsome.imp_right ?_)
        rintro ⟨q, hq, hqo⟩
        rcases List.mem_cons.1 hq with rfl | hq
        · exact absurd hqo hout
        · exact ⟨q, hq, hqo⟩
  exact hfold s.strands none h (by simp) (.inr ⟨(u, t), FMap.mem_of_get? hu, ht⟩)

/-! ### The window written back -/

theorem Memory.length_bytes (m : Memory) (k n : Nat) : (Memory.bytes m k n).length = n := by
  induction n generalizing k with
  | zero => rfl
  | succ n ih => rw [Memory.bytes, List.length_cons, ih]

theorem Memory.getElem_bytes (m : Memory) {n i : Nat} (k : Nat) (h : i < (Memory.bytes m k n).length) :
    (Memory.bytes m k n)[i] = Memory.read m (k + i) := by
  induction n generalizing k i with
  | zero => cases h
  | succ n ih =>
    cases i with
    | zero => rfl
    | succ i =>
      simp only [Memory.bytes, List.getElem_cons_succ, ih]
      congr 1
      omega

theorem Memory.bytes_put {m : Memory} (h : Memory.wf m = true) (k : Nat) (bs : List Byte) :
    Memory.bytes (Memory.put m k bs) k bs.length = bs := by
  refine List.ext_getElem (Memory.length_bytes ..) fun i hi hb => ?_
  rw [Memory.getElem_bytes, Memory.read_put h, if_pos ⟨by omega, by omega⟩]
  simp [hb]

theorem State.carryPoison_eq (s : State) (from_ to_ n : Nat) : ∃ p, s.carryPoison from_ to_ n = { s with poison := p } := by
  have hfold : ∀ (l : List Nat) (s : State), ∃ p, l.foldl (fun s p => s.setPoison (to_ + (max p from_ - from_))
      (min (p + granule p) (from_ + n) - max p from_)) s = { s with poison := p } := by
    intro l
    induction l with
    | nil => exact fun s => ⟨s.poison, rfl⟩
    | cons p l ih => exact fun s => ih _
  exact hfold _ s

/-- A strand is restored to the lowest free slot of its core, its window at the place of that slot (R48, R400). -/
theorem State.restore_spec {s : State} {u k : Nat} {t : Strand} {ks : List Nat} (h : s.freeSlots t.core = k :: ks) :
    (s.restore u t).strand? u = some { t with slot := some k, parked := [] } ∧
      (s.restore u t).mem = Memory.put s.mem (memPool + t.core * 2 ^ 17 + k * (s.part t.vf).window) t.parked := by
  simp only [State.restore, h]
  obtain ⟨p, e⟩ := (s.putHome (memPool + t.core * 2 ^ 17 + k * (s.part t.vf).window) t.parked).carryPoison_eq (frameKey u)
    (memPool + t.core * 2 ^ 17 + k * (s.part t.vf).window) (s.part t.vf).window
  refine ⟨by simp, ?_⟩
  rw [e]
  rfl

end Sys2Proof.Machine
end

section
/-!
SUPPORT. The rows of the scheduler (R183, R189, R287 to R292): what step 3 of R289 takes, and one equation or one account of the next
state for each way that a row ends (O47).
-/
namespace Sys2Proof.Machine

section
variable {s : State} {c n : Nat} {r : Rec}

/-! ### What step 3 takes -/

/-- Steps 1 and 2 of R289 have nothing to place on a core that is in a partition and not pre-empted. -/
theorem State.step3_eq_chosen (hstop : (s.core c).stopped = false) (hout : ∀ p ∈ s.strands, p.2.core = c → p.2.slot ≠ none)
    (hin : ∀ m ∈ (s.core c).inlet, 2 ≤ m.kind) (hpart : s.partOfCore c ≠ none) : s.step3 c = s.chosen c := by
  have hrest : s.restorable c = none := State.restorable_none fun p hp ⟨hc, hs, _⟩ => hout p hp hc hs
  have hwait : (s.core c).waiting = none := List.find?_eq_none.2 fun m hm => by simpa using Nat.lt_of_succ_le (hin m hm)
  obtain ⟨v, hv⟩ := Option.ne_none_iff_exists'.1 hpart
  simp [State.step3, State.placing, hstop, hrest, hwait, hv]

theorem State.chosen_owner_end (hg : (s.core c).gangHold = none) (ho : ∀ o ∈ (s.quad (quadOf c)).ops, o.owes = 0)
    (hd : (s.core c).deque.head? = some r) : s.chosen c = some (0, r) := by
  have howed : (s.quad (quadOf c)).owed = false := by simpa [Quad.owed] using ho
  have hnot : ((s.quad (quadOf c)).refreshed s.cyc).owed = false := by simp [Quad.refreshed, howed]
  have h0 : (s.core c).deque[0]? = some r := by rw [← List.head?_eq_getElem?, hd]
  simp [State.chosen, hg, hnot, h0]

theorem State.chosen_held_group (hg : (s.core c).gangHold = some r) (hn : (s.core c).deque[n]? = some r)
    (hfirst : ∀ j < n, (s.core c).deque[j]? ≠ some r) : s.chosen c = some (n, r) := by
  obtain ⟨hlt, hget⟩ := List.getElem?_eq_some_iff.1 hn
  have hidx : (s.core c).deque.findIdx (· == r) = n := by
    refine (List.findIdx_eq hlt).2 ⟨by simp [hget], fun j hj => ?_⟩
    have hne := hfirst j hj
    rw [List.getElem?_eq_getElem (hj.trans hlt)] at hne
    simpa using hne
  simp [State.chosen, hg, hidx, hn]

theorem State.step3_of_no_partition (h : s.partOfCore c = none) : s.step3 c = none := by simp [State.step3, State.placing, h]

/-! ### Records that start -/

theorem execSplit_splits (h3 : s.step3 c = some (n, r)) (hs : r.splits = true) (hf : s.freeSlots c ≠ [])
    (hd : (s.core c).deque.length + 3 ≤ 256) : execSplit c s =
    .next (((((((s.takeRec c n).push c (r.child 3)).push c (r.child 2)).push c (r.child 1)).push c (r.child 0)).count c
      r.job 4 1).startSeries r.job) := by
  have hf' : (s.freeSlots c).isEmpty = false := by simpa using hf
  simp [execSplit, h3, hs, hf', hd]

theorem execLeafStrandStart_starts {root d1 : Word64} {args : List Word64} {first k : Nat} {ks : List Nat}
    (h3 : s.step3 c = some (n, r)) (hs : r.splits = false) (hb : r.body = .sweep root d1 args first) (hf : s.freeSlots c = k :: ks) :
    execLeafStrandStart c s = .next ((s.takeRec c n).place (({ s.birth .resident r.vf r.job c k r.launch r.anc with
      pc := bitsNat d1 55 0,
      sys := if bitAt d1 57 then
        { (s.birth .resident r.vf r.job c k r.launch r.anc).sys with lineage := field64 (first % 2 ^ 32) 32 }
        else (s.birth .resident r.vf r.job c k r.launch r.anc).sys,
      pop := if bitAt d1 57 then some first else none } : Strand).args 1 (root :: args))) := by
  simp [execLeafStrandStart, h3, hs, hb, hf]

/-- A leaf's strand, as R288 and R44 give it. -/
theorem leaf_strand {root d1 : Word64} {args : List Word64} {k : Nat} (t : Strand) (y : SysRegs) (p : Option Nat)
    (hk : t.slot = some k) :
    let t' := ({ t with pc := bitsNat d1 55 0, sys := y, pop := p } : Strand).args 1 (root :: args)
    t'.kind = t.kind ∧ t'.core = t.core ∧ t'.slot = some k ∧ t'.birthJob = t.birthJob ∧ t'.launch = t.launch ∧ t'.pc = bitsNat d1 55 0 ∧
      (args.length ≤ 6 → t'.g 1#5 = root) ∧ t'.run = t.run ∧ t'.pop = p := by
  intro t'
  have e : t' = _ := Strand.args_eq ..
  refine ⟨?_, ?_, ?_, ?_, ?_, ?_, fun h => Strand.g_one_args h _, ?_, ?_⟩ <;> rw [e]
  exact hk

end

/-! ### Gang groups -/

theorem memberHandles_eq (core i : Nat) (pipes : List Word64) (t : Strand) :
    memberHandles core i pipes t = { t with regs := (memberHandles core i pipes t).regs } := by
  have hkeep {p q : Strand} {w : Word64} (h : q = { p with regs := q.regs }) (b : Prop) [Decidable b] (k : BitVec 3) :
      (if b then q.setH k w else q) = { p with regs := (if b then q.setH k w else q).regs } := by
    rw [h]
    split <;> rfl
  have hfold (p : Strand) : ∀ q : Strand, q = { p with regs := q.regs } →
      memberHandles core i pipes q = { p with regs := (memberHandles core i pipes q).regs } := by
    unfold memberHandles
    induction pipes with
    | nil => exact fun q h => h
    | cons w pipes ih =>
      intro q h
      rw [List.foldl_cons]
      refine ih _ ?_
      split
      · exact h
      · exact hkeep (hkeep h _ _) _ _
  exact hfold t t rfl

/-- The strand of member i of a gang group (R190), placed in state s. -/
def State.gangMember (s : State) (c : Nat) (r : Rec) (slots : List Nat) (group : Nat) (pipes : List Word64) (ms : List (List Word64))
    (xs : List Word64) (i : Nat) : Strand :=
  memberHandles c i pipes (({ s.birth .gang r.vf r.job c ((slots[i]?).getD 0) r.launch r.anc with
      pc := bitsNat ((((ms[i]?).getD [])[1]?).getD 0#64) 55 0, group := group } : Strand).args 1
    ((xs[i]?).getD 0#64 :: ((ms[i]?).getD []).drop 2))

theorem State.gangMember_spec (s : State) (c : Nat) (r : Rec) (slots : List Nat) (group : Nat) (pipes : List Word64)
    (ms : List (List Word64)) (xs : List Word64) (i : Nat) (hi : i < slots.length) :
    let t := s.gangMember c r slots group pipes ms xs i
    t.kind = .gang ∧ t.core = c ∧ t.slot = slots[i]? ∧ t.group = group ∧ t.pc = bitsNat ((((ms[i]?).getD [])[1]?).getD 0#64) 55 0 := by
  intro t
  have e : t = _ := (memberHandles_eq ..).trans (congrArg (fun x : Strand => { x with regs := t.regs }) (Strand.args_eq ..))
  rw [e]
  exact ⟨rfl, rfl, by simp [hi, State.birth, Strand.newborn], rfl, rfl⟩

/-- So many strands placed one after the other, the i-th as f makes it in the state that it finds. -/
def State.placeEach (s : State) (f : State → Nat → Strand) (m : Nat) : State :=
  (List.range m).foldl (fun s i => s.place (f s i)) s

theorem State.placeEach_succ (s : State) (f : State → Nat → Strand) (m : Nat) :
    s.placeEach f (m + 1) = (s.placeEach f m).place (f (s.placeEach f m) m) := by
  simp [State.placeEach, List.range_succ]

theorem State.placeEach_spec (s : State) (f : State → Nat → Strand) (m : Nat) :
    (s.placeEach f m).nextUid = s.nextUid + m ∧ (∀ c, (s.placeEach f m).core c = s.core c) ∧
      ∀ i < m, ∃ s1, (s.placeEach f m).strand? (s.nextUid + i) = some (f s1 i) := by
  induction m with
  | zero => exact ⟨rfl, fun _ => rfl, fun i hi => absurd hi (Nat.not_lt_zero i)⟩
  | succ m ih =>
    obtain ⟨hnext, hcore, hstrands⟩ := ih
    rw [State.placeEach_succ]
    refine ⟨by rw [State.nextUid_place, hnext, Nat.add_assoc], fun c => by rw [State.core_place, hcore], fun i hi => ?_⟩
    rw [State.strand?_place, hnext]
    rcases Nat.lt_succ_iff_lt_or_eq.1 hi with hi | rfl
    · rw [if_neg (by omega)]
      exact hstrands i hi
    · exact ⟨_, if_pos rfl⟩

/-- The state in which a core has given up the record of a gang group and the slots held for it, the counts of the group's pipes zero
(R191, R289). -/
def State.groupTaken (s : State) (c n : Nat) (pipes : List Word64) : State :=
  pipes.foldl (fun s w => if w = 0#64 then s else s.startRing (memPool + c * 2 ^ 17 + bitsNat w 44 28 - 64))
    ((s.takeRec c n).putCore c { (s.takeRec c n).core c with gangHold := none })

theorem State.startRing_eq (s : State) (k : Nat) : ∃ m ps rs, s.startRing k = { s with mem := m, poison := ps, rings := rs } := by
  unfold State.startRing State.putHome
  generalize leBytes 16 0 = bs
  exact ⟨_, _, _, rfl⟩

theorem startRings_eq (c : Nat) (pipes : List Word64) (s : State) : ∃ m ps rs,
    pipes.foldl (fun s w => if w = 0#64 then s else s.startRing (memPool + c * 2 ^ 17 + bitsNat w 44 28 - 64)) s =
      { s with mem := m, poison := ps, rings := rs } := by
  induction pipes generalizing s with
  | nil => exact ⟨_, _, _, rfl⟩
  | cons w pipes ih =>
    rw [List.foldl_cons]
    split
    · exact ih s
    · obtain ⟨m, ps, rs, e⟩ := s.startRing_eq (memPool + c * 2 ^ 17 + bitsNat w 44 28 - 64)
      obtain ⟨m', ps', rs', e'⟩ := ih { s with mem := m, poison := ps, rings := rs }
      exact ⟨m', ps', rs', by rw [e, e']⟩

theorem State.groupTaken_spec (s : State) (c n : Nat) (pipes : List Word64) : (s.groupTaken c n pipes).nextUid = s.nextUid ∧
    (s.groupTaken c n pipes).core c = { s.core c with deque := (s.core c).deque.eraseIdx n, gangHold := none } := by
  have hcore : ((s.takeRec c n).putCore c { (s.takeRec c n).core c with gangHold := none }).core c =
      { s.core c with deque := (s.core c).deque.eraseIdx n, gangHold := none } := by simp
  obtain ⟨m, ps, rs, e⟩ := startRings_eq c pipes ((s.takeRec c n).putCore c { (s.takeRec c n).core c with gangHold := none })
  rw [State.groupTaken, e]
  exact ⟨rfl, hcore⟩

section
variable {s : State} {c n desc : Nat} {r : Rec} {pipes refs : List Word64} {ms : List (List Word64)}
  (h3 : s.step3 c = some (n, r)) (hb : r.body = .gang desc pipes ms refs) (hg : r.isGroup = true)
include h3 hb hg

theorem execGangGroupPlacement_holds (hs : (s.freeSlots c).length < ms.length) :
    execGangGroupPlacement c s = .next (s.putCore c { s.core c with gangHold := some r }) := by
  simp [execGangGroupPlacement, h3, hb, hg, hs]

/-- The members of a group start together, each in its own slot (R190, R289). -/
theorem execGangGroupPlacement_starts (hs : ms.length ≤ (s.freeSlots c).length) : execGangGroupPlacement c s =
    .next (({ s.groupTaken c n pipes with nextUid := (s.groupTaken c n pipes).nextUid + 1 } : State).placeEach
      (fun s' i => s'.gangMember c r (s.freeSlots c) s.nextUid pipes ms refs i) ms.length) := by
  simp only [execGangGroupPlacement, h3, hb, hg, Bool.not_true, Bool.false_eq_true, if_false, Nat.not_lt.2 hs]
  rfl

end

/-! ### Tasks and messages -/

/-- The strand of a task with a footprint, which its execution reads at the slot's place in the pool (R293). -/
def State.taskStrand (s : State) (c k : Nat) (r : Rec) (d0 d1 d2 foot : Word64) : Strand :=
  { ({ s.birth .task r.vf r.job c k 0 r.anc with pc := bitsNat d0 55 0 } : Strand).args 1
    [mkRef (refL foot) (refE foot) (poolVa c (0x10000 + 0x4000 * k)), foot, d1, d2, BitVec.ofNat 64 (bitsNat d0 63 62)] with
    pinned := true }

/-- The strand of a task without one. -/
def State.bareTask (s : State) (c k : Nat) (r : Rec) (d0 d1 d2 : Word64) : Strand :=
  { ({ s.birth .task r.vf r.job c k 0 r.anc with pc := bitsNat d0 55 0 } : Strand).args 1
    [0#64, 0#64, d1, d2, BitVec.ofNat 64 (bitsNat d0 63 62)] with pinned := false }

theorem Strand.args_unpinned (t : Strand) (n : Nat) (l : List Word64) (b : Bool) :
    { t.args n l with pinned := b } = ({ t with pinned := b, regs := (t.args n l).regs } : Strand) := by
  rw [Strand.args_eq]

theorem Strand.g_unpinned (t : Strand) (b : Bool) (q : BitVec 5) : ({ t with pinned := b } : Strand).g q = t.g q := rfl

theorem State.bareTask_spec (s : State) (c k : Nat) (r : Rec) (d0 d1 d2 : Word64) :
    let t := s.bareTask c k r d0 d1 d2
    t.kind = .task ∧ t.slot = some k ∧ t.pc = bitsNat d0 55 0 ∧ t.g 1#5 = 0#64 ∧ t.g 3#5 = d1 ∧ t.g 4#5 = d2 ∧
      t.g 5#5 = BitVec.ofNat 64 (bitsNat d0 63 62) := by
  intro t
  have hg (q : BitVec 5) : t.g q = (({ s.birth .task r.vf r.job c k 0 r.anc with pc := bitsNat d0 55 0 } : Strand).args 1
    [0#64, 0#64, d1, d2, BitVec.ofNat 64 (bitsNat d0 63 62)]).g q := Strand.g_unpinned ..
  have e : t = _ := Strand.args_unpinned ..
  refine ⟨congrArg Strand.kind e, congrArg Strand.slot e, congrArg Strand.pc e, ?_, ?_, ?_, ?_⟩ <;>
    simp [hg, Strand.args, Strand.setGN, Strand.g_setG]

section
variable {s : State} {c n k : Nat} {r : Rec} {d0 d1 d2 foot : Word64}

theorem State.startTask_bare (hb : r.body = .task d0 d1 d2 0#64) (refused : Bool) :
    s.startTask c k r refused = s.place (s.bareTask c k r d0 d1 d2) := by
  unfold State.startTask
  rw [hb]
  exact if_pos rfl

theorem State.startTask_foot (hb : r.body = .task d0 d1 d2 foot) (hf : foot ≠ 0#64) : s.startTask c k r false =
    match s.footprint (s.taskStrand c k r d0 d1 d2 foot) foot (memPool + c * 2 ^ 17 + (0x10000 + 0x4000 * k)) with
    | .ok s1 => s1.place (s.taskStrand c k r d0 d1 d2 foot)
    | .bad s1 cause v => s1.place { s.taskStrand c k r d0 d1 d2 foot with doom := some (cause, v) }
    | .wait s1 q => s1.putCore c { s1.core c with foot := (s1.core c).foot ++ [(k, r, [q])] }
    | .again s1 => s1.putCore c { s1.core c with foot := (s1.core c).foot ++ [(k, r, [])] } := by
  have ht : ({ ({ s.birth .task r.vf r.job c k 0 r.anc with pc := bitsNat d0 55 0 } : Strand).args 1
      [if foot = 0#64 then 0#64 else mkRef (refL foot) (refE foot) (poolVa c (0x10000 + 0x4000 * k)), foot, d1, d2,
        BitVec.ofNat 64 (bitsNat d0 63 62)] with pinned := foot ≠ 0#64 } : Strand) = s.taskStrand c k r d0 d1 d2 foot := by
    rw [if_neg hf, decide_eq_true hf, State.taskStrand]
  rw [← ht]
  unfold State.startTask
  rw [hb]
  exact if_neg hf

theorem execTaskStart_takes {ks : List Nat} (hready : (s.core c).footReady = none) (h3 : s.step3 c = some (n, r))
    (hb : r.body = .task d0 d1 d2 foot) (hf : s.freeSlots c = k :: ks) :
    execTaskStart c s = .next ((s.takeRec c n).startTask c k r false) := by
  simp [execTaskStart, hready, h3, hb, hf]

theorem execTaskStart_goes_on (hready : (s.core c).footReady = some (k, r)) : execTaskStart c s =
    .next ((s.putCore c { s.core c with foot := (s.core c).foot.filter fun f => f.1 ≠ k }).startTask c k r false) := by
  simp [execTaskStart, hready]

theorem State.activate_starts {kind : Nat} {m : Msg} {ks : List Nat} (hp : s.placing c = true) (hw : (s.core c).waiting = some m)
    (hk : m.kind = kind) (hf : s.freeSlots c = k :: ks) : s.activate c kind =
      (s.putCore c { s.core c with inlet := (s.core c).inlet.erase m }).place (s.activation c k m) := by
  simp [State.activate, hp, hw, hk, hf]

theorem Msg.length_argWords (m : Msg) (from_ : Nat) : (m.argWords from_).length = 6 := by simp [Msg.argWords, dwords]

/-- A strand born with argument registers, then set to where and as what it starts. -/
theorem Strand.args_start (t : Strand) {x : Word64} {l : List Word64} (h : l.length ≤ 6) (pc : Nat) (code marked : Bool)
    (win : Option Msg) :
    let t' : Strand := { t.args 1 (x :: l) with pc := pc, code := code, win := win, marked := marked }
    t'.slot = t.slot ∧ t'.birthJob = t.birthJob ∧ t'.g 1#5 = x ∧ t'.kind = t.kind := by
  intro t'
  have hg : t'.g 1#5 = (t.args 1 (x :: l)).g 1#5 := rfl
  have e : t' = _ := congrArg (fun y : Strand => { y with pc := pc, code := code, win := win, marked := marked }) (Strand.args_eq ..)
  exact ⟨by rw [e], by rw [e], hg.trans (Strand.g_one_args h t), by rw [e]⟩

/-- The strand of an entry or code message, as R44, R180 and R181 give it. -/
theorem State.activation_spec (s : State) (c k : Nat) (m : Msg) :
    let t := s.activation c k m
    t.slot = some k ∧ t.birthJob = m.job ∧ t.win = some m ∧ t.g 1#5 = m.hdr0 ∧ t.pc = (if m.kind = 1 then 0 else m.target) ∧
      t.code = decide (m.kind = 1) ∧ t.kind = (if m.kind = 1 ∨ bitAt m.hdr0 5 = true then Kind.handler else Kind.resident) := by
  intro t
  have ht : t = { (s.birth (if m.kind = 1 || bitAt m.hdr0 5 then .handler else .resident) m.vf m.job c k 0 m.anc).args 1
      (m.hdr0 :: m.argWords (if m.kind = 1 then 16 else 0)) with
    pc := if m.kind = 1 then 0 else m.target, code := decide (m.kind = 1), win := some m, marked := m.marked } := rfl
  have hl := m.length_argWords (if m.kind = 1 then 16 else 0)
  clear_value t
  generalize m.argWords (if m.kind = 1 then 16 else 0) = l at ht hl
  subst ht
  obtain ⟨hslot, hjob, hg, hkind⟩ :=
    (s.birth (if m.kind = 1 || bitAt m.hdr0 5 then .handler else .resident) m.vf m.job c k 0 m.anc).args_start
    (x := m.hdr0) hl.le (if m.kind = 1 then 0 else m.target) (decide (m.kind = 1)) m.marked (some m)
  refine ⟨hslot, hjob, rfl, hg, rfl, rfl, hkind.trans ?_⟩
  simp

/-! ### Steals and held pushes -/

/-- The number of the victim that a core asks next (R291). -/
def State.nextVictim (s : State) (c : Nat) : Nat :=
  match (s.core c).steal with
  | some y => y.asked % (s.victims c).length
  | none => 0

/-- The state after a core has asked victim v, which stands at place n of its list: the answer is a record, or empty, or lost (R291). -/
def State.stealFrom (s : State) (c n v : Nat) : State :=
  match s.cutSide (dieOf c) (dieOf v), s.gives v with
  | some z, _ =>
    ((s.putCore c { s.core c with steal := some ⟨n + 1, some v, some none⟩ }).enterLoss z c 0
      (s.part ((s.partOfCore c).getD 0)).self).lossEvent z.1 ((s.partOfCore c).getD 0) 0 (4 * c) (s.part ((s.partOfCore c).getD 0)).self
  | none, none => s.putCore c { s.core c with steal := some ⟨n + 1, some v, some none⟩ }
  | none, some g => (s.putCore v { s.core v with deque := (s.core v).deque.dropLast }).putCore c
      { (s.putCore v { s.core v with deque := (s.core v).deque.dropLast }).core c with steal := some ⟨n + 1, some v, some (some g)⟩ }

theorem execStealRequest_asks {v : Nat} (hc : s.canSteal c = true) (hv : (s.victims c)[s.nextVictim c]? = some v) :
    execStealRequest c s = .next (s.stealFrom c (s.nextVictim c) v) := by
  cases hs : (s.core c).steal <;> simp only [State.nextVictim, hs] at hv ⊢ <;>
    simp only [execStealRequest, hc, hs, hv, Bool.not_true, Bool.false_eq_true, if_false] <;> rfl

theorem State.lossEvent_eq (s : State) (die vf job unit_ dest : Nat) :
    s.lossEvent die vf job unit_ dest = { s with dies := (s.lossEvent die vf job unit_ dest).dies } := State.event_eq ..

section
variable {v m : Nat}

/-- A request that a down link loses takes no record from the victim (notes/assumptions/99.md). -/
theorem State.stealFrom_lost {z : Nat × PktClass} (hz : s.cutSide (dieOf c) (dieOf v) = some z) (hne : c ≠ v) :
    ((s.stealFrom c m v).core c).steal = some ⟨m + 1, some v, some none⟩ ∧
      ((s.stealFrom c m v).core v).deque = (s.core v).deque ∧ (s.stealFrom c m v).strands = s.strands := by
  simp only [State.stealFrom, hz]
  rw [State.lossEvent_eq, State.enterLoss_eq]
  refine ⟨congrArg Core.steal ((State.core_putCore ..).trans (if_pos rfl)),
    congrArg Core.deque ((State.core_putCore ..).trans (if_neg hne)), rfl⟩

theorem State.stealFrom_takes {g : Rec} (hz : s.cutSide (dieOf c) (dieOf v) = none) (hg : s.gives v = some g) (hne : c ≠ v) :
    ((s.stealFrom c m v).core v).deque = (s.core v).deque.dropLast ∧
      ((s.stealFrom c m v).core c).steal = some ⟨m + 1, some v, some (some g)⟩ ∧ (s.stealFrom c m v).strands = s.strands := by
  simp only [State.stealFrom, hz, hg, State.core_putCore, if_true, if_neg hne]
  exact ⟨trivial, trivial, rfl⟩

theorem State.stealFrom_empty (hz : s.cutSide (dieOf c) (dieOf v) = none) (hg : s.gives v = none) :
    ((s.stealFrom c m v).core c).steal = some ⟨m + 1, some v, some none⟩ ∧ (s.stealFrom c m v).strands = s.strands := by
  simp only [State.stealFrom, hz, hg, State.core_putCore, if_true]
  exact ⟨trivial, rfl⟩

end

theorem State.putCore_putCore (s : State) (c : Nat) (x y : Core) : (s.putCore c x).putCore c y = s.putCore c y := by
  simp [State.putCore, FMap.set_set]

theorem execHeldPush_record {hs : List (Option Rec)} (hd : (s.core c).deque.length < 256) (hh : (s.core c).held = some r :: hs) :
    execHeldPush c s = .next (((s.putCore c { s.core c with held := hs }).push c r).pushMade r) := by
  simp [execHeldPush, State.heldRecord, hd, hh]

theorem execHeldPush_count {hs : List (Option Rec)} {m : Msg} {s' : State} (hd : (s.core c).deque.length < 256)
    (hh : (s.core c).held = none :: hs) (hm : ((s.core c).inlet.find? fun m => m.kind == 3) = some m)
    (hcount : (s.putCore c { s.core c with held := hs, inlet := (s.core c).inlet.erase m }).countDown m false = some s') :
    execHeldPush c s = .next s' := by
  simp [execHeldPush, State.heldRecord, hd, hh, hm, State.putCore_putCore, hcount]

end

end Sys2Proof.Machine
end

section
/-!
SUPPORT. The other rows of the scheduler (R48, R183, R287, R290 to R292): splits, restores, displacements, steal answers, pushes of
dependants, entries of a launch inlet and the load-summary token (O47).
-/
namespace Sys2Proof.Machine

section
variable {s : State} {c n : Nat} {r : Rec}

/-! ### Splits, restores, displacements, answers to a thief -/

theorem State.count_spec (s : State) (c job ds dc : Nat) : ((s.count c job ds dc).core c).deque = (s.core c).deque ∧
    (((s.count c job ds dc).core c).counters job).s = ((s.core c).counters job).s + BitVec.ofNat 64 ds ∧
    (((s.count c job ds dc).core c).counters job).c = ((s.core c).counters job).c + BitVec.ofNat 64 dc := by
  rw [State.core_count, Core.counters_set]
  exact ⟨rfl, rfl, rfl⟩

theorem State.counters_push (s : State) (c : Nat) (r : Rec) (job : Nat) :
    ((s.push c r).core c).counters job = (s.core c).counters job := by
  rw [State.core_push]
  rfl

theorem State.counters_takeRec (s : State) (c n job : Nat) :
    ((s.takeRec c n).core c).counters job = (s.core c).counters job := by
  rw [State.core_takeRec]
  rfl

@[simp] theorem State.takeRec_strands (s : State) (c n : Nat) : (s.takeRec c n).strands = s.strands := rfl
@[simp] theorem State.takeRec_mem (s : State) (c n : Nat) : (s.takeRec c n).mem = s.mem := rfl
@[simp] theorem State.push_strands (s : State) (c : Nat) (r : Rec) : (s.push c r).strands = s.strands := rfl
@[simp] theorem State.push_mem (s : State) (c : Nat) (r : Rec) : (s.push c r).mem = s.mem := rfl
@[simp] theorem State.count_strands (s : State) (c job ds dc : Nat) : (s.count c job ds dc).strands = s.strands := rfl
@[simp] theorem State.count_mem (s : State) (c job ds dc : Nat) : (s.count c job ds dc).mem = s.mem := rfl

@[simp] theorem State.startSeries_strands (s : State) (job : Nat) : (s.startSeries job).strands = s.strands := by
  rw [State.startSeries_eq]

@[simp] theorem State.startSeries_mem (s : State) (job : Nat) : (s.startSeries job).mem = s.mem := by
  rw [State.startSeries_eq]

/-- What a split leaves: the four children in the record's place, child 0 at the owner end, four counted sent and one consumed
(R288, R306). -/
theorem execSplit_spec (h3 : s.step3 c = some (n, r)) (hs : r.splits = true) (hf : s.freeSlots c ≠ [])
    (hd : (s.core c).deque.length + 3 ≤ 256) : ∃ s' : State, execSplit c s = .next s' ∧
      (s'.core c).deque = [r.child 0, r.child 1, r.child 2, r.child 3] ++ (s.core c).deque.eraseIdx n ∧
      ((s'.core c).counters r.job).s = ((s.core c).counters r.job).s + 4#64 ∧
      ((s'.core c).counters r.job).c = ((s.core c).counters r.job).c + 1#64 ∧ s'.strands = s.strands ∧ s'.mem = s.mem := by
  refine ⟨_, execSplit_splits h3 hs hf hd, ?_⟩
  obtain ⟨hdeque, hsent, hconsumed⟩ := State.count_spec
    ((((s.takeRec c n).push c (r.child 3)).push c (r.child 2)).push c (r.child 1) |>.push c (r.child 0)) c r.job 4 1
  simp only [State.core_startSeries, hdeque, hsent, hconsumed, State.counters_push, State.counters_takeRec]
  simp

theorem execStrandRestore_restores {u : Nat} {t : Strand} (h : s.restorable c = some u) (hu : s.strand? u = some t) :
    execStrandRestore c s = .next (s.restore u t) := by
  simp [execStrandRestore, State.restoreFirst, h, hu]

/-- The window of a restored strand holds the bytes saved with it, and no other byte of memory changes (R48, R400). -/
theorem State.restore_window {u k : Nat} {t : Strand} {ks : List Nat} (h : s.freeSlots t.core = k :: ks) (hwf : Memory.wf s.mem = true) :
    let at_ := memPool + t.core * 2 ^ 17 + k * (s.part t.vf).window
    Memory.bytes (s.restore u t).mem at_ t.parked.length = t.parked ∧
      ∀ j, j < at_ ∨ at_ + t.parked.length ≤ j → Memory.read (s.restore u t).mem j = Memory.read s.mem j := by
  intro at_
  rw [(State.restore_spec h).2]
  refine ⟨Memory.bytes_put hwf .., fun j hj => ?_⟩
  rw [Memory.read_put hwf, if_neg (by omega)]

theorem execDisplacement_leaves {u : Nat} {t : Strand} (hw : s.wantsSlot c = true) (hd : s.displaced c = some u)
    (hu : s.strand? u = some t) : execDisplacement c s = .next (s.leaveSlot u t) := by
  simp [execDisplacement, hw, hd, hu]

theorem execStealReply_record {i : Nat} {v : Option Nat} (h : (s.core c).steal = some ⟨i, v, some (some r)⟩) :
    execStealReply c s = .next ((s.putCore c { s.core c with steal := none }).pushOrHold c r) := by
  simp [execStealReply, h]

theorem execStealReply_empty {i : Nat} {v : Option Nat} (h : (s.core c).steal = some ⟨i, v, some none⟩) : execStealReply c s =
    .next (s.putCore c { s.core c with steal := if s.idle c then some ⟨i, none, none⟩ else none }) := by
  simp [execStealReply, h]

end

/-! ### Held and dependant pushes -/

theorem execDependantPush_pushes {s : State} {n : Nat} {p : Pending} (h : s.pending[n]? = some p) (hp : s.pushable p = true) :
    execDependantPush n s = .next (({ s with pending := s.pending.eraseIdx n } : State).pushOrHold p.core p.rec_) := by
  simp [execDependantPush, h, hp]

/-! ### Entries of a launch inlet -/

/-- The descriptor address, the job and the gang bit of the next entry of an inlet (R286, R287). -/
def Part.entryVa (p : Part) : Nat := bitsNat (p.inletWord p.inletPos 1) 55 0
def Part.entryJob (p : Part) : Nat := bitsNat (p.inletWord p.inletPos 0) 63 48
def Part.entryGang (p : Part) : Bool := bitAt (p.inletWord p.inletPos 0) 1

/-- What the launch inlet of a function reads at its next entry's descriptor address. -/
def State.entryRead (s s' : State) (vf n : Nat) : Desc := s'.descRead vf (s.part vf).entryJob (s.part vf).entryVa n

section
variable {s : State} {vf : Nat} (hready : s.entryReady vf = true)
include hready

theorem execLaunchInletEntry_refuses {e : Nat} (h : (s.part vf).entryRefused (s.part vf).inletPos = some e) :
    execLaunchInletEntry vf s = .next (s.entryDone vf (s.part vf).inletPos e 0) := by
  simp [execLaunchInletEntry, hready, h]

section
variable (hok : (s.part vf).entryRefused (s.part vf).inletPos = none)
include hok

theorem execLaunchInletEntry_waits {s' : State} {q : PageWait} (h : s.entryRead s vf 64 = .wait s' q) :
    execLaunchInletEntry vf s = .next (s'.putPart vf { s'.part vf with inletWaits := [q] }) := by
  simp only [State.entryRead, Part.entryJob, Part.entryVa] at h
  simp [execLaunchInletEntry, hready, hok, h]

theorem execLaunchInletEntry_bad {s' : State} {e : Nat} (h : s.entryRead s vf 64 = .bad s' e) :
    execLaunchInletEntry vf s = .next (s'.entryDone vf (s.part vf).inletPos e 0) := by
  simp only [State.entryRead, Part.entryJob, Part.entryVa] at h
  simp [execLaunchInletEntry, hready, hok, h]

section
variable {s' : State} {bs : List Byte} (hread : s.entryRead s vf 64 = .ok s' bs)
include hread

/-- A sweep's entry whose descriptor has been read ends as the checks of R188 say. -/
theorem execLaunchInletEntry_sweep {o : Option (Nat × Word64)} (hg : (s.part vf).entryGang = false)
    (hc : sweepChecks (s'.strandSlots vf) ((dwords bs 8).headD 0#64) (((dwords bs 8)[1]?).getD 0#64) = o) :
    execLaunchInletEntry vf s = .next (match o with
      | some e => s'.entryDone vf (s.part vf).inletPos e.1 0
      | none => s'.acceptEntry vf (s.part vf).inletPos false (dwords bs 8)) := by
  simp only [State.entryRead, Part.entryJob, Part.entryVa, Part.entryGang] at hread hg
  rw [List.headD_eq_head?_getD] at hc
  cases o <;> simp [execLaunchInletEntry, hready, hok, hread, hg, hc]

theorem execLaunchInletEntry_gang_size (hg : (s.part vf).entryGang = true)
    (hk : bitsNat ((dwords bs 8).headD 0#64) 2 0 < 2 ∨ 4 < bitsNat ((dwords bs 8).headD 0#64) 2 0) :
    execLaunchInletEntry vf s = .next (s'.entryDone vf (s.part vf).inletPos 0x51 0) := by
  simp only [State.entryRead, Part.entryJob, Part.entryVa, Part.entryGang] at hread hg
  rw [List.headD_eq_head?_getD] at hk
  simp [execLaunchInletEntry, hready, hok, hread, hg]
  intro h2 h4
  omega

/-- A gang's entry whose descriptor has been read whole ends as the checks of R190 say. -/
theorem execLaunchInletEntry_gang {o : Option (Nat × Word64)} {k : Nat} {s2 : State} {cs : List Byte} (hg : (s.part vf).entryGang = true)
    (hk : bitsNat ((dwords bs 8).headD 0#64) 2 0 = k) (h2 : 2 ≤ k) (h4 : k ≤ 4) (hread2 : s.entryRead s' vf (64 + 64 * k) = .ok s2 cs)
    (hc : gangChecks (s2.strandSlots vf) (s.part vf).entryVa (dwords cs (8 + 8 * k)) = o) :
    execLaunchInletEntry vf s = .next (match o with
      | some e => s2.entryDone vf (s.part vf).inletPos e.1 0
      | none => s2.acceptEntry vf (s.part vf).inletPos true (dwords cs (8 + 8 * k))) := by
  simp only [State.entryRead, Part.entryJob, Part.entryVa, Part.entryGang] at hread hread2 hg hc
  have h2' : ¬k ≤ 1 := by omega
  have h4' : ¬4 < k := by omega
  rw [List.headD_eq_head?_getD] at hk
  cases o <;> simp [execLaunchInletEntry, hready, hok, hread, hg, hk, h2', h4', hread2, hc]

end
end
end

/-! ### The load-summary token -/

section
variable {s : State} {k : Token}

theorem State.tokenMine_iff : s.tokenMine k = true ↔ k.lpkg = (s.part k.vf).self := beq_iff_eq

theorem State.tokenHere_iff : s.tokenHere k = true ↔ (s.part k.vf).jobIndex k.job ≠ none := Option.isSome_iff_ne_none

section
variable (hmine : s.tokenMine k = true)
include hmine

theorem State.takeToken_passes (hhere : s.tokenHere k = false) : s.takeToken k = s.sendToken k k.requests := by
  simp [State.takeToken, hmine, hhere]

section
variable (hhere : s.tokenHere k = true)
include hhere

theorem State.takeToken_unasked (h : s.tokenAsks k = []) :
    s.takeToken k = s.sendToken k (if s.underloaded k.vf then [(s.part k.vf).self] else []) := by
  simp [State.takeToken, State.tokenWait, hmine, hhere, h]

section
variable {l : Nat} {rs : List Nat} (hasks : s.tokenAsks k = l :: rs)
include hasks

/-- An unloaded package passes the requests on, its own after them where it wants work, up to eight (R292). -/
theorem State.takeToken_unloaded (hload : s.tokenLoad k < 64) : s.takeToken k = s.sendToken k
    (if s.underloaded k.vf = true ∧ (s.part k.vf).self ∉ l :: rs ∧ (l :: rs).length < 8 then l :: rs ++ [(s.part k.vf).self]
      else l :: rs) := by
  have hload' : ¬64 ≤ s.tokenLoad k := by omega
  have h8 : rs.length + 1 < 8 ↔ rs.length < 7 := by omega
  simp [State.takeToken, State.tokenWait, hmine, hhere, hasks, hload', h8, and_assoc]

theorem State.takeToken_waits {w : Wait} (hload : 64 ≤ s.tokenLoad k) (hw : s.lptWait k.vf l = some w) :
    s.takeToken k = { (s.askHost w false) with outside := .token k :: s.outside } := by
  simp [State.takeToken, State.tokenWait, hmine, hhere, hasks, hload, hw]

theorem State.takeToken_serves (hload : 64 ≤ s.tokenLoad k) (hw : s.lptWait k.vf l = none) :
    let y := s.takeThief k.job 16 (s.partCores k.vf)
    s.takeToken k = (y.1.emit (.records (bitsNat (y.1.lptEntry k.vf l) 54 50) l y.2)).sendToken k rs := by
  simp [State.takeToken, State.tokenWait, hmine, hhere, hasks, hload, hw]

end
end
end
end

/-- Settles O47: each row of the scheduler is one of the accounts above, for the state that its clause describes. -/
theorem schedulerPlacesWork : Obligations.SchedulerPlacesWork := by
  unfold Obligations.SchedulerPlacesWork
  intro s c n r x
  refine ⟨?step3, State.step3_of_no_partition, execSplit_spec, ?leaf, ?gang, ?task, fun k => execTaskStart_goes_on, ?activation,
    ?restorable, ?restore, fun u t => execDisplacement_leaves, ?steal, fun i v => execStealReply_record,
    fun i v => execStealReply_empty, fun hs => execHeldPush_record, fun hs m s' => execHeldPush_count,
    fun p => execDependantPush_pushes, ?inlet, ?token⟩
  case step3 =>
    intro hstop hout hin hpart
    rw [State.step3_eq_chosen hstop hout hin hpart]
    exact ⟨State.chosen_owner_end, State.chosen_held_group⟩
  case leaf =>
    intro root d1 args first k ks h3 hs hb hf
    obtain ⟨hkind, hcore, hslot, hjob, hlaunch, hpc, hroot, hrun, hpop⟩ :=
      leaf_strand (root := root) (d1 := d1) (args := args) (s.birth .resident r.vf r.job c k r.launch r.anc) _ _ rfl
    refine ⟨_, _, execLeafStrandStart_starts h3 hs hb hf, (State.strand?_place ..).trans (if_pos rfl), ?_,
      hkind, hcore, hslot, hjob, hlaunch, hpc, hroot, hrun, hpop⟩
    rw [State.core_place, State.core_takeRec]
  case gang =>
    intro desc pipes ms refs h3 hb hg
    refine ⟨execGangGroupPlacement_holds h3 hb hg, fun hs => ⟨_, execGangGroupPlacement_starts h3 hb hg hs, ?_⟩⟩
    obtain ⟨hnext, hcore⟩ := s.groupTaken_spec c n pipes
    obtain ⟨-, hcores, hstrands⟩ := ({ s.groupTaken c n pipes with nextUid := (s.groupTaken c n pipes).nextUid + 1 } : State).placeEach_spec
      (fun s' i => s'.gangMember c r (s.freeSlots c) s.nextUid pipes ms refs i) ms.length
    rw [hcores c]
    refine ⟨congrArg Core.gangHold hcore, congrArg Core.deque hcore, fun i hi => ?_⟩
    obtain ⟨s1, h1⟩ := hstrands i hi
    have hat : s.nextUid + 1 + i = (s.groupTaken c n pipes).nextUid + 1 + i := by rw [hnext]
    exact ⟨_, (congrArg (State.strand? _) hat).trans h1, s1.gangMember_spec c r (s.freeSlots c) s.nextUid pipes ms refs i (hi.trans_le hs)⟩
  case task =>
    intro d0 d1 d2 foot k ks hready h3 hb hf
    refine ⟨?_, ?_⟩
    · rintro rfl
      obtain ⟨hkind, hslot, hpc, hg1, hg3, hg4, hg5⟩ := (s.takeRec c n).bareTask_spec c k r d0 d1 d2
      refine ⟨_, _, (execTaskStart_takes hready h3 hb hf).trans (congrArg _ (State.startTask_bare hb false)),
        (State.strand?_place ..).trans (if_pos rfl), ?_, hkind, hslot, hpc, hg1, hg3, hg4, hg5⟩
      rw [State.core_place, State.core_takeRec]
    · intro hfoot
      exact (execTaskStart_takes hready h3 hb hf).trans (congrArg _ (State.startTask_foot hb hfoot))
  case activation =>
    intro p hp m k ks hplace hw hk hf
    have hexec : exec p.1 s = .next (s.activate c p.2) := by
      simp only [List.mem_cons, List.not_mem_nil, or_false] at hp
      rcases hp with rfl | rfl <;> rfl
    obtain ⟨hslot, hjob, hwin, hg, hpc, hcode, hkind⟩ := s.activation_spec c k m
    rw [hk] at hpc hcode hkind
    refine ⟨_, _, hexec.trans (congrArg _ (State.activate_starts hplace hw hk hf)), (State.strand?_place ..).trans (if_pos rfl), ?_,
      hslot, hjob, hwin, hg, hpc, hcode, hkind⟩
    rw [State.core_place, State.core_putCore, if_pos rfl]
  case restorable =>
    intro u t hu hcore hslot hrun honly
    exact State.restorable_some hu ⟨hcore, hslot, hrun⟩ fun p hp ⟨hc, hs, hr⟩ => honly p hp hc hs hr
  case restore =>
    intro u t k ks hr hu hf
    exact ⟨_, execStrandRestore_restores hr hu, (State.restore_spec hf).1, State.restore_window hf⟩
  case steal =>
    intro v hc hv hne
    have hexec : exec (.stealRequest c) s = .next (s.stealFrom c (s.nextVictim c) v) := execStealRequest_asks hc hv
    refine ⟨fun z hz => ⟨_, _, hexec, State.stealFrom_lost hz hne⟩, fun g hz hg => ?_,
      fun hz hg => ⟨_, _, hexec, State.stealFrom_empty hz hg⟩⟩
    obtain ⟨hdeque, hsteal, hstrands⟩ := State.stealFrom_takes (m := s.nextVictim c) hz hg hne
    exact ⟨_, hexec, hdeque, ⟨_, hsteal⟩, hstrands⟩
  case inlet =>
    intro vf hready i va gang job
    refine ⟨fun e => execLaunchInletEntry_refuses hready, fun hok => ⟨fun s' q => execLaunchInletEntry_waits hready hok,
      fun s' e => execLaunchInletEntry_bad hready hok, fun s' bs hread => ⟨fun e hg he => ?_, fun hg hnone => ?_,
      execLaunchInletEntry_gang_size hready hok hread, fun s2 cs hg h2 h4 hread2 => ⟨fun e he => ?_, fun hnone => ?_⟩⟩⟩⟩
    · exact execLaunchInletEntry_sweep hready hok hread hg he
    · exact execLaunchInletEntry_sweep hready hok hread hg hnone
    · exact execLaunchInletEntry_gang hready hok hread hg rfl h2 h4 hread2 he
    · exact execLaunchInletEntry_gang hready hok hread hg rfl h2 h4 hread2 hnone
  case token =>
    intro k self under asks load on
    have hexec : exec (.loadSummaryToken k) s = .next (s.takeToken k) := rfl
    refine ⟨fun h => ?_, fun hmine hhere => ?_, fun hmine hhere => ?_⟩
    · rw [hexec, State.takeToken_stray (by simpa [State.tokenMine] using h)]
    · rw [hexec, State.takeToken_passes (State.tokenMine_iff.2 hmine) (by simp [State.tokenHere, hhere])]
      rfl
    · have hm := State.tokenMine_iff.2 hmine
      have hh := State.tokenHere_iff.2 hhere
      refine ⟨fun h => ?_, fun l rs h => ⟨fun hload => ?_, fun hload => ⟨fun w hw => ?_, fun hw => ?_⟩⟩⟩
      · exact hexec.trans (congrArg _ (State.takeToken_unasked hm hh h))
      · have hasks : asks = s.tokenAsks k := rfl
        rw [h] at hasks ⊢
        exact hexec.trans (congrArg _ (State.takeToken_unloaded hm hh hasks.symm hload))
      · exact hexec.trans (congrArg _ (State.takeToken_waits hm hh h hload hw))
      · exact hexec.trans (congrArg _ (State.takeToken_serves hm hh h hload hw))

end Sys2Proof.Machine
end

section
/-!
SUPPORT. A word is the concatenation of its fields, for every layout that the encoder uses; each clause of the decoder answers an
instruction whose word is the word read; the majors that R78 reserves; the round trip of every instruction (O54, O55, O53).
-/
namespace Sys2Proof

section
variable {w : Word32}

/-! ### A word from its fields -/

/-- Two fields that stand side by side are one field. -/
theorem fld_join {lo n m : Nat} {x : BitVec n} {y : BitVec m} (hx : fld w (lo + m) n = x) (hy : fld w lo m = y) :
    fld w lo (n + m) = x ++ y := by
  subst hx hy
  refine BitVec.eq_of_getLsbD_eq fun i hi => ?_
  simp only [fld, BitVec.getLsbD_append, BitVec.getLsbD_extractLsb', hi, decide_true, Bool.true_and]
  split
  · next h => simp [h]
  · next h => simp [show i - m < n by omega, show lo + m + (i - m) = lo + i by omega]

theorem fld_word (w : Word32) : fld w 0 32 = w := BitVec.extractLsb'_eq_self

theorem word_6_5_5_5_11 {x0 : BitVec 6} {x1 x2 x3 : BitVec 5} {x4 : BitVec 11}
    (h0 : fld w 26 6 = x0) (h1 : fld w 21 5 = x1) (h2 : fld w 16 5 = x2) (h3 : fld w 11 5 = x3) (h4 : fld w 0 11 = x4) :
    (x0 ++ x1 ++ x2 ++ x3 ++ x4 : Word32) = w :=
  .symm <| (fld_word w).symm.trans <| fld_join (lo := 0) (fld_join (lo := 11) (fld_join (lo := 16)
    (fld_join (lo := 21) h0 h1) h2) h3) h4

theorem word_6_5_5_16 {x0 : BitVec 6} {x1 x2 : BitVec 5} {x3 : BitVec 16}
    (h0 : fld w 26 6 = x0) (h1 : fld w 21 5 = x1) (h2 : fld w 16 5 = x2) (h3 : fld w 0 16 = x3) :
    (x0 ++ x1 ++ x2 ++ x3 : Word32) = w :=
  .symm <| (fld_word w).symm.trans <| fld_join (lo := 0) (fld_join (lo := 16) (fld_join (lo := 21) h0 h1) h2) h3

theorem word_6_5_5_6_10 {x0 : BitVec 6} {x1 x2 : BitVec 5} {x3 : BitVec 6} {x4 : BitVec 10}
    (h0 : fld w 26 6 = x0) (h1 : fld w 21 5 = x1) (h2 : fld w 16 5 = x2) (h3 : fld w 10 6 = x3) (h4 : fld w 0 10 = x4) :
    (x0 ++ x1 ++ x2 ++ x3 ++ x4 : Word32) = w :=
  .symm <| (fld_word w).symm.trans <| fld_join (lo := 0) (fld_join (lo := 10) (fld_join (lo := 16)
    (fld_join (lo := 21) h0 h1) h2) h3) h4

theorem word_6_5_5_1_5_10 {x0 : BitVec 6} {x1 x2 : BitVec 5} {x3 : BitVec 1} {x4 : BitVec 5} {x5 : BitVec 10}
    (h0 : fld w 26 6 = x0) (h1 : fld w 21 5 = x1) (h2 : fld w 16 5 = x2) (h3 : fld w 15 1 = x3) (h4 : fld w 10 5 = x4)
    (h5 : fld w 0 10 = x5) :
    (x0 ++ x1 ++ x2 ++ x3 ++ x4 ++ x5 : Word32) = w :=
  .symm <| (fld_word w).symm.trans <| fld_join (lo := 0) (fld_join (lo := 10) (fld_join (lo := 15)
    (fld_join (lo := 16) (fld_join (lo := 21) h0 h1) h2) h3) h4) h5

theorem word_6_5_5_10_6 {x0 : BitVec 6} {x1 x2 : BitVec 5} {x3 : BitVec 10} {x4 : BitVec 6}
    (h0 : fld w 26 6 = x0) (h1 : fld w 21 5 = x1) (h2 : fld w 16 5 = x2) (h3 : fld w 6 10 = x3) (h4 : fld w 0 6 = x4) :
    (x0 ++ x1 ++ x2 ++ x3 ++ x4 : Word32) = w :=
  .symm <| (fld_word w).symm.trans <| fld_join (lo := 0) (fld_join (lo := 6) (fld_join (lo := 16)
    (fld_join (lo := 21) h0 h1) h2) h3) h4

theorem word_6_5_5_5_5_6 {x0 : BitVec 6} {x1 x2 x3 x4 : BitVec 5} {x5 : BitVec 6}
    (h0 : fld w 26 6 = x0) (h1 : fld w 21 5 = x1) (h2 : fld w 16 5 = x2) (h3 : fld w 11 5 = x3) (h4 : fld w 6 5 = x4)
    (h5 : fld w 0 6 = x5) :
    (x0 ++ x1 ++ x2 ++ x3 ++ x4 ++ x5 : Word32) = w :=
  .symm <| (fld_word w).symm.trans <| fld_join (lo := 0) (fld_join (lo := 6) (fld_join (lo := 11) (fld_join (lo := 16)
    (fld_join (lo := 21) h0 h1) h2) h3) h4) h5

theorem word_6_5_10_11 {x0 : BitVec 6} {x1 : BitVec 5} {x2 : BitVec 10} {x3 : BitVec 11}
    (h0 : fld w 26 6 = x0) (h1 : fld w 21 5 = x1) (h2 : fld w 11 10 = x2) (h3 : fld w 0 11 = x3) :
    (x0 ++ x1 ++ x2 ++ x3 : Word32) = w :=
  .symm <| (fld_word w).symm.trans <| fld_join (lo := 0) (fld_join (lo := 11) (fld_join (lo := 21) h0 h1) h2) h3

theorem word_6_5_5_5_6_2_3 {x0 : BitVec 6} {x1 x2 x3 : BitVec 5} {x4 : BitVec 6} {x5 : BitVec 2} {x6 : BitVec 3}
    (h0 : fld w 26 6 = x0) (h1 : fld w 21 5 = x1) (h2 : fld w 16 5 = x2) (h3 : fld w 11 5 = x3) (h4 : fld w 5 6 = x4)
    (h5 : fld w 3 2 = x5) (h6 : fld w 0 3 = x6) :
    (x0 ++ x1 ++ x2 ++ x3 ++ x4 ++ x5 ++ x6 : Word32) = w :=
  .symm <| (fld_word w).symm.trans <| fld_join (lo := 0) (fld_join (lo := 3) (fld_join (lo := 5) (fld_join (lo := 11)
    (fld_join (lo := 16) (fld_join (lo := 21) h0 h1) h2) h3) h4) h5) h6

theorem word_6_15_6_2_3 {x0 : BitVec 6} {x1 : BitVec 15} {x2 : BitVec 6} {x3 : BitVec 2} {x4 : BitVec 3}
    (h0 : fld w 26 6 = x0) (h1 : fld w 11 15 = x1) (h2 : fld w 5 6 = x2) (h3 : fld w 3 2 = x3) (h4 : fld w 0 3 = x4) :
    (x0 ++ x1 ++ x2 ++ x3 ++ x4 : Word32) = w :=
  .symm <| (fld_word w).symm.trans <| fld_join (lo := 0) (fld_join (lo := 3) (fld_join (lo := 5)
    (fld_join (lo := 11) h0 h1) h2) h3) h4

theorem word_6_2_3_5_5_11 {x0 : BitVec 6} {x1 : BitVec 2} {x2 : BitVec 3} {x3 x4 : BitVec 5} {x5 : BitVec 11}
    (h0 : fld w 26 6 = x0) (h1 : fld w 24 2 = x1) (h2 : fld w 21 3 = x2) (h3 : fld w 16 5 = x3) (h4 : fld w 11 5 = x4)
    (h5 : fld w 0 11 = x5) :
    (x0 ++ x1 ++ x2 ++ x3 ++ x4 ++ x5 : Word32) = w :=
  .symm <| (fld_word w).symm.trans <| fld_join (lo := 0) (fld_join (lo := 11) (fld_join (lo := 16)
    (fld_join (lo := 21) (fld_join (lo := 24) h0 h1) h2) h3) h4) h5

theorem word_6_2_3_10_11 {x0 : BitVec 6} {x1 : BitVec 2} {x2 : BitVec 3} {x3 : BitVec 10} {x4 : BitVec 11}
    (h0 : fld w 26 6 = x0) (h1 : fld w 24 2 = x1) (h2 : fld w 21 3 = x2) (h3 : fld w 11 10 = x3) (h4 : fld w 0 11 = x4) :
    (x0 ++ x1 ++ x2 ++ x3 ++ x4 : Word32) = w :=
  .symm <| (fld_word w).symm.trans <| fld_join (lo := 0) (fld_join (lo := 11) (fld_join (lo := 21)
    (fld_join (lo := 24) h0 h1) h2) h3) h4

theorem word_6_5_2_3_5_11 {x0 : BitVec 6} {x1 : BitVec 5} {x2 : BitVec 2} {x3 : BitVec 3} {x4 : BitVec 5} {x5 : BitVec 11}
    (h0 : fld w 26 6 = x0) (h1 : fld w 21 5 = x1) (h2 : fld w 19 2 = x2) (h3 : fld w 16 3 = x3) (h4 : fld w 11 5 = x4)
    (h5 : fld w 0 11 = x5) :
    (x0 ++ x1 ++ x2 ++ x3 ++ x4 ++ x5 : Word32) = w :=
  .symm <| (fld_word w).symm.trans <| fld_join (lo := 0) (fld_join (lo := 11) (fld_join (lo := 16)
    (fld_join (lo := 19) (fld_join (lo := 21) h0 h1) h2) h3) h4) h5

theorem word_6_5_21 {x0 : BitVec 6} {x1 : BitVec 5} {x2 : BitVec 21}
    (h0 : fld w 26 6 = x0) (h1 : fld w 21 5 = x1) (h2 : fld w 0 21 = x2) :
    (x0 ++ x1 ++ x2 : Word32) = w :=
  .symm <| (fld_word w).symm.trans <| fld_join (lo := 0) (fld_join (lo := 21) h0 h1) h2

theorem word_6_15_11 {x0 : BitVec 6} {x1 : BitVec 15} {x2 : BitVec 11}
    (h0 : fld w 26 6 = x0) (h1 : fld w 11 15 = x1) (h2 : fld w 0 11 = x2) :
    (x0 ++ x1 ++ x2 : Word32) = w :=
  .symm <| (fld_word w).symm.trans <| fld_join (lo := 0) (fld_join (lo := 11) h0 h1) h2

theorem word_6_5_5_5_3_4_4 {x0 : BitVec 6} {x1 x2 x3 : BitVec 5} {x4 : BitVec 3} {x5 x6 : BitVec 4}
    (h0 : fld w 26 6 = x0) (h1 : fld w 21 5 = x1) (h2 : fld w 16 5 = x2) (h3 : fld w 11 5 = x3) (h4 : fld w 8 3 = x4)
    (h5 : fld w 4 4 = x5) (h6 : fld w 0 4 = x6) :
    (x0 ++ x1 ++ x2 ++ x3 ++ x4 ++ x5 ++ x6 : Word32) = w :=
  .symm <| (fld_word w).symm.trans <| fld_join (lo := 0) (fld_join (lo := 4) (fld_join (lo := 8) (fld_join (lo := 11)
    (fld_join (lo := 16) (fld_join (lo := 21) h0 h1) h2) h3) h4) h5) h6

theorem word_6_2_3_5_5_3_4_4 {x0 : BitVec 6} {x1 : BitVec 2} {x2 : BitVec 3} {x3 x4 : BitVec 5} {x5 : BitVec 3} {x6 x7 : BitVec 4}
    (h0 : fld w 26 6 = x0) (h1 : fld w 24 2 = x1) (h2 : fld w 21 3 = x2) (h3 : fld w 16 5 = x3) (h4 : fld w 11 5 = x4)
    (h5 : fld w 8 3 = x5) (h6 : fld w 4 4 = x6) (h7 : fld w 0 4 = x7) :
    (x0 ++ x1 ++ x2 ++ x3 ++ x4 ++ x5 ++ x6 ++ x7 : Word32) = w :=
  .symm <| (fld_word w).symm.trans <| fld_join (lo := 0) (fld_join (lo := 4) (fld_join (lo := 8) (fld_join (lo := 11)
    (fld_join (lo := 16) (fld_join (lo := 21) (fld_join (lo := 24) h0 h1) h2) h3) h4) h5) h6) h7

theorem word_6_2_3_2_3_2_3_7_4 {x0 : BitVec 6} {x1 : BitVec 2} {x2 : BitVec 3} {x3 : BitVec 2}
    {x4 : BitVec 3} {x5 : BitVec 2} {x6 : BitVec 3} {x7 : BitVec 7} {x8 : BitVec 4}
    (h0 : fld w 26 6 = x0) (h1 : fld w 24 2 = x1) (h2 : fld w 21 3 = x2) (h3 : fld w 19 2 = x3) (h4 : fld w 16 3 = x4)
    (h5 : fld w 14 2 = x5) (h6 : fld w 11 3 = x6) (h7 : fld w 4 7 = x7) (h8 : fld w 0 4 = x8) :
    (x0 ++ x1 ++ x2 ++ x3 ++ x4 ++ x5 ++ x6 ++ x7 ++ x8 : Word32) = w :=
  .symm <| (fld_word w).symm.trans <| fld_join (lo := 0) (fld_join (lo := 4) (fld_join (lo := 11) (fld_join (lo := 14)
    (fld_join (lo := 16) (fld_join (lo := 19) (fld_join (lo := 21) (fld_join (lo := 24) h0 h1) h2) h3) h4) h5) h6) h7) h8

theorem word_6_2_3_2_3_12_4 {x0 : BitVec 6} {x1 : BitVec 2} {x2 : BitVec 3} {x3 : BitVec 2}
    {x4 : BitVec 3} {x5 : BitVec 12} {x6 : BitVec 4}
    (h0 : fld w 26 6 = x0) (h1 : fld w 24 2 = x1) (h2 : fld w 21 3 = x2) (h3 : fld w 19 2 = x3) (h4 : fld w 16 3 = x4)
    (h5 : fld w 4 12 = x5) (h6 : fld w 0 4 = x6) :
    (x0 ++ x1 ++ x2 ++ x3 ++ x4 ++ x5 ++ x6 : Word32) = w :=
  .symm <| (fld_word w).symm.trans <| fld_join (lo := 0) (fld_join (lo := 4) (fld_join (lo := 16) (fld_join (lo := 19)
    (fld_join (lo := 21) (fld_join (lo := 24) h0 h1) h2) h3) h4) h5) h6

theorem word_6_2_3_5_12_4 {x0 : BitVec 6} {x1 : BitVec 2} {x2 : BitVec 3} {x3 : BitVec 5} {x4 : BitVec 12} {x5 : BitVec 4}
    (h0 : fld w 26 6 = x0) (h1 : fld w 24 2 = x1) (h2 : fld w 21 3 = x2) (h3 : fld w 16 5 = x3) (h4 : fld w 4 12 = x4)
    (h5 : fld w 0 4 = x5) :
    (x0 ++ x1 ++ x2 ++ x3 ++ x4 ++ x5 : Word32) = w :=
  .symm <| (fld_word w).symm.trans <| fld_join (lo := 0) (fld_join (lo := 4) (fld_join (lo := 16) (fld_join (lo := 21)
    (fld_join (lo := 24) h0 h1) h2) h3) h4) h5

theorem word_6_5_2_3_12_4 {x0 : BitVec 6} {x1 : BitVec 5} {x2 : BitVec 2} {x3 : BitVec 3} {x4 : BitVec 12} {x5 : BitVec 4}
    (h0 : fld w 26 6 = x0) (h1 : fld w 21 5 = x1) (h2 : fld w 19 2 = x2) (h3 : fld w 16 3 = x3) (h4 : fld w 4 12 = x4)
    (h5 : fld w 0 4 = x5) :
    (x0 ++ x1 ++ x2 ++ x3 ++ x4 ++ x5 : Word32) = w :=
  .symm <| (fld_word w).symm.trans <| fld_join (lo := 0) (fld_join (lo := 4) (fld_join (lo := 16) (fld_join (lo := 19)
    (fld_join (lo := 21) h0 h1) h2) h3) h4) h5

theorem word_6_5_10_3_4_4 {x0 : BitVec 6} {x1 : BitVec 5} {x2 : BitVec 10} {x3 : BitVec 3} {x4 x5 : BitVec 4}
    (h0 : fld w 26 6 = x0) (h1 : fld w 21 5 = x1) (h2 : fld w 11 10 = x2) (h3 : fld w 8 3 = x3) (h4 : fld w 4 4 = x4)
    (h5 : fld w 0 4 = x5) :
    (x0 ++ x1 ++ x2 ++ x3 ++ x4 ++ x5 : Word32) = w :=
  .symm <| (fld_word w).symm.trans <| fld_join (lo := 0) (fld_join (lo := 4) (fld_join (lo := 8) (fld_join (lo := 11)
    (fld_join (lo := 21) h0 h1) h2) h3) h4) h5

theorem word_6_5_5_1_4_3_4_4 {x0 : BitVec 6} {x1 x2 : BitVec 5} {x3 : BitVec 1} {x4 : BitVec 4} {x5 : BitVec 3} {x6 x7 : BitVec 4}
    (h0 : fld w 26 6 = x0) (h1 : fld w 21 5 = x1) (h2 : fld w 16 5 = x2) (h3 : fld w 15 1 = x3) (h4 : fld w 11 4 = x4)
    (h5 : fld w 8 3 = x5) (h6 : fld w 4 4 = x6) (h7 : fld w 0 4 = x7) :
    (x0 ++ x1 ++ x2 ++ x3 ++ x4 ++ x5 ++ x6 ++ x7 : Word32) = w :=
  .symm <| (fld_word w).symm.trans <| fld_join (lo := 0) (fld_join (lo := 4) (fld_join (lo := 8) (fld_join (lo := 11)
    (fld_join (lo := 15) (fld_join (lo := 16) (fld_join (lo := 21) h0 h1) h2) h3) h4) h5) h6) h7

theorem word_6_5_1_4_16 {x0 : BitVec 6} {x1 : BitVec 5} {x2 : BitVec 1} {x3 : BitVec 4} {x4 : BitVec 16}
    (h0 : fld w 26 6 = x0) (h1 : fld w 21 5 = x1) (h2 : fld w 20 1 = x2) (h3 : fld w 16 4 = x3) (h4 : fld w 0 16 = x4) :
    (x0 ++ x1 ++ x2 ++ x3 ++ x4 : Word32) = w :=
  .symm <| (fld_word w).symm.trans <| fld_join (lo := 0) (fld_join (lo := 16) (fld_join (lo := 20)
    (fld_join (lo := 21) h0 h1) h2) h3) h4

theorem word_6_6_5_5_5_5 {x0 x1 : BitVec 6} {x2 x3 x4 x5 : BitVec 5}
    (h0 : fld w 26 6 = x0) (h1 : fld w 20 6 = x1) (h2 : fld w 15 5 = x2) (h3 : fld w 10 5 = x3) (h4 : fld w 5 5 = x4)
    (h5 : fld w 0 5 = x5) :
    (x0 ++ x1 ++ x2 ++ x3 ++ x4 ++ x5 : Word32) = w :=
  .symm <| (fld_word w).symm.trans <| fld_join (lo := 0) (fld_join (lo := 5) (fld_join (lo := 10) (fld_join (lo := 15)
    (fld_join (lo := 20) h0 h1) h2) h3) h4) h5

theorem word_6_6_5_5_10 {x0 x1 : BitVec 6} {x2 x3 : BitVec 5} {x4 : BitVec 10}
    (h0 : fld w 26 6 = x0) (h1 : fld w 20 6 = x1) (h2 : fld w 15 5 = x2) (h3 : fld w 10 5 = x3) (h4 : fld w 0 10 = x4) :
    (x0 ++ x1 ++ x2 ++ x3 ++ x4 : Word32) = w :=
  .symm <| (fld_word w).symm.trans <| fld_join (lo := 0) (fld_join (lo := 10) (fld_join (lo := 15)
    (fld_join (lo := 20) h0 h1) h2) h3) h4

theorem word_6_6_5_15 {x0 x1 : BitVec 6} {x2 : BitVec 5} {x3 : BitVec 15}
    (h0 : fld w 26 6 = x0) (h1 : fld w 20 6 = x1) (h2 : fld w 15 5 = x2) (h3 : fld w 0 15 = x3) :
    (x0 ++ x1 ++ x2 ++ x3 : Word32) = w :=
  .symm <| (fld_word w).symm.trans <| fld_join (lo := 0) (fld_join (lo := 15) (fld_join (lo := 20) h0 h1) h2) h3

theorem word_6_6_20 {x0 x1 : BitVec 6} {x2 : BitVec 20}
    (h0 : fld w 26 6 = x0) (h1 : fld w 20 6 = x1) (h2 : fld w 0 20 = x2) :
    (x0 ++ x1 ++ x2 : Word32) = w :=
  .symm <| (fld_word w).symm.trans <| fld_join (lo := 0) (fld_join (lo := 20) h0 h1) h2

theorem word_6_6_2_3_5_5_5 {x0 x1 : BitVec 6} {x2 : BitVec 2} {x3 : BitVec 3} {x4 x5 x6 : BitVec 5}
    (h0 : fld w 26 6 = x0) (h1 : fld w 20 6 = x1) (h2 : fld w 18 2 = x2) (h3 : fld w 15 3 = x3) (h4 : fld w 10 5 = x4)
    (h5 : fld w 5 5 = x5) (h6 : fld w 0 5 = x6) :
    (x0 ++ x1 ++ x2 ++ x3 ++ x4 ++ x5 ++ x6 : Word32) = w :=
  .symm <| (fld_word w).symm.trans <| fld_join (lo := 0) (fld_join (lo := 5) (fld_join (lo := 10) (fld_join (lo := 15)
    (fld_join (lo := 18) (fld_join (lo := 20) h0 h1) h2) h3) h4) h5) h6

theorem word_6_6_2_3_15 {x0 x1 : BitVec 6} {x2 : BitVec 2} {x3 : BitVec 3} {x4 : BitVec 15}
    (h0 : fld w 26 6 = x0) (h1 : fld w 20 6 = x1) (h2 : fld w 18 2 = x2) (h3 : fld w 15 3 = x3) (h4 : fld w 0 15 = x4) :
    (x0 ++ x1 ++ x2 ++ x3 ++ x4 : Word32) = w :=
  .symm <| (fld_word w).symm.trans <| fld_join (lo := 0) (fld_join (lo := 15) (fld_join (lo := 18)
    (fld_join (lo := 20) h0 h1) h2) h3) h4

theorem word_6_6_5_5_3_2_5 {x0 x1 : BitVec 6} {x2 x3 : BitVec 5} {x4 : BitVec 3} {x5 : BitVec 2} {x6 : BitVec 5}
    (h0 : fld w 26 6 = x0) (h1 : fld w 20 6 = x1) (h2 : fld w 15 5 = x2) (h3 : fld w 10 5 = x3) (h4 : fld w 7 3 = x4)
    (h5 : fld w 5 2 = x5) (h6 : fld w 0 5 = x6) :
    (x0 ++ x1 ++ x2 ++ x3 ++ x4 ++ x5 ++ x6 : Word32) = w :=
  .symm <| (fld_word w).symm.trans <| fld_join (lo := 0) (fld_join (lo := 5) (fld_join (lo := 7) (fld_join (lo := 10)
    (fld_join (lo := 15) (fld_join (lo := 20) h0 h1) h2) h3) h4) h5) h6

theorem word_6_6_13_2_5 {x0 x1 : BitVec 6} {x2 : BitVec 13} {x3 : BitVec 2} {x4 : BitVec 5}
    (h0 : fld w 26 6 = x0) (h1 : fld w 20 6 = x1) (h2 : fld w 7 13 = x2) (h3 : fld w 5 2 = x3) (h4 : fld w 0 5 = x4) :
    (x0 ++ x1 ++ x2 ++ x3 ++ x4 : Word32) = w :=
  .symm <| (fld_word w).symm.trans <| fld_join (lo := 0) (fld_join (lo := 5) (fld_join (lo := 7)
    (fld_join (lo := 20) h0 h1) h2) h3) h4

theorem word_6_6_10_5_5 {x0 x1 : BitVec 6} {x2 : BitVec 10} {x3 x4 : BitVec 5}
    (h0 : fld w 26 6 = x0) (h1 : fld w 20 6 = x1) (h2 : fld w 10 10 = x2) (h3 : fld w 5 5 = x3) (h4 : fld w 0 5 = x4) :
    (x0 ++ x1 ++ x2 ++ x3 ++ x4 : Word32) = w :=
  .symm <| (fld_word w).symm.trans <| fld_join (lo := 0) (fld_join (lo := 5) (fld_join (lo := 10)
    (fld_join (lo := 20) h0 h1) h2) h3) h4

theorem word_6_6_5_10_5 {x0 x1 : BitVec 6} {x2 : BitVec 5} {x3 : BitVec 10} {x4 : BitVec 5}
    (h0 : fld w 26 6 = x0) (h1 : fld w 20 6 = x1) (h2 : fld w 15 5 = x2) (h3 : fld w 5 10 = x3) (h4 : fld w 0 5 = x4) :
    (x0 ++ x1 ++ x2 ++ x3 ++ x4 : Word32) = w :=
  .symm <| (fld_word w).symm.trans <| fld_join (lo := 0) (fld_join (lo := 5) (fld_join (lo := 15)
    (fld_join (lo := 20) h0 h1) h2) h3) h4

theorem word_6_6_15_5 {x0 x1 : BitVec 6} {x2 : BitVec 15} {x3 : BitVec 5}
    (h0 : fld w 26 6 = x0) (h1 : fld w 20 6 = x1) (h2 : fld w 5 15 = x2) (h3 : fld w 0 5 = x3) :
    (x0 ++ x1 ++ x2 ++ x3 : Word32) = w :=
  .symm <| (fld_word w).symm.trans <| fld_join (lo := 0) (fld_join (lo := 5) (fld_join (lo := 20) h0 h1) h2) h3

/-! ### The codes of types, orderings, scopes and system registers -/

theorem EType.eq_code {c : BitVec 4} {t : EType} (h : EType.ofCode c = some t) : c = t.code := by
  have hall : ∀ c : BitVec 4, ∀ t ∈ EType.ofCode c, c = t.code := by decide
  exact hall c t h

theorem Scope.eq_code {c : BitVec 3} {sc : Scope} (h : Scope.ofCode c = some sc) : c = sc.code := by
  have hall : ∀ c : BitVec 3, ∀ sc ∈ Scope.ofCode c, c = sc.code := by decide
  exact hall c sc h

theorem SysReg.eq_code {c : BitVec 5} {r : SysReg} (h : SysReg.ofCode c = some r) : c = r.code := by
  have hall : ∀ c : BitVec 5, ∀ r ∈ SysReg.ofCode c, c = r.code := by decide
  exact hall c r h

theorem MOrd.eq_code : ∀ c : BitVec 2, c = (MOrd.ofCode c).code := by decide

/-! ### What a decoder takes is what the encoder writes -/

/-- Every instruction that a decoder answers has w as its word. -/
def Encodes (w : Word32) (o : Option Instr) : Prop := ∀ i, o = some i → encode i = some w

theorem Encodes.none : Encodes w none := fun _ h => nomatch h

theorem Encodes.word {i : Instr} {v : Word32} (hi : encode i = some v) (hv : v = w) : Encodes w (some i) := by
  rintro _ ⟨⟩
  rw [hi, hv]

theorem Encodes.ite {c : Prop} [Decidable c] {o r : Option Instr} (ho : c → Encodes w o) (hr : Encodes w r) :
    Encodes w (if c then o else r) := by
  split
  · next h => exact ho h
  · exact hr

theorem Encodes.bind {α : Type} {o : Option α} {f : α → Option Instr} (h : ∀ a, o = some a → Encodes w (f a)) :
    Encodes w (o.bind f) := by
  cases o with
  | none => exact .none
  | some a => exact h a rfl

theorem Encodes.map {α : Type} {o : Option α} {f : α → Instr} (h : ∀ a, o = some a → Encodes w (some (f a))) :
    Encodes w (o.map f) := by
  cases o with
  | none => exact .none
  | some a => exact h a rfl

theorem decode01_encodes (hm : fld w 26 6 = 0x01#6) : Encodes w (decode01 w) := by
  unfold decode01
  iterate 26 refine .ite (fun h => .word rfl (word_6_5_5_5_11 hm rfl rfl rfl h)) ?_
  exact .none

theorem decode08_encodes (hm : fld w 26 6 = 0x08#6) : Encodes w (decode08 w) := by
  unfold decode08
  iterate 4 refine .ite (fun h => .word rfl (word_6_5_5_6_10 hm rfl rfl rfl h)) ?_
  iterate 8 refine .ite (fun ⟨h1, h2⟩ => .word rfl (word_6_5_5_1_5_10 hm rfl rfl h2 rfl h1)) ?_
  exact .none

theorem decode0C_encodes (hm : fld w 26 6 = 0x0c#6) : Encodes w (decode0C w) := by
  unfold decode0C
  iterate 16 refine .ite (fun h => .word rfl (word_6_5_5_5_11 hm rfl rfl rfl h)) ?_
  exact .none

theorem decode0D_encodes (hm : fld w 26 6 = 0x0d#6) : Encodes w (decode0D w) := by
  unfold decode0D
  iterate 5 refine .ite (fun ⟨h1, h2⟩ => .word rfl (word_6_5_5_10_6 hm rfl rfl h2 h1)) ?_
  iterate 6 refine .ite (fun ⟨h1, h2⟩ => .word rfl (word_6_5_5_5_5_6 hm rfl rfl rfl h2 h1)) ?_
  refine .ite (fun h => .word rfl (word_6_5_5_5_5_6 hm rfl rfl rfl rfl h)) ?_
  iterate 6 refine .ite (fun ⟨h1, h2⟩ => .word rfl (word_6_5_5_10_6 hm rfl rfl h2 h1)) ?_
  refine .ite (fun ⟨h1, h2⟩ => .word rfl (word_6_5_5_5_5_6 hm rfl rfl rfl h2 h1)) ?_
  exact .none

theorem decode0E_encodes (hm : fld w 26 6 = 0x0e#6) : Encodes w (decode0E w) := by
  unfold decode0E
  refine .ite (fun h => .word rfl (word_6_5_5_5_11 hm rfl rfl rfl h)) ?_
  refine .ite (fun ⟨h1, h2⟩ => .word rfl (word_6_5_5_5_11 hm rfl rfl h2 h1)) ?_
  iterate 2 refine .ite (fun h => .word rfl (word_6_5_5_5_11 hm rfl rfl rfl h)) ?_
  refine .ite (fun ⟨h1, h2⟩ => .word rfl (word_6_5_5_5_11 hm rfl rfl h2 h1)) ?_
  iterate 3 refine .ite (fun h => .word rfl (word_6_5_5_5_11 hm rfl rfl rfl h)) ?_
  iterate 3 refine .ite (fun ⟨h1, h2⟩ => .word rfl (word_6_5_5_5_11 hm rfl rfl h2 h1)) ?_
  iterate 2 refine .ite (fun h => .word rfl (word_6_5_5_5_11 hm rfl rfl rfl h)) ?_
  iterate 2 refine .ite (fun ⟨h1, h2⟩ => .word rfl (word_6_5_5_5_11 hm rfl rfl h2 h1)) ?_
  exact .none

theorem decode1C_encodes (hm : fld w 26 6 = 0x1c#6) : Encodes w (decode1C w) := by
  unfold decode1C
  iterate 4 refine .ite (fun ⟨h1, h2⟩ => .word rfl (word_6_5_5_5_11 hm rfl rfl h2 h1)) ?_
  iterate 4 refine .ite (fun ⟨h1, h2⟩ => .word rfl (word_6_5_10_11 hm rfl h2 h1)) ?_
  exact .none

theorem decode1D_encodes (hm : fld w 26 6 = 0x1d#6) : Encodes w (decode1D w) := by
  unfold decode1D
  iterate 23 refine .ite (fun h => .map fun sc hs => .word rfl
    (word_6_5_5_5_6_2_3 hm rfl rfl rfl h (MOrd.eq_code _) (Scope.eq_code hs))) ?_
  iterate 2 refine .ite (fun ⟨h1, h2⟩ => .map fun sc hs => .word rfl
    (word_6_5_5_5_6_2_3 hm h2 rfl rfl h1 (MOrd.eq_code _) (Scope.eq_code hs))) ?_
  exact .none

theorem decode1E_encodes (hm : fld w 26 6 = 0x1e#6) : Encodes w (decode1E w) := by
  unfold decode1E
  refine .ite (fun ⟨h1, h2⟩ => .map fun sc hs => .word rfl (word_6_15_6_2_3 hm h2 h1 (MOrd.eq_code _) (Scope.eq_code hs))) ?_
  refine .ite (fun ⟨h1, h2⟩ => .map fun sc hs => .word rfl
    (word_6_5_5_5_6_2_3 hm rfl rfl h2 h1 (MOrd.eq_code _) (Scope.eq_code hs))) ?_
  exact .none

theorem decode1F_encodes (hm : fld w 26 6 = 0x1f#6) : Encodes w (decode1F w) := by
  unfold decode1F
  refine .ite (fun ⟨h1, h2⟩ => .word rfl (word_6_2_3_5_5_11 hm h2 rfl rfl rfl h1)) ?_
  refine .ite (fun ⟨h1, h2, h3⟩ => .word rfl (word_6_2_3_10_11 hm h2 rfl h3 h1)) ?_
  iterate 2 refine .ite (fun ⟨h1, h2, h3⟩ => .word rfl (word_6_5_2_3_5_11 hm rfl h2 rfl h3 h1)) ?_
  refine .ite (fun ⟨h1, h2⟩ => .word rfl (word_6_5_5_5_11 hm rfl rfl h2 h1)) ?_
  exact .none

theorem decode28_encodes (hm : fld w 26 6 = 0x28#6) : Encodes w (decode28 w) := by
  unfold decode28
  refine .ite (fun ⟨h1, h2, h3⟩ => .word rfl (word_6_5_5_5_11 hm h2 rfl h3 h1)) ?_
  iterate 2 refine .ite (fun ⟨h1, h2⟩ => .word rfl (word_6_15_11 hm h2 h1)) ?_
  exact .none

theorem decode30_encodes (hm : fld w 26 6 = 0x30#6) : Encodes w (decode30 w) := by
  unfold decode30
  iterate 7 refine .ite (fun h => .map fun t ht => .word rfl (word_6_5_5_5_3_4_4 hm rfl rfl rfl rfl (EType.eq_code ht) h)) ?_
  iterate 2 refine .ite (fun ⟨h1, h2⟩ => .map fun t ht => .word rfl
    (word_6_5_5_5_3_4_4 hm rfl rfl h2 rfl (EType.eq_code ht) h1)) ?_
  iterate 7 refine .ite (fun h => .map fun t ht => .word rfl (word_6_5_5_5_3_4_4 hm rfl rfl rfl rfl (EType.eq_code ht) h)) ?_
  exact .none

theorem decode31_encodes (hm : fld w 26 6 = 0x31#6) : Encodes w (decode31 w) := by
  unfold decode31
  iterate 4 refine .ite (fun ⟨h1, h2⟩ => .map fun t ht => .word rfl
    (word_6_2_3_5_5_3_4_4 hm h2 rfl rfl rfl rfl (EType.eq_code ht) h1)) ?_
  iterate 4 refine .ite (fun ⟨h1, h2, h3, h4, h5⟩ => .word rfl (word_6_2_3_2_3_2_3_7_4 hm h2 rfl h3 rfl h4 rfl h5 h1)) ?_
  refine .ite (fun ⟨h1, h2, h3, h4⟩ => .word rfl (word_6_2_3_2_3_12_4 hm h2 rfl h3 rfl h4 h1)) ?_
  refine .ite (fun ⟨h1, h2, h3⟩ => .word rfl (word_6_2_3_5_12_4 hm h2 rfl rfl h3 h1)) ?_
  iterate 2 refine .ite (fun ⟨h1, h2, h3⟩ => .word rfl (word_6_5_2_3_12_4 hm rfl h2 rfl h3 h1)) ?_
  exact .none

theorem decode32_encodes (hm : fld w 26 6 = 0x32#6) : Encodes w (decode32 w) := by
  unfold decode32
  iterate 2 refine .ite (fun ⟨h1, h2⟩ => .map fun t ht => .word rfl
    (word_6_5_5_5_3_4_4 hm rfl rfl h2 rfl (EType.eq_code ht) h1)) ?_
  iterate 4 refine .ite (fun h => .map fun t ht => .word rfl (word_6_5_5_5_3_4_4 hm rfl rfl rfl rfl (EType.eq_code ht) h)) ?_
  iterate 2 refine .ite (fun ⟨h1, h2⟩ => .map fun t ht => .word rfl
    (word_6_5_5_5_3_4_4 hm rfl rfl h2 rfl (EType.eq_code ht) h1)) ?_
  exact .none

theorem decode33_encodes (hm : fld w 26 6 = 0x33#6) : Encodes w (decode33 w) := by
  unfold decode33
  refine .ite (fun h => .map fun t ht => .word rfl (word_6_5_5_5_3_4_4 hm rfl rfl rfl rfl (EType.eq_code ht) h)) ?_
  refine .ite (fun ⟨h1, h2⟩ => .map fun t ht => .word rfl (word_6_5_5_5_3_4_4 hm rfl rfl h2 rfl (EType.eq_code ht) h1)) ?_
  iterate 2 refine .ite (fun h => .map fun t ht => .word rfl (word_6_5_5_5_3_4_4 hm rfl rfl rfl rfl (EType.eq_code ht) h)) ?_
  refine .ite (fun ⟨h1, h2⟩ => .map fun t ht => .word rfl (word_6_5_10_3_4_4 hm rfl h2 rfl (EType.eq_code ht) h1)) ?_
  iterate 2 refine .ite (fun ⟨h1, h2⟩ => .map fun t ht => .word rfl
    (word_6_5_5_5_3_4_4 hm rfl rfl rfl h2 (EType.eq_code ht) h1)) ?_
  refine .ite (fun ⟨h1, h2⟩ => .bind fun u hu => .map fun t ht => .word rfl
    (word_6_5_5_1_4_3_4_4 hm rfl rfl h2 (EType.eq_code hu) rfl (EType.eq_code ht) h1)) ?_
  refine .ite (fun h => .map fun t ht => .word rfl (word_6_5_5_5_3_4_4 hm rfl rfl rfl rfl (EType.eq_code ht) h)) ?_
  iterate 3 refine .ite (fun ⟨h1, h2⟩ => .map fun t ht => .word rfl
    (word_6_5_5_5_3_4_4 hm rfl rfl h2 rfl (EType.eq_code ht) h1)) ?_
  refine .ite (fun h => .map fun t ht => .word rfl (word_6_5_5_5_3_4_4 hm rfl rfl rfl rfl (EType.eq_code ht) h)) ?_
  exact .none

theorem decode34_encodes (hm : fld w 26 6 = 0x34#6) : Encodes w (decode34 w) := by
  unfold decode34
  iterate 2 refine .ite (fun h => .map fun t ht => .word rfl (word_6_5_1_4_16 hm rfl h (EType.eq_code ht) rfl)) ?_
  exact .none

theorem decode38_encodes (hm : fld w 26 6 = 0x38#6) : Encodes w (decode38 w) := by
  unfold decode38
  refine .ite (fun ⟨h1, h2⟩ => .word rfl (word_6_6_5_5_5_5 hm h1 rfl rfl rfl h2)) ?_
  iterate 2 refine .ite (fun ⟨h1, h2⟩ => .word rfl (word_6_6_5_5_10 hm h1 rfl rfl h2)) ?_
  refine .ite (fun ⟨h1, h2⟩ => .word rfl (word_6_6_5_5_5_5 hm h1 rfl rfl h2 rfl)) ?_
  refine .ite (fun ⟨h1, h2⟩ => .word rfl (word_6_6_5_15 hm h1 rfl h2)) ?_
  refine .ite (fun ⟨h1, h2⟩ => .word rfl (word_6_6_5_5_5_5 hm h1 rfl rfl h2 rfl)) ?_
  iterate 2 refine .ite (fun ⟨h1, h2⟩ => .word rfl (word_6_6_5_5_10 hm h1 rfl rfl h2)) ?_
  refine .ite (fun ⟨h1, h2⟩ => .word rfl (word_6_6_5_15 hm h1 rfl h2)) ?_
  refine .ite (fun ⟨h1, h2, h3⟩ => .word rfl (word_6_6_5_5_5_5 hm h1 rfl h2 rfl h3)) ?_
  exact .none

theorem decode39_encodes (hm : fld w 26 6 = 0x39#6) : Encodes w (decode39 w) := by
  unfold decode39
  iterate 8 refine .ite (fun ⟨h1, h2⟩ => .word rfl (word_6_6_5_15 hm h1 rfl h2)) ?_
  iterate 2 refine .ite (fun ⟨h1, h2⟩ => .word rfl (word_6_6_5_5_10 hm h1 rfl rfl h2)) ?_
  iterate 2 refine .ite (fun ⟨h1, h2⟩ => .word rfl (word_6_6_5_15 hm h1 rfl h2)) ?_
  exact .none

theorem decode3A_encodes (hm : fld w 26 6 = 0x3a#6) : Encodes w (decode3A w) := by
  unfold decode3A
  iterate 4 refine .ite (fun ⟨h1, h2⟩ => .word rfl (word_6_6_5_5_10 hm h1 rfl rfl h2)) ?_
  refine .ite (fun ⟨h1, h2, h3⟩ => .word rfl (word_6_6_5_5_5_5 hm h1 rfl h2 rfl h3)) ?_
  iterate 2 refine .ite (fun ⟨h1, h2⟩ => .word rfl (word_6_6_20 hm h1 h2)) ?_
  exact .none

theorem decode3B_encodes (hm : fld w 26 6 = 0x3b#6) : Encodes w (decode3B w) := by
  unfold decode3B
  refine .ite (fun ⟨h1, h2⟩ => .word rfl (word_6_6_5_15 hm h1 rfl h2)) ?_
  refine .ite (fun ⟨h1, h2, h3⟩ => .word rfl (word_6_6_5_5_5_5 hm h1 h2 rfl rfl h3)) ?_
  iterate 2 refine .ite (fun ⟨h1, h2⟩ => .word rfl (word_6_6_5_5_5_5 hm h1 rfl rfl rfl h2)) ?_
  refine .ite (fun ⟨h1, h2⟩ => .word rfl (word_6_6_20 hm h1 h2)) ?_
  iterate 2 refine .ite (fun ⟨h1, h2⟩ => .word rfl (word_6_6_5_5_10 hm h1 rfl rfl h2)) ?_
  iterate 2 refine .ite (fun ⟨h1, h2, h3, h4⟩ => .word rfl (word_6_6_2_3_5_5_5 hm h1 h2 rfl h3 rfl h4)) ?_
  refine .ite (fun ⟨h1, h2, h3⟩ => .word rfl (word_6_6_2_3_15 hm h1 h2 rfl h3)) ?_
  refine .ite (fun ⟨h1, h2⟩ => .word rfl (word_6_6_5_5_5_5 hm h1 rfl rfl rfl h2)) ?_
  exact .none

theorem decode3C_encodes (hm : fld w 26 6 = 0x3c#6) : Encodes w (decode3C w) := by
  unfold decode3C
  refine .ite (fun ⟨h1, h2, h3⟩ => .word rfl (word_6_6_5_5_3_2_5 hm h1 rfl rfl h2 rfl h3)) ?_
  iterate 3 refine .ite (fun ⟨h1, h2, h3⟩ => .word rfl (word_6_6_13_2_5 hm h1 h2 rfl h3)) ?_
  refine .ite (fun ⟨h1, h2⟩ => .word rfl (word_6_6_5_5_10 hm h1 rfl rfl h2)) ?_
  refine .ite (fun ⟨h1, h2, h3⟩ => .word rfl (word_6_6_10_5_5 hm h1 h2 rfl h3)) ?_
  iterate 2 refine .ite (fun ⟨h1, h2, h3⟩ => .word rfl (word_6_6_5_5_5_5 hm h1 rfl h2 rfl h3)) ?_
  refine .ite (fun ⟨h1, h2⟩ => .word rfl (word_6_6_5_5_10 hm h1 rfl rfl h2)) ?_
  exact .none

theorem decode3D_encodes (hm : fld w 26 6 = 0x3d#6) : Encodes w (decode3D w) := by
  unfold decode3D
  iterate 5 refine .ite (fun ⟨h1, h2, h3⟩ => .word rfl (word_6_6_5_5_5_5 hm h1 rfl h2 rfl h3)) ?_
  refine .ite (fun ⟨h1, h2⟩ => .word rfl (word_6_6_5_15 hm h1 rfl h2)) ?_
  exact .none

theorem decode3E_encodes (hm : fld w 26 6 = 0x3e#6) : Encodes w (decode3E w) := by
  unfold decode3E
  refine .ite (fun ⟨h1, h2⟩ => .map fun r hr => .word rfl (word_6_6_10_5_5 hm h1 h2 rfl (SysReg.eq_code hr))) ?_
  refine .ite (fun ⟨h1, h2⟩ => .map fun r hr => .word rfl (word_6_6_5_10_5 hm h1 rfl h2 (SysReg.eq_code hr))) ?_
  refine .ite (fun ⟨h1, h2⟩ => .word rfl (word_6_6_5_15 hm h1 rfl h2)) ?_
  refine .ite (fun ⟨h1, h2⟩ => .word rfl (word_6_6_15_5 hm h1 h2 rfl)) ?_
  refine .ite (fun ⟨h1, h2, h3⟩ => .word rfl (word_6_6_5_5_10 hm h1 h2 rfl h3)) ?_
  iterate 2 refine .ite (fun ⟨h1, h2⟩ => .word rfl (word_6_6_5_5_10 hm h1 rfl rfl h2)) ?_
  refine .ite (fun ⟨h1, h2⟩ => .word rfl (word_6_6_5_5_5_5 hm h1 rfl rfl rfl h2)) ?_
  refine .ite (fun ⟨h1, h2, h3⟩ => .word rfl (word_6_6_5_5_5_5 hm h1 rfl h2 rfl h3)) ?_
  iterate 5 refine .ite (fun ⟨h1, h2⟩ => .word rfl (word_6_6_5_5_10 hm h1 rfl rfl h2)) ?_
  iterate 4 refine .ite (fun ⟨h1, h2⟩ => .word rfl (word_6_6_5_15 hm h1 rfl h2)) ?_
  exact .none
end

section
variable {w : Word32}

theorem decodeRaw_encodes : Encodes w (decodeRaw w) := by
  unfold decodeRaw
  refine .ite decode01_encodes ?_
  iterate 6 refine .ite (fun hm => .word rfl (word_6_5_5_16 hm rfl rfl rfl)) ?_
  refine .ite decode08_encodes ?_
  refine .ite (fun hm => .word rfl (word_6_5_5_16 hm rfl rfl rfl)) ?_
  refine .ite (fun ⟨hm, h⟩ => .word rfl (word_6_5_5_16 hm rfl h rfl)) ?_
  refine .ite decode0C_encodes ?_
  refine .ite decode0D_encodes ?_
  refine .ite decode0E_encodes ?_
  iterate 11 refine .ite (fun hm => .word rfl (word_6_5_5_16 hm rfl rfl rfl)) ?_
  refine .ite decode1C_encodes ?_
  refine .ite decode1D_encodes ?_
  refine .ite decode1E_encodes ?_
  refine .ite decode1F_encodes ?_
  iterate 6 refine .ite (fun hm => .word rfl (word_6_5_5_16 hm rfl rfl rfl)) ?_
  refine .ite (fun hm => .word rfl (word_6_5_21 hm rfl rfl)) ?_
  refine .ite (fun hm => .word rfl (word_6_5_5_16 hm rfl rfl rfl)) ?_
  refine .ite decode28_encodes ?_
  refine .ite decode30_encodes ?_
  refine .ite decode31_encodes ?_
  refine .ite decode32_encodes ?_
  refine .ite decode33_encodes ?_
  refine .ite decode34_encodes ?_
  refine .ite decode38_encodes ?_
  refine .ite decode39_encodes ?_
  refine .ite decode3A_encodes ?_
  refine .ite decode3B_encodes ?_
  refine .ite decode3C_encodes ?_
  refine .ite decode3D_encodes ?_
  refine .ite decode3E_encodes ?_
  exact .none

/-- The decoder answers what the raw decoder reads where that is well-formed (R77, R78). -/
theorem decode_eq_some {i : Instr} : decode w = some i ↔ decodeRaw w = some i ∧ i.wf = true := by
  unfold decode
  cases decodeRaw w with
  | none => exact ⟨fun h => (nomatch h), fun h => nomatch h.1⟩
  | some j =>
    by_cases hj : j.wf = true
    · show (if j.wf = true then some j else none) = some i ↔ _
      rw [if_pos hj, Option.some.injEq]
      exact ⟨fun h => ⟨h, h ▸ hj⟩, fun h => h.1⟩
    · simp only [hj, Option.some.injEq]
      exact ⟨fun h => (nomatch h), fun ⟨h, k⟩ => absurd (h ▸ k) hj⟩

theorem wf_and_encode_of_decode {i : Instr} (h : decode w = some i) : i.wf = true ∧ encode i = some w := by
  obtain ⟨hraw, hwf⟩ := decode_eq_some.1 h
  exact ⟨hwf, decodeRaw_encodes i hraw⟩

/-- The majors that R78 leaves without an instruction. -/
def reservedMajors : List Nat :=
  [0x00, 0x0b, 0x0f, 0x17, 0x29, 0x2a, 0x2b, 0x2c, 0x2d, 0x2e, 0x2f, 0x35, 0x36, 0x37, 0x3f]

theorem shift_eq_major (w : Word32) : (w >>> 26).toNat = (fld w 26 6).toNat := by
  have hw : w.toNat < 2 ^ 32 := w.isLt
  simp only [fld, BitVec.extractLsb'_toNat, BitVec.toNat_ushiftRight, Nat.shiftRight_eq_div_pow]
  omega

theorem decodeRaw_of_reserved (h : (fld w 26 6).toNat ∈ reservedMajors) : decodeRaw w = none := by
  have hm : fld w 26 6 ∈ reservedMajors.map (BitVec.ofNat 6) :=
    List.mem_map.2 ⟨_, h, (BitVec.ofNat_toNat _ _).trans (BitVec.setWidth_eq _)⟩
  simp only [reservedMajors, List.map_cons, List.map_nil, List.mem_cons, List.not_mem_nil, or_false] at hm
  obtain h | h | h | h | h | h | h | h | h | h | h | h | h | h | h := hm <;>
    simp only [decodeRaw, h, BitVec.reduceEq, false_and, reduceIte]

theorem decode_of_reserved (h : (w >>> 26).toNat ∈ reservedMajors) : decode w = none := by
  rw [shift_eq_major] at h
  rw [decode, decodeRaw_of_reserved h]

/-! ### Every instruction's word read back -/

theorem roundTrip (i : Instr) : Laws.RoundTrip.Statement i := by
  cases i with
  | add d a b => exact Laws.RoundTrip.add d a b
  | sub d a b => exact Laws.RoundTrip.sub d a b
  | and d a b => exact Laws.RoundTrip.and d a b
  | or d a b => exact Laws.RoundTrip.or d a b
  | xor d a b => exact Laws.RoundTrip.xor d a b
  | slt d a b => exact Laws.RoundTrip.slt d a b
  | sltz d a b => exact Laws.RoundTrip.sltz d a b
  | sll d a b => exact Laws.RoundTrip.sll d a b
  | srl d a b => exact Laws.RoundTrip.srl d a b
  | sra d a b => exact Laws.RoundTrip.sra d a b
  | rol d a b => exact Laws.RoundTrip.rol d a b
  | ror d a b => exact Laws.RoundTrip.ror d a b
  | addS32 d a b => exact Laws.RoundTrip.addS32 d a b
  | addZ32 d a b => exact Laws.RoundTrip.addZ32 d a b
  | subS32 d a b => exact Laws.RoundTrip.subS32 d a b
  | subZ32 d a b => exact Laws.RoundTrip.subZ32 d a b
  | sllS32 d a b => exact Laws.RoundTrip.sllS32 d a b
  | sllZ32 d a b => exact Laws.RoundTrip.sllZ32 d a b
  | srlS32 d a b => exact Laws.RoundTrip.srlS32 d a b
  | srlZ32 d a b => exact Laws.RoundTrip.srlZ32 d a b
  | sraS32 d a b => exact Laws.RoundTrip.sraS32 d a b
  | sraZ32 d a b => exact Laws.RoundTrip.sraZ32 d a b
  | rolS32 d a b => exact Laws.RoundTrip.rolS32 d a b
  | rolZ32 d a b => exact Laws.RoundTrip.rolZ32 d a b
  | rorS32 d a b => exact Laws.RoundTrip.rorS32 d a b
  | rorZ32 d a b => exact Laws.RoundTrip.rorZ32 d a b
  | addi d a i => exact Laws.RoundTrip.addi d a i
  | andi d a i => exact Laws.RoundTrip.andi d a i
  | ori d a i => exact Laws.RoundTrip.ori d a i
  | xori d a i => exact Laws.RoundTrip.xori d a i
  | slti d a i => exact Laws.RoundTrip.slti d a i
  | sltiz d a i => exact Laws.RoundTrip.sltiz d a i
  | slli d a s => exact Laws.RoundTrip.slli d a s
  | srli d a s => exact Laws.RoundTrip.srli d a s
  | srai d a s => exact Laws.RoundTrip.srai d a s
  | rori d a s => exact Laws.RoundTrip.rori d a s
  | slliS32 d a s => exact Laws.RoundTrip.slliS32 d a s
  | slliZ32 d a s => exact Laws.RoundTrip.slliZ32 d a s
  | srliS32 d a s => exact Laws.RoundTrip.srliS32 d a s
  | srliZ32 d a s => exact Laws.RoundTrip.srliZ32 d a s
  | sraiS32 d a s => exact Laws.RoundTrip.sraiS32 d a s
  | sraiZ32 d a s => exact Laws.RoundTrip.sraiZ32 d a s
  | roriS32 d a s => exact Laws.RoundTrip.roriS32 d a s
  | roriZ32 d a s => exact Laws.RoundTrip.roriZ32 d a s
  | lih d a i => exact Laws.RoundTrip.lih d a i
  | pcrel d i => exact Laws.RoundTrip.pcrel d i
  | mul d a b => exact Laws.RoundTrip.mul d a b
  | mulhiS64 d a b => exact Laws.RoundTrip.mulhiS64 d a b
  | mulhiZ64 d a b => exact Laws.RoundTrip.mulhiZ64 d a b
  | mulhm d a b => exact Laws.RoundTrip.mulhm d a b
  | quoS64 d a b => exact Laws.RoundTrip.quoS64 d a b
  | quoZ64 d a b => exact Laws.RoundTrip.quoZ64 d a b
  | rmdS64 d a b => exact Laws.RoundTrip.rmdS64 d a b
  | rmdZ64 d a b => exact Laws.RoundTrip.rmdZ64 d a b
  | mulS32 d a b => exact Laws.RoundTrip.mulS32 d a b
  | mulZ32 d a b => exact Laws.RoundTrip.mulZ32 d a b
  | quoS32 d a b => exact Laws.RoundTrip.quoS32 d a b
  | quoZ32 d a b => exact Laws.RoundTrip.quoZ32 d a b
  | rmdS32 d a b => exact Laws.RoundTrip.rmdS32 d a b
  | rmdZ32 d a b => exact Laws.RoundTrip.rmdZ32 d a b
  | mad d a b => exact Laws.RoundTrip.mad d a b
  | msb d a b => exact Laws.RoundTrip.msb d a b
  | lzc d a => exact Laws.RoundTrip.lzc d a
  | tzc d a => exact Laws.RoundTrip.tzc d a
  | ones d a => exact Laws.RoundTrip.ones d a
  | bswap d a => exact Laws.RoundTrip.bswap d a
  | bitrev d a => exact Laws.RoundTrip.bitrev d a
  | minS64 d a b => exact Laws.RoundTrip.minS64 d a b
  | maxS64 d a b => exact Laws.RoundTrip.maxS64 d a b
  | minZ64 d a b => exact Laws.RoundTrip.minZ64 d a b
  | maxZ64 d a b => exact Laws.RoundTrip.maxZ64 d a b
  | andnot d a b => exact Laws.RoundTrip.andnot d a b
  | ornot d a b => exact Laws.RoundTrip.ornot d a b
  | sel d a b c => exact Laws.RoundTrip.sel d a b c
  | extS8 d a => exact Laws.RoundTrip.extS8 d a
  | extS16 d a => exact Laws.RoundTrip.extS16 d a
  | extS32 d a => exact Laws.RoundTrip.extS32 d a
  | extZ32 d a => exact Laws.RoundTrip.extZ32 d a
  | extZ8 d a => exact Laws.RoundTrip.extZ8 d a
  | extZ16 d a => exact Laws.RoundTrip.extZ16 d a
  | xnor d a b => exact Laws.RoundTrip.xnor d a b
  | ptrunc d a b => exact Laws.RoundTrip.ptrunc d a b
  | pparent d a => exact Laws.RoundTrip.pparent d a
  | pchild d a b => exact Laws.RoundTrip.pchild d a b
  | psib d a b => exact Laws.RoundTrip.psib d a b
  | pnext d a => exact Laws.RoundTrip.pnext d a
  | pdig d a b => exact Laws.RoundTrip.pdig d a b
  | psdig d a b => exact Laws.RoundTrip.psdig d a b
  | pin d a b => exact Laws.RoundTrip.pin d a b
  | plevel d a => exact Laws.RoundTrip.plevel d a
  | pesz d a => exact Laws.RoundTrip.pesz d a
  | pbase d a => exact Laws.RoundTrip.pbase d a
  | pmake d a b => exact Laws.RoundTrip.pmake d a b
  | ppack d a b => exact Laws.RoundTrip.ppack d a b
  | prow d a => exact Laws.RoundTrip.prow d a
  | pcol d a => exact Laws.RoundTrip.pcol d a
  | ldB d a i => exact Laws.RoundTrip.ldB d a i
  | ldH d a i => exact Laws.RoundTrip.ldH d a i
  | ldW d a i => exact Laws.RoundTrip.ldW d a i
  | ldD d a i => exact Laws.RoundTrip.ldD d a i
  | ldBz d a i => exact Laws.RoundTrip.ldBz d a i
  | ldHz d a i => exact Laws.RoundTrip.ldHz d a i
  | ldWz d a i => exact Laws.RoundTrip.ldWz d a i
  | stB b a i => exact Laws.RoundTrip.stB b a i
  | stH b a i => exact Laws.RoundTrip.stH b a i
  | stW b a i => exact Laws.RoundTrip.stW b a i
  | stD b a i => exact Laws.RoundTrip.stD b a i
  | bld d a => exact Laws.RoundTrip.bld d a
  | bst d a => exact Laws.RoundTrip.bst d a
  | bcopy d a => exact Laws.RoundTrip.bcopy d a
  | bfill d a => exact Laws.RoundTrip.bfill d a
  | bzero d => exact Laws.RoundTrip.bzero d
  | bpref d => exact Laws.RoundTrip.bpref d
  | bclean d => exact Laws.RoundTrip.bclean d
  | bflush d => exact Laws.RoundTrip.bflush d
  | amoAddW d a b ord sc => exact Laws.RoundTrip.amoAddW d a b ord sc
  | amoAddD d a b ord sc => exact Laws.RoundTrip.amoAddD d a b ord sc
  | amoMinW d a b ord sc => exact Laws.RoundTrip.amoMinW d a b ord sc
  | amoMinD d a b ord sc => exact Laws.RoundTrip.amoMinD d a b ord sc
  | amoMaxW d a b ord sc => exact Laws.RoundTrip.amoMaxW d a b ord sc
  | amoMaxD d a b ord sc => exact Laws.RoundTrip.amoMaxD d a b ord sc
  | amoMinuW d a b ord sc => exact Laws.RoundTrip.amoMinuW d a b ord sc
  | amoMinuD d a b ord sc => exact Laws.RoundTrip.amoMinuD d a b ord sc
  | amoMaxuW d a b ord sc => exact Laws.RoundTrip.amoMaxuW d a b ord sc
  | amoMaxuD d a b ord sc => exact Laws.RoundTrip.amoMaxuD d a b ord sc
  | amoAndW d a b ord sc => exact Laws.RoundTrip.amoAndW d a b ord sc
  | amoAndD d a b ord sc => exact Laws.RoundTrip.amoAndD d a b ord sc
  | amoOrW d a b ord sc => exact Laws.RoundTrip.amoOrW d a b ord sc
  | amoOrD d a b ord sc => exact Laws.RoundTrip.amoOrD d a b ord sc
  | amoXorW d a b ord sc => exact Laws.RoundTrip.amoXorW d a b ord sc
  | amoXorD d a b ord sc => exact Laws.RoundTrip.amoXorD d a b ord sc
  | amoSwapW d a b ord sc => exact Laws.RoundTrip.amoSwapW d a b ord sc
  | amoSwapD d a b ord sc => exact Laws.RoundTrip.amoSwapD d a b ord sc
  | amoCasW d a b ord sc => exact Laws.RoundTrip.amoCasW d a b ord sc
  | amoCasD d a b ord sc => exact Laws.RoundTrip.amoCasD d a b ord sc
  | amoFaddW d a b ord sc => exact Laws.RoundTrip.amoFaddW d a b ord sc
  | amoLdW d a b ord sc => exact Laws.RoundTrip.amoLdW d a b ord sc
  | amoLdD d a b ord sc => exact Laws.RoundTrip.amoLdD d a b ord sc
  | amoStW a b ord sc => exact Laws.RoundTrip.amoStW a b ord sc
  | amoStD a b ord sc => exact Laws.RoundTrip.amoStD a b ord sc
  | fence ord sc => exact Laws.RoundTrip.fence ord sc
  | promote d a ord sc => exact Laws.RoundTrip.promote d a ord sc
  | wset d a b => exact Laws.RoundTrip.wset d a b
  | wclr d => exact Laws.RoundTrip.wclr d
  | wref d a => exact Laws.RoundTrip.wref d a
  | wrt d a => exact Laws.RoundTrip.wrt d a
  | wqry d a => exact Laws.RoundTrip.wqry d a
  | beq a b i => exact Laws.RoundTrip.beq a b i
  | bne a b i => exact Laws.RoundTrip.bne a b i
  | blt a b i => exact Laws.RoundTrip.blt a b i
  | bge a b i => exact Laws.RoundTrip.bge a b i
  | bltu a b i => exact Laws.RoundTrip.bltu a b i
  | bgeu a b i => exact Laws.RoundTrip.bgeu a b i
  | jal d i => exact Laws.RoundTrip.jal d i
  | jalr d a i => exact Laws.RoundTrip.jalr d a i
  | sleepuntil a => exact Laws.RoundTrip.sleepuntil a
  | yield => exact Laws.RoundTrip.yield
  | exit => exact Laws.RoundTrip.exit
  | vadd d a b k t => exact Laws.RoundTrip.vadd d a b k t
  | vsub d a b k t => exact Laws.RoundTrip.vsub d a b k t
  | vmul d a b k t => exact Laws.RoundTrip.vmul d a b k t
  | vfma d a b k t => exact Laws.RoundTrip.vfma d a b k t
  | vfnma d a b k t => exact Laws.RoundTrip.vfnma d a b k t
  | vmin d a b k t => exact Laws.RoundTrip.vmin d a b k t
  | vmax d a b k t => exact Laws.RoundTrip.vmax d a b k t
  | vrcpe d a k t => exact Laws.RoundTrip.vrcpe d a k t
  | vrsqe d a k t => exact Laws.RoundTrip.vrsqe d a k t
  | vadds d a b k t => exact Laws.RoundTrip.vadds d a b k t
  | vsubs d a b k t => exact Laws.RoundTrip.vsubs d a b k t
  | vand d a b k t => exact Laws.RoundTrip.vand d a b k t
  | vor d a b k t => exact Laws.RoundTrip.vor d a b k t
  | vxor d a b k t => exact Laws.RoundTrip.vxor d a b k t
  | vsl d a b k t => exact Laws.RoundTrip.vsl d a b k t
  | vsr d a b k t => exact Laws.RoundTrip.vsr d a b k t
  | vceq d a b k t => exact Laws.RoundTrip.vceq d a b k t
  | vcne d a b k t => exact Laws.RoundTrip.vcne d a b k t
  | vclt d a b k t => exact Laws.RoundTrip.vclt d a b k t
  | vcle d a b k t => exact Laws.RoundTrip.vcle d a b k t
  | kand d a b => exact Laws.RoundTrip.kand d a b
  | kor d a b => exact Laws.RoundTrip.kor d a b
  | kxor d a b => exact Laws.RoundTrip.kxor d a b
  | kandn d a b => exact Laws.RoundTrip.kandn d a b
  | knot d a => exact Laws.RoundTrip.knot d a
  | kset d a => exact Laws.RoundTrip.kset d a
  | kget d a => exact Laws.RoundTrip.kget d a
  | kpop d a => exact Laws.RoundTrip.kpop d a
  | vld d a k t => exact Laws.RoundTrip.vld d a k t
  | vst d a k t => exact Laws.RoundTrip.vst d a k t
  | vlds d a b k t => exact Laws.RoundTrip.vlds d a b k t
  | vsts d a b k t => exact Laws.RoundTrip.vsts d a b k t
  | vgather d a b k t => exact Laws.RoundTrip.vgather d a b k t
  | vscatter d a b k t => exact Laws.RoundTrip.vscatter d a b k t
  | vldr d a k t => exact Laws.RoundTrip.vldr d a k t
  | vstr d a k t => exact Laws.RoundTrip.vstr d a k t
  | vsel d a b k t => exact Laws.RoundTrip.vsel d a b k t
  | vbcast d a k t => exact Laws.RoundTrip.vbcast d a k t
  | vperm d a b k t => exact Laws.RoundTrip.vperm d a b k t
  | vshuf d a b k t => exact Laws.RoundTrip.vshuf d a b k t
  | viota d k t => exact Laws.RoundTrip.viota d k t
  | vext d a b t => exact Laws.RoundTrip.vext d a b t
  | vins d a b t => exact Laws.RoundTrip.vins d a b t
  | vcvt d a u r t => exact Laws.RoundTrip.vcvt d a u r t
  | vsld d a b k t => exact Laws.RoundTrip.vsld d a b k t
  | vredsum d a k t => exact Laws.RoundTrip.vredsum d a k t
  | vredmin d a k t => exact Laws.RoundTrip.vredmin d a k t
  | vredmax d a k t => exact Laws.RoundTrip.vredmax d a k t
  | vrand d a b k t => exact Laws.RoundTrip.vrand d a b k t
  | vimm d t i => exact Laws.RoundTrip.vimm d t i
  | vaddi d t i => exact Laws.RoundTrip.vaddi d t i
  | tdecl a b d => exact Laws.RoundTrip.tdecl a b d
  | tld a b => exact Laws.RoundTrip.tld a b
  | tldS a b => exact Laws.RoundTrip.tldS a b
  | tfill a b v => exact Laws.RoundTrip.tfill a b v
  | tseal a => exact Laws.RoundTrip.tseal a
  | tget a b v => exact Laws.RoundTrip.tget a b v
  | tst a b => exact Laws.RoundTrip.tst a b
  | tstS a b => exact Laws.RoundTrip.tstS a b
  | tkill a => exact Laws.RoundTrip.tkill a
  | ttag a d => exact Laws.RoundTrip.ttag a d
  | mfmt a => exact Laws.RoundTrip.mfmt a
  | mlutA a => exact Laws.RoundTrip.mlutA a
  | mlutB a => exact Laws.RoundTrip.mlutB a
  | mlutA4 a => exact Laws.RoundTrip.mlutA4 a
  | mlutB4 a => exact Laws.RoundTrip.mlutB4 a
  | mzero a => exact Laws.RoundTrip.mzero a
  | mma a => exact Laws.RoundTrip.mma a
  | mmaNc a => exact Laws.RoundTrip.mmaNc a
  | mmax a b => exact Laws.RoundTrip.mmax a b
  | mmaxNc a b => exact Laws.RoundTrip.mmaxNc a b
  | mtrn a => exact Laws.RoundTrip.mtrn a
  | mcvt a => exact Laws.RoundTrip.mcvt a
  | sendEnt a b => exact Laws.RoundTrip.sendEnt a b
  | sendCode a b => exact Laws.RoundTrip.sendCode a b
  | sendData a b => exact Laws.RoundTrip.sendData a b
  | sendCnt a b => exact Laws.RoundTrip.sendCnt a b
  | mw a d => exact Laws.RoundTrip.mw a d
  | mrel => exact Laws.RoundTrip.mrel
  | hret => exact Laws.RoundTrip.hret
  | dqput a => exact Laws.RoundTrip.dqput a
  | dqtake b d => exact Laws.RoundTrip.dqtake b d
  | launch a b d => exact Laws.RoundTrip.launch a b d
  | launchGang a b d => exact Laws.RoundTrip.launchGang a b d
  | trigger => exact Laws.RoundTrip.trigger
  | spawn a b => exact Laws.RoundTrip.spawn a b
  | spawnH a b => exact Laws.RoundTrip.spawnH a b
  | pres h d => exact Laws.RoundTrip.pres h d
  | pwait h d => exact Laws.RoundTrip.pwait h d
  | padv h => exact Laws.RoundTrip.padv h
  | resample a b d => exact Laws.RoundTrip.resample a b d
  | barset a b d => exact Laws.RoundTrip.barset a b d
  | bararr d => exact Laws.RoundTrip.bararr d
  | barwait d => exact Laws.RoundTrip.barwait d
  | barleave d => exact Laws.RoundTrip.barleave d
  | barleaveO a b => exact Laws.RoundTrip.barleaveO a b
  | still d => exact Laws.RoundTrip.still d
  | stillTo a d => exact Laws.RoundTrip.stillTo a d
  | qcount a d => exact Laws.RoundTrip.qcount a d
  | qfix a b => exact Laws.RoundTrip.qfix a b
  | cpystart a d => exact Laws.RoundTrip.cpystart a d
  | cpywait a d => exact Laws.RoundTrip.cpywait a d
  | cpywaitNl a d => exact Laws.RoundTrip.cpywaitNl a d
  | cpypoll a d => exact Laws.RoundTrip.cpypoll a d
  | cpygwait a d => exact Laws.RoundTrip.cpygwait a d
  | cpycancel a => exact Laws.RoundTrip.cpycancel a
  | sysr d r => exact Laws.RoundTrip.sysr d r
  | sysw a r => exact Laws.RoundTrip.sysw a r
  | svc a => exact Laws.RoundTrip.svc a
  | brk n => exact Laws.RoundTrip.brk n
  | eret b => exact Laws.RoundTrip.eret b
  | xroot a b => exact Laws.RoundTrip.xroot a b
  | xinv a b => exact Laws.RoundTrip.xinv a b
  | xprobe a b d => exact Laws.RoundTrip.xprobe a b d
  | xback a d => exact Laws.RoundTrip.xback a d
  | partset a b => exact Laws.RoundTrip.partset a b
  | skipset a b => exact Laws.RoundTrip.skipset a b
  | wayset a b => exact Laws.RoundTrip.wayset a b
  | bregion a b => exact Laws.RoundTrip.bregion a b
  | eset a b => exact Laws.RoundTrip.eset a b
  | mdrain a => exact Laws.RoundTrip.mdrain a
  | mrest a => exact Laws.RoundTrip.mrest a
  | vsave a => exact Laws.RoundTrip.vsave a
  | vrest a => exact Laws.RoundTrip.vrest a
  | _ => exact fun _ _ h => nomatch (show (none : Option Word32) = some _ from h)

theorem word_8_8_8_8 {x0 x1 x2 x3 : BitVec 8}
    (h0 : fld w 24 8 = x0) (h1 : fld w 16 8 = x1) (h2 : fld w 8 8 = x2) (h3 : fld w 0 8 = x3) :
    (x0 ++ x1 ++ x2 ++ x3 : Word32) = w :=
  .symm <| (fld_word w).symm.trans <| fld_join (lo := 0) (fld_join (lo := 8) (fld_join (lo := 16) h0 h1) h2) h3

theorem bytesWord_wordBytes (w : Word32) :
    bytesWord (w.extractLsb' 0 8) (w.extractLsb' 8 8) (w.extractLsb' 16 8) (w.extractLsb' 24 8) = w :=
  word_8_8_8_8 rfl rfl rfl rfl

theorem decodeBytes_wordBytes (w : Word32) (r : List Byte) :
    decodeBytes (wordBytes w ++ r) = (decode w).map fun i => (i, r) :=
  congrArg (fun v => (decode v).map fun i => (i, r)) (bytesWord_wordBytes w)

end

/-- Settles O54: the round trip of each constructor, and the four bytes of a word joined again. -/
theorem decodeReadsWhatEncodeWrites : Obligations.DecodeReadsWhatEncodeWrites := by
  unfold Obligations.DecodeReadsWhatEncodeWrites
  intro i w hwf hw
  have hd : decode w = some i := roundTrip i w hwf hw
  exact ⟨hd, fun r => by rw [decodeBytes_wordBytes, hd]; rfl⟩

end Sys2Proof

namespace Sys2Proof.Machine

/-- An illegal word traps 0x01 with the word as TVAL, in the image of a code message too (R78, R79). -/
theorem illegalInstruction_traps (w : Word32) {s : State} {t : Strand} (h : Ready s t) :
    Traps (.illegalInstruction w) s t 0x01 (w.setWidth 64) :=
  runWord_trap h (.inl rfl) (Nat.zero_le _) rfl

end Sys2Proof.Machine

namespace Sys2Proof
open Machine

/-- Settles O55: each clause of the decoder reads what the encoder writes, no clause has a reserved major, and the issue of a
word that decodes to nothing runs ILLEGAL_INSTRUCTION, whose body is the trap. -/
theorem everyWordIsOneInstructionOrNone : Obligations.EveryWordIsOneInstructionOrNone := by
  unfold Obligations.EveryWordIsOneInstructionOrNone
  refine ⟨fun w i h => wf_and_encode_of_decode h, fun w h => decode_of_reserved h,
    fun w s t h => illegalInstruction_traps w h, fun s s3 u t w hc ht hd hf hi => ?_⟩
  exact step_issue hc ht ((stays_of_word hd hf).trans (by rw [hi]; rfl)) (issueWord_of_illegal hd hf hi)

end Sys2Proof

namespace Sys2Proof

/-- The word that the encoder writes of a well-formed instruction is read as that instruction. -/
theorem decode_encode {i : Instr} {w : Word32} (hwf : i.wf = true) (hw : encode i = some w) : decode w = some i :=
  roundTrip i w hwf hw

theorem decode_a0000003 : decode 0xa0000003#32 = none := by
  have hraw : decodeRaw 0xa0000003#32 = none := by
    rw [raw_28 _ (by decide)]
    simp [decode28, fld]
  rw [decode, hraw]

/-- Settles O53: each listed word is the word that the encoder writes of its instruction. -/
theorem decodeWords : Obligations.DecodeWords := by
  unfold Obligations.DecodeWords
  iterate 41 refine ⟨decode_encode (by decide) (by decide), ?_⟩
  exact ⟨decode_of_reserved (by decide), decode_of_reserved (by decide), decode_a0000003, by decide, by decide⟩

end Sys2Proof
end

section
/-!
SUPPORT. The restricted set of code messages as the gates of the words give it, and a word that stands in the last place of the
address space (R79, R103, R181, O60).
-/
namespace Sys2Proof.Machine

/-- The majors of which R181 takes every instruction. -/
def restrictedMajors : List Nat :=
  [0x01, 0x02, 0x03, 0x04, 0x05, 0x06, 0x07, 0x08, 0x09, 0x0c, 0x0d, 0x0e, 0x10, 0x11, 0x12, 0x13, 0x14, 0x15, 0x16,
    0x18, 0x19, 0x1a, 0x1b, 0x1d, 0x3a]

/-- What R181 lets the image of a code message run: whole majors, and single instructions of others. -/
def Restricted (i : Instr) (w : Word32) : Prop :=
  let major := (fld w 26 6).toNat
  (1 ≤ major ∧ major ≤ 9) ∨ (0x0c ≤ major ∧ major ≤ 0x0e) ∨ (0x10 ≤ major ∧ major ≤ 0x16) ∨
    (0x18 ≤ major ∧ major ≤ 0x1b) ∨ major = 0x1d ∨ (∃ o sc, i = .fence o sc) ∨ i = .exit ∨
    (∃ a d, i = .ttag a d) ∨ major = 0x3a ∨ (∃ a, i = .dqput a) ∨ (∃ a d, i = .qcount a d)

section
variable {i : Instr} {w : Word32} {g : Gate} {f : Strand → State → Res} {s s' : State} {t : Strand}

theorem Restricted.of_major {m : BitVec 6} (hm : fld w 26 6 = m) (h : m.toNat ∈ restrictedMajors) : Restricted i w := by
  simp only [restrictedMajors, List.mem_cons, List.not_mem_nil, or_false] at h
  unfold Restricted
  rw [hm]
  omega

theorem restricted_of_inCode (hb : wordBody i = some (g, f)) (hw : encode i = some w) (hg : g.inCode = true) :
    Restricted i w := by
  cases i <;> cases hb
  case add | sub | and | or | xor | slt | sltz | sll | srl | sra | rol | ror | addS32 | addZ32 | subS32 | subZ32 |
      sllS32 | sllZ32 | srlS32 | srlZ32 | sraS32 | sraZ32 | rolS32 | rolZ32 | rorS32 | rorZ32 | mul | mulhiS64 | mulhiZ64 |
      mulhm | quoS64 | quoZ64 | rmdS64 | rmdZ64 | mulS32 | mulZ32 | quoS32 | quoZ32 | rmdS32 | rmdZ32 | mad | msb | ptrunc |
      pparent | pchild | psib | pnext | pdig | psdig | pin | plevel | pesz | pbase | pmake | ppack | prow | pcol =>
    cases hw
    exact .of_major (fld_6_5_5_5_11_26 ..) (by decide)
  case addi | andi | ori | xori | slti | sltiz | lih | ldB | ldH | ldW | ldD | ldBz | ldHz | ldWz | stB | stH | stW |
      stD =>
    cases hw
    exact .of_major (fld_6_5_5_16_26 ..) (by decide)
  case slli | srli | srai | rori =>
    cases hw
    exact .of_major (fld_6_5_5_6_10_26 ..) (by decide)
  case slliS32 | slliZ32 | srliS32 | srliZ32 | sraiS32 | sraiZ32 | roriS32 | roriZ32 =>
    cases hw
    exact .of_major (fld_6_5_5_1_5_10_26 ..) (by decide)
  case lzc | tzc | ones | bswap | bitrev | extS8 | extS16 | extS32 | extZ32 | extZ8 | extZ16 =>
    cases hw
    exact .of_major (fld_6_5_5_10_6_26 ..) (by decide)
  case minS64 | maxS64 | minZ64 | maxZ64 | andnot | ornot | sel | xnor =>
    cases hw
    exact .of_major (fld_6_5_5_5_5_6_26 ..) (by decide)
  case amoAddW | amoAddD | amoMinW | amoMinD | amoMaxW | amoMaxD | amoMinuW | amoMinuD | amoMaxuW | amoMaxuD | amoAndW |
      amoAndD | amoOrW | amoOrD | amoXorW | amoXorD | amoSwapW | amoSwapD | amoCasW | amoCasD | amoFaddW | amoLdW | amoLdD |
      amoStW | amoStD =>
    cases hw
    exact .of_major (fld_6_5_5_5_6_2_3_26 ..) (by decide)
  case sendEnt | sendCode | sendData | sendCnt =>
    cases hw
    exact .of_major (fld_6_6_5_5_10_26 ..) (by decide)
  case mw =>
    cases hw
    exact .of_major (fld_6_6_5_5_5_5_26 ..) (by decide)
  case mrel | hret =>
    cases hw
    exact .of_major (fld_6_6_20_26 ..) (by decide)
  case fence | exit | ttag | dqput | qcount => simp [Restricted]
  all_goals cases hg

theorem encode_eq_none_of_wordBody (h : wordBody i = none) : encode i = none := by
  cases i <;> cases h <;> rfl

theorem wordBody_of_encode (hw : encode i = some w) : ∃ g f, wordBody i = some (g, f) := by
  cases hb : wordBody i with
  | none => exact nomatch (encode_eq_none_of_wordBody hb).symm.trans hw
  | some p => exact ⟨p.1, p.2, rfl⟩

/-- Outside R181's set the trap comes before the check of the mode. -/
theorem traps_of_not_restricted (h : Ready s t) (hc : t.code = true) (hp : t.pc < 16) (hw : encode i = some w)
    (hr : ¬Restricted i w) : Traps i s t 0x50 s.wordTval := by
  obtain ⟨g, f, hb⟩ := wordBody_of_encode hw
  have hg : g.inCode = false := Bool.eq_false_iff.2 fun hg => hr (restricted_of_inCode hb hw hg)
  exact (exec_of_wordBody hb s).trans (runWord_restricted h hc hp hg)

theorem traps_of_mode (hb : wordBody i = some (g, f)) (h : Ready s t) (hp : Plain t) (hm : t.mode < g.mode) :
    Traps i s t 0x02 s.wordTval :=
  (exec_of_wordBody hb s).trans (runWord_mode h (.inr hp) hm)

/-- In the last place of the address space the check of the next PC undoes a body that is done, or that goes on at the next word
(R79, R103). -/
theorem runWord_past_top (hme : s.me = some t) (hd : t.doom = none) (hpc : t.pc = 2 ^ 56 - 4) (hm : g.mode ≤ t.mode)
    (hb : f t s = .done s' ∨ f t s = .jump s' ((t.pc : Int) + 4)) :
    runWord g f s = .next (s.trapMe (t.countWatch (s.watchStep t)) 0x05 (BitVec.ofNat 64 t.pc)) := by
  have hcode : (t.code && decide (t.pc < 16) && !g.inCode) = false := by simp [hpc]
  have htop : (t.pc : Int) + 4 > pcTop := by rw [hpc]; decide
  obtain hb | hb := hb <;>
    simp only [runWord, hme, State.issue, hd, hcode, Bool.false_eq_true, if_false, Nat.not_lt.2 hm, hb, htop, decide_true,
      Bool.or_true, if_true]

theorem branchBody_not_taken (x : BitVec 16) {c : Strand → Bool} (hc : c t = false) (s : State) :
    branchBody x c t s = .jump s ((t.pc : Int) + 4) := by
  simp [branchBody, hc]

theorem traps_past_top (hb : wordBody i = some (g, f)) (hme : s.me = some t) (hd : t.doom = none)
    (hpc : t.pc = 2 ^ 56 - 4) (hm : g.mode ≤ t.mode)
    (hf : f t s = .done s' ∨ f t s = .jump s' ((t.pc : Int) + 4)) :
    Traps i s t 0x05 (BitVec.ofNat 64 t.pc) :=
  (exec_of_wordBody hb s).trans (runWord_past_top hme hd hpc hm hf)

end

/-- Settles O60: the gate of a word is checked first, in the order of R79, and the next PC last. -/
theorem checksBeforeTheInstructionsOwn : Obligations.ChecksBeforeTheInstructionsOwn := by
  unfold Obligations.ChecksBeforeTheInstructionsOwn
  intro s t
  refine ⟨fun h hc hp i w hw => traps_of_not_restricted h hc hp hw,
    fun h hp a b d => ⟨fun hm i hi => ?user, fun hm i hi => ?hyper⟩,
    fun i w hw hn => (nomatch hw.symm.trans (encode_eq_none_of_wordBody hn)),
    fun i g f hb => ⟨exec_of_wordBody hb s, fun hme hd hpc hm s' hf => traps_past_top hb hme hd hpc hm (.inl hf)⟩,
    fun hme hd hpc a b d x => ⟨fun i hi => ?last, fun hne => ?branch⟩⟩
  case user =>
    simp only [List.mem_cons, List.not_mem_nil, or_false] at hi
    obtain rfl | rfl | rfl | rfl | rfl | rfl | rfl | rfl := hi <;> exact traps_of_mode rfl h hp hm
  case hyper =>
    simp only [List.mem_cons, List.not_mem_nil, or_false] at hi
    obtain rfl | rfl | rfl | rfl | rfl := hi <;> exact traps_of_mode rfl h hp hm
  case last =>
    simp only [List.mem_cons, List.not_mem_nil, or_false] at hi
    obtain rfl | rfl | rfl | rfl | rfl | rfl | rfl := hi <;> exact traps_past_top rfl hme hd hpc (Nat.zero_le _) (.inl rfl)
  case branch => exact traps_past_top rfl hme hd hpc (Nat.zero_le _) (.inr (branchBody_not_taken x (by simpa using hne) s))

end Sys2Proof.Machine
end

section
/-!
SUPPORT. What the memory system's own operations leave of the strands: translation, page requests, evictions, refreshes and the
answers to page waits keep every strand but those that they tell (R111, R331, O46).
-/
namespace Sys2Proof.Machine

/-- s has the strands, the cores and the tick of b. -/
def State.Like (b s : State) : Prop := s.strands = b.strands ∧ s.cores = b.cores ∧ s.tick = b.tick
/-- The same for a translation's answer. -/
def XRes.Like (b : State) : XRes → Prop
  | .ok s _ | .wait s _ | .host s _ | .refused s => b.Like s

theorem State.Like.refl (s : State) : s.Like s := ⟨rfl, rfl, rfl⟩

theorem State.Like.trans {a b c : State} (h : a.Like b) (k : b.Like c) : a.Like c :=
  ⟨k.1.trans h.1, k.2.1.trans h.2.1, k.2.2.trans h.2.2⟩

theorem State.Like.strand? {b s : State} (h : b.Like s) (u : Nat) : s.strand? u = b.strand? u := congrArg (FMap.get? · u) h.1

section
variable {α : Type} {b s : State}

theorem foldl_like {f : State → α → State} (hf : ∀ s a, b.Like s → b.Like (f s a)) (l : List α) {s : State} (h : b.Like s) :
    b.Like (l.foldl f s) := by
  induction l generalizing s with
  | nil => exact h
  | cons a r ih => exact ih (hf s a h)

/-! ### Events, poison and bytes -/

theorem State.event_like (h : b.Like s) (die cls sub job vf unit_ : Nat) (args : List Word64) :
    b.Like (s.event die cls sub job vf unit_ args) := by
  rw [State.event_eq]
  exact h

theorem State.emit_like (h : b.Like s) (o : Out) : b.Like (s.emit o) := h

theorem State.putPart_like (h : b.Like s) (v : Nat) (x : Part) : b.Like (s.putPart v x) := h

theorem State.putQuad_like (h : b.Like s) (q : Nat) (x : Quad) : b.Like (s.putQuad q x) := h

theorem State.askHost_like (h : b.Like s) (w : Wait) (inv : Bool) : b.Like (s.askHost w inv) := by
  unfold State.askHost
  grind [State.emit_like]

theorem State.putHome_like (h : b.Like s) (k : Nat) (bs : List Byte) : b.Like (s.putHome k bs) := h

theorem State.setPoison_like (h : b.Like s) (k n : Nat) : b.Like (s.setPoison k n) := h

theorem State.Like.with_lines (h : b.Like s) (l1 : List L1Line) (dir : List DirEntry) :
    b.Like { s with l1 := l1, dir := dir } := h

theorem State.devWrite_like (h : b.Like s) (pa : Nat) (bs : List Byte) : b.Like (s.devWrite pa bs) := by
  unfold State.devWrite
  refine State.putHome_like (State.Like.with_lines (foldl_like (fun s' l hs => ?_) _ h) _ _) _ _
  split
  · exact foldl_like (by grind [State.setPoison_like]) _ (State.putHome_like hs _ _)
  · exact hs

/-! ### Translation -/

theorem State.lpt_like (h : b.Like s) (vf l : Nat) : b.Like (s.lpt vf l).1 := by
  unfold State.lpt
  grind [State.Like]

theorem State.noteReclaim_like (h : b.Like s) : b.Like s.noteReclaim := by
  unfold State.noteReclaim
  grind [State.emit_like, State.Like]

theorem claimFrame_like {s' : State} (h : b.Like s) {vf page pa : Nat} (e : claimFrame s vf page pa = some s') : b.Like s' := by
  unfold claimFrame at e
  grind [State.putPart_like, State.noteReclaim_like, State.Like]

theorem State.noted_like (h : b.Like s) (c : Prop) [Decidable c] (die : Nat) {vf : Nat} (args : List Word64) :
    b.Like (if c then s.event die 0x03 0 0 vf 0 args else s) := by
  split
  · exact State.event_like h ..
  · exact h

theorem State.postOne_like (h : b.Like s) (r : PageReq) : b.Like (s.postOne r) := by
  unfold State.postOne
  generalize (if r.pf then (s.box.prqbase, s.box.prqidx) else ((s.part r.vf).prqbase, (s.part r.vf).prqidx)) = ring
  obtain ⟨base, idx⟩ := ring
  dsimp -zeta only
  extract_lets prod cons slot w1 s1 s2 idx' s3
  have h3 : b.Like s3 := State.devWrite_like (State.noted_like h _ _ _) ..
  split
  · exact h
  split
  · exact State.askHost_like h ..
  · split <;> exact h3

theorem State.request_like (h : b.Like s) (vf : Nat) (stage2 : Bool) (page acc : Nat) :
    b.Like (s.request vf stage2 page acc).1 := by
  unfold State.request
  split
  · exact h
  · exact foldl_like (fun s r hs => State.postOne_like hs r) _ h

theorem State.useXlat_like (h : b.Like s) (mode off : Nat) (a : Acc) (x : Xlat) : (s.useXlat mode off a x).Like b := by
  unfold State.useXlat
  grind [State.askHost_like, State.lpt_like, XRes.Like]

theorem translate_like (h : b.Like s) (vf mode va : Nat) (a : Acc) : (translate s vf mode va a).Like b := by
  unfold translate
  generalize va % 65536 = off, va / 65536 * 65536 = page
  dsimp only
  split
  · exact h
  split
  · exact State.useXlat_like h ..
  split
  · exact State.event_like h ..
  · exact State.askHost_like h ..
  · exact State.request_like h ..
  split
  · split
    · exact h
    split
    · exact State.event_like h ..
    · next e =>
      have hc := claimFrame_like h e
      exact State.useXlat_like (by exact hc) ..
  · exact State.useXlat_like (by exact h) ..

theorem resolve_like (h : b.Like s) (vf mode die va : Nat) (a : Acc) : (resolve s vf mode die va a).Like b := by
  unfold resolve
  grind [translate_like, XRes.Like]

theorem State.resolveFor_like (h : b.Like s) (who vf mode die va : Nat) (a : Acc) :
    (s.resolveFor who vf mode die va a).Like b := by
  have hr : (resolve { s with cur := who } vf mode die va a).Like b := resolve_like (s := { s with cur := who }) h ..
  unfold State.resolveFor
  generalize resolve { s with cur := who } vf mode die va a = r at hr ⊢
  cases r <;> exact hr

/-! ### The answers to page waits -/

theorem State.dropPage_like (h : b.Like s) (q vf page : Nat) : b.Like (s.dropPage q vf page) := by
  unfold State.dropPage
  extract_lets hit x s1 l1
  have h1 : b.Like s1 := by
    unfold s1
    split <;> exact h
  exact h1

theorem State.rewalk_like (h : b.Like s) (who : Nat) (ws : List PageWait) (sel : PageWait → Bool) :
    b.Like (s.rewalk who ws sel).1 := by
  unfold State.rewalk
  refine List.foldlRecOn (motive := fun acc : State × List PageWait × List Nat => b.Like acc.1) _ _ h fun acc hacc w hw => ?_
  have hr := State.resolveFor_like hacc who w.vf w.mode 0 w.va w.acc
  split
  · exact hacc
  · split <;> next e => rw [e] at hr; exact hr

theorem State.engineAnswer_like (h : b.Like s) (q : Nat) (ws : List PageWait) (sel : PageWait → Bool) (refuse : Bool) :
    b.Like (s.engineAnswer q ws sel refuse).1 := by
  unfold State.engineAnswer
  split
  · exact h
  · exact State.rewalk_like (foldl_like (fun s w hs => State.dropPage_like hs ..) _ h) ..

theorem State.copyAnswer_like (h : b.Like s) (q : Nat) (sel : PageWait → Bool) (refuse : Bool) :
    b.Like (s.copyAnswer q sel refuse) := by
  unfold State.copyAnswer
  refine foldl_like (fun s c hs => ?_) _ h
  have hr := State.engineAnswer_like hs q c.waits sel refuse
  split <;> next e => rw [e] at hr; exact hr

theorem State.footAnswer_of_no_wait {sel : PageWait → Bool} {refuse : Bool}
    (hf : ∀ c ∈ s.cores, ∀ f ∈ c.2.foot, ∀ w ∈ f.2.2, sel w = false) : s.footAnswer sel refuse = s := by
  have hnone : ∀ c ∈ s.cores, c.2.foot.filter (fun f => f.2.2.any sel) = [] := fun c hc =>
    List.filter_eq_nil_iff.2 fun f hm ha =>
      have ⟨w, hw, hs⟩ := List.any_eq_true.1 ha
      absurd hs (by simp [hf c hc f hm w hw])
  unfold State.footAnswer
  refine List.foldlRecOn (motive := fun acc : State => acc = s) _ _ rfl fun acc hacc c hc => ?_
  rw [hnone c hc]
  exact hacc

theorem State.inletAnswer_like (h : b.Like s) (sel : PageWait → Bool) (refuse : Bool) : b.Like (s.inletAnswer sel refuse) := by
  unfold State.inletAnswer
  refine foldl_like (fun s p hs => ?_) _ h
  have hr := State.rewalk_like hs 0 p.2.inletWaits sel
  split
  · exact hs
  · cases refuse
    · simp only [Bool.false_eq_true, if_false]
      split <;> exact hr
    · exact hs

/-- Engines, footprints and inlets are told after the strands, and keep them (R331). -/
theorem State.answerWaits_like {sel : PageWait → Bool} {refuse : Bool}
    (hc : (s.strands.foldl (fun s p => s.strandAnswer p.1 p.2 sel refuse) s).cores = s.cores)
    (hf : ∀ c ∈ s.cores, ∀ f ∈ c.2.foot, ∀ w ∈ f.2.2, sel w = false) :
    (s.strands.foldl (fun s p => s.strandAnswer p.1 p.2 sel refuse) s).Like (s.answerWaits sel refuse) := by
  unfold State.answerWaits
  extract_lets s1 s2
  have h2 : s1.Like s2 := foldl_like (fun s p hs => State.copyAnswer_like hs p.1 sel refuse) _ (.refl s1)
  rw [State.footAnswer_of_no_wait (by rw [h2.2.1, hc]; exact hf)]
  exact State.inletAnswer_like h2 sel refuse

end

end Sys2Proof.Machine
end

section
/-!
SUPPORT. The events that tell a strand (R79, R107, R113, R272, R296, R331, R363): one equation or one account of the next state for
each way that an event ends (O46).
-/
namespace Sys2Proof.Machine

section
variable {s s' : State} {u : Nat} {t : Strand}

theorem State.resume_of_strand (h : s.strand? u = some t) (f : Strand → Strand) :
    s.resume u f = s.putStrand u { f t with run := .running, wokenAt := s.tick } := by
  simp [State.resume, State.modStrand, h]

theorem translationAnswer_goes (h : s.strand? u = some t) (hr : t.run = .waiting .answer) :
    exec (.translationAnswer u) s = .next (s.putStrand u { t with run := .running, wokenAt := s.tick, answered := true }) := by
  show execTranslationAnswer u s = _
  simp [execTranslationAnswer, h, hr, State.resume_of_strand h]

theorem sleepWake_due (h : s.strand? u = some t) {c : Nat} (hr : t.run = .waiting (.sleep c)) (hc : c ≤ s.cyc) :
    exec (.sleepWake u) s = .next (s.putStrand u
      { t.retire (t.pc + 4) with run := .running, wokenAt := s.tick, readyAt := s.cyc }) := by
  show execSleepWake u s = _
  simp [execSleepWake, h, hr, Nat.not_lt.2 hc, State.modStrand]

theorem watchdog_traps (h : s.strand? u = some t) (hk : t.kind = .handler) (hw : t.watch = 4096) (hr : t.run = .running)
    (hs : t.slot ≠ none) (hd : t.doom = none) (hm : t.midway = false) :
    exec (.watchdog u) s = .next (s.takeTrap u { t with watch := 4097 } 0x40 4096#64) := by
  show execWatchdog u s = _
  simp [execWatchdog, h, hk, hw, hr, Option.isSome_iff_ne_none.2 hs, hd, hm]

/-! ### Fills (R272, R363) -/

theorem State.loseRequest_like (s : State) (core vf job unit_ : Nat) (tg : Target) :
    s.Like (s.loseRequest core vf job unit_ tg) := by
  unfold State.loseRequest
  split
  · exact State.event_like (by rw [State.logLost_eq]; exact .refl s) ..
  · exact .refl s

theorem State.modForeign_like (s : State) (q vf va n : Nat) (f : BedLine → BedLine) (g : L1Line → L1Line) :
    s.Like (s.modForeign q vf va n f g) := by
  unfold State.modForeign
  extract_lets x hit s1
  have h1 : s.Like s1 := by
    unfold s1
    split <;> exact .refl s
  split <;> exact h1

theorem State.refreshForeign_like (s : State) (q vf va n : Nat) : s.Like (s.refreshForeign q vf va n) :=
  State.modForeign_like ..

theorem State.installBed_like (s : State) (q : Nat) (l : BedLine) : s.Like (s.installBed q l) := by
  unfold State.installBed
  extract_lets ws x rest taken
  split
  · exact .refl s
  · split
    · exact .refl s
    · next w _ =>
      obtain ⟨m, p, o, he⟩ := State.evictBeds_eq
        (rest.filter fun y => y.way == w && bedSet y.vf y.vline == bedSet l.vf l.vline) s
      dsimp only
      rw [he]
      exact .refl s

theorem State.installed_like {b : State} (h : b.Like s) (c : Bool) (q : Nat) (l : BedLine) :
    b.Like (if c then s.installBed q l else s) := by
  split
  · exact h.trans (s.installBed_like q l)
  · exact h

section
variable {vline stamp : Nat} {tg : Target} (h : s.strand? u = some t) (hr : t.run = .waiting (.fill vline stamp))
  (hres : s.resolveFor u t.vf t.mode (dieOf t.core) (vline * 64) .read = .ok s' tg) (hb : s'.biasRange tg 64 = none)
  (h' : s'.strand? u = some t) (ht : s'.tick = s.tick)
include h hr hres hb h' ht

theorem fillReturn_lost (hcut : s'.cutOff (quadOf t.core) t.vf tg = true) :
    exec (.fillReturn u) s = .next ((s'.readLost t tg).putStrand u
      { t with run := .running, wokenAt := s.tick, timeout := true, answered := true }) := by
  have hl : s'.Like (s'.readLost t tg) := State.loseRequest_like ..
  show execFillReturn u s = _
  simp [execFillReturn, State.fill, h, hr, hres, hb, hcut, State.resume_of_strand ((hl.strand? u).trans h'), hl.2.2, ht]

theorem fillReturn_filled (hcut : s'.cutOff (quadOf t.core) t.vf tg = false) : ∃ s2 : State, exec (.fillReturn u) s = .next s2 ∧
    s2.strand? u = some { t with
      run := .running, wokenAt := s.tick, answered := true,
      filled := some (bytesLine (s'.homeRead t.vf (vline * 64) tg 64), s'.bedPoison t.vf vline tg) } := by
  have hkeep := State.installed_like (s'.refreshForeign_like (quadOf t.core) t.vf (vline * 64) 64)
  refine ⟨s.fill u t vline stamp, ?_, ?_⟩
  · show execFillReturn u s = _
    simp [execFillReturn, h, hr]
  · simp only [State.fill, hres, hb, hcut, Bool.false_eq_true, if_false]
    rw [State.resume_of_strand (((hkeep _ _ _).strand? u).trans h'), (hkeep _ _ _).2.2, ht]
    simp

end

/-! ### Requests that time out (R363) -/

section
variable (h : s.strand? u = some t)
include h

theorem requestTimeout_ends {w : Wait} (hr : t.run = .waiting w) (hw : w.onRequest = true)
    (hl : t.buf = [] ∨ Config.lostStore s.tick = false) :
    exec (.requestTimeout u) s =
      .next (s.putStrand u { t with run := .running, wokenAt := s.tick, timeout := true, answered := true }) := by
  show execRequestTimeout u s = _
  have hc : (t.buf.isEmpty || !Config.lostStore s.tick) = true := by
    obtain hl | hl := hl <;> simp [hl]
  simp [execRequestTimeout, h, hr, hw, hc, State.resume_of_strand h]

theorem requestTimeout_no_request {w : Wait} (hr : t.run = .waiting w) (hw : w.onRequest = false) (hb : t.buf = []) :
    exec (.requestTimeout u) s = .next s := by
  show execRequestTimeout u s = _
  simp [execRequestTimeout, h, hr, hw, State.loseStore, hb]

theorem requestTimeout_fetch (hr : t.run = .running) (hb : t.buf = []) (hd : t.doom = none)
    (hl : Config.lostFetch s.tick = true) :
    exec (.requestTimeout u) s = .next (s.putStrand u { t with doom := some (0x0B, BitVec.ofNat 64 t.pc) }) := by
  show execRequestTimeout u s = _
  simp [execRequestTimeout, h, hr, hb, hd, hl, State.modStrand]

theorem requestTimeout_midway (hr : t.run = .running) (hb : t.buf = [])
    (hl : t.doom ≠ none ∨ Config.lostFetch s.tick = false) :
    exec (.requestTimeout u) s = .next (s.putStrand u { t with timeout := true }) := by
  show execRequestTimeout u s = _
  have hc : (t.doom.isNone && Config.lostFetch s.tick) = false := by
    obtain hl | hl := hl
    · simp [Option.isNone_eq_false_iff.2 (Option.isSome_iff_ne_none.2 hl)]
    · simp [hl]
  simp [execRequestTimeout, h, hr, hb, hc, State.modStrand]

theorem requestTimeout_store {e : Store} {r : List Store} (hb : t.buf = e :: r)
    (hr : t.run = .running ∨ ∃ w, t.run = .waiting w ∧ (w.onRequest = false ∨ Config.lostStore s.tick = true)) :
    exec (.requestTimeout u) s = .next (s.loseStore u t) := by
  show execRequestTimeout u s = _
  obtain hr | ⟨w, hr, hw⟩ := hr
  · simp [execRequestTimeout, h, hr, hb]
  · have hc : (w.onRequest && !Config.lostStore s.tick) = false := by
      obtain hw | hw := hw <;> simp [hw]
    simp [execRequestTimeout, h, hr, hb, hc]

end

theorem State.loseStore_performed {e : Store} {r : List Store} (hb : t.buf = e :: r) (hp : Config.lostPerformed s.tick = true)
    (hw : s.storeWait t.vf e = none) (hg : s.storeGone t e = false) :
    s.loseStore u t = ((s.performStore t e).reportLost t e.va e.target).popStore u := by
  simp [State.loseStore, hb, hp, hw, hg]

theorem State.loseStore_dropped {e : Store} {r : List Store} (hb : t.buf = e :: r)
    (hn : Config.lostPerformed s.tick = false ∨ ¬(s.storeWait t.vf e = none ∧ s.storeGone t e = false)) :
    s.loseStore u t = (s.reportLost t e.va e.target).popStore u := by
  have hd : (Config.lostPerformed s.tick && (s.storeWait t.vf e).isNone && !s.storeGone t e) = false := by
    rw [Bool.eq_false_iff]
    simp only [ne_eq, Bool.and_eq_true, Option.isNone_iff_eq_none, Bool.not_eq_true']
    exact fun ⟨⟨hp, hw⟩, hg⟩ => hn.elim (fun hp' => absurd hp (by simp [hp'])) fun hm => hm ⟨hw, hg⟩
  simp only [State.loseStore, hb, hd, Bool.false_eq_true, if_false]

end

end Sys2Proof.Machine
end

section
/-!
SUPPORT. The events of caches, pages, packets and the scrubber (R79, R111, R274, R275, R331, R357 to R360): one equation or one
account of the next state for each way that an event ends (O46).
-/
namespace Sys2Proof.Machine

/-! ### Poison -/

theorem granule_cases (k : Nat) : k < memHost ∧ granule k = 32 ∨ memHost ≤ k ∧ k < memPeer ∧ granule k = 64 ∨
    memPeer ≤ k ∧ k < memPool ∧ granule k = 32 ∨ memPool ≤ k ∧ k < memRegion ∧ granule k = 8 ∨
    memRegion ≤ k ∧ k < memL1 ∧ granule k = 16 ∨ memL1 ≤ k ∧ k < memCount ∧ granule k = 8 ∨
    memCount ≤ k ∧ granule k = 1 := by
  unfold granule
  split_ifs <;> simp <;> omega

theorem granule_pos (k : Nat) : 0 < granule k := by
  have := granule_cases k
  omega

theorem granule_floor (k : Nat) : granule (k / granule k * granule k) = granule k := by
  have hk := granule_cases k
  have hf := granule_cases (k / granule k * granule k)
  generalize granule (k / granule k * granule k) = y at hf ⊢
  generalize granule k = z at hk hf ⊢
  simp only [memHost, memPeer, memPool, memRegion, memL1, memCount] at hk hf
  obtain ⟨h, rfl⟩ | ⟨h, h', rfl⟩ | ⟨h, h', rfl⟩ | ⟨h, h', rfl⟩ | ⟨h, h', rfl⟩ | ⟨h, h', rfl⟩ | ⟨h, rfl⟩ := hk <;> omega

/-- A place whose poison has been set is poisoned: the granule that holds it is marked (R358). -/
theorem State.poisoned_setPoison (s : State) (k : Nat) {n : Nat} (hn : 0 < n) : (s.setPoison k n).poisoned k n = true := by
  have hz := granule_pos k
  have hfloor : k / granule k * granule k ≤ k := Nat.div_mul_le_self ..
  have hmem : k / granule k * granule k ∈ (s.setPoison k n).poison := by
    simp only [State.setPoison, List.mem_insertionSort, List.mem_append, List.mem_filter, List.mem_map, List.mem_range]
    by_cases hp : k / granule k * granule k ∈ s.poison
    · exact .inl hp
    · exact .inr ⟨⟨⟨0, by omega, by simp⟩, by simpa using by omega⟩, by simpa using hp⟩
  refine List.any_eq_true.2 ⟨_, hmem, ?_⟩
  rw [granule_floor]
  have := Nat.lt_div_mul_add (a := k) hz
  simp only [Bool.and_eq_true, decide_eq_true_eq]
  omega

/-! ### Recalls (R275, R360) -/

theorem State.writeBack_eq (s : State) (l : L1Line) : ∃ m p, s.writeBack l = { s with mem := m, poison := p } := by
  unfold State.writeBack
  split
  · split
    · exact ⟨_, _, rfl⟩
    · obtain ⟨p, hp⟩ := (s.putHome (s.homeOf l).key (lineBytes l.data)).poisonBy_eq (s.homeOf l).key 8 8 l.poison.getLsbD
      exact ⟨_, p, by rw [hp]; rfl⟩
  · exact ⟨_, _, rfl⟩

theorem State.writeBacks_eq (ls : List L1Line) (s : State) :
    ∃ m p, ls.foldl State.writeBack s = { s with mem := m, poison := p } := by
  induction ls generalizing s with
  | nil => exact ⟨_, _, rfl⟩
  | cons l ls ih =>
    obtain ⟨m, p, he⟩ := s.writeBack_eq l
    obtain ⟨m', p', he'⟩ := ih (s.writeBack l)
    exact ⟨m', p', by rw [List.foldl_cons, he', he]⟩

theorem State.recallEntry_eq (s : State) (e : DirEntry) : ∃ m p ds,
    s.recallEntry e = { s with mem := m, poison := p, dir := ds, l1 := s.l1.filter fun l => !e.covers l } := by
  obtain ⟨m, p, he⟩ := State.writeBacks_eq (s.l1.filter e.covers) s
  exact ⟨m, p, _, by rw [State.recallEntry, he]⟩

theorem FMap.get?_map {α : Type} (m : FMap α) (f : Nat → α → α) (k : Nat) :
    FMap.get? (FMap.map m f) k = (FMap.get? m k).map (f k) := by
  induction m with
  | nil => rfl
  | cons p r ih =>
    obtain ⟨j, a⟩ := p
    show (if j = k then some (f j a) else FMap.get? (FMap.map r f) k) = (if j = k then some a else FMap.get? r k).map (f k)
    by_cases hj : j = k
    · subst hj
      simp
    · simp [hj, ih]

section
variable {s : State} {e : DirEntry}

theorem cuckooRecall_host (he : (s.overfull.find? fun x => x.die == e.die) = some e) {w : Wait} (hw : s.recallWait e = some w) :
    exec (.cuckooRecall e.die) s = .next (s.askHost w false) := by
  show execCuckooRecall e.die s = _
  simp [execCuckooRecall, he, hw]

theorem cuckooRecall_recalls (he : (s.overfull.find? fun x => x.die == e.die) = some e) (hw : s.recallWait e = none) :
    ∃ s' : State, exec (.cuckooRecall e.die) s = .next s' ∧ s'.overfull = s.overfull.erase e ∧
      (∀ l ∈ s'.l1, e.covers l = false) ∧
      ∀ {u : Nat} {t : Strand}, s.strand? u = some t → t.run = .waiting (.recall e.die) →
        (∀ x ∈ s.overfull.erase e, x.die ≠ e.die) → s'.strand? u = some { t with run := .running, wokenAt := s.tick } := by
  obtain ⟨m, p, ds, hr⟩ := State.recallEntry_eq { s with overfull := s.overfull.erase e } e
  have hexec : exec (.cuckooRecall e.die) s = .next (if (s.overfull.erase e).any fun x => x.die == e.die
      then ({ s with overfull := s.overfull.erase e } : State).recallEntry e
      else (({ s with overfull := s.overfull.erase e } : State).recallEntry e).wake fun _ _ w => w == .recall e.die) := by
    show execCuckooRecall e.die s = _
    simp only [execCuckooRecall, he, hw, hr]
  rw [hr] at hexec
  refine ⟨_, hexec, ?_, ?_, fun {u t} hu ht hno => ?_⟩
  · split <;> rfl
  · intro l hl
    have hl' : l ∈ s.l1.filter fun l => !e.covers l := by
      split at hl <;> exact hl
    simpa using (List.mem_filter.1 hl').2
  · have hany : ((s.overfull.erase e).any fun x => x.die == e.die) = false := by simpa using hno
    have hget : FMap.get? s.strands u = some t := hu
    simp [hany, State.wake, State.strand?, FMap.get?_map, hget, ht]

end

/-- The state once the value of a recalled line has gone home from its first dirty copy. -/
def State.dirtyHome (s : State) (dirty : List L1Line) : State := dirty.head?.elim s fun l => s.writeBack l

/-- The state once a recalled line whose value is in doubt has been poisoned at its home. -/
def State.spoil (s : State) (copies : List L1Line) (bad : Bool) : State :=
  if bad then copies.head?.elim s (fun l => match s.homeOf l with
    | .dry => s
    | tg => s.setPoison tg.key 64) else s

/-- Whether the value of a recalled line is in doubt: a copy is corrupt, or two dirty ones differ. -/
def recallBad (copies : List L1Line) (corrupt : List Nat) : Bool :=
  copies.any (fun l => corrupt.contains l.core) ||
    (copies.filter L1Line.dirty).any fun l => (copies.filter L1Line.dirty).any fun m => l.data ≠ m.data

section
variable {s : State}

theorem State.dirtyHome_eq (dirty : List L1Line) : ∃ m p, s.dirtyHome dirty = { s with mem := m, poison := p } := by
  cases dirty with
  | nil => exact ⟨_, _, rfl⟩
  | cons l r => exact s.writeBack_eq l

theorem State.spoil_eq (copies : List L1Line) (bad : Bool) : ∃ p, s.spoil copies bad = { s with poison := p } := by
  unfold State.spoil
  split
  · cases copies with
    | nil => exact ⟨_, rfl⟩
    | cons l r =>
      dsimp only [List.head?_cons, Option.elim_some]
      split <;> exact ⟨_, rfl⟩
  · exact ⟨_, rfl⟩

@[simp] theorem State.dirtyHome_strands (ls : List L1Line) : (s.dirtyHome ls).strands = s.strands := by
  obtain ⟨_, _, h⟩ := s.dirtyHome_eq ls
  rw [h]
@[simp] theorem State.dirtyHome_l1 (ls : List L1Line) : (s.dirtyHome ls).l1 = s.l1 := by
  obtain ⟨_, _, h⟩ := s.dirtyHome_eq ls
  rw [h]
@[simp] theorem State.dirtyHome_dir (ls : List L1Line) : (s.dirtyHome ls).dir = s.dir := by
  obtain ⟨_, _, h⟩ := s.dirtyHome_eq ls
  rw [h]
@[simp] theorem State.spoil_strands (ls : List L1Line) (bad : Bool) : (s.spoil ls bad).strands = s.strands := by
  obtain ⟨_, h⟩ := s.spoil_eq ls bad
  rw [h]
@[simp] theorem State.spoil_l1 (ls : List L1Line) (bad : Bool) : (s.spoil ls bad).l1 = s.l1 := by
  obtain ⟨_, h⟩ := s.spoil_eq ls bad
  rw [h]
@[simp] theorem State.spoil_dir (ls : List L1Line) (bad : Bool) : (s.spoil ls bad).dir = s.dir := by
  obtain ⟨_, h⟩ := s.spoil_eq ls bad
  rw [h]
@[simp] theorem State.spoil_mem (ls : List L1Line) (bad : Bool) : (s.spoil ls bad).mem = s.mem := by
  obtain ⟨_, h⟩ := s.spoil_eq ls bad
  rw [h]

theorem State.poisoned_spoil {copies : List L1Line} {bad : Bool} {l : L1Line} (hb : bad = true) (hl : copies.head? = some l)
    (hd : s.homeOf l ≠ .dry) :
    (s.spoil copies bad).poisoned (s.homeOf l).key 64 = true := by
  unfold State.spoil
  rw [if_pos hb, hl]
  dsimp only [Option.elim_some]
  split
  · next h => exact absurd h hd
  · exact s.poisoned_setPoison _ (by decide)

theorem recallBad_iff {copies : List L1Line} {corrupt : List Nat} : recallBad copies corrupt = true ↔
    (∃ x ∈ copies, x.core ∈ corrupt) ∨
      ∃ x ∈ copies.filter L1Line.dirty, ∃ y ∈ copies.filter L1Line.dirty, x.data ≠ y.data := by
  simp [recallBad, and_assoc]

/-- A recall made now: the value goes home, or the line is poisoned; the copies and the entries that no L1 needs go (R360). -/
theorem State.recallNow_eq (die vf line : Nat) (hit : L1Line → Bool) (corrupt : List Nat) :
    let copies := s.l1.filter hit
    let l1 := s.l1.filter fun l => !hit l
    ∃ ds, s.recallNow die vf line hit corrupt =
      { (s.dirtyHome (copies.filter L1Line.dirty)).spoil copies (recallBad copies corrupt) with
        l1 := l1, dies := ds
        dir := s.dir.filter fun e => !(e.die == die && e.vf == vf && e.vline == line) || l1.any e.covers } := by
  intro copies l1
  let x := (s.dirtyHome (copies.filter L1Line.dirty)).spoil copies (recallBad copies corrupt)
  have hl1 : x.l1 = s.l1 := by simp [x]
  have hdir : x.dir = s.dir := by simp [x]
  have hrec : s.recallNow die vf line hit corrupt = ({ x with
      l1 := x.l1.filter fun l => !hit l
      dir := x.dir.filter fun e =>
        !(e.die == die && e.vf == vf && e.vline == line) || (x.l1.filter fun l => !hit l).any e.covers } : State).event
      die 0x04 0 0 vf 0 [BitVec.ofNat 64 (line * 64), BitVec.ofNat 64 (copies.filter L1Line.dirty).length] := rfl
  rw [hl1, hdir] at hrec
  exact ⟨_, hrec.trans (State.event_eq ..)⟩

end

/-- The copies of a line that a die's L1s hold, as the statement of a directory recall names them. -/
def State.dieCopies (s : State) (die vf line : Nat) : List L1Line :=
  s.l1.filter fun l => dieOf l.core == die && l.vf == vf && l.vline == line

section
variable {s : State} {die vf line : Nat} {corrupt : List Nat}

theorem recallHit_die : recallHit die vf line none = fun l => dieOf l.core == die && l.vf == vf && l.vline == line :=
  funext fun _ => Bool.and_true _

theorem directoryRecall_host {w : Wait} (hw : (s.dieCopies die vf line).findSome? s.homeWait = some w) :
    exec (.directoryRecall die vf line corrupt) s =
      .next { (s.askHost w false) with outside := .recall die vf line none corrupt :: s.outside } := by
  show execDirectoryRecall die vf line corrupt s = _
  have hheld : s.recallHeld (recallHit die vf line none) = some w := by
    rw [recallHit_die]
    exact hw
  simp only [execDirectoryRecall, State.fullRecall, hheld]

/-- A directory recall made now (R360): no L1 of the die keeps a copy of the line, the value comes from the first dirty copy, and a
value in doubt is poisoned. -/
theorem directoryRecall_recalls (hw : (s.dieCopies die vf line).findSome? s.homeWait = none) :
    ∃ s' : State, exec (.directoryRecall die vf line corrupt) s = .next s' ∧ s'.strands = s.strands ∧
      (∀ l ∈ s'.l1, dieOf l.core = die → l.vf = vf → l.vline ≠ line) ∧
      (∀ e ∈ s'.dir, e.die = die → e.vf = vf → e.vline = line → ∃ l ∈ s'.l1, e.covers l = true) ∧
      s'.mem = (s.dirtyHome ((s.dieCopies die vf line).filter L1Line.dirty)).mem ∧
      ∀ l, (s.dieCopies die vf line).head? = some l → recallBad (s.dieCopies die vf line) corrupt = true →
        let tg := (s.dirtyHome ((s.dieCopies die vf line).filter L1Line.dirty)).homeOf l
        tg ≠ .dry → s'.poisoned tg.key 64 = true := by
  have hexec : exec (.directoryRecall die vf line corrupt) s =
      .next (s.recallNow die vf line (recallHit die vf line none) corrupt) := by
    show execDirectoryRecall die vf line corrupt s = _
    have hheld : s.recallHeld (recallHit die vf line none) = none := by
      rw [recallHit_die]
      exact hw
    simp only [execDirectoryRecall, State.fullRecall, hheld]
  obtain ⟨ds, hr⟩ := s.recallNow_eq die vf line (recallHit die vf line none) corrupt
  rw [recallHit_die] at hr hexec
  rw [hr] at hexec
  refine ⟨_, hexec, ?_, ?_, ?_, ?_, ?_⟩
  · simp
  · intro l hl hdie hvf hline
    have := (List.mem_filter.1 hl).2
    simp [hdie, hvf, hline] at this
  · intro e he hdie hvf hline
    have := (List.mem_filter.1 he).2
    simpa [hdie, hvf, hline, and_assoc] using this
  · simp [State.dieCopies]
  · intro l hl hbad tg hd
    exact State.poisoned_spoil hbad hl hd

end
end Sys2Proof.Machine
end

section
/-!
SUPPORT. The faults of a fetch, the replies to page requests, operation packets and the scrubber (R79, R111, R274, R331, R357 to
R359): one equation or one account of the next state for each way that an event ends (O46).
-/
namespace Sys2Proof.Machine

/-! ### The faults of a fetch (R79, R330, R331) -/

/-- What INSTRUCTION_FETCH_FAULT answers of a strand's place (R79). -/
noncomputable def fetchFaultBody (t : Strand) (s : State) : Res :=
  match resolve s t.vf t.mode (dieOf t.core) t.pc .fetch with
  | .ok s tg =>
    (match s.heldCode t tg, s.biasRange tg 4 with
    | some _, _ => .hold s
    | none, some w => .hold ((s.askHost w false).parkMe t w)
    | none, none =>
      match s.fillCode t tg with
      | .ok _ _ => .hold s
      | .bad s => .trapIn s 0x0B (BitVec.ofNat 64 t.pc))
  | .host s w => .hold (s.parkMe t w)
  | .wait s r => .hold (s.faultPark t [r])
  | .refused s => .trapIn s 0x09 (BitVec.ofNat 64 t.pc)

theorem exec_instructionFetchFault (s : State) : exec .instructionFetchFault s = runWord { inCode := true } fetchFaultBody s := rfl

section
variable {s s' s2 : State} {t : Strand} {tg : Target} (h : Ready s t)
include h

theorem fetchFault_holds (hb : fetchFaultBody t s = .hold s') : Holds .instructionFetchFault s s' :=
  (exec_instructionFetchFault s).trans (runWord_hold h (.inl rfl) (Nat.zero_le _) hb)

theorem fetchFault_trapsIn {c : Nat} {v : Word64} (hb : fetchFaultBody t s = .trapIn s' c v) (hs : s'.me = some t) :
    Holds .instructionFetchFault s (s'.trapMe (t.countWatch (s.watchStep t)) c v) :=
  (exec_instructionFetchFault s).trans (runWord_trapIn h (.inl rfl) (Nat.zero_le _) hb hs)

theorem fetchFault_refused (hr : resolve s t.vf t.mode (dieOf t.core) t.pc .fetch = .refused s') (hs : s'.me = some t) :
    Holds .instructionFetchFault s (s'.trapMe (t.countWatch (s.watchStep t)) 0x09 (BitVec.ofNat 64 t.pc)) :=
  fetchFault_trapsIn h (by simp [fetchFaultBody, hr]) hs

theorem fetchFault_aperture (ha : inAperture t.pc = true) : Traps .instructionFetchFault s t 0x09 (BitVec.ofNat 64 t.pc) :=
  fetchFault_refused h (by simp [resolve, ha]) h.1

theorem fetchFault_absent {r : PageWait} (hr : resolve s t.vf t.mode (dieOf t.core) t.pc .fetch = .wait s' r) :
    Holds .instructionFetchFault s (s'.faultPark t [r]) :=
  fetchFault_holds h (by simp [fetchFaultBody, hr])

section
variable (hr : resolve s t.vf t.mode (dieOf t.core) t.pc .fetch = .ok s' tg)
include hr

theorem fetchFault_held (hh : s'.heldCode t tg ≠ none) : Holds .instructionFetchFault s s' := by
  obtain ⟨w, hw⟩ := Option.ne_none_iff_exists'.1 hh
  exact fetchFault_holds h (by simp [fetchFaultBody, hr, hw])

theorem fetchFault_host (hh : s'.heldCode t tg = none) {w : Wait} (hb : s'.biasRange tg 4 = some w) :
    Holds .instructionFetchFault s ((s'.askHost w false).parkMe t w) :=
  fetchFault_holds h (by simp [fetchFaultBody, hr, hh, hb])

theorem fetchFault_bad (hh : s'.heldCode t tg = none) (hb : s'.biasRange tg 4 = none) (hf : s'.fillCode t tg = .bad s2)
    (hs : s2.me = some t) :
    Holds .instructionFetchFault s (s2.trapMe (t.countWatch (s.watchStep t)) 0x0B (BitVec.ofNat 64 t.pc)) :=
  fetchFault_trapsIn h (by simp [fetchFaultBody, hr, hh, hb, hf]) hs

theorem fetchFault_filled (hh : s'.heldCode t tg = none) (hb : s'.biasRange tg 4 = none) {w : Word32}
    (hf : s'.fillCode t tg = .ok s2 w) : Holds .instructionFetchFault s s' :=
  fetchFault_holds h (by simp [fetchFaultBody, hr, hh, hb, hf])

end

end

/-! ### The replies to page requests (R331, R345) -/

/-- What a strand that waits for one page is once that page's walk has been made again (R331, R374). -/
def Strand.walked (t : Strand) (now : Nat) (w : PageWait) : XRes → Strand
  | .wait _ q => { t with run := .waiting (.pages [q]) }
  | .host _ _ => { t with run := .waiting (.pages [{ w with host := true }]) }
  | .refused _ => { t with run := .running, wokenAt := now, refused := t.refused ++ [w.va / 65536 * 65536] }
  | .ok _ _ => { t with run := .running, wokenAt := now }

section
variable {s : State} {u : Nat} {t : Strand} {sel : PageWait → Bool}

theorem strandAnswer_walks {w : PageWait} (h : s.strand? u = some t) (hr : t.run = .waiting (.pages [w])) (hsel : sel w = true) :
    ∃ s' : State, s.Like s' ∧ s.strandAnswer u t sel false = s'.putStrand u
      (t.walked s.tick w ((s.dropPage (quadOf t.core) w.vf (w.va / 65536 * 65536)).resolveFor u w.vf w.mode 0 w.va w.acc)) := by
  have hlike : ((s.dropPage (quadOf t.core) w.vf (w.va / 65536 * 65536)).resolveFor u w.vf w.mode 0 w.va w.acc).Like s :=
    State.resolveFor_like (State.dropPage_like (.refl s) ..) ..
  cases hres : (s.dropPage (quadOf t.core) w.vf (w.va / 65536 * 65536)).resolveFor u w.vf w.mode 0 w.va w.acc <;>
    rw [hres] at hlike <;> refine ⟨_, hlike, ?_⟩ <;>
    simp [State.strandAnswer, hr, hsel, State.rewalk, hres, Strand.walked, State.modStrand, State.resume,
      hlike.strand? u, h, hlike.2.2]

/-- A refusal tells a strand and changes no other (R345). -/
theorem strandAnswer_refuse (p : Nat) (x : Strand) :
    s.strandAnswer p x sel true = s ∨ ∃ ws f, s.strandAnswer p x sel true =
      ({ s with host := { s.host with walks := ws } } : State).resume p f := by
  unfold State.strandAnswer
  split
  · extract_lets mine
    split
    · exact .inl rfl
    · exact .inr ⟨_, _, rfl⟩
  · extract_lets mine
    split
    · exact .inl rfl
    · exact .inr ⟨s.host.walks, _, rfl⟩

/-- s has strand u, the cores and the tick of b. -/
def State.LikeAt (u : Nat) (b s : State) : Prop := s.strand? u = b.strand? u ∧ s.cores = b.cores ∧ s.tick = b.tick

theorem State.LikeAt.refl (u : Nat) (s : State) : s.LikeAt u s := ⟨rfl, rfl, rfl⟩

theorem State.LikeAt.trans {a b c : State} (h : a.LikeAt u b) (k : b.LikeAt u c) : a.LikeAt u c :=
  ⟨k.1.trans h.1, k.2.1.trans h.2.1, k.2.2.trans h.2.2⟩

theorem State.resume_likeAt (s : State) {p : Nat} (hp : p ≠ u) (f : Strand → Strand) : s.LikeAt u (s.resume p f) := by
  refine ⟨?_, ?_, ?_⟩
  · rw [State.resume, State.strand?_modStrand, if_neg hp]
  · rw [State.resume, State.modStrand_eq]
  · rw [State.resume, State.modStrand_eq]

theorem strandAnswers_refuse_others {ps : List (Nat × Strand)} (hps : ∀ p ∈ ps, p.1 ≠ u) :
    s.LikeAt u (ps.foldl (fun s p => s.strandAnswer p.1 p.2 sel true) s) := by
  refine List.foldlRecOn (motive := fun acc => s.LikeAt u acc) _ _ (.refl u s) fun acc hacc p hp => hacc.trans ?_
  obtain he | ⟨ws, f, he⟩ := strandAnswer_refuse (s := acc) (sel := sel) p.1 p.2
  · rw [he]
    exact .refl u acc
  · rw [he]
    exact State.resume_likeAt { acc with host := _ } (hps p hp) f

theorem strandAnswer_refused {ws : List PageWait} (h : s.strand? u = some t) (hr : t.run = .waiting (.pages ws))
    (hsel : ∃ w ∈ ws, sel w = true) :
    (s.strandAnswer u t sel true).cores = s.cores ∧ (s.strandAnswer u t sel true).strand? u = some { t with
      run := .running, wokenAt := s.tick, refused := t.refused ++ (ws.filter sel).map fun w => w.va / 65536 * 65536 } := by
  have hne : (ws.filter sel).isEmpty = false := by
    obtain ⟨w, hw, hs⟩ := hsel
    exact List.isEmpty_eq_false_iff_exists_mem.2 ⟨w, List.mem_filter.2 ⟨hw, hs⟩⟩
  have hu : ({ s with host := { s.host with walks := s.host.walks ++ ws.filter PageWait.host } } : State).strand? u = some t := h
  have he : s.strandAnswer u t sel true = ({ s with
      host := { s.host with walks := s.host.walks ++ ws.filter PageWait.host } } : State).resume u fun t =>
        { t with refused := t.refused ++ (ws.filter sel).map fun w => w.va / 65536 * 65536 } := by
    simp [State.strandAnswer, hr, hne]
  rw [he, State.resume_of_strand hu]
  exact ⟨rfl, by simp⟩

/-- A refusal reaches the strand that waits for the page, whatever it does to the others (R345). -/
theorem strandAnswers_refused {ws : List PageWait} {ps : List (Nat × Strand)} (hps : ps.filter (fun p => p.1 == u) = [(u, t)])
    (h : s.strand? u = some t) (hr : t.run = .waiting (.pages ws)) (hsel : ∃ w ∈ ws, sel w = true) :
    (ps.foldl (fun s p => s.strandAnswer p.1 p.2 sel true) s).cores = s.cores ∧
      (ps.foldl (fun s p => s.strandAnswer p.1 p.2 sel true) s).strand? u = some { t with
        run := .running, wokenAt := s.tick, refused := t.refused ++ (ws.filter sel).map fun w => w.va / 65536 * 65536 } := by
  obtain ⟨l, r, rfl, hl, -, hrest⟩ := List.filter_eq_cons_iff.1 hps
  have hl' : ∀ p ∈ l, p.1 ≠ u := fun p hp => by simpa using hl p hp
  have hr' : ∀ p ∈ r, p.1 ≠ u := fun p hp => by simpa using List.filter_eq_nil_iff.1 hrest p hp
  rw [List.foldl_append, List.foldl_cons]
  generalize hs1 : l.foldl (fun s p => s.strandAnswer p.1 p.2 sel true) s = s1
  have h1 : s.LikeAt u s1 := hs1 ▸ strandAnswers_refuse_others hl'
  obtain ⟨hcores, hstrand⟩ := strandAnswer_refused (h1.1.trans h) hr hsel
  obtain ⟨hstrand', hcores', -⟩ := strandAnswers_refuse_others (s := s1.strandAnswer u t sel true) (sel := sel) hr'
  exact ⟨hcores'.trans (hcores.trans h1.2.1), by rw [hstrand', hstrand, h1.2.2]⟩

theorem State.answerWaits_refuses {ws : List PageWait} (hu : s.strand? u = some t) (hr : t.run = .waiting (.pages ws))
    (hsel : ∃ w ∈ ws, sel w = true) (hone : s.strands.filter (fun p => p.1 == u) = [(u, t)])
    (hfoot : ∀ c ∈ s.cores, ∀ f ∈ c.2.foot, ∀ w ∈ f.2.2, sel w = false) :
    (s.answerWaits sel true).strand? u = some { t with
      run := .running, wokenAt := s.tick, refused := t.refused ++ (ws.filter sel).map fun w => w.va / 65536 * 65536 } := by
  obtain ⟨hcores, hstrand⟩ := strandAnswers_refused hone hu hr hsel
  exact ((State.answerWaits_like hcores hfoot).strand? u).trans hstrand

theorem State.answerWaits_walks {w : PageWait} (hone : s.strands = [(u, t)]) (hr : t.run = .waiting (.pages [w]))
    (hsel : sel w = true) (hfoot : ∀ c ∈ s.cores, ∀ f ∈ c.2.foot, ∀ w ∈ f.2.2, sel w = false) :
    (s.answerWaits sel false).strand? u = some (t.walked s.tick w
      ((s.dropPage (quadOf t.core) w.vf (w.va / 65536 * 65536)).resolveFor u w.vf w.mode 0 w.va w.acc)) := by
  have hu : s.strand? u = some t := by simp [State.strand?, hone, FMap.get?]
  obtain ⟨s1, hlike, he⟩ := strandAnswer_walks hu hr hsel
  have hwaits := State.answerWaits_like (s := s) (sel := sel) (refuse := false)
  simp only [hone, List.foldl_cons, List.foldl_nil, he] at hwaits
  exact ((hwaits hlike.2.1 hfoot).strand? u).trans (by simp)

section
variable {fn : Option Nat} {v : Word64} {r : PageReq}

theorem prqreply_unknown (h : s.replyTo fn v = none) :
    exec (.prqreply fn v) s = .next s ∧ exec (.prqreplyRefuse fn v) s = .next s := by
  constructor
  · show execPrqreply fn v s = _
    simp only [execPrqreply, h]
  · show execPrqreplyRefuse fn v s = _
    simp only [execPrqreplyRefuse, h]

theorem prqreply_answers (h : s.replyTo fn v = some r) :
    exec (.prqreply fn v) s = .next (s.answerPage r false) ∧ exec (.prqreplyRefuse fn v) s = .next (s.answerPage r true) := by
  constructor
  · show execPrqreply fn v s = _
    simp only [execPrqreply, h]
  · show execPrqreplyRefuse fn v s = _
    simp only [execPrqreplyRefuse, h]

end

end

theorem prqidxWrite_posts (s : State) (vf : Nat) (v : Word64) :
    exec (.prqidxWrite (some vf) v) s = .next ((s.putPart vf { s.part vf with
      prqidx := field64 (bitsNat v 47 32) 32 ||| field64 (bitsNat (s.part vf).prqidx 15 0) 0 }).postRing false vf) ∧
    exec (.prqidxWrite none v) s = .next (({ s with box := { s.box with
      prqidx := field64 (bitsNat v 47 32) 32 ||| field64 (bitsNat s.box.prqidx 15 0) 0 } } : State).postRing true 0) :=
  ⟨rfl, rfl⟩

/-! ### Operation packets (R111, R124, R265, R337) -/

theorem leBytes_length (n x : Nat) : (leBytes n x).length = n := by
  induction n generalizing x with
  | zero => rfl
  | succ n ih => simp [leBytes, ih]

section
variable {s : State} {p : OpPacket}

theorem operationPacket_misrouted (h : p.lpkg ≠ (s.part p.vf).self) :
    exec (.operationPacket p) s = .next (s.misroute p.vf (dieOfPa p.addr) 0 0 p.addr) := by
  show execOperationPacket p s = _
  rw [execOperationPacket, if_pos h]

variable (h : p.lpkg = (s.part p.vf).self)
include h

theorem operationPacket_host {w : Wait} (hw : s.biasWait p.addr = some w) : exec (.operationPacket p) s =
    .next (({ s with host := { s.host with waitingOps := s.host.waitingOps ++ [p] } } : State).askHost w (p.op ≠ .read)) := by
  show execOperationPacket p s = _
  rw [execOperationPacket, if_neg (not_not.2 h), State.operate, hw]

theorem operationPacket_performs (hw : s.biasWait p.addr = none) : exec (.operationPacket p) s = .next (s.performOp p) := by
  show execOperationPacket p s = _
  rw [execOperationPacket, if_neg (not_not.2 h), State.operate, hw]

end

section
variable {s : State} {p : OpPacket} (hk : frameOk p.addr = true) (hd : (s.die (dieOfPa p.addr)).fenced = false)
  (ha : p.addr % p.n = 0)
include hk hd ha

theorem performOp_read_poisoned (hp : s.physPoison p.addr p.n = true) (ho : p.op = .read) :
    s.performOp p = s.emit (.opAnswer [] false) := by
  simp [State.performOp, hk, hd, ha, ho, hp]

theorem performOp_read (hp : s.physPoison p.addr p.n = false) (ho : p.op = .read) :
    s.performOp p = s.emit (.opAnswer (s.physBytes p.addr p.n) true) := by
  simp [State.performOp, hk, hd, ha, ho, hp]

theorem performOp_write {x : Word64} (ho : p.op = .write x) :
    s.performOp p = ((if s.physHomePoison p.addr p.n then s.event (dieOfPa p.addr) 0x03 0 0 p.vf 0 [5#64, BitVec.ofNat 64 p.addr]
      else s).devWrite p.addr (leBytes p.n x.toNat)).emit (.opAnswer [] true) := by
  simp [State.performOp, hk, hd, ha, ho, State.agentWrite, leBytes_length]

theorem performOp_atomic_poisoned {op : Nat} {x e : Word64} (hp : s.physHomePoison p.addr p.n = true) (ho : p.op = .atomic op x e) :
    s.performOp p = s.emit (.opAnswer [] false) := by
  simp [State.performOp, hk, hd, ha, ho, hp]

theorem performOp_atomic {op : Nat} {x e : Word64} (hp : s.physHomePoison p.addr p.n = false) (ho : p.op = .atomic op x e) :
    s.performOp p = (s.devWrite p.addr (leBytes p.n
      (if p.n = 4 then (amoNew 32 (packetOp op) (BitVec.ofNat 32 (leNat (s.physBytes p.addr p.n))) (lo32 x) (lo32 e)).toNat
        else (amoNew 64 (packetOp op) (BitVec.ofNat 64 (leNat (s.physBytes p.addr p.n))) x e).toNat))).emit
      (.opAnswer (s.physBytes p.addr p.n) true) := by
  simp [State.performOp, hk, hd, ha, ho, hp]

end

/-! ### Banks and the scrubber (R274, R357 to R360) -/

theorem bankRetentionSleep_sleeps (s : State) (q bank : Nat) :
    (bank ∈ (s.quad q).asleep → exec (.bankRetentionSleep q bank) s = .next s) ∧
    (bank ∉ (s.quad q).asleep → exec (.bankRetentionSleep q bank) s =
      .next (s.putQuad q { s.quad q with asleep := (s.quad q).asleep ++ [bank] })) := by
  have he : exec (.bankRetentionSleep q bank) s = execBankRetentionSleep q bank s := rfl
  constructor <;> intro h <;> simp [he, execBankRetentionSleep, h]

section
variable {s : State} {g : Nat}

theorem patrolScrub_corrects : exec (.patrolScrub g false) s = .next (s.corrected (s.dieOfKey 0 g) (structureOf g) g) := by
  show execPatrolScrub g false s = _
  simp [execPatrolScrub]

theorem patrolScrub_drops (hk : structureOf g = 7 ∨ structureOf g = 8) : exec (.patrolScrub g true) s =
    .next ((s.errorAt g).corrected ((s.errorAt g).dieOfKey 0 g) (structureOf g) g) := by
  show execPatrolScrub g true s = _
  simp [execPatrolScrub, hk]

theorem patrolScrub_recalls (hk : structureOf g = 6) : exec (.patrolScrub g true) s = .next (s.errorAt g) := by
  show execPatrolScrub g true s = _
  simp [execPatrolScrub, hk]

theorem patrolScrub_poisons (h6 : structureOf g ≠ 6) (h7 : structureOf g ≠ 7) (h8 : structureOf g ≠ 8) :
    exec (.patrolScrub g true) s = .next ((s.errorAt g).event ((s.errorAt g).dieOfKey 0 g) 0x03 0 0 0 0
      [BitVec.ofNat 64 (structureOf g), BitVec.ofNat 64 g]) := by
  show execPatrolScrub g true s = _
  simp [execPatrolScrub, h6, h7, h8]

/-- Only the keys from memCount on are those of directory entries. -/
theorem memCount_le_of_structureOf (hk : structureOf g = 6) : memCount ≤ g := by
  by_contra hlt
  unfold structureOf at hk
  split_ifs at hk <;> omega

theorem errorAt_of_dir (hk : structureOf g = 6) {e : DirEntry}
    (he : (s.dir.filter fun e => e.die == (g - memCount) / 3 % 32)[(g - memCount) / 96]? = some e) :
    s.errorAt g = s.fullRecall e.die e.vf e.vline
      (if (s.l1.filter e.covers).any (fun l => l.stamp.isSome) then some e.slice else none) [] := by
  have hg := memCount_le_of_structureOf hk
  have hdie : e.die = (g - memCount) / 3 % 32 := by
    have hmem := List.mem_of_getElem? he
    simpa using (List.mem_filter.1 hmem).2
  have hpast : ∀ k ≤ memCount, ¬g < k := fun k hkm => Nat.not_lt.2 (hkm.trans hg)
  rw [State.errorAt]
  simp only [hpast memTile (by decide), hpast memBed (by decide), hpast memFrame (by decide), hpast memL1 (by decide),
    hpast memInlet (by decide), hpast memCount (by decide), if_false, hk, he, hdie]

theorem poisoned_errorAt (hg : g < memTile) : (s.errorAt g).poisoned g 1 = true := by
  rw [State.errorAt]
  simp only [hg, if_true]
  exact s.poisoned_setPoison g (by decide)

end
end Sys2Proof.Machine
end

section
namespace Sys2Proof.Machine

/-- Settles O46: each clause is the equation or the account of one way that one event ends. -/
theorem memoryEventsAnswer : Obligations.MemoryEventsAnswer := by
  unfold Obligations.MemoryEventsAnswer
  intro s u t hu goes
  refine ⟨translationAnswer_goes hu, fun c hr hc => sleepWake_due hu hr hc,
    fun l stamp s' tg hr hres hb h' ht => ⟨fillReturn_lost hu hr hres hb h' ht, fillReturn_filled hu hr hres hb h' ht⟩,
    fun e w he hw => cuckooRecall_host he hw, fun e he hw => ?cuckoo, fun die vf line corrupt => ?directory,
    watchdog_traps hu, fun w h => illegalInstruction_traps w h, fun h => ?fetch, fun fn v => ?page,
    prqidxWrite_posts s, fun w hr => ?waiting, fun hr hb => ?running, fun e r hb hr => ?store, fun p => ?packet,
    bankRetentionSleep_sleeps s, fun g => ?scrub⟩
  case cuckoo =>
    obtain ⟨s', hexec, hover, hl1, hgo⟩ := cuckooRecall_recalls he hw
    exact ⟨s', hexec, hover, hl1, hgo hu⟩
  case directory =>
    intro copies dirty
    refine ⟨fun w hw => directoryRecall_host hw, fun hw => ?_⟩
    obtain ⟨s', hexec, hstrands, hl1, hdir, hmem, hbad⟩ := directoryRecall_recalls (corrupt := corrupt) hw
    refine ⟨s', hexec, hstrands, hl1, hdir, fun hd => ?_, fun l r hd => ?_, fun l hl hb => hbad l hl (recallBad_iff.2 hb)⟩
    · exact hmem.trans (by rw [show (s.dieCopies die vf line).filter L1Line.dirty = [] from hd]; rfl)
    · exact hmem.trans (by rw [show (s.dieCopies die vf line).filter L1Line.dirty = l :: r from hd]; rfl)
  case fetch =>
    exact ⟨fun s' hr hs => fetchFault_refused h hr hs, fetchFault_aperture h, fun s' r hr => fetchFault_absent h hr,
      fun s' tg hr => ⟨fetchFault_held h hr, fun hh w hb => fetchFault_host h hr hh hb, fun hh hb =>
        ⟨fun s2 hf hs => fetchFault_bad h hr hh hb hf hs, fun s2 w hf => fetchFault_filled h hr hh hb hf⟩⟩⟩
  case page =>
    refine ⟨prqreply_unknown, fun r hrep hfoot => ⟨fun ws hr hsel hone => ?_, fun w hr hsel hone => ?_⟩⟩
    · exact ⟨_, (prqreply_answers hrep).2,
        State.answerWaits_refuses (s := { s with pageReqs := s.pageReqs.erase r }) (t := t) hu hr hsel hone hfoot⟩
    · refine ⟨_, (prqreply_answers hrep).1,
        (State.answerWaits_walks (s := { s with pageReqs := s.pageReqs.erase r }) hone hr hsel hfoot).trans ?_⟩
      generalize State.resolveFor _ _ _ _ _ _ _ = res
      cases res <;> rfl
  case waiting => exact ⟨requestTimeout_ends hu hr, requestTimeout_no_request hu hr⟩
  case running => exact ⟨requestTimeout_fetch hu hr hb, requestTimeout_midway hu hr hb⟩
  case store =>
    intro may
    have hexec := requestTimeout_store hu hb hr
    exact ⟨fun hn => hexec.trans (congrArg _ (State.loseStore_dropped hb hn)),
      fun hp hm => hexec.trans (congrArg _ (State.loseStore_performed hb hp hm.1 hm.2))⟩
  case packet =>
    refine ⟨operationPacket_misrouted, fun h => ⟨fun w hw => operationPacket_host h hw, fun hw hk hd ha => ?_⟩⟩
    have hexec := operationPacket_performs h hw
    exact ⟨fun x ho => hexec.trans (congrArg _ (performOp_write hk hd ha ho)),
      fun hp ho => hexec.trans (congrArg _ (performOp_read_poisoned hk hd ha hp ho)),
      fun hp op x e ho => hexec.trans (congrArg _ (performOp_atomic_poisoned hk hd ha hp ho)),
      fun hp ho => hexec.trans (congrArg _ (performOp_read hk hd ha hp ho)),
      fun hp op x e ho => hexec.trans (congrArg _ (performOp_atomic hk hd ha hp ho))⟩
  case scrub =>
    exact ⟨patrolScrub_corrects, patrolScrub_drops, fun hk => ⟨patrolScrub_recalls hk, fun e he => errorAt_of_dir hk he⟩,
      patrolScrub_poisons, poisoned_errorAt⟩

end Sys2Proof.Machine
end

section
/-!
SUPPORT. Scalar arithmetic (R92 to R99): a word that writes one scalar register completes with the value of its function, and the
shared operand forms have the values that the rules give (O1 to O5).
-/
namespace Sys2Proof.Machine

theorem writes_of_aluBody {i : Instr} {s : State} {t : Strand} {d : BitVec 5} {f : Strand → Word64} {x : Word64}
    (hb : wordBody i = some ({ inCode := true }, aluBody d f)) (h : Ready s t) (hx : f t = x) : Writes i s t d x := by
  subst hx
  exact (exec_of_wordBody hb s).trans (runWord_alu h (.inl rfl) (Nat.zero_le _))

/-! ### Shift amounts and comparisons (R92) -/

@[simp] theorem amt6_eq (x : Word64) : amt6 x = x.toNat % 64 := BitVec.toNat_setWidth ..

@[simp] theorem amt5_eq (x : Word64) : amt5 x = x.toNat % 32 := BitVec.toNat_setWidth ..

theorem bit64_decide (p : Prop) [Decidable p] : bit64 (decide p) = if p then 1#64 else 0#64 := by simp [bit64]

theorem bit64_slt (x y : Word64) : bit64 (x.slt y) = if x.toInt < y.toInt then 1#64 else 0#64 := bit64_decide _

theorem bit64_ult (x y : Word64) : bit64 (x.ult y) = if x.toNat < y.toNat then 1#64 else 0#64 := bit64_decide _

theorem toInt_signExtend_imm (i : BitVec 16) : (i.signExtend 64).toInt = i.toInt :=
  BitVec.toInt_signExtend_of_le (by decide)

/-! ### What a write of one register leaves (R6) -/

theorem Strand.setG_frame (t : Strand) (d : BitVec 5) (x : Word64) :
    (∀ r, (t.setG d x).v r = t.v r) ∧ (∀ r, (t.setG d x).k r = t.k r) ∧ (∀ r, (t.setG d x).h r = t.h r) ∧
      (∀ r, (t.setG d x).b r = t.b r) ∧ (∀ r, (t.setG d x).w r = t.w r) ∧ { t.setG d x with regs := t.regs } = t := by
  unfold Strand.setG
  split <;> exact ⟨fun _ => rfl, fun _ => rfl, fun _ => rfl, fun _ => rfl, fun _ => rfl, rfl⟩

theorem Strand.g_setG_self {d : BitVec 5} (hd : d ≠ 0#5) (t : Strand) (x : Word64) : (t.setG d x).g d = x := by
  simp [Strand.g_setG, hd]

theorem Strand.g_setG_of_ne {d r : BitVec 5} (h : r ≠ d) (t : Strand) (x : Word64) : (t.setG d x).g r = t.g r := by
  rw [Strand.g_setG, if_neg h]
  split
  · next h0 => rw [h0, Strand.g_zero]
  · rfl

/-- A retired register write changes the running strand alone. -/
theorem State.after_putMe_frame (s : State) (t x : Strand) :
    (s.after t (s.putMe x)).me = some ((x.retire (t.pc + 4)).countWatch (s.watchStep t)) ∧
      (∀ u, u ≠ s.cur → (s.after t (s.putMe x)).strand? u = s.strand? u) ∧
      { s.after t (s.putMe x) with strands := s.strands } = s := by
  rw [State.after_putMe]
  exact ⟨State.me_putMe .., fun u hu => (State.strand?_putStrand ..).trans (if_neg hu.symm), rfl⟩

/-- Settles O1: each row is one register write with the value of its table row; what such a write leaves is said once. -/
theorem integerArithmeticCompletes : Obligations.IntegerArithmeticCompletes := by
  unfold Obligations.IntegerArithmeticCompletes
  refine ⟨fun t d x => ?register, fun s t x => ?retired, fun s t d a b h => ?rows⟩
  case register =>
    exact ⟨t.g_zero, t.setG_zero x, fun hd => t.g_setG_self hd x, fun r hr => t.g_setG_of_ne hr x, t.setG_frame d x⟩
  case retired =>
    obtain ⟨hme, hothers, hrest⟩ := s.after_putMe_frame t x
    exact ⟨hme, hothers, hrest, by simp, by simp, by simp, by simp⟩
  case rows =>
    rw [← amt6_eq, ← bit64_slt, ← bit64_ult]
    refine ⟨?_, ?_, ?_, ?_, ?_, ?_, ?_, ?_, ?_, ?_, ?_, ?_⟩ <;> exact writes_of_aluBody rfl h rfl

/-- Settles O2: lo32 takes the low words, sx32 and zx32 extend the result, and amt5 is the shift amount. -/
theorem integer32BitFormsComplete : Obligations.Integer32BitFormsComplete := by
  unfold Obligations.Integer32BitFormsComplete
  intro s t d a b h x y n
  have hn : n = amt5 (t.g b) := (amt5_eq _).symm
  rw [hn]
  refine ⟨?_, ?_, ?_, ?_, ?_, ?_, ?_, ?_, ?_, ?_, ?_, ?_, ?_, ?_⟩ <;> exact writes_of_aluBody rfl h rfl

/-- Settles O3: each form is one register write; a comparison with imm16 is one with its sign extension. -/
theorem immediatesComplete : Obligations.ImmediatesComplete := by
  unfold Obligations.ImmediatesComplete
  intro s t d a i h h5 hr x
  rw [← toInt_signExtend_imm i, ← bit64_slt, ← bit64_ult]
  refine ⟨?_, ?_, ?_, ?_, ?_, ?_, ?_, ?_, ?_, ?_, ?_, ?_, ?_, ?_, ?_, ?_, ?_, ?_, ?_⟩ <;>
    exact writes_of_aluBody rfl hr rfl

/-! ### Products and quotients (R97, R98) -/

theorem high64_natCast (n : Nat) : high64 n = BitVec.ofNat 64 (n / 2 ^ 64) := BitVec.ofInt_natCast _ _

theorem quoZ_eq (x y : Word64) : quoZ x y = if y = 0#64 then BitVec.allOnes 64 else BitVec.ofNat 64 (x.toNat / y.toNat) := by
  rw [quoZ, BitVec.udiv_def]

theorem rmdZ_eq (x y : Word64) : rmdZ x y = if y = 0#64 then x else BitVec.ofNat 64 (x.toNat % y.toNat) := by
  rw [rmdZ, BitVec.umod_def]

section
variable (x y : BitVec 32)

theorem zx32_eq : zx32 x = BitVec.ofNat 64 x.toNat := (BitVec.ofNat_toNat ..).symm

theorem sx32_quoS :
    sx32 (quoS x y) = if y = 0#32 then BitVec.allOnes 64 else (BitVec.ofInt 32 (x.toInt.tdiv y.toInt)).signExtend 64 := by
  unfold quoS
  split <;> rfl

theorem sx32_rmdS :
    sx32 (rmdS x y) = if y = 0#32 then x.signExtend 64 else (BitVec.ofInt 32 (x.toInt.tmod y.toInt)).signExtend 64 := by
  unfold rmdS
  split <;> rfl

theorem zx32_quoZ : zx32 (quoZ x y) = if y = 0#32 then 0xffffffff#64 else BitVec.ofNat 64 (x.toNat / y.toNat) := by
  unfold quoZ
  split
  · rfl
  · rw [zx32_eq, BitVec.toNat_udiv]

theorem zx32_rmdZ : zx32 (rmdZ x y) = if y = 0#32 then x.setWidth 64 else BitVec.ofNat 64 (x.toNat % y.toNat) := by
  unfold rmdZ
  split
  · rfl
  · rw [zx32_eq, BitVec.toNat_umod]

end

/-- Settles O4: each row is one register write of the product, the quotient or the remainder, the overflow by evaluation. -/
theorem multiplyDivideComplete : Obligations.MultiplyDivideComplete := by
  unfold Obligations.MultiplyDivideComplete
  intro s t d a b h x y x3 y3
  have quoS64 : Writes (.quoS64 d a b) s t d (quoS x y) := writes_of_aluBody rfl h rfl
  have rmdS64 : Writes (.rmdS64 d a b) s t d (rmdS x y) := writes_of_aluBody rfl h rfl
  have quoS32 : Writes (.quoS32 d a b) s t d (sx32 (quoS x3 y3)) := writes_of_aluBody rfl h rfl
  have rmdS32 : Writes (.rmdS32 d a b) s t d (sx32 (rmdS x3 y3)) := writes_of_aluBody rfl h rfl
  refine ⟨writes_of_aluBody rfl h rfl, writes_of_aluBody rfl h rfl, writes_of_aluBody rfl h (high64_natCast _),
    writes_of_aluBody rfl h rfl, quoS64, writes_of_aluBody rfl h (quoZ_eq x y), rmdS64, writes_of_aluBody rfl h (rmdZ_eq x y),
    writes_of_aluBody rfl h rfl, writes_of_aluBody rfl h rfl, sx32_quoS x3 y3 ▸ quoS32,
    writes_of_aluBody rfl h (zx32_quoZ x3 y3), sx32_rmdS x3 y3 ▸ rmdS32, writes_of_aluBody rfl h (zx32_rmdZ x3 y3),
    writes_of_aluBody rfl h rfl, writes_of_aluBody rfl h rfl, fun hx hy => ?_, fun hx hy => ?_⟩
  · rw [hx, hy] at quoS64 rmdS64
    exact ⟨quoS64, rmdS64⟩
  · rw [hx, hy] at quoS32 rmdS32
    exact ⟨quoS32, rmdS32⟩

end Sys2Proof.Machine
end

section
/-!
SUPPORT. The functions of major 0x0D (R99): what the counts, the reversals, the minima and the maxima are, bit by bit (O5).
-/
namespace Sys2Proof.Machine

/-! ### Counts of bits -/

/-- The count of leading zeros stops at the highest one. -/
theorem leadingZeros_spec (x : Word64) : leadingZeros x ≤ 64 ∧ (∀ j < 64, 64 - leadingZeros x ≤ j → x.getLsbD j = false) ∧
    (leadingZeros x < 64 → x.getLsbD (63 - leadingZeros x) = true) := by
  unfold leadingZeros
  by_cases h : x.toNat = 0
  · rw [if_pos h]
    exact ⟨le_rfl, fun j _ _ => by rw [BitVec.getLsbD, h, Nat.zero_testBit], fun hn => absurd hn (lt_irrefl _)⟩
  · have hlog : x.toNat.log2 < 64 := (Nat.log2_lt h).2 x.isLt
    rw [if_neg h]
    refine ⟨by omega, fun j _ hj => ?_, fun _ => ?_⟩
    · exact Nat.testBit_lt_two_pow ((Nat.log2_lt h).1 (by omega))
    · rw [show 63 - (63 - x.toNat.log2) = x.toNat.log2 by omega]
      exact Nat.testBit_log2 h

/-- The count of trailing zeros stops at the lowest one. -/
theorem trailingZeros_spec (x : Word64) : trailingZeros x ≤ 64 ∧ (∀ j < trailingZeros x, x.getLsbD j = false) ∧
    (trailingZeros x < 64 → x.getLsbD (trailingZeros x) = true) := by
  unfold trailingZeros
  cases h : (List.range 64).find? fun i => x.getLsbD i with
  | none =>
    rw [List.find?_range_eq_none] at h
    exact ⟨le_rfl, fun j hj => by simpa using h j hj, fun hn => absurd hn (lt_irrefl _)⟩
  | some n =>
    obtain ⟨hone, hlt, hbelow⟩ := List.find?_range_eq_some.1 h
    exact ⟨(List.mem_range.1 hlt).le, fun j hj => by simpa using hbelow j hj, fun _ => hone⟩

theorem foldl_count {α : Type} (p : α → Bool) (l : List α) (n : Nat) :
    l.foldl (fun a i => if p i then a + 1 else a) n = n + l.countP p := by
  induction l generalizing n with
  | nil => rfl
  | cons i l ih =>
    rw [List.foldl_cons, ih, List.countP_cons]
    split <;> omega

theorem onesCount_eq (x : Word64) : onesCount x = (List.range 64).countP fun j => x.getLsbD j :=
  (foldl_count _ _ 0).trans (Nat.zero_add _)

/-! ### Bytes and bits in reverse order -/

/-- Bit i of byte k of a list of bytes stands at place 8k + i of its number (R3). -/
theorem leNat_testBit {l : List Byte} {k i : Nat} (hk : k < l.length) (hi : i < 8) :
    (leNat l).testBit (8 * k + i) = l[k].getLsbD i := by
  induction l generalizing k with
  | nil => exact absurd hk (Nat.not_lt_zero k)
  | cons b l ih =>
    rw [leNat, Nat.add_comm b.toNat, show 256 = 2 ^ 8 from rfl, Nat.testBit_two_pow_mul_add _ b.isLt]
    cases k with
    | zero => rw [if_pos (by omega), Nat.mul_zero, Nat.zero_add]; rfl
    | succ k =>
      rw [if_neg (by omega), show 8 * (k + 1) + i - 8 = 8 * k + i by omega]
      exact ih (Nat.lt_of_succ_lt_succ hk)

theorem leBytes_getLsbD {n k i : Nat} (x : Nat) (hk : k < (leBytes n x).length) (hi : i < 8) :
    ((leBytes n x)[k]).getLsbD i = x.testBit (8 * k + i) := by
  induction n generalizing x k with
  | zero => exact absurd hk (Nat.not_lt_zero k)
  | succ n ih =>
    cases k with
    | zero => exact (BitVec.getLsbD_ofNat ..).trans (by simp [hi])
    | succ k =>
      refine (ih (x / 256) (Nat.lt_of_succ_lt_succ hk)).trans ?_
      rw [show 256 = 2 ^ 8 from rfl, Nat.testBit_div_two_pow, show 8 * k + i + 8 = 8 * (k + 1) + i by omega]

theorem byteSwap_byte (x : Word64) {k : Nat} (hk : k < 8) :
    (byteSwap x).extractLsb' (8 * k) 8 = x.extractLsb' (8 * (7 - k)) 8 := by
  refine BitVec.eq_of_getLsbD_eq fun i hi => ?_
  have hr : k < (leBytes 8 x.toNat).reverse.length := by rw [List.length_reverse, leBytes_length]; exact hk
  have hlen : (leBytes 8 x.toNat).length - 1 - k = 7 - k := by rw [leBytes_length]
  simp only [BitVec.getLsbD_extractLsb', hi, decide_true, Bool.true_and]
  rw [byteSwap, BitVec.getLsbD_ofNat, leNat_testBit hr hi, List.getElem_reverse, leBytes_getLsbD _ _ hi, hlen]
  simp [show 8 * k + i < 64 by omega, BitVec.getLsbD]

theorem reverse_getLsbD (x : Word64) {k : Nat} (hk : k < 64) : x.reverse.getLsbD k = x.getLsbD (63 - k) := by
  rw [BitVec.getLsbD_reverse, BitVec.getMsbD_eq_getLsbD, decide_eq_true hk, Bool.true_and, Nat.sub_right_comm]

/-! ### Minima and maxima -/

theorem ite_sle (x y p q : Word64) : (if x.sle y then p else q) = if x.toInt ≤ y.toInt then p else q := by simp [BitVec.sle]

theorem ite_ule (x y p q : Word64) : (if x.ule y then p else q) = if x.toNat ≤ y.toNat then p else q := by simp [BitVec.ule]

/-- Settles O5: the counts, reversals and comparisons by the lemmas above, every other row by its own definition. -/
theorem bitAndSelectFunctionsComplete : Obligations.BitAndSelectFunctionsComplete := by
  unfold Obligations.BitAndSelectFunctionsComplete
  intro s t d a b c h x y
  refine ⟨⟨_, writes_of_aluBody rfl h rfl, leadingZeros_spec x⟩, ⟨_, writes_of_aluBody rfl h rfl, trailingZeros_spec x⟩,
    writes_of_aluBody rfl h (congrArg _ (onesCount_eq x)), ⟨_, writes_of_aluBody rfl h rfl, fun k hk => byteSwap_byte x hk⟩,
    ⟨_, writes_of_aluBody rfl h rfl, fun k hk => reverse_getLsbD x hk⟩, writes_of_aluBody rfl h (ite_sle x y x y),
    writes_of_aluBody rfl h (ite_sle y x x y), writes_of_aluBody rfl h (ite_ule x y x y),
    writes_of_aluBody rfl h (ite_ule y x x y), ?_, ?_, ?_, ?_, ?_, ?_, ?_, ?_, ?_, ?_⟩ <;> exact writes_of_aluBody rfl h rfl

end Sys2Proof.Machine
end

section
/-!
SUPPORT. Reference words and their blocks (R22 to R26), and the Morton order of an element offset (R23).
-/
namespace Sys2Proof.Machine

/-! ### The parts of a reference word (R24) -/

theorem field64_zero (n : Nat) : field64 n 0 = BitVec.ofNat 64 n := rfl

theorem refL_eq (x : Word64) : refL x = x.toNat / 2 ^ 58 := by
  have := x.isLt
  rw [refL, bitsNat_eq]
  omega

theorem refE_eq (x : Word64) : refE x = x.toNat / 2 ^ 56 % 4 := bitsNat_eq ..

theorem refAddr_eq (x : Word64) : refAddr x = x.toNat % 2 ^ 56 := by
  rw [refAddr, bitsNat_eq, pow_zero, Nat.div_one]

theorem refE_lt (x : Word64) : refE x < 4 := by
  rw [refE_eq]
  exact Nat.mod_lt _ (by decide)

theorem refAddr_lt (x : Word64) : refAddr x < 2 ^ 56 := by
  rw [refAddr_eq]
  exact Nat.mod_lt _ (by decide)

/-- The three parts of a reference word stand side by side. -/
theorem mkRef_eq {l e a : Nat} (he : e < 4) (ha : a < 2 ^ 56) :
    mkRef l e a = BitVec.ofNat 64 (l * 2 ^ 58 + e * 2 ^ 56 + a) := by
  have hle : l <<< 58 ||| e <<< 56 = (4 * l + e) <<< 56 := by
    rw [← Nat.shiftLeft_add_eq_or_of_lt (by rw [Nat.shiftLeft_eq]; omega)]
    simp only [Nat.shiftLeft_eq]
    omega
  have hall : l <<< 58 ||| e <<< 56 ||| a <<< 0 = l * 2 ^ 58 + e * 2 ^ 56 + a := by
    rw [hle, Nat.shiftLeft_zero, ← Nat.shiftLeft_add_eq_or_of_lt ha]
    simp only [Nat.shiftLeft_eq]
    omega
  rw [mkRef, field64, field64, field64, ← BitVec.ofNat_or, ← BitVec.ofNat_or, hall]

theorem refCheck_eq_none_iff (x : Word64) :
    refCheck x = none ↔ refL x ≤ highestLevel (refE x) ∧ refAddr x % blockSize (refE x) (refL x) = 0 := by
  unfold refCheck
  show (if refL x > highestLevel (refE x) then _ else if refAddr x % blockSize (refE x) (refL x) ≠ 0 then _ else none) = none ↔ _
  split
  · next h => simp [Nat.not_le.2 h]
  · next h =>
    split
    · next ha => simp [ha]
    · next ha => simp [Nat.not_lt.1 h, not_not.1 ha]

/-! ### Blocks (R22, R100) -/

theorem blockSize_succ (e l : Nat) : blockSize e (l + 1) = 4 * blockSize e l := by
  unfold blockSize
  rw [show e + 2 * (l + 1) = e + 2 * l + 2 by omega, pow_add]
  omega

theorem blockSize_pos (e l : Nat) : 0 < blockSize e l := Nat.two_pow_pos _

theorem highestLevel_le (e : Nat) : highestLevel e ≤ 28 := by
  unfold highestLevel
  split
  · decide
  · split <;> decide

/-- A block of a level that there is fits the address space. -/
theorem blockSize_dvd {e l : Nat} (he : e < 4) (h : l ≤ highestLevel e) : blockSize e l ∣ 2 ^ 56 := by
  refine pow_dvd_pow 2 ?_
  unfold highestLevel at h
  split at h
  · omega
  · split at h <;> omega

/-- The block of an address of the address space ends in it. -/
theorem block_end_le {a z n : Nat} (hz : z ∣ n) (ha : a < n) : a / z * z + z ≤ n := by
  obtain ⟨k, rfl⟩ := hz
  have hk : a / z < k := Nat.div_lt_of_lt_mul ha
  calc a / z * z + z = (a / z + 1) * z := (Nat.succ_mul _ _).symm
    _ ≤ k * z := Nat.mul_le_mul_right z hk
    _ = z * k := Nat.mul_comm k z

/-! ### Rows, columns and their Morton offset (R23) -/

/-- The number whose bit j is bit g j of x, for j < n. -/
def gatherBits (x : Nat) (g : Nat → Nat) (n : Nat) : Nat := (List.range n).foldl (fun a j => a + x / 2 ^ g j % 2 * 2 ^ j) 0

theorem gatherBits_succ (x : Nat) (g : Nat → Nat) (n : Nat) :
    gatherBits x g (n + 1) = 2 ^ n * (x / 2 ^ g n % 2) + gatherBits x g n := by
  rw [gatherBits, List.range_succ, List.foldl_append, Nat.add_comm, Nat.mul_comm (2 ^ n)]
  rfl

theorem gatherBits_lt (x : Nat) (g : Nat → Nat) (n : Nat) : gatherBits x g n < 2 ^ n := by
  induction n with
  | zero => exact Nat.one_pos
  | succ n ih =>
    have hbit : x / 2 ^ g n % 2 ≤ 1 := Nat.le_of_lt_succ (Nat.mod_lt _ Nat.two_pos)
    have hle := Nat.mul_le_mul_left (2 ^ n) hbit
    rw [gatherBits_succ, pow_succ]
    omega

theorem testBit_gatherBits (x : Nat) (g : Nat → Nat) {n j : Nat} (h : j < n) : (gatherBits x g n).testBit j = x.testBit (g j) := by
  induction n with
  | zero => exact absurd h (Nat.not_lt_zero j)
  | succ n ih =>
    rw [gatherBits_succ, Nat.testBit_two_pow_mul_add _ (gatherBits_lt x g n)]
    obtain hj | rfl := Nat.lt_succ_iff_lt_or_eq.1 h
    · rw [if_pos hj, ih hj]
    · rw [if_neg (lt_irrefl _), Nat.sub_self, Nat.testBit_zero, Nat.testBit_eq_decide_div_mod_eq, Nat.mod_mod]

theorem mortonRow_eq (off : Nat) : mortonRow off = gatherBits off (fun j => 2 * j + 1) 28 := rfl

theorem mortonCol_eq (off : Nat) : mortonCol off = gatherBits off (fun j => 2 * j) 28 := rfl

/-- The Morton offset of the low n bits of a row and a column. -/
def interleave (row col n : Nat) : Nat :=
  (List.range n).foldl (fun a j => a + (row / 2 ^ j % 2) * 2 ^ (2 * j + 1) + (col / 2 ^ j % 2) * 2 ^ (2 * j)) 0

theorem morton_eq (row col : Nat) : morton row col = interleave row col 28 := rfl

section
variable (row col n : Nat)

theorem interleave_succ : interleave row col (n + 1) =
    2 ^ (2 * n) * (2 * (row / 2 ^ n % 2) + col / 2 ^ n % 2) + interleave row col n := by
  rw [interleave, List.range_succ, List.foldl_append]
  show interleave row col n + _ + _ = _
  rw [pow_succ]
  ring

theorem interleave_lt : interleave row col n < 2 ^ (2 * n) := by
  induction n with
  | zero => exact Nat.one_pos
  | succ n ih =>
    have hdig : 2 * (row / 2 ^ n % 2) + col / 2 ^ n % 2 ≤ 3 := by omega
    have hle := Nat.mul_le_mul_left (2 ^ (2 * n)) hdig
    rw [interleave_succ, show 2 * (n + 1) = 2 * n + 2 by omega, pow_add]
    omega

variable {n}

theorem testBit_interleave {j : Nat} (h : j < n) :
    (interleave row col n).testBit (2 * j + 1) = row.testBit j ∧ (interleave row col n).testBit (2 * j) = col.testBit j := by
  induction n with
  | zero => exact absurd h (Nat.not_lt_zero j)
  | succ n ih =>
    rw [interleave_succ, Nat.testBit_two_pow_mul_add _ (interleave_lt row col n), Nat.testBit_two_pow_mul_add _ (interleave_lt row col n)]
    obtain hj | rfl := Nat.lt_succ_iff_lt_or_eq.1 h
    · rw [if_pos (by omega), if_pos (by omega)]
      exact ih hj
    · rw [if_neg (by omega), if_neg (by omega), Nat.sub_self, Nat.add_sub_cancel_left]
      simp only [Nat.testBit_eq_decide_div_mod_eq, pow_one, pow_zero, Nat.div_one]
      constructor <;> congr 1 <;> simp only [eq_iff_iff] <;> omega

end

end Sys2Proof.Machine
end

section
/-!
SUPPORT. Path instructions (R100 to R102): for each the word that it makes of references that pass their checks, and its trap on a
level out of range (O6).
-/
namespace Sys2Proof.Machine

/-! ### A checked result completes or traps -/

section
variable {i : Instr} {s : State} {t : Strand} {d : BitVec 5} {f : Strand → Except (Nat × Word64) Word64}
  (hb : wordBody i = some ({ inCode := true }, pathBody d f)) (h : Ready s t)
include hb h

theorem writes_of_pathBody {v : Word64} (hf : f t = .ok v) : Writes i s t d v :=
  (exec_of_wordBody hb s).trans (runWord_done h (.inl rfl) (Nat.zero_le _) (by rw [pathBody, hf]))

theorem traps_of_pathBody {p : Nat × Word64} (hf : f t = .error p) : Traps i s t p.1 p.2 :=
  (exec_of_wordBody hb s).trans (runWord_trap h (.inl rfl) (Nat.zero_le _) (by rw [pathBody, hf]))

/-- A row with a limit writes its value within the limit and traps outside. -/
theorem writes_or_traps {c : Prop} [Decidable c] {v w : Word64} {n : Nat} (hf : f t = if c then .ok v else .error (n, w)) :
    if c then Writes i s t d v else Traps i s t n w := by
  split <;> rename_i hc
  · exact writes_of_pathBody hb h (hf.trans (if_pos hc))
  · exact traps_of_pathBody (p := (n, w)) hb h (hf.trans (if_neg hc))

end

/-! ### Operands of a path instruction -/

/-- The reference word with the element size of x at a level and an address (R24, R101). -/
def refAt (x : Word64) (l adr : Nat) : Word64 := BitVec.ofNat 64 (l * 2 ^ 58 + refE x * 2 ^ 56 + adr)

theorem mkRef_eq_refAt (x : Word64) {l adr : Nat} (h : adr < 2 ^ 56) : mkRef l (refE x) adr = refAt x l adr := mkRef_eq (refE_lt x) h

/-- An operand that names a level as a whole number is in range only where its upper bits are zero. -/
theorem levelRefused_iff (y : Word64) (l e : Nat) :
    (decide (bitsNat y 63 6 ≠ 0) || decide (bitsNat y 5 0 < l) || decide (highestLevel e < bitsNat y 5 0)) = true ↔
      ¬(l ≤ y.toNat ∧ y.toNat ≤ highestLevel e) := by
  have hy := y.isLt
  have hh := highestLevel_le e
  simp only [Bool.or_eq_true, decide_eq_true_eq, bitsNat_eq]
  omega

theorem digit_eq (y : Word64) : bitsNat y 1 0 = y.toNat % 4 := by simp [bitsNat_eq]

theorem digitLevel_eq (y : Word64) : bitsNat y 5 0 = y.toNat % 64 := by simp [bitsNat_eq]

theorem level_of_le {y : Word64} {l : Nat} (h : y.toNat ≤ highestLevel l) : bitsNat y 5 0 = y.toNat := by
  have hh := highestLevel_le l
  rw [digitLevel_eq]
  omega

section
variable {x : Word64}

theorem blockSize_refE_dvd {l : Nat} (h : l ≤ highestLevel (refE x)) : blockSize (refE x) l ∣ 2 ^ 56 := blockSize_dvd (refE_lt x) h

theorem block_start_lt (x : Word64) (z : Nat) : refAddr x / z * z < 2 ^ 56 := (Nat.div_mul_le_self ..).trans_lt (refAddr_lt x)

/-- A child of a block of a level that there is starts in the address space. -/
theorem child_lt {l k : Nat} (h : l + 1 ≤ highestLevel (refE x)) (hk : k < 4) :
    refAddr x / blockSize (refE x) (l + 1) * blockSize (refE x) (l + 1) + k * blockSize (refE x) l < 2 ^ 56 := by
  have hend := block_end_le (blockSize_refE_dvd h) (refAddr_lt x)
  have hpos := blockSize_pos (refE x) l
  have hle : k * blockSize (refE x) l ≤ 3 * blockSize (refE x) l := Nat.mul_le_mul_right _ (Nat.le_of_lt_succ hk)
  have hsucc := blockSize_succ (refE x) l
  omega

/-- Another digit in an address keeps it inside the block of four digits. -/
theorem setDigit_lt {a p k n : Nat} (hp : 4 * p ∣ n) (ha : a < n) (h0 : 0 < p) (hk : k < 4) : a - a / p % 4 * p + k * p < n := by
  have hend := block_end_le hp ha
  have hblock : a / (4 * p) * (4 * p) + a / p % 4 * p + a % p = a := by
    rw [Nat.mul_comm 4 p, ← Nat.div_div_eq_div_mul]
    calc a / p / 4 * (p * 4) + a / p % 4 * p + a % p = p * (4 * (a / p / 4) + a / p % 4) + a % p := by ring
      _ = a := by rw [Nat.div_add_mod, Nat.div_add_mod]
  have hlow := Nat.mod_lt a h0
  have hle : k * p ≤ 3 * p := Nat.mul_le_mul_right p (Nat.le_of_lt_succ hk)
  omega

/-! ### What each makes of a reference that passes its checks (R101, R102) -/

variable {y : Word64} (hx : refCheck x = none)
include hx

theorem ptrunc_eq : ptrunc x y = if refL x ≤ y.toNat ∧ y.toNat ≤ highestLevel (refE x) then
    .ok (refAt x y.toNat (refAddr x / blockSize (refE x) y.toNat * blockSize (refE x) y.toNat)) else .error (0x07, x) := by
  simp only [ptrunc, hx, levelRefused_iff, ite_not]
  refine if_ctx_congr Iff.rfl (fun h => ?_) fun _ => rfl
  rw [level_of_le h.2, mkRef_eq_refAt x (block_start_lt x _)]

theorem pparent_eq : pparent x = if refL x + 1 ≤ highestLevel (refE x) then
    .ok (refAt x (refL x + 1) (refAddr x / blockSize (refE x) (refL x + 1) * blockSize (refE x) (refL x + 1)))
    else .error (0x07, x) := by
  simp only [pparent, hx, ← Nat.not_le, ite_not, mkRef_eq_refAt x (block_start_lt x _)]

theorem pchild_eq : pchild x y = if 1 ≤ refL x then
    .ok (refAt x (refL x - 1) (refAddr x + y.toNat % 4 * blockSize (refE x) (refL x - 1))) else .error (0x07, x) := by
  obtain ⟨hl, ha⟩ := (refCheck_eq_none_iff x).1 hx
  simp only [pchild, hx, digit_eq, Nat.one_le_iff_ne_zero, ite_not]
  refine if_ctx_congr Iff.rfl (fun _ => rfl) fun h => ?_
  obtain ⟨l, hl1⟩ := Nat.exists_eq_succ_of_ne_zero h
  rw [hl1] at hl ha ⊢
  have hlt := child_lt hl (Nat.mod_lt y.toNat (by decide : 0 < 4))
  rw [Nat.div_mul_cancel (Nat.dvd_of_mod_eq_zero ha)] at hlt
  exact congrArg _ (mkRef_eq_refAt x hlt)

theorem psib_eq : psib x y = if refL x + 1 ≤ highestLevel (refE x) then
    .ok (refAt x (refL x) (refAddr x / blockSize (refE x) (refL x + 1) * blockSize (refE x) (refL x + 1) +
      y.toNat % 4 * blockSize (refE x) (refL x))) else .error (0x07, x) := by
  simp only [psib, hx, digit_eq, ← Nat.not_le, ite_not, ← blockSize_succ]
  refine if_ctx_congr Iff.rfl (fun h => ?_) fun _ => rfl
  rw [mkRef_eq_refAt x (child_lt h (Nat.mod_lt _ (by decide)))]

theorem pnext_eq : pnext x = if refAddr x + blockSize (refE x) (refL x) < 2 ^ 56 then
    .ok (refAt x (refL x) (refAddr x + blockSize (refE x) (refL x))) else .error (0x05, BitVec.ofNat 64 (refAddr x)) := by
  simp only [pnext, hx, ge_iff_le, ← Nat.not_lt, ite_not, field64_zero]
  exact if_ctx_congr Iff.rfl (fun h => by rw [mkRef_eq_refAt x h]) fun _ => rfl

theorem pdig_eq : pdig x y = if 1 ≤ y.toNat ∧ y.toNat ≤ highestLevel (refE x) then
    .ok (BitVec.ofNat 64 (refAddr x / 2 ^ (refE x + 2 * y.toNat - 2) % 4)) else .error (0x07, x) := by
  have hzero : decide (bitsNat y 5 0 = 0) = decide (bitsNat y 5 0 < 1) := by simp
  simp only [pdig, hx, hzero, levelRefused_iff, ite_not]
  exact if_ctx_congr Iff.rfl (fun h => by rw [level_of_le h.2]) fun _ => rfl

theorem psdig_eq : psdig x y = if refL x < y.toNat % 64 ∧ y.toNat % 64 ≤ highestLevel (refE x) then
    .ok (refAt x (refL x) (refAddr x - refAddr x / 2 ^ (refE x + 2 * (y.toNat % 64) - 2) % 4 * 2 ^ (refE x + 2 * (y.toNat % 64) - 2) +
      y.toNat / 256 % 4 * 2 ^ (refE x + 2 * (y.toNat % 64) - 2))) else .error (0x07, x) := by
  have hdig : bitsNat y 9 8 = y.toNat / 256 % 4 := bitsNat_eq ..
  have hcond : (decide (y.toNat % 64 ≤ refL x) || decide (highestLevel (refE x) < y.toNat % 64)) = true ↔
      ¬(refL x < y.toNat % 64 ∧ y.toNat % 64 ≤ highestLevel (refE x)) := by
    simp only [Bool.or_eq_true, decide_eq_true_eq]
    omega
  simp only [psdig, hx, digitLevel_eq, hcond, ite_not, hdig]
  refine if_ctx_congr Iff.rfl (fun h => ?_) fun _ => rfl
  obtain ⟨j, hj⟩ := Nat.exists_eq_succ_of_ne_zero (Nat.ne_of_gt (Nat.zero_lt_of_lt h.1))
  rw [hj] at h ⊢
  have hp : refE x + 2 * (j + 1) - 2 = refE x + 2 * j := by omega
  rw [Nat.succ_eq_add_one, hp]
  have hblock : 4 * 2 ^ (refE x + 2 * j) ∣ 2 ^ 56 := blockSize_succ (refE x) j ▸ blockSize_refE_dvd h.2
  exact congrArg _ (mkRef_eq_refAt x (setDigit_lt hblock (refAddr_lt x) (blockSize_pos (refE x) j) (Nat.mod_lt _ (by decide))))

theorem pin_eq (hy : refCheck y = none) : pin x y = .ok (if refAddr x ≤ refAddr y ∧
    refAddr y + blockBytes y ≤ refAddr x + blockSize (refE x) (refL x) then 1#64 else 0#64) := by
  simp only [pin, hx, hy, ← Bool.decide_and, bit64_decide]
  rfl

theorem pin_second {p : Nat × Word64} (hy : refCheck y = some p) : pin x y = .error p := by simp only [pin, hx, hy]

end

/-- A reference that fails its checks gives their trap in every row that checks it (R102). -/
theorem path_unchecked {x y : Word64} {p : Nat × Word64} (hx : refCheck x = some p) :
    ptrunc x y = .error p ∧ pparent x = .error p ∧ pchild x y = .error p ∧ psib x y = .error p ∧ pnext x = .error p ∧
      pdig x y = .error p ∧ psdig x y = .error p ∧ pin x y = .error p := by
  simp only [ptrunc, pparent, pchild, psib, pnext, pdig, psdig, pin, hx, and_self]

/-! ### PMAKE builds a word and checks it (R101) -/

section
variable {x y : Word64}

/-- The word that PMAKE builds. -/
def madeRef (x y : Word64) : Word64 :=
  BitVec.ofNat 64 (y.toNat % 64 * 2 ^ 58 + y.toNat / 64 % 4 * 2 ^ 56 + refAddr x)

theorem mkRef_eq_madeRef (x y : Word64) : mkRef (bitsNat y 5 0) (bitsNat y 7 6) (refAddr x) = madeRef x y := by
  have he : bitsNat y 7 6 = y.toNat / 64 % 4 := bitsNat_eq ..
  rw [he, digitLevel_eq]
  exact mkRef_eq (Nat.mod_lt _ (by decide)) (refAddr_lt x)

theorem pmake_upper (h : x.toNat / 2 ^ 56 ≠ 0) : pmake x y = .error (0x04, x) :=
  if_pos (mt (bitsNat_upper_eq_zero_iff x).1 (by omega))

variable (h : x.toNat / 2 ^ 56 = 0)
include h

theorem pmake_ok (hw : refCheck (madeRef x y) = none) : pmake x y = .ok (madeRef x y) := by
  have hup : bitsNat x 63 56 = 0 := (bitsNat_upper_eq_zero_iff x).2 (by omega)
  simp only [pmake, hup, mkRef_eq_madeRef, hw, ne_eq, not_true, if_false]

theorem pmake_refused {p : Nat × Word64} (hw : refCheck (madeRef x y) = some p) : pmake x y = .error p := by
  have hup : bitsNat x 63 56 = 0 := (bitsNat_upper_eq_zero_iff x).2 (by omega)
  simp only [pmake, hup, mkRef_eq_madeRef, hw, ne_eq, not_true, if_false]

end

/-! ### Rows and columns in a word (R23) -/

theorem ppack_bits (x y : Word64) : let z := BitVec.ofNat 64 (morton (bitsNat x 27 0) (bitsNat y 27 0))
    (∀ j < 28, z.getLsbD (2 * j + 1) = x.getLsbD j ∧ z.getLsbD (2 * j) = y.getLsbD j) ∧ z.toNat < 2 ^ 56 := by
  intro z
  constructor
  · intro j hj
    obtain ⟨hrow, hcol⟩ := testBit_interleave (bitsNat x 27 0) (bitsNat y 27 0) hj
    rw [BitVec.getLsbD_ofNat, BitVec.getLsbD_ofNat, morton_eq, hrow, hcol]
    simp [bitsNat_testBit, bitAt, hj, show 2 * j + 1 < 64 by omega, show 2 * j < 64 by omega]
  · rw [BitVec.toNat_ofNat]
    exact (Nat.mod_le ..).trans_lt (interleave_lt _ _ 28)

/-- Bits gathered from the address of a reference are those bits of its word. -/
theorem gatherBits_word (x : Word64) {g : Nat → Nat} (hg : ∀ j < 28, g j < 56) :
    let z := BitVec.ofNat 64 (gatherBits (refAddr x) g 28)
    (∀ j < 28, z.getLsbD j = x.getLsbD (g j)) ∧ z.toNat < 2 ^ 28 := by
  intro z
  constructor
  · intro j hj
    rw [BitVec.getLsbD_ofNat, testBit_gatherBits _ _ hj, refAddr, bitsNat_testBit]
    simp [bitAt, hg j hj, show j < 64 by omega]
  · rw [BitVec.toNat_ofNat]
    exact (Nat.mod_le ..).trans_lt (gatherBits_lt ..)

/-- Settles O6: what each row makes of its checked references, in the parts of the word that the statement names. -/
theorem pathInstructionsComplete : Obligations.PathInstructionsComplete := by
  unfold Obligations.PathInstructionsComplete
  intro s t d a b h x y L e A H Z R q
  have hL : refL x = L := refL_eq x
  have he : refE x = e := refE_eq x
  have hA : refAddr x = A := refAddr_eq x
  clear_value L e A
  subst hL he hA
  refine ⟨fun hl ha => ?checked, fun p hp => ?refused, writes_of_aluBody rfl h rfl, writes_of_aluBody rfl h rfl,
    writes_of_aluBody rfl h rfl, ?make, ⟨_, writes_of_aluBody rfl h rfl, ppack_bits x y⟩,
    ⟨_, writes_of_aluBody rfl h (congrArg _ (mortonRow_eq _)), gatherBits_word x fun j hj => by omega⟩,
    ⟨_, writes_of_aluBody rfl h (congrArg _ (mortonCol_eq _)), gatherBits_word x fun j hj => by omega⟩⟩
  case checked =>
    have hx : refCheck x = none := (refCheck_eq_none_iff x).2 ⟨hl, ha⟩
    exact ⟨writes_or_traps rfl h (ptrunc_eq hx), writes_or_traps rfl h (pparent_eq hx), writes_or_traps rfl h (pchild_eq hx),
      writes_or_traps rfl h (psib_eq hx), writes_or_traps rfl h (pnext_eq hx), writes_or_traps rfl h (pdig_eq hx),
      writes_or_traps rfl h (psdig_eq hx), fun hy => writes_of_pathBody rfl h (pin_eq hx hy),
      fun p hy => traps_of_pathBody rfl h (pin_second hx hy)⟩
  case refused =>
    obtain ⟨htrunc, hparent, hchild, hsib, hnext, hdig, hsdig, hin⟩ := path_unchecked (y := y) hp
    exact ⟨traps_of_pathBody rfl h htrunc, traps_of_pathBody rfl h hparent, traps_of_pathBody rfl h hchild,
      traps_of_pathBody rfl h hsib, traps_of_pathBody rfl h hnext, traps_of_pathBody rfl h hdig,
      traps_of_pathBody rfl h hsdig, traps_of_pathBody rfl h hin⟩
  case make =>
    intro w
    split
    · next hup => exact traps_of_pathBody (p := (4, x)) rfl h (pmake_upper hup)
    · next hup =>
      split
      · next hw => exact writes_of_pathBody rfl h (pmake_ok (not_not.1 hup) hw)
      · next p hw => exact traps_of_pathBody rfl h (pmake_refused (not_not.1 hup) hw)

end Sys2Proof.Machine
end

section
/-!
SUPPORT. Control (R96, R104 to R109, R182): how a branch and a jump answer, the waits of a strand, and its end (O7, O8).
-/
namespace Sys2Proof.Machine

/-! ### The next PC (R103 to R106) -/

theorem pcTop_eq : pcTop = 2 ^ 56 - 4 := rfl

/-- The check of a next PC refuses what no word's place is. -/
theorem pcRefused_iff (z : Int) : (decide (z < 0) || decide (z > pcTop)) = true ↔ ¬(0 ≤ z ∧ z ≤ 2 ^ 56 - 4) := by
  rw [Bool.or_eq_true, decide_eq_true_eq, decide_eq_true_eq, pcTop_eq]
  omega

/-- A jump out of the address space traps at the instruction, and nothing of it stays (R103). -/
theorem runWord_jump_outside {s s' : State} {t : Strand} {g : Gate} {body : Strand → State → Res} {z : Int} (h : Ready s t)
    (hc : g.inCode = true ∨ Plain t) (hm : g.mode ≤ t.mode) (hb : body t s = .jump s' z) (hz : ¬(0 ≤ z ∧ z ≤ 2 ^ 56 - 4)) :
    runWord g body s = .next (s.trapMe (t.countWatch (s.watchStep t)) 0x05 (BitVec.ofNat 64 t.pc)) := by
  rw [runWord_ready h hc hm, hb]
  exact congrArg _ (if_pos ((pcRefused_iff z).2 hz))

section
variable {s : State} {t : Strand} (h : Ready s t) (hp : Plain t)
include h hp

/-- A branch, taken to a legal PC, taken to an illegal one, and not taken (R104). -/
theorem branch_goes {i : Instr} {x : BitVec 16} {c : Strand → Bool} (hb : wordBody i = some ({}, branchBody x c)) {p : Prop}
    (hc : c t = true ↔ p) : let z : Int := (t.pc : Int) + 4 * x.toInt
    (p → 0 ≤ z ∧ z ≤ 2 ^ 56 - 4 → exec i s = .next (s.afterAt t z.toNat s)) ∧
    (p → ¬(0 ≤ z ∧ z ≤ 2 ^ 56 - 4) → Traps i s t 0x05 (BitVec.ofNat 64 t.pc)) ∧
    (¬p → Completes i s t s) := by
  intro z
  have htaken (hq : p) : branchBody x c t s = .jump s z := by simp [branchBody, hc.2 hq, z]
  refine ⟨fun hq ⟨h0, h1⟩ => ?_, fun hq hz => ?_, fun hn => ?_⟩ <;> refine (exec_of_wordBody hb s).trans ?_
  · exact runWord_jump h (.inr hp) (Nat.zero_le _) (htaken hq) h0 h1
  · exact runWord_jump_outside h (.inr hp) (Nat.zero_le _) (htaken hq) hz
  · exact runWord_jump h (.inr hp) (Nat.zero_le _) (branchBody_not_taken x (Bool.eq_false_iff.2 (mt hc.1 hn)) s) (by omega)
      (not_lt.1 h.pc_le)

variable {d a : BitVec 5}

/-- JAL goes to a legal PC, or traps before it writes the return address (R105). -/
theorem jal_goes (o : BitVec 21) : let z : Int := (t.pc : Int) + 4 * o.toInt
    (0 ≤ z ∧ z ≤ 2 ^ 56 - 4 →
      exec (.jal d o) s = .next (s.afterAt t z.toNat (s.putMe (t.setG d (BitVec.ofNat 64 (t.pc + 4)))))) ∧
    (¬(0 ≤ z ∧ z ≤ 2 ^ 56 - 4) → Traps (.jal d o) s t 0x05 (BitVec.ofNat 64 t.pc)) :=
  ⟨fun ⟨h0, h1⟩ => runWord_jump h (.inr hp) (Nat.zero_le _) rfl h0 h1,
    fun hz => runWord_jump_outside h (.inr hp) (Nat.zero_le _) rfl hz⟩

/-- JALR checks the base, the range and the alignment of its target in that order (R106). -/
theorem jalr_goes (i : BitVec 16) : let z : Int := ((t.g a).toNat : Int) + i.toInt
    (2 ^ 56 ≤ (t.g a).toNat → Traps (.jalr d a i) s t 0x04 (t.g a)) ∧
    ((t.g a).toNat < 2 ^ 56 → ¬(0 ≤ z ∧ z ≤ 2 ^ 56 - 4) → Traps (.jalr d a i) s t 0x05 (BitVec.ofNat 64 t.pc)) ∧
    ((t.g a).toNat < 2 ^ 56 → 0 ≤ z ∧ z ≤ 2 ^ 56 - 4 → z % 4 ≠ 0 → Traps (.jalr d a i) s t 0x03 (BitVec.ofInt 64 z)) ∧
    ((t.g a).toNat < 2 ^ 56 → 0 ≤ z ∧ z ≤ 2 ^ 56 - 4 → z % 4 = 0 →
      exec (.jalr d a i) s = .next (s.afterAt t z.toNat (s.putMe (t.setG d (BitVec.ofNat 64 (t.pc + 4)))))) := by
  intro z
  have hbase (hx : (t.g a).toNat < 2 ^ 56) : ¬bitsNat (t.g a) 63 56 ≠ 0 := not_not.2 ((bitsNat_upper_eq_zero_iff _).2 hx)
  have hin (hz : 0 ≤ z ∧ z ≤ 2 ^ 56 - 4) : ¬(decide (z < 0) || decide (z > pcTop)) = true := fun hr => (pcRefused_iff z).1 hr hz
  refine ⟨fun hx => ?_, fun hx hz => ?_, fun hx hz h4 => ?_, fun hx hz h4 => ?_⟩
  · exact runWord_trap h (.inr hp) (Nat.zero_le _) (if_pos (mt (bitsNat_upper_eq_zero_iff _).1 (Nat.not_lt.2 hx)))
  · exact runWord_trap h (.inr hp) (Nat.zero_le _) ((if_neg (hbase hx)).trans (if_pos ((pcRefused_iff z).2 hz)))
  · exact runWord_trap h (.inr hp) (Nat.zero_le _) ((if_neg (hbase hx)).trans ((if_neg (hin hz)).trans (if_pos h4)))
  · exact runWord_jump h (.inr hp) (Nat.zero_le _)
      ((if_neg (hbase hx)).trans ((if_neg (hin hz)).trans (if_neg (not_not.2 h4)))) hz.1 hz.2

/-- PCREL writes an address inside the address space and traps outside it (R96). -/
theorem pcrel_goes (i : BitVec 16) : let z : Int := (t.pc : Int) + i.toInt * 65536
    (0 ≤ z → z < 2 ^ 56 → Writes (.pcrel d i) s t d (BitVec.ofInt 64 z)) ∧
    (z < 0 ∨ 2 ^ 56 ≤ z → Traps (.pcrel d i) s t 0x05 (BitVec.ofNat 64 t.pc)) := by
  intro z
  refine ⟨fun h0 h1 => runWord_done h (.inr hp) (Nat.zero_le _) (if_neg ?_),
    fun hz => runWord_trap h (.inr hp) (Nat.zero_le _) (if_pos ?_)⟩ <;>
    simp only [Bool.or_eq_true, decide_eq_true_eq] <;> omega

end

/-- Settles O7: the six branches are one lemma with their conditions; JAL, JALR and PCREL have one each. -/
theorem branchesAndJumpsComplete : Obligations.BranchesAndJumpsComplete := by
  unfold Obligations.BranchesAndJumpsComplete
  intro s t d a b i o h hp x y tgt ok br
  exact ⟨branch_goes h hp rfl decide_eq_true_iff, branch_goes h hp rfl decide_eq_true_iff, branch_goes h hp rfl decide_eq_true_iff,
    branch_goes h hp rfl decide_eq_true_iff, branch_goes h hp rfl decide_eq_true_iff, branch_goes h hp rfl decide_eq_true_iff,
    jal_goes h hp o, jalr_goes h hp i, pcrel_goes h hp i⟩

/-! ### Waits and the end of a strand (R46, R107 to R109, R182) -/

section
variable {s : State} {t : Strand} {a : BitVec 5} (h : Ready s t) (hp : Plain t)
include h hp

theorem sleepuntil_traps (hk : t.kind = .handler ∨ t.kind = .task) : Traps (.sleepuntil a) s t 0x01 s.wordTval :=
  runWord_trap h (.inr hp) (Nat.zero_le _) (if_pos (by simp [Strand.not_mayWait hk]))

variable (hk : t.kind = .resident ∨ t.kind = .gang)
include hk

theorem sleepuntil_reached (hc : (t.g a).toNat ≤ s.cyc) : exec (.sleepuntil a) s = .next (s.after t s) :=
  runWord_done h (.inr hp) (Nat.zero_le _) ((if_neg (by simp [t.mayWait_iff.2 hk])).trans (if_pos hc))

theorem sleepuntil_parks (hc : s.cyc < (t.g a).toNat) :
    Holds (.sleepuntil a) s (s.putMe { t with run := .waiting (.sleep (t.g a).toNat), since := s.tick }) :=
  runWord_hold h (.inr hp) (Nat.zero_le _)
    ((if_neg (by simp [t.mayWait_iff.2 hk])).trans ((if_neg (Nat.not_le.2 hc)).trans (if_neg h.pc_le)))

end

/-- Nothing of a strand but barrier registers keeps it from its end (R109, R130, R151). -/
theorem State.canEnd_iff (s : State) (u : Nat) (t : Strand) : s.canEnd u t = true ↔
    t.buf = [] ∧ t.vflags = [] ∧ ∀ o ∈ (s.quad (quadOf t.core)).ops, o.uid ≠ u := by
  simp [State.canEnd, and_assoc]

/-- No barrier register of a strand is bound and not withdrawn (R41). -/
def Strand.Unbound (t : Strand) : Prop := ∀ i : BitVec 2, bitAt (t.b i) 63 = false ∨ bitAt (t.b i) 57 = true

theorem Strand.unbound_iff (t : Strand) :
    t.Unbound ↔ (t.bound 0#2 || t.bound 1#2 || t.bound 2#2 || t.bound 3#2) = false := by
  have hb (i : BitVec 2) : (bitAt (t.b i) 63 = false ∨ bitAt (t.b i) 57 = true) ↔ t.bound i = false := by
    rw [Strand.bound, Bool.and_eq_false_iff, Bool.not_eq_false']
  simp only [Strand.Unbound, hb, Bool.or_eq_false_iff]
  refine ⟨fun h => ⟨⟨⟨h _, h _⟩, h _⟩, h _⟩, fun ⟨⟨⟨h0, h1⟩, h2⟩, h3⟩ i => ?_⟩
  obtain rfl | rfl | rfl | rfl : i = 0#2 ∨ i = 1#2 ∨ i = 2#2 ∨ i = 3#2 := by decide +revert
  · exact h0
  · exact h1
  · exact h2
  · exact h3

section
variable {s : State} {u : Nat} {t : Strand}

theorem State.tryEnd_busy (hc : s.canEnd u t = false) : s.tryEnd u t = s := if_pos (by simp [hc])

section
variable (hc : s.canEnd u t = true)
include hc

theorem State.tryEnd_bound (hb : ¬t.Unbound) :
    s.tryEnd u t = (s.leaveAll u t).modStrand u fun t => { t with doom := some (doomExit, 0#64) } :=
  (if_neg (by simp [hc])).trans (if_pos (Bool.not_eq_false _ ▸ mt t.unbound_iff.2 hb))

variable (hb : t.Unbound)
include hb

theorem State.tryEnd_traffic (ht : s.barrierTraffic u = true) : s.tryEnd u t = s :=
  (if_neg (by simp [hc])).trans ((if_neg (by simp [t.unbound_iff.1 hb])).trans (if_pos ht))

theorem State.tryEnd_ends (ht : s.barrierTraffic u = false) : s.tryEnd u t = s.endStrand u t :=
  (if_neg (by simp [hc])).trans ((if_neg (by simp [t.unbound_iff.1 hb])).trans (if_neg (by simp [ht])))

end
end

section
variable {s s' : State} {t : Strand} (h : Ready s t)
include h

/-- EXIT, and in a handler HRET, answers what the attempt to end the strand gives (R109, R182). -/
theorem exit_hret_end (he : s.tryEnd s.cur t = s') : exec .exit s = .next s' ∧ (t.kind = .handler → exec .hret s = .next s') :=
  ⟨runWord_stop h (.inl rfl) (Nat.zero_le _) (congrArg Res.stop he),
    fun hk => runWord_stop h (.inl rfl) (Nat.zero_le _) ((if_neg (not_not.2 hk)).trans (congrArg Res.stop he))⟩

theorem hret_traps (hk : t.kind ≠ .handler) : Traps .hret s t 0x01 s.wordTval :=
  runWord_trap h (.inl rfl) (Nat.zero_le _) (if_pos hk)

end

/-- Settles O8: one lemma for each way that SLEEPUNTIL and the attempt to end a strand answer. -/
theorem waitsYieldAndEndComplete : Obligations.WaitsYieldAndEndComplete := by
  unfold Obligations.WaitsYieldAndEndComplete
  intro s t a h idle unbound
  have hidle : s.canEnd s.cur t = true ↔ idle := s.canEnd_iff s.cur t
  exact ⟨fun hp hk => sleepuntil_traps h hp hk, fun hp hk hc => sleepuntil_reached h hp hk hc,
    fun hp hk hc => sleepuntil_parks h hp hk hc, fun hp => runWord_done h (.inr hp) (Nat.zero_le _) rfl,
    fun hi hu ht => exit_hret_end h (State.tryEnd_ends (hidle.2 hi) hu ht),
    fun hi hu => exit_hret_end h (State.tryEnd_bound (hidle.2 hi) hu),
    fun hi hu ht => exit_hret_end h (State.tryEnd_traffic (hidle.2 hi) hu ht),
    fun hi => exit_hret_end h (State.tryEnd_busy (Bool.eq_false_iff.2 (mt hidle.1 hi))), hret_traps h⟩

end Sys2Proof.Machine
end

section
/-!
SUPPORT. Accesses of the pool aperture (R12, R110, R112): what an aperture address leads to, and that no older store comes first
while no other strand of the core has one (O10 to O16).
-/
namespace Sys2Proof.Machine

/-! ### The ways that a word answers -/

/-- The word of i runs past the first checks (R79), and its body answers r. -/
def Answers (i : Instr) (s : State) (t : Strand) (r : Res) : Prop :=
  Ready s t ∧ ∃ g body, exec i s = runWord g body s ∧ (g.inCode = true ∨ Plain t) ∧ g.mode ≤ t.mode ∧ body t s = r

section
variable {i : Instr} {s s' : State} {t : Strand} {c : Nat} {v : Word64}

theorem Answers.of_inCode {body : Strand → State → Res} (hr : Ready s t) (h : exec i s = runWord { inCode := true } body s) :
    Answers i s t (body t s) := ⟨hr, _, _, h, .inl rfl, Nat.zero_le _, rfl⟩

theorem Answers.of_plain {body : Strand → State → Res} (hr : Ready s t) (hp : Plain t) (h : exec i s = runWord {} body s) :
    Answers i s t (body t s) := ⟨hr, _, _, h, .inr hp, Nat.zero_le _, rfl⟩

theorem Answers.completes (h : Answers i s t (.done s')) : Completes i s t s' := by
  obtain ⟨hr, g, body, hi, hg, hm, hb⟩ := h
  exact hi.trans (runWord_done hr hg hm hb)

theorem Answers.holds (h : Answers i s t (.hold s')) : Holds i s s' := by
  obtain ⟨hr, g, body, hi, hg, hm, hb⟩ := h
  exact hi.trans (runWord_hold hr hg hm hb)

theorem Answers.traps (h : Answers i s t (.trap c v)) : Traps i s t c v := by
  obtain ⟨hr, g, body, hi, hg, hm, hb⟩ := h
  exact hi.trans (runWord_trap hr hg hm hb)

theorem Answers.trapsAt (h : Answers i s t (.trapIn s' c v)) : TrapsAt i s t s' c v := by
  obtain ⟨hr, g, body, hi, hg, hm, hb⟩ := h
  exact fun hme => hi.trans (runWord_trapIn hr hg hm hb hme)

end

/-! ### Older stores to the pool (R12) -/

section
variable {s : State} {t : Strand} (h : Alone s t)
include h

theorem State.earlierStore_alone (before : Nat) (banks : List Nat) : s.earlierStore t.core s.cur before banks = none := by
  refine List.findSome?_eq_none_iff.2 fun p hp => ?_
  cases hb : p.2.buf with
  | nil => rfl
  | cons e r =>
    have hother : p.1 ≠ s.cur → p.2.core ≠ t.core := fun hne => (h p hp hne).resolve_right (by simp [hb])
    refine if_neg ?_
    simp only [Bool.and_eq_true, decide_eq_true_eq, beq_iff_eq, not_and]
    exact fun ⟨⟨hne, hcore⟩, _⟩ => absurd hcore (hother hne)

theorem State.poolFirst_alone (before : Nat) (banks : List Nat) (fuel : Nat) : s.poolFirst t.core s.cur before banks fuel = s := by
  cases fuel with
  | zero => rfl
  | succ fuel => simp [State.poolFirst, State.earlierStore_alone h]

theorem State.ownPool_alone (tg : Target) (n : Nat) : s.ownPool t tg n = s := by
  cases tg with
  | pool c off => exact State.poolFirst_alone h ..
  | dry | loc | peer | host => rfl

end

/-! ### Where an aperture address leads (R110) -/

section
variable {s : State} {t : Strand} {va : Nat} {k : Acc}

theorem inAperture_iff (va : Nat) : inAperture va = true ↔ 2 ^ 56 - 2 ^ 27 ≤ va := decide_eq_true_iff

/-- The pool byte that an aperture address names to a strand. -/
def Strand.poolAt (t : Strand) (va : Nat) : Target := .pool (apertureCore (dieOf t.core) va) (va % 2 ^ 17)

variable (hin : inAperture va = true)
include hin

theorem State.answeredAt_aperture (write : Bool) : s.answeredAt t va write = true := by simp [State.answeredAt, hin]

variable (hc : s.coreIn t.vf (apertureCore (dieOf t.core) va) = true) (hk : k ≠ .fetch)
include hc hk

theorem State.reach_pool (tval : Nat) : s.reach t va k tval = .go s (t.poolAt va) :=
  State.reach_ok (by simp [resolve, hin, hc, hk, Strand.poolAt])

theorem State.scalarAccess_pool {n need : Nat} (ha : va % n = 0) (hw : weirRefuses t.weirs va n need = none) :
    s.scalarAccess t va n k need = .go s (t.poolAt va) :=
  (State.scalarAccess_answered ha hw (State.answeredAt_aperture hin _)).trans (State.reach_pool hin hc hk _)

end

/-! ### Loads of pool bytes (R112, R117) -/

theorem loads_answer {s : State} {t : Strand} (hr : Ready s t) (d a : BitVec 5) (i : BitVec 16) :
    ∀ p ∈ ([(.ldB d a i, 1, fun x => (BitVec.ofNat 8 x).signExtend 64), (.ldH d a i, 2, fun x => (BitVec.ofNat 16 x).signExtend 64),
      (.ldW d a i, 4, fun x => (BitVec.ofNat 32 x).signExtend 64), (.ldD d a i, 8, fun x => BitVec.ofNat 64 x),
      (.ldBz d a i, 1, fun x => BitVec.ofNat 64 x), (.ldHz d a i, 2, fun x => BitVec.ofNat 64 x),
      (.ldWz d a i, 4, fun x => BitVec.ofNat 64 x)] : List (Instr × Nat × (Nat → Word64))),
    Answers p.1 s t (loadBody d a i p.2.1 p.2.2 t s) := by
  simp only [List.forall_mem_cons, List.not_mem_nil, false_imp_iff, implies_true, and_true]
  exact ⟨.of_inCode hr rfl, .of_inCode hr rfl, .of_inCode hr rfl, .of_inCode hr rfl, .of_inCode hr rfl, .of_inCode hr rfl,
    .of_inCode hr rfl⟩

/-- Settles O10: an aperture access is granted at its pool, no older store comes first, and the read finds no poison. -/
theorem poolLoadsReadPoolBytes : Obligations.PoolLoadsReadPoolBytes := by
  unfold Obligations.PoolLoadsReadPoolBytes
  intro s t d a i hr halone p hp ea hb hz hin hal hap hcore hweir hto hfwd key hpoison
  have hgo : s.scalarAccess t ea p.2.1 .read 2 = .go s (t.poolAt ea) :=
    State.scalarAccess_pool ((inAperture_iff ea).2 hap) hcore (by decide) hal hweir
  have hread : (s.ownPool t (t.poolAt ea) p.2.1).loadBytes t ea (t.poolAt ea) p.2.1 = .ok s (Memory.bytes s.mem key p.2.1) := by
    rw [State.ownPool_alone halone]
    exact if_neg (Bool.not_eq_true _ ▸ hpoison)
  have hans := loads_answer hr d a i p hp
  rw [loadBody_reads (eaCheck_inside hb hz hin) hgo (by simp [Strand.poolAt]) hto hfwd hread] at hans
  exact hans.completes

end Sys2Proof.Machine
end

section
/-!
SUPPORT. The scalar stores (R114, R119, R363): one equation for each way that a store ends (O11).
-/
namespace Sys2Proof.Machine

section
variable {s s' : State} {t : Strand} {b a : BitVec 5} {i : BitVec 16} {n ea : Nat} {tg : Target}

theorem stores_answer (hr : Ready s t) (b a : BitVec 5) (i : BitVec 16) :
    ∀ p ∈ ([(.stB b a i, 1), (.stH b a i, 2), (.stW b a i, 4), (.stD b a i, 8)] : List (Instr × Nat)),
      Answers p.1 s t (storeBody b a i p.2 t s) := by
  simp only [List.forall_mem_cons, List.not_mem_nil, false_imp_iff, implies_true, and_true]
  exact ⟨.of_inCode hr rfl, .of_inCode hr rfl, .of_inCode hr rfl, .of_inCode hr rfl⟩

theorem storeBody_badAddress {c : Nat} {v : Word64} (h : eaCheck (t.g a) i.toInt n = .error (c, v)) :
    storeBody b a i n t s = .trap c v := by
  simp [storeBody, h]

/-- The entry that a store of the low n bytes of g[b] makes (R114). -/
def storeEntry (t : Strand) (b : BitVec 5) (stamp ea n : Nat) (tg : Target) : Store :=
  ⟨stamp, ea, tg, [(0, leBytes n (t.g b).toNat)]⟩

/-- A store whose request was lost was not performed either (R363): so the free value says, or no answer can come. -/
def State.storeLost (s : State) (t : Strand) (tg : Target) : Prop :=
  t.timeout = true ∧ (Config.lostPerformed s.tick = false ∨ s.unanswered (quadOf t.core) t.vf tg true = true)

section
variable (hea : eaCheck (t.g a) i.toInt n = .ok ea)
include hea

theorem storeBody_notGranted {r : Res} (h : s.scalarAccess t ea n .write 3 = .res r) : storeBody b a i n t s = r := by
  simp [storeBody, hea, h]

theorem storeBody_dry (h : s.scalarAccess t ea n .write 3 = .go s' .dry) : storeBody b a i n t s = .done (s'.dryBytes t.vf n) := by
  simp [storeBody, hea, h]

variable (hgo : s.scalarAccess t ea n .write 3 = .go s' tg) (htg : tg ≠ .dry)
include hgo htg

theorem storeBody_lost (h : s'.storeLost t tg) : storeBody b a i n t s = .done (s'.reportLost t ea tg) := by
  obtain ⟨ht, h⟩ := h
  simp [storeBody, hea, hgo, ht, h]

variable (hkept : ¬s'.storeLost t tg)
include hkept

theorem storeBody_kept : storeBody b a i n t s = if 8 ≤ t.buf.length then .hold s' else
    .done ((if t.timeout then s'.reportLost t ea tg else s').putMe { t with buf := t.buf ++ [storeEntry t b s'.tick ea n tg] }) := by
  simp [storeBody, hea, hgo, storeEntry, show ¬(t.timeout = true ∧ _) from hkept]

theorem storeBody_full (h : 8 ≤ t.buf.length) : storeBody b a i n t s = .hold s' :=
  (storeBody_kept hea hgo htg hkept).trans (if_pos h)

variable (hroom : t.buf.length < 8)
include hroom

theorem storeBody_reported (ht : t.timeout = true) : storeBody b a i n t s =
    .done ((s'.reportLost t ea tg).putMe { t with buf := t.buf ++ [storeEntry t b s'.tick ea n tg] }) := by
  rw [storeBody_kept hea hgo htg hkept, if_neg (Nat.not_le.2 hroom), if_pos ht]

omit hkept in
theorem storeBody_enters (ht : t.timeout = false) : storeBody b a i n t s =
    .done (s'.putMe { t with buf := t.buf ++ [storeEntry t b s'.tick ea n tg] }) := by
  rw [storeBody_kept hea hgo htg (fun h => by simp [h.1] at ht), if_neg (Nat.not_le.2 hroom), if_neg (by simp [ht])]

end
end

/-- Settles O11: the checks in the order of a load's, then one end of the store for each thing that the access answers. -/
theorem scalarStoresEnterTheBuffer : Obligations.ScalarStoresEnterTheBuffer := by
  unfold Obligations.ScalarStoresEnterTheBuffer
  intro s t b a i hr p hp
  have hstore := stores_answer hr b a i p hp
  obtain ⟨ins, n⟩ := p
  simp only at hstore ⊢
  have ends {r} (hb : storeBody b a i n t s = r) : Answers ins s t r := hb ▸ hstore
  refine ⟨fun hup => (ends (storeBody_badAddress (eaCheck_upper hup))).traps,
    fun hb hout => (ends (storeBody_badAddress (eaCheck_outside hb hout))).traps, fun ea hb hz hin => ?_⟩
  have hea : eaCheck (t.g a) i.toInt n = .ok ea := eaCheck_inside hb hz hin
  refine ⟨fun hmis => (ends (storeBody_notGranted hea (State.scalarAccess_misaligned hmis))).traps,
    fun hal x hw => (ends (storeBody_notGranted hea (State.scalarAccess_weir hal hw))).traps, fun hal hw =>
    ⟨fun hno => (ends (storeBody_notGranted hea (State.scalarAccess_unanswered hal hw hno))).holds, fun hans => ?answered⟩⟩
  have hreach : s.scalarAccess t ea n .write 3 = s.reach t ea .write ea := State.scalarAccess_answered hal hw hans
  refine ⟨fun s' href => (ends (storeBody_notGranted hea (hreach.trans (State.reach_refused href)))).trapsAt, fun s' tg hok => ?granted⟩
  have hgo : s.scalarAccess t ea n .write 3 = .go s' tg := hreach.trans (State.reach_ok hok)
  exact ⟨fun hdry => (ends (storeBody_dry hea (hdry ▸ hgo))).completes,
    fun htg hlost => (ends (storeBody_lost hea hgo htg hlost)).completes,
    fun htg hkept hfull => (ends (storeBody_full hea hgo htg hkept hfull)).holds,
    fun htg hkept hroom ht => (ends (storeBody_reported hea hgo htg hkept hroom ht)).completes,
    fun htg hroom ht => (ends (storeBody_enters hea hgo htg hroom ht)).completes⟩

end Sys2Proof.Machine
end

section
/-!
SUPPORT. A store that leaves the store buffer (R114, R265, R368): what its write at each kind of place leaves of memory and of the
strands (O12).
-/
namespace Sys2Proof.Machine

@[simp] theorem Target.plus_zero (tg : Target) : tg.plus 0 = tg := by cases tg <;> rfl

@[simp] theorem State.notePoison_mem (s : State) (t : Strand) (key : Nat) (left : Bool) : (s.notePoison t key left).mem = s.mem := by
  unfold State.notePoison
  split
  · rw [State.event_eq]
  · rfl

theorem State.notePoison_like (s : State) (t : Strand) (key : Nat) (left : Bool) : s.Like (s.notePoison t key left) := by
  unfold State.notePoison
  split
  · exact State.event_like (.refl s) ..
  · exact .refl s

theorem State.notePoison_eq (s : State) (t : Strand) (key : Nat) (left : Bool) :
    s.notePoison t key left = { s with dies := (s.notePoison t key left).dies } := by
  unfold State.notePoison
  split
  · exact State.event_eq ..
  · rfl

@[simp] theorem State.modForeign_mem (s : State) (q vf va n : Nat) (f : BedLine → BedLine) (g : L1Line → L1Line) :
    (s.modForeign q vf va n f g).mem = s.mem := by
  unfold State.modForeign
  extract_lets x hit s1
  have h1 : s1.mem = s.mem := by
    unfold s1
    split <;> rfl
  split <;> exact h1

/-! ### A write at its home -/

section
variable {s : State} {core vf va : Nat} {bs : List Byte}

theorem State.storeBytes_pool (s : State) (core vf va c off : Nat) (bs : List Byte) :
    s.storeBytes core vf va (.pool c off) bs = s.putHome (Target.pool c off).key bs := rfl

theorem State.storeBytes_peer (s : State) (core vf va l pa : Nat) (bs : List Byte) :
    s.storeBytes core vf va (.peer l pa) bs = (s.putHome (Target.peer l pa).key bs).emit
      (.peerOp (bitsNat (s.lptEntry vf l) 54 50) l pa bs.length) := rfl

/-- Local memory of another die is written at its home, and the quad's copies of the line take the bytes (R265, R271). -/
theorem State.storeBytes_far {pa : Nat} (hfar : dieOfPa pa ≠ dieOf core) (hl1 : s.l1 = []) :
    s.storeBytes core vf va (.loc pa) bs = (s.putHome pa bs).updateForeign (quadOf core) vf va bs := by
  simp [State.storeBytes, hfar, State.partyWrite, State.homeWrite, State.recallBytes, hl1]

end

/-! ### The oldest entry of a buffer (R114) -/

section
variable {s : State} {u : Nat} {t : Strand} {k0 va : Nat} {tg : Target} {bs : List Byte} {r : List Store}

theorem State.storeGone_of_reachable (h : s.reachable (quadOf t.core) t.vf tg = true) (hhost : ∀ a, tg ≠ .host a) :
    s.storeGone t ⟨k0, va, tg, [(0, bs)]⟩ = false := by
  have hcut : s.cutOff (quadOf t.core) t.vf tg = false := by
    simp only [State.reachable, Bool.and_eq_true, Bool.not_eq_true'] at h
    exact h.1
  have hans : s.unanswered (quadOf t.core) t.vf tg true = false := by
    cases tg with
    | host a => exact absurd rfl (hhost a)
    | dry | loc | peer | pool => exact hcut
  simp [State.storeGone, h, hans]

theorem State.performStore_segment (h : s.storeGone t ⟨k0, va, tg, [(0, bs)]⟩ = false) :
    s.performStore t ⟨k0, va, tg, [(0, bs)]⟩ = (s.notePoison t tg.key (s.storePoison t.core t.vf va tg bs.length)).storeBytes
      t.core t.vf va tg bs := by
  simp [State.performStore, h]

/-- STORE_PERFORMED of an entry that nothing holds back and that can be answered, at a place whose write leaves its bytes there. -/
theorem storePerformed_leaves (hwf : Memory.wf s.mem = true) (hu : s.strand? u = some t) (hbuf : t.buf = ⟨k0, va, tg, [(0, bs)]⟩ :: r)
    (hreach : s.reachable (quadOf t.core) t.vf tg = true) (hhost : ∀ a, tg ≠ .host a)
    (hwait : s.storeWait t.vf ⟨k0, va, tg, [(0, bs)]⟩ = none)
    (hmem : ∀ left, ((s.notePoison t tg.key left).storeBytes t.core t.vf va tg bs).mem = Memory.put s.mem tg.key bs)
    (hlike : ∀ left, s.Like ((s.notePoison t tg.key left).storeBytes t.core t.vf va tg bs)) :
    ∃ s', exec (.storePerformed u) s = .next s' ∧ s'.strand? u = some { t with buf := r } ∧
      ∀ k, Memory.read s'.mem k = if tg.key ≤ k ∧ k < tg.key + bs.length then bs.getD (k - tg.key) 0#8 else Memory.read s.mem k := by
  refine ⟨(s.performStore t ⟨k0, va, tg, [(0, bs)]⟩).popStore u, ?next, ?strand, fun k => ?memory⟩
  case next => exact congrArg Host.Outcome.next (by simp [hu, hbuf, hwait])
  all_goals rw [State.performStore_segment (State.storeGone_of_reachable hreach hhost), State.popStore]
  case strand => simp [State.strand?_modStrand, (hlike _).strand?, hu, hbuf]
  case memory => rw [State.modStrand_mem, hmem, Memory.read_put hwf]

end

/-- Settles O12: at each kind of place the entry need not wait, and its write puts the bytes there and touches no strand. -/
theorem storePerformedWritesItsBytes : Obligations.StorePerformedWritesItsBytes := by
  unfold Obligations.StorePerformedWritesItsBytes
  intro s u t k0 va tg bs r hwf hu hbuf hreach hplace
  cases tg with
  | dry | host => exact hplace.elim
  | pool c off =>
    refine storePerformed_leaves hwf hu hbuf hreach (by simp) ?_ (fun left => ?_) (fun left => ?_)
    · simp [State.storeWait, State.biasRange]
    · simp [State.storeBytes_pool]
    · exact State.putHome_like (s.notePoison_like ..) ..
  | peer l pa =>
    refine storePerformed_leaves hwf hu hbuf hreach (by simp) hplace (fun left => ?_) (fun left => ?_)
    · simp [State.storeBytes_peer]
    · exact State.emit_like (State.putHome_like (s.notePoison_like ..) (Target.peer l pa).key bs) _
  | loc pa =>
    obtain ⟨hfar, hl1, hflip, hbias⟩ := hplace
    have hwrite (left : Bool) := State.storeBytes_far (s := s.notePoison t (Target.loc pa).key left) (vf := t.vf) (va := va) (bs := bs)
      hfar (by rw [State.notePoison_eq]; exact hl1)
    refine storePerformed_leaves hwf hu hbuf hreach (by simp) ?_ (fun left => ?_) (fun left => ?_)
    · simp [State.storeWait, State.biasRange, State.biasWait, hflip, hbias]
    · rw [hwrite left, State.updateForeign, State.modForeign_mem, State.putHome_mem, State.notePoison_mem]
      rfl
    · rw [hwrite left]
      exact (State.putHome_like (s.notePoison_like ..) ..).trans (State.modForeign_like ..)

end Sys2Proof.Machine
end

section
/-!
SUPPORT. Atomics and PROMOTE (R111, R124 to R126, R128, R330): one equation for each way that an atomic ends, and PROMOTE as the
doubleword read of amo.ld (O13, O15).
-/
namespace Sys2Proof.Machine

/-! ### The ends of an atomic (R124) -/

/-- The kind of access that an atomic makes (R112): amo.ld only reads. -/
def AmoOp.acc (op : AmoOp) : Acc := if op = .ld then .sync else .rmw

/-- The strand of an atomic that has found the value old: amo.st alone returns nothing (R124). -/
def amoReturn {w : Nat} (op : AmoOp) (d : BitVec 5) (t : Strand) (old : BitVec w) : Strand :=
  if op = .st then t else t.setG d (old.signExtend 64)

/-- What an atomic answers at a place that can be reached and is not poisoned (R124). -/
def amoAct (w : Nat) (op : AmoOp) (d b : BitVec 5) (o : MOrd) (sc : Scope) (t : Strand) (ea : Nat) (tg : Target) (z : State) : Res :=
  let q := quadOf t.core
  if op = .st then .done (((z.partyWrite q t.vf ea tg (leBytes (w / 8) (t.g b).toNat)).putMe t).acquireAt q o sc)
  else
    match z.syncRead q t.vf ea tg (w / 8) with
    | .poison | .lost => .trap 0x0B (BitVec.ofNat 64 ea)
    | .wait z wt => .hold (z.parkMe t wt)
    | .ok z bs =>
      let old : BitVec w := BitVec.ofNat w (leNat bs)
      let new := amoNew w op old ((t.g b).setWidth w) ((t.g d).setWidth w)
      .done (((if op = .ld then z else z.syncWrite q t.vf ea tg (leBytes (w / 8) new.toNat)).putMe (amoReturn op d t old)).acquireAt q o sc)

/-- What an atomic answers at a place other than a dry page: a wait for the host, then what the older stores of its core leave (R12),
and there the loss of its request, or poison, before it acts (R363, R383). -/
def amoReach (w : Nat) (op : AmoOp) (d b : BitVec 5) (o : MOrd) (sc : Scope) (t : Strand) (ea : Nat) (tg : Target) (s : State) : Res :=
  let q := quadOf t.core
  match s.placeWait tg with
  | some wt => .hold ((s.askHost wt true).parkMe t wt)
  | none =>
    let z := s.ownPool t tg (w / 8)
    if z.unanswered q t.vf tg true then .trapIn (z.readLost t tg) 0x0B (BitVec.ofNat 64 ea)
    else if z.homePoison q t.vf ea tg (w / 8) (op = .st) then .trapIn z 0x0B (BitVec.ofNat 64 ea)
    else amoAct w op d b o sc t ea tg z

section
variable {w : Nat} {op : AmoOp} {d a b : BitVec 5} {o : MOrd} {sc : Scope} {s s' z : State} {t : Strand} {ea : Nat} {tg : Target}

section
variable (hea : eaCheck (t.g a) 0 (w / 8) = .ok ea) (hgo : s.scalarAccess t ea (w / 8) op.acc (weirNeed op.acc) = .go s' tg)
include hea hgo

/-- An atomic whose access is granted: the request and the buffer first, then the place (R124, R363). -/
theorem amoBody_granted : amoBody w op d a b o sc t s =
    if t.timeout then .trap 0x0B (BitVec.ofNat 64 ea) else if !t.buf.isEmpty then .hold s'
    else if tg = .dry then .done (((s'.dryBytes t.vf (w / 8)).putMe (amoReturn op d t 0#w)).acquireAt (quadOf t.core) o sc)
    else amoReach w op d b o sc t ea tg s' := by
  simp only [AmoOp.acc] at hgo
  simp only [amoBody, hea, hgo, amoReach, amoAct, amoReturn] <;> rfl

theorem amoBody_givenUp (ht : t.timeout = true) : amoBody w op d a b o sc t s = .trap 0x0B (BitVec.ofNat 64 ea) := by
  rw [amoBody_granted hea hgo, if_pos ht]

variable (ht : t.timeout = false)
include ht

theorem amoBody_waits (hb : t.buf ≠ []) : amoBody w op d a b o sc t s = .hold s' := by
  simp [amoBody_granted hea hgo, ht, hb]

variable (hb : t.buf = [])
include hb

theorem amoBody_dry (htg : tg = .dry) : amoBody w op d a b o sc t s =
    .done (((s'.dryBytes t.vf (w / 8)).putMe (amoReturn op d t 0#w)).acquireAt (quadOf t.core) o sc) := by
  simp [amoBody_granted hea hgo, ht, hb, htg]

variable (htg : tg ≠ .dry)
include htg

theorem amoBody_host {wt : Wait} (hw : s'.placeWait tg = some wt) :
    amoBody w op d a b o sc t s = .hold ((s'.askHost wt true).parkMe t wt) := by
  simp [amoBody_granted hea hgo, ht, hb, htg, amoReach, hw]

variable (hw : s'.placeWait tg = none)
include hw

theorem amoBody_lost (hz : s'.ownPool t tg (w / 8) = z) (hu : z.unanswered (quadOf t.core) t.vf tg true = true) :
    amoBody w op d a b o sc t s = .trapIn (z.readLost t tg) 0x0B (BitVec.ofNat 64 ea) := by
  simp [amoBody_granted hea hgo, ht, hb, htg, amoReach, hw, hz, hu]

theorem amoBody_poisoned (hz : s'.ownPool t tg (w / 8) = z) (hu : z.unanswered (quadOf t.core) t.vf tg true = false)
    (hp : z.homePoison (quadOf t.core) t.vf ea tg (w / 8) (op = .st) = true) :
    amoBody w op d a b o sc t s = .trapIn z 0x0B (BitVec.ofNat 64 ea) := by
  simp [amoBody_granted hea hgo, ht, hb, htg, amoReach, hw, hz, hu, hp]

theorem amoBody_acts (hz : s'.ownPool t tg (w / 8) = z) (hu : z.unanswered (quadOf t.core) t.vf tg true = false)
    (hp : z.homePoison (quadOf t.core) t.vf ea tg (w / 8) (op = .st) = false) :
    amoBody w op d a b o sc t s = amoAct w op d b o sc t ea tg z := by
  simp [amoBody_granted hea hgo, ht, hb, htg, amoReach, hw, hz, hu, hp]

end

theorem amoAct_stores (hop : op = .st) : amoAct w op d b o sc t ea tg z =
    .done (((z.partyWrite (quadOf t.core) t.vf ea tg (leBytes (w / 8) (t.g b).toNat)).putMe t).acquireAt (quadOf t.core) o sc) :=
  if_pos hop

section
variable {z' : State} {bs : List Byte} (hread : z.syncRead (quadOf t.core) t.vf ea tg (w / 8) = .ok z' bs)
include hread

theorem amoAct_reads (hop : op = .ld) : amoAct w op d b o sc t ea tg z =
    .done ((z'.putMe (t.setG d ((BitVec.ofNat w (leNat bs)).signExtend 64))).acquireAt (quadOf t.core) o sc) := by
  simp [amoAct, amoReturn, hop, hread]

theorem amoAct_writes (hst : op ≠ .st) (hld : op ≠ .ld) : amoAct w op d b o sc t ea tg z =
    let old := BitVec.ofNat w (leNat bs)
    let new := leBytes (w / 8) (amoNew w op old ((t.g b).setWidth w) ((t.g d).setWidth w)).toNat
    .done (((z'.syncWrite (quadOf t.core) t.vf ea tg new).putMe (t.setG d (old.signExtend 64))).acquireAt (quadOf t.core) o sc) := by
  simp [amoAct, amoReturn, hst, hld, hread]

end

end

/-! ### The rows of the atomics -/

/-- An atomic of two operands whose result is `new` (R124): its body is that of an operation which reads, computes and writes. -/
def IsAmo (w : Nat) (d a b : BitVec 5) (o : MOrd) (sc : Scope) (s : State) (t : Strand)
    (p : Instr × (BitVec w → BitVec w → BitVec w → BitVec w)) : Prop :=
  ∃ op, op ≠ .st ∧ op ≠ .ld ∧ Answers p.1 s t (amoBody w op d a b o sc t s) ∧ ∀ x y z, amoNew w op x y z = p.2 x y z

section
variable {w : Nat} (x y z : BitVec w)

theorem amoNew_min : amoNew w .min x y z = if x.toInt < y.toInt then x else y := by simp [amoNew, BitVec.slt]
theorem amoNew_max : amoNew w .max x y z = if y.toInt < x.toInt then x else y := by simp [amoNew, BitVec.slt]
theorem amoNew_minu : amoNew w .minu x y z = if x.toNat < y.toNat then x else y := by simp [amoNew, BitVec.ult]
theorem amoNew_maxu : amoNew w .maxu x y z = if y.toNat < x.toNat then x else y := by simp [amoNew, BitVec.ult]

end

section
variable {s : State} {t : Strand} (hr : Ready s t) (d a b : BitVec 5) (o : MOrd) (sc : Scope)
include hr

theorem IsAmo.of_op {w : Nat} {i : Instr} {f : BitVec w → BitVec w → BitVec w → BitVec w} (op : AmoOp) (hop : op ≠ .st ∧ op ≠ .ld)
    (hi : exec i s = runWord { inCode := true } (amoBody w op d a b o sc) s) (hf : ∀ x y z, amoNew w op x y z = f x y z) :
    IsAmo w d a b o sc s t (i, f) := ⟨op, hop.1, hop.2, .of_inCode hr hi, hf⟩

theorem amoW_rows : ∀ p ∈ ([(.amoAddW d a b o sc, fun x y _ => x + y), (.amoMinW d a b o sc, fun x y _ => if x.toInt < y.toInt then x else y),
    (.amoMaxW d a b o sc, fun x y _ => if y.toInt < x.toInt then x else y),
    (.amoMinuW d a b o sc, fun x y _ => if x.toNat < y.toNat then x else y),
    (.amoMaxuW d a b o sc, fun x y _ => if y.toNat < x.toNat then x else y),
    (.amoAndW d a b o sc, fun x y _ => x &&& y), (.amoOrW d a b o sc, fun x y _ => x ||| y),
    (.amoXorW d a b o sc, fun x y _ => x ^^^ y), (.amoSwapW d a b o sc, fun _ y _ => y),
    (.amoCasW d a b o sc, fun x y z => if x = z then y else x),
    (.amoFaddW d a b o sc, fun x y _ => fadd32 x y)] : List (Instr × (BitVec 32 → BitVec 32 → BitVec 32 → BitVec 32))),
    IsAmo 32 d a b o sc s t p := by
  have row {i : Instr} {f} := IsAmo.of_op hr d a b o sc (w := 32) (i := i) (f := f)
  simp only [List.forall_mem_cons, List.not_mem_nil, false_imp_iff, implies_true, and_true]
  exact ⟨row .add (by decide) rfl fun _ _ _ => rfl, row .min (by decide) rfl amoNew_min, row .max (by decide) rfl amoNew_max,
    row .minu (by decide) rfl amoNew_minu, row .maxu (by decide) rfl amoNew_maxu, row .and (by decide) rfl fun _ _ _ => rfl,
    row .or (by decide) rfl fun _ _ _ => rfl, row .xor (by decide) rfl fun _ _ _ => rfl, row .swap (by decide) rfl fun _ _ _ => rfl,
    row .cas (by decide) rfl fun _ _ _ => rfl, row .fadd (by decide) rfl fun _ _ _ => by simp [amoNew]⟩

theorem amoD_rows : ∀ p ∈ ([(.amoAddD d a b o sc, fun x y _ => x + y), (.amoMinD d a b o sc, fun x y _ => if x.toInt < y.toInt then x else y),
    (.amoMaxD d a b o sc, fun x y _ => if y.toInt < x.toInt then x else y),
    (.amoMinuD d a b o sc, fun x y _ => if x.toNat < y.toNat then x else y),
    (.amoMaxuD d a b o sc, fun x y _ => if y.toNat < x.toNat then x else y),
    (.amoAndD d a b o sc, fun x y _ => x &&& y), (.amoOrD d a b o sc, fun x y _ => x ||| y),
    (.amoXorD d a b o sc, fun x y _ => x ^^^ y), (.amoSwapD d a b o sc, fun _ y _ => y),
    (.amoCasD d a b o sc, fun x y z => if x = z then y else x)] : List (Instr × (Word64 → Word64 → Word64 → Word64))),
    IsAmo 64 d a b o sc s t p := by
  have row {i : Instr} {f} := IsAmo.of_op hr d a b o sc (w := 64) (i := i) (f := f)
  simp only [List.forall_mem_cons, List.not_mem_nil, false_imp_iff, implies_true, and_true]
  exact ⟨row .add (by decide) rfl fun _ _ _ => rfl, row .min (by decide) rfl amoNew_min, row .max (by decide) rfl amoNew_max,
    row .minu (by decide) rfl amoNew_minu, row .maxu (by decide) rfl amoNew_maxu, row .and (by decide) rfl fun _ _ _ => rfl,
    row .or (by decide) rfl fun _ _ _ => rfl, row .xor (by decide) rfl fun _ _ _ => rfl, row .swap (by decide) rfl fun _ _ _ => rfl,
    row .cas (by decide) rfl fun _ _ _ => rfl⟩

end

/-! ### How an atomic ends (R124) -/

/-- The ends of an atomic of n bytes at ea whose access is granted at tg in s': `zero` is the strand of a dry page, `done` what is so of the
state in which the place is reached and clean. -/
def AmoEnds (s : State) (t : Strand) (o : MOrd) (sc : Scope) (i : Instr) (n ea : Nat) (s' : State) (tg : Target) (st : Bool) (zero : Strand)
    (done : State → Prop) : Prop :=
  (t.timeout = true → Traps i s t 0x0B (BitVec.ofNat 64 ea)) ∧
  (t.timeout = false → t.buf ≠ [] → Holds i s s') ∧
  (t.timeout = false → t.buf = [] → tg = .dry → Completes i s t (((s'.dryBytes t.vf n).putMe zero).acquireAt (quadOf t.core) o sc)) ∧
  (t.timeout = false → t.buf = [] → tg ≠ .dry → ∀ w, s'.placeWait tg = some w → Holds i s ((s'.askHost w true).parkMe t w)) ∧
  (t.timeout = false → t.buf = [] → tg ≠ .dry → s'.placeWait tg = none →
    let q := quadOf t.core
    let z := s'.ownPool t tg n
    (z.unanswered q t.vf tg true = true → TrapsAt i s t (z.readLost t tg) 0x0B (BitVec.ofNat 64 ea)) ∧
    (z.unanswered q t.vf tg true = false → z.homePoison q t.vf ea tg n st = true → TrapsAt i s t z 0x0B (BitVec.ofNat 64 ea)) ∧
    (z.unanswered q t.vf tg true = false → z.homePoison q t.vf ea tg n st = false → done z))

theorem signExtend_zero (w v : Nat) : (0#w).signExtend v = 0#v := by
  rw [BitVec.signExtend_eq_setWidth_of_msb_false BitVec.msb_zero, BitVec.setWidth_zero]

theorem amo_ends {w : Nat} {op : AmoOp} {d a b : BitVec 5} {o : MOrd} {sc : Scope} {s s' : State} {t : Strand} {i : Instr} {ea : Nat}
    {tg : Target} {st : Bool} {zero : Strand} {done : State → Prop} (hans : Answers i s t (amoBody w op d a b o sc t s))
    (hea : eaCheck (t.g a) 0 (w / 8) = .ok ea) (hgo : s.scalarAccess t ea (w / 8) op.acc (weirNeed op.acc) = .go s' tg)
    (hst : decide (op = .st) = st) (hzero : amoReturn op d t 0#w = zero)
    (hdone : ∀ z, Answers i s t (amoAct w op d b o sc t ea tg z) → done z) : AmoEnds s t o sc i (w / 8) ea s' tg st zero done := by
  subst hst hzero
  have ends {r} (hb : amoBody w op d a b o sc t s = r) : Answers i s t r := hb ▸ hans
  exact ⟨fun ht => (ends (amoBody_givenUp hea hgo ht)).traps, fun ht hb => (ends (amoBody_waits hea hgo ht hb)).holds,
    fun ht hb htg => (ends (amoBody_dry hea hgo ht hb htg)).completes,
    fun ht hb htg wt hw => (ends (amoBody_host hea hgo ht hb htg hw)).holds, fun ht hb htg hw =>
    ⟨fun hu => (ends (amoBody_lost hea hgo ht hb htg hw rfl hu)).trapsAt,
      fun hu hp => (ends (amoBody_poisoned hea hgo ht hb htg hw rfl hu hp)).trapsAt,
      fun hu hp => hdone _ (ends (amoBody_acts hea hgo ht hb htg hw rfl hu hp))⟩⟩

section
variable {d a b : BitVec 5} {o : MOrd} {sc : Scope} {s s' : State} {t : Strand} {ea : Nat} {tg : Target}

theorem IsAmo.ends {w : Nat} {p : Instr × (BitVec w → BitVec w → BitVec w → BitVec w)} (h : IsAmo w d a b o sc s t p)
    (hea : eaCheck (t.g a) 0 (w / 8) = .ok ea) (hgo : s.scalarAccess t ea (w / 8) .rmw 3 = .go s' tg) :
    AmoEnds s t o sc p.1 (w / 8) ea s' tg false (t.setG d 0#64) fun z =>
      ∀ z' bs, z.syncRead (quadOf t.core) t.vf ea tg (w / 8) = .ok z' bs →
        let old := BitVec.ofNat w (leNat bs)
        let new := leBytes (w / 8) (p.2 old ((t.g b).setWidth w) ((t.g d).setWidth w)).toNat
        Completes p.1 s t (((z'.syncWrite (quadOf t.core) t.vf ea tg new).putMe (t.setG d (old.signExtend 64))).acquireAt (quadOf t.core) o sc) := by
  obtain ⟨op, hst, hld, hans, hnew⟩ := h
  refine amo_ends hans hea (by simpa [AmoOp.acc, hld, weirNeed] using hgo) (by simp [hst]) (by simp [amoReturn, hst, signExtend_zero])
    fun z hact z' bs hread => ?_
  rw [amoAct_writes hread hst hld] at hact
  simp only [hnew] at hact
  exact hact.completes

theorem amoLd_ends {w : Nat} {i : Instr} (h : Answers i s t (amoBody w .ld d a b o sc t s)) (hea : eaCheck (t.g a) 0 (w / 8) = .ok ea)
    (hgo : s.scalarAccess t ea (w / 8) .sync 2 = .go s' tg) :
    AmoEnds s t o sc i (w / 8) ea s' tg false (t.setG d 0#64) fun z =>
      ∀ z' bs, z.syncRead (quadOf t.core) t.vf ea tg (w / 8) = .ok z' bs →
        Completes i s t ((z'.putMe (t.setG d ((BitVec.ofNat w (leNat bs)).signExtend 64))).acquireAt (quadOf t.core) o sc) := by
  refine amo_ends h hea hgo rfl (by simp [amoReturn, signExtend_zero]) fun z hact z' bs hread => ?_
  rw [amoAct_reads hread rfl] at hact
  exact hact.completes

theorem amoSt_ends {w : Nat} {i : Instr} (h : Answers i s t (amoBody w .st d a b o sc t s)) (hea : eaCheck (t.g a) 0 (w / 8) = .ok ea)
    (hgo : s.scalarAccess t ea (w / 8) .rmw 3 = .go s' tg) :
    AmoEnds s t o sc i (w / 8) ea s' tg true t fun z =>
      Completes i s t (((z.partyWrite (quadOf t.core) t.vf ea tg (leBytes (w / 8) (t.g b).toNat)).putMe t).acquireAt (quadOf t.core) o sc) :=
  amo_ends h hea hgo rfl rfl fun _ hact => hact.completes

end

/-- What an atomic reads is what the home gives, at every place but host memory (R265). -/
theorem State.syncRead_ok {s : State} {q vf ea n : Nat} {tg : Target} (hhost : ∀ h, tg ≠ .host h) (hp : s.readPoison vf ea tg n = false)
    (hcut : s.cutOff q vf tg = false) : ∃ s', s.syncRead q vf ea tg n = .ok s' (s.homeRead vf ea tg n) ∧ s'.mem = s.mem := by
  cases tg with
  | host h => exact absurd rfl (hhost h)
  | dry | pool => exact ⟨s, by simp [State.syncRead, State.partyRead, State.homeReadRes, hp], rfl⟩
  | peer l pa => exact ⟨s.emit (.peerOp (bitsNat (s.lptEntry vf l) 54 50) l pa n), by simp [State.syncRead, State.partyRead, hcut, hp], rfl⟩
  | loc pa => exact ⟨s.refreshForeign q vf ea n, by simp [State.syncRead, State.partyRead, hcut, hp], State.modForeign_mem ..⟩

/-- Settles O13: each row is an atomic of one operation, which ends as every atomic does and acts as its row says. -/
theorem atomicsCompleteInOneStep : Obligations.AtomicsCompleteInOneStep := by
  unfold Obligations.AtomicsCompleteInOneStep
  intro s t d a b o sc hr q comes
  refine ⟨fun p hp ea s' tg hea hgo => (amoW_rows hr d a b o sc p hp).ends hea hgo, fun p hp ea s' tg hea hgo => ?double, ?load, ?store,
    fun ea n tg hhost hp hcut => State.syncRead_ok hhost hp hcut⟩
  case double =>
    have hends := (amoD_rows hr d a b o sc p hp).ends hea hgo
    simp only [BitVec.signExtend_eq, BitVec.setWidth_eq] at hends
    exact hends
  case load =>
    simp only [List.forall_mem_cons, List.not_mem_nil, false_imp_iff, implies_true, and_true]
    refine ⟨fun ea s' tg hea hgo => amoLd_ends (w := 32) (b := b) (.of_inCode hr rfl) hea hgo, fun ea s' tg hea hgo => ?_⟩
    have hends := amoLd_ends (w := 64) (i := .amoLdD d a b o sc) (b := b) (.of_inCode hr rfl) hea hgo
    simp only [BitVec.signExtend_eq] at hends
    exact hends
  case store =>
    simp only [List.forall_mem_cons, List.not_mem_nil, false_imp_iff, implies_true, and_true]
    exact ⟨fun ea s' tg hea hgo => amoSt_ends (w := 32) (d := 0#5) (.of_inCode hr rfl) hea hgo,
      fun ea s' tg hea hgo => amoSt_ends (w := 64) (d := 0#5) (.of_inCode hr rfl) hea hgo⟩

/-- PROMOTE reads as amo.ld.d does (R128). -/
theorem promoteBody_eq (d a : BitVec 5) (o : MOrd) (sc : Scope) : promoteBody d a o sc = amoBody 64 .ld d a 0#5 o sc := by
  funext t s
  simp [promoteBody, amoBody, weirNeed]

end Sys2Proof.Machine
end

section
/-!
SUPPORT. Atomics on pool bytes (R110, R124): what such an atomic leaves of memory, of the registers and of every other strand (O14).
-/
namespace Sys2Proof.Machine

/-! ### Little-endian bytes (R3) -/

theorem leBytes_leNat (l : List Byte) : leBytes l.length (leNat l) = l := by
  refine List.ext_getElem (leBytes_length ..) fun k hk hl => BitVec.eq_of_getLsbD_eq fun i hi => ?_
  rw [leBytes_getLsbD _ hk hi, leNat_testBit hl hi]

/-- The n low bytes of a number are those of what it leaves modulo 2^w, where w bits hold them. -/
theorem leBytes_mod {n w : Nat} (h : 8 * n ≤ w) (x : Nat) : leBytes n (x % 2 ^ w) = leBytes n x := by
  refine List.ext_getElem (by simp only [leBytes_length]) fun k hk hl => BitVec.eq_of_getLsbD_eq fun i hi => ?_
  have hkn : k < n := by simpa only [leBytes_length] using hk
  rw [leBytes_getLsbD _ hk hi, leBytes_getLsbD _ hl hi, Nat.testBit_mod_two_pow]
  simp [show 8 * k + i < w by omega]

theorem leBytes_ofNat_leNat {n w : Nat} (h : 8 * n ≤ w) {l : List Byte} (hl : l.length = n) :
    leBytes n (BitVec.ofNat w (leNat l)).toNat = l := by
  rw [BitVec.toNat_ofNat, leBytes_mod h, ← hl, leBytes_leNat]

/-! ### A retired effect on the running strand -/

section
variable {s z : State} {t x : Strand} {o : MOrd} {sc : Scope}

@[simp] theorem State.modStrand_cur (s : State) (u : Nat) (f : Strand → Strand) : (s.modStrand u f).cur = s.cur := by
  rw [State.modStrand_eq]

theorem State.acquireAt_eq (s : State) (q : Nat) (o : MOrd) (sc : Scope) :
    ∃ qs ls es, s.acquireAt q o sc = { s with quads := qs, l1 := ls, dir := es } := by
  unfold State.acquireAt
  split
  · exact s.acquire_eq q
  · exact ⟨_, _, _, rfl⟩

/-- The running strand when the word at the PC of t has retired and left it as x (R103). -/
def Strand.retired (t x : Strand) (watch : Nat) : Strand := (x.retire (t.pc + 4)).countWatch watch

/-- What a word leaves whose effect is memory as in z, the running strand as x, and an acquire. -/
theorem State.after_acquire (s : State) (t : Strand) {q : Nat} (hcur : z.cur = s.cur) (hstr : z.strands = s.strands) :
    (s.after t ((z.putMe x).acquireAt q o sc)).mem = z.mem ∧
      (s.after t ((z.putMe x).acquireAt q o sc)).me = some (t.retired x (s.watchStep t)) ∧
      ∀ u, u ≠ s.cur → (s.after t ((z.putMe x).acquireAt q o sc)).strand? u = s.strand? u := by
  obtain ⟨qs, ls, es, he⟩ := (z.putMe x).acquireAt_eq q o sc
  have hput (u : Nat) : ({ z.putMe x with quads := qs, l1 := ls, dir := es } : State).strand? u = if s.cur = u then some x else s.strand? u := by
    rw [← hcur, State.strand?, State.strand?, ← hstr]
    exact z.strand?_putStrand z.cur u x
  rw [he]
  refine ⟨State.modStrand_mem .., ?_, fun u hu => ?_⟩
  · rw [State.me, State.after, State.strand?_modStrand, State.modStrand_cur, if_pos rfl, hput]
    simp [hcur, Strand.retired]
  · rw [State.after, State.strand?_modStrand, hput]
    simp [hcur, Ne.symm hu]

end

/-! ### Atomics on pool bytes -/

theorem Strand.g_retired (t x : Strand) (watch : Nat) (r : BitVec 5) : (t.retired x watch).g r = x.g r := by
  simp [Strand.g, Strand.retired]

theorem Strand.setG_otherRegs (t : Strand) (r : BitVec 5) (x : Word64) : (t.setG r x).regs.v = t.regs.v ∧ (t.setG r x).regs.k = t.regs.k ∧
    (t.setG r x).regs.h = t.regs.h ∧ (t.setG r x).regs.b = t.regs.b ∧ (t.setG r x).regs.w = t.regs.w := by
  unfold Strand.setG
  split <;> exact ⟨rfl, rfl, rfl, rfl, rfl⟩

/-- What an atomic leaves on pool bytes: the n bytes at a key hold `new`, g[d] holds `res` where it is given, nothing else has changed. -/
def AmoLeaves (s : State) (t : Strand) (d : BitVec 5) (key : Nat) (ins : Instr) (n new : Nat) (res : Option Word64) : Prop :=
  ∃ s' t', exec ins s = .next s' ∧ s'.me = some t' ∧
    Memory.bytes s'.mem key n = leBytes n new ∧ (∀ k, k < key ∨ key + n ≤ k → Memory.read s'.mem k = Memory.read s.mem k) ∧
    (∀ r, t'.g r = if r ≠ 0#5 ∧ r = d then res.getD (t.g r) else t.g r) ∧ t'.regs.v = t.regs.v ∧ t'.regs.k = t.regs.k ∧
    t'.regs.h = t.regs.h ∧ t'.regs.b = t.regs.b ∧ t'.regs.w = t.regs.w ∧ t'.sys = t.sys ∧ t'.pc = t.pc + 4 ∧
    t'.buf = t.buf ∧ ∀ u, u ≠ s.cur → s'.strand? u = s.strand? u

section
variable {s z : State} {t : Strand} {d : BitVec 5} {i : Instr} {o : MOrd} {sc : Scope} {key n new : Nat} {res : Option Word64}

theorem AmoLeaves.of_completes (h : Completes i s t ((z.putMe (res.elim t (t.setG d))).acquireAt (quadOf t.core) o sc))
    (hcur : z.cur = s.cur) (hstr : z.strands = s.strands) (hnew : Memory.bytes z.mem key n = leBytes n new)
    (hout : ∀ k, k < key ∨ key + n ≤ k → Memory.read z.mem k = Memory.read s.mem k) : AmoLeaves s t d key i n new res := by
  obtain ⟨hmem, hme, hothers⟩ := State.after_acquire s t (x := res.elim t (t.setG d)) (o := o) (sc := sc) (q := quadOf t.core) hcur hstr
  refine ⟨_, _, h, hme, hmem ▸ hnew, hmem ▸ hout, fun r => ?_, ?_⟩
  · rw [Strand.g_retired]
    cases res with
    | none => simp
    | some v =>
      rw [Option.elim_some, Strand.g_setG]
      by_cases hr : r = 0#5
      · simp [hr]
      · simp [hr]
  · cases res with
    | none => simpa [Strand.retired] using hothers
    | some v =>
      obtain ⟨hv, hk, hh, hb, hw⟩ := t.setG_otherRegs d v
      simpa [Strand.retired, hv, hk, hh, hb, hw] using hothers

end

section
variable {s : State} {t : Strand} {va n : Nat}

theorem State.homePoison_pool {q vf c off : Nat} (whole : Bool) (h : s.poisoned (Target.pool c off).key n = false) :
    s.homePoison q vf va (.pool c off) n whole = false := by
  simp only [State.poisoned, List.any_eq_false] at h
  simp only [State.homePoison, List.any_eq_false]
  exact fun p hp hbad => h p hp (Bool.and_eq_true .. ▸ hbad).1

theorem State.syncRead_pool {q vf c off : Nat} (h : s.poisoned (Target.pool c off).key n = false) :
    s.syncRead q vf va (.pool c off) n = .ok s (Memory.bytes s.mem (Target.pool c off).key n) :=
  if_neg (Bool.not_eq_true _ ▸ h)

/-- A write of bytes at a key leaves them there, in canonical memory, and every other byte as it was. -/
theorem Memory.put_leaves {m : Memory} (hwf : Memory.wf m = true) (key : Nat) {bs : List Byte} {n : Nat} (hn : bs.length = n) :
    Memory.bytes (Memory.put m key bs) key n = bs ∧
      ∀ k, k < key ∨ key + n ≤ k → Memory.read (Memory.put m key bs) k = Memory.read m k := by
  subst hn
  exact ⟨Memory.bytes_put hwf .., fun k hk => by rw [Memory.read_put hwf, if_neg (by omega)]⟩

end

section
variable {w : Nat} {op : AmoOp} {d a b : BitVec 5} {o : MOrd} {sc : Scope} {s : State} {t : Strand} {i : Instr} {ea need : Nat}

/-- The place of an atomic is granted, reached and clean: an aligned aperture address of a pool of the partition, with no weir, no poison and
no store before it. -/
structure PoolPlace (s : State) (t : Strand) (a : BitVec 5) (n ea need : Nat) : Prop where
  addr : eaCheck (t.g a) 0 n = .ok ea
  aperture : inAperture ea = true
  inPart : s.coreIn t.vf (apertureCore (dieOf t.core) ea) = true
  aligned : ea % n = 0
  weirs : weirRefuses t.weirs ea n need = none
  clean : s.poisoned (t.poolAt ea).key n = false
  alone : Alone s t
  buffer : t.buf = []
  request : t.timeout = false

theorem PoolPlace.read {n : Nat} (h : PoolPlace s t a n ea need) : s.syncRead (quadOf t.core) t.vf ea (t.poolAt ea) n =
    .ok s (Memory.bytes s.mem (t.poolAt ea).key n) := State.syncRead_pool h.clean

theorem PoolPlace.acts (h : PoolPlace s t a (w / 8) ea (weirNeed op.acc)) (hans : Answers i s t (amoBody w op d a b o sc t s)) :
    Answers i s t (amoAct w op d b o sc t ea (t.poolAt ea) s) := by
  have hgo := State.scalarAccess_pool (k := op.acc) h.aperture h.inPart (by cases op <;> decide) h.aligned h.weirs
  rwa [amoBody_acts h.addr hgo h.request h.buffer (by simp [Strand.poolAt]) rfl (State.ownPool_alone h.alone ..) rfl
    (State.homePoison_pool _ h.clean)] at hans

theorem IsAmo.leaves {p : Instr × (BitVec w → BitVec w → BitVec w → BitVec w)} (h : IsAmo w d a b o sc s t p)
    (hpl : PoolPlace s t a (w / 8) ea 3) (hwf : Memory.wf s.mem = true) :
    let old := BitVec.ofNat w (leNat (Memory.bytes s.mem (t.poolAt ea).key (w / 8)))
    AmoLeaves s t d (t.poolAt ea).key p.1 (w / 8) (p.2 old ((t.g b).setWidth w) ((t.g d).setWidth w)).toNat (some (old.signExtend 64)) := by
  obtain ⟨op, hst, hld, hans, hnew⟩ := h
  have hact := PoolPlace.acts (op := op) (by simpa [AmoOp.acc, hld, weirNeed] using hpl) hans
  rw [amoAct_writes hpl.read hst hld] at hact
  simp only [hnew] at hact
  obtain ⟨hin, hout⟩ := Memory.put_leaves hwf (t.poolAt ea).key (leBytes_length (w / 8) _)
  exact .of_completes (res := some _) hact.completes rfl rfl hin hout

theorem amoLd_leaves (hans : Answers i s t (amoBody w .ld d a b o sc t s)) (hpl : PoolPlace s t a (w / 8) ea 2) (hw : 8 * (w / 8) ≤ w) :
    let old := BitVec.ofNat w (leNat (Memory.bytes s.mem (t.poolAt ea).key (w / 8)))
    AmoLeaves s t d (t.poolAt ea).key i (w / 8) old.toNat (some (old.signExtend 64)) := by
  have hact := PoolPlace.acts (op := .ld) hpl hans
  rw [amoAct_reads hpl.read rfl] at hact
  exact .of_completes (res := some _) hact.completes rfl rfl (leBytes_ofNat_leNat hw (Memory.length_bytes ..)).symm fun _ _ => rfl

theorem amoSt_leaves (r : BitVec 5) (hans : Answers i s t (amoBody w .st d a b o sc t s)) (hpl : PoolPlace s t a (w / 8) ea 3)
    (hwf : Memory.wf s.mem = true) (hw : 8 * (w / 8) ≤ w) :
    AmoLeaves s t r (t.poolAt ea).key i (w / 8) ((t.g b).setWidth w).toNat none := by
  have hact := PoolPlace.acts (op := .st) hpl hans
  rw [amoAct_stores rfl] at hact
  obtain ⟨hin, hout⟩ := Memory.put_leaves hwf (t.poolAt ea).key (leBytes_length (w / 8) (t.g b).toNat)
  refine .of_completes (res := none) hact.completes rfl rfl ?_ hout
  rw [BitVec.toNat_setWidth, leBytes_mod hw]
  exact hin

end

/-- Settles O14: the place of the atomic is granted and clean, so the row acts there, and its completion leaves what AmoLeaves says. -/
theorem atomicsOnPoolChangeTheirBytesOnly : Obligations.AtomicsOnPoolChangeTheirBytesOnly := by
  unfold Obligations.AtomicsOnPoolChangeTheirBytesOnly
  intro s t d a b o sc hr halone hwf hbuf hto ea hg hap htop hcore key effect old4 old8
  have place {n need : Nat} (hn : ea + n ≤ 2 ^ 56) (hal : ea % n = 0) (hp : s.poisoned key n = false)
      (hw : weirRefuses t.weirs ea n need = none) : PoolPlace s t a n ea need :=
    ⟨eaCheck_inside (by omega) (by simp [hg]) hn, (inAperture_iff ea).2 hap, hcore, hal, hw, hp, halone, hbuf, hto⟩
  refine ⟨fun hal hp => ?word, fun hal hp => ?double⟩
  case word =>
    have place4 {need : Nat} := place (n := 4) (need := need) (by omega) hal hp
    exact ⟨fun hw => ⟨fun p hp => (amoW_rows hr d a b o sc p hp).leaves (place4 hw) hwf,
      amoSt_leaves (w := 32) (d := 0#5) (i := .amoStW a b o sc) d (.of_inCode hr rfl) (place4 hw) hwf (by decide)⟩,
      fun hw => amoLd_leaves (w := 32) (i := .amoLdW d a b o sc) (b := b) (.of_inCode hr rfl) (place4 hw) (by decide)⟩
  case double =>
    have place8 {need : Nat} := place (n := 8) (need := need) (by omega) hal hp
    refine ⟨fun hw => ⟨fun p hp => ?_, ?_⟩, fun hw => ?_⟩
    · have hleaves := (amoD_rows hr d a b o sc p hp).leaves (place8 hw) hwf
      simp only [BitVec.signExtend_eq, BitVec.setWidth_eq] at hleaves
      exact hleaves
    · have hleaves := amoSt_leaves (w := 64) (d := 0#5) (i := .amoStD a b o sc) d (.of_inCode hr rfl) (place8 hw) hwf (by decide)
      simp only [BitVec.setWidth_eq] at hleaves
      exact hleaves
    · have hleaves := amoLd_leaves (w := 64) (i := .amoLdD d a b o sc) (b := b) (.of_inCode hr rfl) (place8 hw) (by decide)
      simp only [BitVec.signExtend_eq] at hleaves
      exact hleaves

end Sys2Proof.Machine
end

section
/-!
SUPPORT. Fences, PROMOTE and weirs (R127 to R129, R271): one equation for each way that such a word ends (O15).
-/
namespace Sys2Proof.Machine

section
variable {s : State} {t : Strand} {o : MOrd} {sc : Scope}

/-! ### FENCE and PROMOTE -/

theorem fenceBody_waits (h : 2 ≤ scopeNum sc ∨ o = .rlx) (hb : t.buf ≠ []) : fenceBody o sc t s = .hold s :=
  if_pos (by simpa [hb] using h)

theorem fenceBody_completes (h : t.buf = [] ∨ (scopeNum sc < 2 ∧ o ≠ .rlx)) : fenceBody o sc t s =
    .done (if o ≠ .rel ∧ 3 ≤ scopeNum sc then s.acquire (quadOf t.core) else s) := by
  have hgo : ¬((decide (2 ≤ scopeNum sc) || decide (o = .rlx)) && !t.buf.isEmpty) = true := by
    rcases h with hb | ⟨hs, ho⟩
    · simp [hb]
    · simp [ho, Nat.not_le.2 hs]
  refine (if_neg hgo).trans (congrArg Res.done ?_)
  by_cases ho : o = .rel
  · simp [ho]
  · simp [ho, State.acquireAt, ordAcquires]

theorem promote_answers (hr : Ready s t) (hp : Plain t) (d a : BitVec 5) :
    Answers (.promote d a o sc) s t (amoBody 64 .ld d a 0#5 o sc t s) :=
  promoteBody_eq d a o sc ▸ Answers.of_plain hr hp rfl

/-! ### Weirs (R129) -/

theorem wsetBody_refuses {w : BitVec 3} {a b : BitVec 5} {p : Nat × Word64} (h : refCheck (t.g a) = some p) :
    wsetBody w a b t s = .trap p.1 p.2 := by simp [wsetBody, h]

theorem wsetBody_sets {w : BitVec 3} {a b : BitVec 5} (h : refCheck (t.g a) = none) :
    wsetBody w a b t s = .done (s.putMe (t.setW w ⟨t.g a, (t.g b).setWidth 2⟩)) := by simp [wsetBody, h]

/-- The weirs that WQRY looks at for a block: those that are on and overlap it (R129). -/
def Strand.weirsOn (t : Strand) (x : Word64) : List Weir :=
  t.regs.w.toList.filter fun w => w.rights ≠ 0#2 && refAddr w.ref < refAddr x + blockBytes x && refAddr x < refAddr w.ref + blockBytes w.ref

theorem Strand.mem_weirsOn (t : Strand) (x : Word64) (w : Weir) : w ∈ t.weirsOn x ↔ w ∈ t.regs.w.toList ∧ w.rights ≠ 0#2 ∧
    refAddr w.ref < refAddr x + blockBytes x ∧ refAddr x < refAddr w.ref + blockBytes w.ref := by
  simp [Strand.weirsOn, and_assoc]

/-- The least rights of weirs, 3 where there are none (R129). -/
def leastRights (ws : List Weir) : Nat := ws.foldl (fun m w => min m w.rights.toNat) 3

theorem wqryBody_refuses {d a : BitVec 5} {p : Nat × Word64} (h : refCheck (t.g a) = some p) :
    wqryBody d a t s = .trap p.1 p.2 := by simp [wqryBody, h]

theorem wqryBody_writes {d a : BitVec 5} (h : refCheck (t.g a) = none) : wqryBody d a t s = .done (s.putMe (t.setG d
    (field64 (leastRights (t.weirsOn (t.g a))) 0 ||| field64 (if (t.weirsOn (t.g a)).isEmpty then 0 else 1) 8))) := by
  simp [wqryBody, h, leastRights, Strand.weirsOn]

/-- A fold of minima is a bound of all, and is the start or one of them. -/
theorem foldl_min_rights (ws : List Weir) (m : Nat) :
    let r := ws.foldl (fun m w => min m w.rights.toNat) m
    r ≤ m ∧ (∀ w ∈ ws, r ≤ w.rights.toNat) ∧ (r = m ∨ ∃ w ∈ ws, r = w.rights.toNat) := by
  induction ws generalizing m with
  | nil => simp
  | cons w ws ih =>
    obtain ⟨hle, hall, hone⟩ := ih (min m w.rights.toNat)
    simp only [List.foldl_cons, List.forall_mem_cons]
    refine ⟨by omega, ⟨by omega, hall⟩, ?_⟩
    rcases hone with h | ⟨x, hx, h⟩
    · rcases Nat.le_total m w.rights.toNat with hm | hm
      · exact .inl (h.trans (min_eq_left hm))
      · exact .inr ⟨w, List.mem_cons_self, h.trans (min_eq_right hm)⟩
    · exact .inr ⟨x, List.mem_cons_of_mem _ hx, h⟩

/-- Of weirs that are on, the least rights are those of one of them and no more than those of any, and not 0. -/
theorem leastRights_of_mem {ws : List Weir} (hon : ∀ x ∈ ws, x.rights ≠ 0#2) {w : Weir} (hw : w ∈ ws) :
    (∃ x ∈ ws, leastRights ws = x.rights.toNat) ∧ (∀ x ∈ ws, leastRights ws ≤ x.rights.toNat) ∧ 0 < leastRights ws ∧
      leastRights ws ≤ 3 := by
  obtain ⟨hle, hall, hone⟩ := foldl_min_rights ws 3
  change leastRights ws ≤ 3 at hle
  change ∀ x ∈ ws, leastRights ws ≤ _ at hall
  change leastRights ws = 3 ∨ _ at hone
  have hex : ∃ x ∈ ws, leastRights ws = x.rights.toNat := by
    refine hone.elim (fun h => ⟨w, hw, ?_⟩) id
    have := hall w hw
    omega
  obtain ⟨x, hx, h⟩ := hex
  have hpos : x.rights.toNat ≠ 0 := fun h0 => hon x hx (BitVec.eq_of_toNat_eq h0)
  exact ⟨⟨x, hx, h⟩, hall, by omega, hle⟩

theorem field64_flag {m : Nat} (h : m ≤ 3) : field64 m 0 ||| field64 1 8 = BitVec.ofNat 64 (256 + m) := by
  interval_cases m <;> decide

/-- The word of WQRY: 3 where no weir counts, else the least rights with bit 8 set (R129). -/
theorem wqry_word {ws : List Weir} (hon : ∀ x ∈ ws, x.rights ≠ 0#2) : ∃ z : Nat,
    field64 (leastRights ws) 0 ||| field64 (if ws.isEmpty then 0 else 1) 8 = BitVec.ofNat 64 z ∧ ((¬∃ x, x ∈ ws) → z = 3) ∧
      ((∃ x, x ∈ ws) → 256 < z ∧ (∃ x, x ∈ ws ∧ z = 256 + x.rights.toNat) ∧ ∀ x, x ∈ ws → z ≤ 256 + x.rights.toNat) := by
  cases hws : ws with
  | nil => exact ⟨3, by decide, by simp⟩
  | cons w r =>
    rw [← hws]
    have hw : w ∈ ws := hws ▸ List.mem_cons_self
    obtain ⟨⟨x, hx, hleast⟩, hall, hpos, hle⟩ := leastRights_of_mem hon hw
    refine ⟨256 + leastRights ws, ?_, fun hno => absurd ⟨w, hw⟩ hno, fun _ => ⟨by omega, ⟨x, hx, by omega⟩, fun y hy => ?_⟩⟩
    · rw [hws, List.isEmpty_cons, if_neg Bool.false_ne_true, ← hws, field64_flag hle]
    · have := hall y hy
      omega

end

/-- Settles O15: one equation for each way that a fence or a weir instruction ends; PROMOTE ends as amo.ld.d does. -/
theorem fencesPromoteAndWeirsComplete : Obligations.FencesPromoteAndWeirsComplete := by
  unfold Obligations.FencesPromoteAndWeirsComplete
  intro s t d a b w o sc hr
  have fence {r} (hb : fenceBody o sc t s = r) : Answers (.fence o sc) s t r := hb ▸ .of_inCode hr rfl
  refine ⟨fun h hb => (fence (fenceBody_waits h hb)).holds, fun h => (fence (fenceBody_completes h)).completes,
    fun hp ea s' tg hea hgo hto => ?promote, fun hp halone ea hg hal hap htop hcore hweir hbuf hto => ?pool, fun hp => ?weirs⟩
  case promote =>
    obtain ⟨-, hwaits, hdry, hhost, hreached⟩ := amoLd_ends (promote_answers (o := o) (sc := sc) hr hp d a) hea hgo
    simp only [BitVec.signExtend_eq] at hreached
    exact ⟨hwaits hto, hdry hto, hhost hto, hreached hto⟩
  case pool =>
    intro key hclean
    have hpl : PoolPlace s t a 8 ea 2 :=
      ⟨eaCheck_inside (by omega) (by simp [hg]) (by omega), (inAperture_iff ea).2 hap, hcore, hal, hweir, hclean, halone, hbuf, hto⟩
    have hact := PoolPlace.acts (w := 64) (op := .ld) hpl (promote_answers (o := o) (sc := sc) hr hp d a)
    rw [amoAct_reads hpl.read rfl, BitVec.signExtend_eq] at hact
    exact hact.completes
  case weirs =>
    have wset {r} (hb : wsetBody w a b t s = r) : Answers (.wset w a b) s t r := hb ▸ .of_plain hr hp rfl
    have wqry {r} (hb : wqryBody d a t s = r) : Answers (.wqry d a) s t r := hb ▸ .of_plain hr hp rfl
    refine ⟨fun p h => ⟨(wset (wsetBody_refuses h)).traps, (wqry (wqryBody_refuses h)).traps⟩,
      fun h => (wset (wsetBody_sets h)).completes, runWord_done hr (.inr hp) (Nat.zero_le _) rfl, runWord_alu hr (.inr hp) (Nat.zero_le _),
      runWord_alu hr (.inr hp) (Nat.zero_le _), fun h => ?_⟩
    obtain ⟨z, hz, hnone, hsome⟩ := wqry_word (ws := t.weirsOn (t.g a)) fun x hx => ((t.mem_weirsOn _ x).1 hx).2.1
    have hwrites := (wqry (wqryBody_writes h)).completes
    rw [hz] at hwrites
    simp only [Strand.mem_weirsOn] at hnone hsome
    exact ⟨z, hwrites, hnone, hsome⟩

end Sys2Proof.Machine
end

section
/-!
SUPPORT. Block operations and cache maintenance (R35, R36, R120 to R123): one equation for each way that such a word ends, and what a
block moved within pools leaves (O16).
-/
namespace Sys2Proof.Machine

/-! ### The checks and the resume point (R35, R121) -/

/-- The offset at which a block operation at the PC goes on, where it has been interrupted (R36). -/
def Strand.resumePoint (t : Strand) : Option Nat := if t.prog.at_ = t.pc then t.prog.block else none

theorem Strand.resumePoint_none {t : Strand} (h : t.prog.at_ ≠ t.pc ∨ t.prog.block = none) : t.resumePoint = none := by
  unfold Strand.resumePoint
  split
  · exact h.resolve_left (not_not.2 ‹_›)
  · rfl

theorem Strand.resumePoint_some {t : Strand} {off : Nat} (hat : t.prog.at_ = t.pc) (h : t.prog.block = some off) :
    t.resumePoint = some off := (if_pos hat).trans h

/-- The strand of a block operation that stays at its instruction, with the resume point one granule further (R35). -/
def Strand.resumeAt (off : Nat) (t : Strand) : Strand :=
  { t with timeout := false, prog := { t.prog with at_ := t.pc, block := some off } }

section
variable {op : BlockOp} {x y p : Word64} {b : BlockArgs} {s s' : State} {t : Strand} {off : Nat}

theorem blockBody_refuses (hres : t.resumePoint = none) {c : Nat × Word64} (h : blockChecks op x y p s t = some c) :
    blockBody op x y p b t s = .trap c.1 c.2 := by
  simp only [Strand.resumePoint] at hres
  simp [blockBody, hres, h]

/-- A block operation whose granule at the resume point is done: it retires with the last one, and else stays (R35). -/
theorem blockBody_moves (hr : Ready s t) (hres : t.resumePoint = none ∧ blockChecks op x y p s t = none ∧ off = 0 ∨ t.resumePoint = some off)
    (h : blockGranule op b off (min b.size 65536) t s = .inr s') : blockBody op x y p b t s =
      if b.size ≤ off + min b.size 65536 then .done s'
      else .hold (s'.modStrand s'.cur (Strand.resumeAt (off + min b.size 65536))) := by
  have hpc := hr.pc_le
  simp only [Strand.resumePoint] at hres
  rcases hres with ⟨hres, hchecks, rfl⟩ | hres
  · simp only [blockBody, hres, hchecks, Option.getD_none, h, if_neg hpc, ge_iff_le]
    rfl
  · simp only [blockBody, hres, Option.getD_some, h, if_neg hpc, ge_iff_le]
    rfl

end

section
variable {s : State} {t : Strand} (hr : Ready s t) (hp : Plain t) (d a : BitVec 5)
include hr hp

theorem bld_answers : Answers (.bld d a) s t (blockBody .bld (t.g a) (t.g a) (t.g d)
    ⟨poolVa t.core (t.g d).toNat, refAddr (t.g a), blockBytes (t.g a), refE (t.g a), 0⟩ t s) := .of_plain (body := bldBody d a) hr hp rfl

theorem bst_answers : Answers (.bst d a) s t (blockBody .bst (t.g d) (t.g d) (t.g a)
    ⟨refAddr (t.g d), poolVa t.core (t.g a).toNat, blockBytes (t.g d), refE (t.g d), 0⟩ t s) := .of_plain (body := bstBody d a) hr hp rfl

theorem bcopy_answers : Answers (.bcopy d a) s t (blockBody .bcopy (t.g d) (t.g a) 0#64
    ⟨refAddr (t.g d), refAddr (t.g a), blockBytes (t.g d), refE (t.g d), 0⟩ t s) := .of_plain (body := bcopyBody d a) hr hp rfl

theorem bfill_answers : Answers (.bfill d a) s t (blockBody .bfill (t.g d) (t.g d) 0#64
    ⟨refAddr (t.g d), 0, blockBytes (t.g d), refE (t.g d), (t.g a).toNat⟩ t s) := .of_plain (body := bfillBody d a) hr hp rfl

theorem bzero_answers : Answers (.bzero d) s t (blockBody .bzero (t.g d) (t.g d) 0#64
    ⟨refAddr (t.g d), 0, blockBytes (t.g d), refE (t.g d), 0⟩ t s) := .of_plain (body := bzeroBody d) hr hp rfl

end

/-! ### Writes of a pool line by line (R115) -/

/-- Where piece i of a run of bytes at an address begins, counted from the address: at the address itself, then line by line. -/
def pieceStart (va i : Nat) : Nat := 64 * i - va % 64

theorem linePieces_eq (va : Nat) (bs : List Byte) : linePieces va bs = (List.range (ceilDiv (va % 64 + bs.length) 64)).map fun i =>
    (pieceStart va i, (bs.drop (pieceStart va i)).take (pieceStart va (i + 1) - pieceStart va i)) := by
  unfold linePieces pieceStart
  refine List.map_congr_left fun i _ => ?_
  have hlo : (if i = 0 then 0 else 64 * i - va % 64) = 64 * i - va % 64 := by split <;> omega
  simp only [hlo]

theorem pieceStart_last (va n : Nat) : n ≤ pieceStart va (ceilDiv (va % 64 + n) 64) := by
  simp only [pieceStart, ceilDiv]
  omega

section
variable {s : State} {t : Strand} {va c off : Nat} {bs : List Byte}

/-- One piece of a write to a pool: the event of a granule that stays poisoned, and the bytes at their home (R115). -/
def State.poolPiece (t : Strand) (va c off : Nat) (s : State) (p : Nat × List Byte) : State :=
  (s.notePoison t (Target.pool c (off + p.1)).key (s.homePoison (quadOf t.core) t.vf (va + p.1) (.pool c (off + p.1)) p.2.length true)).putHome
    (Target.pool c (off + p.1)).key p.2

theorem State.partyStore_pool (s : State) (t : Strand) (va c off : Nat) (bs : List Byte) :
    s.partyStore t va (.pool c off) bs = (linePieces va bs).foldl (State.poolPiece t va c off) s := rfl

/-- s has the strands of b, and the memory of b with the first n of some bytes at a key. -/
def State.WroteTo (b : State) (key : Nat) (bs : List Byte) (n : Nat) (s : State) : Prop :=
  s.cur = b.cur ∧ s.strands = b.strands ∧ Memory.wf s.mem = true ∧
    ∀ j, Memory.read s.mem j = if key ≤ j ∧ j < key + min n bs.length then bs.getD (j - key) 0#8 else Memory.read b.mem j

theorem State.WroteTo.whole {b : State} {key : Nat} (h : b.WroteTo key bs bs.length s) : s.cur = b.cur ∧ s.strands = b.strands ∧
    ∀ j, Memory.read s.mem j = if key ≤ j ∧ j < key + bs.length then bs.getD (j - key) 0#8 else Memory.read b.mem j := by
  obtain ⟨hcur, hstr, -, hread⟩ := h
  exact ⟨hcur, hstr, by simpa only [min_self] using hread⟩

theorem State.poolPiece_mem (s : State) (t : Strand) (va c off : Nat) (p : Nat × List Byte) :
    (s.poolPiece t va c off p).mem = Memory.put s.mem ((Target.pool c off).key + p.1) p.2 := by
  rw [State.poolPiece, State.putHome_mem, State.notePoison_mem]
  simp only [Target.key, Nat.add_assoc]

theorem State.poolPiece_wroteTo {b : State} {lo hi : Nat} (hle : lo ≤ hi) (h : b.WroteTo (Target.pool c off).key bs lo s) :
    b.WroteTo (Target.pool c off).key bs hi (s.poolPiece t va c off (lo, (bs.drop lo).take (hi - lo))) := by
  obtain ⟨hcur, hstr, hwf, hread⟩ := h
  refine ⟨?cur, ?strands, ?wf, fun j => ?read⟩
  case cur => rw [State.poolPiece, State.putHome_cur, State.notePoison_eq]; exact hcur
  case strands => exact (State.putHome_like (s.notePoison_like ..) ..).1.trans hstr
  all_goals rw [State.poolPiece_mem]
  case wf => exact Memory.put_wf hwf ..
  case read =>
    rw [Memory.read_put hwf, hread]
    simp only [List.length_take, List.length_drop, List.getD_eq_getElem?_getD]
    generalize (Target.pool c off).key = key
    by_cases hin : key + lo ≤ j ∧ j < key + lo + min (hi - lo) (bs.length - lo)
    · rw [if_pos hin, if_pos (by omega), List.getElem?_take_of_lt (by omega), List.getElem?_drop]
      congr 2
      omega
    · rw [if_neg hin]
      by_cases hold : key ≤ j ∧ j < key + min lo bs.length
      · rw [if_pos hold, if_pos (by omega)]
      · rw [if_neg hold, if_neg (by omega)]

theorem State.partyStore_wroteTo (hwf : Memory.wf s.mem = true) :
    s.WroteTo (Target.pool c off).key bs bs.length (s.partyStore t va (.pool c off) bs) := by
  have hpieces : ∀ m, s.WroteTo (Target.pool c off).key bs (pieceStart va m) (((List.range m).map fun i =>
      (pieceStart va i, (bs.drop (pieceStart va i)).take (pieceStart va (i + 1) - pieceStart va i))).foldl (State.poolPiece t va c off) s) := by
    intro m
    induction m with
    | zero =>
      refine ⟨rfl, rfl, hwf, fun j => (if_neg ?_).symm⟩
      simp only [pieceStart]
      omega
    | succ m ih =>
      rw [List.range_succ, List.map_append, List.foldl_append]
      exact State.poolPiece_wroteTo (by simp only [pieceStart]; omega) ih
  have h := hpieces (ceilDiv (va % 64 + bs.length) 64)
  rw [← linePieces_eq, ← State.partyStore_pool] at h
  simpa only [State.WroteTo, min_eq_right (pieceStart_last va bs.length), min_self] using h

end

/-! ### Blocks within pools (R110, R120) -/

theorem poolVa_inAperture (core off : Nat) : inAperture (poolVa core off) = true :=
  (inAperture_iff _).2 (by simp only [poolVa, addrTop]; omega)

theorem Strand.poolAt_poolVa (t : Strand) {off : Nat} (h : off < 2 ^ 17) : t.poolAt (poolVa t.core off) = .pool t.core off := by
  have hcore : apertureCore (dieOf t.core) (poolVa t.core off) = t.core := by
    simp only [apertureCore, dieOf, poolVa, addrTop]
    omega
  have hoff : poolVa t.core off % 2 ^ 17 = off := by
    simp only [poolVa, addrTop]
    omega
  rw [Strand.poolAt, hcore, hoff]

/-- The strand of a block operation while it makes the accesses of the granule at an offset (R36). -/
def Strand.atGranule (t : Strand) (off : Nat) : Strand := { t with prog := { t.prog with at_ := t.pc, block := some off } }

section
variable {op : BlockOp} {x y p : Word64} {b : BlockArgs} {s : State} {t : Strand} {i : Instr} {n : Nat}

/-- A byte of a block that stands in a pool of the partition. -/
def InPool (s : State) (t : Strand) (va : Nat) : Prop :=
  inAperture va = true ∧ s.coreIn t.vf (apertureCore (dieOf t.core) va) = true

theorem InPool.reach {va off : Nat} {k : Acc} (h : InPool s t va) (hk : k ≠ .fetch) (tval : Nat) :
    s.reach (t.atGranule off) va k tval = .go s (t.poolAt va) := State.reach_pool (t := t.atGranule off) h.1 h.2 hk tval

theorem blockSource_fill (off n : Nat) (t : Strand) (s : State) (b : BlockArgs) : blockSource .bfill b off n t s =
    .inr (s, (List.range n).map fun i => BitVec.ofNat 8 (b.value >>> (8 * ((off + i) % 2 ^ b.e)))) := rfl

theorem blockSource_zero (off n : Nat) (t : Strand) (s : State) (b : BlockArgs) : blockSource .bzero b off n t s =
    .inr (s, List.replicate n 0#8) := rfl

theorem blockSource_reads (hop : op.reads = true) (hsrc : InPool s t b.src) (halone : Alone s t)
    (hclean : s.poisoned (t.poolAt b.src).key n = false) :
    blockSource op b 0 n (t.atGranule 0) s = .inr (s, Memory.bytes s.mem (t.poolAt b.src).key n) := by
  have hne : op ≠ .bfill ∧ op ≠ .bzero := by cases op <;> simp_all [BlockOp.reads]
  have hread : s.partyRead (quadOf t.core) t.vf b.src (t.poolAt b.src) n = .ok s (Memory.bytes s.mem (t.poolAt b.src).key n) :=
    State.syncRead_pool (q := 0) hclean
  have hown : s.ownPool (t.atGranule 0) (t.poolAt b.src) n = s := State.ownPool_alone (t := t.atGranule 0) halone ..
  have hbias : s.biasRange (t.poolAt b.src) n = none := rfl
  rw [blockSource, if_neg hne.1, if_neg hne.2, Nat.add_zero, hsrc.reach (by decide)]
  simp only [hbias, hown]
  rw [show s.partyRead (quadOf (t.atGranule 0).core) (t.atGranule 0).vf b.src (t.poolAt b.src) n = _ from hread]

/-- The only granule of a block of at most 64 KiB between pools: the source's bytes go to the destination (R35, R115). -/
theorem blockGranule_pool {bs : List Byte} (hbuf : t.buf = []) (hto : t.timeout = false) (halone : Alone s t)
    (hsrc : blockSource op b 0 n (t.atGranule 0) s = .inr (s, bs)) (hdst : InPool s t b.dst) :
    blockGranule op b 0 n t s = .inr (s.partyStore t b.dst (t.poolAt b.dst) bs) := by
  have hbias : s.biasRange (t.poolAt b.dst) n = none := rfl
  have hreach : s.reach (t.atGranule 0) b.dst .write b.dst = .go s (t.poolAt b.dst) := hdst.reach (by decide) _
  refine (if_neg (by simp [hbuf])).trans ((if_neg (by simp [hto])).trans ?_)
  simp only [Strand.atGranule] at hsrc hreach
  simp only [hsrc, Nat.add_zero, hreach, hbias]
  simp only [hto, Bool.false_eq_true, if_false, State.ownPool_alone halone]

/-- A block operation has left bytes at a key: it retires, no strand is changed but the one that retires, and every byte outside them reads
as before. -/
def BlockLeaves (s : State) (t : Strand) (ins : Instr) (k : Nat) (bs : List Byte) : Prop :=
  ∃ s', exec ins s = .next (s.after t s') ∧ s'.cur = s.cur ∧ s'.strands = s.strands ∧
    ∀ j, Memory.read s'.mem j = if k ≤ j ∧ j < k + bs.length then bs.getD (j - k) 0#8 else Memory.read s.mem j

theorem BlockLeaves.of_granule {bs : List Byte} (hans : Answers i s t (blockBody op x y p b t s)) (hwf : Memory.wf s.mem = true)
    (hres : t.resumePoint = none) (hchecks : blockChecks op x y p s t = none) (hsize : b.size ≤ 65536) (hbuf : t.buf = [])
    (hto : t.timeout = false) (halone : Alone s t) (hdst : InPool s t b.dst)
    (hsrc : blockSource op b 0 b.size (t.atGranule 0) s = .inr (s, bs)) : BlockLeaves s t i (t.poolAt b.dst).key bs := by
  have hmin : min b.size 65536 = b.size := min_eq_left hsize
  rw [blockBody_moves hans.1 (.inl ⟨hres, hchecks, rfl⟩) (hmin ▸ blockGranule_pool hbuf hto halone hsrc hdst),
    if_pos (by omega)] at hans
  exact ⟨_, hans.completes, (State.partyStore_wroteTo hwf).whole⟩

end

/-! ### The checks of a block within pools (R121) -/

/-- A block of at most 64 KiB that stands in a pool of the partition. -/
def NearBlock (s : State) (t : Strand) (r : Word64) : Prop :=
  refCheck r = none ∧ blockBytes r ≤ 65536 ∧ inAperture (refAddr r) = true ∧ s.coreIn t.vf (apertureCore (dieOf t.core) (refAddr r)) = true

/-- Own pool bytes that a block of z bytes may be moved from or to. -/
def FitsPool (s : State) (t : Strand) (r : Word64) (z : Nat) : Prop :=
  r.toNat + z ≤ 131072 ∧ r.toNat % min z 64 = 0 ∧ s.coreIn t.vf t.core = true

section
variable {s : State} {t : Strand} {x y p : Word64}

theorem NearBlock.inPool (h : NearBlock s t x) : InPool s t (refAddr x) := ⟨h.2.2.1, h.2.2.2⟩

theorem NearBlock.refPlace (h : NearBlock s t x) : s.refPlace t x = true := by
  obtain ⟨-, hsize, hin, hcore⟩ := h
  simp only [State.refPlace, hin, if_true, hcore, Bool.and_true, decide_eq_true_eq]
  omega

theorem blockBytes_pos (r : Word64) : 0 < blockBytes r := Nat.two_pow_pos _

theorem FitsPool.lt {r : Word64} (h : FitsPool s t p (blockBytes r)) : p.toNat < 2 ^ 17 := by
  have := blockBytes_pos r
  have := h.1
  omega

theorem FitsPool.poolAt {r : Word64} (h : FitsPool s t p (blockBytes r)) : t.poolAt (poolVa t.core p.toNat) = .pool t.core p.toNat :=
  t.poolAt_poolVa h.lt

theorem FitsPool.inPool {r : Word64} (h : FitsPool s t p (blockBytes r)) : InPool s t (poolVa t.core p.toNat) := by
  have hpool := h.poolAt
  simp only [Strand.poolAt, Target.pool.injEq] at hpool
  exact ⟨poolVa_inAperture .., by rw [hpool.1]; exact h.2.2⟩

theorem blockChecks_pool {op : BlockOp} (hop : op = .bld ∨ op = .bst) (hx : NearBlock s t x) (hp : FitsPool s t p (blockBytes x))
    (hblock : weirRefuses t.weirs (refAddr x) (blockBytes x) (if op = .bld then 2 else 3) = none)
    (hpool : weirRefuses t.weirs (poolVa t.core p.toNat) (blockBytes x) (if op = .bld then 3 else 2) = none) :
    blockChecks op x y p s t = none := by
  have hplace := hx.refPlace
  obtain ⟨hrange, halign, -⟩ := hp
  have hroom : ¬poolBytes < p.toNat + blockBytes x := Nat.not_lt.2 hrange
  rcases hop with rfl | rfl <;> simp_all [blockChecks, hx.1]

theorem blockChecks_copy (hx : NearBlock s t x) (hy : NearBlock s t y) (hsize : blockBytes x = blockBytes y)
    (hsrc : weirRefuses t.weirs (refAddr y) (blockBytes y) 2 = none) (hdst : weirRefuses t.weirs (refAddr x) (blockBytes x) 3 = none) :
    blockChecks .bcopy x y p s t = none := by
  rw [← hsize] at hsrc
  simp [blockChecks, hx.1, hy.1, hx.refPlace, hy.refPlace, hsize.symm, hsrc, hdst]

theorem blockChecks_set {op : BlockOp} (hop : op = .bfill ∨ op = .bzero) (hx : NearBlock s t x)
    (hdst : weirRefuses t.weirs (refAddr x) (blockBytes x) 3 = none) : blockChecks op x y p s t = none := by
  rcases hop with rfl | rfl <;> simp [blockChecks, hx.1, hx.refPlace, hdst]

end

/-! ### BPREF, BCLEAN and BFLUSH (R123) -/

section
variable {s : State} {t : Strand} {d : BitVec 5}

theorem bprefBody_refuses {p : Nat × Word64} (h : refCheck (t.g d) = some p) : bprefBody d t s = .trap p.1 p.2 := by
  simp [bprefBody, h]

theorem bprefBody_done (h : refCheck (t.g d) = none) (hplace : s.refPlace t (t.g d) = true) : bprefBody d t s = .done s := by
  simp [bprefBody, h, hplace]

variable {inval : Bool}

theorem maintBody_refuses {p : Nat × Word64} (h : refCheck (t.g d) = some p) : maintBody d inval t s = .trap p.1 p.2 := by
  simp [maintBody, h]

variable (h : refCheck (t.g d) = none) (hplace : s.refPlace t (t.g d) = true)
  (hw : weirRefuses t.weirs (refAddr (t.g d)) (blockBytes (t.g d)) 2 = none)
include h hplace hw

theorem maintBody_waits (hbuf : t.buf ≠ []) : maintBody d inval t s = .hold s := by
  simp [maintBody, h, hplace, hw, hbuf]

variable (hbuf : t.buf = [])
include hbuf

theorem maintBody_aperture (hin : inAperture (refAddr (t.g d)) = true) : maintBody d inval t s = .done s := by
  simp [maintBody, h, hplace, hw, hbuf, hin]

variable (hout : inAperture (refAddr (t.g d)) = false)
include hout

theorem maintBody_host {w : Wait} (hwait : s.cleanWait t.vf t.mode (refAddr (t.g d)) (blockBytes (t.g d)) = some w) :
    maintBody d inval t s = .hold ((s.askHost w false).parkMe t w) := by
  simp [maintBody, h, hplace, hw, hbuf, hout, hwait]

theorem maintBody_cleans (hwait : s.cleanWait t.vf t.mode (refAddr (t.g d)) (blockBytes (t.g d)) = none) :
    maintBody d inval t s = .done (s.cleanRange t.vf t.mode (refAddr (t.g d)) (blockBytes (t.g d)) inval) := by
  simp [maintBody, h, hplace, hw, hbuf, hout, hwait]

end

/-! ### The five block operations within pools (R120) -/

section
variable {s : State} {t : Strand} {d a : BitVec 5} (hr : Ready s t) (hp : Plain t) (hwf : Memory.wf s.mem = true)
  (hres : t.resumePoint = none) (hbuf : t.buf = []) (hto : t.timeout = false) (halone : Alone s t)
include hr hp hwf hres hbuf hto halone

theorem bld_leaves (hy : NearBlock s t (t.g a)) (hx : FitsPool s t (t.g d) (blockBytes (t.g a)))
    (hsrc : weirRefuses t.weirs (refAddr (t.g a)) (blockBytes (t.g a)) 2 = none)
    (hdst : weirRefuses t.weirs (poolVa t.core (t.g d).toNat) (blockBytes (t.g a)) 3 = none)
    (hclean : s.poisoned (t.poolAt (refAddr (t.g a))).key (blockBytes (t.g a)) = false) :
    BlockLeaves s t (.bld d a) (Target.pool t.core (t.g d).toNat).key
      (Memory.bytes s.mem (t.poolAt (refAddr (t.g a))).key (blockBytes (t.g a))) := by
  rw [← hx.poolAt]
  have h := BlockLeaves.of_granule (bld_answers hr hp d a) hwf hres (blockChecks_pool (.inl rfl) hy hx hsrc hdst) hy.2.1 hbuf hto halone
    hx.inPool (blockSource_reads rfl hy.inPool halone hclean)
  exact h

theorem bst_leaves (hx : NearBlock s t (t.g d)) (hy : FitsPool s t (t.g a) (blockBytes (t.g d)))
    (hsrc : weirRefuses t.weirs (poolVa t.core (t.g a).toNat) (blockBytes (t.g d)) 2 = none)
    (hdst : weirRefuses t.weirs (refAddr (t.g d)) (blockBytes (t.g d)) 3 = none)
    (hclean : s.poisoned (Target.pool t.core (t.g a).toNat).key (blockBytes (t.g d)) = false) :
    BlockLeaves s t (.bst d a) (t.poolAt (refAddr (t.g d))).key
      (Memory.bytes s.mem (Target.pool t.core (t.g a).toNat).key (blockBytes (t.g d))) := by
  rw [← hy.poolAt] at hclean ⊢
  have h := BlockLeaves.of_granule (bst_answers hr hp d a) hwf hres (blockChecks_pool (.inr rfl) hx hy hdst hsrc) hx.2.1 hbuf hto halone
    hx.inPool (blockSource_reads rfl hy.inPool halone hclean)
  exact h

theorem bcopy_leaves (hx : NearBlock s t (t.g d)) (hy : NearBlock s t (t.g a)) (hsize : blockBytes (t.g d) = blockBytes (t.g a))
    (hsrc : weirRefuses t.weirs (refAddr (t.g a)) (blockBytes (t.g a)) 2 = none)
    (hdst : weirRefuses t.weirs (refAddr (t.g d)) (blockBytes (t.g d)) 3 = none)
    (hclean : s.poisoned (t.poolAt (refAddr (t.g a))).key (blockBytes (t.g a)) = false) :
    BlockLeaves s t (.bcopy d a) (t.poolAt (refAddr (t.g d))).key
      (Memory.bytes s.mem (t.poolAt (refAddr (t.g a))).key (blockBytes (t.g a))) := by
  have hchecks := blockChecks_copy (p := 0#64) hx hy hsize hsrc hdst
  rw [← hsize] at hclean ⊢
  have h := BlockLeaves.of_granule (bcopy_answers hr hp d a) hwf hres hchecks hx.2.1 hbuf hto halone hx.inPool
    (blockSource_reads rfl hy.inPool halone hclean)
  exact h

variable (hx : NearBlock s t (t.g d)) (hdst : weirRefuses t.weirs (refAddr (t.g d)) (blockBytes (t.g d)) 3 = none)
include hx hdst

theorem bfill_leaves : BlockLeaves s t (.bfill d a) (t.poolAt (refAddr (t.g d))).key
    ((List.range (blockBytes (t.g d))).map fun i => BitVec.ofNat 8 ((t.g a).toNat >>> (8 * (i % 2 ^ refE (t.g d))))) := by
  have h := BlockLeaves.of_granule (bfill_answers hr hp d a) hwf hres (blockChecks_set (.inl rfl) hx hdst) hx.2.1 hbuf hto halone hx.inPool
    (blockSource_fill ..)
  simpa only [Nat.zero_add] using h

theorem bzero_leaves : BlockLeaves s t (.bzero d) (t.poolAt (refAddr (t.g d))).key (List.replicate (blockBytes (t.g d)) 0#8) := by
  have h := BlockLeaves.of_granule (bzero_answers hr hp d) hwf hres (blockChecks_set (.inr rfl) hx hdst) hx.2.1 hbuf hto halone hx.inPool
    (blockSource_zero ..)
  exact h

end

/-- Settles O16: how a block operation moves through its granules, what each leaves within pools, and one equation for each way that
BPREF, BCLEAN and BFLUSH end. -/
theorem blockOperationsComplete : Obligations.BlockOperationsComplete := by
  unfold Obligations.BlockOperationsComplete
  intro s t d a hr hp x y pool
  have bpref {r} (hb : bprefBody d t s = r) : Answers (.bpref d) s t r := hb ▸ .of_plain hr hp rfl
  have bclean {r} (hb : maintBody d false t s = r) : Answers (.bclean d) s t r := hb ▸ .of_plain hr hp rfl
  have bflush {r} (hb : maintBody d true t s = r) : Answers (.bflush d) s t r := hb ▸ .of_plain hr hp rfl
  refine ⟨fun p hmem => ?moves, fun hbuf hto hstart halone hwf => ?pools, fun p h => ?refuses,
    fun h hplace => (bpref (bprefBody_done h hplace)).completes, fun h hplace hw => ?maintains⟩
  case moves =>
    have hans : Answers p.1 s t (blockBody p.2.1 p.2.2.1 p.2.2.2.1 p.2.2.2.2.1 p.2.2.2.2.2 t s) := by
      revert p
      simp only [List.forall_mem_cons, List.not_mem_nil, false_imp_iff, implies_true, and_true]
      exact ⟨bld_answers hr hp d a, bst_answers hr hp d a, bcopy_answers hr hp d a, bfill_answers hr hp d a, bzero_answers hr hp d⟩
    obtain ⟨ins, op, x', y', w, g⟩ := p
    have ends {r} (hb : blockBody op x' y' w g t s = r) : Answers ins s t r := hb ▸ hans
    refine ⟨fun hstart c hc => (ends (blockBody_refuses (Strand.resumePoint_none hstart) hc)).traps,
      fun hstart hchecks s' hdone => ?first, fun hat off hoff s' hdone => ?later⟩
    case first =>
      have hmoves := blockBody_moves hr (.inl ⟨Strand.resumePoint_none hstart, hchecks, rfl⟩) hdone
      refine ⟨fun hsize => (ends (hmoves.trans (if_pos ?_))).completes, fun hsize => ?_⟩
      · rw [Nat.zero_add, min_eq_left hsize]
      · rw [Nat.zero_add, min_eq_right (Nat.le_of_lt hsize), if_neg (Nat.not_le.2 hsize)] at hmoves
        exact (ends hmoves).holds
    case later =>
      have hmoves := blockBody_moves (x := x') (y := y') (p := w) hr (.inr (Strand.resumePoint_some hat hoff)) hdone
      exact ⟨fun hlast => (ends (hmoves.trans (if_pos hlast))).completes,
        fun hmore => (ends (hmoves.trans (if_neg (Nat.not_le.2 hmore)))).holds⟩
  case pools =>
    have hres := Strand.resumePoint_none hstart
    exact ⟨bld_leaves hr hp hwf hres hbuf hto halone, bst_leaves hr hp hwf hres hbuf hto halone, bcopy_leaves hr hp hwf hres hbuf hto halone,
      bfill_leaves hr hp hwf hres hbuf hto halone, bzero_leaves hr hp hwf hres hbuf hto halone⟩
  case refuses =>
    exact ⟨(bpref (bprefBody_refuses h)).traps, (bclean (maintBody_refuses h)).traps, (bflush (maintBody_refuses h)).traps⟩
  case maintains =>
    exact ⟨fun hbuf hin =>
        ⟨(bclean (maintBody_aperture h hplace hw hbuf hin)).completes, (bflush (maintBody_aperture h hplace hw hbuf hin)).completes⟩,
      fun hbuf hout w hwait =>
        ⟨(bclean (maintBody_host h hplace hw hbuf hout hwait)).holds, (bflush (maintBody_host h hplace hw hbuf hout hwait)).holds⟩,
      fun hbuf hout hwait =>
        ⟨(bclean (maintBody_cleans h hplace hw hbuf hout hwait)).completes, (bflush (maintBody_cleans h hplace hw hbuf hout hwait)).completes⟩,
      fun hbuf => ⟨(bclean (maintBody_waits h hplace hw hbuf)).holds, (bflush (maintBody_waits h hplace hw hbuf)).holds⟩⟩

end Sys2Proof.Machine
end

section
/-!
SUPPORT. Vector words that read and write registers (R130, R132): how such a word completes, and the arithmetic of major 0x30 lane by
lane (R133 to R137; O17, O18, O19).
-/
namespace Sys2Proof.Machine

/-! ### How a vector word ends (R130) -/

section
variable {i : Instr} {s : State} {t t' : Strand} {fl : BitVec 5} {c : Nat} {v : Word64}
  {f : Strand → Except (Nat × Word64) (Strand × BitVec 5)}

theorem vecBody_done (hfree : s.tgetBusy s.cur t = false) (h : f t = .ok (t', fl)) :
    vecBody f t s = .done (s.putMe { t' with vflags := t'.vflags ++ [fl] }) := by
  simp [vecBody, hfree, h]

theorem vecBody_completes (h : Answers i s t (vecBody f t s)) (hfree : s.tgetBusy s.cur t = false) (hf : f t = .ok (t', fl)) :
    Completes i s t (s.putMe { t' with vflags := t'.vflags ++ [fl] }) := (vecBody_done hfree hf ▸ h).completes

theorem vecBody_traps (hfree : s.tgetBusy s.cur t = false) (h : f t = .error (c, v)) : vecBody f t s = .trap c v := by
  simp [vecBody, hfree, h]

end

/-- Bit j of a union of flags is set where a part of the union has it. -/
theorem getLsbD_foldl_or {α : Type} {n : Nat} (g : α → BitVec n) (l : List α) (a : BitVec n) (j : Nat) :
    (l.foldl (fun a r => a ||| g r) a).getLsbD j = true ↔ a.getLsbD j = true ∨ ∃ r ∈ l, (g r).getLsbD j = true := by
  induction l generalizing a with
  | nil => simp
  | cons x r ih => simp [ih, or_assoc]

/-- The union of the lanes' flags has a bit where an unmasked lane has it (R132). -/
theorem getLsbD_lane_flags {α : Type} {on : Nat → Bool} (f : Nat → α × BitVec 5) {g : Nat → α} (n j : Nat) :
    (((List.range n).map fun i => if on i then f i else (g i, 0#5)).foldl (fun a r => a ||| r.2) 0#5).getLsbD j = true ↔
      ∃ i < n, on i = true ∧ (f i).2.getLsbD j = true := by
  simp only [getLsbD_foldl_or, BitVec.getLsbD_zero, Bool.false_eq_true, false_or, List.mem_map, List.mem_range]
  constructor
  · rintro ⟨r, ⟨i, hi, rfl⟩, h⟩
    by_cases hon : on i = true
    · exact ⟨i, hi, hon, by simpa [hon] using h⟩
    · simp [hon] at h
  · rintro ⟨i, hi, hon, h⟩
    exact ⟨_, ⟨i, hi, rfl⟩, by simpa [hon] using h⟩

theorem Strand.mapLanes_flags (t : Strand) (d : BitVec 5) (k : BitVec 3) (ty : EType) (f : Nat → LaneRes) (j : Nat) :
    (t.mapLanes d k ty f).2.getLsbD j = true ↔ ∃ i < laneN ty, t.laneOn k ty i = true ∧ (f i).2.getLsbD j = true :=
  getLsbD_lane_flags f (laneN ty) j

theorem mod_eq_toNat_of_modEq {x w : Nat} {z : Int} (h : (x : Int) ≡ z [ZMOD 2 ^ w]) : x % 2 ^ w = (z % 2 ^ w).toNat := by
  rw [← h.eq]
  exact_mod_cast (Int.toNat_natCast _).symm

/-- The word of i computes each unmasked lane of vd from those of va, vb and vd, under FRM (R135). -/
def LaneWord (i : Instr) (s : State) (t : Strand) (d a b : BitVec 5) (k : BitVec 3) (ty : EType)
    (f : Nat → Nat → Nat → Nat → LaneRes) : Prop :=
  Answers i s t (vecBody (fun t => .ok (t.mapLanes d k ty fun j =>
    f t.frm (laneOf ty (t.v a) j) (laneOf ty (t.v b) j) (laneOf ty (t.v d) j))) t s)

section
variable {i : Instr} {s : State} {t : Strand} {d a b : BitVec 5} {k : BitVec 3} {ty : EType} {f : Nat → Nat → Nat → Nat → LaneRes}
  (hi : LaneWord i s t d a b k ty f) (hfree : s.tgetBusy s.cur t = false)
include hi hfree

theorem LaneWord.completes :
    ∃ (v : Vec) (fl : BitVec 5), Completes i s t (s.putMe { t.setV d v with vflags := t.vflags ++ [fl] }) ∧
      (∀ j < laneN ty, laneOf ty v j =
        if t.laneOn k ty j then (f t.frm (laneOf ty (t.v a) j) (laneOf ty (t.v b) j) (laneOf ty (t.v d) j)).1 % 2 ^ laneW ty
        else laneOf ty (t.v d) j) ∧
      ∀ n, fl.getLsbD n = true ↔ ∃ j < laneN ty, t.laneOn k ty j = true ∧
        (f t.frm (laneOf ty (t.v a) j) (laneOf ty (t.v b) j) (laneOf ty (t.v d) j)).2.getLsbD n = true := by
  obtain ⟨v, fl, hres, hlanes, -⟩ := t.mapLanes_spec d k ty fun j =>
    f t.frm (laneOf ty (t.v a) j) (laneOf ty (t.v b) j) (laneOf ty (t.v d) j)
  refine ⟨v, fl, vecBody_completes hi hfree (congrArg Except.ok hres), hlanes, fun n => ?_⟩
  rw [← Strand.mapLanes_flags, hres]

/-- A lane operation on integers leaves its result modulo 2^w and no flag (R134). -/
theorem LaneWord.completes_int {g : Nat → Nat → Nat → Int}
    (hval : ∀ m x y z, y < 2 ^ laneW ty → ((f m x y z).1 : Int) ≡ g x y z [ZMOD 2 ^ laneW ty])
    (hflag : ∀ m x y z, (f m x y z).2 = 0#5) :
    ∃ v : Vec, Completes i s t (s.putMe { t.setV d v with vflags := t.vflags ++ [0#5] }) ∧
      ∀ j < laneN ty, laneOf ty v j =
        if t.laneOn k ty j then (g (laneOf ty (t.v a) j) (laneOf ty (t.v b) j) (laneOf ty (t.v d) j) % 2 ^ laneW ty).toNat
        else laneOf ty (t.v d) j := by
  obtain ⟨v, fl, hdone, hlanes, hfl⟩ := hi.completes hfree
  have hzero : fl = 0#5 := BitVec.eq_of_getLsbD_eq fun n _ => by
    rw [Bool.eq_iff_iff, hfl n]
    simp [hflag]
  refine ⟨v, hzero ▸ hdone, fun j hj => ?_⟩
  rw [hlanes j hj, mod_eq_toNat_of_modEq (hval _ _ _ _ (laneOf_lt ..))]

theorem LaneWord.completes_of_eq {g : Nat → Nat → Nat → LaneRes} (hval : ∀ x y z, f t.frm x y z = g x y z) :
    ∃ (v : Vec) (fl : BitVec 5), Completes i s t (s.putMe { t.setV d v with vflags := t.vflags ++ [fl] }) ∧
      (∀ j < laneN ty, laneOf ty v j =
        if t.laneOn k ty j then (g (laneOf ty (t.v a) j) (laneOf ty (t.v b) j) (laneOf ty (t.v d) j)).1 % 2 ^ laneW ty
        else laneOf ty (t.v d) j) ∧
      ∀ n < 5, fl.getLsbD n = true ↔ ∃ j < laneN ty, t.laneOn k ty j = true ∧
        (g (laneOf ty (t.v a) j) (laneOf ty (t.v b) j) (laneOf ty (t.v d) j)).2.getLsbD n = true := by
  obtain ⟨v, fl, hdone, hlanes, hfl⟩ := hi.completes hfree
  simp only [hval] at hlanes hfl
  exact ⟨v, fl, hdone, hlanes, fun n _ => hfl n⟩

end

/-! ### Integer lanes (R134) -/

theorem EType.isFloat_of_isInt {ty : EType} (h : ty.isInt = true) : ty.isFloat = false := by revert h; cases ty <;> decide

theorem EType.isInt_of_isFloat {ty : EType} (h : ty.isFloat = true) : ty.isInt = false := by revert h; cases ty <;> decide

/-- Signed or not, an integer lane stands for its bits modulo 2^w. -/
theorem laneInt_modEq (ty : EType) (x : Nat) : laneInt ty x ≡ x [ZMOD 2 ^ laneW ty] := by
  unfold laneInt
  split
  · exact Int.modEq_iff_dvd.2 ⟨1, by ring⟩
  · exact .refl _

theorem wrapLane_modEq (ty : EType) (x : Int) : (wrapLane ty x : Int) ≡ x [ZMOD 2 ^ laneW ty] := by
  rw [wrapLane, Int.toNat_of_nonneg (Int.emod_nonneg _ (by positivity))]
  exact Int.mod_modEq ..

theorem natMod_modEq (x w : Nat) : ((x % 2 ^ w : Nat) : Int) ≡ x [ZMOD 2 ^ w] := by
  push_cast
  exact Int.mod_modEq ..

section
variable {ty : EType} (hint : ty.isInt = true)
include hint

theorem laneAdd_int (m x y : Nat) : ((laneAdd ty m x y).1 : Int) ≡ laneInt ty x + laneInt ty y [ZMOD 2 ^ laneW ty] := by
  simp only [laneAdd, hint, if_true]
  refine (natMod_modEq ..).trans ?_
  push_cast
  exact ((laneInt_modEq ty x).add (laneInt_modEq ty y)).symm

theorem laneSub_int (m x : Nat) {y : Nat} (hy : y < 2 ^ laneW ty) :
    ((laneSub ty m x y).1 : Int) ≡ laneInt ty x - laneInt ty y [ZMOD 2 ^ laneW ty] := by
  simp only [laneSub, hint, if_true]
  refine (natMod_modEq ..).trans (.trans ?_ ((laneInt_modEq ty x).sub (laneInt_modEq ty y)).symm)
  rw [Nat.cast_sub (by omega)]
  push_cast
  exact Int.modEq_iff_dvd.2 ⟨-1, by ring⟩

theorem laneMul_int (m x y : Nat) : ((laneMul ty m x y).1 : Int) ≡ laneInt ty x * laneInt ty y [ZMOD 2 ^ laneW ty] := by
  simp only [laneMul, hint, if_true]
  refine (natMod_modEq ..).trans ?_
  push_cast
  exact ((laneInt_modEq ty x).mul (laneInt_modEq ty y)).symm

theorem laneFma_int (m x y z : Nat) :
    ((laneFma false ty m x y z).1 : Int) ≡ laneInt ty x * laneInt ty y + laneInt ty z [ZMOD 2 ^ laneW ty] := by
  simp only [laneFma, hint, if_true, Bool.false_eq_true, if_false]
  refine (wrapLane_modEq ..).trans ?_
  rw [add_comm]
  exact (((laneInt_modEq ty x).mul (laneInt_modEq ty y)).add (laneInt_modEq ty z)).symm

theorem laneFnma_int (m x y z : Nat) :
    ((laneFma true ty m x y z).1 : Int) ≡ laneInt ty z - laneInt ty x * laneInt ty y [ZMOD 2 ^ laneW ty] := by
  simp only [laneFma, hint, if_true]
  refine (wrapLane_modEq ..).trans ?_
  rw [← sub_eq_add_neg]
  exact ((laneInt_modEq ty z).sub ((laneInt_modEq ty x).mul (laneInt_modEq ty y))).symm

theorem laneMin_int (x y : Nat) : ((laneMinMax false ty x y).1 : Int) ≡ min (laneInt ty x) (laneInt ty y) [ZMOD 2 ^ laneW ty] := by
  simp only [laneMinMax, hint, if_true, Bool.false_eq_true, if_false, min_def]
  split
  · exact (laneInt_modEq ty x).symm
  · exact (laneInt_modEq ty y).symm

theorem laneMax_int (x y : Nat) : ((laneMinMax true ty x y).1 : Int) ≡ max (laneInt ty x) (laneInt ty y) [ZMOD 2 ^ laneW ty] := by
  simp only [laneMinMax, hint, if_true]
  split
  · next h => rw [max_eq_left h]; exact (laneInt_modEq ty x).symm
  · next h => rw [max_eq_right (Int.le_of_lt (Int.not_le.1 h))]; exact (laneInt_modEq ty y).symm

end

theorem laneSl_modEq (ty : EType) (x y : Nat) :
    ((laneSl ty x y).1 : Int) ≡ (x * 2 ^ (y % laneW ty) : Nat) [ZMOD 2 ^ laneW ty] := by
  rw [← Nat.shiftLeft_eq]
  exact natMod_modEq ..

/-- Saturation to a range is the nearer end of the range outside it (R229). -/
theorem satInt_eq {signed : Bool} {w : Nat} {x : Int} {lo hi : Int} (hlo : lo = if signed then -(2 ^ (w - 1)) else 0)
    (hhi : hi = if signed then 2 ^ (w - 1) - 1 else 2 ^ w - 1) : satInt signed w x = if x < lo then lo else if hi < x then hi else x := by
  have h0 : (0 : Int) < 2 ^ (w - 1) := by positivity
  have h1 : (0 : Int) < 2 ^ w := by positivity
  subst hlo hhi
  cases signed
  · simp only [satInt, Bool.false_eq_true, if_false]
    grind
  · simp only [satInt, if_true]
    grind

/-- Settles O17: each lane operation agrees modulo 2^w with the operation on the values of its lanes. -/
theorem vectorIntegerArithmeticCompletes : Obligations.VectorIntegerArithmeticCompletes := by
  unfold Obligations.VectorIntegerArithmeticCompletes
  intro s t d a b k ty hr hp hfree hint w lo hi sat val
  have hsat (x : Int) : (wrapLane ty (satInt ty.isSigned (laneW ty) x) : Int) ≡ sat x [ZMOD 2 ^ laneW ty] := by
    rw [satInt_eq (lo := lo) (hi := hi) rfl rfl]
    exact wrapLane_modEq ..
  simp only [List.forall_mem_cons, List.not_mem_nil, false_imp_iff, implies_true, and_true]
  refine ⟨LaneWord.completes_int (f := fun m x y _ => laneAdd ty m x y) (.of_plain hr hp rfl) hfree (fun m x y _ _ => laneAdd_int hint m x y) ?_,
    LaneWord.completes_int (f := fun m x y _ => laneSub ty m x y) (.of_plain hr hp rfl) hfree (fun m x y _ hy => laneSub_int hint m x hy) ?_,
    LaneWord.completes_int (f := fun m x y _ => laneMul ty m x y) (.of_plain hr hp rfl) hfree (fun m x y _ _ => laneMul_int hint m x y) ?_,
    LaneWord.completes_int (f := laneFma false ty) (.of_plain hr hp rfl) hfree (fun m x y z _ => laneFma_int hint m x y z) ?_,
    LaneWord.completes_int (f := laneFma true ty) (.of_plain hr hp rfl) hfree (fun m x y z _ => laneFnma_int hint m x y z) ?_,
    LaneWord.completes_int (f := fun _ x y _ => laneMinMax false ty x y) (.of_plain hr hp rfl) hfree (fun _ x y _ _ => laneMin_int hint x y) ?_,
    LaneWord.completes_int (f := fun _ x y _ => laneMinMax true ty x y) (.of_plain hr hp rfl) hfree (fun _ x y _ _ => laneMax_int hint x y) ?_,
    LaneWord.completes_int (f := fun _ x y _ => laneSat false ty x y) (.of_plain hr hp rfl) hfree (fun _ x y _ _ => hsat (val x + val y)) ?_,
    LaneWord.completes_int (f := fun _ x y _ => laneSat true ty x y) (.of_plain hr hp rfl) hfree (fun _ x y _ _ => hsat (val x - val y)) ?_,
    LaneWord.completes_int (f := fun _ x y _ => (x &&& y, 0#5)) (.of_plain hr hp rfl) hfree (fun _ _ _ _ _ => .refl _) ?_,
    LaneWord.completes_int (f := fun _ x y _ => (x ||| y, 0#5)) (.of_plain hr hp rfl) hfree (fun _ _ _ _ _ => .refl _) ?_,
    LaneWord.completes_int (f := fun _ x y _ => (x ^^^ y, 0#5)) (.of_plain hr hp rfl) hfree (fun _ _ _ _ _ => .refl _) ?_,
    LaneWord.completes_int (f := fun _ x y _ => laneSl ty x y) (.of_plain hr hp rfl) hfree (fun _ x y _ _ => laneSl_modEq ty x y) ?_,
    LaneWord.completes_int (f := fun _ x y _ => laneSr ty x y) (.of_plain hr hp rfl) hfree (fun _ x y _ _ => wrapLane_modEq ..) ?_⟩
  -- No integer lane sets a flag.
  all_goals
    intro m x y z
    simp [laneAdd, laneSub, laneMul, laneFma, laneMinMax, laneSat, laneSl, laneSr, hint]

/-! ### Floating lanes (R133, R136, R137) -/

/-- FRM is the low three bits of its register (R64). -/
theorem Strand.frm_eq (t : Strand) : t.frm = t.sys.frm.toNat % 8 := rfl

section
variable {ty : EType} (hf : ty.isFloat = true)
include hf

theorem laneAdd_float (m x y : Nat) : laneAdd ty m x y = finishLane ty m ((laneVal ty x).add m (laneVal ty y)) :=
  if_neg (by simp [EType.isInt_of_isFloat hf])

theorem laneSub_float (m x y : Nat) : laneSub ty m x y = finishLane ty m ((laneVal ty x).add m (laneVal ty y).negate) :=
  if_neg (by simp [EType.isInt_of_isFloat hf])

theorem laneMul_float (m x y : Nat) : laneMul ty m x y = finishLane ty m ((laneVal ty x).mul (laneVal ty y)) :=
  if_neg (by simp [EType.isInt_of_isFloat hf])

/-- The addition of vfma and vfnma: the old lane to the exact product, which vfnma negates (R135). -/
theorem laneFma_float (neg : Bool) (m x y z : Nat) : laneFma neg ty m x y z =
    finishLane ty m
      (((if neg then ((laneVal ty x).mul (laneVal ty y)).1.negate else ((laneVal ty x).mul (laneVal ty y)).1).add m (laneVal ty z)).1,
        ((laneVal ty x).mul (laneVal ty y)).2 |||
          ((if neg then ((laneVal ty x).mul (laneVal ty y)).1.negate else ((laneVal ty x).mul (laneVal ty y)).1).add m (laneVal ty z)).2) :=
  if_neg (by simp [EType.isInt_of_isFloat hf])

end

/-- Settles O18: each lane operation on floats is its rule's exact result, rounded under FRM. -/
theorem vectorFloatArithmeticCompletes : Obligations.VectorFloatArithmeticCompletes := by
  unfold Obligations.VectorFloatArithmeticCompletes
  intro s t d a b k ty hr hp hfree hf m val fin fma
  simp only [List.forall_mem_cons, List.not_mem_nil, false_imp_iff, implies_true, and_true]
  exact ⟨LaneWord.completes_of_eq (f := fun m x y _ => laneAdd ty m x y) (.of_plain hr hp rfl) hfree fun x y _ => laneAdd_float hf t.frm x y,
    LaneWord.completes_of_eq (f := fun m x y _ => laneSub ty m x y) (.of_plain hr hp rfl) hfree fun x y _ => laneSub_float hf t.frm x y,
    LaneWord.completes_of_eq (f := fun m x y _ => laneMul ty m x y) (.of_plain hr hp rfl) hfree fun x y _ => laneMul_float hf t.frm x y,
    LaneWord.completes_of_eq (f := laneFma false ty) (.of_plain hr hp rfl) hfree fun x y z => laneFma_float hf false t.frm x y z,
    LaneWord.completes_of_eq (f := laneFma true ty) (.of_plain hr hp rfl) hfree fun x y z => laneFma_float hf true t.frm x y z,
    LaneWord.completes_of_eq (f := fun _ x y _ => laneMinMax false ty x y) (.of_plain hr hp rfl) hfree fun _ _ _ => rfl,
    LaneWord.completes_of_eq (f := fun _ x y _ => laneMinMax true ty x y) (.of_plain hr hp rfl) hfree fun _ _ _ => rfl,
    LaneWord.completes_of_eq (b := b) (f := fun _ x _ _ => laneRcpe ty x) (.of_plain hr hp rfl) hfree fun _ _ _ => rfl,
    LaneWord.completes_of_eq (b := b) (f := fun _ x _ _ => laneRsqe ty x) (.of_plain hr hp rfl) hfree fun _ _ _ => rfl⟩

/-- The flag of vmin and vmax (R137): NV for a signalling operand. -/
theorem snanFlag_or (x y : Val) : x.snanFlag ||| y.snanFlag = if x.isSnan = true ∨ y.isSnan = true then flNV else 0#5 := by
  cases hx : x.isSnan <;> cases hy : y.isSnan <;> simp [Val.snanFlag, hx, hy]

section
variable {ty : EType} (hf : ty.isFloat = true) (big : Bool) {x y : Nat}
include hf

theorem laneMinMax_flags : (laneMinMax big ty x y).2 = (laneVal ty x).snanFlag ||| (laneVal ty y).snanFlag := by
  simp only [laneMinMax, EType.isInt_of_isFloat hf, Bool.false_eq_true, if_false]
  split
  · rfl
  · rfl
  · rfl
  · split <;> rfl

theorem laneMinMax_left_nan (hx : (laneVal ty x).isNan = true) (hy : (laneVal ty y).isNan = false) : (laneMinMax big ty x y).1 = y := by
  simp [laneMinMax, EType.isInt_of_isFloat hf, hx, hy]

theorem laneMinMax_right_nan (hx : (laneVal ty x).isNan = false) (hy : (laneVal ty y).isNan = true) : (laneMinMax big ty x y).1 = x := by
  simp [laneMinMax, EType.isInt_of_isFloat hf, hx, hy]

theorem laneMinMax_nans (hx : (laneVal ty x).isNan = true) (hy : (laneVal ty y).isNan = true) :
    (laneMinMax big ty x y).1 = (fmtOf ty).cnan := by
  simp [laneMinMax, EType.isInt_of_isFloat hf, hx, hy]

theorem laneVal_zeros : laneVal ty 0 = .fin false 0 1 ∧ laneVal ty ((fmtOf ty).sign true) = .fin true 0 1 := by
  revert hf
  cases ty <;> decide

/-- Of zeros of both signs, the order of the operands has no say (R137). -/
theorem laneMinMax_zeros : (laneMinMax big ty 0 ((fmtOf ty).sign true)).1 = (if big then 0 else (fmtOf ty).sign true) ∧
    (laneMinMax big ty ((fmtOf ty).sign true) 0).1 = (if big then 0 else (fmtOf ty).sign true) := by
  obtain ⟨h0, h1⟩ := laneVal_zeros hf
  cases big <;> simp [laneMinMax, EType.isInt_of_isFloat hf, h0, h1, Val.isNan, Val.cmp, Val.neg?, signed]

end

/-- Settles O19, by whether each operand is a NaN; the zeros compare as equal, and the sign of the first decides. -/
theorem floatMinMaxAndZeros : Obligations.FloatMinMaxAndZeros := by
  unfold Obligations.FloatMinMaxAndZeros
  intro ty big x y hf
  obtain ⟨hmin, hmin'⟩ := laneMinMax_zeros hf false
  obtain ⟨hmax, hmax'⟩ := laneMinMax_zeros hf true
  exact ⟨laneMinMax_left_nan hf big, laneMinMax_right_nan hf big, laneMinMax_nans hf big, hmin, hmin', hmax, hmax',
    (laneMinMax_flags hf big).trans (snanFlag_or _ _)⟩

end Sys2Proof.Machine
end

section
/-!
SUPPORT. Sums of fields of bits, as the vector unit gathers a mask from its lanes; compares and mask operations (R138, R139; O20).
-/
namespace Sys2Proof.Machine

/-! ### Bits of a sum of digits -/

/-- Bit j of a sum of w-bit digits is a bit of digit j / w, and no bit stands above the digits. -/
theorem digitSum_testBit {w : Nat} (hw : 0 < w) (f : Nat → Nat) (n j : Nat) :
    (digitSum (2 ^ w) f n).testBit j = (decide (j / w < n) && (f (j / w) % 2 ^ w).testBit (j % w)) := by
  have hB : 0 < 2 ^ w := Nat.two_pow_pos w
  by_cases hj : j / w < n
  · have hdigit := digitSum_digit hB f n _ hj
    rw [← hdigit, Nat.testBit_mod_two_pow, ← pow_mul, Nat.testBit_div_two_pow, Nat.add_comm, Nat.div_add_mod]
    simp [hj, Nat.mod_lt _ hw]
  · have hle : w * n ≤ j := (Nat.mul_le_mul_left w (Nat.not_lt.1 hj)).trans (Nat.mul_div_le j w)
    have hlt : digitSum (2 ^ w) f n < 2 ^ j :=
      (digitSum_lt hB f n).trans_le (by rw [← pow_mul]; exact Nat.pow_le_pow_right (by decide) hle)
    simp [Nat.testBit_lt_two_pow hlt, hj]

/-- Adding one w-bit pattern in each place that a condition names sets the pattern's bits there and none elsewhere. -/
theorem foldl_places_testBit {w : Nat} (hw : 0 < w) {x : Nat} (hx : x < 2 ^ w) (p : Nat → Bool) (n j : Nat) :
    ((List.range n).foldl (fun a i => if p i then a + x <<< (w * i) else a) 0).testBit j =
      (decide (j / w < n) && p (j / w) && x.testBit (j % w)) := by
  have hfold : (List.range n).foldl (fun a i => if p i then a + x <<< (w * i) else a) 0 =
      digitSum (2 ^ w) (fun i => if p i then x else 0) n := by
    rw [← lanes_fold]
    congr 1
    funext a i
    split <;> simp [Nat.mod_eq_of_lt hx]
  rw [hfold, digitSum_testBit hw, Bool.and_assoc]
  cases p (j / w) <;> simp [Nat.mod_eq_of_lt hx]

theorem foldl_bits_testBit (p : Nat → Bool) (n j : Nat) :
    ((List.range n).foldl (fun a i => if p i then a + 2 ^ i else a) 0).testBit j = (decide (j < n) && p j) := by
  have h := foldl_places_testBit Nat.one_pos (x := 1) (by decide) p n j
  simpa [Nat.shiftLeft_eq, Nat.mod_one] using h

/-! ### Compares and mask operations -/

section
variable {i : Instr} {s : State} {t : Strand} (hfree : s.tgetBusy s.cur t = false)
include hfree

theorem cmpBody_completes {c : VCmp} {d : BitVec 3} {a b : BitVec 5} {k : BitVec 3} {ty : EType}
    (hi : Answers i s t (cmpBody c d a b k ty t s)) :
    ∃ (m : Word64) (fl : BitVec 5), Completes i s t (s.putMe { t.setK d m with vflags := t.vflags ++ [fl] }) ∧
      (∀ j < 64, m.getLsbD j = true ↔ j < laneN ty ∧ t.laneOn k ty j = true ∧
        (laneCmp c ty (laneOf ty (t.v a) j) (laneOf ty (t.v b) j)).1 = true) ∧
      ∀ n < 5, fl.getLsbD n = true ↔ ∃ j < laneN ty, t.laneOn k ty j = true ∧
        (laneCmp c ty (laneOf ty (t.v a) j) (laneOf ty (t.v b) j)).2.getLsbD n = true := by
  have hdone := vecBody_completes hi hfree rfl
  refine ⟨_, _, hdone, fun j hj => ?_, fun n _ => getLsbD_lane_flags (on := t.laneOn k ty) _ _ n⟩
  rw [BitVec.getLsbD_ofNat, foldl_bits_testBit]
  by_cases hlane : j < laneN ty
  · by_cases hon : t.laneOn k ty j = true
    · simp [hj, hlane, hon]
    · simp [hlane, hon]
  · simp [hlane]

theorem maskBody_completes {f : Strand → Strand} (hi : Answers i s t (maskBody f t s)) :
    Completes i s t (s.putMe { f t with vflags := (f t).vflags ++ [0#5] }) := vecBody_completes hi hfree rfl

end

/-- A compare of floats is unordered where an operand is a NaN (R139). -/
theorem laneCmp_unordered {ty : EType} (hf : ty.isFloat = true) (c : VCmp) {x y : Nat}
    (h : (laneVal ty x).isNan = true ∨ (laneVal ty y).isNan = true) : (laneCmp c ty x y).1 = (c == VCmp.ne) := by
  have hnan : ((laneVal ty x).isNan || (laneVal ty y).isNan) = true := by simpa using h
  cases c <;> simp [laneCmp, EType.isInt_of_isFloat hf, hnan]

/-- Settles O20: the mask of a compare is the sum of one bit for each lane where it holds. -/
theorem comparesAndMasksComplete : Obligations.ComparesAndMasksComplete := by
  unfold Obligations.ComparesAndMasksComplete
  intro s t d a b k gd x y ty hr hp hfree
  refine ⟨?compares, ?masks, ?get, ?count, fun c m n hf h => laneCmp_unordered hf c h⟩
  case compares =>
    simp only [List.forall_mem_cons, List.not_mem_nil, false_imp_iff, implies_true, and_true]
    exact ⟨cmpBody_completes hfree (.of_plain hr hp rfl), cmpBody_completes hfree (.of_plain hr hp rfl),
      cmpBody_completes hfree (.of_plain hr hp rfl), cmpBody_completes hfree (.of_plain hr hp rfl)⟩
  case masks =>
    simp only [List.forall_mem_cons, List.not_mem_nil, false_imp_iff, implies_true, and_true]
    exact ⟨maskBody_completes (f := fun t => t.setK d (t.k a &&& t.k b)) hfree (.of_plain hr hp rfl),
      maskBody_completes (f := fun t => t.setK d (t.k a ||| t.k b)) hfree (.of_plain hr hp rfl),
      maskBody_completes (f := fun t => t.setK d (t.k a ^^^ t.k b)) hfree (.of_plain hr hp rfl),
      maskBody_completes (f := fun t => t.setK d (t.k a &&& ~~~(t.k b))) hfree (.of_plain hr hp rfl),
      maskBody_completes (f := fun t => t.setK d (~~~(t.k a))) hfree (.of_plain hr hp rfl),
      maskBody_completes (f := fun t => t.setK d (t.g x)) hfree (.of_plain hr hp rfl)⟩
  case get =>
    have h := maskBody_completes (f := fun t => t.setG gd (t.k a)) hfree (.of_plain (i := .kget gd a) hr hp rfl)
    simpa only [Strand.setG_vflags] using h
  case count =>
    have h := maskBody_completes (f := fun t => t.setG gd (BitVec.ofNat 64 (onesCount (t.k a)))) hfree
      (.of_plain (i := .kpop gd a) hr hp rfl)
    simpa only [Strand.setG_vflags, onesCount_eq] using h

end Sys2Proof.Machine
end

section
/-!
SUPPORT. Lane movements, draws and immediates (R75, R144, R147, R148; O21): what such a word leaves in each lane of vd.
-/
namespace Sys2Proof.Machine

section
variable {i : Instr} {s : State} {t : Strand} {d : BitVec 5} {ty : EType} (hfree : s.tgetBusy s.cur t = false)
include hfree

/-- A lane movement writes its value modulo 2^w in each unmasked lane (R144). -/
theorem moveBody_completes {k : BitVec 3} {f : Strand → Nat → Nat} (hi : Answers i s t (moveBody d k ty f t s)) {g : Nat → Nat}
    (hg : ∀ j, f t j % 2 ^ laneW ty = g j % 2 ^ laneW ty) :
    ∃ v : Vec, Completes i s t (s.putMe { t.setV d v with vflags := t.vflags ++ [0#5] }) ∧
      ∀ j < laneN ty, laneOf ty v j = if t.laneOn k ty j then g j % 2 ^ laneW ty else laneOf ty (t.v d) j := by
  obtain ⟨v, fl, hres, hlanes, hfl⟩ := t.mapLanes_spec d k ty fun j => (f t j, 0#5)
  obtain rfl := hfl fun _ => rfl
  refine ⟨v, vecBody_completes hi hfree (congrArg Except.ok hres), fun j hj => ?_⟩
  rw [hlanes j hj, hg]

/-- A word that writes every lane leaves in each the value modulo 2^w. -/
theorem setLanes_completes {f : Strand → Nat → Nat} (hi : Answers i s t (vecBody (fun t => .ok (t.setV d (lanes ty (f t)), 0#5)) t s))
    {g : Nat → Nat} (hg : ∀ j, f t j % 2 ^ laneW ty = g j) :
    ∃ v : Vec, Completes i s t (s.putMe { t.setV d v with vflags := t.vflags ++ [0#5] }) ∧ ∀ j < laneN ty, laneOf ty v j = g j :=
  ⟨_, vecBody_completes hi hfree rfl, fun j hj => (laneOf_lanes ty _ j hj).trans (hg j)⟩

end

/-! ### The value of a lane -/

theorem viotaLane_int {ty : EType} (h : ty.isInt = true) (j : Nat) : viotaLane ty j = j := if_pos h

theorem viotaLane_float {ty : EType} (h : ty.isFloat = true) (j : Nat) :
    viotaLane ty j = ((fmtOf ty).round 0 (.fin false j 1)).1 := if_neg (by simp [EType.isInt_of_isFloat h])

/-- What a draw of 64 bits is as a lane (R147). -/
def drawLane (ty : EType) (x : Nat) : Nat :=
  match ty with
  | .f32 => (fF32.round 0 (.fin false (x >>> 40) (2 ^ 24))).1
  | .f16 => (fF16.round 0 (.fin false (x >>> 53) (2 ^ 11))).1
  | .bf16 => (fBF16.round 0 (.fin false (x >>> 56) (2 ^ 8))).1
  | _ => x % 2 ^ laneW ty

theorem vrandLane_eq (a b : BitVec 5) (ty : EType) (t : Strand) (j : Nat) :
    vrandLane a b ty t j = drawLane ty (mix64 (t.g b) (t.g a + BitVec.ofNat 64 j)).toNat := rfl

theorem drawLane_int {ty : EType} (h : ty.isInt = true) (x : Nat) : drawLane ty x = x % 2 ^ laneW ty := by
  revert h
  cases ty with
  | bf16 | f16 | f32 | c8a | c8b | c4 => exact fun h => nomatch h
  | _ => exact fun _ => rfl

/-- The value of a float drawn: its high bits, as a fraction of one (R147). -/
theorem drawLane_f32 (x : Nat) : drawLane .f32 x = (fF32.round 0 (.fin false (x / 2 ^ 40) (2 ^ 24))).1 := by
  rw [← Nat.shiftRight_eq_div_pow]
  rfl

theorem drawLane_f16 (x : Nat) : drawLane .f16 x = (fF16.round 0 (.fin false (x / 2 ^ 53) (2 ^ 11))).1 := by
  rw [← Nat.shiftRight_eq_div_pow]
  rfl

theorem drawLane_bf16 (x : Nat) : drawLane .bf16 x = (fBF16.round 0 (.fin false (x / 2 ^ 56) (2 ^ 8))).1 := by
  rw [← Nat.shiftRight_eq_div_pow]
  rfl

/-! ### Immediates (R75) -/

/-- An immediate of an integer type stands for imm16, read as the type's signedness says, modulo 2^w (R75). -/
theorem immLane_int (c : Core) {ty : EType} (h : ty.isInt = true) (im : BitVec 16) :
    (((immLane c ty im).getD 0 : Nat) : Int) ≡ if ty.isSigned then im.toInt else im.toNat [ZMOD 2 ^ laneW ty] := by
  revert h
  cases ty with
  | s8 | s16 | s32 | s64 => exact fun _ => wrapLane_modEq ..
  | z8 | z16 | z32 | z64 => exact fun _ => natMod_modEq ..
  | _ => exact fun h => nomatch h

theorem immLane_float (c : Core) {ty : EType} (h : ty.isFloat = true) (im : BitVec 16) :
    (immLane c ty im).getD 0 = ((fmtOf ty).round 0 (fBF16.value im.toNat)).1 := by
  revert h
  cases ty with
  | bf16 | f16 | f32 => exact fun _ => rfl
  | _ => exact fun h => nomatch h

section
variable {s : State} {t : Strand} {d : BitVec 5} {ty : EType} {im : BitVec 16}

theorem vimmBody_waits (h : s.tableBusy t.core ty = true) : vimmBody d ty im t s = .hold s := if_pos h

theorem vimmBody_traps (h : s.tableBusy t.core ty = false) (hn : immLane (s.core t.core) ty im = none) :
    vimmBody d ty im t s = .trap 0x23 (tableTval ty) := by simp [vimmBody, h, hn]

theorem vimmBody_writes (h : s.tableBusy t.core ty = false) {x : Nat} (hx : immLane (s.core t.core) ty im = some x) :
    vimmBody d ty im t s = vecBody (fun t => .ok (t.setV d (lanes ty fun _ => x), 0#5)) t s := by simp [vimmBody, h, hx]

theorem vselBody_traps {a b : BitVec 5} : vselBody d a b 0#3 ty t s = .trap 0x01 s.wordTval := rfl

theorem vselBody_writes {a b : BitVec 5} {k : BitVec 3} (h : k ≠ 0#3) : vselBody d a b k ty t s =
    vecBody (fun t => .ok (t.setV d (lanes ty fun j =>
      if t.laneOn k ty j then laneOf ty (t.v a) j else laneOf ty (t.v b) j), 0#5)) t s := if_neg h

end

/-- vaddi adds the immediate as a lane of every lane, and has no mask (R148). -/
theorem vaddi_laneWord {s : State} {t : Strand} (hr : Ready s t) (hp : Plain t) (d : BitVec 5) (ty : EType) (im : BitVec 16) :
    LaneWord (.vaddi d ty im) s t d d d 0#3 ty fun m x _ _ => laneAdd ty m x ((immLane (s.core t.core) ty im).getD 0) :=
  .of_plain (body := vaddiBody d ty im) hr hp rfl

/-- Settles O21: each row is a lane movement, a write of every lane, or a lane addition. -/
theorem vectorMovesComplete : Obligations.VectorMovesComplete := by
  unfold Obligations.VectorMovesComplete
  intro s t d a b k ty im hr hp hfree n w seen puts masked
  have hsel {r} (hb : vselBody d a b k ty t s = r) : Answers (.vsel d a b k ty) s t r := hb ▸ .of_plain hr hp rfl
  have himm {r} (hb : vimmBody d ty im t s = r) : Answers (.vimm d ty im) s t r := hb ▸ .of_plain hr hp rfl
  have hmod (r : BitVec 5) (j : Nat) : laneOf ty (t.v r) j % 2 ^ laneW ty = laneOf ty (t.v r) j := Nat.mod_eq_of_lt (laneOf_lt ..)
  have hrand {g : Nat → Nat} := moveBody_completes hfree (.of_plain (i := .vrand d a b k ty) hr hp rfl) (g := g)
  have hiota {g : Nat → Nat} := moveBody_completes hfree (.of_plain (i := .viota d k ty) hr hp rfl) (g := g)
  refine ⟨?selTraps, fun hk => ?sel, ?bcast, ?perm, ?shuf, fun h => hiota fun j => by rw [viotaLane_int h],
    fun h => hiota fun j => by rw [viotaLane_float h], ?sld,
    fun h => hrand fun j => by rw [vrandLane_eq, drawLane_int h, Nat.mod_mod], ?randF32, ?randF16, ?randBF16, ?ext, ?ins,
    fun h => (himm (vimmBody_waits h)).holds, fun h hn => (himm (vimmBody_traps h hn)).traps, fun h x hx => ?imm, fun h => ?addInt,
    fun h => ?addFloat⟩
  case selTraps =>
    rintro rfl
    exact (hsel vselBody_traps).traps
  case sel =>
    refine setLanes_completes hfree (hsel (vselBody_writes hk)) fun j => ?_
    split
    · exact hmod ..
    · exact hmod ..
  case bcast => exact moveBody_completes hfree (f := fun t _ => (t.g a).toNat) (.of_plain hr hp rfl) fun _ => rfl
  case perm => exact moveBody_completes hfree (f := vpermLane a b ty) (.of_plain hr hp rfl) fun _ => rfl
  case shuf => exact moveBody_completes hfree (f := vshufLane d a b ty) (.of_plain hr hp rfl) fun _ => rfl
  case sld => exact moveBody_completes hfree (f := vsldLane a b ty) (.of_plain hr hp rfl) fun _ => rfl
  case randF32 =>
    rintro rfl
    exact hrand fun j => by rw [vrandLane_eq, drawLane_f32]
  case randF16 =>
    rintro rfl
    exact hrand fun j => by rw [vrandLane_eq, drawLane_f16]
  case randBF16 =>
    rintro rfl
    exact hrand fun j => by rw [vrandLane_eq, drawLane_bf16]
  case ext =>
    have h := vecBody_completes (.of_plain (i := .vext d a b ty) (body := vextBody d a b ty) hr hp rfl) hfree rfl
    simpa only [Strand.setG_vflags] using h
  case ins =>
    refine setLanes_completes hfree (f := fun t j => if j = (t.g b).toNat % laneN ty then (t.g a).toNat else laneOf ty (t.v d) j)
      (.of_plain hr hp rfl) fun j => ?_
    split
    · rfl
    · exact hmod ..
  case imm => exact setLanes_completes hfree (f := fun _ _ => x) (himm (vimmBody_writes h hx)) fun _ => rfl
  case addInt =>
    obtain ⟨v, hdone, hlanes⟩ := (vaddi_laneWord hr hp d ty im).completes_int hfree
      (g := fun x _ _ => laneInt ty x + if ty.isSigned then im.toInt else im.toNat)
      (fun m x _ _ _ => (laneAdd_int h m x _).trans (.add_left _ ((laneInt_modEq ..).trans (immLane_int _ h im))))
      (fun m x _ _ => by simp [laneAdd, h])
    exact ⟨v, hdone, hlanes⟩
  case addFloat =>
    obtain ⟨v, fl, hdone, hlanes, -⟩ := (vaddi_laneWord hr hp d ty im).completes hfree
    rw [immLane_float _ h] at hlanes
    exact ⟨v, fl, hdone, hlanes⟩

end Sys2Proof.Machine
end

section
/-!
SUPPORT. Conversions and reductions (R145, R146, R243; O22): the ways that vcvt ends, and what the fixed tree of a reduction makes of
its leaves.
-/
namespace Sys2Proof.Machine

/-! ### Conversions (R145) -/

section
variable {s : State} {t : Strand} {d a : BitVec 5} {r : BitVec 3} {u ty : EType}

theorem vcvtBody_waits (h : s.tableBusy t.core u = true ∨ s.tableBusy t.core ty = true) : vcvtBody d a u r ty t s = .hold s :=
  if_pos (by simpa using h)

section
variable (hfree : s.tgetBusy s.cur t = false) (hu : s.tableBusy t.core u = false) (hty : s.tableBusy t.core ty = false)
include hfree hu hty

theorem vcvtBody_traps
    (h : ∃ i < min (laneN u) (laneN ty), convLane (s.core t.core) (cvtMode t r) u ty (laneOf u (t.v a) i) = none) :
    vcvtBody d a u r ty t s = .trap 0x23 (tableTval ty) := by
  refine (if_neg (by simp [hu, hty])).trans (vecBody_traps hfree (if_pos ?_))
  simpa using h

theorem vcvtBody_converts
    (h : ∀ i < min (laneN u) (laneN ty), (convLane (s.core t.core) (cvtMode t r) u ty (laneOf u (t.v a) i)).isSome = true) :
    ∃ (v : Vec) (fl : BitVec 5),
      vcvtBody d a u r ty t s = .done (s.putMe { t.setV d v with vflags := t.vflags ++ [fl] }) ∧
      ∀ i < laneN ty, laneOf ty v i = if i < min (laneN u) (laneN ty)
        then ((convLane (s.core t.core) (cvtMode t r) u ty (laneOf u (t.v a) i)).getD (0, 0#5)).1 % 2 ^ laneW ty else 0 := by
  refine ⟨_, _, (if_neg (by simp [hu, hty])).trans (vecBody_done hfree (if_neg ?_)), fun i hi => ?_⟩
  · simpa [Option.isSome_iff_ne_none] using h
  · rw [laneOf_lanes _ _ _ hi]
    split
    · next hm => simp only [List.getElem?_map, List.getElem?_range hm, Option.map_some, Option.getD_some]
    · next hm => simp [List.getElem?_eq_none, Nat.not_lt.1 hm]

end

end

/-! ### The tree of a reduction (R146) -/

section
variable {op : Nat → Nat → LaneRes} {Q : Option LaneRes → Prop}

theorem redLevel_ne_nil {xs : List (Option LaneRes)} (h : xs ≠ []) : redLevel op xs ≠ [] := by
  cases xs with
  | nil => exact absurd rfl h
  | cons p r => cases r <;> simp [redLevel]

theorem redLevel_length (xs : List (Option LaneRes)) : (redLevel op xs).length = (xs.length + 1) / 2 := by
  induction xs using redLevel.induct with
  | case1 p q r ih =>
    simp only [redLevel, List.length_cons, ih]
    omega
  | case2 xs h =>
    match xs with
    | [] => rfl
    | [p] => simp [redLevel]
    | p :: q :: r => exact absurd rfl (h p q r)

/-- What each level of the tree keeps holds at its root. -/
theorem redTree_root {P : List (Option LaneRes) → Prop} (hlevel : ∀ xs, P xs → P (redLevel op xs)) (fuel : Nat)
    (xs : List (Option LaneRes)) (hne : xs ≠ []) (hlen : xs.length ≤ 2 ^ fuel) (h : P xs) : P [redTree op fuel xs] := by
  induction fuel generalizing xs with
  | zero =>
    obtain ⟨r, rfl⟩ := List.length_eq_one_iff.1 (Nat.le_antisymm hlen (List.length_pos_iff.2 hne))
    exact h
  | succ fuel ih =>
    refine ih _ (redLevel_ne_nil hne) ?_ (hlevel xs h)
    rw [redLevel_length]
    rw [Nat.pow_succ] at hlen
    omega

theorem redLevel_forall (hnode : ∀ p q, Q p → Q q → Q (redNode op p q)) (xs : List (Option LaneRes)) (h : ∀ r ∈ xs, Q r) :
    ∀ r ∈ redLevel op xs, Q r := by
  induction xs using redLevel.induct with
  | case1 p q r ih =>
    simp only [List.forall_mem_cons, redLevel] at h ⊢
    obtain ⟨hp, hq, hr⟩ := h
    exact ⟨hnode p q hp hq, ih hr⟩
  | case2 xs hxs => rwa [redLevel]; exact hxs

theorem redLevel_exists (hnode : ∀ p q, Q p ∨ Q q → Q (redNode op p q)) (xs : List (Option LaneRes)) (h : ∃ r ∈ xs, Q r) :
    ∃ r ∈ redLevel op xs, Q r := by
  induction xs using redLevel.induct with
  | case1 p q r ih =>
    simp only [List.exists_mem_cons_iff, redLevel] at h ⊢
    rw [← or_assoc] at h
    exact h.imp (hnode p q) ih
  | case2 xs hxs => rwa [redLevel]; exact hxs

end

/-- The sum of the leaves that are there. -/
def leafSum (xs : List (Option LaneRes)) : Nat := (xs.map fun r => r.elim 0 Prod.fst).sum

/-- The leaf, where there is one, is one of a set. -/
def LeafIn (S : Nat → Prop) (r : Option LaneRes) : Prop := ∀ z, r.map Prod.fst = some z → S z

/-- The lane of a least or greatest value, by its order: the greatest is the least by the opposite order. -/
def laneKey (big : Bool) (ty : EType) (x : Nat) : Int := if big then -laneInt ty x else laneInt ty x

/-- There is a leaf, and it comes no later than n. -/
def LeafBelow (big : Bool) (ty : EType) (n : Int) (r : Option LaneRes) : Prop := ∃ z ∈ r, laneKey big ty z.1 ≤ n

/-- An integer leaf of the tree: it brings no flag. -/
def intLeaf (x : Option Nat) : Option LaneRes := x.map fun p => (p, 0#5)

section
variable {ty : EType} (hint : ty.isInt = true)
include hint

theorem redNode_sum (m : Nat) (p q : Option LaneRes) :
    (redNode (laneAdd ty m) p q).elim 0 Prod.fst ≡ p.elim 0 Prod.fst + q.elim 0 Prod.fst [MOD 2 ^ laneW ty] := by
  match p, q with
  | none, none => rfl
  | some _, none => rfl
  | none, some (y, g) => exact (Nat.zero_add y).symm ▸ .refl _
  | some (x, f), some (y, g) =>
    simp only [redNode, laneAdd, hint, if_true, Option.elim_some]
    exact Nat.mod_modEq ..

theorem redLevel_sum (m : Nat) (xs : List (Option LaneRes)) :
    leafSum (redLevel (laneAdd ty m) xs) ≡ leafSum xs [MOD 2 ^ laneW ty] := by
  induction xs using redLevel.induct with
  | case1 p q r ih =>
    simp only [redLevel, leafSum, List.map_cons, List.sum_cons, ← Nat.add_assoc] at ih ⊢
    exact (redNode_sum hint m p q).add ih
  | case2 xs hxs => rw [redLevel]; exact hxs

theorem laneN_le_of_isInt : laneN ty ≤ 2 ^ 6 := by
  revert hint
  cases ty <;> decide

/-- An integer sum is the sum of the leaves modulo 2^w, whatever the tree (R146). -/
theorem reduce_sum_int (m : Nat) {xs : List (Option Nat)} (hne : xs ≠ []) (hlen : xs.length ≤ 2 ^ 6) :
    (reduce .sum ty m xs).1 ≡ leafSum (xs.map intLeaf) [MOD 2 ^ laneW ty] := by
  have hroot : leafSum [redTree (laneAdd ty m) 6 (xs.map intLeaf)] ≡ leafSum (xs.map intLeaf) [MOD 2 ^ laneW ty] :=
    redTree_root (P := fun l => leafSum l ≡ leafSum (xs.map intLeaf) [MOD 2 ^ laneW ty])
      (fun l hl => (redLevel_sum hint m l).trans hl) 6 _ (by simpa using hne) (by simpa using hlen) (.refl _)
  have hty : ty ≠ .bf16 := by rintro rfl; exact absurd hint (by decide)
  have hleaf : (fun x : Option Nat => x.map fun p => (p, 0#5)) = intLeaf := rfl
  simp only [reduce, hty, hint, decide_false, Bool.and_false, Bool.false_eq_true, if_false, if_true, hleaf]
  cases h : redTree (laneAdd ty m) 6 (xs.map intLeaf) with
  | none => simpa [h, leafSum] using hroot
  | some z => simpa [h, leafSum] using hroot

theorem laneMinMax_key (big : Bool) (x y : Nat) : ((laneMinMax big ty x y).1 = x ∨ (laneMinMax big ty x y).1 = y) ∧
    laneKey big ty (laneMinMax big ty x y).1 ≤ laneKey big ty x ∧ laneKey big ty (laneMinMax big ty x y).1 ≤ laneKey big ty y := by
  have hle : laneMinMax big ty x y = (if laneKey big ty x ≤ laneKey big ty y then x else y, 0#5) := by
    cases big <;> simp [laneMinMax, hint, laneKey]
  rw [hle]
  grind

theorem redNode_leafIn {S : Nat → Prop} (big : Bool) :
    ∀ p q, LeafIn S p → LeafIn S q → LeafIn S (redNode (laneMinMax big ty) p q)
  | _, none, hp, _ => by simpa [redNode] using hp
  | none, some _, _, hq => hq
  | some (x, _), some (y, _), hp, hq => by
    intro z hz
    obtain rfl : (laneMinMax big ty x y).1 = z := Option.some.inj hz
    have hx : S x := hp _ rfl
    have hy : S y := hq _ rfl
    obtain ⟨h | h, -⟩ := laneMinMax_key hint big x y
    · rwa [h]
    · rwa [h]

theorem redNode_leafBelow {n : Int} (big : Bool) :
    ∀ p q, LeafBelow big ty n p ∨ LeafBelow big ty n q → LeafBelow big ty n (redNode (laneMinMax big ty) p q)
  | _, none, h => by simpa [redNode, LeafBelow] using h
  | none, some _, h => by simpa [redNode, LeafBelow] using h
  | some (x, _), some (y, _), h => by
    simp only [LeafBelow, redNode, Option.mem_def, Option.some.injEq, exists_eq_left'] at h ⊢
    obtain ⟨-, hx, hy⟩ := laneMinMax_key hint big x y
    exact h.elim hx.trans hy.trans

/-- The tree of a least or greatest leaf finds one of the leaves, and none comes before it. -/
theorem redTree_least (big : Bool) {xs : List (Option Nat)} (hlen : xs.length ≤ 2 ^ 6) {x : Nat} (hx : some x ∈ xs) :
    ∃ z, (redTree (laneMinMax big ty) 6 (xs.map intLeaf)).map Prod.fst = some z ∧ some z ∈ xs ∧
      ∀ p, some p ∈ xs → laneKey big ty z ≤ laneKey big ty p := by
  have hroot {P : List (Option LaneRes) → Prop} (hlevel : ∀ l, P l → P (redLevel (laneMinMax big ty) l)) :=
    redTree_root hlevel 6 (xs.map intLeaf) (List.ne_nil_of_mem (List.mem_map_of_mem hx)) (by simpa using hlen)
  have hfrom : LeafIn (some · ∈ xs) (redTree (laneMinMax big ty) 6 (xs.map intLeaf)) := by
    refine List.forall_mem_singleton.1 (hroot (redLevel_forall (redNode_leafIn hint big)) ?_)
    rintro r hr z hz
    obtain ⟨y, hy, rfl⟩ := List.mem_map.1 hr
    obtain rfl : y = some z := by simpa [intLeaf, Function.comp_def] using hz
    exact hy
  have hbelow (p : Nat) (hp : some p ∈ xs) :
      LeafBelow big ty (laneKey big ty p) (redTree (laneMinMax big ty) 6 (xs.map intLeaf)) := by
    obtain ⟨r, hr, h⟩ := hroot (redLevel_exists (redNode_leafBelow hint big)) ⟨_, List.mem_map_of_mem hp, (p, 0#5), rfl, le_rfl⟩
    exact List.mem_singleton.1 hr ▸ h
  obtain ⟨z, hz, -⟩ := hbelow x hx
  refine ⟨z.1, congrArg (Option.map Prod.fst) hz, hfrom _ (congrArg (Option.map Prod.fst) hz), fun q hq => ?_⟩
  obtain ⟨z', hz', hle⟩ := hbelow q hq
  exact Option.some.inj (hz.symm.trans hz') ▸ hle

theorem reduce_of_root {r : Red} {big : Bool} (hop : (r = .min ∧ big = false) ∨ (r = .max ∧ big = true)) (m : Nat)
    {xs : List (Option Nat)} {z : Nat} (h : (redTree (laneMinMax big ty) 6 (xs.map intLeaf)).map Prod.fst = some z) :
    (reduce r ty m xs).1 = z := by
  obtain ⟨⟨z, f⟩, hroot, rfl⟩ := Option.map_eq_some_iff.1 h
  have hroot' : redTree (laneMinMax big ty) 6 (xs.map fun x => x.map fun p => (p, 0#5)) = some (z, f) := hroot
  obtain ⟨rfl, rfl⟩ | ⟨rfl, rfl⟩ := hop
  · simp [reduce, hint, hroot', -Int.reducePow]
  · simp [reduce, hint, hroot', -Int.reducePow]

end

theorem laneN_pos (ty : EType) : 0 < laneN ty := by cases ty <;> decide
/-! ### The lanes that a reduction writes -/

section
variable {i : Instr} {s : State} {t : Strand} {d a : BitVec 5} {k : BitVec 3} {ty : EType} {r : Red}

/-- The lanes that a reduction takes: nothing for a masked one (R146). -/
def Strand.redLanes (t : Strand) (a : BitVec 5) (k : BitVec 3) (ty : EType) : List (Option Nat) :=
  (List.range (laneN ty)).map fun i => if t.laneOn k ty i then some (laneOf ty (t.v a) i) else none

theorem Strand.redLanes_ne_nil : t.redLanes a k ty ≠ [] := by
  simpa [Strand.redLanes] using (laneN_pos ty).ne'

@[simp] theorem Strand.redLanes_length : (t.redLanes a k ty).length = laneN ty := by simp [Strand.redLanes]

theorem Strand.some_mem_redLanes {x : Nat} : some x ∈ t.redLanes a k ty ↔
    ∃ i ∈ (List.range (laneN ty)).filter fun i => t.laneOn k ty i, laneOf ty (t.v a) i = x := by
  simp [Strand.redLanes, and_assoc]

theorem Strand.leafSum_redLanes : leafSum ((t.redLanes a k ty).map intLeaf) =
    (((List.range (laneN ty)).filter fun i => t.laneOn k ty i).map fun i => laneOf ty (t.v a) i).foldl (· + ·) 0 := by
  rw [← List.sum_eq_foldl]
  unfold leafSum Strand.redLanes
  induction List.range (laneN ty) with
  | nil => rfl
  | cons j l ih =>
    by_cases hj : t.laneOn k ty j = true
    · simpa [hj, intLeaf] using ih
    · simpa [hj, intLeaf] using ih

theorem redBody_completes (hfree : s.tgetBusy s.cur t = false) (hi : Answers i s t (redBody r d a k ty t s)) :
    ∃ v : Vec, Completes i s t (s.putMe { t.setV d v with vflags := t.vflags ++ [(reduce r ty t.frm (t.redLanes a k ty)).2] }) ∧
      laneOf ty v 0 = (reduce r ty t.frm (t.redLanes a k ty)).1 % 2 ^ laneW ty ∧ ∀ j < laneN ty, 0 < j → laneOf ty v j = 0 := by
  refine ⟨_, vecBody_completes hi hfree rfl, laneOf_lanes _ _ _ (laneN_pos ty), fun j hj hpos => ?_⟩
  rw [laneOf_lanes _ _ _ hj, if_neg hpos.ne', Nat.zero_mod]

section
variable (hint : ty.isInt = true) (m : Nat)
include hint

theorem reduce_sum_lanes : (reduce .sum ty m (t.redLanes a k ty)).1 % 2 ^ laneW ty =
    (((List.range (laneN ty)).filter fun i => t.laneOn k ty i).map fun i => laneOf ty (t.v a) i).foldl (· + ·) 0 % 2 ^ laneW ty := by
  rw [← Strand.leafSum_redLanes]
  exact reduce_sum_int hint m Strand.redLanes_ne_nil (by simpa using laneN_le_of_isInt hint)

/-- An integer vredmin or vredmax of at least one lane leaves one of the lanes, and none comes before it (R146). -/
theorem reduce_least_lanes {big : Bool} (hop : (r = .min ∧ big = false) ∨ (r = .max ∧ big = true))
    (hon : ((List.range (laneN ty)).filter fun i => t.laneOn k ty i) ≠ []) :
    (∃ i ∈ (List.range (laneN ty)).filter fun i => t.laneOn k ty i,
      (reduce r ty m (t.redLanes a k ty)).1 % 2 ^ laneW ty = laneOf ty (t.v a) i) ∧
    ∀ i ∈ (List.range (laneN ty)).filter fun i => t.laneOn k ty i,
      laneKey big ty ((reduce r ty m (t.redLanes a k ty)).1 % 2 ^ laneW ty) ≤ laneKey big ty (laneOf ty (t.v a) i) := by
  obtain ⟨j, hj⟩ := List.exists_mem_of_ne_nil _ hon
  obtain ⟨z, hz, hmem, hle⟩ := redTree_least hint big (xs := t.redLanes a k ty) (by simpa using laneN_le_of_isInt hint)
    (Strand.some_mem_redLanes.2 ⟨j, hj, rfl⟩)
  rw [reduce_of_root hint hop m hz]
  obtain ⟨i, hi, rfl⟩ := Strand.some_mem_redLanes.1 hmem
  rw [Nat.mod_eq_of_lt (laneOf_lt ..)]
  exact ⟨⟨i, hi, rfl⟩, fun i' hi' => hle _ (Strand.some_mem_redLanes.2 ⟨i', hi', rfl⟩)⟩

end

end

/-- Settles O22: the ways that vcvt ends; and a reduction, whose tree keeps the sum of its leaves and their least and greatest. -/
theorem conversionsAndReductionsComplete : Obligations.ConversionsAndReductionsComplete := by
  unfold Obligations.ConversionsAndReductionsComplete
  intro s t d a k r u ty hr hp hfree
  have hcvt {x} (hb : vcvtBody d a u r ty t s = x) : Answers (.vcvt d a u r ty) s t x := hb ▸ .of_plain hr hp rfl
  refine ⟨⟨fun h => (hcvt (vcvtBody_waits h)).holds, fun hu hty =>
    ⟨fun h => (hcvt (vcvtBody_traps hfree hu hty h)).traps, fun h => ?converts⟩⟩, ?reduces⟩
  case converts =>
    obtain ⟨v, fl, hdone, hlanes⟩ := vcvtBody_converts hfree hu hty h
    exact ⟨v, fl, (hcvt hdone).completes, hlanes⟩
  case reduces =>
    intro xs on p hmem
    have hans : Answers p.1 s t (redBody p.2 d a k ty t s) := by
      revert p
      simp only [List.forall_mem_cons, List.not_mem_nil, false_imp_iff, implies_true, and_true]
      exact ⟨.of_plain hr hp rfl, .of_plain hr hp rfl, .of_plain hr hp rfl⟩
    obtain ⟨v, hdone, hzero, hrest⟩ := redBody_completes hfree hans
    refine ⟨v, hdone, hzero, hrest, fun hint hop => ?sum, fun hint hop hon => ?min, fun hint hop hon => ?max⟩
    case sum => rw [hzero, hop, reduce_sum_lanes hint]
    case min =>
      rw [hzero]
      exact reduce_least_lanes hint t.frm (.inl ⟨hop, rfl⟩) hon
    case max =>
      rw [hzero]
      obtain ⟨hfrom, hge⟩ := reduce_least_lanes hint t.frm (.inr ⟨hop, rfl⟩) hon
      exact ⟨hfrom, fun j hj => neg_le_neg_iff.1 (hge j hj)⟩

end Sys2Proof.Machine
end

section
/-!
SUPPORT. Vector memory (R112, R140 to R143; O23): how a load and a store end that have kept nothing of an earlier attempt.
-/
namespace Sys2Proof.Machine

/-- A word that traps on a state into which it has put its strand takes the trap there (R217). -/
theorem Answers.trapsIn {i : Instr} {s s' : State} {t t' : Strand} {c : Nat} {v : Word64}
    (h : Answers i s t (.trapIn (s'.putMe t') c v)) :
    exec i s = .next ((s'.putMe t').trapMe (t'.countWatch (s.watchStep t)) c v) := by
  obtain ⟨hr, g, body, hi, hg, hm, hb⟩ := h
  have hme : (s'.putMe t').strand? (s'.putMe t').cur = some t' := State.me_putMe ..
  rw [hi, runWord_ready hr hg hm, hb]
  simp only [hme]

/-! ### The strand at a vector memory instruction (R142) -/

section
variable (t : Strand)

theorem Strand.claimLanes_cases : ∃ p, t.claimLanes = { t with prog := p } := by
  unfold Strand.claimLanes
  split
  · exact ⟨_, rfl⟩
  · exact ⟨_, rfl⟩

@[simp] theorem Strand.claimLanes_v (r : BitVec 5) : t.claimLanes.v r = t.v r := by
  obtain ⟨p, h⟩ := t.claimLanes_cases
  rw [h]; rfl
@[simp] theorem Strand.claimLanes_memOn : t.claimLanes.memOn = t.memOn := by
  obtain ⟨p, h⟩ := t.claimLanes_cases
  rw [h]; rfl
@[simp] theorem Strand.claimLanes_vf : t.claimLanes.vf = t.vf := by
  obtain ⟨p, h⟩ := t.claimLanes_cases
  rw [h]
@[simp] theorem Strand.claimLanes_pc : t.claimLanes.pc = t.pc := by
  obtain ⟨p, h⟩ := t.claimLanes_cases
  rw [h]
@[simp] theorem Strand.claimLanes_timeout : t.claimLanes.timeout = t.timeout := by
  obtain ⟨p, h⟩ := t.claimLanes_cases
  rw [h]
@[simp] theorem Strand.claimLanes_vflags : t.claimLanes.vflags = t.vflags := by
  obtain ⟨p, h⟩ := t.claimLanes_cases
  rw [h]

/-- A strand that has kept nothing has no lane pending, none loaded and no lane to resume at. -/
theorem Strand.claimLanes_prog {t : Strand} (h : t.prog = Progress.none) :
    t.claimLanes.prog = { Progress.none with lanesAt := some t.pc } := by simp [Strand.claimLanes, h, Progress.none]

end

/-! ### The bits that a load replaces -/

theorem memBytes_pos (ty : EType) : 0 < 8 * memBytes ty := by cases ty <;> decide

/-- The bits of the access lanes that a mask leaves on (R140). -/
theorem laneMask_testBit {n N : Nat} (hn : 0 < 8 * n) (p : Nat → Bool) (j : Nat) :
    (((List.range N).filter p).foldl (fun a i => a + (2 ^ (8 * n) - 1) <<< (8 * n * i)) 0).testBit j =
      decide (j / (8 * n) ∈ (List.range N).filter p) := by
  rw [List.foldl_filter, foldl_places_testBit hn (Nat.sub_lt (Nat.two_pow_pos _) Nat.one_pos), Nat.testBit_two_pow_sub_one]
  simp [Nat.mod_lt _ hn]

/-- Loaded lanes go over the old ones where the mask is set. -/
theorem getLsbD_laneMask {n N : Nat} (hn : 0 < 8 * n) (p : Nat → Bool) (old new : Vec) {j : Nat} (hj : j < 512) :
    ((old &&& ~~~(BitVec.ofNat 512 (((List.range N).filter p).foldl (fun a i => a + (2 ^ (8 * n) - 1) <<< (8 * n * i)) 0))) |||
      (new &&& BitVec.ofNat 512 (((List.range N).filter p).foldl (fun a i => a + (2 ^ (8 * n) - 1) <<< (8 * n * i)) 0))).getLsbD j =
      if j / (8 * n) ∈ (List.range N).filter p then new.getLsbD j else old.getLsbD j := by
  simp only [BitVec.getLsbD_or, BitVec.getLsbD_and, BitVec.getLsbD_not, BitVec.getLsbD_ofNat, laneMask_testBit hn, hj, decide_true,
    Bool.true_and]
  split <;> simp [*]

/-! ### Loads -/

section
variable {s : State} {t : Strand} (hfree : s.tgetBusy s.cur t = false) (hprog : t.prog = Progress.none)
  {d : BitVec 5} {k : BitVec 3} {ty : EType} {addr : Strand → Except (Nat × Word64) (Option Word64 × (Nat → Int))}
include hfree

theorem vloadBody_refuses {c : Nat} {v : Word64} (h : addr t = .error (c, v)) : vloadBody d k ty addr t s = .trap c v := by
  simp [vloadBody, hfree, h]

theorem vstoreBody_refuses {line : Bool} {c : Nat} {v : Word64} (h : addr t = .error (c, v)) :
    vstoreBody line d k ty addr t s = .trap c v := by
  simp [vstoreBody, hfree, h]

section
variable {bs : Option Word64} {ea : Nat → Int} (haddr : addr t = .ok (bs, ea))
include hprog haddr

section
variable {m : LaneMap} (hm : s.checkLanes t.claimLanes bs ea (memBytes ty) .read ((List.range (memN ty)).filter (t.memOn k)) = m)
include hm

theorem vloadBody_fails {c : Nat} {v : Word64} (h : m.fail = some (c, v)) :
    vloadBody d k ty addr t s = .trapIn (m.s.putMe t.claimLanes) c v := by
  simp [vloadBody, hfree, haddr, Strand.claimLanes_prog hprog, Progress.none, hm, h, State.laneTrap]

theorem vloadBody_loads (hfail : m.fail = none) (hhost : m.host = none) (habsent : m.absent = []) {s' : State} {v : Vec}
    (hread : m.s.readLanes t.claimLanes (memBytes ty) 0#512 m.present = .ok s' v) :
    ∃ x : Vec, vloadBody d k ty addr t s = .done (s'.putMe { t.claimLanes.setV d x with vflags := t.vflags ++ [0#5] }) ∧
      ∀ j < 512, x.getLsbD j =
        if j / (8 * memBytes ty) ∈ (List.range (memN ty)).filter (t.memOn k) then v.getLsbD j else (t.v d).getLsbD j := by
  refine ⟨_, ?_, fun j hj => getLsbD_laneMask (memBytes_pos ty) (t.memOn k) (t.v d) v hj⟩
  simp [vloadBody, hfree, haddr, Strand.claimLanes_prog hprog, Progress.none, hm, hfail, hhost, habsent, hread]

end

/-! ### Stores -/

section
variable {m : LaneMap} (hm : s.checkLanes t.claimLanes bs ea (memBytes ty) .write ((List.range (memN ty)).filter (t.memOn k)) = m)
  {line : Bool}
include hm

theorem vstoreBody_fails {c : Nat} {v : Word64} (h : m.fail = some (c, v)) :
    vstoreBody line d k ty addr t s = .trapIn (m.s.putMe t.claimLanes) c v := by
  simp [vstoreBody, hfree, haddr, Strand.claimLanes_prog hprog, Progress.none, hm, h, State.laneTrap]

theorem vstoreBody_stores (hr : Ready s t) (hfail : m.fail = none) (hhost : m.host = none) (habsent : m.absent = []) {s1 s' : State} {t' : Strand}
    {lost : Option (Nat × Nat × Target)} {ls : List (Nat × Nat × Target)}
    (hlost : lost = if t.timeout then m.present.head? else none) (hs1 : s1 = lost.elim m.s fun p => m.s.reportLost t.claimLanes p.2.1 p.2.2)
    (hls : ls = if lost.isSome = true ∧ Config.lostPerformed s1.tick = false then m.present.tail else m.present)
    (hstore : storeLanes line (memBytes ty) (t.v d) t.vf 65 s1 { t.claimLanes with timeout := false } ls = (s', t', none)) :
    vstoreBody line d k ty addr t s = .done (s'.putMe { t' with vflags := t'.vflags ++ [0#5] }) := by
  have hpc := hr.pc_le
  have hlane : t.claimLanes.prog.lane = none := by rw [Strand.claimLanes_prog hprog]; rfl
  subst hls hs1 hlost
  simp only [Strand.claimLanes_vf, Strand.claimLanes_pc, Strand.claimLanes_vflags] at hstore
  simp only [vstoreBody, hfree, Bool.false_eq_true, if_false, haddr, Strand.claimLanes_memOn, hlane, Option.getD_none, Nat.zero_le,
    decide_true, List.filter_true, hm, hfail, hhost, Strand.claimLanes_pc, hpc, habsent, Strand.claimLanes_timeout, Strand.claimLanes_v,
    Strand.claimLanes_vf, Strand.claimLanes_vflags, Bool.and_eq_true, Bool.not_eq_true', hstore]

end

end

end

/-! ### References (R26, R140) -/

section
variable {t : Strand} {a : BitVec 5} {ty : EType}

theorem refAddrs_refuses {p : Nat × Word64} (h : refCheck (t.g a) = some p) : refAddrs a ty t = .error p := by simp [refAddrs, h]

theorem refAddrs_misfit (h : refCheck (t.g a) = none) (hbad : blockBytes (t.g a) ≠ 64 ∨ 2 ^ refE (t.g a) ≠ memBytes ty) :
    refAddrs a ty t = .error (0x07, t.g a) := by simp [refAddrs, h, hbad]

theorem refAddrs_block (h : refCheck (t.g a) = none) (hbytes : blockBytes (t.g a) = 64) (he : 2 ^ refE (t.g a) = memBytes ty) :
    refAddrs a ty t = .ok (none, fun i => (refAddr (t.g a) : Int) + i * memBytes ty) := by simp [refAddrs, h, hbytes, he]

end

/-- Settles O23: the eight forms are one load and one store, with the addresses of each. -/
theorem vectorMemoryCompletes : Obligations.VectorMemoryCompletes := by
  unfold Obligations.VectorMemoryCompletes
  intro s t d a b k ty hr hp hfree hprog n on base t0 unit stride index blk loads stores
  have load {ins addr bs ea} (hi : Answers ins s t (vloadBody d k ty addr t s)) (haddr : addr t = .ok (bs, ea)) : loads ins bs ea := by
    refine ⟨fun c v h => (vloadBody_fails hfree hprog haddr rfl h ▸ hi).trapsIn, fun hfail hhost habsent s' v hread => ?_⟩
    obtain ⟨x, hdone, hbits⟩ := vloadBody_loads (d := d) hfree hprog haddr rfl hfail hhost habsent hread
    exact ⟨x, (hdone ▸ hi).completes, hbits⟩
  have store {ins line addr bs ea} (hi : Answers ins s t (vstoreBody line d k ty addr t s)) (haddr : addr t = .ok (bs, ea)) :
      stores ins line bs ea :=
    ⟨fun c v h => (vstoreBody_fails hfree hprog haddr rfl h ▸ hi).trapsIn, fun hfail hhost habsent s' t' hstore =>
      (vstoreBody_stores hfree hprog haddr rfl hr hfail hhost habsent rfl rfl rfl hstore ▸ hi).completes⟩
  have hvldr : Answers (.vldr d a k ty) s t (vloadBody d k ty (refAddrs a ty) t s) := .of_plain hr hp rfl
  have hvstr : Answers (.vstr d a k ty) s t (vstoreBody true d k ty (refAddrs a ty) t s) := .of_plain hr hp rfl
  have refuses {c v} (h : refAddrs a ty t = .error (c, v)) : Traps (.vldr d a k ty) s t c v ∧ Traps (.vstr d a k ty) s t c v :=
    ⟨(vloadBody_refuses hfree h ▸ hvldr).traps, (vstoreBody_refuses hfree h ▸ hvstr).traps⟩
  exact ⟨load (addr := unitAddr a ty) (.of_plain hr hp rfl) rfl, load (addr := strideAddr a b) (.of_plain hr hp rfl) rfl,
    load (addr := indexAddr a b ty) (.of_plain hr hp rfl) rfl, store (addr := unitAddr a ty) (.of_plain hr hp rfl) rfl,
    store (addr := strideAddr a b) (.of_plain hr hp rfl) rfl, store (addr := indexAddr a b ty) (.of_plain hr hp rfl) rfl,
    fun p h => refuses (refAddrs_refuses h), fun h hbad => refuses (refAddrs_misfit h hbad),
    fun h hbytes he => ⟨load hvldr (refAddrs_block h hbytes he), store hvstr (refAddrs_block h hbytes he)⟩⟩

end Sys2Proof.Machine
end

section
/-!
SUPPORT. The completions of the vector and the matrix unit (R55, R130, R151, R157, R158, R164, R168): when the oldest accepted
instruction of a strand can complete, and one equation for each way that a completion ends (O27).
-/
namespace Sys2Proof.Machine

@[simp] theorem Strand.orFlags_zero (t : Strand) : t.orFlags 0#5 = t := by simp [Strand.orFlags]

/-! ### When an accepted instruction can complete (R157, R168, R295) -/

theorem Quad.uid_of_oldest {x : Quad} {u : Nat} {o : MatOp} (ho : x.oldest u = some o) : o.uid = u := by
  simpa using List.find?_some ho

section
variable {s : State} {q : Nat} {o : MatOp} {t : Strand}

theorem State.canComplete_owing (howes : o.owes ≠ 0) : s.canComplete q o = false := by simp [State.canComplete, howes]

theorem State.canComplete_unreleased (hrel : s.released o = false) : s.canComplete q o = false := by simp [State.canComplete, hrel]

theorem State.released_of_no_dest (hdest : o.dest = none) : s.released o = true := by simp [State.released, hdest]

section
variable (hu : s.strand? o.uid = some t)
include hu

theorem State.released_of_younger (hbuf : ∀ e ∈ t.buf, o.stamp ≤ e.stamp) : s.released o = true := by
  simpa [State.released, hu] using .inr hbuf

theorem State.released_of_older (hdest : o.dest ≠ none) (hbuf : ∃ e ∈ t.buf, e.stamp < o.stamp) : s.released o = false := by
  simpa [State.released, hu] using ⟨Option.ne_none_iff_isSome.1 hdest, hbuf⟩

/-- Only a TST and an MMAX that forwards wait for more than energy and their strand's stores. -/
theorem State.canComplete_of (howes : o.owes = 0) (hrel : s.released o = true)
    (htst : ∀ va side, o.kind = .tst va side → ∀ e ∈ t.buf, e.va ≠ va ∨ e.segs.length < 8)
    (hmmax : ∀ c, o.kind = .mmax c true → ∀ m ∈ (s.quad (q + 1)).streams, m.arrived = true) : s.canComplete q o = true := by
  rw [State.canComplete, howes, hrel]
  cases hk : o.kind with
  | tst va side =>
    have hbuf : (t.buf.any fun e => e.va == va && 8 ≤ e.segs.length) = false := List.any_eq_false.2 fun e he => by
      rcases htst va side hk e he with hva | hlen
      · simp [hva]
      · simp [Nat.not_le.2 hlen]
    simp [hu, hbuf]
  | mmax c east =>
    cases east with
    | false => rfl
    | true => simpa using .inr (hmmax c hk)
  | _ => rfl

end

end

/-! ### What a completion leaves (R151, R158, R164) -/

/-- The kinds of instruction whose completion defines a name. -/
def MatKind.Defines : MatKind → Prop
  | .tget .. | .tst .. | .mlut .. => False
  | _ => True

theorem MatOp.definition_seal {o : MatOp} {x : Quad} {m : Name} (hk : o.kind = .seal) : o.definition x m = (m, 0#5) := by
  simp only [MatOp.definition, hk]

theorem MatOp.definition_mzero {o : MatOp} {x : Quad} {m : Name} (hk : o.kind = .mzero) : o.definition x m = (m.zeroed, 0#5) := by
  simp only [MatOp.definition, hk]

theorem MatOp.definition_computed {o : MatOp} {x : Quad} {m : Name} (hseal : o.kind ≠ .seal) (hmzero : o.kind ≠ .mzero) :
    o.definition x m =
      ({ m with data := (o.result x m).1, poison := m.poison.filter (256 ≤ ·) }, (o.result x m).2) := by
  unfold MatOp.definition
  split
  · contradiction
  · contradiction
  · rfl

/-- A state in which an accepted instruction has left the unit. -/
def State.tookOp (s : State) (q : Nat) (o : MatOp) : State :=
  s.putQuad q { s.quad q with ops := dropOp o (s.quad q).ops }

section
variable {s : State} {u : Nat} {t : Strand} {o : MatOp} (ho : (s.quad (quadOf t.core)).oldest u = some o)
include ho

theorem State.completeOp_stays (hcan : s.canComplete (quadOf t.core) o = false) : s.completeOp u t = s := by
  simp [State.completeOp, ho, hcan]

section
variable (hcan : s.canComplete (quadOf t.core) o = true)
include hcan

theorem State.completeOp_tget {vm h : Nat} (hk : o.kind = .tget vm h) :
    s.completeOp u t = (s.tookOp (quadOf t.core) o).putStrand u (t.setV (BitVec.ofNat 5 vm)
      (let m := (s.quad (quadOf t.core)).name (o.reads.headD 0)
       bytesLine (if h < 64 then (m.data.drop (64 * h)).take 64 else (m.side.drop (64 * (h - 64))).take 64))) := by
  simp only [State.completeOp, ho, hcan, hk]
  rfl

theorem State.completeOp_tst {va : Nat} {side : Bool} (hk : o.kind = .tst va side) :
    s.completeOp u t = s.tookOp (quadOf t.core) o := by
  simp only [State.completeOp, ho, hcan, hk]
  rfl

theorem State.completeOp_mlut {b nib : Bool} {img : List (BitVec 19)} (hk : o.kind = .mlut b nib img) :
    s.completeOp u t = (s.tookOp (quadOf t.core) o).putCore t.core
      (((s.tookOp (quadOf t.core) o).core t.core).loadTable b nib img) := by
  simp only [State.completeOp, ho, hcan, hk]
  rfl

section
variable {m : Nat} (hk : o.kind.Defines) (hdest : o.dest = some m)
include hk hdest

theorem State.completeOp_of_defines :
    s.completeOp u t =
      if ((s.quad (quadOf t.core)).name m).st = .declared ∧ ((s.quad (quadOf t.core)).name m).decl = o.decl then
        ((s.tookOp (quadOf t.core) o).putStrand u
          (t.orFlags (o.definition (s.quad (quadOf t.core)) ((s.quad (quadOf t.core)).name m)).2)).define (quadOf t.core) m
          (o.definition (s.quad (quadOf t.core)) ((s.quad (quadOf t.core)).name m)).1
      else s.tookOp (quadOf t.core) o := by
  cases hkind : o.kind with
  | tget => simp [hkind, MatKind.Defines] at hk
  | tst => simp [hkind, MatKind.Defines] at hk
  | mlut => simp [hkind, MatKind.Defines] at hk
  | _ => simp [State.completeOp, ho, hcan, hkind, hdest, State.tookOp]

theorem State.completeOp_defines {d : Name × BitVec 5}
    (hd : o.definition (s.quad (quadOf t.core)) ((s.quad (quadOf t.core)).name m) = d)
    (hst : ((s.quad (quadOf t.core)).name m).st = .declared) (hdecl : ((s.quad (quadOf t.core)).name m).decl = o.decl) :
    s.completeOp u t = ((s.tookOp (quadOf t.core) o).putStrand u (t.orFlags d.2)).define (quadOf t.core) m d.1 := by
  rw [State.completeOp_of_defines ho hcan hk hdest, if_pos ⟨hst, hdecl⟩, hd]

theorem State.completeOp_broken (hbroken : ((s.quad (quadOf t.core)).name m).st ≠ .declared ∨
      ((s.quad (quadOf t.core)).name m).decl ≠ o.decl) :
    s.completeOp u t = s.tookOp (quadOf t.core) o := by
  rw [State.completeOp_of_defines ho hcan hk hdest, if_neg (not_and_or.2 hbroken)]

end

end

end

/-! ### The completion steps (R55, R130, R151, R168) -/

section
variable {s : State} {u : Nat} {t : Strand} (hu : s.strand? u = some t)
include hu

theorem vectorCompletion_ors {f : BitVec 5} {r : List (BitVec 5)} (hflags : t.vflags = f :: r) :
    exec (.vectorCompletion u) s = .next (s.putStrand u (({ t with vflags := r } : Strand).orFlags f)) := by
  change execVectorCompletion u s = _
  simp only [execVectorCompletion, hu, hflags]

theorem matrixCompletion_completes {s' : State} (h : s.completeOp u t = s') : exec (.matrixCompletion u) s = .next s' := by
  change execMatrixCompletion u s = _
  simp only [execMatrixCompletion, hu, h]

/-- An instruction that defines a name completes once its strand's earlier stores are performed (R55, R266). -/
theorem matrixCompletion_defines {o : MatOp} {m : Nat} {d : Name × BitVec 5}
    (ho : (s.quad (quadOf t.core)).oldest u = some o) (howes : o.owes = 0) (hdest : o.dest = some m)
    (hbuf : ∀ e ∈ t.buf, o.stamp ≤ e.stamp) (hk : o.kind.Defines)
    (hmmax : ∀ c, o.kind = .mmax c true → ∀ st ∈ (s.quad (quadOf t.core + 1)).streams, st.arrived = true)
    (hd : o.definition (s.quad (quadOf t.core)) ((s.quad (quadOf t.core)).name m) = d) :
    (((s.quad (quadOf t.core)).name m).st = .declared → ((s.quad (quadOf t.core)).name m).decl = o.decl →
      exec (.matrixCompletion u) s = .next
        (((s.tookOp (quadOf t.core) o).putStrand u (t.orFlags d.2)).define (quadOf t.core) m d.1)) ∧
    (((s.quad (quadOf t.core)).name m).st ≠ .declared ∨ ((s.quad (quadOf t.core)).name m).decl ≠ o.decl →
      exec (.matrixCompletion u) s = .next (s.tookOp (quadOf t.core) o)) := by
  have huo : s.strand? o.uid = some t := (Quad.uid_of_oldest ho).symm ▸ hu
  have hcan : s.canComplete (quadOf t.core) o = true := State.canComplete_of huo howes (State.released_of_younger huo hbuf)
    (fun va side htst => by simp [htst, MatKind.Defines] at hk) hmmax
  exact ⟨fun hst hdecl => matrixCompletion_completes hu (State.completeOp_defines ho hcan hk hdest hd hst hdecl),
    fun hbroken => matrixCompletion_completes hu (State.completeOp_broken ho hcan hk hdest hbroken)⟩

end

theorem drainComplete_frees {s : State} {q n : Nat} (h : (s.quad q).drainNext = some n) :
    exec (.drainComplete q n) s = .next (s.freeName q n) := by
  change execDrainComplete q n s = _
  rw [execDrainComplete, if_pos h]

theorem State.westOwes_eq_false {s : State} {q : Nat} (h : q % 16 = 0 ∨ ∀ o ∈ (s.quad (q - 1)).ops, o.owes = 0) :
    s.westOwes q = false := by
  rcases h with hedge | hpaid
  · simp [State.westOwes, hedge]
  · rw [State.westOwes, List.any_eq_false.2 fun o ho => by simp [hpaid o ho], Bool.and_false]

theorem aStreamArrival_arrives {s : State} {q : Nat} {m : Stream} {r : List Stream} (hs : (s.quad q).streams = m :: r)
    (harrived : m.arrived = false) (hwest : s.westOwes q = false) :
    exec (.aStreamArrival q) s = .next
      ((s.putQuad q { s.quad q with streams := { m with arrived := true } :: r }).wake fun _ t w => w == .stream && quadOf t.core == q) := by
  change execAStreamArrival q s = _
  simp [execAStreamArrival, hs, harrived, hwest]

/-- Settles O27: each clause is one way that a completion ends, once the instruction is known to be able to complete or not. -/
theorem matrixAndVectorCompletions : Obligations.MatrixAndVectorCompletions := by
  unfold Obligations.MatrixAndVectorCompletions
  intro s u q n t hu x
  refine ⟨fun f r => vectorCompletion_ors hu,
    fun o ho howes => matrixCompletion_completes hu (State.completeOp_stays ho (State.canComplete_owing howes)),
    fun o ho howes => ?_, drainComplete_frees, fun m r hs harrived hwest =>
      aStreamArrival_arrives hs harrived (State.westOwes_eq_false hwest)⟩
  have huo : s.strand? o.uid = some t := (Quad.uid_of_oldest ho).symm ▸ hu
  have able := State.canComplete_of (q := quadOf t.core) huo howes
  refine ⟨fun vm h hk hdest => ?tget, fun va sd hk hdest hbuf => ?tst, fun b nib img hk hdest => ?mlut,
    fun hdest hbuf => ?older, fun m hdest hbuf hk => ?fills, fun m hdest hbuf hk => ?computes⟩
  case tget =>
    have hcan := able (State.released_of_no_dest hdest) (by simp [hk]) (by simp [hk])
    exact matrixCompletion_completes hu (State.completeOp_tget ho hcan hk)
  case tst =>
    have hcan := able (State.released_of_no_dest hdest) (by simpa [hk] using hbuf) (by simp [hk])
    exact matrixCompletion_completes hu (State.completeOp_tst ho hcan hk)
  case mlut =>
    have hcan := able (State.released_of_no_dest hdest) (by simp [hk]) (by simp [hk])
    exact matrixCompletion_completes hu (State.completeOp_mlut ho hcan hk)
  case older =>
    have hrel := State.released_of_older huo hdest hbuf
    exact matrixCompletion_completes hu (State.completeOp_stays ho (State.canComplete_unreleased hrel))
  case fills =>
    have hd : o.definition x (x.name m) = (if o.kind = .seal then x.name m else (x.name m).zeroed, 0#5) := by
      rcases hk with hk | hk
      · rw [MatOp.definition_seal hk, if_pos hk]
      · rw [MatOp.definition_mzero hk, if_neg (by simp [hk])]
    have hdef : o.kind.Defines := by rcases hk with hk | hk <;> simp [hk, MatKind.Defines]
    have hmmax : ∀ c, o.kind = .mmax c true → ∀ st ∈ (s.quad (quadOf t.core + 1)).streams, st.arrived = true := by
      rcases hk with hk | hk <;> simp [hk]
    have hdone := matrixCompletion_defines hu ho howes hdest hbuf hdef hmmax hd
    rwa [Strand.orFlags_zero] at hdone
  case computes =>
    have hkind : o.kind.Defines ∧ o.kind ≠ .seal ∧ o.kind ≠ .mzero := by
      rcases hk with ⟨c, hc⟩ | ⟨c, hc⟩ | ⟨c, hc, _⟩ | hc | hc <;> simp [hc, MatKind.Defines]
    obtain ⟨hdef, hseal, hmzero⟩ := hkind
    have hmmax : ∀ c, o.kind = .mmax c true → ∀ st ∈ (s.quad (quadOf t.core + 1)).streams, st.arrived = true := by
      intro c' heast
      rcases hk with ⟨c, hc⟩ | ⟨c, hc⟩ | ⟨c, hc, harrived⟩ | hc | hc
      case inr.inr.inl => exact harrived
      all_goals simp [hc] at heast
    have hdone := matrixCompletion_defines hu ho howes hdest hbuf hdef hmmax (MatOp.definition_computed hseal hmzero)
    exact hdone

end Sys2Proof.Machine
end

section
/-!
SUPPORT. SEND and SPAWN (R173 to R175, R192, R50): the checks of R174 as one chain, and what SEND and SPAWN answer once they are made (O28,
O29).
-/
namespace Sys2Proof.Machine

/-! ### The checks of R174 -/

/-- The reserved bits and fields of a route word that a kind of SEND does not use are zero, and LEN is at most 256. -/
abbrev SendForm (k : Nat) (x : Word64) : Prop :=
  bitAt x 17 = false ∧ bitsNat x 30 22 ≤ 256 ∧ (k ≠ 2 → bitsNat x 21 19 = 0) ∧ (k ≠ 0 → bitAt x 18 = false)
/-- The length rule of a kind of SEND, of a landing transform for SEND.DATA (R178). -/
abbrev SendLength (k : Nat) (x : Word64) : Prop :=
  (k = 1 → 4 ≤ bitsNat x 30 22 ∧ (bitsNat x 30 22 < 16 → bitsNat x 30 22 % 4 = 0)) ∧ (k = 3 → bitsNat x 30 22 = 0) ∧
    (k = 2 → xfLen (bitsNat x 21 19) (bitsNat x 30 22) = true)
/-- The top byte of an entry's TARGET. -/
abbrev SendTop (k : Nat) (y : Word64) : Prop := k = 0 → bitsNat y 63 56 = 0
/-- The range of TARGET. -/
abbrev SendRange (k : Nat) (x y : Word64) : Prop :=
  (k = 3 → y.toNat < 131072) ∧ (k = 2 → y.toNat + xfWidest (bitsNat x 21 19) (bitsNat x 30 22) ≤ 131072) ∧ (k = 1 → y = 0#64)
/-- The alignment of TARGET. -/
abbrev SendAligned (k : Nat) (x y : Word64) : Prop :=
  (k = 0 → y.toNat % 4 = 0) ∧ (k = 3 → y.toNat % 64 = 0) ∧ (k = 2 → y.toNat % xfAlign (bitsNat x 21 19) (bitsNat x 30 22) = 0)
/-- The payload lies in the pool. -/
abbrev SendInPool (x : Word64) : Prop := bitsNat x 16 0 + bitsNat x 30 22 ≤ 131072
/-- The lowest byte of the payload that the weirs refuse to be read. -/
def Strand.sendRefused (t : Strand) (x : Word64) : Option Nat :=
  if bitsNat x 30 22 = 0 then none else weirRefuses t.weirs (poolVa t.core (bitsNat x 16 0)) (bitsNat x 30 22) 2

/-- Checks 1 to 6 of R174, in their order. -/
theorem sendChecks_eq (k : Nat) (x y : Word64) (t : Strand) : sendChecks k x y t =
    if ¬SendForm k x then some (0x51, x) else if ¬SendLength k x then some (0x51, x) else if ¬SendTop k y then some (0x04, y)
    else if ¬SendRange k x y then some (0x51, y) else if ¬SendAligned k x y then some (0x03, y)
    else if ¬SendInPool x then some (0x05, x) else (t.sendRefused x).map fun v => (0x08, BitVec.ofNat 64 v) := by
  unfold sendChecks
  extract_lets len xf poff
  refine if_congr ?form rfl (if_congr ?length rfl (if_congr ?top rfl (if_congr ?range rfl (if_congr ?aligned rfl
    (if_congr ?inPool rfl ?weir)))))
  case form => simp; grind
  case length => simp; grind
  case top => simp
  case range => simp [poolBytes]; grind
  case aligned => simp; grind
  case inPool => simp [poolBytes, poff, len]
  case weir => simp only [Strand.sendRefused]; split <;> rfl

/-- A payload and a TARGET that pass the first five checks meet the weirs (R174). -/
theorem sendChecks_passes {k : Nat} {x y : Word64} {t : Strand} (hform : SendForm k x) (hlen : SendLength k x) (htop : SendTop k y)
    (hrange : SendRange k x y) (halign : SendAligned k x y) (hpool : SendInPool x) :
    sendChecks k x y t = (t.sendRefused x).map fun v => (0x08, BitVec.ofNat 64 v) := by
  rw [sendChecks_eq, if_neg (not_not.2 hform), if_neg (not_not.2 hlen), if_neg (not_not.2 htop), if_neg (not_not.2 hrange),
    if_neg (not_not.2 halign), if_neg (not_not.2 hpool)]

/-- The LEN rule of a landing transform, transform by transform (R178). -/
theorem xfLen_iff {xf : Nat} (h : xf < 8) (len : Nat) : xfLen xf len = true ↔ (xf = 3 → len % 8 = 0) ∧
    (xf = 4 ∨ xf = 5 ∨ xf = 6 → len = 64 ∨ len = 128 ∨ len = 256) ∧ (xf = 7 → len % 4 = 0) := by
  interval_cases xf <;> simp [xfLen, or_assoc]

/-- The route of a message (R174 check 7): none without a valid table entry, or for SELF without a core of the partition that is not
skip-masked. -/
theorem State.sendRoute_none {s : State} {vf dpkg dcore : Nat} (h : ¬(bitAt (s.lpt vf dpkg).2 63 = true ∧
    (dpkg = (s.part vf).self → (s.part vf).holds (hilbertOf (quadOf dcore)) = true ∧ hilbertOf (quadOf dcore) ∉ s.skip))) :
    s.sendRoute vf dpkg dcore = none := by
  have hlpt : (s.lpt vf dpkg).1.part vf = s.part vf ∧ (s.lpt vf dpkg).1.skip = s.skip := by
    unfold State.lpt
    extract_lets e
    split <;> exact ⟨rfl, rfl⟩
  obtain ⟨hpart, hskip⟩ := hlpt
  rw [State.sendRoute]
  by_cases hvalid : bitAt (s.lpt vf dpkg).2 63 = true
  · obtain ⟨hself, hcore⟩ := Classical.not_imp.1 fun hself => h ⟨hvalid, hself⟩
    simp only [hvalid, hpart, hskip, ← hself]
    grind
  · simp [hvalid]

/-! ### SEND -/

section
variable {s : State} {t : Strand} {a b : BitVec 5} {k : Nat}

theorem send_answers (hr : Ready s t) : ∀ p ∈ ([(.sendEnt a b, 0), (.sendCode a b, 1), (.sendData a b, 2), (.sendCnt a b, 3)] : List (Instr × Nat)),
    Answers p.1 s t (sendBody p.2 a b t s) := by
  simp only [List.forall_mem_cons, List.not_mem_nil, false_imp_iff, implies_true, and_true]
  exact ⟨.of_inCode hr rfl, .of_inCode hr rfl, .of_inCode hr rfl, .of_inCode hr rfl⟩

theorem sendBody_refused {c : Nat} {v : Word64} (h : sendChecks k (t.g a) (t.g b) t = some (c, v)) : sendBody k a b t s = .trap c v := by
  simp only [sendBody, h]

section
variable (hok : sendChecks k (t.g a) (t.g b) t = none)
include hok

theorem sendBody_host {w : Wait} (hw : s.lptWait t.vf (bitsNat (t.g a) 63 46) = some w) :
    sendBody k a b t s = .hold ((s.askHost w false).parkMe t w) := by
  simp only [sendBody, hok, hw]

theorem sendBody_unrouted (hw : s.lptWait t.vf (bitsNat (t.g a) 63 46) = none)
    (h : s.sendRoute t.vf (bitsNat (t.g a) 63 46) (bitsNat (t.g a) 45 31) = none) : sendBody k a b t s = .trap 0x09 (t.g a) := by
  simp only [sendBody, hok, hw, h]

end

end

/-- Settles O28: the chain of the checks, then the route. -/
theorem sendChecksInOrder : Obligations.SendChecksInOrder := by
  unfold Obligations.SendChecksInOrder
  intro s t a b hr p hp k x y len xf poff widest align c1 c2 c3 c4r c4a c5 c6 dpkg place c7
  have hans := send_answers (a := a) (b := b) hr p hp
  have hxf : xf < 8 := Nat.mod_lt _ (by decide)
  have hwidest : widest = xfWidest xf len := by
    simp only [widest]
    clear_value xf
    interval_cases xf <;> rfl
  have halign : align = xfAlign xf len := by
    simp only [align]
    clear_value xf
    interval_cases xf <;> rfl
  have h2 : c2 = SendLength k x := by
    simp only [c2, SendLength]
    rw [xfLen_iff hxf]
  have h4r : c4r = SendRange k x y := by simp only [c4r, hwidest]; rfl
  have h4a : c4a = SendAligned k x y := by simp only [c4a, halign]; rfl
  clear_value c2 c4r c4a
  subst h2 h4r h4a
  have traps {c : Nat} {v : Word64} (h : sendChecks k x y t = some (c, v)) : Traps p.1 s t c v := by
    rw [sendBody_refused h] at hans
    exact hans.traps
  refine ⟨fun h => traps ?form, fun g1 g2 h => traps ?top, fun g1 g2 g3 h => traps ?range, fun g1 g2 g3 g4 h => traps ?aligned,
    fun g1 g2 g3 g4 g5 h => traps ?inPool, fun g1 g2 g3 g4 g5 g6 v h => traps ?weirs, fun g1 g2 g3 g4 g5 g6 g7 hw h => ?route⟩
  case form =>
    rw [sendChecks_eq]
    by_cases g1 : SendForm k x
    · rw [if_neg (not_not.2 g1), if_pos (h.resolve_left (not_not.2 g1))]
    · rw [if_pos g1]
  case top => rw [sendChecks_eq, if_neg (not_not.2 g1), if_neg (not_not.2 g2), if_pos h]
  case range => rw [sendChecks_eq, if_neg (not_not.2 g1), if_neg (not_not.2 g2), if_neg (not_not.2 g3), if_pos h]
  case aligned =>
    rw [sendChecks_eq, if_neg (not_not.2 g1), if_neg (not_not.2 g2), if_neg (not_not.2 g3), if_neg (not_not.2 g4), if_pos h]
  case inPool =>
    rw [sendChecks_eq, if_neg (not_not.2 g1), if_neg (not_not.2 g2), if_neg (not_not.2 g3), if_neg (not_not.2 g4), if_neg (not_not.2 g5),
      if_pos h]
  case weirs => rw [sendChecks_passes g1 g2 g3 g4 g5 g6, show t.sendRefused x = some v from h]; rfl
  case route =>
    have hok : sendChecks k x y t = none := by rw [sendChecks_passes g1 g2 g3 g4 g5 g6, show t.sendRefused x = none from g7]; rfl
    rw [sendBody_unrouted hok hw (State.sendRoute_none h)] at hans
    exact hans.traps

/-! ### What SEND and SPAWN post -/

section
variable {s s1 : State} {t : Strand} {a b : BitVec 5} {k : Nat} {port : Option Nat} {ret : Bool}
  (hok : sendChecks k (t.g a) (t.g b) t = none) (hw : s.lptWait t.vf (bitsNat (t.g a) 63 46) = none)
  (hroute : s.sendRoute t.vf (bitsNat (t.g a) 63 46) (bitsNat (t.g a) 45 31) = some (s1, port, ret))
include hok hw hroute

theorem sendBody_waits (h : (s1.core t.core).noCredit ≠ [] ∨ t.buf ≠ []) : sendBody k a b t s = .hold s1 := by
  simp only [sendBody, hok, hw, hroute]
  exact if_pos (by simpa using h)

/-- The message that a SEND posts (R50, R175). -/
def State.sendMessage (s : State) (t : Strand) (k : Nat) (x y : Word64) (marked : Bool) : Msg :=
  let len := bitsNat x 30 22
  let key := memPool + t.core * 2 ^ 17 + bitsNat x 16 0
  { hdr0 := header (bitsNat t.sys.job 15 0) t.core (s.part t.vf).self len (bitsNat x 18 18) (bitsNat x 21 19) k,
    hdr1 := field64 (bitsNat y 55 0) 0, payload := Memory.bytes s.mem key len, vf := t.vf, dcore := bitsNat x 45 31,
    dpkg := bitsNat x 63 46, slot := 0, marked := marked, anc := t.anc,
    bad := ((List.range len).filter fun i => s.poisoned (key + i) 1).map (16 + ·) }

theorem sendBody_sends (hcredit : (s1.core t.core).noCredit = []) (hbuf : t.buf = []) :
    sendBody k a b t s = .done (s1.sendMsg t (s1.sendMessage t k (t.g a) (t.g b) ret) port) := by
  simp only [sendBody, hok, hw, hroute]
  exact if_neg (by simp [hcredit, hbuf])

end

/-- The message that a SPAWN posts to its own core (R192); e is the table entry of the package itself. -/
def State.spawnMessage (s : State) (t : Strand) (short : Nat) (x : Word64) (b : Nat) (e : Word64) : Msg :=
  { hdr0 := header (bitsNat t.sys.job 15 0) t.core (s.part t.vf).self 48 short 0 0, hdr1 := field64 (bitsNat x 55 0) 0,
    payload := (List.range 6).flatMap fun k => leBytes 8 (t.gN (b + k)).toNat, vf := t.vf, dcore := t.core,
    dpkg := (s.part t.vf).self, slot := 0, marked := bitAt e 63 && bitAt e 62, anc := t.anc, bad := [] }

section
variable {s : State} {t : Strand} {a b : BitVec 5} {k : Nat}

theorem spawn_answers (hr : Ready s t) (hp : Plain t) : ∀ p ∈ ([(.spawn a b, 0), (.spawnH a b, 1)] : List (Instr × Nat)),
    Answers p.1 s t (spawnBody p.2 a b t s) := by
  simp only [List.forall_mem_cons, List.not_mem_nil, false_imp_iff, implies_true, and_true]
  exact ⟨.of_plain hr hp rfl, .of_plain hr hp rfl⟩

theorem spawnBody_badRegister (h : b = 0#5 ∨ 26 < b.toNat) : spawnBody k a b t s = .trap 0x01 s.wordTval := if_pos (by simpa using h)

section
variable (hb : b ≠ 0#5) (hb26 : b.toNat ≤ 26)
include hb hb26

/-- A SPAWN from registers that exist checks TARGET, then waits as SEND does (R192). -/
theorem spawnBody_checks : spawnBody k a b t s =
    if bitsNat (t.g a) 63 56 ≠ 0 then .trap 0x04 (t.g a)
    else if (t.g a).toNat % 4 ≠ 0 then .trap 0x03 (t.g a)
    else if (s.core t.core).noCredit ≠ [] ∨ t.buf ≠ [] then .hold s
    else match s.lptWait t.vf (s.part t.vf).self with
      | some w => .hold ((s.askHost w false).parkMe t w)
      | none => .done ((s.lpt t.vf (s.part t.vf).self).1.sendMsg t
          (s.spawnMessage t k (t.g a) b.toNat (s.lpt t.vf (s.part t.vf).self).2) none) :=
  (if_neg (by simpa using ⟨hb, hb26⟩)).trans (if_congr Iff.rfl rfl (if_congr Iff.rfl rfl (if_congr (by simp) rfl rfl)))

end
end

theorem leNat_leBytes (n x : Nat) : leNat (leBytes n x) = x % 256 ^ n := by
  induction n generalizing x with
  | zero => simp [leBytes, leNat, Nat.mod_one]
  | succ n ih =>
    have hbyte : (BitVec.ofNat 8 x).toNat = x % 256 := BitVec.toNat_ofNat ..
    rw [leBytes, leNat, ih, hbyte, Nat.pow_succ', Nat.mod_mul (a := 256)]

theorem take_drop_flatMap {α β : Type} {g : α → List β} {m : Nat} (hg : ∀ a, (g a).length = m) (l : List α) {k : Nat} (h : k < l.length) :
    ((l.flatMap g).drop (m * k)).take m = g l[k] := by
  induction l generalizing k with
  | nil => cases h
  | cons a l ih =>
    rw [List.flatMap_cons]
    cases k with
    | zero => simpa using List.take_left' (hg a)
    | succ k =>
      rw [show m * (k + 1) = (g a).length + m * k by rw [hg, Nat.mul_succ, Nat.add_comm], List.drop_length_add_append]
      exact ih (Nat.lt_of_succ_lt_succ h)

/-- Doublewords in a row read back as they were written. -/
theorem dwords_flatMap_leBytes (f : Nat → Word64) (n : Nat) {k : Nat} (h : k < n) :
    (dwords ((List.range n).flatMap fun i => leBytes 8 (f i).toNat) n)[k]? = some (f k) := by
  have hword : (((List.range n).flatMap fun i => leBytes 8 (f i).toNat).drop (8 * k)).take 8 = leBytes 8 (f k).toNat := by
    rw [take_drop_flatMap (fun i => leBytes_length ..) _ (by simpa using h), List.getElem_range]
  rw [dwords, List.getElem?_map, List.getElem?_range h, Option.map_some, hword, leNat_leBytes,
    Nat.mod_eq_of_lt (show (f k).toNat < 256 ^ 8 from (f k).isLt), BitVec.ofNat_toNat, BitVec.setWidth_eq]

/-- The payload of a SPAWN is the six registers (R192). -/
theorem State.spawnMessage_payload (s : State) (t : Strand) (short : Nat) (x : Word64) (b : Nat) (e : Word64) :
    (s.spawnMessage t short x b e).payload.length = 48 ∧
      ∀ k < 6, (dwords (s.spawnMessage t short x b e).payload 6)[k]? = some (t.gN (b + k)) :=
  ⟨by simp [State.spawnMessage, leBytes_length], fun _ hk => dwords_flatMap_leBytes (fun i => t.gN (b + i)) 6 hk⟩

/-- Settles O29: what SEND and SPAWN answer in each case, and the message that they post. -/
theorem sendsAndSpawnsComplete : Obligations.SendsAndSpawnsComplete := by
  unfold Obligations.SendsAndSpawnsComplete
  intro s t a b hr job x self
  refine ⟨?send, fun p hp w hok hw => ?host, fun hplain p hp => ?spawn⟩
  case send =>
    intro p hp s1 port ret hok hw hroute len from_ m
    have hans := send_answers (a := a) (b := b) hr p hp
    refine ⟨fun hcredit hbuf => ?_, fun h => ?_⟩
    · rw [sendBody_sends hok hw hroute hcredit hbuf] at hans
      exact hans.completes
    · rw [sendBody_waits hok hw hroute h] at hans
      exact hans.holds
  case host =>
    have hans := send_answers (a := a) (b := b) hr p hp
    rw [sendBody_host hok hw] at hans
    exact hans.holds
  case spawn =>
    have hans := spawn_answers (a := a) (b := b) hr hplain p hp
    refine ⟨fun h => ?_, fun hb hb26 => ?_⟩
    · rw [spawnBody_badRegister h] at hans
      exact hans.traps
    rw [spawnBody_checks hb hb26] at hans
    refine ⟨fun h => ?_, fun h4 h => ?_, fun h4 h3 h => ?_, fun h4 h3 hcredit hbuf w hw => ?_, ?sends⟩
    · rw [if_pos h] at hans
      exact hans.traps
    · rw [if_neg (not_not.2 h4), if_pos h] at hans
      exact hans.traps
    · rw [if_neg (not_not.2 h4), if_neg (not_not.2 h3), if_pos h] at hans
      exact hans.holds
    · rw [if_neg (not_not.2 h4), if_neg (not_not.2 h3), if_neg (by simp [hcredit, hbuf]), hw] at hans
      exact hans.holds
    intro h4 h3 hcredit hbuf hw s1 e
    rw [if_neg (not_not.2 h4), if_neg (not_not.2 h3), if_neg (by simp [hcredit, hbuf]), hw] at hans
    obtain ⟨hlen, hwords⟩ := s.spawnMessage_payload t p.2 x b.toNat e
    exact ⟨_, rfl, rfl, rfl, rfl, rfl, rfl, rfl, hlen, hwords, rfl, hans.completes⟩

end Sys2Proof.Machine
end

section
/-!
SUPPORT. The message window, the records of the deque and TRIGGER (R51, R182, R185, R186, R189): what each word answers (O30).
-/
namespace Sys2Proof.Machine

section
variable {s : State} {t : Strand} {a b d : BitVec 5}

theorem mwBody_noWindow (h : t.win = none ∨ t.released = true) : mwBody a d t s = .trap 0x51 (t.g a) := by
  have hnone : (if t.released then none else t.win) = none := by
    rcases h with h | h <;> simp [h]
  simp only [mwBody, hnone]

theorem mwBody_window {m : Msg} (hw : t.win = some m) (hrel : t.released = false) : mwBody a d t s =
    if (t.g a).toNat % 8 ≠ 0 then .trap 0x03 (t.g a) else if 264 < (t.g a).toNat then .trap 0x51 (t.g a)
    else .done (s.putMe (t.setG d (BitVec.ofNat 64 (leNat ((m.image.drop (t.g a).toNat).take 8))))) := by
  simp only [mwBody, hw, hrel, Bool.false_eq_true, if_false]

theorem dqputBody_badRegister (h : a = 0#5 ∨ 28 < a.toNat) : dqputBody a t s = .trap 0x01 s.wordTval := if_pos (by simpa using h)

section
variable (ha : a ≠ 0#5) (ha28 : a.toNat ≤ 28)
include ha ha28

theorem dqputBody_refused {e : Nat × Word64} (h : recordChecks (t.gN (a.toNat + 0)) (t.gN (a.toNat + 3)) = some e) :
    dqputBody a t s = .trap e.1 e.2 :=
  (if_neg (by simpa using ⟨ha, ha28⟩)).trans (by simp only [h])

/-- A record that passes its checks waits for room and for the strand's stores, then is counted sent and pushed (R185). -/
theorem dqputBody_checked (h : recordChecks (t.gN (a.toNat + 0)) (t.gN (a.toNat + 3)) = none) : dqputBody a t s =
    if (s.core t.core).full = true ∨ t.buf ≠ [] then .hold s
    else .done ((s.sent t.core (bitsNat t.sys.job 15 0)).push t.core
      ⟨.task (t.gN (a.toNat + 0)) (t.gN (a.toNat + 1)) (t.gN (a.toNat + 2)) (t.gN (a.toNat + 3)), bitsNat t.sys.job 15 0, t.vf, 0, 0, t.anc⟩) :=
  (if_neg (by simpa using ⟨ha, ha28⟩)).trans (by simp only [h]; exact if_congr (by simp) rfl rfl)

end

theorem dqtakeBody_badRegister (h : b = 0#5 ∨ 28 < b.toNat) : dqtakeBody b d t s = .trap 0x01 s.wordTval := if_pos (by simpa using h)

section
variable (hb : b ≠ 0#5) (hb28 : b.toNat ≤ 28)
include hb hb28

theorem dqtakeBody_empty (h : (s.core t.core).deque = []) : dqtakeBody b d t s = .done (s.putMe (t.setG d 0#64)) :=
  (if_neg (by simpa using ⟨hb, hb28⟩)).trans (by simp only [h])

/-- A task record gives up its four doublewords and its message is consumed (R186). -/
theorem dqtakeBody_task {r : Rec} {rest : List Rec} {d0 d1 d2 d3 : Word64} (h : (s.core t.core).deque = r :: rest)
    (hr : r.body = .task d0 d1 d2 d3) : dqtakeBody b d t s =
      .done (((s.putCore t.core { s.core t.core with deque := rest }).putMe
        (((((t.setGN b.toNat d0).setGN (b.toNat + 1) d1).setGN (b.toNat + 2) d2).setGN (b.toNat + 3) d3).setG d 1#64)).count t.core r.job 0 1) := by
  obtain ⟨body, job, vf, launch, slot, anc⟩ := r
  obtain rfl : body = .task d0 d1 d2 d3 := hr
  exact (if_neg (by simpa using ⟨hb, hb28⟩)).trans (by
    simp only [h, Strand.args, State.consumed, Bool.false_eq_true, if_false, Strand.setG_core, Strand.setGN])

theorem dqtakeBody_other {r : Rec} {rest : List Rec} (h : (s.core t.core).deque = r :: rest)
    (hr : ∀ d0 d1 d2 d3, r.body ≠ .task d0 d1 d2 d3) : dqtakeBody b d t s = .done (s.putMe (t.setG d 2#64)) := by
  obtain ⟨body, job, vf, launch, slot, anc⟩ := r
  refine (if_neg (by simpa using ⟨hb, hb28⟩)).trans ?_
  cases body with
  | task d0 d1 d2 d3 => exact absurd rfl (hr d0 d1 d2 d3)
  | _ => simp only [h]

end

theorem triggerBody_untriggered (hl : t.launch ≠ 0) (h : t.triggered = false) : triggerBody t s =
    if t.buf ≠ [] then .hold s else .done (s.putMe { t with triggered := true }) :=
  (if_neg (by simp [hl, h])).trans (if_congr (by simp) rfl rfl)

end

/-- Settles O30: what each of the five words answers in each case. -/
theorem windowDequeAndTriggerComplete : Obligations.WindowDequeAndTriggerComplete := by
  unfold Obligations.WindowDequeAndTriggerComplete
  intro s t a b d hr job off c w
  have hmw : Answers (.mw a d) s t (mwBody a d t s) := .of_inCode hr rfl
  have hmrel : Answers .mrel s t (mrelBody t s) := .of_inCode hr rfl
  have hput : Answers (.dqput a) s t (dqputBody a t s) := .of_inCode hr rfl
  refine ⟨fun h => ⟨?_, fun h => ?_⟩, fun m h => ⟨?_, fun hrel => ?window⟩, fun h => ?_, fun ha ha28 => ⟨fun e h => ?_, fun h hfull => ?_,
    fun h hroom hbuf => ?_⟩, fun hp => ?plain⟩
  · exact Answers.traps (mwBody_noWindow h ▸ hmw)
  · rw [mrelBody, h] at hmrel
    exact hmrel.completes
  · rw [mrelBody, if_pos (by rw [h]; rfl)] at hmrel
    exact hmrel.completes
  case window =>
    rw [mwBody_window h hrel] at hmw
    refine ⟨fun h3 => ?_, fun h3 h51 => ?_, fun h3 h51 => ?_⟩
    · rw [if_pos h3] at hmw
      exact hmw.traps
    · rw [if_neg (not_not.2 h3), if_pos h51] at hmw
      exact hmw.traps
    · rw [if_neg (not_not.2 h3), if_neg (Nat.not_lt.2 h51)] at hmw
      exact hmw.completes
  · exact Answers.traps (dqputBody_badRegister h ▸ hput)
  · exact Answers.traps (dqputBody_refused ha ha28 h ▸ hput)
  · rw [dqputBody_checked ha ha28 h, if_pos hfull] at hput
    exact hput.holds
  · rw [dqputBody_checked ha ha28 h, if_neg (by simp [c, hbuf, ← hroom])] at hput
    exact hput.completes
  case plain =>
    have htake : Answers (.dqtake b d) s t (dqtakeBody b d t s) := .of_plain hr hp rfl
    have htrigger : Answers .trigger s t (triggerBody t s) := .of_plain hr hp rfl
    refine ⟨fun h => ?_, fun hb hb28 => ⟨fun h => ?_, fun r rest h => ⟨fun d0 d1 d2 d3 hbody => ?_, fun hbody => ?_⟩⟩, fun h => ?_,
      fun hl h hbuf => ?_, fun hl h hbuf => ?_⟩
    · exact Answers.traps (dqtakeBody_badRegister h ▸ htake)
    · exact Answers.completes (dqtakeBody_empty hb hb28 h ▸ htake)
    · exact Answers.completes (dqtakeBody_task hb hb28 h hbody ▸ htake)
    · exact Answers.completes (dqtakeBody_other hb hb28 h hbody ▸ htake)
    · rw [triggerBody, if_pos (by simpa using h)] at htrigger
      exact htrigger.completes
    · rw [triggerBody_untriggered hl h, if_pos hbuf] at htrigger
      exact htrigger.holds
    · rw [triggerBody_untriggered hl h, if_neg (not_not.2 hbuf)] at htrigger
      exact htrigger.completes

end Sys2Proof.Machine
end

section
/-!
SUPPORT. Pipes (R191): what PRES, PWAIT and PADV answer, and what PADV leaves in a ring's control line (O32).
-/
namespace Sys2Proof.Machine

theorem Memory.dword_of_bytes {m : Memory} {k x : Nat} (h : Memory.bytes m k 8 = leBytes 8 x) : Memory.dword m k = BitVec.ofNat 64 x := by
  rw [Memory.dword, h, leNat_leBytes]
  exact BitVec.eq_of_toNat_eq (by simp)

/-- A doubleword reads back as it was written, and no other byte changes. -/
theorem State.putHome_dword {s : State} (hwf : Memory.wf s.mem = true) (k x : Nat) :
    Memory.dword (s.putHome k (leBytes 8 x)).mem k = BitVec.ofNat 64 x ∧
      ∀ y, y < k ∨ k + 8 ≤ y → Memory.read (s.putHome k (leBytes 8 x)).mem y = Memory.read s.mem y := by
  obtain ⟨hbytes, hothers⟩ := Memory.put_leaves hwf k (leBytes_length 8 x)
  exact ⟨Memory.dword_of_bytes hbytes, hothers⟩

/-- The count that PADV leaves at a count of the control line k (R191). -/
def State.nextCount (s : State) (k at_ : Nat) : Nat := if s.pipeOwn k then (Memory.dword s.mem at_).toNat + 1 else Config.pipeCount s.tick

theorem State.pipeCount_mem (s : State) (k at_ : Nat) : (s.pipeCount k at_).mem = (s.putHome at_ (leBytes 8 (s.nextCount k at_))).mem := by
  unfold State.pipeCount State.nextCount
  by_cases hown : s.pipeOwn k = true
  · rw [if_pos hown, if_pos hown]
    dsimp only
    split <;> rfl
  · rw [if_neg hown, if_neg hown]

section
variable {s : State} {t : Strand} {producer : Bool} {h : BitVec 3} {d : BitVec 5}

theorem pipeWaitBody_mayNot (hk : t.kind = .handler ∨ t.kind = .task) : pipeWaitBody producer h d t s = .trap 0x01 s.wordTval :=
  if_pos (by simp [Strand.not_mayWait hk])

/-- PRES or PWAIT in a strand that may wait: the handle, then the fill of the ring (R191). -/
theorem pipeWaitBody_may (hr : Ready s t) (hk : t.kind = .resident ∨ t.kind = .gang) : pipeWaitBody producer h d t s =
    if bitAt (t.h h) 63 = false ∨ bitAt (t.h h) 62 ≠ producer then .trap 0x43 (t.h h)
    else if s.pipeFill (pipeKey (dieOf t.core) (t.h h)) = (if producer then pipeSlots (t.h h) else 0) then .hold (s.parkMe t (.pipe h.toNat))
    else .done (s.putMe (t.setG d (BitVec.ofNat 64 (pipeSlot (t.h h))))) :=
  (if_neg (by simp [t.mayWait_iff.2 hk])).trans (if_congr (by simp) rfl (if_neg hr.pc_le))

theorem pipe_answers (hr : Ready s t) (hp : Plain t) :
    ∀ p ∈ ([(.pres h d, true, pipeSlots (t.h h)), (.pwait h d, false, 0)] : List (Instr × Bool × Nat)),
      Answers p.1 s t (pipeWaitBody p.2.1 h d t s) ∧ p.2.2 = if p.2.1 then pipeSlots (t.h h) else 0 := by
  simp only [List.forall_mem_cons, List.not_mem_nil, false_imp_iff, implies_true, and_true]
  exact ⟨⟨.of_plain hr hp rfl, rfl⟩, .of_plain hr hp rfl, rfl⟩

/-- An end may not advance that is absent, or whose ring leaves it no room (producer) or holds nothing for it (consumer). -/
abbrev PipeStuck (s : State) (t : Strand) (h : BitVec 3) : Prop :=
  bitAt (t.h h) 63 = false ∨ s.pipeFill (pipeKey (dieOf t.core) (t.h h)) = if bitAt (t.h h) 62 then pipeSlots (t.h h) else 0

theorem padvBody_stuck (hs : PipeStuck s t h) : padvBody h t s = .trap 0x43 (t.h h) := if_pos (by simpa using hs)

theorem padvBody_holds (hs : ¬PipeStuck s t h) (hbuf : t.buf ≠ []) : padvBody h t s = .hold s :=
  (if_neg (by simpa using hs)).trans (if_pos (by simpa using hbuf))

end

/-- Settles O32: what each of the three words answers, and the count that PADV leaves. -/
theorem pipesComplete : Obligations.PipesComplete := by
  unfold Obligations.PipesComplete
  intro s t h d hr hp x k own fill slots at_
  have hadv : Answers (.padv h) s t (padvBody h t s) := .of_plain hr hp rfl
  have hstuck : PipeStuck s t h ↔ bitAt x 63 = false ∨ (bitAt x 62 = true ∧ fill = slots) ∨ (bitAt x 62 = false ∧ fill = 0) := by
    show _ ∨ fill = (if bitAt x 62 then slots else 0) ↔ _
    cases bitAt x 62 <;> simp [x]
  refine ⟨fun p hmem => ?wait, fun hs => Answers.traps (padvBody_stuck (hstuck.2 hs) ▸ hadv), fun h63 hfull hempty => ?advance⟩
  case wait =>
    obtain ⟨hans, hlimit⟩ := pipe_answers hr hp p hmem
    refine ⟨fun hk => Answers.traps (pipeWaitBody_mayNot hk ▸ hans), fun hk => ?_⟩
    rw [pipeWaitBody_may hr hk, ← hlimit, show s.pipeFill (pipeKey (dieOf t.core) (t.h h)) = fill from rfl] at hans
    refine ⟨fun hbad => ?_, fun h63 h62 hfill => ?_, fun h63 h62 hfill => ?_⟩
    · rw [if_pos hbad] at hans
      exact hans.traps
    · rw [if_neg (by simp [x, ← h63, ← h62]), if_pos hfill] at hans
      exact hans.holds
    · rw [if_neg (by simp [x, ← h63, ← h62]), if_neg hfill] at hans
      exact hans.completes
  case advance =>
    have hs : ¬PipeStuck s t h := by
      rw [hstuck]
      rintro (habsent | ⟨hproducer, hf⟩ | ⟨hconsumer, hf⟩)
      exacts [by simp [h63] at habsent, hfull hproducer hf, hempty hconsumer hf]
    refine ⟨fun hbuf => Answers.holds (padvBody_holds hs hbuf ▸ hadv), fun hbuf => ?_, fun hwf => ?_⟩
    · have hdone : padvBody h t s = .done _ := (if_neg (by simpa using hs)).trans (if_neg (by simp [hbuf]))
      rw [hdone] at hadv
      exact hadv.completes
    · rw [State.pipeCount_mem]
      exact State.putHome_dword hwf at_ (s.nextCount k at_)

end Sys2Proof.Machine
end

section
/-!
SUPPORT. Launches (R187 to R190, R306): what a launch leaves at its core and of its job, and what LAUNCH and LAUNCH.GANG answer (O31).
-/
namespace Sys2Proof.Machine

/-! ### A launch begins -/

theorem State.jobStart_eq (s : State) (job : Nat) :
    s.jobStart job = { s with cores := (s.jobStart job).cores, jobs := (s.jobStart job).jobs } := by
  unfold State.jobStart
  extract_lets j s'
  split
  · rfl
  · rw [State.startSeries_eq]
    rfl

theorem State.core_mapCores (s : State) {f : Core → Core} (hf : f Core.reset = Core.reset) (c : Nat) :
    State.core { s with cores := FMap.map s.cores fun _ x => f x } c = f (s.core c) := by
  simp only [State.core, FMap.getD, FMap.get?_map]
  cases FMap.get? s.cores c with
  | none => exact hf.symm
  | some x => rfl

/-- A job's first launch clears the job's counters at every core (R305). -/
theorem State.core_jobStart (s : State) (job c : Nat) : (s.jobStart job).core c =
    { s.core c with cnt := if (s.job job).launched then (s.core c).cnt else FMap.erase (s.core c).cnt job } := by
  unfold State.jobStart
  by_cases h : (s.job job).launched = true
  · simp only [h, if_true]
  · simp only [h, if_false, Bool.false_eq_true, State.core_startSeries]
    exact s.core_mapCores (f := fun x => { x with cnt := FMap.erase x.cnt job }) rfl c

theorem State.startSeries_nextLaunch (s : State) (job k : Nat) : ((s.startSeries job).job k).nextLaunch = (s.job k).nextLaunch := by
  unfold State.startSeries
  extract_lets j
  split
  · rfl
  · by_cases h : job = k
    · subst h
      simp [j]
    · simp [h]

/-- What a launch leaves before its record is pushed or held back: the ID counter moves on, the launch is counted sent, and the
deque, the launches held back, memory and the strands stay (R187, R306). -/
structure State.LaunchCounted (s s' : State) (job core : Nat) : Prop where
  next : (s'.job job).nextLaunch = if (s.job job).nextLaunch = 65535 then 1 else (s.job job).nextLaunch + 1
  sent : ((s'.core core).counters job).s = (if (s.job job).launched then ((s.core core).counters job).s
    else (FMap.getD (FMap.erase (s.core core).cnt job) job Counters.reset).s) + 1#64
  deque : (s'.core core).deque = (s.core core).deque
  held : (s'.core core).held = (s.core core).held
  pending : s'.pending = s.pending
  dies : s'.dies = s.dies
  mem : s'.mem = s.mem
  strands : s'.strands = s.strands
  cur : s'.cur = s.cur

theorem State.launchCounted (s : State) (job core n : Nat) (ls : List Launch) : s.LaunchCounted
    (State.sent { (s.jobStart job).putJob job { (s.jobStart job).job job with
      nextLaunch := if (s.job job).nextLaunch = 65535 then 1 else (s.job job).nextLaunch + 1, launches := ls } with nextUid := n } core job)
    job core := by
  have hcore (x : Job) : (State.core { (s.jobStart job).putJob job x with nextUid := n } core) = (s.jobStart job).core core := rfl
  refine ⟨?next, ?sent, ?deque, ?held, ?pending, ?dies, ?mem, ?strands, ?cur⟩
  case next =>
    rw [State.sent, State.startSeries_nextLaunch]
    exact congrArg Job.nextLaunch ((State.job_putJob ..).trans (if_pos rfl))
  case sent =>
    rw [State.sent, State.core_startSeries, (State.count_spec ..).2.1, hcore, State.core_jobStart]
    by_cases h : (s.job job).launched = true
    · simp only [h, if_true]
    · simp only [h, Bool.false_eq_true, if_false]
      rfl
  case deque => rw [State.sent, State.core_startSeries, State.core_count, hcore, State.core_jobStart]
  case held => rw [State.sent, State.core_startSeries, State.core_count, hcore, State.core_jobStart]
  all_goals
    rw [State.sent, State.startSeries_eq, State.jobStart_eq]
    rfl

/-- A launch takes the job's next ID; its record is pushed, or held back for its predecessor (R189). -/
theorem State.launch_counts (s : State) (vf job core predId : Nat) (body : Body) (anc : List Nat) :
    ∃ s1, s.LaunchCounted s1 job core ∧ s.launch false vf job core predId body anc =
      (let r : Rec := ⟨body, job, vf, s.nextUid, (s.job job).nextLaunch, s.nextUid :: anc⟩
       if s.launchHeld vf (s.predecessor job predId) then
        { s1 with pending := s1.pending ++ [⟨r, core, s.predecessor job predId, s.resizes.any fun x => x.vf == vf, false⟩] }
      else s1.pushOrHold core r, (s.job job).nextLaunch, s.nextUid) :=
  ⟨_, s.launchCounted .., rfl⟩

theorem State.pushOrHold_eq (s : State) (c : Nat) (r : Rec) : s.pushOrHold c r = { s with cores := (s.pushOrHold c r).cores } := by
  unfold State.pushOrHold
  split
  · rfl
  · split <;> rfl

theorem State.pushOrHold_cnt (s : State) (c : Nat) (r : Rec) : ((s.pushOrHold c r).core c).cnt = (s.core c).cnt := by
  unfold State.pushOrHold
  split
  · rfl
  · split
    · rw [State.core_putCore, if_pos rfl]
    · rw [State.core_push]

theorem State.pushOrHold_pushes {s : State} {c : Nat} (hf : (s.die (dieOf c)).fenced = false) (hroom : (s.core c).full = false) (r : Rec) :
    s.pushOrHold c r = s.push c r := by
  rw [State.pushOrHold, if_neg (by simp [hf]), if_neg (by simp [hroom])]

section
variable {s s1 : State} {job core : Nat}

theorem State.LaunchCounted.pushes (h : s.LaunchCounted s1 job core) (hf : (s.die (dieOf core)).fenced = false)
    (hroom : (s.core core).full = false) (r : Rec) : ((s1.pushOrHold core r).core core).deque = r :: (s.core core).deque := by
  have hf1 : (s1.die (dieOf core)).fenced = false := by
    rw [State.die, h.dies]
    exact hf
  have hroom1 : (s1.core core).full = false := by
    rw [Core.full, h.deque, h.held]
    exact hroom
  rw [State.pushOrHold_pushes hf1 hroom1, State.core_push, h.deque]

/-- The push of its record leaves what a launch has counted (R189). -/
theorem State.LaunchCounted.pushOrHold (h : s.LaunchCounted s1 job core) (r : Rec) :
    ((s1.pushOrHold core r).job job).nextLaunch = (s1.job job).nextLaunch ∧
      ((s1.pushOrHold core r).core core).counters job = (s1.core core).counters job ∧ (s1.pushOrHold core r).pending = s.pending ∧
      (s1.pushOrHold core r).mem = s.mem ∧ (s1.pushOrHold core r).strands = s.strands ∧ (s1.pushOrHold core r).cur = s.cur := by
  refine ⟨?_, ?_, ?_, ?_, ?_, ?_⟩
  · rw [State.pushOrHold_eq]
    rfl
  · rw [Core.counters, State.pushOrHold_cnt]
    rfl
  · rw [State.pushOrHold_eq]
    exact h.pending
  · rw [State.pushOrHold_eq]
    exact h.mem
  · rw [State.pushOrHold_eq]
    exact h.strands
  · rw [State.pushOrHold_eq]
    exact h.cur

end

/-- What a launch leaves once its record is pushed or held back for its predecessor (R187, R189, R306). -/
theorem State.launch_leaves {s : State} {vf job core predId : Nat} (body : Body) (anc : List Nat)
    (hroom : s.launchHeld vf (s.predecessor job predId) = true ∨ (s.core core).full = false) :
    let l := s.launch false vf job core predId body anc
    let r : Rec := ⟨body, job, vf, s.nextUid, (s.job job).nextLaunch, s.nextUid :: anc⟩
    l.2.1 = (s.job job).nextLaunch ∧
      (l.1.job job).nextLaunch = (if (s.job job).nextLaunch = 65535 then 1 else (s.job job).nextLaunch + 1) ∧
      ((l.1.core core).counters job).s = (if (s.job job).launched then ((s.core core).counters job).s
        else (FMap.getD (FMap.erase (s.core core).cnt job) job Counters.reset).s) + 1#64 ∧
      (s.launchHeld vf (s.predecessor job predId) = false → (s.die (dieOf core)).fenced = false →
        (l.1.core core).deque = r :: (s.core core).deque ∧ l.1.pending = s.pending) ∧
      (s.launchHeld vf (s.predecessor job predId) = true →
        (l.1.core core).deque = (s.core core).deque ∧ l.1.pending.map Pending.rec_ = s.pending.map Pending.rec_ ++ [r]) ∧
      l.1.mem = s.mem ∧ l.1.strands = s.strands ∧ l.1.cur = s.cur := by
  obtain ⟨s1, hcount, hl⟩ := s.launch_counts vf job core predId body anc
  simp only [hl]
  by_cases hheld : s.launchHeld vf (s.predecessor job predId) = true
  · simp only [if_pos hheld]
    refine ⟨trivial, hcount.next, hcount.sent, fun hfree => absurd hheld (by simp [hfree]), fun _ => ⟨hcount.deque, ?_⟩, hcount.mem,
      hcount.strands, hcount.cur⟩
    rw [List.map_append, hcount.pending]
    rfl
  · simp only [if_neg hheld]
    set r : Rec := ⟨body, job, vf, s.nextUid, (s.job job).nextLaunch, s.nextUid :: anc⟩
    obtain ⟨hjob, hcounters, hpending, hmem, hstrands, hcur⟩ := hcount.pushOrHold r
    exact ⟨trivial, hjob.trans hcount.next, (congrArg Counters.s hcounters).trans hcount.sent,
      fun _ hf => ⟨hcount.pushes hf (hroom.resolve_left hheld) r, hpending⟩, fun h => absurd h hheld, hmem, hstrands, hcur⟩

theorem State.modStrand_me {s : State} {t : Strand} (h : s.me = some t) (f : Strand → Strand) :
    s.modStrand s.cur f = s.putMe (f t) := by
  rw [State.modStrand, show s.strand? s.cur = some t from h]
  rfl

/-! ### LAUNCH and LAUNCH.GANG -/

/-- A launch whose descriptor is read and checked (R187, R189). -/
def launchChecked (b d : BitVec 5) (t : Strand) (s : State) (body : Body) : Res :=
  let job := bitsNat t.sys.job 15 0
  let pred := bitsNat (t.g b) 15 0
  if bitsNat (t.g b) 63 16 ≠ 0 then .trapIn s 0x51 (t.g b)
  else if !t.buf.isEmpty then .hold s
  else if !s.launchHeld t.vf (s.predecessor job pred) && (s.core t.core).full then .hold s
  else
    let l := s.launch false t.vf job t.core pred body t.anc
    .done (l.1.modStrand l.1.cur fun t => t.setG d (BitVec.ofNat 64 l.2.1))

section
variable {s s' s'' : State} {t : Strand} {a b d : BitVec 5} {bs cs : List Byte}

section
variable (hread : regionRead (t.g a) 64 64 t s = .ok (s', bs))
include hread

theorem launchBody_sweep : launchBody false a b d t s =
    match sweepChecks (s'.strandSlots t.vf) (((dwords bs 8)[0]?).getD 0#64) (((dwords bs 8)[1]?).getD 0#64) with
    | some (c, v) => .trapIn s' c v
    | none => launchChecked b d t s' (launchRecord false (t.g a).toNat (dwords bs 8)) := by
  simp only [launchBody, hread]
  rfl

theorem launchBody_gangHead : launchBody true a b d t s =
    let n := bitsNat (((dwords bs 8)[0]?).getD 0#64) 2 0
    if n < 2 || 4 < n then .trapIn s' 0x51 (BitVec.ofNat 64 (t.g a).toNat)
    else match regionRead (t.g a) (64 + 64 * n) 64 t s' with
      | .error r => r
      | .ok (s'', cs) =>
        match gangChecks (s''.strandSlots t.vf) (t.g a).toNat (dwords cs (8 + 8 * n)) with
        | some (c, v) => .trapIn s'' c v
        | none => launchChecked b d t s'' (launchRecord true (t.g a).toNat (dwords cs (8 + 8 * n))) := by
  simp only [launchBody, hread]
  rfl

/-- A gang descriptor is read again, whole, once its header says how long it is (R190). -/
theorem launchBody_gang {n : Nat} (hn : bitsNat (((dwords bs 8)[0]?).getD 0#64) 2 0 = n) (hn2 : 2 ≤ n) (hn4 : n ≤ 4)
    (hread' : regionRead (t.g a) (64 + 64 * n) 64 t s' = .ok (s'', cs)) : launchBody true a b d t s =
      match gangChecks (s''.strandSlots t.vf) (t.g a).toNat (dwords cs (8 + 8 * n)) with
      | some (c, v) => .trapIn s'' c v
      | none => launchChecked b d t s'' (launchRecord true (t.g a).toNat (dwords cs (8 + 8 * n))) := by
  have hcount : ¬(decide (n < 2) || decide (4 < n)) = true := by simpa using ⟨hn2, hn4⟩
  simp only [launchBody_gangHead hread, hn, if_neg hcount, hread']

end

theorem launchChecked_high {body : Body} (h : bitsNat (t.g b) 63 16 ≠ 0) : launchChecked b d t s body = .trapIn s 0x51 (t.g b) := if_pos h

/-- A launch whose predecessor is well named waits for room in the deque, or begins (R189). -/
theorem launchChecked_low {body : Body} (h : bitsNat (t.g b) 63 16 = 0) (hbuf : t.buf = []) :
    launchChecked b d t s body =
      let job := bitsNat t.sys.job 15 0
      let pred := s.predecessor job (bitsNat (t.g b) 15 0)
      if s.launchHeld t.vf pred = false ∧ (s.core t.core).full = true then .hold s
      else
        let l := s.launch false t.vf job t.core (bitsNat (t.g b) 15 0) body t.anc
        .done (l.1.modStrand l.1.cur fun t => t.setG d (BitVec.ofNat 64 l.2.1)) :=
  (if_neg (not_not.2 h)).trans ((if_neg (by simp [hbuf])).trans (if_congr (by simp) rfl rfl))

end

/-- Settles O31: the reads and checks of a descriptor, then the launch of its record. -/
theorem launchesComplete : Obligations.LaunchesComplete := by
  unfold Obligations.LaunchesComplete
  intro s t a b d hr hp hbuf job addr high done
  have hsweep : Answers (.launch a b d) s t (launchBody false a b d t s) := .of_plain hr hp rfl
  have hgang : Answers (.launchGang a b d) s t (launchBody true a b d t s) := .of_plain hr hp rfl
  have hchecked {i : Instr} {s' : State} {body : Body} (hans : Answers i s t (launchChecked b d t s' body)) :
      (high ≠ 0 → s'.me = some t → Holds i s (s'.trapMe (t.countWatch (s.watchStep t)) 0x51 (t.g b))) ∧ (high = 0 → done i s' body) := by
    refine ⟨fun h hme => Answers.trapsAt (launchChecked_high h ▸ hans) hme, fun h => ?_⟩
    intro hme
    rw [launchChecked_low h hbuf] at hans
    set pred := s'.predecessor job (bitsNat (t.g b) 15 0)
    set r : Rec := ⟨body, job, t.vf, s'.nextUid, (s'.job job).nextLaunch, s'.nextUid :: t.anc⟩
    refine ⟨fun hheld hfull => ?waits, fun hgoes => ?begins⟩
    case waits =>
      rw [if_pos ⟨hheld, hfull⟩] at hans
      exact hans.holds
    case begins =>
      obtain ⟨hid, hnext, hsent, hpush, hpend, hmem, hstrands, hcur⟩ := State.launch_leaves body t.anc hgoes
      rw [if_neg (by rcases hgoes with hgoes | hgoes <;> simp [pred, job, ← hgoes])] at hans
      dsimp only at hans
      rw [State.modStrand_me ((congrArg₂ _ hstrands hcur).trans hme), hid] at hans
      exact ⟨_, hans.completes, hnext, hsent, hpush, hpend, hmem, hstrands⟩
  intro s' bs hread ws w
  rw [launchBody_sweep hread] at hsweep
  refine ⟨fun c v hc hme => ?_, fun hc => ?_, ?gang⟩
  · rw [show sweepChecks _ _ _ = some (c, v) from hc] at hsweep
    exact hsweep.trapsAt hme
  · rw [show sweepChecks _ _ _ = none from hc] at hsweep
    exact hchecked hsweep
  case gang =>
    intro n
    refine ⟨fun hn hme => ?_, fun hn2 hn4 s'' cs hread' => ?_⟩
    · rw [launchBody_gangHead hread] at hgang
      dsimp only at hgang
      rw [if_pos (by simpa using hn)] at hgang
      exact hgang.trapsAt hme
    · intro gs
      rw [launchBody_gang hread rfl hn2 hn4 hread'] at hgang
      refine ⟨fun c v hc hme => ?_, fun hc => ?_⟩
      · rw [show gangChecks (s''.strandSlots t.vf) (t.g a).toNat (dwords cs (8 + 8 * n)) = some (c, v) from hc] at hgang
        exact hgang.trapsAt hme
      · rw [show gangChecks (s''.strandSlots t.vf) (t.g a).toNat (dwords cs (8 + 8 * n)) = none from hc] at hgang
        exact hchecked hgang

end Sys2Proof.Machine
end

section
/-!
SUPPORT. Packets and messages (R176 to R179, R183, R299 to R306): how a packet moves, and what a message does at its core (O48).
-/
namespace Sys2Proof.Machine

/-! ### The way of a packet (R299 to R304) -/

/-- The quad that a packet makes for on the die where it is. -/
def Packet.aim (p : Packet) : Nat :=
  match nextDir (dieOfQuad p.at_) (dieOfQuad p.final) with
  | some dir => edgeOf (dieOfQuad p.at_) dir
  | none => p.final

theorem Packet.move_mesh {p : Packet} {q : Nat} (h : p.move = .mesh q) : q = meshStep p.at_ p.aim := by
  unfold Packet.move at h
  unfold Packet.aim
  cases hdir : nextDir (dieOfQuad p.at_) (dieOfQuad p.final) with
  | none => grind
  | some dir => grind

theorem Packet.move_die {p : Packet} {dir : Nat} (h : p.move = .die dir) : p.at_ = edgeOf (dieOfQuad p.at_) dir := by
  unfold Packet.move at h
  grind

theorem Packet.move_leave {p : Packet} {n : Nat} (h : p.move = .leave n) : p.port = some n ∧ p.at_ = portQuad n := by
  unfold Packet.move at h
  have hfinal (e : p.port = some n) : p.final = portQuad n := by simp [Packet.final, e]
  grind

/-- A step along the mesh goes along X until the column is right, then along Y (R299). -/
theorem meshStep_spec (a b : Nat) : (a % 16 < b % 16 → meshStep a b = a + 1) ∧ (b % 16 < a % 16 → meshStep a b + 1 = a) ∧
    (a % 16 = b % 16 → a / 16 % 16 < b / 16 % 16 → meshStep a b = a + 16) ∧
    (a % 16 = b % 16 → b / 16 % 16 < a / 16 % 16 → meshStep a b + 16 = a) := by
  unfold meshStep
  extract_lets x y tx ty
  grind

theorem State.firstOfFlow_iff (s : State) (p : Packet) : s.firstOfFlow p = true ↔ ∀ x ∈ s.packets, x.id < p.id →
    ¬(x.cls = p.cls ∧ x.job = p.job ∧ x.src = p.src ∧ x.dst = p.dst ∧ x.port = p.port ∧ x.dpkg = p.dpkg) := by
  simp [State.firstOfFlow, Packet.sameFlow]

theorem State.arrived_iff (s : State) (p : Packet) :
    s.arrived p = true ↔ p.port = none ∧ p.at_ = quadOf p.dst ∧ s.firstOfFlow p = true := by
  simp [State.arrived, and_assoc]

/-- A packet leaves at its pod port only as the first of its flow (R300). -/
theorem State.canHop_leave {s : State} {p : Packet} {n : Nat} (hm : p.move = .leave n) (h : s.canHop p = true) : s.firstOfFlow p = true := by
  simp only [State.canHop, hm, Bool.and_eq_true] at h
  exact h.2

section
variable {s : State} {p : Packet} (hfind : (s.packets.find? fun x => x.id == p.id) = some p)
include hfind

theorem packetHop_lost (hcan : s.canHop p = true) (hlost : s.linkLost p = true) :
    exec (.packetHop p.id) s = .next (s.losePacket p (dieOfQuad p.at_)) := by
  show execPacketHop p.id s = _
  simp only [execPacketHop, hfind, hcan, hlost, Bool.not_true, Bool.false_eq_true, if_false, if_true]

theorem packetHop_goes (hcan : s.canHop p = true) (hlost : s.linkLost p = false) : exec (.packetHop p.id) s = .next (match p.move with
    | .mesh q => s.putPacket { p with at_ := q }
    | .die dir => (s.flitSent (wayOf (linkOf (dieOfQuad p.at_) dir) (dir = 0 || dir = 3))).putPacket (p.cross dir (Config.sharedFull s.tick))
    | .leave n => (((s.flitSent (wayOf (64 + n) false)).dropPacket p).sentAway p).emit (.toPod n p)
    | .here => match p.body with
      | .tokenRec r => (s.dropPacket p).pushOrHold p.dst r
      | _ => s) := by
  show execPacketHop p.id s = _
  simp only [execPacketHop, hfind, hcan, hlost, Bool.not_true, Bool.false_eq_true, if_false] <;> rfl

theorem State.arrival_of_arrived (h : s.arrived p = true) : s.arrival p.id = some p := by
  rw [State.arrival, hfind, Option.filter_some, if_pos h]

end

theorem State.sentAway_eq (s : State) (p : Packet) : ∃ a, s.sentAway p = { s with away := a } := by
  unfold State.sentAway
  split
  · exact ⟨_, rfl⟩
  · exact ⟨_, rfl⟩

/-! ### A message at its core -/

/-- The action that takes a message of a kind in (R176, R178, R179). -/
abbrev TakesMessage (i : Instr) (id kind : Nat) : Prop :=
  (kind < 2 ∧ i = .messageArrival id) ∨ (kind = 2 ∧ i = .dataLanding id) ∨ (kind = 3 ∧ i = .countMessage id)

section
variable {s : State} {p : Packet} {m : Msg} (harr : s.arrival p.id = some p) (hbody : p.body = .msg m)
include harr hbody

/-- A message that its core turns away, or has no room for, has the same fate whatever its kind (R176, R301). -/
theorem message_away {i : Instr} {s' : State} (hi : TakesMessage i p.id m.kind) (h : s.turnAway p m = some s') : exec i s = .next s' := by
  rcases hi with ⟨hk, rfl⟩ | ⟨hk, rfl⟩ | ⟨hk, rfl⟩
  · show execMessageArrival p.id s = _
    simp only [execMessageArrival, harr, hbody, h, if_neg (Nat.not_le.2 hk)]
  · show execDataLanding p.id s = _
    simp only [execDataLanding, harr, hbody, h, hk, ne_eq, not_true, if_false]
  · show execCountMessage p.id s = _
    simp only [execCountMessage, harr, hbody, h, hk, ne_eq, not_true, if_false]

section
variable (hown : s.turnAway p m = none)
include hown

theorem message_noRoom {i : Instr} (hi : TakesMessage i p.id m.kind) (h : s.inletRoom p.dst = false) :
    exec i s = .next (s.noCredit p) := by
  rcases hi with ⟨hk, rfl⟩ | ⟨hk, rfl⟩ | ⟨hk, rfl⟩
  · show execMessageArrival p.id s = _
    simp only [execMessageArrival, harr, hbody, hown, if_neg (Nat.not_le.2 hk), h, Bool.not_false, if_true]
  · show execDataLanding p.id s = _
    simp only [execDataLanding, harr, hbody, hown, hk, ne_eq, not_true, if_false, h, Bool.not_false, if_true]
  · show execCountMessage p.id s = _
    simp only [execCountMessage, harr, hbody, hown, hk, ne_eq, not_true, if_false, h, Bool.not_false, if_true]

variable (hroom : s.inletRoom p.dst = true)
include hroom

theorem messageArrival_taken (hk : m.kind < 2) : exec (.messageArrival p.id) s = .next ((s.dropPacket p).putCore p.dst
    { s.core p.dst with inlet := (s.core p.dst).inlet ++ [{ m with slot := s.inletSlot p.dst }] }) := by
  show execMessageArrival p.id s = _
  simp only [execMessageArrival, harr, hbody, hown, if_neg (Nat.not_le.2 hk), hroom, Bool.not_true, Bool.false_eq_true, if_false]

theorem dataLanding_landed (hk : m.kind = 2) :
    exec (.dataLanding p.id) s = .next (((s.dropPacket p).land m).consumed p.dst m.job m.marked) := by
  show execDataLanding p.id s = _
  simp only [execDataLanding, harr, hbody, hown, hk, ne_eq, not_true, if_false, hroom, Bool.not_true, Bool.false_eq_true]

theorem countMessage_counts (hk : m.kind = 3) : exec (.countMessage p.id) s = .next (match s.countDown m (s.core p.dst).full with
    | some s => s.dropPacket p
    | none => (s.dropPacket p).putCore p.dst { s.core p.dst with
      inlet := (s.core p.dst).inlet ++ [{ m with slot := s.inletSlot p.dst }], held := (s.core p.dst).held ++ [none] }) := by
  show execCountMessage p.id s = _
  simp only [execCountMessage, harr, hbody, hown, hk, ne_eq, not_true, if_false, hroom, Bool.not_true, Bool.false_eq_true] <;> rfl

end
end

section
variable {s : State} {p : Packet} {m : Msg}

theorem State.turnAway_own (hf : (s.die (dieOf m.dcore)).fenced = false) (hs : s.strays m = false) : s.turnAway p m = none := by
  simp [State.turnAway, hf, hs]
theorem State.turnAway_fenced (hf : (s.die (dieOf m.dcore)).fenced = true) :
    s.turnAway p m = some (s.losePacket p (dieOf m.dcore)) := if_pos hf
theorem State.turnAway_stray (hf : (s.die (dieOf m.dcore)).fenced = false) (hs : s.strays m = true) :
    s.turnAway p m = some ((s.dropPacket p).misroute m.vf (dieOf m.dcore) m.job (4 * m.dcore) m.target) := by
  simp [State.turnAway, hf, hs]

end

/-- A packet without room waits in the fabric and holds its core's credit (R301). -/
theorem State.noCredit_spec (s : State) (p : Packet) : (p.src < 2 ^ 15 → p.id ∈ ((s.noCredit p).core p.src).noCredit) ∧
    (s.noCredit p).packets = (s.packets.map fun x => if x.id = p.id then { p with held := true } else x) ∧
    (s.noCredit p).strands = s.strands ∧ (s.noCredit p).mem = s.mem := by
  unfold State.noCredit
  extract_lets s' c
  split
  · next hsrc => exact ⟨fun h => absurd h (Nat.not_lt.2 hsrc), rfl, rfl, rfl⟩
  · split
    · next hin => exact ⟨fun _ => by simpa using hin, rfl, rfl, rfl⟩
    · exact ⟨fun _ => by simp, rfl, rfl, rfl⟩

/-! ### A count message (R179) -/

theorem State.acquire_mem (s : State) (q : Nat) : (s.acquire q).mem = s.mem := by
  obtain ⟨qs, ls, es, e⟩ := s.acquire_eq q
  rw [e]

theorem State.acquire_packets (s : State) (q : Nat) : (s.acquire q).packets = s.packets := by
  obtain ⟨qs, ls, es, e⟩ := s.acquire_eq q
  rw [e]

theorem State.acquire_poisoned (s : State) (q k n : Nat) : (s.acquire q).poisoned k n = s.poisoned k n := by
  obtain ⟨qs, ls, es, e⟩ := s.acquire_eq q
  rw [e]
  rfl

theorem State.acquire_core (s : State) (q c : Nat) : (s.acquire q).core c = s.core c := by
  obtain ⟨qs, ls, es, e⟩ := s.acquire_eq q
  rw [e]
  rfl

/-- The key of the counter that a count message names (R179). -/
abbrev Msg.counterKey (m : Msg) : Nat := memPool + m.dcore * 2 ^ 17 + m.target

section
variable {s : State} {m : Msg} {full : Bool} (hp : s.poisoned m.counterKey 64 = false)
include hp

/-- What a count message does with a counter that holds no poison (R179). -/
theorem State.countDown_clean : s.countDown m full =
    let a := s.acquire (quadOf m.dcore)
    let k := m.counterKey
    let v := Memory.dword s.mem k
    let w : Nat → Word64 := fun i => Memory.dword s.mem (k + 32 + 8 * i)
    if v = 0#64 then some ((a.event (dieOf m.dcore) 0x08 1 m.job m.vf (4 * m.dcore) [field64 m.target 0]).consumed m.dcore m.job m.marked)
    else if v ≠ 1#64 then some ((a.putHome k (leBytes 8 (v - 1#64).toNat)).consumed m.dcore m.job m.marked)
    else if (recordChecks (w 0) (w 3)).isSome then
      some (((a.putHome k (leBytes 8 0)).event (dieOf m.dcore) 0x08 3 m.job m.vf (4 * m.dcore) [field64 m.target 0]).consumed m.dcore m.job
        m.marked)
    else if full then none
    else some ((((a.putHome k (leBytes 8 0)).sent m.dcore m.job).push m.dcore
      ⟨.task (w 0) (w 1) (w 2) (w 3), m.job, m.vf, 0, 0, m.anc⟩).consumed m.dcore m.job m.marked) := by
  simp only [State.countDown, State.acquire_mem, State.acquire_poisoned, hp, Bool.false_eq_true, if_false]

theorem State.countDown_zero (h0 : Memory.dword s.mem m.counterKey = 0#64) : s.countDown m full =
    some (((s.acquire (quadOf m.dcore)).event (dieOf m.dcore) 0x08 1 m.job m.vf (4 * m.dcore) [field64 m.target 0]).consumed m.dcore m.job
      m.marked) :=
  (State.countDown_clean hp).trans (if_pos h0)

theorem State.countDown_above (h0 : Memory.dword s.mem m.counterKey ≠ 0#64)
    (h1 : Memory.dword s.mem m.counterKey ≠ 1#64) : s.countDown m full =
    some (((s.acquire (quadOf m.dcore)).putHome m.counterKey
      (leBytes 8 (Memory.dword s.mem m.counterKey - 1#64).toNat)).consumed m.dcore m.job m.marked) :=
  (State.countDown_clean hp).trans ((if_neg h0).trans (if_pos h1))

section
variable (h1 : Memory.dword s.mem m.counterKey = 1#64)
include h1

theorem State.countDown_bad (hbad : (recordChecks (Memory.dword s.mem (m.counterKey + 32 + 8 * 0))
      (Memory.dword s.mem (m.counterKey + 32 + 8 * 3))).isSome = true) : s.countDown m full =
    some ((((s.acquire (quadOf m.dcore)).putHome m.counterKey (leBytes 8 0)).event (dieOf m.dcore) 0x08 3 m.job
      m.vf (4 * m.dcore) [field64 m.target 0]).consumed m.dcore m.job m.marked) :=
  (State.countDown_clean hp).trans ((if_neg (h1 ▸ by decide)).trans ((if_neg (not_not.2 h1)).trans (if_pos hbad)))

/-- A count of 1 pushes its record, when the deque has room for it (R179). -/
theorem State.countDown_one (hok : recordChecks (Memory.dword s.mem (m.counterKey + 32 + 8 * 0))
      (Memory.dword s.mem (m.counterKey + 32 + 8 * 3)) = none) : s.countDown m full =
    let k := m.counterKey
    let w : Nat → Word64 := fun i => Memory.dword s.mem (k + 32 + 8 * i)
    if full then none
    else some (((((s.acquire (quadOf m.dcore)).putHome k (leBytes 8 0)).sent m.dcore m.job).push m.dcore
      ⟨.task (w 0) (w 1) (w 2) (w 3), m.job, m.vf, 0, 0, m.anc⟩).consumed m.dcore m.job m.marked) :=
  (State.countDown_clean hp).trans ((if_neg (h1 ▸ by decide)).trans ((if_neg (not_not.2 h1)).trans
    (if_neg (by rw [hok]; exact Bool.false_ne_true))))

end
end

theorem State.consumed_spec (s : State) (c job : Nat) (marked : Bool) : ((s.consumed c job marked).core c).deque = (s.core c).deque ∧
    (((s.consumed c job marked).core c).counters job).s = ((s.core c).counters job).s ∧
    (((s.consumed c job marked).core c).counters job).c = ((s.core c).counters job).c + 1#64 ∧ (s.consumed c job marked).packets = s.packets := by
  obtain ⟨hdeque, hs, hc⟩ := s.count_spec c job 0 1
  rw [State.consumed]
  split
  · rw [State.countMarked]
    refine ⟨?_, ?_, ?_, rfl⟩ <;> rw [State.core_putCore, if_pos rfl]
    · exact hdeque
    · rw [Core.counters_set, hs]
      exact BitVec.add_zero _
    · rw [Core.counters_set]
      exact hc
  · exact ⟨hdeque, hs.trans (BitVec.add_zero _), hc, rfl⟩

/-- A count that reaches 0 pushes its record, counts it sent and the message consumed (R179, R306). -/
theorem State.countedOut_spec (s : State) (c job k : Nat) (r : Rec) (bs : List Byte) (marked : Bool) :
    let s' := (((s.putHome k bs).sent c job).push c r).consumed c job marked
    s'.packets = s.packets ∧ (s'.core c).deque = r :: (s.core c).deque ∧
      ((s'.core c).counters job).s = ((s.core c).counters job).s + 1#64 ∧ ((s'.core c).counters job).c = ((s.core c).counters job).c + 1#64 := by
  obtain ⟨hdeque, hs, hc⟩ := (s.putHome k bs).count_spec c job 1 0
  intro s'
  obtain ⟨hdeque', hs', hc', hpackets⟩ := (((s.putHome k bs).sent c job).push c r).consumed_spec c job marked
  refine ⟨?_, ?_, ?_, ?_⟩
  · refine hpackets.trans ?_
    rw [State.push, State.putCore, State.sent, State.startSeries_eq]
    rfl
  · rw [hdeque', State.core_push, State.sent, State.core_startSeries]
    exact congrArg (r :: ·) hdeque
  · rw [hs', State.counters_push, State.sent, State.core_startSeries, hs]
    rfl
  · rw [hc', State.counters_push, State.sent, State.core_startSeries, hc]
    exact congrArg (· + 1#64) (BitVec.add_zero _)

/-- Settles O48: the moves of a packet, then what a message meets at its core. -/
theorem fabricDeliversMessages : Obligations.FabricDeliversMessages := by
  unfold Obligations.FabricDeliversMessages
  refine ⟨fun s c => rfl, fun s p hfind => ⟨fun hcan => ⟨packetHop_lost hfind hcan, fun hlost => ?hops⟩, ?flow, fun m hbody harrived => ?message⟩⟩
  case hops =>
    have hgoes := packetHop_goes hfind hcan hlost
    refine ⟨fun q hm => ?mesh, fun dir hm => ?die, fun n hm => ?leave, fun r hm hbody => ?here⟩ <;> rw [hm] at hgoes
    case mesh =>
      obtain rfl := Packet.move_mesh hm
      obtain ⟨hx, hx', hy, hy'⟩ := meshStep_spec p.at_ p.aim
      exact ⟨hx, hx', hy, hy', hgoes⟩
    case die => exact ⟨_, hgoes, Packet.move_die hm, rfl⟩
    case leave =>
      obtain ⟨hport, hat⟩ := Packet.move_leave hm
      obtain ⟨away, haway⟩ := ((s.flitSent (wayOf (64 + n) false)).dropPacket p).sentAway_eq p
      refine ⟨_, hgoes, hport, hat, ?_, ?_⟩ <;> dsimp only <;> rw [haway] <;> rfl
    case here =>
      rw [hbody] at hgoes
      exact hgoes
  case flow =>
    intro first
    have hfirst : s.firstOfFlow p = true ↔ first := s.firstOfFlow_iff p
    exact ⟨by rw [State.arrived_iff, hfirst], fun n hm hcan => hfirst.1 (State.canHop_leave hm hcan)⟩
  case message =>
    intro own i hi
    have harr := State.arrival_of_arrived hfind harrived
    refine ⟨fun hf => message_away harr hbody hi (State.turnAway_fenced hf), fun hf hs => message_away harr hbody hi (State.turnAway_stray hf hs),
      fun ⟨hf, hs⟩ hroom => ?noRoom, fun ⟨hf, hs⟩ hroom => ?room⟩
    all_goals have hown := State.turnAway_own (p := p) hf hs
    case noRoom => exact ⟨_, message_noRoom harr hbody hown hi hroom, s.noCredit_spec p⟩
    case room =>
      refine ⟨messageArrival_taken harr hbody hown hroom, dataLanding_landed harr hbody hown hroom, fun hk hclean => ?_⟩
      intro k v w
      have hcount := countMessage_counts harr hbody hown hroom hk
      refine ⟨fun h0 h1 => ?_, fun h0 => ?_, fun h1 hbad => ?_, fun h1 hdst hok => ?_⟩
      · rwa [State.countDown_above hclean h0 h1] at hcount
      · rwa [State.countDown_zero hclean h0] at hcount
      · rwa [State.countDown_bad hclean h1 hbad] at hcount
      · rw [State.countDown_one hclean h1 hok] at hcount
        refine ⟨fun hfree => ?_, fun hfull => ?_⟩
        · rw [if_neg (by rw [hdst, hfree]; exact Bool.false_ne_true)] at hcount
          obtain ⟨hpackets, hdeque, hsent, hconsumed⟩ := State.countedOut_spec (s.acquire (quadOf m.dcore)) m.dcore m.job
            m.counterKey ⟨.task (w 0) (w 1) (w 2) (w 3), m.job, m.vf, 0, 0, m.anc⟩ (leBytes 8 0) m.marked
          rw [State.acquire_core] at hdeque hsent hconsumed
          exact ⟨_, hcount, congrArg (List.filter _) (hpackets.trans (State.acquire_packets ..)), hdeque, hsent, hconsumed⟩
        · rwa [if_pos (by rw [hdst, hfull])] at hcount

end Sys2Proof.Machine
end

section
/-!
SUPPORT. The home of a barrier (R198, R311, R313): what an arrival or a withdrawal leaves there, and what the end of a phase does (O34).
-/
namespace Sys2Proof.Machine

/-! ### The register of a participant at the end of a phase (R311) -/

theorem completedReg_idem (r : Word64) (ph : Bool) (n : Nat) : completedReg (completedReg r ph n) ph n = completedReg r ph n := by
  simp only [completedReg]
  ext i hi
  simp only [BitVec.getElem_or, BitVec.getElem_and, BitVec.getElem_not]
  grind

theorem bitAt_completedReg (r : Word64) (ph : Bool) {n j : Nat} (hn : n < 2 ^ 32) (hj : j < 64) : bitAt (completedReg r ph n) j =
    if j < 32 then n.testBit j else if j = 58 then false else if j = 59 then ph else bitAt r j := by
  have hmask : bitAt (field64 3 58 ||| field64 (2 ^ 32 - 1) 0) j = (decide (j < 32) || decide (j = 58) || decide (j = 59)) := by
    rw [bitAt_or, bitAt_field64, bitAt_field64, show (3 : Nat) = 2 ^ 2 - 1 from rfl, Nat.testBit_two_pow_sub_one, Nat.testBit_two_pow_sub_one,
      Bool.eq_iff_iff]
    simp only [Bool.or_eq_true, Bool.and_eq_true, decide_eq_true_eq]
    omega
  have hph : bitAt (field64 (if ph then 1 else 0) 59) j = (decide (j = 59) && ph) := by
    rw [bitAt_field64]
    cases ph
    · simp
    · rw [if_pos rfl, show (1 : Nat) = 2 ^ 1 - 1 from rfl, Nat.testBit_two_pow_sub_one, Bool.eq_iff_iff]
      simp only [Bool.and_eq_true, decide_eq_true_eq, and_true]
      omega
  have hcnt : bitAt (field64 n 0) j = (decide (j < 32) && n.testBit j) := by
    rw [bitAt_field64]
    by_cases hlow : j < 32
    · simp [hj, hlow]
    · simp [hlow, hj, Nat.testBit_lt_two_pow (Nat.lt_of_lt_of_le hn (Nat.pow_le_pow_right (by decide) (Nat.not_lt.1 hlow)))]
  have hclear (x y : Word64) : bitAt (x &&& ~~~y) j = (bitAt x j && !bitAt y j) := by simp [bitAt, hj]
  rw [completedReg, bitAt_or, bitAt_or, hclear, hmask, hph, hcnt]
  grind

/-- A participant's register after a phase: A is cleared, PH is the new phase, CNT is refreshed, the rest stays (R311). -/
theorem completedReg_spec (r : Word64) (ph : Bool) {n : Nat} (hn : n < 2 ^ 32) :
    bitAt (completedReg r ph n) 58 = false ∧ bitAt (completedReg r ph n) 59 = ph ∧ bitsNat (completedReg r ph n) 31 0 = n ∧
      ∀ j < 64, 32 ≤ j → j ≠ 58 → j ≠ 59 → (completedReg r ph n).getLsbD j = r.getLsbD j := by
  refine ⟨by simp [bitAt_completedReg r ph hn], by simp [bitAt_completedReg r ph hn], Nat.eq_of_testBit_eq fun i => ?_,
    fun j hj h32 h58 h59 => ?_⟩
  · rw [bitsNat_testBit, Nat.zero_add]
    by_cases hi : i < 32
    · simp [bitAt_completedReg r ph hn (show i < 64 by omega), hi]
    · simp [hi, Nat.testBit_lt_two_pow (Nat.lt_of_lt_of_le hn (Nat.pow_le_pow_right (by decide) (Nat.not_lt.1 hi)))]
  · exact (bitAt_completedReg r ph hn hj).trans (by rw [if_neg (Nat.not_lt.2 h32), if_neg h58, if_neg h59]; rfl)

/-! ### The results of a reduction (R313) -/

section
variable (s : State) (vf job : Nat) (e : Word64) (z : List Byte × BitVec 5) (c : Contrib)

/-- Bytes of a result are stored in the pool of a participant, a poisoned place reported (R313, R357). -/
def State.putResult (at_ : Nat) (bs : List Byte) : State :=
  (if s.homePoison (quadOf c.core) vf 0 (.pool c.core (at_ - (memPool + c.core * 2 ^ 17))) bs.length true then
    s.event (dieOf c.core) 0x03 0 job vf (4 * c.core + c.slot) [1#64, BitVec.ofNat 64 at_] else s).putHome at_ bs

theorem State.putResult_eq (at_ : Nat) (bs : List Byte) : ∃ ds ps, s.putResult vf job c at_ bs =
    { s with dies := ds, poison := ps, mem := Memory.put s.mem at_ bs } := by
  unfold State.putResult
  split
  · rw [State.event_eq]
    exact ⟨_, _, rfl⟩
  · exact ⟨_, _, rfl⟩

/-- The results z of a job's reduction are delivered to a participant that has contributed (R313). -/
def State.deliverTo : State :=
  let k := memPool + c.core * 2 ^ 17 + bitsNat e 50 34
  let f := if c.words.isEmpty then z.2 ||| flNV else z.2
  ((s.putResult vf job c (k + 256 * c.slot) z.1).putResult vf job c (k + 1024 + 8 * c.slot) (leBytes 8 (2 ^ 63 + f.toNat))).modStrand c.uid
    fun t => { t with reduced := c.b :: t.reduced }

/-- Memory once the results z stand in a participant's pool (R313). -/
def Memory.putResults (m : Memory) : Memory :=
  let k := memPool + c.core * 2 ^ 17 + bitsNat e 50 34
  let f := if c.words.isEmpty then z.2 ||| flNV else z.2
  Memory.put (Memory.put m (k + 256 * c.slot) z.1) (k + 1024 + 8 * c.slot) (leBytes 8 (2 ^ 63 + f.toNat))

theorem State.deliverTo_eq : ∃ ds ps ss, s.deliverTo vf job e z c =
    { s with dies := ds, poison := ps, strands := ss, mem := Memory.putResults e z c s.mem } := by
  unfold State.deliverTo
  extract_lets k f
  obtain ⟨ds, ps, h⟩ := s.putResult_eq vf job c (k + 256 * c.slot) z.1
  obtain ⟨ds', ps', h'⟩ := (s.putResult vf job c (k + 256 * c.slot) z.1).putResult_eq vf job c (k + 1024 + 8 * c.slot) (leBytes 8 (2 ^ 63 + f.toNat))
  rw [State.modStrand_eq, h', h]
  exact ⟨_, _, _, rfl⟩

theorem State.strand?_deliverTo (v : Nat) : (s.deliverTo vf job e z c).strand? v =
    if c.uid = v then (s.strand? v).map fun t => { t with reduced := c.b :: t.reduced } else s.strand? v := by
  unfold State.deliverTo
  extract_lets k f
  obtain ⟨ds, ps, h⟩ := s.putResult_eq vf job c (k + 256 * c.slot) z.1
  obtain ⟨ds', ps', h'⟩ := (s.putResult vf job c (k + 256 * c.slot) z.1).putResult_eq vf job c (k + 1024 + 8 * c.slot) (leBytes 8 (2 ^ 63 + f.toNat))
  rw [State.strand?_modStrand, h', h]
  rfl

end

/-- The contributions of a job to a barrier whose participants are still bound to it (R313). -/
def Barrier.delivered (b : Barrier) (job : Nat) : List Contrib :=
  (b.contrib.filter fun (c : Contrib) => c.job == job).filter fun (c : Contrib) =>
    b.members.any fun m => m.uid == c.uid && m.b == c.b && m.lost.isNone

theorem State.deliverResults_none {s : State} {b : Barrier} {job : Nat} (h : (s.job job).entry b.sc b.num = none) :
    s.deliverResults b job = s := by
  simp only [State.deliverResults, h]

theorem State.deliverResults_entry {s : State} {b : Barrier} {job : Nat} {e : Word64} (h : (s.job job).entry b.sc b.num = some e) :
    s.deliverResults b job = (b.delivered job).foldl (fun s c =>
      s.deliverTo b.vf job e (reduceWords e (b.contrib.filter fun (c : Contrib) => c.job == job)) c) s := by
  simp only [State.deliverResults, h]
  rfl

/-- The results of one participant stand in its pool, N results and its status (R313). -/
theorem Memory.putResults_spec {m : Memory} (hwf : Memory.wf m = true) (e : Word64) (z : List Byte × BitVec 5) (c : Contrib)
    (hslot : c.slot < 4) (hlen : z.1.length ≤ 256) :
    let k := memPool + c.core * 2 ^ 17 + bitsNat e 50 34
    Memory.bytes (Memory.putResults e z c m) (k + 256 * c.slot) z.1.length = z.1 ∧
      Memory.dword (Memory.putResults e z c m) (k + 1024 + 8 * c.slot) =
        BitVec.ofNat 64 (2 ^ 63 + (if c.words = [] then z.2 ||| flNV else z.2).toNat) := by
  intro k
  have hstatus := Memory.put_leaves (Memory.put_wf hwf (k + 256 * c.slot) z.1) (k + 1024 + 8 * c.slot)
    (leBytes_length 8 (2 ^ 63 + (if c.words.isEmpty then z.2 ||| flNV else z.2).toNat))
  obtain ⟨hstatus, hothers⟩ := hstatus
  constructor
  · refine (List.ext_getElem (by rw [Memory.length_bytes, Memory.length_bytes]) fun i hi _ => ?_).trans (Memory.bytes_put hwf (k + 256 * c.slot) z.1)
    rw [Memory.length_bytes] at hi
    rw [Memory.getElem_bytes, Memory.getElem_bytes]
    exact hothers _ (by omega)
  · refine (Memory.dword_of_bytes hstatus).trans ?_
    simp

/-- Where one participant has contributed, its results are delivered (R313). -/
theorem State.deliverResults_one {s : State} {b : Barrier} {job : Nat} {e : Word64} {c : Contrib} {t : Strand}
    (he : (s.job job).entry b.sc b.num = some e) (hc : b.contrib.filter (fun c => c.job == job) = [c])
    (hm : ∃ m ∈ b.members, m.uid = c.uid ∧ m.b = c.b ∧ m.lost = none) (ht : s.strand? c.uid = some t) :
    (s.deliverResults b job).mem = Memory.putResults e (reduceWords e [c]) c s.mem ∧
      (s.deliverResults b job).strand? c.uid = some { t with reduced := c.b :: t.reduced } := by
  have hbound : (b.members.any fun m => m.uid == c.uid && m.b == c.b && m.lost.isNone) = true := by
    obtain ⟨m, hmem, huid, hb, hlost⟩ := hm
    exact List.any_eq_true.2 ⟨m, hmem, by simp [huid, hb, hlost]⟩
  have hone : s.deliverResults b job = s.deliverTo b.vf job e (reduceWords e [c]) c := by
    rw [State.deliverResults_entry he, Barrier.delivered, hc]
    simp only [List.filter_cons, hbound, if_true, List.filter_nil, List.foldl_cons, List.foldl_nil]
  rw [hone]
  constructor
  · obtain ⟨ds, ps, ss, h⟩ := s.deliverTo_eq b.vf job e (reduceWords e [c]) c
    rw [h]
  · rw [State.strand?_deliverTo, if_pos rfl, ht]
    rfl

/-! ### The end of a phase (R311) -/

/-- What the delivery of results leaves: a strand but for the registers it counts as reduced, and a strand that is no participant
at all (R313). -/
structure State.KeepsOthers (ms : List Member) (s s' : State) : Prop where
  strand : ∀ v x, s.strand? v = some x → ∃ rs, s'.strand? v = some { x with reduced := rs }
  others : ∀ v, (∀ m ∈ ms, m.uid ≠ v) → s'.strand? v = s.strand? v
  packets : s'.packets = s.packets

section
variable {ms : List Member} {s s' s'' : State}

theorem State.KeepsOthers.refl (ms : List Member) (s : State) : s.KeepsOthers ms s := ⟨fun _ x h => ⟨x.reduced, h⟩, fun _ _ => rfl, rfl⟩

theorem State.KeepsOthers.trans (h : s.KeepsOthers ms s') (h' : s'.KeepsOthers ms s'') : s.KeepsOthers ms s'' :=
  ⟨fun v x hx => by
    obtain ⟨rs, hx'⟩ := h.strand v x hx
    obtain ⟨rs', hx''⟩ := h'.strand v _ hx'
    exact ⟨rs', hx''⟩, fun v hv => (h'.others v hv).trans (h.others v hv), h'.packets.trans h.packets⟩

theorem State.KeepsOthers.foldl {α : Type} {l : List α} {f : State → α → State} (hf : ∀ s : State, ∀ a ∈ l, s.KeepsOthers ms (f s a)) (s : State) :
    s.KeepsOthers ms (l.foldl f s) := by
  induction l generalizing s with
  | nil => exact .refl ms s
  | cons a r ih => exact (hf s a List.mem_cons_self).trans (ih (fun s b hb => hf s b (List.mem_cons_of_mem _ hb)) _)

end

theorem State.deliverTo_keeps (s : State) (vf job : Nat) (e : Word64) (z : List Byte × BitVec 5) {c : Contrib} {ms : List Member}
    (hc : ∃ m ∈ ms, m.uid = c.uid) : s.KeepsOthers ms (s.deliverTo vf job e z c) := by
  refine ⟨fun v x hx => ?_, fun v hv => ?_, ?_⟩
  · rw [State.strand?_deliverTo, hx]
    split
    · exact ⟨_, rfl⟩
    · exact ⟨x.reduced, rfl⟩
  · obtain ⟨m, hm, huid⟩ := hc
    rw [State.strand?_deliverTo, if_neg fun h => hv m hm (huid.trans h)]
  · obtain ⟨ds, ps, ss, h⟩ := s.deliverTo_eq vf job e z c
    rw [h]

theorem State.deliverResults_keeps (s : State) (b : Barrier) (job : Nat) : s.KeepsOthers b.members (s.deliverResults b job) := by
  cases he : (s.job job).entry b.sc b.num with
  | none =>
    rw [State.deliverResults_none he]
    exact .refl ..
  | some e =>
    rw [State.deliverResults_entry he]
    refine .foldl (fun s c hc => s.deliverTo_keeps _ _ _ _ ?_) s
    obtain ⟨m, hm, hbound⟩ := List.any_eq_true.1 (List.mem_filter.1 hc).2
    exact ⟨m, hm, by simp at hbound; exact hbound.1.1⟩

/-- The barrier as the end of its phase leaves it (R311). -/
def Barrier.next (b : Barrier) : Barrier :=
  { b with arrivals := 0, ph := !b.ph, contrib := [], gone := [],
           members := b.members.map fun (m : Member) => { m with lost := m.lost.map fun x => (x.1, x.2.1, completedReg x.2.2 (!b.ph) b.parts) } }

/-- A strand once a participant's register is complete, when it is that participant's (R311). -/
def Strand.completeB (v : Nat) (ph : Bool) (n : Nat) (t : Strand) (m : Member) : Strand :=
  if m.uid = v then t.setB (BitVec.ofNat 2 m.b) (completedReg (t.b (BitVec.ofNat 2 m.b)) ph n) else t

theorem State.foldl_modStrand_eq {α : Type} (l : List α) (u : α → Nat) (f : α → Strand → Strand) (s : State) :
    ∃ ss, l.foldl (fun s a => s.modStrand (u a) (f a)) s = { s with strands := ss } := by
  induction l generalizing s with
  | nil => exact ⟨_, rfl⟩
  | cons a r ih =>
    obtain ⟨ss, h⟩ := ih (s.modStrand (u a) (f a))
    rw [List.foldl_cons, h, State.modStrand_eq]
    exact ⟨ss, rfl⟩

theorem State.strand?_foldl_modStrand {α : Type} (l : List α) (u : α → Nat) (f : α → Strand → Strand) (s : State) (v : Nat) :
    (l.foldl (fun s a => s.modStrand (u a) (f a)) s).strand? v =
      (s.strand? v).map fun t => l.foldl (fun t a => if u a = v then f a t else t) t := by
  induction l generalizing s with
  | nil => cases h : s.strand? v <;> simp [h]
  | cons a r ih =>
    rw [List.foldl_cons, ih, State.strand?_modStrand]
    split
    · next h => cases s.strand? v <;> simp [h]
    · next h => simp [h]

theorem Strand.foldl_completeB (ms : List Member) (v : Nat) (ph : Bool) (n : Nat) (q : BitVec 2) (t : Strand) :
    (ms.foldl (Strand.completeB v ph n) t).run = t.run ∧ (ms.foldl (Strand.completeB v ph n) t).b q =
      if ∃ m ∈ ms, m.uid = v ∧ BitVec.ofNat 2 m.b = q then completedReg (t.b q) ph n else t.b q := by
  induction ms generalizing t with
  | nil => simp
  | cons m r ih =>
    obtain ⟨hrun, hb⟩ := ih (t.completeB v ph n m)
    rw [List.foldl_cons, hrun, hb]
    by_cases hv : m.uid = v
    · rw [Strand.completeB, if_pos hv, Strand.b_setB]
      by_cases hq : q = BitVec.ofNat 2 m.b
      · subst hq
        simp [hv, completedReg_idem]
      · simp [hv, hq, Ne.symm hq]
    · rw [Strand.completeB, if_neg hv]
      simp [hv]

/-- A strand that goes on when it waits and the test picks what it waits for. -/
def Strand.wakeIf (tick : Nat) (test : Wait → Bool) (t : Strand) : Strand :=
  match t.run with
  | .waiting w => if test w then { t with run := .running, wokenAt := tick } else t
  | .running => t

theorem State.strand?_wake (s : State) (test : Nat → Strand → Wait → Bool) (v : Nat) :
    (s.wake test).strand? v = (s.strand? v).map fun t => t.wakeIf s.tick (test v t) := by
  rw [State.strand?, State.wake, FMap.get?_map]
  rfl

section
variable {t : Strand} {tick : Nat} {test : Wait → Bool}

theorem Strand.wakeIf_none (h : ∀ w, test w = false) : t.wakeIf tick test = t := by
  unfold Strand.wakeIf
  split
  · rw [h]
    rfl
  · rfl

theorem Strand.b_wakeIf (q : BitVec 2) : (t.wakeIf tick test).b q = t.b q := by
  unfold Strand.wakeIf
  split
  · split <;> rfl
  · rfl

theorem Strand.wakeIf_waiting {w : Wait} (hw : t.run = .waiting w) (h : test w = true) : (t.wakeIf tick test).run = .running := by
  simp only [Strand.wakeIf, hw, h, if_true]

end

theorem State.barrier_putBarrier (s : State) (b : Barrier) (job : Nat) :
    (s.putBarrier b).barrier b.vf job b.sc b.num b.place = b := by
  have hnone : (s.barriers.filter fun x => !x.is b.vf b.sc b.num b.place).find? (fun x => x.is b.vf b.sc b.num b.place) = none := by
    simp [List.find?_eq_none]
  rw [State.barrier, State.putBarrier, List.find?_append, hnone]
  simp [Barrier.is]

/-- The end of a phase: the results are delivered, the registers completed, the participants that wait go on (R311, R313). -/
def State.endPhase (s : State) (b : Barrier) : State :=
  (b.next.members.foldl (fun s m => s.modStrand m.uid fun t =>
    t.setB (BitVec.ofNat 2 m.b) (completedReg (t.b (BitVec.ofNat 2 m.b)) (!b.ph) b.parts))
    (((b.contrib.map Contrib.job).dedup.foldl (fun s j => s.deliverResults b j) s).putBarrier b.next)).wake
    fun u _ w => b.next.members.any fun m => m.uid == u && w == .barrier m.b

theorem State.barrierStep_ends {s : State} {b : Barrier} (h : b.arrivals = b.parts) (h0 : b.parts ≠ 0) :
    s.barrierStep b = s.endPhase b := if_pos (by simp [h, h0])

theorem State.barrierStep_counts {s : State} {b : Barrier} (h : b.arrivals ≠ b.parts ∨ b.parts = 0) :
    s.barrierStep b = s.putBarrier b := if_neg (by simpa [imp_iff_not_or] using h)

section
variable (s : State) (b : Barrier)

/-- The phase's end as one change of the strands, of what the delivery of the results has left. -/
theorem State.endPhase_eq : ∃ ss, s.endPhase b =
    { ((b.contrib.map Contrib.job).dedup.foldl (fun s j => s.deliverResults b j) s).putBarrier b.next with strands := ss } := by
  obtain ⟨ss, h⟩ := State.foldl_modStrand_eq b.next.members Member.uid (fun m t =>
    t.setB (BitVec.ofNat 2 m.b) (completedReg (t.b (BitVec.ofNat 2 m.b)) (!b.ph) b.parts))
    (((b.contrib.map Contrib.job).dedup.foldl (fun s j => s.deliverResults b j) s).putBarrier b.next)
  rw [State.endPhase, h]
  exact ⟨_, rfl⟩

theorem State.delivers_keeps : s.KeepsOthers b.members ((b.contrib.map Contrib.job).dedup.foldl (fun s j => s.deliverResults b j) s) :=
  .foldl (fun s j _ => s.deliverResults_keeps b j) s

theorem State.strand?_endPhase (v : Nat) : ∃ tick, (s.endPhase b).strand? v =
    (((b.contrib.map Contrib.job).dedup.foldl (fun s j => s.deliverResults b j) s).strand? v).map fun t =>
      (b.next.members.foldl (Strand.completeB v (!b.ph) b.parts) t).wakeIf tick
        fun w => b.next.members.any fun m => m.uid == v && w == .barrier m.b := by
  rw [State.endPhase, State.strand?_wake, State.strand?_foldl_modStrand, Option.map_map]
  exact ⟨_, rfl⟩

theorem Barrier.mem_next {b : Barrier} {m : Member} (hm : m ∈ b.members) : ∃ m' ∈ b.next.members, m'.uid = m.uid ∧ m'.b = m.b :=
  ⟨_, List.mem_map_of_mem hm, rfl, rfl⟩

theorem Barrier.next_others {b : Barrier} {v : Nat} (hv : ∀ m ∈ b.members, m.uid ≠ v) : ∀ m ∈ b.next.members, m.uid ≠ v := by
  intro m hm
  obtain ⟨m', hm', rfl⟩ := List.mem_map.1 hm
  exact hv m' hm'

theorem State.endPhase_participant {m : Member} (hm : m ∈ b.members) {x : Strand} (hx : s.strand? m.uid = some x) :
    ∃ x', (s.endPhase b).strand? m.uid = some x' ∧
      x'.b (BitVec.ofNat 2 m.b) = completedReg (x.b (BitVec.ofNat 2 m.b)) (!b.ph) b.parts ∧
      (x.run = .waiting (.barrier m.b) → x'.run = .running) := by
  obtain ⟨tick, h⟩ := s.strand?_endPhase b m.uid
  obtain ⟨rs, hrs⟩ := (s.delivers_keeps b).strand m.uid x hx
  obtain ⟨m', hm', huid, hb⟩ := Barrier.mem_next hm
  obtain ⟨hrun, hreg⟩ := Strand.foldl_completeB b.next.members m.uid (!b.ph) b.parts (BitVec.ofNat 2 m.b) { x with reduced := rs }
  rw [hrs] at h
  refine ⟨_, h, ?_, fun hwait => Strand.wakeIf_waiting (hrun.trans hwait) (List.any_eq_true.2 ⟨m', hm', by simp [huid, hb]⟩)⟩
  rw [Strand.b_wakeIf, hreg, if_pos ⟨m', hm', huid, by rw [hb]⟩]
  rfl

theorem State.endPhase_other {v : Nat} (hv : ∀ m ∈ b.members, m.uid ≠ v) : (s.endPhase b).strand? v = s.strand? v := by
  obtain ⟨tick, h⟩ := s.strand?_endPhase b v
  have hnext := Barrier.next_others hv
  have hsame (t : Strand) : b.next.members.foldl (Strand.completeB v (!b.ph) b.parts) t = t := by
    refine List.foldlRecOn (motive := (· = t)) _ _ rfl fun x hx m hm => ?_
    rw [Strand.completeB, if_neg (hnext m hm), hx]
  have hnone (w : Wait) : (b.next.members.any fun m => m.uid == v && w == .barrier m.b) = false := by
    simp only [List.any_eq_false]
    exact fun m hm => by simp [hnext m hm]
  rw [h, (s.delivers_keeps b).others v hv]
  simp only [hsame, Strand.wakeIf_none hnone, Option.map_id']

end

/-- What the count at the home leaves: the packets, and a strand that is no participant (R311). -/
theorem State.barrierStep_keeps (s : State) (b : Barrier) : (s.barrierStep b).packets = s.packets ∧
    ∀ v x, s.strand? v = some x → (∀ m ∈ b.members, m.uid ≠ v) → (s.barrierStep b).strand? v = some x := by
  by_cases h : b.arrivals = b.parts ∧ b.parts ≠ 0
  · rw [State.barrierStep_ends h.1 h.2]
    refine ⟨?_, fun v x hx hv => (s.endPhase_other b hv).trans hx⟩
    obtain ⟨ss, hss⟩ := s.endPhase_eq b
    rw [hss]
    exact (s.delivers_keeps b).packets
  · rw [State.barrierStep_counts (by grind)]
    exact ⟨rfl, fun v x hx _ => hx⟩

theorem State.endPhase_barrier (s : State) (b : Barrier) : (s.endPhase b).barrier b.vf b.job b.sc b.num b.place = b.next := by
  obtain ⟨ss, hss⟩ := s.endPhase_eq b
  rw [hss]
  exact State.barrier_putBarrier _ b.next b.job

theorem State.endPhase_mem (s : State) (b : Barrier) : (s.endPhase b).mem =
    ((b.contrib.map Contrib.job).dedup.foldl (fun s j => s.deliverResults b j) s).mem := by
  obtain ⟨ss, hss⟩ := s.endPhase_eq b
  rw [hss]
  rfl

/-! ### An arrival or a withdrawal at its home -/

section
variable {s : State} {p : Packet} (harr : s.arrival p.id = some p)
include harr

theorem barrierArrival_home {vf job sc num : Nat} {ph : Bool} {u r core slot : Nat} {ws : Option (List Byte)}
    (hb : p.body = .arrive vf job sc num ph u r core slot ws) : exec (.barrierArrival p.id) s = .next (s.atHome p) := by
  show execBarrierArrival p.id s = _
  simp only [execBarrierArrival, harr, hb, if_true]

theorem barrierWithdrawal_home {vf job sc num : Nat} {ph hadA : Bool} {u r : Nat} (hb : p.body = .withdraw vf job sc num ph hadA u r) :
    exec (.barrierWithdrawal p.id) s = .next (s.atHome p) := by
  show execBarrierWithdrawal p.id s = _
  simp only [execBarrierWithdrawal, harr, hb, if_true]

end

section
variable {s : State} {p : Packet}

/-- An arrival of another phase changes nothing; one of the phase still open is counted with its contribution (R311). -/
theorem State.atHome_arrive {vf job sc num : Nat} {ph : Bool} {u r core slot : Nat} {ws : Option (List Byte)}
    (hb : p.body = .arrive vf job sc num ph u r core slot ws) : s.atHome p =
      let b := s.barrier vf job sc num (barPlace sc core job)
      let mine : List Contrib := if (u, r) ∈ b.gone then [] else ws.toList.map fun w => ⟨u, r, job, core, slot, w⟩
      if b.ph = ph then
        (s.dropPacket p).barrierStep { b with arrivals := b.arrivals + 1, contrib := b.contrib ++ mine, gone := b.gone.erase (u, r) }
      else s.dropPacket p := by
  cases ws with
  | none => simp only [State.atHome, hb, ne_eq, ite_not, Option.toList_none, List.map_nil, ite_self]
  | some w => simp only [State.atHome, hb, ne_eq, ite_not, Option.toList_some, List.map_cons, List.map_nil, List.contains_iff_mem]

/-- A withdrawal takes a participant away, and its arrival in the open phase with the contribution (R311). -/
theorem State.atHome_withdraw {vf job sc num : Nat} {ph hadA : Bool} {u r : Nat} (hb : p.body = .withdraw vf job sc num ph hadA u r) :
    s.atHome p =
      let b := s.barrier vf job sc num (barPlace sc p.src job)
      (s.dropPacket p).barrierStep { b with
        parts := b.parts - 1
        arrivals := if hadA = true ∧ ph = b.ph then b.arrivals - 1 else b.arrivals
        contrib := if hadA = true ∧ ph = b.ph then b.contrib.filter (fun c => !(c.uid == u && c.b == r)) else b.contrib
        gone := if (hadA = true ∧ ph = b.ph) ∧ s.arriving u r ph = true then b.gone ++ [(u, r)] else b.gone } := by
  simp only [State.atHome, hb, Bool.and_eq_true, beq_iff_eq]

end

/-- Settles O34: the register, the results, then the count of an arrival and of a withdrawal at the home. -/
theorem barrierHomeDecides : Obligations.BarrierHomeDecides := by
  unfold Obligations.BarrierHomeDecides
  refine ⟨fun r ph n hn => completedReg_spec r ph hn, fun s b job e c t he hc hm ht hwf => ?results, fun s p harr _ => ?home⟩
  case results =>
    intro k z s' hslot hlen
    obtain ⟨hmem, hstrand⟩ := State.deliverResults_one he hc hm ht
    obtain ⟨hbytes, hstatus⟩ := Memory.putResults_spec hwf e z c hslot hlen
    rw [← hmem] at hbytes hstatus
    exact ⟨hbytes, hstatus, hstrand⟩
  case home =>
    intro coming ends
    have hends (b : Barrier) : ends ((s.dropPacket p).barrierStep b) b := by
      refine ⟨fun h h0 => ?_, fun h => ?_⟩
      · rw [State.barrierStep_ends h h0, State.endPhase_barrier]
        exact ⟨rfl, rfl, rfl, rfl, fun m hm x hx => (s.dropPacket p).endPhase_participant b hm hx, State.endPhase_mem ..⟩
      · rw [State.barrierStep_counts h, State.barrier_putBarrier]
        exact ⟨rfl, rfl, rfl, rfl, rfl, rfl, rfl⟩
    refine ⟨fun vf job sc num ph u r core slot ws hbody => ?arrive, fun vf job sc num ph hadA u r hbody => ?withdraw⟩
    case arrive =>
      intro b
      have hhome := barrierArrival_home harr hbody
      rw [State.atHome_arrive hbody] at hhome
      dsimp only at hhome
      by_cases hph : b.ph = ph
      · rw [if_pos hph] at hhome
        obtain ⟨hpackets, hothers⟩ := (s.dropPacket p).barrierStep_keeps { b with
          arrivals := b.arrivals + 1
          contrib := b.contrib ++ if (u, r) ∈ b.gone then [] else ws.toList.map fun w => ⟨u, r, job, core, slot, w⟩
          gone := b.gone.erase (u, r) }
        exact ⟨_, hhome, hpackets, fun _ => hends _, fun h => absurd hph h, hothers⟩
      · rw [if_neg hph] at hhome
        exact ⟨_, hhome, rfl, fun h => absurd h hph, fun _ => ⟨rfl, rfl, rfl⟩, fun v x hx _ => hx⟩
    case withdraw =>
      intro b back
      have hhome := barrierWithdrawal_home harr hbody
      rw [State.atHome_withdraw hbody] at hhome
      obtain ⟨hpackets, hothers⟩ := (s.dropPacket p).barrierStep_keeps { b with
        parts := b.parts - 1
        arrivals := if back then b.arrivals - 1 else b.arrivals
        contrib := if back then b.contrib.filter (fun c => !(c.uid == u && c.b == r)) else b.contrib
        gone := if back ∧ coming u r ph = true then b.gone ++ [(u, r)] else b.gone }
      exact ⟨_, hhome, hpackets, hends _, hothers⟩

end Sys2Proof.Machine
end

section
/-!
SUPPORT. The resampling of a population (R193 to R196): what each case of the decision leaves (O37).
-/
namespace Sys2Proof.Machine

/-- Strands replaced one after another, each under a number of its own, all stand at the end. -/
theorem State.strand?_foldl_putStrand (g : Nat → Strand → Strand) {ps : List (Nat × Strand)} (hps : (ps.map Prod.fst).Nodup) (s : State)
    {u : Nat} {t : Strand} (h : (u, t) ∈ ps) :
    (ps.foldl (fun s p => s.putStrand p.1 (g s.tick p.2)) s).strand? u = some (g s.tick t) := by
  have hother (ps : List (Nat × Strand)) (s : State) (hu : u ∉ ps.map Prod.fst) :
      (ps.foldl (fun s p => s.putStrand p.1 (g s.tick p.2)) s).strand? u = s.strand? u := by
    induction ps generalizing s with
    | nil => rfl
    | cons p r ih =>
      rw [List.map_cons, List.mem_cons, not_or] at hu
      rw [List.foldl_cons, ih _ hu.2, State.strand?_putStrand, if_neg (Ne.symm hu.1)]
  induction ps generalizing s with
  | nil => cases h
  | cons p r ih =>
    rw [List.map_cons, List.nodup_cons] at hps
    rw [List.foldl_cons]
    rcases List.mem_cons.1 h with rfl | h
    · rw [hother _ _ hps.1, State.strand?_putStrand, if_pos rfl]
    · exact ih hps.2 _ h

/-- A strand that goes on from RESAMPLE with the answer v (R195). -/
def Strand.resampled (t : Strand) (v : Word64) (tick : Nat) : Strand :=
  { (t.setGN t.resampleOp.1 v).retire (t.pc + 4) with run := .running, wokenAt := tick }

theorem State.resampleDone_eq (s : State) (u : Nat) (t : Strand) (v : Word64) :
    s.resampleDone u t v = s.putStrand u (t.resampled v s.tick) := rfl

/-! ### Free slots (R195) -/

theorem State.mem_population {s : State} {uid : Nat} {p : Nat × Strand} (h : p ∈ s.population uid) : p ∈ s.strands :=
  (List.mem_filter.1 ((List.mem_insertionSort _).1 h)).1

/-- Where every strand stands in a slot, no free slot is kept from the clones (R195). -/
theorem State.notForClones_slotted {s : State} (hslots : ∀ p ∈ s.strands, p.2.slot ≠ none) (cs ns : List Nat) (uid : Nat) :
    s.notForClones cs ((s.population uid).zip ns) = 0 := by
  have hended : (((s.population uid).zip ns).filter fun x => x.2 == 0 && x.1.2.slot.isNone) = [] := by
    refine List.filter_eq_nil_iff.2 fun x hx => ?_
    have hslot := hslots _ (State.mem_population (List.of_mem_zip hx).1)
    simp [hslot]
  have hheld : s.heldOut ((s.population uid).zip ns) = fun _ => 0 := by
    funext c
    rw [State.heldOut, List.length_eq_zero_iff]
    refine List.filter_eq_nil_iff.2 fun p hp => ?_
    simp [hslots p hp]
  rw [State.notForClones, hended, hheld]
  simp

/-! ### The decision -/

section
variable {s : State} {job uid : Nat} (hready : s.resampleReady uid = true)
include hready

/-- The decision over a population that is parked in RESAMPLE, case by case (R195). -/
theorem resampleDecision_cases : exec (.resampleDecision job uid) s = .next (
    let ps := s.population uid
    let z := (ps.headD (0, Strand.newborn .resident 0 0 0 0)).2
    let gb := z.resampleOp.2.2
    let seed := (((s.job job).launches.find? fun l => l.uid == uid).map Launch.seed).getD 0#64
    let ws := ps.map fun p => weightUnits p.2.resampleOp.2.1
    let trap (v : Word64) := ps.foldl (fun s p => s.putStrand p.1 { p.2 with run := .running, wokenAt := s.tick, doom := some (0x41, v) }) s
    match ws.findIdx? Option.isNone, resampleU seed gb z.sys.lineage with
    | some i, _ => trap (BitVec.ofNat 64 i)
    | none, none => trap gb
    | none, some (un, ud) =>
      let w := ws.map fun x => x.getD 0
      if w.sum = 0 then
        ps.foldl (fun s p => s.resampleDone p.1 { p.2 with sys := { p.2.sys with status := p.2.sys.status ||| 2#64 } } 0#64) s
      else
        let ns := resampleCounts (bitsNat gb 30 0) un ud w.sum 0 w
        let both := ps.zip ns
        let cs := s.partCores z.vf
        if (cs.flatMap s.freeSlots).length + ns.count 0 - s.notForClones cs both < (ns.map fun n => n - 1).sum then
          ps.foldl (fun s p => s.resampleDone p.1 p.2 (BitVec.allOnes 64)) s
        else
          ((both.foldl (fun s p =>
            if p.2 = 0 then ((s.leaveAll p.1.1 p.1.2).settleBarriers p.1.1).endStrand p.1.1 p.1.2 else s) s).surviveAll 0 both).restoreAll
            cs |>.cloneAll 0 both) := by
  have hcount (ns : List Nat) : (ns.filter fun n => n = 0).length = ns.count 0 := by
    rw [List.count, List.countP_eq_length_filter]
    rfl
  show execResampleDecision job uid s = _
  simp only [execResampleDecision, hready, Bool.not_true, Bool.false_eq_true, if_false, hcount] <;> rfl

end

/-- Settles O37: the cases of the decision; strands that go on are replaced one after another. -/
theorem resampleDecides : Obligations.ResampleDecides := by
  unfold Obligations.ResampleDecides
  refine ⟨fun s u t ht => ?ready, fun s job uid hready => ?decision⟩
  case ready =>
    show execCloneReady u s = _
    rw [execCloneReady, State.modStrand, ht]
  case decision =>
    have hcases := resampleDecision_cases (job := job) hready
    dsimp only at hcases ⊢
    intro hps
    refine ⟨fun i hi => ?weight, fun hw => ⟨fun hu => ?explicitU, fun un ud hu => ⟨fun hsum => ?zeroSum, fun hsum => ⟨fun hslots => ?free,
      fun hroom => ?noRoom, fun hroom => ?clones⟩⟩⟩⟩
    case weight =>
      rw [hi] at hcases
      exact ⟨_, hcases, fun p hp => State.strand?_foldl_putStrand
        (fun tick t => { t with run := .running, wokenAt := tick, doom := some (0x41, BitVec.ofNat 64 i) }) hps s hp⟩
    case explicitU =>
      rw [hw, hu] at hcases
      exact ⟨_, hcases, fun p hp => State.strand?_foldl_putStrand
        (fun tick t => { t with run := .running, wokenAt := tick, doom := some (0x41, _) }) hps s hp⟩
    case zeroSum =>
      rw [hw, hu] at hcases
      dsimp only at hcases
      rw [if_pos hsum] at hcases
      exact ⟨_, hcases, fun p hp => State.strand?_foldl_putStrand (fun tick t =>
        ({ t with sys := { t.sys with status := t.sys.status ||| 2#64 } } : Strand).resampled 0#64 tick) hps s hp⟩
    case free => rw [State.notForClones_slotted hslots, Nat.sub_zero]
    all_goals
      rw [hw, hu] at hcases
      dsimp only at hcases
      rw [if_neg hsum] at hcases
    case noRoom =>
      rw [if_pos hroom] at hcases
      exact ⟨_, hcases, fun p hp => State.strand?_foldl_putStrand (fun tick t => t.resampled (BitVec.allOnes 64) tick) hps s hp⟩
    case clones => rwa [if_neg (Nat.not_lt.2 hroom)] at hcases

end Sys2Proof.Machine
end

section
/-!
SUPPORT. Fields of a word made of others: what a field reads of a disjunction, of a conjunction and of a placed number.
-/
namespace Sys2Proof.Machine

theorem bitsNat_or (x y : Word64) (hi lo : Nat) : bitsNat (x ||| y) hi lo = bitsNat x hi lo ||| bitsNat y hi lo :=
  Nat.eq_of_testBit_eq fun i => by
    rw [Nat.testBit_or, bitsNat_testBit, bitsNat_testBit, bitsNat_testBit, bitAt_or, Bool.and_or_distrib_left]

theorem bitAt_and (x y : Word64) (i : Nat) : bitAt (x &&& y) i = (bitAt x i && bitAt y i) := BitVec.getLsbD_and

theorem bitsNat_and (x y : Word64) (hi lo : Nat) : bitsNat (x &&& y) hi lo = bitsNat x hi lo &&& bitsNat y hi lo :=
  Nat.eq_of_testBit_eq fun i => by
    rw [Nat.testBit_and, bitsNat_testBit, bitsNat_testBit, bitsNat_testBit, bitAt_and]
    cases decide (i < hi + 1 - lo) <;> simp

theorem bitsNat_lt (w : Word64) (hi lo : Nat) : bitsNat w hi lo < 2 ^ (hi + 1 - lo) := Nat.mod_lt _ (Nat.two_pow_pos _)

/-- A field reads back the number that was placed there. -/
theorem bitsNat_field64 {n hi lo : Nat} (hlo : lo ≤ hi) (hhi : hi < 64) (hn : n < 2 ^ (hi + 1 - lo)) : bitsNat (field64 n lo) hi lo = n :=
  Nat.eq_of_testBit_eq fun i => by
    rw [bitsNat_testBit, bitAt_field64, Nat.add_sub_cancel_left]
    by_cases hi' : i < hi + 1 - lo
    · simp [hi', show lo + i < 64 by omega]
    · simp [hi', Nat.testBit_lt_two_pow (Nat.lt_of_lt_of_le hn (Nat.pow_le_pow_right (by decide) (Nat.not_lt.1 hi')))]

theorem bitAt_field64_above {n lo i : Nat} (h : i < lo) : bitAt (field64 n lo) i = false := by
  simp [bitAt_field64, Nat.not_le.2 h]

theorem bitAt_field64_below {n lo i : Nat} (h : n < 2 ^ (i - lo)) : bitAt (field64 n lo) i = false := by
  simp [bitAt_field64, Nat.testBit_lt_two_pow h]

theorem bitsNat_field64_above {n hi lo lo' : Nat} (h : hi < lo) : bitsNat (field64 n lo) hi lo' = 0 :=
  Nat.eq_of_testBit_eq fun i => by
    rw [bitsNat_testBit, Nat.zero_testBit]
    by_cases hi' : i < hi + 1 - lo'
    · rw [bitAt_field64_above (by omega), Bool.and_false]
    · simp [hi']

theorem bitsNat_field64_below {n hi lo lo' : Nat} (h : n < 2 ^ (lo' - lo)) : bitsNat (field64 n lo) hi lo' = 0 :=
  Nat.eq_of_testBit_eq fun i => by
    rw [bitsNat_testBit, Nat.zero_testBit,
      bitAt_field64_below (Nat.lt_of_lt_of_le h (Nat.pow_le_pow_right (by decide) (by omega))), Bool.and_false]

/-- A field of one bit holds that bit. -/
theorem testBit_bitsNat_bit (w : Word64) (i : Nat) : (bitsNat w i i).testBit 0 = bitAt w i := by
  rw [bitsNat_testBit]
  simp

end Sys2Proof.Machine
end

section
/-!
SUPPORT. Taking a trap (R65, R217, R218): the strand that a trap leaves in each of its three ways, and what STATUS then says (O40).
-/
namespace Sys2Proof.Machine

/-- STATUS of a trap that is not delegated, taken in mode m: PMODE and PPIE from MODE and PIE, PIE clear, MODE supervisor at least
(R217). -/
def trapStatus (st : Word64) (m : Nat) : Word64 :=
  (st &&& ~~~(0xFC#64)) ||| field64 (max m 1) 6 ||| field64 m 4 ||| field64 (bitsNat st 3 3) 2

section
variable (st : Word64) {m : Nat} (hm : m < 4)
include hm

theorem trapStatus_mode : bitsNat (trapStatus st m) 7 6 = max m 1 := by
  have hpie := bitsNat_lt st 3 3
  have hmask : bitsNat (~~~0xFC#64) 7 6 = 0 := by decide
  rw [trapStatus, bitsNat_or, bitsNat_or, bitsNat_or, bitsNat_and, hmask, bitsNat_field64 (by decide) (by decide) (by omega),
    bitsNat_field64_below (by omega), bitsNat_field64_below (by omega)]
  simp

theorem trapStatus_pmode : bitsNat (trapStatus st m) 5 4 = m := by
  have hpie := bitsNat_lt st 3 3
  have hmask : bitsNat (~~~0xFC#64) 5 4 = 0 := by decide
  rw [trapStatus, bitsNat_or, bitsNat_or, bitsNat_or, bitsNat_and, hmask, bitsNat_field64_above (by decide),
    bitsNat_field64 (by decide) (by decide) (by omega), bitsNat_field64_below (by omega)]
  simp

end

theorem trapStatus_ppie (st : Word64) (m : Nat) : bitAt (trapStatus st m) 2 = bitAt st 3 := by
  have hmask : bitAt (~~~0xFC#64) 2 = false := by decide
  rw [trapStatus, bitAt_or, bitAt_or, bitAt_or, bitAt_and, hmask, bitAt_field64_above (by decide), bitAt_field64_above (by decide),
    bitAt_field64, Nat.sub_self, testBit_bitsNat_bit]
  simp

theorem trapStatus_pie (st : Word64) (m : Nat) : bitAt (trapStatus st m) 3 = false := by
  have hpie := bitsNat_lt st 3 3
  have hmask : bitAt (~~~0xFC#64) 3 = false := by decide
  rw [trapStatus, bitAt_or, bitAt_or, bitAt_or, bitAt_and, hmask, bitAt_field64_above (by decide), bitAt_field64_above (by decide),
    bitAt_field64_below (by omega)]
  simp

theorem trapStatus_wzero (st : Word64) (m : Nat) : bitAt (trapStatus st m) 1 = bitAt st 1 := by
  have hmask : bitAt (~~~0xFC#64) 1 = true := by decide
  rw [trapStatus, bitAt_or, bitAt_or, bitAt_or, bitAt_and, hmask, bitAt_field64_above (by decide), bitAt_field64_above (by decide),
    bitAt_field64_above (by decide)]
  simp

theorem Strand.mode_lt (t : Strand) : t.mode < 4 := bitsNat_lt ..

/-- The state without the requests that a trapping strand has in its quad's queues (R13, R168, R226). -/
def State.forgetUnit (s : State) (u : Nat) (t : Strand) : State :=
  let x := s.quad (quadOf t.core)
  if (x.queue.any fun r => r.uid == u) || x.mmaxBy = some u || x.drainBy = some u then s.putQuad (quadOf t.core) (x.forget u) else s

theorem State.forgetUnit_eq (s : State) (u : Nat) (t : Strand) :
    s.forgetUnit u t = { s with quads := (s.forgetUnit u t).quads } := by
  unfold State.forgetUnit
  extract_lets x
  split <;> rfl

/-- The strand that a trap leaves, but for its STATUS and its PC: TCAUSE, TPC and TVAL are set, and the resume point of its
instruction is put by (R36, R217). -/
def Strand.trapped (t : Strand) (cause : Nat) (tval : Word64) : Strand :=
  let point := if t.prog.at_ = t.pc then t.prog.block.map fun off => (t.pc, off) else none
  { t with run := .running, doom := none, answered := false, filled := none, refused := [], timeout := false, asked := [],
           delivery := none, points := point.toList ++ t.points, prog := { t.prog with block := none, image := none },
           sys := { t.sys with tcause := BitVec.ofNat 64 cause, tpc := BitVec.ofNat 64 t.pc, tval := tval } }

/-- The same where the trap is not delegated, so that STATUS changes (R217). -/
def Strand.trappedUp (t : Strand) (cause : Nat) (tval : Word64) : Strand :=
  let x := t.trapped cause tval
  { x with sys := { x.sys with status := trapStatus t.sys.status t.mode } }

/-- Whether a trap of a strand is delegated to user mode (R65, R217). -/
def State.delegates (s : State) (t : Strand) (cause : Nat) : Prop :=
  t.mode = 0 ∧ bitAt (s.part t.vf).deleg (delegBit cause) = true ∧ t.sys.utvec ≠ 0#64

theorem State.delegates_iff {s : State} {t : Strand} {cause : Nat} :
    (decide (t.mode = 0) && bitAt (s.part t.vf).deleg (delegBit cause) && decide (t.sys.utvec ≠ 0#64)) = true ↔ s.delegates t cause := by
  simp [State.delegates, and_assoc]

section
variable {s : State} {u : Nat} {t : Strand} {cause : Nat} {tval : Word64}

theorem State.takeTrap_delegated (h : s.delegates t cause) : s.takeTrap u t cause tval =
    (s.forgetUnit u t).putStrand u { t.trapped cause tval with pc := t.sys.utvec.toNat } := if_pos (State.delegates_iff.2 h)

variable (h : ¬s.delegates t cause)
include h

theorem State.takeTrap_vectored (hv : (s.part t.vf).tvec ≠ 0#64) : s.takeTrap u t cause tval =
    (s.forgetUnit u t).putStrand u { t.trappedUp cause tval with pc := (s.part t.vf).tvec.toNat } :=
  (if_neg (mt State.delegates_iff.1 h)).trans (if_neg hv)

theorem State.takeTrap_ends (hv : (s.part t.vf).tvec = 0#64) : s.takeTrap u t cause tval =
    ((s.forgetUnit u t).event (dieOf t.core) 0x01 cause t.birthJob t.vf t.unit [BitVec.ofNat 64 t.pc, tval]).putStrand u
      { t.trappedUp cause tval with doom := some (doomExit, 0#64) } :=
  (if_neg (mt State.delegates_iff.1 h)).trans (if_pos hv)

end

/-- An event is in the ring of a die that is not frozen, as its newest entry (R366). -/
theorem State.event_recorded {s : State} {die : Nat} (cls sub job vf unit_ : Nat) (args : List Word64)
    (h : (s.die die).frozen = false) :
    ∃ e, e ∈ ((s.event die cls sub job vf unit_ args).die die).ring ∧ e.cls = cls ∧ e.sub = sub ∧ e.args = args := by
  refine ⟨⟨s.cyc, cls, sub, job, vf, false, unit_, (s.die die).seq, args⟩, ?_, rfl, rfl, rfl⟩
  simp [State.event, h]

/-- A trap changes of the package the running strand, the quads' queues and the events alone (R217). -/
structure State.TrapFrame (s s' : State) (u : Nat) (t' : Strand) : Prop where
  strands : s'.strands = FMap.set s.strands u t'
  cur : s'.cur = s.cur
  mem : s'.mem = s.mem
  cores : s'.cores = s.cores
  parts : s'.parts = s.parts

theorem State.forgetUnit_frame (s : State) (u : Nat) (t t' : Strand) : s.TrapFrame ((s.forgetUnit u t).putStrand u t') u t' := by
  rw [State.forgetUnit_eq]
  exact ⟨rfl, rfl, rfl, rfl, rfl⟩

theorem State.forgetUnit_event_frame (s : State) (u : Nat) (t t' : Strand) (die cls sub job vf unit_ : Nat) (args : List Word64) :
    s.TrapFrame (((s.forgetUnit u t).event die cls sub job vf unit_ args).putStrand u t') u t' := by
  rw [State.event_eq, State.forgetUnit_eq]
  exact ⟨rfl, rfl, rfl, rfl, rfl⟩

theorem State.TrapFrame.strand {s s' : State} {u : Nat} {t' : Strand} (h : s.TrapFrame s' u t') (v : Nat) :
    s'.strand? v = if u = v then some t' else s.strand? v := by
  rw [State.strand?, h.strands, FMap.get?_set]
  rfl

theorem State.TrapFrame.me {s s' : State} {t' : Strand} (h : s.TrapFrame s' s.cur t') : s'.me = some t' := by
  rw [State.me, h.cur, h.strand, if_pos rfl]

theorem State.TrapFrame.others {s s' : State} {t' : Strand} (h : s.TrapFrame s' s.cur t') :
    (∀ u, u ≠ s.cur → s'.strand? u = s.strand? u) ∧ s'.mem = s.mem ∧ s'.cores = s.cores ∧ s'.parts = s.parts :=
  ⟨fun u hu => (h.strand u).trans (if_neg hu.symm), h.mem, h.cores, h.parts⟩

/-- A strand that is to end as by EXIT tries to end with its next word (R217). -/
theorem runWord_of_doomExit {s : State} {t : Strand} {u : Nat} {v : Word64} (h : s.me = some t) (hu : s.cur = u)
    (hd : t.doom = some (doomExit, v)) (g : Gate) (body : Strand → State → Res) : runWord g body s = .next (s.tryEnd u t) := by
  subst hu
  simp [runWord, h, State.issue, hd]

/-- The strand without what it keeps of the instruction at its PC, whose trap discards it (R36, R344). -/
def Strand.noResume (t : Strand) : Strand := { t with prog := t.prog.drop t.pc }.dropPoint t.pc

theorem State.trapMe_eq (s : State) (t : Strand) (cause : Nat) (tval : Word64) :
    s.trapMe t cause tval = s.takeTrap s.cur t.noResume cause tval := rfl

/-- Settles O40: the three ways of a trap, delegated, to TVEC, and with TVEC = 0 to the strand's end. -/
theorem trapEntry : Obligations.TrapEntry := by
  unfold Obligations.TrapEntry
  intro s t hr
  refine ⟨fun a hp => runWord_trap hr (.inr hp) (Nat.zero_le _) rfl, fun n hp => runWord_trap hr (.inr hp) (Nat.zero_le _) rfl,
    fun cause v => ?_⟩
  intro s' p st deleg
  have hdeleg : deleg = s.delegates t.noResume cause := rfl
  have hs' : s' = s.takeTrap s.cur t.noResume cause v := rfl
  clear_value deleg s'
  subst hdeleg hs'
  have hm := trapStatus_mode st t.mode_lt
  have hpm := trapStatus_pmode st t.mode_lt
  have hpp := trapStatus_ppie st t.mode
  have hpie := trapStatus_pie st t.mode
  have hwz := trapStatus_wzero st t.mode
  by_cases hd : s.delegates t.noResume cause
  · rw [State.takeTrap_delegated hd]
    have hf := s.forgetUnit_frame s.cur t.noResume { t.noResume.trapped cause v with pc := t.sys.utvec.toNat }
    exact ⟨_, hf.me, rfl, rfl, rfl, rfl, rfl, fun _ => ⟨rfl, rfl, rfl⟩, fun h => absurd hd h, hf.others⟩
  · by_cases hv : p.tvec = 0#64
    · rw [State.takeTrap_ends hd hv]
      have hf := s.forgetUnit_event_frame s.cur t.noResume { t.noResume.trappedUp cause v with doom := some (doomExit, 0#64) }
        (dieOf t.core) 0x01 cause t.birthJob t.vf t.unit [BitVec.ofNat 64 t.pc, v]
      refine ⟨_, hf.me, rfl, rfl, rfl, rfl, rfl, fun h => absurd h hd,
        fun _ => ⟨hm, hpm, hpp, hpie, hwz, fun h => absurd hv h, fun _ => ⟨fun g body => ?ends, fun hz => ?recorded⟩⟩, hf.others⟩
      case ends => exact runWord_of_doomExit hf.me hf.cur rfl g body
      case recorded =>
        refine State.event_recorded 0x01 cause t.birthJob t.vf t.unit [BitVec.ofNat 64 t.pc, v] ?_
        rw [State.forgetUnit_eq]
        exact hz
    · rw [State.takeTrap_vectored hd hv]
      have hf := s.forgetUnit_frame s.cur t.noResume { t.noResume.trappedUp cause v with pc := p.tvec.toNat }
      exact ⟨_, hf.me, rfl, rfl, rfl, rfl, rfl, fun h => absurd h hd,
        fun _ => ⟨hm, hpm, hpp, hpie, hwz, fun _ => ⟨rfl, rfl⟩, fun h => absurd h hv⟩, hf.others⟩

end Sys2Proof.Machine
end

section
/-!
SUPPORT. The return from a trap (R219): one equation for each way that ERET answers, and what STATUS then says (O41).
-/
namespace Sys2Proof.Machine

/-- STATUS of a return above user mode to mode m: MODE and PIE from PMODE and PPIE, which stay (R219). -/
def eretStatus (st : Word64) (m : Nat) : Word64 := (st &&& ~~~(0xC8#64)) ||| field64 m 6 ||| field64 (bitsNat st 2 2) 3

theorem eretStatus_mode (st : Word64) {m : Nat} (hm : m < 4) : bitsNat (eretStatus st m) 7 6 = m := by
  have hpie := bitsNat_lt st 2 2
  have hmask : bitsNat (~~~0xC8#64) 7 6 = 0 := by decide
  rw [eretStatus, bitsNat_or, bitsNat_or, bitsNat_and, hmask, bitsNat_field64 (by decide) (by decide) (by omega),
    bitsNat_field64_below (by omega)]
  simp

theorem eretStatus_pmode (st : Word64) (m : Nat) : bitsNat (eretStatus st m) 5 4 = bitsNat st 5 4 := by
  have hpie := bitsNat_lt st 2 2
  have hmask : bitsNat (~~~0xC8#64) 5 4 = 2 ^ 2 - 1 := by decide
  rw [eretStatus, bitsNat_or, bitsNat_or, bitsNat_and, hmask, bitsNat_field64_above (by decide), bitsNat_field64_below (by omega),
    Nat.and_two_pow_sub_one_of_lt_two_pow (bitsNat_lt ..)]
  simp

theorem eretStatus_pie (st : Word64) (m : Nat) : bitAt (eretStatus st m) 3 = bitAt st 2 := by
  have hmask : bitAt (~~~0xC8#64) 3 = false := by decide
  rw [eretStatus, bitAt_or, bitAt_or, bitAt_and, hmask, bitAt_field64_above (by decide), bitAt_field64, Nat.sub_self,
    testBit_bitsNat_bit]
  simp

theorem eretStatus_low (st : Word64) (m : Nat) {i : Nat} (hi : i < 3) : bitAt (eretStatus st m) i = bitAt st i := by
  have hmask : bitAt (~~~0xC8#64) i = true := by
    revert i
    decide
  rw [eretStatus, bitAt_or, bitAt_or, bitAt_and, hmask, bitAt_field64_above (by omega), bitAt_field64_above (by omega)]
  simp

theorem eret_inside {tgt : Int} (h0 : 0 ≤ tgt) (h1 : tgt ≤ 2 ^ 56 - 4) : ¬(decide (tgt < 0) || decide (tgt > 2 ^ 56 - 4)) = true := by
  simp only [Bool.or_eq_true, decide_eq_true_eq]
  omega

section
variable {disp : Word64} {t : Strand} {s : State} {tgt : Int} (ht : t.sys.tpc.toNat + disp.toInt = tgt)
include ht

theorem eretBody_outside (h : tgt < 0 ∨ 2 ^ 56 - 4 < tgt) : eretBody disp t s = .trap 0x05 (BitVec.ofNat 64 t.pc) := by
  subst ht
  exact if_pos (by simpa only [Bool.or_eq_true, decide_eq_true_eq] using h)

variable (h0 : 0 ≤ tgt) (h1 : tgt ≤ 2 ^ 56 - 4)
include h0 h1

theorem eretBody_misaligned (h : tgt % 4 ≠ 0) : eretBody disp t s = .trap 0x03 (BitVec.ofInt 64 tgt) := by
  subst ht
  exact (if_neg (eret_inside h0 h1)).trans (if_pos h)

variable (ha : tgt % 4 = 0)
include ha

theorem eretBody_user (hm : t.mode = 0) :
    eretBody disp t s = .jump (s.putMe { t.takePoint tgt.toNat with watch := min t.watch 4096 }) tgt := by
  subst ht
  exact (if_neg (eret_inside h0 h1)).trans ((if_neg (not_not.2 ha)).trans (if_pos hm))

variable (hm : t.mode ≠ 0)
include hm

theorem eretBody_pmode (hp : t.mode < bitsNat t.sys.status 5 4) : eretBody disp t s = .trap 0x02 (BitVec.ofNat 64 t.pc) := by
  subst ht
  exact (if_neg (eret_inside h0 h1)).trans ((if_neg (not_not.2 ha)).trans ((if_neg hm).trans (if_pos hp)))

theorem eretBody_returns (hp : bitsNat t.sys.status 5 4 ≤ t.mode) : eretBody disp t s =
    .jump (s.putMe { t.takePoint tgt.toNat with
      watch := min t.watch 4096, sys := { t.sys with status := eretStatus t.sys.status (bitsNat t.sys.status 5 4) } }) tgt := by
  subst ht
  exact (if_neg (eret_inside h0 h1)).trans ((if_neg (not_not.2 ha)).trans ((if_neg hm).trans (if_neg (Nat.not_lt.2 hp))))

end

/-- Settles O41: the checks of the target in their order, then the return in user mode and above it. -/
theorem trapReturn : Obligations.TrapReturn := by
  unfold Obligations.TrapReturn
  intro s t b hr hp tgt st pmode quiet
  have ht : t.sys.tpc.toNat + (t.g b).toInt = tgt := rfl
  refine ⟨fun h => runWord_trap hr (.inr hp) (Nat.zero_le _) (eretBody_outside ht h),
    fun h0 h1 h => runWord_trap hr (.inr hp) (Nat.zero_le _) (eretBody_misaligned ht h0 h1 h),
    fun h0 h1 ha => ⟨fun hm => runWord_jump hr (.inr hp) (Nat.zero_le _) (eretBody_user ht h0 h1 ha hm) h0 h1,
      fun hm h => runWord_trap hr (.inr hp) (Nat.zero_le _) (eretBody_pmode ht h0 h1 ha hm h), fun hm h => ?returns⟩⟩
  exact ⟨eretStatus st pmode, runWord_jump hr (.inr hp) (Nat.zero_le _) (eretBody_returns ht h0 h1 ha hm h) h0 h1,
    eretStatus_mode st (bitsNat_lt ..), eretStatus_pie st pmode, eretStatus_pmode st pmode, eretStatus_low st pmode (by decide),
    eretStatus_low st pmode (by decide)⟩

end Sys2Proof.Machine
end

section
/-!
SUPPORT. The copy instructions (R203, R206 to R215): what the queue keeps of its copies, the checks of an ID, then one equation for
each way that an instruction answers (O38).
-/
namespace Sys2Proof.Machine

/-! ### The copies that a quad keeps (R207, R211) -/

theorem Quad.addCopy_copies (x : Quad) (c : Copy) : (x.addCopy c).copies =
    (((x.copies ++ [c]).reverse.take 64) ++ ((x.copies ++ [c]).reverse.drop 64).filter Copy.live).reverse := rfl

/-- The new copy is one of the 64 issued last. -/
theorem Quad.mem_addCopy_new (x : Quad) (c : Copy) : c ∈ (x.addCopy c).copies := by
  simp [Quad.addCopy_copies]

/-- No unfinished copy is given up (R207). -/
theorem Quad.mem_addCopy_live {x : Quad} {c k : Copy} (hk : k ∈ x.copies) (hl : k.live = true) : k ∈ (x.addCopy c).copies := by
  have hmem : k ∈ (x.copies ++ [c]).reverse.take 64 ++ (x.copies ++ [c]).reverse.drop 64 := by
    rw [List.take_append_drop, List.mem_reverse]
    exact List.mem_append_left _ hk
  rw [Quad.addCopy_copies, List.mem_reverse, List.mem_append, List.mem_filter]
  exact (List.mem_append.1 hmem).imp_right fun h => ⟨h, hl⟩

theorem Quad.addCopy_room {x : Quad} (c : Copy) (h : x.copies.length < 64) : (x.addCopy c).copies = x.copies ++ [c] := by
  have hlen : (x.copies ++ [c]).reverse.length ≤ 64 := by simpa using h
  rw [Quad.addCopy_copies, List.take_of_length_le hlen, List.drop_of_length_le hlen]
  simp

/-! ### CPYSTART (R203, R206, R207) -/

/-- The record that CPYSTART reads from register a on. -/
def Strand.copyRecord (t : Strand) (a : BitVec 5) : List Word64 := (List.range 8).map fun k => t.gN (a.toNat + k)

/-- The copy that CPYSTART of a record queues. -/
def State.newCopy (s : State) (t : Strand) (ws : List Word64) : Copy :=
  ⟨(s.quad (quadOf t.core)).nextCopy, ws, s.promise t (layoutOf ws), t.birthJob, t.vf, t.mode, t.core, .queued, 0, 0, false, false,
    false, false, 0, [], 0, false, []⟩

/-- The strand's quad with that copy, counted in its group when GV = 1. -/
def State.quadWithCopy (s : State) (t : Strand) (ws : List Word64) : Quad :=
  let x := s.quad (quadOf t.core)
  let l := layoutOf ws
  { x.addCopy (s.newCopy t ws) with
    groups := if l.gv then FMap.set x.groups l.grp { x.group l.grp with pending := (x.group l.grp).pending + 1 } else x.groups,
    nextCopy := if x.nextCopy = 65535 then 1 else x.nextCopy + 1 }

/-- What CPYSTART makes of the state: the strands that wait on a copy which the quad no longer holds look again, and the promise and
the ID are written (R208, R211). -/
def State.startCopy (s : State) (t : Strand) (a d : BitVec 5) (ws : List Word64) : State :=
  let y := s.quadWithCopy t ws
  ((s.putQuad (quadOf t.core) y).wake fun _ t' w => quadOf t'.core == quadOf t.core && (match w with
    | .copy i => !y.held.any fun c => c.id == i
    | _ => false)).putMe
    ((t.setG d (BitVec.ofNat 64 (s.promise t (layoutOf ws)))).setGN (a.toNat + 7) (BitVec.ofNat 64 (s.quad (quadOf t.core)).nextCopy))

section
variable {s : State} {t : Strand} {a d : BitVec 5}

theorem cpystartBody_register (h : a = 0#5 ∨ 24 < a.toNat) : cpystartBody a d t s = .trap 0x01 s.wordTval :=
  if_pos (by simpa only [Bool.or_eq_true, decide_eq_true_eq] using h)

variable (h0 : a ≠ 0#5) (h24 : a.toNat ≤ 24)
include h0 h24

theorem cpystartBody_checks : cpystartBody a d t s = match s.copyChecks t (t.copyRecord a) with
    | some (c, v) => .trap c v
    | none => if 16 ≤ ((s.quad (quadOf t.core)).copies.filter Copy.live).length || !t.buf.isEmpty then .hold s
      else .done (s.startCopy t a d (t.copyRecord a)) := by
  have hreg : ¬(decide (a = 0#5) || decide (24 < a.toNat)) = true := by
    rw [Bool.or_eq_true, decide_eq_true_eq, decide_eq_true_eq]
    exact not_or.2 ⟨h0, Nat.not_lt.2 h24⟩
  exact (if_neg hreg).trans rfl

theorem cpystartBody_badRecord {e : Nat × Word64} (h : s.copyChecks t (t.copyRecord a) = some e) :
    cpystartBody a d t s = .trap e.1 e.2 := by
  rw [cpystartBody_checks h0 h24, h]

variable (h : s.copyChecks t (t.copyRecord a) = none)
include h

theorem cpystartBody_waits (hw : 16 ≤ ((s.quad (quadOf t.core)).copies.filter Copy.live).length ∨ t.buf ≠ []) :
    cpystartBody a d t s = .hold s := by
  rw [cpystartBody_checks h0 h24, h]
  exact if_pos (by simpa using hw)

theorem cpystartBody_starts (hroom : ((s.quad (quadOf t.core)).copies.filter Copy.live).length < 16) (hbuf : t.buf = []) :
    cpystartBody a d t s = .done (s.startCopy t a d (t.copyRecord a)) := by
  rw [cpystartBody_checks h0 h24, h]
  exact if_neg (by simp [hbuf, hroom])

end

/-! ### The ID of a copy (R211) -/

/-- The copy that a word names among those whose status the strand's quad holds. -/
def State.heldCopy (s : State) (t : Strand) (w : Word64) : Option Copy := (s.quad (quadOf t.core)).held.find? fun c => c.id == w.toNat

section
variable {s : State} {t : Strand} {w : Word64} {c : Copy}

theorem State.namedCopy_bad (h : bitsNat w 63 16 ≠ 0 ∨ w = 0#64) : s.namedCopy t w = .error (0x31, w) :=
  if_pos (by simpa using h)

variable (hw : ¬(bitsNat w 63 16 ≠ 0 ∨ w = 0#64))
include hw

theorem State.namedCopy_good : s.namedCopy t w = match s.heldCopy t w with
    | none => .ok none
    | some c => if c.job ≠ t.birthJob then .error (0x09, w) else .ok (some c) :=
  (if_neg (by simpa using hw)).trans rfl

theorem State.namedCopy_old (h : s.heldCopy t w = none) : s.namedCopy t w = .ok none := by
  rw [State.namedCopy_good hw, h]

theorem State.namedCopy_foreign (h : s.heldCopy t w = some c) (hj : c.job ≠ t.birthJob) : s.namedCopy t w = .error (0x09, w) := by
  rw [State.namedCopy_good hw, h]
  exact if_pos hj

theorem State.namedCopy_own (h : s.heldCopy t w = some c) (hj : c.job = t.birthJob) : s.namedCopy t w = .ok (some c) := by
  rw [State.namedCopy_good hw, h]
  exact if_neg (not_not.2 hj)

end

theorem Copy.live_of_state {c : Copy} (h : c.st = .completed ∨ c.st = .cancelled ∨ c.st = .failed) : c.live = false := by
  rcases h with h | h | h <;> simp [Copy.live, h]

theorem Copy.not_failed_of_live {c : Copy} (h : c.live = true) : c.st ≠ .failed := fun hf => by
  simp [Copy.live, hf] at h

/-! ### What the words that name a copy answer (R211 to R215) -/

section
variable {s : State} {t : Strand} {a d : BitVec 5} {c : Copy} {nl : Bool}

/-- The four bodies that name a copy by g[a]. -/
def copyBodies (a d : BitVec 5) : List (Strand → State → Res) :=
  [cpywaitBody false a d, cpywaitBody true a d, cpypollBody a d, cpycancelBody a]

theorem copyBodies_trap {k : Nat} {v : Word64} (h : s.namedCopy t (t.g a) = .error (k, v)) :
    ∀ body ∈ copyBodies a d, body t s = .trap k v := by
  simp [copyBodies, cpywaitBody, cpypollBody, cpycancelBody, h]

theorem cpycancelBody_old (h : s.namedCopy t (t.g a) = .ok none) : cpycancelBody a t s = .done s := by
  simp [cpycancelBody, h]

theorem copyBodies_old (h : s.namedCopy t (t.g a) = .ok none) :
    ∀ body ∈ [cpywaitBody false a d, cpywaitBody true a d, cpypollBody a d],
      body t s = .done ((s.oldCopy t (t.g a)).putMe (t.setG d copyOld)) := by
  simp [cpywaitBody, cpypollBody, h]

variable (h : s.namedCopy t (t.g a) = .ok (some c))
include h

theorem cpywaitBody_failed (hf : c.st = .failed) : cpywaitBody nl a d t s = .trap c.cause (BitVec.ofNat 64 c.failAddr) := by
  simp [cpywaitBody, h, hf]

theorem cpywaitBody_ended (he : c.st = .completed ∨ c.st = .cancelled) :
    cpywaitBody nl a d t s = .done ((s.copyAcquire t c.offDie).putMe (t.setG d (s.copyStatus c))) := by
  have hl : c.live = false := Copy.live_of_state (he.imp_right .inl)
  have hf : c.st ≠ .failed := by rcases he with e | e <;> simp [e]
  simp [cpywaitBody, h, hf, hl]

theorem cpywaitBody_parks (hl : c.live = true) (hp : nl = true ∨ s.cyc < c.promise ∨ c.lateReported = true) :
    cpywaitBody nl a d t s = .hold (s.parkMe t (.copy c.id)) := by
  have hlate : ¬((nl = false ∧ c.promise ≤ s.cyc) ∧ c.lateReported = false) := by
    rintro ⟨⟨hnl, hpr⟩, hr⟩
    rcases hp with e | e | e
    · simp [hnl] at e
    · omega
    · simp [hr] at e
  simp [cpywaitBody, h, Copy.not_failed_of_live hl, hl, hlate]

theorem cpywaitBody_late (hl : c.live = true) (hp : c.promise ≤ s.cyc) (hr : c.lateReported = false) : cpywaitBody false a d t s =
    .trapIn (s.putCopy (quadOf t.core) { c with lateReported := true, late := true }) 0x30 (BitVec.ofNat 64 c.id) := by
  simp [cpywaitBody, h, Copy.not_failed_of_live hl, hl, hp, hr]

theorem cpypollBody_answers : cpypollBody a d t s =
    .done ((if c.live = false ∧ c.offDie = true then s.acquire (quadOf t.core) else s).putMe (t.setG d (s.copyStatus c))) := by
  simp [cpypollBody, h, State.copyAcquire]

theorem cpycancelBody_queued (hq : c.st = .queued) : cpycancelBody a t s = .done (s.finishCopy (quadOf t.core) c .cancelled) := by
  simp [cpycancelBody, h, hq]

theorem cpycancelBody_running (hq : c.st = .running) : cpycancelBody a t s = .done (s.putCopy (quadOf t.core) { c with cancel := true }) := by
  simp [cpycancelBody, h, hq]

theorem cpycancelBody_ended (hl : c.live = false) : cpycancelBody a t s = .done s := by
  cases hs : c.st <;> simp_all [cpycancelBody, Copy.live]

end

/-! ### CPYGWAIT (R214) -/

section
variable {s : State} {t : Strand} {a d : BitVec 5}

theorem cpygwaitBody_bad (h : bitsNat (t.g a) 63 3 ≠ 0) : cpygwaitBody a d t s = .trap 0x31 (t.g a) := if_pos h

variable (h : bitsNat (t.g a) 63 3 = 0)
include h

theorem cpygwaitBody_parks (hp : ((s.quad (quadOf t.core)).group (bitsNat (t.g a) 2 0)).pending ≠ 0) :
    cpygwaitBody a d t s = .hold (s.parkMe t (.group (bitsNat (t.g a) 2 0))) := (if_neg (not_not.2 h)).trans (if_pos hp)

theorem cpygwaitBody_answers (hp : ((s.quad (quadOf t.core)).group (bitsNat (t.g a) 2 0)).pending = 0) :
    let n := bitsNat (t.g a) 2 0
    let x := s.quad (quadOf t.core)
    cpygwaitBody a d t s = .done (((s.putQuad (quadOf t.core)
      { x with groups := FMap.set x.groups n { x.group n with fail := false, canc := false } }).copyAcquire t (x.group n).off).putMe
        (t.setG d (field64 (if (x.group n).fail then 1 else 0) 0 ||| field64 (if (x.group n).canc then 1 else 0) 1))) :=
  (if_neg (not_not.2 h)).trans (if_neg (not_not.2 hp))

end

/-- Settles O38: the checks and the queueing of CPYSTART, then what each word that names a copy or a group answers. -/
theorem copyInstructionsComplete : Obligations.CopyInstructionsComplete := by
  unfold Obligations.CopyInstructionsComplete
  intro s t a d hr hp q x w ws l bad named old
  have traps {i : Instr} {body : Strand → State → Res} {c : Nat} {v : Word64} (hi : exec i s = runWord {} body s)
      (hb : body t s = .trap c v) : Traps i s t c v := hi.trans (runWord_trap hr (.inr hp) (Nat.zero_le _) hb)
  have holds {i : Instr} {body : Strand → State → Res} {s' : State} (hi : exec i s = runWord {} body s)
      (hb : body t s = .hold s') : Holds i s s' := hi.trans (runWord_hold hr (.inr hp) (Nat.zero_le _) hb)
  have completes {i : Instr} {body : Strand → State → Res} {s' : State} (hi : exec i s = runWord {} body s)
      (hb : body t s = .done s') : Completes i s t s' := hi.trans (runWord_done hr (.inr hp) (Nat.zero_le _) hb)
  refine ⟨fun h => traps rfl (cpystartBody_register h), fun h0 h24 => ⟨fun e h => traps rfl (cpystartBody_badRecord h0 h24 h),
    fun h hw => holds rfl (cpystartBody_waits h0 h24 h hw), fun h hroom hbuf => ?starts⟩, ?ids, fun hb hn => ?gone,
    fun hb c hc hj => ?named, fun h => traps rfl (cpygwaitBody_bad h), fun h => ⟨fun hg => holds rfl (cpygwaitBody_parks h hg),
      fun hg => completes rfl (cpygwaitBody_answers h hg)⟩⟩
  case starts =>
    exact ⟨completes rfl (cpystartBody_starts h0 h24 h hroom hbuf), fun hlen => Quad.addCopy_room _ hlen,
      fun k hk hl => Quad.mem_addCopy_live hk hl, Quad.mem_addCopy_new ..⟩
  case ids =>
    have all {c : Nat} {v : Word64} (h : s.namedCopy t w = .error (c, v)) :
        ∀ i ∈ [Instr.cpywait a d, .cpywaitNl a d, .cpypoll a d, .cpycancel a], Traps i s t c v := by
      have hb := copyBodies_trap (d := d) h
      simp only [copyBodies, List.forall_mem_cons, List.not_mem_nil, false_imp_iff, implies_true, and_true] at hb ⊢
      obtain ⟨hwait, hnl, hpoll, hcancel⟩ := hb
      exact ⟨traps rfl hwait, traps rfl hnl, traps rfl hpoll, traps rfl hcancel⟩
    exact fun i hi => ⟨fun hbad => all (State.namedCopy_bad hbad) i hi,
      fun hbad c hc hj => all (State.namedCopy_foreign hbad hc hj) i hi⟩
  case gone =>
    have hnone : s.namedCopy t w = .ok none := State.namedCopy_old hb hn
    have hbodies := copyBodies_old (d := d) hnone
    simp only [List.forall_mem_cons, List.not_mem_nil, false_imp_iff, implies_true, and_true] at hbodies ⊢
    obtain ⟨hwait, hnl, hpoll⟩ := hbodies
    exact ⟨completes rfl (cpycancelBody_old hnone), completes rfl hwait, completes rfl hnl, completes rfl hpoll⟩
  case named =>
    have hown : s.namedCopy t w = .ok (some c) := State.namedCopy_own hb hc hj
    refine ⟨fun p hmem => ?waits, completes rfl (cpypollBody_answers hown), fun h => completes rfl (cpycancelBody_queued hown h),
      fun h => completes rfl (cpycancelBody_running hown h), fun h => completes rfl (cpycancelBody_ended hown h)⟩
    have hi : exec p.1 s = runWord {} (cpywaitBody p.2 a d) s := by
      revert p
      simp only [List.forall_mem_cons, List.not_mem_nil, false_imp_iff, implies_true, and_true]
      exact ⟨rfl, rfl⟩
    refine ⟨fun h => traps hi (cpywaitBody_failed hown h), fun h => completes hi (cpywaitBody_ended hown h),
      fun hl h => holds hi (cpywaitBody_parks hown hl h), fun hl hnl h hrep => ?_⟩
    rw [hnl] at hi
    exact hi.trans (runWord_trapIn hr (.inr hp) (Nat.zero_le _) (cpywaitBody_late hown hl h hrep) hr.1)

end Sys2Proof.Machine
end

section
/-!
SUPPORT. The copy engine and the energy allowance (R207, R209, R211, R215, R295): what the end of a copy leaves of the quad and of the
strands, and when a refill serves the request held for energy (O39).
-/
namespace Sys2Proof.Machine

/-! ### The end of a copy (R209, R210, R214) -/

theorem Strand.wakeIf_keeps (t : Strand) (tick : Nat) (test : Wait → Bool) :
    (t.wakeIf tick test).regs = t.regs ∧ (t.wakeIf tick test).pc = t.pc := by
  unfold Strand.wakeIf
  split
  · split <;> exact ⟨rfl, rfl⟩
  · exact ⟨rfl, rfl⟩

theorem Strand.wakeIf_runs {t : Strand} {tick : Nat} {test : Wait → Bool} {w : Wait} (hw : t.run = .waiting w) (h : test w = true) :
    (t.wakeIf tick test).run = .running := by
  simp [Strand.wakeIf, hw, h]

@[simp] theorem State.quad_wake (s : State) (test : Nat → Strand → Wait → Bool) (q : Nat) : (s.wake test).quad q = s.quad q := rfl

theorem Quad.group_set (x : Quad) (n : Nat) (g : Group) : ({ x with groups := FMap.set x.groups n g } : Quad).group n = g := by
  simp [Quad.group, FMap.getD]

/-- A copy in its final state, as its end leaves it (R209). -/
def Copy.final (c : Copy) (cyc : Nat) (st : CopyState) : Copy :=
  { c with st := st, late := c.late || decide (c.promise ≤ cyc), saved := [] }

/-- The count and the sticky bits of a group once one of its copies has ended (R214). -/
def Group.afterEnd (g : Group) (c : Copy) (st : CopyState) : Group :=
  { g with pending := g.pending - 1, fail := g.fail || st = .failed, canc := g.canc || st = .cancelled, off := g.off || c.offDie }

/-- The quad once a copy is in its final state, and once its group has counted the end. -/
def Quad.endCopy (x : Quad) (c : Copy) (cyc : Nat) (st : CopyState) : Quad :=
  { x with copies := x.copies.map fun k => if k.id = c.id then c.final cyc st else k }
/-- The quad once the group of a copy has counted its end. -/
def Quad.countEnd (x : Quad) (c : Copy) (st : CopyState) : Quad :=
  let n := (layoutOf c.rec_).grp
  { x with groups := FMap.set x.groups n ((x.group n).afterEnd c st) }

/-- The end of a copy changes the copies and the groups of its quad, and wakes the strands that wait for the copy or the group. -/
theorem State.finishCopy_eq (s : State) (q : Nat) (c : Copy) (st : CopyState) : s.finishCopy q c st =
    (s.putQuad q (if (layoutOf c.rec_).gv = true then ((s.quad q).endCopy c s.cyc st).countEnd c st else (s.quad q).endCopy c s.cyc st)).wake
      fun _ t w => quadOf t.core == q && (w == .copy c.id || w == .group (layoutOf c.rec_).grp) := by
  have hput : s.putCopy q (c.final s.cyc st) = s.putQuad q ((s.quad q).endCopy c s.cyc st) := rfl
  unfold State.finishCopy
  extract_lets l s1 x g g1 s2
  have hs1 : s1 = s.putQuad q ((s.quad q).endCopy c s.cyc st) := hput
  have hs2 : s2 = if l.gv = true then s1.putQuad q ((s1.quad q).countEnd c st) else s1 := rfl
  rw [hs2, hs1, State.quad_putQuad, if_pos rfl, State.putQuad_putQuad, apply_ite (s.putQuad q)]

section
variable (s : State) (q : Nat) (c : Copy) (st : CopyState)

theorem State.finishCopy_copies : ((s.finishCopy q c st).quad q).copies =
    (s.quad q).copies.map fun k => if k.id = c.id then c.final s.cyc st else k := by
  rw [State.finishCopy_eq, State.quad_wake, State.quad_putQuad, if_pos rfl]
  split <;> rfl

theorem State.finishCopy_group (h : (layoutOf c.rec_).gv = true) : ((s.finishCopy q c st).quad q).group (layoutOf c.rec_).grp =
    ((s.quad q).group (layoutOf c.rec_).grp).afterEnd c st := by
  rw [State.finishCopy_eq, State.quad_wake, State.quad_putQuad, if_pos rfl, if_pos h]
  exact Quad.group_set ..

theorem State.finishCopy_groups (h : (layoutOf c.rec_).gv = false) : ((s.finishCopy q c st).quad q).groups = (s.quad q).groups := by
  rw [State.finishCopy_eq, State.quad_wake, State.quad_putQuad, if_pos rfl, if_neg (by simp [h])]
  rfl

theorem State.finishCopy_mem : (s.finishCopy q c st).mem = s.mem := by
  rw [State.finishCopy_eq]
  rfl

theorem State.strand?_finishCopy (u : Nat) : (s.finishCopy q c st).strand? u = (s.strand? u).map fun t =>
    t.wakeIf s.tick fun w => quadOf t.core == q && (w == .copy c.id || w == .group (layoutOf c.rec_).grp) := by
  rw [State.finishCopy_eq, State.strand?_wake]
  rfl

end

/-! ### The rows of the engine -/

section
variable {s : State} {q : Nat} {c : Copy}

theorem Copy.ending_iff (c : Copy) : c.ending = true ↔ c.st = .running ∧
    ((c.cancel = true ∧ c.between (layoutOf c.rec_) = true) ∨ c.cause ≠ 0 ∨ (layoutOf c.rec_).count ≤ c.next) := by
  simp [Copy.ending, or_assoc]

section
variable (hc : (s.quad q).headCopy = some c)
include hc

theorem execCopyRun_starts (hq : c.st = .queued) : execCopyRun q s = .next (s.putCopy q { c with st := .running }) := by
  simp [execCopyRun, hc, hq]

theorem execCopyRun_runs (hst : c.st = .running) (hw : c.waits = []) (he : c.ending = false) :
    execCopyRun q s = .next (s.copyChunk q c (layoutOf c.rec_) 64) := by
  simp [execCopyRun, hc, hst, hw, he]

theorem execCopyEnd_failed (he : c.ending = true) (hf : c.cause ≠ 0) : execCopyEnd q s = .next (s.finishCopy q c .failed) := by
  simp [execCopyEnd, hc, he, hf]

theorem execCopyEnd_ends (he : c.ending = true) (hf : c.cause = 0) :
    execCopyEnd q s = .next (s.finishCopy q c (if c.cancel then .cancelled else .completed)) := by
  simp [execCopyEnd, hc, he, hf]

end

/-- The late answer of an unfinished copy marks it, where it alone has its ID. -/
theorem execCopyLate_marks {x : Quad} (hx : s.quad q = x) (hc : c ∈ x.copies) (hl : c.live = true) (hp : c.promise ≤ s.cyc)
    (hu : ∀ y ∈ x.copies, y.id = c.id → y = c) : execCopyLate q c.id s =
    .next ((s.putCopy q { c with late := true }).wake fun _ t w => quadOf t.core == q && w == .copy c.id) := by
  subst hx
  have hfind : (s.quad q).copies.find? (fun y => y.id == c.id && y.live && decide (y.promise ≤ s.cyc)) = some c := by
    cases hf : (s.quad q).copies.find? (fun y => y.id == c.id && y.live && decide (y.promise ≤ s.cyc)) with
    | none => simpa [hl, hp] using List.find?_eq_none.1 hf c hc
    | some y =>
      have hy := List.find?_some hf
      simp only [Bool.and_eq_true, beq_iff_eq] at hy
      rw [hu y (List.mem_of_find?_eq_some hf) hy.1.1]
  simp only [execCopyLate, hfind]

end

theorem State.putCopy_mem_copies {s : State} {q : Nat} {c k : Copy} (hc : c ∈ (s.quad q).copies) (hk : k.id = c.id) :
    k ∈ ((s.putCopy q k).quad q).copies := by
  rw [State.putCopy, State.quad_putQuad, if_pos rfl]
  exact List.mem_map.2 ⟨c, hc, if_pos hk.symm⟩

/-! ### The refills of LEVEL (R295) -/

section
variable {x : Quad}

theorem Quad.refill_unowed {cyc : Nat} (hn : x.refilled < cyc / 256) (ho : ∀ o ∈ x.ops, o.owes = 0) :
    x.refill cyc = x.fillBy (cyc / 256 - x.refilled) := by
  have hfind : x.ops.find? (fun o => o.owes ≠ 0) = none := List.find?_eq_none.2 fun o h => by simp [ho o h]
  have hpos : cyc / 256 - x.refilled ≠ 0 := by omega
  simp only [Quad.refill, hpos, if_false, hfind]

theorem Quad.levelAfter_pos {n : Nat} (hn : n ≠ 0) : x.levelAfter n = min (x.level.toNat + n * x.rate.toNat) (x.rate.toNat * 2 ^ 15) :=
  if_neg hn

theorem Quad.levelAfter_one : x.levelAfter 1 = min (x.level.toNat + x.rate.toNat) (x.rate.toNat * 2 ^ 15) := by
  rw [Quad.levelAfter_pos (by decide), Nat.one_mul]

theorem Quad.fillBy_zero (x : Quad) : x.fillBy 0 = x := by
  simp [Quad.fillBy, Quad.levelAfter]

/-- A single refill serves a held request exactly where LEVEL covers the cost after it. -/
theorem Quad.servedAt_one (cost : Nat) : x.servedAt cost 1 = if cost ≤ x.levelAfter 1 then some 1 else none := by
  unfold Quad.servedAt
  extract_lets r k
  have hk : 1 ≤ k := by
    show 1 ≤ if r = 0 then 1 else max 1 (ceilDiv (cost - x.level.toNat) r)
    split <;> omega
  by_cases h : cost ≤ x.levelAfter 1
  · have hk1 : k = 1 := by
      show (if r = 0 then 1 else max 1 (ceilDiv (cost - x.level.toNat) r)) = 1
      split
      · rfl
      next hr =>
        have hcost : cost - x.level.toNat + r - 1 < 2 * r := by
          rw [Quad.levelAfter_one] at h
          omega
        have hdiv : ceilDiv (cost - x.level.toNat) r < 2 := (Nat.div_lt_iff_lt_mul (Nat.pos_of_ne_zero hr)).2 hcost
        omega
    simp [hk1, h]
  · have hno : ¬(k ≤ 1 ∧ cost ≤ x.levelAfter k) := fun ⟨h1, h2⟩ => h (Nat.le_antisymm h1 hk ▸ h2)
    simpa [h] using hno

section
variable {cyc : Nat} {o : MatOp} (ho : x.ops.find? (fun o => o.owes ≠ 0) = some o) (hn : cyc / 256 = x.refilled + 1)
include ho hn

theorem Quad.refill_short (h : x.levelAfter 1 < o.owes) : x.refill cyc = x.fillBy 1 := by
  have hone : cyc / 256 - x.refilled = 1 := by omega
  have hserved : x.servedAt o.owes 1 = none := (Quad.servedAt_one _).trans (if_neg (Nat.not_le.2 h))
  simp only [Quad.refill, hone, ho, hserved, Nat.one_ne_zero, if_false]

theorem Quad.refill_serves (h : o.owes ≤ x.levelAfter 1) : x.refill cyc =
    { x with level := BitVec.ofNat 32 (x.levelAfter 1) - BitVec.ofNat 32 o.owes, refilled := x.refilled + 1,
             busyUntil := 256 * (x.refilled + 1) + o.occ,
             ops := List.map (fun (p : MatOp) => if p.owes = 0 then p else { p with owes := 0 }) x.ops } := by
  have hone : cyc / 256 - x.refilled = 1 := by omega
  have hserved : x.servedAt o.owes 1 = some 1 := (Quad.servedAt_one _).trans (if_pos h)
  simp only [Quad.refill, hone, ho, hserved, Nat.one_ne_zero, if_false]
  exact Quad.fillBy_zero _

end

end

/-- Settles O39: each row of the engine is one equation; what the end of a copy leaves is said once for the three ways it can end. -/
theorem copyEngineSteps : Obligations.CopyEngineSteps := by
  unfold Obligations.CopyEngineSteps
  intro s q x
  refine ⟨fun c hc => ?engine, fun c hc hl hp hu => ?late, fun hn ho => ?refills, fun o ho hn => ?owed⟩
  case engine =>
    intro l ends
    have hends {st : CopyState} (he : exec (.copyEnd q) s = .next (s.finishCopy q c st)) : ends st := by
      refine ⟨_, he, s.finishCopy_copies q c st, fun hg => ?_, s.finishCopy_groups q c st, s.finishCopy_mem q c st, fun u t ht => ?_⟩
      · rw [s.finishCopy_group q c st hg]
        exact ⟨rfl, rfl, rfl⟩
      · rw [s.strand?_finishCopy, ht]
        obtain ⟨hregs, hpc⟩ := t.wakeIf_keeps s.tick fun w => quadOf t.core == q && (w == .copy c.id || w == .group l.grp)
        exact ⟨_, rfl, hregs, hpc, fun hq hw => Strand.wakeIf_runs hw (by simp [hq])⟩
    refine ⟨fun hq => execCopyRun_starts hc hq, fun hst hw hf hn hb => execCopyRun_runs hc hst hw ?_,
      fun hst hf => hends (execCopyEnd_failed hc (c.ending_iff.2 ⟨hst, .inr (.inl hf)⟩) hf), fun hst hf hn hca => hends ?_,
      fun hst hf hca hb => hends ?_⟩
    · rw [Bool.eq_false_iff, ne_eq, c.ending_iff]
      rintro ⟨-, ⟨hca, hbt⟩ | h | h⟩
      · rcases hb with e | e
        · simp [hca] at e
        · exact absurd (hbt.symm.trans e) (by decide)
      · exact h hf
      · exact absurd hn (Nat.not_lt.2 h)
    · have := execCopyEnd_ends hc (c.ending_iff.2 ⟨hst, .inr (.inr hn)⟩) hf
      rwa [hca] at this
    · have := execCopyEnd_ends hc (c.ending_iff.2 ⟨hst, hb.elim (fun h => .inr (.inr h)) fun h => .inl ⟨hca, h⟩⟩) hf
      rwa [hca] at this
  case late =>
    refine ⟨_, execCopyLate_marks rfl hc hl hp hu, State.putCopy_mem_copies hc rfl, rfl, fun u t ht => ?_⟩
    rw [State.strand?_wake]
    have hu' : (s.putCopy q { c with late := true }).strand? u = some t := ht
    rw [hu']
    exact ⟨_, rfl, Strand.wakeIf_keeps ..⟩
  case refills =>
    have hpos : s.cyc / 256 - x.refilled ≠ 0 := by omega
    have he : exec (.energyRefill q) s = .next (s.putQuad q (x.refill s.cyc)) := rfl
    rw [he, Quad.refill_unowed hn ho]
    exact ⟨_, rfl, Nat.add_sub_cancel' hn.le, rfl, congrArg (BitVec.ofNat 32) (Quad.levelAfter_pos hpos), rfl, rfl⟩
  case owed =>
    intro level
    have he : exec (.energyRefill q) s = .next (s.putQuad q (x.refill s.cyc)) := rfl
    have hlevel : x.levelAfter 1 = level := Quad.levelAfter_one
    rw [he, ← hlevel]
    refine ⟨fun h => ?_, fun h => ?_⟩
    · rw [Quad.refill_short ho hn h]
      rfl
    · rw [Quad.refill_serves ho hn h]

end Sys2Proof.Machine
end

section
/-!
SUPPORT. The translation instructions (R220, R221): the table that a word names, then one equation for each way that an instruction
answers (O43).
-/
namespace Sys2Proof.Machine

/-! ### The table that g[a] names (R220) -/

section
variable {w : Word64} {t : Strand} {s : State}

theorem tableName_shape (h : ¬(bitsNat w 63 9 = 0 ∧ bitsNat w 7 6 = 0)) : tableName w t s = .error (0x09, w) :=
  if_pos (by simpa using not_and_or.1 h)

variable (h : bitsNat w 63 9 = 0 ∧ bitsNat w 7 6 = 0)
include h

theorem tableName_formed : tableName w t s =
    if t.mode < 2 && (bitAt w 8 || bitsNat w 5 0 ≠ bitsNat (s.part t.vf).part 63 58) then .error (0x02, s.wordTval)
    else .ok (bitsNat w 5 0, bitAt w 8) := if_neg (by simp [h])

theorem tableName_foreign (hm : ¬(t.mode ≥ 2 ∨ (bitAt w 8 = false ∧ bitsNat w 5 0 = bitsNat (s.part t.vf).part 63 58))) :
    tableName w t s = .error (0x02, s.wordTval) := by
  obtain ⟨hlow, hother⟩ := not_or.1 hm
  refine (tableName_formed h).trans (if_pos ?_)
  simpa [Nat.not_le.1 hlow, or_iff_not_imp_left] using hother

theorem tableName_ok (hm : t.mode ≥ 2 ∨ (bitAt w 8 = false ∧ bitsNat w 5 0 = bitsNat (s.part t.vf).part 63 58)) :
    tableName w t s = .ok (bitsNat w 5 0, bitAt w 8) := by
  refine (tableName_formed h).trans (if_neg ?_)
  rcases hm with hm | ⟨h8, hvf⟩
  · simp [Nat.not_lt.2 hm]
  · simp [h8, hvf]

end

/-! ### What XINV drops and what XPROBE walks (R220, R221) -/

/-- The cached translations that XINV of a block drops (R220, R332). -/
def State.invTest (s : State) (vf : Nat) (two : Bool) (y : Word64) (x : Xlat) : Bool :=
  let hit (pg : Nat) : Bool := pg < refAddr y + blockBytes y && refAddr y < pg + 65536
  x.vf == vf && (hit (if two then x.ipage else x.page) || (two && x.s1 && s.outdated x))

theorem State.invTest_eq (s : State) (vf : Nat) (two : Bool) (y : Word64) (x : Xlat) : s.invTest vf two y x =
    (x.vf == vf && ((if two then decide (x.ipage < refAddr y + blockBytes y) && decide (refAddr y < x.ipage + 65536)
      else decide (x.page < refAddr y + blockBytes y) && decide (refAddr y < x.page + 65536)) || (two && x.s1 && s.outdated x))) := by
  cases two <;> rfl

/-- The walk that XPROBE makes (R221). -/
def State.probeWalk (s : State) (vf : Nat) (two : Bool) (va : Nat) : Walk :=
  if two then stage2 s vf va else if (s.part vf).root1 = 0#64 then .ok (.loc va) va true true true true
  else probe1 s vf (s.part vf).root1.toNat va 0 walkLevels

theorem State.probeWalk_eq (s : State) (vf : Nat) (two : Bool) (va : Nat) : s.probeWalk vf two va =
    if two then stage2 s vf va else if (s.part vf).root1.toNat = 0 then .ok (.loc va) va true true true true
    else probe1 s vf (s.part vf).root1.toNat va 0 walkLevels := by
  have hroot : (s.part vf).root1.toNat = 0 ↔ (s.part vf).root1 = 0#64 := BitVec.toNat_inj (y := 0#64)
  simp only [State.probeWalk, hroot]

/-! ### What each word answers -/

section
variable {s : State} {t : Strand} {a b d : BitVec 5}

theorem tableBodies_trap {c : Nat} {v : Word64} (h : tableName (t.g a) t s = .error (c, v)) :
    xrootBody a b t s = .trap c v ∧ xinvBody a b t s = .trap c v ∧ xprobeBody a b d t s = .trap c v := by
  simp [xrootBody, xinvBody, xprobeBody, h]

theorem bitsNat_low (y : Word64) : (field64 (bitsNat y 55 0) 0).toNat = bitsNat y 55 0 := by
  have := bitsNat_lt y 55 0
  rw [field64_zero, BitVec.toNat_ofNat]
  omega

variable {vf : Nat} {two : Bool} (h : tableName (t.g a) t s = .ok (vf, two))
include h

theorem xrootBody_named : xrootBody a b t s =
    if bitsNat (t.g b) 55 0 % 2048 ≠ 0 then .trap 0x03 (t.g b)
    else if s.storesPending vf then .hold s
    else .done ((s.putPart vf (if two then { s.part vf with root2 := some (field64 (bitsNat (t.g b) 55 0) 0) }
      else { s.part vf with root1 := field64 (bitsNat (t.g b) 55 0) 0 })).dropXlat fun x => x.vf == vf) := by
  simp only [xrootBody, h, bitsNat_low]

theorem xinvBody_bad {e : Nat × Word64} (he : refCheck (t.g b) = some e) : xinvBody a b t s = .trap e.1 e.2 := by
  simp only [xinvBody, h, he]

theorem xinvBody_good (he : refCheck (t.g b) = none) : xinvBody a b t s =
    if s.storesPending vf then .hold s else .done (s.dropXlat (s.invTest vf two (t.g b))) := by
  simp only [xinvBody, h, he]
  rfl

theorem xprobeBody_answers {v : Word64} (hv : probeWord (s.probeWalk vf two (bitsNat (t.g b) 55 0)) = .inl v) :
    xprobeBody a b d t s = .done (s.putMe (t.setG d v)) := by
  rw [State.probeWalk_eq] at hv
  simp only [xprobeBody, h, hv]

theorem xprobeBody_waits {w : Wait} (hw : probeWord (s.probeWalk vf two (bitsNat (t.g b) 55 0)) = .inr w) :
    xprobeBody a b d t s = .hold ((s.askHost w false).parkMe t w) := by
  rw [State.probeWalk_eq] at hw
  simp only [xprobeBody, h, hw]

end

/-- With stage 1 off an address stands for itself (R221, R328). -/
theorem probeWord_identity {s : State} {vf : Nat} (y : Word64) (h : (s.part vf).root1 = 0#64) :
    probeWord (s.probeWalk vf false (bitsNat y 55 0)) = .inl (field64 1 63 ||| field64 (bitsNat y 55 16) 16) := by
  have hframe : bitsNat (BitVec.ofNat 64 (bitsNat y 55 0)) 55 16 = bitsNat y 55 16 := by
    have := bitsNat_lt y 55 0
    rw [bitsNat_eq, bitsNat_eq, bitsNat_eq, BitVec.toNat_ofNat]
    omega
  simp only [State.probeWalk, h, Bool.false_eq_true, if_false, if_true]
  show Sum.inl (field64 1 63 ||| field64 (bitsNat (BitVec.ofNat 64 (bitsNat y 55 0)) 55 16) 16) = _
  rw [hframe]

/-- Without a second stage no address is mapped (R221, R328). -/
theorem probeWord_unrooted {s : State} {vf va : Nat} (h : (s.part vf).root2 = none) :
    probeWord (s.probeWalk vf true va) = .inl 0x09#64 := by
  simp [State.probeWalk, stage2, h, probeWord]

/-- XBACK's answer (R221). -/
theorem xbackBody_writes (s : State) (t : Strand) (a d : BitVec 5) (e : Word64)
    (he : e = if frameOk (bitsNat (t.g a) 55 0) then Memory.dword s.mem (backKey (bitsNat (t.g a) 55 0)) else 0#64) :
    xbackBody a d t s = .done (s.putMe (t.setG d (if bitAt e 63 then e &&& ~~~(field64 1 63) else BitVec.allOnes 64))) := by
  rw [he]
  rfl

/-- Settles O43: the mode and the table's name first, then what each word does with the table. -/
theorem translationInstructionsComplete : Obligations.TranslationInstructionsComplete := by
  unfold Obligations.TranslationInstructionsComplete
  intro s t a b d hr hp w y vf two shape may p named
  have below {i : Instr} {g : Gate} {body : Strand → State → Res} (hi : exec i s = runWord g body s) (hm : t.mode < g.mode) :
      Traps i s t 0x02 s.wordTval := hi.trans (runWord_mode hr (.inr hp) hm)
  refine ⟨fun hm => ?user, fun hm => below rfl hm, fun hm => ?supervisor, fun hm => ?xback⟩
  case user =>
    simp only [named, List.forall_mem_cons, List.not_mem_nil, false_imp_iff, implies_true, and_true]
    have h1 : t.mode < 1 := by omega
    exact ⟨below rfl h1, below rfl h1, below rfl h1⟩
  case xback =>
    intro e
    have hb := xbackBody_writes s t a d e rfl
    refine ⟨fun h => ?_, fun h => ?_⟩
    · rw [h] at hb
      exact runWord_done hr (.inr hp) hm hb
    · rw [h] at hb
      exact runWord_done hr (.inr hp) hm hb
  case supervisor =>
    have traps {i : Instr} {body : Strand → State → Res} {c : Nat} {v : Word64} (hi : exec i s = runWord { mode := 1 } body s)
        (hb : body t s = .trap c v) : Traps i s t c v := hi.trans (runWord_trap hr (.inr hp) hm hb)
    have holds {i : Instr} {body : Strand → State → Res} {s' : State} (hi : exec i s = runWord { mode := 1 } body s)
        (hb : body t s = .hold s') : Holds i s s' := hi.trans (runWord_hold hr (.inr hp) hm hb)
    have completes {i : Instr} {body : Strand → State → Res} {s' : State} (hi : exec i s = runWord { mode := 1 } body s)
        (hb : body t s = .done s') : Completes i s t s' := hi.trans (runWord_done hr (.inr hp) hm hb)
    have all {c : Nat} {v : Word64} (h : tableName w t s = .error (c, v)) : ∀ i ∈ named, Traps i s t c v := by
      obtain ⟨hroot, hinv, hprobe⟩ := tableBodies_trap (b := b) (d := d) h
      simp only [named, List.forall_mem_cons, List.not_mem_nil, false_imp_iff, implies_true, and_true]
      exact ⟨traps rfl hroot, traps rfl hinv, traps rfl hprobe⟩
    refine ⟨fun hs => all (tableName_shape hs), fun hs hmay => all (tableName_foreign hs hmay), fun hs hmay => ?_⟩
    have hn : tableName w t s = .ok (vf, two) := tableName_ok hs hmay
    have hroot := xrootBody_named (b := b) hn
    refine ⟨fun ha => traps rfl (hroot.trans (if_pos ha)),
      fun ha hst => holds rfl (hroot.trans ((if_neg (not_not.2 ha)).trans (if_pos hst))), fun ha hst => ?root,
      fun e he => traps rfl (xinvBody_bad hn he), fun he hst => holds rfl ((xinvBody_good hn he).trans (if_pos hst)),
      fun he hst => ?inv, ?probe⟩
    case root =>
      have hdone := hroot.trans ((if_neg (not_not.2 ha)).trans (if_neg (by simp [hst])))
      refine ⟨fun h2 => completes rfl ?_, fun h2 => completes rfl ?_⟩
      · exact hdone.trans (by rw [if_pos h2])
      · exact hdone.trans (by rw [if_neg (by simp [h2])])
    case inv =>
      intro lo hi
      exact completes rfl (((xinvBody_good hn he).trans (if_neg (by simp [hst]))).trans
        (congrArg (fun test => Res.done (s.dropXlat test)) (funext (s.invTest_eq vf two y))))
    case probe =>
      intro va z
      exact ⟨fun v hv => completes rfl (xprobeBody_answers hn hv), fun h hh => holds rfl (xprobeBody_waits hn hh),
        fun h2 h1 => completes rfl (xprobeBody_answers hn (h2 ▸ probeWord_identity y h1)),
        fun h2 h1 => completes rfl (xprobeBody_answers hn (h2 ▸ probeWord_unrooted h1))⟩

end Sys2Proof.Machine
end

section
/-!
SUPPORT. The events of partitions and of pre-emption (R222, R323, R324, R334, R347 to R354, R378): what a resize leaves of the package,
and one equation for each way that a row ends (O49).
-/
namespace Sys2Proof.Machine

/-! ### What a resize leaves (R222, R323, R324) -/

/-- The strands, the pending changes, the skip bits and the partitions are as they were. -/
structure State.SameExtent (s s' : State) : Prop where
  strands : s'.strands = s.strands
  resizes : s'.resizes = s.resizes
  skip : s'.skip = s.skip
  parts : s'.parts = s.parts

theorem State.SameExtent.rfl' (s : State) : s.SameExtent s := ⟨rfl, rfl, rfl, rfl⟩

theorem State.SameExtent.trans {s s' s'' : State} (h : s.SameExtent s') (h' : s'.SameExtent s'') : s.SameExtent s'' :=
  ⟨h'.strands.trans h.strands, h'.resizes.trans h.resizes, h'.skip.trans h.skip, h'.parts.trans h.parts⟩

theorem State.SameExtent.part {s s' : State} (h : s.SameExtent s') (vf : Nat) : s'.part vf = s.part vf := by
  rw [State.part, h.parts]
  rfl

theorem State.SameExtent.foldl {α : Type} {f : State → α → State} (hf : ∀ (s : State) (a : α), s.SameExtent (f s a)) (l : List α) (s : State) :
    s.SameExtent (l.foldl f s) := by
  induction l generalizing s with
  | nil => exact .rfl' s
  | cons a l ih => exact (hf s a).trans (ih _)

theorem State.purgeBed_sameExtent (s : State) (q : Nat) (test : BedLine → Bool) : s.SameExtent (s.purgeBed q test) := by
  obtain ⟨m, p, o, qs, e⟩ := s.purgeBed_eq q test
  rw [e]
  exact ⟨rfl, rfl, rfl, rfl⟩

theorem State.zeroKeys_sameExtent (s : State) (lo n : Nat) : s.SameExtent (s.zeroKeys lo n) := ⟨rfl, rfl, rfl, rfl⟩

theorem State.putCore_sameExtent (s : State) (c : Nat) (x : Core) : s.SameExtent (s.putCore c x) := ⟨rfl, rfl, rfl, rfl⟩

theorem State.putQuad_sameExtent (s : State) (q : Nat) (x : Quad) : s.SameExtent (s.putQuad q x) := ⟨rfl, rfl, rfl, rfl⟩

theorem State.clearQuad_sameExtent (s : State) (vf q : Nat) : s.SameExtent (s.clearQuad vf q) := by
  unfold State.clearQuad
  extract_lets s1 s2 s3
  have h1 : s.SameExtent s1 := s.purgeBed_sameExtent q _
  have h2 : s1.SameExtent s2 := (s1.zeroKeys_sameExtent _ _).trans (State.zeroKeys_sameExtent _ _ _)
  have h3 : s2.SameExtent s3 := .foldl (fun s i => s.putCore_sameExtent _ _) _ s2
  exact h1.trans (h2.trans (h3.trans (s3.putQuad_sameExtent q _)))

theorem State.count_sameExtent (s : State) (c job ds dc : Nat) : s.SameExtent (s.count c job ds dc) := ⟨rfl, rfl, rfl, rfl⟩

theorem State.sent_sameExtent (s : State) (c job : Nat) : s.SameExtent (s.sent c job) := by
  unfold State.sent State.startSeries
  extract_lets j
  split <;> exact ⟨rfl, rfl, rfl, rfl⟩

theorem State.sent_outbox (s : State) (c job : Nat) : (s.sent c job).outbox = s.outbox := by
  unfold State.sent State.startSeries
  extract_lets j
  split <;> rfl

theorem State.relocate_sameExtent (s : State) (vf : Nat) : s.SameExtent (s.relocate vf) := by
  unfold State.relocate
  extract_lets away moved to_ s'
  have h : s.SameExtent s' := .foldl (fun s p => (s.count_sameExtent ..).trans (State.count_sameExtent ..)) _ s
  exact h.trans ⟨rfl, rfl, rfl, rfl⟩

/-- A change of skip bits keeps the strands, the pending changes and the partitions (R222). -/
theorem State.setSkip_frame (s : State) (h : Nat) (on : Bool) :
    (s.setSkip h on).strands = s.strands ∧ (s.setSkip h on).resizes = s.resizes ∧ (s.setSkip h on).parts = s.parts := by
  unfold State.setSkip
  split
  · exact ⟨rfl, rfl, rfl⟩
  · extract_lets s1 q
    split <;> exact ⟨rfl, rfl, rfl⟩

/-- RSZEVT of the event that follows one (R324). -/
def Part.nextRszevt (p : Part) : Word64 := field64 ((bitsNat p.rszevt 63 48 + 1) % 65536) 48 ||| field64 p.len 14 ||| field64 p.base 0

/-- The resize event writes RSZEVT, raises vector 2 of the function, and may send the handler's message (R324). -/
theorem State.resizeEvent_spec (s : State) (vf : Nat) : (s.resizeEvent vf).strands = s.strands ∧ (s.resizeEvent vf).resizes = s.resizes ∧
    (s.resizeEvent vf).skip = s.skip ∧ (s.resizeEvent vf).part vf = { s.part vf with rszevt := (s.part vf).nextRszevt } ∧
    Out.irq (some vf) 2 ∈ (s.resizeEvent vf).outbox := by
  unfold State.resizeEvent
  extract_lets p old new s1
  have hpart : s1.part vf = { s.part vf with rszevt := (s.part vf).nextRszevt } := by
    show (s.putPart vf { s.part vf with rszevt := (s.part vf).nextRszevt }).part vf = _
    rw [State.part_putPart, if_pos rfl]
  have hout : Out.irq (some vf) 2 ∈ s1.outbox := List.mem_append_right _ (List.mem_singleton_self _)
  split
  · have h := s1.sent_sameExtent
    exact ⟨(h _ _).strands, (h _ _).resizes, (h _ _).skip, ((h _ _).part vf).trans hpart, (s1.sent_outbox _ _).symm ▸ hout⟩
  · exact ⟨rfl, rfl, rfl, hpart, hout⟩

/-- What a change that takes effect does to the partition or to a skip bit (R222, R323, R339). -/
def State.takeResize (s : State) (vf : Nat) (r : Resize) : State :=
  match r.skip with
  | some (h, on) => s.setSkip h on
  | none =>
    let p := s.part vf
    s.putPart vf { p with part := field64 (bitsNat p.part 63 55) 55 ||| field64 r.len 14 ||| field64 r.base 0, present := true,
                          slots := if p.base = r.base && p.len = r.len then p.slots else [] }

/-- RESIZE is the change itself, between what leaving quads give up and the resize event (R222, R323, R324). -/
theorem execResize_takes {s : State} {vf : Nat} {r : Resize} (h : s.resizeReady vf = some r) : ∃ s1 s2 : State, s.SameExtent s1 ∧
    (({ s1 with resizes := s.resizes.erase r } : State).takeResize vf r).SameExtent s2 ∧
    execResize vf s = .next (s2.resizeEvent vf) := by
  have h1 : s.SameExtent ((s.leavingQuads r).foldl (fun s q => s.clearQuad vf q) s) := .foldl (fun s q => s.clearQuad_sameExtent vf q) _ s
  simp only [execResize, h]
  rw [← h1.resizes]
  refine ⟨_, _, h1, ?_, rfl⟩
  have hcores : ∀ (s : State) (c : Nat), s.SameExtent (if (s.core c).imaged then s.putCore c { s.core c with imaged := false } else s) :=
    fun s c => by
      split
      · exact s.putCore_sameExtent c _
      · exact .rfl' s
  exact (State.SameExtent.foldl hcores _ _).trans (State.relocate_sameExtent _ vf)

section
variable {s : State} {vf : Nat} {r : Resize}

theorem State.takeResize_extent (h : r.skip = none) : s.takeResize vf r = s.putPart vf { s.part vf with
    part := field64 (bitsNat (s.part vf).part 63 55) 55 ||| field64 r.len 14 ||| field64 r.base 0, present := true,
    slots := if (s.part vf).base = r.base && (s.part vf).len = r.len then (s.part vf).slots else [] } := by
  simp only [State.takeResize, h]

theorem State.takeResize_skip {k : Nat} {on : Bool} (h : r.skip = some (k, on)) : s.takeResize vf r = s.setSkip k on := by
  simp only [State.takeResize, h]

/-- A change keeps the strands, the pending changes and the RSZEVT of the partition. -/
theorem State.takeResize_frame (s : State) (vf : Nat) (r : Resize) : (s.takeResize vf r).strands = s.strands ∧
    (s.takeResize vf r).resizes = s.resizes ∧ ((s.takeResize vf r).part vf).rszevt = (s.part vf).rszevt := by
  cases h : r.skip with
  | none =>
    rw [State.takeResize_extent h]
    exact ⟨rfl, rfl, by rw [State.part_putPart, if_pos rfl]⟩
  | some k =>
    obtain ⟨k, on⟩ := k
    rw [State.takeResize_skip h]
    obtain ⟨hs, hr, hp⟩ := s.setSkip_frame k on
    exact ⟨hs, hr, by rw [State.part, hp]; rfl⟩

end

/-! ### Pre-emption (R347 to R351, R354) -/

/-- The command that the arguments of PRE_EMPT name (R348). -/
def State.preemptArg (s : State) : Preempt :=
  ⟨bitsNat (s.arg 0) 5 0, bitsNat (s.arg 0) 28 16, bitsNat (s.arg 0) 44 32, (s.arg 1).toNat, (s.arg 2).toNat⟩

/-- Whether PRE_EMPT refuses its arguments. -/
def State.preemptBad (s : State) (x : Preempt) : Prop :=
  (s.part x.vf).present = false ∨ x.last < x.first ∨ (s.part x.vf).len < x.last ∨ x.a % 65536 ≠ 0 ∨ x.q % 65536 ≠ 0

/-- A core that a pre-empt command stops: a task that waits for its footprint is back in its deque. -/
def Core.stop (k : Core) : Core := { k with stopped := true, imaged := false, deque := k.foot.map (fun f => f.2.1) ++ k.deque, foot := [] }

/-- A core that goes on after a pre-empt command. -/
def Core.goOn (k : Core) : Core := { k with stopped := false }

/-- A change of some cores, each listed any number of times, sets in each of them what it sets. -/
theorem State.core_foldl_putCore {f : Core → Core} {P : Core → Prop} (hf : ∀ k, P (f k)) {c : Nat} :
    ∀ (cs : List Nat) (s : State), c ∈ cs ∨ P (s.core c) → P ((cs.foldl (fun s c => s.putCore c (f (s.core c))) s).core c)
  | [], _, h => h.resolve_left (by simp)
  | d :: cs, s, h => by
    refine State.core_foldl_putCore hf cs _ ?_
    rw [State.core_putCore]
    by_cases hd : d = c
    · rw [if_pos hd]
      exact .inr (hf _)
    · rw [if_neg hd]
      exact h.imp_left fun h => (List.mem_cons.1 h).resolve_left fun e => hd e.symm

/-- A change of cores changes the cores alone. -/
theorem State.foldl_putCore_eq {f : Core → Core} (cs : List Nat) (s : State) : cs.foldl (fun s c => s.putCore c (f (s.core c))) s =
    { s with cores := (cs.foldl (fun s c => s.putCore c (f (s.core c))) s).cores } := by
  induction cs generalizing s with
  | nil => rfl
  | cons c cs ih =>
    rw [List.foldl_cons, ih]
    rfl

theorem State.foldl_putCore_frame (f : Core → Core) (cs : List Nat) (s : State) :
    (cs.foldl (fun s c => s.putCore c (f (s.core c))) s).strands = s.strands ∧
      (cs.foldl (fun s c => s.putCore c (f (s.core c))) s).box = s.box := by
  rw [State.foldl_putCore_eq]
  exact ⟨rfl, rfl⟩

section
variable {s : State}

theorem execPreEmpt_begins (hr : s.boxRuns 1 = true) (hp : s.box.preempt = none) : execPreEmpt s = .next (
    if !(s.part s.preemptArg.vf).present || s.preemptArg.last < s.preemptArg.first || (s.part s.preemptArg.vf).len < s.preemptArg.last ||
      s.preemptArg.a % 65536 ≠ 0 || s.preemptArg.q % 65536 ≠ 0 then s.boxDone 2
    else (s.preemptCores s.preemptArg).foldl (fun s c => s.putCore c (s.core c).stop)
      { s with box := { s.box with preempt := some s.preemptArg } }) := by
  refine congrArg Host.Outcome.next ((if_pos hr).trans ((if_neg ?_).trans rfl))
  simp [hp]

theorem execPreEmpt_bad (hr : s.boxRuns 1 = true) (hp : s.box.preempt = none) (hb : s.preemptBad s.preemptArg) :
    execPreEmpt s = .next (s.boxDone 2) := by
  rw [execPreEmpt_begins hr hp, if_pos]
  simpa [State.preemptBad, or_assoc] using hb

theorem execPreEmpt_stops (hr : s.boxRuns 1 = true) (hp : s.box.preempt = none) (hb : ¬s.preemptBad s.preemptArg) :
    execPreEmpt s = .next ((s.preemptCores s.preemptArg).foldl (fun s c => s.putCore c (s.core c).stop)
      { s with box := { s.box with preempt := some s.preemptArg } }) := by
  rw [execPreEmpt_begins hr hp, if_neg]
  simpa [State.preemptBad, or_assoc] using hb

end

theorem State.abandonWait_preemptPos (s : State) (t : Strand) (c : Nat) : (s.abandonWait t).preemptPos c = s.preemptPos c := by
  have hsent : ∀ (s : State) (c' j : Nat), (s.sent c' j).preemptPos c = s.preemptPos c := fun s c' j => by
    unfold State.sent State.startSeries
    extract_lets x
    split <;> rfl
  unfold State.abandonWait
  split
  · rw [hsent]
    split <;> rfl
  · rw [hsent]
    split <;> rfl
  · rfl

/-- The frame of a strand in slot k of its core (R348, R350). -/
def State.frameAddr (s : State) (x : Preempt) (t : Strand) (k : Nat) : Nat :=
  x.a + 1310720 * (s.preemptPos t.core).getD 0 + 4096 * (4 * (t.core % 4) + k)

/-- Whether the strand that a delivery reaches was parked when it began (R350, R351). -/
def Strand.wasParked (t : Strand) : Bool := t.delivery.getD (decide (t.run ≠ .running))

/-- The state in which a delivery to strand u is made. -/
def State.delivering (s : State) (u : Nat) (t : Strand) : State := ({ s with cur := u } : State).abandonWait t

/-- The state in which a delivery waits for the host. -/
def State.deliveryWaits (s : State) (u : Nat) (t : Strand) (w : Wait) : State :=
  s.putStrand u { t with run := .waiting w, since := s.tick, delivery := some t.wasParked }

/-- A delivery by what the translation of its frame answers (R349, R383). -/
def State.deliverBy (s : State) (u : Nat) (t : Strand) (f : Nat) : XRes → State
  | .ok s1 tg => match s1.biasRange tg 128 with
    | some w => (s1.askHost w true).deliveryWaits u t w
    | none => (s1.partyStore t f tg (t.frameHead t.wasParked)).delivered u t f
  | .refused s1 => (s.noteRefusal s1 t.vf (dieOf t.core) f t.birthJob t.unit).delivered u t 0
  | .host s1 w => s1.deliveryWaits u t w
  | .wait s1 r => s1.faultPark { t with run := .running, delivery := some t.wasParked } [r]

theorem State.deliverBy_writes {s s1 : State} {u f : Nat} {t : Strand} {tg : Target} (hb : s1.biasRange tg 128 = none) :
    s.deliverBy u t f (.ok s1 tg) = (s1.partyStore t f tg (t.frameHead t.wasParked)).delivered u t f := by
  simp only [State.deliverBy, hb]

theorem State.deliverBy_waits {s s1 : State} {u f : Nat} {t : Strand} {tg : Target} {w : Wait} (hb : s1.biasRange tg 128 = some w) :
    s.deliverBy u t f (.ok s1 tg) = (s1.askHost w true).deliveryWaits u t w := by
  simp only [State.deliverBy, hb]

section
variable {s : State} {u k : Nat} {t : Strand} {x : Preempt} (hx : s.box.preempt = some x)
  (ht : s.strand? u = some t) (hc : s.canDeliver t = true)
include hx ht hc

theorem execPreEmptDelivery_restores (hs : t.slot = none) :
    execPreEmptDelivery u s = .next ((s.abandonWait t).restore u { t with run := .running, fromPark := true }) := by
  simp [execPreEmptDelivery, ht, hx, hc, hs]

variable (hs : t.slot = some k)
include hs

theorem execPreEmptDelivery_pastEnd (hf : 2 ^ 56 < s.frameAddr x t k + 128) : execPreEmptDelivery u s =
    .next (((s.delivering u t).noteRefusal (s.delivering u t) t.vf (dieOf t.core) (s.frameAddr x t k) t.birthJob t.unit).delivered u t 0) := by
  have hpos := ({ s with cur := u } : State).abandonWait_preemptPos t t.core
  simp only [State.frameAddr] at hf
  simp only [execPreEmptDelivery, ht, hx, hc, hs, hpos]
  exact congrArg Host.Outcome.next (if_pos hf)

theorem execPreEmptDelivery_translates (hf : s.frameAddr x t k + 128 ≤ 2 ^ 56) : execPreEmptDelivery u s =
    .next ((s.delivering u t).deliverBy u t (s.frameAddr x t k)
      (resolve (s.delivering u t) t.vf 1 (dieOf t.core) (s.frameAddr x t k) .write)) := by
  have hpos := ({ s with cur := u } : State).abandonWait_preemptPos t t.core
  have hin := Nat.not_lt.2 hf
  simp only [State.frameAddr] at hin
  unfold State.deliverBy State.deliveryWaits State.frameAddr
  simp only [execPreEmptDelivery, ht, hx, hc, hs, hpos]
  refine congrArg Host.Outcome.next ((if_neg hin).trans ?_)
  rfl

end

section
variable {s : State} {x : Preempt} (hx : s.box.preempt = some x)
include hx

/-- Where the queue image of a core lies (R354). -/
def State.imageAddr (s : State) (x : Preempt) (c : Nat) : Nat := x.q + 131072 * (4 * (s.preemptPos c).getD 0 + c % 4)

theorem execQueueImage_waits {c : Nat} {s1 : State} (hc : s.imageDue c = true)
    (hw : s.pagesWait x.vf (dieOf c) (s.imageAddr x c) (s.queueImage c).length = some s1) : execQueueImage c s = .next s1 := by
  simp only [State.imageAddr] at hw
  simp [execQueueImage, hx, hc, hw]

theorem execQueueImage_writes {c : Nat} (hc : s.imageDue c = true)
    (hw : s.pagesWait x.vf (dieOf c) (s.imageAddr x c) (s.queueImage c).length = none) :
    let s1 := s.writePages x.vf c (s.imageAddr x c) (s.queueImage c) 4
    execQueueImage c s = .next (((s.core c).held.filterMap id).foldl State.pushMade
      (s1.putCore c { s1.core c with imaged := true, deque := [], held := [], inlet := [], gangHold := none })) := by
  simp only [State.imageAddr] at hw
  simp [execQueueImage, State.imageAddr, hx, hc, hw]

/-- The end of a pre-empt command lets its cores go on and ends the mailbox command with result 0 (R348, R381). -/
theorem execPreEmptComplete_ends (ho : s.preemptOver = true) :
    let s1 := (s.preemptCores x).foldl (fun s c => s.putCore c (s.core c).goOn) s
    execPreEmptComplete s = .next (({ s1 with box := { s1.box with preempt := none } } : State).boxDone 0) := by
  unfold execPreEmptComplete
  rw [hx]
  exact congrArg Host.Outcome.next (if_neg (by simp [ho]))

end

/-- The mailbox status after a command that ends with result 0 (R381). -/
theorem State.boxDone_zero (s : State) : bitAt (s.boxDone 0).box.stat 63 = false ∧ bitsNat (s.boxDone 0).box.stat 7 0 = 0 := by
  have hstat : (s.boxDone 0).box.stat = s.box.stat &&& field64 1 62 ||| field64 0 0 := rfl
  have hbit : bitAt (field64 1 62) 63 = false := by decide
  have hlow : bitsNat (field64 1 62) 7 0 = 0 := by decide
  rw [hstat]
  constructor
  · rw [bitAt_or, bitAt_and, hbit, bitAt_field64_below (by decide), Bool.and_false, Bool.or_false]
  · rw [bitsNat_or, bitsNat_and, hlow, bitsNat_field64 (by decide) (by decide) (by decide), Nat.and_zero, Nat.or_zero]

/-! ### GUAR, BURST, job entries and LPTINV (R327, R334, R337, R371) -/

theorem foldl_others (vf a : Nat) (ps : FMap Part) : ps.foldl (fun a q => if q.1 = vf then a else a + q.2.guar) a =
    a + ((ps.filter fun q => q.1 ≠ vf).map fun q => q.2.guar).sum := by
  induction ps generalizing a with
  | nil => rfl
  | cons q ps ih =>
    rw [List.foldl_cons, ih]
    by_cases h : q.1 = vf
    · simp [h]
    · simp [h, Nat.add_assoc]

section
variable {s : State} {vf : Nat} {v : Word64}

/-- GUAR is written unless the sum of GUAR would pass what the package can map (R334). -/
theorem State.writeGuar_eq (s : State) (vf : Nat) (v : Word64) : s.writeGuar vf v =
    if 6290688 < ((s.parts.filter fun q => q.1 ≠ vf).map fun q => q.2.guar).sum + bitsNat v 22 0 then s
    else (s.putPart vf { s.part vf with guar := bitsNat v 22 0 }).noteReclaim := by
  have hothers := foldl_others vf 0 s.parts
  rw [Nat.zero_add] at hothers
  rw [← hothers]
  rfl

/-- The job entry that a write makes of an old one: SVC is the physical function's to write (R327). -/
def jobEntryOf (pf : Bool) (old v : Word64) : Word64 :=
  field64 (if bitAt v 63 then 1 else 0) 63 ||| field64 (if bitAt (if pf then v else old) 62 then 1 else 0) 62 |||
    field64 (bitsNat v 61 58) 58 ||| field64 (bitsNat v 15 0) 0

/-- Entry j of a partition's job table. -/
def Part.jobEntry (p : Part) (j : Nat) : Word64 := (p.jobtab.toList[j]?).getD 0#64

variable {pf : Bool} {j : Nat} {old new : Word64} (hold : (s.part vf).jobEntry j = old) (hnew : jobEntryOf pf old v = new)
include hold hnew

theorem State.writeJob_ignored (h : s.jobWriteIgnored vf j old new = true) : s.writeJob pf vf j v = s := by
  subst hold hnew
  exact if_pos h

theorem State.writeJob_written (h : s.jobWriteIgnored vf j old new = false) : s.writeJob pf vf j v =
    (if bitAt new 63 && (!bitAt old 63 || bitsNat old 15 0 ≠ bitsNat new 15 0) then
      s.putJob (bitsNat new 15 0) { s.job (bitsNat new 15 0) with launched := false, series := false, wave := none } else s).putPart vf
      { s.part vf with jobtab := (s.part vf).jobtab.setIfInBounds j new } := by
  subst hold hnew
  exact if_neg (by rw [Bool.not_eq_true]; exact h)

end

/-- Dropping an entry of a logical package table keeps strands and memory (R337). -/
theorem State.dropLpt_spec (s : State) (v : Word64) :
    (s.dropLpt v).lptCache = FMap.erase s.lptCache (bitsNat v 29 24 * 2 ^ 18 + bitsNat v 17 0) ∧ (s.dropLpt v).box.lptinv = v ∧
      (s.dropLpt v).strands = s.strands ∧ (s.dropLpt v).mem = s.mem := by
  unfold State.dropLpt
  extract_lets vf s1
  split <;> exact ⟨rfl, rfl, rfl, rfl⟩

theorem State.lptinvWrite_asks {s : State} {v : Word64} {w : Wait} (h : s.lptinvAsk v = some w) :
    s.lptinvWrite v = { (s.askHost w false) with outside := .lptinv v :: s.outside } := by
  simp only [State.lptinvWrite, h]

theorem State.lptinvWrite_drops {s : State} {v : Word64} (h : s.lptinvAsk v = none) : s.lptinvWrite v = s.dropLpt v := by
  simp only [State.lptinvWrite, h]

/-! ### Writes of registers (R326, R378) -/

section
variable {s : State} {fn : Option Nat} {off width : Nat} {v : Word64}

theorem execMmioWrite_aborts (h : (width ≠ 4 ∧ width ≠ 8) ∨ off % width ≠ 0) : execMmioWrite fn off width v s = .next (s.emit .abort) :=
  congrArg Host.Outcome.next (if_pos (by simpa using h))

variable (h : off % 8 = 0)
include h

theorem execMmioWrite_whole : execMmioWrite fn off 8 v s = .next (s.regWrite fn off v) :=
  congrArg Host.Outcome.next ((if_neg (by simp [h])).trans (if_pos rfl))

theorem execMmioWrite_low : execMmioWrite fn off 4 v s =
    .next (s.regWrite fn off (field64 (bitsNat (s.regRead fn off) 63 32) 32 ||| field64 (bitsNat v 31 0) 0)) := by
  have h4 : off % 4 = 0 := by omega
  have hbase : off / 8 * 8 = off := by omega
  have he : execMmioWrite fn off 4 v s = .next _ :=
    congrArg Host.Outcome.next ((if_neg (by simp [h4])).trans ((if_neg (by decide)).trans (if_pos h)))
  rw [he, hbase]

theorem execMmioWrite_high :
    let new := field64 (bitsNat v 31 0) 32 ||| field64 (bitsNat (s.regRead fn off) 31 0) 0
    execMmioWrite fn (off + 4) 4 v s = .next (if isAction fn off = true then s.keepHigh fn off new else s.regWrite fn off new) := by
  have h4 : (off + 4) % 4 = 0 := by omega
  have h8 : (off + 4) % 8 ≠ 0 := by omega
  have hbase : (off + 4) / 8 * 8 = off := by omega
  have he : execMmioWrite fn (off + 4) 4 v s = .next _ :=
    congrArg Host.Outcome.next ((if_neg (by simp [h4])).trans ((if_neg (by decide)).trans (if_neg h8)))
  rw [he, hbase]

end

/-- Doubleword k of a function's launch inlet (R287, R326). -/
theorem State.regWrite_inlet {s : State} {vf k : Nat} {v : Word64} (hk : k < 512) : s.regWrite (some vf) (0x1000 + 8 * k) v =
    s.putPart vf { s.part vf with inlet := FMap.set (s.part vf).inlet k v } := by
  have hword : (0x1000 + 8 * k - 0x1000) / 8 = k := by omega
  have he : s.regWrite (some vf) (0x1000 + 8 * k) v = _ := (if_neg (by omega)).trans (if_pos (by omega))
  rw [he, hword]

/-- Doubleword k of the mailbox's argument area (R381). -/
theorem State.regWrite_args {s : State} {k : Nat} {v : Word64} (hk : k < 32) : s.regWrite none (0x41100 + 8 * k) v =
    { s with box := { s.box with args := FMap.set s.box.args k v } } := by
  have hword : (0x41100 + 8 * k - 0x41100) / 8 = k := by omega
  have h0 : ¬0x41100 + 8 * k < 0x40000 := by omega
  have hne (r : Nat) (hr : r < 0x41100) : ¬0x41100 + 8 * k = r := by omega
  have hin : (decide (0x41100 ≤ 0x41100 + 8 * k) && decide (0x41100 + 8 * k < 0x41200)) = true := by
    rw [Bool.and_eq_true, decide_eq_true_eq, decide_eq_true_eq]
    omega
  have he : s.regWrite none (0x41100 + 8 * k) v = _ :=
    (if_neg h0).trans ((if_neg (hne _ (by decide))).trans ((if_neg (hne _ (by decide))).trans ((if_neg (hne _ (by decide))).trans
      ((if_neg (hne _ (by decide))).trans ((if_neg (hne _ (by decide))).trans ((if_neg (hne _ (by decide))).trans (if_pos hin)))))))
  rw [he, hword]

/-- The resize clause (R222, R323, R324): what a pending change that takes effect leaves. -/
theorem execResize_leaves {s : State} {vf : Nat} {r : Resize} (h : s.resizeReady vf = some r) :
    ∃ s' : State, execResize vf s = .next s' ∧ s'.resizes = s.resizes.erase r ∧ s'.strands = s.strands ∧
      Out.irq (some vf) 2 ∈ s'.outbox ∧
      (s'.part vf).rszevt = field64 ((bitsNat (s.part vf).rszevt 63 48 + 1) % 65536) 48 ||| field64 (s'.part vf).len 14 |||
        field64 (s'.part vf).base 0 ∧
      ∃ s1 : State, s1.parts = s.parts ∧ s1.skip = s.skip ∧ s'.skip = (s1.takeResize vf r).skip ∧
        (s'.part vf).part = ((s1.takeResize vf r).part vf).part := by
  obtain ⟨s1, s2, h1, h2, he⟩ := execResize_takes h
  obtain ⟨hstrands, hresizes, hskip, hpart, hirq⟩ := s2.resizeEvent_spec vf
  obtain ⟨tstrands, tresizes, trszevt⟩ := ({ s1 with resizes := s.resizes.erase r } : State).takeResize_frame vf r
  refine ⟨_, he, hresizes.trans (h2.resizes.trans tresizes), hstrands.trans (h2.strands.trans (tstrands.trans h1.strands)), hirq, ?_,
    { s1 with resizes := s.resizes.erase r }, h1.parts, h1.skip, hskip.trans h2.skip, ?_⟩
  · have hold : (s2.part vf).rszevt = (s.part vf).rszevt := by
      rw [h2.part, trszevt]
      exact congrArg Part.rszevt (h1.part vf)
    rw [hpart, ← hold]
    rfl
  · rw [hpart, ← h2.part]

/-- Settles O49: what a resize leaves, then one equation for each way that the other rows end. -/
theorem partitionAndPreemptEventsTakeEffect : Obligations.PartitionAndPreemptEventsTakeEffect := by
  unfold Obligations.PartitionAndPreemptEventsTakeEffect
  intro s vf v p
  refine ⟨fun r hr => ?resize, fun hr hp => ?preempt, fun x u t hx ht hc => ?delivery, fun x c hx hc => ?image, fun x hx ho => ?complete,
    ?shares, fun pf j => ?job, fun w hw => ?ask, fun hw => ?drop, fun fn off width => ?mmio, rfl, rfl, fun k hk => ?inlet, fun k hk => ?args⟩
  case resize =>
    obtain ⟨s', he, hresizes, hstrands, hirq, hevt, s1, hparts, hskip, hskip', hpart'⟩ := execResize_leaves hr
    have hp1 : s1.part vf = p := by rw [State.part, hparts]; rfl
    have hkeeps (k : Nat) (on : Bool) : (s1.setSkip k on).part vf = p := by
      obtain ⟨-, -, hp⟩ := s1.setSkip_frame k on
      rw [State.part, hp]
      exact hp1
    refine ⟨s', he, hresizes, hstrands, hirq, hevt, fun hn => ?_, fun h hs => ?_, fun h hs => ?_⟩
    · rw [hpart', hskip', State.takeResize_extent hn, State.part_putPart, if_pos rfl, hp1]
      exact ⟨rfl, hskip⟩
    · rw [hpart', hskip', State.takeResize_skip hs, State.mem_skip_setSkip, hkeeps]
      exact ⟨.inr ⟨rfl, rfl⟩, rfl⟩
    · rw [hpart', hskip', State.takeResize_skip hs, State.mem_skip_setSkip, hkeeps]
      exact ⟨by simp, rfl⟩
  case preempt =>
    intro d x bad
    refine ⟨fun hb => execPreEmpt_bad hr hp hb, fun hb => ⟨_, execPreEmpt_stops hr hp hb, ?_, ?_, fun c hc => ?_⟩⟩
    · exact congrArg Mailbox.preempt (State.foldl_putCore_frame ..).2
    · exact (State.foldl_putCore_frame ..).1
    · exact State.core_foldl_putCore (f := Core.stop) (P := fun k => k.stopped = true) (fun _ => rfl) _ _ (.inl hc)
  case delivery =>
    refine ⟨execPreEmptDelivery_restores hx ht hc, fun k hk => ?_⟩
    intro f s0 parked took lost waits
    refine ⟨execPreEmptDelivery_pastEnd hx ht hc hk, fun hf s1 => ?_⟩
    have he {d : XRes} (hd : resolve s0 t.vf 1 (dieOf t.core) f .write = d) : exec (.preEmptDelivery u) s = .next (s0.deliverBy u t f d) :=
      hd ▸ execPreEmptDelivery_translates hx ht hc hk hf
    exact ⟨fun tg hok => ⟨fun hb => (he hok).trans (congrArg _ (State.deliverBy_writes hb)),
      fun w hb => (he hok).trans (congrArg _ (State.deliverBy_waits hb))⟩, he, fun w => he, fun r => he⟩
  case image =>
    exact ⟨fun s1 hw => execQueueImage_waits hx hc hw, fun hw => execQueueImage_writes hx hc hw⟩
  case complete =>
    refine ⟨_, execPreEmptComplete_ends hx ho, rfl, ?_, ?_, (State.boxDone_zero _).1, (State.boxDone_zero _).2, fun c hc => ?_⟩
    · exact (State.foldl_putCore_frame Core.goOn (s.preemptCores x) s).1
    · exact List.mem_append_right _ (List.mem_singleton_self _)
    · exact State.core_foldl_putCore (f := Core.goOn) (P := fun k => k.stopped = false) (fun _ => rfl) _ s (.inl hc)
  case shares =>
    intro g others
    have hg : exec (.guarWrite vf v) s = .next (s.writeGuar vf v) := rfl
    rw [hg, State.writeGuar_eq]
    exact ⟨fun h => congrArg _ (if_pos h), fun h => congrArg _ (if_neg (Nat.not_lt.2 h)), fun h => congrArg _ (if_pos h),
      fun h => congrArg _ (if_neg (Nat.not_lt.2 h))⟩
  case job =>
    intro old new job fresh
    refine ⟨fun hi => congrArg Host.Outcome.next (State.writeJob_ignored (old := old) (new := new) rfl rfl hi), fun hi => ?_⟩
    have he : exec (.jobEntryWrite pf vf j v) s = .next _ := congrArg Host.Outcome.next (State.writeJob_written (old := old) (new := new) rfl rfl hi)
    have hfresh : (bitAt new 63 && (!bitAt old 63 || bitsNat old 15 0 ≠ bitsNat new 15 0)) = true ↔ fresh := by simp [fresh, job]
    exact ⟨fun hf => he.trans (congrArg (fun s' : State => Host.Outcome.next (s'.putPart vf _)) (if_neg (mt hfresh.1 hf))),
      fun hf => he.trans (congrArg (fun s' : State => Host.Outcome.next (s'.putPart vf _)) (if_pos (hfresh.2 hf)))⟩
  case ask => exact congrArg Host.Outcome.next (State.lptinvWrite_asks hw)
  case drop => exact ⟨_, congrArg Host.Outcome.next (State.lptinvWrite_drops hw), s.dropLpt_spec v⟩
  case mmio =>
    exact ⟨execMmioWrite_aborts, execMmioWrite_whole, execMmioWrite_low, execMmioWrite_high⟩
  case inlet =>
    exact (execMmioWrite_whole (by omega)).trans (congrArg _ (State.regWrite_inlet hk))
  case args =>
    exact (execMmioWrite_whole (by omega)).trans (congrArg _ (State.regWrite_args hk))

end Sys2Proof.Machine
end

section
/-!
SUPPORT. The images of tarns and vector state (R225 to R228): the checks of an image's range, how a save writes its image and ends,
what a restore takes from it (O45).
-/
namespace Sys2Proof.Machine

/-! ### The range of an image (R112, R226, R228) -/

theorem imageChecks_ok {base : Word64} {va n align need : Nat} {t : Strand} (hb : base.toNat = va) (hin : va + n ≤ 2 ^ 56)
    (h56 : va < 2 ^ 56) (ha : va % align = 0) (hw : weirRefuses t.weirs va n need = none) : imageChecks base n align need t = .ok va := by
  have hea : eaCheck base 0 n = .ok va := eaCheck_inside (hb ▸ h56) (by rw [hb]; rfl) hin
  simp [imageChecks, hea, ha, hw]

/-- A range in one page of a pool of the partition is looked at without a change. -/
theorem lookPages_pool {s : State} {t : Strand} {va n : Nat} {k : Acc} (hn : 0 < n) (hpage : va % 65536 + n ≤ 65536)
    (h : InPool s t va) (hk : k ≠ .fetch) : lookPages k va n t s = .ok (s, [(va, n, t.poolAt va)]) := by
  have hone : (va + n - 1) / 65536 - va / 65536 + 1 = 1 := by omega
  have hlo : max va (va / 65536 * 65536) = va := by omega
  have hhi : min (va + n) ((va / 65536 + 1) * 65536) = va + n := by omega
  have hres : resolve s t.vf t.mode (dieOf t.core) va k = .ok s (t.poolAt va) := by
    obtain ⟨hin, hc⟩ := h
    simp [resolve, hin, hc, hk, Strand.poolAt]
  simp only [lookPages, hone, List.range_one, List.map_cons, List.map_nil, Nat.add_zero, List.foldl_cons, List.foldl_nil, hlo, hhi, hres,
    Nat.add_sub_cancel_left, List.nil_append]

/-! ### The two saves (R225, R226, R228) -/

/-- Another strand holds no drain that is free or a strand's own. -/
theorem drain_notTaken {d : Option Nat} {u : Nat} (h : d = none ∨ d = some u) : ¬(d.isSome && decide (d ≠ some u)) = true := by
  rcases h with e | e <;> simp [e]

/-- What follows a page of a save: its end with the image's last byte, else the next page (R226, R228). -/
def afterPage (size : Nat) (ends : State → State) : Except Res (State × Nat) → Res
  | .error r => r
  | .ok (s, off) => if size ≤ off then .done (ends s)
    else .hold (s.modStrand s.cur fun u => { u.atImage off with timeout := false })

/-- Where the first of the pages of a range leads. -/
def firstPage (ts : List (Nat × Nat × Target)) : Target := (ts.head?.map fun p => p.2.2).getD .dry

/-- The strand as an image instruction looks at its pages. -/
def Strand.looking (t : Strand) : Strand := if t.imagePoint = 0 then t else t.atImage t.imagePoint

/-- The state in which the drain of a quad is held by the running strand (R226). -/
def State.takeDrain (s : State) (q : Nat) : State := s.putQuad q { s.quad q with drainBy := some s.cur }

/-- The strands that wait on names of a quad look again, since its drain is on (R226). -/
def State.wakeNames (s : State) (q : Nat) : State := s.wake fun _ t w => quadOf t.core == q && (match w with
  | .names _ => true
  | _ => false)

/-- A quad whose image is written whole has no names, and its drain is free (R226). -/
def State.freeNames (q : Nat) (s : State) : State := s.putQuad q { s.quad q with names := [], drainBy := none }

section
variable {s s' : State} {t : Strand} {a : BitVec 5} {va : Nat} {ts : List (Nat × Nat × Target)} (hpc : ¬(t.pc : Int) + 4 > pcTop)

section
variable {n align need c : Nat} {v : Word64}

theorem mdrainBody_badRange (h : imageChecks (t.g a) mdrainSize 4096 3 t = .error (c, v)) : mdrainBody a t s = .trap c v := by
  simp only [mdrainBody, h]

theorem vsaveBody_badRange (h : imageChecks (t.g a) 2240 64 3 t = .error (c, v)) : vsaveBody a t s = .trap c v := by
  simp only [vsaveBody, h]

theorem vrestBody_badRange (h : imageChecks (t.g a) 2240 64 2 t = .error (c, v)) : vrestBody a t s = .trap c v := by
  simp only [vrestBody, h]

end

section
variable (hchk : imageChecks (t.g a) mdrainSize 4096 3 t = .ok va)
  (hlook : lookPages .write (va + t.imagePoint) (mdrainSize - t.imagePoint) t.looking s = .ok (s', ts))
include hchk hlook

theorem mdrainBody_taken (hd : (s.quad (quadOf t.core)).drainBy ≠ none) (hme : (s.quad (quadOf t.core)).drainBy ≠ some s'.cur) :
    mdrainBody a t s = .hold s' := by
  unfold Strand.looking at hlook
  simp only [mdrainBody, hchk, hlook]
  exact if_pos (by simp [Option.isSome_iff_ne_none, hd, hme])

variable (hd : (s.quad (quadOf t.core)).drainBy = none ∨ (s.quad (quadOf t.core)).drainBy = some s'.cur)
include hpc hd

theorem mdrainBody_waits (h : (s.quad (quadOf t.core)).ops ≠ [] ∨ t.buf ≠ []) :
    mdrainBody a t s = .hold (s'.takeDrain (quadOf t.core)) := by
  unfold Strand.looking at hlook
  simp only [mdrainBody, hchk, hlook]
  exact (if_neg (drain_notTaken hd)).trans ((if_neg hpc).trans (if_pos (by simpa using h)))

theorem mdrainBody_writes (hops : (s.quad (quadOf t.core)).ops = []) (hbuf : t.buf = []) :
    let s2 := (s'.takeDrain (quadOf t.core)).wakeNames (quadOf t.core)
    mdrainBody a t s = afterPage mdrainSize (State.freeNames (quadOf t.core))
      (s2.writeImage (t.atImage t.imagePoint) va t.imagePoint (s2.mdrainImage (quadOf t.core)) (firstPage ts)) := by
  unfold Strand.looking at hlook
  simp only [mdrainBody, hchk, hlook]
  exact (if_neg (drain_notTaken hd)).trans ((if_neg hpc).trans ((if_neg (by simp [hops, hbuf])).trans rfl))

end

section
variable (hchk : imageChecks (t.g a) 2240 64 3 t = .ok va)
  (hlook : lookPages .write (va + t.imagePoint) (2240 - t.imagePoint) t.looking s = .ok (s', ts))
include hchk hlook

theorem vsaveBody_waits (h : t.vflags ≠ [] ∨ t.buf ≠ []) : vsaveBody a t s = .hold s' := by
  unfold Strand.looking at hlook
  simp only [vsaveBody, hchk, hlook]
  exact if_pos (by simpa using h)

include hpc in
theorem vsaveBody_writes (hv : t.vflags = []) (hbuf : t.buf = []) : vsaveBody a t s =
    afterPage 2240 id (s'.writeImage (t.atImage t.imagePoint) va t.imagePoint t.vectorImage (firstPage ts)) := by
  unfold Strand.looking at hlook
  simp only [vsaveBody, hchk, hlook]
  exact (if_neg (by simp [hv, hbuf])).trans ((if_neg hpc).trans rfl)

end

end

/-! ### How a save ends -/

theorem afterPage_last {size off : Nat} {ends : State → State} {w : Except Res (State × Nat)} {s : State} (hw : w = .ok (s, off))
    (h : size ≤ off) : afterPage size ends w = .done (ends s) := by
  subst hw
  exact if_pos h

theorem afterPage_next {size off : Nat} {ends : State → State} {w : Except Res (State × Nat)} {s : State} (hw : w = .ok (s, off))
    (h : off < size) : afterPage size ends w = .hold (s.modStrand s.cur fun u => { u.atImage off with timeout := false }) := by
  subst hw
  exact if_neg (Nat.not_le.2 h)

theorem Strand.vectorImage_length (t : Strand) : t.vectorImage.length = 2240 := by
  simp [Strand.vectorImage, lineBytes, leBytes_length, List.length_flatMap]

/-- An image that one page of an own pool holds is written in one step (R228, R12). -/
theorem State.writeImage_pool {s : State} {t : Strand} {va : Nat} {img : List Byte} (hpage : va % 65536 + img.length ≤ 65536)
    (ht : t.timeout = false) (halone : Alone s t) : s.writeImage t va 0 img (t.poolAt va) =
      .ok (s.partyStore t va (t.poolAt va) img, img.length) := by
  have hn : min img.length (65536 - va % 65536) = img.length := by omega
  have hbias : s.biasRange (t.poolAt va) img.length = none := rfl
  simp only [State.writeImage, Nat.sub_zero, Nat.add_zero, Nat.zero_add, hn, hbias, State.ownPool_alone halone, List.drop_zero,
    List.take_length]
  exact congrArg (fun s' => Except.ok (s', img.length)) (if_neg (by simp [ht]))

theorem vsaveBody_pool {s : State} {t : Strand} {a : BitVec 5} {va : Nat} (hpc : ¬(t.pc : Int) + 4 > pcTop)
    (hchk : imageChecks (t.g a) 2240 64 3 t = .ok va) (hin : InPool s t va) (hpage : va % 65536 + 2240 ≤ 65536)
    (hpoint : t.imagePoint = 0) (hv : t.vflags = []) (hbuf : t.buf = []) (ht : t.timeout = false) (halone : Alone s t) :
    vsaveBody a t s = .done (s.partyStore (t.atImage 0) va (t.poolAt va) t.vectorImage) := by
  have hlook : lookPages .write (va + t.imagePoint) (2240 - t.imagePoint) t.looking s = .ok (s, [(va, 2240, t.poolAt va)]) := by
    rw [hpoint, Strand.looking, if_pos hpoint]
    exact lookPages_pool (by omega) hpage hin (by decide)
  have hlen := t.vectorImage_length
  have hwrite := State.writeImage_pool (s := s) (t := t.atImage 0) (va := va) (img := t.vectorImage) (by omega) ht halone
  rw [vsaveBody_writes hpc hchk hlook hv hbuf, hpoint]
  exact afterPage_last hwrite (by omega)

/-! ### What a restore reads (R225, R227, R228) -/

/-- The 64-bit word of an image at an offset. -/
def savedWord (bs : List Byte) (k : Nat) : Word64 := BitVec.ofNat 64 (leNat ((bs.drop k).take 8))

/-- The line of an image at an offset. -/
def savedLine (bs : List Byte) (k : Nat) : Vec := bytesLine ((bs.drop k).take 64)

/-- The strand with the vector registers below n loaded, each with what f gives of it. -/
@[irreducible] def Strand.loadLines (f : Nat → Vec) (n : Nat) (t : Strand) : Strand :=
  (List.range n).foldl (fun t i => t.setV (BitVec.ofNat 5 i) (f i)) t

/-- The strand with the mask registers below n loaded, each with what f gives of it. -/
@[irreducible] def Strand.loadMasks (f : Nat → Word64) (n : Nat) (t : Strand) : Strand :=
  (List.range n).foldl (fun t i => t.setK (BitVec.ofNat 3 i) (f i)) t

theorem Strand.loadLines_succ (f : Nat → Vec) (n : Nat) (t : Strand) :
    t.loadLines f (n + 1) = (t.loadLines f n).setV (BitVec.ofNat 5 n) (f n) := by
  simp [Strand.loadLines, List.range_succ]

theorem Strand.loadMasks_succ (f : Nat → Word64) (n : Nat) (t : Strand) :
    t.loadMasks f (n + 1) = (t.loadMasks f n).setK (BitVec.ofNat 3 n) (f n) := by
  simp [Strand.loadMasks, List.range_succ]

/-- Loading vector registers changes nothing else of a strand. -/
theorem Strand.loadLines_eq (f : Nat → Vec) (n : Nat) (t : Strand) :
    t.loadLines f n = { t with regs := { t.regs with v := (t.loadLines f n).regs.v } } := by
  induction n with
  | zero => simp [Strand.loadLines]
  | succ n ih =>
    rw [Strand.loadLines_succ, ih]
    rfl

/-- Loading mask registers changes nothing else of a strand. -/
theorem Strand.loadMasks_eq (f : Nat → Word64) (n : Nat) (t : Strand) :
    t.loadMasks f n = { t with regs := { t.regs with k := (t.loadMasks f n).regs.k } } := by
  induction n with
  | zero => simp [Strand.loadMasks]
  | succ n ih =>
    rw [Strand.loadMasks_succ, ih]
    rfl

theorem ofNat_eq_ofNat_iff {w i j : Nat} (hi : i < 2 ^ w) (hj : j < 2 ^ w) : BitVec.ofNat w i = BitVec.ofNat w j ↔ i = j := by
  rw [← BitVec.toNat_inj, BitVec.toNat_ofNat, BitVec.toNat_ofNat, Nat.mod_eq_of_lt hi, Nat.mod_eq_of_lt hj]

theorem Strand.v_loadLines (f : Nat → Vec) (t : Strand) {n i : Nat} (hn : n ≤ 32) (hi : i < n) :
    (t.loadLines f n).v (BitVec.ofNat 5 i) = f i := by
  induction n with
  | zero => omega
  | succ n ih =>
    rw [Strand.loadLines_succ, Strand.v_setV]
    by_cases h : i = n
    · rw [h, if_pos rfl]
    · rw [if_neg (mt (ofNat_eq_ofNat_iff (by omega) (by omega)).1 h)]
      exact ih (by omega) (by omega)

theorem Strand.k_loadMasks (f : Nat → Word64) (t : Strand) {n i : Nat} (hn : n ≤ 8) (hi : i < n) :
    (t.loadMasks f n).k (BitVec.ofNat 3 i) = f i := by
  induction n with
  | zero => omega
  | succ n ih =>
    rw [Strand.loadMasks_succ, Strand.k_setK]
    by_cases h : i = n
    · rw [h, if_pos rfl]
    · rw [if_neg (mt (ofNat_eq_ofNat_iff (by omega) (by omega)).1 h)]
      exact ih (by omega) (by omega)

/-- A strand with the lanes of an image (R228, R142). -/
def Strand.restoreLanes (t : Strand) (bs : List Byte) : Strand :=
  { t with prog := { t.prog with
      lanesAt := none,
      pending := if savedWord bs 2112 = 0#64 then none else some (savedWord bs 2112),
      lane := if bitAt (savedWord bs 2120) 8 then some (bitsNat (savedWord bs 2120) 6 0) else none,
      loaded := savedLine bs 2176 } }

/-- A strand with the vector state of an image (R228). -/
def Strand.restoreVector (t : Strand) (bs : List Byte) : Strand :=
  ((t.loadLines (fun i => savedLine bs (64 * i)) 32).loadMasks (fun i => savedWord bs (2048 + 8 * i)) 8).restoreLanes bs

theorem vrestBody_reads {s s' : State} {t : Strand} {a : BitVec 5} {va : Nat} {bs : List Byte}
    (hchk : imageChecks (t.g a) 2240 64 2 t = .ok va) (hread : longRead va 2240 t s = .ok (s', bs)) :
    vrestBody a t s = .done (s'.putMe (t.restoreVector bs)) := by
  simp only [vrestBody, hchk, hread, Strand.restoreVector, Strand.loadMasks, Strand.loadLines]
  rfl

/-- What a load of mask registers leaves. -/
theorem Strand.loadMasks_frame (f : Nat → Word64) (n : Nat) (t : Strand) : (t.loadMasks f n).pc = t.pc ∧ (t.loadMasks f n).sys = t.sys ∧
    (t.loadMasks f n).regs.g = t.regs.g ∧ (t.loadMasks f n).regs.h = t.regs.h ∧ ∀ q, (t.loadMasks f n).v q = t.v q := by
  rw [Strand.loadMasks_eq]
  exact ⟨rfl, rfl, rfl, rfl, fun _ => rfl⟩

/-- What a load of vector registers leaves. -/
theorem Strand.loadLines_frame (f : Nat → Vec) (n : Nat) (t : Strand) : (t.loadLines f n).pc = t.pc ∧ (t.loadLines f n).sys = t.sys ∧
    (t.loadLines f n).regs.g = t.regs.g ∧ (t.loadLines f n).regs.h = t.regs.h := by
  rw [Strand.loadLines_eq]
  exact ⟨rfl, rfl, rfl, rfl⟩

/-- What a restore of the lanes leaves. -/
theorem Strand.restoreLanes_frame (t : Strand) (bs : List Byte) : (t.restoreLanes bs).pc = t.pc ∧ (t.restoreLanes bs).sys = t.sys ∧
    (t.restoreLanes bs).regs.g = t.regs.g ∧ (t.restoreLanes bs).regs.h = t.regs.h ∧ (∀ q, (t.restoreLanes bs).v q = t.v q) ∧
    ∀ q, (t.restoreLanes bs).k q = t.k q := ⟨rfl, rfl, rfl, rfl, fun _ => rfl, fun _ => rfl⟩

section
variable (t : Strand) (bs : List Byte)

/-- A restore of vector state leaves the PC, the special registers, g and h. -/
theorem Strand.restoreVector_frame : (t.restoreVector bs).pc = t.pc ∧ (t.restoreVector bs).sys = t.sys ∧
    (t.restoreVector bs).regs.g = t.regs.g ∧ (t.restoreVector bs).regs.h = t.regs.h := by
  rw [Strand.restoreVector]
  generalize hu : t.loadLines _ 32 = u
  generalize hx : u.loadMasks _ 8 = x
  obtain ⟨upc, usys, ug, uh⟩ := hu ▸ t.loadLines_frame (fun i => savedLine bs (64 * i)) 32
  obtain ⟨xpc, xsys, xg, xh, -⟩ := hx ▸ u.loadMasks_frame (fun i => savedWord bs (2048 + 8 * i)) 8
  obtain ⟨pc, sys, g, h, -⟩ := x.restoreLanes_frame bs
  exact ⟨pc.trans (xpc.trans upc), sys.trans (xsys.trans usys), g.trans (xg.trans ug), h.trans (xh.trans uh)⟩

theorem Strand.restoreVector_v {i : Nat} (hi : i < 32) : (t.restoreVector bs).v (BitVec.ofNat 5 i) = savedLine bs (64 * i) := by
  obtain ⟨-, -, -, -, hv, -⟩ := Strand.restoreLanes_frame
    ((t.loadLines (fun i => savedLine bs (64 * i)) 32).loadMasks (fun i => savedWord bs (2048 + 8 * i)) 8) bs
  obtain ⟨-, -, -, -, hm⟩ := (t.loadLines (fun i => savedLine bs (64 * i)) 32).loadMasks_frame (fun i => savedWord bs (2048 + 8 * i)) 8
  rw [Strand.restoreVector, hv, hm, Strand.v_loadLines _ _ (Nat.le_refl 32) hi]

theorem Strand.restoreVector_k {i : Nat} (hi : i < 8) : (t.restoreVector bs).k (BitVec.ofNat 3 i) = savedWord bs (2048 + 8 * i) := by
  obtain ⟨-, -, -, -, -, hk⟩ := Strand.restoreLanes_frame
    ((t.loadLines (fun i => savedLine bs (64 * i)) 32).loadMasks (fun i => savedWord bs (2048 + 8 * i)) 8) bs
  rw [Strand.restoreVector, hk, Strand.k_loadMasks _ _ (Nat.le_refl 8) hi]

end

/-! ### MREST (R227) -/

/-- The part of an MREST image that a core takes: TBLSEL as MFMT writes it (notes/assumptions/63.md), and both decode tables. -/
def Core.restoreTables (x : Core) (bs : List Byte) (at_ : Nat) : Core :=
  { x with
    tblsel := field64 (bitsNat (formatWrite x.tblsel (savedWord bs at_)) 63 54) 54 ||| field64 (bitsNat (savedWord bs at_) 47 16) 16,
    tabA := lutEntries (bs.drop (at_ + 64)) 256, tabB := lutEntries (bs.drop (at_ + 1088)) 256, imaged := false }

/-- The state with the tables of the first n cores of a quad restored. -/
def State.restoreCores (s : State) (q : Nat) (bs : List Byte) (n : Nat) : State :=
  (List.range n).foldl (fun s c => s.putCore (4 * q + c) ((s.core (4 * q + c)).restoreTables bs (64 + 2112 * c))) s

/-- The names below n that an image holds. -/
def savedNames (bs : List Byte) (n : Nat) : FMap Name :=
  (List.range n).foldl (fun m i => if (imageName bs i).st = .free then m else FMap.set m i (imageName bs i)) []

/-- The state with the names of a quad restored. -/
def State.restoreNames (s : State) (q : Nat) (bs : List Byte) : State :=
  s.putQuad q { s.quad q with
    names := savedNames bs 256, nextDecl := max (s.quad q).nextDecl 257,
    nextRank := (savedNames bs 256).foldl (fun m p => max m p.2.rank) 0 + 1 }

/-- The state with a quad restored from an MREST image. -/
def State.restoreQuad (s : State) (q : Nat) (bs : List Byte) : State := (s.restoreCores q bs 4).restoreNames q bs

/-- Whether the two words of a name of an image hold tags of a type and a state that there are. -/
def nameWordsOk (bs : List Byte) (n : Nat) : Prop :=
  ∀ k ∈ [8512 + 4672 * n, 8520 + 4672 * n], bitsNat (savedWord bs k) 63 60 < 14 ∧ bitsNat (savedWord bs k) 34 32 < 4

/-- The test of a name's words as MREST makes it. -/
def nameWordsBad (bs : List Byte) (n : Nat) : Bool :=
  let badTag (g : Word64) : Bool := 14 ≤ bitsNat g 63 60 || 4 ≤ bitsNat g 34 32
  badTag (savedWord bs (8512 + 4672 * n)) || badTag (savedWord bs (8520 + 4672 * n))

theorem nameWordsBad_eq_false_iff (bs : List Byte) (n : Nat) : nameWordsBad bs n = false ↔ nameWordsOk bs n := by
  simp [nameWordsBad, nameWordsOk]

theorem nameWordsBad_iff (bs : List Byte) (n : Nat) : nameWordsBad bs n = true ↔ ¬nameWordsOk bs n := by
  rw [← nameWordsBad_eq_false_iff, Bool.not_eq_false]

theorem find_nameWordsBad_some {bs : List Byte} {n : Nat} (hn : n < 256) (hbad : ¬nameWordsOk bs n)
    (hok : ∀ m < n, nameWordsOk bs m) : (List.range 256).find? (nameWordsBad bs) = some n := by
  rw [List.find?_range_eq_some]
  exact ⟨(nameWordsBad_iff ..).2 hbad, List.mem_range.2 hn, fun m hm => by simp [(nameWordsBad_eq_false_iff ..).2 (hok m hm)]⟩

theorem find_nameWordsBad_none {bs : List Byte} (hok : ∀ n < 256, nameWordsOk bs n) :
    (List.range 256).find? (nameWordsBad bs) = none := by
  rw [List.find?_range_eq_none]
  exact fun n hn => by simp [(nameWordsBad_eq_false_iff ..).2 (hok n hn)]

/-- What MREST answers once it has read an image. -/
def mrestTaken (q : Nat) (s : State) (bs : List Byte) : Res :=
  if savedWord bs 0 ≠ 1#64 then .trapIn s 0x23 0x100#64
  else
    match (List.range 256).find? (nameWordsBad bs) with
    | some n => .trapIn s 0x23 (BitVec.ofNat 64 n)
    | none => .done (s.restoreQuad q bs)

section
variable {q : Nat} {s : State} {bs : List Byte}

theorem mrestTaken_badVersion (hw : savedWord bs 0 ≠ 1#64) : mrestTaken q s bs = .trapIn s 0x23 0x100#64 := if_pos hw

theorem mrestTaken_badName {n : Nat} (hw : savedWord bs 0 = 1#64) (hn : n < 256) (hbad : ¬nameWordsOk bs n)
    (hok : ∀ m < n, nameWordsOk bs m) : mrestTaken q s bs = .trapIn s 0x23 (BitVec.ofNat 64 n) := by
  rw [mrestTaken, if_neg (not_not.2 hw), find_nameWordsBad_some hn hbad hok]

theorem mrestTaken_restores (hw : savedWord bs 0 = 1#64) (hok : ∀ n < 256, nameWordsOk bs n) :
    mrestTaken q s bs = .done (s.restoreQuad q bs) := by
  rw [mrestTaken, if_neg (not_not.2 hw), find_nameWordsBad_none hok]

end

section
variable {s s' : State} {t : Strand} {a : BitVec 5} {va : Nat} {bs : List Byte}
  (hd : (s.quad (quadOf t.core)).drainBy = none ∨ (s.quad (quadOf t.core)).drainBy = some s.cur)
include hd

theorem mrestBody_named {n : Nat} {m : Name} (h : (s.quad (quadOf t.core)).names.find? (fun p => p.2.st ≠ .free) = some (n, m)) :
    mrestBody a t s = .trap 0x22 (BitVec.ofNat 64 n) := by
  simp only [mrestBody, h]
  exact if_neg (drain_notTaken hd)

variable (hnames : (s.quad (quadOf t.core)).names.find? (fun p => p.2.st ≠ .free) = none)
include hnames

theorem mrestBody_busy (h : (s.quad (quadOf t.core)).ops ≠ []) : mrestBody a t s = .trap 0x22 0x100#64 := by
  simp only [mrestBody, hnames]
  exact (if_neg (drain_notTaken hd)).trans (if_pos (by simpa using h))

/-- The read of the image is any function in this proof: the kernel would unroll a read of so many bytes where it compares two bodies.
-/
theorem mrestBody_takes (hops : (s.quad (quadOf t.core)).ops = []) (hchk : imageChecks (t.g a) mdrainSize 4096 2 t = .ok va)
    (hread : longRead va mdrainSize t s = .ok (s', bs)) : mrestBody a t s = mrestTaken (quadOf t.core) s' bs := by
  rw [mrestBody, hnames]
  generalize longRead = read at hread ⊢
  revert read
  refine id fun read hread => ?_
  simp only [hchk, hread]
  exact (if_neg (drain_notTaken hd)).trans ((if_neg (by simp [hops])).trans rfl)

end

/-! ### What MREST restores (R225, R227) -/

theorem lutEntries_drop (bs : List Byte) (k n : Nat) :
    lutEntries (bs.drop k) n = (List.range n).map fun i => BitVec.ofNat 19 (leNat ((bs.drop (k + 4 * i)).take 4)) := by
  simp only [lutEntries, List.drop_drop]

section
variable (s : State) (q : Nat) (bs : List Byte) (n : Nat)

theorem State.restoreCores_succ : s.restoreCores q bs (n + 1) = (s.restoreCores q bs n).putCore (4 * q + n)
    (((s.restoreCores q bs n).core (4 * q + n)).restoreTables bs (64 + 2112 * n)) := by
  simp only [State.restoreCores, List.range_succ, List.foldl_append, List.foldl_cons, List.foldl_nil]

/-- A restore of the tables changes the cores alone. -/
theorem State.restoreCores_eq : s.restoreCores q bs n = { s with cores := (s.restoreCores q bs n).cores } := by
  induction n with
  | zero => rfl
  | succ n ih =>
    rw [State.restoreCores_succ, ih]
    rfl

theorem State.core_restoreCores (c : Nat) : (s.restoreCores q bs n).core (4 * q + c) =
    if c < n then (s.core (4 * q + c)).restoreTables bs (64 + 2112 * c) else s.core (4 * q + c) := by
  induction n with
  | zero => rfl
  | succ n ih =>
    rw [State.restoreCores_succ, State.core_putCore]
    by_cases h : c = n
    · subst h
      rw [if_pos rfl, ih, if_neg (Nat.lt_irrefl c), if_pos (Nat.lt_succ_self c)]
    · rw [if_neg (by omega), ih]
      exact if_congr (by omega) rfl rfl

theorem savedNames_succ : savedNames bs (n + 1) =
    if (imageName bs n).st = .free then savedNames bs n else FMap.set (savedNames bs n) n (imageName bs n) := by
  simp only [savedNames, List.range_succ, List.foldl_append, List.foldl_cons, List.foldl_nil]

theorem get_savedNames (m : Nat) : FMap.get? (savedNames bs n) m =
    if m < n ∧ (imageName bs m).st ≠ .free then some (imageName bs m) else none := by
  induction n with
  | zero => exact (if_neg (by omega)).symm
  | succ n ih =>
    rw [savedNames_succ]
    by_cases hm : m = n
    · subst hm
      by_cases hf : (imageName bs m).st = .free
      · rw [if_pos hf, ih, if_neg (by omega), if_neg (by simp [hf])]
      · rw [if_neg hf, FMap.get?_set_self, if_pos ⟨by omega, hf⟩]
    · have hset : FMap.get? (FMap.set (savedNames bs n) n (imageName bs n)) m = FMap.get? (savedNames bs n) m := by
        rw [FMap.get?_set, if_neg (Ne.symm hm)]
      rw [apply_ite (FMap.get? · m), hset, ite_self, ih]
      exact if_congr (and_congr (by omega) Iff.rfl) rfl rfl

/-- A restore of the names leaves strands, memory and cores. -/
theorem State.restoreNames_frame : (s.restoreNames q bs).strands = s.strands ∧ (s.restoreNames q bs).mem = s.mem ∧
    ∀ c, (s.restoreNames q bs).core c = s.core c := ⟨rfl, rfl, fun _ => rfl⟩

theorem State.names_restoreNames : ((s.restoreNames q bs).quad q).names = savedNames bs 256 := by
  rw [State.restoreNames, State.quad_putQuad, if_pos rfl]

/-- A restore of a quad leaves strands and memory. -/
theorem State.restoreQuad_frame : (s.restoreQuad q bs).strands = s.strands ∧ (s.restoreQuad q bs).mem = s.mem := by
  obtain ⟨hstr, hmem, -⟩ := (s.restoreCores q bs 4).restoreNames_frame q bs
  rw [State.restoreQuad, hstr, hmem, State.restoreCores_eq]
  exact ⟨rfl, rfl⟩

theorem State.core_restoreQuad {c : Nat} (hc : c < 4) :
    (s.restoreQuad q bs).core (4 * q + c) = (s.core (4 * q + c)).restoreTables bs (64 + 2112 * c) := by
  obtain ⟨-, -, hcore⟩ := (s.restoreCores q bs 4).restoreNames_frame q bs
  rw [State.restoreQuad, hcore, State.core_restoreCores, if_pos hc]

end

/-- The state of a name by its code in a word of an image (R53, R225). -/
def savedState : Nat → NameState
  | 1 => .declared
  | 2 => .defined
  | 3 => .draining
  | _ => .free

theorem stCode_savedState {c : Nat} (h : c < 4) : stCode (savedState c) = c := by
  interval_cases c <;> rfl

theorem savedState_ne_free {c : Nat} (h : c < 4) (h0 : c ≠ 0) : savedState c ≠ .free := by
  interval_cases c <;> simp_all [savedState]

section
variable {bs : List Byte} {n : Nat}

/-- The word of an image that holds a name's tag. -/
def nameWord (bs : List Byte) (n : Nat) : Word64 := savedWord bs (8512 + 4672 * n)

theorem imageName_free (h : savedState (bitsNat (nameWord bs n) 34 32) = .free) : imageName bs n = Name.reset := if_pos h

theorem imageName_used (h : savedState (bitsNat (nameWord bs n) 34 32) ≠ .free) :
    (imageName bs n).st = savedState (bitsNat (nameWord bs n) 34 32) ∧ (imageName bs n).tag = ((nameWord bs n) >>> 35).setWidth 29 ∧
    (imageName bs n).data = (bs.drop (8512 + 4672 * n + 64)).take 4096 ∧ (imageName bs n).side = (bs.drop (8512 + 4672 * n + 4160)).take 512 ∧
    (imageName bs n).queued = if savedWord bs (8512 + 4672 * n + 8) = 0#64 then none
      else some (((savedWord bs (8512 + 4672 * n + 8)) >>> 35).setWidth 29, 0) := by
  rw [show imageName bs n = _ from if_neg h]
  exact ⟨rfl, rfl, rfl, rfl, rfl⟩

theorem imageName_st : (imageName bs n).st = savedState (bitsNat (nameWord bs n) 34 32) := by
  by_cases h : savedState (bitsNat (nameWord bs n) 34 32) = .free
  · rw [imageName_free h, h]
    rfl
  · exact (imageName_used h).1

/-- A quad restored from an image holds the names of the image. -/
theorem State.name_restoreQuad (s : State) (q : Nat) (hn : n < 256) : ((s.restoreQuad q bs).quad q).name n = imageName bs n := by
  rw [Quad.name, State.restoreQuad, State.names_restoreNames, FMap.getD, get_savedNames]
  by_cases h : (imageName bs n).st = .free
  · rw [if_neg (by simp [h]), imageName_free (imageName_st.symm.trans h)]
    rfl
  · rw [if_pos ⟨hn, h⟩]
    rfl

end

/-! ### The statement -/

/-- Settles O45: what each of the four words does once its checks have passed, a save by its pages, a restore by the image read. -/
theorem imagesSaveAndRestore : Obligations.ImagesSaveAndRestore := by
  unfold Obligations.ImagesSaveAndRestore
  intro s t a hr hp q x point kept first
  have hpc : ¬(t.pc : Int) + 4 > pcTop := hr.pc_le
  refine ⟨fun hm => ?user, fun hm => ?supervisor⟩
  case user =>
    have below {i : Instr} {body : Strand → State → Res} (hi : exec i s = runWord { mode := 1 } body s) : Traps i s t 0x02 s.wordTval :=
      hi.trans (runWord_mode hr (.inr hp) (by show t.mode < 1; omega))
    simp only [List.forall_mem_cons, List.not_mem_nil, false_imp_iff, implies_true, and_true]
    exact ⟨below rfl, below rfl, below rfl, below rfl⟩
  case supervisor =>
    have traps {i : Instr} {body : Strand → State → Res} {c : Nat} {v : Word64} (hi : exec i s = runWord { mode := 1 } body s)
        (hb : body t s = .trap c v) : Traps i s t c v := hi.trans (runWord_trap hr (.inr hp) hm hb)
    have holds {i : Instr} {body : Strand → State → Res} {s' : State} (hi : exec i s = runWord { mode := 1 } body s)
        (hb : body t s = .hold s') : Holds i s s' := hi.trans (runWord_hold hr (.inr hp) hm hb)
    have completes {i : Instr} {body : Strand → State → Res} {s' : State} (hi : exec i s = runWord { mode := 1 } body s)
        (hb : body t s = .done s') : Completes i s t s' := hi.trans (runWord_done hr (.inr hp) hm hb)
    have trapsIn {i : Instr} {body : Strand → State → Res} {s' : State} {c : Nat} {v : Word64}
        (hi : exec i s = runWord { mode := 1 } body s) (hb : body t s = .trapIn s' c v) (hs : s'.me = some t) :
        Holds i s (s'.trapMe (t.countWatch (s.watchStep t)) c v) := hi.trans (runWord_trapIn hr (.inr hp) hm hb hs)
    refine ⟨fun e he => traps rfl (mdrainBody_badRange he), fun va s' ts hchk hlook => ?mdrain,
      fun e he => traps rfl (vsaveBody_badRange he), fun va s' ts hchk hlook => ?vsave,
      fun va hva halign haperture hin hpage hcore hw hpoint hv hbuf ht halone hwf => ?pool,
      fun e he => traps rfl (vrestBody_badRange he), fun va s' bs hchk hread => ?vrest, fun hd => ?mrest⟩
    case mdrain =>
      refine ⟨fun hd hme => holds rfl (mdrainBody_taken hchk hlook hd hme), fun hd => ?_⟩
      intro s1
      refine ⟨fun h => holds rfl (mdrainBody_waits hpc hchk hlook hd h), fun hops hbuf => ?_⟩
      intro s2 s3 off hwrite
      have hb := mdrainBody_writes hpc hchk hlook hd hops hbuf
      exact ⟨fun h => completes rfl (hb.trans (afterPage_last hwrite h)), fun h => holds rfl (hb.trans (afterPage_next hwrite h))⟩
    case vsave =>
      refine ⟨fun h => holds rfl (vsaveBody_waits hchk hlook h), fun hv hbuf s3 off hwrite => ?_⟩
      have hb := vsaveBody_writes hpc hchk hlook hv hbuf
      exact ⟨fun h => completes rfl (hb.trans (afterPage_last hwrite h)), fun h => holds rfl (hb.trans (afterPage_next hwrite h))⟩
    case pool =>
      intro k
      have hchk : imageChecks (t.g a) 2240 64 3 t = .ok va := imageChecks_ok hva hin (by omega) halign hw
      have hpool : InPool s t va := ⟨(inAperture_iff va).2 haperture, hcore⟩
      have hwrote : s.WroteTo k t.vectorImage t.vectorImage.length (s.partyStore (t.atImage 0) va (t.poolAt va) t.vectorImage) :=
        State.partyStore_wroteTo hwf
      obtain ⟨hcur, hstr, hread⟩ := hwrote.whole
      rw [Strand.vectorImage_length] at hread
      exact ⟨_, completes rfl (vsaveBody_pool hpc hchk hpool hpage hpoint hv hbuf ht halone), hcur, hstr, hread⟩
    case vrest =>
      obtain ⟨hpc', hsys, hg, hh⟩ := t.restoreVector_frame bs
      exact ⟨t.restoreVector bs, completes rfl (vrestBody_reads hchk hread), hpc', hsys, hg, hh,
        fun i hi => t.restoreVector_v bs hi, fun i hi => t.restoreVector_k bs hi, rfl, rfl, rfl⟩
    case mrest =>
      refine ⟨fun n m h => traps rfl (mrestBody_named hd h), fun hnames =>
        ⟨fun h => traps rfl (mrestBody_busy hd hnames h), fun hops va s' bs hchk hread => ?_⟩⟩
      have hb : mrestBody a t s = mrestTaken q s' bs := mrestBody_takes hd hnames hops hchk hread
      intro w ok
      refine ⟨fun hw hs => trapsIn rfl (hb.trans (mrestTaken_badVersion hw)) hs,
        fun hw hs n hn hbad hok => trapsIn rfl (hb.trans (mrestTaken_badName hw hn hbad hok)) hs, fun hw hok => ?_⟩
      obtain ⟨hstr, hmem⟩ := s'.restoreQuad_frame q bs
      refine ⟨s'.restoreQuad q bs, completes rfl (hb.trans (mrestTaken_restores hw hok)), hstr, hmem, fun n hn => ?names,
        fun c hc => ?tables, fun c hc => ?tblsel⟩
      case names =>
        intro k m
        have hm' : m = imageName bs n := s'.name_restoreQuad q hn
        obtain ⟨-, hst⟩ := hok n hn k (List.mem_cons_self ..)
        refine ⟨hm', ?_, fun h0 => ?_⟩
        · rw [hm', imageName_st]
          exact stCode_savedState hst
        · obtain ⟨-, htag, hdata, hside, hqueued⟩ := imageName_used (savedState_ne_free hst h0)
          rw [hm', htag, hdata, hside, hqueued]
          exact ⟨rfl, rfl, rfl, Option.isSome_ite'⟩
      case tables =>
        rw [s'.core_restoreQuad q bs hc]
        simp only [List.forall_mem_cons, List.not_mem_nil, false_imp_iff, implies_true, and_true]
        have ha : 64 + 2112 * c + 64 = 2112 * c + 128 := by omega
        have hb : 64 + 2112 * c + 1088 = 2112 * c + 1152 := by omega
        exact ⟨ha ▸ lutEntries_drop bs (64 + 2112 * c + 64) 256, hb ▸ lutEntries_drop bs (64 + 2112 * c + 1088) 256⟩
      case tblsel =>
        rw [s'.core_restoreQuad q bs hc]
        rfl

end Sys2Proof.Machine
end
